-- ==== Sys2Proof/Word.lean ====
section
/-! DEFINITION. The plain words of the machine: bytes, register words, keyed lists and memories. -/

namespace Sys2Proof

/-- A byte of any memory. -/
abbrev Byte := BitVec 8

/-- A 32-bit register word of BAR0 space. -/
abbrev Word := BitVec 32

/-- A string of bytes, lowest address first. -/
abbrev Bytes := List Byte

/-- Sparse data by key, keys strictly rising. -/
abbrev NMap (β : Type) := List (Nat × β)

/-- A memory: the bytes that differ from what an unlisted address reads as. -/
abbrev Mem := List Host.Cell

end Sys2Proof
end

