-- ==== Sys2Proof/Types.lean ====
section
/-! DEFINITION. The data that commands carry and the state holds: requesters, links, messages, descriptors. -/

namespace Sys2Proof

/-! ## Requesters and fabric time (02, 03) -/

/-- Who makes a register access, rings a doorbell or sends a command message (R49): a PCIe requester ID on a host port half, a QST
queue pair, or the management path. -/
inductive Req where
  | host (half : Fin 4) (rid : BitVec 16)
  | qp (n : BitVec 20)
  | mgmt
  deriving DecidableEq, Repr

/-- A link that carries fabric time and traffic: a board link BL0-BL5 or a fabric port FP0-FP7. -/
inductive Link where
  | bl (i : Fin 6)
  | fp (i : Fin 8)
  deriving DecidableEq, Repr

/-- The five time states of R45. -/
inductive TimeState where
  | acquire | locked | holdover | free | stepping
  deriving DecidableEq, Repr

/-- The key a node stands for grandmaster with: clock class, then PRIO, then node ID; the lower key wins at each stage (02, Grandmaster
election). -/
structure GmKey where
  cls : Nat
  prio : Nat
  node : Nat
  deriving DecidableEq, Repr

/-- An announce (R34): the grandmaster's key, its period, a pending switch point (new period, fabric time), the hop count. -/
structure Announce where
  key : GmKey
  period : Nat
  switch : Option (Nat × Nat)
  hops : Nat
  deriving DecidableEq, Repr

/-- A timestamped sync word exchange (R37): the measured offset (upstream time minus own time, in units), the upstream's U and the
node's own measurement uncertainty. -/
structure SyncMeas where
  offset : Int
  upU : Nat
  ownU : Nat
  deriving DecidableEq, Repr

/-! ## Command rings (03) -/

/-- What a `CMD_SUBMIT` message spells (R65): ring, count of its first entry, entries of 64 bytes. -/
structure SubmitMsg where
  ring : Nat
  first : Nat
  entries : List (List (BitVec 8))
  deriving DecidableEq, Repr

/-! ## Sequences and pages (04) -/

/-- One head's stored row of keys or values: element encodings and scale bytes (R79). -/
structure HeadRow where
  elems : List Nat
  scales : List Nat
  deriving DecidableEq, Repr

/-- The stored form of one position of one head group: a row for each head, keys and values (R101). -/
structure KvRow where
  k : List HeadRow
  v : List HeadRow
  deriving DecidableEq, Repr

/-- The stored form of appended rows, forwarded by the home node to the tail holder (R101): the rows of one group that fall in one page.
`filled` positions are compared and not rewritten (R102). -/
structure FwdAppend where
  home : Nat
  handle : Nat
  seq : Nat
  layer : Nat
  group : Nat
  /-- Local page index of the target page. -/
  page : Nat
  /-- First position of the rows, and the layer's filled length. -/
  first : Nat
  filled : Nat
  kf : Nat
  vf : Nat
  heads : Nat
  dim : Nat
  rows : List KvRow
  /-- The page is shared and is copied first, into the page named here (R98). -/
  shared : Bool
  copyTo : Nat
  /-- The sequence is protected (R356); the rows belong to a step, whose share here waits for them (R14). -/
  prot : Bool
  step : Bool
  /-- log2 of pages per granule, for the placement of a new page (R200). -/
  granule : Nat
  deriving DecidableEq, Repr

/-- How another holder answers forwarded rows: the comparison of R102 for the positions it stores, the poison a write would meet (R224), or that its slice has no
quota for the page (R87). -/
inductive PeerCmp where
  | ok
  | differs
  | poison (owner : Bool) (fpn : Nat)
  | noQuota
  deriving DecidableEq, Repr

/-- A page as it moves between nodes: its bytes, and its poisoned lines as (offset, kind) (R225). -/
structure PageData where
  bytes : List (BitVec 8)
  poison : List (Nat × Nat)
  deriving DecidableEq, Repr

/-- What the world answers while a command appends or copies. -/
structure PeerAns where
  /-- The answer of the other holders to the rows forwarded to them. -/
  cmp : PeerCmp
  /-- The pages they have allocated so far, as local page indices in order (R102, R103). -/
  pages : List Nat
  /-- Their slices have the unreserved quota for what is asked of them (R87, R103). -/
  quota : Bool
  /-- The pages read from other nodes, in order (R97, R98, R103). -/
  data : List PageData
  /-- Lines of this node in error that the command's reads meet, with their lanes (R221). -/
  errs : List (Nat × List Nat)
  /-- The page, by FPN, at which a scale's tag does not match while its positions are compared (R151). -/
  skew : Option Nat
  deriving DecidableEq, Repr

/-- A page list: header and body (R83). A body of SRC_KIND 1 lies in host-reachable terrace 1 and is read and written there. One that node firmware built lies in
node-private terrace 1, where nothing else reads or writes: `entries` holds it. DESIGN CHOICE, safe: log entry 53. -/
structure PList where
  version : Nat
  length : Nat
  capacity : Nat
  generation : Nat
  /-- BODY: the terrace-1 byte address of the body. -/
  body : Nat
  posBase : Nat
  inPlace : Bool
  /-- FPNs of a node-private body, entry 0 first; none for a body in host-reachable memory. -/
  entries : List Nat
  /-- Positions filled in this layer and group (R92). -/
  filled : Nat
  deriving DecidableEq, Repr

/-- An open sequence on its home node (R78, R85). -/
structure Seqn where
  id : Nat
  sealed : Bool
  prot : Bool
  region : Bool
  twoPass : Bool
  granule : Nat
  kf : Nat
  vf : Nat
  heads : Nat
  dim : Nat
  layers : Nat
  groups : Nat
  rope : Nat
  rotDims : Nat
  maxLen : Nat
  ropeAddr : Nat
  ropeLen : Nat
  /-- Sequences whose pages it may share: its `SEQ_FORK` parent and that one's own (R97). -/
  parents : List Nat
  /-- Bytes 24 to 63 of the `SEQ_OPEN` that opened it (R88). -/
  openBody : Bytes
  /-- Frames reserved on the home slice and not yet drawn (R87). -/
  reserved : Nat
  /-- Page lists, by layer * groups + group. -/
  lists : NMap PList
  /-- Default hints of later pages, by layer * groups + group: BIAS and LOWEST (R214). -/
  hints : NMap (Int × Nat)
  /-- Base and delta digests of the weight set last used by `ATTEND_BLOCK` on the sequence, empty for none (R378). -/
  digests : Bytes
  /-- Pages made by `COPY_PAGES` on other nodes and not yet in a body (R103). -/
  extra : List Nat
  deriving DecidableEq, Repr

/-! ## Attention (05) -/

/-- A prepared query row of one query head (R112). -/
structure QRow where
  elems : List Nat
  scales : List Nat
  deriving DecidableEq, Repr

/-- One granule item of a launch descriptor: head group, granule, and its pages as (page number, FPN) in ascending order (R446). -/
structure ItemDesc where
  group : Nat
  granule : Nat
  pages : List (Nat × Nat)
  deriving DecidableEq, Repr

/-- How node firmware plans one granule item (R17, R29, R126): on the bank-side path or not, and its slice in ticks after the launch. -/
structure ItemPlan where
  group : Nat
  granule : Nat
  bank : Bool
  slice : Nat
  deriving DecidableEq, Repr

/-- A page of a split granule as its holder sends it (R446): contents, poisoned lines as (offset, kind), and the sequence and format its page-table entry
names, absent when the holder holds no such page. -/
structure SplitPage where
  fpn : Nat
  data : List (BitVec 8)
  poison : List (Nat × Nat)
  seq : Option Nat
  deriving DecidableEq, Repr

/-- A launch descriptor (R14, R89, R112, R116, R134): everything a holder needs to compute its share of a step. -/
structure Desc where
  /-- REQ_TAG: home node and command handle (R132). -/
  home : Nat
  handle : Nat
  holder : Nat
  launch : Nat
  deadline : Nat
  seq : Nat
  layer : Nat
  sealed : Bool
  twoPass : Bool
  kf : Nat
  vf : Nat
  heads : Nat
  dim : Nat
  groups : Nat
  qpk : Nat
  rows : Nat
  pos : Nat
  kend : Nat
  ng : Nat
  /-- log2 of pages per granule. -/
  granule : Nat
  mask : Nat
  winWidth : Nat
  winOff : Nat
  /-- POS_BASE of each head group (R113). -/
  posBase : List Nat
  /-- Bitmap blocks by granule (R115). -/
  bitmap : List (Nat × List (BitVec 8))
  queries : List QRow
  confluence : Nat
  items : List ItemDesc
  /-- Tree nodes the holder sends, as (group, level, index) (R134). -/
  sendSet : List (Nat × Nat × Nat)
  /-- Pages this holder sends to another node's item: (FPN, computing node) (R446). -/
  foreign : List (Nat × Nat)
  /-- Positions appended by the step on pages of this holder: it waits for that many forwarded rows (R14). -/
  waitRows : Nat
  /-- The map epoch it was built under (R347). -/
  epoch : Nat
  /-- The sequences that the step's sequence shares pages with by `SEQ_FORK` (R97, R127). -/
  parents : List Nat
  deriving DecidableEq, Repr

/-- A confluence chain as its home node posts it (R133, R136, R141): send units as (group, level, index, holder, messages). -/
structure ChainPost where
  home : Nat
  handle : Nat
  deadline : Nat
  sealed : Bool
  dim : Nat
  heads : Nat
  groups : Nat
  qpk : Nat
  rows : Nat
  pos : Nat
  kend : Nat
  ng : Nat
  granule : Nat
  mask : Nat
  winWidth : Nat
  winOff : Nat
  posBase : List Nat
  outForm : Nat
  units : List (Nat × Nat × Nat × Nat × Nat)
  /-- Record strides reserved (R136). -/
  hold : Nat
  deriving DecidableEq, Repr

/-- What a home node sends while it builds a step's descriptors: a holder's descriptor, or the chain of a confluence node. -/
inductive LaunchMsg where
  | desc (d : Desc)
  | chain (c : ChainPost)
  deriving DecidableEq, Repr

/-- The result message of a confluence node (R141): status, failing FPN, missing items as (group, granule), the output bytes, the result hash, whether a
holder has launched late (R61), whether a granule ran bank-side and whether any ran (R109). -/
structure ResultMsg where
  home : Nat
  handle : Nat
  status : Nat
  fpn : Nat
  missing : List (Nat × Nat)
  output : List (BitVec 8)
  resultHash : List (BitVec 8)
  late : Bool
  bank : Bool
  ran : Bool
  deriving DecidableEq, Repr

/-! ## Movers (09) -/

/-- What a mover copies: a page by its local index, or a stored weight block: weight set, layer, place in the layer's stream. -/
inductive MoveWhat where
  | page (idx : Nat)
  | block (wset layer k : Nat)
  deriving DecidableEq, Repr

/-! ## Expanders (11) -/

/-- What an expander meets at a block: whether the stored copy it reads and its base's are damaged, whether a scale tag does not match (R151), the terrace-1 lines in error of
a tiles window by address with their lanes; and for a tiles window the cluster it serves and the tiles that cluster's engines have taken since (R253). -/
structure ExpandIn where
  bad : Bool
  badBase : Bool
  skew : Bool
  errs : List (Nat × List Nat)
  cluster : Fin 32
  drained : Nat
  deriving DecidableEq, Repr

/-! ## Slices (02) -/

/-- What overruns its slice (R29): a granule item, a mover, an expander. -/
inductive SliceUnit where
  | item (home : BitVec 13) (handle : Word) (group granule : Nat)
  | mover (m : Fin 8)
  | expander (ex : Fin 8)
  deriving DecidableEq, Repr

/-! ## SRAM faults (10) -/

/-- What a read or write of an SRAM meets (R229, R231): a corrected word, an uncorrectable one (array, word), a write collision (array, word, both ports). -/
inductive SramFault where
  | corrected
  | uncorr (array word : Nat)
  | collide (array word p q : Nat) (pv qv : BitVec 64)
  /-- An entry of the unit's scale queue bears another page's or block's tag than the data it is paired with (R151). -/
  | skew
  deriving DecidableEq, Repr

/-- What a burst of board memory holds, where the scrub reads it (R226): a line of the direct partition by its byte offset, a line of a cached terrace-3 sector
by its terrace-3 byte address, or neither (`fresh`: written whole since the scrub last read it). -/
inductive Burst where
  | direct (off : Nat)
  | cache (addr : Nat)
  | other (fresh : Bool)
  deriving DecidableEq, Repr

/-- The protection information of a flash sector in the 64-bit guard format (R228). -/
structure FlashPi where
  guard : Nat
  ref : Nat
  app : Nat
  deriving DecidableEq, Repr

/-! ## Transport (14) -/

/-- A QST packet in clear: the header of R300, the payload, and whether its IPv6 ECN field reads CE. -/
structure Seg where
  op : Nat
  tagged : Bool
  ackNow : Bool
  path : Nat
  try_ : Nat
  dstQp : Nat
  srcQp : Nat
  srcNode : Nat
  keyId : Nat
  seq : Nat
  off : Nat
  len : Nat
  rkey : Nat
  raddr : Nat
  tag : Nat
  ts : Nat
  pmem : Nat
  pown : Nat
  payload : List (BitVec 8)
  ce : Bool
  deriving DecidableEq, Repr

/-- What a sender sends next: the next segment of a queue pair; or a message that the node's own firmware or hot path hands to its CFL (2) or NODE (3) queue pair
toward a peer, with the peer's QP number, the traffic class, the bytes and the trigger tag. -/
inductive SendSrc where
  /-- The next segment of a queue pair; lines of this node that its read meets in error, with their lanes (R221). -/
  | qp (n : Nat) (errs : List (Nat × List Nat))
  | node (typ peer peerQp cls : Nat) (data : List (BitVec 8)) (tag : Option Nat)
  deriving DecidableEq, Repr

/-- Frames that are no QST packet for this node (R295, R297, R298). -/
inductive BadFrame where
  | pause | tooLong | tooBig | checksum | extension | otherDst | other
  deriving DecidableEq, Repr

/-- A frame of a board link received whole (R323): a QST segment, a link acknowledgement, a credit return; each with its sequence number, channel and credits. -/
inductive QblBody where
  | qst (s : Seg)
  | ack (lseq : Nat)
  | credit
  deriving DecidableEq, Repr

/-! ## The fabric map (16) -/

/-- The fields of a slice (R339, R350). -/
structure SliceF where
  comp : Nat
  node : Nat
  clusters : Nat
  pchg : Nat
  qpFirst : Nat
  qpSets : Nat
  share : Nat
  quota : Nat
  deriving DecidableEq, Repr

/-- A node entry of the map (R349); KEEPER is derived from the header. -/
structure MapNode where
  state : Nat
  suspect : Bool
  eligible : Bool
  offtime : Bool
  spare : Bool
  group : Nat
  gindex : Nat
  successor : Nat
  since : Nat
  tenant : Nat
  deriving DecidableEq, Repr

/-- A protection group (R356): member nodes by index, units per member, GSTATE. -/
structure Group where
  members : List Nat
  units : Nat
  gstate : Nat
  deriving DecidableEq, Repr

/-- A composition entry; its slices stand in the map's list. -/
structure CompEnt where
  tenant : Nat
  since : Nat
  deriving DecidableEq, Repr

/-- The fabric map (R349). -/
structure FMap where
  epoch : Nat
  domain : Nat
  nodes : NMap MapNode
  comps : NMap CompEnt
  slices : List SliceF
  groups : NMap Group
  keepers : List Nat
  period : Nat
  /-- The coordinator that committed the epoch. -/
  coord : Nat
  deriving DecidableEq, Repr

/-- A change of the map (R348, R350, R351, R352, R359, R361). Each carries what its proposer names. -/
inductive Change where
  /-- KIND 1: byte 4 of the record; 1 stands for a node's own request to join as JOINING (R353, R423). -/
  | nodeState (node : Nat) (to_ : Nat)
  /-- KIND 2. -/
  | keepers (k : Nat) (ids : List Nat)
  /-- KIND 3: form. -/
  | groupForm (group : Nat) (members : List Nat) (units : Nat)
  /-- KIND 3: dissolve. -/
  | groupDissolve (group : Nat)
  /-- KIND 4. -/
  | period (p : Nat)
  /-- `SLICE_GRANT`: OP and the slice's fields. -/
  | slice (op : Nat) (s : SliceF)
  /-- `DRAIN`: start, cancel, and its end. -/
  | drainStart (node : Nat) (successor : Nat)
  | drainCancel (node : Nat)
  | drainDone (node : Nat) (pages : Nat) (seqs : Nat)
  /-- A node's reported flags: 0 SUSPECT, 1 ELIGIBLE, 3 OFFTIME, 4 SPARE. -/
  | flag (node : Nat) (bit : Nat) (v : Bool)
  /-- All homes of a group have reported (R359). -/
  | groupWhole (group : Nat)
  /-- `TENANT_OPEN` and `TENANT_CLOSE` change the tenant a node's entry shows; with FORCE its slices are revoked (R384). -/
  | tenant (node : Nat) (tenant : Nat)
  | revokeAll (node : Nat)
  deriving DecidableEq, Repr

/-- Changes proposed together (R348): the node and command they come from, BASE_EPOCH, and the last tick in which they may be included. -/
structure Proposal where
  home : Nat
  handle : Nat
  base : Nat
  expire : Option Nat
  changes : List Change
  deriving DecidableEq, Repr

/-- An epoch accepted and not seen committed, with its ballot (R344). -/
structure Accepted where
  ballot : Nat
  epoch : Nat
  props : List Proposal
  deriving DecidableEq, Repr

/-- A promise or a refusal to promise (R344). -/
structure Promise where
  node : Nat
  ballot : Nat
  committed : Nat
  accepted : Option Accepted
  deriving DecidableEq, Repr

/-- A COMMIT (R344): epoch, the changes, the coordinator that sent it, the digest of the map it gives. -/
structure CommitMsg where
  epoch : Nat
  props : List Proposal
  coord : Nat
  digest : List (BitVec 8)
  deriving DecidableEq, Repr

/-- A parity update (R358): the data holder, the request it serves, the stripe, the index of the data unit in the stripe, the byte offset in the unit, and old
XOR new. -/
structure ParityMsg where
  sender : Nat
  home : Nat
  handle : Nat
  group : Nat
  stripe : Nat
  j : Nat
  off : Nat
  delta : List (BitVec 8)
  deriving DecidableEq, Repr

/-- A page as it moves to another node (R351, R359): its new local index, owner, place and format, how many positions are filled, its first
protected unit, its contents. -/
structure MovedPage where
  idx : Nat
  seq : Nat
  home : Nat
  place : Option (Nat × Nat × Nat)
  kf : Nat
  vf : Nat
  heads : Nat
  dim : Nat
  fill : Nat
  charged : Bool
  unit : Option Nat
  data : List (BitVec 8)
  /-- Its poisoned lines, as (offset, kind) (R225). -/
  poison : List (Nat × Nat)
  deriving DecidableEq, Repr

/-- What happens in a drain (R351): the command; the draining node moves what it can; a home learns that a page has a new name; the successor receives a sequence
or pages. -/
inductive DrainEv where
  | command (h : Nat)
  | goOn
  | pageMoved (old new : Nat)
  | arrive (s : Option Seqn) (pages : List MovedPage)
  deriving DecidableEq, Repr

/-- Changes reach the coordinator, or it proposes those gathered (R345). -/
inductive ProposalEv where
  | arrive (p : Proposal)
  | propose
  deriving DecidableEq, Repr

/-- A keeper becomes coordinator and sends PREPARE, or receives one (R344). -/
inductive PrepareEv where
  | begin_
  | receive (ballot : Nat)
  deriving DecidableEq, Repr

/-- A node asks for missing epochs, a keeper is asked for them, or they arrive (R345). -/
inductive FetchEv where
  | ask
  | asked (node from_ : Nat)
  | got (l : List CommitMsg)
  deriving DecidableEq, Repr

/-- A node sends its liveness report, or a keeper receives one (R352). -/
inductive LivenessEv where
  | send
  | receive (node : Nat)
  deriving DecidableEq, Repr

/-- A keeper's loss window ends, or the coordinator is told of it (R352). -/
inductive LossEv where
  | expire (node : Nat)
  | told (keeper lost : Nat)
  deriving DecidableEq, Repr

/-- A surviving unit of a stripe (R357): the index that holds it, its 4,096 bytes, its poisoned lines by (line, kind). -/
structure Survivor where
  index : Nat
  data : List (BitVec 8)
  poison : List (Nat × Nat)
  deriving DecidableEq, Repr

/-- The end of a rebuild (R359): on the successor, with the sequences and pages that the rebuilt contexts name; on a home, which swaps names of the lost node's pages;
on the coordinator, which a home's report reaches. -/
inductive RebuildEv where
  | done (lost : Nat) (seqs : List Seqn) (pages : List MovedPage)
  | swap (lost successor : Nat)
  | report (group node : Nat)
  deriving DecidableEq, Repr

/-! ## Security core (17) -/

/-- A slot operation of `SEC_KEY_CMD` and its later effect (R371): a write naming a slot, or the tick boundary it waited for. -/
inductive KeyEv where
  | write (slot : Nat) (src : Req)
  | boundary
  deriving DecidableEq, Repr

/-- An SPDM response (R369); its message layout is the SPDM standard's. -/
inductive SpdmResp where
  | version
  | capabilities
  | algorithms
  /-- SHA-384 of the certificate chains of slots 0 and 1. -/
  | digests (l : List (List (BitVec 8)))
  | certificate (slot : Nat) (portion : List (BitVec 8)) (remainder : Nat)
  | challengeAuth (slot : Nat) (chain : List (BitVec 8)) (nonce : Nat) (sig : List (BitVec 8))
  /-- Blocks as (index, digest), and a signature where one was asked. -/
  | measurements (blocks : List (Nat × List (BitVec 8))) (nonce : Nat) (sig : Option (List (BitVec 8)))
  /-- The request is out of order or names what the node does not hold. -/
  | error
  deriving DecidableEq, Repr

/-! ## Power (18) -/

/-- The points of a halt (R400): work ends, the dies and memories go down, the record is written and HALT_N asserted. -/
inductive HaltEv where
  | settle | dark | record
  deriving DecidableEq, Repr

/-! ## Start-up (19) -/

/-- A memory device as its identity memory describes it (R414): channel or slot, capacity in bytes, speed in MT/s (0 for flash), the reason it is rejected for. -/
structure Found where
  dev : Nat
  cap : Nat
  speed : Nat
  reject : Option Nat
  deriving DecidableEq, Repr

/-- The contents of the boot flash as the board controller writes them while reset is held (R421): configuration copies and image slots. -/
structure Flash where
  cfg : NMap Bytes
  images : NMap Bytes
  deriving DecidableEq, Repr

/-- What a start-up phase finds (R422): the regulator EEPROM's addresses and rated current, absent without a valid one; devices and the MEDIA of each fabric port;
stacks (class 0), DDR5 channels (5) and flash ports (2) that have trained; the map, where a grandmaster has answered. -/
inductive BootWork where
  | rom
  | reg (eeprom : Option (List Nat × Nat))
  | ident (dimms flash : List Found) (media : List (Nat × Nat))
  | train (done : List (Nat × Nat))
  | fw
  | test
  | zero
  | time
  | map (m : Option FMap)
  deriving DecidableEq, Repr

/-! ## Service (20) -/

/-- A recalibration (R427): the command; the unit stops at a tick boundary; it is back. -/
inductive RecalEv where
  | command (h : Nat)
  | stop
  | back (unit : Nat)
  deriving DecidableEq, Repr

/-- One line of a tick capture (R444): tick, report notch, late flag, launches, shed step, power state, and whether the report's stamp is ambiguous (R42). -/
structure TickLine where
  tick : Nat
  notch : Option Nat
  late : Bool
  launches : Nat
  step : Nat
  nstate : Nat
  ambig : Bool
  deriving DecidableEq, Repr

/-- One line of `stacks` (R444): stack, pseudo-channels in service, temperature, CE and UE since the last dump, retired channels. -/
structure StackLine where
  stack : Nat
  pchs : Nat
  temp : Nat
  ce : Nat
  ue : Nat
  retired : List Nat
  deriving DecidableEq, Repr

/-- What the monitor prints (R444); its text is left out. DESIGN CHOICE, safe: log entry 32. -/
inductive MonReply where
  | words (l : List Nat)
  | records (l : List (List (BitVec 8)))
  | ticks (l : List TickLine)
  | stacks (l : List StackLine)
  | commands
  | done
  | err
  deriving DecidableEq, Repr

end Sys2Proof
end

