-- ==== Sys2Proof/Syntax.lean ====
section
/-! DEFINITION. The commands of the node: one constructor for each row of the command table. An operand `h` is the handle of an accepted command; other operands are what the
command carries, or what the outside world answers while it runs. -/

namespace Sys2Proof

/-- A command. -/
inductive Instr where
  /-- `CMD_SQ_DB` (R58): A write of a submission ring doorbell makes entries visible; the front end reads them and answers each with an acceptance word. -/
  | cmdSqDb (ring : BitVec 8) (tail : Word) (src : Req)
  /-- `CMD_CQ_DB` (R58): A completion doorbell write releases consumed completion entries or is ignored and counted as BAD or FOREIGN. -/
  | cmdCqDb (ring : BitVec 8) (head : Word) (src : Req)
  /-- `CMD_SUBMIT` (R66): A remote command message is taken as a doorbell in FIRST order, held until gaps fill, and answered with CMD_ACCEPT. `b` is the message, in the layout of R65. -/
  | cmdSubmit (b : Bytes) (qp : BitVec 20)
  /-- `CMD_CQ_HEAD` (R67): A remote completion head message releases entries of a remote completion ring. `b` is the message, in the layout of R65. -/
  | cmdCqHead (b : Bytes) (qp : BitVec 20)
  /-- `CQ_INTR_DELAY` (R64): The DELAY count after the first unsignalled completion expires and the ring's MSI-X vector is raised. -/
  | cqIntrDelay (ring : BitVec 8)
  /-- `CMD_ADMIN_CFG_WRITE` (R49): A write setting or clearing EN enables ring pair 0 bound to the writing requester, or disables it. -/
  | cmdAdminCfgWrite (v : Word) (src : Req)
  /-- `NOP` (R69): NOP completes with ST_OK once commands ahead of it allow. -/
  | nop (h : Word)
  /-- `QUERY_CAPS` (R76): QUERY_CAPS writes the 128-byte capability structure to host memory. -/
  | queryCaps (h : Word)
  /-- `RING_CFG` (R74): RING_CFG enables or disables a submission or completion ring after the checks of R75. -/
  | ringCfg (h : Word)
  /-- `RING_DISABLE_DRAIN` (R75): A disabling RING_CFG completes once every command accepted on the ring has posted its completion. -/
  | ringDisableDrain (h : Word)
  /-- `SEQ_OPEN` (R85): SEQ_OPEN opens a region or paged sequence, reserving quota and building bodies. -/
  | seqOpen (h : Word)
  /-- `SEQ_CLOSE` (R99): SEQ_CLOSE releases bodies, page references and reservation after earlier commands complete. -/
  | seqClose (h : Word)
  /-- `SEQ_EXTEND` (R95): SEQ_EXTEND raises the maximum length, may change a relaxed granule, and converts region sequences to paged. -/
  | seqExtend (h : Word)
  /-- `PAGELIST_SWAP` (R93): PAGELIST_SWAP installs a checked new body after earlier snapshots and appends, incrementing GENERATION. -/
  | pagelistSwap (h : Word)
  /-- `SEQ_FORK` (R97): SEQ_FORK creates a child sequence sharing the parent's pages below FORK_LEN. -/
  | seqFork (h : Word) (peer : PeerAns)
  /-- `APPEND_KV` (R102): APPEND_KV rotates, converts and idempotently appends positions to a layer. -/
  | appendKv (h : Word) (peer : PeerAns)
  /-- `APPEND_POSITION_WAIT_END` (R73): An append or attention command waiting for earlier positions proceeds when they are filled or completes with ST_DEADLINE at its bound. -/
  | appendPositionWaitEnd (h : Word) (peer : PeerAns)
  /-- `FORWARDED_APPEND` (R101): The tail holder receives the stored form of appended rows from the home node and writes them into the tail page. -/
  | forwardedAppend (m : FwdAppend)
  /-- `COPY_PAGES` (R103): COPY_PAGES allocates and fills new pages on DST_NODE and writes their FPNs. -/
  | copyPages (h : Word) (peer : PeerAns)
  /-- `COPY_PAGES_TIMEOUT` (R103): Pages not all allocated by the end of tick A + DEADLINE_DEF are freed and the command completes with ST_DEADLINE. -/
  | copyPagesTimeout (h : Word)
  /-- `LIST_INPLACE_WRITE` (R90): A write to a marked host-reachable body line increments VERSION before it is visible and records EV_LIST_INPLACE. -/
  | listInplaceWrite (a : BitVec 64) (b : Bytes)
  /-- `ATTEND` (R104): ATTEND appends one row and attends over all positions up to it. -/
  | attend (h : Word)
  /-- `PREFILL` (R104): PREFILL appends COUNT rows and attends each over its visible keys. -/
  | prefill (h : Word)
  /-- `ATTEND_BLOCK` (R110): ATTEND_BLOCK runs normalisation, projections, attention, output projection and residual add for one layer. -/
  | attendBlock (h : Word)
  /-- `ATTEND_BLOCK_STAGE_START` (R19): A stage of ATTEND_BLOCK starts at its tick boundary, or stalls to the next tick counting WEIGHT_MISS when its weights are absent. -/
  | attendBlockStageStart (h : Word) (errs : List (Nat × List Nat))
  /-- `LAUNCH_DESCRIPTOR_BUILD` (R89): The home node applies the append, snapshots the page list, prepares queries, reads bitmaps, posts chains and sends launch descriptors. -/
  | launchDescriptorBuild (h : Word) (peer : PeerAns) (grants : List Nat)
  /-- `HOLD_RESERVATION_RETRY` (R137): At each notch boundary outside the saddle the home node retries the confluence hold reservation, completing with ST_DEADLINE at notch 48 of the deadline tick. -/
  | holdReservationRetry (h : Word) (grants : List Nat)
  /-- `LAUNCH_DESCRIPTOR_RECEIVE` (R14): A holder receives a step's launch descriptor and, for split granules, sends named pages to the computing holder. -/
  | launchDescriptorReceive (m : LaunchMsg) (plan : List ItemPlan)
  /-- `SPLIT_GRANULE_PAGES_RECEIVE` (R446): The computing holder receives another node's pages of a split granule and checks them. -/
  | splitGranulePagesReceive (home : BitVec 13) (handle : Word) (pages : List SplitPage)
  /-- `LAUNCH` (R14): A holder launches its share at T+0.00 or at the first notch boundary after descriptor and append are present, counting LATE_LAUNCH when late. -/
  | launch (home : BitVec 13) (handle : Word)
  /-- `ITEM_TAKE` (R124): An idle cluster takes the oldest eligible granule item from its die queue or steals from another die's queue. -/
  | itemTake (cs : List (Fin 32))
  /-- `SLICE_START` (R29): A planned slice starts at notch 0 of its tick, or after an overrunning slice ends. -/
  | sliceStart (home : BitVec 13) (handle : Word) (group : Nat) (granule : Nat)
  /-- `SLICE_OVERRUN` (R29): A slice still running at notch 62 runs on or pauses and counts SLICE_OVERRUN. -/
  | sliceOverrun (u : SliceUnit)
  /-- `GRANULE_ITEM_END` (R118): A cluster finishes a granule item and the holder sends its partial messages or error report. -/
  | granuleItemEnd (home : BitVec 13) (handle : Word) (group : Nat) (granule : Nat) (errs : List (Nat × List Nat)) (sram : List SramFault) (page : Nat)
  /-- `PARTIAL_MESSAGE_RECEIVE` (R138): The confluence engine merges, promotes or holds each record of an arriving partial message and counts it toward the chain. -/
  | partialMessageReceive (b : Bytes) (late : Bool) (bank : Bool) (sram : List SramFault)
  /-- `CONFLUENCE_CHAIN_FIRE` (R141): When the message count reaches its threshold and every root is present, the request finalises and the result message is sent. -/
  | confluenceChainFire (home : BitVec 13) (handle : Word)
  /-- `CUT` (R144): At notch 48 of the deadline tick the request finalises with the outcome of R144 and unfinished items are abandoned. -/
  | cut (home : BitVec 13) (handle : Word)
  /-- `RESULT_MESSAGE_RECEIVE` (R141): The home node's return chain writes the output and posts the completion. -/
  | resultMessageReceive (m : ResultMsg)
  /-- `HOME_WATCHDOG_EXPIRY` (R146): At notch 62 of the deadline tick without a result the home node completes the command with ST_STATE_LOST. -/
  | homeWatchdogExpiry (h : Word)
  /-- `MERGE` (R147): MERGE merges host-supplied partial records by the canonical tree and writes one output per pair. -/
  | merge (h : Word)
  /-- `TRIGGER_POST` (R142): TRIGGER_POST posts a host chain of work requests on a queue pair. -/
  | triggerPost (h : Word)
  /-- `TRIGGERED_CHAIN_FIRE` (R320): A chain whose counter reaches its threshold issues its work requests in order. -/
  | triggeredChainFire (h : Word)
  /-- `CHAIN_EXPIRE` (R320): An unfired host chain is cancelled at tick A + EXPIRE and completes with ST_DEADLINE. -/
  | chainExpire (h : Word)
  /-- `DEMAND_PROMOTION_DONE` (R215): A sealed item's pages reach terrace 1 and the item starts at the next notch boundary outside the saddle. -/
  | demandPromotionDone (home : BitVec 13) (handle : Word) (group : Nat) (granule : Nat)
  /-- `TERRACE_STALL` (R215): A due sealed item not started by notch 0 of a tick is counted once for that tick. -/
  | terraceStall (home : BitVec 13) (handle : Word) (group : Nat) (granule : Nat)
  /-- `READ_IN_PLACE_DONE` (R216): A relaxed item's data arrives in cluster SRAM from terrace 1, 2 or 3 and the item starts. -/
  | readInPlaceDone (home : BitVec 13) (handle : Word) (group : Nat) (granule : Nat) (errs : List (Nat × List Nat))
  /-- `BSU_RUN` (R169): BSU_RUN copies an input block and queues a run of a host program on each named BSU. -/
  | bsuRun (h : Word)
  /-- `BSU_RUN_START` (R167): A BSU with no run in progress starts the oldest command-area entry whose launch notch has come. -/
  | bsuRunStart (b : Fin 1024)
  /-- `MICROSTEP` (R184): A BSU runs one microstep and commits its SRAM and bank writes and checkpoint at its end. -/
  | microstep (b : Fin 1024) (errs : List (Nat × List Nat)) (sram : List SramFault)
  /-- `DEFERRED_LINE_DONE` (R194): The full decoder corrects and rewrites the deferred line and the microstep replays, or poisons it and ends the run. -/
  | deferredLineDone (b : Fin 1024) (lanes : List Nat)
  /-- `BSU_PAUSE` (R185): A run that cannot finish a microstep before notch 62 pauses at its checkpoint. -/
  | bsuPause (b : Fin 1024)
  /-- `BSU_RESUME` (R185): A paused run resumes at notch 0 of the next tick or when the supply recovers. -/
  | bsuResume (b : Fin 1024)
  /-- `BSU_HALT` (R169): A run reaches HALT and its output is written to host memory. -/
  | bsuHalt (b : Fin 1024)
  /-- `BSU_RUN_FAIL` (R171): A failing run stops its BSU and the other BSUs of the command stop at their next microstep boundary. -/
  | bsuRunFail (h : Word)
  /-- `BSU_RUN_DEADLINE` (R171): Runs not halted by the end of the deadline tick stop and the command completes with ST_DEADLINE. -/
  | bsuRunDeadline (h : Word)
  /-- `BSU_LOAD` (R173): BSU_LOAD validates and writes a host program image into slots of the named BSUs. -/
  | bsuLoad (h : Word)
  /-- `BSU_OWN` (R188): BSU_OWN holds writes, flushes cluster copies, recalls host lines and hands frames to the BSU state. -/
  | bsuOwn (h : Word)
  /-- `BSU_RELEASE` (R189): BSU_RELEASE waits for earlier runs and returns frames to their former state, releasing held writes. -/
  | bsuRelease (h : Word)
  /-- `REFRESH_WINDOW` (R32): A pseudo-channel's refresh window begins and the controller issues all refresh owed. -/
  | refreshWindow (p : Fin 1024) (waits : List (Fin 64))
  /-- `PATROL_SCRUB` (R227): The controller reads and corrects the next line in patrol order. -/
  | patrolScrub (stack : Fin 8) (errs : List Nat)
  /-- `BMEM_SCRUB` (R226): The board memory controller scrubs a burst, correcting or poisoning it. -/
  | bmemScrub (ch : Fin 12) (devs : Nat) (b : Burst) (addr : Nat)
  /-- `FLASH_READ_DONE` (R228): A flash sector read completes; a guard or reference tag failure is retried once then treated as poison. -/
  | flashReadDone (m : Fin 8) (sector : Nat) (pi : FlashPi)
  /-- `ROW_SPARING` (R235): A row over threshold is held, read, repaired to a spare row and written back. -/
  | rowSparing (a : Nat) (hold : Nat) (waits : Nat) (errs : List (Nat × List Nat))
  /-- `PCH_RETIREMENT` (R236): Node firmware retires a pseudo-channel on its triggers, relocating its contents. -/
  | pchRetirement (p : Fin 1024)
  /-- `MARCH_FRAME` (R233): A march engine tests one frame or SRAM and handles any failing cell under R234. -/
  | marchFrame (k : Nat) (cells : List Nat) (hold : Nat) (waits : Nat)
  /-- `MIGRATE` (R211): MIGRATE moves selected pages or blocks to terrace DEST. -/
  | migrate (h : Word) (named : List Nat)
  /-- `PIN` (R212): PIN promotes a selection to LEVEL and sets its pin level. -/
  | pin (h : Word) (named : List Nat)
  /-- `UNPIN` (R213): UNPIN clears the pin level of a selection. -/
  | unpin (h : Word) (named : List Nat)
  /-- `PLACE_HINT` (R214): PLACE_HINT sets the BIAS and LOWEST hint of a selection. -/
  | placeHint (h : Word) (named : List Nat)
  /-- `MOVE` (R201): A mover copies a page or weight block and switches its page-table entry. -/
  | move (what : MoveWhat) (errs : List (Nat × List Nat)) (bad : Bool)
  /-- `DEMOTION` (R206): Below the LOW watermark node firmware demotes pages by ascending heat until HIGH is reached. -/
  | demotion
  /-- `PROMOTION` (R206): A page whose effective heat reaches PROMOTE is promoted to terrace 1. -/
  | promotion (page : Nat)
  /-- `DIRTY_CLEANER` (R198): The cleaner writes dirty cache blocks to flash while dirty share exceeds DIRTY_MAX. -/
  | dirtyCleaner
  /-- `ALLOCATION` (R200): A waiting page allocation completes in terrace 1 when a free run appears. -/
  | allocation (h : Word) (peer : PeerAns) (grants : List Nat)
  /-- `WEIGHTS_STREAM_LOAD` (R245): LOAD checks an image, copies it to terrace 3, pins its blocks and digests it. -/
  | weightsStreamLoad (h : Word)
  /-- `WEIGHTS_STREAM_PREFETCH` (R246): PREFETCH streams layers into the window. -/
  | weightsStreamPrefetch (h : Word)
  /-- `WINDOW_STREAM_REQUEST` (R218): Accepting an ATTEND_BLOCK requests layers L to L+W−1 into free window slots. -/
  | windowStreamRequest (h : Word)
  /-- `EXPAND_BLOCK` (R250): An expander decodes one coded block and writes its output to the slot or tile queue. -/
  | expandBlock (ex : Fin 8) (wset : Word) (layer : Nat) (tensor : Nat) (block : Nat) (x : ExpandIn)
  /-- `BLOCK_CRC_REFETCH` (R254): A re-fetched block arrives and is used and written back, or fails with ST_EXPAND_CRC. -/
  | blockCrcRefetch (ex : Fin 8) (wset : Word) (layer : Nat) (tensor : Nat) (block : Nat) (bad : Bool) (badBase : Bool)
  /-- `WEIGHTS_BIND` (R375): WEIGHTS_BIND checks a binding record and installs the set's binding key. -/
  | weightsBind (h : Word)
  /-- `WEIGHTS_EVICT` (R249): WEIGHTS_EVICT frees a set after earlier commands on it complete. -/
  | weightsEvict (h : Word)
  /-- `PD_LOOKUP` (R263): PD_LOOKUP looks up keys and writes the entry of lowest rank for each. -/
  | pdLookup (h : Word) (bad : List (Nat × Bool))
  /-- `PD_INSERT` (R265): PD_INSERT places entries by shifting toward a hollow and writes outcome bytes. -/
  | pdInsert (h : Word)
  /-- `PD_DELETE` (R267): PD_DELETE removes entries and releases their page references. -/
  | pdDelete (h : Word)
  /-- `PDX_REBALANCE` (R260): A segment left without a hollow is rebalanced over the smallest fitting window. -/
  | pdxRebalance
  /-- `PDX_COMPARATOR` (R270): Each tick the comparator checks SEGS segments against the shadow and reloads differing slots. -/
  | pdxComparator (bad : List (Nat × Bool)) (lost : List (Nat × Bool))
  /-- `CXL_READ` (R279): A host read for no copy, a shared copy or an exclusive copy is served with any needed back-invalidate snoops. -/
  | cxlRead (head : Fin 4) (kind : Fin 3) (dpa : BitVec 52) (errs : List Nat)
  /-- `CXL_WRITE` (R279): A host write is served after snoops, or discarded for an unlent or read-only extent. -/
  | cxlWrite (head : Fin 4) (dpa : BitVec 52) (data : Bytes) (poison : Bool) (keep : Fin 3)
  /-- `BISNP_RESPONSE` (R282): A head's response to a back-invalidate snoop arrives and written-back data is stored. -/
  | bisnpResponse (head : Fin 4) (line : Nat) (data : Option (Bytes × Bool))
  /-- `BISNP_TIMEOUT` (R282): A snoop unanswered within RECALL_TO notches declares the head lost. -/
  | bisnpTimeout (head : Fin 4) (line : Nat)
  /-- `ADD_DYNAMIC_CAPACITY_RESPONSE` (R275): A head accepts an offered extent. -/
  | addDynamicCapacityResponse (head : Fin 4) (ext : BitVec 14)
  /-- `RELEASE_DYNAMIC_CAPACITY` (R286): A head releases an extent, starting a drain and recall as for a revoke. -/
  | releaseDynamicCapacity (head : Fin 4) (ext : BitVec 14)
  /-- `OFFER` (R275): OFFER backs an extent and posts Add Capacity events to the named heads. -/
  | offer (ext : BitVec 14) (hosts : BitVec 4) (mode : BitVec 1) (src : Req)
  /-- `WITHDRAW` (R275): WITHDRAW returns an offered extent to FREE or cancels pending offers. -/
  | withdraw (ext : BitVec 14) (src : Req)
  /-- `REVOKE` (R287): REVOKE forces release of an extent from named heads and recalls their lines. -/
  | revoke (ext : BitVec 14) (hosts : BitVec 4) (src : Req)
  /-- `RECLAIM` (R291): RECLAIM revokes a lost head's extents without recall. -/
  | reclaim (ext : BitVec 14) (hosts : BitVec 4) (src : Req)
  /-- `RELEASE_COMPLETE` (R287): The last pre-point request and recall end and the heads are cleared from the extent. -/
  | releaseComplete (ext : BitVec 14)
  /-- `EXTENT_ZERO_DONE` (R277): An extent's backing is zeroed and it becomes FREE. -/
  | extentZeroDone (ext : BitVec 14)
  /-- `HEAD_LOST` (R290): On link down, viral or snoop timeout the CXD declares a head lost and poisons its exclusive lines. -/
  | headLost (head : Fin 4) (viral : Bool)
  /-- `HEARTBEAT_TIMEOUT` (R289): HB_TICKS ticks without a heartbeat declare the head lost. -/
  | heartbeatTimeout (head : Fin 4)
  /-- `CXD_HB` (R289): A write of CXD_HB is a heartbeat of its head. -/
  | cxdHb (head : Fin 4)
  /-- `REJOIN` (R291): A write of CXD_HOST_CTL.REJOIN ends a head's loss when its link is up. -/
  | rejoin (head : Fin 4)
  /-- `PERST` (R408): PERST# of a host port half resets that head's link and ring state and loses the head. -/
  | perst (head : Fin 4)
  /-- `PUBLISH_GO` (R285): A write of CXD_PUB_CTL.GO copies a shared prefix page into an extent. -/
  | publishGo
  /-- `TOKEN_BUCKET_CREDIT` (R283): A request waiting on a head's bucket proceeds when credit refills. -/
  | tokenBucketCredit (head : Fin 4)
  /-- `SEGMENT_SEND` (R308): A sender transmits the next segment of a message when the window admits it. -/
  | segmentSend (src : SendSrc)
  /-- `SEGMENT_RECEIVE` (R312): A data segment is authenticated, checked and placed or discarded and answered. -/
  | segmentReceive (l : Link) (g : Seg) (tagOk : Bool)
  /-- `QP_CONTEXT_FETCHED` (R305): A fetched QP context arrives and segments waiting in miss buffers are processed. -/
  | qpContextFetched (qp : BitVec 20)
  /-- `ACK` (R310): An ACK is received and acknowledged segments, window and round-trip state are updated. -/
  | ack (l : Link) (g : Seg) (tagOk : Bool)
  /-- `NACK` (R314): A NACK is received and the message is resent for RNR or the QP enters ERROR. -/
  | nack (l : Link) (g : Seg) (tagOk : Bool)
  /-- `ACK_DELAY` (R313): ACK_DELAY notches after the first unacknowledged segment an ACK is sent. -/
  | ackDelay (qp : BitVec 20)
  /-- `RTO_EXPIRY` (R311): A segment not acknowledged within RTO is retransmitted or fails its message. -/
  | rtoExpiry (qp : BitVec 20) (msn : Nat) (seg : Nat)
  /-- `RNR_RESEND` (R311): One tick after an RNR the message is resent from its first segment. -/
  | rnrResend (qp : BitVec 20) (msn : Nat)
  /-- `PATH_HOLD_EXPIRY` (R309): A path unusable after a timeout becomes usable again after PATH_HOLD ticks. -/
  | pathHoldExpiry (qp : BitVec 20)
  /-- `QP_REPLACEMENT` (R303): At the next tick boundary node firmware replaces a CFL or NODE QP in ERROR. -/
  | qpReplacement (qp : BitVec 20) (peerQp : Option Nat)
  /-- `SEND_TAIL` (R316): A QST doorbell of KIND 0 gives a new send-queue tail and work requests are read. -/
  | sendTail (qp : BitVec 20) (count : Word) (src : Req)
  /-- `RECEIVE_HEAD` (R316): A QST doorbell of KIND 1 releases receive slots. -/
  | receiveHead (qp : BitVec 20) (count : Word) (src : Req)
  /-- `COMPLETION_HEAD` (R316): A QST doorbell of KIND 2 releases completion entries. -/
  | completionHead (qp : BitVec 20) (count : Word) (src : Req)
  /-- `ALLOC_PD` (R321): ALLOC_PD creates a protection domain. -/
  | allocPd (src : Req)
  /-- `FREE_PD` (R321): FREE_PD frees an empty protection domain. -/
  | freePd (src : Req)
  /-- `REG_MR` (R322): REG_MR registers a memory region and returns its key. -/
  | regMr (src : Req)
  /-- `DEREG_MR` (R321): DEREG_MR deregisters a region after segments in placement finish. -/
  | deregMr (src : Req)
  /-- `CREATE_QP` (R322): CREATE_QP creates a HOST or CMD queue pair. -/
  | createQp (src : Req)
  /-- `CONNECT_QP` (R321): CONNECT_QP names the peer QP and makes the QP READY. -/
  | connectQp (src : Req)
  /-- `DESTROY_QP` (R321): DESTROY_QP ends the QP's work requests and discards its reassembly state. -/
  | destroyQp (src : Req)
  /-- `PORT_UP` (R296): A fabric port completes link start and carries traffic. -/
  | portUp (p : Fin 8)
  /-- `PORT_DOWN` (R296): A port goes down, queued frames are discarded and paths are remapped. -/
  | portDown (p : Fin 8)
  /-- `MODULE_INTERRUPT` (R294): A module interrupt or periodic poll reads CMIS flags and may take the port down. -/
  | moduleInterrupt (p : Fin 8) (flag : Option (BitVec 16)) (removed : Bool)
  /-- `MODULE_INSERTION` (R294): A reinserted module's identity is read and its link started. -/
  | moduleInsertion (p : Fin 8) (copper : Bool) (ok : Bool)
  /-- `NEIGHBOR_SOLICITATION` (R297): A port answers a Neighbor Solicitation for its addresses. -/
  | neighborSolicitation (p : Fin 8) (target : BitVec 128)
  /-- `ECHO_REQUEST` (R297): A port answers an ICMPv6 Echo Request. -/
  | echoRequest (p : Fin 8) (dst : BitVec 128) (src : BitVec 128) (data : Bytes)
  /-- `NON_QST_FRAME` (R295): PAUSE, oversized, Packet Too Big and other non-QST frames are discarded or counted. -/
  | nonQstFrame (p : Fin 8) (f : BadFrame)
  /-- `QBL_FRAME` (R323): A QBL QST, link acknowledgement or credit return frame is received on a board link. -/
  | qblFrame (b : Fin 6) (vc : BitVec 2) (lseq : BitVec 12) (credits : BitVec 16) (body : QblBody) (tagOk : Bool)
  /-- `QBL_REPLAY` (R323): A frame with a bad CRC triggers a replay request and the sender resends from its buffer. -/
  | qblReplay (b : Fin 6) (asked : Option Nat)
  /-- `BOARD_LINK_DOWN` (R323): A link exceeding eight replays in a tick or losing a lane goes down and retrains once. -/
  | boardLinkDown (b : Fin 6)
  /-- `BOARD_LINK_TRAINING` (R412): A board link trains, exchanging node, domain and part identity, and comes up or stays down. -/
  | boardLinkTraining (b : Fin 6) (peer : Option (Nat × Nat × Bool))
  /-- `DISPATCH` (R329): When an executor holds a credit the scheduler dispatches the head with the least finish tag. -/
  | dispatch (hw : Bool) (fw : Bool)
  /-- `SCHEDULER_TICK_LATCH` (R335): At each tick boundary queue statistics are latched, rates updated and burst credit added. -/
  | schedulerTickLatch
  /-- `ANNOUNCE_SEND` (R34): The grandmaster sends an announce at notch 0 of every tick. -/
  | announceSend
  /-- `ANNOUNCE_RECEIVE` (R35): A node receives an announce and forwards its chosen one, choosing its upstream at tick boundaries. -/
  | announceReceive (l : Link) (a : Announce)
  /-- `ANNOUNCE_TIMEOUT` (R36): Sixteen ticks without an announce put the node in HOLDOVER and into a new election. -/
  | announceTimeout
  /-- `SYNC_WORD` (R37): A timestamped sync word exchange measures delay and offset and adjusts the slew. -/
  | syncWord (l : Link) (m : SyncMeas)
  /-- `UPSTREAM_OFFSET_MEASURED` (R47): On gaining an upstream a node slews to lock or steps its time in STEPPING. -/
  | upstreamOffsetMeasured (m : SyncMeas)
  /-- `LOCK_ACHIEVED` (R47): At a tick boundary where U is at most 160 units a slewing node enters LOCKED. -/
  | lockAchieved
  /-- `HOLDOVER_GROWTH` (R46): Every 0.5 ms in HOLDOVER U grows by one unit and the node enters FREE past the limit. -/
  | holdoverGrowth
  /-- `TOD_FRAME` (R39): A time-of-day frame is checked and accepted or discarded. -/
  | todFrame (fr : Bytes) (before : Nat)
  /-- `PPS_EDGE` (R39): A 1PPS edge is judged good or missing and the reference validity updated. -/
  | ppsEdge
  /-- `PPS_MISSING` (R39): An edge not arriving within 1 s ± 1 ms counts as missing at the time it was due. -/
  | ppsMissing
  /-- `PERIOD_SWITCH` (R30): At the switch point every locked node changes its tick period and converts pending ticks. -/
  | periodSwitch
  /-- `LATE_COUNT_EXPIRY` (R44): A late report leaves COUNT at the boundary ending its 1,024th tick, possibly clearing SUSPECT. -/
  | lateCountExpiry
  /-- `SUSPECT_REPORT` (R44): At the next tick boundary a node reports a change of SUSPECT to its map keepers. -/
  | suspectReport
  /-- `CVT_TICK_SNAPSHOT` (R162): At each tick boundary conversion totals are latched into a snapshot and restarted. -/
  | cvtTickSnapshot
  /-- `ATT_CVT_TICK_LO_READ` (R163): A read of ATT_CVT_TICK_LO copies the snapshot into the requester's read view. -/
  | attCvtTickLoRead (r : Req)
  /-- `RETIRED_BODY_FREE` (R94): At a tick boundary with no older snapshot outstanding, retired bodies and unreferenced pages are freed. -/
  | retiredBodyFree (released : List Nat)
  /-- `RESCALE_TABLE_LOAD` (R158): Node firmware loads a rescale table while no item is bound to it. -/
  | rescaleTableLoad (c : Fin 32) (k : Fin 8) (wset : Word) (layer : Nat) (proj : Fin 4) (part : Nat)
  /-- `MAP_PROPOSE` (R348): MAP_PROPOSE forwards change records to the coordinator and completes on their commit or expiry. -/
  | mapPropose (h : Word)
  /-- `MAP_READ` (R349): MAP_READ writes the current map or the tenant's part of it. -/
  | mapRead (h : Word)
  /-- `SLICE_GRANT` (R350): SLICE_GRANT grants, revokes or changes a slice at an epoch. -/
  | sliceGrant (h : Word)
  /-- `DRAIN` (R351): DRAIN moves a node's slices, units, pages and homes to its successor or cancels. -/
  | drain (ev : DrainEv)
  /-- `PROPOSAL` (R345): At notch 0 the coordinator proposes gathered changes as the next epoch. -/
  | proposal (ev : ProposalEv)
  /-- `PREPARE` (R344): A keeper receives PREPARE and promises the ballot or answers with its promise. -/
  | prepare (ev : PrepareEv)
  /-- `ACCEPT` (R344): A keeper receives ACCEPT and accepts the epoch if allowed. -/
  | accept (a : Accepted)
  /-- `COMMIT` (R344): A node receives COMMIT, installs the epoch and forwards it down the dissemination tree. -/
  | commit (c : CommitMsg)
  /-- `EPOCH_FETCH` (R345): A node seeing a newer epoch fetches missing epochs from a keeper. -/
  | epochFetch (ev : FetchEv)
  /-- `LIVENESS_REPORT` (R352): A node sends its liveness report to every keeper at its notch-0 slot. -/
  | livenessReport (ev : LivenessEv)
  /-- `LIVENESS_ACK` (R352): A keeper acknowledges a liveness report. -/
  | livenessAck (keeper : BitVec 13)
  /-- `LOSS_WINDOW_EXPIRY` (R352): A keeper with no report in LOSS_TICKS tells the coordinator, which proposes LOST on a majority. -/
  | lossWindowExpiry (ev : LossEv)
  /-- `FENCE` (R353): A node without majority acknowledgement for LOSS_TICKS − 16 ticks fences itself. -/
  | fence
  /-- `FENCE_END` (R353): A fenced node regaining a majority resumes as IN or discards its state and rejoins. -/
  | fenceEnd
  /-- `REBUILD_UNIT` (R359): The successor rebuilds the next lost unit from eight surviving units. -/
  | rebuildUnit (survivors : List Survivor)
  /-- `REBUILD_DONE` (R359): The rebuild ends, homes swap bodies and report, and an epoch sets the group WHOLE. -/
  | rebuildDone (ev : RebuildEv)
  /-- `PARITY_UPDATE` (R358): A parity holder applies an old-XOR-new update and acknowledges it. -/
  | parityUpdate (m : ParityMsg)
  /-- `TENANT_OPEN` (R364): TENANT_OPEN unwraps a tenant bundle and installs keys in OPENING. -/
  | tenantOpen (h : Word)
  /-- `SEAL` (R366): Writing SEC_STATUS.SEAL from the management path records measurement 7 and enters SEALED. -/
  | sealTenant (src : Req)
  /-- `OPEN_SEAL_TIMEOUT` (R366): An open not sealed within 65,536 ticks destroys keys and returns to EMPTY. -/
  | openSealTimeout
  /-- `TENANT_CLOSE` (R384): TENANT_CLOSE enters FENCING and stops admission. -/
  | tenantClose (h : Word)
  /-- `FENCE_BEGIN` (R385): At A+1.00 DMA is aborted, slots retire and outstanding commands complete with ST_KEY_RETIRED. -/
  | fenceBegin
  /-- `KEY_DESTRUCTION` (R385): Every tenant key is destroyed and the node enters ERASING. -/
  | keyDestruction
  /-- `ERASE_DONE` (R387): Zeroing and clearing finish and the node enters EMPTY. -/
  | eraseDone
  /-- `RECORD_GET` (R382): RECORD_GET writes signed tick blocks and may release them. -/
  | recordGet (h : Word)
  /-- `ATTEST` (R370): ATTEST writes a signed measurement report and optionally certificates. -/
  | attest (h : Word)
  /-- `TICK_STATEMENT_SIGN` (R381): The security core signs the statement of a tick's record tree by tick k+4. -/
  | tickStatementSign (tick : Nat)
  /-- `HELD_COMPLETION_RELEASE` (R383): A completion held for record-store room posts when a release makes room. -/
  | heldCompletionRelease
  /-- `INSTALL` (R371): INSTALL unwraps a key blob into an empty slot as RECEIVE. -/
  | install (slot : BitVec 6) (src : Req)
  /-- `ACTIVATE` (R371): ACTIVATE makes a receive slot ACTIVE at the next tick boundary. -/
  | activate (ev : KeyEv)
  /-- `RETIRE` (R371): RETIRE makes a slot RETIRING and destroys it two tick boundaries later. -/
  | retire (ev : KeyEv)
  /-- `SEC_FINE_WRITE` (R390): A management write of SEC_FINE grants heads fine counters; host writes are ignored. -/
  | secFineWrite (v : Word) (src : Req)
  /-- `GET_VERSION` (R369): The SPDM responder answers GET_VERSION. -/
  | getVersion (via : Fin 5)
  /-- `GET_CAPABILITIES` (R369): The SPDM responder answers GET_CAPABILITIES. -/
  | getCapabilities (via : Fin 5)
  /-- `NEGOTIATE_ALGORITHMS` (R369): The SPDM responder answers NEGOTIATE_ALGORITHMS. -/
  | negotiateAlgorithms (via : Fin 5)
  /-- `GET_DIGESTS` (R369): The SPDM responder returns certificate chain digests. -/
  | getDigests (via : Fin 5)
  /-- `GET_CERTIFICATE` (R369): The SPDM responder returns a certificate chain. -/
  | getCertificate (via : Fin 5) (slot : BitVec 8) (off : BitVec 16) (len : BitVec 16)
  /-- `CHALLENGE` (R369): The SPDM responder answers CHALLENGE with an Alias signature. -/
  | challenge (via : Fin 5) (slot : BitVec 8) (nonce : Bytes)
  /-- `GET_MEASUREMENTS` (R369): The SPDM responder returns measurement blocks. -/
  | getMeasurements (via : Fin 5) (index : BitVec 8) (signed : Bool) (nonce : Bytes)
  /-- `SAG_WINDOW` (R397): A 50 ns sag window ends and the node enters every shed step whose threshold it reached. -/
  | sagWindow (sag : BitVec 16) (fail : Bool)
  /-- `SHED_REVERSAL` (R399): At a tick boundary the deepest step whose reversal condition held for the whole tick is reversed. -/
  | shedReversal
  /-- `PWR_FAIL_N` (R398): Assertion of PWR_FAIL_N enters shed step 6. -/
  | pwrFailN
  /-- `HALT` (R400): At step 6, thermal trip or PWR_CTL.HALT the node halts in order and asserts HALT_N. -/
  | halt (ev : HaltEv)
  /-- `HALT_REVERSAL` (R401): A sag or PWR_FAIL_N halt is reversed, powering dies and releasing HALT_N. -/
  | haltReversal
  /-- `THERMAL_READ` (R402): Each microsecond a site's temperature is read and thermal levels are entered. -/
  | thermalRead (site : Fin 13) (temp : BitVec 8)
  /-- `THERMAL_REVERSAL` (R402): A level is reversed at the tick boundary after a whole tick 3 °C below its threshold. -/
  | thermalReversal (site : Fin 13)
  /-- `POWER_STATE_ENTRY` (R405): At a notch boundary with no item due the power manager enters the deepest allowed state. -/
  | powerStateEntry
  /-- `WAKE` (R406): The node wakes at its planned time or at once for an unknown event. -/
  | wake (unknown : Bool)
  /-- `AVS_READBACK` (R393): Every 16 ticks the node reads back the VDD_CORE regulator over AVSBus. -/
  | avsReadback (rejected : Bool) (mv : BitVec 16) (amps : BitVec 16)
  /-- `PMBUS_POLL` (R394): Every 1,024 ticks the node polls board regulator status. -/
  | pmbusPoll (rail : Fin 6) (status : BitVec 16) (mv : BitVec 16) (amps : BitVec 16)
  /-- `POWER_READING` (R407): Every tick package input power is latched. -/
  | powerReading (watts : BitVec 16)
  /-- `POWER_HINT` (R431): POWER_HINT limits the deepest power state for a number of ticks. -/
  | powerHint (h : Word)
  /-- `POWER_HINT_EXPIRY` (R431): After TICKS ticks a power hint ceases to apply. -/
  | powerHintExpiry
  /-- `POWER_ON_RESET` (R408): VDD_AON rising performs a cold reset of the whole node. -/
  | powerOnReset (flash : Option Flash)
  /-- `RESET_N` (R408): RESET_N held low for 10 µs performs a warm reset. -/
  | resetN (flash : Option Flash)
  /-- `PWR_CTL_RESET` (R408): A management write of PWR_CTL.RESET starts a warm reset. -/
  | pwrCtlReset (src : Req)
  /-- `PWR_CTL_HALT` (R400): A management write of PWR_CTL.HALT starts an orderly halt. -/
  | pwrCtlHalt (src : Req)
  /-- `WATCHDOG_EXPIRY` (R408): The always-on watchdog unrefreshed for 1 s causes a warm reset. -/
  | watchdogExpiry
  /-- `START_UP` (R422): After reset the node runs its start-up phases to READY or FAIL. -/
  | startUp (w : BootWork) (ms : BitVec 32)
  /-- `PHASE_LIMIT` (R423): A start-up phase reaching its limit ends and the node continues with what it has. -/
  | phaseLimit (w : BootWork) (ms : BitVec 32)
  /-- `BUS_ARBITRATION_LOSS` (R415): A lost I2C or I3C transfer is retried up to 8 times, then the memory treated as absent. -/
  | busArbitrationLoss (bus : Fin 5) (dev : BitVec 8)
  /-- `UPDATE_STAGE` (R426): UPDATE_STAGE with TARGET 0 writes, verifies and stages a firmware image. -/
  | updateStage (h : Word)
  /-- `RECALIBRATION` (R427): UPDATE_STAGE with TARGET 1 retrains one port, link or root port. -/
  | recalibration (ev : RecalEv)
  /-- `UPDATE_COMMIT` (R428): UPDATE_COMMIT holds firmware dispatch and schedules the switch. -/
  | updateCommit (h : Word)
  /-- `UPDATE_SWITCH` (R428): At the switch boundary the new image, microcode, programs and measurements take effect. -/
  | updateSwitch
  /-- `UPDATE_CONFIRM` (R430): After 1,024 ticks without watchdog expiry ACTIVE is rewritten and the commit completes. -/
  | updateConfirm
  /-- `UPDATE_ROLLBACK` (R430): A watchdog expiry before confirmation boots the old image. -/
  | updateRollback
  /-- `MARCH_TEST` (R432): MARCH_TEST tests a range of pseudo-channels, clusters or BSUs. -/
  | marchTest (h : Word)
  /-- `RETIRE_PCH` (R433): RETIRE_PCH takes a pseudo-channel, DDR5 channel or flash slot out of or into service. -/
  | retirePch (h : Word) (found : Option Found)
  /-- `EVENT_RECORD` (R438): An event reaching the recorder is buffered and written to the NOR, rate-limited. -/
  | eventRecord
  /-- `EVR_CLEAR` (R442): A management write of EVR_CTL.CLEAR erases the recorder region. -/
  | evrClear (src : Req)
  /-- `EVR_CLEAR_DONE` (R442): The erase finishes and EV_EVR_CLEARED is written before buffered events. -/
  | evrClearDone
  /-- `EVR_RD_SEL_WRITE` (R438): A write of EVR_RD_SEL copies a slot into the data words. -/
  | evrRdSelWrite (v : Word) (src : Req)
  /-- `PMC_CTL_WRITE` (R436): A write of PMC_CTL freezes, starts or clears every counter in one cycle. -/
  | pmcCtlWrite (v : Word) (src : Req)
  /-- `PMC_TRACE_SEL_WRITE` (R437): A write of PMC_TRACE_SEL copies a trace record into the data words. -/
  | pmcTraceSelWrite (v : Word) (src : Req)
  /-- `MON_TOKEN_DATA_WRITE` (R443): A write of MON_TOKEN_DATA fills the next four token bytes. -/
  | monTokenDataWrite (v : Word) (src : Req)
  /-- `SUBMIT` (R443): MON_TOKEN_CTL.SUBMIT checks an unlock token and activates it or denies it. -/
  | submit (src : Req)
  /-- `LOCK` (R443): MON_CTL.LOCK ends an active token. -/
  | lock (src : Req)
  /-- `TOKEN_EXPIRY` (R443): An unlock token ends when operating hours reach EXPIRES. -/
  | tokenExpiry (hours : Word)
  /-- `PEEK` (R444): The monitor prints registers or terrace-1 words. -/
  | peek (t1 : Bool) (addr : BitVec 64) (k : Nat)
  /-- `POKE` (R444): The monitor performs a management-path register write when permitted. -/
  | poke (addr : Word) (v : Word)
  /-- `REGS` (R444): The monitor dumps every register of a block. -/
  | regs (block : BitVec 8)
  /-- `EVLOG` (R444): The monitor prints event records. -/
  | evlog (first : Nat) (count : Option Nat)
  /-- `TICKS` (R444): The monitor starts capturing N ticks from the next boundary. -/
  | ticks (k : Nat)
  /-- `TICKS_CAPTURE_DONE` (R444): After N ticks the captured tick lines are printed. -/
  | ticksCaptureDone
  /-- `STACKS` (R444): The monitor prints one line per stack. -/
  | stacks
  /-- `HELP` (R444): The monitor lists its commands. -/
  | help
  /-- `UART_BAD_LINE` (R444): An over-long, unknown or malformed line is discarded or answered ERR. -/
  | uartBadLine (tooLong : Bool)
  /-- `TCK_SEED_WRITE` (R26): A write of TCK_SEED takes effect only in ACQUIRE and is otherwise ignored and recorded. -/
  | tckSeedWrite (hi : Bool) (v : Word)
  /-- `TER_T2_PART_WRITE` (R199): A write of TER_T2_PART takes effect only while no CXL extent is allocated. -/
  | terT2PartWrite (v : Word)
  /-- `CFL_SPILL_WRITE` (R136): A write of the spill area registers is ignored and recorded while a reservation uses the spill area. -/
  | cflSpillWrite (reg : Fin 3) (v : Word)
  /-- `REGISTER_WRITE` (R445): A write to a register with no row of its own updates its fields under R4 to R8 and R445. -/
  | registerWrite (off : Word) (v : Word) (src : Req)
  /-- `REGISTER_READ` (R7): A register read that has behaviour of its own: it clears an ROC field, keeps a same-cycle addition, returns a coarsened value and subtracts it, latches a HI word, or advances a select field. -/
  | registerRead (off : Word) (src : Req)
  /-- `MIGRATE_TIMEOUT` (R211): A MIGRATE or PIN that has not completed 1,024 ticks after acceptance completes with ST_DEADLINE, and the pages already moved stay where they are. -/
  | migrateTimeout (h : Word)
  /-- `PREFETCH_TIMEOUT` (R246): A PREFETCH not complete 1,024 ticks after acceptance completes with ST_DEADLINE, and the layers already streamed stay. -/
  | prefetchTimeout (h : Word)
  /-- `DRAIN_TIMEOUT` (R351): A drain not finished within PROPOSE_TICKS × 1,024 ticks completes with ST_DEADLINE, and the node stays DRAINING. -/
  | drainTimeout (h : Word)
  /-- `RECALIBRATION_TIMEOUT` (R427): A unit not back within 1,024 ticks of a recalibration stays down, records EV_TRAIN_FAIL and the command completes with ST_DEADLINE. -/
  | recalibrationTimeout (h : Word)
  /-- `SWITCH_TIMEOUT` (R428): An UPDATE_COMMIT whose switch has not happened within 1,024 ticks completes with ST_DEADLINE, dispatch resumes and the old image runs on. -/
  | switchTimeout
  /-- `MARCH_TEST_TIMEOUT` (R432): A MARCH_TEST not finished within 65,536 ticks completes with ST_DEADLINE, with counts covering the part done. -/
  | marchTestTimeout (h : Word)
  /-- `PWR_FAIL_N_RELEASE` (R399): Release of PWR_FAIL_N clears PWR_STATUS.PWR_FAIL and lets step 6 become reversible. -/
  | pwrFailNRelease
  /-- `LOSS_OF_POWER` (R394): A rail is removed and the node halts under the power-fail warning if there is time, and otherwise stops. -/
  | lossOfPower (warned : Bool) (torn : Bool)
  /-- `HOST_PORT_LINK_UP` (R423): A host port half trains, in CXL mode or not, whenever its host comes up, and its head becomes usable. -/
  | hostPortLinkUp (half : Fin 4) (cxl : Bool)
  /-- `MODULE_REMOVED` (R433): A DDR5 or flash module removed without its EV_MODULE_OUT is treated as an uncorrectable failure of everything it held. -/
  | moduleRemoved (flash : Bool) (unit : BitVec 4) (lost : List (Burst × Nat)) (sectors : List Nat)
  /-- `NEIGHBOR_ADVERTISEMENT` (R297): A port receives the router's Neighbor Advertisement and learns the router MAC address it sends to. -/
  | neighborAdvertisement (p : Fin 8) (target : BitVec 128) (mac : BitVec 48)
  /-- `PARITY_ACKNOWLEDGEMENT` (R358): A data holder receives a parity holder's acknowledgement, and once both arrive its protected write or append is complete. -/
  | parityAcknowledgement (home : BitVec 13) (handle : Word)
  /-- `KEEPER_PROMISE` (R344): The coordinator receives a promise, and once a majority has promised it re-proposes any accepted uncommitted epoch or proceeds. -/
  | keeperPromise (p : Promise)
  /-- `KEEPER_ACCEPTANCE` (R344): The coordinator receives a keeper's acceptance or a higher promise, and sends COMMIT once a majority has accepted or stops coordinating. -/
  | keeperAcceptance (keeper : BitVec 13) (ballot : Word) (epoch : Word) (ok : Bool)
  deriving DecidableEq, Repr

end Sys2Proof
end

