-- ==== Sys2Proof/Decode.lean ====
section
/-! DEFINITION. Table words: no row of the command table gives its command any bits, so no word spells a command. -/

namespace Sys2Proof

/-- The command that a word spells by the table's bits: none, since the table gives none. DEDUCED, safe: log entry 4. -/
def decodeTableWord (_nbits _w : Nat) : Option Instr := none

end Sys2Proof
end

