-- ==== Sys2Proof/Config.lean ====
section
/-! DEFINITION. What an implementation fixes and what the spec leaves open. Every constant here is opaque: nothing can be proved of its value, so
a claim holds whatever it is.
DESIGN CHOICE, safe: every constant of this file (log entries 9, 24, 25, 26). -/

namespace Sys2Proof

/-- A value the spec leaves open, fresh for each index: the state's `freeCtr` is the index, and each use advances it. -/
opaque Config.freeNat : Nat → Nat

/-- Entries the firmware queue holds beyond one (R56 check 7 names a full queue and no number). -/
opaque Config.fwQueueMore : Nat

/-- The set of the cache partition that a 64 KiB block of terrace 3 falls in, among a number of sets (R198 gives 16 ways and no index function). -/
opaque Config.cacheSet : Nat → Nat → Nat

/-- The bytes in clear of an encrypted part of a weight image: binding key, image offset, stored bytes (R238, R374; the cipher is not given). -/
opaque Config.imageClear : List (BitVec 8) → Nat → List (BitVec 8) → List (BitVec 8)

/-- The bank of a pseudo-channel that a row lies in, by the row's terrace-1 address (10 gives two spare rows a bank and no bank address). -/
opaque Config.bankOf : Nat → Nat

/-- The set of the CXL directory that a line falls in (R278: a hash of the DPA). -/
opaque Config.cxdSet : Nat → Nat

/-- The DDR5 channel that a 64 KiB block of the cache partition lies in, and the channel of a 64 KiB block of the direct partition (the spec gives no interleaving of board
memory). -/
opaque Config.cacheChannel : Nat → Nat
opaque Config.directChannel : Nat → Nat

/-- The address in board memory of a line of the direct partition (true) or of a cached terrace-3 line (false). -/
opaque Config.boardAddr : Bool → Nat → Nat

/-- The queue pair whose context a word of the queue-pair context cache belongs to (R229; the spec gives the array no layout). -/
opaque Config.qpOfWord : Nat → Nat

/-- A sector as terrace 3 stores it: the storage key, the sector's number, its bytes in clear (R228, R373; the cipher is named and its vectors are not given). -/
opaque Config.storedSector : List (BitVec 8) → Nat → List (BitVec 8) → List (BitVec 8)

/-- Requests the CXL directory's shared queue holds beyond one (R284 names its occupancy and no size). -/
opaque Config.cxdQueueMore : Nat

/-- The 48-bit MAC address of a fabric port (R297 names it and gives no value). -/
opaque Config.portMac : Nat → Nat

/-- Where node firmware keeps the body of a page list in node-private terrace 1, in 64-byte lines: by sequence, list and generation (R83 gives BODY its
alignment and no place). -/
opaque Config.bodyLine : Nat → Nat → Nat → Nat

/-- The terrace-1 byte address of the prefix directory's shadow, which start-up sets (12, registers). -/
opaque Config.pdxShadow : Nat

/-- Where node firmware keeps its block-mode scratch in terrace 1, address and length: it lies in the BSU state at all times (R187 gives no place). -/
opaque Config.blockScratch : List (Nat × Nat)

/-- The rate the fabric time unit learns from a reference, in parts per billion, from the rate it ran at and the offset just measured (R39 and R46 name the rate
and give no way to learn it). -/
opaque Config.learnRate : Int → Int → Int

/-! What the part holds in fuses and ROM (R367, R391, R408, R420, R443). -/

/-- The debug fuse is blown. -/
opaque Config.debugFuse : Bool

/-- The VDD_CORE setpoint fused for the part, in mV. -/
opaque Config.fusedSetpoint : Nat

/-- The least FW_SVN the fuses allow. -/
opaque Config.fusedMinSvn : Nat

/-- Spare columns in use, as fused (10 registers): prefix directory, key store, control-core SRAM. -/
opaque Config.fusedCols : Nat → Nat

/-- SHA-384 of the node's DeviceID public key and of its BindID public key. -/
opaque Config.deviceIdHash : List (BitVec 8)
opaque Config.bindIdHash : List (BitVec 8)

/-- The public keys held in the boot ROM: 0 the image key, 1 the debug authority key. -/
opaque Config.romKey : Nat → List (BitVec 8)

/-- Measurement 1, and what measurements 2 to 5 take from a firmware image (R368). -/
opaque Config.romMeasure : List (BitVec 8)
opaque Config.imageMeasure : Nat → List (BitVec 8) → List (BitVec 8)

/-! Cryptography: what the node computes with keys that nobody outside holds. -/

/-- The bytes that measurement k hashes, from the values it covers (R366, R368: the encoding is not given). -/
opaque Config.encodeFields : Nat → List Nat → List (BitVec 8)

/-- What BindID unwraps: ECDH with EPH_PUB, HKDF-SHA-384 with the info given, AES key unwrap; none when its integrity check fails (R364, R371, R375). -/
opaque Config.unwrap : List (BitVec 8) → List (BitVec 8) → List (BitVec 8) → Option (List (BitVec 8))

/-- Does an ECDSA P-384 signature verify: public key, message, signature (R375, R420, R443). -/
opaque Config.sigOk : List (BitVec 8) → List (BitVec 8) → List (BitVec 8) → Bool

/-- The signature of a message by the Alias key that measurements 1 to 6 give, with its fresh secret number (R367, R370, R381). -/
opaque Config.aliasSign : List (BitVec 8) → Nat → List (BitVec 8) → List (BitVec 8)

/-- The certificate chain of slot 0 or 1 in DER form, with measurements 1 to 6 (R367, R369). -/
opaque Config.certChain : Nat → List (BitVec 8) → List (BitVec 8)

end Sys2Proof
end

