-- ==== Sys2Proof/Machine/Map.lean ====
section
/-! DEFINITION. Keyed lists, byte order and bit fields: the plainest helpers every block uses. -/

namespace Sys2Proof.Machine

variable {β : Type}

/-- The value at key `k`. -/
def mget? (m : NMap β) (k : Nat) : Option β :=
  match m with
  | [] => none
  | (k', v) :: t => if k' = k then some v else mget? t k

/-- Set key `k` to `v`, keeping keys strictly rising. -/
def mset (m : NMap β) (k : Nat) (v : β) : NMap β :=
  match m with
  | [] => [(k, v)]
  | (k', v') :: t =>
    if k < k' then (k, v) :: (k', v') :: t
    else if k = k' then (k, v) :: t
    else (k', v') :: mset t k v

/-- Remove key `k`. -/
def mdel (m : NMap β) (k : Nat) : NMap β :=
  match m with
  | [] => []
  | (k', v') :: t => if k' = k then mdel t k else (k', v') :: mdel t k

/-- The value at key `k`, or `d`. -/
def mgetD (m : NMap β) (k : Nat) (d : β) : β := (mget? m k).getD d

/-- Apply `f` to the value at key `k`, if it is present. -/
def mmod (m : NMap β) (k : Nat) (f : β → β) : NMap β :=
  match mget? m k with
  | none => m
  | some v => mset m k (f v)

/-- Is key `k` present. -/
def mhas (m : NMap β) (k : Nat) : Bool := (mget? m k).isSome

/-- The keys of a map. -/
def mkeys (m : NMap β) : List Nat := m.map (·.1)

/-- The values of a map. -/
def mvals (m : NMap β) : List β := m.map (·.2)

/-- Keep the entries for which `p` holds. -/
def mfilter (m : NMap β) (p : Nat → β → Bool) : NMap β := m.filter fun e => p e.1 e.2

/-! Bit fields and byte order (R3: little-endian). -/

/-- Bits `[lo + w - 1 : lo]` of `v`. -/
def bits (v lo w : Nat) : Nat := v / 2 ^ lo % 2 ^ w

/-- `v` with bits `[lo + w - 1 : lo]` replaced by the low `w` bits of `x`. -/
def putBits (v lo w x : Nat) : Nat :=
  v - bits v lo w * 2 ^ lo + x % 2 ^ w * 2 ^ lo

/-- Bit `i` of `v`. -/
def bitAt (v i : Nat) : Bool := v / 2 ^ i % 2 == 1

/-- 1 for true, 0 for false. -/
def b2n (b : Bool) : Nat := if b then 1 else 0

/-- The little-endian bytes of `v`, `n` of them (R3). -/
def leBytes : Nat → Nat → Bytes
  | 0, _ => []
  | n + 1, v => BitVec.ofNat 8 v :: leBytes n (v / 256)

/-- The number that bytes spell, little-endian (R3). -/
def ofLe : Bytes → Nat
  | [] => 0
  | b :: t => b.toNat + 256 * ofLe t

/-- The number that bytes spell, big-endian. -/
def ofBe (l : Bytes) : Nat := ofLe l.reverse

/-- The big-endian bytes of `v`, `n` of them. -/
def beBytes (n v : Nat) : Bytes := (leBytes n v).reverse

/-- Bytes `[lo + n - 1 : lo]` of a string as a number; absent bytes read 0. -/
def field (l : Bytes) (lo n : Nat) : Nat := ofLe ((l.drop lo).take n)

/-- Byte `i` of a string. -/
def byteAt (l : Bytes) (i : Nat) : Nat := (l.getD i 0).toNat

/-- Bytes `[lo + n - 1 : lo]` of a string. -/
def slice (l : Bytes) (lo n : Nat) : Bytes := (l.drop lo).take n

/-- A string cut or zero-filled to `n` bytes. -/
def padTo (n : Nat) (l : Bytes) : Bytes := (l ++ List.replicate (n - l.length) 0).take n

/-- `n` bytes of 0. -/
def zeros (n : Nat) : Bytes := List.replicate n 0

/-- A string with the bytes from `lo` replaced by `x`. -/
def putBytes (l : Bytes) (lo : Nat) (x : Bytes) : Bytes :=
  padTo lo l ++ x ++ l.drop (lo + x.length)

/-- All bytes 0. -/
def allZero (l : Bytes) : Bool := l.all (· == 0)

/-- Ceiling division. -/
def cdiv (a b : Nat) : Nat := (a + b - 1) / b

/-- Is `a` a multiple of `b`. -/
def mult (a b : Nat) : Bool := a % b == 0

/-- Saturate a count at the largest value of `w` bits. -/
def satTo (w v : Nat) : Nat := min v (2 ^ w - 1)

/-- The low `w` bits of an integer. -/
def wrapInt (w : Nat) (i : Int) : Nat := (i % (2 : Int) ^ w).toNat

/-- The integer that the low `w` bits of `v` spell in two's complement. -/
def signed (w v : Nat) : Int :=
  let x := v % 2 ^ w
  if x < 2 ^ (w - 1) then x else (x : Int) - (2 : Int) ^ w

/-- Number of ones in the low `n` bits of `v`. -/
def popcount : Nat → Nat → Nat
  | 0, _ => 0
  | n + 1, v => v % 2 + popcount n (v / 2)

/-- The set bits of `v` below `n`, rising. -/
def bitList (n v : Nat) : List Nat := (List.range n).filter (bitAt v)

/-- The mask whose set bits are `l`. -/
def maskOf (l : List Nat) : Nat := l.foldl (fun m i => if bitAt m i then m else m + 2 ^ i) 0

/-- The largest `k` with `2 ^ k ≤ n`, searched below `fuel`. -/
def log2Below : Nat → Nat → Nat
  | 0, _ => 0
  | f + 1, n => if n < 2 then 0 else 1 + log2Below f (n / 2)

/-- The smallest `k` with `n ≤ 2 ^ k`. -/
def clog2 (n : Nat) : Nat := if n ≤ 1 then 0 else 1 + log2Below 64 (n - 1)

/-- Replace element `i` of a list. -/
def lset {α : Type} (l : List α) (i : Nat) (v : α) : List α := l.set i v

/-- Apply `f` to the elements for which `p` holds. -/
def lmodify {α : Type} (l : List α) (p : α → Bool) (f : α → α) : List α :=
  l.map fun x => if p x then f x else x

/-- The element with the least measure, the earliest of equals. -/
def leastBy {α : Type} (f : α → Nat) : List α → Option α
  | [] => none
  | x :: t =>
    match leastBy f t with
    | none => some x
    | some y => if f x ≤ f y then some x else some y

/-- A list without repeats, first occurrences kept. -/
def dedupNat : List Nat → List Nat
  | [] => []
  | x :: t => x :: (dedupNat t).filter (· != x)

/-- Insert a number into a rising list. -/
def insertNat (x : Nat) : List Nat → List Nat
  | [] => [x]
  | y :: t => if x ≤ y then x :: y :: t else y :: insertNat x t

/-- The elements in rising order. -/
def sortNat (l : List Nat) : List Nat := l.foldr insertNat []

/-- Consecutive chunks of `n` elements; `fuel` bounds their number. -/
def chunksOf {α : Type} (n : Nat) : Nat → List α → List (List α)
  | 0, _ => []
  | f + 1, l => if l.isEmpty then [] else l.take n :: chunksOf n f (l.drop n)

/-! Memories: `d` is what an unlisted address reads as. -/

/-- The byte at address `a`. -/
def Mem.get (d : Byte) (m : Mem) (a : Nat) : Byte := mgetD m a d

/-- Store one byte; storing the unlisted value removes the entry, so that equal memories are equal data. -/
def Mem.put (d : Byte) (m : Mem) (a : Nat) (v : Byte) : Mem :=
  if v = d then mdel m a else mset m a v

/-- Read `n` bytes from `a`. -/
def Mem.read (d : Byte) (m : Mem) (a : Nat) : Nat → Bytes
  | 0 => []
  | n + 1 => Mem.get d m a :: Mem.read d m (a + 1) n

/-- Write a string of bytes from `a`. -/
def Mem.write (d : Byte) (m : Mem) (a : Nat) : Bytes → Mem
  | [] => m
  | b :: t => Mem.write d (Mem.put d m a b) (a + 1) t

/-- Make the `n` bytes from `a` read as the unlisted value. -/
def Mem.clear (m : Mem) (a n : Nat) : Mem := m.filter fun c => c.1 < a || a + n ≤ c.1

/-- Copy the bytes at `src` to `dst`, cell by cell. -/
def Mem.shift (m : Mem) (src dst len : Nat) : Mem :=
  (m.filter fun c => src ≤ c.1 && c.1 < src + len).foldl (fun x c => mset x (c.1 - src + dst) c.2) (Mem.clear m dst len)

/-- Keys strictly rising. -/
def risingFrom {α : Type} (lo : Nat) : NMap α → Bool
  | [] => true
  | (k, _) :: t => lo ≤ k && risingFrom (k + 1) t

/-- The canonical form of a memory: addresses strictly rising, and no entry equal to what an unlisted address reads as. -/
def Memory.wf (d : Byte) (m : Mem) : Bool := risingFrom 0 m && m.all fun c => c.2 != d

end Sys2Proof.Machine
end

