-- ==== Sys2Proof/Machine/Flags.lean ====
section
/-! DEFINITION. The codes of the spec: statuses (R70), opcodes (R69), event codes (R439), and the flag computations of a stamp (R42). -/

namespace Sys2Proof.Machine

/-! Status codes (R70). -/

/-- `ST_OK`. -/
abbrev stOk : Nat := 0x0000
/-- `ST_OK_PARTIAL`. -/
abbrev stOkPartial : Nat := 0x0001
/-- `ST_BUSY`. -/
abbrev stBusy : Nat := 0x0101
/-- `ST_STALE_EPOCH`. -/
abbrev stStaleEpoch : Nat := 0x0102
/-- `ST_NOT_OWNER`. -/
abbrev stNotOwner : Nat := 0x0103
/-- `ST_SHED`. -/
abbrev stShed : Nat := 0x0104
/-- `ST_BAD_OPCODE`. -/
abbrev stBadOpcode : Nat := 0x0201
/-- `ST_BAD_PARAM`. -/
abbrev stBadParam : Nat := 0x0202
/-- `ST_NO_SEQ`. -/
abbrev stNoSeq : Nat := 0x0203
/-- `ST_TORN_LIST`. -/
abbrev stTornList : Nat := 0x0204
/-- `ST_MEM_UNCORR`. -/
abbrev stMemUncorr : Nat := 0x0301
/-- `ST_OWNER_LOST`. -/
abbrev stOwnerLost : Nat := 0x0302
/-- `ST_EXPAND_SIZE`. -/
abbrev stExpandSize : Nat := 0x0303
/-- `ST_EXPAND_CRC`. -/
abbrev stExpandCrc : Nat := 0x0304
/-- `ST_STATE_LOST`. -/
abbrev stStateLost : Nat := 0x0401
/-- `ST_PEER_LOST`. -/
abbrev stPeerLost : Nat := 0x0402
/-- `ST_DEADLINE`. -/
abbrev stDeadline : Nat := 0x0403
/-- `ST_KEY_RETIRED`. -/
abbrev stKeyRetired : Nat := 0x0501
/-- `ST_NOT_BOUND`. -/
abbrev stNotBound : Nat := 0x0502
/-- `ST_DENIED`. -/
abbrev stDenied : Nat := 0x0503
/-- `ST_EXTENT_REVOKED`. -/
abbrev stExtentRevoked : Nat := 0x0601

/-! Event codes (R439): the high byte is BAR0 offset [27:20] of the block. -/

/-- `EV_BOOT_CFG_BAD`. -/
abbrev evBootCfgBad : Nat := 0x0001
/-- `EV_BOOT_IMAGE_BAD`. -/
abbrev evBootImageBad : Nat := 0x0002
/-- `EV_BOOT_FAIL`. -/
abbrev evBootFail : Nat := 0x0003
/-- `EV_TRAIN_FAIL`. -/
abbrev evTrainFail : Nat := 0x0004
/-- `EV_ID_REJECT`. -/
abbrev evIdReject : Nat := 0x0005
/-- `EV_ID_ABSENT`. -/
abbrev evIdAbsent : Nat := 0x0006
/-- `EV_ID_BUS`. -/
abbrev evIdBus : Nat := 0x0007
/-- `EV_SEALED_WRITE`. -/
abbrev evSealedWrite : Nat := 0x0008
/-- `EV_DB_FOREIGN`. -/
abbrev evDbForeign : Nat := 0x0101
/-- `EV_DB_BAD`. -/
abbrev evDbBad : Nat := 0x0102
/-- `EV_CMD_WRITE_IGNORED`. -/
abbrev evCmdWriteIgnored : Nat := 0x0103
/-- `EV_LIST_INPLACE`. -/
abbrev evListInplace : Nat := 0x0104
/-- `EV_TIME_STEP`. -/
abbrev evTimeStep : Nat := 0x0201
/-- `EV_TCK_WRITE_IGNORED`. -/
abbrev evTckWriteIgnored : Nat := 0x0202
/-- `EV_SCALE_SKEW`. -/
abbrev evScaleSkew : Nat := 0x0301
/-- `EV_CLIP_HIGH`. -/
abbrev evClipHigh : Nat := 0x0302
/-- `EV_CFL_DUP_MISMATCH`. -/
abbrev evCflDupMismatch : Nat := 0x0501
/-- `EV_CFL_BAD_RECORD`. -/
abbrev evCflBadRecord : Nat := 0x0502
/-- `EV_CFL_WRITE_IGNORED`. -/
abbrev evCflWriteIgnored : Nat := 0x0503
/-- `EV_BSU_LOAD_BAD`. -/
abbrev evBsuLoadBad : Nat := 0x0601
/-- `EV_TER_WRITE_IGNORED`. -/
abbrev evTerWriteIgnored : Nat := 0x0701
/-- `EV_TER_MOVE_POISON`. -/
abbrev evTerMovePoison : Nat := 0x0702
/-- `EV_STK_UNCORR`. -/
abbrev evStkUncorr : Nat := 0x0801
/-- `EV_STK_LANE_FAULT`. -/
abbrev evStkLaneFault : Nat := 0x0802
/-- `EV_BMEM_UNCORR`. -/
abbrev evBmemUncorr : Nat := 0x0803
/-- `EV_FLASH_CRC`. -/
abbrev evFlashCrc : Nat := 0x0804
/-- `EV_SRAM_UNCORR`. -/
abbrev evSramUncorr : Nat := 0x0805
/-- `EV_SRAM_COLLIDE`. -/
abbrev evSramCollide : Nat := 0x0806
/-- `EV_MARCH_FAIL`. -/
abbrev evMarchFail : Nat := 0x0807
/-- `EV_ROW_SPARED`. -/
abbrev evRowSpared : Nat := 0x0808
/-- `EV_SPARES_OUT`. -/
abbrev evSparesOut : Nat := 0x0809
/-- `EV_PCH_RETIRE_WAIT`. -/
abbrev evPchRetireWait : Nat := 0x080A
/-- `EV_PCH_RETIRED`. -/
abbrev evPchRetired : Nat := 0x080B
/-- `EV_PCH_RETIRED_ACCESS`. -/
abbrev evPchRetiredAccess : Nat := 0x080C
/-- `EV_WSET_BAD`. -/
abbrev evWsetBad : Nat := 0x0901
/-- `EV_EXPAND_CRC`. -/
abbrev evExpandCrc : Nat := 0x0902
/-- `EV_EXPAND_SIZE`. -/
abbrev evExpandSize : Nat := 0x0903
/-- `EV_PDX_MISMATCH`. -/
abbrev evPdxMismatch : Nat := 0x0A01
/-- `EV_PDX_LOST`. -/
abbrev evPdxLost : Nat := 0x0A02
/-- `EV_CXL_HOST_LOST`. -/
abbrev evCxlHostLost : Nat := 0x0B01
/-- `EV_CXD_WRITE_IGNORED`. -/
abbrev evCxdWriteIgnored : Nat := 0x0B02
/-- `EV_PORT_MODULE`. -/
abbrev evPortModule : Nat := 0x0C01
/-- `EV_PORT_DOWN`. -/
abbrev evPortDown : Nat := 0x0C02
/-- `EV_QST_MALFORMED`. -/
abbrev evQstMalformed : Nat := 0x0C03
/-- `EV_QST_PEER_UNREACH`. -/
abbrev evQstPeerUnreach : Nat := 0x0C04
/-- `EV_BL_DOWN`. -/
abbrev evBlDown : Nat := 0x0C05
/-- `EV_BL_PEER_REJECT`. -/
abbrev evBlPeerReject : Nat := 0x0C06
/-- `EV_QST_WRITE_IGNORED`. -/
abbrev evQstWriteIgnored : Nat := 0x0C07
/-- `EV_MAP_EPOCH_END`. -/
abbrev evMapEpochEnd : Nat := 0x0E01
/-- `EV_MAP_REJOIN`. -/
abbrev evMapRejoin : Nat := 0x0E02
/-- `EV_SEQ_PAGES_LOST`. -/
abbrev evSeqPagesLost : Nat := 0x0E03
/-- `EV_MAP_NO_SPARE`. -/
abbrev evMapNoSpare : Nat := 0x0E04
/-- `EV_SEQ_UNRECOVERABLE`. -/
abbrev evSeqUnrecoverable : Nat := 0x0E05
/-- `EV_TENANT_OPEN_FAIL`. -/
abbrev evTenantOpenFail : Nat := 0x0F01
/-- `EV_KEY_EXHAUSTED`. -/
abbrev evKeyExhausted : Nat := 0x0F02
/-- `EV_BIND_FAIL`. -/
abbrev evBindFail : Nat := 0x0F03
/-- `EV_REC_STORE_LOW`. -/
abbrev evRecStoreLow : Nat := 0x0F04
/-- `EV_TENANT_KEYS_DESTROYED`. -/
abbrev evTenantKeysDestroyed : Nat := 0x0F05
/-- `EV_DEBUG_REFUSED`. -/
abbrev evDebugRefused : Nat := 0x0F06
/-- `EV_SEC_WRITE_IGNORED`. -/
abbrev evSecWriteIgnored : Nat := 0x0F07
/-- `EV_AVS_ERR`. -/
abbrev evAvsErr : Nat := 0x1001
/-- `EV_RAIL_FAULT`. -/
abbrev evRailFault : Nat := 0x1002
/-- `EV_HALT`. -/
abbrev evHalt : Nat := 0x1003
/-- `EV_THERM_WARN`. -/
abbrev evThermWarn : Nat := 0x1004
/-- `EV_PWR_WRITE_IGNORED`. -/
abbrev evPwrWriteIgnored : Nat := 0x1005
/-- `EV_EVR_CLEARED`. -/
abbrev evEvrCleared : Nat := 0x1101
/-- `EV_UPDATE_STAGED`. -/
abbrev evUpdateStaged : Nat := 0x1301
/-- `EV_UPDATE_SWITCH`. -/
abbrev evUpdateSwitch : Nat := 0x1302
/-- `EV_UPDATE_ROLLBACK`. -/
abbrev evUpdateRollback : Nat := 0x1303
/-- `EV_MODULE_OUT`. -/
abbrev evModuleOut : Nat := 0x1304
/-- `EV_MODULE_IN`. -/
abbrev evModuleIn : Nat := 0x1305
/-- `EV_MON_UNLOCK`. -/
abbrev evMonUnlock : Nat := 0x1306
/-- `EV_MON_WRITE_IGNORED`. -/
abbrev evMonWriteIgnored : Nat := 0x1307

/-! Opcodes (R69). -/

/-- `NOP`. -/
abbrev opNop : Nat := 0x01
/-- `QUERY_CAPS`. -/
abbrev opQueryCaps : Nat := 0x02
/-- `RING_CFG`. -/
abbrev opRingCfg : Nat := 0x03
/-- `SEQ_OPEN`. -/
abbrev opSeqOpen : Nat := 0x11
/-- `SEQ_CLOSE`. -/
abbrev opSeqClose : Nat := 0x12
/-- `SEQ_EXTEND`. -/
abbrev opSeqExtend : Nat := 0x13
/-- `PAGELIST_SWAP`. -/
abbrev opPagelistSwap : Nat := 0x14
/-- `SEQ_FORK`. -/
abbrev opSeqFork : Nat := 0x15
/-- `APPEND_KV`. -/
abbrev opAppendKv : Nat := 0x21
/-- `COPY_PAGES`. -/
abbrev opCopyPages : Nat := 0x22
/-- `ATTEND`. -/
abbrev opAttend : Nat := 0x31
/-- `ATTEND_BLOCK`. -/
abbrev opAttendBlock : Nat := 0x32
/-- `PREFILL`. -/
abbrev opPrefill : Nat := 0x33
/-- `MERGE`. -/
abbrev opMerge : Nat := 0x41
/-- `TRIGGER_POST`. -/
abbrev opTriggerPost : Nat := 0x42
/-- `BSU_RUN`. -/
abbrev opBsuRun : Nat := 0x51
/-- `BSU_LOAD`. -/
abbrev opBsuLoad : Nat := 0x52
/-- `BSU_OWN`. -/
abbrev opBsuOwn : Nat := 0x53
/-- `BSU_RELEASE`. -/
abbrev opBsuRelease : Nat := 0x54
/-- `MIGRATE`. -/
abbrev opMigrate : Nat := 0x61
/-- `PIN`. -/
abbrev opPin : Nat := 0x62
/-- `UNPIN`. -/
abbrev opUnpin : Nat := 0x63
/-- `PLACE_HINT`. -/
abbrev opPlaceHint : Nat := 0x64
/-- `WEIGHTS_STREAM`. -/
abbrev opWeightsStream : Nat := 0x71
/-- `WEIGHTS_BIND`. -/
abbrev opWeightsBind : Nat := 0x72
/-- `WEIGHTS_EVICT`. -/
abbrev opWeightsEvict : Nat := 0x73
/-- `PD_LOOKUP`. -/
abbrev opPdLookup : Nat := 0x81
/-- `PD_INSERT`. -/
abbrev opPdInsert : Nat := 0x82
/-- `PD_DELETE`. -/
abbrev opPdDelete : Nat := 0x83
/-- `MAP_PROPOSE`. -/
abbrev opMapPropose : Nat := 0x91
/-- `MAP_READ`. -/
abbrev opMapRead : Nat := 0x92
/-- `SLICE_GRANT`. -/
abbrev opSliceGrant : Nat := 0x93
/-- `DRAIN`. -/
abbrev opDrain : Nat := 0x94
/-- `TENANT_OPEN`. -/
abbrev opTenantOpen : Nat := 0xA1
/-- `TENANT_CLOSE`. -/
abbrev opTenantClose : Nat := 0xA2
/-- `RECORD_GET`. -/
abbrev opRecordGet : Nat := 0xA3
/-- `ATTEST`. -/
abbrev opAttest : Nat := 0xA4
/-- `POWER_HINT`. -/
abbrev opPowerHint : Nat := 0xB1
/-- `MARCH_TEST`. -/
abbrev opMarchTest : Nat := 0xB2
/-- `UPDATE_STAGE`. -/
abbrev opUpdateStage : Nat := 0xB3
/-- `UPDATE_COMMIT`. -/
abbrev opUpdateCommit : Nat := 0xB4
/-- `RETIRE_PCH`. -/
abbrev opRetirePch : Nat := 0xB5

/-- Every opcode of the opcode table. -/
def opcodes : List Nat :=
  [0x01, 0x02, 0x03, 0x11, 0x12, 0x13, 0x14, 0x15, 0x21, 0x22, 0x31, 0x32, 0x33, 0x41, 0x42, 0x51, 0x52, 0x53, 0x54, 0x61, 0x62, 0x63, 0x64, 0x71, 0x72, 0x73, 0x81, 0x82, 0x83, 0x91, 0x92, 0x93, 0x94, 0xA1, 0xA2, 0xA3, 0xA4, 0xB1, 0xB2, 0xB3, 0xB4, 0xB5]

/-- Opcodes the hardware sequencers decode (R69); every other one is on the firmware path. -/
def hotOpcodes : List Nat := [0x21, 0x31, 0x41, 0x51]

/-- Timed opcodes (R69). -/
def timedOpcodes : List Nat := [0x31, 0x32, 0x33, 0x51]

/-- Is this a timed opcode. -/
def timed (op : Nat) : Bool := timedOpcodes.contains op

/-- Is this a firmware-path opcode; an opcode outside the table goes to node firmware too. -/
def fwPath (op : Nat) : Bool := !hotOpcodes.contains op

/-- Opcodes that need a non-zero EPOCH (R53). -/
def epochRequired (op : Nat) : Bool := 1 ≤ op / 16 && op / 16 ≤ 4

/-- The unknown uncertainty (R24). -/
abbrev uUnknown : Nat := 0xFFFF

/-- A stamp `t` with uncertainty `u` is ambiguous against the windows of `w` units: its interval holds a boundary `b` with
`t - u < b ≤ t + u`, or its bound is unknown (R42). -/
def ambig (w t u : Nat) : Bool :=
  u == uUnknown || (t + u) / w > (t - u) / w || (u > t && u > 0)

end Sys2Proof.Machine
end

