-- ==== Sys2Proof/Machine/RegTable.lean ====
section
/-! DEFINITION. The register tables of every chapter: one row per register (offset in BAR0, repetitions, fields with type and reset), and the
name of every field. Written from the chapters' register tables; reserved bits have no field (R4). A field's list of ranges
says which encodings a write may place in it (R5); an empty list admits all. -/

namespace Sys2Proof.Machine

/-- The field types of the register tables (00, Register tables). -/
inductive FTy where
  | ro | rw | w1c | w1s | wo | roc | sl
  deriving DecidableEq, Repr

/-- A field of a register: its low bit, width, type, reset value and the ranges a write may place in it. -/
structure FieldDef where
  lo : Nat
  w : Nat
  ty : FTy
  reset : Nat
  valid : List (Nat × Nat)
  deriving DecidableEq, Repr

/-- A register: BAR0 offset, two dimensions of repetition (count, stride), and its fields. -/
structure RegDef where
  base : Nat
  n1 : Nat
  s1 : Nat
  n2 : Nat
  s2 : Nat
  fields : List FieldDef
  deriving DecidableEq, Repr

/-- The place of one field: the offset of its register, its low bit and its width. -/
structure Fld where
  off : Nat
  lo : Nat
  w : Nat
  deriving DecidableEq, Repr

/-- Registers of block NID. -/
def regsNid : List RegDef := [
  ⟨0x0, 1, 0x0, 1, 0x0, [⟨0, 4, .ro, 0x0, []⟩, ⟨4, 4, .ro, 0x1, []⟩, ⟨16, 16, .ro, 0xC60, []⟩]⟩,
  ⟨0x10, 1, 0x0, 1, 0x0, [⟨0, 4, .ro, 0x0, []⟩, ⟨4, 1, .ro, 0x0, []⟩, ⟨5, 1, .ro, 0x0, []⟩, ⟨6, 1, .ro, 0x0, []⟩, ⟨8, 16, .ro, 0x0, []⟩]⟩,
  ⟨0x14, 1, 0x0, 1, 0x0, [⟨0, 13, .ro, 0x0, []⟩, ⟨16, 16, .ro, 0x0, []⟩]⟩]

/-- Registers of block TCK. -/
def regsTck : List RegDef := [
  ⟨0x200000, 1, 0x0, 1, 0x0, [⟨0, 32, .ro, 0x0, []⟩]⟩,
  ⟨0x200004, 1, 0x0, 1, 0x0, [⟨0, 32, .ro, 0x0, []⟩]⟩,
  ⟨0x200008, 1, 0x0, 1, 0x0, [⟨0, 16, .ro, 0xFFFF, []⟩]⟩,
  ⟨0x200010, 1, 0x0, 1, 0x0, [⟨0, 6, .ro, 0x0, []⟩, ⟨6, 26, .ro, 0x0, []⟩]⟩,
  ⟨0x200014, 1, 0x0, 1, 0x0, [⟨0, 32, .ro, 0x0, []⟩]⟩,
  ⟨0x200020, 1, 0x0, 1, 0x0, [⟨0, 3, .ro, 0x2, []⟩, ⟨4, 3, .ro, 0x2, []⟩, ⟨8, 1, .ro, 0x0, []⟩]⟩,
  ⟨0x200024, 1, 0x0, 1, 0x0, [⟨0, 32, .ro, 0x0, []⟩]⟩,
  ⟨0x200028, 1, 0x0, 1, 0x0, [⟨0, 32, .ro, 0x0, []⟩]⟩,
  ⟨0x200030, 1, 0x0, 1, 0x0, [⟨0, 3, .ro, 0x0, []⟩, ⟨3, 1, .ro, 0x0, []⟩, ⟨4, 1, .ro, 0x0, []⟩, ⟨5, 5, .ro, 0x1F, []⟩, ⟨10, 5, .ro, 0x1F, []⟩, ⟨16, 13, .ro, 0x0, []⟩, ⟨29, 2, .ro, 0x2, []⟩]⟩,
  ⟨0x200034, 1, 0x0, 1, 0x0, [⟨0, 8, .rw, 0x80, []⟩, ⟨8, 1, .rw, 0x0, []⟩, ⟨9, 1, .rw, 0x1, []⟩]⟩,
  ⟨0x200038, 1, 0x0, 1, 0x0, [⟨0, 16, .rw, 0x190, [(0xA0, 0xFFFF)]⟩]⟩,
  ⟨0x200040, 1, 0x0, 1, 0x0, [⟨0, 11, .rw, 0x10, []⟩, ⟨16, 11, .rw, 0x4, []⟩]⟩,
  ⟨0x200044, 1, 0x0, 1, 0x0, [⟨0, 11, .ro, 0x0, []⟩, ⟨16, 1, .ro, 0x0, []⟩]⟩,
  ⟨0x200048, 1, 0x0, 1, 0x0, [⟨0, 32, .roc, 0x0, []⟩]⟩,
  ⟨0x20004C, 1, 0x0, 1, 0x0, [⟨0, 16, .roc, 0x0, []⟩, ⟨16, 16, .roc, 0x0, []⟩]⟩,
  ⟨0x200050, 1, 0x0, 1, 0x0, [⟨0, 32, .ro, 0x0, []⟩]⟩,
  ⟨0x200058, 1, 0x0, 1, 0x0, [⟨0, 32, .rw, 0x0, []⟩]⟩,
  ⟨0x20005C, 1, 0x0, 1, 0x0, [⟨0, 32, .rw, 0x0, []⟩]⟩]

/-- Registers of block CMD. -/
def regsCmd : List RegDef := [
  ⟨0x100000, 1, 0x0, 1, 0x0, [⟨0, 9, .ro, 0x100, []⟩, ⟨9, 9, .ro, 0x100, []⟩, ⟨18, 4, .ro, 0x0, []⟩, ⟨22, 1, .ro, 0x1, []⟩]⟩,
  ⟨0x100010, 1, 0x0, 1, 0x0, [⟨12, 20, .rw, 0x0, []⟩]⟩,
  ⟨0x100014, 1, 0x0, 1, 0x0, [⟨0, 32, .rw, 0x0, []⟩]⟩,
  ⟨0x100018, 1, 0x0, 1, 0x0, [⟨12, 20, .rw, 0x0, []⟩]⟩,
  ⟨0x10001C, 1, 0x0, 1, 0x0, [⟨0, 32, .rw, 0x0, []⟩]⟩,
  ⟨0x100020, 1, 0x0, 1, 0x0, [⟨0, 4, .rw, 0x6, [(0x0, 0x0), (0x4, 0xF)]⟩, ⟨4, 4, .rw, 0x6, [(0x0, 0x0), (0x4, 0xF)]⟩, ⟨8, 1, .rw, 0x0, []⟩, ⟨16, 11, .rw, 0x0, []⟩]⟩,
  ⟨0x100024, 1, 0x0, 1, 0x0, [⟨0, 1, .ro, 0x0, []⟩, ⟨1, 1, .ro, 0x0, []⟩, ⟨2, 1, .ro, 0x0, []⟩]⟩,
  ⟨0x100030, 1, 0x0, 1, 0x0, [⟨0, 16, .rw, 0x1000, [(0x10, 0xFFFF)]⟩, ⟨16, 16, .rw, 0x8, [(0x2, 0xFFFF)]⟩]⟩,
  ⟨0x100040, 1, 0x0, 1, 0x0, [⟨0, 16, .roc, 0x0, []⟩, ⟨16, 16, .roc, 0x0, []⟩]⟩,
  ⟨0x100044, 1, 0x0, 1, 0x0, [⟨0, 16, .roc, 0x0, []⟩, ⟨16, 16, .roc, 0x0, []⟩]⟩,
  ⟨0x100048, 1, 0x0, 1, 0x0, [⟨0, 32, .roc, 0x0, []⟩]⟩,
  ⟨0x10004C, 1, 0x0, 1, 0x0, [⟨0, 16, .roc, 0x0, []⟩, ⟨16, 16, .roc, 0x0, []⟩]⟩,
  ⟨0x100050, 1, 0x0, 1, 0x0, [⟨0, 32, .roc, 0x0, []⟩]⟩,
  ⟨0x104000, 256, 0x10, 1, 0x0, [⟨0, 32, .ro, 0x0, []⟩]⟩,
  ⟨0x104004, 256, 0x10, 1, 0x0, [⟨0, 32, .ro, 0x0, []⟩]⟩,
  ⟨0x104008, 256, 0x10, 1, 0x0, [⟨0, 32, .ro, 0x0, []⟩]⟩,
  ⟨0x10400C, 256, 0x10, 1, 0x0, [⟨0, 17, .ro, 0x0, []⟩, ⟨17, 1, .ro, 0x0, []⟩, ⟨18, 1, .ro, 0x0, []⟩]⟩,
  ⟨0x108000, 256, 0x8, 1, 0x0, [⟨0, 32, .wo, 0x0, []⟩]⟩,
  ⟨0x108004, 256, 0x8, 1, 0x0, [⟨0, 32, .wo, 0x0, []⟩]⟩,
  ⟨0x109000, 256, 0x4, 1, 0x0, [⟨0, 8, .rw, 0x1, [(0x1, 0xFF)]⟩, ⟨8, 8, .rw, 0x0, []⟩, ⟨16, 1, .rw, 0x0, []⟩]⟩]

/-- Registers of block ATT. -/
def regsAtt : List RegDef := [
  ⟨0x300000, 32, 0x10000, 1, 0x0, [⟨0, 1, .ro, 0x1, []⟩, ⟨1, 1, .ro, 0x0, []⟩, ⟨2, 2, .ro, 0x0, []⟩, ⟨4, 1, .ro, 0x0, []⟩, ⟨16, 16, .ro, 0x0, []⟩]⟩,
  ⟨0x300004, 32, 0x10000, 1, 0x0, [⟨0, 1, .rw, 0x1, []⟩, ⟨1, 1, .rw, 0x0, []⟩]⟩,
  ⟨0x300008, 32, 0x10000, 1, 0x0, [⟨0, 8, .ro, 0x1, []⟩]⟩,
  ⟨0x300010, 32, 0x10000, 1, 0x0, [⟨0, 32, .roc, 0x0, []⟩]⟩,
  ⟨0x300014, 32, 0x10000, 1, 0x0, [⟨0, 32, .roc, 0x0, []⟩]⟩,
  ⟨0x300018, 32, 0x10000, 1, 0x0, [⟨0, 32, .roc, 0x0, []⟩]⟩,
  ⟨0x30001C, 32, 0x10000, 1, 0x0, [⟨0, 32, .roc, 0x0, []⟩]⟩,
  ⟨0x300020, 32, 0x10000, 1, 0x0, [⟨0, 32, .roc, 0x0, []⟩]⟩,
  ⟨0x300024, 32, 0x10000, 1, 0x0, [⟨0, 32, .roc, 0x0, []⟩]⟩,
  ⟨0x300028, 32, 0x10000, 1, 0x0, [⟨0, 32, .roc, 0x0, []⟩]⟩,
  ⟨0x30002C, 32, 0x10000, 1, 0x0, [⟨0, 16, .roc, 0x0, []⟩, ⟨16, 16, .roc, 0x0, []⟩]⟩,
  ⟨0x308000, 4, 0x80000, 1, 0x0, [⟨0, 13, .ro, 0x0, []⟩, ⟨16, 13, .roc, 0x0, []⟩]⟩,
  ⟨0x308004, 4, 0x80000, 1, 0x0, [⟨0, 8, .rw, 0x8, []⟩]⟩,
  ⟨0x308008, 4, 0x80000, 1, 0x0, [⟨0, 32, .roc, 0x0, []⟩]⟩,
  ⟨0x30800C, 4, 0x80000, 1, 0x0, [⟨0, 32, .roc, 0x0, []⟩]⟩,
  ⟨0x300030, 32, 0x10000, 1, 0x0, [⟨0, 32, .roc, 0x0, []⟩]⟩,
  ⟨0x300040, 32, 0x10000, 1, 0x0, [⟨0, 8, .ro, 0x0, []⟩, ⟨8, 8, .ro, 0x0, []⟩, ⟨16, 16, .roc, 0x0, []⟩]⟩,
  ⟨0x300044, 32, 0x10000, 1, 0x0, [⟨0, 12, .rw, 0x0, []⟩, ⟨12, 3, .rw, 0x0, []⟩]⟩,
  ⟨0x300048, 32, 0x10000, 1, 0x0, [⟨0, 32, .ro, 0x0, []⟩]⟩,
  ⟨0x30C000, 1, 0x0, 1, 0x0, [⟨0, 32, .ro, 0x0, []⟩]⟩,
  ⟨0x30C004, 1, 0x0, 1, 0x0, [⟨0, 26, .ro, 0x0, []⟩]⟩,
  ⟨0x30C008, 1, 0x0, 1, 0x0, [⟨0, 16, .rw, 0x40, []⟩, ⟨16, 8, .rw, 0x0, []⟩]⟩,
  ⟨0x30C100, 16, 0x10, 1, 0x0, [⟨0, 32, .ro, 0x0, []⟩]⟩,
  ⟨0x30C104, 16, 0x10, 1, 0x0, [⟨0, 32, .ro, 0x0, []⟩]⟩,
  ⟨0x30C108, 16, 0x10, 1, 0x0, [⟨0, 32, .ro, 0x0, []⟩]⟩]

/-- Registers of block CFL. -/
def regsCfl : List RegDef := [
  ⟨0x500000, 1, 0x0, 1, 0x0, [⟨0, 8, .rw, 0x20, []⟩, ⟨8, 1, .rw, 0x0, []⟩, ⟨9, 1, .rw, 0x1, []⟩]⟩,
  ⟨0x500004, 1, 0x0, 1, 0x0, [⟨0, 21, .ro, 0x100000, []⟩]⟩,
  ⟨0x500008, 1, 0x0, 1, 0x0, [⟨20, 12, .rw, 0x0, []⟩]⟩,
  ⟨0x50000C, 1, 0x0, 1, 0x0, [⟨0, 32, .rw, 0x0, []⟩]⟩,
  ⟨0x500010, 1, 0x0, 1, 0x0, [⟨0, 16, .rw, 0x0, []⟩]⟩,
  ⟨0x500014, 1, 0x0, 1, 0x0, [⟨0, 20, .ro, 0x0, []⟩]⟩,
  ⟨0x500020, 1, 0x0, 1, 0x0, [⟨0, 32, .roc, 0x0, []⟩]⟩,
  ⟨0x500024, 1, 0x0, 1, 0x0, [⟨0, 21, .roc, 0x0, []⟩]⟩,
  ⟨0x500028, 1, 0x0, 1, 0x0, [⟨0, 32, .roc, 0x0, []⟩]⟩,
  ⟨0x50002C, 1, 0x0, 1, 0x0, [⟨0, 32, .roc, 0x0, []⟩]⟩,
  ⟨0x500030, 1, 0x0, 1, 0x0, [⟨0, 16, .roc, 0x0, []⟩, ⟨16, 16, .roc, 0x0, []⟩]⟩,
  ⟨0x500034, 1, 0x0, 1, 0x0, [⟨0, 16, .roc, 0x0, []⟩, ⟨16, 16, .roc, 0x0, []⟩]⟩,
  ⟨0x500038, 1, 0x0, 1, 0x0, [⟨0, 32, .roc, 0x0, []⟩]⟩,
  ⟨0x50003C, 1, 0x0, 1, 0x0, [⟨0, 16, .roc, 0x0, []⟩, ⟨16, 16, .roc, 0x0, []⟩]⟩,
  ⟨0x500040, 1, 0x0, 1, 0x0, [⟨0, 32, .roc, 0x0, []⟩]⟩]

/-- Registers of block BSU. -/
def regsBsu : List RegDef := [
  ⟨0x600000, 8, 0x20000, 128, 0x200, [⟨0, 1, .ro, 0x1, []⟩, ⟨1, 1, .ro, 0x0, []⟩, ⟨2, 1, .ro, 0x0, []⟩, ⟨3, 1, .ro, 0x0, []⟩, ⟨4, 1, .ro, 0x0, []⟩, ⟨5, 7, .ro, 0x0, []⟩, ⟨12, 4, .ro, 0x0, []⟩, ⟨16, 16, .ro, 0x0, []⟩]⟩,
  ⟨0x600004, 8, 0x20000, 128, 0x200, [⟨0, 10, .ro, 0x0, []⟩, ⟨10, 22, .ro, 0x0, []⟩]⟩,
  ⟨0x600008, 8, 0x20000, 128, 0x200, [⟨0, 16, .ro, 0x0, []⟩, ⟨16, 16, .ro, 0x0, []⟩]⟩,
  ⟨0x600010, 8, 0x20000, 128, 0x200, [⟨0, 32, .roc, 0x0, []⟩]⟩,
  ⟨0x600014, 8, 0x20000, 128, 0x200, [⟨0, 32, .roc, 0x0, []⟩]⟩,
  ⟨0x600018, 8, 0x20000, 128, 0x200, [⟨0, 16, .roc, 0x0, []⟩, ⟨16, 16, .roc, 0x0, []⟩]⟩,
  ⟨0x60001C, 8, 0x20000, 128, 0x200, [⟨0, 32, .roc, 0x0, []⟩]⟩,
  ⟨0x600020, 8, 0x20000, 128, 0x200, [⟨0, 32, .roc, 0x0, []⟩]⟩,
  ⟨0x600024, 8, 0x20000, 128, 0x200, [⟨0, 32, .roc, 0x0, []⟩]⟩,
  ⟨0x600028, 8, 0x20000, 128, 0x200, [⟨0, 16, .roc, 0x0, []⟩, ⟨16, 16, .roc, 0x0, []⟩]⟩,
  ⟨0x60002C, 8, 0x20000, 128, 0x200, [⟨0, 32, .roc, 0x0, []⟩]⟩,
  ⟨0x610000, 8, 0x20000, 1, 0x0, [⟨0, 25, .ro, 0x0, []⟩]⟩,
  ⟨0x610004, 8, 0x20000, 1, 0x0, [⟨0, 7, .rw, 0x0, []⟩, ⟨8, 4, .rw, 0x0, []⟩, ⟨12, 4, .rw, 0x0, [(0x0, 0xB)]⟩]⟩,
  ⟨0x610008, 8, 0x20000, 1, 0x0, [⟨0, 32, .ro, 0x0, []⟩]⟩]

/-- Registers of block TER. -/
def regsTer : List RegDef := [
  ⟨0x700000, 1, 0x0, 1, 0x0, [⟨0, 28, .ro, 0x0, []⟩]⟩,
  ⟨0x700004, 1, 0x0, 1, 0x0, [⟨0, 28, .ro, 0x0, []⟩]⟩,
  ⟨0x700008, 1, 0x0, 1, 0x0, [⟨0, 14, .rw, 0x0, []⟩]⟩,
  ⟨0x70000C, 1, 0x0, 1, 0x0, [⟨0, 7, .rw, 0x19, [(0x0, 0x5A)]⟩]⟩,
  ⟨0x700010, 1, 0x0, 1, 0x0, [⟨0, 7, .ro, 0x0, []⟩, ⟨8, 8, .ro, 0x0, []⟩, ⟨16, 16, .roc, 0x0, []⟩]⟩,
  ⟨0x700014, 1, 0x0, 1, 0x0, [⟨0, 7, .rw, 0x4, []⟩, ⟨8, 7, .rw, 0x8, []⟩]⟩,
  ⟨0x700018, 1, 0x0, 1, 0x0, [⟨0, 8, .rw, 0x8, [(0x1, 0xFF)]⟩, ⟨8, 4, .rw, 0xA, [(0x4, 0xE)]⟩, ⟨12, 1, .rw, 0x1, []⟩]⟩,
  ⟨0x70001C, 1, 0x0, 1, 0x0, [⟨0, 7, .rw, 0x32, [(0x0, 0x5A)]⟩, ⟨8, 7, .rw, 0x32, [(0x0, 0x5A)]⟩]⟩,
  ⟨0x700020, 1, 0x0, 1, 0x0, [⟨0, 5, .rw, 0x4, [(0x1, 0x10)]⟩]⟩,
  ⟨0x700024, 1, 0x0, 1, 0x0, [⟨0, 8, .ro, 0x0, []⟩, ⟨8, 1, .ro, 0x0, []⟩]⟩,
  ⟨0x700040, 1, 0x0, 1, 0x0, [⟨0, 16, .roc, 0x0, []⟩, ⟨16, 16, .roc, 0x0, []⟩]⟩,
  ⟨0x700044, 1, 0x0, 1, 0x0, [⟨0, 32, .roc, 0x0, []⟩]⟩,
  ⟨0x700048, 1, 0x0, 1, 0x0, [⟨0, 16, .roc, 0x0, []⟩, ⟨16, 16, .roc, 0x0, []⟩]⟩,
  ⟨0x70004C, 1, 0x0, 1, 0x0, [⟨0, 16, .roc, 0x0, []⟩, ⟨16, 16, .roc, 0x0, []⟩]⟩,
  ⟨0x700050, 1, 0x0, 1, 0x0, [⟨0, 32, .roc, 0x0, []⟩]⟩]

/-- Registers of block MIC. -/
def regsMic : List RegDef := [
  ⟨0x800000, 8, 0x10, 1, 0x0, [⟨0, 16, .roc, 0x0, []⟩, ⟨16, 16, .roc, 0x0, []⟩]⟩,
  ⟨0x800004, 8, 0x10, 1, 0x0, [⟨0, 12, .ro, 0x0, []⟩, ⟨12, 4, .ro, 0x0, []⟩, ⟨16, 16, .roc, 0x0, []⟩]⟩,
  ⟨0x800100, 8, 0x10, 4, 0x4, [⟨0, 32, .ro, 0x0, []⟩]⟩,
  ⟨0x800200, 12, 0x4, 1, 0x0, [⟨0, 16, .roc, 0x0, []⟩, ⟨16, 16, .roc, 0x0, []⟩]⟩,
  ⟨0x800240, 8, 0x4, 1, 0x0, [⟨0, 16, .roc, 0x0, []⟩, ⟨16, 16, .roc, 0x0, []⟩]⟩,
  ⟨0x800280, 1, 0x0, 1, 0x0, [⟨0, 16, .roc, 0x0, []⟩, ⟨16, 16, .roc, 0x0, []⟩]⟩,
  ⟨0x800284, 1, 0x0, 1, 0x0, [⟨0, 32, .roc, 0x0, []⟩]⟩,
  ⟨0x800288, 1, 0x0, 1, 0x0, [⟨0, 16, .roc, 0x0, []⟩, ⟨16, 16, .roc, 0x0, []⟩]⟩,
  ⟨0x800290, 1, 0x0, 1, 0x0, [⟨0, 32, .ro, 0x0, []⟩]⟩,
  ⟨0x800294, 1, 0x0, 1, 0x0, [⟨0, 32, .ro, 0x0, []⟩]⟩,
  ⟨0x800300, 1, 0x0, 1, 0x0, [⟨0, 8, .rw, 0x18, [(0x1, 0xFF)]⟩, ⟨8, 8, .rw, 0x18, [(0x1, 0xFF)]⟩]⟩,
  ⟨0x800304, 1, 0x0, 1, 0x0, [⟨0, 16, .roc, 0x0, []⟩, ⟨16, 16, .roc, 0x0, []⟩]⟩,
  ⟨0x800308, 1, 0x0, 1, 0x0, [⟨0, 8, .rw, 0x4, [(0x1, 0x10)]⟩, ⟨8, 8, .rw, 0x8, [(0x1, 0xFF)]⟩, ⟨16, 1, .rw, 0x0, []⟩]⟩,
  ⟨0x800310, 1, 0x0, 1, 0x0, [⟨0, 1, .ro, 0x0, []⟩, ⟨1, 1, .ro, 0x0, []⟩, ⟨8, 8, .roc, 0x0, []⟩, ⟨16, 8, .roc, 0x0, []⟩, ⟨24, 8, .roc, 0x0, []⟩]⟩,
  ⟨0x800320, 1, 0x0, 1, 0x0, [⟨0, 8, .ro, 0x0, []⟩, ⟨8, 8, .ro, 0x0, []⟩, ⟨16, 8, .ro, 0x0, []⟩]⟩]

/-- Registers of block EXP. -/
def regsExp : List RegDef := [
  ⟨0x900000, 8, 0x40, 1, 0x0, [⟨0, 1, .ro, 0x1, []⟩, ⟨1, 1, .ro, 0x0, []⟩, ⟨2, 1, .ro, 0x0, []⟩]⟩,
  ⟨0x900004, 8, 0x40, 1, 0x0, [⟨0, 32, .roc, 0x0, []⟩]⟩,
  ⟨0x900008, 8, 0x40, 1, 0x0, [⟨0, 32, .roc, 0x0, []⟩]⟩,
  ⟨0x90000C, 8, 0x40, 1, 0x0, [⟨0, 32, .roc, 0x0, []⟩]⟩,
  ⟨0x900010, 8, 0x40, 1, 0x0, [⟨0, 32, .roc, 0x0, []⟩]⟩,
  ⟨0x900014, 8, 0x40, 1, 0x0, [⟨0, 32, .roc, 0x0, []⟩]⟩,
  ⟨0x900018, 8, 0x40, 1, 0x0, [⟨0, 16, .roc, 0x0, []⟩, ⟨16, 8, .roc, 0x0, []⟩, ⟨24, 8, .roc, 0x0, []⟩]⟩,
  ⟨0x900400, 1, 0x0, 1, 0x0, [⟨0, 32, .roc, 0x0, []⟩]⟩,
  ⟨0x900404, 1, 0x0, 1, 0x0, [⟨0, 7, .ro, 0x0, []⟩, ⟨8, 7, .ro, 0x0, []⟩, ⟨16, 7, .ro, 0x0, []⟩]⟩,
  ⟨0x900410, 1, 0x0, 1, 0x0, [⟨0, 32, .rw, 0x0, []⟩]⟩,
  ⟨0x900414, 1, 0x0, 1, 0x0, [⟨0, 4, .rw, 0x0, [(0x0, 0xB)]⟩, ⟨4, 1, .rw, 0x0, []⟩]⟩,
  ⟨0x900418, 1, 0x0, 1, 0x0, [⟨0, 32, .ro, 0x0, []⟩]⟩]

/-- Registers of block PDX. -/
def regsPdx : List RegDef := [
  ⟨0xA00000, 1, 0x0, 1, 0x0, [⟨0, 21, .ro, 0x0, []⟩, ⟨21, 1, .ro, 0x0, []⟩]⟩,
  ⟨0xA00004, 1, 0x0, 1, 0x0, [⟨0, 21, .rw, 0xE0000, [(0x0, 0xE0000)]⟩]⟩,
  ⟨0xA00010, 1, 0x0, 1, 0x0, [⟨0, 16, .roc, 0x0, []⟩, ⟨16, 16, .roc, 0x0, []⟩]⟩,
  ⟨0xA00014, 1, 0x0, 1, 0x0, [⟨0, 16, .roc, 0x0, []⟩, ⟨16, 16, .roc, 0x0, []⟩]⟩,
  ⟨0xA00018, 1, 0x0, 1, 0x0, [⟨0, 16, .roc, 0x0, []⟩, ⟨16, 16, .roc, 0x0, []⟩]⟩,
  ⟨0xA00020, 1, 0x0, 1, 0x0, [⟨0, 8, .rw, 0x10, [(0x1, 0xFF)]⟩]⟩,
  ⟨0xA00024, 1, 0x0, 1, 0x0, [⟨0, 16, .roc, 0x0, []⟩, ⟨16, 16, .roc, 0x0, []⟩]⟩,
  ⟨0xA00028, 1, 0x0, 1, 0x0, [⟨0, 32, .ro, 0x0, []⟩]⟩,
  ⟨0xA0002C, 1, 0x0, 1, 0x0, [⟨0, 32, .ro, 0x0, []⟩]⟩]

/-- Registers of block CXD. -/
def regsCxd : List RegDef := [
  ⟨0xB00000, 1, 0x0, 1, 0x0, [⟨0, 4, .ro, 0x0, []⟩, ⟨4, 12, .ro, 0xC00, []⟩]⟩,
  ⟨0xB00004, 1, 0x0, 1, 0x0, [⟨0, 12, .rw, 0x0, [(0x0, 0xC00)]⟩, ⟨12, 8, .rw, 0x40, [(0x8, 0x80)]⟩, ⟨20, 2, .rw, 0x0, []⟩, ⟨22, 1, .rw, 0x0, []⟩]⟩,
  ⟨0xB00010, 4, 0x4, 1, 0x0, [⟨0, 24, .rw, 0x30D4, []⟩]⟩,
  ⟨0xB00020, 4, 0x4, 1, 0x0, [⟨0, 8, .rw, 0x0, [(0x0, 0x80)]⟩, ⟨8, 16, .rw, 0x400, [(0x1, 0xFFFF)]⟩]⟩,
  ⟨0xB00030, 4, 0x4, 1, 0x0, [⟨0, 32, .wo, 0x0, []⟩]⟩,
  ⟨0xB00040, 4, 0x4, 1, 0x0, [⟨0, 1, .ro, 0x0, []⟩, ⟨1, 1, .ro, 0x0, []⟩, ⟨2, 2, .ro, 0x0, []⟩, ⟨4, 2, .ro, 0x0, []⟩, ⟨16, 16, .ro, 0x0, []⟩]⟩,
  ⟨0xB00050, 4, 0x4, 1, 0x0, [⟨0, 1, .wo, 0x0, []⟩]⟩,
  ⟨0xB00080, 4, 0x10, 1, 0x0, [⟨0, 16, .ro, 0x0, []⟩, ⟨16, 16, .roc, 0x0, []⟩]⟩,
  ⟨0xB00084, 4, 0x10, 1, 0x0, [⟨0, 32, .ro, 0x0, []⟩]⟩,
  ⟨0xB00088, 4, 0x10, 1, 0x0, [⟨0, 32, .ro, 0x0, []⟩]⟩,
  ⟨0xB00100, 1, 0x0, 1, 0x0, [⟨0, 4, .wo, 0x0, []⟩, ⟨4, 4, .wo, 0x0, []⟩, ⟨8, 1, .wo, 0x0, []⟩, ⟨16, 14, .wo, 0x0, []⟩]⟩,
  ⟨0xB00104, 1, 0x0, 1, 0x0, [⟨0, 16, .ro, 0x0, []⟩, ⟨16, 1, .ro, 0x0, []⟩, ⟨17, 14, .ro, 0x0, []⟩]⟩,
  ⟨0xB00108, 1, 0x0, 1, 0x0, [⟨0, 14, .rw, 0x0, []⟩]⟩,
  ⟨0xB0010C, 1, 0x0, 1, 0x0, [⟨0, 3, .ro, 0x0, []⟩, ⟨3, 4, .ro, 0x0, []⟩, ⟨7, 1, .ro, 0x0, []⟩, ⟨8, 4, .ro, 0x0, []⟩, ⟨12, 4, .ro, 0x0, []⟩]⟩,
  ⟨0xB00180, 1, 0x0, 1, 0x0, [⟨0, 32, .rw, 0x0, []⟩]⟩,
  ⟨0xB00184, 1, 0x0, 1, 0x0, [⟨0, 13, .rw, 0x0, []⟩]⟩,
  ⟨0xB00188, 1, 0x0, 1, 0x0, [⟨0, 14, .rw, 0x0, []⟩, ⟨16, 16, .rw, 0x0, []⟩]⟩,
  ⟨0xB0018C, 1, 0x0, 1, 0x0, [⟨0, 1, .wo, 0x0, []⟩, ⟨16, 16, .ro, 0x0, []⟩]⟩,
  ⟨0xB00190, 1, 0x0, 1, 0x0, [⟨0, 1, .ro, 0x0, []⟩]⟩,
  ⟨0xB00200, 1, 0x0, 1, 0x0, [⟨0, 25, .ro, 0x0, []⟩]⟩,
  ⟨0xB00204, 1, 0x0, 1, 0x0, [⟨0, 32, .roc, 0x0, []⟩]⟩,
  ⟨0xB00208, 1, 0x0, 1, 0x0, [⟨0, 32, .roc, 0x0, []⟩]⟩,
  ⟨0xB0020C, 1, 0x0, 1, 0x0, [⟨0, 32, .roc, 0x0, []⟩]⟩]

/-- Registers of block QST. -/
def regsQst : List RegDef := [
  ⟨0xC00000, 1, 0x0, 1, 0x0, [⟨0, 16, .rw, 0x4A54, []⟩]⟩,
  ⟨0xC00004, 1, 0x0, 1, 0x0, [⟨0, 6, .rw, 0x30, []⟩, ⟨8, 6, .rw, 0x22, []⟩, ⟨16, 6, .rw, 0xA, []⟩, ⟨24, 6, .rw, 0x0, []⟩]⟩,
  ⟨0xC00008, 1, 0x0, 1, 0x0, [⟨0, 32, .rw, 0x0, []⟩]⟩,
  ⟨0xC0000C, 1, 0x0, 1, 0x0, [⟨0, 32, .rw, 0x0, []⟩]⟩,
  ⟨0xC00010, 1, 0x0, 1, 0x0, [⟨0, 8, .rw, 0x40, [(0x1, 0xFF)]⟩, ⟨8, 8, .rw, 0x20, [(0x1, 0xFF)]⟩, ⟨16, 4, .rw, 0x1, [(0x1, 0xF)]⟩, ⟨20, 8, .rw, 0x28, [(0x1, 0xFF)]⟩]⟩,
  ⟨0xC00014, 1, 0x0, 1, 0x0, [⟨0, 8, .rw, 0x10, [(0x1, 0xFF)]⟩, ⟨8, 4, .rw, 0x4, [(0x1, 0xF)]⟩, ⟨16, 5, .rw, 0x10, [(0x1, 0x1F)]⟩, ⟨24, 8, .rw, 0x10, []⟩]⟩,
  ⟨0xC00100, 8, 0x20, 1, 0x0, [⟨0, 1, .ro, 0x0, []⟩, ⟨1, 1, .ro, 0x0, []⟩, ⟨2, 1, .ro, 0x0, []⟩]⟩,
  ⟨0xC00104, 8, 0x20, 1, 0x0, [⟨0, 1, .rw, 0x1, []⟩, ⟨1, 2, .rw, 0x0, []⟩, ⟨3, 1, .rw, 0x0, []⟩, ⟨4, 12, .rw, 0x0, []⟩, ⟨16, 3, .rw, 0x0, []⟩]⟩,
  ⟨0xC00108, 8, 0x20, 1, 0x0, [⟨0, 32, .rw, 0x0, []⟩]⟩,
  ⟨0xC0010C, 8, 0x20, 1, 0x0, [⟨0, 32, .rw, 0x0, []⟩]⟩,
  ⟨0xC00110, 8, 0x20, 1, 0x0, [⟨0, 16, .roc, 0x0, []⟩, ⟨16, 16, .roc, 0x0, []⟩]⟩,
  ⟨0xC00300, 6, 0x10, 1, 0x0, [⟨0, 1, .ro, 0x0, []⟩, ⟨3, 13, .ro, 0x0, []⟩, ⟨16, 16, .roc, 0x0, []⟩]⟩,
  ⟨0xC00200, 1, 0x0, 1, 0x0, [⟨0, 21, .ro, 0x0, []⟩]⟩,
  ⟨0xC00204, 1, 0x0, 1, 0x0, [⟨0, 32, .roc, 0x0, []⟩]⟩,
  ⟨0xC00208, 1, 0x0, 1, 0x0, [⟨0, 16, .roc, 0x0, []⟩, ⟨16, 16, .roc, 0x0, []⟩]⟩,
  ⟨0xC0020C, 1, 0x0, 1, 0x0, [⟨0, 32, .roc, 0x0, []⟩]⟩,
  ⟨0xC00210, 1, 0x0, 1, 0x0, [⟨0, 32, .roc, 0x0, []⟩]⟩,
  ⟨0xC00214, 1, 0x0, 1, 0x0, [⟨0, 32, .roc, 0x0, []⟩]⟩,
  ⟨0xC00218, 1, 0x0, 1, 0x0, [⟨0, 32, .roc, 0x0, []⟩]⟩,
  ⟨0xC01000, 1, 0x0, 1, 0x0, [⟨0, 20, .wo, 0x0, []⟩, ⟨20, 2, .wo, 0x0, []⟩]⟩,
  ⟨0xC01004, 1, 0x0, 1, 0x0, [⟨0, 32, .wo, 0x0, []⟩]⟩,
  ⟨0xC02000, 1, 0x0, 1, 0x0, [⟨0, 4, .wo, 0x0, []⟩]⟩,
  ⟨0xC02004, 1, 0x0, 1, 0x0, [⟨0, 16, .ro, 0x0, []⟩, ⟨16, 1, .ro, 0x0, []⟩]⟩,
  ⟨0xC02040, 16, 0x4, 1, 0x0, [⟨0, 32, .rw, 0x0, []⟩]⟩]

/-- Registers of block SCH. -/
def regsSch : List RegDef := [
  ⟨0xD00000, 1, 0x0, 1, 0x0, [⟨0, 12, .rw, 0x40, [(0x1, 0xFFF)]⟩, ⟨12, 4, .rw, 0x7, []⟩]⟩,
  ⟨0xD00004, 1, 0x0, 1, 0x0, [⟨0, 32, .ro, 0x0, []⟩]⟩,
  ⟨0xD00010, 12, 0x4, 1, 0x0, [⟨0, 8, .rw, 0x0, []⟩, ⟨8, 8, .rw, 0x0, []⟩]⟩,
  ⟨0xD01000, 80, 0x20, 1, 0x0, [⟨0, 16, .rw, 0x400, [(0x1, 0xFFFF)]⟩, ⟨16, 16, .rw, 0x100, []⟩]⟩,
  ⟨0xD01004, 80, 0x20, 1, 0x0, [⟨0, 8, .rw, 0x0, [(0x1, 0xFF)]⟩]⟩,
  ⟨0xD01008, 80, 0x20, 1, 0x0, [⟨0, 16, .ro, 0x0, []⟩, ⟨16, 16, .ro, 0x0, []⟩]⟩,
  ⟨0xD0100C, 80, 0x20, 1, 0x0, [⟨0, 24, .ro, 0x0, []⟩]⟩,
  ⟨0xD01010, 80, 0x20, 1, 0x0, [⟨0, 16, .ro, 0x0, []⟩, ⟨16, 16, .ro, 0x100, []⟩]⟩,
  ⟨0xD01014, 80, 0x20, 1, 0x0, [⟨0, 16, .roc, 0x0, []⟩, ⟨16, 16, .roc, 0x0, []⟩]⟩]

/-- Registers of block MAP. -/
def regsMap : List RegDef := [
  ⟨0xE00000, 1, 0x0, 1, 0x0, [⟨0, 32, .ro, 0x0, []⟩]⟩,
  ⟨0xE00004, 1, 0x0, 1, 0x0, [⟨0, 32, .ro, 0x0, []⟩]⟩,
  ⟨0xE00008, 1, 0x0, 1, 0x0, [⟨0, 3, .ro, 0x0, []⟩, ⟨3, 1, .ro, 0x0, []⟩, ⟨4, 1, .ro, 0x0, []⟩, ⟨5, 1, .ro, 0x0, []⟩, ⟨8, 8, .ro, 0xFF, []⟩, ⟨16, 16, .ro, 0xFFFF, []⟩]⟩,
  ⟨0xE0000C, 1, 0x0, 1, 0x0, [⟨0, 8, .rw, 0x40, [(0x30, 0xFF)]⟩, ⟨8, 1, .rw, 0x0, []⟩, ⟨16, 16, .rw, 0x400, [(0x1, 0xFFFF)]⟩]⟩,
  ⟨0xE00010, 1, 0x0, 1, 0x0, [⟨0, 32, .ro, 0x0, []⟩]⟩,
  ⟨0xE00014, 1, 0x0, 1, 0x0, [⟨0, 10, .rw, 0x32, [(0x1, 0x190)]⟩]⟩,
  ⟨0xE00018, 1, 0x0, 1, 0x0, [⟨0, 32, .ro, 0x0, []⟩]⟩,
  ⟨0xE0001C, 1, 0x0, 1, 0x0, [⟨0, 32, .ro, 0x0, []⟩]⟩,
  ⟨0xE00020, 1, 0x0, 1, 0x0, [⟨0, 16, .roc, 0x0, []⟩, ⟨16, 16, .roc, 0x0, []⟩]⟩]

/-- Registers of block SEC. -/
def regsSec : List RegDef := [
  ⟨0xF00000, 1, 0x0, 1, 0x0, [⟨0, 3, .ro, 0x0, []⟩, ⟨3, 1, .w1s, 0x0, []⟩, ⟨4, 1, .ro, 0x0, []⟩, ⟨16, 16, .ro, 0x0, []⟩]⟩,
  ⟨0xF00004, 1, 0x0, 1, 0x0, [⟨0, 16, .ro, 0x0, []⟩]⟩,
  ⟨0xF00100, 64, 0x4, 1, 0x0, [⟨0, 2, .ro, 0x0, []⟩, ⟨2, 1, .ro, 0x0, []⟩]⟩,
  ⟨0xF00200, 1, 0x0, 1, 0x0, [⟨0, 4, .wo, 0x0, []⟩, ⟨4, 6, .wo, 0x0, []⟩]⟩,
  ⟨0xF00204, 1, 0x0, 1, 0x0, [⟨0, 32, .rw, 0x0, []⟩]⟩,
  ⟨0xF00208, 1, 0x0, 1, 0x0, [⟨0, 32, .rw, 0x0, []⟩]⟩,
  ⟨0xF0020C, 1, 0x0, 1, 0x0, [⟨0, 16, .ro, 0x0, []⟩, ⟨16, 1, .ro, 0x0, []⟩]⟩,
  ⟨0xF00300, 1, 0x0, 1, 0x0, [⟨0, 4, .rw, 0x0, []⟩]⟩,
  ⟨0xF00400, 1, 0x0, 1, 0x0, [⟨0, 16, .sl, 0x400, [(0x100, 0xFFFF)]⟩]⟩,
  ⟨0xF00404, 1, 0x0, 1, 0x0, [⟨0, 7, .ro, 0x64, []⟩, ⟨7, 1, .ro, 0x0, []⟩, ⟨16, 16, .roc, 0x0, []⟩]⟩,
  ⟨0xF00408, 1, 0x0, 1, 0x0, [⟨0, 32, .ro, 0x0, []⟩]⟩,
  ⟨0xF0040C, 1, 0x0, 1, 0x0, [⟨0, 32, .ro, 0x0, []⟩]⟩,
  ⟨0xF00410, 1, 0x0, 1, 0x0, [⟨0, 32, .roc, 0x0, []⟩]⟩,
  ⟨0xF00420, 1, 0x0, 1, 0x0, [⟨0, 16, .roc, 0x0, []⟩, ⟨16, 3, .ro, 0x0, []⟩]⟩]

/-- Registers of block PWR. -/
def regsPwr : List RegDef := [
  ⟨0x1000000, 1, 0x0, 1, 0x0, [⟨0, 3, .ro, 0x0, []⟩, ⟨3, 3, .ro, 0x0, []⟩, ⟨6, 1, .ro, 0x0, []⟩, ⟨7, 3, .ro, 0x0, []⟩, ⟨10, 1, .ro, 0x0, []⟩]⟩,
  ⟨0x1000004, 1, 0x0, 1, 0x0, [⟨0, 16, .ro, 0x0, []⟩, ⟨16, 16, .roc, 0x0, []⟩]⟩,
  ⟨0x1000008, 1, 0x0, 1, 0x0, [⟨0, 10, .ro, 0x0, []⟩]⟩,
  ⟨0x1000010, 6, 0x4, 1, 0x0, [⟨0, 16, .roc, 0x0, []⟩, ⟨16, 16, .roc, 0x0, []⟩]⟩,
  ⟨0x1000030, 1, 0x0, 1, 0x0, [⟨0, 3, .rw, 0x2, [(0x0, 0x3)]⟩]⟩,
  ⟨0x1000040, 4, 0x4, 1, 0x0, [⟨0, 32, .roc, 0x0, []⟩]⟩,
  ⟨0x1000080, 13, 0x4, 1, 0x0, [⟨0, 8, .ro, 0x0, []⟩, ⟨8, 8, .roc, 0x0, []⟩, ⟨16, 2, .ro, 0x0, []⟩]⟩,
  ⟨0x10000C0, 1, 0x0, 1, 0x0, [⟨0, 8, .rw, 0x5F, [(0x50, 0x64)]⟩, ⟨8, 8, .rw, 0x64, [(0x0, 0x68)]⟩]⟩,
  ⟨0x1000100, 1, 0x0, 1, 0x0, [⟨0, 12, .ro, 0x0, []⟩]⟩,
  ⟨0x1000110, 6, 0x4, 1, 0x0, [⟨0, 12, .ro, 0x0, []⟩, ⟨12, 16, .ro, 0x0, []⟩, ⟨28, 1, .ro, 0x0, []⟩, ⟨29, 1, .w1c, 0x0, []⟩]⟩,
  ⟨0x1000200, 1, 0x0, 1, 0x0, [⟨0, 1, .wo, 0x0, []⟩, ⟨1, 1, .wo, 0x0, []⟩]⟩,
  ⟨0x1000204, 1, 0x0, 1, 0x0, [⟨0, 4, .ro, 0x0, []⟩, ⟨16, 16, .ro, 0x0, []⟩]⟩]

/-- Registers of block PMC. -/
def regsPmc : List RegDef := [
  ⟨0x1200000, 64, 0x100, 1, 0x0, [⟨0, 32, .ro, 0x0, []⟩]⟩,
  ⟨0x1200004, 64, 0x100, 1, 0x0, [⟨0, 32, .ro, 0x0, []⟩]⟩,
  ⟨0x1200010, 64, 0x100, 8, 0x4, [⟨0, 16, .rw, 0x1, []⟩, ⟨16, 1, .rw, 0x0, []⟩]⟩,
  ⟨0x1200040, 64, 0x100, 8, 0x8, [⟨0, 32, .rw, 0x0, []⟩]⟩,
  ⟨0x1200044, 64, 0x100, 8, 0x8, [⟨0, 16, .rw, 0x0, []⟩]⟩,
  ⟨0x1200080, 64, 0x100, 1, 0x0, [⟨0, 8, .w1c, 0x0, []⟩]⟩,
  ⟨0x1204000, 1, 0x0, 1, 0x0, [⟨0, 1, .rw, 0x0, []⟩, ⟨1, 1, .wo, 0x0, []⟩]⟩,
  ⟨0x1204010, 1, 0x0, 1, 0x0, [⟨0, 5, .rw, 0xA, [(0x1, 0x1F)]⟩, ⟨5, 1, .rw, 0x0, []⟩]⟩,
  ⟨0x1204014, 1, 0x0, 1, 0x0, [⟨0, 32, .rw, 0x1D874C29, [(0x1, 0xFFFFFFFF)]⟩]⟩,
  ⟨0x1204018, 1, 0x0, 1, 0x0, [⟨0, 32, .ro, 0x0, []⟩]⟩,
  ⟨0x120401C, 1, 0x0, 1, 0x0, [⟨0, 12, .rw, 0x0, []⟩]⟩,
  ⟨0x1204040, 16, 0x4, 1, 0x0, [⟨0, 32, .ro, 0x0, []⟩]⟩]

/-- Registers of block EVR. -/
def regsEvr : List RegDef := [
  ⟨0x1100000, 1, 0x0, 1, 0x0, [⟨0, 15, .ro, 0x0, []⟩, ⟨15, 1, .ro, 0x0, []⟩, ⟨16, 1, .ro, 0x0, []⟩, ⟨17, 15, .ro, 0x0, []⟩]⟩,
  ⟨0x1100004, 1, 0x0, 1, 0x0, [⟨0, 32, .ro, 0x0, []⟩]⟩,
  ⟨0x1100008, 1, 0x0, 1, 0x0, [⟨0, 16, .rw, 0x400, [(0x1, 0xFFFF)]⟩, ⟨16, 8, .rw, 0x4, [(0x1, 0xFF)]⟩]⟩,
  ⟨0x110000C, 1, 0x0, 1, 0x0, [⟨0, 1, .wo, 0x0, []⟩]⟩,
  ⟨0x1100010, 1, 0x0, 1, 0x0, [⟨0, 14, .rw, 0x0, []⟩]⟩,
  ⟨0x1100020, 8, 0x4, 1, 0x0, [⟨0, 32, .ro, 0xFFFFFFFF, []⟩]⟩,
  ⟨0x1100040, 1, 0x0, 1, 0x0, [⟨0, 32, .ro, 0x0, []⟩]⟩]

/-- Registers of block MON. -/
def regsMon : List RegDef := [
  ⟨0x1300000, 1, 0x0, 1, 0x0, [⟨0, 1, .ro, 0x0, []⟩, ⟨1, 1, .ro, 0x0, []⟩, ⟨2, 1, .ro, 0x0, []⟩, ⟨3, 1, .ro, 0x0, []⟩]⟩,
  ⟨0x1300004, 1, 0x0, 1, 0x0, [⟨0, 2, .rw, 0x0, [(0x0, 0x2)]⟩]⟩,
  ⟨0x1300010, 1, 0x0, 1, 0x0, [⟨0, 32, .wo, 0x0, []⟩]⟩,
  ⟨0x1300014, 1, 0x0, 1, 0x0, [⟨0, 1, .wo, 0x0, []⟩, ⟨16, 16, .ro, 0x0, []⟩]⟩,
  ⟨0x1300018, 1, 0x0, 1, 0x0, [⟨0, 1, .wo, 0x0, []⟩]⟩]

/-- Every register of BAR0 space. -/
def regTable : List RegDef :=
  regsNid ++ regsTck ++ regsCmd ++ regsAtt ++ regsCfl ++ regsBsu ++ regsTer ++ regsMic ++ regsExp ++ regsPdx ++ regsCxd ++ regsQst ++ regsSch ++ regsMap ++ regsSec ++ regsPwr ++ regsPmc ++ regsEvr ++ regsMon

/-! The fields by name. -/

namespace Rg

/-- `NID_IDENT.MINOR`. -/
abbrev nidIdentMinor : Fld := ⟨0x0, 0, 4⟩
/-- `NID_IDENT.MAJOR`. -/
abbrev nidIdentMajor : Fld := ⟨0x0, 4, 4⟩
/-- `NID_IDENT.PART`. -/
abbrev nidIdentPart : Fld := ⟨0x0, 16, 16⟩
/-- `TCK_TIME_LO.TIME_LO`. -/
abbrev tckTimeLoTimeLo : Fld := ⟨0x200000, 0, 32⟩
/-- `TCK_TIME_HI.TIME_HI`. -/
abbrev tckTimeHiTimeHi : Fld := ⟨0x200004, 0, 32⟩
/-- `TCK_UNCERT.UNCERT`. -/
abbrev tckUncertUncert : Fld := ⟨0x200008, 0, 16⟩
/-- `TCK_NOW_LO.NOTCH`. -/
abbrev tckNowLoNotch : Fld := ⟨0x200010, 0, 6⟩
/-- `TCK_NOW_LO.TICK_LO`. -/
abbrev tckNowLoTickLo : Fld := ⟨0x200010, 6, 26⟩
/-- `TCK_NOW_HI.TICK_HI`. -/
abbrev tckNowHiTickHi : Fld := ⟨0x200014, 0, 32⟩
/-- `TCK_PERIOD.CUR`. -/
abbrev tckPeriodCur : Fld := ⟨0x200020, 0, 3⟩
/-- `TCK_PERIOD.NEXT`. -/
abbrev tckPeriodNext : Fld := ⟨0x200020, 4, 3⟩
/-- `TCK_PERIOD.SWITCH_PEND`. -/
abbrev tckPeriodSwitchPend : Fld := ⟨0x200020, 8, 1⟩
/-- `TCK_SWITCH_LO.SWITCH`. -/
abbrev tckSwitchLoSwitch : Fld := ⟨0x200024, 0, 32⟩
/-- `TCK_SWITCH_HI.SWITCH`. -/
abbrev tckSwitchHiSwitch : Fld := ⟨0x200028, 0, 32⟩
/-- `TCK_STATUS.STATE`. -/
abbrev tckStatusState : Fld := ⟨0x200030, 0, 3⟩
/-- `TCK_STATUS.GM`. -/
abbrev tckStatusGm : Fld := ⟨0x200030, 3, 1⟩
/-- `TCK_STATUS.EXT_OK`. -/
abbrev tckStatusExtOk : Fld := ⟨0x200030, 4, 1⟩
/-- `TCK_STATUS.HOPS`. -/
abbrev tckStatusHops : Fld := ⟨0x200030, 5, 5⟩
/-- `TCK_STATUS.UPSTREAM`. -/
abbrev tckStatusUpstream : Fld := ⟨0x200030, 10, 5⟩
/-- `TCK_STATUS.GM_NODE`. -/
abbrev tckStatusGmNode : Fld := ⟨0x200030, 16, 13⟩
/-- `TCK_STATUS.GM_CLASS`. -/
abbrev tckStatusGmClass : Fld := ⟨0x200030, 29, 2⟩
/-- `TCK_GM_CFG.PRIO`. -/
abbrev tckGmCfgPrio : Fld := ⟨0x200034, 0, 8⟩
/-- `TCK_GM_CFG.EXT_EN`. -/
abbrev tckGmCfgExtEn : Fld := ⟨0x200034, 8, 1⟩
/-- `TCK_GM_CFG.ELIGIBLE`. -/
abbrev tckGmCfgEligible : Fld := ⟨0x200034, 9, 1⟩
/-- `TCK_HOLD_LIMIT.LIMIT`. -/
abbrev tckHoldLimitLimit : Fld := ⟨0x200038, 0, 16⟩
/-- `TCK_SUSPECT.THR`. -/
abbrev tckSuspectThr : Fld := ⟨0x200040, 0, 11⟩
/-- `TCK_SUSPECT.CLR`. -/
abbrev tckSuspectClr : Fld := ⟨0x200040, 16, 11⟩
/-- `TCK_LATE.COUNT`. -/
abbrev tckLateCount : Fld := ⟨0x200044, 0, 11⟩
/-- `TCK_LATE.SUSPECT`. -/
abbrev tckLateSuspect : Fld := ⟨0x200044, 16, 1⟩
/-- `TCK_LATE_TOTAL.TOTAL`. -/
abbrev tckLateTotalTotal : Fld := ⟨0x200048, 0, 32⟩
/-- `TCK_EXT_ERR.TOD_BAD`. -/
abbrev tckExtErrTodBad : Fld := ⟨0x20004C, 0, 16⟩
/-- `TCK_EXT_ERR.PPS_MISS`. -/
abbrev tckExtErrPpsMiss : Fld := ⟨0x20004C, 16, 16⟩
/-- `TCK_EXT_OFFSET.OFFSET`. -/
abbrev tckExtOffsetOffset : Fld := ⟨0x200050, 0, 32⟩
/-- `TCK_SEED_LO.SEED`. -/
abbrev tckSeedLoSeed : Fld := ⟨0x200058, 0, 32⟩
/-- `TCK_SEED_HI.SEED`. -/
abbrev tckSeedHiSeed : Fld := ⟨0x20005C, 0, 32⟩
/-- `CMD_CAPS.NSQ`. -/
abbrev cmdCapsNsq : Fld := ⟨0x100000, 0, 9⟩
/-- `CMD_CAPS.NCQ`. -/
abbrev cmdCapsNcq : Fld := ⟨0x100000, 9, 9⟩
/-- `CMD_CAPS.MAX_LOG2`. -/
abbrev cmdCapsMaxLog2 : Fld := ⟨0x100000, 18, 4⟩
/-- `CMD_CAPS.REMOTE`. -/
abbrev cmdCapsRemote : Fld := ⟨0x100000, 22, 1⟩
/-- `CMD_ADMIN_SQ_LO.BASE`. -/
abbrev cmdAdminSqLoBase : Fld := ⟨0x100010, 12, 20⟩
/-- `CMD_ADMIN_SQ_HI.BASE`. -/
abbrev cmdAdminSqHiBase : Fld := ⟨0x100014, 0, 32⟩
/-- `CMD_ADMIN_CQ_LO.BASE`. -/
abbrev cmdAdminCqLoBase : Fld := ⟨0x100018, 12, 20⟩
/-- `CMD_ADMIN_CQ_HI.BASE`. -/
abbrev cmdAdminCqHiBase : Fld := ⟨0x10001C, 0, 32⟩
/-- `CMD_ADMIN_CFG.SQ_LOG2`. -/
abbrev cmdAdminCfgSqLog2 : Fld := ⟨0x100020, 0, 4⟩
/-- `CMD_ADMIN_CFG.CQ_LOG2`. -/
abbrev cmdAdminCfgCqLog2 : Fld := ⟨0x100020, 4, 4⟩
/-- `CMD_ADMIN_CFG.EN`. -/
abbrev cmdAdminCfgEn : Fld := ⟨0x100020, 8, 1⟩
/-- `CMD_ADMIN_CFG.MSIX`. -/
abbrev cmdAdminCfgMsix : Fld := ⟨0x100020, 16, 11⟩
/-- `CMD_STATUS.READY`. -/
abbrev cmdStatusReady : Fld := ⟨0x100024, 0, 1⟩
/-- `CMD_STATUS.ADMIN_EN`. -/
abbrev cmdStatusAdminEn : Fld := ⟨0x100024, 1, 1⟩
/-- `CMD_STATUS.FW_RUN`. -/
abbrev cmdStatusFwRun : Fld := ⟨0x100024, 2, 1⟩
/-- `CMD_HORIZON.MAX`. -/
abbrev cmdHorizonMax : Fld := ⟨0x100030, 0, 16⟩
/-- `CMD_HORIZON.DEADLINE_DEF`. -/
abbrev cmdHorizonDeadlineDef : Fld := ⟨0x100030, 16, 16⟩
/-- `CMD_REFUSED_A.BUSY`. -/
abbrev cmdRefusedABusy : Fld := ⟨0x100040, 0, 16⟩
/-- `CMD_REFUSED_A.STALE`. -/
abbrev cmdRefusedAStale : Fld := ⟨0x100040, 16, 16⟩
/-- `CMD_REFUSED_B.SHED`. -/
abbrev cmdRefusedBShed : Fld := ⟨0x100044, 0, 16⟩
/-- `CMD_REFUSED_B.DENIED`. -/
abbrev cmdRefusedBDenied : Fld := ⟨0x100044, 16, 16⟩
/-- `CMD_ACC_LATE.LATE`. -/
abbrev cmdAccLateLate : Fld := ⟨0x100048, 0, 32⟩
/-- `CMD_DB_ERR.BAD`. -/
abbrev cmdDbErrBad : Fld := ⟨0x10004C, 0, 16⟩
/-- `CMD_DB_ERR.FOREIGN`. -/
abbrev cmdDbErrForeign : Fld := ⟨0x10004C, 16, 16⟩
/-- `CMD_HOT_DIVERT.DIVERT`. -/
abbrev cmdHotDivertDivert : Fld := ⟨0x100050, 0, 32⟩
/-- `CMD_RING_STATE_HEAD.SQ_HEAD`. -/
abbrev cmdRingStateHeadSqHead (i : Nat) : Fld := ⟨0x104000 + 0x10 * i, 0, 32⟩
/-- `CMD_RING_STATE_TAIL.SQ_TAIL`. -/
abbrev cmdRingStateTailSqTail (i : Nat) : Fld := ⟨0x104004 + 0x10 * i, 0, 32⟩
/-- `CMD_RING_STATE_POSTED.CQ_POSTED`. -/
abbrev cmdRingStatePostedCqPosted (i : Nat) : Fld := ⟨0x104008 + 0x10 * i, 0, 32⟩
/-- `CMD_RING_STATE_OUT.OUTSTANDING`. -/
abbrev cmdRingStateOutOutstanding (i : Nat) : Fld := ⟨0x10400C + 0x10 * i, 0, 17⟩
/-- `CMD_RING_STATE_OUT.SQ_EN`. -/
abbrev cmdRingStateOutSqEn (i : Nat) : Fld := ⟨0x10400C + 0x10 * i, 17, 1⟩
/-- `CMD_RING_STATE_OUT.CQ_EN`. -/
abbrev cmdRingStateOutCqEn (i : Nat) : Fld := ⟨0x10400C + 0x10 * i, 18, 1⟩
/-- `CMD_SQ_DB.TAIL`. -/
abbrev cmdSqDbTail (i : Nat) : Fld := ⟨0x108000 + 0x8 * i, 0, 32⟩
/-- `CMD_CQ_DB.HEAD`. -/
abbrev cmdCqDbHead (i : Nat) : Fld := ⟨0x108004 + 0x8 * i, 0, 32⟩
/-- `CMD_CQ_INTR.COUNT`. -/
abbrev cmdCqIntrCount (i : Nat) : Fld := ⟨0x109000 + 0x4 * i, 0, 8⟩
/-- `CMD_CQ_INTR.DELAY`. -/
abbrev cmdCqIntrDelay (i : Nat) : Fld := ⟨0x109000 + 0x4 * i, 8, 8⟩
/-- `CMD_CQ_INTR.EN`. -/
abbrev cmdCqIntrEn (i : Nat) : Fld := ⟨0x109000 + 0x4 * i, 16, 1⟩
/-- `ATT_CL_STATUS.IN_SERVICE`. -/
abbrev attClStatusInService (i : Nat) : Fld := ⟨0x300000 + 0x10000 * i, 0, 1⟩
/-- `ATT_CL_STATUS.BUSY`. -/
abbrev attClStatusBusy (i : Nat) : Fld := ⟨0x300000 + 0x10000 * i, 1, 1⟩
/-- `ATT_CL_STATUS.DIE`. -/
abbrev attClStatusDie (i : Nat) : Fld := ⟨0x300000 + 0x10000 * i, 2, 2⟩
/-- `ATT_CL_STATUS.HALF_CLK`. -/
abbrev attClStatusHalfClk (i : Nat) : Fld := ⟨0x300000 + 0x10000 * i, 4, 1⟩
/-- `ATT_CL_STATUS.COMP`. -/
abbrev attClStatusComp (i : Nat) : Fld := ⟨0x300000 + 0x10000 * i, 16, 16⟩
/-- `ATT_CL_CTRL.STEAL_EN`. -/
abbrev attClCtrlStealEn (i : Nat) : Fld := ⟨0x300004 + 0x10000 * i, 0, 1⟩
/-- `ATT_CL_CTRL.DRAIN`. -/
abbrev attClCtrlDrain (i : Nat) : Fld := ⟨0x300004 + 0x10000 * i, 1, 1⟩
/-- `ATT_E2F.VER`. -/
abbrev attE2fVer (i : Nat) : Fld := ⟨0x300008 + 0x10000 * i, 0, 8⟩
/-- `ATT_GRANULES.COUNT`. -/
abbrev attGranulesCount (i : Nat) : Fld := ⟨0x300010 + 0x10000 * i, 0, 32⟩
/-- `ATT_STEALS.COUNT`. -/
abbrev attStealsCount (i : Nat) : Fld := ⟨0x300014 + 0x10000 * i, 0, 32⟩
/-- `ATT_RESCALES.COUNT`. -/
abbrev attRescalesCount (i : Nat) : Fld := ⟨0x300018 + 0x10000 * i, 0, 32⟩
/-- `ATT_TWO_PASS.COUNT`. -/
abbrev attTwoPassCount (i : Nat) : Fld := ⟨0x30001C + 0x10000 * i, 0, 32⟩
/-- `ATT_STALL_PAGE.CYCLES`. -/
abbrev attStallPageCycles (i : Nat) : Fld := ⟨0x300020 + 0x10000 * i, 0, 32⟩
/-- `ATT_STALL_TILE.CYCLES`. -/
abbrev attStallTileCycles (i : Nat) : Fld := ⟨0x300024 + 0x10000 * i, 0, 32⟩
/-- `ATT_NONFINITE.COUNT`. -/
abbrev attNonfiniteCount (i : Nat) : Fld := ⟨0x300028 + 0x10000 * i, 0, 32⟩
/-- `ATT_MEM_ERR.UNCORR`. -/
abbrev attMemErrUncorr (i : Nat) : Fld := ⟨0x30002C + 0x10000 * i, 0, 16⟩
/-- `ATT_MEM_ERR.OWNER_LOST`. -/
abbrev attMemErrOwnerLost (i : Nat) : Fld := ⟨0x30002C + 0x10000 * i, 16, 16⟩
/-- `ATT_DQ_STATUS.DEPTH`. -/
abbrev attDqStatusDepth (i : Nat) : Fld := ⟨0x308000 + 0x80000 * i, 0, 13⟩
/-- `ATT_DQ_STATUS.HIGH`. -/
abbrev attDqStatusHigh (i : Nat) : Fld := ⟨0x308000 + 0x80000 * i, 16, 13⟩
/-- `ATT_DQ_CFG.STEAL_MIN`. -/
abbrev attDqCfgStealMin (i : Nat) : Fld := ⟨0x308004 + 0x80000 * i, 0, 8⟩
/-- `ATT_DQ_STOLEN.COUNT`. -/
abbrev attDqStolenCount (i : Nat) : Fld := ⟨0x308008 + 0x80000 * i, 0, 32⟩
/-- `ATT_DQ_FULL.CYCLES`. -/
abbrev attDqFullCycles (i : Nat) : Fld := ⟨0x30800C + 0x80000 * i, 0, 32⟩
/-- `CFL_CFG.FANOUT_THR`. -/
abbrev cflCfgFanoutThr : Fld := ⟨0x500000, 0, 8⟩
/-- `CFL_CFG.PREMERGE`. -/
abbrev cflCfgPremerge : Fld := ⟨0x500000, 8, 1⟩
/-- `CFL_CFG.ELIGIBLE`. -/
abbrev cflCfgEligible : Fld := ⟨0x500000, 9, 1⟩
/-- `CFL_BUF_FREE.FREE`. -/
abbrev cflBufFreeFree : Fld := ⟨0x500004, 0, 21⟩
/-- `CFL_SPILL_BASE_LO.BASE`. -/
abbrev cflSpillBaseLoBase : Fld := ⟨0x500008, 20, 12⟩
/-- `CFL_SPILL_BASE_HI.BASE`. -/
abbrev cflSpillBaseHiBase : Fld := ⟨0x50000C, 0, 32⟩
/-- `CFL_SPILL_SIZE.MIB`. -/
abbrev cflSpillSizeMib : Fld := ⟨0x500010, 0, 16⟩
/-- `CFL_REQ.ACTIVE`. -/
abbrev cflReqActive : Fld := ⟨0x500014, 0, 20⟩
/-- `CFL_MERGES.COUNT`. -/
abbrev cflMergesCount : Fld := ⟨0x500020, 0, 32⟩
/-- `CFL_HELD_HIGH.HIGH`. -/
abbrev cflHeldHighHigh : Fld := ⟨0x500024, 0, 21⟩
/-- `CFL_SPILLS.COUNT`. -/
abbrev cflSpillsCount : Fld := ⟨0x500028, 0, 32⟩
/-- `CFL_RESV_WAIT.NOTCHES`. -/
abbrev cflResvWaitNotches : Fld := ⟨0x50002C, 0, 32⟩
/-- `CFL_DISCARD.LATE`. -/
abbrev cflDiscardLate : Fld := ⟨0x500030, 0, 16⟩
/-- `CFL_DISCARD.UNKNOWN`. -/
abbrev cflDiscardUnknown : Fld := ⟨0x500030, 16, 16⟩
/-- `CFL_DUP.SAME`. -/
abbrev cflDupSame : Fld := ⟨0x500034, 0, 16⟩
/-- `CFL_DUP.MISMATCH`. -/
abbrev cflDupMismatch : Fld := ⟨0x500034, 16, 16⟩
/-- `CFL_MISSING.COUNT`. -/
abbrev cflMissingCount : Fld := ⟨0x500038, 0, 32⟩
/-- `CFL_OUTCOME.STATE_LOST`. -/
abbrev cflOutcomeStateLost : Fld := ⟨0x50003C, 0, 16⟩
/-- `CFL_OUTCOME.PARTIAL`. -/
abbrev cflOutcomePartial : Fld := ⟨0x50003C, 16, 16⟩
/-- `CFL_NONFINITE.COUNT`. -/
abbrev cflNonfiniteCount : Fld := ⟨0x500040, 0, 32⟩
/-- `ATT_SCALE_WAIT.CYCLES`. -/
abbrev attScaleWaitCycles (i : Nat) : Fld := ⟨0x300030 + 0x10000 * i, 0, 32⟩
/-- `ATT_RST_STATUS.LOADED`. -/
abbrev attRstStatusLoaded (i : Nat) : Fld := ⟨0x300040 + 0x10000 * i, 0, 8⟩
/-- `ATT_RST_STATUS.BOUND`. -/
abbrev attRstStatusBound (i : Nat) : Fld := ⟨0x300040 + 0x10000 * i, 8, 8⟩
/-- `ATT_RST_STATUS.LOADS`. -/
abbrev attRstStatusLoads (i : Nat) : Fld := ⟨0x300040 + 0x10000 * i, 16, 16⟩
/-- `ATT_RST_SEL.ENTRY`. -/
abbrev attRstSelEntry (i : Nat) : Fld := ⟨0x300044 + 0x10000 * i, 0, 12⟩
/-- `ATT_RST_SEL.TABLE`. -/
abbrev attRstSelTable (i : Nat) : Fld := ⟨0x300044 + 0x10000 * i, 12, 3⟩
/-- `ATT_RST_DATA.VALUE`. -/
abbrev attRstDataValue (i : Nat) : Fld := ⟨0x300048 + 0x10000 * i, 0, 32⟩
/-- `ATT_CVT_TICK_LO.TICK_LO`. -/
abbrev attCvtTickLoTickLo : Fld := ⟨0x30C000, 0, 32⟩
/-- `ATT_CVT_TICK_HI.TICK_HI`. -/
abbrev attCvtTickHiTickHi : Fld := ⟨0x30C004, 0, 26⟩
/-- `ATT_CVT_ALARM.THR`. -/
abbrev attCvtAlarmThr : Fld := ⟨0x30C008, 0, 16⟩
/-- `ATT_CVT_ALARM.EN`. -/
abbrev attCvtAlarmEn : Fld := ⟨0x30C008, 16, 8⟩
/-- `ATT_CVT_CONV.CONV`. -/
abbrev attCvtConvConv (i : Nat) : Fld := ⟨0x30C100 + 0x10 * i, 0, 32⟩
/-- `ATT_CVT_CLIP.CLIP`. -/
abbrev attCvtClipClip (i : Nat) : Fld := ⟨0x30C104 + 0x10 * i, 0, 32⟩
/-- `ATT_CVT_NONFIN.NONFIN`. -/
abbrev attCvtNonfinNonfin (i : Nat) : Fld := ⟨0x30C108 + 0x10 * i, 0, 32⟩
/-- `BSU_STATUS.IN_SERVICE`. -/
abbrev bsuStatusInService (i : Nat) (j : Nat) : Fld := ⟨0x600000 + 0x20000 * i + 0x200 * j, 0, 1⟩
/-- `BSU_STATUS.RUNNING`. -/
abbrev bsuStatusRunning (i : Nat) (j : Nat) : Fld := ⟨0x600000 + 0x20000 * i + 0x200 * j, 1, 1⟩
/-- `BSU_STATUS.PAUSED`. -/
abbrev bsuStatusPaused (i : Nat) (j : Nat) : Fld := ⟨0x600000 + 0x20000 * i + 0x200 * j, 2, 1⟩
/-- `BSU_STATUS.SHED`. -/
abbrev bsuStatusShed (i : Nat) (j : Nat) : Fld := ⟨0x600000 + 0x20000 * i + 0x200 * j, 3, 1⟩
/-- `BSU_STATUS.DEFER_PEND`. -/
abbrev bsuStatusDeferPend (i : Nat) (j : Nat) : Fld := ⟨0x600000 + 0x20000 * i + 0x200 * j, 4, 1⟩
/-- `BSU_STATUS.ENTRIES`. -/
abbrev bsuStatusEntries (i : Nat) (j : Nat) : Fld := ⟨0x600000 + 0x20000 * i + 0x200 * j, 5, 7⟩
/-- `BSU_STATUS.PROG`. -/
abbrev bsuStatusProg (i : Nat) (j : Nat) : Fld := ⟨0x600000 + 0x20000 * i + 0x200 * j, 12, 4⟩
/-- `BSU_STATUS.COMP`. -/
abbrev bsuStatusComp (i : Nat) (j : Nat) : Fld := ⟨0x600000 + 0x20000 * i + 0x200 * j, 16, 16⟩
/-- `BSU_CKPT.IP`. -/
abbrev bsuCkptIp (i : Nat) (j : Nat) : Fld := ⟨0x600004 + 0x20000 * i + 0x200 * j, 0, 10⟩
/-- `BSU_CKPT.MSTEP`. -/
abbrev bsuCkptMstep (i : Nat) (j : Nat) : Fld := ⟨0x600004 + 0x20000 * i + 0x200 * j, 10, 22⟩
/-- `BSU_SLOTS.LOADED`. -/
abbrev bsuSlotsLoaded (i : Nat) (j : Nat) : Fld := ⟨0x600008 + 0x20000 * i + 0x200 * j, 0, 16⟩
/-- `BSU_SLOTS.BOUND`. -/
abbrev bsuSlotsBound (i : Nat) (j : Nat) : Fld := ⟨0x600008 + 0x20000 * i + 0x200 * j, 16, 16⟩
/-- `BSU_RUNS.COUNT`. -/
abbrev bsuRunsCount (i : Nat) (j : Nat) : Fld := ⟨0x600010 + 0x20000 * i + 0x200 * j, 0, 32⟩
/-- `BSU_MSTEPS.COUNT`. -/
abbrev bsuMstepsCount (i : Nat) (j : Nat) : Fld := ⟨0x600014 + 0x20000 * i + 0x200 * j, 0, 32⟩
/-- `BSU_DEFER.DEFERRED`. -/
abbrev bsuDeferDeferred (i : Nat) (j : Nat) : Fld := ⟨0x600018 + 0x20000 * i + 0x200 * j, 0, 16⟩
/-- `BSU_DEFER.UNCORR`. -/
abbrev bsuDeferUncorr (i : Nat) (j : Nat) : Fld := ⟨0x600018 + 0x20000 * i + 0x200 * j, 16, 16⟩
/-- `BSU_LIGHT_CORR.COUNT`. -/
abbrev bsuLightCorrCount (i : Nat) (j : Nat) : Fld := ⟨0x60001C + 0x20000 * i + 0x200 * j, 0, 32⟩
/-- `BSU_REFRESH_WAIT.CYCLES`. -/
abbrev bsuRefreshWaitCycles (i : Nat) (j : Nat) : Fld := ⟨0x600020 + 0x20000 * i + 0x200 * j, 0, 32⟩
/-- `BSU_SCALE_WAIT.CYCLES`. -/
abbrev bsuScaleWaitCycles (i : Nat) (j : Nat) : Fld := ⟨0x600024 + 0x20000 * i + 0x200 * j, 0, 32⟩
/-- `BSU_NONFINITE.GRANULES`. -/
abbrev bsuNonfiniteGranules (i : Nat) (j : Nat) : Fld := ⟨0x600028 + 0x20000 * i + 0x200 * j, 0, 16⟩
/-- `BSU_NONFINITE.ELEMENTS`. -/
abbrev bsuNonfiniteElements (i : Nat) (j : Nat) : Fld := ⟨0x600028 + 0x20000 * i + 0x200 * j, 16, 16⟩
/-- `BSU_OWN_FAULT.COUNT`. -/
abbrev bsuOwnFaultCount (i : Nat) (j : Nat) : Fld := ⟨0x60002C + 0x20000 * i + 0x200 * j, 0, 32⟩
/-- `BSU_STK_STATUS.OWNED`. -/
abbrev bsuStkStatusOwned (i : Nat) : Fld := ⟨0x610000 + 0x20000 * i, 0, 25⟩
/-- `BSU_DIG_SEL.PCH`. -/
abbrev bsuDigSelPch (i : Nat) : Fld := ⟨0x610004 + 0x20000 * i, 0, 7⟩
/-- `BSU_DIG_SEL.SLOT`. -/
abbrev bsuDigSelSlot (i : Nat) : Fld := ⟨0x610004 + 0x20000 * i, 8, 4⟩
/-- `BSU_DIG_SEL.WORD`. -/
abbrev bsuDigSelWord (i : Nat) : Fld := ⟨0x610004 + 0x20000 * i, 12, 4⟩
/-- `BSU_DIG_DATA.DATA`. -/
abbrev bsuDigDataData (i : Nat) : Fld := ⟨0x610008 + 0x20000 * i, 0, 32⟩
/-- `TER_T1_FREE.FRAMES`. -/
abbrev terT1FreeFrames : Fld := ⟨0x700000, 0, 28⟩
/-- `TER_T1_PINNED.FRAMES`. -/
abbrev terT1PinnedFrames : Fld := ⟨0x700004, 0, 28⟩
/-- `TER_T2_PART.DIRECT`. -/
abbrev terT2PartDirect : Fld := ⟨0x700008, 0, 14⟩
/-- `TER_T2_CFG.DIRTY_MAX`. -/
abbrev terT2CfgDirtyMax : Fld := ⟨0x70000C, 0, 7⟩
/-- `TER_T2_STATUS.DIRTY`. -/
abbrev terT2StatusDirty : Fld := ⟨0x700010, 0, 7⟩
/-- `TER_T2_STATUS.PINNED`. -/
abbrev terT2StatusPinned : Fld := ⟨0x700010, 8, 8⟩
/-- `TER_T2_STATUS.SET_FULL`. -/
abbrev terT2StatusSetFull : Fld := ⟨0x700010, 16, 16⟩
/-- `TER_WM.LOW`. -/
abbrev terWmLow : Fld := ⟨0x700014, 0, 7⟩
/-- `TER_WM.HIGH`. -/
abbrev terWmHigh : Fld := ⟨0x700014, 8, 7⟩
/-- `TER_HEAT_CFG.PROMOTE`. -/
abbrev terHeatCfgPromote : Fld := ⟨0x700018, 0, 8⟩
/-- `TER_HEAT_CFG.DECAY`. -/
abbrev terHeatCfgDecay : Fld := ⟨0x700018, 8, 4⟩
/-- `TER_HEAT_CFG.EN`. -/
abbrev terHeatCfgEn : Fld := ⟨0x700018, 12, 1⟩
/-- `TER_PIN_CFG.T1_PCT`. -/
abbrev terPinCfgT1Pct : Fld := ⟨0x70001C, 0, 7⟩
/-- `TER_PIN_CFG.T2_PCT`. -/
abbrev terPinCfgT2Pct : Fld := ⟨0x70001C, 8, 7⟩
/-- `TER_WIN_CFG.W`. -/
abbrev terWinCfgW : Fld := ⟨0x700020, 0, 5⟩
/-- `TER_MOVE_STATUS.BUSY`. -/
abbrev terMoveStatusBusy : Fld := ⟨0x700024, 0, 8⟩
/-- `TER_MOVE_STATUS.SUSPENDED`. -/
abbrev terMoveStatusSuspended : Fld := ⟨0x700024, 8, 1⟩
/-- `TER_MOVES.PROMOTED`. -/
abbrev terMovesPromoted : Fld := ⟨0x700040, 0, 16⟩
/-- `TER_MOVES.DEMOTED`. -/
abbrev terMovesDemoted : Fld := ⟨0x700040, 16, 16⟩
/-- `TER_STALL.COUNT`. -/
abbrev terStallCount : Fld := ⟨0x700044, 0, 32⟩
/-- `TER_DIRECT.ITEMS`. -/
abbrev terDirectItems : Fld := ⟨0x700048, 0, 16⟩
/-- `TER_DIRECT.ABANDON`. -/
abbrev terDirectAbandon : Fld := ⟨0x700048, 16, 16⟩
/-- `TER_PAGE_STATS.COW`. -/
abbrev terPageStatsCow : Fld := ⟨0x70004C, 0, 16⟩
/-- `TER_PAGE_STATS.ALLOC_WAIT`. -/
abbrev terPageStatsAllocWait : Fld := ⟨0x70004C, 16, 16⟩
/-- `TER_WEIGHT_MISS.COUNT`. -/
abbrev terWeightMissCount : Fld := ⟨0x700050, 0, 32⟩
/-- `MIC_STK_ERR.CE`. -/
abbrev micStkErrCe (i : Nat) : Fld := ⟨0x800000 + 0x10 * i, 0, 16⟩
/-- `MIC_STK_ERR.UE`. -/
abbrev micStkErrUe (i : Nat) : Fld := ⟨0x800000 + 0x10 * i, 16, 16⟩
/-- `MIC_STK_REPAIR.SPARED`. -/
abbrev micStkRepairSpared (i : Nat) : Fld := ⟨0x800004 + 0x10 * i, 0, 12⟩
/-- `MIC_STK_REPAIR.LANE_FAULTS`. -/
abbrev micStkRepairLaneFaults (i : Nat) : Fld := ⟨0x800004 + 0x10 * i, 12, 4⟩
/-- `MIC_STK_REPAIR.WAITS`. -/
abbrev micStkRepairWaits (i : Nat) : Fld := ⟨0x800004 + 0x10 * i, 16, 16⟩
/-- `MIC_PCH_RETIRED.RETIRED`. -/
abbrev micPchRetiredRetired (i : Nat) (j : Nat) : Fld := ⟨0x800100 + 0x10 * i + 0x4 * j, 0, 32⟩
/-- `MIC_BMEM_ERR.CE`. -/
abbrev micBmemErrCe (i : Nat) : Fld := ⟨0x800200 + 0x4 * i, 0, 16⟩
/-- `MIC_BMEM_ERR.UE`. -/
abbrev micBmemErrUe (i : Nat) : Fld := ⟨0x800200 + 0x4 * i, 16, 16⟩
/-- `MIC_FLASH_ERR.RETRY`. -/
abbrev micFlashErrRetry (i : Nat) : Fld := ⟨0x800240 + 0x4 * i, 0, 16⟩
/-- `MIC_FLASH_ERR.FAIL`. -/
abbrev micFlashErrFail (i : Nat) : Fld := ⟨0x800240 + 0x4 * i, 16, 16⟩
/-- `MIC_SRAM_ERR.CE`. -/
abbrev micSramErrCe : Fld := ⟨0x800280, 0, 16⟩
/-- `MIC_SRAM_ERR.UE`. -/
abbrev micSramErrUe : Fld := ⟨0x800280, 16, 16⟩
/-- `MIC_SRAM_COLLIDE.COUNT`. -/
abbrev micSramCollideCount : Fld := ⟨0x800284, 0, 32⟩
/-- `MIC_POISON.PARTIAL_WR`. -/
abbrev micPoisonPartialWr : Fld := ⟨0x800288, 0, 16⟩
/-- `MIC_POISON.RETIRED`. -/
abbrev micPoisonRetired : Fld := ⟨0x800288, 16, 16⟩
/-- `MIC_UE_ADDR_LO.ADDR`. -/
abbrev micUeAddrLoAddr : Fld := ⟨0x800290, 0, 32⟩
/-- `MIC_UE_ADDR_HI.ADDR`. -/
abbrev micUeAddrHiAddr : Fld := ⟨0x800294, 0, 32⟩
/-- `MIC_SCRUB_CFG.STK_HOURS`. -/
abbrev micScrubCfgStkHours : Fld := ⟨0x800300, 0, 8⟩
/-- `MIC_SCRUB_CFG.BMEM_HOURS`. -/
abbrev micScrubCfgBmemHours : Fld := ⟨0x800300, 8, 8⟩
/-- `MIC_SCRUB_STATUS.PASSES`. -/
abbrev micScrubStatusPasses : Fld := ⟨0x800304, 0, 16⟩
/-- `MIC_SCRUB_STATUS.BEHIND`. -/
abbrev micScrubStatusBehind : Fld := ⟨0x800304, 16, 16⟩
/-- `MIC_SPARE_CFG.ROW_THR`. -/
abbrev micSpareCfgRowThr : Fld := ⟨0x800308, 0, 8⟩
/-- `MIC_SPARE_CFG.LANE_THR`. -/
abbrev micSpareCfgLaneThr : Fld := ⟨0x800308, 8, 8⟩
/-- `MIC_SPARE_CFG.AUTO_RETIRE`. -/
abbrev micSpareCfgAutoRetire : Fld := ⟨0x800308, 16, 1⟩
/-- `MIC_MARCH_STATUS.BUSY`. -/
abbrev micMarchStatusBusy : Fld := ⟨0x800310, 0, 1⟩
/-- `MIC_MARCH_STATUS.FORM`. -/
abbrev micMarchStatusForm : Fld := ⟨0x800310, 1, 1⟩
/-- `MIC_MARCH_STATUS.FAILS`. -/
abbrev micMarchStatusFails : Fld := ⟨0x800310, 8, 8⟩
/-- `MIC_MARCH_STATUS.SKIPPED`. -/
abbrev micMarchStatusSkipped : Fld := ⟨0x800310, 16, 8⟩
/-- `MIC_MARCH_STATUS.WAITS`. -/
abbrev micMarchStatusWaits : Fld := ⟨0x800310, 24, 8⟩
/-- `MIC_REDUND.PDX_COLS`. -/
abbrev micRedundPdxCols : Fld := ⟨0x800320, 0, 8⟩
/-- `MIC_REDUND.KEY_COLS`. -/
abbrev micRedundKeyCols : Fld := ⟨0x800320, 8, 8⟩
/-- `MIC_REDUND.CTL_COLS`. -/
abbrev micRedundCtlCols : Fld := ⟨0x800320, 16, 8⟩
/-- `EXP_STATUS.IN_SERVICE`. -/
abbrev expStatusInService (i : Nat) : Fld := ⟨0x900000 + 0x40 * i, 0, 1⟩
/-- `EXP_STATUS.BUSY`. -/
abbrev expStatusBusy (i : Nat) : Fld := ⟨0x900000 + 0x40 * i, 1, 1⟩
/-- `EXP_STATUS.INPUT_WAIT`. -/
abbrev expStatusInputWait (i : Nat) : Fld := ⟨0x900000 + 0x40 * i, 2, 1⟩
/-- `EXP_OUT.BLOCKS`. -/
abbrev expOutBlocks (i : Nat) : Fld := ⟨0x900004 + 0x40 * i, 0, 32⟩
/-- `EXP_IN_KIB.KIB`. -/
abbrev expInKibKib (i : Nat) : Fld := ⟨0x900008 + 0x40 * i, 0, 32⟩
/-- `EXP_STALL_IN.CYCLES`. -/
abbrev expStallInCycles (i : Nat) : Fld := ⟨0x90000C + 0x40 * i, 0, 32⟩
/-- `EXP_STALL_SHARE.CYCLES`. -/
abbrev expStallShareCycles (i : Nat) : Fld := ⟨0x900010 + 0x40 * i, 0, 32⟩
/-- `EXP_STALL_CR.CYCLES`. -/
abbrev expStallCrCycles (i : Nat) : Fld := ⟨0x900014 + 0x40 * i, 0, 32⟩
/-- `EXP_ERR.REFETCH`. -/
abbrev expErrRefetch (i : Nat) : Fld := ⟨0x900018 + 0x40 * i, 0, 16⟩
/-- `EXP_ERR.CRC_FAIL`. -/
abbrev expErrCrcFail (i : Nat) : Fld := ⟨0x900018 + 0x40 * i, 16, 8⟩
/-- `EXP_ERR.SIZE`. -/
abbrev expErrSize (i : Nat) : Fld := ⟨0x900018 + 0x40 * i, 24, 8⟩
/-- `EXP_RAW.BLOCKS`. -/
abbrev expRawBlocks : Fld := ⟨0x900400, 0, 32⟩
/-- `EXP_SETS.LOADED`. -/
abbrev expSetsLoaded : Fld := ⟨0x900404, 0, 7⟩
/-- `EXP_SETS.BOUND`. -/
abbrev expSetsBound : Fld := ⟨0x900404, 8, 7⟩
/-- `EXP_SETS.DEFECTIVE`. -/
abbrev expSetsDefective : Fld := ⟨0x900404, 16, 7⟩
/-- `EXP_DIG_SET.WSET`. -/
abbrev expDigSetWset : Fld := ⟨0x900410, 0, 32⟩
/-- `EXP_DIG_SEL.WORD`. -/
abbrev expDigSelWord : Fld := ⟨0x900414, 0, 4⟩
/-- `EXP_DIG_SEL.WHICH`. -/
abbrev expDigSelWhich : Fld := ⟨0x900414, 4, 1⟩
/-- `EXP_DIG_DATA.DATA`. -/
abbrev expDigDataData : Fld := ⟨0x900418, 0, 32⟩
/-- `PDX_STATUS.ENTRIES`. -/
abbrev pdxStatusEntries : Fld := ⟨0xA00000, 0, 21⟩
/-- `PDX_STATUS.REBAL`. -/
abbrev pdxStatusRebal : Fld := ⟨0xA00000, 21, 1⟩
/-- `PDX_CFG.LIMIT`. -/
abbrev pdxCfgLimit : Fld := ⟨0xA00004, 0, 21⟩
/-- `PDX_LOOKUPS.HITS`. -/
abbrev pdxLookupsHits : Fld := ⟨0xA00010, 0, 16⟩
/-- `PDX_LOOKUPS.MISSES`. -/
abbrev pdxLookupsMisses : Fld := ⟨0xA00010, 16, 16⟩
/-- `PDX_EDITS.INSERTS`. -/
abbrev pdxEditsInserts : Fld := ⟨0xA00014, 0, 16⟩
/-- `PDX_EDITS.DELETES`. -/
abbrev pdxEditsDeletes : Fld := ⟨0xA00014, 16, 16⟩
/-- `PDX_REBAL.COUNT`. -/
abbrev pdxRebalCount : Fld := ⟨0xA00018, 0, 16⟩
/-- `PDX_REBAL.WAITS`. -/
abbrev pdxRebalWaits : Fld := ⟨0xA00018, 16, 16⟩
/-- `PDX_SCRUB_CFG.SEGS`. -/
abbrev pdxScrubCfgSegs : Fld := ⟨0xA00020, 0, 8⟩
/-- `PDX_SCRUB_STATUS.PASSES`. -/
abbrev pdxScrubStatusPasses : Fld := ⟨0xA00024, 0, 16⟩
/-- `PDX_SCRUB_STATUS.MISMATCH`. -/
abbrev pdxScrubStatusMismatch : Fld := ⟨0xA00024, 16, 16⟩
/-- `PDX_SHADOW_LO.BASE`. -/
abbrev pdxShadowLoBase : Fld := ⟨0xA00028, 0, 32⟩
/-- `PDX_SHADOW_HI.BASE`. -/
abbrev pdxShadowHiBase : Fld := ⟨0xA0002C, 0, 32⟩
/-- `CXD_CAPS.HEADS`. -/
abbrev cxdCapsHeads : Fld := ⟨0xB00000, 0, 4⟩
/-- `CXD_CAPS.T1_EXT`. -/
abbrev cxdCapsT1Ext : Fld := ⟨0xB00000, 4, 12⟩
/-- `CXD_CFG.T1_MAX`. -/
abbrev cxdCfgT1Max : Fld := ⟨0xB00004, 0, 12⟩
/-- `CXD_CFG.RECALL_TO`. -/
abbrev cxdCfgRecallTo : Fld := ⟨0xB00004, 12, 8⟩
/-- `CXD_CFG.FM_HALF`. -/
abbrev cxdCfgFmHalf : Fld := ⟨0xB00004, 20, 2⟩
/-- `CXD_CFG.FM_EN`. -/
abbrev cxdCfgFmEn : Fld := ⟨0xB00004, 22, 1⟩
/-- `CXD_HOST_CFG.HB_TICKS`. -/
abbrev cxdHostCfgHbTicks (i : Nat) : Fld := ⟨0xB00010 + 0x4 * i, 0, 24⟩
/-- `CXD_HOST_LIMIT.RATE`. -/
abbrev cxdHostLimitRate (i : Nat) : Fld := ⟨0xB00020 + 0x4 * i, 0, 8⟩
/-- `CXD_HOST_LIMIT.BURST`. -/
abbrev cxdHostLimitBurst (i : Nat) : Fld := ⟨0xB00020 + 0x4 * i, 8, 16⟩
/-- `CXD_HB.BEAT`. -/
abbrev cxdHbBeat (i : Nat) : Fld := ⟨0xB00030 + 0x4 * i, 0, 32⟩
/-- `CXD_HOST_STATUS.UP`. -/
abbrev cxdHostStatusUp (i : Nat) : Fld := ⟨0xB00040 + 0x4 * i, 0, 1⟩
/-- `CXD_HOST_STATUS.LOST`. -/
abbrev cxdHostStatusLost (i : Nat) : Fld := ⟨0xB00040 + 0x4 * i, 1, 1⟩
/-- `CXD_HOST_STATUS.CAUSE`. -/
abbrev cxdHostStatusCause (i : Nat) : Fld := ⟨0xB00040 + 0x4 * i, 2, 2⟩
/-- `CXD_HOST_STATUS.LOAD`. -/
abbrev cxdHostStatusLoad (i : Nat) : Fld := ⟨0xB00040 + 0x4 * i, 4, 2⟩
/-- `CXD_HOST_STATUS.EXTENTS`. -/
abbrev cxdHostStatusExtents (i : Nat) : Fld := ⟨0xB00040 + 0x4 * i, 16, 16⟩
/-- `CXD_HOST_CTL.REJOIN`. -/
abbrev cxdHostCtlRejoin (i : Nat) : Fld := ⟨0xB00050 + 0x4 * i, 0, 1⟩
/-- `CXD_HOST_ERR.STATUS`. -/
abbrev cxdHostErrStatus (i : Nat) : Fld := ⟨0xB00080 + 0x10 * i, 0, 16⟩
/-- `CXD_HOST_ERR.COUNT`. -/
abbrev cxdHostErrCount (i : Nat) : Fld := ⟨0xB00080 + 0x10 * i, 16, 16⟩
/-- `CXD_HOST_ERR_LO.DPA_LO`. -/
abbrev cxdHostErrLoDpaLo (i : Nat) : Fld := ⟨0xB00084 + 0x10 * i, 0, 32⟩
/-- `CXD_HOST_ERR_HI.DPA_HI`. -/
abbrev cxdHostErrHiDpaHi (i : Nat) : Fld := ⟨0xB00088 + 0x10 * i, 0, 32⟩
/-- `CXD_EXT_CMD.OP`. -/
abbrev cxdExtCmdOp : Fld := ⟨0xB00100, 0, 4⟩
/-- `CXD_EXT_CMD.HOSTS`. -/
abbrev cxdExtCmdHosts : Fld := ⟨0xB00100, 4, 4⟩
/-- `CXD_EXT_CMD.MODE`. -/
abbrev cxdExtCmdMode : Fld := ⟨0xB00100, 8, 1⟩
/-- `CXD_EXT_CMD.EXT`. -/
abbrev cxdExtCmdExt : Fld := ⟨0xB00100, 16, 14⟩
/-- `CXD_EXT_STATUS.RESULT`. -/
abbrev cxdExtStatusResult : Fld := ⟨0xB00104, 0, 16⟩
/-- `CXD_EXT_STATUS.BUSY`. -/
abbrev cxdExtStatusBusy : Fld := ⟨0xB00104, 16, 1⟩
/-- `CXD_EXT_STATUS.EXT`. -/
abbrev cxdExtStatusExt : Fld := ⟨0xB00104, 17, 14⟩
/-- `CXD_EXT_QUERY.EXT`. -/
abbrev cxdExtQueryExt : Fld := ⟨0xB00108, 0, 14⟩
/-- `CXD_EXT_INFO.STATE`. -/
abbrev cxdExtInfoState : Fld := ⟨0xB0010C, 0, 3⟩
/-- `CXD_EXT_INFO.HOSTS`. -/
abbrev cxdExtInfoHosts : Fld := ⟨0xB0010C, 3, 4⟩
/-- `CXD_EXT_INFO.MODE`. -/
abbrev cxdExtInfoMode : Fld := ⟨0xB0010C, 7, 1⟩
/-- `CXD_EXT_INFO.ACCEPTED`. -/
abbrev cxdExtInfoAccepted : Fld := ⟨0xB0010C, 8, 4⟩
/-- `CXD_EXT_INFO.REVOKING`. -/
abbrev cxdExtInfoRevoking : Fld := ⟨0xB0010C, 12, 4⟩
/-- `CXD_PUB_FPN_LO.FPN`. -/
abbrev cxdPubFpnLoFpn : Fld := ⟨0xB00180, 0, 32⟩
/-- `CXD_PUB_FPN_HI.FPN`. -/
abbrev cxdPubFpnHiFpn : Fld := ⟨0xB00184, 0, 13⟩
/-- `CXD_PUB_DST.EXT`. -/
abbrev cxdPubDstExt : Fld := ⟨0xB00188, 0, 14⟩
/-- `CXD_PUB_DST.FRAME`. -/
abbrev cxdPubDstFrame : Fld := ⟨0xB00188, 16, 16⟩
/-- `CXD_PUB_CTL.GO`. -/
abbrev cxdPubCtlGo : Fld := ⟨0xB0018C, 0, 1⟩
/-- `CXD_PUB_CTL.RESULT`. -/
abbrev cxdPubCtlResult : Fld := ⟨0xB0018C, 16, 16⟩
/-- `CXD_PUB_STATUS.BUSY`. -/
abbrev cxdPubStatusBusy : Fld := ⟨0xB00190, 0, 1⟩
/-- `CXD_DIR_STATUS.USED`. -/
abbrev cxdDirStatusUsed : Fld := ⟨0xB00200, 0, 25⟩
/-- `CXD_DIR_EVICT.COUNT`. -/
abbrev cxdDirEvictCount : Fld := ⟨0xB00204, 0, 32⟩
/-- `CXD_RECALLS.COUNT`. -/
abbrev cxdRecallsCount : Fld := ⟨0xB00208, 0, 32⟩
/-- `CXD_POISONED.COUNT`. -/
abbrev cxdPoisonedCount : Fld := ⟨0xB0020C, 0, 32⟩
/-- `QST_CFG.DPORT`. -/
abbrev qstCfgDport : Fld := ⟨0xC00000, 0, 16⟩
/-- `QST_DSCP.CLASS0`. -/
abbrev qstDscpClass0 : Fld := ⟨0xC00004, 0, 6⟩
/-- `QST_DSCP.CLASS1`. -/
abbrev qstDscpClass1 : Fld := ⟨0xC00004, 8, 6⟩
/-- `QST_DSCP.CLASS2`. -/
abbrev qstDscpClass2 : Fld := ⟨0xC00004, 16, 6⟩
/-- `QST_DSCP.CLASS3`. -/
abbrev qstDscpClass3 : Fld := ⟨0xC00004, 24, 6⟩
/-- `QST_PFX_LO.PFX`. -/
abbrev qstPfxLoPfx : Fld := ⟨0xC00008, 0, 32⟩
/-- `QST_PFX_HI.PFX`. -/
abbrev qstPfxHiPfx : Fld := ⟨0xC0000C, 0, 32⟩
/-- `QST_CC_CFG.INIT`. -/
abbrev qstCcCfgInit : Fld := ⟨0xC00010, 0, 8⟩
/-- `QST_CC_CFG.WMAX`. -/
abbrev qstCcCfgWmax : Fld := ⟨0xC00010, 8, 8⟩
/-- `QST_CC_CFG.AI`. -/
abbrev qstCcCfgAi : Fld := ⟨0xC00010, 16, 4⟩
/-- `QST_CC_CFG.TARGET`. -/
abbrev qstCcCfgTarget : Fld := ⟨0xC00010, 20, 8⟩
/-- `QST_RTX_CFG.RTO_MIN`. -/
abbrev qstRtxCfgRtoMin : Fld := ⟨0xC00014, 0, 8⟩
/-- `QST_RTX_CFG.ACK_DELAY`. -/
abbrev qstRtxCfgAckDelay : Fld := ⟨0xC00014, 8, 4⟩
/-- `QST_RTX_CFG.ACK_SEGS`. -/
abbrev qstRtxCfgAckSegs : Fld := ⟨0xC00014, 16, 5⟩
/-- `QST_RTX_CFG.PATH_HOLD`. -/
abbrev qstRtxCfgPathHold : Fld := ⟨0xC00014, 24, 8⟩
/-- `QST_PORT_STATUS.UP`. -/
abbrev qstPortStatusUp (i : Nat) : Fld := ⟨0xC00100 + 0x20 * i, 0, 1⟩
/-- `QST_PORT_STATUS.SHED`. -/
abbrev qstPortStatusShed (i : Nat) : Fld := ⟨0xC00100 + 0x20 * i, 1, 1⟩
/-- `QST_PORT_STATUS.LOWPWR`. -/
abbrev qstPortStatusLowpwr (i : Nat) : Fld := ⟨0xC00100 + 0x20 * i, 2, 1⟩
/-- `QST_PORT_CFG.EN`. -/
abbrev qstPortCfgEn (i : Nat) : Fld := ⟨0xC00104 + 0x20 * i, 0, 1⟩
/-- `QST_PORT_CFG.MEDIA`. -/
abbrev qstPortCfgMedia (i : Nat) : Fld := ⟨0xC00104 + 0x20 * i, 1, 2⟩
/-- `QST_PORT_CFG.VLAN_EN`. -/
abbrev qstPortCfgVlanEn (i : Nat) : Fld := ⟨0xC00104 + 0x20 * i, 3, 1⟩
/-- `QST_PORT_CFG.VID`. -/
abbrev qstPortCfgVid (i : Nat) : Fld := ⟨0xC00104 + 0x20 * i, 4, 12⟩
/-- `QST_PORT_CFG.PCP`. -/
abbrev qstPortCfgPcp (i : Nat) : Fld := ⟨0xC00104 + 0x20 * i, 16, 3⟩
/-- `QST_PORT_GW_LO.IID`. -/
abbrev qstPortGwLoIid (i : Nat) : Fld := ⟨0xC00108 + 0x20 * i, 0, 32⟩
/-- `QST_PORT_GW_HI.IID`. -/
abbrev qstPortGwHiIid (i : Nat) : Fld := ⟨0xC0010C + 0x20 * i, 0, 32⟩
/-- `QST_PORT_RX_DROP.MISS`. -/
abbrev qstPortRxDropMiss (i : Nat) : Fld := ⟨0xC00110 + 0x20 * i, 0, 16⟩
/-- `QST_PORT_RX_DROP.OTHER`. -/
abbrev qstPortRxDropOther (i : Nat) : Fld := ⟨0xC00110 + 0x20 * i, 16, 16⟩
/-- `QST_BL_STATUS.UP`. -/
abbrev qstBlStatusUp (i : Nat) : Fld := ⟨0xC00300 + 0x10 * i, 0, 1⟩
/-- `QST_BL_STATUS.PEER`. -/
abbrev qstBlStatusPeer (i : Nat) : Fld := ⟨0xC00300 + 0x10 * i, 3, 13⟩
/-- `QST_BL_STATUS.REPLAYS`. -/
abbrev qstBlStatusReplays (i : Nat) : Fld := ⟨0xC00300 + 0x10 * i, 16, 16⟩
/-- `QST_QP_STATUS.QPS`. -/
abbrev qstQpStatusQps : Fld := ⟨0xC00200, 0, 21⟩
/-- `QST_QP_MISS.COUNT`. -/
abbrev qstQpMissCount : Fld := ⟨0xC00204, 0, 32⟩
/-- `QST_RX_DROP.AUTH`. -/
abbrev qstRxDropAuth : Fld := ⟨0xC00208, 0, 16⟩
/-- `QST_RX_DROP.KEY_RETIRED`. -/
abbrev qstRxDropKeyRetired : Fld := ⟨0xC00208, 16, 16⟩
/-- `QST_RX_DUP.COUNT`. -/
abbrev qstRxDupCount : Fld := ⟨0xC0020C, 0, 32⟩
/-- `QST_RETX.COUNT`. -/
abbrev qstRetxCount : Fld := ⟨0xC00210, 0, 32⟩
/-- `QST_QP_ERR.COUNT`. -/
abbrev qstQpErrCount : Fld := ⟨0xC00214, 0, 32⟩
/-- `QST_DB_ERR.BAD`. -/
abbrev qstDbErrBad : Fld := ⟨0xC00218, 0, 32⟩
/-- `QST_DB_LO.QP`. -/
abbrev qstDbLoQp : Fld := ⟨0xC01000, 0, 20⟩
/-- `QST_DB_LO.KIND`. -/
abbrev qstDbLoKind : Fld := ⟨0xC01000, 20, 2⟩
/-- `QST_DB_HI.COUNT`. -/
abbrev qstDbHiCount : Fld := ⟨0xC01004, 0, 32⟩
/-- `QST_OBJ_CMD.OP`. -/
abbrev qstObjCmdOp : Fld := ⟨0xC02000, 0, 4⟩
/-- `QST_OBJ_STATUS.RESULT`. -/
abbrev qstObjStatusResult : Fld := ⟨0xC02004, 0, 16⟩
/-- `QST_OBJ_STATUS.BUSY`. -/
abbrev qstObjStatusBusy : Fld := ⟨0xC02004, 16, 1⟩
/-- `QST_OBJ_ARG.ARG`. -/
abbrev qstObjArgArg (i : Nat) : Fld := ⟨0xC02040 + 0x4 * i, 0, 32⟩
/-- `SCH_CFG.RETRY_MAX`. -/
abbrev schCfgRetryMax : Fld := ⟨0xD00000, 0, 12⟩
/-- `SCH_CFG.ADMIN_SVC`. -/
abbrev schCfgAdminSvc : Fld := ⟨0xD00000, 12, 4⟩
/-- `SCH_SNAP.TICK`. -/
abbrev schSnapTick : Fld := ⟨0xD00004, 0, 32⟩
/-- `SCH_COST.BASE`. -/
abbrev schCostBase (i : Nat) : Fld := ⟨0xD00010 + 0x4 * i, 0, 8⟩
/-- `SCH_COST.PER`. -/
abbrev schCostPer (i : Nat) : Fld := ⟨0xD00010 + 0x4 * i, 8, 8⟩
/-- `SCH_Q_CFG.LIMIT`. -/
abbrev schQCfgLimit (i : Nat) : Fld := ⟨0xD01000 + 0x20 * i, 0, 16⟩
/-- `SCH_Q_CFG.BURST`. -/
abbrev schQCfgBurst (i : Nat) : Fld := ⟨0xD01000 + 0x20 * i, 16, 16⟩
/-- `SCH_Q_WEIGHT.WEIGHT`. -/
abbrev schQWeightWeight (i : Nat) : Fld := ⟨0xD01004 + 0x20 * i, 0, 8⟩
/-- `SCH_Q_STAT.DEPTH`. -/
abbrev schQStatDepth (i : Nat) : Fld := ⟨0xD01008 + 0x20 * i, 0, 16⟩
/-- `SCH_Q_STAT.BACKLOG`. -/
abbrev schQStatBacklog (i : Nat) : Fld := ⟨0xD01008 + 0x20 * i, 16, 16⟩
/-- `SCH_Q_RATE.RATE`. -/
abbrev schQRateRate (i : Nat) : Fld := ⟨0xD0100C + 0x20 * i, 0, 24⟩
/-- `SCH_Q_DELAY.DELAY_MAX`. -/
abbrev schQDelayDelayMax (i : Nat) : Fld := ⟨0xD01010 + 0x20 * i, 0, 16⟩
/-- `SCH_Q_DELAY.CREDIT`. -/
abbrev schQDelayCredit (i : Nat) : Fld := ⟨0xD01010 + 0x20 * i, 16, 16⟩
/-- `SCH_Q_COUNT.ACCEPTED`. -/
abbrev schQCountAccepted (i : Nat) : Fld := ⟨0xD01014 + 0x20 * i, 0, 16⟩
/-- `SCH_Q_COUNT.REFUSED`. -/
abbrev schQCountRefused (i : Nat) : Fld := ⟨0xD01014 + 0x20 * i, 16, 16⟩
/-- `MAP_EPOCH.EPOCH`. -/
abbrev mapEpochEpoch : Fld := ⟨0xE00000, 0, 32⟩
/-- `MAP_LEARNED.TICK`. -/
abbrev mapLearnedTick : Fld := ⟨0xE00004, 0, 32⟩
/-- `MAP_STATUS.STATE`. -/
abbrev mapStatusState : Fld := ⟨0xE00008, 0, 3⟩
/-- `MAP_STATUS.KEEPER`. -/
abbrev mapStatusKeeper : Fld := ⟨0xE00008, 3, 1⟩
/-- `MAP_STATUS.COORD`. -/
abbrev mapStatusCoord : Fld := ⟨0xE00008, 4, 1⟩
/-- `MAP_STATUS.FENCED`. -/
abbrev mapStatusFenced : Fld := ⟨0xE00008, 5, 1⟩
/-- `MAP_STATUS.GINDEX`. -/
abbrev mapStatusGindex : Fld := ⟨0xE00008, 8, 8⟩
/-- `MAP_STATUS.GROUP`. -/
abbrev mapStatusGroup : Fld := ⟨0xE00008, 16, 16⟩
/-- `MAP_CFG.LOSS_TICKS`. -/
abbrev mapCfgLossTicks : Fld := ⟨0xE0000C, 0, 8⟩
/-- `MAP_CFG.SPARE`. -/
abbrev mapCfgSpare : Fld := ⟨0xE0000C, 8, 1⟩
/-- `MAP_CFG.PROPOSE_TICKS`. -/
abbrev mapCfgProposeTicks : Fld := ⟨0xE0000C, 16, 16⟩
/-- `MAP_PROT_UNITS.UNITS`. -/
abbrev mapProtUnitsUnits : Fld := ⟨0xE00010, 0, 32⟩
/-- `MAP_REBUILD_CFG.RATE`. -/
abbrev mapRebuildCfgRate : Fld := ⟨0xE00014, 0, 10⟩
/-- `MAP_REBUILD_DONE.UNITS`. -/
abbrev mapRebuildDoneUnits : Fld := ⟨0xE00018, 0, 32⟩
/-- `MAP_REBUILD_TOTAL.UNITS`. -/
abbrev mapRebuildTotalUnits : Fld := ⟨0xE0001C, 0, 32⟩
/-- `MAP_COUNTS.EPOCHS`. -/
abbrev mapCountsEpochs : Fld := ⟨0xE00020, 0, 16⟩
/-- `MAP_COUNTS.FENCES`. -/
abbrev mapCountsFences : Fld := ⟨0xE00020, 16, 16⟩
/-- `SEC_STATUS.STATE`. -/
abbrev secStatusState : Fld := ⟨0xF00000, 0, 3⟩
/-- `SEC_STATUS.SEAL`. -/
abbrev secStatusSeal : Fld := ⟨0xF00000, 3, 1⟩
/-- `SEC_STATUS.DEBUG`. -/
abbrev secStatusDebug : Fld := ⟨0xF00000, 4, 1⟩
/-- `SEC_STATUS.TENANT`. -/
abbrev secStatusTenant : Fld := ⟨0xF00000, 16, 16⟩
/-- `SEC_SVN.FW_SVN`. -/
abbrev secSvnFwSvn : Fld := ⟨0xF00004, 0, 16⟩
/-- `SEC_SLOT.STATE`. -/
abbrev secSlotState (i : Nat) : Fld := ⟨0xF00100 + 0x4 * i, 0, 2⟩
/-- `SEC_SLOT.EXHAUSTED`. -/
abbrev secSlotExhausted (i : Nat) : Fld := ⟨0xF00100 + 0x4 * i, 2, 1⟩
/-- `SEC_KEY_CMD.OP`. -/
abbrev secKeyCmdOp : Fld := ⟨0xF00200, 0, 4⟩
/-- `SEC_KEY_CMD.SLOT`. -/
abbrev secKeyCmdSlot : Fld := ⟨0xF00200, 4, 6⟩
/-- `SEC_KEY_ADDR_LO.ADDR`. -/
abbrev secKeyAddrLoAddr : Fld := ⟨0xF00204, 0, 32⟩
/-- `SEC_KEY_ADDR_HI.ADDR`. -/
abbrev secKeyAddrHiAddr : Fld := ⟨0xF00208, 0, 32⟩
/-- `SEC_KEY_STATUS.RESULT`. -/
abbrev secKeyStatusResult : Fld := ⟨0xF0020C, 0, 16⟩
/-- `SEC_KEY_STATUS.BUSY`. -/
abbrev secKeyStatusBusy : Fld := ⟨0xF0020C, 16, 1⟩
/-- `SEC_FINE.GRANT`. -/
abbrev secFineGrant : Fld := ⟨0xF00300, 0, 4⟩
/-- `SEC_REC_CFG.MIB`. -/
abbrev secRecCfgMib : Fld := ⟨0xF00400, 0, 16⟩
/-- `SEC_REC_STATUS.FREE`. -/
abbrev secRecStatusFree : Fld := ⟨0xF00404, 0, 7⟩
/-- `SEC_REC_STATUS.LOW`. -/
abbrev secRecStatusLow : Fld := ⟨0xF00404, 7, 1⟩
/-- `SEC_REC_STATUS.HELD`. -/
abbrev secRecStatusHeld : Fld := ⟨0xF00404, 16, 16⟩
/-- `SEC_REC_OLDEST_LO.TICK`. -/
abbrev secRecOldestLoTick : Fld := ⟨0xF00408, 0, 32⟩
/-- `SEC_REC_OLDEST_HI.TICK`. -/
abbrev secRecOldestHiTick : Fld := ⟨0xF0040C, 0, 32⟩
/-- `SEC_REC_COUNT.RECORDS`. -/
abbrev secRecCountRecords : Fld := ⟨0xF00410, 0, 32⟩
/-- `SEC_BIND_FAIL.COUNT`. -/
abbrev secBindFailCount : Fld := ⟨0xF00420, 0, 16⟩
/-- `SEC_BIND_FAIL.REASON`. -/
abbrev secBindFailReason : Fld := ⟨0xF00420, 16, 3⟩
/-- `PWR_STATUS.NSTATE`. -/
abbrev pwrStatusNstate : Fld := ⟨0x1000000, 0, 3⟩
/-- `PWR_STATUS.SHED`. -/
abbrev pwrStatusShed : Fld := ⟨0x1000000, 3, 3⟩
/-- `PWR_STATUS.HALTED`. -/
abbrev pwrStatusHalted : Fld := ⟨0x1000000, 6, 1⟩
/-- `PWR_STATUS.HALT_CAUSE`. -/
abbrev pwrStatusHaltCause : Fld := ⟨0x1000000, 7, 3⟩
/-- `PWR_STATUS.PWR_FAIL`. -/
abbrev pwrStatusPwrFail : Fld := ⟨0x1000000, 10, 1⟩
/-- `PWR_SAG.SAG`. -/
abbrev pwrSagSag : Fld := ⟨0x1000004, 0, 16⟩
/-- `PWR_SAG.LEAST`. -/
abbrev pwrSagLeast : Fld := ⟨0x1000004, 16, 16⟩
/-- `PWR_VID.MV`. -/
abbrev pwrVidMv : Fld := ⟨0x1000008, 0, 10⟩
/-- `PWR_SHED_COUNT.ENTRIES`. -/
abbrev pwrShedCountEntries (i : Nat) : Fld := ⟨0x1000010 + 0x4 * i, 0, 16⟩
/-- `PWR_SHED_COUNT.TICKS`. -/
abbrev pwrShedCountTicks (i : Nat) : Fld := ⟨0x1000010 + 0x4 * i, 16, 16⟩
/-- `PWR_STATE_CFG.DEEPEST`. -/
abbrev pwrStateCfgDeepest : Fld := ⟨0x1000030, 0, 3⟩
/-- `PWR_RES.NOTCHES`. -/
abbrev pwrResNotches (i : Nat) : Fld := ⟨0x1000040 + 0x4 * i, 0, 32⟩
/-- `PWR_TEMP.TEMP`. -/
abbrev pwrTempTemp (i : Nat) : Fld := ⟨0x1000080 + 0x4 * i, 0, 8⟩
/-- `PWR_TEMP.MAX`. -/
abbrev pwrTempMax (i : Nat) : Fld := ⟨0x1000080 + 0x4 * i, 8, 8⟩
/-- `PWR_TEMP.LEVEL`. -/
abbrev pwrTempLevel (i : Nat) : Fld := ⟨0x1000080 + 0x4 * i, 16, 2⟩
/-- `PWR_THERM_CFG.WARN`. -/
abbrev pwrThermCfgWarn : Fld := ⟨0x10000C0, 0, 8⟩
/-- `PWR_THERM_CFG.HOT`. -/
abbrev pwrThermCfgHot : Fld := ⟨0x10000C0, 8, 8⟩
/-- `PWR_POWER.WATTS`. -/
abbrev pwrPowerWatts : Fld := ⟨0x1000100, 0, 12⟩
/-- `PWR_RAIL.MV`. -/
abbrev pwrRailMv (i : Nat) : Fld := ⟨0x1000110 + 0x4 * i, 0, 12⟩
/-- `PWR_RAIL.AMPS`. -/
abbrev pwrRailAmps (i : Nat) : Fld := ⟨0x1000110 + 0x4 * i, 12, 16⟩
/-- `PWR_RAIL.PG`. -/
abbrev pwrRailPg (i : Nat) : Fld := ⟨0x1000110 + 0x4 * i, 28, 1⟩
/-- `PWR_RAIL.FAULT`. -/
abbrev pwrRailFault (i : Nat) : Fld := ⟨0x1000110 + 0x4 * i, 29, 1⟩
/-- `PWR_CTL.RESET`. -/
abbrev pwrCtlReset : Fld := ⟨0x1000200, 0, 1⟩
/-- `PWR_CTL.HALT`. -/
abbrev pwrCtlHalt : Fld := ⟨0x1000200, 1, 1⟩
/-- `PWR_RESET_CAUSE.CAUSE`. -/
abbrev pwrResetCauseCause : Fld := ⟨0x1000204, 0, 4⟩
/-- `PWR_RESET_CAUSE.WARM`. -/
abbrev pwrResetCauseWarm : Fld := ⟨0x1000204, 16, 16⟩
/-- `NID_BOOT.PHASE`. -/
abbrev nidBootPhase : Fld := ⟨0x10, 0, 4⟩
/-- `NID_BOOT.SLOT`. -/
abbrev nidBootSlot : Fld := ⟨0x10, 4, 1⟩
/-- `NID_BOOT.FALLBACK`. -/
abbrev nidBootFallback : Fld := ⟨0x10, 5, 1⟩
/-- `NID_BOOT.MARCHED`. -/
abbrev nidBootMarched : Fld := ⟨0x10, 6, 1⟩
/-- `NID_BOOT.MS`. -/
abbrev nidBootMs : Fld := ⟨0x10, 8, 16⟩
/-- `NID_NODE.NODE_ID`. -/
abbrev nidNodeNodeId : Fld := ⟨0x14, 0, 13⟩
/-- `NID_NODE.DOMAIN`. -/
abbrev nidNodeDomain : Fld := ⟨0x14, 16, 16⟩
/-- `PMC_CYC_LO.CYC`. -/
abbrev pmcCycLoCyc (i : Nat) : Fld := ⟨0x1200000 + 0x100 * i, 0, 32⟩
/-- `PMC_CYC_HI.CYC`. -/
abbrev pmcCycHiCyc (i : Nat) : Fld := ⟨0x1200004 + 0x100 * i, 0, 32⟩
/-- `PMC_SEL.EVENT`. -/
abbrev pmcSelEvent (i : Nat) (j : Nat) : Fld := ⟨0x1200010 + 0x100 * i + 0x4 * j, 0, 16⟩
/-- `PMC_SEL.EN`. -/
abbrev pmcSelEn (i : Nat) (j : Nat) : Fld := ⟨0x1200010 + 0x100 * i + 0x4 * j, 16, 1⟩
/-- `PMC_CNT_LO.CNT`. -/
abbrev pmcCntLoCnt (i : Nat) (j : Nat) : Fld := ⟨0x1200040 + 0x100 * i + 0x8 * j, 0, 32⟩
/-- `PMC_CNT_HI.CNT`. -/
abbrev pmcCntHiCnt (i : Nat) (j : Nat) : Fld := ⟨0x1200044 + 0x100 * i + 0x8 * j, 0, 16⟩
/-- `PMC_OVF.OVF`. -/
abbrev pmcOvfOvf (i : Nat) : Fld := ⟨0x1200080 + 0x100 * i, 0, 8⟩
/-- `PMC_CTL.FREEZE`. -/
abbrev pmcCtlFreeze : Fld := ⟨0x1204000, 0, 1⟩
/-- `PMC_CTL.CLEAR`. -/
abbrev pmcCtlClear : Fld := ⟨0x1204000, 1, 1⟩
/-- `PMC_TAG_CFG.LOG2N`. -/
abbrev pmcTagCfgLog2n : Fld := ⟨0x1204010, 0, 5⟩
/-- `PMC_TAG_CFG.EN`. -/
abbrev pmcTagCfgEn : Fld := ⟨0x1204010, 5, 1⟩
/-- `PMC_TAG_SEED.LFSR`. -/
abbrev pmcTagSeedLfsr : Fld := ⟨0x1204014, 0, 32⟩
/-- `PMC_TRACE_HEAD.COUNT`. -/
abbrev pmcTraceHeadCount : Fld := ⟨0x1204018, 0, 32⟩
/-- `PMC_TRACE_SEL.SLOT`. -/
abbrev pmcTraceSelSlot : Fld := ⟨0x120401C, 0, 12⟩
/-- `PMC_TRACE_DATA.DATA`. -/
abbrev pmcTraceDataData (i : Nat) : Fld := ⟨0x1204040 + 0x4 * i, 0, 32⟩
/-- `EVR_STATUS.COUNT`. -/
abbrev evrStatusCount : Fld := ⟨0x1100000, 0, 15⟩
/-- `EVR_STATUS.FULL`. -/
abbrev evrStatusFull : Fld := ⟨0x1100000, 15, 1⟩
/-- `EVR_STATUS.CLEARING`. -/
abbrev evrStatusClearing : Fld := ⟨0x1100000, 16, 1⟩
/-- `EVR_STATUS.DROPPED`. -/
abbrev evrStatusDropped : Fld := ⟨0x1100000, 17, 15⟩
/-- `EVR_SEQ_FIRST.SEQ`. -/
abbrev evrSeqFirstSeq : Fld := ⟨0x1100004, 0, 32⟩
/-- `EVR_RATE.WINDOW`. -/
abbrev evrRateWindow : Fld := ⟨0x1100008, 0, 16⟩
/-- `EVR_RATE.LIMIT`. -/
abbrev evrRateLimit : Fld := ⟨0x1100008, 16, 8⟩
/-- `EVR_CTL.CLEAR`. -/
abbrev evrCtlClear : Fld := ⟨0x110000C, 0, 1⟩
/-- `EVR_RD_SEL.SLOT`. -/
abbrev evrRdSelSlot : Fld := ⟨0x1100010, 0, 14⟩
/-- `EVR_RD_DATA.DATA`. -/
abbrev evrRdDataData (i : Nat) : Fld := ⟨0x1100020 + 0x4 * i, 0, 32⟩
/-- `EVR_CLOCKS.HOURS`. -/
abbrev evrClocksHours : Fld := ⟨0x1100040, 0, 32⟩
/-- `MON_STATUS.EN`. -/
abbrev monStatusEn : Fld := ⟨0x1300000, 0, 1⟩
/-- `MON_STATUS.FUSE`. -/
abbrev monStatusFuse : Fld := ⟨0x1300000, 1, 1⟩
/-- `MON_STATUS.TOKEN`. -/
abbrev monStatusToken : Fld := ⟨0x1300000, 2, 1⟩
/-- `MON_STATUS.POKE`. -/
abbrev monStatusPoke : Fld := ⟨0x1300000, 3, 1⟩
/-- `MON_CFG.BAUD`. -/
abbrev monCfgBaud : Fld := ⟨0x1300004, 0, 2⟩
/-- `MON_TOKEN_DATA.WORD`. -/
abbrev monTokenDataWord : Fld := ⟨0x1300010, 0, 32⟩
/-- `MON_TOKEN_CTL.SUBMIT`. -/
abbrev monTokenCtlSubmit : Fld := ⟨0x1300014, 0, 1⟩
/-- `MON_TOKEN_CTL.RESULT`. -/
abbrev monTokenCtlResult : Fld := ⟨0x1300014, 16, 16⟩
/-- `MON_CTL.LOCK`. -/
abbrev monCtlLock : Fld := ⟨0x1300018, 0, 1⟩

end Rg

end Sys2Proof.Machine
end

