-- ==== Sys2Proof/Machine/State.lean ====
section
/-! DEFINITION. The state of the node: everything the spec gives it, as plain data, and its reset. -/

namespace Sys2Proof.Machine

/-- Register words by BAR0 offset; an absent offset reads its reset value. -/
abbrev Bank := NMap Word

/-! ## Fabric time (02) -/

/-- An announce a node has heard, with the link and the tick of its last arrival. -/
structure Heard where
  link : Link
  ann : Announce
  tick : Nat
  deriving DecidableEq, Repr

/-- The fabric time unit. -/
structure Tck where
  /-- Fabric time in 0.25 ns units (R24). -/
  now : Nat
  /-- `TCK_PERIOD.CUR` (R27). -/
  cur : Nat
  /-- The announced period and switch point (R30). -/
  switch : Option (Nat × Nat)
  /-- A period the map has agreed and the grandmaster has not yet announced (02, Changing the period). -/
  wantPeriod : Option Nat
  /-- `TCK_STATUS.STATE` (R45). -/
  state : TimeState
  /-- U of R24. -/
  u : Nat
  /-- The uncertainty derived under R37: the upstream's U with the node's own added. -/
  measU : Nat
  /-- The offset not yet corrected, in units (R37, R47). -/
  slew : Int
  /-- Units of fabric time run since the last unit of offset was corrected: at most 100 ppm (R37). -/
  slewAcc : Nat
  /-- 1 from the measurement of R47 until the state is LOCKED. -/
  regaining : Bool
  /-- The offset measured for the re-join step that waits for the running slices, in STEPPING (R47). -/
  stepTo : Option SyncMeas
  /-- The rate last learned from the upstream or the reference, in parts per billion, and what it has gained of the next unit (R39, R46). -/
  rate : Int
  rateAcc : Int
  /-- Fabric time at which HOLDOVER was entered, and the steps of 0.5 ms grown since (R46). -/
  holdAt : Nat
  holdSteps : Nat
  /-- This node is grandmaster. -/
  gm : Bool
  /-- The fabric this node knows of has had a grandmaster (R26). -/
  everGm : Bool
  /-- The grandmaster's key, once one is known (R34). -/
  gmKey : Option GmKey
  /-- The upstream link (R35) and the hop count from the grandmaster. -/
  upstream : Option Link
  hops : Nat
  /-- Announces heard, one for each link (R34). -/
  heard : List Heard
  /-- Tick of the last announce from the current grandmaster (R36). -/
  lastAnn : Nat
  /-- Seconds named by the accepted ToD frame for the next edge (R39). -/
  tod : Option Nat
  /-- Fabric time of the last 1PPS edge, or of the time a missing one was due (R39). -/
  lastEdge : Option Nat
  /-- Consecutive good edges and consecutive missing edges (R39). -/
  goodRun : Nat
  missRun : Nat
  /-- `TCK_STATUS.EXT_OK`, and whether a reference was ever valid (clock class 1 after its loss). -/
  extOk : Bool
  extHad : Bool
  /-- The late reports of `TCK_LATE.COUNT`: the tick each was stamped in (R44), and its `AMBIG` flag (R42). -/
  late : List (Nat × Bool)
  /-- `TCK_LATE.SUSPECT`, and the value last reported to the map keepers. -/
  suspect : Bool
  suspectTold : Bool
  /-- `TCK_EXT_OFFSET` (R40). -/
  extOffset : Int
  /-- `TCK_SEED` (R26). -/
  seed : Nat
  deriving DecidableEq, Repr

/-! ## The command front end (03) -/

/-- A submission ring (R48, R49, R74). -/
structure Sq where
  en : Bool
  remote : Bool
  owner : Req
  base : Nat
  log2 : Nat
  opclass : Nat
  defCq : Nat
  svc : Nat
  maxOut : Nat
  /-- Free-running counts of R48. -/
  head : Nat
  tail : Nat
  /-- Commands accepted since the ring was enabled (R55). -/
  accepted : Nat
  outstanding : Nat
  /-- Messages held until a gap is filled (R66). -/
  held : List SubmitMsg
  /-- The disabling `RING_CFG` has been accepted: later doorbells are ignored (R75). -/
  closing : Bool
  deriving DecidableEq, Repr

/-- A completion ring (R48, R57, R62, R64, R67). -/
structure Cq where
  en : Bool
  remote : Bool
  owner : Req
  base : Nat
  log2 : Nat
  mrKey : Nat
  msix : Nat
  posted : Nat
  head : Nat
  reserved : Nat
  /-- Entries posted since the last interrupt and the fabric time of the first of them (R64). -/
  unsig : Nat
  firstUnsig : Option Nat
  deriving DecidableEq, Repr

/-- Where an accepted command stands. -/
inductive CmdStage where
  /-- In its admission queue (R325). -/
  | queued
  /-- Dispatched to its executor (R329), which has not begun it. -/
  | dispatched
  /-- Begun: its own later steps finish it. -/
  | running
  deriving DecidableEq, Repr

/-- An accepted command, from acceptance until its completion entry is written (R55). -/
structure Cmd where
  handle : Nat
  ring : Nat
  cq : Nat
  entry : Bytes
  req : Req
  /-- Place in acceptance order (R59). -/
  seq : Nat
  accTick : Nat
  accTime : Nat
  stage : CmdStage
  /-- Queue, cost and finish tag (R325, R327, R328). -/
  q : Nat
  cost : Nat
  tag : Nat
  /-- Launch tick used and deadline tick (R13, R52). -/
  launch : Nat
  deadline : Nat
  /-- The launch tick named, less the one used, when it lies too far ahead or was moved (R52, R61). -/
  tooFar : Bool
  moved : Bool
  late : Bool
  launched : Bool
  /-- The entry named a completion ring that was not enabled, or not its requester's, when it was accepted (R51). -/
  badCq : Bool
  /-- It has been handed to node firmware and counted (R68); it has waited for earlier positions (R73). -/
  diverted : Bool
  waited : Bool
  /-- The key of the memory region that host addresses of a remote ring's commands lie in: that of the ring's default completion ring (R91). -/
  mrKey : Nat
  /-- Tagged under R437, and the stamps taken: stage, time, U. -/
  tagged : Bool
  stamps : List (Nat × Nat × Nat)
  /-- The work requests of a `TRIGGER_POST`, copied at acceptance (R142). -/
  wrs : List Bytes
  deriving DecidableEq, Repr

/-- The command front end. -/
structure Front where
  sqs : NMap Sq
  cqs : NMap Cq
  /-- Accepted commands not yet complete, in acceptance order. -/
  cmds : List Cmd
  /-- Commands accepted since reset. -/
  accSeq : Nat
  /-- Time, in sixteenths of a unit, until which the front end is busy writing acceptance words at 128 a microsecond (R60). -/
  paceUntil : Nat
  /-- Entries made visible in the last microsecond: fabric time of their doorbell, and how many (R60). -/
  recent : List (Nat × Nat)
  deriving DecidableEq, Repr

/-! ## Sequences (04) -/

/-- An outstanding snapshot: the command, the tick in which it was taken, the pages it names (R94), and the VERSION of each list read, by its number (R89). -/
structure Snap where
  handle : Nat
  tick : Nat
  fpns : List Nat
  vers : List (Nat × Nat)
  deriving DecidableEq, Repr

/-- A body in host-reachable memory that a swap has retired and that is still marked (R90): its sequence, the sequence's groups, its list's number, its address and
length in bytes. -/
structure OldBody where
  seq : Nat
  groups : Nat
  list : Nat
  addr : Nat
  len : Nat
  deriving DecidableEq, Repr

/-- Bodies and pages retired in a tick and not yet freed (R94). -/
structure Retired where
  tick : Nat
  pages : List Nat
  bodies : List OldBody
  deriving DecidableEq, Repr

/-- A `COPY_PAGES` waiting for its allocations (R103): FPNs obtained, pages still to allocate. -/
structure CopyJob where
  handle : Nat
  got : List Nat
  left : Nat
  deriving DecidableEq, Repr

/-- Sequences homed on this node. -/
structure Seqs where
  open_ : NMap Seqn
  /-- Sequences known to be open on another node of their composition: handle to node ID (R78). -/
  elsewhere : NMap Nat
  snaps : List Snap
  retired : List Retired
  copies : List CopyJob
  /-- Sequences whose contexts are cached on the I/O die, longest there first: at most 65,536 (R78). -/
  ctx : List Nat
  /-- `APPEND_KV` commands applied and awaiting parity acknowledgements (R358): handle, positions appended, positions matched. -/
  applied : List (Nat × Nat × Nat)
  deriving DecidableEq, Repr

/-! ## Attention on holders and home (05) -/

/-- Where a granule item stands on its holder. -/
inductive ItemSt where
  /-- Received; its slice has not started. -/
  | planned
  /-- In a die queue (R123). -/
  | queued
  /-- Waiting for its pages in terrace 1 (R215), or for its data in cluster SRAM (R216). -/
  | waitT1 | waitData
  /-- Taken by a cluster (R124), or running on a BSU. -/
  | running
  deriving DecidableEq, Repr

/-- A granule item on its holder. -/
structure Item where
  home : Nat
  handle : Nat
  group : Nat
  granule : Nat
  pages : List (Nat × Nat)
  st : ItemSt
  /-- Die of its queue, cluster that took it, BSU that runs it. -/
  die : Nat
  cluster : Option Nat
  bsu : Option Nat
  /-- First notch, counted from fabric time 0, at which it may start (R28, R126). -/
  due : Nat
  /-- Tick of the slice it is planned in (R29). -/
  slice : Nat
  /-- Other nodes' pages of a split granule (R446). -/
  copies : List SplitPage
  /-- Read in place, below terrace 1 (R216). -/
  direct : Bool
  /-- A read in place whose data has arrived in cluster SRAM. -/
  loaded : Bool
  /-- Ticks counted in `TER_STALL` for it (R215). -/
  stalled : List Nat
  /-- Its slice has been counted under `SLICE_OVERRUN` (R29). -/
  overrun : Bool
  /-- Its producer found no credit of its BSU's command area (R167). -/
  blocked : Bool
  deriving DecidableEq, Repr

/-- A holder's share of a step. -/
structure Share where
  desc : Desc
  /-- Tick in which the descriptor arrived. -/
  got : Nat
  /-- Tick in which it launched. -/
  launched : Option Nat
  late : Bool
  /-- A granule of it has run bank-side (R109). -/
  bank : Bool
  /-- Leaves computed and kept for pre-merge: (group, granule, records) (R134). -/
  leaves : List (Nat × Nat × List Bytes)
  deriving DecidableEq, Repr

/-- A step on its home node. -/
structure Step where
  handle : Nat
  seq : Nat
  layer : Nat
  op : Nat
  outForm : Nat
  outAddr : Nat
  /-- The descriptor without holder or items. -/
  desc : Desc
  /-- Descriptors by holder, the chain, and the tick of the snapshot. -/
  descs : List Desc
  chain : ChainPost
  tick : Nat
  /-- VERSION and GENERATION of each group's list at the snapshot (R89). -/
  versions : List Nat
  gens : List Nat
  fpns : List Nat
  confl : Nat
  /-- Descriptors have been sent (R137). -/
  sent : Bool
  watchdog : Bool
  late : Bool
  /-- A granule of it ran bank-side; one ran at all (R109). -/
  bankSide : Bool
  ran : Bool
  deriving DecidableEq, Repr

/-- An `ATTEND_BLOCK` in progress (R110): stage the next stage to start (0 projections, 1 RoPE and append, 2 the inner step runs, 3 output
projection), the tick at which it is due, and the rows in FP32. -/
structure Block where
  handle : Nat
  wset : Nat
  /-- The layer descriptor (R241). -/
  ldesc : Bytes
  stage : Nat
  due : Nat
  hidden : List Nat
  q : List Nat
  k : List Nat
  v : List Nat
  att : List Nat
  missCounted : Option Nat
  /-- Digest of the inner step's root records (R379). -/
  rootHash : Bytes
  /-- Granules were missing from the inner step (R144). -/
  partial_ : Bool
  /-- Rescale tables that its first stage has bound, by 8 c + n (R158). -/
  tables : List Nat
  deriving DecidableEq, Repr

/-- A tile in a cluster's tile queue (R253): its data blocks, how many of them are there, whether it has scales, and whether they are there. -/
structure TileEnt where
  need : Nat
  got : Nat
  scaled : Bool
  scales : Bool
  deriving DecidableEq, Repr

/-- Projection work placed on a cluster from a tiles window: command, cluster, set, layer, and the blocks its tile queue still wants, in order (R253). -/
structure TileJob where
  handle : Nat
  cluster : Nat
  wset : Nat
  layer : Nat
  left : List (Nat × Nat)
  deriving DecidableEq, Repr

/-- Attention state. -/
structure Att where
  steps : List Step
  shares : List Share
  items : List Item
  /-- Rows of appends applied here for a step, by (home, handle) (R14). -/
  rowsIn : List (Nat × Nat × Nat)
  blocks : List Block
  /-- Rescale tables by 8 c + n (R158). -/
  tables : NMap (List Nat)
  /-- What a table was loaded from: set, layer, projection (0 Q, 1 K, 2 V, 3 O), part of 4,096 channels; gone once the set is. -/
  tableOf : NMap (Nat × Nat × Nat × Nat)
  /-- Tables bound to an item, by 8 c + n. -/
  bound : List Nat
  /-- Projection work on clusters, their tile queues, and the rotating priority of each expander among its clusters (R253). -/
  tileJobs : List TileJob
  tileQs : NMap (List TileEnt)
  exRotor : NMap Nat
  /-- Rotating priority of each die's queue among its own clusters (R125). -/
  rotor : NMap Nat
  /-- Tick whose completion report is outstanding: slices planned and not finished, by tick (R43). -/
  planned : NMap Nat
  deriving DecidableEq, Repr

/-! ## Confluence (06) -/

/-- A record held, stored or seen for one pair and tree node: pair index t * QH + q, level, index, sending holder, bytes. -/
structure HeldRec where
  pair : Nat
  level : Nat
  index : Nat
  holder : Nat
  data : Bytes
  /-- Its slot of the chain's reservation; the bytes of one in the spill area are in terrace 1. -/
  slot : Nat
  deriving DecidableEq, Repr

/-- A confluence chain and its request state (R136 to R144). -/
structure Chain where
  post : ChainPost
  /-- KIND 0x10 messages counted (R141), and the units they came for. -/
  count : Nat
  got : List (Nat × Nat × Nat × Nat)
  /-- Records held for a sibling, records already received, and roots by pair. -/
  held : List HeldRec
  seen : List HeldRec
  roots : NMap Bytes
  /-- Strides of the reservation taken from the confluence buffer and from the spill area. -/
  buf : Nat
  spill : Nat
  /-- Holders that have left the map (R144 row 3); a holder has launched late; a granule has run bank-side. -/
  lost : List Nat
  late : Bool
  bank : Bool
  /-- 64-byte units of the confluence buffer and of the spill area that the reservation holds, as (first, count) (R136). -/
  bufAt : List (Nat × Nat)
  spillAt : List (Nat × Nat)
  deriving DecidableEq, Repr

/-- A chain posted by host software (R142). -/
structure HostChain where
  handle : Nat
  qp : Nat
  tag : Nat
  threshold : Nat
  count : Nat
  /-- Work requests, as read at acceptance. -/
  wrs : List Bytes
  expire : Nat
  fired : Bool
  left : Nat
  deriving DecidableEq, Repr

/-- The confluence engine. -/
structure Cfl where
  chains : List Chain
  /-- Requests that have finalised, by (home, handle): later messages count as LATE (R140). -/
  done : List (Nat × Nat)
  hosts : List HostChain
  deriving DecidableEq, Repr

/-! ## Conversion statistics (07) -/

/-- Totals of one tick by class: converted, clipped, non-finite (R161, R162). -/
structure CvtTotals where
  tick : Nat
  conv : NMap Nat
  clip : NMap Nat
  nonfin : NMap Nat
  deriving DecidableEq, Repr

/-- Running totals, the snapshot, and the read view of each requester: 0 to 3 the port halves, 4 the management path (R163). -/
structure Cvt where
  run : CvtTotals
  snap : CvtTotals
  views : NMap CvtTotals
  deriving DecidableEq, Repr

/-! ## Bank-side units (08) -/

/-- An entry of a command area (R167): what it runs for (0 `BSU_RUN`, 1 granule item), request, item, program number, first notch counted from fabric
time 0. -/
structure BsuEntry where
  src : Nat
  home : Nat
  handle : Nat
  group : Nat
  granule : Nat
  prog : Nat
  launch : Nat
  deriving DecidableEq, Repr

/-- A run in progress: its entry and checkpoint (R184). -/
structure BsuRunSt where
  ent : BsuEntry
  ip : Nat
  /-- A0 to A7, L0 to L3. -/
  areg : List Nat
  lreg : List Nat
  /-- Progress within the instruction: lines moved, or pages attended. -/
  prog : Nat
  msteps : Nat
  paused : Bool
  /-- Bank offset of the line whose deferral is awaited (R194). -/
  deferred : Option Nat
  halted : Bool
  /-- First notch, counted from fabric time 0, of its work (R28). -/
  start : Nat
  /-- The bank lines that the instruction in progress has read: what its partial exact sums are taken over (R181, R184). -/
  got : Bytes
  deriving DecidableEq, Repr

/-- A bank-side unit: command area, run, SRAM (R166), micro-program store (R172), programs by number: slots and digest. -/
structure Bsu where
  area : List BsuEntry
  run : Option BsuRunSt
  sram : Mem
  store : Mem
  progs : NMap (Nat × Bytes)
  deriving DecidableEq, Repr

/-- The first failure of a `BSU_RUN` in time (R171): status, BSU, instruction index, bank offset, notch. -/
structure BsuFail where
  status : Nat
  bsu : Nat
  ip : Nat
  addr : Nat
  notch : Nat
  deriving DecidableEq, Repr

/-- A `BSU_RUN` in progress: its BSUs, its input block, the outputs of the BSUs that have halted, its first failure, its committed microsteps. -/
structure BsuJob where
  handle : Nat
  first : Nat
  count : Nat
  input : Bytes
  outs : NMap Bytes
  fail : Option BsuFail
  msteps : Nat
  deriving DecidableEq, Repr

/-- A `BSU_OWN` in progress (R188): its frames not owned before, and the lines it recalls, by name divided by 64. -/
structure OwnJob where
  handle : Nat
  frames : List Nat
  lines : List Nat
  /-- Lines among them that held owner-lost poison before the recall. -/
  lostOld : List Nat
  deriving DecidableEq, Repr

/-- The bank-side units. -/
structure Bsus where
  units : NMap Bsu
  /-- Frames not OPEN, by terrace-1 address (R187): 1 SHARED, 2 BSU that was OPEN, 3 BSU that was SHARED; 4 and 5 are OPEN and SHARED frames that a `BSU_OWN`
  is taking. -/
  frames : NMap Nat
  /-- Node firmware's scratch: address and length. -/
  scratch : List (Nat × Nat)
  /-- Writes held while their frames are in the BSU state, in arrival order (R188); no bytes stand for a host's write of a poisoned line. -/
  held : List (Nat × Bytes)
  jobs : List BsuJob
  owns : List OwnJob
  /-- The first firmware slot of the running image's programs, and whether a new image waits for the next tick boundary (R172). -/
  fwBase : Nat
  fwNew : Bool
  deriving DecidableEq, Repr

/-! ## Terraces (09) -/

/-- A page-table entry (R197). -/
structure PageEnt where
  /-- 1, or 3 for a page below terrace 1; it is in terrace 2 while all its sectors are valid in the cache (R199). -/
  terrace : Nat
  /-- Byte address of its first frame, or of its first terrace-3 sector. -/
  addr : Nat
  /-- Footprint in bytes. -/
  foot : Nat
  seq : Nat
  /-- Layer, group and first position, once a body has placed it (R103). -/
  place : Option (Nat × Nat × Nat)
  /-- The node that homes the owning sequence (R354), and the first protected unit of the page (R356). -/
  home : Nat
  unit : Option Nat
  /-- The shared-prefix mark. -/
  pref : Bool
  kf : Nat
  vf : Nat
  heads : Nat
  dim : Nat
  /-- Positions of the page that are filled, counted from its first (R202). -/
  fill : Nat
  /-- Charged to the slice outside a reservation (R87). -/
  charged : Bool
  comp : Nat
  pin : Nat
  bias : Int
  lowest : Nat
  heat : Nat
  /-- Tick up to which halvings are applied, and tick of the last read (R205, R206). -/
  decayAt : Nat
  lastRead : Nat
  /-- Tick in which a `MIGRATE` move ended: exempt from heat for one decay period (R206). -/
  settled : Option Nat
  deriving DecidableEq, Repr

/-- Frames of terrace 1 held by something other than a page: first byte address, length in bytes. -/
structure T1Hold where
  addr : Nat
  len : Nat
  deriving DecidableEq, Repr

/-- A 64 KiB block of the cache partition: masks of valid and dirty sectors, and its place in use order (R198). -/
structure CacheBlk where
  valid : Nat
  dirty : Nat
  used : Nat
  deriving DecidableEq, Repr


/-- A request in the mover queue (R201): class 1 demand promotion, 2 `MIGRATE` and `PIN`, 3 heat; destination terrace, the pseudo-channel named, the
command it belongs to. -/
structure MoveReq where
  cls : Nat
  what : MoveWhat
  dest : Nat
  pch : Option Nat
  handle : Option Nat
  deriving DecidableEq, Repr

/-- The hint that `PLACE_HINT` gives the pages a sequence later allocates here (R214): the sequence, its layers and groups, BIAS and LOWEST. -/
structure HintDef where
  seq : Nat
  layer : Nat
  group : Nat
  bias : Int
  lowest : Nat
  deriving DecidableEq, Repr

/-- A `MIGRATE` or `PIN` in progress: counts of R210, the pin level to set, its pages, and the weight layers it waits for: (set, layer). -/
structure MigJob where
  handle : Nat
  acted : Nat
  already : Nat
  skipped : Nat
  level : Nat
  pages : List Nat
  layers : List (Nat × Nat)
  deriving DecidableEq, Repr

/-- The terraces. -/
structure Ter where
  pages : NMap PageEnt
  nextPage : Nat
  holds : List T1Hold
  /-- Contents of terrace 3 as readers see it, cache included; sectors under the storage key are held as plaintext. -/
  t3 : Mem
  cache : NMap CacheBlk
  useSeq : Nat
  /-- Requests not ended, in order of arrival, and those of them that a mover is copying (R201). -/
  moves : List MoveReq
  busy : List MoveReq
  jobs : List MigJob
  /-- Sources of finished moves, freed under R94: tick and page contents' place (terrace, address, length). -/
  freed : List (Nat × Nat × Nat × Nat)
  /-- Appends and copies waiting for a page (R200): handles. -/
  allocWait : List Nat
  /-- Default hints of sequences homed elsewhere, latest first; layer 0xFFFF and group 0xFF stand for every one (R214). -/
  hintDefs : List HintDef
  /-- Heat is demoting until HIGH is reached (R206). -/
  demoting : Bool
  /-- Pages whose move has been counted as waiting on a set of pinned blocks (R198). -/
  fullTold : List Nat
  /-- The last tick in which an overrun of a mover (0 to 7) or an expander (8 to 15) was counted (R29). -/
  overAt : NMap Nat
  deriving DecidableEq, Repr

/-! ## Memory integrity (10) -/

/-- A row that has needed correction (R235): its base address, the lines corrected in this scrub period, its place in update order. -/
structure RowEnt where
  row : Nat
  lines : List Nat
  used : Nat
  deriving DecidableEq, Repr

/-- A retirement in progress (R236, R433): pseudo-channel, the command that asked, whether `EV_PCH_RETIRE_WAIT` is recorded, pages and frames moved. -/
structure RetireJob where
  pch : Nat
  handle : Option Nat
  told : Bool
  moved : Nat
  deriving DecidableEq, Repr

/-- Codes, scrub, sparing and retirement. -/
structure Mic where
  /-- Pseudo-channels retired, as the boot flash records them, and those being retired. -/
  retired : List Nat
  retiring : List RetireJob
  /-- Poisoned lines of terrace 1 and of terraces 2 and 3, by line address: 1 memory poison, 2 owner-lost poison (R223, R225). -/
  poison : NMap Nat
  poison3 : NMap Nat
  /-- The same for the direct partition of terrace 2, by byte offset of the line. -/
  poisonD : NMap Nat
  /-- Rows corrected in this scrub period on a lane, by 68 pch + lane, and lanes marked faulty by pseudo-channel (R222). -/
  laneRows : NMap (List Nat)
  lanes : NMap (List Nat)
  /-- The table of rows of each stack, and its update count (R235). -/
  rows : NMap (List RowEnt)
  rowSeq : Nat
  /-- Rows that have earned sparing and wait for it. -/
  owed : List Nat
  /-- Spare rows used, by bank, and the repair list of the boot flash (R235). -/
  spared : NMap Nat
  repair : List Nat
  /-- Banks of a pseudo-channel whose spares ran out; uncorrectable lines found in this scrub period (R236). -/
  sparesOut : NMap (List Nat)
  ueLines : NMap Nat
  /-- Next line index of each stack's patrol, when its period began, and lines scrubbed ahead of the patrol order (R227). Key 8 is board memory. -/
  patrol : NMap Nat
  periodAt : NMap Nat
  /-- Poisoned bursts of board memory that hold neither a direct nor a cached line, by board-memory address (R226). -/
  poisonO : List Nat
  ahead : NMap (List Nat)
  /-- Clusters, BSUs, 64 KiB confluence blocks and expanders out of service (R234, R253). -/
  clustersOut : List Nat
  bsusOut : List Nat
  cflOut : List Nat
  expOut : List Nat
  /-- Stacks left out of service at start-up (R423). -/
  stacksOut : List Nat
  /-- DDR5 channels and flash slots taken out of service (R433). -/
  ddrOut : List Nat
  flashOut : List Nat
  /-- Flash reads in their retry, by sector (R228). -/
  retry : List Nat
  /-- By pseudo-channel: notches counted from fabric time 0 at which its last refresh window began (R32). -/
  refreshed : NMap Nat
  /-- Frames skipped and accesses held by march tests beyond the thousands that `MIC_MARCH_STATUS` counts. -/
  skipRem : Nat
  waitRem : Nat
  deriving DecidableEq, Repr

/-! ## Weight sets and expanders (11) -/

/-- A window slot (R218, R219): its terrace-1 runs, the layer it holds, its place in use order, the stream blocks written (R251). -/
structure WSlot where
  runs : List (Nat × Nat)
  layer : Option Nat
  used : Nat
  blocks : List Nat
  deriving DecidableEq, Repr

/-- A layer kept expanded outside the window, with its own terrace-1 runs (R212, R218); unpinned, the next eviction takes it. -/
structure WPin where
  layer : Nat
  runs : List (Nat × Nat)
  blocks : List Nat
  pinned : Bool
  deriving DecidableEq, Repr

/-- A layer being streamed (R218, R246, R251): blocks in their re-fetch, and the counts of R246. -/
structure WStream where
  layer : Nat
  refetch : List Nat
  coded : Nat
  crc : Nat
  raw : Nat
  deriving DecidableEq, Repr

/-- A loaded weight set. -/
structure WSet where
  /-- FORM: 0 pages, 1 tiles. -/
  form : Nat
  base : Nat
  /-- The image as supplied (R238), and its SHA-384 digest. -/
  image : Bytes
  digest : Bytes
  bound : Bool
  /-- The policy kept at binding: REQUIRE, MIN_SVN, PFLAGS, POLICY_DIGEST (R376). -/
  policy : Bytes
  /-- Terrace-3 address and length of its sectors, and its layer numbers. -/
  addr : Nat
  len : Nat
  layers : List Nat
  slots : List WSlot
  pins : List WPin
  streams : List WStream
  /-- Layers that wait for a slot, in order (R218). -/
  wanted : List Nat
  defective : List Nat
  /-- Layers whose pin level `UNPIN` has set to 0, and those whose blocks have then left terrace 2 (R209, R211, R213); hints by layer (R214). -/
  unpinned : List Nat
  deep : List Nat
  hints : NMap (Int × Nat)
  /-- The sectors that hold each layer's index tables, code tables and block areas, counted from the set's first (R245). -/
  secs : NMap (List Nat)
  deriving DecidableEq, Repr

/-- A prefetch in progress (R246): command, set, layers not yet in terrace 1, counts. -/
structure WJob where
  handle : Nat
  wset : Nat
  left : List Nat
  coded : Nat
  crc : Nat
  raw : Nat
  deriving DecidableEq, Repr

/-- Weight sets, their streams, layers an accepted `ATTEND_BLOCK` names: (handle, set, layer), and evictions that wait: (handle, place in acceptance order, set). -/
structure Wts where
  sets : NMap WSet
  jobs : List WJob
  uses : List (Nat × Nat × Nat)
  evicts : List (Nat × Nat × Nat)
  useSeq : Nat
  /-- Bytes of stored input each expander has read beyond its count in KiB. -/
  inRem : NMap Nat
  deriving DecidableEq, Repr

/-! ## Prefix directory (12) -/

/-- An entry of the directory (R257). -/
structure PdxEnt where
  key : Nat
  fpn : Nat
  rank : Nat
  deriving DecidableEq, Repr

/-- A `PD_INSERT` whose next entry waits for a rebalance (R260): its handle, the index of that entry, outcome bytes so far, and whether its wait is counted. -/
structure PdxJob where
  handle : Nat
  next : Nat
  outs : Bytes
  counted : Bool
  deriving DecidableEq, Repr

/-- The prefix directory. -/
structure Pdx where
  /-- The array: slots that are not hollow (R257), and the shadow of it (R268). -/
  slots : NMap PdxEnt
  shadow : NMap PdxEnt
  /-- Segments left without a hollow, in order (R260). -/
  rebal : List Nat
  job : Option PdxJob
  /-- The comparator's next segment, and one more than the last tick it ran in (R270). -/
  cmpNext : Nat
  cmpTick : Nat
  deriving DecidableEq, Repr

/-! ## CXL directory (13) -/

/-- An extent (R272 to R275): state, HOSTS, MODE, heads that have accepted, heads whose release is draining, heads it was taken from since they last
accepted it, and the frames that back it in DPA order as (terrace-1 address, length) runs. -/
structure Extent where
  state : Nat
  hosts : Nat
  mode : Nat
  accepted : Nat
  revoking : Nat
  taken : Nat
  runs : List (Nat × Nat)
  deriving DecidableEq, Repr

/-- A directory entry (R278): E or S, head mask, place in use order. -/
structure DirEnt where
  excl : Bool
  heads : Nat
  used : Nat
  deriving DecidableEq, Repr

/-- A back-invalidate snoop in flight (R279, R282): line number, head, whether the copy is invalidated, and the notch count it was sent at. -/
structure Snoop where
  line : Nat
  head : Nat
  inv : Bool
  sent : Nat
  deriving DecidableEq, Repr

/-- A host request (R279): kind 0 read without copy, 1 shared, 2 exclusive, 3 write; the write's offset in its line, bytes, the state the writer asks to keep (0 none,
1 shared, 2 exclusive), and poison. -/
structure CxlReq where
  head : Nat
  kind : Nat
  dpa : Nat
  data : Bytes
  keep : Nat
  poison : Bool
  /-- Its credit is paid (R283). -/
  paid : Bool
  /-- The status under which it is answered without touching memory, decided when it is received (R276, R286), 0 for none. -/
  deny : Nat
  /-- The lanes in error of the line it reads, or the devices (R221, R226). -/
  errs : List Nat
  deriving DecidableEq, Repr

/-- A head: its link and CXL mode, its bucket in quarter bytes and when it was last filled (R283), the fabric time of its last heartbeat. -/
structure HeadSt where
  link : Bool
  credit : Nat
  filled : Nat
  beat : Nat
  deriving DecidableEq, Repr

/-- The CXL directory. -/
structure Cxd where
  exts : NMap Extent
  dir : NMap DirEnt
  dirSeq : Nat
  snoops : List Snoop
  /-- Requests waiting, in order of arrival (R279, R283). -/
  reqs : List CxlReq
  heads : NMap HeadSt
  /-- The extent command in progress: operation, extent, heads (R286, R291). -/
  job : Option (Nat × Nat × Nat)
  /-- Extents being zeroed (R277). -/
  zeroing : List Nat
  /-- The direct partition of terrace 2: byte offsets from DPA 0x100_0000_0000. -/
  direct : Mem
  /-- A copy of R285 in progress: FPN, extent, first frame. -/
  pub : Option (Nat × Nat × Nat)
  deriving DecidableEq, Repr

/-! ## Transport and ports (14) -/

/-- A segment of a message being sent: sent and acknowledged, the time, path, attempt and order of its last transmission, and segments sent after it on the same
path that have been acknowledged (R311). -/
structure SegTx where
  sent : Bool
  acked : Bool
  at_ : Nat
  path : Nat
  try_ : Nat
  order : Nat
  later : Nat
  deriving DecidableEq, Repr

/-- A message being sent (R308): number, header fields, traffic class, the key slot it began under, its segments, its work request, poisoned lines by (line, kind), the
time at which it is resent after an RNR, and whether a segment of it was ever lost. -/
structure SendMsg where
  msn : Nat
  op : Nat
  data : Bytes
  tag : Option Nat
  rkey : Nat
  raddr : Nat
  cls : Nat
  key : Option Nat
  segs : List SegTx
  wr : Option Nat
  poison : List (Nat × Nat)
  rnrAt : Option Nat
  loss : Bool
  deriving DecidableEq, Repr

/-- A work request (R315): index, bytes, the chain that issued it, and 0 waiting, 1 started, 2 complete. -/
structure Wr where
  idx : Nat
  entry : Bytes
  chain : Option Nat
  stage : Nat
  deriving DecidableEq, Repr

/-- A message being received (R312): the fields its first segment fixed, segments present, the receive slot it took, its bytes for a consumer in the node, completion. -/
structure RecvMsg where
  msn : Nat
  op : Nat
  len : Nat
  tag : Option Nat
  rkey : Nat
  raddr : Nat
  have_ : List Nat
  slot : Option Nat
  data : Mem
  done : Bool
  deriving DecidableEq, Repr

/-- A queue pair's context (R302). -/
structure Qp where
  typ : Nat
  /-- 0 RESET, 1 READY, 2 ERROR (R303), and the tick it entered ERROR. -/
  st : Nat
  errTick : Nat
  pd : Nat
  owner : Req
  peer : Nat
  peerQp : Option Nat
  paths : Nat
  inOrder : Bool
  svc : Nat
  eseed : Nat
  /-- Rings: sizes, regions, addresses, vector (R322). -/
  sqLog2 : Nat
  rqLog2 : Nat
  slotLog2 : Nat
  cqLog2 : Nat
  sqKey : Nat
  rqKey : Nat
  cqKey : Nat
  msix : Nat
  sqAddr : Nat
  rqAddr : Nat
  cqAddr : Nat
  /-- Free-running counts: work requests read, slots taken and released, completions posted and released. -/
  sqTail : Nat
  sqDone : Nat
  rqTaken : Nat
  rqHead : Nat
  cqPosted : Nat
  cqHead : Nat
  /-- Completions that wait for room in the ring. -/
  cplq : List Bytes
  wrs : List Wr
  wrNext : Nat
  /-- Congestion state (R310), times in units of fabric time. -/
  cwnd : Nat
  srtt : Nat
  epochAcked : Nat
  epochCe : Nat
  epochMin : Option Nat
  epochStart : Nat
  /-- Path last used, paths unusable with the tick at which they are usable again, transmissions counted (R308, R309). -/
  lastPath : Nat
  bad : NMap Nat
  order : Nat
  /-- The next message number and acknowledgement number (R304, R313). -/
  msn : Nat
  asn : Nat
  sends : List SendMsg
  /-- BASE, messages begun, and what the next ACK carries: segments and CE marks since the last, the first segment not yet acknowledged as (time, message, TS, path). -/
  base : Nat
  recvs : List RecvMsg
  since : Nat
  ce : Nat
  first : Option (Nat × Nat × Nat × Nat)
  deriving DecidableEq, Repr

/-- A memory region (R306). -/
structure Mr where
  gen : Nat
  base : Nat
  len : Nat
  space : Nat
  access : Nat
  pd : Nat
  owner : Req
  deriving DecidableEq, Repr

/-- A board link (R323): link sequence numbers of the next frame sent and expected, credits held by channel in 256-byte units, frames in the replay buffer as (LSEQ,
VC, segment), the tick of the last replay and the replays in it, whether a replay is awaited, and whether it has retrained. -/
structure BLink where
  tx : Nat
  rx : Nat
  credits : NMap Nat
  buf : List (Nat × Nat × Seg)
  replTick : Nat
  replCount : Nat
  waiting : Bool
  retrained : Bool
  deriving DecidableEq, Repr

/-- The transport engine and the ports. -/
structure Qst where
  qps : NMap Qp
  /-- Queue-pair numbers held out of use, with the slots they wait for (R304). -/
  held : NMap (List Nat)
  /-- Protection domains with their owner, regions by index, generations issued by index (R306). -/
  pds : NMap Req
  mrs : NMap Mr
  gens : NMap Nat
  /-- Cached contexts, least recently used first, contexts being fetched, and segments that wait, in order of arrival (R305). -/
  cache : List Nat
  fetching : List Nat
  waiting : List (Link × Seg)
  links : NMap BLink
  /-- Modules absent; router MAC addresses learned; ICMPv6 Packet Too Big messages counted; address prefixes in effect (R297), by port. -/
  absent : List Nat
  mac : NMap Nat
  tooBig : NMap Nat
  pfx : NMap Nat
  /-- `QST_DB_LO` as each requester last wrote it (R316). -/
  dbLo : List (Req × Nat)
  deriving DecidableEq, Repr

/-! ## Admission scheduler (15) -/

/-- What an admission queue keeps beside its registers; its commands are the `queued` ones of the front end. -/
structure SchQ where
  /-- Last finish tag F_q, in 2^-16 CU (R328). -/
  fin : Nat
  /-- R_q in sixteenths of a CU per tick (R335). -/
  rate : Nat
  /-- Burst credit in CU (R330). -/
  credit : Nat
  /-- CU dispatched in the running tick, and the greatest wait in notches of a command dispatched in it (R335). -/
  disp : Nat
  delay : Nat
  /-- A ring that feeds the queue has been enabled (R330). -/
  fed : Bool
  deriving DecidableEq, Repr

/-- The admission scheduler. -/
structure Sch where
  /-- Virtual time V, in 2^-16 CU (R328). -/
  v : Nat
  qs : NMap SchQ
  /-- The queue with first priority among equal tags (R329). -/
  rotor : Nat
  deriving DecidableEq, Repr

/-! ## The fabric map (16) -/

/-- A `DRAIN` accepted on this node whose changes have committed: the command, its acceptance tick, the node that drains. -/
structure DrainJob where
  handle : Nat
  accTick : Nat
  node : Nat
  deriving DecidableEq, Repr

/-- A command of this node that waits for its changes to commit: handle, acceptance tick, BASE_EPOCH, last tick. -/
structure MapWait where
  handle : Nat
  base : Nat
  expire : Nat
  deriving DecidableEq, Repr

/-- A rebuild on this node as successor (R359): group, the lost member and its index, the time before which its rate admits no further unit. -/
structure Rebuild where
  group : Nat
  lost : Nat
  gindex : Nat
  next : Nat
  deriving DecidableEq, Repr

/-- Parity acknowledgements outstanding for one request (R358). -/
structure AckWait where
  home : Nat
  handle : Nat
  left : Nat
  deriving DecidableEq, Repr

/-- The node's part in the map. -/
structure MapSt where
  map : FMap
  /-- The ballot promised, and the epoch accepted and not seen committed (R344). -/
  promised : Nat
  accepted : Option Accepted
  /-- As coordinator: the ballot, keepers that promised, epochs they reported, and whether a majority has promised. -/
  ballot : Option Nat
  promises : List Nat
  reported : List Accepted
  ready : Bool
  /-- The epoch proposed and keepers that have accepted it; the tick of the last proposal. -/
  inflight : Option Accepted
  acceptedBy : List Nat
  proposedAt : Option Nat
  gathered : List Proposal
  /-- Commands of this node that wait for a commit, and drains. -/
  waits : List MapWait
  drains : List DrainJob
  /-- As keeper: tick of each node's last report; losses told to the coordinator. -/
  lastReport : NMap Nat
  told : List Nat
  /-- As coordinator: the keepers that have told of a node's silence. -/
  silent : NMap (List Nat)
  /-- Tick of each keeper's last acknowledgement of this node's report (R353). -/
  acks : NMap Nat
  /-- The newest epoch this node has met (R345). -/
  newest : Nat
  /-- Commits received ahead of their turn. -/
  early : List CommitMsg
  /-- Commits installed, newest first, for nodes that fetch them (R345). -/
  log : List CommitMsg
  /-- While this node drains: local pages already copied to the successor, pages moved, sequences rehomed (R351). -/
  drainSent : List Nat
  drainPages : Nat
  drainSeqs : Nat
  /-- The place in acceptance order at which the drain began: later commands on a sequence wait for its move. -/
  drainAt : Nat
  /-- The end of this node's own drain has been proposed. -/
  drainTold : Bool
  rebuild : Option Rebuild
  /-- Homes of a group that have reported the end of a rebuild (R359). -/
  homesDone : NMap (List Nat)
  /-- Parity and rebuilt units of protected space on this node: byte address 4,096 × unit + offset (R356). -/
  units : Mem
  /-- Poisoned lines of rebuilt units, by address in `units` (R358). -/
  unitPoison : NMap Nat
  ackWaits : List AckWait
  deriving DecidableEq, Repr

/-! ## Security core (17) -/

/-- A transport key slot (R371): its key, packets sent under it (R372), the tick at whose boundary an ACTIVATE takes
effect, and the tick at whose boundary a
retired key is destroyed. The state shown is in `SEC_SLOT[k]`. -/
structure KeySlot where
  key : Bytes
  packets : Nat
  activate : Option Nat
  destroyAt : Option Nat
  deriving DecidableEq, Repr

/-- The records of one tick (R380 to R382): leaves in posting order, the statement's signature once made, and RELEASE. -/
structure RecTick where
  tick : Nat
  recs : List Bytes
  sig : Option Bytes
  released : Bool
  deriving DecidableEq, Repr

/-- A completion held for room in the record store (R383): the command, its status and result, and its record. -/
structure HeldCpl where
  handle : Nat
  status : Nat
  result : Bytes
  record : Bytes
  deriving DecidableEq, Repr

/-- The security core. -/
structure Sec where
  /-- The storage key, while the key store holds one. -/
  storage : Option Bytes
  /-- AUTH_PUB of the tenant bundle. -/
  authPub : Bytes
  slots : NMap KeySlot
  /-- Binding keys by weight set. -/
  bind : NMap Bytes
  /-- Measurements 1 to 8 (R368). -/
  meas : NMap Bytes
  /-- The last firmware switch, by tick, and measurements 1 to 6 as they stood before it (R429). -/
  prior : Option (Nat × NMap Bytes)
  /-- A `TENANT_OPEN` in OPENING, a `TENANT_CLOSE` in progress: handle and acceptance tick. -/
  opening : Option (Nat × Nat)
  closing : Option (Nat × Nat)
  /-- The fence of the close has begun; unreleased records it destroyed. -/
  fenced : Bool
  destroyed : Nat
  /-- The record store (R382), oldest tick first, and completions held for room. -/
  store : List RecTick
  held : List HeldCpl
  /-- `EV_REC_STORE_LOW` is recorded for the running episode. -/
  lowTold : Bool
  /-- SPDM, by requester (0 to 3 the DOE mailboxes of the heads, 4 the I3C bus): how far it has negotiated, and what it has sent since GET_VERSION (R369). -/
  spdm : NMap (Nat × Bytes)
  deriving DecidableEq, Repr

/-! ## Power (18) -/

/-- The power manager. Registers hold what their tables show; this is the rest. -/
structure Pwr where
  /-- Sag of the last window, in 0.1 % of the setpoint, negative below (R397). -/
  sag : Int
  /-- The tick the history runs in, the least sag in it, and the least sag of the tick before (R399). -/
  curTick : Nat
  curMin : Int
  prevMin : Int
  /-- Deepest shed step in force (R398). -/
  step : Nat
  /-- For each step: the tick at whose boundary it was last reversed, and the last tick counted in TICKS (R399). -/
  revTick : NMap Nat
  cntTick : NMap Nat
  /-- PWR_FAIL_N asserted. -/
  failN : Bool
  /-- A halt that has begun: the cause of the first condition that asked for it (R400). -/
  halting : Option Nat
  /-- How far the halt has come: 0 begun, 1 commands ended, 2 dies and memories down (R400). -/
  haltStage : Nat
  /-- Tick in which HALT_N was asserted, while it is (R400, R401). -/
  haltN : Option Nat
  /-- For each thermal site: level in force, tick of the history, greatest temperature in it and in the tick before (R402). -/
  therm : NMap (Nat × Nat × Nat × Nat)
  /-- The power hint in force: DEEPEST and the tick from which it no longer applies (R431). -/
  hint : Option (Nat × Option Nat)
  /-- Fabric time at which the power state was entered, and at which its wake is planned (R404, R405). -/
  since : Nat
  wakeAt : Option Nat
  /-- Package power of the ticks past, newest first, at most 1,024 (R389, R407). -/
  watts : List Nat
  /-- Highest temperature since reset, for the halt record (R400). -/
  hottest : Nat
  /-- Least sag since reset, for the same record. -/
  leastSag : Int
  deriving DecidableEq, Repr

/-! ## Board (19) -/

/-- What the board has fitted, as start-up found it, and the boot flash. -/
structure Brd where
  /-- Boot configuration copies 0 and 1, 64 bytes each (R418). -/
  cfg : NMap Bytes
  /-- Image slots A (0) and B (1): header and body (R419). -/
  images : NMap Bytes
  /-- DDR5 channels in service: capacity in bytes and the speed of the module in MT/s (R414, R416). -/
  dimms : NMap (Nat × Nat)
  /-- Flash slots in service: capacity in bytes. -/
  flash : NMap Nat
  /-- PMBus addresses of the board rails in order (R414), and the rated current in amperes, once read. -/
  pmbus : List Nat
  rated : Option Nat
  /-- Transfers retried on a shared bus, by bus (R415). -/
  busTries : NMap Nat
  /-- Stacks, host ports, flash ports, board links and fabric ports that have trained: class and number. -/
  trained : List (Nat × Nat)
  /-- Milliseconds since the release of reset at which the running phase began. -/
  phaseMs : Nat
  deriving DecidableEq, Repr

/-! ## Service and observability (20) -/

/-- An event on its way to the recorder: code, argument bytes, fabric time, U, and the flag of R42. -/
structure Event where
  code : Nat
  args : Bytes
  time : Nat
  u : Nat
  ambig : Bool
  deriving DecidableEq, Repr

/-- A firmware image in the update path (R420, R426): its slot, digest, security version and whether its checks passed. -/
structure Image where
  slot : Nat
  digest : Bytes
  svn : Nat
  deriving DecidableEq, Repr

/-- An active unlock token (R443): the hour it ends and its FLAGS. -/
structure Token where
  expires : Nat
  flags : Nat
  deriving DecidableEq, Repr

/-- March tests in progress (R233, R432): why (0 `MARCH_TEST`, 1 the return of a retired channel, 2 start-up), the command, form and kind (0 pseudo-channels,
1 cluster SRAM, 2 BSU SRAM, 3 confluence blocks), unit under test, units left with it, next frame of the unit, and the counts. -/
structure MarchJob where
  why : Nat
  handle : Nat
  form : Nat
  kind : Nat
  unit : Nat
  left : Nat
  frame : Nat
  tested : Nat
  failed : Nat
  skipped : Nat
  deriving DecidableEq, Repr

/-- A unit being retrained (R427): the command, the unit, its acceptance tick, the notch count at which it stopped, whether it carried traffic then, and whether
it has missed its time and stays down. -/
structure Recal where
  handle : Nat
  unit : Nat
  accTick : Nat
  start : Option Nat
  was : Bool
  dead : Bool
  deriving DecidableEq, Repr

/-- A tick capture of the monitor (R444): first tick, number of ticks, the lines so far. -/
structure TickCap where
  first : Nat
  n : Nat
  lines : List TickLine
  deriving DecidableEq, Repr

/-- Recorder, counters, monitor and update state. -/
structure Svc where
  /-- Events raised, in the order they reach the recorder interface (R440). -/
  arrivals : List Event
  /-- Records waiting in the 64-record buffer while the NOR erases (R441), and suppressed counts they carry. -/
  buffer : List (Event × Nat)
  /-- The recorder's slots in the SPI NOR, 32 bytes each, in slot order (R438). -/
  slots : List Bytes
  /-- The sequence count the next record takes (R438). -/
  seqNext : Nat
  /-- For each code: the rate window it was last recorded in and the records made there (R440). -/
  winCnt : NMap (Nat × Nat)
  /-- For each code: repeats suppressed since its last record (R438). -/
  supp : NMap Nat
  /-- Operating hours and power cycles, kept in the always-on island. -/
  hours : Nat
  cycles : Nat
  /-- Programmable counters: 8 u + i gives 48 bits (R434). -/
  pmc : NMap Nat
  /-- Trace records by slot (R437). -/
  trace : NMap Bytes
  /-- The token being filled, and the active one (R443). -/
  tokenBytes : Bytes
  token : Option Token
  /-- A token with FORCE that waits for the tenant it closes to be gone (R443). -/
  tokenWait : Option Token
  /-- The staged image, and the commit: handle, earliest switch tick, acceptance tick (R426, R428). -/
  staged : Option Image
  commit : Option (Nat × Nat × Nat)
  /-- A switch not yet confirmed: handle, switch tick, old slot (R430). -/
  switched : Option (Nat × Nat × Nat)
  march : List MarchJob
  recal : List Recal
  cap : Option TickCap
  /-- CE and UE of each stack since the monitor's last dump (R444). -/
  dump : NMap (Nat × Nat)
  deriving DecidableEq, Repr

/-- What leaves the node: interrupts, messages, text. -/
inductive Out where
  /-- An announce sent on a link (R34). -/
  | announce (link : Link) (ann : Announce)
  /-- A change of SUSPECT reported to the map keepers (R44). -/
  | suspectReport (suspect : Bool)
  /-- The node reports itself off-time to its map keepers (R46). -/
  | offTimeReport
  /-- An MSI-X vector raised on a host port half (R64). -/
  | msix (half : Nat) (vector : Nat)
  /-- A QST write of bytes into a remote memory region (R67). -/
  | qstWrite (qp : Nat) (mrKey : Nat) (addr : Nat) (data : List (BitVec 8))
  /-- The `CMD_ACCEPT` message that answers a `CMD_SUBMIT`, in the layout of R65. -/
  | cmdAccept (qp : Nat) (data : List (BitVec 8))
  /-- Stored rows forwarded to a tail holder (R101). -/
  | fwdAppend (node : Nat) (m : FwdAppend)
  /-- A tail holder's answer to forwarded rows: positions appended and matched, or the failing comparison (R102). -/
  | appendReply (home : Nat) (handle : Nat) (appended : Nat) (matched : Nat) (cmp : PeerCmp)
  /-- Pages to allocate and fill on another node (R97, R98, R103), with the number of positions of each that are kept; the rest are zeroed (R97). -/
  | remoteCopy (node : Nat) (handle : Nat) (fpns : List Nat) (images : List (List (BitVec 8))) (keep : Nat)
  /-- A launch descriptor or chain sent to a node (R14, R141). -/
  | launch (node : Nat) (m : LaunchMsg)
  /-- The answer to a chain's reservation (R136). -/
  | reserveReply (home : Nat) (handle : Nat) (ok : Bool)
  /-- Pages of a split granule sent to its computing holder (R446). -/
  | splitPages (node : Nat) (home : Nat) (handle : Nat) (pages : List SplitPage)
  /-- A partial message or error report to the confluence node (R132), with what the holder reports beside it: a late launch, a bank-side granule. -/
  | partialMsg (node : Nat) (data : List (BitVec 8)) (late bank : Bool)
  /-- The result message to the home node (R141). -/
  | resultMsg (node : Nat) (m : ResultMsg)
  /-- The answer to a host read or write: data, poison indication, DevLoad (R279, R284). -/
  | cxlData (head : Nat) (dpa : Nat) (data : List (BitVec 8)) (poison : Bool) (load : Nat)
  | cxlDone (head : Nat) (dpa : Nat) (load : Nat)
  /-- A back-invalidate snoop: BISnpInv, or BISnpData (R279). -/
  | biSnp (head : Nat) (line : Nat) (inv : Bool)
  /-- A dynamic capacity event: Add Capacity, or forced Release Capacity (R275, R286). -/
  | dcEvent (head : Nat) (extent : Nat) (add : Bool)
  /-- A QST packet on a fabric port, with its DSCP (R298). -/
  | segment (link : Link) (dscp : Nat) (s : Seg)
  /-- A QBL frame on a board link (R323): a segment, a link acknowledgement, a credit return, a replay request. -/
  | qblFrame (b : Nat) (vc : Nat) (lseq : Nat) (s : Seg)
  | qblAck (b : Nat) (lseq : Nat)
  | qblCredit (b : Nat) (vc : Nat) (credits : Nat)
  | qblReplay (b : Nat) (lseq : Nat)
  /-- A message of a NODE or CFL queue pair handed to its consumer in the node (R312). -/
  | nodeMsg (qp : Nat) (data : List (BitVec 8))
  /-- A Neighbor Advertisement and an Echo Reply (R297). -/
  | neighborAdv (port : Nat) (target : Nat)
  | echoReply (port : Nat) (dst : Nat) (data : List (BitVec 8))
  /-- A module's power mode and data path, set through CMIS (R294, R296). -/
  | modulePower (port : Nat) (low : Bool)
  /-- A parity update sent to a parity holder, and its acknowledgement (R358). -/
  | parity (node : Nat) (m : ParityMsg)
  | parityAck (node : Nat) (home : Nat) (handle : Nat)
  /-- Pages of other nodes that no live body references: freed by their holder (R94). -/
  | freePages (node : Nat) (fpns : List Nat)
  /-- Changes forwarded to the coordinator (R345). -/
  | propose (node : Nat) (p : Proposal)
  /-- PREPARE, its answer, ACCEPT, its answer, and COMMIT (R344, R345). -/
  | prepare (node : Nat) (ballot : Nat)
  | promise (node : Nat) (p : Promise)
  | accept (node : Nat) (a : Accepted)
  | accepted (node : Nat) (keeper : Nat) (ballot : Nat) (epoch : Nat) (ok : Bool)
  | commit (node : Nat) (c : CommitMsg)
  /-- Missing epochs asked of a keeper (R345). -/
  | fetchEpochs (node : Nat) (from_ : Nat)
  /-- A liveness report and its acknowledgement (R352). -/
  | liveness (node : Nat)
  | livenessAck (node : Nat)
  /-- A keeper tells the coordinator that a node is silent (R352). -/
  | silentNode (node : Nat) (lost : Nat)
  /-- A home reports the end of its swaps after a rebuild (R359). -/
  | homeDone (node : Nat) (group : Nat)
  /-- A sequence, page or unit copied to a drain's successor (R351). -/
  | drainCopy (node : Nat) (what : Nat) (id : Nat)
  /-- An SPDM response to a head's DOE mailbox (0 to 3) or the management bus (4) (R369). -/
  | spdm (via : Nat) (r : SpdmResp)
  /-- The VDD_CORE setpoint commanded over AVSBus, in mV (R393). -/
  | avsSet (mv : Nat)
  /-- The write-collided indication to the requester at a port of an SRAM array (R230). -/
  | writeCollided (array word port : Nat)
  /-- The word a register read returns (R7). -/
  | regData (src : Req) (off : Nat) (v : Nat)
  /-- A reply of the monitor (R444). -/
  | mon (r : MonReply)
  deriving DecidableEq, Repr

/-- The node, fabric time aside. -/
structure Node where
  /-- Registers that differ from their reset values, by BAR0 offset. -/
  bank : Bank
  /-- Words that the last read of a LO register latched, by the offset of the HI (or other) register that shows them. -/
  hi : NMap Nat
  /-- Host memories as the node reaches them: a requester's address space number times 2^64, plus the address. DESIGN CHOICE, unsafe: a byte
  nobody has written reads 0 (log entry 8). -/
  hmem : Mem
  /-- Terrace 1: byte addresses of R196. -/
  t1 : Mem
  /-- Command front end. -/
  fe : Front
  /-- Admission scheduler. -/
  sch : Sch
  /-- Sequences. -/
  seqs : Seqs
  /-- Attention engine. -/
  att : Att
  /-- Confluence engine. -/
  cfl : Cfl
  /-- Conversion statistics. -/
  cvt : Cvt
  /-- Bank-side units. -/
  bsu : Bsus
  /-- Terraces. -/
  ter : Ter
  /-- Memory integrity. -/
  mic : Mic
  /-- Weight sets and expanders. -/
  wts : Wts
  /-- Prefix directory. -/
  pdx : Pdx
  /-- CXL directory. -/
  cxd : Cxd
  /-- Transport and ports. -/
  qst : Qst
  /-- Fabric map. -/
  map : MapSt
  /-- Security core. -/
  sec : Sec
  /-- Power manager. -/
  pwr : Pwr
  /-- Board and boot flash. -/
  brd : Brd
  /-- Recorder, counters, monitor, update. -/
  svc : Svc
  /-- Everything the node has sent or raised, oldest first. -/
  out : List Out
  /-- THE MODEL'S OWN: the index of the next free value; every value the spec leaves open after an operation is `Config` applied to it.
  DESIGN CHOICE, safe: log entry 9; its reset value 0 is the model's. -/
  freeCtr : Nat
  deriving DecidableEq, Repr

/-- The whole block: the commands waiting, first in, first out; fabric time; the node. -/
structure State where
  pending : List Instr
  tck : Tck
  node : Node
  /-- The node as the last tick boundary left it: the counts that R388 latches. -/
  last : Node
  deriving DecidableEq, Repr

/-- No step of the model faults: the spec reports every error as a status, a count or an event (R70), and no command addresses a
place the spec says does not exist without naming what the node then does. The one constructor is raised by nobody; safe. DEDUCED: log entry 1. -/
inductive Fault where
  /-- Raised by no step. -/
  | none_
  deriving DecidableEq, Repr

/-- Refusals. -/
inductive Refusal where
  /-- Raised by the dispatch for a command whose meaning is not modelled; safe: nothing is claimed of it. -/
  | notModelled (mnemonic : String)
  deriving DecidableEq, Repr

/-- Fabric time after a cold reset: ACQUIRE, U unknown, the default period (R45, 02 registers). -/
def Tck.reset : Tck where
  now := 0
  cur := 2
  switch := none
  wantPeriod := none
  state := .acquire
  u := 0xFFFF
  measU := 0xFFFF
  slew := 0
  slewAcc := 0
  regaining := false
  stepTo := none
  rate := 0
  rateAcc := 0
  holdAt := 0
  holdSteps := 0
  gm := false
  everGm := false
  gmKey := none
  upstream := none
  hops := 0x1F
  heard := []
  lastAnn := 0
  tod := none
  lastEdge := none
  goodRun := 0
  missRun := 0
  extOk := false
  extHad := false
  late := []
  suspect := false
  suspectTold := false
  extOffset := 0
  seed := 0

/-- The front end after reset: no ring enabled, no command outstanding. -/
def Front.reset : Front := ⟨[], [], [], 0, 0, []⟩

/-- No sequence open. -/
def Seqs.reset : Seqs := ⟨[], [], [], [], [], [], []⟩

/-- No step in progress. -/
def Att.reset : Att := ⟨[], [], [], [], [], [], [], [], [], [], [], [], []⟩

/-- No chain posted. -/
def Cfl.reset : Cfl := ⟨[], [], []⟩

/-- Totals of zero. -/
def CvtTotals.zero : CvtTotals := ⟨0, [], [], []⟩

/-- Conversion statistics after reset. -/
def Cvt.reset : Cvt := ⟨CvtTotals.zero, CvtTotals.zero, []⟩

/-- Idle units, empty stores, every frame OPEN. -/
def Bsus.reset : Bsus := ⟨[], [], [], [], [], [], 0, false⟩

/-- No page allocated, the cache empty. -/
def Ter.reset : Ter := ⟨[], 0, [], [], [], 0, [], [], [], [], [], [], false, [], []⟩

/-- Nothing retired, poisoned or marked. -/
def Mic.reset : Mic where
  retired := []
  retiring := []
  poison := []
  poison3 := []
  poisonD := []
  laneRows := []
  lanes := []
  rows := []
  rowSeq := 0
  owed := []
  spared := []
  repair := []
  sparesOut := []
  ueLines := []
  patrol := []
  periodAt := []
  poisonO := []
  ahead := []
  clustersOut := []
  bsusOut := []
  cflOut := []
  expOut := []
  stacksOut := []
  ddrOut := []
  flashOut := []
  retry := []
  refreshed := []
  skipRem := 0
  waitRem := 0

/-- No weight set loaded. -/
def Wts.reset : Wts := ⟨[], [], [], [], 0, []⟩

/-- Every slot hollow. -/
def Pdx.reset : Pdx := ⟨[], [], [], none, 0, 0⟩

/-- Every extent FREE, no head in CXL mode. -/
def Cxd.reset : Cxd := ⟨[], [], 0, [], [], [], none, [], [], none⟩

/-- No queue pair, domain or region; no port up. -/
def Qst.reset : Qst := ⟨[], [], [], [], [], [], [], [], [], [], [], [], [], []⟩

/-- A queue that has served nothing: full default burst credit (R330), rate 0 (R335). -/
def SchQ.reset : SchQ := ⟨0, 0, 0x100, 0, 0, false⟩

/-- The scheduler after reset: virtual time 0 (R328). -/
def Sch.reset : Sch := ⟨0, [], 0⟩

/-- No map learned. -/
def FMap.reset : FMap := ⟨0, 0, [], [], [], [], [], 2, 0xFFFF⟩

/-- No map learned, no part in any agreement. -/
def MapSt.reset : MapSt where
  map := FMap.reset
  promised := 0
  accepted := none
  ballot := none
  promises := []
  reported := []
  ready := false
  inflight := none
  acceptedBy := []
  proposedAt := none
  gathered := []
  waits := []
  drains := []
  lastReport := []
  told := []
  silent := []
  acks := []
  newest := 0
  early := []
  log := []
  drainSent := []
  drainPages := 0
  drainSeqs := 0
  drainAt := 0
  drainTold := false
  rebuild := none
  homesDone := []
  units := []
  unitPoison := []
  ackWaits := []

/-- EMPTY: no tenant, no key, no record. -/
def Sec.reset : Sec where
  storage := none
  authPub := []
  slots := []
  bind := []
  meas := []
  prior := none
  opening := none
  closing := none
  fenced := false
  destroyed := 0
  store := []
  held := []
  lowTold := false
  spdm := []

/-- The power manager after reset: N0, no shed step, no halt. -/
def Pwr.reset : Pwr where
  sag := 0
  curTick := 0
  curMin := 0
  prevMin := 0
  step := 0
  revTick := []
  cntTick := []
  failN := false
  halting := none
  haltStage := 0
  haltN := none
  therm := []
  hint := none
  since := 0
  wakeAt := none
  watts := []
  hottest := 0
  leastSag := 0

/-- A board with nothing read and a blank boot flash. -/
def Brd.reset : Brd := ⟨[], [], [], [], [], none, [], [], 0⟩

/-- Recorder, counters and monitor after a cold reset with an empty recorder region. -/
def Svc.reset : Svc where
  arrivals := []
  buffer := []
  slots := []
  seqNext := 1
  winCnt := []
  supp := []
  hours := 0
  cycles := 0
  pmc := []
  trace := []
  tokenBytes := []
  token := none
  tokenWait := none
  staged := none
  commit := none
  switched := none
  march := []
  recal := []
  cap := none
  dump := []

/-- The node after power-on with a blank boot flash and no start-up yet. -/
def Node.reset : Node where
  bank := []
  hi := []
  hmem := []
  t1 := []
  fe := Front.reset
  sch := Sch.reset
  seqs := Seqs.reset
  att := Att.reset
  cfl := Cfl.reset
  cvt := Cvt.reset
  bsu := Bsus.reset
  ter := Ter.reset
  mic := Mic.reset
  wts := Wts.reset
  pdx := Pdx.reset
  cxd := Cxd.reset
  qst := Qst.reset
  map := MapSt.reset
  sec := Sec.reset
  pwr := Pwr.reset
  brd := Brd.reset
  svc := Svc.reset
  out := []
  freeCtr := 0

/-- The block right after power-on reset: nothing waiting, time state ACQUIRE, every register at its reset value.
DESIGN CHOICE, unsafe: what no rule gives a reset value starts at 0 or empty, fabric time at 0 (log entry 3). -/
def State.reset : State := ⟨[], Tck.reset, Node.reset, Node.reset⟩

end Sys2Proof.Machine
end

