-- ==== Sys2Proof/Machine/Ops.lean ====
section
/-! DEFINITION. The named operations every block uses: registers, time, events, outputs, host memory, completions, counters. -/

namespace Sys2Proof.Machine

open Host (Outcome)

/-! Lifting: a meaning that changes the node, fabric time, or both. -/

/-- A command that changes the node alone, reading fabric time. -/
def onNode (f : Tck → Node → Node) (s : State) : Outcome State Fault Refusal :=
  .next { s with node := f s.tck s.node }

/-- A command that changes fabric time and the node. -/
def onBoth (f : Tck → Node → Tck × Node) (s : State) : Outcome State Fault Refusal :=
  .next { s with tck := (f s.tck s.node).1, node := (f s.tck s.node).2 }

/-! Registers. -/

/-- The reset word of a register's fields. -/
def fieldsReset (l : List FieldDef) : Nat := l.foldl (fun v f => v + f.reset * 2 ^ f.lo) 0

/-- Does the register (or one repetition of it) lie at an offset. -/
def RegDef.covers (d : RegDef) (off : Nat) : Bool :=
  d.base ≤ off && off ≤ d.base + (d.n1 - 1) * d.s1 + (d.n2 - 1) * d.s2 && (List.range d.n1).any fun i =>
    let b := d.base + i * d.s1
    b ≤ off && (if d.n2 ≤ 1 then off == b else (off - b) % d.s2 == 0 && (off - b) / d.s2 < d.n2)

/-- The register at an offset. -/
def regAt (off : Nat) : Option RegDef := regTable.find? (·.covers off)

/-- Reset values the tables give by formula: BASE and PER of `SCH_COST[r]` (15, registers). -/
def schCostReset : List Nat :=
  [0x0001, 0x0004, 0x0101, 0x1010, 0x0102, 0x0204, 0x0004, 0x0010, 0x0102, 0x0008, 0x0008, 0x0008]

/-- The reset word at an offset, with the registers whose reset the table gives by formula: `SCH_COST[r]`, `SCH_Q_WEIGHT[q]` (1 for q mod 16
below 8, else 4) and the die of `ATT_CL_STATUS[c]`. -/
def regReset (off : Nat) : Nat :=
  if 0x00D00010 ≤ off && off < 0x00D00040 then schCostReset.getD ((off - 0x00D00010) / 4) 0
  else if 0x00D01000 ≤ off && off < 0x00D01A00 && off % 0x20 == 4 then
    (if (off - 0x00D01000) / 0x20 % 16 < 8 then 1 else 4)
  else
    match regAt off with
    | none => 0
    | some d =>
      let v := fieldsReset d.fields
      if d.base = 0x00300000 then v + (off - 0x00300000) / 0x10000 / 8 * 4 else v

/-- The word at an offset of the bank. -/
def Bank.get (b : Bank) (off : Nat) : Nat :=
  match mget? b off with
  | some w => w.toNat
  | none => regReset off

/-- Put a word at an offset of the bank. -/
def Bank.put (b : Bank) (off v : Nat) : Bank := mset b off (BitVec.ofNat 32 v)

/-- Read a field. -/
def rd (n : Node) (f : Fld) : Nat := bits (n.bank.get f.off) f.lo f.w

/-- Read a one-bit field. -/
def rdB (n : Node) (f : Fld) : Bool := rd n f == 1

/-- Set a field. -/
def wr (n : Node) (f : Fld) (v : Nat) : Node :=
  { n with bank := n.bank.put f.off (putBits (n.bank.get f.off) f.lo f.w v) }

/-- Are the registers shut: from host-port link-up until READY they read 0 and ignore writes (R424). -/
def regsShut (n : Node) : Bool := !rdB n Rg.cmdStatusReady && n.brd.trained.any (·.1 == 1)

/-- The NID block and `CMD_STATUS` stay readable (R424). -/
def regsOpen (n : Node) (off : Nat) : Bool := !regsShut n || off < 0x00100000 || off == Rg.cmdStatusReady.off

/-- The effect of a register write, which is ignored while the registers are shut (R424). -/
def whenOpen (f : Tck → Node → Node) (t : Tck) (n : Node) : Node := if regsShut n then n else f t n

/-- The same where fabric time may change too. -/
def whenOpenT (f : Tck → Node → Tck × Node) (t : Tck) (n : Node) : Tck × Node := if regsShut n then (t, n) else f t n

/-- Add to a counter field, saturating. -/
def bump (n : Node) (f : Fld) (k : Nat) : Node := wr n f (satTo f.w (rd n f + k))

/-- The next free value (an open value of the spec), and the node with its counter advanced. -/
def takeFree (n : Node) : Nat × Node := (Config.freeNat n.freeCtr, { n with freeCtr := n.freeCtr + 1 })

/-! Time (R27). -/

/-- Units per tick of a period encoding. -/
def unitsPerTick (cur : Nat) : Nat := 8000 * 2 ^ cur

/-- Units per notch of a period encoding. -/
def unitsPerNotch (cur : Nat) : Nat := 125 * 2 ^ cur

/-- The current tick number. -/
def Tck.tick (t : Tck) : Nat := t.now / unitsPerTick t.cur

/-- The current notch, 0 to 63. -/
def Tck.notch (t : Tck) : Nat := t.now % unitsPerTick t.cur / unitsPerNotch t.cur

/-- Notches since fabric time 0. -/
def Tck.notches (t : Tck) : Nat := t.now / unitsPerNotch t.cur

/-- Fabric time of a tick's notch. -/
def Tck.at (t : Tck) (tick notch : Nat) : Nat := tick * unitsPerTick t.cur + notch * unitsPerNotch t.cur

/-- Notches 62 and 63: the saddle (R28). -/
def Tck.inSaddle (t : Tck) : Bool := 62 ≤ t.notch

/-- The first notch at which work may start at or after a given one, both counted from fabric time 0 (R28). -/
def startNotch (n : Nat) : Nat := if 62 ≤ n % 64 then (n / 64 + 1) * 64 else n

/-- The notch, counted from fabric time 0, at which work that may begin now starts: the first notch boundary at or after now, outside the saddle (R28).
A boundary lasts the FTU cycle that it falls in. DESIGN CHOICE: log entry 61. -/
def dueNotch (t : Tck) : Nat := startNotch (cdiv (t.now - 3) (unitsPerNotch t.cur))

/-- The first cycle of the fabric time unit in a tick: its tick boundary. An FTU cycle is 4 units. DESIGN CHOICE: log entry 61. -/
def Tck.atTick (t : Tck) : Bool := t.now % unitsPerTick t.cur < 4

/-- The notches of a tick at which pseudo-channel `p` begins a refresh window (R32). -/
def refreshStarts (p : Nat) : List Nat := [20 + p % 4, 52 + p % 4]

/-- Does work of `len` units that starts now keep clear of the refresh windows of channel `p`: it starts in none and ends no later than the next begins (R33). -/
def refreshClear (t : Tck) (p len : Nat) : Bool :=
  let x := t.now % unitsPerTick t.cur
  let w := unitsPerNotch t.cur
  (refreshStarts p).all fun s => x + len ≤ s * w || (s + 2) * w ≤ x

/-- Does the time state launch and accept timed commands (R45). -/
def timeRuns (s : TimeState) : Bool := s == .locked || s == .holdover

/-! Events and outputs. -/

/-- Raise an event: it goes to the recorder interface with the present stamp (R24, R438). Its `AMBIG` flag is judged against the rate-limit
window of R440, the window the recorder assigns it to. -/
def raise (t : Tck) (n : Node) (code : Nat) (args : Bytes) : Node :=
  let w := rd n Rg.evrRateWindow * unitsPerTick t.cur
  let e : Event := ⟨code, args, t.now, t.u, ambig w t.now t.u⟩
  { n with svc := { n.svc with arrivals := n.svc.arrivals ++ [e] } }

/-- Send or raise something. -/
def emit (n : Node) (o : Out) : Node := { n with out := n.out ++ [o] }

/-! Host memory: one address space for each port half, one for the management path, one for each remote queue pair, one for each memory region that a
remote queue pair's rings name (R91). -/

/-- The number of a requester's address space. -/
def reqSpace (r : Req) : Nat :=
  match r with
  | .host h _ => h.val
  | .mgmt => 4
  | .qp k => 5 + k.toNat

/-- The key of an address of a space. -/
def hostKey (space a : Nat) : Nat := space * 2 ^ 64 + a % 2 ^ 64

/-- Read host memory. -/
def hostRead (n : Node) (space a len : Nat) : Bytes := Mem.read 0 n.hmem (hostKey space a) len

/-- Write host memory. -/
def hostWrite (n : Node) (space a : Nat) (b : Bytes) : Node :=
  { n with hmem := Mem.write 0 n.hmem (hostKey space a) b }

/-! Counters of the performance units (R434, R435). -/

/-- Count event `ev` of unit `u` on the counter `i` if it is programmed for it. -/
def pmcOne (u ev k : Nat) (n : Node) (i : Nat) : Node :=
  if rdB n (Rg.pmcSelEn u i) && rd n (Rg.pmcSelEvent u i) == ev && !rdB n Rg.pmcCtlFreeze then
    let v := mgetD n.svc.pmc (8 * u + i) 0 + k
    let n1 := { n with svc := { n.svc with pmc := mset n.svc.pmc (8 * u + i) (v % 2 ^ 48) } }
    if 2 ^ 48 ≤ v then wr n1 (Rg.pmcOvfOvf u) (maskOf (i :: bitList 8 (rd n1 (Rg.pmcOvfOvf u)))) else n1
  else n

/-- Count an event of a unit. -/
def pmc (n : Node) (u ev k : Nat) : Node := (List.range 8).foldl (pmcOne u ev k) n

/-- The node halts or has halted: nothing starts (R400). -/
def stopped (n : Node) : Bool := n.pwr.halting.isSome || n.pwr.haltN.isSome

/-- The node has fenced itself (R353). -/
def fencedNode (n : Node) : Bool := rdB n Rg.mapStatusFenced

/-- Note something in the monitor's capture of the running tick (R444). -/
def capNote (t : Tck) (n : Node) (f : TickLine → TickLine) : Node :=
  match n.svc.cap with
  | none => n
  | some c =>
    if t.tick < c.first || c.first + c.n ≤ t.tick then n
    else
      let old := (c.lines.find? (·.tick == t.tick)).getD ⟨t.tick, none, false, 0, 0, 0, false⟩
      let new := f { old with step := n.pwr.step, nstate := rd n Rg.pwrStatusNstate }
      { n with svc := { n.svc with cap := some { c with lines := c.lines.filter (·.tick != t.tick) ++ [new] } } }

/-! Commands and completions. -/

/-- The accepted command with a handle. -/
def findCmd (n : Node) (h : Nat) : Option Cmd := n.fe.cmds.find? (·.handle == h)

/-- Change the command with a handle. -/
def modCmd (n : Node) (h : Nat) (f : Cmd → Cmd) : Node :=
  { n with fe := { n.fe with cmds := lmodify n.fe.cmds (·.handle == h) f } }

/-- A command's opcode. -/
def Cmd.op (c : Cmd) : Nat := byteAt c.entry 0

/-- The address space of a command's host addresses: its requester's, or, on a remote ring, the memory region whose key is configured for the ring's default
completion ring (R91). -/
def Cmd.mem (c : Cmd) : Nat :=
  match c.req with
  | .qp k => 5 + 2 ^ 20 + k.toNat * 2 ^ 32 + c.mrKey
  | r => reqSpace r

/-- Field of a command entry. -/
def Cmd.f (c : Cmd) (lo n : Nat) : Nat := field c.entry lo n

/-- Take stage stamp `s` of a tagged command (R437). -/
def stamp (t : Tck) (n : Node) (h s : Nat) : Node :=
  modCmd n h fun c => if c.tagged && !c.stamps.any (·.1 == s) then { c with stamps := c.stamps ++ [(s, t.now, t.u)] } else c

/-- The 64-byte trace record of a command (R437). -/
def traceRecord (t : Tck) (c : Cmd) : Bytes :=
  let st (s : Nat) : Bytes :=
    match c.stamps.find? (·.1 == s) with
    | none => zeros 8
    | some (_, tm, u) => leBytes 6 tm ++ leBytes 2 u
  leBytes 4 c.handle ++ leBytes 1 c.op
    ++ leBytes 1 (b2n (c.stamps.any fun x => ambig (unitsPerNotch t.cur) x.2.1 x.2.2))
    ++ leBytes 1 (maskOf (c.stamps.map (·.1))) ++ zeros 1 ++ (List.range 7).flatMap st

/-- Write a tagged command's trace record over the oldest (R437). -/
def writeTrace (t : Tck) (n : Node) (c : Cmd) : Node :=
  if c.tagged then
    let k := rd n Rg.pmcTraceHeadCount
    wr { n with svc := { n.svc with trace := mset n.svc.trace (k % 4096) (traceRecord t c) } } Rg.pmcTraceHeadCount (k + 1)
  else n

/-- Raise the MSI-X vector of a local completion ring and start its counts afresh (R64). -/
def signalCq (n : Node) (k : Nat) (q : Cq) : Node :=
  match q.owner with
  | .host h _ =>
    emit { n with fe := { n.fe with cqs := mset n.fe.cqs k { q with unsig := 0, firstUnsig := none } } } (.msix h.val q.msix)
  | _ => n

/-- A 32-byte completion entry (R61, R62). -/
def cplEntry (t : Tck) (c : Cmd) (q : Cq) (status : Nat) (result : Bytes) : Bytes :=
  let phase := (q.posted / 2 ^ q.log2 + 1) % 2
  leBytes 4 c.handle ++ leBytes 2 status ++ leBytes 1 c.op
    ++ leBytes 1 (phase + 2 * b2n c.moved + 4 * b2n c.late)
    ++ leBytes 8 ((if timed c.op then c.launch else t.tick) % 2 ^ 58) ++ padTo 16 result

/-- Write a completion entry to its ring (R62, R67), count it, and signal it under R64. -/
def postEntry (t : Tck) (n : Node) (k : Nat) (q : Cq) (e : Bytes) : Node :=
  let a := q.base + q.posted % 2 ^ q.log2 * 32
  let n1 := if q.remote then
      (match q.owner with
       | .qp p => emit n (.qstWrite p.toNat q.mrKey a e)
       | _ => n)
    else hostWrite n (reqSpace q.owner) a e
  let q1 := { q with posted := (q.posted + 1) % 2 ^ 32, reserved := q.reserved - 1, unsig := q.unsig + 1,
                     firstUnsig := some (q.firstUnsig.getD t.now) }
  let n2 := { n1 with fe := { n1.fe with cqs := mset n1.fe.cqs k q1 } }
  if !q.remote && rdB n (Rg.cmdCqIntrEn k) && (rd n (Rg.cmdCqIntrDelay k) == 0 || rd n (Rg.cmdCqIntrCount k) ≤ q1.unsig) then
    signalCq n2 k q1
  else n2

/-- Remove a command from the outstanding ones and from its ring's count, and end its snapshot (R55, R94). -/
def retireCmd (n : Node) (c : Cmd) : Node :=
  { n with
    fe := { n.fe with
      cmds := n.fe.cmds.filter (·.handle != c.handle)
      sqs := mmod n.fe.sqs c.ring fun q => { q with outstanding := q.outstanding - 1 } }
    seqs := { n.seqs with snaps := n.seqs.snaps.filter (·.handle != c.handle) } }

/-- Post the completion of a command: exactly one entry, in the entry its acceptance reserved (R57, R61 to R64). -/
def complete (t : Tck) (n : Node) (h status : Nat) (result : Bytes) : Node :=
  match findCmd n h with
  | none => n
  | some c =>
    match mget? n.fe.cqs c.cq with
    | none => retireCmd n c
    | some q =>
      let n1 := postEntry t n c.cq q (cplEntry t c q status result)
      let n2 := writeTrace t n1 (if c.tagged then { c with stamps := c.stamps ++ [(6, t.now, t.u)] } else c)
      retireCmd n2 c

/-- RESULT of a step whose descriptors were sent (R109): whether a granule ran bank-side, and whether granules ran, in two passes where the sequence has them. -/
def attResult (st : Step) (bank ran : Bool) : Bytes :=
  let holders := (st.descs.filter fun d => !d.items.isEmpty).length
  leBytes 4 st.desc.kend ++ leBytes 4 st.desc.ng ++ leBytes 1 (min holders 255) ++ leBytes 1 (b2n bank + 2 * b2n (st.desc.twoPass && ran))

/-- RESULT of an attention command that ends without a result (R109): of its step once that has been sent; before, KEND and GRANULES as its sequence, position and
rows give them, no node given an item and no granule run. Empty for other commands, and where the sequence is not open here. -/
def attEnd (n : Node) (c : Cmd) : Bytes :=
  match n.att.steps.find? fun s => s.handle == c.handle && s.sent with
  | some st => attResult st st.bankSide st.ran
  | none =>
  if byteAt c.entry 0 == opAttend || byteAt c.entry 0 == opPrefill || byteAt c.entry 0 == opAttendBlock then
    match mget? n.seqs.open_ (field c.entry 24 8) with
    | some s =>
      let kend := field c.entry 36 4 + (if byteAt c.entry 0 == opPrefill then field c.entry 62 2 else 1)
      leBytes 4 kend ++ leBytes 4 (cdiv kend (64 * 2 ^ s.granule))
    | none => []
  else []

/-- Complete with `ST_BAD_PARAM` at a byte offset (R61). -/
def badParam (t : Tck) (n : Node) (h off : Nat) : Node := complete t n h stBadParam (leBytes 1 off)

/-- The offset to report among several offending fields: the lowest (R61). -/
def firstOff (l : List Nat) : Option Nat := leastBy id l

/-- Offsets of the reserved bytes `[hi:lo]` of an entry, reported at their lowest byte (R9, R61). -/
def rsv (c : Cmd) (lo hi : Nat) : List Nat := if allZero (slice c.entry lo (hi + 1 - lo)) then [] else [lo]

/-- An offset to report when a condition holds. -/
def offIf (b : Bool) (off : Nat) : List Nat := if b then [off] else []

/-- Offending header fields of an entry (R9, R51, R52, R53): reserved bits, ACC, a completion ring not the requester's when the entry was accepted, the
launch tick too far ahead, a DEADLINE of 1, a missing EPOCH. -/
def headerOffs (c : Cmd) : List Nat :=
  offIf (1 < c.f 1 1) 1
  ++ offIf c.badCq 2
  ++ rsv c 3 3
  ++ offIf (epochRequired c.op && c.f 4 4 == 0) 4
  ++ rsv c 8 15
  ++ (if timed c.op then offIf c.tooFar 16 ++ offIf (c.f 20 2 == 1) 20 else rsv c 16 19 ++ rsv c 20 21)
  ++ rsv c 22 23

/-- Commands accepted earlier on the same ring are still outstanding (R71). -/
def earlierOnRing (n : Node) (c : Cmd) : Bool := n.fe.cmds.any fun d => d.ring == c.ring && d.seq < c.seq

/-- The FENCE of a command is satisfied (R71). -/
def fenceOk (n : Node) (c : Cmd) : Bool := !(bitAt (c.f 1 1) 0) || !earlierOnRing n c

/-- Run an opcode's effect on the dispatched command with a handle: a command that is not this opcode's, is not dispatched, has begun, or
waits behind its FENCE is left as it is (R71, R329). -/
def withCmd (n : Node) (h op : Nat) (body : Cmd → Node) : Node :=
  match findCmd n h with
  | none => n
  | some c => if c.op == op && c.stage == .dispatched && fenceOk n c then body c else n

/-- Run an effect when no field of the entry offends; otherwise complete with `ST_BAD_PARAM` at the lowest offset (R9, R61). -/
def checked (t : Tck) (n : Node) (c : Cmd) (offs : List Nat) (body : Node) : Node :=
  match firstOff (headerOffs c ++ offs) with
  | some o => badParam t n c.handle o
  | none => body

/-- A command begun and not finished. -/
def setRunning (n : Node) (h : Nat) : Node := modCmd n h fun c => { c with stage := .running }

/-- Take the step of a command, and its `ATTEND_BLOCK` with the tables and tile work it has bound, out of the attention engine. -/
def dropStep (n : Node) (h : Nat) : Node :=
  { n with att := { n.att with
      steps := n.att.steps.filter (·.handle != h), blocks := n.att.blocks.filter (·.handle != h),
      bound := ((n.att.blocks.filter (·.handle == h)).flatMap (·.tables)).foldl (fun l k => l.erase k) n.att.bound, tileJobs := n.att.tileJobs.filter (·.handle != h) } }

end Sys2Proof.Machine
end

