-- ==== Sys2Proof/Machine/Sched.lean ====
section
/-! DEFINITION. The admission scheduler (15): queues, costs, fair order, admission, sampling, dispatch. -/

namespace Sys2Proof.Machine

open Host (Outcome)

/-- The state of admission queue `q`. -/
def schQ (n : Node) (q : Nat) : SchQ := mgetD n.sch.qs q SchQ.reset

/-- Set the state of an admission queue and show its credit in `SCH_Q_DELAY` (R330). -/
def setSchQ (n : Node) (q : Nat) (x : SchQ) : Node :=
  wr { n with sch := { n.sch with qs := mset n.sch.qs q x } } (Rg.schQDelayCredit q) x.credit

/-- The commands waiting in queue `q`, in acceptance order. -/
def queued (n : Node) (q : Nat) : List Cmd := n.fe.cmds.filter fun c => c.stage == .queued && c.q == q

/-- The backlog of queue `q` in CU (R332). -/
def backlog (n : Node) (q : Nat) : Nat := ((queued n q).map (·.cost)).foldl (· + ·) 0

/-- The host class of a ring's requester (R325). -/
def hostClass (r : Req) : Nat :=
  match r with
  | .host h _ => h.val
  | _ => 4

/-- The service class of a ring (R325): ring 0 uses `SCH_CFG.ADMIN_SVC`. -/
def svcOf (n : Node) (ring : Nat) (sq : Sq) : Nat := if ring = 0 then rd n Rg.schCfgAdminSvc else sq.svc

/-- The queue a ring feeds: q = 16 h + k (R325). -/
def queueOf (n : Node) (ring : Nat) (sq : Sq) : Nat := 16 * hostClass sq.owner + svcOf n ring sq

/-- Service classes 8 to 15 are sealed (R326). -/
def sealedClass (q : Nat) : Bool := 8 ≤ q % 16

/-- The unit count U of R327. -/
def costUnits (e : Bytes) : Nat :=
  let op := byteAt e 0
  if op = opAppendKv then cdiv (field e 40 2) 64
  else if op = opPrefill then cdiv (field e 62 2) 64
  else if op = opCopyPages then field e 36 2
  else if op = opMerge then cdiv (field e 40 4 * (if field e 44 2 = 0 then 65536 else field e 44 2)) 65536
  else if op = opBsuRun || op = opBsuLoad then cdiv (field e 26 2) 128
  else if op = opPdLookup || op = opPdInsert || op = opPdDelete then cdiv (field e 32 2) 256
  else 0

/-- The cost of an entry in CU (R327). -/
def costOf (n : Node) (e : Bytes) : Nat :=
  let r := byteAt e 0 / 16
  if 12 ≤ r then 1
  else min 65535 (rd n (Rg.schCostBase r) + rd n (Rg.schCostPer r) * costUnits e)

/-- Check 8 of R56: the retry hint when the scheduler refuses a command of cost `c` for queue `q` (R332, R333); `dl` is the deadline tick of a timed
command accepted in tick `a`. -/
def schRefuses (n : Node) (q c a : Nat) (dl : Option Nat) : Option Nat :=
  let b := backlog n q
  let lim := rd n (Rg.schQCfgLimit q)
  let rmax := rd n Rg.schCfgRetryMax
  let r := (schQ n q).rate
  let clamp (x : Nat) : Nat := min (max x 1) rmax
  if lim < b + c then some (if r = 0 then rmax else clamp (cdiv (16 * (b + c - lim)) r))
  else
    match dl with
    | none => none
    | some d =>
      if sealedClass q then
        let p := if (queued n q).isEmpty then 0 else if r = 0 then rmax else cdiv (16 * (b + c)) r
        if a + p + 2 ≤ d then none else some (clamp p)
      else none

/-- The finish tag of a command of cost `c` entering queue `q`, in 2^-16 CU, and the queue after (R328, R330). -/
def enterQueue (n : Node) (q c : Nat) : Nat × SchQ :=
  let x := schQ n q
  let w := max 1 (rd n (Rg.schQWeightWeight q))
  let empty := (queued n q).isEmpty
  let start := if empty then max x.fin (n.sch.v - cdiv (x.credit * 65536) w) else max n.sch.v x.fin
  let fin := start + c * 65536 / w
  (fin, { x with fin := fin, credit := if empty then 0 else x.credit })

/-- The first ring that feeds a queue gives it its full burst (R330). -/
def feedQueue (n : Node) (q : Nat) : Node :=
  let x := schQ n q
  if x.fed then n else setSchQ n q { x with fed := true, credit := rd n (Rg.schQCfgBurst q) }

/-- The heads of the queues whose executor holds a credit: the hot-path sequencers (`hw`), node firmware (`fw`); a pending commit holds firmware-path
commands in their queues (R329, R428). -/
def heads (n : Node) (hw fw : Bool) : List Cmd :=
  ((List.range 80).filterMap fun q => (queued n q).head?).filter fun c =>
    if fwPath c.op then fw && n.svc.commit.isNone else hw

/-- The head with the least finish tag, ties by rotating priority (R329). -/
def chosenHead (n : Node) (hw fw : Bool) : Option Cmd :=
  leastBy (fun c => c.tag * 128 + (c.q + 80 - n.sch.rotor % 80) % 80) (heads n hw fw)

/-- The wait of a command in notches (R335). -/
def waitNotches (t : Tck) (c : Cmd) : Nat := satTo 16 ((t.now - c.accTime) / unitsPerNotch t.cur)

/-- Take a command from its queue to its executor (R328, R329, R335): virtual time becomes its tag. -/
def takeHead (t : Tck) (n : Node) (c : Cmd) : Node :=
  let x := schQ n c.q
  let n1 := modCmd n c.handle fun d => { d with stage := .dispatched }
  let n2 := setSchQ n1 c.q { x with disp := x.disp + c.cost, delay := max x.delay (waitNotches t c) }
  stamp t { n2 with sch := { n2.sch with v := c.tag, rotor := (n2.sch.rotor + 1) % 80 } } c.handle 1

/-- `DISPATCH` (R329, R334): the head with the least tag goes to its executor, which completes an opcode outside the table with
`ST_BAD_OPCODE` (R9) and a timed command whose deadline tick has ended with `ST_DEADLINE` (R334). An opcode outside the table does not wait for its FENCE.
DESIGN CHOICE, unsafe: log entry 52. -/
def dispatch (hw fw : Bool) (t : Tck) (n : Node) : Node :=
  match chosenHead n hw fw with
  | none => n
  | some c =>
    let n1 := takeHead t n c
    if !opcodes.contains c.op then complete t n1 c.handle stBadOpcode []
    else if timed c.op && c.deadline < t.tick then complete t n1 c.handle stDeadline (attEnd n1 c)
    else n1

/-- The new rate of a queue (R335): toward the CU dispatched, by a sixteenth of the difference rounded away from zero, in sixteenths. -/
def newRate (rate disp : Nat) : Nat :=
  let d := 16 * disp
  if rate ≤ d then rate + cdiv (d - rate) 16 else rate - cdiv (rate - d) 16

/-- Latch one queue at a tick boundary (R330, R335). -/
def latchQueue (t : Tck) (n : Node) (q : Nat) : Node :=
  let x := schQ n q
  let l := queued n q
  let delay := (l.map (waitNotches t)).foldl max x.delay
  let burst := rd n (Rg.schQCfgBurst q)
  let y := { x with rate := newRate x.rate x.disp, disp := 0, delay := 0,
                    credit := if l.isEmpty then min burst (x.credit + burst / 16) else x.credit }
  let n1 := wr (wr n (Rg.schQStatDepth q) (satTo 16 l.length)) (Rg.schQStatBacklog q) (satTo 16 (backlog n q))
  let n2 := wr (wr n1 (Rg.schQRateRate q) (satTo 24 y.rate)) (Rg.schQDelayDelayMax q) (satTo 16 delay)
  setSchQ n2 q y

/-- `SCHEDULER_TICK_LATCH` (R335): every queue, then `SCH_SNAP` names the tick just ended. -/
def tickLatch (t : Tck) (n : Node) : Node :=
  wr ((List.range 80).foldl (latchQueue t) n) Rg.schSnapTick ((t.tick - 1) % 2 ^ 32)

/-- `DISPATCH`. -/
def execDispatch (hw fw : Bool) (s : State) : Outcome State Fault Refusal := onNode (dispatch hw fw) s

/-- `SCHEDULER_TICK_LATCH`. -/
def execSchedulerTickLatch (s : State) : Outcome State Fault Refusal := onNode tickLatch s

end Sys2Proof.Machine
end

