-- ==== Sys2Proof/Machine/Front.lean ====
section
/-! DEFINITION. The command front end (03): doorbells, acceptance, completion heads, rings, `NOP`. -/

namespace Sys2Proof.Machine

open Host (Outcome)

/-! Tenant states (R363). -/

/-- EMPTY. -/
abbrev tsEmpty : Nat := 0
/-- OPENING. -/
abbrev tsOpening : Nat := 1
/-- SEALED. -/
abbrev tsSealed : Nat := 2
/-- FENCING. -/
abbrev tsFencing : Nat := 3
/-- ERASING. -/
abbrev tsErasing : Nat := 4

/-- The tenant state. -/
def tenantState (n : Node) : Nat := rd n Rg.secStatusState

/-- The node's current map epoch. -/
def epochOf (n : Node) : Nat := rd n Rg.mapEpochEpoch

/-- Does the shed ladder, or a halt, refuse an opcode at check 3 (R398, R400). -/
def shedRefuses (n : Node) (op : Nat) : Bool :=
  n.pwr.step ≥ 6 || stopped n
  || (n.pwr.step ≥ 5 && !(op / 16 == 0 || op == opMapRead || op == opTenantClose || op == opRecordGet || op == opAttest))
  || (n.pwr.step ≥ 1 && op == opPrefill)

/-- The tick number in [A - 2^31, A + 2^31) whose low 32 bits are `lo` (R52). -/
def namedTick (a lo : Nat) : Int :=
  let b : Int := (a / 2 ^ 32 * 2 ^ 32 + lo : Nat)
  if b < (a : Int) - 2 ^ 31 then b + 2 ^ 32 else if (a : Int) + 2 ^ 31 ≤ b then b - 2 ^ 32 else b

/-- The deadline in ticks of a timed entry (R50). -/
def deadlineField (n : Node) (e : Bytes) : Nat :=
  if field e 20 2 = 0 then rd n Rg.cmdHorizonDeadlineDef else field e 20 2

/-- The deadline tick of a timed entry accepted in tick `a` (R52). -/
def deadlineOf (n : Node) (e : Bytes) (a : Nat) : Nat := (namedTick a (field e 16 4) + deadlineField n e).toNat

/-- Is a completion ring enabled, and a requester's. -/
def cqOurs (n : Node) (k : Nat) (r : Req) : Bool :=
  match mget? n.fe.cqs k with
  | some q => q.en && q.owner == r
  | none => false

/-- The completion ring an entry's command posts to: the one it names when that is enabled and its requester's, else the default (R50, R51). -/
def chosenCq (n : Node) (sq : Sq) (e : Bytes) : Nat :=
  if byteAt e 2 != 0xFF && cqOurs n (byteAt e 2) sq.owner then byteAt e 2 else sq.defCq

/-- The key of the memory region that host addresses of a ring's commands lie in: that of its default completion ring (R91). -/
def ringKey (n : Node) (sq : Sq) : Nat :=
  match mget? n.fe.cqs sq.defCq with
  | some q => q.mrKey
  | none => 0

/-- Has completion ring `k` an entry left to reserve (R57). -/
def cqHasRoom (n : Node) (k : Nat) : Bool :=
  match mget? n.fe.cqs k with
  | none => false
  | some q => (q.posted + 2 ^ 32 - q.head) % 2 ^ 32 + q.reserved < 2 ^ q.log2

/-- Firmware-path commands in the firmware queue. -/
def fwQueued (n : Node) : Nat := (n.fe.cmds.filter fun c => fwPath c.op && c.stage != .running).length

/-- A refusal: status and retry hint. -/
structure Refuse where
  status : Nat
  retry : Nat
  deriving DecidableEq, Repr

/-- The checks of R56 in their order; the first that fails decides. Check 1 holds R363's rule for the ranges 0x1_ to 0x8_; check 8 that of R383
for the sealed classes. -/
def acceptCheck (t : Tck) (n : Node) (ring : Nat) (sq : Sq) (e : Bytes) : Option Refuse :=
  let op := byteAt e 0
  let r := op / 16
  let ts := tenantState n
  let ep := field e 4 4
  let cur := epochOf n
  let q := queueOf n ring sq
  if ts == tsFencing || ts == tsErasing || (r < 12 && !bitAt sq.opclass r) || (1 ≤ r && r ≤ 8 && ts != tsSealed) then
    some ⟨stDenied, 0⟩
  else if ep != 0 && ep < cur && !(ep + 1 == cur && t.tick % 2 ^ 32 == rd n Rg.mapLearnedTick) then some ⟨stStaleEpoch, 0⟩
  else if shedRefuses n op then some ⟨stShed, 32⟩
  else if timed op && !timeRuns t.state then some ⟨stBusy, 16⟩
  else if cur < ep || (fencedNode n && ep != 0) then some ⟨stBusy, 1⟩
  else if (if sq.maxOut = 0 then 65536 else sq.maxOut) ≤ sq.outstanding || !cqHasRoom n (chosenCq n sq e) then some ⟨stBusy, 1⟩
  else if fwPath op && Config.fwQueueMore + 1 ≤ fwQueued n then some ⟨stBusy, 1⟩
  else if sealedClass q && rdB n Rg.secRecStatusLow then some ⟨stBusy, rd n Rg.schCfgRetryMax⟩
  else
    match schRefuses n q (costOf n e) t.tick (if timed op then some (deadlineOf n e t.tick) else none) with
    | some k => some ⟨stBusy, k⟩
    | none => none

/-- Count a refusal under its status (03 registers). -/
def countRefusal (n : Node) (q status : Nat) : Node :=
  let n1 := if status = stBusy then bump n Rg.cmdRefusedABusy 1
    else if status = stStaleEpoch then bump n Rg.cmdRefusedAStale 1
    else if status = stShed then bump n Rg.cmdRefusedBShed 1
    else bump n Rg.cmdRefusedBDenied 1
  pmc (if status = stBusy then bump n1 (Rg.schQCountRefused q) 1 else n1) 63 0x5005 1

/-- The acceptance word of a refusal (R54). -/
def refusalWord (n : Node) (r : Refuse) : Nat :=
  (if r.status = stStaleEpoch then epochOf n else 0) + r.status * 2 ^ 32 + r.retry * 2 ^ 48 + 0xA * 2 ^ 60

/-- The acceptance word of an accepted command (R54). -/
def acceptWord (h : Nat) : Nat := h + 0x5 * 2 ^ 60

/-- One step of the 32-bit Galois LFSR with tap mask 0x8020_0003 (R437). -/
def lfsrStep (v : Nat) : Nat := if v % 2 = 1 then (v / 2) ^^^ 0x80200003 else v / 2

/-- The work requests that a `TRIGGER_POST` names, as the host holds them (R142). -/
def triggerWrs (n : Node) (c : Cmd) : List Bytes :=
  if c.op = opTriggerPost && c.f 40 2 ≤ 64 then (List.range (c.f 40 2)).map fun i => hostRead n c.mem (c.f 44 8 + 64 * i) 64 else []

/-- The command an accepted entry becomes (R13, R52, R55). -/
def newCmd (t : Tck) (n : Node) (ring : Nat) (sq : Sq) (e : Bytes) (tag : Nat) (tagged : Bool) : Cmd :=
  let op := byteAt e 0
  let named := namedTick t.tick (field e 16 4)
  let launch := if timed op then max named.toNat (t.tick + 2) else 0
  let c : Cmd := {
    handle := ring * 2 ^ 24 + sq.accepted % 2 ^ 24, ring := ring, cq := chosenCq n sq e, entry := e, req := sq.owner,
    seq := n.fe.accSeq, accTick := t.tick, accTime := t.now, stage := .queued, q := queueOf n ring sq, cost := costOf n e,
    tag := tag, launch := launch, deadline := if timed op then deadlineOf n e t.tick else 0,
    tooFar := timed op && decide (((t.tick + rd n Rg.cmdHorizonMax : Nat) : Int) < named),
    moved := timed op && decide (named < ((t.tick + 2 : Nat) : Int)), late := false, launched := false,
    badCq := byteAt e 2 != 0xFF && !cqOurs n (byteAt e 2) sq.owner, diverted := false, waited := false, mrKey := ringKey n sq, tagged := tagged,
    stamps := if tagged then [(0, t.now, t.u)] else [], wrs := [] }
  { c with wrs := triggerWrs n c }

/-- Offending fields of a `TENANT_CLOSE` (R384). -/
def closeOffs (n : Node) (c : Cmd) : List Nat :=
  headerOffs c ++ offIf (c.f 24 2 != rd n Rg.secStatusTenant) 24 ++ offIf (1 < c.f 26 1) 26 ++ rsv c 27 63

/-- What keeps a tenant from being closed without FORCE: a slice of the node, an extent that is not FREE, an unreleased tick (R384). -/
def closeBarred (n : Node) : Bool :=
  (n.map.map.slices.any fun s => s.node == rd n Rg.nidNodeNodeId) || (n.cxd.exts.any fun e => e.2.state != 0) || n.sec.store.any fun r => !r.released

/-- Does a `TENANT_CLOSE` start the close of a sealed tenant (R363, R384). -/
def closeValid (n : Node) (c : Cmd) : Bool :=
  tenantState n == tsSealed && (closeOffs n c).isEmpty && (c.f 26 1 == 1 || !closeBarred n)

/-- Effects that acceptance itself has: a valid disabling `RING_CFG` on ring 0 stops its ring's doorbells (R75), and a `TENANT_CLOSE` of a
sealed tenant starts FENCING (R363, R384). -/
def acceptEffects (n : Node) (c : Cmd) : Node :=
  if c.op = opRingCfg && c.ring = 0 && c.f 25 1 = 2 && (headerOffs c ++ rsv c 26 63).isEmpty && c.f 24 1 != 0 then
    { n with fe := { n.fe with sqs := mmod n.fe.sqs (c.f 24 1) fun q => if q.en then { q with closing := true } else q } }
  else if c.op = opTenantClose && closeValid n c then
    let n1 := wr (wr n Rg.secStatusState tsFencing) Rg.secStatusSeal 0
    { n1 with sec := { n1.sec with closing := some (c.handle, c.accTick), fenced := false, destroyed := 0 } }
  else n

/-- Accept an entry: queue it, reserve its completion entry, number it, count it, advance the tagging LFSR (R55, R57, R328, R437). -/
def accept (t : Tck) (n : Node) (ring : Nat) (sq : Sq) (e : Bytes) : Node × Nat :=
  let l := lfsrStep (rd n Rg.pmcTagSeedLfsr)
  let tagged := rdB n Rg.pmcTagCfgEn && l % 2 ^ rd n Rg.pmcTagCfgLog2n == 0
  let (tag, x) := enterQueue n (queueOf n ring sq) (costOf n e)
  let c := newCmd t n ring sq e tag tagged
  let n1 := setSchQ (wr n Rg.pmcTagSeedLfsr l) c.q x
  let n2 := bump n1 (Rg.schQCountAccepted c.q) 1
  let n3 := { n2 with fe := { n2.fe with
    cmds := n2.fe.cmds ++ [c], accSeq := n2.fe.accSeq + 1,
    sqs := mmod n2.fe.sqs ring (fun q => { q with accepted := q.accepted + 1, outstanding := q.outstanding + 1 }),
    cqs := mmod n2.fe.cqs c.cq fun q => { q with reserved := q.reserved + 1 } } }
  (acceptEffects (pmc n3 63 0x5004 1) c, acceptWord c.handle)

/-- Note an epoch named by a command, a message or the node's own copy of the map (R345). -/
def meetEpoch (n : Node) (e : Nat) : Node := { n with map := { n.map with newest := max n.map.newest e } }

/-- Decide one entry: the node after, and its acceptance word (ACCEPTANCE_CHECK, R56). -/
def decideEntry (t : Tck) (n : Node) (ring : Nat) (e : Bytes) : Node × Nat :=
  match mget? n.fe.sqs ring with
  | none => (n, 0)
  | some sq =>
    match acceptCheck t n ring sq e with
    | some r => (countRefusal (meetEpoch n (field e 4 4)) (queueOf n ring sq) r.status, refusalWord n r)
    | none => accept t n ring sq e

/-- Did the node receive no more than 128 entries over all rings in the microsecond, 4,000 units, before now (R60). -/
def calm (t : Tck) (n : Node) : Bool :=
  ((n.fe.recent.filter fun x => t.now ≤ x.1 + 4000).map (·.2)).foldl (· + ·) 0 ≤ 128

/-- Note entries that a doorbell makes visible now (R60). -/
def noteEntries (t : Tck) (n : Node) (k : Nat) : Node :=
  { n with fe := { n.fe with recent := (n.fe.recent.filter fun x => t.now ≤ x.1 + 4000) ++ [(t.now, k)] } }

/-- Pace the front end (R60). A word of a doorbell that R60 guarantees (`quick`) is written within 1 microsecond; the others at 128 a microsecond, each
counted in `CMD_ACC_LATE` when it is written more than 1 microsecond after its doorbell. Times in sixteenths of a unit: 500 to a word, 64,000 to a
microsecond. DESIGN CHOICE, unsafe for claims about `CMD_ACC_LATE`: the rate is exactly the least that R60 allows (log entry 43). -/
def paceWord (quick : Bool) (t : Tck) (n : Node) : Node :=
  let next := max n.fe.paceUntil (16 * t.now) + 500
  let at_ := if quick then min next (16 * t.now + 64000) else next
  let n1 := { n with fe := { n.fe with paceUntil := at_ } }
  if 16 * t.now + 64000 < at_ then bump n1 Rg.cmdAccLateLate 1 else n1

/-- The submission head of a ring advances past one entry (R48, R59). -/
def advanceHead (n : Node) (ring : Nat) : Node :=
  { n with fe := { n.fe with sqs := mmod n.fe.sqs ring fun q => { q with head := (q.head + 1) % 2 ^ 32 } } }

/-- The host address of the slot at a ring's head (R48). -/
def headSlot (sq : Sq) : Nat := sq.base + sq.head % 2 ^ sq.log2 * 64

/-- Read the entry at the head of a local ring, decide it, write its acceptance word in bytes 8 to 15 of the slot (R54, R59). -/
def answerSlot (quick : Bool) (t : Tck) (ring : Nat) (sq : Sq) (n : Node) : Node :=
  let d := decideEntry t n ring (hostRead n (reqSpace sq.owner) (headSlot sq) 64)
  paceWord quick t (advanceHead (hostWrite d.1 (reqSpace sq.owner) (headSlot sq + 8) (leBytes 8 d.2)) ring)

/-- Answer `k` entries of a local ring from its head, in slot order (R54, R59). -/
def answerLocal (quick : Bool) (t : Tck) (ring : Nat) : Nat → Node → Node
  | 0, n => n
  | k + 1, n =>
    match mget? n.fe.sqs ring with
    | none => n
    | some sq => answerLocal quick t ring k (answerSlot quick t ring sq n)

/-- The last tail received on a ring (R58). -/
def setTail (n : Node) (ring tail : Nat) : Node :=
  { n with fe := { n.fe with sqs := mmod n.fe.sqs ring fun q => { q with tail := tail } } }

/-- A doorbell, completion doorbell or command message ignored under R58 or R66. -/
def badDb (t : Tck) (n : Node) (ring : Nat) : Node := raise t (bump n Rg.cmdDbErrBad 1) evDbBad (leBytes 1 ring)

/-- One from a source other than the ring's requester (R49). -/
def foreignDb (t : Tck) (n : Node) (ring : Nat) : Node := raise t (bump n Rg.cmdDbErrForeign 1) evDbForeign (leBytes 1 ring)

/-- `CMD_SQ_DB` (R49, R58, R59, R60). A ring that is closing under R75 ignores a doorbell from any source as R58's disabled ring does, and counts it BAD:
no rule orders R49 before R58 there. DESIGN CHOICE, unsafe: log entry 47. -/
def sqDoorbell (ring tail : Nat) (src : Req) (t : Tck) (n : Node) : Node :=
  if !rdB n Rg.cmdStatusReady then badDb t n ring
  else
    match mget? n.fe.sqs ring with
    | none => badDb t n ring
    | some sq =>
      if !sq.en || sq.closing then badDb t n ring
      else if src != sq.owner then foreignDb t n ring
      else if sq.remote then badDb t n ring
      else if tail = sq.tail then n
      else
        let d := (tail + 2 ^ 32 - sq.head) % 2 ^ 32
        let seen := (sq.tail + 2 ^ 32 - sq.head) % 2 ^ 32
        if 1 ≤ d && d ≤ 2 ^ sq.log2 && seen ≤ d then
          answerLocal (calm t n) t ring d (noteEntries t (setTail n ring tail) (d - seen))
        else badDb t n ring

/-- Release completion entries up to a head count (R58, R62). -/
def cqHead (ring head : Nat) (src : Req) (t : Tck) (n : Node) : Node :=
  match mget? n.fe.cqs ring with
  | none => badDb t n ring
  | some q =>
    if !q.en then badDb t n ring
    else if src != q.owner then foreignDb t n ring
    else
      let d := (head + 2 ^ 32 - q.head) % 2 ^ 32
      if d ≤ (q.posted + 2 ^ 32 - q.head) % 2 ^ 32 then
        { n with fe := { n.fe with cqs := mset n.fe.cqs ring { q with head := head } } }
      else badDb t n ring

/-- Decide the entries of a `CMD_SUBMIT` in order: the node after, and the words of its `CMD_ACCEPT`. -/
def answerEntries (quick : Bool) (t : Tck) (ring : Nat) : List Bytes → Node → Node × List Nat
  | [], n => (n, [])
  | e :: l, n =>
    let (n1, w) := decideEntry t n ring e
    let (n2, ws) := answerEntries quick t ring l (paceWord quick t n1)
    (n2, w :: ws)

/-- The `CMD_SUBMIT` that a message spells (R65): KIND 0x01, COUNT entries of 64 bytes from byte 16. Reserved bytes are not looked at. -/
def submitOf (b : Bytes) : Option SubmitMsg :=
  if byteAt b 0 == 1 && b.length == 16 + 64 * byteAt b 2 then
    some ⟨byteAt b 1, field b 4 4, (List.range (byteAt b 2)).map fun i => slice b (16 + 64 * i) 64⟩
  else none

/-- The `CMD_ACCEPT` that answers a `CMD_SUBMIT` with acceptance words (R65): KIND 0x02, then RING, COUNT and FIRST in the same places. -/
def acceptBytes (m : SubmitMsg) (ws : List Nat) : Bytes :=
  [0x02] ++ leBytes 1 m.ring ++ leBytes 1 m.entries.length ++ zeros 1 ++ leBytes 4 m.first ++ zeros 8 ++ ws.flatMap (leBytes 8)

/-- The ring and head count that a `CMD_CQ_HEAD` message spells (R65): KIND 0x03. -/
def cqHeadOf (b : Bytes) : Option (Nat × Nat) :=
  if byteAt b 0 == 3 && b.length == 8 then some (byteAt b 1, field b 4 4) else none

/-- Take one gap-free `CMD_SUBMIT` message: advance the counts, answer its entries, send one `CMD_ACCEPT` (R66). -/
def takeSubmit (quick : Bool) (t : Tck) (qp : Nat) (m : SubmitMsg) (n : Node) : Node :=
  let k := m.entries.length
  let n1 := { n with fe := { n.fe with sqs := mmod n.fe.sqs m.ring fun q =>
    { q with tail := (m.first + k) % 2 ^ 32, head := (m.first + k) % 2 ^ 32 } } }
  let (n2, ws) := answerEntries quick t m.ring m.entries (noteEntries t n1 k)
  emit n2 (.cmdAccept qp (acceptBytes m ws))

/-- Take the messages held for a ring whose gaps are filled, at most `fuel` of them (R66). -/
def takeHeld (quick : Bool) (t : Tck) (qp ring : Nat) : Nat → Node → Node
  | 0, n => n
  | fuel + 1, n =>
    match mget? n.fe.sqs ring with
    | none => n
    | some sq =>
      match sq.held.find? (·.first == sq.tail) with
      | none => n
      | some m =>
        let n1 := { n with fe := { n.fe with sqs := mset n.fe.sqs ring { sq with held := sq.held.filter (· != m) } } }
        takeHeld quick t qp ring fuel (takeSubmit quick t qp m n1)

/-- Does a message of `k` entries from count `first` overlap the entries of one that is held, counted from the ring's tail. -/
def overlapsHeld (sq : Sq) (first k : Nat) : Bool :=
  let at_ (c : Nat) : Nat := (c + 2 ^ 32 - sq.tail) % 2 ^ 32
  sq.held.any fun m => at_ first < at_ m.first + m.entries.length && at_ m.first < at_ first + k

/-- `CMD_SUBMIT` (R49, R66): in order of FIRST; a message beyond the entries received waits; one that overlaps entries received, those of held messages
among them, or that runs past the ring's size from the head, is ignored and counted. So is one whose COUNT is not 1 to 16 (DESIGN CHOICE, unsafe: the spec does
not say what becomes of it, nor of an overlap with a held message; log entry 48). -/
def submit (m : SubmitMsg) (qp : Nat) (src : Req) (t : Tck) (n : Node) : Node :=
  match mget? n.fe.sqs m.ring with
  | none => badDb t n m.ring
  | some sq =>
    let k := m.entries.length
    let gap := (m.first + 2 ^ 32 - sq.tail) % 2 ^ 32
    if !sq.en || sq.closing then badDb t n m.ring
    else if src != sq.owner then foreignDb t n m.ring
    else if k = 0 || 16 < k || 2 ^ sq.log2 < (sq.tail + 2 ^ 32 - sq.head) % 2 ^ 32 + gap + k || overlapsHeld sq m.first k then badDb t n m.ring
    else if gap = 0 then takeHeld (calm t n) t qp m.ring (sq.held.length + 1) (takeSubmit (calm t n) t qp m n)
    else { n with fe := { n.fe with sqs := mset n.fe.sqs m.ring { sq with held := sq.held ++ [m] } } }

/-- `CQ_INTR_DELAY` (R64): DELAY notches after the first unsignalled entry the vector is raised. -/
def intrDelay (ring : Nat) (t : Tck) (n : Node) : Node :=
  match mget? n.fe.cqs ring with
  | none => n
  | some q =>
    match q.firstUnsig with
    | none => n
    | some tm =>
      if !q.remote && rdB n (Rg.cmdCqIntrEn ring)
          && tm + rd n (Rg.cmdCqIntrDelay ring) * unitsPerNotch t.cur ≤ t.now then signalCq n ring q
      else n

/-- k of an admin ring: 0 stands for 16 (03 registers). -/
def adminLog2 (v : Nat) : Nat := if v = 0 then 16 else v

/-- A 64-bit base held in a LO and a HI register. -/
def baseOf (n : Node) (lo hi : Fld) : Nat := n.bank.get lo.off + n.bank.get hi.off * 2 ^ 32

/-- Enable ring pair 0, bound to the writing requester (R49, `CMD_ADMIN_CFG.EN`). Its counts and handle numbers start at 0 again though commands of the ring's
earlier life may be outstanding; those post to the ring as it stands when they complete. DESIGN CHOICE, unsafe: log entry 49. -/
def enableAdmin (n : Node) (src : Req) : Node :=
  let sq : Sq := {
    en := true, remote := false, owner := src, base := baseOf n Rg.cmdAdminSqLoBase Rg.cmdAdminSqHiBase,
    log2 := adminLog2 (rd n Rg.cmdAdminCfgSqLog2), opclass := 0xFFF, defCq := 0, svc := 0, maxOut := 0, head := 0, tail := 0,
    accepted := 0, outstanding := 0, held := [], closing := false }
  let cq : Cq := {
    en := true, remote := false, owner := src, base := baseOf n Rg.cmdAdminCqLoBase Rg.cmdAdminCqHiBase,
    log2 := adminLog2 (rd n Rg.cmdAdminCfgCqLog2), mrKey := 0, msix := rd n Rg.cmdAdminCfgMsix, posted := 0, head := 0,
    reserved := 0, unsig := 0, firstUnsig := none }
  let n1 := { n with fe := { n.fe with sqs := mset n.fe.sqs 0 sq, cqs := mset n.fe.cqs 0 cq } }
  feedQueue (wr (wr n1 Rg.cmdAdminCfgEn 1) Rg.cmdStatusAdminEn 1) (queueOf n1 0 sq)

/-- Disable ring pair 0: doorbells are no longer read; commands outstanding still post (R57). -/
def disableAdmin (n : Node) : Node :=
  let n1 := { n with fe := { n.fe with
    sqs := mmod n.fe.sqs 0 (fun q => { q with en := false }), cqs := mmod n.fe.cqs 0 (fun q => { q with en := false }) } }
  wr (wr n1 Rg.cmdAdminCfgEn 0) Rg.cmdStatusAdminEn 0

/-- Set a ring-size field of `CMD_ADMIN_CFG`; values 1 to 3 are ignored (R5). -/
def setLog2 (n : Node) (f : Fld) (v : Nat) : Node := if 1 ≤ v && v ≤ 3 then n else wr n f v

/-- `CMD_ADMIN_CFG_WRITE` (R49): set or clear EN. The management path cannot set it; while EN is 1 the ring sizes are fixed, and a write is recorded as
ignored when it carries other sizes than those held. DESIGN CHOICE, safe: log entry 50. -/
def adminCfgWrite (v : Nat) (src : Req) (t : Tck) (n : Node) : Node :=
  let en := rdB n Rg.cmdAdminCfgEn
  let newEn := bitAt v 8
  if src == .mgmt && newEn && !en then raise t n evCmdWriteIgnored (leBytes 4 Rg.cmdAdminCfgEn.off)
  else
    let n1 := wr n Rg.cmdAdminCfgMsix (bits v 16 11)
    if en then
      let n2 := if bits v 0 8 != bits (n.bank.get Rg.cmdAdminCfgEn.off) 0 8 then
          raise t n1 evCmdWriteIgnored (leBytes 4 Rg.cmdAdminCfgEn.off) else n1
      let n3 := { n2 with fe := { n2.fe with cqs := mmod n2.fe.cqs 0 fun q => { q with msix := bits v 16 11 } } }
      if newEn then n3 else disableAdmin n3
    else
      let n2 := setLog2 (setLog2 n1 Rg.cmdAdminCfgSqLog2 (bits v 0 4)) Rg.cmdAdminCfgCqLog2 (bits v 4 4)
      if newEn then enableAdmin n2 src else n2

/-- `NOP` (R69): completes with `ST_OK` once the commands ahead of it allow. -/
def nop (h : Nat) (t : Tck) (n : Node) : Node :=
  withCmd n h opNop fun c => checked t n c (rsv c 24 63) (complete t n h stOk [])

/-- The requester a `RING_CFG` names as OWNER (R74). -/
def ringOwner (c : Cmd) : Req :=
  if c.f 27 1 = 1 then .qp (BitVec.ofNat 20 (c.f 28 4))
  else .host (Fin.ofNat 4 (c.f 28 4 / 2 ^ 16)) (BitVec.ofNat 16 (c.f 28 4))

/-- Offending fields of an enabling `RING_CFG` (R9, R48, R74, R75, R325): `sub` for a submission ring. -/
def ringEnableOffs (n : Node) (c : Cmd) (sub : Bool) : List Nat :=
  let remote := c.f 27 1 == 1
  let ring := c.f 24 1
  let enabled := if sub then (match mget? n.fe.sqs ring with | some q => q.en | none => false)
    else (match mget? n.fe.cqs ring with | some q => q.en | none => false)
  offIf (ring == 0 || enabled) 24
  ++ offIf (c.f 26 1 < 4 || 16 < c.f 26 1) 26
  ++ offIf (1 < c.f 27 1) 27
  ++ offIf (if remote then 2 ^ 20 ≤ c.f 28 4 else 2 ^ 18 ≤ c.f 28 4) 28
  ++ (if remote then (if sub then rsv c 32 39 else []) else offIf (!mult (c.f 32 8) 4096) 32)
  ++ (if remote && !sub then [] else rsv c 40 43)
  ++ (if sub then offIf (2 ^ 12 ≤ c.f 44 2) 44
      ++ offIf (!(match mget? n.fe.cqs (c.f 46 1) with
          | some q => q.en && q.owner == ringOwner c
          | none => false)) 46
      ++ offIf (15 < c.f 47 1) 47
    else rsv c 44 45 ++ rsv c 46 46 ++ rsv c 47 47 ++ rsv c 48 49)
  ++ (if !sub && !remote then [] else rsv c 50 51)
  ++ rsv c 52 63

/-- Offending fields of a disabling `RING_CFG` (R75). -/
def ringDisableOffs (n : Node) (c : Cmd) (sub : Bool) : List Nat :=
  let ring := c.f 24 1
  (if sub then offIf (!(match mget? n.fe.sqs ring with | some q => q.en | none => false) || ring == 0
      || n.fe.cmds.any (fun d => d.seq < c.seq && d.stage == .running && d.op == opRingCfg && d.f 25 1 == 2 && d.f 24 1 == ring)) 24
    else offIf (ring == 0
      || !(match mget? n.fe.cqs ring with | some q => q.en && q.reserved == 0 | none => false)
      || n.fe.sqs.any (fun x => x.2.en && x.2.defCq == ring)) 24)
  ++ rsv c 26 63

/-- Enable a submission ring (R48, R74). -/
def enableSq (n : Node) (c : Cmd) : Node :=
  let ring := c.f 24 1
  let sq : Sq := {
    en := true, remote := c.f 27 1 == 1, owner := ringOwner c, base := c.f 32 8, log2 := c.f 26 1, opclass := c.f 44 2,
    defCq := c.f 46 1, svc := c.f 47 1, maxOut := c.f 48 2, head := 0, tail := 0, accepted := 0, outstanding := 0, held := [],
    closing := false }
  feedQueue { n with fe := { n.fe with sqs := mset n.fe.sqs ring sq } } (queueOf n ring sq)

/-- Enable a completion ring (R48, R74). -/
def enableCq (n : Node) (c : Cmd) : Node :=
  let cq : Cq := {
    en := true, remote := c.f 27 1 == 1, owner := ringOwner c, base := c.f 32 8, log2 := c.f 26 1, mrKey := c.f 40 4,
    msix := c.f 50 2, posted := 0, head := 0, reserved := 0, unsig := 0, firstUnsig := none }
  { n with fe := { n.fe with cqs := mset n.fe.cqs (c.f 24 1) cq } }

/-- Close a submission ring whose commands have all posted (R75). -/
def disableSq (n : Node) (ring : Nat) : Node :=
  { n with fe := { n.fe with sqs := mmod n.fe.sqs ring fun q => { q with en := false, closing := false, held := [] } } }

/-- Has every command accepted on a ring posted its completion. -/
def ringDrained (n : Node) (ring : Nat) : Bool := !n.fe.cmds.any fun c => c.ring == ring

/-- `RING_CFG` (R74, R75). On another ring than 0 it completes with `ST_DENIED` before any field is looked at (DESIGN CHOICE, unsafe: the spec gives no order;
log entry 51). A disabling command of a submission ring completes at once when the ring has drained, else in `RING_DISABLE_DRAIN`. -/
def ringCfg (h : Nat) (t : Tck) (n : Node) : Node :=
  withCmd n h opRingCfg fun c =>
    if c.ring != 0 then complete t n h stDenied []
    else
      let op := c.f 25 1
      if op = 0 then checked t n c (ringEnableOffs n c true) (complete t (enableSq n c) h stOk [])
      else if op = 1 then checked t n c (ringEnableOffs n c false) (complete t (enableCq n c) h stOk [])
      else if op = 2 then checked t n c (ringDisableOffs n c true)
        (if ringDrained n (c.f 24 1) then complete t (disableSq n (c.f 24 1)) h stOk [] else setRunning n h)
      else if op = 3 then checked t n c (ringDisableOffs n c false)
        (complete t { n with fe := { n.fe with cqs := mmod n.fe.cqs (c.f 24 1) fun q => { q with en := false } } } h stOk [])
      else checked t n c ([25] ++ offIf (c.f 24 1 == 0) 24) n

/-- `RING_DISABLE_DRAIN` (R75): once every command of the ring has posted, the ring closes and the command completes. -/
def ringDrain (h : Nat) (t : Tck) (n : Node) : Node :=
  match findCmd n h with
  | none => n
  | some c =>
    if c.op == opRingCfg && c.stage == .running && c.f 25 1 == 2 && ringDrained n (c.f 24 1) then
      complete t (disableSq n (c.f 24 1)) h stOk []
    else n

/-! The commands. -/

/-- `CMD_SQ_DB`. -/
def execCmdSqDb (ring : BitVec 8) (tail : Word) (src : Req) (s : State) : Outcome State Fault Refusal :=
  onNode (sqDoorbell ring.toNat tail.toNat src) s

/-- `CMD_CQ_DB`. -/
def execCmdCqDb (ring : BitVec 8) (head : Word) (src : Req) (s : State) : Outcome State Fault Refusal :=
  onNode (cqHead ring.toNat head.toNat src) s

/-- `CMD_SUBMIT`. -/
def execCmdSubmit (b : Bytes) (qp : BitVec 20) (s : State) : Outcome State Fault Refusal :=
  onNode (fun t n => match submitOf b with | some m => submit m qp.toNat (.qp qp) t n | none => badDb t n (byteAt b 1)) s

/-- `CMD_CQ_HEAD` (R67): a remote ring's completion doorbell; a message of another shape is ignored and counted (log entry 48). -/
def execCmdCqHead (b : Bytes) (qp : BitVec 20) (s : State) : Outcome State Fault Refusal :=
  onNode (fun t n => match cqHeadOf b with | some (ring, head) => cqHead ring head (.qp qp) t n | none => badDb t n (byteAt b 1)) s

/-- `CQ_INTR_DELAY`. -/
def execCqIntrDelay (ring : BitVec 8) (s : State) : Outcome State Fault Refusal := onNode (intrDelay ring.toNat) s

/-- `CMD_ADMIN_CFG_WRITE`. -/
def execCmdAdminCfgWrite (v : Word) (src : Req) (s : State) : Outcome State Fault Refusal := onNode (whenOpen (adminCfgWrite v.toNat src)) s

/-- `NOP`. -/
def execNop (h : Word) (s : State) : Outcome State Fault Refusal := onNode (nop h.toNat) s

/-- `RING_CFG`. -/
def execRingCfg (h : Word) (s : State) : Outcome State Fault Refusal := onNode (ringCfg h.toNat) s

/-- `RING_DISABLE_DRAIN`. -/
def execRingDisableDrain (h : Word) (s : State) : Outcome State Fault Refusal := onNode (ringDrain h.toNat) s

end Sys2Proof.Machine
end

