-- ==== Sys2Proof/Machine/Float.lean ====
section
/-! DEFINITION. FP32 arithmetic as the spec fixes it: exact values, the one rounding `rn` (R101), the exponential E2F (R121), division and square
root correctly rounded. An FP32 number is its 32-bit pattern, held in a Nat. -/

namespace Sys2Proof.Machine

/-- An exact value: NaN, an infinity with its sign, or `m * 2^e`. -/
inductive Ext where
  | nan
  | inf (neg : Bool)
  | fin (m : Int) (e : Int)
  deriving DecidableEq, Repr

/-- The canonical NaN (R120). -/
abbrev fNan : Nat := 0x7FC00000

/-- Minus infinity (R129). -/
abbrev fNegInf : Nat := 0xFF800000

/-- Plus infinity. -/
abbrev fPosInf : Nat := 0x7F800000

/-- One. -/
abbrev fOne : Nat := 0x3F800000

/-- `LOG2E` (05, Inside a granule). -/
abbrev fLog2e : Nat := 0x3FB8AA3B

/-- Two to a natural power, for exponents given as integers; a negative exponent counts as 0. -/
def ipow2 (e : Int) : Int := (2 : Int) ^ e.toNat

/-- The exact value of an FP32 pattern (R148). -/
def fVal (b : Nat) : Ext :=
  let neg := bitAt b 31
  let ex := bits b 23 8
  let fr := bits b 0 23
  if ex = 255 then (if fr = 0 then .inf neg else .nan)
  else
    let m : Int := if ex = 0 then fr else fr + 0x800000
    .fin (if neg then -m else m) (if ex = 0 then -149 else (ex : Int) - 150)

/-- Number of bits of `n`: the least `k` with `n < 2^k`. -/
def bitLen (n : Nat) : Nat := if n = 0 then 0 else Nat.log2 n + 1

/-- `n / 2^s` rounded to nearest, ties to even; a negative `s` is a shift to the left. -/
def rneShift (n : Nat) (s : Int) : Nat :=
  if s ≤ 0 then n * 2 ^ (-s).toNat
  else
    let d := 2 ^ s.toNat
    let q := n / d
    let r := n % d
    if 2 * r < d then q
    else if d < 2 * r then q + 1
    else if q % 2 = 0 then q else q + 1

/-- `rn` of a finite exact value (R101): FP32 rounding to nearest even, then +0 in place of a magnitude below 2^-126. -/
def rnFin (m e : Int) : Nat :=
  let a := m.natAbs
  if a = 0 then 0
  else
    let sgn := if m < 0 then 0x80000000 else 0
    let q := max (e + (bitLen a : Int) - 24) (-149)
    let n := rneShift a (q - e)
    let (n, q) := if n = 0x1000000 then (0x800000, q + 1) else (n, q)
    if n < 0x800000 then 0
    else if q > 104 then sgn + fPosInf
    else sgn + ((q + 150).toNat * 0x800000 + (n - 0x800000))

/-- `rn` of an exact value. -/
def rn : Ext → Nat
  | .nan => fNan
  | .inf neg => if neg then fNegInf else fPosInf
  | .fin m e => rnFin m e

/-- Exact negation. -/
def Ext.neg : Ext → Ext
  | .nan => .nan
  | .inf s => .inf (!s)
  | .fin m e => .fin (-m) e

/-- Exact sum. -/
def Ext.add (a b : Ext) : Ext :=
  match a, b with
  | .nan, _ => .nan
  | _, .nan => .nan
  | .inf s, .inf t => if s = t then .inf s else .nan
  | .inf s, .fin _ _ => .inf s
  | .fin _ _, .inf t => .inf t
  | .fin m e, .fin n f =>
    let g := min e f
    .fin (m * ipow2 (e - g) + n * ipow2 (f - g)) g

/-- Exact product. -/
def Ext.mul (a b : Ext) : Ext :=
  match a, b with
  | .nan, _ => .nan
  | _, .nan => .nan
  | .inf s, .inf t => .inf (s != t)
  | .inf s, .fin n _ => if n = 0 then .nan else .inf (s != decide (n < 0))
  | .fin m _, .inf t => if m = 0 then .nan else .inf (t != decide (m < 0))
  | .fin m e, .fin n f => .fin (m * n) (e + f)

/-- The exact sum of terms, with no rounding (05, Inside a granule). -/
def exactSum (l : List Ext) : Ext := l.foldl Ext.add (.fin 0 0)

/-- Sum of two FP32 numbers, rounded once. -/
def fAdd (a b : Nat) : Nat := rn ((fVal a).add (fVal b))

/-- Difference of two FP32 numbers, rounded once. -/
def fSub (a b : Nat) : Nat := rn ((fVal a).add (fVal b).neg)

/-- Product of two FP32 numbers, rounded once. -/
def fMul (a b : Nat) : Nat := rn ((fVal a).mul (fVal b))

/-- Is an FP32 pattern a NaN. -/
def fIsNan (b : Nat) : Bool := bits b 23 8 == 255 && bits b 0 23 != 0

/-- Is an FP32 pattern an infinity or a NaN. -/
def fNonFinite (b : Nat) : Bool := bits b 23 8 == 255

/-- `a < b` of exact values; false with a NaN. -/
def Ext.lt (a b : Ext) : Bool :=
  match a, b with
  | .nan, _ => false
  | _, .nan => false
  | .inf s, .inf t => s && !t
  | .inf s, .fin _ _ => s
  | .fin _ _, .inf t => !t
  | .fin m e, .fin n f =>
    let g := min e f
    decide (m * ipow2 (e - g) < n * ipow2 (f - g))

/-- `a < b` of FP32 numbers; false with a NaN. -/
def fLt (a b : Nat) : Bool := (fVal a).lt (fVal b)

/-- The larger of two FP32 numbers; a NaN operand gives the canonical NaN. -/
def fMax (a b : Nat) : Nat :=
  if fIsNan a || fIsNan b then fNan else if fLt a b then b else a

/-- The negated pattern. -/
def fNeg (b : Nat) : Nat := if bitAt b 31 then b - 0x80000000 else b + 0x80000000

/-- Quotient of exact values, rounded once: the quotient to 64 bits with a sticky bit below decides every rounding. -/
def rnDiv (a b : Ext) : Nat :=
  match a, b with
  | .nan, _ => fNan
  | _, .nan => fNan
  | .inf _, .inf _ => fNan
  | .inf s, .fin n _ => if (s != decide (n < 0)) then fNegInf else fPosInf
  | .fin _ _, .inf _ => 0
  | .fin m e, .fin n f =>
    if n = 0 then (if m = 0 then fNan else if m < 0 then fNegInf else fPosInf)
    else
      let k := 64 + bitLen n.natAbs
      let x := m.natAbs * 2 ^ k
      let q := 2 * (x / n.natAbs) + (if x % n.natAbs = 0 then 0 else 1)
      rn (.fin (if (decide (m < 0)) != (decide (n < 0)) then -(q : Int) else q) (e - f - k - 1))

/-- Quotient of two FP32 numbers, correctly rounded (R143). -/
def fDiv (a b : Nat) : Nat := rnDiv (fVal a) (fVal b)

/-- Integer square root by bits: the largest `r` below `2^k` bits with `r*r ≤ n`, built from `acc`. -/
def isqrtBits : Nat → Nat → Nat → Nat
  | 0, acc, _ => acc
  | k + 1, acc, n =>
    let c := acc + 2 ^ k
    if c * c ≤ n then isqrtBits k c n else isqrtBits k acc n

/-- The square root of a non-negative finite value as a dyadic with a sticky bit: good to 40 bits. -/
def sqrtDyadic (m : Nat) (e : Int) : Nat × Int :=
  let k : Int := if (e % 2 = 0) then 96 else 97
  let x := m * 2 ^ k.toNat
  let w := bitLen x / 2 + 1
  let r := isqrtBits w 0 x
  (2 * r + (if r * r = x then 0 else 1), (e - k) / 2 - 1)

/-- Square root, correctly rounded; of a negative number the NaN. -/
def fSqrt (b : Nat) : Nat :=
  match fVal b with
  | .nan => fNan
  | .inf neg => if neg then fNan else fPosInf
  | .fin m e =>
    if m < 0 then fNan
    else if m = 0 then 0
    else
      let (r, f) := sqrtDyadic m.natAbs e
      rnFin r f

/-- The table T of R121, entries 0 to 127: T[i] is the FP32 value nearest 2^(i/256). -/
def e2fTab1 : List Nat := [
  0x3F800000, 0x3F8058D8, 0x3F80B1ED, 0x3F810B41, 0x3F8164D2, 0x3F81BEA1, 0x3F8218AF, 0x3F8272FC,
  0x3F82CD87, 0x3F832850, 0x3F838359, 0x3F83DEA1, 0x3F843A29, 0x3F8495F0, 0x3F84F1F6, 0x3F854E3D,
  0x3F85AAC3, 0x3F86078A, 0x3F866491, 0x3F86C1D9, 0x3F871F62, 0x3F877D2B, 0x3F87DB35, 0x3F883981,
  0x3F88980F, 0x3F88F6DD, 0x3F8955EE, 0x3F89B541, 0x3F8A14D5, 0x3F8A74AD, 0x3F8AD4C6, 0x3F8B3523,
  0x3F8B95C2, 0x3F8BF6A4, 0x3F8C57CA, 0x3F8CB933, 0x3F8D1ADF, 0x3F8D7CD0, 0x3F8DDF04, 0x3F8E417D,
  0x3F8EA43A, 0x3F8F073B, 0x3F8F6A81, 0x3F8FCE0C, 0x3F9031DC, 0x3F9095F2, 0x3F90FA4D, 0x3F915EED,
  0x3F91C3D3, 0x3F922900, 0x3F928E72, 0x3F92F42C, 0x3F935A2B, 0x3F93C072, 0x3F9426FF, 0x3F948DD4,
  0x3F94F4F0, 0x3F955C53, 0x3F95C3FF, 0x3F962BF2, 0x3F96942D, 0x3F96FCB1, 0x3F97657D, 0x3F97CE92,
  0x3F9837F0, 0x3F98A197, 0x3F990B88, 0x3F9975C2, 0x3F99E046, 0x3F9A4B13, 0x3F9AB62B, 0x3F9B218D,
  0x3F9B8D3A, 0x3F9BF931, 0x3F9C6573, 0x3F9CD201, 0x3F9D3EDA, 0x3F9DABFE, 0x3F9E196E, 0x3F9E872A,
  0x3F9EF532, 0x3F9F6387, 0x3F9FD228, 0x3FA04116, 0x3FA0B051, 0x3FA11FD9, 0x3FA18FAF, 0x3FA1FFD2,
  0x3FA27043, 0x3FA2E102, 0x3FA3520F, 0x3FA3C36B, 0x3FA43516, 0x3FA4A70F, 0x3FA51958, 0x3FA58BEF,
  0x3FA5FED7, 0x3FA6720E, 0x3FA6E595, 0x3FA7596C, 0x3FA7CD94, 0x3FA8420C, 0x3FA8B6D5, 0x3FA92BEF,
  0x3FA9A15B, 0x3FAA1718, 0x3FAA8D26, 0x3FAB0387, 0x3FAB7A3A, 0x3FABF13F, 0x3FAC6897, 0x3FACE041,
  0x3FAD583F, 0x3FADD090, 0x3FAE4934, 0x3FAEC22D, 0x3FAF3B79, 0x3FAFB519, 0x3FB02F0E, 0x3FB0A957,
  0x3FB123F6, 0x3FB19EE9, 0x3FB21A32, 0x3FB295D0, 0x3FB311C4, 0x3FB38E0E, 0x3FB40AAF, 0x3FB487A6]

/-- The table T of R121, entries 128 to 255. -/
def e2fTab2 : List Nat := [
  0x3FB504F3, 0x3FB58298, 0x3FB60094, 0x3FB67EE7, 0x3FB6FD92, 0x3FB77C95, 0x3FB7FBF0, 0x3FB87BA3,
  0x3FB8FBAF, 0x3FB97C14, 0x3FB9FCD2, 0x3FBA7DEA, 0x3FBAFF5B, 0x3FBB8126, 0x3FBC034A, 0x3FBC85CA,
  0x3FBD08A4, 0x3FBD8BD8, 0x3FBE0F68, 0x3FBE9353, 0x3FBF179A, 0x3FBF9C3C, 0x3FC0213B, 0x3FC0A695,
  0x3FC12C4D, 0x3FC1B261, 0x3FC238D2, 0x3FC2BFA1, 0x3FC346CD, 0x3FC3CE57, 0x3FC4563F, 0x3FC4DE85,
  0x3FC5672A, 0x3FC5F02E, 0x3FC67991, 0x3FC70353, 0x3FC78D75, 0x3FC817F7, 0x3FC8A2D8, 0x3FC92E1B,
  0x3FC9B9BE, 0x3FCA45C1, 0x3FCAD226, 0x3FCB5EED, 0x3FCBEC15, 0x3FCC799F, 0x3FCD078C, 0x3FCD95DA,
  0x3FCE248C, 0x3FCEB3A1, 0x3FCF4319, 0x3FCFD2F4, 0x3FD06334, 0x3FD0F3D7, 0x3FD184DF, 0x3FD2164C,
  0x3FD2A81E, 0x3FD33A54, 0x3FD3CCF1, 0x3FD45FF3, 0x3FD4F35B, 0x3FD58729, 0x3FD61B5E, 0x3FD6AFFA,
  0x3FD744FD, 0x3FD7DA67, 0x3FD87039, 0x3FD90673, 0x3FD99D16, 0x3FDA3421, 0x3FDACB94, 0x3FDB6371,
  0x3FDBFBB8, 0x3FDC9468, 0x3FDD2D82, 0x3FDDC706, 0x3FDE60F5, 0x3FDEFB4E, 0x3FDF9613, 0x3FE03143,
  0x3FE0CCDF, 0x3FE168E7, 0x3FE2055B, 0x3FE2A23C, 0x3FE33F89, 0x3FE3DD44, 0x3FE47B6D, 0x3FE51A03,
  0x3FE5B907, 0x3FE65879, 0x3FE6F85B, 0x3FE798AB, 0x3FE8396A, 0x3FE8DA99, 0x3FE97C38, 0x3FEA1E47,
  0x3FEAC0C7, 0x3FEB63B7, 0x3FEC0719, 0x3FECAAEC, 0x3FED4F30, 0x3FEDF3E7, 0x3FEE9910, 0x3FEF3EAB,
  0x3FEFE4BA, 0x3FF08B3B, 0x3FF13231, 0x3FF1D99A, 0x3FF28177, 0x3FF329C9, 0x3FF3D290, 0x3FF47BCC,
  0x3FF5257D, 0x3FF5CFA4, 0x3FF67A41, 0x3FF72555, 0x3FF7D0DF, 0x3FF87CE1, 0x3FF9295A, 0x3FF9D64A,
  0x3FFA83B3, 0x3FFB3194, 0x3FFBDFED, 0x3FFC8EC0, 0x3FFD3E0C, 0x3FFDEDD2, 0x3FFE9E11, 0x3FFF4ECB]

/-- `T[i]` of R121. -/
def e2fT (i : Nat) : Nat := if i < 128 then e2fTab1.getD i 0 else e2fTab2.getD (i - 128) 0

/-- E2F (R121). -/
def e2f (x : Nat) : Nat :=
  match fVal x with
  | .nan => fNan
  | .inf neg => if neg then 0 else 0x7F7FFFFF
  | .fin m e =>
    if (Ext.fin (-150) 0).lt (.fin m e) = false then 0
    else if (Ext.fin m e).lt (.fin 128 0) = false then 0x7F7FFFFF
    else
      -- x = N / 2^s exactly, s = 149 covers every FP32 value
      let g : Int := m * ipow2 (e + 149)
      let n : Int := g / (2 : Int) ^ 149
      let f : Int := g - n * (2 : Int) ^ 149
      let i : Int := f / (2 : Int) ^ 141
      let r := rnFin (f - i * (2 : Int) ^ 141) (-149)
      let w := fMul (fAdd (fMul 0x3E75FDF0 r) 0x3F317218) r
      let t := e2fT i.toNat
      let y := fAdd t (fMul t w)
      match fVal y with
      | .fin a b =>
        let z := Ext.fin a (b + n)
        if z.lt (.fin 1 (-126)) then 0
        else if (Ext.fin 0xFFFFFF 104).lt z then 0x7F7FFFFF
        else rn z
      | _ => fNan

/-- `SCALE`: the FP32 value nearest 1/sqrt(HEAD_DIM), for the head dimensions 32 to 256 by 32 (05, Inside a granule). -/
def scaleTab : List Nat := [0x3E3504F3, 0x3E000000, 0x3DD105EC, 0x3DB504F3, 0x3DA1E89B, 0x3D93CD3A, 0x3D88D677, 0x3D800000]

/-- `SCALE` of a head dimension. -/
def scaleOf (d : Nat) : Nat := scaleTab.getD (d / 32 - 1) 0

end Sys2Proof.Machine
end

