-- ==== Sys2Proof/Machine/Formats.lean ====
section
/-! DEFINITION. The eight number formats (R148, R149), their block scales (R150), widening (R152) and narrowing (R153 to R155). -/

namespace Sys2Proof.Machine

/-- Width in bits of a format code (R148). -/
def fmtBits (c : Nat) : Nat :=
  match c with
  | 0 => 32
  | 1 => 16
  | 2 => 16
  | 3 => 8
  | 4 => 8
  | 5 => 8
  | 6 => 4
  | _ => 4

/-- Formats with block scales (R148). -/
def fmtScaled (c : Nat) : Bool := 3 ≤ c && c ≤ 7

/-- Precision in bits and exponent of the smallest positive value of a floating format (R148). -/
def fmtGrid (c : Nat) : Nat × Int :=
  match c with
  | 1 => (8, -133)
  | 2 => (11, -24)
  | 3 => (4, -9)
  | 4 => (3, -16)
  | 6 => (2, -1)
  | _ => (24, -149)

/-- Largest finite value of a floating format below FP32, as `m * 2^e` (R148). -/
def fmtMax (c : Nat) : Nat × Int :=
  match c with
  | 1 => (255, 120)
  | 2 => (2047, 5)
  | 3 => (14, 5)
  | 4 => (7, 13)
  | _ => (3, 1)

/-- A floating element of `p` bits of precision, exponent field from bit `p - 1`, as an exact value; specials aside. -/
def fltVal (p w : Nat) (emin : Int) (x : Nat) : Ext :=
  let fr := bits x 0 (p - 1)
  let ex := bits x (p - 1) (w - p)
  let m : Int := if ex = 0 then fr else fr + 2 ^ (p - 1)
  .fin (if bitAt x (w - 1) then -m else m) (if ex = 0 then emin else emin + ex - 1)

/-- The value of an element's encoding, without its block scale (R148, R149). -/
def elemVal (c x : Nat) : Ext :=
  match c with
  | 0 => fVal x
  | 1 => fVal (x * 0x10000)
  | 2 =>
    if bits x 10 5 = 31 then (if bits x 0 10 = 0 then .inf (bitAt x 15) else .nan)
    else fltVal 11 16 (-24) x
  | 3 => if bits x 0 7 = 0x7F then .nan else fltVal 4 8 (-9) x
  | 4 =>
    if bits x 2 5 = 31 then (if bits x 0 2 = 0 then .inf (bitAt x 7) else .nan)
    else fltVal 3 8 (-16) x
  | 5 => .fin (signed 8 x) (-6)
  | 6 => fltVal 2 4 (-1) x
  | _ => .fin (signed 4 x) (-2)

/-- The value of a scale byte (R150). -/
def scaleVal (e : Nat) : Ext := if e = 0xFF then .nan else .fin 1 ((e : Int) - 127)

/-- The FP32 pattern of an exact value that FP32 holds, zeros and subnormals kept; `neg` gives the sign of a zero (R152). -/
def exactBits (neg : Bool) (v : Ext) : Nat :=
  match v with
  | .nan => fNan
  | .inf s => if s then fNegInf else fPosInf
  | .fin m e =>
    let a := m.natAbs
    let sgn := if neg then 0x80000000 else 0
    if a = 0 then sgn
    else
      let q := max (e + (bitLen a : Int) - 24) (-149)
      let n := rneShift a (q - e)
      if n < 0x800000 then sgn + n else sgn + ((q + 150).toNat * 0x800000 + (n - 0x800000))

/-- Widening an unscaled element to FP32: exact, every NaN canonical (R152). -/
def widen (c x : Nat) : Nat :=
  match c with
  | 0 => if fIsNan x then fNan else x
  | 1 => if fIsNan (x * 0x10000) then fNan else x * 0x10000
  | _ => exactBits (bitAt x (fmtBits c - 1)) (elemVal c x)

/-- Widening a scaled element on its own: `rn` of the exact product (R150). -/
def widenScaled (c x e : Nat) : Nat := rn ((elemVal c x).mul (scaleVal e))

/-- A magnitude `m * 2^e` rounded to nearest even onto the grid of a floating format, extended without upper bound: `n * 2^q`. -/
def roundGrid (c : Nat) (m : Nat) (e : Int) : Nat × Int :=
  let (p, emin) := fmtGrid c
  if m = 0 then (0, emin)
  else
    let q := max (e + (bitLen m : Int) - p) emin
    let n := rneShift m (q - e)
    if n = 2 ^ p then (2 ^ (p - 1), q + 1) else (n, q)

/-- The encoding of `n * 2^q` on a format's grid, without its sign. -/
def encGrid (c n : Nat) (q : Int) : Nat :=
  let (p, emin) := fmtGrid c
  if n < 2 ^ (p - 1) then n
  else (q - emin + 1).toNat * 2 ^ (p - 1) + (n - 2 ^ (p - 1))

/-- Does `n * 2^q` exceed the largest finite value of a format. -/
def overMax (c n : Nat) (q : Int) : Bool :=
  let (m, e) := fmtMax c
  (Ext.fin m e).lt (.fin n q)

/-- What a narrowing gives: encoding, clipped, counted as non-finite. -/
structure Narrowed where
  enc : Nat
  clip : Bool
  nonfin : Bool
  deriving DecidableEq, Repr

/-- Narrowing an FP32 value to BF16 or FP16 (R153). -/
def narrow16 (c v : Nat) : Narrowed :=
  let neg := bitAt v 31
  let sgn := if neg then 0x8000 else 0
  match fVal v with
  | .nan => ⟨if c = 1 then 0x7FC0 else 0x7E00, false, true⟩
  | .inf _ => ⟨sgn + (if c = 1 then 0x7F80 else 0x7C00), false, true⟩
  | .fin m e =>
    if m = 0 then ⟨sgn, false, false⟩
    else
      let (n, q) := roundGrid c m.natAbs e
      if overMax c n q then
        let (a, b) := fmtMax c
        ⟨sgn + encGrid c a b, true, false⟩
      else if c = 1 && n < 128 then ⟨0, false, false⟩
      else ⟨sgn + encGrid c n q, false, false⟩

/-- Exponent of the element format's largest finite value (R154). -/
def fmtEmax (c : Nat) : Int :=
  match c with
  | 3 => 8
  | 4 => 15
  | 6 => 2
  | _ => 0

/-- floor(log2 |v|) of a finite non-zero FP32 value, subnormal included. -/
def floorLog2 (v : Nat) : Int :=
  match fVal v with
  | .fin m e => e + (bitLen m.natAbs : Int) - 1
  | _ => 0

/-- The scale byte of a block (R154). -/
def blockScale (c : Nat) (vs : List Nat) : Nat :=
  if vs.any fNonFinite then 0xFF
  else
    let nz := vs.filter fun v => v % 0x80000000 != 0
    match nz with
    | [] => 0x7F
    | v :: t =>
      let top := t.foldl (fun a x => max a (floorLog2 x)) (floorLog2 v)
      (min (max (top - fmtEmax c + 127) 0) 0xFE).toNat

/-- One element of a block whose scale byte is `e` (R155). -/
def narrowElem (c e v : Nat) : Narrowed :=
  match fVal v with
  | .fin m x =>
    let y := x - ((e : Int) - 127)
    let neg := bitAt v 31
    if c = 5 || c = 7 then
      let lim := if c = 5 then 127 else 7
      let n := rneShift m.natAbs (-(y + (if c = 5 then 6 else 2)))
      let k := min n lim
      ⟨if k = 0 then 0 else if neg then 2 ^ fmtBits c - k else k, lim < n, false⟩
    else
      let sgn := if neg then 2 ^ (fmtBits c - 1) else 0
      let (n, q) := roundGrid c m.natAbs y
      if overMax c n q then
        let (a, b) := fmtMax c
        ⟨sgn + encGrid c a b, true, false⟩
      else ⟨sgn + encGrid c n q, false, false⟩
  | _ => ⟨0, false, true⟩

/-- A narrowed row: element encodings, scale bytes (one for each 32 elements of a scaled format), and the counts of R156. -/
structure Row where
  elems : List Nat
  scales : List Nat
  conv : Nat
  clip : Nat
  nonfin : Nat
  deriving DecidableEq, Repr

/-- Narrowing a block of 32 to a scaled format (R154, R155). -/
def narrowBlock (c : Nat) (vs : List Nat) : Row :=
  let e := blockScale c vs
  if e = 0xFF then ⟨vs.map fun _ => 0, [0xFF], vs.length, 0, vs.length⟩
  else
    let l := vs.map (narrowElem c e)
    ⟨l.map (·.enc), [e], vs.length, (l.filter (·.clip)).length, 0⟩

/-- Joining narrowed rows. -/
def Row.append (a b : Row) : Row :=
  ⟨a.elems ++ b.elems, a.scales ++ b.scales, a.conv + b.conv, a.clip + b.clip, a.nonfin + b.nonfin⟩

/-- Narrowing a row of FP32 values to a format (R153 to R156); format 0 stores it and counts nothing (R156). -/
def narrowRow (c : Nat) (vs : List Nat) : Row :=
  if c = 0 then ⟨vs, [], 0, 0, 0⟩
  else if c = 1 || c = 2 then
    let l := vs.map (narrow16 c)
    ⟨l.map (·.enc), [], vs.length, (l.filter (·.clip)).length, (l.filter (·.nonfin)).length⟩
  else ((chunksOf 32 (vs.length / 32 + 1) vs).map (narrowBlock c)).foldl Row.append ⟨[], [], 0, 0, 0⟩

/-- Elements packed into bytes: in a 4-bit format the element with even index lies in bits [3:0] (R79). -/
def packElems (c : Nat) (l : List Nat) : Bytes :=
  match fmtBits c with
  | 32 => l.flatMap (leBytes 4)
  | 16 => l.flatMap (leBytes 2)
  | 8 => l.flatMap (leBytes 1)
  | _ => (chunksOf 2 (l.length / 2 + 1) l).map fun p => BitVec.ofNat 8 (p.getD 0 0 + 16 * p.getD 1 0)

/-- `n` elements of a format read from packed bytes. -/
def unpackElems (c n : Nat) (b : Bytes) : List Nat :=
  match fmtBits c with
  | 32 => (List.range n).map fun i => field b (4 * i) 4
  | 16 => (List.range n).map fun i => field b (2 * i) 2
  | 8 => (List.range n).map fun i => byteAt b i
  | _ => (List.range n).map fun i => byteAt b (i / 2) / (if i % 2 = 0 then 1 else 16) % 16

/-- Element `x` of a row with its block scale, as an exact value (R150). -/
def rowVal (c : Nat) (elems scales : List Nat) (x : Nat) : Ext :=
  let v := elemVal c (elems.getD x 0)
  if fmtScaled c then v.mul (scaleVal (scales.getD (x / 32) 0xFF)) else v

end Sys2Proof.Machine
end

