-- ==== Sys2Proof/Machine/Pages.lean ====
section
/-! DEFINITION. Pages and terrace 1: the shape of a page (R79), FPNs (R81), the address map (R196), allocation (R200), slices and their quota (R87, R339),
reads and writes of lines with poison (R223, R224), parity updates (R357, R358). -/

namespace Sys2Proof.Machine

/-! FPNs and the map. -/

/-- This node's ID. -/
def nodeId (n : Node) : Nat := rd n Rg.nidNodeNodeId

/-- The node an FPN names (R81). -/
def fpnNode (f : Nat) : Nat := f / 2 ^ 32 % 2 ^ 13

/-- The local page index of an FPN. -/
def fpnIdx (f : Nat) : Nat := f % 2 ^ 32

/-- The local page index that names no page (R81). -/
abbrev noPage : Nat := 0xFFFFFFFF

/-- The FPN of a page. -/
def mkFpn (node idx : Nat) : Nat := node * 2 ^ 32 + idx

/-- The state of a node in the current map; 3 (OUT) for a node it does not hold. -/
def nodeState (n : Node) (k : Nat) : Nat :=
  match mget? n.map.map.nodes k with
  | some e => e.state
  | none => 3

/-- Is a node in the current map, as R92 and R265 ask: IN or DRAINING (R342). -/
def inMap (n : Node) (k : Nat) : Bool := nodeState n k == 1 || nodeState n k == 2

/-- The slices of a composition on a node. -/
def slicesOn (n : Node) (comp k : Nat) : List SliceF := n.map.map.slices.filter fun s => s.comp == comp && s.node == k

/-- Does the composition hold a slice on a node. -/
def holdsSlice (n : Node) (comp k : Nat) : Bool := !(slicesOn n comp k).isEmpty

/-- The composition of a sequence handle (R77). -/
def compOf (seq : Nat) : Nat := seq / 2 ^ 48 % 2 ^ 16

/-- Does pseudo-channel `p` lie in a group of the composition's slices on this node (R339). -/
def pchInComp (n : Node) (comp p : Nat) : Bool := (slicesOn n comp (nodeId n)).any fun s => bitAt s.pchg (p / 16)

/-- Does cluster `c` belong to the composition's slices on this node (R339). -/
def clusterInComp (n : Node) (comp c : Nat) : Bool := (slicesOn n comp (nodeId n)).any fun s => bitAt s.clusters c

/-! The shape of a page (R79). -/

/-- Bytes of a data section. -/
def dataSec (h d f : Nat) : Nat := 64 * h * d * fmtBits f / 8

/-- Bytes of a scale section. -/
def scaleSec (h d f : Nat) : Nat := if fmtScaled f then 64 * h * d / 32 else 0

/-- The footprint: the sections, rounded up to 4 KiB. -/
def footprint (h d kf vf : Nat) : Nat :=
  cdiv (dataSec h d kf + dataSec h d vf + scaleSec h d kf + scaleSec h d vf) 4096 * 4096

/-- Offset of row (h, t) in a page, with its length: K data (0), V data (1), K scales (2), V scales (3). -/
def rowPlace (heads d kf vf sec h t : Nat) : Nat × Nat :=
  let k := dataSec heads d kf
  let v := dataSec heads d vf
  let row f := d * fmtBits f / 8
  let srow f := if fmtScaled f then d / 32 else 0
  match sec with
  | 0 => ((h * 64 + t) * row kf, row kf)
  | 1 => (k + (h * 64 + t) * row vf, row vf)
  | 2 => (k + v + (h * 64 + t) * srow kf, srow kf)
  | _ => (k + v + scaleSec heads d kf + (h * 64 + t) * srow vf, srow vf)

/-! Terrace 1 (R196). -/

/-- Bytes of a pseudo-channel. -/
abbrev pchBytes : Nat := 0x30000000

/-- Bytes of terrace 1. -/
abbrev t1Bytes : Nat := 0xC000000000

/-- The pseudo-channel of a terrace-1 address. -/
def pchOf (a : Nat) : Nat := a / pchBytes

/-- Is a pseudo-channel in service: neither retired nor being retired (R236). -/
def pchInService (n : Node) (p : Nat) : Bool :=
  p < 1024 && !n.mic.stacksOut.contains (p / 128) && !n.mic.retired.contains p && !n.mic.retiring.any (·.pch == p)

/-- Runs of a pseudo-channel that hold pages, what else is held, or the sources of moves not yet freed (R201). -/
def heldRuns (n : Node) (p : Nat) : List (Nat × Nat) :=
  ((n.ter.pages.filterMap fun e => if e.2.terrace == 1 then some (e.2.addr, e.2.foot) else none)
    ++ (n.ter.holds.map fun h => (h.addr, h.len))
    ++ (n.ter.freed.filterMap fun r => if r.2.1 == 1 then some (r.2.2.1, r.2.2.2) else none)).filter fun r => pchOf r.1 == p

/-- The frame runs in use in a pseudo-channel: those that hold something, and firmware's scratch and frames in the BSU state,
which node writes could not reach (R187, R190). -/
def busyRuns (n : Node) (p : Nat) : List (Nat × Nat) :=
  let held := heldRuns n p
  let owned : List (Nat × Nat) := (n.bsu.frames.filter fun f : Nat × Nat => 2 ≤ f.2).map fun f => (f.1, 4096)
  held ++ ((n.bsu.scratch ++ owned).filter fun r =>
    pchOf r.1 == p && !held.any fun x => x.1 ≤ r.1 && r.1 < x.1 + x.2)

/-- Free frames of a pseudo-channel. -/
def freeFrames (n : Node) (p : Nat) : Nat := 196608 - ((busyRuns n p).map fun r => r.2 / 4096).foldl (· + ·) 0

/-- Do two byte ranges overlap. -/
def overlaps (a la b lb : Nat) : Bool := a < b + lb && b < a + la

/-- The lowest free run of `len` bytes of frames in a pseudo-channel (R197). DESIGN CHOICE, unsafe: the choice among runs (log entry 27). -/
def freeRun (n : Node) (p len : Nat) : Option Nat :=
  let busy := busyRuns n p
  leastBy id ((p * pchBytes :: busy.map fun r => r.1 + r.2).filter fun a =>
    a + len ≤ (p + 1) * pchBytes && !busy.any fun r => overlaps a len r.1 r.2)

/-- Free frames of terrace 1 in service. -/
def t1Free (n : Node) : Nat := ((List.range 1024).filter (pchInService n)).foldl (fun a p => a + freeFrames n p) 0

/-- Frames of terrace 1 in service. -/
def t1Total (n : Node) : Nat := ((List.range 1024).filter (pchInService n)).length * 196608

/-- May a channel be taken for a composition's page (R200). -/
def pchTakes (n : Node) (comp len p : Nat) : Bool :=
  pchInService n p && pchInComp n comp p && (freeRun n p len).isSome

/-- The pseudo-channel and first frame of a new page: the named channel, the channel of the page before it in its granule, else the channel of the
composition's groups with the most free frames, the lowest number on ties (R200). -/
def placeRun (n : Node) (comp len : Nat) (named prev : Option Nat) : Option Nat :=
  let first := (named.toList ++ prev.toList).find? (pchTakes n comp len)
  match first with
  | some p => freeRun n p len
  | none =>
    match leastBy (fun p => 196608 - freeFrames n p) ((List.range 1024).filter (pchTakes n comp len)) with
    | some p => freeRun n p len
    | none => none

/-! Quota (R87). -/

/-- The page quota of a composition's slices on this node. -/
def quotaOf (n : Node) (comp : Nat) : Nat := ((slicesOn n comp (nodeId n)).map (·.quota)).foldl (· + ·) 0

/-- Frames of pages charged outside reservations. -/
def chargedOut (n : Node) (comp : Nat) : Nat :=
  (n.ter.pages.filterMap fun e => if e.2.charged && e.2.comp == comp then some (e.2.foot / 4096) else none).foldl (· + ·) 0

/-- Reservations of the composition's sequences homed here. -/
def reservedFor (n : Node) (comp : Nat) : Nat :=
  (n.seqs.open_.filterMap fun e => if compOf e.1 == comp then some e.2.reserved else none).foldl (· + ·) 0

/-- The unreserved quota of a composition's slice on this node. -/
def unreserved (n : Node) (comp : Nat) : Nat := quotaOf n comp - (reservedFor n comp + chargedOut n comp)

/-! Protected units (R356, R357). -/

/-- This node's protection group, with its number. -/
def groupOf (n : Node) : Option (Nat × Group) :=
  match mget? n.map.map.nodes (nodeId n) with
  | some e => (mget? n.map.map.groups e.group).map fun g => (e.group, g)
  | none => none

/-- The index of this node in its group. -/
def gindexOf (n : Node) : Nat :=
  match mget? n.map.map.nodes (nodeId n) with
  | some e => e.gindex
  | none => 0

/-- The indices, rising, whose members hold data units of stripe `s`. -/
def dataIdx (s : Nat) : List Nat := (List.range 10).filter fun i => i != s % 10 && i != (s + 1) % 10

/-- The stripes of one decade in which member `i` holds data. -/
def dataStripes (i : Nat) : List Nat := (List.range 10).filter fun s => (dataIdx s).contains i

/-- The stripe of the `q`-th data unit of member `i`. -/
def stripeOf (i q : Nat) : Nat := q / 8 * 10 + (dataStripes i).getD (q % 8) 0

/-- Data units of a member among its protected units. -/
def dataUnits (i units : Nat) : Nat := units / 10 * 8 + ((dataStripes i).filter (· < units % 10)).length

/-- The lowest free run of `k` data units on this node. -/
def freeUnits (n : Node) (k : Nat) : Option Nat :=
  match groupOf n with
  | none => none
  | some (_, g) =>
    let busy := n.ter.pages.filterMap fun e => e.2.unit.map fun u => (u, e.2.foot / 4096)
    leastBy id ((0 :: busy.map fun r => r.1 + r.2).filter fun a =>
      a + k ≤ dataUnits (gindexOf n) g.units && !busy.any fun r => overlaps a k r.1 r.2)

/-! Allocating a page (R80, R200). -/

/-- What a new page is for. -/
structure PageUse where
  seq : Nat
  home : Nat
  place : Option (Nat × Nat × Nat)
  kf : Nat
  vf : Nat
  heads : Nat
  dim : Nat
  charged : Bool
  prot : Bool
  bias : Int
  lowest : Nat
  deriving DecidableEq, Repr

/-- The first local page index from `k` that names no page; `fuel` bounds the search. -/
def freeIdx (n : Node) : Nat → Nat → Nat
  | 0, k => k
  | f + 1, k => if mhas n.ter.pages k || k == noPage then freeIdx n f (k + 1) else k

/-- Enter a page at an address of terrace 1 in the page table, zeroed, free of poison (R80, R223). -/
def enterPage (t : Tck) (n : Node) (idx a : Nat) (u : PageUse) (unit : Option Nat) : Node :=
  let foot := footprint u.heads u.dim u.kf u.vf
  let e : PageEnt := {
    terrace := 1, addr := a, foot := foot, seq := u.seq, place := u.place, home := u.home, unit := unit, pref := false,
    kf := u.kf, vf := u.vf, heads := u.heads, dim := u.dim, fill := 0, charged := u.charged, comp := compOf u.seq, pin := 0, bias := u.bias,
    lowest := u.lowest, heat := 0, decayAt := t.tick, lastRead := t.tick, settled := none }
  { n with
    t1 := Mem.clear n.t1 a foot
    mic := { n.mic with poison := n.mic.poison.filter fun x => x.1 < a || a + foot ≤ x.1 }
    ter := { n.ter with pages := mset n.ter.pages idx e, nextPage := max n.ter.nextPage (idx + 1) } }

/-- Allocate a page: its local index and the node, or nothing while no run or protected unit is free. -/
def allocPage (t : Tck) (n : Node) (u : PageUse) (named prev : Option Nat) : Option (Nat × Node) :=
  let foot := footprint u.heads u.dim u.kf u.vf
  match placeRun n (compOf u.seq) foot named prev with
  | none => none
  | some a =>
    let idx := freeIdx n (n.ter.pages.length + 2) n.ter.nextPage
    if u.prot then
      match freeUnits n (foot / 4096) with
      | none => none
      | some q => some (idx, enterPage t n idx a u (some q))
    else some (idx, enterPage t n idx a u none)

/-! Reading and writing lines. -/

/-- Poison of the terrace-1 lines of a range: the kind of the first poisoned line; a retired channel reads as memory poison (R236). -/
def t1Poison (n : Node) (a len : Nat) : Option Nat :=
  if n.mic.retired.contains (pchOf a) then some 1
  else (n.mic.poison.find? fun x => a / 64 * 64 ≤ x.1 && x.1 < a + len).map (·.2)

/-- Count an access to a retired channel (R236). -/
def retiredAccess (t : Tck) (n : Node) (a : Nat) : Node :=
  if n.mic.retired.contains (pchOf a) then raise t (bump n Rg.micPoisonRetired 1) evPchRetiredAccess [] else n

/-- Split a write at line boundaries; `fuel` bounds the pieces. -/
def lineParts : Nat → Nat → Bytes → List (Nat × Bytes)
  | 0, _, _ => []
  | f + 1, a, b => if b.isEmpty then [] else (a, b.take (64 - a % 64)) :: lineParts f (a + (64 - a % 64)) (b.drop (64 - a % 64))

/-- The 4 KiB frame of a terrace-1 address. -/
def frameOf (a : Nat) : Nat := a / 4096 * 4096

/-- Is a frame of node firmware's scratch. -/
def isScratch (n : Node) (f : Nat) : Bool := n.bsu.scratch.any fun r => r.1 ≤ f && f < r.1 + r.2

/-- Is a frame in the BSU state, or on its way there (R187, R188). -/
def bsuOwned (n : Node) (a : Nat) : Bool := 2 ≤ mgetD n.bsu.frames (frameOf a) 0 || isScratch n (frameOf a)

/-- Write a piece within one line: held while its frame is in the BSU state (R188, R190), discarded in a retired channel (R236) or on part of a poisoned line
(R224); a whole line clears poison (R224). Answers the kind of poison that discarded it. -/
def lineWrite (t : Tck) (n : Node) (a : Nat) (b : Bytes) : Node × Option Nat :=
  let l := a / 64 * 64
  if bsuOwned n a then ({ n with bsu := { n.bsu with held := n.bsu.held ++ [(a, b)] } }, none)
  else if n.mic.retired.contains (pchOf a) then (retiredAccess t n a, none)
  else
    let n1 := { n with t1 := Mem.write 0 n.t1 a b }
    match mget? n.mic.poison l with
    | none => (n1, none)
    | some k =>
      if b.length = 64 then ({ n1 with mic := { n1.mic with poison := mdel n1.mic.poison l } }, none)
      else (bump n Rg.micPoisonPartialWr 1, some k)

/-- Write bytes of terrace 1; answers the first kind of poison that discarded a piece. -/
def t1Write (t : Tck) (n : Node) (a : Nat) (b : Bytes) : Node × Option Nat :=
  (lineParts (b.length / 64 + 2) a b).foldl
    (fun s p =>
      let (m, k) := lineWrite t s.1 p.1 p.2
      (m, s.2.orElse fun _ => k))
    (n, none)

/-- The page of a local index. -/
def pageAt (n : Node) (idx : Nat) : Option PageEnt := mget? n.ter.pages idx

/-- Bytes of a page, wherever it lies. -/
def pageRead (n : Node) (e : PageEnt) (off len : Nat) : Bytes :=
  if e.terrace = 1 then Mem.read 0 n.t1 (e.addr + off) len else Mem.read 0 n.ter.t3 (e.addr + off) len

/-- Poison of a range of a page. -/
def pagePoison (n : Node) (e : PageEnt) (off len : Nat) : Option Nat :=
  if e.terrace = 1 then t1Poison n (e.addr + off) len
  else (n.mic.poison3.find? fun x => (e.addr + off) / 64 * 64 ≤ x.1 && x.1 < e.addr + off + len).map (·.2)

/-- The poisoned lines of a page, as (offset, kind): all of them in a retired channel (R225, R236). -/
def pagePoisonLines (n : Node) (e : PageEnt) : List (Nat × Nat) :=
  if e.terrace = 1 && n.mic.retired.contains (pchOf e.addr) then (List.range (e.foot / 64)).map fun i => (64 * i, 1)
  else (if e.terrace = 1 then n.mic.poison else n.mic.poison3).filterMap fun x =>
    if e.addr ≤ x.1 && x.1 < e.addr + e.foot then some (x.1 - e.addr, x.2) else none

/-- Write lines of a page as poison of their kinds, their bytes 0 (R223, R225). -/
def poisonPage (n : Node) (e : PageEnt) (l : List (Nat × Nat)) : Node :=
  let put (m : NMap Nat) : NMap Nat := l.foldl (fun x p => mset x (e.addr + p.1 / 64 * 64) p.2) m
  let clr (m : Mem) : Mem := l.foldl (fun x p => Mem.clear x (e.addr + p.1 / 64 * 64) 64) m
  if e.terrace = 1 then { n with t1 := clr n.t1, mic := { n.mic with poison := put n.mic.poison } }
  else { n with ter := { n.ter with t3 := clr n.ter.t3 }, mic := { n.mic with poison3 := put n.mic.poison3 } }

/-! Terraces 2 and 3 (R198, R199). -/

/-- Bytes of board memory in service: the DDR5 channels present, less those taken out (R11, R433). -/
def t2Bytes (n : Node) : Nat :=
  ((n.brd.dimms.filter fun d => !n.mic.ddrOut.contains d.1).map fun d => d.2.1).foldl (· + ·) 0

/-- Bytes of the direct partition. -/
def directBytes (n : Node) : Nat := 0x10000000 * rd n Rg.terT2PartDirect

/-- Bytes of the cache partition. -/
def cacheBytes (n : Node) : Nat := t2Bytes n - directBytes n

/-- Bytes of terrace 3 in service. -/
def t3Bytes (n : Node) : Nat := ((n.brd.flash.filter fun d => !n.mic.flashOut.contains d.1).map (·.2)).foldl (· + ·) 0

/-- The byte runs of terrace 3 in use: pages, weight sets, sources of moves not yet freed. -/
def t3Runs (n : Node) : List (Nat × Nat) :=
  (n.ter.pages.filterMap fun e => if e.2.terrace != 1 then some (e.2.addr, e.2.foot) else none)
    ++ (n.wts.sets.map fun w => (w.2.addr, cdiv w.2.len 4096 * 4096))
    ++ (n.ter.freed.filterMap fun r => if r.2.1 != 1 then some (r.2.2.1, r.2.2.2) else none)

/-- Bytes of terrace 3 in use. -/
def t3Used (n : Node) : Nat := ((t3Runs n).map (·.2)).foldl (· + ·) 0

/-- Sectors for `len` bytes of terrace 3, while it has room. Sectors need not be consecutive (R197): their logical addresses are node firmware's own, and
the model gives an object one run of them. DESIGN CHOICE, unsafe: log entry 28. -/
def t3Alloc (n : Node) (len : Nat) : Option Nat :=
  let l := cdiv len 4096 * 4096
  if t3Bytes n < t3Used n + l then none
  else leastBy id ((0 :: (t3Runs n).map fun r => r.1 + r.2).filter fun a => !(t3Runs n).any fun r => overlaps a l r.1 r.2)

/-- Sectors, by number, of a byte range. -/
def sectors (a len : Nat) : List Nat := (List.range ((a + len + 4095) / 4096 - a / 4096)).map (a / 4096 + ·)

/-- Are a layer's blocks of a weight set pinned at terrace 2 or above (R209, R213). -/
def layerPinned (w : WSet) (l : Nat) : Bool := !w.unpinned.contains l || w.pins.any fun p => p.layer == l && p.pinned

/-- Is a terrace-3 sector pinned: a page pinned at terrace 2 or with LOWEST 2 (R206), or a sector that a pinned layer of a weight set needs (R213, R245). -/
def sectorPinned (n : Node) (s : Nat) : Bool :=
  (n.ter.pages.any fun e => e.2.terrace != 1 && (e.2.pin == 2 || e.2.lowest == 2) && e.2.addr ≤ 4096 * s && 4096 * s < e.2.addr + e.2.foot)
    || n.wts.sets.any fun w => w.2.addr ≤ 4096 * s && 4096 * s < w.2.addr + w.2.len
      && w.2.secs.any fun e => layerPinned w.2 e.1 && e.2.contains (s - w.2.addr / 4096)

/-- Does a 64 KiB block hold a pinned sector. -/
def blkPinned (n : Node) (b : Nat) : Bool := (List.range 16).any fun i => sectorPinned n (16 * b + i)

/-- The set of a block: a function the spec does not give. -/
def cacheSetOf (n : Node) (b : Nat) : Nat := Config.cacheSet (cacheBytes n / 0x100000) b

/-- The cache with room for a block: present already, a free way, or the least recently used block of its set with no pinned sector evicted; nothing where the
set holds only pinned blocks, or there is no cache. -/
def cacheRoom (n : Node) (b : Nat) : Option (NMap CacheBlk) :=
  if cacheBytes n < 0x100000 then none
  else if mhas n.ter.cache b || n.ter.cache.length < 16 then some n.ter.cache
  else
    let mates := n.ter.cache.filter fun e => cacheSetOf n e.1 == cacheSetOf n b
    if mates.length < 16 then some n.ter.cache
    else
      match leastBy (fun e : Nat × CacheBlk => e.2.used) (mates.filter fun e => !blkPinned n e.1) with
      | some v => some (mdel n.ter.cache v.1)
      | none => none

/-- A sector that is left in flash alone: one poisoned line poisons it whole, with its kind; where its lines hold both kinds, which one the application tag
records is not said (R225, R228). DESIGN CHOICE, safe: it is free (log entry 19). -/
def coarsen (n : Node) (s : Nat) : Node :=
  match (n.mic.poison3.filter fun x => x.1 / 4096 == s).map (·.2) with
  | [] => n
  | k :: t =>
    let (v, n1) := if t.all (· == k) then (k, n) else (let r := takeFree n; (1 + r.1 % 2, r.2))
    { n1 with
      ter := { n1.ter with t3 := Mem.clear n1.ter.t3 (4096 * s) 4096 }
      mic := { n1.mic with poison3 := (List.range 64).foldl (fun m i => mset m (4096 * s + 64 * i) v) n1.mic.poison3 } }

/-- The blocks that leave the cache leave their sectors in flash alone. -/
def coarsenGone (n : Node) (c : NMap CacheBlk) : Node :=
  (n.ter.cache.filter fun e => !mhas c e.1).foldl (fun m e => (bitList 16 e.2.valid).foldl (fun x i => coarsen x (16 * e.1 + i)) m) n

/-- Bring a sector into the cache, dirty or clean; a write that finds its set full of pinned blocks has waited (R198). -/
def cacheSector (dirty : Bool) (n : Node) (s : Nat) : Node :=
  match cacheRoom n (s / 16) with
  | none => if dirty && 0x100000 ≤ cacheBytes n then bump n Rg.terT2StatusSetFull 1 else n
  | some c =>
    let k := mgetD c (s / 16) ⟨0, 0, n.ter.useSeq⟩
    let b : CacheBlk := ⟨maskOf (s % 16 :: bitList 16 k.valid), if dirty then maskOf (s % 16 :: bitList 16 k.dirty) else k.dirty, n.ter.useSeq⟩
    let n1 := coarsenGone n c
    { n1 with ter := { n1.ter with cache := mset c (s / 16) b, useSeq := n1.ter.useSeq + 1 } }

/-- Drop a sector from the cache; its contents stand in terrace 3. -/
def cacheDrop (n : Node) (s : Nat) : Node :=
  match mget? n.ter.cache (s / 16) with
  | none => n
  | some k =>
    let v := maskOf ((bitList 16 k.valid).filter (· != s % 16))
    let b : CacheBlk := ⟨v, maskOf ((bitList 16 k.dirty).filter (· != s % 16)), k.used⟩
    let n1 := if bitAt k.valid (s % 16) then coarsen n s else n
    { n1 with ter := { n1.ter with cache := if v = 0 then mdel n1.ter.cache (s / 16) else mset n1.ter.cache (s / 16) b } }

/-- Is a sector valid in the cache. -/
def cached (n : Node) (s : Nat) : Bool :=
  match mget? n.ter.cache (s / 16) with
  | some k => bitAt k.valid (s % 16)
  | none => false

/-- The terrace a page lies in (R199). -/
def pageTerrace (n : Node) (e : PageEnt) : Nat :=
  if e.terrace = 1 then 1 else if (sectors e.addr e.foot).all (cached n) then 2 else 3

/-- Write a piece within one line of terraces 2 and 3: a whole line clears poison, part of a poisoned one is discarded (R224). -/
def t3Line (n : Node) (a : Nat) (b : Bytes) : Node × Option Nat :=
  let n1 := { n with ter := { n.ter with t3 := Mem.write 0 n.ter.t3 a b } }
  match mget? n.mic.poison3 (a / 64 * 64) with
  | none => (n1, none)
  | some k =>
    if b.length = 64 then ({ n1 with mic := { n1.mic with poison3 := mdel n1.mic.poison3 (a / 64 * 64) } }, none)
    else (bump n Rg.micPoisonPartialWr 1, some k)

/-- Write bytes of a terrace-3 sector range: into the cache, dirty (R198). Answers the first kind of poison that discarded a piece. -/
def t3Write (n : Node) (a : Nat) (b : Bytes) : Node × Option Nat :=
  let x := (lineParts (b.length / 64 + 2) a b).foldl
    (fun s p =>
      let (m, k) := t3Line s.1 p.1 p.2
      (m, s.2.orElse fun _ => k))
    (n, none)
  ((sectors a b.length).foldl (cacheSector true) x.1, x.2)

/-- Reads of cached sectors count as use of their blocks (R198). -/
def touchSectors (n : Node) (a len : Nat) : Node :=
  let u := n.ter.useSeq
  let hit (b : Nat) : Bool := (sectors a len).any fun s => s / 16 == b && cached n s
  { n with ter := { n.ter with useSeq := u + 1, cache := n.ter.cache.map fun e => if hit e.1 then (e.1, { e.2 with used := u }) else e } }

/-! Parity (R357, R358). -/

/-- Bytewise XOR. -/
def xorBytes (a b : Bytes) : Bytes := List.zipWith (· ^^^ ·) a b

/-- The nodes that take a parity update for index `i` of a group: the member, or nobody while it is lost, and its successor, which applies it to a unit already
rebuilt. -/
def parityNodes (n : Node) (g : Group) (i : Nat) : List Nat :=
  let m := g.members.getD i 0
  if nodeState n m == 4 then
    (match mget? n.map.map.nodes m with
     | some e => if e.successor < 8192 then [e.successor] else []
     | none => [])
  else [m]

/-- The parity updates of a write into one data unit: stripe, offset in the unit, old XOR new. -/
def parityOf (n : Node) (gn : Nat) (g : Group) (home handle q off : Nat) (delta : Bytes) : List (Nat × ParityMsg) :=
  let i := gindexOf n
  let s := stripeOf i q
  let j := (dataIdx s).findIdx (· == i)
  let m : ParityMsg := ⟨nodeId n, home, handle, gn, s, j, off, delta⟩
  (parityNodes n g (s % 10) ++ parityNodes n g ((s + 1) % 10)).map fun k => (k, m)

/-- Wait for `k` more parity acknowledgements of a request. -/
def addAcks (n : Node) (home handle k : Nat) : Node :=
  if k = 0 then n
  else
    let hit (w : AckWait) : Bool := w.home == home && w.handle == handle
    if n.map.ackWaits.any hit then
      { n with map := { n.map with ackWaits := lmodify n.map.ackWaits hit fun w => { w with left := w.left + k } } }
    else { n with map := { n.map with ackWaits := n.map.ackWaits ++ [⟨home, handle, k⟩] } }

/-- Are parity acknowledgements of a request outstanding. -/
def acksLeft (n : Node) (home handle : Nat) : Bool :=
  n.map.ackWaits.any fun w => w.home == home && w.handle == handle && 0 < w.left

/-- Split a write at 4 KiB boundaries of a page; `fuel` bounds the pieces. -/
def unitParts : Nat → Nat → Bytes → List (Nat × Bytes)
  | 0, _, _ => []
  | f + 1, o, b => if b.isEmpty then [] else (o, b.take (4096 - o % 4096)) :: unitParts f (o + (4096 - o % 4096)) (b.drop (4096 - o % 4096))

/-- Old XOR new of a write to a page: a poisoned line contributes nothing (R358). -/
def parityDelta (n : Node) (e : PageEnt) (off : Nat) (b : Bytes) : Bytes :=
  (lineParts (b.length / 64 + 2) (e.addr + off) (xorBytes (pageRead n e off b.length) b)).flatMap fun p =>
    if (pagePoison n e (p.1 - e.addr) p.2.length).isSome then zeros p.2.length else p.2

/-- Write bytes of a page on behalf of a request, with the parity updates of a protected page (R358). Answers the kind of poison that discarded a piece. -/
def pageWrite (t : Tck) (n : Node) (idx off : Nat) (b : Bytes) (home handle : Nat) : Node × Option Nat :=
  match pageAt n idx with
  | none => (n, none)
  | some e =>
    let delta := parityDelta n e off b
    let (n1, k) := if e.terrace = 1 then t1Write t n (e.addr + off) b else t3Write n (e.addr + off) b
    match e.unit, groupOf n with
    | some q, some (gn, g) =>
      let msgs := (unitParts (b.length / 4096 + 2) off delta).flatMap fun p =>
        parityOf n gn g home handle (q + p.1 / 4096) (p.1 % 4096) p.2
      (addAcks (msgs.foldl (fun m x => emit m (.parity x.1 x.2)) n1) home handle msgs.length, k)
    | _, _ => (n1, k)

/-- Note that a page is filled below a place. -/
def fillPage (n : Node) (idx k : Nat) : Node :=
  { n with ter := { n.ter with pages := mmod n.ter.pages idx fun e => { e with fill := max e.fill (min k 64) } } }

/-! Freeing (R94). -/

/-- Free a page of this node: its page-table entry, and with it its frames or sectors. -/
def freePage (n : Node) (idx : Nat) : Node :=
  let n1 := match pageAt n idx with
    | some e => if e.terrace = 1 then n else (sectors e.addr e.foot).foldl cacheDrop n
    | none => n
  { n1 with ter := { n1.ter with pages := mdel n1.ter.pages idx, moves := n1.ter.moves.filter fun m => m.what != .page idx, busy := n1.ter.busy.filter fun m => m.what != .page idx } }

/-! Runs of terrace 1 for objects other than pages. -/

/-- The free runs of a pseudo-channel, lowest first, from its busy runs in rising order. -/
def gapsFrom (lo hi : Nat) : List (Nat × Nat) → List (Nat × Nat)
  | [] => if lo < hi then [(lo, hi - lo)] else []
  | (a, l) :: t => (if lo < a then [(lo, a - lo)] else []) ++ gapsFrom (max lo (a + l)) hi t

/-- Insert a run into runs in rising order. -/
def insertRun (r : Nat × Nat) : List (Nat × Nat) → List (Nat × Nat)
  | [] => [r]
  | x :: t => if r.1 ≤ x.1 then r :: x :: t else x :: insertRun r t

/-- The free runs of a pseudo-channel. -/
def gaps (n : Node) (p : Nat) : List (Nat × Nat) := gapsFrom (p * pchBytes) ((p + 1) * pchBytes) ((busyRuns n p).foldr insertRun [])

/-- Take `len` bytes from free runs in order: the runs taken and the bytes still wanted. -/
def takeGaps (len : Nat) : List (Nat × Nat) → List (Nat × Nat) × Nat
  | [] => ([], len)
  | (a, l) :: t => if len = 0 then ([], 0) else if len ≤ l then ([(a, len)], 0) else let r := takeGaps (len - l) t; ((a, l) :: r.1, r.2)

/-- Frames of terrace 1 for an object of `len` bytes, from the channels given in turn, the lowest free runs first. -/
def takeRuns (n : Node) (len : Nat) : List Nat → Option (List (Nat × Nat))
  | [] => if len = 0 then some [] else none
  | p :: t =>
    let r := takeGaps len (if pchInService n p then gaps n p else [])
    if r.2 = 0 then some r.1 else (takeRuns n r.2 t).map (r.1 ++ ·)

/-- Hold runs of terrace 1. -/
def holdRuns (n : Node) (l : List (Nat × Nat)) : Node :=
  { n with ter := { n.ter with holds := n.ter.holds ++ l.map fun r => ⟨r.1, r.2⟩ } }

/-- Release runs of terrace 1. -/
def dropRuns (n : Node) (l : List (Nat × Nat)) : Node :=
  { n with ter := { n.ter with holds := n.ter.holds.filter fun h => !l.contains (h.addr, h.len) } }

end Sys2Proof.Machine
end

