-- ==== Sys2Proof/Machine/Extents.lean ====
section
/-! DEFINITION. Extents of shared memory as node units reach them (R272, R273): an address within an extent resolves through the extent's map. -/

namespace Sys2Proof.Machine

/-- Bytes of an extent. -/
abbrev extBytes : Nat := 0x10000000

/-- The terrace-1 address at an offset of an extent, through its map. -/
def runAddr : List (Nat × Nat) → Nat → Option Nat
  | [], _ => none
  | (a, l) :: t, o => if o < l then some (a + o) else runAddr t (o - l)

/-- The extent that a terrace-1 name falls in, when it is backed (R273): extent `e` is named by [e × 256 MiB, (e + 1) × 256 MiB).
DESIGN CHOICE, unsafe: log entry 29. -/
def extOfName (n : Node) (a : Nat) : Option (Nat × Extent) :=
  match mget? n.cxd.exts (a / extBytes) with
  | some x => if a < t1Bytes && !x.runs.isEmpty then some (a / extBytes, x) else none
  | none => none

/-- The memory address behind a name: extents through their map, other addresses as they are. -/
def resolve (n : Node) (a : Nat) : Nat :=
  match extOfName n a with
  | some (_, x) => (runAddr x.runs (a % extBytes)).getD a
  | none => a

/-- Read bytes by name. -/
def nameRead (n : Node) (a : Nat) : Nat → Bytes
  | 0 => []
  | k + 1 => Mem.get 0 n.t1 (resolve n a) :: nameRead n (a + 1) k

/-- Does a byte range lie in backed region-0 extents. -/
def inExtents (n : Node) (a len : Nat) : Bool :=
  (List.range (cdiv (a % extBytes + max len 1) extBytes)).all fun k => (extOfName n (a + k * extBytes)).isSome

/-- Are the extents of a byte range held by a head (R274): ASSIGNED with an accepted head. -/
def extentsHeld (n : Node) (a len : Nat) : Bool :=
  (List.range (cdiv (a % extBytes + max len 1) extBytes)).all fun k =>
    match extOfName n (a + k * extBytes) with
    | some (_, x) => x.state == 2 && x.accepted != 0
    | none => false

/-- The frames, by terrace-1 address, that a range of names covers. -/
def nameFrames (n : Node) (a len : Nat) : List Nat :=
  (List.range (cdiv (a % 4096 + len) 4096)).map fun k => frameOf (resolve n (a / 4096 * 4096 + 4096 * k))

/-- What the stack controller keeps for a frame (R187): a frame in an extent's backing is SHARED while nothing else is noted of it. -/
def frameSt (n : Node) (f : Nat) : Nat :=
  match mget? n.bsu.frames f with
  | some v => v
  | none => if n.cxd.exts.any fun e => e.2.runs.any fun r => r.1 ≤ f && f < r.1 + r.2 then 1 else 0

/-- The state of a frame (R187): 0 OPEN, 1 SHARED, 2 BSU, where firmware's scratch always is. -/
def frameKind (n : Node) (f : Nat) : Nat :=
  if isScratch n f then 2
  else match frameSt n f with
  | 0 => 0
  | 4 => 0
  | 1 => 1
  | 5 => 1
  | _ => 2

/-- Set the state of a frame; OPEN and SHARED follow from the extents (R187). -/
def setFrame (n : Node) (f v : Nat) : Node :=
  { n with bsu := { n.bsu with frames := if v ≤ 1 then mdel n.bsu.frames f else mset n.bsu.frames f v } }

/-! Recalls by the node's own units (R281). -/

/-- Is a snoop of a line and head outstanding. -/
def snooped (n : Node) (line h : Nat) : Bool := n.cxd.snoops.any fun s => s.line == line && s.head == h

/-- Send a back-invalidate snoop for a line to a head, counted (R279, R282). -/
def sendSnoop (t : Tck) (n : Node) (line h : Nat) (inv : Bool) : Node :=
  if snooped n line h then n
  else
    let n1 := { n with cxd := { n.cxd with snoops := n.cxd.snoops ++ [⟨line, h, inv, t.notches⟩] } }
    pmc (bump (emit n1 (.biSnp h line inv)) Rg.cxdRecallsCount 1) 50 0x4003 1

/-- Recall a line for a unit of the node: from every holder to write it (`inv`), from a head that holds it in E to read it. -/
def recallLine (t : Tck) (inv : Bool) (n : Node) (line : Nat) : Node :=
  match mget? n.cxd.dir line with
  | some e => if inv || e.excl then (bitList 4 e.heads).foldl (fun m h => sendSnoop t m line h inv) n else n
  | none => n

/-- The first DPA of region 1. -/
abbrev region1 : Nat := 0x10000000000

/-- Does a line still await recall. -/
def lineHeld (n : Node) (inv : Bool) (line : Nat) : Bool :=
  match mget? n.cxd.dir line with
  | some e => inv || e.excl
  | none => false

/-- The lines, by name divided by 64, of a range of names that heads may hold. -/
def heldLines (n : Node) (inv : Bool) (a len : Nat) : List Nat :=
  (n.cxd.dir.map (·.1)).filter fun l => a / 64 ≤ l && l * 64 < a + len && lineHeld n inv l

/-- The lines that heads may hold of terrace-1 frames, whatever names they go by. -/
def heldInFrames (n : Node) (inv : Bool) (fs : List Nat) : List Nat :=
  (n.cxd.dir.map (·.1)).filter fun l => 64 * l < region1 && fs.contains (frameOf (resolve n (64 * l))) && lineHeld n inv l

/-- Recall a range of names: the node with its snoops sent, and whether the range is clear of copies. -/
def recallRange (t : Tck) (inv : Bool) (n : Node) (a len : Nat) : Node × Bool :=
  let l := heldLines n inv a len
  (l.foldl (recallLine t inv) n, l.isEmpty)

/-- Has a range of names been revoked from the head of a requester since that head last accepted its extent (R288). -/
def revokedFrom (n : Node) (r : Req) (a len : Nat) : Bool :=
  match r with
  | .host h _ => (List.range (cdiv (a % extBytes + max len 1) extBytes)).any fun k =>
      match mget? n.cxd.exts (a / extBytes + k) with
      | some x => bitAt x.taken h.val
      | none => false
  | _ => false

end Sys2Proof.Machine
end

