-- ==== Sys2Proof/Machine/Granule.lean ====
section
/-! DEFINITION. The arithmetic of a granule (R113, R114, R117 to R120), partials and their records (R128, R129), the merge (R130), the canonical tree (R131). -/

namespace Sys2Proof.Machine

/-! The shape of a step. -/

/-- What a step's descriptor and chain both carry of its rows and keys. -/
structure Shape where
  rows : Nat
  pos : Nat
  kend : Nat
  ng : Nat
  granule : Nat
  mask : Nat
  winWidth : Nat
  winOff : Nat
  posBase : List Nat
  groups : Nat
  heads : Nat
  qpk : Nat
  dim : Nat
  deriving DecidableEq, Repr

/-- The shape a descriptor carries. -/
def descShape (d : Desc) : Shape :=
  ⟨d.rows, d.pos, d.kend, d.ng, d.granule, d.mask, d.winWidth, d.winOff, d.posBase, d.groups, d.heads, d.qpk, d.dim⟩

/-- The shape a chain carries. -/
def chainShape (d : ChainPost) : Shape :=
  ⟨d.rows, d.pos, d.kend, d.ng, d.granule, d.mask, d.winWidth, d.winOff, d.posBase, d.groups, d.heads, d.qpk, d.dim⟩

/-- Query heads of one head group, and of the step (R104, R105). -/
def Shape.perGroup (s : Shape) : Nat := s.heads * s.qpk

/-- QH. -/
def Shape.qh (s : Shape) : Nat := s.groups * s.perGroup

/-- Positions of a granule (R115). -/
def Shape.span (s : Shape) : Nat := 64 * 2 ^ s.granule

/-- `CAUSAL`, `WINDOW`, `BITMAP`, `BM_ROWS`, `NO_APPEND` (R104). -/
abbrev mCausal : Nat := 0
/-- `WINDOW`. -/
abbrev mWindow : Nat := 1
/-- `BITMAP`. -/
abbrev mBitmap : Nat := 2
/-- `BM_ROWS`. -/
abbrev mBmRows : Nat := 3
/-- `NO_APPEND`. -/
abbrev mNoAppend : Nat := 4

/-- The positions in [lo, hi) that pass the first three conditions of R113 for row `t` of group `g`: first, and one past the last. -/
def Shape.range (s : Shape) (g t lo hi : Nat) : Nat × Nat :=
  let p := s.pos + t
  let w := bitAt s.mask mWindow
  -- with WINDOW: p - off - width < j ≤ p - off; no position passes while p < off
  let wlo := p + 1 - (s.winOff + s.winWidth)
  let whi := if w then p + 1 - s.winOff else s.kend
  let chi := if bitAt s.mask mCausal then p + 1 else s.kend
  (max (max lo (s.posBase.getD g 0)) (if w then wlo else 0), min (min hi s.kend) (min whi chi))

/-- Structural emptiness of row `t`'s pairs of group `g` for the granules of tree node (k, i) (R114, R133). -/
def Shape.empty (s : Shape) (g t k i : Nat) : Bool :=
  let r := s.range g t (i * 2 ^ k * s.span) ((i + 1) * 2 ^ k * s.span)
  r.2 ≤ r.1

/-- Bytes of a bitmap block (R115). -/
def Shape.bmBlock (s : Shape) : Nat :=
  cdiv (if bitAt s.mask mBmRows then s.rows * s.span / 8 else s.span / 8) 64 * 64

/-- The bitmap bit of row `t` and position `j` in a granule's block (R115). -/
def Shape.bmBit (s : Shape) (block : Bytes) (t j : Nat) : Bool :=
  let k := j % s.span
  bitAt (byteAt block ((if bitAt s.mask mBmRows then t * (s.span / 8) else 0) + k / 8)) (k % 8)

/-- The visible positions of page `pg` (positions 64 pg to 64 pg + 63) for row `t` of group `g`, rising (R113). -/
def Shape.visible (s : Shape) (block : Bytes) (g t pg : Nat) : List Nat :=
  let r := s.range g t (64 * pg) (64 * pg + 64)
  ((List.range (r.2 - r.1)).map (r.1 + ·)).filter fun j => !bitAt s.mask mBitmap || s.bmBit block t j

/-! Partials. -/

/-- A partial (m, l, o), FP32 patterns. -/
structure Part where
  m : Nat
  l : Nat
  o : List Nat
  deriving DecidableEq, Repr

/-- The identity partial (R129). -/
def idPart (d : Nat) : Part := ⟨fNegInf, 0, List.replicate d 0⟩

/-- The NaN partial (R129). -/
def nanPart (d : Nat) : Part := ⟨fNan, fNan, List.replicate d fNan⟩

/-- Is m minus infinity. -/
def Part.isId (p : Part) : Bool := p.m == fNegInf

/-- Is m a NaN. -/
def Part.isNan (p : Part) : Bool := fIsNan p.m

/-- What a merge does (R130). -/
structure Merged where
  part : Part
  /-- It needed arithmetic. -/
  arith : Bool
  deriving DecidableEq, Repr

/-- `merge(left, right)` (R130). -/
def mergeParts (a b : Part) : Merged :=
  if a.isNan || b.isNan then ⟨nanPart a.o.length, false⟩
  else if b.isId then ⟨a, false⟩
  else if a.isId then ⟨b, false⟩
  else
    let m := fMax a.m b.m
    let al := e2f (fMul (fSub a.m m) fLog2e)
    let ar := e2f (fMul (fSub b.m m) fLog2e)
    let l := fAdd (fMul a.l al) (fMul b.l ar)
    let o := List.zipWith (fun x y => fAdd (fMul x al) (fMul y ar)) a.o b.o
    if fNonFinite l || o.any fNonFinite then ⟨nanPart a.o.length, true⟩ else ⟨⟨m, l, o⟩, true⟩

/-! Records (R128, R129). -/

/-- The stride of a record. -/
def recStride (d : Nat) : Nat := 64 + 4 * d

/-- NODE of R128: level and index. -/
def nodeCode (k i : Nat) : Nat := k * 2 ^ 27 + i

/-- A partial's record for a tree node, row and query head. -/
def partRecord (p : Part) (k i row q : Nat) : Bytes :=
  leBytes 4 p.m ++ leBytes 4 p.l ++ leBytes 4 (nodeCode k i) ++ leBytes 2 row ++ leBytes 1 q
    ++ leBytes 1 (b2n p.isNan + 2 * b2n p.isId) ++ zeros 48 ++ p.o.flatMap (leBytes 4)

/-- The partial of a record. -/
def recordPart (d : Nat) (r : Bytes) : Part := ⟨field r 0 4, field r 4 4, (List.range d).map fun x => field r (64 + 4 * x) 4⟩

/-- Is a record malformed in itself (R129): its flags, an identity that is not one, reserved bits. -/
def recordBad (d : Nat) (r : Bytes) : Bool :=
  let p := recordPart d r
  let f := byteAt r 15
  f / 4 != 0 || !allZero (slice r 16 48) || bitAt f 0 != p.isNan || bitAt f 1 != p.isId
    || (p.isId && (p.l != 0 || p.o.any (· != 0)))

/-! The tree (R131). -/

/-- K: log2 of the least power of two not below NG. -/
def treeK (ng : Nat) : Nat := clog2 ng

/-- The levels of a tree over a list of leaves, from level `k` down: the root and the number of arithmetic merges. The list is padded with identities. -/
def treeRoot (d : Nat) : Nat → List Part → Part × Nat
  | 0, l => (l.headD (idPart d), 0)
  | k + 1, l =>
    let (a, x) := treeRoot d k (l.take (2 ^ k))
    let (b, y) := treeRoot d k (l.drop (2 ^ k))
    let m := mergeParts a b
    (m.part, x + y + b2n m.arith)

/-! A granule (R117 to R120). -/

/-- Keys and values of a position: the rows of one KV head. -/
structure KeyVal where
  k : HeadRow
  v : HeadRow
  deriving DecidableEq, Repr

/-- The scaled score s' of R117. -/
def score (d kf : Nat) (q : QRow) (k : HeadRow) : Nat :=
  let s := rn (exactSum ((List.range d).map fun x => (rowVal kf q.elems q.scales x).mul (rowVal kf k.elems k.scales x)))
  fMul s (scaleOf d)

/-- A pair's running state in a granule: the partial, whether a value formed was infinite or a NaN (R120), rescales applied. -/
structure Run where
  p : Part
  bad : Bool
  resc : Nat
  deriving DecidableEq, Repr

/-- The weight of a key against a maximum, with the argument's parts (R118). -/
def weight (m s : Nat) : Nat × Bool :=
  let a := fSub s m
  let b := fMul a fLog2e
  (e2f b, fNonFinite a || fNonFinite b)

/-- One block (R118): the visible keys of a page with their scores, against the maximum `mNew`. -/
def blockStep (d vf mNew : Nat) (ks : List (Nat × HeadRow)) (r : Run) : Run :=
  let rise := r.p.m != fNegInf && fLt r.p.m mNew
  let (a, abad) := if rise then weight mNew r.p.m else (fOne, false)
  let l0 := if rise then fMul r.p.l a else r.p.l
  let o0 := if rise then r.p.o.map (fMul · a) else r.p.o
  let ws := ks.map fun x => weight mNew x.1
  let ls := rn (exactSum (ws.map fun w => fVal w.1))
  let l := fAdd l0 ls
  let sums := (List.range d).map fun x =>
    rn (exactSum (List.zipWith (fun w k => (fVal w.1).mul (rowVal vf k.2.elems k.2.scales x)) ws ks))
  let o := List.zipWith fAdd o0 sums
  let bad := r.bad || abad || fNonFinite l0 || o0.any fNonFinite || ws.any (·.2) || fNonFinite ls || fNonFinite l
    || sums.any fNonFinite || o.any fNonFinite
  ⟨⟨mNew, l, o⟩, bad, r.resc + b2n rise⟩

/-- The maximum of scores: minus infinity for none. -/
def maxScore (l : List Nat) : Nat := l.foldl fMax fNegInf

/-- A pair's partial over the blocks of a granule, in ascending order; each block is its visible keys. Blocks with none are skipped (R118, R119, R120). -/
def granulePart (d kf vf : Nat) (twoPass : Bool) (q : QRow) (blocks : List (List KeyVal)) : Part × Nat :=
  let sc := (blocks.filter fun b => !b.isEmpty).map fun b => b.map fun x => (score d kf q x.k, x.v)
  let all := sc.flatten.map (·.1)
  let top := maxScore all
  let r := sc.foldl
    (fun r b => if r.bad then r else blockStep d vf (if twoPass then top else fMax r.p.m (maxScore (b.map (·.1)))) b r)
    (⟨idPart d, all.any fNonFinite, 0⟩ : Run)
  if r.bad then (nanPart d, r.resc) else (r.p, r.resc)

end Sys2Proof.Machine
end

