-- ==== Sys2Proof/Machine/Hash.lean ====
section
/-! DEFINITION. The digests and check codes the spec names by their standards: SHA-384 (R3), CRC-32C, CRC-16/CCITT-FALSE (R39), CRC-64 (R228), and the Reed-Solomon code of stack lines (R220). -/

namespace Sys2Proof.Machine

/-- One bit step of a reflected CRC with polynomial `poly`. -/
def crcBitRefl (poly v : Nat) : Nat := if v % 2 = 1 then (v / 2) ^^^ poly else v / 2

/-- One byte of a reflected CRC. -/
def crcByteRefl (poly v : Nat) (b : Byte) : Nat :=
  (List.range 8).foldl (fun x _ => crcBitRefl poly x) (v ^^^ b.toNat)

/-- CRC-32C (Castagnoli), reflected, initial value and final mask all ones. -/
def crc32c (l : Bytes) : Nat :=
  l.foldl (crcByteRefl 0x82F63B78) 0xFFFFFFFF ^^^ 0xFFFFFFFF

/-- One bit step of CRC-16 with polynomial 0x1021, most significant bit first. -/
def crc16Bit (v : Nat) : Nat :=
  if v / 0x8000 = 1 then (v * 2 % 0x10000) ^^^ 0x1021 else v * 2 % 0x10000

/-- CRC-16/CCITT-FALSE: initial value 0xFFFF, no reflection, no final mask (R39). -/
def crc16 (l : Bytes) : Nat :=
  l.foldl (fun v b => (List.range 8).foldl (fun x _ => crc16Bit x) (v ^^^ (b.toNat * 256))) 0xFFFF

/-- The NVMe CRC-64 (R228): reflected, initial value and final mask all ones. PRESUMED, unsafe: the polynomial is that of the NVMe standard the rule names, log entry 72. -/
def crc64 (l : Bytes) : Nat := l.foldl (crcByteRefl 0x9A6C9329AC4BC9B5) 0xFFFFFFFFFFFFFFFF ^^^ 0xFFFFFFFFFFFFFFFF

/-! GF(2^8) and the code of stack lines (R220). -/

/-- Multiplication in GF(2^8) with 0x11D; `fuel` is the bits of `b` left. -/
def gfMulAux : Nat → Nat → Nat → Nat
  | 0, _, _ => 0
  | k + 1, a, b =>
    let a2 := if 128 ≤ a then (2 * a) ^^^ 0x11D else 2 * a
    (if b % 2 = 1 then a else 0) ^^^ gfMulAux k a2 (b / 2)

/-- Multiplication in GF(2^8) (R220). -/
def gfMul (a b : Nat) : Nat := gfMulAux 8 a b

/-- Powers in GF(2^8). -/
def gfPow (a : Nat) : Nat → Nat
  | 0 => 1
  | k + 1 => gfMul a (gfPow a k)

/-- The generator of R220, (x + 1)(x + 2)(x + 4)(x + 8): its coefficients of x^3 down to x^0, that of x^4 being 1. -/
def rsGen : List Nat := [0x0F, 0x36, 0x78, 0x40]

/-- One symbol more of the division by the generator: the remainder after it. -/
def rsStep (r : List Nat) (b : Byte) : List Nat :=
  let q := b.toNat ^^^ r.headD 0
  List.zipWith (fun x g => x ^^^ gfMul q g) (r.drop 1 ++ [0]) rsGen

/-- The four check symbols of a line's 64 data bytes: symbol 64 first (R220). -/
def checkSymbols (b : Bytes) : Bytes := (b.foldl rsStep [0, 0, 0, 0]).map (BitVec.ofNat 8)

/-- The 68 symbols of a stack line in symbol order: data bytes, then check symbols; a poisoned line bears zeros and the pattern of its kind (R220, R223). -/
def lineSymbols (b : Bytes) (poison : Option Nat) : Bytes :=
  match poison with
  | none => b ++ checkSymbols b
  | some k => zeros 64 ++ (if k = 2 then [0x3C, 0xC3, 0x3C, 0xC3] else [0x5A, 0xA5, 0x5A, 0xA5])

/-- The value of a word of symbols, first the highest power, at a point: 0 at each root of the generator for a codeword. -/
def symEval (a : Nat) (b : Bytes) : Nat := b.foldl (fun v x => gfMul a v ^^^ x.toNat) 0

/-! SHA-384 of FIPS 180-4: the round constants are the first 64 fraction bits of the cube roots of the first 80 primes, the initial
values those of the square roots of the ninth to sixteenth. -/

/-- Round constants, part one. -/
def shaK1 : List (BitVec 64) := [0x428a2f98d728ae22#64,
  0x7137449123ef65cd#64,
  0xb5c0fbcfec4d3b2f#64,
  0xe9b5dba58189dbbc#64,
  0x3956c25bf348b538#64,
  0x59f111f1b605d019#64,
  0x923f82a4af194f9b#64,
  0xab1c5ed5da6d8118#64,
  0xd807aa98a3030242#64,
  0x12835b0145706fbe#64,
  0x243185be4ee4b28c#64,
  0x550c7dc3d5ffb4e2#64,
  0x72be5d74f27b896f#64,
  0x80deb1fe3b1696b1#64,
  0x9bdc06a725c71235#64,
  0xc19bf174cf692694#64,
  0xe49b69c19ef14ad2#64,
  0xefbe4786384f25e3#64,
  0x0fc19dc68b8cd5b5#64,
  0x240ca1cc77ac9c65#64,
  0x2de92c6f592b0275#64,
  0x4a7484aa6ea6e483#64,
  0x5cb0a9dcbd41fbd4#64,
  0x76f988da831153b5#64,
  0x983e5152ee66dfab#64,
  0xa831c66d2db43210#64,
  0xb00327c898fb213f#64,
  0xbf597fc7beef0ee4#64,
  0xc6e00bf33da88fc2#64,
  0xd5a79147930aa725#64,
  0x06ca6351e003826f#64,
  0x142929670a0e6e70#64,
  0x27b70a8546d22ffc#64,
  0x2e1b21385c26c926#64,
  0x4d2c6dfc5ac42aed#64,
  0x53380d139d95b3df#64,
  0x650a73548baf63de#64,
  0x766a0abb3c77b2a8#64,
  0x81c2c92e47edaee6#64,
  0x92722c851482353b#64]

/-- Round constants, part two. -/
def shaK2 : List (BitVec 64) := [0xa2bfe8a14cf10364#64,
  0xa81a664bbc423001#64,
  0xc24b8b70d0f89791#64,
  0xc76c51a30654be30#64,
  0xd192e819d6ef5218#64,
  0xd69906245565a910#64,
  0xf40e35855771202a#64,
  0x106aa07032bbd1b8#64,
  0x19a4c116b8d2d0c8#64,
  0x1e376c085141ab53#64,
  0x2748774cdf8eeb99#64,
  0x34b0bcb5e19b48a8#64,
  0x391c0cb3c5c95a63#64,
  0x4ed8aa4ae3418acb#64,
  0x5b9cca4f7763e373#64,
  0x682e6ff3d6b2b8a3#64,
  0x748f82ee5defb2fc#64,
  0x78a5636f43172f60#64,
  0x84c87814a1f0ab72#64,
  0x8cc702081a6439ec#64,
  0x90befffa23631e28#64,
  0xa4506cebde82bde9#64,
  0xbef9a3f7b2c67915#64,
  0xc67178f2e372532b#64,
  0xca273eceea26619c#64,
  0xd186b8c721c0c207#64,
  0xeada7dd6cde0eb1e#64,
  0xf57d4f7fee6ed178#64,
  0x06f067aa72176fba#64,
  0x0a637dc5a2c898a6#64,
  0x113f9804bef90dae#64,
  0x1b710b35131c471b#64,
  0x28db77f523047d84#64,
  0x32caab7b40c72493#64,
  0x3c9ebe0a15c9bebc#64,
  0x431d67c49c100d4c#64,
  0x4cc5d4becb3e42b6#64,
  0x597f299cfc657e2a#64,
  0x5fcb6fab3ad6faec#64,
  0x6c44198c4a475817#64]

/-- Initial hash value of SHA-384. -/
def shaH0 : List (BitVec 64) := [0xcbbb9d5dc1059ed8#64,
  0x629a292a367cd507#64,
  0x9159015a3070dd17#64,
  0x152fecd8f70e5939#64,
  0x67332667ffc00b31#64,
  0x8eb44a8768581511#64,
  0xdb0c2e0d64f98fa7#64,
  0x47b5481dbefa4fa4#64]

/-- Padding: a one bit, zeros, and the length in bits in 16 bytes, big-endian. -/
def shaPad (l : Bytes) : Bytes :=
  l ++ [0x80#8] ++ zeros ((239 - l.length % 128) % 128) ++ beBytes 16 (8 * l.length)

/-- The big-endian 64-bit words of a block. -/
def shaWords : Nat → Bytes → List (BitVec 64)
  | 0, _ => []
  | n + 1, l => BitVec.ofNat 64 (ofBe (l.take 8)) :: shaWords n (l.drop 8)

/-- One word of the message schedule from the sixteen before it, newest first. -/
def shaNext (w : List (BitVec 64)) : BitVec 64 :=
  let a := w.getD 1 0
  let b := w.getD 14 0
  let s1 := a.rotateRight 19 ^^^ a.rotateRight 61 ^^^ (a >>> 6)
  let s0 := b.rotateRight 1 ^^^ b.rotateRight 8 ^^^ (b >>> 7)
  s1 + w.getD 6 0 + s0 + w.getD 15 0

/-- Extend the schedule by `n` words, newest first. -/
def shaExtend : Nat → List (BitVec 64) → List (BitVec 64)
  | 0, w => w
  | n + 1, w => shaExtend n (shaNext w :: w)

/-- One round on the working variables a to h. -/
def shaRound (v : List (BitVec 64)) (k w : BitVec 64) : List (BitVec 64) :=
  let a := v.getD 0 0
  let b := v.getD 1 0
  let c := v.getD 2 0
  let e := v.getD 4 0
  let f := v.getD 5 0
  let g := v.getD 6 0
  let s1 := e.rotateRight 14 ^^^ e.rotateRight 18 ^^^ e.rotateRight 41
  let s0 := a.rotateRight 28 ^^^ a.rotateRight 34 ^^^ a.rotateRight 39
  let t1 := v.getD 7 0 + s1 + ((e &&& f) ^^^ (~~~e &&& g)) + k + w
  let t2 := s0 + ((a &&& b) ^^^ (a &&& c) ^^^ (b &&& c))
  [t1 + t2, a, b, c, v.getD 3 0 + t1, e, f, g]

/-- The rounds of one block. -/
def shaRounds (v : List (BitVec 64)) : List (BitVec 64) → List (BitVec 64) → List (BitVec 64)
  | k :: ks, w :: ws => shaRounds (shaRound v k w) ks ws
  | _, _ => v

/-- The hash value after one block. -/
def shaBlock (h : List (BitVec 64)) (blk : Bytes) : List (BitVec 64) :=
  let w := (shaExtend 64 (shaWords 16 blk).reverse).reverse
  List.zipWith (· + ·) h (shaRounds h (shaK1 ++ shaK2) w)

/-- SHA-384: 48 bytes. -/
def sha384 (l : Bytes) : Bytes :=
  let p := shaPad l
  let h := (chunksOf 128 (p.length / 128) p).foldl shaBlock shaH0
  (h.take 6).flatMap fun x => beBytes 8 x.toNat

end Sys2Proof.Machine
end

