-- ==== Sys2Proof/Machine/Records.lean ====
section
/-! DEFINITION. Treatment records (R377 to R380) and the record store (R382, R383): the room it has, records made, completions held for room. -/

namespace Sys2Proof.Machine

/-! The store. -/

/-- Bytes of a tick's block: statement, signature, 16 zero bytes, records (R382). -/
def recBlockBytes (k : Nat) : Nat := 192 + 256 * k

/-- Bytes of the store that hold ticks not released. -/
def recUsed (n : Node) : Nat :=
  (n.sec.store.map fun r => if r.released then 0 else recBlockBytes r.recs.length).foldl (· + ·) 0

/-- Bytes of the record store. -/
def recSize (n : Node) : Nat := 2 ^ 20 * rd n Rg.secRecCfgMib

/-- Show the store in `SEC_REC_STATUS` and `SEC_REC_OLDEST`; below a sixteenth free, sealed classes are refused, and the event is recorded once per
episode (R383). -/
def recShow (t : Tck) (n : Node) : Node :=
  let size := recSize n
  let free := size - recUsed n
  let low := free * 16 < size
  let old := (n.sec.store.head?.map (·.tick)).getD 0
  let n1 := wr (wr n Rg.secRecStatusFree (if size = 0 then 0 else free * 100 / size)) Rg.secRecStatusLow (b2n low)
  let n2 := wr (wr n1 Rg.secRecOldestLoTick (old % 2 ^ 32)) Rg.secRecOldestHiTick (old / 2 ^ 32)
  let n3 := { n2 with sec := { n2.sec with lowTold := low } }
  if low && !n.sec.lowTold then raise t n3 evRecStoreLow [] else n3

/-- Bytes one more record of the present tick takes. -/
def recNeed (t : Tck) (n : Node) : Nat :=
  if n.sec.store.any fun r => r.tick == t.tick then 256 else recBlockBytes 1

/-- Is there room for one more record (R383). -/
def recRoom (t : Tck) (n : Node) : Bool := recUsed n + recNeed t n ≤ recSize n

/-- Drop the oldest released ticks while the store would overflow; `fuel` bounds them (R383). -/
def recOverwrite (need size : Nat) : Nat → List RecTick → List RecTick
  | 0, l => l
  | f + 1, l =>
    let total := (l.map fun r => recBlockBytes r.recs.length).foldl (· + ·) 0
    if total + need ≤ size then l
    else
      match l.findIdx? (·.released) with
      | some i => recOverwrite need size f (l.eraseIdx i)
      | none => l

/-- Add a record to the tick's tree (R380). -/
def recAdd (t : Tck) (n : Node) (r : Bytes) : Node :=
  let l := recOverwrite (recNeed t n) (recSize n) n.sec.store.length n.sec.store
  let l1 := if l.any fun x => x.tick == t.tick then lmodify l (fun x => x.tick == t.tick) fun x => { x with recs := x.recs ++ [r] }
    else l ++ [⟨t.tick, [r], none, false⟩]
  recShow t (bump { n with sec := { n.sec with store := l1 } } Rg.secRecCountRecords 1)

/-- A command has written its last result: it holds its snapshot no longer (R94). -/
def endSnap (n : Node) (h : Nat) : Node := { n with seqs := { n.seqs with snaps := n.seqs.snaps.filter (·.handle != h) } }

/-- Post the completion of a sealed step with its record, or hold it until the store has room (R94, R383). -/
def postSealed (t : Tck) (n : Node) (h status : Nat) (result record : Bytes) : Node :=
  if recRoom t n then recAdd t (complete t n h status result) record
  else bump (endSnap { n with sec := { n.sec with held := n.sec.held ++ [⟨h, status, result, record⟩] } } h) Rg.secRecStatusHeld 1

/-- Post the held completions the store has room for, oldest first; `fuel` bounds them. -/
def releaseHeld (t : Tck) : Nat → Node → Node
  | 0, n => n
  | f + 1, n =>
    match n.sec.held with
    | [] => n
    | x :: rest =>
      if recRoom t n then
        releaseHeld t f (recAdd t (complete t { n with sec := { n.sec with held := rest } } x.handle x.status x.result) x.record)
      else n

/-! The tick tree (R380). -/

/-- The largest power of two below `k`, for `k` of at least 2. -/
def splitPow (k : Nat) : Nat := 2 ^ (clog2 k - 1)

/-- `tree(list)` of R380; `fuel` is at least the list's length. -/
def recTree : Nat → List Bytes → Bytes
  | 0, _ => []
  | _ + 1, [] => []
  | _ + 1, [r] => sha384 (0 :: r)
  | f + 1, l => sha384 (1 :: (recTree f (l.take (splitPow l.length)) ++ recTree f (l.drop (splitPow l.length))))

/-- The 80-byte statement of a tick (R381). -/
def recStatement (n : Node) (r : RecTick) : Bytes :=
  leBytes 4 0x52545154 ++ leBytes 4 r.recs.length ++ leBytes 8 r.tick ++ leBytes 2 (rd n Rg.nidNodeNodeId) ++ zeros 14
    ++ recTree (r.recs.length + 1) r.recs

/-- A block of the store: statement, signature, zeros, records (R382). -/
def recBlock (n : Node) (r : RecTick) (sig : Bytes) : Bytes := recStatement n r ++ padTo 96 sig ++ zeros 16 ++ r.recs.flatten

/-! Treatment records (R378, R379). -/

/-- A measurement (R368), 48 bytes: 6 is of the fuses, the debug state and FW_SVN, 8 of the loaded weight sets. -/
def measurement (n : Node) (k : Nat) : Bytes :=
  if k = 6 then sha384 (Config.encodeFields 6 [n.bank.get Rg.nidIdentMinor.off, b2n Config.debugFuse, b2n n.svc.token.isSome, rd n Rg.secSvnFwSvn])
  else if k = 8 then sha384 (Config.encodeFields 8 (n.wts.sets.flatMap fun e => [e.1, ofLe e.2.digest]))
  else padTo 48 (mgetD n.sec.meas k [])

/-- A measurement as it stood in a tick: before the last firmware switch, the one before it (R429). -/
def measurementAt (n : Node) (tick k : Nat) : Bytes :=
  match n.sec.prior with
  | some (s, m) => if tick < s && k ≤ 6 then padTo 48 (mgetD m k []) else measurement n k
  | none => measurement n k

/-- Measurements 1 to 6 as they stood in a tick: they give the Alias key (R367). -/
def aliasMeas (n : Node) (tick : Nat) : Bytes := (List.range 6).flatMap fun i => measurementAt n tick (i + 1)

/-- CONFIG of R379. -/
def recConfig (n : Node) (s : Seqn) (ldesc : Bytes) : Bytes :=
  let body := slice s.openBody 8 12
  let mode := byteAt body 0
  let b := leBytes 1 (if bitAt mode 1 then mode else mode + 2) ++ body.drop 1
  (sha384 (b ++ leBytes 4 (n.bank.get Rg.nidIdentMinor.off) ++ zeros 48 ++ padTo 64 ldesc)).take 32

/-- COVER of R379; POS_BASE is that of group 0. -/
def recCover (d : Desc) (mask : Nat) : Bytes :=
  let head := leBytes 4 d.kend ++ leBytes 4 (d.posBase.headD 0) ++ leBytes 4 d.ng ++ leBytes 2 d.groups ++ leBytes 2 d.rows ++ leBytes 1 mask
    ++ leBytes 1 d.winOff ++ leBytes 2 d.winWidth ++ zeros 12
  (sha384 (head ++ (if bitAt mask 2 then d.bitmap.flatMap (·.2) else []))).take 16

/-- The 256-byte treatment record of a step (R378): the command, its step's descriptor, the sequence, the layer descriptor of an `ATTEND_BLOCK`, OUT_FORM or
HID_FMT, the result hash of the confluence node and the bytes written to host memory. -/
def treatment (t : Tck) (n : Node) (c : Cmd) (d : Desc) (s : Seqn) (ldesc : Bytes) (form : Nat) (rootHash written : Bytes) : Bytes :=
  let flags := b2n s.twoPass + 2 * form + 8 * b2n (ambig (unitsPerTick t.cur) t.now t.u)
  leBytes 8 s.id ++ leBytes 4 d.pos ++ leBytes 2 d.layer ++ leBytes 2 d.rows ++ leBytes 8 c.launch ++ leBytes 1 c.op
    ++ leBytes 1 (s.kf + 16 * s.vf) ++ leBytes 1 s.granule ++ leBytes 1 1 ++ leBytes 1 (c.f 34 1) ++ leBytes 1 flags
    ++ leBytes 2 (descShape d).qh ++ padTo 96 s.digests ++ (measurementAt n c.launch 4).take 32 ++ (measurementAt n c.launch 5).take 32
    ++ recConfig n s ldesc ++ recCover d (c.f 34 1) ++ (sha384 (rootHash ++ sha384 written)).take 16

end Sys2Proof.Machine
end

