-- ==== Sys2Proof/Machine/Cvt.lean ====
section
/-! DEFINITION. Conversion statistics (07): totals by class and tick, the snapshot, read views. -/

namespace Sys2Proof.Machine

open Host (Outcome)

/-- Add to a count by class, saturating at 32 bits (R162). -/
def addClass (m : NMap Nat) (k v : Nat) : NMap Nat := if v = 0 then m else mset m k (satTo 32 (mgetD m k 0 + v))

/-- Record `EV_CLIP_HIGH` for a class whose snapshot is over the alarm threshold (R164). -/
def clipAlarm (t : Tck) (s : CvtTotals) (n : Node) (k : Nat) : Node :=
  let conv := mgetD s.conv k 0
  let clip := mgetD s.clip k 0
  if bitAt (rd n Rg.attCvtAlarmEn) k && 1024 ≤ conv && rd n Rg.attCvtAlarmThr * conv < clip * 65536 then
    raise t n evClipHigh (leBytes 1 k ++ leBytes 8 s.tick ++ leBytes 4 conv ++ leBytes 4 clip)
  else n

/-- `CVT_TICK_SNAPSHOT` (R162): the totals of the tick just ended become the snapshot. Totals of an earlier tick were the snapshot of the boundaries since passed, of
which the last stays: their alarm is recorded. -/
def cvtSnapshot (t : Tck) (n : Node) : Node :=
  if n.cvt.run.tick < t.tick then
    let s : CvtTotals := if n.cvt.run.tick + 1 = t.tick then n.cvt.run else ⟨t.tick - 1, [], [], []⟩
    (List.range 8).foldl (clipAlarm t n.cvt.run) { n with cvt := { n.cvt with snap := s, run := ⟨t.tick, [], [], []⟩ } }
  else n

/-- Count conversions of a class in the running tick (R156, R162): what an earlier tick had counted is latched first. -/
def countCvt (t : Tck) (m : Node) (cls conv clip nonfin : Nat) : Node :=
  let n := cvtSnapshot t m
  let r := if n.cvt.run.tick = t.tick then n.cvt.run else ⟨t.tick, [], [], []⟩
  if conv = 0 then m
  else { n with cvt := { n.cvt with run := ⟨t.tick, addClass r.conv cls conv, addClass r.clip cls clip, addClass r.nonfin cls nonfin⟩ } }

/-- Count a narrowed row. -/
def countRow (t : Tck) (n : Node) (cls : Nat) (r : Row) : Node := countCvt t n cls r.conv r.clip r.nonfin

/-- The read view a requester has of its own: a port half, or the management path (R163). -/
def viewKey (r : Req) : Nat :=
  match r with
  | .host h _ => h.val
  | _ => 4

/-- `ATT_CVT_TICK_LO_READ` (R163). -/
def cvtRead (r : Req) (t : Tck) (m : Node) : Node :=
  let n := cvtSnapshot t m
  { n with cvt := { n.cvt with views := mset n.cvt.views (viewKey r) n.cvt.snap } }

/-- A table entry R158 admits: +0, or a finite normal number. -/
def rescaleOk (v : Nat) : Bool := v == 0 || (bits v 23 8 != 0 && bits v 23 8 != 255)

/-! The commands. -/

/-- `CVT_TICK_SNAPSHOT`. -/
def execCvtTickSnapshot (s : State) : Outcome State Fault Refusal := onNode cvtSnapshot s
/-- `ATT_CVT_TICK_LO_READ`. -/
def execAttCvtTickLoRead (r : Req) (s : State) : Outcome State Fault Refusal := onNode (whenOpen (cvtRead r)) s
end Sys2Proof.Machine
end

