-- ==== Sys2Proof/Machine/Movers.lean ====
section
/-! DEFINITION. The mover queue (R201, R203, R208): which requests wait, which the eight movers are copying. -/

namespace Sys2Proof.Machine

/-- Is migration between terrace 1 and terraces 2 and 3 suspended (R208). -/
def migSuspended (n : Node) : Bool := 4 ≤ n.pwr.step

/-- The requests in service order: by class, then by arrival (R201). -/
def moveOrder (n : Node) : List MoveReq :=
  n.ter.moves.filter (·.cls == 1) ++ n.ter.moves.filter (·.cls == 2) ++ n.ter.moves.filter fun r => r.cls != 1 && r.cls != 2

/-- Is a request one that does not start while migration is suspended (R208). -/
def heldBack (n : Node) (r : MoveReq) : Bool :=
  migSuspended n && (match r.what with
    | .page idx => (match pageAt n idx with | some e => (r.dest == 1) != (e.terrace == 1) | none => false)
    | .block _ _ _ => true)

/-- Is a page or block being copied: it has at most one move in progress (R203). -/
def inCopy (n : Node) (w : MoveWhat) : Bool := n.ter.busy.any (·.what == w)

/-- Free movers start waiting requests in service order; a move already copying is not displaced (R201). `fuel` bounds the movers. -/
def startMovers : Nat → Node → Node
  | 0, n => n
  | fuel + 1, n =>
    if 8 ≤ n.ter.busy.length || stopped n then n
    else
      match (moveOrder n).find? fun r => !inCopy n r.what && !heldBack n r with
      | some r => startMovers fuel { n with ter := { n.ter with busy := n.ter.busy ++ [r] } }
      | none => n

/-- Requests join the queue. -/
def queueMoves (n : Node) (rs : List MoveReq) : Node := startMovers 8 { n with ter := { n.ter with moves := n.ter.moves ++ rs } }

/-- The requests that the eight movers are copying, once free movers have started. -/
def copying (n : Node) : List MoveReq := (startMovers 8 n).ter.busy

/-- A request ends. -/
def dropMove (n : Node) (r : MoveReq) : Node :=
  startMovers 8 { n with ter := { n.ter with moves := n.ter.moves.erase r, busy := n.ter.busy.erase r } }

/-- The requests of a command that movers are not copying leave the queue; those being copied run on for nobody. -/
def dropMovesOf (n : Node) (h : Nat) : Node :=
  let quit (r : MoveReq) : MoveReq := if r.handle = some h then { r with handle := none } else r
  startMovers 8 { n with ter := { n.ter with
    moves := (n.ter.moves.filter fun r => r.handle != some h || n.ter.busy.contains r).map quit, busy := n.ter.busy.map quit } }

end Sys2Proof.Machine
end

