-- ==== Sys2Proof/Machine/Ecc.lean ====
section
/-! DEFINITION. Reading lines through the decoders (R192, R221, R222), poison (R223, R225), rows that earn sparing (R235), and the heat of pages (R205). -/

namespace Sys2Proof.Machine

/-! Poison. -/

/-- Poison a terrace-1 line: kind 1 memory poison, 2 owner-lost poison; its data bytes are 0 (R223). -/
def poisonLine (n : Node) (a kind : Nat) : Node :=
  let l := a / 64 * 64
  { n with t1 := Mem.clear n.t1 l 64, mic := { n.mic with poison := mset n.mic.poison l kind } }

/-- Poison a line of terraces 2 and 3. -/
def poisonLine3 (n : Node) (a kind : Nat) : Node :=
  let l := a / 64 * 64
  { n with ter := { n.ter with t3 := Mem.clear n.ter.t3 l 64 }, mic := { n.mic with poison3 := mset n.mic.poison3 l kind } }

/-! The full decoder. -/

/-- What a decoder makes of a line. -/
inductive Decoded where
  /-- No error. -/
  | clean
  /-- The only error lies on the marked lane: used, neither written back nor counted. -/
  | laneOnly
  /-- Corrected: the lanes whose symbols were corrected. -/
  | fixed (lanes : List Nat)
  /-- Detected and not corrected. -/
  | uncorr
  /-- More symbols in error than the bounds of the code allow. -/
  | beyond
  deriving DecidableEq, Repr

/-- The lane a channel's full decoder treats as an erasure: the first marked. -/
def erasureLane (n : Node) (p : Nat) : Option Nat := (mgetD n.mic.lanes p []).head?

/-- The full decoder on a line whose symbols on `errs` are in error (R221). -/
def fullDecode (mark : Option Nat) (errs : List Nat) : Decoded :=
  match mark with
  | none => if errs.isEmpty then .clean else if errs.length = 1 then .fixed errs else if errs.length ≤ 3 then .uncorr else .beyond
  | some m =>
    let o := errs.filter (· != m)
    if errs.isEmpty then .clean
    else if o.isEmpty then .laneOnly
    else if o.length = 1 then .fixed o
    else if o.length = 2 then .uncorr
    else .beyond

/-- The light decoder of a BSU (R192, R194): one symbol. -/
def lightDecode (errs : List Nat) : Decoded :=
  if errs.isEmpty then .clean else if errs.length = 1 then .fixed errs else if errs.length ≤ 3 then .uncorr else .beyond

/-- The row of a line (10, Row sparing). -/
def rowOf (a : Nat) : Nat := a / 1024 * 1024

/-- Mark a row as one that has earned sparing and waits for it (R235). -/
def oweRow (n : Node) (row : Nat) : Node :=
  if n.mic.owed.contains row then n else { n with mic := { n.mic with owed := n.mic.owed ++ [row] } }

/-- Put a corrected line into its stack's table of 256 rows, in place of the least recently updated entry when it is full (R235). -/
def noteRow (n : Node) (a : Nat) : Node :=
  let s := pchOf a / 128
  let l := a / 64 * 64
  let tab := mgetD n.mic.rows s []
  let u := n.mic.rowSeq
  let e : RowEnt := match tab.find? (·.row == rowOf a) with
    | some e => ⟨e.row, if e.lines.contains l then e.lines else e.lines ++ [l], u⟩
    | none => ⟨rowOf a, [l], u⟩
  let rest := tab.filter (·.row != rowOf a)
  let room := if rest.length < 256 then rest
    else
      match leastBy (·.used) rest with
      | some v => rest.filter (·.row != v.row)
      | none => rest
  let n1 := { n with mic := { n.mic with rows := mset n.mic.rows s (room ++ [e]), rowSeq := u + 1 } }
  if rd n Rg.micSpareCfgRowThr ≤ e.lines.length then oweRow n1 (rowOf a) else n1

/-- Count a correction on a lane, over distinct rows; at `LANE_THR` rows of one channel the lane is marked (R222). -/
def noteLane (t : Tck) (a : Nat) (n : Node) (lane : Nat) : Node :=
  let p := pchOf a
  let k := 68 * p + lane
  let rows := mgetD n.mic.laneRows k []
  let rows1 := if rows.contains (rowOf a) then rows else rows ++ [rowOf a]
  let n1 := { n with mic := { n.mic with laneRows := mset n.mic.laneRows k rows1 } }
  let marked := mgetD n1.mic.lanes p []
  if rd n Rg.micSpareCfgLaneThr ≤ rows1.length && !marked.contains lane then
    let n2 := { n1 with mic := { n1.mic with lanes := mset n1.mic.lanes p (marked ++ [lane]) } }
    raise t (bump n2 (Rg.micStkRepairLaneFaults (p / 128)) 1) evStkLaneFault (leBytes 2 p ++ leBytes 1 lane)
  else n1

/-- Name a line to be scrubbed ahead of its stack's patrol order (R192, R194, R227). -/
def scrubAhead (n : Node) (a : Nat) : Node :=
  let s := pchOf a / 128
  let l := mgetD n.mic.ahead s []
  if l.contains (a / 64 * 64) then n else { n with mic := { n.mic with ahead := mset n.mic.ahead s (l ++ [a / 64 * 64]) } }

/-- Count errors of a stack since the monitor's last dump (R444). -/
def noteErr (n : Node) (s ce ue : Nat) : Node :=
  let x := mgetD n.svc.dump s (0, 0)
  { n with svc := { n.svc with dump := mset n.svc.dump s (x.1 + ce, x.2 + ue) } }

/-- A corrected line of terrace 1: counted, its row and lanes noted (R221, R222, R235). -/
def corrected (t : Tck) (n : Node) (a : Nat) (lanes : List Nat) : Node :=
  lanes.foldl (noteLane t a) (noteRow (noteErr (bump n (Rg.micStkErrCe (pchOf a / 128)) 1) (pchOf a / 128) 1 0) a)

/-- A line of terrace 1 found uncorrectable: poisoned in place, latched, recorded, counted; its row earns sparing (R221, R235, R236). -/
def uncorrectable (t : Tck) (n : Node) (a : Nat) : Node :=
  let l := a / 64 * 64
  let n1 := noteErr (bump (poisonLine n l 1) (Rg.micStkErrUe (pchOf l / 128)) 1) (pchOf l / 128) 0 1
  let n2 := wr (wr n1 Rg.micUeAddrLoAddr (l % 2 ^ 32)) Rg.micUeAddrHiAddr (l / 2 ^ 32)
  let n3 := { n2 with mic := { n2.mic with ueLines := mset n2.mic.ueLines (pchOf l) (mgetD n2.mic.ueLines (pchOf l) 0 + 1) } }
  oweRow (raise t n3 evStkUncorr (leBytes 8 l)) (rowOf l)

/-- A line in more error than its code's bounds: whether the decoder detects it is free, and data that escapes is free (R221). DESIGN CHOICE: log entry 11. -/
def escaped (t : Tck) (n : Node) (a : Nat) : Node :=
  let (v, n1) := takeFree n
  if v % 2 = 0 then uncorrectable t n1 a
  else { n1 with t1 := Mem.write 0 n1.t1 (a / 64 * 64) (leBytes 64 (v / 2)) }

/-- Is a line that bears a poison pattern still poison with symbols on `errs` in error: it is within one symbol of the pattern (R223). -/
def staysPoison (errs : List Nat) : Bool := errs.length ≤ 1

/-- A poisoned line with two or more symbols in error is no poison: its pattern is no codeword, so the decoder meets more error than its bounds. DEDUCED:
log entry 76. -/
def unpoison (n : Node) (a : Nat) : Node := { n with mic := { n.mic with poison := mdel n.mic.poison (a / 64 * 64) } }

/-- The memory controller reads a line whose symbols on `errs` are in error; it tests for poison before it decodes (R221, R223). -/
def ctrlRead (t : Tck) (n : Node) (a : Nat) (errs : List Nat) : Node :=
  if n.mic.retired.contains (pchOf a) then n
  else if mhas n.mic.poison (a / 64 * 64) then (if staysPoison errs then n else escaped t (unpoison n a) a)
  else
    match fullDecode (erasureLane n (pchOf a)) errs with
    | .clean => n
    | .laneOnly => n
    | .fixed l => corrected t n a l
    | .uncorr => uncorrectable t n a
    | .beyond => escaped t n a

/-- Read lines with the errors named: (address, lanes in error). -/
def ctrlReads (t : Tck) (n : Node) (errs : List (Nat × List Nat)) : Node := errs.foldl (fun m e => ctrlRead t m e.1 e.2) n

/-! Board memory (R226). -/

/-- The DDR5 channel of a line of terrace 2: of the direct partition by offset, of a cached sector by terrace-3 address. -/
def burstChannel (b : Burst) : Nat :=
  match b with
  | .direct o => Config.directChannel (o / 65536) % 12
  | .cache a => Config.cacheChannel (a / 65536) % 12
  | .other _ => 0

/-- Poison a burst of board memory in place; one that holds neither is kept by its board-memory address. -/
def poisonBurst (n : Node) (b : Burst) (addr : Nat) : Node :=
  match b with
  | .direct o =>
    { n with cxd := { n.cxd with direct := Mem.clear n.cxd.direct (o / 64 * 64) 64 }, mic := { n.mic with poisonD := mset n.mic.poisonD (o / 64 * 64) 1 } }
  | .cache a => poisonLine3 n a 1
  | .other _ => { n with mic := { n.mic with poisonO := if n.mic.poisonO.contains addr then n.mic.poisonO else n.mic.poisonO ++ [addr] } }

/-- Is a burst poison already. -/
def burstPoison (n : Node) (b : Burst) (addr : Nat) : Bool :=
  match b with
  | .direct o => mhas n.mic.poisonD (o / 64 * 64)
  | .cache a => mhas n.mic.poison3 (a / 64 * 64)
  | .other fresh => !fresh && n.mic.poisonO.contains addr

/-- An uncorrectable burst (R226). -/
def burstBad (t : Tck) (n : Node) (ch : Nat) (b : Burst) (addr : Nat) : Node :=
  raise t (bump (poisonBurst n b addr) (Rg.micBmemErrUe ch) 1) evBmemUncorr (leBytes 1 ch ++ leBytes 8 addr)

/-- An error in more devices than the code's bounds: whether it is detected is free, and data that escapes is free. DESIGN CHOICE: log entry 11. -/
def burstEscape (t : Tck) (n : Node) (ch : Nat) (b : Burst) (addr : Nat) : Node :=
  let (v, n1) := takeFree n
  if v % 2 = 0 then burstBad t n1 ch b addr
  else
    match b with
    | .direct o => { n1 with cxd := { n1.cxd with direct := Mem.write 0 n1.cxd.direct (o / 64 * 64) (leBytes 64 (v / 2)) } }
    | .cache a => { n1 with ter := { n1.ter with t3 := Mem.write 0 n1.ter.t3 (a / 64 * 64) (leBytes 64 (v / 2)) } }
    | .other _ => n1

/-- The board memory controller of channel `ch` reads a burst with errors in `devs` devices. -/
def burstRead (t : Tck) (n : Node) (ch devs : Nat) (b : Burst) (addr : Nat) : Node :=
  if devs = 0 || burstPoison n b addr then n
  else if devs = 1 then bump n (Rg.micBmemErrCe ch) 1
  else if devs = 2 then burstBad t n ch b addr
  else burstEscape t n ch b addr

/-- A demand read of a line of terrace 2, the devices in error named: its channel and address in board memory are open (the spec gives no interleaving).
DESIGN CHOICE: log entry 77. -/
def boardRead (t : Tck) (n : Node) (b : Burst) (devs : List Nat) : Node :=
  burstRead t n (burstChannel b) devs.length b
    (match b with | .direct o => Config.boardAddr true (o / 64 * 64) | .cache a => Config.boardAddr false (a / 64 * 64) | .other _ => 0)

/-- Reads of the cached lines of a range of terrace 3: those named with devices in error. -/
def cacheReads (t : Tck) (n : Node) (a len : Nat) (errs : List (Nat × List Nat)) : Node :=
  errs.foldl (fun m e => if a ≤ e.1 && e.1 < a + len && cached m (e.1 / 4096) then boardRead t m (.cache e.1) e.2 else m) n

/-! SRAM (R229, R231). -/

/-- The SRAM arrays, numbered in the order of the table of R229. DESIGN CHOICE: log entry 57. -/
def arrCluster : Nat := 0
/-- BSU SRAM. -/
def arrBsu : Nat := 1
/-- The confluence buffer. -/
def arrConfluence : Nat := 2
/-- Control-core SRAM. -/
def arrCore : Nat := 3
/-- The key store. -/
def arrKeys : Nat := 4
/-- The prefix directory array. -/
def arrPdx : Nat := 5
/-- The queue-pair context cache. -/
def arrQp : Nat := 6

/-- The word that an SRAM fault leaves uncorrectable, as (array, word): one found so, or one whose writer was told of a collision (R231). -/
def lostWord (f : SramFault) : Option (Nat × Nat) :=
  match f with
  | .corrected => none
  | .skew => none
  | .uncorr a w => some (a, w)
  | .collide a w _ _ _ _ => some (a, w)

/-- The uncorrectable words of one array. -/
def lostWords (l : List SramFault) (a : Nat) : List Nat := (l.filterMap lostWord).filterMap fun x => if x.1 = a then some x.2 else none

/-- What a collision leaves in its word: the lower-numbered port's write (R230). -/
def collideStands (p q : Nat) (pv qv : BitVec 64) : BitVec 64 := if p ≤ q then pv else qv

/-- The words in which a write stands after a collision in an array, with its bytes (R230). -/
def stoodWords (l : List SramFault) (a : Nat) : List (Nat × Bytes) :=
  l.filterMap fun f =>
    match f with
    | .collide b w p q pv qv => if b = a then some (w, leBytes 8 (collideStands p q pv qv).toNat) else none
    | _ => none

/-- Count and record a word found uncorrectable (R229). -/
def sramLost (t : Tck) (n : Node) (a w : Nat) : Node := raise t (bump n Rg.micSramErrUe 1) evSramUncorr (leBytes 1 a ++ leBytes 4 w)

/-- Count and record a fault of a unit's SRAM or scale queue (R151, R229). Of two ports that write one word the higher-numbered one's requester is told, and treats the word as uncorrectable (R230,
R231). -/
def sramFault (t : Tck) (n : Node) (f : SramFault) : Node :=
  match f with
  | .corrected => bump n Rg.micSramErrCe 1
  | .skew => raise t n evScaleSkew []
  | .uncorr a w => sramLost t n a w
  | .collide a w p q _ _ =>
    let n1 := raise t (bump n Rg.micSramCollideCount 1) evSramCollide (leBytes 1 a ++ leBytes 4 w ++ leBytes 1 p ++ leBytes 1 q)
    sramLost t (emit n1 (.writeCollided a w (max p q))) a w

/-- Do faults end the item of a unit that works from an array: a word of it is lost, or a scale tag does not match (R151, R229). -/
def unitLost (l : List SramFault) (a : Nat) : Bool := !(lostWords l a).isEmpty || l.contains .skew

/-- Faults in turn. -/
def sramFaults (t : Tck) (n : Node) (l : List SramFault) : Node := l.foldl (sramFault t) n

/-! Heat (R205). -/

/-- Halve a heat `k` times. -/
def halve (h k : Nat) : Nat := h / 2 ^ k

/-- A page's entry with the halvings of R205 applied up to the present tick. -/
def decayed (t : Tck) (n : Node) (e : PageEnt) : PageEnt :=
  let d := 2 ^ rd n Rg.terHeatCfgDecay
  { e with heat := halve e.heat (t.tick / d - e.decayAt / d), decayAt := t.tick }

/-- Every page's halvings applied: what a new period finds done (R205). -/
def decayAll (t : Tck) (n : Node) : Node :=
  { n with ter := { n.ter with pages := n.ter.pages.map fun e => (e.1, decayed t n e.2) } }

/-- E of R205. -/
def effHeat (t : Tck) (n : Node) (e : PageEnt) : Nat :=
  (min (max (((decayed t n e).heat : Int) + 16 * e.bias) 0) 255).toNat

/-- A granule item has read a page. -/
def readHeat (t : Tck) (n : Node) (idx : Nat) : Node :=
  { n with ter := { n.ter with pages := mmod n.ter.pages idx fun e =>
    let d := decayed t n e
    { d with heat := min (d.heat + 1) 255, lastRead := t.tick } } }

end Sys2Proof.Machine
end

