-- ==== Sys2Proof/Machine/Append.lean ====
section
/-! DEFINITION. Page lists, snapshots, rotation and the append every attention and append command shares (R78, R83, R89, R94, R98, R101, R102). -/

namespace Sys2Proof.Machine

/-! Page lists. -/

/-- Page slots for a number of positions. -/
def slotsFor (m : Nat) : Nat := cdiv m 64

/-- Where node firmware keeps the body of list `k` of a sequence in its generation `gen`: a 64-byte line of terrace 1 (R83). DESIGN CHOICE, safe: the place is
open (log entry 53). -/
def bodyPlace (seq k gen : Nat) : Nat := 64 * (Config.bodyLine seq k gen % (t1Bytes / 64))

/-- The list a paged sequence starts with (R87). -/
def emptyList (s : Seqn) (k : Nat) : PList := ⟨0, 0, slotsFor s.maxLen, 0, bodyPlace s.id k 0, 0, false, [], 0⟩

/-- The page list of a layer and group. -/
def listOf (s : Seqn) (l g : Nat) : PList := mgetD s.lists (l * s.groups + g) (emptyList s (l * s.groups + g))

/-- The FPNs of a list's entries, in order: of a body in host-reachable memory as terrace 1 holds them (R83). -/
def plFpns (n : Node) (p : PList) : List Nat :=
  if p.inPlace then (List.range p.length).map fun j => ofLe (nameRead n (p.body + 8 * j) 8) % 2 ^ 45 else p.entries

/-- Change an open sequence. -/
def modSeq (n : Node) (h : Nat) (f : Seqn → Seqn) : Node := { n with seqs := { n.seqs with open_ := mmod n.seqs.open_ h f } }

/-- Set a page list. -/
def setList (n : Node) (h l g : Nat) (p : PList) : Node := modSeq n h fun s => { s with lists := mset s.lists (l * s.groups + g) p }

/-- FPNs named by live bodies. -/
def bodyRefs (n : Node) : List Nat := n.seqs.open_.flatMap fun e => e.2.lists.flatMap fun p => plFpns n p.2

/-- Live bodies that reference an FPN. -/
def bodyCount (n : Node) (f : Nat) : Nat :=
  ((n.seqs.open_.flatMap fun e => e.2.lists).filter fun p => (plFpns n p.2).contains f).length

/-- Positions filled in a layer (R102); every group of a layer is filled alike. -/
def filledOf (s : Seqn) (l : Nat) : Nat := (listOf s l 0).filled

/-- The entry that covers a position: none below POS_BASE or past the list. -/
def entryAt (n : Node) (s : Seqn) (l g p : Nat) : Option Nat :=
  let pl := listOf s l g
  if p < pl.posBase then none else (plFpns n pl)[(p - pl.posBase) / 64]?

/-! Snapshots and retirement (R89, R94). -/

/-- Take a snapshot on behalf of a command. -/
def takeSnap (t : Tck) (n : Node) (h : Nat) (fpns : List Nat) (vers : List (Nat × Nat)) : Node :=
  { n with seqs := { n.seqs with snaps := n.seqs.snaps ++ [⟨h, t.tick, fpns, vers⟩] } }

/-- Retire pages and the marked bodies that named them, in the current tick. -/
def retirePages (t : Tck) (n : Node) (fpns : List Nat) (bodies : List OldBody) : Node :=
  { n with seqs := { n.seqs with retired := n.seqs.retired ++ [⟨t.tick, fpns, bodies⟩] } }

/-- The marked body of list `k` of a sequence, as it is retired (R90): none for a body in node-private memory. -/
def oldBody (s : Seqn) (k : Nat) (p : PList) : List OldBody := if p.inPlace then [⟨s.id, s.groups, k, p.body, 8 * p.length⟩] else []

/-- Is a page live: named by a live body or an outstanding snapshot, or held by the prefix directory. -/
def pageLive (n : Node) (f : Nat) : Bool :=
  (bodyRefs n).contains f || n.seqs.snaps.any (fun s => s.fpns.contains f)
  || (fpnNode f == nodeId n && n.pdx.slots.any fun e => e.2.fpn == f)

/-- Free one FPN that nothing references: here, or by telling its holder. -/
def dropPage (n : Node) (f : Nat) : Node :=
  if fpnIdx f == noPage || pageLive n f then n
  else if fpnNode f = nodeId n then freePage n (fpnIdx f)
  else emit n (.freePages (fpnNode f) [f])

/-- Is anything still reading what was retired in tick `r`: a snapshot of tick `r` or earlier, or a share received then. -/
def readersSince (n : Node) (r : Nat) : Bool := n.seqs.snaps.any (·.tick ≤ r) || n.att.shares.any (·.got ≤ r)

/-- Is a page kept alive by an outstanding snapshot alone: it is freed once that ends. -/
def snapOnly (n : Node) (f : Nat) : Bool := n.seqs.snaps.any (fun s => s.fpns.contains f) && !(bodyRefs n).contains f

/-- `RETIRED_BODY_FREE` (R94, R201): at a tick boundary, what was retired in a tick without an older reader is freed, but for pages that a later snapshot still
names, which stay retired; `released` are pages of this node that their homes have released. -/
def retiredFree (released : List Nat) (t : Tck) (n : Node) : Node :=
  let ready (r : Nat) : Bool := r < t.tick && !readersSince n r
  let go := n.seqs.retired.filter fun r => ready r.tick
  let stay := (go.map fun r => { r with pages := r.pages.filter (snapOnly n), bodies := [] }).filter fun r => !r.pages.isEmpty
  let n1 := { n with
    seqs := { n.seqs with retired := (n.seqs.retired.filter fun r => !ready r.tick) ++ stay }
    ter := { n.ter with freed := n.ter.freed.filter fun r => !ready r.1 } }
  ((go.flatMap (·.pages)) ++ released).foldl dropPage n1

/-! Rotation (R101). -/

/-- The pair that element `x` belongs to, and whether it is its first member. -/
def ropePair (rope half x : Nat) : Option (Nat × Bool) :=
  if rope = 1 then (if x < 2 * half then some (x / 2, x % 2 == 0) else none)
  else if x < half then some (x, true)
  else if x < 2 * half then some (x - half, false)
  else none

/-- A row of FP32 elements rotated at a position; the table lies in terrace 1 at ROPE_ADDR. -/
def ropeRow (n : Node) (s : Seqn) (p : Nat) (row : List Nat) : List Nat :=
  if s.rope = 0 then row
  else
    let half := s.rotDims / 2
    (List.range row.length).map fun x =>
      match ropePair s.rope half x with
      | none => row.getD x 0
      | some (i, first) =>
        let at_ := s.ropeAddr + (p * half + i) * 8
        let c := ofLe (nameRead n at_ 4)
        let sn := ofLe (nameRead n (at_ + 4) 4)
        let a := row.getD (if s.rope = 1 then 2 * i else i) 0
        let b := row.getD (if s.rope = 1 then 2 * i + 1 else i + half) 0
        if first then fSub (fMul a c) (fMul b sn) else fAdd (fMul a sn) (fMul b c)

/-! The rows of an append (R100, R101). -/

/-- Bytes of a buffer of `rows` rows in a source format; `code` is the stored format. -/
def bufLen (d rows fmt code : Nat) : Nat :=
  if fmt = 0xF then rows * d * fmtBits code / 8 + (if fmtScaled code then rows * d / 32 else 0) else rows * d * fmtBits fmt / 8

/-- A stored row and the counts of its narrowing. -/
structure Stored where
  row : HeadRow
  conv : Row
  deriving DecidableEq, Repr

/-- FP32 values put into a stored format. -/
def storeRow (code : Nat) (vs : List Nat) : Stored :=
  let r := narrowRow code vs
  ⟨⟨r.elems, r.scales⟩, r⟩

/-- Row `idx` of a buffer in its stored form; a key is rotated at position `p` before conversion. -/
def bufRow (n : Node) (s : Seqn) (fmt code : Nat) (key : Bool) (p : Nat) (buf : Bytes) (rows idx : Nat) : Stored :=
  if fmt = 0xF then
    let w := s.dim * fmtBits code / 8
    let k := s.dim / 32
    ⟨⟨unpackElems code s.dim (slice buf (idx * w) w),
      if fmtScaled code then (slice buf (rows * w + idx * k) k).map (·.toNat) else []⟩, ⟨[], [], 0, 0, 0⟩⟩
  else
    let w := s.dim * fmtBits fmt / 8
    let vs := (unpackElems fmt s.dim (slice buf (idx * w) w)).map (widen fmt)
    storeRow code (if key then ropeRow n s p vs else vs)

/-- The rows of one position and group: keys and values of each head. -/
structure PosRows where
  k : List Stored
  v : List Stored
  deriving DecidableEq, Repr

/-- The rows of a command's buffers, by position and group. -/
def bufRows (n : Node) (s : Seqn) (fmt pos count : Nat) (kb vb : Bytes) : List (List PosRows) :=
  let rows := count * s.groups * s.heads
  (List.range count).map fun i => (List.range s.groups).map fun g =>
    let idx h := (i * s.groups + g) * s.heads + h
    { k := (List.range s.heads).map fun h => bufRow n s fmt s.kf true (pos + i) kb rows (idx h)
      v := (List.range s.heads).map fun h => bufRow n s fmt s.vf false (pos + i) vb rows (idx h) }

/-- A position's rows in stored form. -/
def PosRows.kv (r : PosRows) : KvRow := ⟨r.k.map (·.row), r.v.map (·.row)⟩

/-- The four pieces of a stored position in a page: section and bytes of head `h`. -/
def rowBytes (kf vf : Nat) (r : KvRow) (sec h : Nat) : Bytes :=
  let k := r.k.getD h ⟨[], []⟩
  let v := r.v.getD h ⟨[], []⟩
  match sec with
  | 0 => packElems kf k.elems
  | 1 => packElems vf v.elems
  | 2 => k.scales.map (BitVec.ofNat 8)
  | _ => v.scales.map (BitVec.ofNat 8)

/-- Comparing one position with what a page holds (R102): poison first, in the order of heads and sections. -/
def cmpPos (n : Node) (e : PageEnt) (fpn : Nat) (tpos : Nat) (r : KvRow) : PeerCmp :=
  ((List.range e.heads).flatMap fun h => (List.range 4).map fun s => (h, s)).foldl
    (fun acc x =>
      match acc with
      | .ok =>
        let (off, len) := rowPlace e.heads e.dim e.kf e.vf x.2 x.1 tpos
        if len = 0 then .ok
        else
          match pagePoison n e off len with
          | some k => .poison (k == 2) fpn
          | none => if pageRead n e off len = rowBytes e.kf e.vf r x.2 x.1 then .ok else .differs
      | a => a)
    .ok

/-- The writes of consecutive positions into a page: for each head and section, the rows in order (R79). -/
def pagePieces (heads d kf vf tpos : Nat) (rows : List KvRow) : List (Nat × Bytes) :=
  ((List.range heads).flatMap fun h => (List.range 4).map fun s =>
    ((rowPlace heads d kf vf s h tpos).1, rows.flatMap fun r => rowBytes kf vf r s h)).filter fun p => !p.2.isEmpty

/-- Poison that writing a piece would meet: a poisoned line it covers only in part (R224). -/
def piecePoison (n : Node) (e : PageEnt) (off : Nat) (b : Bytes) : Option Nat :=
  if e.terrace = 1 then
    ((lineParts (b.length / 64 + 2) (e.addr + off) b).filterMap fun p =>
      if p.2.length = 64 then none else mget? n.mic.poison (p.1 / 64 * 64)).head?
  else none

/-- What an append comes to. -/
inductive AppRes where
  /-- Applied: the node after, positions appended, positions matched. -/
  | ok (n : Node) (appended matched : Nat)
  /-- A page waits for free frames (R200), which node firmware finds. -/
  | wait (n : Node)
  /-- Ended with a status and RESULT. -/
  | fail (n : Node) (status : Nat) (result : Bytes)

/-- An append in progress: the node, the page indices peers have still to give, and the contents they have sent. -/
structure AppSt where
  n : Node
  peers : List Nat
  data : List PageData
  /-- The kind of poison that discarded a write of part of a line, if any did (R224). -/
  bad : Option Nat
  deriving DecidableEq, Repr

/-- The pseudo-channel of the page that precedes slot `j` in its granule, when it lies here in terrace 1 (R200). -/
def prevPch (n : Node) (s : Seqn) (pl : PList) (j : Nat) : Option Nat :=
  let abs := pl.posBase / 64 + j
  if j = 0 || (abs - 1) / 2 ^ s.granule != abs / 2 ^ s.granule then none
  else
    match (plFpns n pl)[j - 1]? with
    | some f =>
      if fpnNode f = nodeId n then
        (match pageAt n (fpnIdx f) with
         | some e => if e.terrace = 1 then some (pchOf e.addr) else none
         | none => none)
      else none
    | none => none

/-- What a page of a sequence is for. -/
def pageUse (n : Node) (s : Seqn) (place : Option (Nat × Nat × Nat)) (charged : Bool) : PageUse :=
  let hint := match place with
    | some (l, g, _) => mgetD s.hints (l * s.groups + g) (0, 3)
    | none => (0, 3)
  ⟨s.id, nodeId n, place, s.kf, s.vf, s.heads, s.dim, charged, s.prot, hint.1, hint.2⟩

/-- May a page go to another node: it is IN, and it has answered with a page (R87, R102). -/
def peerTakes (n : Node) (node : Nat) (peers : List Nat) : Bool :=
  node != nodeId n && nodeState n node == 1 && !peers.isEmpty

/-- Write bytes by name, each where its frame lies. -/
def nameWrite (t : Tck) (n : Node) (a : Nat) (b : Bytes) : Node :=
  (lineParts (b.length / 64 + 2) a b).foldl (fun m p => (lineWrite t m (resolve m p.1) p.2).1) n

/-- Allocate the page at index LENGTH of a list (R102): on the node of the body's last entry, else at home; the entry is written at that index of the body. -/
def growList (t : Tck) (a : AppSt) (sh l g : Nat) : Option AppSt :=
  match mget? a.n.seqs.open_ sh with
  | none => none
  | some s =>
    let pl := listOf s l g
    let first := pl.posBase + 64 * pl.length
    let put (n : Node) (f : Nat) (peers : List Nat) : Option AppSt :=
      let n1 := if pl.inPlace then nameWrite t n (pl.body + 8 * pl.length) (leBytes 8 f) else n
      some { a with
        n := setList n1 sh l g { pl with
          entries := if pl.inPlace then [] else pl.entries ++ [f], length := pl.length + 1, capacity := max pl.capacity (pl.length + 1) }
        peers := peers }
    match (plFpns a.n pl).getLast? with
    | some f =>
      if fpnIdx f != noPage && peerTakes a.n (fpnNode f) a.peers then put a.n (mkFpn (fpnNode f) (a.peers.headD 0)) a.peers.tail
      else
        match allocPage t a.n (pageUse a.n s (some (l, g, first)) false) none (prevPch a.n s pl pl.length) with
        | none => none
        | some (idx, n1) => put n1 (mkFpn (nodeId a.n) idx) a.peers
    | none =>
      match allocPage t a.n (pageUse a.n s (some (l, g, first)) false) none none with
      | none => none
      | some (idx, n1) => put n1 (mkFpn (nodeId a.n) idx) a.peers

/-- Grow the lists of a layer until they cover positions below `upto`: by page, then by group; `fuel` bounds the pages. -/
def growAll (t : Tck) (sh l upto : Nat) : Nat → AppSt → Option AppSt
  | 0, a => some a
  | fuel + 1, a =>
    match mget? a.n.seqs.open_ sh with
    | none => none
    | some s =>
      let short := (List.range s.groups).filter fun g =>
        let pl := listOf s l g
        pl.posBase + 64 * pl.length < upto
      match leastBy (fun g => (listOf s l g).posBase / 64 + (listOf s l g).length) short with
      | none => some a
      | some g =>
        match growList t a sh l g with
        | none => none
        | some b => growAll t sh l upto fuel b

/-- A page as it stands: its bytes and its poisoned lines. -/
def pageData (n : Node) (e : PageEnt) : PageData := ⟨pageRead n e 0 e.foot, pagePoisonLines n e⟩

/-- Fill a page with the contents of another: each poisoned line as poison of its kind (R225). -/
def putPage (t : Tck) (n : Node) (dst : Nat) (d : PageData) (fill home handle : Nat) : Node :=
  let n1 := fillPage (pageWrite t n dst 0 d.bytes home handle).1 dst fill
  match pageAt n1 dst with
  | some e => poisonPage n1 e d.poison
  | none => n1

/-- Copy a page of this node into a new page of it. -/
def copyInto (t : Tck) (n : Node) (src : PageEnt) (dst home handle : Nat) : Node := putPage t n dst (pageData n src) src.fill home handle

/-- Copy a shared target page of a group and swap the body to name the copy (R98): the tail holder does it; a copy that does not fit on another
node is made at home from the contents its holder sends (R87). -/
def cowGroup (t : Tck) (sh l g p handle : Nat) (a : AppSt) : Option AppSt :=
  match mget? a.n.seqs.open_ sh with
  | none => none
  | some s =>
    match entryAt a.n s l g p with
    | none => some a
    | some f =>
      if fpnIdx f == noPage || bodyCount a.n f ≤ 1 then some a
      else
        let pl := listOf s l g
        let j := (p - pl.posBase) / 64
        let gen := (pl.generation + 1) % 2 ^ 32
        let fin (n : Node) (new : Nat) (peers : List Nat) (data : List PageData) : Option AppSt :=
          let n1 := setList n sh l g { pl with
            entries := (plFpns a.n pl).set j new, inPlace := false, body := bodyPlace sh (l * s.groups + g) gen, generation := gen }
          some ⟨bump (retirePages t n1 [f] (oldBody s (l * s.groups + g) pl)) Rg.terPageStatsCow 1, peers, data, a.bad⟩
        if fpnNode f != nodeId a.n && peerTakes a.n (fpnNode f) a.peers then fin a.n (mkFpn (fpnNode f) (a.peers.headD 0)) a.peers.tail a.data
        else
          match allocPage t a.n (pageUse a.n s (some (l, g, pl.posBase + 64 * j)) false) none (prevPch a.n s pl j) with
          | none => none
          | some (idx, n1) =>
            let new := mkFpn (nodeId a.n) idx
            if fpnNode f != nodeId a.n then fin (putPage t n1 idx (a.data.headD ⟨[], []⟩) (p % 64) (nodeId a.n) handle) new a.peers a.data.tail
            else
              match pageAt a.n (fpnIdx f) with
              | some e => fin (copyInto t n1 e idx (nodeId a.n) handle) new a.peers a.data
              | none => fin n1 new a.peers a.data

/-- Consecutive positions from `p`, `count` of them, cut at page boundaries: (first, number). -/
def pageRuns : Nat → Nat → Nat → List (Nat × Nat)
  | 0, _, _ => []
  | f + 1, p, count => if count = 0 then [] else
      let k := min count (64 - p % 64)
      (p, k) :: pageRuns f (p + k) (count - k)

/-- Does writing pieces to a page of this node meet poison (R224): kind and FPN. -/
def runPoison (n : Node) (s : Seqn) (l g p : Nat) (rows : List KvRow) : Option (Nat × Nat) :=
  match entryAt n s l g p with
  | none => none
  | some f =>
    if fpnNode f != nodeId n then none
    else
      match pageAt n (fpnIdx f) with
      | none => none
      | some e => ((pagePieces s.heads s.dim s.kf s.vf (p % 64) rows).filterMap fun x => (piecePoison n e x.1 x.2).map fun k => (k, f)).head?

/-- Write one run of new positions of a group: here, or forwarded to the tail holder (R101); `was` is the page the body named before a copy (R98). -/
def writeRun (t : Tck) (sh l g p filled handle : Nat) (was : Option Nat) (rows : List KvRow) (n : Node) : Node :=
  match mget? n.seqs.open_ sh with
  | none => n
  | some s =>
    match entryAt n s l g p with
    | none => n
    | some f =>
      if fpnNode f = nodeId n then
        fillPage ((pagePieces s.heads s.dim s.kf s.vf (p % 64) rows).foldl
          (fun m x => (pageWrite t m (fpnIdx f) x.1 x.2 (nodeId n) handle).1) n) (fpnIdx f) (p % 64 + rows.length)
      else emit n (.fwdAppend (fpnNode f) {
        home := nodeId n, handle := handle, seq := sh, layer := l, group := g, page := fpnIdx (was.getD f), first := p, filled := filled,
        kf := s.kf, vf := s.vf, heads := s.heads, dim := s.dim, rows := rows, shared := was.getD f != f, copyTo := fpnIdx f,
        prot := s.prot, step := (findCmd n handle).any (·.op != opAppendKv), granule := s.granule })

/-- Count the narrowings of new positions (R156). -/
def countRows (t : Tck) (n : Node) (rows : List (List PosRows)) : Node :=
  let all := rows.flatten
  let sum (l : List Stored) : Row := (l.map (·.conv)).foldl (fun a r => ⟨[], [], a.conv + r.conv, a.clip + r.clip, a.nonfin + r.nonfin⟩) ⟨[], [], 0, 0, 0⟩
  countRow t (countRow t n 0 (sum (all.flatMap (·.k)))) 1 (sum (all.flatMap (·.v)))

/-- RESULT of a command that met poison: the FPN in bits [44:0] of bytes [23:16] (R102). -/
def fpnResult (f : Nat) : Bytes := leBytes 8 (f % 2 ^ 45)

/-- Does an append of `count` positions from `pos` reach a page of another node, whose holder then answers for its rows (R101, R102). -/
def reachesPeers (n : Node) (s : Seqn) (l pos count : Nat) : Bool :=
  (List.range s.groups).any fun g => (List.range count).any fun i => (entryAt n s l g (pos + i)).any fun f => fpnIdx f != noPage && fpnNode f != nodeId n

/-- The page at which an append's comparison of scaled rows meets a scale that is not theirs (R151). -/
def skewAt (n : Node) (s : Seqn) (l pos old : Nat) (peer : PeerAns) : Option Nat :=
  peer.skew.filter fun f => (fmtScaled s.kf || fmtScaled s.vf) && fpnNode f == nodeId n
    && (List.range old).any fun i => (List.range s.groups).any fun g => entryAt n s l g (pos + i) == some f

/-- What the positions of an append meet (R102): the filled ones compared on pages of this node in order, then what other holders answered for the rows
forwarded to them. -/
def cmpAll (n : Node) (s : Seqn) (l pos : Nat) (rows : List (List PosRows)) (old : Nat) (peer : PeerCmp) : PeerCmp :=
  let one (i g : Nat) : PeerCmp :=
    match entryAt n s l g (pos + i), (rows.getD i []).getD g ⟨[], []⟩ with
    | some f, r =>
      if fpnIdx f == noPage || fpnNode f != nodeId n then .ok
      else
        match pageAt n (fpnIdx f) with
        | some e => cmpPos n e f ((pos + i) % 64) r.kv
        | none => .ok
    | none, _ => .ok
  let here := ((List.range old).flatMap fun i => (List.range s.groups).map fun g => (i, g)).foldl
    (fun (acc : PeerCmp) x => match acc with | .ok => one x.1 x.2 | a => a) PeerCmp.ok
  match here with
  | .ok => if reachesPeers n s l pos rows.length then (match peer with | .noQuota => .ok | x => x) else .ok
  | a => a

/-- Has a page list grown, or its body been swapped, between two nodes' states: what node firmware alone does. -/
def growsList (n n1 : Node) (sh l g : Nat) : Bool :=
  match mget? n.seqs.open_ sh, mget? n1.seqs.open_ sh with
  | some s, some s1 => (listOf s l g).length != (listOf s1 l g).length || (listOf s l g).generation != (listOf s1 l g).generation
  | _, _ => false

/-- A hot-path command that needs an action of node firmware is handed to it, and counted once (R68). -/
def hotDivert (n : Node) (h : Nat) (needs : Bool) : Node :=
  if needs && (findCmd n h).any (fun c => hotOpcodes.contains c.op && !c.diverted) then
    modCmd (bump n Rg.cmdHotDivertDivert 1) h fun c => { c with diverted := true }
  else n

/-- Put a sequence's context into the 65,536 cached ones, where the one longest there makes room (R78). DESIGN CHOICE, unsafe for claims about
`CMD_HOT_DIVERT`: the order of replacement, and that an opened sequence's context is cached (log entry 54). -/
def cacheCtx (n : Node) (seq : Nat) : Node :=
  if n.seqs.ctx.contains seq then n
  else { n with seqs := { n.seqs with ctx := n.seqs.ctx.drop (n.seqs.ctx.length - 65535) ++ [seq] } }

/-- A hot-path command reads a sequence's context: one that is not cached is fetched by node firmware (R68, R78). -/
def needCtx (n : Node) (c : Cmd) (seq : Nat) : Node :=
  if hotOpcodes.contains c.op then cacheCtx (hotDivert n c.handle (!n.seqs.ctx.contains seq)) seq else n

/-- The append of `rows` from position `pos` of a layer (R98, R101, R102, R221, R224), on the home node, for the command `handle`. -/
def appendRows (t : Tck) (n0 : Node) (handle sh : Nat) (s : Seqn) (l pos : Nat) (rows : List (List PosRows)) (peer : PeerAns) : AppRes :=
  let n := ctrlReads t n0 peer.errs
  let f := filledOf s l
  let count := rows.length
  let old := min (f - pos) count
  match skewAt n s l pos old peer, cmpAll n s l pos rows old peer.cmp with
  | some f, _ => .fail (raise t n evScaleSkew []) stMemUncorr (fpnResult f)
  | none, .poison owner fpn => .fail n (if owner then stOwnerLost else stMemUncorr) (fpnResult fpn)
  | none, .differs => .fail n stBadParam (leBytes 1 36)
  | none, _ =>
    if old = count then .ok n 0 old
    else
      let new := rows.drop old
      let runs := pageRuns (new.length / 64 + 2) (pos + old) new.length
      let groups := List.range s.groups
      let kv (g : Nat) (r : Nat × Nat) : List KvRow := (List.range r.2).map fun i => ((rows.getD (r.1 + i - pos) []).getD g ⟨[], []⟩).kv
      match (groups.flatMap fun g => runs.filterMap fun r => runPoison n s l g r.1 (kv g r)).head? with
      | some (k, fpn) => .fail (bump n Rg.micPoisonPartialWr 1) (if k = 2 then stOwnerLost else stMemUncorr) (fpnResult fpn)
      | none =>
        let cow := (groups.flatMap fun g => runs.map fun r => (g, r.1)).foldl
          (fun (a : Option AppSt) x => a.bind (cowGroup t sh l x.1 x.2 handle)) (some ⟨n, peer.pages, peer.data, none⟩)
        match cow.bind (growAll t sh l (pos + count) ((new.length / 64 + 2) * (s.groups + 1))) with
        | none => .wait (hotDivert n handle true)
        | some a =>
          let a := { a with n := hotDivert a.n handle (groups.any fun g => growsList n a.n sh l g) }
          let n1 := (groups.flatMap fun g => runs.map fun r => (g, r)).foldl
            (fun m x => writeRun t sh l x.1 x.2.1 f handle (entryAt n s l x.1 x.2.1) (kv x.1 x.2) m) a.n
          let n2 := modSeq n1 sh fun q =>
            { q with lists := groups.foldl (fun m g => mset m (l * q.groups + g) { listOf q l g with filled := pos + count }) q.lists }
          .ok (countRows t n2 new) (count - old) old

/-! Order on a sequence (R72). -/

/-- Sequence-state commands (R72). -/
def seqState (op : Nat) : Bool := [opSeqOpen, opSeqClose, opSeqExtend, opPagelistSwap, opSeqFork].contains op

/-- The attention commands. -/
def attends (op : Nat) : Bool := [opAttend, opPrefill, opAttendBlock].contains op

/-- The sequence handles a command names. -/
def namesSeq (c : Cmd) : List Nat :=
  if c.op == opSeqFork then [c.f 24 8, c.f 32 8]
  else if seqState c.op || attends c.op || c.op == opAppendKv || c.op == opCopyPages then [c.f 24 8]
  else if [opMigrate, opPin, opUnpin, opPlaceHint].contains c.op && c.f 40 1 == 1 then [c.f 24 8]
  else []

/-- Has an earlier command taken its snapshot or applied its append, so that a later sequence-state command may take effect (R72, R93). -/
def seqTook (n : Node) (d : Cmd) : Bool :=
  d.stage == .running && (!attends d.op || n.seqs.snaps.any (·.handle == d.handle))

/-- Does an earlier command on the same sequence hold this one (R72), or the move of the sequence to a drain's successor, which has its place in acceptance
order as `SEQ_CLOSE` has (R351). -/
def seqHeld (n : Node) (c : Cmd) : Bool :=
  (nodeState n (nodeId n) == 2 && n.map.drainAt ≤ c.seq && (namesSeq c).any (mhas n.seqs.open_)) ||
  n.fe.cmds.any fun d => d.seq < c.seq && (namesSeq d).any (namesSeq c).contains
    && (seqState d.op || c.op == opSeqClose || (seqState c.op && !seqTook n d))

end Sys2Proof.Machine
end

