-- ==== Sys2Proof/Machine/Seq.lean ====
section
/-! DEFINITION. The sequence commands (04): open, close, extend, swap, fork, append, copy, and the events around them. -/

namespace Sys2Proof.Machine

open Host (Outcome)

/-! Ownership (R78). -/

/-- Does a composition hold a slice here, of the node's tenant (R78 check 1). -/
def compOurs (n : Node) (comp : Nat) : Bool :=
  holdsSlice n comp (nodeId n) &&
    (match mget? n.map.map.comps comp with
     | some e => e.tenant == rd n Rg.secStatusTenant
     | none => false)

/-- `ST_NOT_OWNER` with a node in RESULT bytes [17:16] (R78). -/
def notOwner (t : Tck) (n : Node) (c : Cmd) (node : Nat) : Node := complete t n c.handle stNotOwner (leBytes 2 node)

/-- Is a sequence open on a node that drains to this one, and not yet here (R351). -/
def inTransfer (n : Node) (k : Nat) : Bool :=
  match mget? n.map.map.nodes k with
  | some e => e.state == 2 && e.successor == nodeId n
  | none => false

/-- Is a sequence open here and sealed. -/
def sealedSeq (n : Node) (seq : Nat) : Bool :=
  match mget? n.seqs.open_ seq with
  | some s => s.sealed
  | none => false

/-- A sequence command in its turn: `ST_DENIED` for a sealed sequence on a relaxed ring (R326); then, where a header field or a reserved bit offends (R9),
`ST_BAD_PARAM` at the lowest of all offending offsets (R61), those of the command's own conditions (`offs`) among them; then R78; the command's own conditions
alone come after it, in `body`. DESIGN CHOICE, unsafe: the spec states no order among these statuses (log entry 55). -/
def seqChecks (t : Tck) (n : Node) (c : Cmd) (seals : Bool) (rsvOffs offs : List Nat) (body : Node) : Node :=
  let seq := c.f 24 8
  if seqHeld n c then n
  else if (seals || sealedSeq n seq) && !sealedClass c.q then complete t n c.handle stDenied (attEnd n c)
  else
    if !(headerOffs c ++ rsvOffs).isEmpty then badParam t n c.handle ((firstOff (headerOffs c ++ rsvOffs ++ offs)).getD 0)
    else
      if !compOurs n (compOf seq) then notOwner t n c 0xFFFF
      else if mhas n.seqs.open_ seq then body
      else
        match mget? n.seqs.elsewhere seq with
        | some k => if inTransfer n k then n else notOwner t n c k
        | none => body

/-- Complete at the lowest offending offset, or go on. -/
def orBad (t : Tck) (n : Node) (c : Cmd) (offs : List Nat) (body : Node) : Node :=
  match firstOff offs with
  | some o => badParam t n c.handle o
  | none => body

/-- The checks for a command that needs its sequence open, with the conditions `offs` puts on its body; then its effect. -/
def withSeq (t : Tck) (n : Node) (c : Cmd) (rsvOffs : List Nat) (offs : Seqn → List Nat) (body : Seqn → Node) : Node :=
  match mget? n.seqs.open_ (c.f 24 8) with
  | none => seqChecks t n c false rsvOffs [] (complete t n c.handle stNoSeq [])
  | some s => seqChecks t n c false rsvOffs (offs s) (orBad t n c (offs s) (body s))

/-! SEQ_OPEN (R82, R85 to R88). -/

/-- The offset of the field of the `SEQ_OPEN` body that holds byte `i` (R88). -/
def openFieldOff (i : Nat) : Nat :=
  (([24, 32, 33, 34, 35, 36, 38, 40, 41, 42, 44, 48, 56, 60].filter (· ≤ i)).getLast?).getD 24

/-- Offending fields of a fresh `SEQ_OPEN` (R82, R85, R160, R356). -/
def openOffs (n : Node) (c : Cmd) : List Nat :=
  let mode := c.f 32 1
  let d := c.f 36 2
  let rope := c.f 41 1 % 4
  let ml := c.f 44 4
  offIf (bitAt mode 3 && !bitAt mode 0) 32
  ++ offIf (mode % 4 != 0 && (groupOf n).isNone) 32
  ++ offIf (8 < c.f 33 1) 33
  ++ offIf (7 < c.f 34 1 % 16 || 7 < c.f 34 1 / 16) 34
  ++ offIf (c.f 35 1 == 0 || 8 < c.f 35 1) 35
  ++ offIf (d < 32 || 256 < d || !mult d 32) 36
  ++ offIf (c.f 38 2 == 0 || 1024 < c.f 38 2) 38
  ++ offIf (c.f 40 1 == 0 || 32 < c.f 40 1) 40
  ++ offIf (rope == 3) 41
  ++ offIf (if rope == 0 then c.f 42 2 != 0 else !mult (c.f 42 2) 2 || c.f 42 2 < 2 || d < c.f 42 2) 42
  ++ offIf (ml == 0 || 2 ^ 31 < ml || (bitAt mode 2 && 32768 < ml)) 44
  ++ offIf (if rope == 0 then c.f 48 8 != 0 else !mult (c.f 48 8) 64 || t1Bytes ≤ c.f 48 8) 48
  ++ offIf (rope != 0 && c.f 56 4 < ml) 56

/-- The sequence a `SEQ_OPEN` opens. -/
def openSeqn (c : Cmd) (frames : Nat) : Seqn where
  id := c.f 24 8
  sealed := bitAt (c.f 32 1) 0
  prot := c.f 32 1 % 4 != 0
  region := bitAt (c.f 32 1) 2
  twoPass := bitAt (c.f 32 1) 3
  granule := c.f 33 1
  kf := c.f 34 1 % 16
  vf := c.f 34 1 / 16
  heads := c.f 35 1
  dim := c.f 36 2
  layers := c.f 38 2
  groups := c.f 40 1
  rope := c.f 41 1 % 4
  rotDims := c.f 42 2
  maxLen := c.f 44 4
  parents := []
  ropeAddr := c.f 48 8
  ropeLen := c.f 56 4
  openBody := slice c.entry 24 40
  reserved := frames
  lists := []
  hints := []
  digests := []
  extra := []

/-- Frames for `m` positions of every layer and group (R87). -/
def framesFor (s : Seqn) (m : Nat) : Nat :=
  slotsFor m * s.layers * s.groups * (footprint s.heads s.dim s.kf s.vf / 4096)

/-- Allocate `k` consecutive slots of a region's run at address `a`; slot `j` is page `j` of the layer and group (R82). -/
def regionSlots (t : Tck) (s : Seqn) (l g a : Nat) : Nat → Nat → Node → Option (Node × List Nat)
  | 0, _, n => some (n, [])
  | k + 1, j, n =>
    let foot := footprint s.heads s.dim s.kf s.vf
    let idx := freeIdx n (n.ter.pages.length + 2) n.ter.nextPage
    let unit := if s.prot then freeUnits n (foot / 4096) else none
    if s.prot && unit.isNone then none
    else
      match regionSlots t s l g a k (j + 1) (enterPage t n idx (a + j * foot) (pageUse n s (some (l, g, 64 * j)) false) unit) with
      | none => none
      | some (m, ids) => some (m, idx :: ids)

/-- Allocate a region's runs, one for each layer and group (R82). -/
def regionRuns (t : Tck) (s : Seqn) : List (Nat × Nat) → Node → NMap PList → Option (Node × NMap PList)
  | [], n, m => some (n, m)
  | (l, g) :: rest, n, m =>
    let foot := footprint s.heads s.dim s.kf s.vf
    let k := slotsFor s.maxLen
    match placeRun n (compOf s.id) (k * foot) none none with
    | none => none
    | some a =>
      match regionSlots t s l g a k 0 n with
      | none => none
      | some (n1, ids) =>
        regionRuns t s rest n1 (mset m (l * s.groups + g) ⟨0, k, k, 0, 0, 0, false, ids.map (mkFpn (nodeId n)), 0⟩)

/-- Sequences a home node keeps open (R78). -/
abbrev maxSeqs : Nat := 4194304

/-- What keeps a sequence from being opened as it is asked for (R78, R82, R87): no room for another sequence (at `at_`), a reservation beyond the quota (at `ml`),
no run for a region (at 32). DESIGN CHOICE, unsafe: the status of a sequence beyond the 4,194,304 (log entry 54). -/
def roomOffs (n : Node) (s : Seqn) (at_ ml : Nat) : List Nat :=
  offIf (maxSeqs ≤ n.seqs.open_.length) at_ ++ offIf (unreserved n (compOf s.id) < framesFor s s.maxLen) ml

/-- Every (layer, group) of a sequence. -/
def layerGroups (s : Seqn) : List (Nat × Nat) := (List.range s.layers).flatMap fun l => (List.range s.groups).map fun g => (l, g)

/-- Every condition on a fresh `SEQ_OPEN`: its fields, the room for it, and, where these are in order, a region's runs (R82). -/
def freshOffs (t : Tck) (n : Node) (c : Cmd) : List Nat :=
  let s := openSeqn c (framesFor (openSeqn c 0) (c.f 44 4))
  let l := openOffs n c ++ roomOffs n s 24 44
  if l.all (48 ≤ ·) then l ++ offIf (s.region && (regionRuns t s (layerGroups s) n []).isNone) 32 else l

/-- Put an opened sequence in place, its context cached. -/
def openIn (n : Node) (s : Seqn) : Node := cacheCtx { n with seqs := { n.seqs with open_ := mset n.seqs.open_ s.id s } } s.id

/-- Open a fresh sequence (R82, R87). -/
def openFresh (t : Tck) (n : Node) (c : Cmd) : Node :=
  let s := openSeqn c (framesFor (openSeqn c 0) (c.f 44 4))
  if s.region then
    match regionRuns t s (layerGroups s) n [] with
    | none => badParam t n c.handle 32
    | some (n1, m) => complete t (openIn n1 { s with lists := m }) c.handle stOk []
  else complete t (openIn n s) c.handle stOk []

/-- The first field in which a `SEQ_OPEN` differs from the one that opened the sequence (R88). -/
def reopenOffs (c : Cmd) (s : Seqn) : List Nat :=
  let body := slice c.entry 24 40
  if s.openBody = body then [] else [openFieldOff (24 + (List.range 40).findIdx fun i => byteAt s.openBody i != byteAt body i)]

/-- A node that drains takes no new home (R342). -/
def noNewHome (n : Node) : Bool := nodeState n (nodeId n) == 2

/-- `SEQ_OPEN`. A node that drains takes no new home (R342): its successor is named as the owner. A `SEQ_OPEN` repeated after a `SEQ_EXTEND` is compared with the
one that opened the sequence, byte by byte, and not with its present length and granule. DESIGN CHOICE, unsafe: log entry 56. -/
def seqOpen (h : Nat) (t : Tck) (n : Node) : Node :=
  withCmd n h opSeqOpen fun c =>
    let offs := match mget? n.seqs.open_ (c.f 24 8) with
      | some s => reopenOffs c s
      | none => freshOffs t n c
    seqChecks t n c (bitAt (c.f 32 1) 0) (offIf (16 ≤ c.f 32 1) 32 ++ offIf (4 ≤ c.f 41 1) 41 ++ rsv c 60 63) offs
      (if mhas n.seqs.open_ (c.f 24 8) then orBad t n c offs (complete t n h stOk (leBytes 2 0x0100))
       else if noNewHome n then notOwner t n c ((mget? n.map.map.nodes (nodeId n)).elim 0xFFFF (·.successor))
       else orBad t n c offs (openFresh t n c))

/-! SEQ_CLOSE (R99). -/

/-- Pages a sequence references or owns: entries of its bodies, its unplaced pages here and elsewhere. -/
def seqPages (n : Node) (s : Seqn) : List Nat :=
  dedupNat ((s.lists.flatMap fun p => plFpns n p.2) ++ s.extra
    ++ (n.ter.pages.filterMap fun e => if e.2.seq == s.id && e.2.home == nodeId n then some (mkFpn (nodeId n) e.1) else none))

/-- Close a sequence: bodies, references and reservation are released; pages are freed under R94. -/
def closeSeq (t : Tck) (n : Node) (s : Seqn) : Node :=
  let pages := seqPages n s
  retirePages t { n with seqs := { n.seqs with open_ := mdel n.seqs.open_ s.id, ctx := n.seqs.ctx.filter (· != s.id) } } pages
    (s.lists.flatMap fun p => oldBody s p.1 p.2)

/-- `SEQ_CLOSE`: RESULT gives the page references released, one for each entry that names a page. -/
def seqClose (h : Nat) (t : Tck) (n : Node) : Node :=
  withCmd n h opSeqClose fun c =>
    withSeq t n c (rsv c 32 63) (fun _ => []) fun s =>
      let refs := ((s.lists.flatMap fun p => plFpns n p.2).filter fun f => fpnIdx f != noPage).length
      complete t (closeSeq t n s) h stOk (leBytes 4 refs)

/-! SEQ_EXTEND (R95, R96). -/

/-- List `j` enlarged by copy-and-swap (R95), or built from a region's slots (R96); `es` are its entries. -/
def extendList (s : Seqn) (newMax j : Nat) (es : List Nat) (p : PList) : PList :=
  if s.region then
    let k := slotsFor p.filled
    ⟨0, k, slotsFor newMax, 0, bodyPlace s.id j 0, 0, false, es.take k, p.filled⟩
  else
    let gen := (p.generation + 1) % 2 ^ 32
    { p with capacity := slotsFor newMax, generation := gen, body := bodyPlace s.id j gen, inPlace := false, entries := es }

/-- Does a `SEQ_EXTEND` give a new granule. -/
def regrains (c : Cmd) (s : Seqn) : Bool := c.f 36 1 != 0xFF && c.f 36 1 ≤ 8 && !s.sealed

/-- Offending fields of `SEQ_EXTEND`. -/
def extendOffs (n : Node) (c : Cmd) (s : Seqn) : List Nat :=
  let nm := c.f 32 4
  let g := c.f 36 1
  offIf (nm < s.maxLen || 2 ^ 31 < nm || (s.rope != 0 && s.ropeLen < nm) || unreserved n (compOf s.id) < framesFor s nm - framesFor s s.maxLen) 32
  ++ offIf (g != 0xFF && (8 < g || (s.sealed && g != s.granule))) 36
  ++ offIf (regrains c s && s.lists.any fun p => !mult p.2.posBase (64 * 2 ^ g)) 36

/-- The lists of an extended sequence. -/
def extendLists (n : Node) (c : Cmd) (s : Seqn) : NMap PList :=
  (layerGroups s).foldl
    (fun m x =>
      let p := listOf s x.1 x.2
      mset m (x.1 * s.groups + x.2) (extendList s (c.f 32 4) (x.1 * s.groups + x.2) (plFpns n p) p))
    s.lists

/-- The sequence after a `SEQ_EXTEND`. -/
def extended (n : Node) (c : Cmd) (s : Seqn) : Seqn :=
  { s with
    region := false, maxLen := c.f 32 4, reserved := s.reserved + (framesFor s (c.f 32 4) - framesFor s s.maxLen)
    granule := if regrains c s then c.f 36 1 else s.granule, lists := extendLists n c s }

/-- `SEQ_EXTEND`. -/
def seqExtend (h : Nat) (t : Tck) (n : Node) : Node :=
  withCmd n h opSeqExtend fun c =>
    withSeq t n c (rsv c 37 63) (extendOffs n c) fun s =>
      complete t (retirePages t (modSeq n s.id fun _ => extended n c s) [] (s.lists.flatMap fun p => oldBody s p.1 p.2)) h stOk []

/-! PAGELIST_SWAP (R91 to R93). -/

/-- The entries of the new body, 8 bytes each, as the source holds them. -/
def swapEntries (n : Node) (c : Cmd) : List Nat :=
  (List.range (c.f 36 4)).map fun j =>
    if c.f 35 1 = 1 then ofLe (nameRead n (c.f 40 8 + 8 * j) 8) else ofLe (hostRead n c.mem (c.f 40 8 + 8 * j) 8)

/-- Is a node a member of this node's protection group (R356). -/
def inGroup (n : Node) (k : Nat) : Bool :=
  match groupOf n with
  | some (_, g) => g.members.contains k
  | none => false

/-- Offending fields of `PAGELIST_SWAP` that do not need the body's entries (R82, R91, R92). -/
def swapOffs (n : Node) (c : Cmd) (s : Seqn) : List Nat :=
  let f := (listOf s (c.f 32 2) (c.f 34 1)).filled
  let pb := c.f 48 4
  let len := c.f 36 4
  offIf s.region 24 ++ offIf (s.layers ≤ c.f 32 2) 32 ++ offIf (s.groups ≤ c.f 34 1) 34 ++ offIf (1 < c.f 35 1) 35
  ++ offIf (!mult (c.f 40 8) 64 || (c.f 35 1 == 1 && (t1Bytes < c.f 40 8 + 8 * len || (len != 0 && !inExtents n (c.f 40 8) (8 * len))))) 40
  ++ offIf (!mult pb (64 * 2 ^ s.granule) || 64 * (f / 64) < pb) 48
  ++ offIf (pb + 64 * len < f || 64 * slotsFor s.maxLen < pb + 64 * len) 36

/-- Offending entries (R92, R356); an entry that names no page passes. -/
def entryOffs (n : Node) (s : Seqn) (es : List Nat) : List Nat :=
  let es := es.filter fun e => fpnIdx e != noPage
  offIf (es.any fun e => 2 ^ 45 ≤ e || !inMap n (fpnNode e)) 40
  ++ offIf (s.prot && es.any fun e => !inGroup n (fpnNode e)) 36

/-- An entry names a page of this node that is neither the sequence's nor a shared prefix page of the same format and shape (R92). -/
def foreignEntry (n : Node) (s : Seqn) (f : Nat) : Bool :=
  fpnNode f == nodeId n && fpnIdx f != noPage &&
    (match pageAt n (fpnIdx f) with
     | none => true
     | some e => !(e.seq == s.id || s.lists.any (fun p => (plFpns n p.2).contains f) || (e.pref && e.kf == s.kf && e.vf == s.vf && e.heads == s.heads && e.dim == s.dim)))

/-- Give the page that entry `j` of a body names its place, if it has none yet (R103). -/
def placeOne (n : Node) (s : Seqn) (l g pb : Nat) (es : List Nat) (m : Node) (j : Nat) : Node :=
  let f := es.getD j 0
  if fpnNode f == nodeId n then
    let put (e : PageEnt) : PageEnt := if e.seq == s.id && e.place.isNone then { e with place := some (l, g, pb + 64 * j) } else e
    { m with ter := { m.ter with pages := mmod m.ter.pages (fpnIdx f) put } }
  else m

/-- Give unplaced pages the place of the body entry that names them (R103). -/
def placePages (n : Node) (s : Seqn) (l g pb : Nat) (es : List Nat) : Node := (List.range es.length).foldl (placeOne n s l g pb es) n

/-- The list with the new body, one generation on (R93). -/
def swapBody (s : Seqn) (c : Cmd) (es : List Nat) : PList :=
  let pl := listOf s (c.f 32 2) (c.f 34 1)
  let inPl := c.f 35 1 == 1
  let gen := (pl.generation + 1) % 2 ^ 32
  ⟨pl.version, es.length, es.length, gen, if inPl then c.f 40 8 else bodyPlace s.id (c.f 32 2 * s.groups + c.f 34 1) gen, c.f 48 4, inPl,
    if inPl then [] else es, pl.filled⟩

/-- Install the new body: the pages it no longer names are retired, those it names for the first time get their place. -/
def swapIn (t : Tck) (n : Node) (s : Seqn) (c : Cmd) (es : List Nat) : Node :=
  let l := c.f 32 2
  let g := c.f 34 1
  let gone := (plFpns n (listOf s l g)).filter fun f => !es.contains f
  let old := oldBody s (l * s.groups + g) (listOf s l g)
  let n1 := placePages (retirePages t (setList n s.id l g (swapBody s c es)) gone old) s l g (c.f 48 4) es
  modSeq n1 s.id fun q => { q with extra := q.extra.filter fun f => !es.contains f }

/-- `PAGELIST_SWAP`. A body that becomes marked is first recalled from the heads that hold copies of its lines (R280): the command waits. -/
def pagelistSwap (h : Nat) (t : Tck) (n : Node) : Node :=
  withCmd n h opPagelistSwap fun c =>
    withSeq t n c (rsv c 52 63)
      (fun s => swapOffs n c s ++ (if c.f 35 1 == 0 && (swapOffs n c s).all (40 ≤ ·) then entryOffs n s (swapEntries n c) else [])) fun s =>
      if c.f 35 1 == 1 && c.f 36 4 != 0 && !extentsHeld n (c.f 40 8) (8 * c.f 36 4) then complete t n h stNotOwner []
      else
        let (n, clear) := if c.f 35 1 = 1 then recallRange t true n (c.f 40 8) (8 * c.f 36 4) else (n, true)
        if !clear then n
        else
          let es := swapEntries n c
          orBad t n c (entryOffs n s es)
            (if es.any (foreignEntry n s) then complete t n h stNotOwner []
             else complete t (swapIn t n s c es) h stOk (leBytes 4 (((listOf s (c.f 32 2) (c.f 34 1)).generation + 1) % 2 ^ 32)))

/-! SEQ_FORK (R97). -/

/-- The child of a fork, its lists still to build. -/
def forkChild (c : Cmd) (p : Seqn) : Seqn :=
  { p with
    id := c.f 32 8, sealed := bitAt (c.f 44 1) 0, prot := c.f 44 1 % 4 != 0, region := false, twoPass := bitAt (c.f 44 1) 3, granule := c.f 45 1,
    maxLen := c.f 46 4, lists := [], hints := [], extra := [], digests := [], parents := p.id :: p.parents,
    openBody := leBytes 8 (c.f 32 8) ++ leBytes 1 (c.f 44 1) ++ leBytes 1 (c.f 45 1) ++ slice p.openBody 10 10 ++ leBytes 4 (c.f 46 4)
      ++ slice p.openBody 24 16 }

/-- Offending fields of `SEQ_FORK`, a reservation beyond the quota among them (R87). -/
def forkOffs (n : Node) (c : Cmd) (p : Seqn) : List Nat :=
  let len := c.f 40 4
  let filled := ((layerGroups p).map fun x => (listOf p x.1 x.2).filled).foldl min (2 ^ 31)
  let mode := c.f 44 1
  let g := c.f 45 1
  offIf (mhas n.seqs.open_ (c.f 32 8) || maxSeqs ≤ n.seqs.open_.length) 32
  ++ offIf (len == 0 || filled < len) 40
  ++ offIf (bitAt mode 2 || (bitAt mode 3 && !bitAt mode 0) || (mode % 4 != 0 && (groupOf n).isNone)) 44
  ++ offIf (8 < g || p.lists.any fun x => !mult x.2.posBase (64 * 2 ^ g)) 45
  ++ offIf (c.f 46 4 < len || 2 ^ 31 < c.f 46 4 || (p.rope != 0 && p.ropeLen < c.f 46 4)
    || unreserved n (compOf (c.f 32 8)) < framesFor (forkChild c p) (c.f 46 4)) 46

/-- The byte ranges of a page that hold its positions from `t0` on, as (offset, length). -/
def tailParts (e : PageEnt) (t0 : Nat) : List (Nat × Nat) :=
  (List.range e.heads).flatMap fun h => (List.range 4).map fun s =>
    let (off, len) := rowPlace e.heads e.dim e.kf e.vf s h t0
    (off, len * (64 - t0))

/-- Bytes of the line at an offset that lie in the ranges. -/
def lineIn (parts : List (Nat × Nat)) (l : Nat) : Nat :=
  ((List.range 64).filter fun i => parts.any fun p => p.1 ≤ l + i && l + i < p.1 + p.2).length

/-- The contents of a page with its positions from `t0` of its 64 on zeroed (R97): a poisoned line wholly zeroed is clean, one zeroed in part stays poison
(R224). -/
def keepHead (e : PageEnt) (t0 : Nat) (d : PageData) : PageData :=
  let parts := tailParts e t0
  ⟨parts.foldl (fun b p => putBytes b p.1 (zeros p.2)) d.bytes, d.poison.filter fun x => lineIn parts x.1 != 64⟩

/-- The kinds of the poisoned lines of a page that zeroing from `t0` on writes in part (R224). -/
def headPoison (e : PageEnt) (t0 : Nat) (d : PageData) : List Nat :=
  let parts := tailParts e t0
  (d.poison.filter fun x => 0 < lineIn parts x.1 && lineIn parts x.1 < 64).map (·.2)

/-- Copy the page that holds FORK_LEN - 1 for the child, on the same holder, or at home where it does not fit there (R87): the copy's FPN. `prev` is the channel of
the page before it in its granule (R200). -/
def forkPage (t : Tck) (c : Cmd) (child : Seqn) (l g f first : Nat) (prev : Option Nat) (a : AppSt) : Option (AppSt × Nat) :=
  let keep := c.f 40 4 % 64
  if fpnNode f != nodeId a.n && peerTakes a.n (fpnNode f) a.peers then
    some ({ a with n := emit a.n (.remoteCopy (fpnNode f) c.handle [f] [] keep), peers := a.peers.tail }, mkFpn (fpnNode f) (a.peers.headD 0))
  else
    match allocPage t a.n (pageUse a.n child (some (l, g, first)) false) none prev with
    | none => none
    | some (idx, n1) =>
      let far := fpnNode f != nodeId a.n
      let d := if far then a.data.headD ⟨[], []⟩ else ((pageAt a.n (fpnIdx f)).map (pageData a.n)).getD ⟨[], []⟩
      match pageAt n1 idx with
      | none => none
      | some e =>
        let hit := headPoison e keep d
        some ({ a with n := bump (putPage t n1 idx (keepHead e keep d) keep (nodeId a.n) c.handle) Rg.micPoisonPartialWr hit.length
                       data := if far then a.data.tail else a.data
                       bad := a.bad.orElse fun _ => hit.head? },
          mkFpn (nodeId a.n) idx)

/-- Build the child's list of one layer and group. -/
def forkList (t : Tck) (c : Cmd) (p child : Seqn) (x : Nat × Nat) (acc : Option (AppSt × NMap PList)) : Option (AppSt × NMap PList) :=
  match acc with
  | none => none
  | some (a, m) =>
    let pl := listOf p x.1 x.2
    let len := c.f 40 4
    let es := plFpns a.n pl
    let whole := (len / 64 * 64 - pl.posBase) / 64
    let mk (es : List Nat) : PList :=
      ⟨0, es.length, slotsFor child.maxLen, 0, bodyPlace child.id (x.1 * p.groups + x.2) 0, pl.posBase, false, es, len⟩
    if len % 64 = 0 || len ≤ pl.posBase then some (a, mset m (x.1 * p.groups + x.2) (mk (es.take whole)))
    else
      match es[whole]? with
      | none => some (a, mset m (x.1 * p.groups + x.2) (mk (es.take whole)))
      | some f =>
        if fpnIdx f = noPage then some (a, mset m (x.1 * p.groups + x.2) (mk (es.take (whole + 1))))
        else
          match forkPage t c child x.1 x.2 f (pl.posBase + 64 * whole) (prevPch a.n child (mk (es.take whole)) whole) a with
          | none => none
          | some (b, f2) => some (b, mset m (x.1 * p.groups + x.2) (mk (es.take whole ++ [f2])))

/-- An allocation that finds no free run waits, counted once (R200). -/
def allocWaits (n : Node) (h : Nat) : Node :=
  if n.ter.allocWait.contains h then n
  else bump { n with ter := { n.ter with allocWait := n.ter.allocWait ++ [h] } } Rg.terPageStatsAllocWait 1

/-- The allocation a command waited for is over. -/
def allocOver (n : Node) (h : Nat) : Node := { n with ter := { n.ter with allocWait := n.ter.allocWait.filter (· != h) } }

/-- The kind of poison that another holder's copy met (R224). -/
def peerPoison (p : PeerAns) : Option Nat :=
  match p.cmp with
  | .poison o _ => some (if o then 2 else 1)
  | _ => none

/-- `SEQ_FORK`; a copy that finds no free run waits (R200). Zeroing that would write part of a poisoned line is discarded, and the command ends with the status of
its kind and no child (R224). -/
def seqFork (h : Nat) (peer : PeerAns) (t : Tck) (n : Node) : Node :=
  withCmd n h opSeqFork fun c =>
    let offs := match mget? n.seqs.open_ (c.f 24 8) with | some p => forkOffs n c p | none => []
    seqChecks t n c (bitAt (c.f 44 1) 0) (offIf (16 ≤ c.f 44 1) 44 ++ rsv c 50 63) offs
      (match mget? n.seqs.open_ (c.f 24 8) with
       | none => complete t n h stNoSeq []
       | some p =>
         if !compOurs n (compOf (c.f 32 8)) then notOwner t n c 0xFFFF
         else
           match mget? n.seqs.elsewhere (c.f 32 8) with
           | some k => notOwner t n c k
           | none =>
             orBad t n c offs
               (let child := forkChild c p
                let n0 := ctrlReads t n peer.errs
                match (layerGroups p).foldl (fun acc x => forkList t c p child x acc) (some (⟨n0, peer.pages, peer.data, peerPoison peer⟩, [])) with
                | none => allocWaits n0 h
                | some (a, m) =>
                  match a.bad with
                  | some k => complete t (allocOver (bump n0 Rg.micPoisonPartialWr 1) h) h (if k = 2 then stOwnerLost else stMemUncorr) []
                  | none =>
                  complete t (allocOver (openIn a.n { child with reserved := framesFor child child.maxLen, lists := m }) h) h stOk []))

/-! APPEND_KV (R100 to R102) and the position wait (R73). -/

/-- Offending fields of `APPEND_KV`. -/
def appendOffs (c : Cmd) (s : Seqn) : List Nat :=
  offIf (s.layers ≤ c.f 32 2) 32 ++ offIf (2 < c.f 34 1 && c.f 34 1 != 0xF) 34
  ++ offIf (c.f 40 2 == 0 || 4096 < c.f 40 2 || s.maxLen < c.f 36 4 + c.f 40 2) 40

/-- The rows of an `APPEND_KV`. -/
def appendBuf (n : Node) (c : Cmd) (s : Seqn) : List (List PosRows) :=
  let rows := c.f 40 2 * s.groups * s.heads
  bufRows n s (c.f 34 1) (c.f 36 4) (c.f 40 2)
    (hostRead n c.mem (c.f 44 8) (bufLen s.dim rows (c.f 34 1) s.kf)) (hostRead n c.mem (c.f 52 8) (bufLen s.dim rows (c.f 34 1) s.vf))

/-- RESULT of an append: positions appended and matched (R102). -/
def appendResult (a m : Nat) : Bytes := leBytes 4 a ++ leBytes 4 m

/-- An append applied: it completes once its parity is acknowledged (R358). -/
def appended (t : Tck) (n : Node) (h a m : Nat) : Node :=
  if acksLeft n (nodeId n) h then setRunning { n with seqs := { n.seqs with applied := n.seqs.applied ++ [(h, a, m)] } } h
  else complete t n h stOk (appendResult a m)

/-- The end of the wait of R73 and R102 for an untimed command: the end of tick A + `CMD_HORIZON.DEADLINE_DEF`; for a timed one, notch 48 of its deadline
tick. -/
def waitBound (t : Tck) (n : Node) (c : Cmd) : Nat :=
  if timed c.op then t.at c.deadline 48 else t.at (c.accTick + rd n Rg.cmdHorizonDeadlineDef + 1) 0

/-- A command whose positions are not reached, or that waits for a page, waits until its bound, and then completes with `ST_DEADLINE` (R73, R200). -/
def waitOrEnd (t : Tck) (n : Node) (c : Cmd) : Node :=
  if waitBound t n c ≤ t.now then complete t (allocOver n c.handle) c.handle stDeadline []
  else modCmd n c.handle fun d => { d with waited := true }

/-- `APPEND_KV`. Behind positions not yet filled it waits; one that has waited and is not through by its bound completes with `ST_DEADLINE` (R73). A protected
append completes once its parity is acknowledged (R358). -/
def appendKv (h : Nat) (peer : PeerAns) (t : Tck) (n : Node) : Node :=
  withCmd n h opAppendKv fun c =>
    withSeq t n c (rsv c 35 35 ++ rsv c 42 43 ++ rsv c 60 63) (appendOffs c) fun s =>
      if filledOf s (c.f 32 2) < c.f 36 4 || (c.waited && waitBound t n c ≤ t.now) then waitOrEnd t (needCtx n c s.id) c
      else
        match appendRows t (needCtx n c s.id) h s.id s (c.f 32 2) (c.f 36 4) (appendBuf n c s) peer with
        | .wait n1 => waitOrEnd t (allocWaits n1 h) c
        | .fail n1 st res => complete t (allocOver n1 h) h st res
        | .ok n1 a m => appended t (allocOver n1 h) h a m

/-- `APPEND_POSITION_WAIT_END` (R73): an append that waits for earlier positions, or for a page under R200, proceeds when it can, or completes with
`ST_DEADLINE` at its bound. -/
def positionWaitEnd (h : Nat) (peer : PeerAns) (t : Tck) (n : Node) : Node :=
  match findCmd n h with
  | none => n
  | some c =>
    if c.op == opAppendKv && c.stage == .dispatched then appendKv h peer t n
    else if attends c.op && c.stage != .queued && !n.seqs.snaps.any (·.handle == h) && waitBound t n c ≤ t.now then
      complete t (allocOver (dropStep n h) h) h stDeadline (attEnd n c)
    else n

/-! FORWARDED_APPEND (R98, R101, R102). -/

/-- The hint a page allocated here for another home's sequence takes (R214): BIAS and LOWEST. -/
def farHint (n : Node) (seq l g : Nat) : Int × Nat :=
  match n.ter.hintDefs.find? fun d => d.seq == seq && (d.layer == 0xFFFF || d.layer == l) && (d.group == 0xFF || d.group == g) with
  | some d => (d.bias, d.lowest)
  | none => (0, 3)

/-- The index of the page that forwarded rows go to: the one named, or the copy of a shared page (R98). -/
def fwdIdx (m : FwdAppend) : Nat := if m.shared then m.copyTo else m.page

/-- Frames of a page of forwarded rows. -/
def fwdFrames (m : FwdAppend) : Nat := footprint m.heads m.dim m.kf m.vf / 4096

/-- The channel of the page that precedes the target page in its granule, when it lies here in terrace 1 (R200). -/
def fwdPrev (n : Node) (m : FwdAppend) : Option Nat :=
  let abs := m.first / 64
  if abs = 0 || (abs - 1) / 2 ^ m.granule != abs / 2 ^ m.granule then none
  else
    (n.ter.pages.find? fun e => e.2.seq == m.seq && e.2.terrace == 1 && e.2.place == some (m.layer, m.group, 64 * (abs - 1))).map fun e => pchOf e.2.addr

/-- The page rows are forwarded to: the one named, or a copy of a shared page, or a page newly allocated under the index this holder answered; nothing while no run
of frames, or protected unit, is free for it (R200). -/
def forwardedPage (t : Tck) (n : Node) (m : FwdAppend) : Option Node :=
  let hint := farHint n m.seq m.layer m.group
  let use : PageUse :=
    ⟨m.seq, m.home, some (m.layer, m.group, m.first / 64 * 64), m.kf, m.vf, m.heads, m.dim, true, m.prot, hint.1, hint.2⟩
  let enter (n : Node) (idx : Nat) : Option Node :=
    match placeRun n (compOf m.seq) (4096 * fwdFrames m) none (fwdPrev n m), (if m.prot then (freeUnits n (fwdFrames m)).map some else some none) with
    | some a, some u => some (enterPage t n idx a use u)
    | _, _ => none
  if m.shared then
    if mhas n.ter.pages m.copyTo then some n
    else
      match pageAt n m.page with
      | none => none
      | some e => (enter n m.copyTo).map fun n1 => bump (copyInto t n1 e m.copyTo m.home m.handle) Rg.terPageStatsCow 1
  else if mhas n.ter.pages m.page then some n
  else enter n m.page

/-- The key under which an allocation for another home's request waits. -/
def farWait (m : FwdAppend) : Nat := (m.home + 1) * 2 ^ 32 + m.handle

/-- Count rows applied here for a step (R14). -/
def gotRows (n : Node) (home handle k : Nat) : Node :=
  let hit (r : Nat × Nat × Nat) : Bool := r.1 == home && r.2.1 == handle
  let l := if n.att.rowsIn.any hit then lmodify n.att.rowsIn hit fun r => (home, handle, r.2.2 + k) else n.att.rowsIn ++ [(home, handle, k)]
  { n with att := { n.att with rowsIn := l } }

/-- Rows of a forwarded append whose positions are filled. -/
def fwdOld (m : FwdAppend) : Nat := min (m.filled - m.first) m.rows.length

/-- Compare them with the page. -/
def fwdCmp (n : Node) (e : PageEnt) (idx : Nat) (m : FwdAppend) : PeerCmp :=
  (List.range (fwdOld m)).foldl
    (fun (a : PeerCmp) i => match a with
      | .ok => cmpPos n e (mkFpn (nodeId n) idx) ((m.first + i) % 64) (m.rows.getD i ⟨[], []⟩)
      | x => x) PeerCmp.ok

/-- The pieces the other rows write. -/
def fwdPieces (m : FwdAppend) : List (Nat × Bytes) := pagePieces m.heads m.dim m.kf m.vf ((m.first + fwdOld m) % 64) (m.rows.drop (fwdOld m))

/-- Poison they meet (R224). -/
def fwdPoison (n : Node) (e : PageEnt) (m : FwdAppend) : Option Nat := ((fwdPieces m).filterMap fun p => piecePoison n e p.1 p.2).head?

/-- Write them and answer the home node. -/
def fwdApply (t : Tck) (n : Node) (idx : Nat) (m : FwdAppend) : Node :=
  let n2 := fillPage ((fwdPieces m).foldl (fun x p => (pageWrite t x idx p.1 p.2 m.home m.handle).1) n) idx (m.first % 64 + m.rows.length)
  let n3 := emit n2 (.appendReply m.home m.handle (m.rows.length - fwdOld m) (fwdOld m) .ok)
  if m.step then gotRows n3 m.home m.handle m.rows.length else n3

/-- `FORWARDED_APPEND`: compare the positions filled, write the rest, answer the home node. A new page must fit the slice's unreserved quota here (R87), and
waits for its frames (R200). -/
def forwardedAppend (m : FwdAppend) (t : Tck) (n : Node) : Node :=
  if !mhas n.ter.pages (fwdIdx m) && unreserved n (compOf m.seq) < fwdFrames m then emit n (.appendReply m.home m.handle 0 0 .noQuota)
  else
  match forwardedPage t (allocOver n (farWait m)) m with
  | none => allocWaits n (farWait m)
  | some n1 =>
    let idx := fwdIdx m
    match pageAt n1 idx with
    | none => n
    | some e =>
      match fwdCmp n1 e idx m with
      | .ok =>
        match fwdPoison n1 e m with
        | some k => emit (bump n1 Rg.micPoisonPartialWr 1) (.appendReply m.home m.handle 0 0 (.poison (k == 2) (mkFpn (nodeId n) idx)))
        | none => fwdApply t n1 idx m
      | x => emit n (.appendReply m.home m.handle 0 0 x)

/-! COPY_PAGES (R103). -/

/-- Does the slice on the destination lack the unreserved quota for the pages of a `COPY_PAGES` (R87): of this node, or as the destination answers. -/
def copyOver (n : Node) (c : Cmd) (s : Seqn) (peer : PeerAns) : Bool :=
  if c.f 34 2 = nodeId n then unreserved n (compOf s.id) < c.f 36 2 * (footprint s.heads s.dim s.kf s.vf / 4096) else !peer.quota

/-- Offending fields of `COPY_PAGES`. -/
def copyOffs (n : Node) (c : Cmd) (peer : PeerAns) (s : Seqn) : List Nat :=
  let dst := c.f 34 2
  offIf (1 < c.f 32 1) 32
  ++ offIf (8192 ≤ dst || nodeState n dst != 1 || !holdsSlice n (compOf s.id) dst || (s.prot && !inGroup n dst)) 34
  ++ offIf (c.f 36 2 == 0 || 256 < c.f 36 2 || copyOver n c s peer) 36
  ++ offIf (1023 < c.f 38 2 && c.f 38 2 != 0xFFFF) 38

/-- The source FPNs of SRC_KIND 0. -/
def copySources (n : Node) (c : Cmd) : List Nat :=
  if c.f 32 1 = 0 then (List.range (c.f 36 2)).map fun j => ofLe (hostRead n c.mem (c.f 40 8 + 8 * j) 8) else []

/-- A source that is neither a page of the sequence nor a shared prefix page of the same format and shape. -/
def foreignSource (n : Node) (s : Seqn) (f : Nat) : Bool :=
  if 2 ^ 45 ≤ f || fpnIdx f == noPage then true
  else if fpnNode f == nodeId n then foreignEntry n s f
  else !((s.lists.any fun p => (plFpns n p.2).contains f) || s.extra.contains f)

/-- Contents of the `j`-th new page, with its filled positions: a source page here, one as its holder sent it, or an image of the host. `got` pages were made
before; the contents sent are those of the remote sources after them. -/
def copyContents (n : Node) (c : Cmd) (s : Seqn) (fs : List Nat) (peer : PeerAns) (got j : Nat) : PageData × Nat :=
  let foot := footprint s.heads s.dim s.kf s.vf
  if c.f 32 1 = 1 then (⟨hostRead n c.mem (c.f 40 8 + foot * j) foot, []⟩, 64)
  else
    let f := fs.getD j 0
    if fpnNode f = nodeId n then ((pageAt n (fpnIdx f)).map fun e => (pageData n e, e.fill)).getD (⟨zeros foot, []⟩, 64)
    else (peer.data.getD (((fs.take j).drop got).filter fun x => fpnNode x != nodeId n).length ⟨[], []⟩, 64)

/-- Allocate and fill pages on this node from number `j` on: the pages made, the node, and how many found no free run. -/
def copyLocal (t : Tck) (c : Cmd) (s : Seqn) (fs : List Nat) (peer : PeerAns) (got : Nat) : Nat → Nat → Node → Node × List Nat × Nat
  | 0, _, n => (n, [], 0)
  | k + 1, j, n =>
    let use := { pageUse n s none true with bias := 0, lowest := 3 }
    match allocPage t n use (if c.f 38 2 = 0xFFFF then none else some (c.f 38 2)) none with
    | none => (n, [], k + 1)
    | some (idx, n1) =>
      let d := copyContents n c s fs peer got j
      let (m, ids, left) := copyLocal t c s fs peer got k (j + 1) (putPage t n1 idx d.1 d.2 (nodeId n) c.handle)
      (m, mkFpn (nodeId n) idx :: ids, left)

/-- The lists whose bodies name a source page, with their VERSION: the snapshot of a `COPY_PAGES` (R89). -/
def copyVers (n : Node) (s : Seqn) (fs : List Nat) : List (Nat × Nat) :=
  s.lists.filterMap fun p => if (plFpns n p.2).any fs.contains then some (p.1, p.2.version) else none

/-- Has the VERSION of a list changed since a command's snapshot (R89). -/
def snapTorn (n : Node) (s : Seqn) (h : Nat) : Bool :=
  n.seqs.snaps.any fun x => x.handle == h && x.vers.any fun v => (mget? s.lists v.1).any fun p => p.version != v.2

/-- Forget the pages a `COPY_PAGES` has made, here or by telling their holder, and its wait. -/
def copyDrop (n : Node) (c : Cmd) (fpns : List Nat) : Node :=
  let n1 := fpns.foldl (fun m f => if fpnNode f = nodeId n then freePage m (fpnIdx f) else emit m (.freePages (fpnNode f) [f])) n
  allocOver { n1 with seqs := { n1.seqs with copies := n1.seqs.copies.filter (·.handle != c.handle) } } c.handle

/-- Write the new FPNs and complete (R103), or, where a list it read has been written in place, free the pages and write nothing (R89). -/
def copyDone (t : Tck) (n : Node) (c : Cmd) (s : Seqn) (fpns : List Nat) : Node :=
  if snapTorn n s c.handle then complete t (copyDrop n c fpns) c.handle stTornList []
  else
    let n1 := hostWrite (copyDrop n c []) c.mem (c.f 48 8) (fpns.flatMap fun f => leBytes 8 f)
    complete t (modSeq n1 s.id fun q => { q with extra := q.extra ++ fpns.filter fun f => fpnNode f != nodeId n }) c.handle stOk []

/-- Go on with a `COPY_PAGES`: allocate and fill what is left, here or with the pages the destination has answered, and complete when nothing is. -/
def copyGoOn (t : Tck) (n0 : Node) (c : Cmd) (s : Seqn) (fs : List Nat) (peer : PeerAns) (got : List Nat) (left : Nat) : Node :=
  let n := ctrlReads t n0 peer.errs
  if snapTorn n s c.handle then complete t (copyDrop n c got) c.handle stTornList []
  else
    let (n1, ids, rest) := if c.f 34 2 = nodeId n then copyLocal t c s fs peer got.length left got.length n
      else (n, (peer.pages.take left).map (mkFpn (c.f 34 2)), left - peer.pages.length)
    if rest = 0 then copyDone t n1 c s (got ++ ids)
    else
      allocWaits { n1 with seqs := { n1.seqs with
        copies := n1.seqs.copies.filter (·.handle != c.handle) ++ [⟨c.handle, got ++ ids, rest⟩] } } c.handle

/-- Begin a copy: the snapshot is taken, and another node is told what to make (R89, R103). -/
def copyTo (t : Tck) (n : Node) (c : Cmd) (s : Seqn) (peer : PeerAns) : Node :=
  let fs := copySources n c
  let n1 := setRunning (takeSnap t n c.handle fs (copyVers n s fs)) c.handle
  let images := if c.f 32 1 = 1 then (List.range (c.f 36 2)).map fun j => (copyContents n c s fs peer 0 j).1.bytes else []
  let n2 := if c.f 34 2 = nodeId n then n1 else emit n1 (.remoteCopy (c.f 34 2) c.handle fs images 64)
  copyGoOn t n2 c s fs peer [] (c.f 36 2)

/-- `COPY_PAGES`. -/
def copyPages (h : Nat) (peer : PeerAns) (t : Tck) (n : Node) : Node :=
  withCmd n h opCopyPages fun c =>
    withSeq t n c (rsv c 33 33 ++ offIf (8192 ≤ c.f 34 2) 34 ++ rsv c 56 63) (copyOffs n c peer) fun s =>
      if (copySources n c).any (foreignSource n s) then complete t n h stNotOwner [] else copyTo t n c s peer

/-- Go on with a waiting `COPY_PAGES` (R200). -/
def copyResume (t : Tck) (n : Node) (j : CopyJob) (peer : PeerAns) : Node :=
  match findCmd n j.handle with
  | none => n
  | some c =>
    match mget? n.seqs.open_ (c.f 24 8) with
    | none => n
    | some s => copyGoOn t n c s (((n.seqs.snaps.find? (·.handle == j.handle)).map (·.fpns)).getD []) peer j.got j.left

/-- `COPY_PAGES_TIMEOUT` (R103): pages not all allocated by the end of tick A + DEADLINE_DEF are freed. -/
def copyTimeout (h : Nat) (t : Tck) (n : Node) : Node :=
  match findCmd n h, n.seqs.copies.find? (·.handle == h) with
  | some c, some j =>
    if t.at (c.accTick + rd n Rg.cmdHorizonDeadlineDef + 1) 0 ≤ t.now then complete t (copyDrop n c j.got) h stDeadline [] else n
  | _, _ => n

/-! LIST_INPLACE_WRITE (R90). -/

/-- Does a write to names [a, a + len) land on the lines of `k` bytes from `b`. -/
def onLines (a len b k : Nat) : Bool := 0 < len && overlaps a len (b / 64 * 64) (cdiv (b % 64 + k) 64 * 64)

/-- Does a write to names [a, a + len) land on the marked lines of a list's body. -/
def marks (a len : Nat) (p : PList) : Bool := p.inPlace && onLines a len p.body (8 * p.length)

/-- The marked bodies of lists, installed or retired and not yet freed, that a write to names [a, a + len) lands on (R90). -/
def marked (n : Node) (a len : Nat) : List OldBody :=
  (n.seqs.open_.flatMap fun e => e.2.lists.filterMap fun p =>
    if marks a len p.2 then some ⟨e.1, e.2.groups, p.1, p.2.body, 8 * p.2.length⟩ else none)
  ++ (n.seqs.retired.flatMap (·.bodies)).filter fun b => onLines a len b.addr b.len

/-- Raise the VERSION of a body's list, and record `EV_LIST_INPLACE` (R90). -/
def bumpVersion (t : Tck) (a : Nat) (n : Node) (b : OldBody) : Node :=
  raise t (modSeq n b.seq fun s => { s with lists := mmod s.lists b.list fun p => { p with version := (p.version + 1) % 2 ^ 32 } })
    evListInplace (leBytes 8 b.seq ++ leBytes 2 (b.list / b.groups) ++ leBytes 1 (b.list % b.groups) ++ leBytes 4 (a - b.addr))

/-- Raise the VERSION of every list whose marked lines a write lands on (R90). -/
def bumpVersions (t : Tck) (n : Node) (a len : Nat) : Node := (marked n a len).foldl (bumpVersion t a) n

/-- `LIST_INPLACE_WRITE` (R90): the version rises before the write, and the write takes effect. -/
def inplaceWrite (a : Nat) (b : Bytes) (t : Tck) (n : Node) : Node :=
  if (marked n a b.length).isEmpty then n else nameWrite t (bumpVersions t n a b.length) a b

/-! The commands. -/

/-- `SEQ_OPEN`. -/
def execSeqOpen (h : Word) (s : State) : Outcome State Fault Refusal := onNode (seqOpen h.toNat) s
/-- `SEQ_CLOSE`. -/
def execSeqClose (h : Word) (s : State) : Outcome State Fault Refusal := onNode (seqClose h.toNat) s
/-- `SEQ_EXTEND`. -/
def execSeqExtend (h : Word) (s : State) : Outcome State Fault Refusal := onNode (seqExtend h.toNat) s
/-- `PAGELIST_SWAP`. -/
def execPagelistSwap (h : Word) (s : State) : Outcome State Fault Refusal := onNode (pagelistSwap h.toNat) s
/-- `SEQ_FORK`. -/
def execSeqFork (h : Word) (peer : PeerAns) (s : State) : Outcome State Fault Refusal := onNode (seqFork h.toNat peer) s
/-- `APPEND_KV`. -/
def execAppendKv (h : Word) (peer : PeerAns) (s : State) : Outcome State Fault Refusal := onNode (appendKv h.toNat peer) s
/-- `APPEND_POSITION_WAIT_END`. -/
def execAppendPositionWaitEnd (h : Word) (peer : PeerAns) (s : State) : Outcome State Fault Refusal :=
  onNode (positionWaitEnd h.toNat peer) s
/-- `FORWARDED_APPEND`. -/
def execForwardedAppend (m : FwdAppend) (s : State) : Outcome State Fault Refusal := onNode (forwardedAppend m) s
/-- `COPY_PAGES`. -/
def execCopyPages (h : Word) (peer : PeerAns) (s : State) : Outcome State Fault Refusal := onNode (copyPages h.toNat peer) s
/-- `COPY_PAGES_TIMEOUT`. -/
def execCopyPagesTimeout (h : Word) (s : State) : Outcome State Fault Refusal := onNode (copyTimeout h.toNat) s
/-- `LIST_INPLACE_WRITE`. -/
def execListInplaceWrite (a : BitVec 64) (b : Bytes) (s : State) : Outcome State Fault Refusal := onNode (inplaceWrite a.toNat b) s
/-- `RETIRED_BODY_FREE`. -/
def execRetiredBodyFree (released : List Nat) (s : State) : Outcome State Fault Refusal := onNode (retiredFree released) s

end Sys2Proof.Machine
end

