-- ==== Sys2Proof/Machine/Attend.lean ====
section
/-! DEFINITION. Attention on the home node: `ATTEND` and `PREFILL`, the building of a step's launch descriptors, the hold reservation, the return step and the
watchdog (R104 to R116, R133 to R137, R141, R145, R146). -/

namespace Sys2Proof.Machine

open Host (Outcome)

/-! The body (R104, R107). -/

/-- Query heads per KV head. -/
def qpkOf (c : Cmd) : Nat := c.f 35 1 / 16 + 1

/-- Query rows. -/
def rowsOf (c : Cmd) : Nat := if c.op = opPrefill then c.f 62 2 else 1

/-- BM_BASE in bytes. -/
def bmAddr (c : Cmd) : Nat := c.f 59 3 * 65536

/-- The shape of a step over a sequence, from its mask byte, window, position and rows; POS_BASE is filled in at the snapshot. -/
def stepShape (s : Seqn) (mask width off pos rows qpk : Nat) : Shape where
  rows := rows
  pos := pos
  kend := pos + rows
  ng := cdiv (pos + rows) (64 * 2 ^ s.granule)
  granule := s.granule
  mask := mask
  winWidth := width
  winOff := off
  posBase := []
  groups := s.groups
  heads := s.heads
  qpk := qpk
  dim := s.dim

/-- The shape an `ATTEND` or `PREFILL` names. -/
def cmdShape (c : Cmd) (s : Seqn) : Shape := stepShape s (c.f 34 1) (c.f 56 2) (c.f 58 1) (c.f 36 4) (rowsOf c) (qpkOf c)

/-- Bytes of the bitmap area (R115). -/
def bmBytes (sh : Shape) : Nat := sh.ng * sh.bmBlock

/-- Offending fields that all attention commands share (R107): layer, mask, KEND, window, bitmap. -/
def commonOffs (c : Cmd) (s : Seqn) (sh : Shape) : List Nat :=
  let m := c.f 34 1
  offIf (s.layers ≤ c.f 32 2) 32
  ++ offIf (bitAt m mBmRows && !bitAt m mBitmap) 34
  ++ offIf (s.maxLen < sh.kend) 36
  ++ offIf (if bitAt m mWindow then c.f 56 2 == 0 else c.f 56 2 != 0 || c.f 58 1 != 0) 56
  ++ offIf (if bitAt m mBitmap then t1Bytes < bmAddr c + bmBytes sh else c.f 59 3 != 0) 59

/-- Offending fields of `ATTEND` and `PREFILL` (R9, R107). -/
def attendOffs (c : Cmd) (s : Seqn) : List Nat :=
  let sh := cmdShape c s
  commonOffs c s sh
  ++ offIf (256 < sh.qh || (c.op == opPrefill && 262144 < rowsOf c * sh.qh) || c.f 35 1 % 4 == 3 || c.f 35 1 / 4 % 4 == 3) 35
  ++ offIf (!mult (c.f 48 8) 64) 48
  ++ offIf (c.op == opPrefill && (c.f 62 2 == 0 || 4096 < c.f 62 2)) 62

/-- Does a bitmap area lie outside the ranges the tenant holds (R107). -/
def bmForeign (n : Node) (c : Cmd) (sh : Shape) : Bool :=
  bitAt sh.mask mBitmap && !(inExtents n (bmAddr c) (bmBytes sh) && extentsHeld n (bmAddr c) (bmBytes sh))

/-- Has the ring's host lost the bitmap area by a revoke (R288). -/
def bmRevoked (n : Node) (c : Cmd) (sh : Shape) : Bool :=
  bitAt sh.mask mBitmap && revokedFrom n c.req (bmAddr c) (bmBytes sh)

/-- Begin an attention command whose fields are in order: its bitmap area must be the tenant's and not revoked (R107, R288). -/
def startAttend (t : Tck) (n : Node) (c : Cmd) (sh : Shape) : Node :=
  if bmRevoked n c sh then complete t n c.handle stExtentRevoked (attEnd n c)
  else if bmForeign n c sh then complete t n c.handle stNotOwner (attEnd n c)
  else setRunning (needCtx n c (c.f 24 8)) c.handle

/-- `ATTEND` and `PREFILL` in their turn: the checks; the step is built in [T - 1.00, T - 1.62) (R15, R107). -/
def attendStart (op : Nat) (h : Nat) (t : Tck) (n : Node) : Node :=
  withCmd n h op fun c =>
    withSeq t n c (offIf (32 ≤ c.f 34 1) 34 ++ (if op = opAttend then rsv c 62 63 else [])) (attendOffs c) fun s =>
      startAttend t n c (cmdShape c s)

/-! Items, send sets, units (R123, R133, R134, R446). -/

/-- A granule item as the home node plans it, with the node that computes it. -/
structure PlanItem where
  group : Nat
  granule : Nat
  holder : Nat
  pages : List (Nat × Nat)
  deriving DecidableEq, Repr

/-- Is granule item (g, i) empty for every row (R114). -/
def Shape.itemEmpty (s : Shape) (g i : Nat) : Bool := (List.range s.rows).all fun t => s.empty g t 0 i

/-- The pages of granule `i` of group `g` from a snapshot's entries: (page number, FPN), at or above POS_BASE and below KEND. -/
def granulePages (s : Shape) (es : List Nat) (g i : Nat) : List (Nat × Nat) :=
  let b := s.posBase.getD g 0 / 64
  let lo := max b (i * 2 ^ s.granule)
  let hi := min ((i + 1) * 2 ^ s.granule) (cdiv s.kend 64)
  (List.range (hi - lo)).filterMap fun k => (es[lo + k - b]?).map fun f => (lo + k, f)

/-- The holder of the lowest-position page (R446); with no entry that names a page, the node the lowest entry names. -/
def itemHolder (home : Nat) (pages : List (Nat × Nat)) : Nat :=
  match pages.find? fun p => fpnIdx p.2 != noPage with
  | some p => fpnNode p.2
  | none =>
    match pages.head? with
    | some p => fpnNode p.2
    | none => home

/-- Every granule item of a step; `es` holds each group's entries at the snapshot. -/
def planItems (home : Nat) (s : Shape) (es : List (List Nat)) : List PlanItem :=
  (List.range s.groups).flatMap fun g => (List.range s.ng).filterMap fun i =>
    if s.itemEmpty g i then none
    else
      let pages := granulePages s (es.getD g []) g i
      some ⟨g, i, itemHolder home pages, pages⟩

/-- Does node (k, i) of group `g` hold items of one holder only. -/
def onlyOf (items : List PlanItem) (holder g k i : Nat) : Bool :=
  items.all fun x => x.group != g || x.granule / 2 ^ k != i || x.holder == holder

/-- The greatest node above a leaf that stays with one holder; `fuel` bounds the levels. -/
def climb (items : List PlanItem) (holder g : Nat) : Nat → Nat → Nat → Nat × Nat
  | 0, k, i => (k, i)
  | f + 1, k, i => if onlyOf items holder g (k + 1) (i / 2) then climb items holder g f (k + 1) (i / 2) else (k, i)

/-- Elements without repeats, first occurrences kept. -/
def dedupSet {α : Type} [BEq α] : List α → List α
  | [] => []
  | x :: t => x :: (dedupSet t).filter (· != x)

/-- A holder's send set, as (group, level, index) (R134). -/
def sendSetOf (premerge : Bool) (s : Shape) (items : List PlanItem) (holder : Nat) : List (Nat × Nat × Nat) :=
  dedupSet ((items.filter (·.holder == holder)).map fun x =>
    if premerge then
      let r := climb items holder x.group (treeK s.ng) 0 x.granule
      (x.group, r.1, r.2)
    else (x.group, 0, x.granule))

/-- Pairs of group `g` that a send unit carries (R133). -/
def Shape.unitPairs (s : Shape) (g k i : Nat) : Nat :=
  ((List.range s.rows).filter fun t => !s.empty g t k i).length * s.perGroup

/-- The send units of a step with their messages (R133). -/
def unitsOf (premerge : Bool) (s : Shape) (items : List PlanItem) : List (Nat × Nat × Nat × Nat × Nat) :=
  (dedupNat (items.map (·.holder))).flatMap fun h =>
    (sendSetOf premerge s items h).filterMap fun u =>
      let m := cdiv (s.unitPairs u.1 u.2.1 u.2.2) 128
      if m = 0 then none else some (u.1, u.2.1, u.2.2, h, m)

/-- Pairs of a step not structurally empty for every granule: P of R136. -/
def Shape.livePairs (s : Shape) : Nat :=
  ((List.range s.groups).map fun g => s.unitPairs g (treeK s.ng) 0).foldl (· + ·) 0

/-! The confluence node (R135 to R137). -/

/-- A composition's confluence list (R135). -/
def conflList (n : Node) (comp : Nat) : List Nat :=
  (sortNat (dedupNat ((n.map.map.slices.filter (·.comp == comp)).map (·.node)))).filter fun k =>
    match mget? n.map.map.nodes k with
    | some e => e.state == 1 && e.eligible && !e.suspect
    | none => false

/-- The chosen confluence node (R135). -/
def conflChoice (n : Node) (seq layer pos holders : Nat) : Nat :=
  let l := conflList n (compOf seq)
  if holders ≤ rd n Rg.cflCfgFanoutThr || l.isEmpty then nodeId n
  else l.getD (crc32c (leBytes 8 seq ++ leBytes 2 layer ++ leBytes 2 0 ++ leBytes 4 pos) % l.length) (nodeId n)

/-- The nodes asked for a reservation, in order (R137): the chosen one, the others of the list cyclically from the entry after it, the home node last. -/
def conflOrder (n : Node) (comp chosen : Nat) : List Nat :=
  let l := conflList n comp
  let i := l.findIdx (· == chosen)
  let rest := (l.drop (i + 1) ++ l.take i).filter fun k => k != nodeId n && k != chosen
  chosen :: (rest ++ [nodeId n])

/-- Bytes of a record stride in 64-byte units. -/
def strideUnits (d : Nat) : Nat := 1 + d / 16

/-- Unreserved confluence buffer in 64-byte units: 64 MiB, less blocks out of service. -/
def cflFree (n : Node) : Nat :=
  0x100000 - 1024 * n.mic.cflOut.length - (n.cfl.chains.map fun c => c.buf * strideUnits c.post.dim).foldl (· + ·) 0

/-- Unreserved spill area in 64-byte units. -/
def spillFree (n : Node) : Nat :=
  rd n Rg.cflSpillSizeMib * 16384 - (n.cfl.chains.map fun c => c.spill * strideUnits c.post.dim).foldl (· + ·) 0

/-- Put a run among runs in order of their first unit. -/
def insertUnits (r : Nat × Nat) : List (Nat × Nat) → List (Nat × Nat)
  | [] => [r]
  | x :: l => if r.1 ≤ x.1 then r :: x :: l else x :: insertUnits r l

/-- The free runs of [lo, hi) between taken runs in order. -/
def unitGaps (hi : Nat) : Nat → List (Nat × Nat) → List (Nat × Nat)
  | lo, [] => if lo < hi then [(lo, hi - lo)] else []
  | lo, (a, k) :: l => (if lo < a then [(lo, a - lo)] else []) ++ unitGaps hi (max lo (a + k)) l

/-- The first `k` units of a list of runs. -/
def takeUnits : Nat → List (Nat × Nat) → List (Nat × Nat)
  | _, [] => []
  | k, (a, m) :: l => if k = 0 then [] else if k ≤ m then [(a, k)] else (a, m) :: takeUnits (k - m) l

/-- Unit `k` of a list of runs. -/
def unitAt : List (Nat × Nat) → Nat → Nat
  | [], _ => 0
  | (a, m) :: l, k => if k < m then a + k else unitAt l (k - m)

/-- The lowest free units of the confluence buffer, as runs: outside blocks out of service (R136). -/
def cflGaps (n : Node) : List (Nat × Nat) :=
  unitGaps 0x100000 0 ((n.mic.cflOut.map (fun b => (1024 * b, 1024)) ++ n.cfl.chains.flatMap Chain.bufAt).foldr insertUnits [])

/-- The lowest free units of the spill area. -/
def spillGaps (n : Node) : List (Nat × Nat) :=
  unitGaps (rd n Rg.cflSpillSizeMib * 16384) 0 ((n.cfl.chains.flatMap Chain.spillAt).foldr insertUnits [])

/-- Take a reservation here: strides from the buffer, then from the spill area, the lowest free units of each (R136). Which units is a DESIGN CHOICE: log
entry 58. -/
def cflTake (n : Node) (p : ChainPost) : Option Node :=
  let u := strideUnits p.dim
  let b := min p.hold (cflFree n / u)
  if (p.hold - b) * u ≤ spillFree n then
    let c : Chain :=
      ⟨p, 0, [], [], [], [], b, p.hold - b, [], false, false, takeUnits (b * u) (cflGaps n), takeUnits ((p.hold - b) * u) (spillGaps n)⟩
    some { n with cfl := { n.cfl with chains := n.cfl.chains ++ [c] } }
  else none

/-! Building a step (R89, R112, R116). -/

/-- What a step is built from: the layer and mask of its command, the prepared rows before rotation, the rows it appends, its output form. -/
structure BuildIn where
  layer : Nat
  shape : Shape
  bm : Nat
  outForm : Nat
  outAddr : Nat
  launch : Nat
  /-- FP32 query rows, by t × QH + q. -/
  queries : List (List Nat)
  /-- Rows to append, by position and group; empty with `NO_APPEND`. -/
  kv : List (List PosRows)
  deriving DecidableEq, Repr

/-- A prepared query row and its conversion (R112). -/
def prepQuery (n : Node) (s : Seqn) (p : Nat) (row : List Nat) : QRow × Row :=
  let r := narrowRow s.kf (ropeRow n s p row)
  (⟨r.elems, r.scales⟩, r)

/-- The bitmap blocks of a step, padding zero (R115, R116). -/
def readBitmap (n : Node) (sh : Shape) (bm : Nat) : List (Nat × Bytes) :=
  if bitAt sh.mask mBitmap then
    let data := if bitAt sh.mask mBmRows then sh.rows * sh.span / 8 else sh.span / 8
    (List.range sh.ng).map fun g => (g, padTo sh.bmBlock (nameRead n (bm + g * sh.bmBlock) data))
  else []

/-- The descriptor of a step without holder or items. -/
def baseDesc (n : Node) (c : Cmd) (s : Seqn) (b : BuildIn) (sh : Shape) (qs : List QRow) (confl : Nat) : Desc where
  home := nodeId n
  handle := c.handle
  holder := 0
  launch := b.launch
  deadline := c.deadline
  seq := s.id
  layer := b.layer
  sealed := s.sealed
  twoPass := s.twoPass
  kf := s.kf
  vf := s.vf
  heads := s.heads
  dim := s.dim
  groups := s.groups
  qpk := sh.qpk
  rows := sh.rows
  pos := sh.pos
  kend := sh.kend
  ng := sh.ng
  granule := sh.granule
  mask := sh.mask
  winWidth := sh.winWidth
  winOff := sh.winOff
  posBase := sh.posBase
  bitmap := readBitmap n sh b.bm
  queries := qs
  confluence := confl
  items := []
  sendSet := []
  foreign := []
  waitRows := 0
  epoch := epochOf n
  parents := s.parents

/-- The chain of a step (R136, R141). -/
def stepChain (n : Node) (c : Cmd) (s : Seqn) (b : BuildIn) (sh : Shape) (items : List PlanItem) : ChainPost where
  home := nodeId n
  handle := c.handle
  deadline := c.deadline
  sealed := s.sealed
  dim := s.dim
  heads := s.heads
  groups := s.groups
  qpk := sh.qpk
  rows := sh.rows
  pos := sh.pos
  kend := sh.kend
  ng := sh.ng
  granule := sh.granule
  mask := sh.mask
  winWidth := sh.winWidth
  winOff := sh.winOff
  posBase := sh.posBase
  outForm := b.outForm
  units := unitsOf (rdB n Rg.cflCfgPremerge) sh items
  hold := sh.livePairs * cdiv sh.ng 2

/-- Rows of the append that fall on pages of another node (R14): `first` is the first position newly appended. -/
def rowsFor (n : Node) (s : Seqn) (l first kend node : Nat) : Nat :=
  ((List.range s.groups).map fun g =>
    ((List.range (kend - first)).filter fun i => (entryAt n s l g (first + i)).any fun f => fpnNode f == node).length).foldl (· + ·) 0

/-- The descriptor of one holder. -/
def holderDesc (n : Node) (s : Seqn) (d : Desc) (items : List PlanItem) (first k : Nat) : Desc :=
  let mine := items.filter (·.holder == k)
  { d with
    holder := k
    items := mine.map fun x => ⟨x.group, x.granule, x.pages⟩
    bitmap := d.bitmap.filter fun b => mine.any (·.granule == b.1)
    sendSet := sendSetOf (rdB n Rg.cflCfgPremerge) (descShape d) items k
    foreign := (items.filter (·.holder != k)).flatMap fun x =>
      (x.pages.filter fun p => fpnNode p.2 == k && fpnIdx p.2 != noPage).map fun p => (p.2, x.holder)
    waitRows := if k = nodeId n then 0 else rowsFor n s d.layer first d.kend k }

/-- The nodes that get a descriptor: those that compute items, and those that hold pages of others' items. -/
def descNodes (items : List PlanItem) : List Nat :=
  dedupNat (items.map (·.holder) ++ items.flatMap fun x => (x.pages.filter fun p => fpnIdx p.2 != noPage).map fun p => fpnNode p.2)

/-- Messages wait for a transport key: the ACTIVE slot is exhausted (R372). -/
def keysOut (n : Node) : Bool :=
  let slots := (List.range 64).drop 1
  (slots.any fun k => rdB n (Rg.secSlotExhausted k)) && !slots.any fun k => rd n (Rg.secSlotState k) == 2 && !rdB n (Rg.secSlotExhausted k)

/-- Does a step send messages to other nodes. -/
def sendsOut (n : Node) (st : Step) : Bool := st.descs.any fun d => d.holder != nodeId n

/-- The status of a step whose descriptors have not gone out by its deadline (R106, R372). -/
def unsentStatus (n : Node) (h : Nat) : Nat := if keysOut n && n.att.steps.any (fun s => s.handle == h && sendsOut n s) then stKeyRetired else stDeadline

/-- A step once node `k` has granted its reservation. -/
def sentStep (n : Node) (k : Nat) (st : Step) : Step :=
  { st with
    confl := k, descs := st.descs.map fun d => { d with confluence := k }, desc := { st.desc with confluence := k }, sent := true
    watchdog := k != nodeId n }

/-- Post a step's chain at node `k` and send its descriptors. -/
def sendStep (t : Tck) (n : Node) (k : Nat) (st : Step) : Node :=
  let st1 := sentStep n k st
  let n1 := if k = nodeId n then (cflTake n st.chain).getD n else emit n (.launch k (.chain st.chain))
  let n2 := st1.descs.foldl (fun m d => emit m (.launch d.holder (.desc d))) n1
  stamp t { n2 with att := { n2.att with steps := n2.att.steps.filter (·.handle != st.handle) ++ [st1] } } st.handle 3

/-- Try for the reservation of an unsent step, in the order of R137; with one, post the chain and send the descriptors. Messages to other nodes wait for a
transport key (R372). -/
def trySend (t : Tck) (grants : List Nat) (n : Node) (st : Step) : Node :=
  let fits (k : Nat) : Bool := if k = nodeId n then (cflTake n st.chain).isSome else grants.contains k
  if keysOut n && sendsOut n st then n
  else
    match (conflOrder n (compOf st.seq) st.confl).find? fits with
    | none => bump n Rg.cflResvWaitNotches 1
    | some k => sendStep t n k st

/-- The page lists of a layer. -/
def layerLists (s : Seqn) (l : Nat) : List PList := (List.range s.groups).map fun g => listOf s l g

/-- The prepared query rows of a step, with their conversions (R112). -/
def prepAll (n : Node) (s : Seqn) (b : BuildIn) : List (QRow × Row) :=
  (List.range b.queries.length).map fun i => prepQuery n s (b.shape.pos + i / b.shape.qh) (b.queries.getD i [])

/-- The step a command becomes at its snapshot (R89, R116). -/
def snapStep (t : Tck) (n : Node) (c : Cmd) (s : Seqn) (b : BuildIn) (first : Nat) : Step :=
  let lists := layerLists s b.layer
  let es := lists.map fun p => plFpns n p
  let sh := { b.shape with posBase := lists.map (·.posBase) }
  let items := planItems (nodeId n) sh es
  let confl := conflChoice n s.id b.layer sh.pos (dedupNat (items.map (·.holder))).length
  let d := baseDesc n c s b sh ((prepAll n s b).map (·.1)) confl
  { handle := c.handle, seq := s.id, layer := b.layer, op := c.op, outForm := b.outForm, outAddr := b.outAddr, desc := d,
    descs := (descNodes items).map (holderDesc n s d items first), chain := stepChain n c s b sh items, tick := t.tick,
    versions := lists.map (·.version), gens := lists.map (·.generation), fpns := es.flatten, confl := confl, sent := false, watchdog := false,
    late := false, bankSide := false, ran := false }

/-- Build a step whose append has been applied: the snapshot, queries, bitmap, items, chain (R89, R112, R116). `first` is the first position newly
appended. -/
def buildApplied (t : Tck) (n : Node) (c : Cmd) (s : Seqn) (b : BuildIn) (first : Nat) (grants : List Nat) : Node :=
  let conv := ((prepAll n s b).map (·.2)).foldl (fun a r => (⟨[], [], a.conv + r.conv, a.clip + r.clip, a.nonfin + r.nonfin⟩ : Row)) ⟨[], [], 0, 0, 0⟩
  let st := snapStep t n c s b first
  let n1 := countRow t (takeSnap t n c.handle st.fpns []) 2 conv
  trySend t grants { n1 with att := { n1.att with steps := n1.att.steps ++ [st] } } st

/-- Build a step (R106, R73, R102): it waits for earlier positions, and for exclusive copies of its bitmap's lines (R281), applies its append, then takes its
snapshot. -/
def buildStep (t : Tck) (n : Node) (c : Cmd) (s : Seqn) (b : BuildIn) (peer : PeerAns) (grants : List Nat) : Node :=
  let filled := filledOf s b.layer
  let noApp := b.kv.isEmpty
  if n.att.steps.any (·.handle == c.handle) then n
  else if waitBound t n c ≤ t.now then n
  else if filled < (if noApp then b.shape.kend else b.shape.pos) then n
  else if bmRevoked n c b.shape then complete t (dropStep n c.handle) c.handle stExtentRevoked (attEnd n c)
  else if bitAt b.shape.mask mBitmap && !(recallRange t false n b.bm (bmBytes b.shape)).2 then
    (recallRange t false n b.bm (bmBytes b.shape)).1
  else if noApp then buildApplied t n c s b b.shape.kend grants
  else
    match appendRows t n c.handle s.id s b.layer b.shape.pos b.kv peer with
    | .wait n1 => allocWaits n1 c.handle
    | .fail n1 st res =>
      let n2 := dropStep n1 c.handle
      complete t (allocOver n2 c.handle) c.handle st (if st == stBadParam then res else res ++ [0, 0x80])
    | .ok n1 a _ =>
      match mget? n1.seqs.open_ s.id with
      | none => n
      | some s1 => buildApplied t (allocOver n1 c.handle) c s1 b (b.shape.kend - a) grants

/-- What an `ATTEND` or `PREFILL` builds from: its queries, keys and values in host memory (R105). -/
def attendIn (n : Node) (c : Cmd) (s : Seqn) : BuildIn :=
  let sh := cmdShape c s
  let fmt := c.f 35 1 % 4
  let w := fmtBits fmt / 8
  let nq := sh.rows * sh.qh
  let kvLen := sh.rows * s.groups * s.heads * s.dim * w
  let a := c.f 40 8
  let q := hostRead n c.mem a (nq * s.dim * w)
  { layer := c.f 32 2, shape := sh, bm := bmAddr c, outForm := c.f 35 1 / 4 % 4, outAddr := c.f 48 8, launch := c.launch,
    queries := (List.range nq).map fun i => (unpackElems fmt s.dim (slice q (i * s.dim * w) (s.dim * w))).map (widen fmt),
    kv := if bitAt sh.mask mNoAppend then []
      else bufRows n s fmt sh.pos sh.rows (hostRead n c.mem (a + nq * s.dim * w) kvLen) (hostRead n c.mem (a + nq * s.dim * w + kvLen) kvLen) }

/-- The rows of an `ATTEND_BLOCK` whose first stage has ended (R111): QPK of the layer descriptor, an `ATTEND` row in FP32, its key rows rotated before they are
stored (R18, R101); the inner step launches at
the tick its stage two names. -/
def blockIn (t : Tck) (n : Node) (c : Cmd) (s : Seqn) (b : Block) : BuildIn :=
  let sh := stepShape s (c.f 34 1) (c.f 56 2) (c.f 58 1) (c.f 36 4) 1 (byteAt b.ldesc 5)
  let heads := s.groups * s.heads
  let pos : List PosRows := (List.range s.groups).map fun g =>
    { k := (List.range s.heads).map fun x => storeRow s.kf (ropeRow n s sh.pos ((b.k.drop ((g * s.heads + x) * s.dim)).take s.dim))
      v := (List.range s.heads).map fun x => storeRow s.vf ((b.v.drop ((g * s.heads + x) * s.dim)).take s.dim) }
  { layer := c.f 32 2, shape := sh, bm := bmAddr c, outForm := 1, outAddr := 0,
    launch := max (cdiv (b.due * unitsPerTick t.cur + 32000) (unitsPerTick t.cur)) (t.tick + 1),
    queries := (List.range (heads * sh.qpk)).map fun i => (b.q.drop (i * s.dim)).take s.dim, kv := [pos] }

/-- `LAUNCH_DESCRIPTOR_BUILD` (R15, R89): from T - 1.00 on; for an `ATTEND_BLOCK`, in its stage two. -/
def descriptorBuild (h : Nat) (peer : PeerAns) (grants : List Nat) (t : Tck) (n : Node) : Node :=
  match findCmd n h with
  | none => n
  | some c =>
    match mget? n.seqs.open_ (c.f 24 8) with
    | none => n
    | some s =>
      if c.stage != .running then n
      else if c.op == opAttend || c.op == opPrefill then
        (if t.at (c.launch - 1) 0 ≤ t.now then buildStep t n c s (attendIn n c s) peer grants else n)
      else
        match n.att.blocks.find? fun b => b.handle == h && b.stage == 2 with
        | none => n
        | some b => buildStep t n c s (blockIn t n c s b) peer grants

/-- `HOLD_RESERVATION_RETRY` (R137): at a notch boundary outside the saddle; at notch 48 of the deadline tick the command ends. -/
def reservationRetry (h : Nat) (grants : List Nat) (t : Tck) (n : Node) : Node :=
  match n.att.steps.find? fun s => s.handle == h && !s.sent with
  | none => n
  | some st =>
    if t.at st.desc.deadline 48 ≤ t.now then complete t (dropStep n h) h (unsentStatus n h) (((findCmd n h).map (attEnd n)).getD [])
    else if t.inSaddle then n
    else trySend t grants n st

/-! The return step (R108, R109, R141, R145, R146). -/

/-- RESULT of a step that a page failed (R109). -/
def attFpnResult (fpn : Nat) : Bytes := leBytes 8 (fpn % 2 ^ 45) ++ leBytes 1 0 ++ leBytes 1 0x80

/-- The missing-granule bitmap (R145). -/
def missingBitmap (ng groups : Nat) (missing : List (Nat × Nat)) : Bytes :=
  leBytes 4 ng ++ leBytes 2 groups ++ leBytes 4 missing.length ++ zeros 6
    ++ (List.range groups).flatMap fun r =>
      (List.range (8 * cdiv ng 64)).map fun b =>
        BitVec.ofNat 8 (maskOf ((List.range 8).filter fun k => missing.contains (r, 8 * b + k)))

/-- Does a list's VERSION differ from the snapshot's (R89). -/
def torn (n : Node) (st : Step) : Bool :=
  match mget? n.seqs.open_ st.seq with
  | none => false
  | some s => (List.range s.groups).any fun g => (listOf s st.layer g).version != st.versions.getD g 0

/-- End a step that yields no result. -/
def failStep (t : Tck) (n : Node) (st : Step) (status fpn : Nat) (bank ran : Bool) : Node :=
  let pageFail := status == stMemUncorr || status == stOwnerLost || status == stNotOwner
  complete t (dropStep n st.handle) st.handle status (if pageFail then attFpnResult fpn else attResult st bank ran)

/-- Write a step's result and post its completion, with a treatment record for a sealed step (R108, R377). -/
def deliver (t : Tck) (n : Node) (c : Cmd) (st : Step) (m : ResultMsg) : Node :=
  let n1 := hostWrite (dropStep n st.handle) c.mem st.outAddr m.output
  if m.status == stOkPartial then
    complete t (hostWrite n1 c.mem (st.outAddr + cdiv m.output.length 64 * 64) (missingBitmap st.desc.ng st.desc.groups m.missing)) st.handle
      stOkPartial (attResult st m.bank m.ran)
  else
    match mget? n.seqs.open_ st.seq with
    | some s =>
      if s.sealed then
        postSealed t n1 st.handle stOk (attResult st m.bank m.ran) (treatment t n c st.desc s [] st.outForm m.resultHash m.output)
      else complete t n1 st.handle stOk (attResult st m.bank m.ran)
    | none => complete t n1 st.handle stOk (attResult st m.bank m.ran)

/-- Keep the inner result of an `ATTEND_BLOCK` for its output projection (R111): due at the first tick boundary 16 microseconds after the inner launch (R19). -/
def keepInner (t : Tck) (n : Node) (st : Step) (m : ResultMsg) : Node :=
  let vals := (List.range (m.output.length / 4)).map fun i => field m.output (4 * i) 4
  { n with att := { n.att with
    steps := lmodify n.att.steps (fun s => s.handle == st.handle) fun s => { s with watchdog := false, bankSide := m.bank, ran := m.ran }
    blocks := lmodify n.att.blocks (fun b => b.handle == st.handle) fun b =>
      { b with att := vals, rootHash := m.resultHash, partial_ := m.status == stOkPartial, stage := 3
               due := cdiv (st.desc.launch * unitsPerTick t.cur + 64000) (unitsPerTick t.cur) } } }

/-- Does a step wait for the result of its confluence node: until notch 62 of the deadline tick where a watchdog is armed (R146). -/
def awaits (t : Tck) (n : Node) (h : Nat) (s : Step) : Bool :=
  s.handle == h && s.sent && !(s.watchdog && t.at s.desc.deadline 62 ≤ t.now) && !n.att.blocks.any fun b => b.handle == h && b.stage == 3

/-- The return step (R141): the result of the confluence node ends the step, or the inner step of an `ATTEND_BLOCK`; without a step that waits for it, it
is discarded as late (R146). -/
def returnStep (t : Tck) (n : Node) (m : ResultMsg) : Node :=
  match n.att.steps.find? (awaits t n m.handle),
      findCmd n m.handle with
  | some st, some c =>
    let n1 := modCmd n m.handle fun d => { d with late := d.late || m.late }
    if m.status == stOk || m.status == stOkPartial then
      if torn n1 st then failStep t n1 st stTornList 0 m.bank m.ran
      else if c.op == opAttendBlock then keepInner t n1 st m
      else deliver t n1 c st m
    else failStep t n1 st m.status m.fpn m.bank m.ran
  | _, _ => bump n Rg.cflDiscardLate 1

/-- `RESULT_MESSAGE_RECEIVE`. -/
def resultReceive (m : ResultMsg) (t : Tck) (n : Node) : Node := if m.home = nodeId n then returnStep t n m else n

/-- `HOME_WATCHDOG_EXPIRY` (R146): at notch 62 of the deadline tick. -/
def watchdogExpiry (h : Nat) (t : Tck) (n : Node) : Node :=
  match n.att.steps.find? fun s => s.handle == h && s.watchdog with
  | none => n
  | some st =>
    if t.at st.desc.deadline 62 ≤ t.now then failStep t (bump n Rg.cflOutcomeStateLost 1) st stStateLost 0 st.bankSide st.ran else n

/-! The commands. -/

/-- `ATTEND`. -/
def execAttend (h : Word) (s : State) : Outcome State Fault Refusal := onNode (attendStart opAttend h.toNat) s
/-- `PREFILL`. -/
def execPrefill (h : Word) (s : State) : Outcome State Fault Refusal := onNode (attendStart opPrefill h.toNat) s
/-- `LAUNCH_DESCRIPTOR_BUILD`. -/
def execLaunchDescriptorBuild (h : Word) (peer : PeerAns) (grants : List Nat) (s : State) : Outcome State Fault Refusal :=
  onNode (descriptorBuild h.toNat peer grants) s
/-- `HOLD_RESERVATION_RETRY`. -/
def execHoldReservationRetry (h : Word) (grants : List Nat) (s : State) : Outcome State Fault Refusal :=
  onNode (reservationRetry h.toNat grants) s
/-- `RESULT_MESSAGE_RECEIVE`. -/
def execResultMessageReceive (m : ResultMsg) (s : State) : Outcome State Fault Refusal := onNode (resultReceive m) s
/-- `HOME_WATCHDOG_EXPIRY`. -/
def execHomeWatchdogExpiry (h : Word) (s : State) : Outcome State Fault Refusal := onNode (watchdogExpiry h.toNat) s

end Sys2Proof.Machine
end

