-- ==== Sys2Proof/Machine/Time.lean ====
section
/-! DEFINITION. Fabric time (02): advancing, election, measurement, the external reference, lateness, loss of time, the period. -/

namespace Sys2Proof.Machine

open Host (Outcome)

/-- U from the measurement uncertainty and the offset not yet corrected (R47). -/
def uOf (m : Nat) (slew : Int) : Nat := if 0xFFFF ≤ m then 0xFFFF else min (m + slew.natAbs) 0xFFFF

/-- Does the fabric time unit run at the rate it last learned: in HOLDOVER (R46), and in a disciplining grandmaster across a single missing edge (R39). -/
def rateRuns (t : Tck) : Bool := (t.state == .holdover && !t.regaining) || (t.gm && t.extOk && t.missRun == 1)

/-- What the learned rate adds in an FTU cycle: a unit whenever its parts per billion have gained one. -/
def rateCycle (t : Tck) : Tck :=
  if !rateRuns t then t
  else
    let a := t.rateAcc + 4 * t.rate
    if 1000000000 ≤ a then { t with now := t.now + 1, rateAcc := a - 1000000000 }
    else if a ≤ -1000000000 then { t with now := t.now - 1, rateAcc := a + 1000000000 }
    else { t with rateAcc := a }

/-- The rate learned from a measured offset, within the 100 ppm of R37. The value is open. DESIGN CHOICE: log entry 62. -/
def learnRate (t : Tck) (off : Int) : Int := min (max (Config.learnRate t.rate off) (-100000)) 100000

/-- One FTU cycle without the learned rate: 4 units (R395), and one unit of correction in every 10,000 while an offset remains, the 100 ppm of R37. A
grandmaster's U stays 0: its own time is the grandmaster's (R24). -/
def slewCycle (t : Tck) : Tck :=
  if t.slew = 0 then { t with now := t.now + 4, slewAcc := 0 }
  else if t.slewAcc + 4 < 10000 then { t with now := t.now + 4, slewAcc := t.slewAcc + 4 }
  else
    let d : Int := if 0 < t.slew then 1 else -1
    let t1 := { t with now := t.now + (if 0 < t.slew then 5 else 3), slewAcc := t.slewAcc + 4 - 10000, slew := t.slew - d }
    if !t.gm && (t.state == .locked || t.regaining) then { t1 with u := uOf t.measU t1.slew } else t1

/-- One FTU cycle. -/
def ftuCycle (t : Tck) : Tck := rateCycle (slewCycle t)

/-! Grandmaster election (R34 to R36). -/

/-- A link's place in the order BL0-BL5, FP0-FP7, as `TCK_STATUS.UPSTREAM` encodes it. -/
def linkCode (l : Link) : Nat :=
  match l with
  | .bl i => i.val
  | .fp i => 8 + i.val

/-- A key as one number; the lower key wins (02, Grandmaster election). -/
def keyRank (k : GmKey) : Nat := (k.cls * 256 + k.prio % 256) * 8192 + k.node % 8192

/-- The rank of a heard announce: key, then hop count, then link (R35). -/
def heardRank (h : Heard) : Nat := (keyRank h.ann.key * 64 + h.ann.hops % 64) * 16 + linkCode h.link

/-- The node's own key. -/
def ownKey (t : Tck) (n : Node) : GmKey :=
  ⟨if t.extOk && rdB n Rg.tckGmCfgExtEn then 0 else if t.extHad then 1 else 2, rd n Rg.tckGmCfgPrio, rd n Rg.nidNodeNodeId⟩

/-- Announces still heard: until 16 whole ticks have passed without one (R36). -/
def liveHeard (t : Tck) : List Heard := t.heard.filter fun h => t.tick < h.tick + 17

/-- Take the part of grandmaster: time goes on from its own value, or from the seed in a fabric that never had a grandmaster, and never back
(R25, R26, R36). -/
def becomeGm (t : Tck) (k : GmKey) : Tck :=
  { t with
    now := if t.everGm then t.now else max t.now t.seed
    gm := true, everGm := true, gmKey := some k, upstream := none, hops := 0, state := .locked, u := 0, measU := 0, slew := 0,
    slewAcc := 0, regaining := false, stepTo := none }

/-- Choose the upstream, or take the part of grandmaster, from the keys heard (R34, R35). A new upstream's offset is corrected once it is measured; until
then a former grandmaster stays LOCKED with U 0. DESIGN CHOICE: log entry 63. -/
def elect (t : Tck) (n : Node) : Tck :=
  let best := leastBy heardRank (liveHeard t)
  let own := ownKey t n
  let stands := rdB n Rg.tckGmCfgEligible
  match best with
  | none =>
    if stands then (if t.gm then { t with gmKey := some own } else becomeGm t own)
    else { t with gm := false, gmKey := none, upstream := none, hops := 0x1F, slew := 0, slewAcc := 0, regaining := false }
  | some h =>
    if stands && keyRank own < keyRank h.ann.key then (if t.gm then { t with gmKey := some own } else becomeGm t own)
    else if t.upstream = some h.link then { t with gm := false, everGm := true, gmKey := some h.ann.key, hops := h.ann.hops + 1 }
    else { t with gm := false, everGm := true, gmKey := some h.ann.key, upstream := some h.link, hops := h.ann.hops + 1, slew := 0, slewAcc := 0 }

/-- Every link of the node. -/
def allLinks : List Link := (List.finRange 6).map Link.bl ++ (List.finRange 8).map Link.fp

/-- Is a link up. -/
def linkUp (n : Node) (l : Link) : Bool :=
  match l with
  | .bl i => rdB n (Rg.qstBlStatusUp i.val)
  | .fp i => rdB n (Rg.qstPortStatusUp i.val)

/-- Send an announce on every up link but one. -/
def forward (n : Node) (skip : Option Link) (a : Announce) : Node :=
  (allLinks.filter fun l => linkUp n l && some l != skip).foldl (fun m l => emit m (.announce l a)) n

/-! Changing the period (R30, R31). -/

/-- A launch tick of the old period in the new one: the first that starts at or after it (R31). -/
def launchInPeriod (oldP newP k : Nat) : Nat := cdiv (k * unitsPerTick oldP) (unitsPerTick newP)

/-- The tick of the new period that contains an old tick's start (R31). -/
def tickInPeriod (oldP newP k : Nat) : Nat := k * unitsPerTick oldP / unitsPerTick newP

/-- How ticks and notches of the old period read in the new one (R31): a launch tick, the tick that contains an old one, a notch. -/
structure Conv where
  lt : Nat → Nat
  dt : Nat → Nat
  nt : Nat → Nat

/-- The conversion from period `o` to period `p`. -/
def convOf (o p : Nat) : Conv := ⟨launchInPeriod o p, tickInPeriod o p, fun k => cdiv (k * unitsPerNotch o) (unitsPerNotch p)⟩

/-- Convert the values of a map. -/
def mapVals {β : Type} (f : β → β) (m : NMap β) : NMap β := m.map fun e => (e.1, f e.2)

/-- Convert a command: its launch and deadline ticks; one that has launched reports the tick it used in the new numbering (R31). -/
def convCmd (v : Conv) (c : Cmd) : Cmd :=
  if timed c.op then
    { c with accTick := v.dt c.accTick, moved := c.moved || (!c.launched && v.lt c.launch != c.launch), launch := v.lt c.launch, deadline := v.dt c.deadline }
  else { c with accTick := v.dt c.accTick }

/-- Convert a launch descriptor. -/
def convDesc (v : Conv) (d : Desc) : Desc := { d with launch := v.lt d.launch, deadline := v.dt d.deadline }

/-- Convert a chain. -/
def convChain (v : Conv) (c : ChainPost) : ChainPost := { c with deadline := v.dt c.deadline }

/-- Convert the attention engine. -/
def convAtt (v : Conv) (a : Att) : Att :=
  { a with
    steps := a.steps.map fun s => { s with desc := convDesc v s.desc, descs := s.descs.map (convDesc v), chain := convChain v s.chain, tick := v.dt s.tick }
    shares := a.shares.map fun s => { s with desc := convDesc v s.desc, got := v.dt s.got, launched := s.launched.map v.dt }
    items := a.items.map fun i => { i with due := v.nt i.due, slice := v.dt i.slice, stalled := i.stalled.map v.dt }
    blocks := a.blocks.map fun b => { b with due := v.dt b.due, missCounted := b.missCounted.map v.dt }
    planned := a.planned.foldl (fun m e => mset m (v.dt e.1) (mgetD m (v.dt e.1) 0 + e.2)) [] }

/-- Convert a bank-side unit. -/
def convBsu (v : Conv) (u : Bsu) : Bsu :=
  { u with area := u.area.map (fun e => { e with launch := v.nt e.launch }), run := u.run.map fun r => { r with ent := { r.ent with launch := v.nt r.ent.launch } } }

/-- Convert the terraces. -/
def convTer (v : Conv) (x : Ter) : Ter :=
  { x with
    pages := mapVals (fun e => { e with decayAt := v.dt e.decayAt, lastRead := v.dt e.lastRead, settled := e.settled.map v.dt }) x.pages
    freed := x.freed.map fun r => (v.dt r.1, r.2) }

/-- Convert the transport. -/
def convQst (v : Conv) (x : Qst) : Qst :=
  { x with
    qps := mapVals (fun q => { q with errTick := v.dt q.errTick, bad := mapVals v.dt q.bad }) x.qps
    links := mapVals (fun l => { l with replTick := v.dt l.replTick }) x.links }

/-- Convert the node's part in the map. -/
def convMap (v : Conv) (x : MapSt) : MapSt :=
  { x with
    proposedAt := x.proposedAt.map v.dt
    gathered := x.gathered.map fun p => { p with expire := p.expire.map v.dt }
    waits := x.waits.map fun w => { w with expire := v.dt w.expire }
    drains := x.drains.map fun d => { d with accTick := v.dt d.accTick }
    lastReport := mapVals v.dt x.lastReport
    acks := mapVals v.dt x.acks }

/-- Convert the security core; the ticks that records and statements name stay. -/
def convSec (v : Conv) (x : Sec) : Sec :=
  { x with
    slots := mapVals (fun k => { k with activate := k.activate.map v.dt, destroyAt := k.destroyAt.map v.dt }) x.slots
    prior := x.prior.map fun e => (v.dt e.1, e.2)
    opening := x.opening.map fun e => (e.1, v.dt e.2)
    closing := x.closing.map fun e => (e.1, v.dt e.2) }

/-- Convert the power manager. -/
def convPwr (v : Conv) (x : Pwr) : Pwr :=
  { x with
    curTick := v.dt x.curTick, revTick := mapVals v.dt x.revTick, cntTick := mapVals v.dt x.cntTick, haltN := x.haltN.map v.dt
    therm := mapVals (fun e => (e.1, v.dt e.2.1, e.2.2)) x.therm
    hint := x.hint.map fun h => (h.1, h.2.map v.dt) }

/-- Convert the service block. -/
def convSvc (v : Conv) (x : Svc) : Svc :=
  { x with
    commit := x.commit.map fun c => (c.1, v.dt c.2.1, v.dt c.2.2)
    switched := x.switched.map fun c => (c.1, v.dt c.2.1, c.2.2)
    recal := x.recal.map fun r => { r with accTick := v.dt r.accTick, start := r.start.map v.nt }
    cap := x.cap.map fun c => { c with first := v.dt c.first, lines := c.lines.map fun l => { l with tick := v.dt l.tick } } }

/-- Convert the pending ticks of the node (R31). -/
def convertNode (o p : Nat) (n : Node) : Node :=
  let v := convOf o p
  { n with
    fe := { n.fe with cmds := n.fe.cmds.map (convCmd v) }
    seqs := { n.seqs with
      snaps := n.seqs.snaps.map (fun s => { s with tick := v.dt s.tick }), retired := n.seqs.retired.map fun r => { r with tick := v.dt r.tick } }
    att := convAtt v n.att
    cfl := { n.cfl with
      chains := n.cfl.chains.map (fun c => { c with post := convChain v c.post }), hosts := n.cfl.hosts.map fun h => { h with expire := v.dt h.expire } }
    cvt := { n.cvt with run := { n.cvt.run with tick := v.dt n.cvt.run.tick } }
    bsu := { n.bsu with units := mapVals (convBsu v) n.bsu.units }
    ter := convTer v n.ter
    mic := { n.mic with refreshed := mapVals v.nt n.mic.refreshed }
    pdx := { n.pdx with cmpTick := v.dt n.pdx.cmpTick }
    cxd := { n.cxd with snoops := n.cxd.snoops.map fun s => { s with sent := v.nt s.sent } }
    qst := convQst v n.qst
    map := convMap v n.map
    sec := convSec v n.sec
    pwr := convPwr v n.pwr
    svc := convSvc v n.svc }

/-- Run with a new period: tick numbers are computed with it from now on (R30). -/
def setPeriod (p : Nat) (t : Tck) (n : Node) : Tck × Node :=
  if p = t.cur then ({ t with switch := none }, n)
  else ({ t with cur := p, switch := none, late := t.late.map (fun k => (tickInPeriod t.cur p k.1, k.2)), lastAnn := tickInPeriod t.cur p t.lastAnn,
                 heard := t.heard.map fun h => { h with tick := tickInPeriod t.cur p h.tick } },
        convertNode t.cur p n)

/-- The switch point for a period first announced now: the first multiple of 256,000 units at least 1,024 ticks on (R30). -/
def switchPoint (t : Tck) : Nat := cdiv ((t.tick + 1024) * unitsPerTick t.cur) 256000 * 256000

/-- `ANNOUNCE_SEND` (R34): the grandmaster announces at notch 0; a period newly agreed gets its switch point here (R30). -/
def announceSend (t : Tck) (n : Node) : Tck × Node :=
  if !t.gm then (t, n)
  else
    let t1 := match t.wantPeriod, t.switch with
      | some p, none => if p ≤ 5 && p != t.cur then { t with switch := some (p, switchPoint t), wantPeriod := none } else { t with wantPeriod := none }
      | _, _ => t
    (t1, forward n none ⟨ownKey t1 n, t1.cur, t1.switch, 0⟩)

/-- A pending switch point taken from an announce (R30, R34). -/
def heardSwitch (t : Tck) (a : Announce) : Option (Nat × Nat) :=
  match a.switch with
  | some (p, at_) => if p ≤ 5 && at_ % 256000 = 0 && t.now < at_ then some (p, at_) else t.switch
  | none => t.switch

/-- `ANNOUNCE_RECEIVE` (R34, R35): keep the announce, choose, take the period and switch point of the chosen one, forward it. -/
def announceReceive (l : Link) (a : Announce) (t : Tck) (n : Node) : Tck × Node :=
  if 31 < a.hops || stopped n then (t, n)
  else
    let t1 := elect { t with heard := t.heard.filter (·.link != l) ++ [⟨l, a, t.tick⟩] } n
    if t1.upstream == some l then
      let t2 := { t1 with lastAnn := t1.tick, switch := heardSwitch t1 a }
      let (t3, n3) := if t2.state == .locked || 5 < a.period || a.period = t2.cur then (t2, n)
        else
          let (x, m) := setPeriod a.period t2 n
          ({ x with switch := t2.switch }, m)
      (t3, forward n3 (some l) { a with hops := a.hops + 1 })
    else if t1.gmKey == some a.key then ({ t1 with lastAnn := t1.tick }, n)
    else (t1, n)

/-- Enter HOLDOVER from LOCKED, with no upstream (R36, R46). -/
def toHoldover (t : Tck) : Tck :=
  if t.state == .locked then
    { t with state := .holdover, holdAt := t.now, holdSteps := 0, upstream := none, hops := 0x1F, slew := 0, slewAcc := 0,
             regaining := false, gm := false }
  else { t with upstream := none, hops := 0x1F, slew := 0, slewAcc := 0, regaining := false, gm := false }

/-- Has no announce of the current grandmaster come for 16 whole ticks (R36). -/
def gmSilent (t : Tck) : Bool := !t.gm && t.lastAnn + 17 ≤ t.tick

/-- The grandmaster is silent: HOLDOVER, and a new election (R36). -/
def gmLost (t : Tck) (n : Node) : Tck :=
  elect (toHoldover { t with heard := t.heard.filter fun h => some h.ann.key != t.gmKey, gmKey := none }) n

/-- `ANNOUNCE_TIMEOUT` (R36): 16 ticks without an announce from the current grandmaster. -/
def announceTimeout (t : Tck) (n : Node) : Tck × Node := if !gmSilent t || stopped n then (t, n) else (gmLost t n, n)

/-- The choice is made again at every tick boundary (R35) by a grandmaster and by a node that still hears announces; a node whose grandmaster has fallen
silent leaves it through HOLDOVER (R36). -/
def reElect (t : Tck) (n : Node) : Tck :=
  if t.gm then elect t n
  else if t.upstream.isNone || (liveHeard t).isEmpty then t
  else if gmSilent t then gmLost t n
  else elect t n

/-! Link measurement (R37, R38). -/

/-- The uncertainty of a measurement: the upstream's U with the node's own added (02, Link measurement). -/
def measured (m : SyncMeas) : Nat := if 0xFFFF ≤ m.upU then 0xFFFF else min (m.upU + m.ownU) 0xFFFF

/-- Leave a state with a bound: U past 160 units is HOLDOVER (R38), and past `TCK_HOLD_LIMIT`, or unknown, FREE with U 0xFFFF, reported to the map keepers
(R46). -/
def looseLock (t : Tck) (n : Node) : Tck × Node :=
  if rd n Rg.tckHoldLimitLimit < t.u || 0xFFFF ≤ t.u then ({ t with state := .free, u := 0xFFFF }, emit n .offTimeReport)
  else ({ t with state := .holdover, holdAt := t.now, holdSteps := 0 }, n)

/-- `SYNC_WORD` (R37, R38, R46): a node under its upstream takes the offset to slew; a locked node whose U passes 160 units leaves LOCKED, keeps its upstream,
and runs on at the rate it learned until it regains it under R47: that it keeps the upstream, and that R46's growth rather than each measurement gives U from
there, is the model's choice (DESIGN CHOICE, unsafe: log entry 71). -/
def syncWord (l : Link) (m : SyncMeas) (t : Tck) (n : Node) : Tck × Node :=
  if t.gm || t.upstream != some l then (t, n)
  else
    let u := uOf (measured m) m.offset
    let t1 := { t with measU := measured m, rate := learnRate t m.offset }
    if t.state == .locked then
      if u ≤ 160 then ({ t1 with slew := m.offset, u := u }, n)
      else looseLock { t1 with slew := 0, slewAcc := 0, u := u, regaining := false } n
    else if t.regaining then ({ t1 with slew := m.offset, u := u }, n)
    else ({ t with measU := measured m }, n)

/-- Judge the accepted timed commands that have not launched against the new fabric time (R47). -/
def judgeTimed (t : Tck) (n : Node) : Node :=
  (n.fe.cmds.filter fun c => timed c.op && !c.launched && c.launch ≤ t.tick).foldl
    (fun m c => complete t (dropStep m c.handle) c.handle stDeadline (attEnd m c)) n

/-- The re-join step: fabric time takes the upstream's value, the event carries the old value, the new one and the offset, and the node is LOCKED, or
HOLDOVER or FREE while its U is above 160 units (R38, R46, R47). -/
def timeStep (m : SyncMeas) (t : Tck) (n : Node) : Tck × Node :=
  let new := ((t.now : Int) + m.offset).toNat
  let u := uOf (measured m) 0
  let t1 := { t with now := new, measU := measured m, slew := 0, slewAcc := 0, u := u, regaining := false, stepTo := none, state := .locked }
  let (t2, n1) := if u ≤ 160 then (t1, n) else looseLock t1 n
  let n2 := raise t2 n1 evTimeStep (leBytes 8 t.now ++ leBytes 8 new ++ leBytes 8 (wrapInt 64 m.offset))
  (t2, judgeTimed t2 n2)

/-- Do slices run: an item on a cluster, or a run on a bank-side unit that is not paused (R47). -/
def slicesRun (n : Node) : Bool :=
  (n.att.items.any fun i => i.st == .running && i.cluster.isSome) || n.bsu.units.any fun u => u.2.run.any fun r => !r.paused && !r.halted

/-- A node in STEPPING whose slices have finished steps (R47). -/
def stepWhenDone (t : Tck) (n : Node) : Tck × Node :=
  match t.stepTo with
  | some m => if t.state == .stepping && !slicesRun n then timeStep m t n else (t, n)
  | none => (t, n)

/-- `UPSTREAM_OFFSET_MEASURED` (R47): a node in ACQUIRE, FREE or HOLDOVER slews an offset of at most 4,000 units; a larger one puts it in STEPPING, which ends
in the step at once where no slice runs. -/
def offsetMeasured (m : SyncMeas) (t : Tck) (n : Node) : Tck × Node :=
  if t.upstream.isNone || !(t.state == .acquire || t.state == .free || t.state == .holdover) then (t, n)
  else if m.offset.natAbs ≤ 4000 then
    ({ t with measU := measured m, slew := m.offset, u := uOf (measured m) m.offset, regaining := true }, n)
  else stepWhenDone { t with state := .stepping, stepTo := some m, slew := 0, slewAcc := 0, regaining := false } n

/-- `LOCK_ACHIEVED` (R47): a slewing node whose U is at most 160 units enters LOCKED at a tick boundary; a stepping one whose slices have finished, with its
step. -/
def lockAchieved (t : Tck) (n : Node) : Tck × Node :=
  if t.regaining && t.upstream.isSome && t.u ≤ 160 && t.atTick && (t.state == .acquire || t.state == .free || t.state == .holdover) then
    ({ t with state := .locked, regaining := false }, n)
  else stepWhenDone t n

/-- `HOLDOVER_GROWTH` (R46): one unit at the end of every 0.5 ms since entry; past the limit the node is FREE, its U unknown, and its keepers are
told. -/
def holdoverGrowth (t : Tck) (n : Node) : Tck × Node :=
  if t.state == .holdover && !t.regaining && t.holdAt + (t.holdSteps + 1) * 2000000 ≤ t.now then
    let t1 := { t with u := min (t.u + 1) 0xFFFF, holdSteps := t.holdSteps + 1 }
    if rd n Rg.tckHoldLimitLimit < t1.u || 0xFFFF ≤ t1.u then
      ({ t1 with state := .free, u := 0xFFFF }, emit n .offTimeReport)
    else (t1, n)
  else (t, n)

/-! External reference (R39, R40). -/

/-- The checks of a time-of-day frame: framing, CRC, reserved bytes, CLASS, and arrival in [edge - 900 ms, edge - 10 ms), `before` units ahead of the
edge (R39). -/
def todGood (fr : Bytes) (before : Nat) : Bool :=
  fr.length == 16 && byteAt fr 0 == 0xD7 && byteAt fr 1 == 16 && field fr 14 2 == crc16 (fr.take 14) && field fr 12 2 == 0
    && [6, 7, 13, 14].contains (byteAt fr 10) && 40000000 < before && before ≤ 3600000000

/-- `TOD_FRAME` (R39). -/
def todFrame (fr : Bytes) (before : Nat) (t : Tck) (n : Node) : Tck × Node :=
  if !rdB n Rg.tckGmCfgExtEn then (t, n)
  else if todGood fr before then ({ t with tod := some (field fr 2 6) }, n)
  else (t, bump n Rg.tckExtErrTodBad 1)

/-- A missing edge (R39): two in a row lose the reference. -/
def missEdge (at_ : Nat) (t : Tck) (n : Node) : Tck × Node :=
  let t1 := { t with goodRun := 0, missRun := t.missRun + 1, tod := none, lastEdge := some at_,
                     extOk := t.extOk && decide (t.missRun + 1 < 2) }
  (t1, bump n Rg.tckExtErrPpsMiss 1)

/-- A value held to 32 bits signed, saturating (02 registers). -/
def sat32 (i : Int) : Int := min (max i (-2147483647)) 2147483647

/-- A good edge (R39, R40): four in a row make the reference valid; a grandmaster is disciplined to it by slewing, another node records the offset. -/
def goodEdge (sec : Nat) (t : Tck) : Tck :=
  let ref := sec * 4000000000
  let ok := t.extOk || 4 ≤ t.goodRun + 1
  let off : Int := (t.now : Int) - ref
  { t with
    goodRun := t.goodRun + 1, missRun := 0, tod := none, lastEdge := some t.now, extOk := ok, extHad := t.extHad || ok
    slew := if ok && t.gm then -off else t.slew
    rate := if ok && t.gm then learnRate t (-off) else t.rate
    extOffset := if ok && !t.gm then sat32 off else t.extOffset }

/-- Edges that were due and have not come within 1 ms of their times (R39). -/
def overdue (t : Tck) : Nat :=
  match t.lastEdge with
  | some e => (t.now - e - 4000001) / 4000000000
  | none => 0

/-- Count every overdue edge as missing at the time it was due; an accepted frame stays for the edge it names. -/
def missOverdue (t : Tck) (n : Node) : Tck × Node :=
  (List.range (overdue t)).foldl
    (fun s _ => let r := missEdge ((s.1.lastEdge.getD 0) + 4000000000) s.1 s.2; ({ r.1 with tod := s.1.tod }, r.2)) (t, n)

/-- An edge on time, or the first: good when a frame naming it has been accepted, else missing. One that comes more than 1 ms early is the missing edge of its
second: it is counted when it comes, and the time that edge was due is the base of the next. DESIGN CHOICE: log entry 64. -/
def takeEdge (t : Tck) (n : Node) : Tck × Node :=
  match t.lastEdge with
  | some e =>
    if t.now + 4000000 < e + 4000000000 then missEdge (e + 4000000000) t n
    else match t.tod with
      | some sec => (goodEdge sec t, n)
      | none => missEdge t.now t n
  | none => match t.tod with
    | some sec => (goodEdge sec t, n)
    | none => missEdge t.now t n

/-- `PPS_EDGE` (R39): good when a frame naming it has been accepted and it comes 1 s ± 1 ms after the last. -/
def ppsEdge (t : Tck) (n : Node) : Tck × Node :=
  if !rdB n Rg.tckGmCfgExtEn then (t, n) else takeEdge (missOverdue t n).1 (missOverdue t n).2

/-- `PPS_MISSING` (R39): an edge not come within 1 ms of the time it was due counts as missing at that time. -/
def ppsMissing (t : Tck) (n : Node) : Tck × Node :=
  match t.lastEdge with
  | none => (t, n)
  | some e => if rdB n Rg.tckGmCfgExtEn && e + 4004000000 < t.now then missEdge (e + 4000000000) t n else (t, n)

/-- `PERIOD_SWITCH` (R30, R31): at the switch point every locked node changes its period. -/
def periodSwitch (t : Tck) (n : Node) : Tck × Node :=
  match t.switch with
  | some (p, at_) => if t.state == .locked && at_ ≤ t.now then setPeriod p t n else (t, n)
  | none => (t, n)

/-! Lateness (R43, R44). -/

/-- SUSPECT after a change of COUNT or of the thresholds (R44). -/
def judgeSuspect (t : Tck) (n : Node) : Tck :=
  if rd n Rg.tckSuspectThr < t.late.length then { t with suspect := true }
  else if t.late.length ≤ rd n Rg.tckSuspectClr then { t with suspect := false }
  else t

/-- Is a report's stamp ambiguous against the boundaries of its on-time window: the start of a tick and that of its saddle (R42, R43). -/
def reportAmbig (t : Tck) : Bool :=
  ambig (unitsPerTick t.cur) t.now t.u || ambig (unitsPerTick t.cur) (t.now + 2 * unitsPerNotch t.cur) t.u

/-- The tick completion report of tick `k` (R43): late when stamped in its saddle or later, and then counted with its `AMBIG` flag (R42, R44). -/
def tickReport (k : Nat) (t : Tck) (n : Node) : Tck × Node :=
  let late := k < t.tick || (k = t.tick && t.inSaddle)
  let n1 := capNote t n fun l => { l with notch := some t.notch, late := late, ambig := reportAmbig t }
  if late then (judgeSuspect { t with late := t.late ++ [(t.tick, reportAmbig t)] } n1, bump n1 Rg.tckLateTotalTotal 1) else (t, n1)

/-- `LATE_COUNT_EXPIRY` (R44): a late report leaves COUNT at the boundary that ends its 1,024th tick. -/
def lateExpiry (t : Tck) (n : Node) : Tck :=
  judgeSuspect { t with late := t.late.filter fun k => t.tick < k.1 + 1024 } n

/-- `SUSPECT_REPORT` (R44): a change of SUSPECT is reported to the keepers. -/
def suspectReport (t : Tck) (n : Node) : Tck × Node :=
  if t.suspect != t.suspectTold then ({ t with suspectTold := t.suspect }, emit n (.suspectReport t.suspect)) else (t, n)

/-- `TCK_SEED_WRITE` (R26): takes effect only in ACQUIRE. -/
def seedWrite (hi : Bool) (v : Nat) (t : Tck) (n : Node) : Tck × Node :=
  if t.state == .acquire then ({ t with seed := if hi then putBits t.seed 32 32 v else putBits t.seed 0 32 v }, n)
  else (t, raise t n evTckWriteIgnored (leBytes 4 (if hi then Rg.tckSeedHiSeed.off else Rg.tckSeedLoSeed.off)))

/-! The commands. -/

/-- `ANNOUNCE_SEND`. -/
def execAnnounceSend (s : State) : Outcome State Fault Refusal := onBoth announceSend s
/-- `ANNOUNCE_RECEIVE`. -/
def execAnnounceReceive (l : Link) (a : Announce) (s : State) : Outcome State Fault Refusal := onBoth (announceReceive l a) s
/-- `ANNOUNCE_TIMEOUT`. -/
def execAnnounceTimeout (s : State) : Outcome State Fault Refusal := onBoth announceTimeout s
/-- `SYNC_WORD`. -/
def execSyncWord (l : Link) (m : SyncMeas) (s : State) : Outcome State Fault Refusal := onBoth (syncWord l m) s
/-- `UPSTREAM_OFFSET_MEASURED`. -/
def execUpstreamOffsetMeasured (m : SyncMeas) (s : State) : Outcome State Fault Refusal := onBoth (offsetMeasured m) s
/-- `LOCK_ACHIEVED`. -/
def execLockAchieved (s : State) : Outcome State Fault Refusal := onBoth lockAchieved s
/-- `HOLDOVER_GROWTH`. -/
def execHoldoverGrowth (s : State) : Outcome State Fault Refusal := onBoth holdoverGrowth s
/-- `TOD_FRAME`. -/
def execTodFrame (fr : Bytes) (before : Nat) (s : State) : Outcome State Fault Refusal := onBoth (todFrame fr before) s
/-- `PPS_EDGE`. -/
def execPpsEdge (s : State) : Outcome State Fault Refusal := onBoth ppsEdge s
/-- `PPS_MISSING`. -/
def execPpsMissing (s : State) : Outcome State Fault Refusal := onBoth ppsMissing s
/-- `PERIOD_SWITCH`. -/
def execPeriodSwitch (s : State) : Outcome State Fault Refusal := onBoth periodSwitch s
/-- `LATE_COUNT_EXPIRY`. -/
def execLateCountExpiry (s : State) : Outcome State Fault Refusal := onBoth (fun t n => (lateExpiry t n, n)) s
/-- `SUSPECT_REPORT`. -/
def execSuspectReport (s : State) : Outcome State Fault Refusal := onBoth suspectReport s
/-- `TCK_SEED_WRITE`. -/
def execTckSeedWrite (hi : Bool) (v : Word) (s : State) : Outcome State Fault Refusal := onBoth (whenOpenT (seedWrite hi v.toNat)) s

end Sys2Proof.Machine
end

