-- ==== Sys2Proof/Machine/Holder.lean ====
section
/-! DEFINITION. Attention on a holder: descriptors, launch, die queues, granule items, their partial messages (R14, R28, R29, R123 to R134, R215, R216, R446). -/

namespace Sys2Proof.Machine

open Host (Outcome)

/-! Requests, shares, items. -/

/-- Is this the item of a request. -/
def Item.at (i : Item) (home handle group granule : Nat) : Bool :=
  i.home == home && i.handle == handle && i.group == group && i.granule == granule

/-- The item of a request. -/
def findItem (n : Node) (home handle group granule : Nat) : Option Item := n.att.items.find? (·.at home handle group granule)

/-- Change an item in place. -/
def modItem (n : Node) (i : Item) (f : Item → Item) : Node :=
  { n with att := { n.att with items := lmodify n.att.items (·.at i.home i.handle i.group i.granule) f } }

/-- Change an item and put it behind the others: the order of the list is the order of queueing. -/
def requeue (n : Node) (i : Item) (f : Item → Item) : Node :=
  { n with att := { n.att with items := n.att.items.filter (fun x => !x.at i.home i.handle i.group i.granule) ++ [f i] } }

/-- A share. -/
def findShare (n : Node) (home handle : Nat) : Option Share := n.att.shares.find? fun s => s.desc.home == home && s.desc.handle == handle

/-- Change a share. -/
def modShare (n : Node) (home handle : Nat) (f : Share → Share) : Node :=
  { n with att := { n.att with shares := lmodify n.att.shares (fun s => s.desc.home == home && s.desc.handle == handle) f } }

/-! Pages of an item (R127, R446). -/

/-- Does this node hold an FPN as a page of a step's sequence, its own or one it shares by `SEQ_FORK`, or as a shared prefix page of the same format and
shape (R97, R127). -/
def holdsFor (n : Node) (d : Desc) (f : Nat) : Bool :=
  fpnIdx f != noPage &&
    (match pageAt n (fpnIdx f) with
     | some e => e.seq == d.seq || d.parents.contains e.seq || (e.pref && e.kf == d.kf && e.vf == d.vf && e.heads == d.heads && e.dim == d.dim)
     | none => false)

/-- The copy of a page that an item has: another node's, received (R446), or one that a bank-side run has read (R184). -/
def copyOf (it : Item) (f : Nat) : Option SplitPage := it.copies.find? (·.fpn == f)

/-- The check of R127 on one page of an item. -/
def pageGood (n : Node) (d : Desc) (it : Item) (f : Nat) : Bool :=
  if fpnNode f = nodeId n then holdsFor n d f
  else
    match copyOf it f with
    | some p => p.seq == some d.seq
    | none => false

/-- Bytes of an item's page: as it was read, where the item has a copy, else as it lies here. -/
def itemRead (n : Node) (it : Item) (f off len : Nat) : Bytes :=
  match copyOf it f with
  | some p => slice p.data off len
  | none => if fpnNode f = nodeId n then ((pageAt n (fpnIdx f)).map fun e => pageRead n e off len).getD [] else []

/-- Poison of a range of an item's page, in the same way. -/
def itemPoison (n : Node) (it : Item) (f off len : Nat) : Option Nat :=
  match copyOf it f with
  | some p => (p.poison.find? fun x => off / 64 * 64 ≤ x.1 && x.1 < off + len).map (·.2)
  | none => if fpnNode f = nodeId n then (pageAt n (fpnIdx f)).bind fun e => pagePoison n e off len else none

/-- The bitmap block of a granule. -/
def descBlock (d : Desc) (g : Nat) : Bytes := ((d.bitmap.find? (·.1 == g)).map (·.2)).getD []

/-- Rows of a step that are not structurally empty for a tree node of a group (R114). -/
def liveRows (s : Shape) (g k i : Nat) : List Nat := (List.range s.rows).filter fun t => !s.empty g t k i

/-- The visible positions of a page for a row. -/
def seen (d : Desc) (group granule t pg : Nat) : List Nat := (descShape d).visible (descBlock d granule) group t pg

/-- Positions of a page that some row of an item sees. -/
def seenAny (d : Desc) (group granule pg : Nat) : List Nat :=
  (List.range 64).filter fun k => (List.range d.rows).any fun t => (seen d group granule t pg).contains (64 * pg + k)

/-- The pages of an item that hold a visible key. -/
def livePages (d : Desc) (it : Item) : List (Nat × Nat) := it.pages.filter fun p => !(seenAny d it.group it.granule p.1).isEmpty

/-- The first poison that a page's visible positions meet (R127): over heads, sections and positions. -/
def visiblePoison (n : Node) (d : Desc) (it : Item) (p : Nat × Nat) : Option Nat :=
  ((seenAny d it.group it.granule p.1).flatMap fun k => (List.range d.heads).flatMap fun h => (List.range 4).filterMap fun s =>
    let (off, len) := rowPlace d.heads d.dim d.kf d.vf s h k
    if len = 0 then none else itemPoison n it p.2 off len).head?

/-- How an item's pages fail it: the status and the FPN (R127). The checks come before any read. -/
def pageFault (n : Node) (d : Desc) (it : Item) : Option (Nat × Nat) :=
  let l := livePages d it
  match l.find? fun p => !pageGood n d it p.2 with
  | some p => some (stNotOwner, p.2)
  | none => (l.filterMap fun p => (visiblePoison n d it p).map fun k => (if k = 2 then stOwnerLost else stMemUncorr, p.2)).head?

/-! Partials of an item (R117 to R120). -/

/-- Key and value of position `k` of a page for KV head `h`. -/
def keyVal (n : Node) (d : Desc) (it : Item) (f h k : Nat) : KeyVal :=
  let rd s := itemRead n it f (rowPlace d.heads d.dim d.kf d.vf s h k).1 (rowPlace d.heads d.dim d.kf d.vf s h k).2
  ⟨⟨unpackElems d.kf d.dim (rd 0), (rd 2).map (·.toNat)⟩, ⟨unpackElems d.vf d.dim (rd 1), (rd 3).map (·.toNat)⟩⟩

/-- The partials of row `t`, one for each query head of the group, with their rescales. -/
def rowParts (n : Node) (d : Desc) (it : Item) (t : Nat) : List (Part × Nat) :=
  let blocks := it.pages.map fun p => (p.2, seen d it.group it.granule t p.1)
  let kv := (List.range d.heads).map fun h => blocks.map fun b => b.2.map fun j => keyVal n d it b.1 h (j % 64)
  let per := d.heads * d.qpk
  (List.range per).map fun q =>
    granulePart d.dim d.kf d.vf d.twoPass (d.queries.getD (t * (d.groups * per) + it.group * per + q) ⟨[], []⟩) (kv.getD (q / d.qpk) [])

/-- The records of an item's leaf, in order of t × QH + q, with rescales and whether some pair is the NaN partial. -/
def itemLeaf (n : Node) (d : Desc) (it : Item) : List Bytes × Nat × Bool :=
  let per := d.heads * d.qpk
  let rows := liveRows (descShape d) it.group 0 it.granule
  let parts := rows.map fun t => (t, rowParts n d it t)
  (parts.flatMap fun x => (List.range per).map fun q =>
      partRecord (x.2.getD q (idPart d.dim, 0)).1 0 it.granule x.1 (it.group * per + q),
    ((parts.flatMap (·.2)).map (·.2)).foldl (· + ·) 0, (parts.flatMap (·.2)).any fun y => y.1.isNan)

/-! Messages (R132 to R134). -/

/-- The header of a partial message. -/
def partialHeader (kind group node home handle holder count status fpn : Nat) : Bytes :=
  leBytes 1 kind ++ leBytes 1 0 ++ leBytes 2 group ++ leBytes 4 node ++ leBytes 8 (handle + home * 2 ^ 32) ++ leBytes 2 holder
    ++ leBytes 2 count ++ leBytes 2 status ++ leBytes 2 0 ++ leBytes 8 (fpn % 2 ^ 45)

/-- Send the records of a send unit in messages of 128 (R133); a fenced node sends none (R353). -/
def sendUnit (n : Node) (s : Share) (g k i : Nat) (recs : List Bytes) : Node :=
  if fencedNode n then n
  else
    (chunksOf 128 (recs.length / 128 + 1) recs).foldl
      (fun m c => emit m (.partialMsg s.desc.confluence
        (partialHeader 0x10 g (nodeCode k i) s.desc.home s.desc.handle (nodeId n) c.length 0 0 ++ c.flatten) s.late s.bank)) n

/-- The leaf partial of a pair among a holder's leaves: the identity for leaves it does not compute (R134). -/
def leafPart (d : Desc) (leaves : List (Nat × Nat × List Bytes)) (g i t q : Nat) : Part :=
  match leaves.find? fun l => l.1 == g && l.2.1 == i with
  | some l =>
    match l.2.2.find? fun r => field r 12 2 == t && byteAt r 14 == q with
    | some r => recordPart d.dim r
    | none => idPart d.dim
  | none => idPart d.dim

/-- The records of a pre-merged send unit (R134). -/
def premerge (d : Desc) (leaves : List (Nat × Nat × List Bytes)) (g k i : Nat) : List Bytes :=
  let per := d.heads * d.qpk
  (liveRows (descShape d) g k i).flatMap fun t => (List.range per).map fun q =>
    let l := (List.range (2 ^ k)).map fun x => leafPart d leaves g (i * 2 ^ k + x) t (g * per + q)
    partRecord (treeRoot d.dim k l).1 k i t (g * per + q)

/-- A holder's leaf is computed: sent as it is, or kept until its send unit is whole (R134). -/
def leafDone (n : Node) (s : Share) (g i : Nat) (recs : List Bytes) : Node :=
  match s.desc.sendSet.find? fun u => u.1 == g && i / 2 ^ u.2.1 == u.2.2 with
  | none => n
  | some u =>
    if u.2.1 = 0 then sendUnit n s g 0 i recs
    else
      let leaves := s.leaves ++ [(g, i, recs)]
      let mine := s.desc.items.filter fun x => x.group == g && x.granule / 2 ^ u.2.1 == u.2.2
      if mine.all fun x => leaves.any fun l => l.1 == g && l.2.1 == x.granule then
        sendUnit (modShare n s.desc.home s.desc.handle fun y => { y with leaves := leaves.filter fun l => !(l.1 == g && l.2.1 / 2 ^ u.2.1 == u.2.2) })
          s g u.2.1 u.2.2 (premerge s.desc leaves g u.2.1 u.2.2)
      else modShare n s.desc.home s.desc.handle fun y => { y with leaves := leaves }

/-! Slices and their reports (R29, R43). -/

/-- One more slice planned in a tick. -/
def planSlice (n : Node) (k : Nat) : Node := { n with att := { n.att with planned := mset n.att.planned k (mgetD n.att.planned k 0 + 1) } }

/-- A slice of tick `k` has ended; with the last of them the holder stamps its report (R43). -/
def endSlice (k : Nat) (t : Tck) (n : Node) : Tck × Node :=
  match mget? n.att.planned k with
  | none => (t, n)
  | some c =>
    if c ≤ 1 then tickReport k t { n with att := { n.att with planned := mdel n.att.planned k } }
    else (t, { n with att := { n.att with planned := mset n.att.planned k (c - 1) } })

/-- A share whose items have all ended leaves the holder. -/
def endShare (n : Node) (home handle : Nat) : Node :=
  if (n.att.items.any fun i => i.home == home && i.handle == handle) || (findShare n home handle).any fun s => !s.desc.foreign.isEmpty then n
  else
    { n with att := { n.att with
      shares := n.att.shares.filter fun s => !(s.desc.home == home && s.desc.handle == handle && s.launched.isSome)
      rowsIn := n.att.rowsIn.filter fun r => !(r.1 == home && r.2.1 == handle) } }

/-- Take an item out of the holder: its tables are unbound, its slice has ended. -/
def endItem (it : Item) (t : Tck) (n : Node) : Tck × Node :=
  let n1 := { n with att := { n.att with items := n.att.items.filter fun i => !i.at it.home it.handle it.group it.granule } }
  let started := (findShare n it.home it.handle).any (·.launched.isSome)
  let r := if started then endSlice it.slice t n1 else (t, n1)
  (r.1, endShare r.2 it.home it.handle)

/-! Receiving a descriptor (R14, R168, R215, R216, R446). -/

/-- The BSU and command area of a bank-side item: the pseudo-channel of its pages when they all lie here in one (R17). -/
def onePch (n : Node) (pages : List (Nat × Nat)) : Option Nat :=
  let ps := pages.map fun p =>
    if fpnNode p.2 = nodeId n then
      (match pageAt n (fpnIdx p.2) with
       | some e => if e.terrace = 1 then some (pchOf e.addr) else none
       | none => none)
    else none
  match ps with
  | some p :: rest => if rest.all (· == some p) then some p else none
  | _ => none

/-- Bytes of a bank-side item's working set (R168). -/
def workingSet (d : Desc) : Nat :=
  let pairs := d.rows * d.heads * d.qpk
  pairs * (d.dim * fmtBits d.kf / 8 + (if fmtScaled d.kf then d.dim / 32 else 0)) + pairs * (8 + 4 * d.dim)
    + (if bitAt d.mask mBitmap then (descShape d).bmBlock else 0) + pairs * 256

/-- May an item go to a BSU, and to which (R168). -/
def bankFor (n : Node) (d : Desc) (pages : List (Nat × Nat)) : Option Nat :=
  match onePch n pages with
  | none => none
  | some p =>
    let open_ := pages.all fun x => match pageAt n (fpnIdx x.2) with
      | some e => (List.range (e.foot / 4096)).all fun k => frameKind n (e.addr + 4096 * k) != 1
      | none => false
    if pchInService n p && !n.mic.bsusOut.contains p && open_ && workingSet d ≤ 196608 then some p else none

/-- The die whose stack holds a granule's first page (R123); die 0 where that page is not in terrace 1 here. -/
def dieOf (n : Node) (pages : List (Nat × Nat)) : Nat :=
  match pages.head? with
  | some p =>
    if fpnNode p.2 = nodeId n then
      (match pageAt n (fpnIdx p.2) with
       | some e => if e.terrace = 1 then pchOf e.addr / 256 else 0
       | none => 0)
    else 0
  | none => 0

/-- The page lies on this node below terrace 1. -/
def lowPage (n : Node) (f : Nat) : Bool :=
  fpnNode f == nodeId n && (match pageAt n (fpnIdx f) with | some e => e.terrace != 1 | none => false)

/-- Is an item of a step read in place: a page with a visible key lies on another node, or, in a relaxed step, below terrace 1 (R216, R446). -/
def readsInPlace (n : Node) (d : Desc) (it : Item) : Bool :=
  (livePages d it).any fun p => (fpnNode p.2 != nodeId n && fpnIdx p.2 != noPage) || (!d.sealed && lowPage n p.2)

/-- The item a descriptor's item becomes, under node firmware's plan. -/
def newItem (n : Node) (d : Desc) (x : ItemDesc) (p : ItemPlan) : Item :=
  let it : Item := {
    home := d.home, handle := d.handle, group := x.group, granule := x.granule, pages := x.pages, st := .planned, die := dieOf n x.pages,
    cluster := none, bsu := if p.bank then bankFor n d x.pages else none, due := 0, slice := p.slice, copies := [], direct := false,
    loaded := false, stalled := [], overrun := false, blocked := false }
  let r := readsInPlace n d it
  { it with direct := r, bsu := if r then none else it.bsu }

/-- Ask for the demand promotion of a page, once (R215). -/
def askPromotion (n : Node) (f : Nat) : Node :=
  if n.ter.moves.any fun r => r.what == .page (fpnIdx f) && r.dest == 1 && r.cls == 1 then n
  else queueMoves n [⟨1, .page (fpnIdx f), 1, none, none⟩]

/-- Demand promotions for a sealed step: every page with a visible key below terrace 1 (R215). -/
def promoteFor (d : Desc) (n : Node) (it : Item) : Node :=
  if !d.sealed then n
  else
    ((livePages d it).filter fun p => lowPage n p.2).foldl (fun m p => askPromotion m p.2) n

/-- Have a step's forwarded rows arrived (R14). -/
def rowsHere (n : Node) (d : Desc) : Bool :=
  d.waitRows ≤ ((n.att.rowsIn.find? fun r => r.1 == d.home && r.2.1 == d.handle).map (·.2.2)).getD 0

/-- The contents of a page for another node's item (R446): with its poison, and the sequence when the check of R127 holds. -/
def splitPage (n : Node) (d : Desc) (f : Nat) : SplitPage :=
  match pageAt n (fpnIdx f) with
  | none => ⟨f, [], [], none⟩
  | some e =>
    ⟨f, pageRead n e 0 e.foot,
      pagePoisonLines n e,
      if holdsFor n d f then some d.seq else none⟩

/-- Send pages of split granules to the nodes that compute them, in one message a node; the reads add heat (R205, R446). -/
def sendForeign (t : Tck) (n : Node) (d : Desc) (l : List (Nat × Nat)) : Node :=
  let n1 := (dedupNat (l.map (·.2))).foldl
    (fun m k => emit m (.splitPages k d.home d.handle ((l.filter fun x => x.2 == k).map fun x => splitPage n d x.1))) n
  l.foldl (fun m x => readHeat t m (fpnIdx x.1)) n1

/-- May this node send a page of a split granule: a sealed step's only from terrace 1 (R215). -/
def sendable (n : Node) (d : Desc) (x : Nat × Nat) : Bool := !(d.sealed && lowPage n x.1)

/-- Does the step append on a page of this node: the page with its last position, for a page this node has placed, or any while no place is known. -/
def getsRows (n : Node) (d : Desc) (f : Nat) : Bool :=
  d.waitRows != 0 &&
    (match (pageAt n (fpnIdx f)).bind (·.place) with
     | some p => d.pos < p.2.2 + 64
     | none => true)

/-- Send what a share still owes to other nodes and can now send, and forget it: pages of a sealed step below terrace 1 once they are promoted (R215), and
again the pages that its rows have changed since, once those are here (R14). DESIGN CHOICE: log entry 59. -/
def settleForeign (t : Tck) (n : Node) (home handle : Nat) : Node :=
  match findShare n home handle with
  | none => n
  | some s =>
    if !rowsHere n s.desc || epochOf n < s.desc.epoch then n
    else
      let now := s.desc.foreign.filter (sendable n s.desc)
      modShare (if now.isEmpty then n else sendForeign t n s.desc now) home handle
        fun x => { x with desc := { x.desc with foreign := x.desc.foreign.filter fun y => !sendable n s.desc y } }

/-- Send the pages of split granules when the descriptor is received (R446): those that wait for neither promotion nor rows are then no longer owed. -/
def firstForeign (t : Tck) (n : Node) (d : Desc) : Node :=
  let now := d.foreign.filter (sendable n d)
  modShare (if now.isEmpty then n else sendForeign t n d now) d.home d.handle
    fun x => { x with desc := { x.desc with foreign := x.desc.foreign.filter fun y => !sendable n d y || (!rowsHere n d && getsRows n d y.1) } }

/-- Are an item's pages where it reads them: its copies here, a sealed item's pages with visible keys in terrace 1, a read in place loaded. -/
def itemReady (n : Node) (d : Desc) (it : Item) : Bool :=
  (livePages d it).all fun p =>
    if fpnNode p.2 = nodeId n || fpnIdx p.2 = noPage then !lowPage n p.2 || (!d.sealed && it.loaded)
    else (copyOf it p.2).isSome

/-- Is BSU compute suspended (R186): shed step 3, or level 2 of its stack's thermal site (R402). -/
def bsuShed (n : Node) (b : Nat) : Bool :=
  3 ≤ n.pwr.step || (match mget? n.pwr.therm (5 + b / 128) with | some x => 2 ≤ x.1 | none => false)

/-- Entries of a BSU's command area in use: the waiting ones, and that of the run in progress (R167). -/
def areaUsed (u : Bsu) : Nat := u.area.length + b2n u.run.isSome

/-- Depth of a die queue. -/
def dqDepth (n : Node) (d : Nat) : Nat := (n.att.items.filter fun i => i.st == .queued && i.die == d).length

/-- Put an item on its die queue from notch `due` on (R123). -/
def queueDie (n : Node) (it : Item) (due : Nat) : Node :=
  let n1 := requeue n it fun i => { i with st := .queued, due := due, die := dieOf n it.pages, bsu := none }
  let k := min (dqDepth n1 (dieOf n it.pages)) 4096
  wr n1 (Rg.attDqStatusHigh (dieOf n it.pages)) (max k (rd n1 (Rg.attDqStatusHigh (dieOf n it.pages))))

/-- Put an item on its BSU's command area (R168); without a credit of the area its producer waits, and the stall is counted (R21, R167). -/
def queueBank (n : Node) (b : Nat) (it : Item) (due : Nat) : Node :=
  let e : BsuEntry := ⟨1, it.home, it.handle, it.group, it.granule, n.bsu.fwBase, due⟩
  let u := mgetD n.bsu.units b ⟨[], none, [], [], []⟩
  if 64 ≤ areaUsed u then pmc (modItem n it fun i => { i with blocked := true }) 63 2 1
  else
    let n1 := requeue n it fun i => { i with st := .running, due := due, blocked := false }
    { n1 with bsu := { n1.bsu with units := mset n1.bsu.units b { u with area := u.area ++ [e] } } }

/-- Put an item on its BSU's command area, or on its die queue; while its BSU's compute is suspended it takes the cluster-side path (R186). -/
def queueItem (n : Node) (it : Item) (due : Nat) : Node :=
  match it.bsu with
  | some b => if bsuShed n b then queueDie n it due else queueBank n b it due
  | none => queueDie n it due

/-- Demand promotions for a sealed step's pages that other nodes' items wait for (R215, R446). -/
def promoteForeign (d : Desc) (n : Node) : Node :=
  if !d.sealed then n else (d.foreign.filter fun x => lowPage n x.1).foldl (fun m x => askPromotion m x.1) n

/-- An item of the cluster-side path whose pages are here enters its die queue as its slice is planned, ahead of its launch notch (R123). -/
def preQueue (d : Desc) (n : Node) (it : Item) : Node :=
  if it.bsu.isNone && !it.direct && itemReady n d it then queueItem n it ((d.launch + it.slice) * 64) else n

/-- Take a descriptor: the share, its items under the plan, promotions, pages owed; a newer epoch is fetched first (R345, R347). -/
def takeDesc (t : Tck) (n : Node) (d : Desc) (plan : List ItemPlan) : Node :=
  if d.holder != nodeId n || (findShare n d.home d.handle).isSome then n
  else
    let s : Share := ⟨d, t.tick, none, false, false, []⟩
    let items := d.items.map fun x =>
      newItem n d x ((plan.find? fun p => p.group == x.group && p.granule == x.granule).getD ⟨x.group, x.granule, false, 0⟩)
    let n1 := { n with att := { n.att with shares := n.att.shares ++ [s], items := n.att.items ++ items } }
    let n2 := items.foldl (preQueue d) (promoteForeign d (items.foldl (promoteFor d) n1))
    let n3 := bump n2 Rg.terDirectItems ((items.filter fun i => i.direct && !d.sealed).length)
    let n4 := if epochOf n < d.epoch then emit (meetEpoch n3 d.epoch) (.fetchEpochs (n.map.map.keepers.headD 0) (epochOf n + 1)) else n3
    firstForeign t n4 d

/-- `LAUNCH_DESCRIPTOR_RECEIVE`: a holder's descriptor, or a confluence node's chain with its reservation (R14, R136, R141). -/
def descriptorReceive (m : LaunchMsg) (plan : List ItemPlan) (t : Tck) (n : Node) : Node :=
  match m with
  | .desc d => takeDesc t n d plan
  | .chain c =>
    if n.cfl.chains.any fun x => x.post.home == c.home && x.post.handle == c.handle then n
    else
      match cflTake n c with
      | some n1 => emit n1 (.reserveReply c.home c.handle true)
      | none => emit n (.reserveReply c.home c.handle false)

/-- `SPLIT_GRANULE_PAGES_RECEIVE` (R446): every item of the request that is not yet running takes its copy of a page, a later
copy in place of an earlier. -/
def splitReceive (home handle : Nat) (pages : List SplitPage) (n : Node) : Node :=
  let take (i : Item) : Item :=
    if i.home == home && i.handle == handle && i.st != .running then
      let got := pages.filter fun p => i.pages.any fun x => x.2 == p.fpn
      { i with copies := (i.copies.filter fun c => !got.any (·.fpn == c.fpn)) ++ got }
    else i
  { n with att := { n.att with items := n.att.items.map take } }

/-! Launch and slices (R14, R28, R29, R123, R126). -/

/-- Start an item's slice: it queues, or waits for its pages (R215, R216). -/
def enterItem (t : Tck) (n : Node) (d : Desc) (it : Item) : Node :=
  if it.direct then (if it.loaded then queueItem n it (dueNotch t) else modItem n it fun i => { i with st := .waitData, due := t.notches })
  else if itemReady n d it then queueItem n it (dueNotch t)
  else modItem n it fun i => { i with st := .waitT1, due := t.notches }

/-- Fix an item's slice in a share that launches at notch `at_`: the first slice there, a further one at notch 0 of its tick (R14, R29). -/
def planItem (at_ : Nat) (n : Node) (i : Item) : Node :=
  let slice := at_ / 64 + i.slice
  planSlice (modItem n i fun x => { x with slice := slice, due := if i.slice = 0 then at_ else slice * 64 }) slice

/-- `LAUNCH` (R14, R28, R45, R353, R400): at the launch tick's notch 0, or late at the first notch boundary outside the saddle at which descriptor and append are
here. -/
def launch (home handle : Nat) (t : Tck) (n : Node) : Node :=
  let onHome (n : Node) : Node :=
    if home = nodeId n && n.att.steps.any (fun s => s.handle == handle && s.sent && t.at s.desc.launch 0 ≤ t.now) then
      stamp t (capNote t (modCmd n handle fun c => { c with launched := true }) fun l => { l with launches := l.launches + 1 }) handle 2
    else n
  if t.inSaddle || !timeRuns t.state || stopped n || fencedNode n then n
  else
    match findShare n home handle with
    | none => onHome n
    | some s =>
      if s.launched.isSome || t.now < t.at s.desc.launch 0 || t.at s.desc.deadline 48 ≤ t.now || epochOf n < s.desc.epoch
          || !rowsHere n s.desc || acksLeft n home handle then n
      else
        let at_ := dueNotch t
        let late := s.desc.launch * 64 < at_
        let n1 := if late then pmc n 63 3 1 else n
        let n2 := settleForeign t (modShare n1 home handle fun x => { x with launched := some (at_ / 64), late := late }) home handle
        let mine := n2.att.items.filter fun i => i.home == home && i.handle == handle
        let n3 := mine.foldl (planItem at_) n2
        let first := mine.filter fun i => i.slice == 0 && i.st == .planned
        endShare (onHome (first.foldl (fun m i => enterItem t m s.desc { i with slice := at_ / 64 }) n3)) home handle

/-- `SLICE_START` (R29): a later slice starts at notch 0 of its tick, or once its producer has waited for a credit. One queued for a cluster needs no start of its
own: the cluster takes it at that notch, or when the slice that overran ends. -/
def sliceStart (home handle group granule : Nat) (t : Tck) (n : Node) : Node :=
  match findShare n home handle, findItem n home handle group granule with
  | some s, some it =>
    if !stopped n && s.launched.isSome && it.st == .planned && t.at it.slice 0 ≤ t.now && !t.inSaddle
        && (it.blocked || t.atTick) && t.now < t.at s.desc.deadline 48 then
      enterItem t n s.desc it
    else n
  | _, _ => n

/-- A granule item still running at notch 62 of its slice's tick is counted; a bank-side one pauses, its report is late, and its rest is a slice of the next tick
(R29, R43, R185). -/
def sliceOverrun (home handle group granule : Nat) (t : Tck) (n : Node) : Tck × Node :=
  match findItem n home handle group granule with
  | none => (t, n)
  | some it =>
    if it.st == .running && !it.overrun && t.at it.slice 62 ≤ t.now then
      let unit := match it.bsu, it.cluster with
        | some b, _ => 32 + b / 128
        | none, some c => c
        | none, none => 63
      let n1 := pmc n unit 4 1
      if it.bsu.isSome then
        let n2 := planSlice (modItem n1 it fun i => { i with slice := t.tick + 1 }) (t.tick + 1)
        endSlice it.slice t n2
      else (t, modItem n1 it fun i => { i with overrun := true })
    else (t, n)

/-- A unit that keeps no checkpoint still works at notch 62: it is counted once in the tick, on the counter unit `u`, and runs on (R29).
DESIGN CHOICE, unsafe, the movers' unit: log entry 75. -/
def unitOverrun (t : Tck) (n : Node) (key u : Nat) (works : Bool) : Node :=
  if works && t.at t.tick 62 ≤ t.now && mgetD n.ter.overAt key 0 ≤ t.tick then
    pmc { n with ter := { n.ter with overAt := mset n.ter.overAt key (t.tick + 1) } } u 4 1
  else n

/-- `SLICE_OVERRUN` (R29). -/
def overrun (x : SliceUnit) (t : Tck) (n : Node) : Tck × Node :=
  match x with
  | .item home h g i => sliceOverrun home.toNat h.toNat g i t n
  | .mover m => (t, unitOverrun t n m.val 63 (m.val < n.ter.busy.length))
  | .expander e => (t, unitOverrun t n (8 + e.val) (40 + e.val)
      (!n.mic.expOut.contains e.val && (!n.att.tileJobs.isEmpty || n.wts.sets.any fun w => !w.2.streams.isEmpty)))

/-! Die queues (R123 to R126). -/

/-- The composition of an item. -/
def itemComp (n : Node) (it : Item) : Nat := ((findShare n it.home it.handle).map fun s => compOf s.desc.seq).getD 0

/-- May a cluster take an item now (R123, R124): its composition includes the cluster, its share has launched and its launch notch has come. -/
def mayTake (t : Tck) (n : Node) (c : Nat) (it : Item) : Bool :=
  clusterInComp n (itemComp n it) c && (findShare n it.home it.handle).any (·.launched.isSome) && it.due ≤ t.notches

/-- The items a die queue holds: its first 4,096. -/
def dieQueue (n : Node) (d : Nat) : List Item := (n.att.items.filter fun i => i.st == .queued && i.die == d).take 4096

/-- Is a cluster idle and in service (R124). -/
def clusterIdle (n : Node) (c : Nat) : Bool :=
  !n.mic.clustersOut.contains c && rdB n (Rg.attClStatusInService c) && !rdB n (Rg.attClCtrlDrain c)
    && !n.att.items.any fun i => i.st == .running && i.cluster == some c

/-- A cluster takes an item; taken in the saddle, it starts at notch 0 of the next tick (R126). -/
def takeItem (t : Tck) (c : Nat) (n : Node) (it : Item) : Node :=
  modItem n it fun i => { i with st := .running, cluster := some c, due := dueNotch t }

/-- A cluster takes from its own die's queue. -/
def takeOwn (t : Tck) (n : Node) (c : Nat) : Node :=
  if !clusterIdle n c then n
  else
    match (dieQueue n (c / 8)).find? (mayTake t n c) with
    | some it => takeItem t c n it
    | none => n

/-- The queue of another die that a cluster turns to: it is idle and may take nothing of its own die's, and this queue is the first whose depth passes
`STEAL_MIN` (R124). -/
def stealFrom (t : Tck) (n : Node) (c : Nat) : Option Nat :=
  if !clusterIdle n c || !rdB n (Rg.attClCtrlStealEn c) || (dieQueue n (c / 8)).any (mayTake t n c) then none
  else ([1, 2, 3].map fun k => (c / 8 + k) % 4).find? fun d => rd n (Rg.attDqCfgStealMin d) < (dieQueue n d).length

/-- A cluster takes the oldest item it may from another die's queue, while the queue's depth passes `STEAL_MIN` (R124). -/
def takeOther (t : Tck) (d : Nat) (n : Node) (c : Nat) : Node :=
  if (dieQueue n d).length ≤ rd n (Rg.attDqCfgStealMin d) then n
  else
    match (dieQueue n d).find? (mayTake t n c) with
    | some it => pmc (bump (bump (takeItem t c n it) (Rg.attStealsCount c) 1) (Rg.attDqStolenCount d) 1) c 0x1002 1
    | none => n

/-- The clusters of other dies in the order in which a queue serves them: by the queue's rotating priority (R125). -/
def otherOrder (n : Node) (d : Nat) : List Nat :=
  (List.range 24).map fun k => (8 * (d + 1) + (k + mgetD n.att.rotor d 0) % 24) % 32

/-- The clusters of a die in the order in which its queue serves them (R125). -/
def ownOrder (n : Node) (d : Nat) : List Nat := (List.range 8).map fun k => 8 * d + (k + mgetD n.att.rotor d 0) % 8

/-- Queue `d` serves the clusters of other dies that turned to it in a cycle. -/
def serveOthers (t : Tck) (n0 : Node) (cs : List Nat) (n : Node) (d : Nat) : Node :=
  ((otherOrder n0 d).filter fun c => cs.contains c && stealFrom t n0 c == some d).foldl (takeOther t d) n

/-- Each queue's rotating priority advances by one cycle. -/
def turnRotors (n : Node) : Node :=
  { n with att := { n.att with rotor := (List.range 4).foldl (fun m d => mset m d ((mgetD n.att.rotor d 0 + 1) % 24)) n.att.rotor } }

/-- `ITEM_TAKE` (R124, R125): the clusters that try in one cycle; each queue serves its own die first and then the clusters of other dies, each by a rotating
priority that advances every cycle. DESIGN CHOICE, one cycle a command: log entry 60. -/
def itemTake (cs : List (Fin 32)) (t : Tck) (n : Node) : Node :=
  let ids := cs.map (·.val)
  let n1 := (((List.range 4).flatMap (ownOrder n)).filter ids.contains).foldl (takeOwn t) n
  turnRotors ((List.range 4).foldl (serveOthers t n1 ids) n1)

/-! The end of an item. -/

/-- Report a failed item (R127, R132). -/
def reportFault (n : Node) (s : Share) (it : Item) (status fpn : Nat) : Node :=
  if fencedNode n then n
  else emit n (.partialMsg s.desc.confluence
    (partialHeader 0x11 it.group (nodeCode 0 it.granule) s.desc.home s.desc.handle (nodeId n) 0 status fpn) s.late s.bank)

/-- Count a failed item in its cluster's `ATT_MEM_ERR`, or the BSU's. -/
def countFault (n : Node) (it : Item) (status : Nat) : Node :=
  match it.cluster with
  | some c =>
    if status = stMemUncorr then bump n (Rg.attMemErrUncorr c) 1
    else if status = stOwnerLost then bump n (Rg.attMemErrOwnerLost c) 1
    else n
  | none => n

/-- Count a finished item on its cluster or BSU (05 registers, R120, R435). -/
def countItem (n : Node) (d : Desc) (it : Item) (resc : Nat) (nan : Bool) : Node :=
  match it.bsu, it.cluster with
  | some b, _ => if nan then bump n (Rg.bsuNonfiniteGranules (b / 128) (b % 128)) 1 else n
  | none, some c =>
    let n1 := pmc (bump n (Rg.attGranulesCount c) 1) c 0x1001 1
    let n2 := pmc (bump n1 (Rg.attRescalesCount c) resc) c 0x1003 resc
    let n3 := if d.twoPass then bump n2 (Rg.attTwoPassCount c) 1 else n2
    if nan then bump n3 (Rg.attNonfiniteCount c) 1 else n3
  | none, none => n

/-- Has the run of a bank-side item ended on its BSU, and its entry left the unit. -/
def bankDone (n : Node) (it : Item) : Bool :=
  match it.bsu with
  | none => true
  | some b =>
    match mget? n.bsu.units b with
    | none => true
    | some u =>
      match u.run with
      | some r => r.ent.src == 1 && r.ent.home == it.home && r.ent.handle == it.handle && r.ent.group == it.group
          && r.ent.granule == it.granule && r.halted
      | none => false

/-- A BSU whose granule item has ended is free for its next entry (R167). -/
def freeBsu (n : Node) (it : Item) : Node :=
  match it.bsu with
  | none => n
  | some b =>
    bump { n with bsu := { n.bsu with units := mmod n.bsu.units b fun u => { u with run := none } } } (Rg.bsuRunsCount (b / 128) (b % 128)) 1

/-- `GRANULE_ITEM_END` (R118 to R120, R127, R132 to R134, R151, R205, R229): `errs` names the lines in error that the walk met with their lanes, `sram` the
faults of the unit's SRAM and scale queue, with the page in progress by its place in the item. -/
def itemEnd (home handle group granule : Nat) (errs : List (Nat × List Nat)) (sram : List SramFault) (page : Nat) (t : Tck) (n : Node) :
    Tck × Node :=
  match findShare n home handle, findItem n home handle group granule with
  | some s, some it =>
    if it.st != .running || t.notches < it.due || !bankDone n it then (t, n)
    else
      let n2 := sramFaults t (freeBsu (ctrlReads t n errs) it) sram
      let lost := unitLost sram (if it.bsu.isSome then arrBsu else arrCluster)
      let n3 := ((livePages s.desc it).filter fun p => fpnNode p.2 == nodeId n).foldl (fun m p => readHeat t m (fpnIdx p.2)) n2
      let fault := if lost then some (stMemUncorr, ((it.pages[page]?).map (·.2)).getD 0) else pageFault n3 s.desc it
      match fault with
      | some (status, fpn) => endItem it t (reportFault (countFault n3 it status) s it status fpn)
      | none =>
        let (recs, resc, nan) := itemLeaf n3 s.desc it
        endItem it t (leafDone (countItem n3 s.desc it resc nan) s group granule recs)
  | _, _ => (t, n)

/-! Stalls and reads in place (R215, R216). -/

/-- `DEMAND_PROMOTION_DONE` (R215): promoted pages owed to other nodes are sent (R446); a sealed item whose pages with visible keys are in terrace 1 starts at the next notch boundary outside the saddle. -/
def promotionDone (home handle group granule : Nat) (t : Tck) (n : Node) : Node :=
  let n1 := endShare (settleForeign t n home handle) home handle
  match findShare n1 home handle, findItem n1 home handle group granule with
  | some s, some it => if it.st == .waitT1 && itemReady n1 s.desc it then queueItem n1 it (dueNotch t) else n1
  | _, _ => n1

/-- `TERRACE_STALL` (R215): a due sealed item not started by notch 0 of a tick counts once for that tick. -/
def terraceStall (home handle group granule : Nat) (t : Tck) (n : Node) : Node :=
  match findShare n home handle, findItem n home handle group granule with
  | some s, some it =>
    if (it.st == .waitT1 || (s.desc.sealed && it.st == .waitData)) && !it.stalled.contains t.tick && !(t.notch == 0 && itemReady n s.desc it) then
      pmc (bump (modItem n it fun i => { i with stalled := i.stalled ++ [t.tick] }) Rg.terStallCount 1) 63 7 1
    else n
  | _, _ => n

/-- `READ_IN_PLACE_DONE` (R216, R446): an item's data has arrived in cluster SRAM; launched, it starts at the next notch boundary outside the saddle.
`errs` names lines of terrace 2 in error, by terrace-3 address with their devices (R226). -/
def inPlaceDone (home handle group granule : Nat) (errs : List (Nat × List Nat)) (t : Tck) (n : Node) : Node :=
  match findShare n home handle, findItem n home handle group granule with
  | some s, some it =>
    if !it.direct || it.loaded || !itemReady n s.desc { it with loaded := true } then n
    else
      let low := (livePages s.desc it).filterMap fun p => (pageAt n (fpnIdx p.2)).filter fun e => fpnNode p.2 == nodeId n && e.terrace != 1
      let n1 := modItem (low.foldl (fun m e => touchSectors (cacheReads t m e.addr e.foot errs) e.addr e.foot) n) it fun i => { i with loaded := true }
      if it.st == .waitData then queueItem n1 { it with loaded := true } (dueNotch t) else n1
  | _, _ => n

/-! Abandoning (R217). -/

/-- A holder abandons the unfinished items of a request at its cut. -/
def abandon (home handle : Nat) (t : Tck) (n : Node) : Tck × Node :=
  let mine := n.att.items.filter fun i => i.home == home && i.handle == handle
  let drop (r : Tck × Node) (it : Item) : Tck × Node :=
    let u (b : Bsu) : Bsu :=
      let hit (e : BsuEntry) : Bool := e.src == 1 && e.home == home && e.handle == handle
      { b with area := b.area.filter fun e => !hit e, run := match b.run with | some x => if hit x.ent then none else some x | none => none }
    let n1 := match it.bsu with
      | some b => { r.2 with bsu := { r.2.bsu with units := mmod r.2.bsu.units b u } }
      | none => r.2
    endItem it r.1 (bump n1 Rg.terDirectAbandon 1)
  let r := mine.foldl drop (t, n)
  (r.1, { r.2 with att := { r.2.att with
    shares := r.2.att.shares.filter fun s => !(s.desc.home == home && s.desc.handle == handle)
    rowsIn := r.2.att.rowsIn.filter fun x => !(x.1 == home && x.2.1 == handle) } })

/-! The commands. -/

/-- `LAUNCH_DESCRIPTOR_RECEIVE`. -/
def execLaunchDescriptorReceive (m : LaunchMsg) (plan : List ItemPlan) (s : State) : Outcome State Fault Refusal :=
  onNode (descriptorReceive m plan) s
/-- `SPLIT_GRANULE_PAGES_RECEIVE`. -/
def execSplitGranulePagesReceive (home : BitVec 13) (handle : Word) (pages : List SplitPage) (s : State) : Outcome State Fault Refusal :=
  onNode (fun _ => splitReceive home.toNat handle.toNat pages) s
/-- `LAUNCH`. -/
def execLaunch (home : BitVec 13) (handle : Word) (s : State) : Outcome State Fault Refusal := onNode (launch home.toNat handle.toNat) s
/-- `ITEM_TAKE`. -/
def execItemTake (cs : List (Fin 32)) (s : State) : Outcome State Fault Refusal := onNode (itemTake cs) s
/-- `SLICE_START`. -/
def execSliceStart (home : BitVec 13) (handle : Word) (group granule : Nat) (s : State) : Outcome State Fault Refusal :=
  onNode (sliceStart home.toNat handle.toNat group granule) s
/-- `SLICE_OVERRUN`. -/
def execSliceOverrun (u : SliceUnit) (s : State) : Outcome State Fault Refusal := onBoth (overrun u) s
/-- `DEMAND_PROMOTION_DONE`. -/
def execDemandPromotionDone (home : BitVec 13) (handle : Word) (group granule : Nat) (s : State) : Outcome State Fault Refusal :=
  onNode (promotionDone home.toNat handle.toNat group granule) s
/-- `TERRACE_STALL`. -/
def execTerraceStall (home : BitVec 13) (handle : Word) (group granule : Nat) (s : State) : Outcome State Fault Refusal :=
  onNode (terraceStall home.toNat handle.toNat group granule) s
/-- `READ_IN_PLACE_DONE`. -/
def execReadInPlaceDone (home : BitVec 13) (handle : Word) (group granule : Nat) (errs : List (Nat × List Nat)) (s : State) : Outcome State Fault Refusal :=
  onNode (inPlaceDone home.toNat handle.toNat group granule errs) s

end Sys2Proof.Machine
end

