-- ==== Sys2Proof/Machine/Gates.lean ====
section
/-! DEFINITION. The gate tables of R178: G[i] is the FP32 value nearest the real gate at -8 + i/64, computed from the two functions R178 names. -/

namespace Sys2Proof.Machine

/-- The GELU gate, entries 0 to 127. -/
def geluTab0 : List Nat := [
  0x26334E96, 0x264B8AE9, 0x2666FF97, 0x26830C1D, 0x2694A717, 0x26A8952A, 0x26BF2381, 0x26D8A918,
  0x26F587F7, 0x270B1747, 0x271D8CA1, 0x27326A17, 0x2749FE82, 0x2764A2A3, 0x27815D2D, 0x27925AFF,
  0x27A589F5, 0x27BB3119, 0x27D3A045, 0x27EF3136, 0x2807245F, 0x2818AC10, 0x282C6F43, 0x2842B55D,
  0x285BCE80, 0x28781493, 0x288BF63B, 0x289DE3A5, 0x28B211F4, 0x28C8C840, 0x28E25637, 0x28FF151E,
  0x290FB47A, 0x2921E0DA, 0x29364E5E, 0x294D4330, 0x29670DD2, 0x2982030C, 0x29924720, 0x29A48A0E,
  0x29B9093C, 0x29D00946, 0x29E9D6D4, 0x2A0363C3, 0x2A139D7E, 0x2A25CDFC, 0x2A3A30D1, 0x2A510879,
  0x2A6A9F1F, 0x2A83A3BE, 0x2A93AEE6, 0x2AA5A470, 0x2AB9BDA8, 0x2AD03A64, 0x2AE961BF, 0x2B02C174,
  0x2B127B05, 0x2B240EA2, 0x2B37B2E3, 0x2B4DA486, 0x2B662716, 0x2B80C2D9, 0x2B9009EB, 0x2BA11728,
  0x2BB41E1B, 0x2BC95809, 0x2BE10486, 0x2BFB6A2D, 0x2C0C6BAC, 0x2C1CD17D, 0x2C2F16C5, 0x2C437101,
  0x2C5A1B80, 0x2C735803, 0x2C87B7B3, 0x2C975932, 0x2CA8BD34, 0x2CBC153D, 0x2CD1981D, 0x2CE98280,
  0x2D020BC5, 0x2D10D0BF, 0x2D213941, 0x2D3372B3, 0x2D47AF48, 0x2D5E267A, 0x2D771593, 0x2D896023,
  0x2D98B8AB, 0x2DA9BDA6, 0x2DBC9CA0, 0x2DD187DC, 0x2DE8B6CA, 0x2E013348, 0x2E0F6D4C, 0x2E1F2E9A,
  0x2E30A026, 0x2E43EF0B, 0x2E594CFC, 0x2E70F0B0, 0x2E858B33, 0x2E940034, 0x2EA3FBD6, 0x2EB5A639,
  0x2EC92B7E, 0x2EDEBC29, 0x2EF68D8F, 0x2F086D25, 0x2F16F15F, 0x2F26F6D2, 0x2F38A450, 0x2F4C2479,
  0x2F61A614, 0x2F795C76, 0x2F89BFF6, 0x2F982719, 0x2FA8057E, 0x2FB9803D, 0x2FCCBFFF, 0x2FE1F14B,
  0x2FF944EA, 0x30097822, 0x301796E8, 0x30271EC6, 0x303832BB, 0x304AF912, 0x305F9BA9, 0x30764845]

/-- The GELU gate, entries 128 to 255. -/
def geluTab1 : List Nat := [
  0x30879878, 0x30954628, 0x30A44B11, 0x30B4C7CD, 0x30C6DFF8, 0x30DABA70, 0x30F0819D, 0x310431E3,
  0x311149B2, 0x311FA3BE, 0x312F5E09, 0x31409942, 0x31537909, 0x3168242C, 0x317EC4ED, 0x318BC4A6,
  0x319951AF, 0x31A824D0, 0x31B85BAD, 0x31CA1682, 0x31DD785D, 0x31F2A757, 0x3204E66C, 0x32118AEF,
  0x321F59A3, 0x322E6D0F, 0x323EE201, 0x3250D7BD, 0x3264702C, 0x3279D01B, 0x32888FB8, 0x329544B7,
  0x32A31E7D, 0x32B23673, 0x32C2A81E, 0x32D4914F, 0x32E8124C, 0x32FD4E07, 0x330A3528, 0x3316C809,
  0x332475C6, 0x3333564D, 0x3343837B, 0x33551946, 0x336835E1, 0x337CF9F0, 0x3389C457, 0x33960414,
  0x33A350B6, 0x33B1C067, 0x33C16B0E, 0x33D26A70, 0x33E4DA5B, 0x33F8D8C5, 0x340742FC, 0x3413025F,
  0x341FBD47, 0x342D87E1, 0x343C77E4, 0x344CA4B1, 0x345E276C, 0x34711B24, 0x3482CE78, 0x348DE60A,
  0x3499E518, 0x34A6DDB0, 0x34B4E33A, 0x34C40A8A, 0x34D46A00, 0x34E6199F, 0x34F9332A, 0x3506E923,
  0x35120A4D, 0x351E0CF7, 0x352B022A, 0x3538FC2A, 0x35480E85, 0x35584E30, 0x3569D19A, 0x357CB0C8,
  0x358882B7, 0x35937586, 0x359F3F86, 0x35ABF073, 0x35B9991C, 0x35C84B7B, 0x35D81AC4, 0x35E91B7A,
  0x35FB6384, 0x36078523, 0x3612145C, 0x361D6CBD, 0x36299C7B, 0x3636B2BF, 0x3644BFAE, 0x3653D483,
  0x36640394, 0x36756070, 0x3683FFF4, 0x368DFC13, 0x3698B061, 0x36A4296C, 0x36B07490, 0x36BDA001,
  0x36CBBADA, 0x36DAD52A, 0x36EAFFFF, 0x36FC4D7C, 0x37076871, 0x37114F51, 0x371BE637, 0x372738A9,
  0x373352DE, 0x374041CC, 0x374E1330, 0x375CD59B, 0x376C987E, 0x377D6C34, 0x3787B108, 0x37914635,
  0x379B7F57, 0x37A666B5, 0x37B2072F, 0x37BE6C43, 0x37CBA21C, 0x37D9B594, 0x37E8B443, 0x37F8AC81]

/-- The GELU gate, entries 256 to 383. -/
def geluTab2 : List Nat := [
  0x3804D6BD, 0x380DE397, 0x38178543, 0x3821C4AC, 0x382CAB3B, 0x383842DC, 0x38449607, 0x3851AFC4,
  0x385F9BB3, 0x386E6615, 0x387E1BD0, 0x3887653D, 0x38904031, 0x3899A649, 0x38A39F71, 0x38AE33FC,
  0x38B96CAB, 0x38C552B4, 0x38D1EFC1, 0x38DF4DFC, 0x38ED7811, 0x38FC7934, 0x39062E95, 0x390E9823,
  0x39177FC0, 0x3920EC34, 0x392AE49E, 0x39357074, 0x39409787, 0x394C6208, 0x3958D88A, 0x39660407,
  0x3973EDE5, 0x39814FFC, 0x39891245, 0x3991432E, 0x3999E855, 0x39A3079B, 0x39ACA722, 0x39B6CD53,
  0x39C180DF, 0x39CCC8C3, 0x39D8AC49, 0x39E5330B, 0x39F264F7, 0x3A00252A, 0x3A0775DE, 0x3A0F2916,
  0x3A17437F, 0x3A1FC9F7, 0x3A28C18F, 0x3A322F8F, 0x3A3C1973, 0x3A4684EF, 0x3A5177F3, 0x3A5CF8A9,
  0x3A690D7A, 0x3A75BD0E, 0x3A818727, 0x3A888434, 0x3A8FD966, 0x3A978A9A, 0x3A9F9BD2, 0x3AA81135,
  0x3AB0EF10, 0x3ABA39D9, 0x3AC3F62F, 0x3ACE28DA, 0x3AD8D6CE, 0x3AE40529, 0x3AEFB939, 0x3AFBF878,
  0x3B046448, 0x3B0B17AF, 0x3B121976, 0x3B196CBD, 0x3B2114BD, 0x3B2914CB, 0x3B317054, 0x3B3A2AE4,
  0x3B434822, 0x3B4CCBCF, 0x3B56B9CE, 0x3B61161C, 0x3B6BE4D6, 0x3B772A37, 0x3B81754C, 0x3B87953C,
  0x3B8DF736, 0x3B949D9A, 0x3B9B8AD5, 0x3BA2C167, 0x3BAA43E0, 0x3BB214E1, 0x3BBA371F, 0x3BC2AD5D,
  0x3BCB7A73, 0x3BD4A149, 0x3BDE24DA, 0x3BE80834, 0x3BF24E76, 0x3BFCFAD3, 0x3C040849, 0x3C09C984,
  0x3C0FC2D1, 0x3C15F5EF, 0x3C1C64A7, 0x3C2310CA, 0x3C29FC35, 0x3C3128CD, 0x3C389881, 0x3C404D49,
  0x3C484928, 0x3C508E27, 0x3C591E5E, 0x3C61FBE9, 0x3C6B28F0, 0x3C74A7A4, 0x3C7E7A3E, 0x3C845181,
  0x3C89921E, 0x3C8F001F, 0x3C949CB4, 0x3C9A690F, 0x3CA06667, 0x3CA695F6, 0x3CACF8FD, 0x3CB390BD]

/-- The GELU gate, entries 384 to 511. -/
def geluTab3 : List Nat := [
  0x3CBA5E7C, 0x3CC16385, 0x3CC8A126, 0x3CD018AE, 0x3CD7CB72, 0x3CDFBAC8, 0x3CE7E80B, 0x3CF05497,
  0x3CF901CA, 0x3D00F884, 0x3D0591D8, 0x3D0A4D96, 0x3D0F2C70, 0x3D142F1A, 0x3D19564B, 0x3D1EA2B6,
  0x3D241512, 0x3D29AE15, 0x3D2F6E76, 0x3D3556EA, 0x3D3B6827, 0x3D41A2E4, 0x3D4807D7, 0x3D4E97B3,
  0x3D55532E, 0x3D5C3AFB, 0x3D634FCB, 0x3D6A9252, 0x3D72033E, 0x3D79A33E, 0x3D80B97F, 0x3D84B996,
  0x3D88D237, 0x3D8D03B6, 0x3D914E65, 0x3D95B295, 0x3D9A3096, 0x3D9EC8B7, 0x3DA37B44, 0x3DA84887,
  0x3DAD30CB, 0x3DB23457, 0x3DB75371, 0x3DBC8E5D, 0x3DC1E55B, 0x3DC758AC, 0x3DCCE88E, 0x3DD29539,
  0x3DD85EE9, 0x3DDE45D1, 0x3DE44A25, 0x3DEA6C17, 0x3DF0ABD3, 0x3DF70985, 0x3DFD8554, 0x3E020FB2,
  0x3E056BED, 0x3E08D769, 0x3E0C5233, 0x3E0FDC58, 0x3E1375E2, 0x3E171ED9, 0x3E1AD744, 0x3E1E9F27,
  0x3E227686, 0x3E265D61, 0x3E2A53B7, 0x3E2E5985, 0x3E326EC7, 0x3E369376, 0x3E3AC788, 0x3E3F0AF2,
  0x3E435DA8, 0x3E47BF99, 0x3E4C30B6, 0x3E50B0E9, 0x3E55401E, 0x3E59DE3C, 0x3E5E8B29, 0x3E6346CA,
  0x3E681100, 0x3E6CE9AA, 0x3E71D0A5, 0x3E76C5CD, 0x3E7BC8FA, 0x3E806D01, 0x3E82FC5D, 0x3E85927B,
  0x3E882F41, 0x3E8AD298, 0x3E8D7C65, 0x3E902C8C, 0x3E92E2F2, 0x3E959F79, 0x3E986203, 0x3E9B2A71,
  0x3E9DF8A2, 0x3EA0CC75, 0x3EA3A5C8, 0x3EA68477, 0x3EA9685E, 0x3EAC5159, 0x3EAF3F41, 0x3EB231EF,
  0x3EB5293D, 0x3EB82500, 0x3EBB2510, 0x3EBE2944, 0x3EC1316F, 0x3EC43D67, 0x3EC74D00, 0x3ECA600C,
  0x3ECD765D, 0x3ED08FC7, 0x3ED3AC1A, 0x3ED6CB27, 0x3ED9ECBE, 0x3EDD10AF, 0x3EE036C9, 0x3EE35EDC,
  0x3EE688B6, 0x3EE9B425, 0x3EECE0F8, 0x3EF00EFC, 0x3EF33DFE, 0x3EF66DCC, 0x3EF99E33, 0x3EFCCF00]

/-- The GELU gate, entries 512 to 639. -/
def geluTab4 : List Nat := [
  0x3F000000, 0x3F019880, 0x3F0330E7, 0x3F04C91A, 0x3F066101, 0x3F07F882, 0x3F098F84, 0x3F0B25ED,
  0x3F0CBBA5, 0x3F0E5092, 0x3F0FE49B, 0x3F1177A9, 0x3F1309A1, 0x3F149A6D, 0x3F1629F3, 0x3F17B81D,
  0x3F1944D1, 0x3F1ACFFA, 0x3F1C5980, 0x3F1DE14C, 0x3F1F6748, 0x3F20EB5E, 0x3F226D78, 0x3F23ED80,
  0x3F256B62, 0x3F26E708, 0x3F286060, 0x3F29D754, 0x3F2B4BD1, 0x3F2CBDC5, 0x3F2E2D1C, 0x3F2F99C6,
  0x3F3103AF, 0x3F326AC8, 0x3F33CEFE, 0x3F353043, 0x3F368E87, 0x3F37E9BA, 0x3F3941CE, 0x3F3A96B4,
  0x3F3BE85F, 0x3F3D36C3, 0x3F3E81D1, 0x3F3FC97F, 0x3F410DC2, 0x3F424E8D, 0x3F438BD7, 0x3F44C595,
  0x3F45FBC0, 0x3F472E4D, 0x3F485D36, 0x3F498871, 0x3F4AAFF9, 0x3F4BD3C6, 0x3F4CF3D3, 0x3F4E101A,
  0x3F4F2896, 0x3F503D43, 0x3F514E1E, 0x3F525B23, 0x3F53644E, 0x3F54699F, 0x3F556B12, 0x3F5668A8,
  0x3F57625F, 0x3F585836, 0x3F594A2F, 0x3F5A384A, 0x3F5B2287, 0x3F5C08EA, 0x3F5CEB73, 0x3F5DCA26,
  0x3F5EA505, 0x3F5F7C13, 0x3F604F56, 0x3F611ECF, 0x3F61EA86, 0x3F62B27D, 0x3F6376BB, 0x3F643746,
  0x3F64F423, 0x3F65AD59, 0x3F6662EE, 0x3F6714EA, 0x3F67C355, 0x3F686E34, 0x3F691592, 0x3F69B975,
  0x3F6A59E7, 0x3F6AF6EF, 0x3F6B9098, 0x3F6C26E9, 0x3F6CB9ED, 0x3F6D49AD, 0x3F6DD633, 0x3F6E5F89,
  0x3F6EE5B9, 0x3F6F68CD, 0x3F6FE8D0, 0x3F7065CC, 0x3F70DFCC, 0x3F7156DB, 0x3F71CB03, 0x3F723C50,
  0x3F72AACD, 0x3F731685, 0x3F737F83, 0x3F73E5D2, 0x3F74497E, 0x3F74AA91, 0x3F750919, 0x3F75651F,
  0x3F75BEAF, 0x3F7615D5, 0x3F766A9B, 0x3F76BD0E, 0x3F770D39, 0x3F775B27, 0x3F77A6E2, 0x3F77F078,
  0x3F7837F2, 0x3F787D5B, 0x3F78C0C0, 0x3F79022A, 0x3F7941A4, 0x3F797F3B, 0x3F79BAF7, 0x3F79F4E4]

/-- The GELU gate, entries 640 to 767. -/
def geluTab5 : List Nat := [
  0x3F7A2D0C, 0x3F7A637A, 0x3F7A9838, 0x3F7ACB50, 0x3F7AFCCD, 0x3F7B2CB8, 0x3F7B5B1A, 0x3F7B87FF,
  0x3F7BB36F, 0x3F7BDD74, 0x3F7C0617, 0x3F7C2D61, 0x3F7C535C, 0x3F7C7810, 0x3F7C9B87, 0x3F7CBDC7,
  0x3F7CDEDB, 0x3F7CFECB, 0x3F7D1D9E, 0x3F7D3B5D, 0x3F7D580F, 0x3F7D73BD, 0x3F7D8E6D, 0x3F7DA828,
  0x3F7DC0F5, 0x3F7DD8DA, 0x3F7DEFDF, 0x3F7E060A, 0x3F7E1B63, 0x3F7E2FF0, 0x3F7E43B6, 0x3F7E56BD,
  0x3F7E690B, 0x3F7E7AA5, 0x3F7E8B92, 0x3F7E9BD6, 0x3F7EAB78, 0x3F7EBA7D, 0x3F7EC8EA, 0x3F7ED6C5,
  0x3F7EE412, 0x3F7EF0D6, 0x3F7EFD15, 0x3F7F08D6, 0x3F7F141B, 0x3F7F1EEA, 0x3F7F2946, 0x3F7F3334,
  0x3F7F3CB8, 0x3F7F45D5, 0x3F7F4E90, 0x3F7F56EB, 0x3F7F5EEB, 0x3F7F6693, 0x3F7F6DE7, 0x3F7F74E8,
  0x3F7F7B9C, 0x3F7F8204, 0x3F7F8823, 0x3F7F8DFD, 0x3F7F9395, 0x3F7F98EC, 0x3F7F9E05, 0x3F7FA2E3,
  0x3F7FA788, 0x3F7FABF7, 0x3F7FB032, 0x3F7FB43B, 0x3F7FB813, 0x3F7FBBBE, 0x3F7FBF3C, 0x3F7FC291,
  0x3F7FC5BD, 0x3F7FC8C2, 0x3F7FCBA2, 0x3F7FCE5F, 0x3F7FD0FA, 0x3F7FD374, 0x3F7FD5D0, 0x3F7FD80E,
  0x3F7FDA2F, 0x3F7FDC36, 0x3F7FDE23, 0x3F7FDFF7, 0x3F7FE1B3, 0x3F7FE35A, 0x3F7FE4EA, 0x3F7FE667,
  0x3F7FE7D0, 0x3F7FE926, 0x3F7FEA6B, 0x3F7FEB9F, 0x3F7FECC3, 0x3F7FEDD8, 0x3F7FEEDE, 0x3F7FEFD6,
  0x3F7FF0C1, 0x3F7FF1A0, 0x3F7FF272, 0x3F7FF33A, 0x3F7FF3F7, 0x3F7FF4A9, 0x3F7FF552, 0x3F7FF5F1,
  0x3F7FF688, 0x3F7FF716, 0x3F7FF79D, 0x3F7FF81C, 0x3F7FF894, 0x3F7FF906, 0x3F7FF971, 0x3F7FF9D5,
  0x3F7FFA35, 0x3F7FFA8E, 0x3F7FFAE3, 0x3F7FFB33, 0x3F7FFB7E, 0x3F7FFBC5, 0x3F7FFC08, 0x3F7FFC46,
  0x3F7FFC82, 0x3F7FFCB9, 0x3F7FFCEE, 0x3F7FFD1F, 0x3F7FFD4D, 0x3F7FFD79, 0x3F7FFDA2, 0x3F7FFDC8]

/-- The GELU gate, entries 768 to 895. -/
def geluTab6 : List Nat := [
  0x3F7FFDED, 0x3F7FFE0F, 0x3F7FFE2F, 0x3F7FFE4D, 0x3F7FFE69, 0x3F7FFE83, 0x3F7FFE9C, 0x3F7FFEB3,
  0x3F7FFEC9, 0x3F7FFEDD, 0x3F7FFEF1, 0x3F7FFF03, 0x3F7FFF13, 0x3F7FFF23, 0x3F7FFF32, 0x3F7FFF40,
  0x3F7FFF4D, 0x3F7FFF59, 0x3F7FFF64, 0x3F7FFF6F, 0x3F7FFF79, 0x3F7FFF82, 0x3F7FFF8B, 0x3F7FFF93,
  0x3F7FFF9A, 0x3F7FFFA1, 0x3F7FFFA8, 0x3F7FFFAE, 0x3F7FFFB4, 0x3F7FFFB9, 0x3F7FFFBE, 0x3F7FFFC3,
  0x3F7FFFC7, 0x3F7FFFCB, 0x3F7FFFCF, 0x3F7FFFD2, 0x3F7FFFD6, 0x3F7FFFD9, 0x3F7FFFDB, 0x3F7FFFDE,
  0x3F7FFFE1, 0x3F7FFFE3, 0x3F7FFFE5, 0x3F7FFFE7, 0x3F7FFFE9, 0x3F7FFFEB, 0x3F7FFFEC, 0x3F7FFFEE,
  0x3F7FFFEF, 0x3F7FFFF0, 0x3F7FFFF1, 0x3F7FFFF2, 0x3F7FFFF3, 0x3F7FFFF4, 0x3F7FFFF5, 0x3F7FFFF6,
  0x3F7FFFF7, 0x3F7FFFF8, 0x3F7FFFF8, 0x3F7FFFF9, 0x3F7FFFF9, 0x3F7FFFFA, 0x3F7FFFFA, 0x3F7FFFFB,
  0x3F7FFFFB, 0x3F7FFFFC, 0x3F7FFFFC, 0x3F7FFFFC, 0x3F7FFFFD, 0x3F7FFFFD, 0x3F7FFFFD, 0x3F7FFFFD,
  0x3F7FFFFE, 0x3F7FFFFE, 0x3F7FFFFE, 0x3F7FFFFE, 0x3F7FFFFE, 0x3F7FFFFE, 0x3F7FFFFE, 0x3F7FFFFF,
  0x3F7FFFFF, 0x3F7FFFFF, 0x3F7FFFFF, 0x3F7FFFFF, 0x3F7FFFFF, 0x3F7FFFFF, 0x3F7FFFFF, 0x3F7FFFFF,
  0x3F7FFFFF, 0x3F7FFFFF, 0x3F7FFFFF, 0x3F800000, 0x3F800000, 0x3F800000, 0x3F800000, 0x3F800000,
  0x3F800000, 0x3F800000, 0x3F800000, 0x3F800000, 0x3F800000, 0x3F800000, 0x3F800000, 0x3F800000,
  0x3F800000, 0x3F800000, 0x3F800000, 0x3F800000, 0x3F800000, 0x3F800000, 0x3F800000, 0x3F800000,
  0x3F800000, 0x3F800000, 0x3F800000, 0x3F800000, 0x3F800000, 0x3F800000, 0x3F800000, 0x3F800000,
  0x3F800000, 0x3F800000, 0x3F800000, 0x3F800000, 0x3F800000, 0x3F800000, 0x3F800000, 0x3F800000]

/-- The GELU gate, entries 896 to 1023. -/
def geluTab7 : List Nat := [
  0x3F800000, 0x3F800000, 0x3F800000, 0x3F800000, 0x3F800000, 0x3F800000, 0x3F800000, 0x3F800000,
  0x3F800000, 0x3F800000, 0x3F800000, 0x3F800000, 0x3F800000, 0x3F800000, 0x3F800000, 0x3F800000,
  0x3F800000, 0x3F800000, 0x3F800000, 0x3F800000, 0x3F800000, 0x3F800000, 0x3F800000, 0x3F800000,
  0x3F800000, 0x3F800000, 0x3F800000, 0x3F800000, 0x3F800000, 0x3F800000, 0x3F800000, 0x3F800000,
  0x3F800000, 0x3F800000, 0x3F800000, 0x3F800000, 0x3F800000, 0x3F800000, 0x3F800000, 0x3F800000,
  0x3F800000, 0x3F800000, 0x3F800000, 0x3F800000, 0x3F800000, 0x3F800000, 0x3F800000, 0x3F800000,
  0x3F800000, 0x3F800000, 0x3F800000, 0x3F800000, 0x3F800000, 0x3F800000, 0x3F800000, 0x3F800000,
  0x3F800000, 0x3F800000, 0x3F800000, 0x3F800000, 0x3F800000, 0x3F800000, 0x3F800000, 0x3F800000,
  0x3F800000, 0x3F800000, 0x3F800000, 0x3F800000, 0x3F800000, 0x3F800000, 0x3F800000, 0x3F800000,
  0x3F800000, 0x3F800000, 0x3F800000, 0x3F800000, 0x3F800000, 0x3F800000, 0x3F800000, 0x3F800000,
  0x3F800000, 0x3F800000, 0x3F800000, 0x3F800000, 0x3F800000, 0x3F800000, 0x3F800000, 0x3F800000,
  0x3F800000, 0x3F800000, 0x3F800000, 0x3F800000, 0x3F800000, 0x3F800000, 0x3F800000, 0x3F800000,
  0x3F800000, 0x3F800000, 0x3F800000, 0x3F800000, 0x3F800000, 0x3F800000, 0x3F800000, 0x3F800000,
  0x3F800000, 0x3F800000, 0x3F800000, 0x3F800000, 0x3F800000, 0x3F800000, 0x3F800000, 0x3F800000,
  0x3F800000, 0x3F800000, 0x3F800000, 0x3F800000, 0x3F800000, 0x3F800000, 0x3F800000, 0x3F800000,
  0x3F800000, 0x3F800000, 0x3F800000, 0x3F800000, 0x3F800000, 0x3F800000, 0x3F800000, 0x3F800000]

/-- The GELU gate, entries 1024 to 1024. -/
def geluTab8 : List Nat := [
  0x3F800000]

/-- The SiLU gate, entries 0 to 127. -/
def siluTab0 : List Nat := [
  0x39AFD1EF, 0x39B2967F, 0x39B56635, 0x39B8413F, 0x39BB27CA, 0x39BE1A04, 0x39C1181C, 0x39C42243,
  0x39C738A9, 0x39CA5B7E, 0x39CD8AF5, 0x39D0C742, 0x39D41096, 0x39D76728, 0x39DACB2C, 0x39DE3CD9,
  0x39E1BC65, 0x39E54A08, 0x39E8E5FB, 0x39EC9077, 0x39F049B7, 0x39F411F7, 0x39F7E973, 0x39FBD067,
  0x39FFC713, 0x3A01E6DB, 0x3A03F247, 0x3A0605F0, 0x3A0821F6, 0x3A0A467A, 0x3A0C73A0, 0x3A0EA989,
  0x3A10E859, 0x3A133033, 0x3A15813D, 0x3A17DB9B, 0x3A1A3F73, 0x3A1CACEA, 0x3A1F2427, 0x3A21A552,
  0x3A243093, 0x3A26C612, 0x3A2965F8, 0x3A2C106F, 0x3A2EC5A2, 0x3A3185BC, 0x3A3450E9, 0x3A372755,
  0x3A3A092D, 0x3A3CF69F, 0x3A3FEFDA, 0x3A42F50E, 0x3A46066A, 0x3A49241F, 0x3A4C4E60, 0x3A4F855D,
  0x3A52C94B, 0x3A561A5E, 0x3A5978CA, 0x3A5CE4C5, 0x3A605E85, 0x3A63E642, 0x3A677C34, 0x3A6B2094,
  0x3A6ED39C, 0x3A729587, 0x3A766691, 0x3A7A46F6, 0x3A7E36F4, 0x3A811B65, 0x3A83235B, 0x3A85337E,
  0x3A874BED, 0x3A896CCA, 0x3A8B9638, 0x3A8DC857, 0x3A90034C, 0x3A924739, 0x3A949444, 0x3A96EA8F,
  0x3A994A41, 0x3A9BB37E, 0x3A9E266F, 0x3AA0A338, 0x3AA32A03, 0x3AA5BAF6, 0x3AA8563B, 0x3AAAFBFB,
  0x3AADAC60, 0x3AB06795, 0x3AB32DC5, 0x3AB5FF1C, 0x3AB8DBC7, 0x3ABBC3F4, 0x3ABEB7CF, 0x3AC1B78A,
  0x3AC4C351, 0x3AC7DB57, 0x3ACAFFCC, 0x3ACE30E3, 0x3AD16ECC, 0x3AD4B9BD, 0x3AD811E9, 0x3ADB7784,
  0x3ADEEAC6, 0x3AE26BE5, 0x3AE5FB17, 0x3AE99896, 0x3AED449A, 0x3AF0FF5F, 0x3AF4C91E, 0x3AF8A213,
  0x3AFC8A7D, 0x3B00414C, 0x3B024551, 0x3B04516F, 0x3B0665C4, 0x3B088273, 0x3B0AA79D, 0x3B0CD563,
  0x3B0F0BE8, 0x3B114B4E, 0x3B1393BA, 0x3B15E550, 0x3B184033, 0x3B1AA489, 0x3B1D1279, 0x3B1F8A27]

/-- The SiLU gate, entries 128 to 255. -/
def siluTab1 : List Nat := [
  0x3B220BBC, 0x3B24975E, 0x3B272D35, 0x3B29CD6C, 0x3B2C782A, 0x3B2F2D99, 0x3B31EDE6, 0x3B34B93A,
  0x3B378FC2, 0x3B3A71AA, 0x3B3D5F20, 0x3B405852, 0x3B435D6E, 0x3B466EA4, 0x3B498C25, 0x3B4CB621,
  0x3B4FECC9, 0x3B533051, 0x3B5680EB, 0x3B59DECC, 0x3B5D4A28, 0x3B60C335, 0x3B644A29, 0x3B67DF3C,
  0x3B6B82A6, 0x3B6F349F, 0x3B72F562, 0x3B76C529, 0x3B7AA430, 0x3B7E92B4, 0x3B814879, 0x3B834F93,
  0x3B855ECA, 0x3B87763D, 0x3B89960C, 0x3B8BBE59, 0x3B8DEF46, 0x3B9028F4, 0x3B926B86, 0x3B94B720,
  0x3B970BE5, 0x3B9969F9, 0x3B9BD182, 0x3B9E42A4, 0x3BA0BD87, 0x3BA3424F, 0x3BA5D124, 0x3BA86A2F,
  0x3BAB0D97, 0x3BADBB85, 0x3BB07422, 0x3BB3379A, 0x3BB60616, 0x3BB8DFC2, 0x3BBBC4CB, 0x3BBEB55C,
  0x3BC1B1A4, 0x3BC4B9D0, 0x3BC7CE0F, 0x3BCAEE91, 0x3BCE1B86, 0x3BD1551F, 0x3BD49B8D, 0x3BD7EF03,
  0x3BDB4FB4, 0x3BDEBDD4, 0x3BE23997, 0x3BE5C334, 0x3BE95AE0, 0x3BED00D2, 0x3BF0B542, 0x3BF4786A,
  0x3BF84A82, 0x3BFC2BC4, 0x3C000E37, 0x3C020E5C, 0x3C041671, 0x3C062695, 0x3C083EE7, 0x3C0A5F87,
  0x3C0C8895, 0x3C0EBA32, 0x3C10F47F, 0x3C13379F, 0x3C1583B3, 0x3C17D8DE, 0x3C1A3743, 0x3C1C9F07,
  0x3C1F104D, 0x3C218B3B, 0x3C240FF6, 0x3C269EA3, 0x3C293769, 0x3C2BDA70, 0x3C2E87DE, 0x3C313FDD,
  0x3C340294, 0x3C36D02D, 0x3C39A8D2, 0x3C3C8CAD, 0x3C3F7BEA, 0x3C4276B4, 0x3C457D37, 0x3C488FA1,
  0x3C4BAE1F, 0x3C4ED8E0, 0x3C521012, 0x3C5553E5, 0x3C58A489, 0x3C5C022F, 0x3C5F6D08, 0x3C62E548,
  0x3C666B21, 0x3C69FEC6, 0x3C6DA06C, 0x3C715049, 0x3C750E91, 0x3C78DB7D, 0x3C7CB743, 0x3C80510D,
  0x3C824E1F, 0x3C8452F3, 0x3C865FA7, 0x3C887458, 0x3C8A9125, 0x3C8CB62B, 0x3C8EE38B, 0x3C911962]

/-- The SiLU gate, entries 256 to 383. -/
def siluTab2 : List Nat := [
  0x3C9357D1, 0x3C959EF8, 0x3C97EEF7, 0x3C9A47F0, 0x3C9CAA03, 0x3C9F1553, 0x3CA18A02, 0x3CA40833,
  0x3CA69009, 0x3CA921A8, 0x3CABBD33, 0x3CAE62D0, 0x3CB112A3, 0x3CB3CCD3, 0x3CB69185, 0x3CB960DF,
  0x3CBC3B0A, 0x3CBF202B, 0x3CC2106C, 0x3CC50BF5, 0x3CC812EF, 0x3CCB2583, 0x3CCE43DC, 0x3CD16E24,
  0x3CD4A486, 0x3CD7E72E, 0x3CDB3649, 0x3CDE9202, 0x3CE1FA88, 0x3CE57007, 0x3CE8F2AF, 0x3CEC82AE,
  0x3CF02034, 0x3CF3CB71, 0x3CF78495, 0x3CFB4BD2, 0x3CFF2159, 0x3D0182AE, 0x3D037C08, 0x3D057CD3,
  0x3D07852A, 0x3D099526, 0x3D0BACE3, 0x3D0DCC7C, 0x3D0FF40B, 0x3D1223AC, 0x3D145B7B, 0x3D169B94,
  0x3D18E414, 0x3D1B3517, 0x3D1D8EBA, 0x3D1FF11A, 0x3D225C56, 0x3D24D08A, 0x3D274DD6, 0x3D29D458,
  0x3D2C642E, 0x3D2EFD79, 0x3D31A056, 0x3D344CE6, 0x3D37034A, 0x3D39C3A1, 0x3D3C8E0C, 0x3D3F62AC,
  0x3D4241A2, 0x3D452B10, 0x3D481F18, 0x3D4B1DDC, 0x3D4E277E, 0x3D513C22, 0x3D545BE9, 0x3D5786F9,
  0x3D5ABD73, 0x3D5DFF7D, 0x3D614D3A, 0x3D64A6CE, 0x3D680C60, 0x3D6B7E13, 0x3D6EFC0C, 0x3D728673,
  0x3D761D6B, 0x3D79C11C, 0x3D7D71AC, 0x3D8097A1, 0x3D827D02, 0x3D84690C, 0x3D865BD4, 0x3D88556D,
  0x3D8A55EB, 0x3D8C5D63, 0x3D8E6BE7, 0x3D90818D, 0x3D929E68, 0x3D94C28E, 0x3D96EE12, 0x3D992109,
  0x3D9B5B89, 0x3D9D9DA5, 0x3D9FE772, 0x3DA23906, 0x3DA49275, 0x3DA6F3D4, 0x3DA95D39, 0x3DABCEB9,
  0x3DAE4868, 0x3DB0CA5D, 0x3DB354AC, 0x3DB5E76A, 0x3DB882AD, 0x3DBB268A, 0x3DBDD317, 0x3DC08869,
  0x3DC34695, 0x3DC60DB0, 0x3DC8DDD0, 0x3DCBB70A, 0x3DCE9974, 0x3DD18521, 0x3DD47A29, 0x3DD7789F,
  0x3DDA8099, 0x3DDD922C, 0x3DE0AD6C, 0x3DE3D26E, 0x3DE70147, 0x3DEA3A0C, 0x3DED7CD0, 0x3DF0C9A9]

/-- The SiLU gate, entries 384 to 511. -/
def siluTab3 : List Nat := [
  0x3DF420A9, 0x3DF781E6, 0x3DFAED73, 0x3DFE6364, 0x3E00F1E6, 0x3E02B75F, 0x3E048226, 0x3E065246,
  0x3E0827C7, 0x3E0A02B3, 0x3E0BE312, 0x3E0DC8ED, 0x3E0FB44E, 0x3E11A53D, 0x3E139BC2, 0x3E1597E5,
  0x3E1799AF, 0x3E19A128, 0x3E1BAE57, 0x3E1DC144, 0x3E1FD9F6, 0x3E21F875, 0x3E241CC7, 0x3E2646F4,
  0x3E287701, 0x3E2AACF5, 0x3E2CE8D6, 0x3E2F2AAA, 0x3E317277, 0x3E33C041, 0x3E36140D, 0x3E386DE2,
  0x3E3ACDC2, 0x3E3D33B2, 0x3E3F9FB6, 0x3E4211D1, 0x3E448A07, 0x3E47085B, 0x3E498CCF, 0x3E4C1765,
  0x3E4EA820, 0x3E513F01, 0x3E53DC09, 0x3E567F38, 0x3E592891, 0x3E5BD811, 0x3E5E8DBA, 0x3E61498B,
  0x3E640B81, 0x3E66D39D, 0x3E69A1DC, 0x3E6C763B, 0x3E6F50B8, 0x3E723150, 0x3E7517FF, 0x3E7804C1,
  0x3E7AF791, 0x3E7DF06A, 0x3E8077A4, 0x3E81FA12, 0x3E837F7C, 0x3E8507DE, 0x3E869335, 0x3E88217C,
  0x3E89B2B1, 0x3E8B46CD, 0x3E8CDDCE, 0x3E8E77AD, 0x3E901465, 0x3E91B3F2, 0x3E93564E, 0x3E94FB72,
  0x3E96A358, 0x3E984DFB, 0x3E99FB53, 0x3E9BAB5A, 0x3E9D5E08, 0x3E9F1356, 0x3EA0CB3C, 0x3EA285B2,
  0x3EA442B1, 0x3EA6022F, 0x3EA7C424, 0x3EA98887, 0x3EAB4F4F, 0x3EAD1872, 0x3EAEE3E7, 0x3EB0B1A3,
  0x3EB2819D, 0x3EB453CB, 0x3EB62820, 0x3EB7FE94, 0x3EB9D71A, 0x3EBBB1A6, 0x3EBD8E2F, 0x3EBF6CA7,
  0x3EC14D03, 0x3EC32F36, 0x3EC51334, 0x3EC6F8F1, 0x3EC8E05F, 0x3ECAC972, 0x3ECCB41D, 0x3ECEA051,
  0x3ED08E01, 0x3ED27D20, 0x3ED46D9F, 0x3ED65F71, 0x3ED85287, 0x3EDA46D3, 0x3EDC3C46, 0x3EDE32D2,
  0x3EE02A67, 0x3EE222F7, 0x3EE41C72, 0x3EE616CB, 0x3EE811F0, 0x3EEA0DD3, 0x3EEC0A64, 0x3EEE0794,
  0x3EF00553, 0x3EF20392, 0x3EF4023F, 0x3EF6014D, 0x3EF800AB, 0x3EFA0048, 0x3EFC0015, 0x3EFE0003]

/-- The SiLU gate, entries 512 to 639. -/
def siluTab4 : List Nat := [
  0x3F000000, 0x3F00FFFF, 0x3F01FFF5, 0x3F02FFDC, 0x3F03FFAB, 0x3F04FF59, 0x3F05FEE0, 0x3F06FE37,
  0x3F07FD56, 0x3F08FC36, 0x3F09FACE, 0x3F0AF917, 0x3F0BF708, 0x3F0CF49B, 0x3F0DF1C7, 0x3F0EEE85,
  0x3F0FEACD, 0x3F10E697, 0x3F11E1DD, 0x3F12DC97, 0x3F13D6BC, 0x3F14D048, 0x3F15C930, 0x3F16C170,
  0x3F17B900, 0x3F18AFD8, 0x3F19A5F2, 0x3F1A9B47, 0x3F1B8FD0, 0x3F1C8387, 0x3F1D7666, 0x3F1E6865,
  0x3F1F597F, 0x3F2049AD, 0x3F2138E9, 0x3F22272D, 0x3F231473, 0x3F2400B6, 0x3F24EBF0, 0x3F25D61B,
  0x3F26BF31, 0x3F27A72E, 0x3F288E0D, 0x3F2973C7, 0x3F2A5859, 0x3F2B3BBD, 0x3F2C1DEE, 0x3F2CFEE9,
  0x3F2DDEA8, 0x3F2EBD27, 0x3F2F9A62, 0x3F307655, 0x3F3150FC, 0x3F322A53, 0x3F330256, 0x3F33D903,
  0x3F34AE54, 0x3F358247, 0x3F3654D9, 0x3F372607, 0x3F37F5CD, 0x3F38C42A, 0x3F399119, 0x3F3A5C99,
  0x3F3B26A8, 0x3F3BEF42, 0x3F3CB666, 0x3F3D7C11, 0x3F3E4042, 0x3F3F02F7, 0x3F3FC42E, 0x3F4083E5,
  0x3F41421C, 0x3F41FED0, 0x3F42BA00, 0x3F4373AC, 0x3F442BD2, 0x3F44E271, 0x3F459789, 0x3F464B19,
  0x3F46FD20, 0x3F47AD9D, 0x3F485C91, 0x3F4909FC, 0x3F49B5DC, 0x3F4A6032, 0x3F4B08FE, 0x3F4BB040,
  0x3F4C55F8, 0x3F4CFA27, 0x3F4D9CCC, 0x3F4E3DE9, 0x3F4EDD7E, 0x3F4F7B8C, 0x3F501813, 0x3F50B314,
  0x3F514C90, 0x3F51E488, 0x3F527AFD, 0x3F530FF0, 0x3F53A362, 0x3F543555, 0x3F54C5CA, 0x3F5554C3,
  0x3F55E240, 0x3F566E43, 0x3F56F8CE, 0x3F5781E3, 0x3F580982, 0x3F588FAF, 0x3F59146A, 0x3F5997B6,
  0x3F5A1994, 0x3F5A9A07, 0x3F5B1910, 0x3F5B96B1, 0x3F5C12EC, 0x3F5C8DC5, 0x3F5D073C, 0x3F5D7F53,
  0x3F5DF60E, 0x3F5E6B6E, 0x3F5EDF76, 0x3F5F5228, 0x3F5FC387, 0x3F603394, 0x3F60A252, 0x3F610FC3]

/-- The SiLU gate, entries 640 to 767. -/
def siluTab5 : List Nat := [
  0x3F617BEB, 0x3F61E6CB, 0x3F625066, 0x3F62B8BF, 0x3F631FD7, 0x3F6385B2, 0x3F63EA53, 0x3F644DBB,
  0x3F64AFED, 0x3F6510EC, 0x3F6570BB, 0x3F65CF5C, 0x3F662CD2, 0x3F66891F, 0x3F66E446, 0x3F673E4A,
  0x3F67972D, 0x3F67EEF3, 0x3F68459D, 0x3F689B2F, 0x3F68EFAA, 0x3F694313, 0x3F69956B, 0x3F69E6B4,
  0x3F6A36F3, 0x3F6A8629, 0x3F6AD459, 0x3F6B2185, 0x3F6B6DB1, 0x3F6BB8DF, 0x3F6C0312, 0x3F6C4C4B,
  0x3F6C948F, 0x3F6CDBDF, 0x3F6D223E, 0x3F6D67AE, 0x3F6DAC33, 0x3F6DEFCE, 0x3F6E3283, 0x3F6E7454,
  0x3F6EB543, 0x3F6EF552, 0x3F6F3485, 0x3F6F72DE, 0x3F6FB060, 0x3F6FED0C, 0x3F7028E5, 0x3F7063EE,
  0x3F709E29, 0x3F70D799, 0x3F71103F, 0x3F71481F, 0x3F717F3A, 0x3F71B593, 0x3F71EB2C, 0x3F722008,
  0x3F725429, 0x3F728790, 0x3F72BA41, 0x3F72EC3E, 0x3F731D88, 0x3F734E22, 0x3F737E0E, 0x3F73AD4F,
  0x3F73DBE6, 0x3F7409D5, 0x3F74371F, 0x3F7463C6, 0x3F748FCB, 0x3F74BB32, 0x3F74E5FB, 0x3F751028,
  0x3F7539BD, 0x3F7562BA, 0x3F758B23, 0x3F75B2F7, 0x3F75DA3B, 0x3F7600EE, 0x3F762714, 0x3F764CAF,
  0x3F7671BF, 0x3F769647, 0x3F76BA48, 0x3F76DDC5, 0x3F7700BF, 0x3F772338, 0x3F774532, 0x3F7766AE,
  0x3F7787AD, 0x3F77A833, 0x3F77C840, 0x3F77E7D5, 0x3F7806F5, 0x3F7825A1, 0x3F7843DB, 0x3F7861A4,
  0x3F787EFE, 0x3F789BEB, 0x3F78B86B, 0x3F78D480, 0x3F78F02C, 0x3F790B70, 0x3F79264E, 0x3F7940C7,
  0x3F795ADC, 0x3F79748F, 0x3F798DE1, 0x3F79A6D4, 0x3F79BF69, 0x3F79D7A0, 0x3F79EF7D, 0x3F7A06FF,
  0x3F7A1E28, 0x3F7A34F9, 0x3F7A4B74, 0x3F7A6199, 0x3F7A776B, 0x3F7A8CEA, 0x3F7AA216, 0x3F7AB6F3,
  0x3F7ACB80, 0x3F7ADFBE, 0x3F7AF3B0, 0x3F7B0755, 0x3F7B1AB0, 0x3F7B2DC1, 0x3F7B4088, 0x3F7B5308]

/-- The SiLU gate, entries 768 to 895. -/
def siluTab6 : List Nat := [
  0x3F7B6541, 0x3F7B7735, 0x3F7B88E4, 0x3F7B9A4F, 0x3F7BAB77, 0x3F7BBC5D, 0x3F7BCD03, 0x3F7BDD68,
  0x3F7BED8F, 0x3F7BFD78, 0x3F7C0D23, 0x3F7C1C92, 0x3F7C2BC6, 0x3F7C3ABF, 0x3F7C497E, 0x3F7C5805,
  0x3F7C6653, 0x3F7C746B, 0x3F7C824C, 0x3F7C8FF7, 0x3F7C9D6E, 0x3F7CAAB0, 0x3F7CB7C0, 0x3F7CC49C,
  0x3F7CD148, 0x3F7CDDC1, 0x3F7CEA0B, 0x3F7CF625, 0x3F7D0210, 0x3F7D0DCD, 0x3F7D195D, 0x3F7D24BF,
  0x3F7D2FF6, 0x3F7D3B01, 0x3F7D45E1, 0x3F7D5096, 0x3F7D5B22, 0x3F7D6585, 0x3F7D6FC0, 0x3F7D79D3,
  0x3F7D83BF, 0x3F7D8D84, 0x3F7D9723, 0x3F7DA09D, 0x3F7DA9F1, 0x3F7DB322, 0x3F7DBC2E, 0x3F7DC517,
  0x3F7DCDDE, 0x3F7DD682, 0x3F7DDF04, 0x3F7DE766, 0x3F7DEFA6, 0x3F7DF7C7, 0x3F7DFFC7, 0x3F7E07A8,
  0x3F7E0F6B, 0x3F7E170F, 0x3F7E1E95, 0x3F7E25FE, 0x3F7E2D4A, 0x3F7E347A, 0x3F7E3B8D, 0x3F7E4284,
  0x3F7E4961, 0x3F7E5022, 0x3F7E56C9, 0x3F7E5D56, 0x3F7E63C9, 0x3F7E6A23, 0x3F7E7064, 0x3F7E768C,
  0x3F7E7C9D, 0x3F7E8295, 0x3F7E8876, 0x3F7E8E40, 0x3F7E93F4, 0x3F7E9991, 0x3F7E9F18, 0x3F7EA489,
  0x3F7EA9E5, 0x3F7EAF2C, 0x3F7EB45E, 0x3F7EB97B, 0x3F7EBE85, 0x3F7EC37B, 0x3F7EC85D, 0x3F7ECD2C,
  0x3F7ED1E8, 0x3F7ED692, 0x3F7EDB29, 0x3F7EDFAE, 0x3F7EE421, 0x3F7EE883, 0x3F7EECD4, 0x3F7EF114,
  0x3F7EF542, 0x3F7EF961, 0x3F7EFD6F, 0x3F7F016D, 0x3F7F055C, 0x3F7F093B, 0x3F7F0D0B, 0x3F7F10CB,
  0x3F7F147D, 0x3F7F1821, 0x3F7F1BB6, 0x3F7F1F3D, 0x3F7F22B6, 0x3F7F2621, 0x3F7F297F, 0x3F7F2CD0,
  0x3F7F3013, 0x3F7F334A, 0x3F7F3674, 0x3F7F3991, 0x3F7F3CA3, 0x3F7F3FA8, 0x3F7F42A1, 0x3F7F458E,
  0x3F7F4870, 0x3F7F4B47, 0x3F7F4E12, 0x3F7F50D2, 0x3F7F5388, 0x3F7F5633, 0x3F7F58D3, 0x3F7F5B69]

/-- The SiLU gate, entries 896 to 1023. -/
def siluTab7 : List Nat := [
  0x3F7F5DF4, 0x3F7F6076, 0x3F7F62EE, 0x3F7F655B, 0x3F7F67C0, 0x3F7F6A1B, 0x3F7F6C6C, 0x3F7F6EB5,
  0x3F7F70F4, 0x3F7F732B, 0x3F7F7558, 0x3F7F777E, 0x3F7F799A, 0x3F7F7BAF, 0x3F7F7DBB, 0x3F7F7FBF,
  0x3F7F81BB, 0x3F7F83AF, 0x3F7F859B, 0x3F7F8780, 0x3F7F895E, 0x3F7F8B34, 0x3F7F8D02, 0x3F7F8ECA,
  0x3F7F908B, 0x3F7F9244, 0x3F7F93F7, 0x3F7F95A3, 0x3F7F9749, 0x3F7F98E8, 0x3F7F9A80, 0x3F7F9C12,
  0x3F7F9D9E, 0x3F7F9F24, 0x3F7FA0A4, 0x3F7FA21E, 0x3F7FA392, 0x3F7FA500, 0x3F7FA669, 0x3F7FA7CC,
  0x3F7FA92A, 0x3F7FAA82, 0x3F7FABD5, 0x3F7FAD23, 0x3F7FAE6B, 0x3F7FAFAE, 0x3F7FB0ED, 0x3F7FB226,
  0x3F7FB35B, 0x3F7FB48B, 0x3F7FB5B6, 0x3F7FB6DC, 0x3F7FB7FE, 0x3F7FB91C, 0x3F7FBA35, 0x3F7FBB4A,
  0x3F7FBC5A, 0x3F7FBD66, 0x3F7FBE6E, 0x3F7FBF72, 0x3F7FC072, 0x3F7FC16E, 0x3F7FC266, 0x3F7FC35B,
  0x3F7FC44B, 0x3F7FC538, 0x3F7FC621, 0x3F7FC706, 0x3F7FC7E8, 0x3F7FC8C7, 0x3F7FC9A2, 0x3F7FCA79,
  0x3F7FCB4E, 0x3F7FCC1F, 0x3F7FCCEC, 0x3F7FCDB7, 0x3F7FCE7E, 0x3F7FCF43, 0x3F7FD004, 0x3F7FD0C2,
  0x3F7FD17E, 0x3F7FD236, 0x3F7FD2EC, 0x3F7FD39F, 0x3F7FD44F, 0x3F7FD4FC, 0x3F7FD5A7, 0x3F7FD64E,
  0x3F7FD6F4, 0x3F7FD797, 0x3F7FD837, 0x3F7FD8D5, 0x3F7FD970, 0x3F7FDA09, 0x3F7FDAA0, 0x3F7FDB34,
  0x3F7FDBC6, 0x3F7FDC56, 0x3F7FDCE3, 0x3F7FDD6E, 0x3F7FDDF8, 0x3F7FDE7F, 0x3F7FDF03, 0x3F7FDF86,
  0x3F7FE007, 0x3F7FE086, 0x3F7FE103, 0x3F7FE17E, 0x3F7FE1F7, 0x3F7FE26E, 0x3F7FE2E3, 0x3F7FE357,
  0x3F7FE3C8, 0x3F7FE438, 0x3F7FE4A7, 0x3F7FE513, 0x3F7FE57E, 0x3F7FE5E7, 0x3F7FE64F, 0x3F7FE6B5,
  0x3F7FE719, 0x3F7FE77C, 0x3F7FE7DD, 0x3F7FE83D, 0x3F7FE89B, 0x3F7FE8F8, 0x3F7FE953, 0x3F7FE9AD]

/-- The SiLU gate, entries 1024 to 1024. -/
def siluTab8 : List Nat := [
  0x3F7FEA06]

/-- The GELU gate table by parts of 128. -/
def geluTabs : List (List Nat) := [geluTab0, geluTab1, geluTab2, geluTab3, geluTab4, geluTab5, geluTab6, geluTab7, geluTab8]

/-- The SiLU gate table by parts of 128. -/
def siluTabs : List (List Nat) := [siluTab0, siluTab1, siluTab2, siluTab3, siluTab4, siluTab5, siluTab6, siluTab7, siluTab8]

/-- `G[i]` of a table given by parts. -/
def gateAt (tabs : List (List Nat)) (i : Nat) : Nat := (tabs.getD (i / 128) []).getD (i % 128) 0

end Sys2Proof.Machine
end

