-- ==== Sys2Proof/Machine/Vector.lean ====
section
/-! DEFINITION. The arithmetic of block-mode work and host micro-programs: products (R157, R180), element-wise operations (R177), activations (R178),
normalisation (R179), rescaling (R159). -/

namespace Sys2Proof.Machine

/-! Products. -/

/-- The accumulator of one output channel from its exact products in order: chunks of 128, one rounding for each chunk and each addition (R157). -/
def chunkAcc (prods : List Ext) : Nat :=
  (chunksOf 128 (prods.length / 128 + 1) prods).foldl (fun acc c => fAdd acc (rn (exactSum c))) 0

/-- Rescale and accumulate one channel (R159, R180). -/
def rescale (acc m : Nat) : Nat := fMul acc m

/-! Element-wise operations. -/

/-- An exact result that stays infinite, or is the one NaN (R177). -/
def vadd (a b : Nat) : Nat := fAdd a b

/-- The product of two elements (R177). -/
def vmul (a b : Nat) : Nat := fMul a b

/-- ReLU (R178). -/
def relu (a : Nat) : Nat := if fIsNan a then fNan else if fLt 0 a then a else 0

/-- The gate of R178 from its table, for an `a` strictly between -8 and 8. -/
def gateMid (tabs : List (List Nat)) (a : Nat) : Nat :=
  match fVal a with
  | .fin m e =>
    -- t = (a + 8) * 64 exactly, in units of 2^-149
    let t : Int := (m * ipow2 (e + 149) + 8 * (2 : Int) ^ 149) * 64
    let i : Int := t / (2 : Int) ^ 149
    let r := rnFin (t - i * (2 : Int) ^ 149) (-149)
    let g0 := gateAt tabs i.toNat
    fAdd g0 (fMul (fSub (gateAt tabs (i.toNat + 1)) g0) r)
  | _ => fNan

/-- 8.0. -/
abbrev fEight : Nat := 0x41000000

/-- GELU and SiLU (R178). -/
def gated (tabs : List (List Nat)) (a : Nat) : Nat :=
  if fIsNan a then fNan
  else if !fLt a fEight then fMul a fOne
  else if !fLt (fNeg fEight) a then fMul a 0
  else fMul a (gateMid tabs a)

/-- `VACT` by MOD. -/
def vact (mod a : Nat) : Nat := if mod = 0 then relu a else if mod = 1 then gated geluTabs a else gated siluTabs a

/-! Normalisation (R179). -/

/-- rn(1 / sqrt v) of an FP32 value: one rounding of the real quotient, decided by 64 bits of it and a sticky bit. -/
def rsqrt (b : Nat) : Nat :=
  match fVal b with
  | .nan => fNan
  | .inf neg => if neg then fNan else 0
  | .fin m e =>
    if m < 0 then fNan
    else if m = 0 then fPosInf
    else
      -- v = m * 2^e; with an even exponent e' = e - s, 1/sqrt v = 2^(-e'/2) / sqrt (m * 2^s)
      let s : Nat := if e % 2 = 0 then 0 else 1
      let x := m.natAbs * 2 ^ s
      let k := 64 + bitLen x
      let q := 2 ^ (2 * k) / x
      let r := isqrtBits (bitLen q / 2 + 1) 0 q
      let sticky := if r * r * x = 2 ^ (2 * k) then 0 else 1
      rnFin (2 * (r : Int) + sticky) (-((e - (s : Int)) / 2) - (k : Int) - 1)

/-- The exact sum of FP32 values, divided by their number and rounded. -/
def meanOf (n : Nat) (l : List Ext) : Nat := rnDiv (exactSum l) (.fin n 0)

/-- Normalise one row: kind 0 RMS, 1 layer. Answers the row, and whether it is the NaN row. -/
def normRow (kind eps : Nat) (gamma beta xs : List Nat) : List Nat × Bool :=
  let n := xs.length
  let at_ (l : List Nat) (i : Nat) := l.getD i 0
  let d := if kind = 0 then xs else let mu := meanOf n (xs.map fVal); xs.map fun x => fSub x mu
  let r := rsqrt (fAdd (meanOf n (d.map fun x => (fVal x).mul (fVal x))) eps)
  let ys := (List.range n).map fun i =>
    let y := fMul (fMul (at_ d i) r) (at_ gamma i)
    if kind = 0 then y else fAdd y (at_ beta i)
  if xs.any fNonFinite || fNonFinite r || ys.any fNonFinite then (xs.map fun _ => fNan, true) else (ys, false)

end Sys2Proof.Machine
end

