-- ==== Sys2Proof/Machine/Bsu.lean ====
section
/-! DEFINITION. Bank-side units (08): `BSU_RUN`, `BSU_LOAD`, `BSU_OWN`, `BSU_RELEASE`, micro-instructions, microsteps, deferrals. -/

namespace Sys2Proof.Machine

open Host (Outcome)

/-! ## Units -/

/-- A unit's state. -/
def unitOf (n : Node) (b : Nat) : Bsu := mgetD n.bsu.units b ⟨[], none, [], [], []⟩

/-- Change a unit. -/
def modUnit (n : Node) (b : Nat) (f : Bsu → Bsu) : Node :=
  { n with bsu := { n.bsu with units := mset n.bsu.units b (f (unitOf n b)) } }

/-- Change a unit's run. -/
def modRun (n : Node) (b : Nat) (f : BsuRunSt → BsuRunSt) : Node := modUnit n b fun u => { u with run := u.run.map f }

/-- Is a BSU in service: its channel and the unit itself. -/
def bsuInService (n : Node) (b : Nat) : Bool := pchInService n b && !n.mic.bsusOut.contains b

/-- Does a BSU lie in the slices that the node's tenant holds. -/
def bsuOurs (n : Node) (b : Nat) : Bool :=
  n.map.map.slices.any fun s => s.node == nodeId n && bitAt s.pchg (b / 16)
    && (match mget? n.map.map.comps s.comp with
        | some e => e.tenant == rd n Rg.secStatusTenant
        | none => false)

/-- The BSUs a command names. -/
def bsuSpan (c : Cmd) : List Nat := (List.range (c.f 26 2)).map (c.f 24 2 + ·)

/-- Is the range of BSUs out of bounds (R170). -/
def bsuSpanBad (c : Cmd) : Bool := c.f 26 2 == 0 || 1024 < c.f 24 2 + c.f 26 2

/-- Count on a BSU's register and its stack's events. -/
def bsuCount (n : Node) (b : Nat) (f : Fld) (ev k : Nat) : Node := pmc (bump n f k) (32 + b / 128) ev k

/-! ## Micro-instructions (R175, R176) -/

/-- A micro-instruction's fields. -/
structure BInstr where
  op : Nat
  fa : Nat
  fd : Nat
  fb : Nat
  areg : Nat
  inc : Bool
  mod : Nat
  lreg : Nat
  res : Nat
  sa : Nat
  sb : Nat
  sd : Nat
  len : Nat
  n : Nat
  aux : Nat
  deriving DecidableEq, Repr

/-- The fields of 16 bytes (R175). -/
def bsuInstr (b : Bytes) : BInstr where
  op := byteAt b 0
  fa := byteAt b 1 % 16
  fd := byteAt b 1 / 16
  fb := byteAt b 2 % 16
  areg := byteAt b 2 / 16 % 8
  inc := bitAt (byteAt b 2) 7
  mod := byteAt b 3 % 16
  lreg := byteAt b 3 / 16 % 4
  res := byteAt b 3 / 64
  sa := field b 4 2
  sb := field b 6 2
  sd := field b 8 2
  len := field b 10 2
  n := field b 12 2
  aux := field b 14 2

/-- Operation codes of R176. -/
abbrev bHalt : Nat := 0x00
/-- SETA. -/
abbrev bSeta : Nat := 0x01
/-- ADDA. -/
abbrev bAdda : Nat := 0x02
/-- SETL. -/
abbrev bSetl : Nat := 0x03
/-- LOOP. -/
abbrev bLoop : Nat := 0x04
/-- LOAD. -/
abbrev bLoad : Nat := 0x08
/-- STORE. -/
abbrev bStore : Nat := 0x09
/-- VADD. -/
abbrev bVadd : Nat := 0x10
/-- VMUL. -/
abbrev bVmul : Nat := 0x11
/-- VACT. -/
abbrev bVact : Nat := 0x12
/-- WIDEN. -/
abbrev bWiden : Nat := 0x13
/-- NORM. -/
abbrev bNorm : Nat := 0x18
/-- MATVEC. -/
abbrev bMatvec : Nat := 0x20
/-- RSACC. -/
abbrev bRsacc : Nat := 0x21
/-- QUANT. -/
abbrev bQuant : Nat := 0x28

/-- Is an operand the bank operand. -/
def isBank (x : Nat) : Bool := bitAt x 15

/-- Elements of a row. -/
def BInstr.row (i : BInstr) : Nat := 32 * i.len

/-- Elements of N rows. -/
def BInstr.all (i : BInstr) : Nat := i.n * i.row

/-- Bytes of `k` elements in a format, without scales. -/
def fmtBytes (f k : Nat) : Nat := k * fmtBits f / 8

/-- Bytes of their scales. -/
def fmtScales (f k : Nat) : Nat := if fmtScaled f then k / 32 else 0

/-- Row pitch of a bank operand of MATVEC (R175). -/
def BInstr.pitch (i : BInstr) : Nat := cdiv (fmtBytes i.fb i.row) 64 * 64

/-- Bytes of an instruction's bank operand (R175). LOAD and STORE copy the operand's bytes as SRAM holds them, data and then scales. -/
def BInstr.bankBytes (i : BInstr) : Nat :=
  if i.op = bMatvec then i.n * i.pitch + fmtScales i.fb i.all else fmtBytes i.fa i.all + fmtScales i.fa i.all

/-- SRAM operands of an instruction as (word, bytes) (R174). -/
def BInstr.sramOps (i : BInstr) : List (Nat × Nat) :=
  let a (f k : Nat) : List (Nat × Nat) := if isBank i.sa then [] else [(i.sa, fmtBytes f k + fmtScales f k)]
  let b (f k : Nat) : List (Nat × Nat) := if isBank i.sb then [] else [(i.sb, fmtBytes f k + fmtScales f k)]
  let d (f k : Nat) : List (Nat × Nat) :=
    (if isBank i.sd then [] else [(i.sd, fmtBytes f k)]) ++ (if fmtScaled f then [(i.aux, fmtScales f k)] else [])
  if i.op = bSeta then [(i.sa, 8)]
  else if i.op = bLoad || i.op = bStore then
    a i.fa i.all ++ (if isBank i.sd then [] else [(i.sd, fmtBytes i.fa i.all + fmtScales i.fa i.all)])
  else if i.op = bVadd || i.op = bVmul then a i.fa i.all ++ b i.fb i.all ++ d i.fd i.all
  else if i.op = bVact || i.op = bWiden || i.op = bQuant then a i.fa i.all ++ d i.fd i.all
  else if i.op = bNorm then a i.fa i.all ++ [(i.sb, 8 + 4 * i.row * (1 + min i.mod 1))] ++ d i.fd i.all
  else if i.op = bMatvec then a i.fa i.row ++ b i.fb i.all ++ d 0 i.n
  else if i.op = bRsacc then a 0 i.n ++ b 0 i.n ++ d i.fd i.n
  else []

/-- Formats that the table permits an operation: FA, FB, FD (R176). -/
def fmtsOk (i : BInstr) : Bool :=
  let z := i.fb == 0 && i.fd == 0
  if i.op ≤ bLoop then i.fa == 0 && z
  else if i.op = bLoad || i.op = bStore then i.fa ≤ 7 && i.fb == 0 && i.fd == i.fa
  else if i.op = bVadd || i.op = bVmul then i.fa ≤ 2 && i.fb ≤ 2 && i.fd ≤ 7
  else if i.op = bVact || i.op = bNorm then i.fa ≤ 2 && i.fb == 0 && i.fd ≤ 7
  else if i.op = bWiden then i.fa ≤ 7 && z
  else if i.op = bMatvec then i.fa ≤ 7 && i.fb ≤ 7 && i.fd == 0
  else if i.op = bRsacc then i.fa == 0 && i.fb == 0 && i.fd ≤ 2
  else i.fa == 0 && i.fb == 0 && 1 ≤ i.fd && i.fd ≤ 7

/-- Bank operands stand only where the table allows one (R174, R176). -/
def bankOk (i : BInstr) : Bool :=
  let only (x : Nat) : Bool := !isBank x || x == 0x8000
  only i.sa && only i.sb && only i.sd
    && (!isBank i.sa || i.op == bLoad) && (!isBank i.sb || i.op == bMatvec) && (!isBank i.sd || i.op == bStore)

/-- A modifier that R176 gives no result for: the instruction runs and its results are free values. DESIGN CHOICE: log entry 66. -/
def modOpen (i : BInstr) : Bool := (i.op == bVact && 2 < i.mod) || (i.op == bNorm && 1 < i.mod)

/-- Operations that host programs may hold. -/
def bsuOps : List Nat :=
  [bHalt, bSeta, bAdda, bSetl, bLoop, bLoad, bStore, bVadd, bVmul, bVact, bWiden, bNorm, bMatvec, bRsacc, bQuant]

/-- Does instruction `k` of an image pass validation (R174). -/
def instrOk (k : Nat) (i : BInstr) : Bool :=
  bsuOps.contains i.op && i.res == 0 && fmtsOk i && bankOk i
    && (i.sramOps.all fun x => 8 * x.1 + x.2 ≤ 0x30000) && (i.op != bLoop || i.aux < k)

/-- The instructions of an image. -/
def imageInstrs (b : Bytes) : List BInstr := (chunksOf 16 (b.length / 16 + 1) b).map bsuInstr

/-- The index of the first instruction that fails validation; the length, for a program without HALT (R174). -/
def imageFault (b : Bytes) : Option Nat :=
  let l := imageInstrs b
  match (List.range l.length).find? fun k => !(match l[k]? with | some i => instrOk k i | none => true) with
  | some k => some k
  | none => if l.any fun i => i.op == bHalt then none else some l.length

/-! ## BSU_LOAD (R173, R174) -/

/-- The slots of the other half of node firmware's: the running image's programs take four slots from `fwBase` on. DESIGN CHOICE: log entry 67. -/
def fwOther (n : Node) : Nat := if n.bsu.fwBase = 0 then 4 else 0

/-- Does a queued or running entry of a unit name a program of an image that is no longer the running one (R172). -/
def bindsOld (n : Node) (u : Bsu) : Bool := (u.area ++ (u.run.map (·.ent)).toList).any fun e => e.src == 1 && e.prog == fwOther n

/-- The firmware slots of a unit that hold programs: the running image's, and those of the one before while an entry names them (R172). -/
def fwSlots (n : Node) (u : Bsu) : List Nat :=
  (List.range 4).map (n.bsu.fwBase + ·) ++ (if bindsOld n u then (List.range 4).map (fwOther n + ·) else [])

/-- At a tick boundary runs begin to use a new firmware image, loaded into free firmware slots of every store (R172). -/
def fwTurn (n : Node) : Node :=
  if n.bsu.fwNew && !n.bsu.units.any (fun u => bindsOld n u.2) then { n with bsu := { n.bsu with fwBase := fwOther n, fwNew := false } } else n

/-- Slots that queued or running entries of a unit bind. -/
def boundSlots (u : Bsu) : List Nat :=
  (u.area ++ (u.run.map (·.ent)).toList).flatMap fun e =>
    (List.range (match mget? u.progs e.prog with | some p => p.1 | none => 1)).map (e.prog + ·)

/-- Write a program into a unit's store: programs it overwrites are gone. -/
def storeProg (slot slots : Nat) (img digest : Bytes) (u : Bsu) : Bsu :=
  { u with
    store := Mem.write 0 (Mem.clear u.store (1024 * slot) (1024 * slots)) (1024 * slot) img
    progs := mset (mfilter u.progs fun k p => k + p.1 ≤ slot || slot + slots ≤ k) slot (slots, digest) }

/-- `BSU_LOAD`. -/
def bsuLoad (h : Nat) (t : Tck) (n : Node) : Node :=
  withCmd n h opBsuLoad fun c =>
    let slot := c.f 28 1
    let slots := c.f 29 1
    let len := c.f 40 4
    let want := (List.range slots).map (slot + ·)
    let rangeBad := slot < 8 || 15 < slot || slots == 0 || 16 < slot + slots
    let bound := !bsuSpanBad c && (bsuSpan c).any fun b => (boundSlots (unitOf n b)).any want.contains
    checked t n c (rsv c 30 31 ++ rsv c 44 63 ++ offIf (bsuSpanBad c) 26 ++ offIf (rangeBad || bound) 28 ++ offIf (!mult (c.f 32 8) 16) 32
        ++ offIf (len < 16 || 1024 * slots < len || !mult len 16) 40)
      (let img := hostRead n c.mem (c.f 32 8) len
       match imageFault img with
       | some k => badParam t (raise t n evBsuLoadBad (leBytes 2 k)) h 32
       | none =>
         if (bsuSpan c).any fun b => !bsuOurs n b then complete t n h stNotOwner []
         else
           let d := sha384 img
           complete t ((bsuSpan c).foldl (fun m b => modUnit m b (storeProg slot slots img d)) n) h stOk (d.take 16))

/-! ## BSU_RUN (R169 to R171) -/

/-- RESULT of a `BSU_RUN` (R171). -/
def bsuResult (msteps failBsu ip addr : Nat) : Bytes :=
  leBytes 4 (satTo 32 msteps) ++ leBytes 2 failBsu ++ leBytes 2 ip ++ leBytes 8 (addr % 2 ^ 30)

/-- `BSU_RUN`: the input is copied, and a run is queued on each BSU from the launch tick on, or late (R14, R169). Without a credit of every area named it
waits (R167). -/
def bsuRun (h : Nat) (t : Tck) (n : Node) : Node :=
  withCmd n h opBsuRun fun c =>
    let bs := bsuSpan c
    let prog := c.f 28 1
    checked t n c (rsv c 29 29 ++ rsv c 52 63 ++ offIf (bsuSpanBad c) 26
        ++ offIf (prog < 8 || 15 < prog || (!bsuSpanBad c && bs.any fun b => !mhas (unitOf n b).progs prog)) 28
        ++ offIf (1024 < c.f 30 2) 30 ++ offIf (!mult (c.f 32 8) 64) 32 ++ offIf (!mult (c.f 40 8) 64) 40
        ++ offIf (1024 < c.f 48 2 || 3072 < c.f 50 2 + c.f 48 2) 48)
      (match bs.find? fun b => !bsuInService n b || !bsuOurs n b with
       | some b => complete t n h stNotOwner (bsuResult 0 b 0 0)
       | none =>
         if c.deadline < t.tick then complete t n h stDeadline (bsuResult 0 (c.f 24 2) 0 0)
         else if bs.any fun b => 64 ≤ areaUsed (unitOf n b) then pmc n 63 2 1
         else
           let late := t.at c.launch 0 < t.now
           let at_ := if late then dueNotch { t with now := t.now + 4 } else c.launch * 64
           let e : BsuEntry := ⟨0, nodeId n, h, 0, 0, prog, at_⟩
           let n1 := bs.foldl (fun m b => modUnit m b fun u => { u with area := u.area ++ [e] }) n
           let n2 := if late then pmc (modCmd n1 h fun d => { d with late := true }) 63 3 1 else n1
           setRunning { n2 with bsu := { n2.bsu with
             jobs := n2.bsu.jobs ++ [⟨h, c.f 24 2, c.f 26 2, hostRead n c.mem (c.f 32 8) (64 * c.f 30 2), [], none, 0⟩] } } h)

/-- `n` free values. -/
def takeFrees : Nat → Node → List Nat × Node
  | 0, n => ([], n)
  | k + 1, n =>
    let (v, n1) := takeFree n
    let (l, n2) := takeFrees k n1
    (v :: l, n2)

/-- The entry's command has launched, or its granule runs bank-side (R109, R171). -/
def noteStart (n : Node) (e : BsuEntry) : Node :=
  if e.src = 0 then modCmd n e.handle fun c => { c with launched := true }
  else modShare n e.home e.handle fun s => { s with bank := true }

/-- Start an entry on its unit: the input block at the start of the run area, the BSU's number in L3; the other registers, of which
the spec says nothing, are free. DESIGN CHOICE, safe: log entry 12. -/
def startRun (t : Tck) (n : Node) (b : Nat) (e : BsuEntry) : Node :=
  let (fr, n1) := takeFrees 11 (noteStart n e)
  let input := match n.bsu.jobs.find? (·.handle == e.handle) with
    | some j => if e.src = 0 then j.input else []
    | none => []
  let run : BsuRunSt := {
    ent := e, ip := 0, areg := (fr.take 8).map (· % 2 ^ 30), lreg := ((fr.drop 8).map (· % 2 ^ 16)) ++ [b], prog := 0, msteps := 0, paused := false,
    deferred := none, halted := false, start := dueNotch t, got := [] }
  modUnit n1 b fun u => { u with area := u.area.erase e, run := some run, sram := Mem.write 0 u.sram 0 input }

/-- May the runs of a `BSU_RUN` go on: none of them has failed, and the deadline tick has not ended (R52, R171). -/
def jobGoes (t : Tck) (n : Node) (e : BsuEntry) : Bool :=
  e.src != 0 || ((n.bsu.jobs.any fun j => j.handle == e.handle && j.fail.isNone) && (findCmd n e.handle).any fun c => t.tick ≤ c.deadline)

/-- `BSU_RUN_START` (R167): with no run in progress, the oldest entry whose launch notch has come; its work starts on a notch boundary (R28). -/
def runStart (b : Nat) (t : Tck) (n : Node) : Node :=
  let u := unitOf n b
  if u.run.isSome || bsuShed n b || stopped n || !bsuInService n b || t.inSaddle then n
  else
    match u.area.find? fun e => e.launch ≤ t.notches with
    | some e => if jobGoes t n e then startRun t n b e else n
    | none => n

/-! ## Reading and writing the banks (R191 to R194) -/

/-- What a line access meets. -/
inductive LineRes where
  | ok
  | refused (off : Nat)
  | poison (off kind : Nat)
  | defer (off : Nat)
  deriving DecidableEq, Repr

/-- Is an access to a line allowed (R187, R191). -/
def lineAllowed (n : Node) (b off : Nat) (wr : Bool) : Bool :=
  off < pchBytes && (let k := frameKind n (frameOf (b * pchBytes + off)); k == 2 || (!wr && k == 0))

/-- Read a line through the light decoder (R192, R194). -/
def lightRead (b : Nat) (errs : List (Nat × List Nat)) (n : Node) (off : Nat) : Node × LineRes :=
  let a := b * pchBytes + off
  let n1 := pmc n (32 + b / 128) 0x2004 1
  let bad := ((errs.find? (·.1 == off)).map (·.2)).getD []
  match (mget? n.mic.poison a).filter fun _ => staysPoison bad with
  | some k => (n1, .poison off k)
  | none =>
    match if mhas n.mic.poison a then .beyond else lightDecode bad with
    | .clean => (n1, .ok)
    | .laneOnly => (n1, .ok)
    | .fixed _ => (scrubAhead (bsuCount n1 b (Rg.bsuLightCorrCount (b / 128) (b % 128)) 0x2003 1) a, .ok)
    | .uncorr => (n1, .defer off)
    | .beyond =>
      let (v, n2) := takeFree n1
      if v % 2 = 0 then (n2, .defer off) else (unpoison { n2 with t1 := Mem.write 0 n2.t1 a (leBytes 64 (v / 2)) } a, .ok)

/-- Read lines in order; the first that is refused, poisoned or deferred decides. `need` says which are read; the others are only written. -/
def lightReads (b : Nat) (errs : List (Nat × List Nat)) (wr : Bool) (need : Nat → Bool) (n : Node) (offs : List Nat) : Node × LineRes :=
  offs.foldl
    (fun s off =>
      if s.2 != .ok then s
      else if !lineAllowed s.1 b off wr then (s.1, .refused off)
      else if need off then lightRead b errs s.1 off
      else s)
    (n, .ok)

/-- The lines of a byte range of the bank, by offset. -/
def bankLines (a len : Nat) : List Nat := (List.range ((a + len + 63) / 64 - a / 64)).map fun i => (a / 64 + i) * 64

/-- Bytes of a unit's bank. -/
def bankRead (n : Node) (b a len : Nat) : Bytes := Mem.read 0 n.t1 (b * pchBytes + a) len

/-- The bytes of lines of a unit's bank. -/
def readLines (n : Node) (b : Nat) (ls : List Nat) : Bytes := ls.flatMap fun l => bankRead n b l 64

/-- Write bytes of a unit's bank: whole lines, encoded, so that no correction of them is owed (R195); a line written whole is clear of poison (R193, R224). -/
def bankWrite (n : Node) (b a : Nat) (x : Bytes) : Node :=
  let full := (bankLines a x.length).filter fun l => a ≤ l && l + 64 ≤ a + x.length
  { n with
    t1 := Mem.write 0 n.t1 (b * pchBytes + a) x
    mic := { n.mic with
      poison := n.mic.poison.filter fun p => !full.contains (p.1 - b * pchBytes) || p.1 < b * pchBytes
      ahead := mmod n.mic.ahead (b / 128) fun l => l.filter fun p => !(bankLines a x.length).contains (p - b * pchBytes) || p < b * pchBytes } }

/-! ## The effect of an instruction (R176 to R180) -/

/-- SRAM bytes from a word. -/
def sramRead (u : Bsu) (w len : Nat) : Bytes := Mem.read 0 u.sram (8 * w) len

/-- `k` elements of an SRAM operand: encodings and scale bytes. -/
def sramElems (u : Bsu) (f k w : Nat) : List Nat × List Nat :=
  (unpackElems f k (sramRead u w (fmtBytes f k)), (Mem.read 0 u.sram (8 * w + fmtBytes f k) (fmtScales f k)).map (·.toNat))

/-- An operand of codes 0 to 7 widened to FP32 (R150, R152). -/
def sramVals (u : Bsu) (f k w : Nat) : List Nat :=
  let x := sramElems u f k w
  if fmtScaled f then (List.range k).map fun i => widenScaled f (x.1.getD i 0) (x.2.getD (i / 32) 0xFF) else x.1.map (widen f)

/-- What an instruction computes: its row as stored, and elements counted as not finite. -/
def vecResult (u : Bsu) (i : BInstr) : List Nat × Nat :=
  let nf (l : List Nat) : List Nat × Nat := (l, (l.filter fNonFinite).length)
  if i.op = bVadd then nf (List.zipWith vadd (sramVals u i.fa i.all i.sa) (sramVals u i.fb i.all i.sb))
  else if i.op = bVmul then nf (List.zipWith vmul (sramVals u i.fa i.all i.sa) (sramVals u i.fb i.all i.sb))
  else if i.op = bVact then ((sramVals u i.fa i.all i.sa).map (vact i.mod), 0)
  else if i.op = bNorm then
    let eps := field (sramRead u i.sb 4) 0 4
    let gamma := sramVals u 0 i.row (i.sb + 1)
    let beta := sramVals u 0 i.row (i.sb + 1 + i.row / 2)
    let rows := (chunksOf i.row i.n (sramVals u i.fa i.all i.sa)).map (normRow i.mod eps gamma beta)
    (rows.flatMap (·.1), ((rows.filter (·.2)).length) * i.row)
  else if i.op = bRsacc then
    let p := List.zipWith rescale (sramVals u 0 i.n i.sa) (sramVals u 0 i.n i.sb)
    (if bitAt i.mod 0 then List.zipWith fAdd (sramVals u i.fd i.n i.sd) p else p, 0)
  else (sramVals u i.fa i.all i.sa, 0)

/-- The weights of MATVEC: row `c`, from the bank operand or SRAM. -/
def weightRow (bank : Bytes) (u : Bsu) (i : BInstr) (c : Nat) : List Nat × List Nat :=
  if isBank i.sb then
    (unpackElems i.fb i.row (slice bank (c * i.pitch) (fmtBytes i.fb i.row)),
      (slice bank (i.n * i.pitch + c * i.len) (fmtScales i.fb i.row)).map (·.toNat))
  else
    let x := sramElems u i.fb i.all i.sb
    (slice' x.1 (c * i.row) i.row, slice' x.2 (c * i.len) i.len)
where
  slice' (l : List Nat) (lo k : Nat) : List Nat := (l.drop lo).take k

/-- MATVEC (R180). -/
def matvec (bank : Bytes) (u : Bsu) (i : BInstr) : List Nat :=
  let a := sramElems u i.fa i.row i.sa
  (List.range i.n).map fun c =>
    let w := weightRow bank u i c
    chunkAcc ((List.range i.row).map fun x => (rowVal i.fa a.1 a.2 x).mul (rowVal i.fb w.1 w.2 x))

/-- Write FP32 results to SRAM in FD, its scales from word AUX (R176). -/
def putResult (u : Bsu) (i : BInstr) (r : Row) : Bsu :=
  let m := Mem.write 0 u.sram (8 * i.sd) (packElems i.fd r.elems)
  { u with sram := if fmtScaled i.fd then Mem.write 0 m (8 * i.aux) (r.scales.map fun s => BitVec.ofNat 8 s) else m }

/-- Replace an element of a register list. -/
def setReg (l : List Nat) (k v : Nat) : List Nat := l.set k v

/-- AREG after the instruction (R175). -/
def incAreg (i : BInstr) (r : BsuRunSt) : BsuRunSt :=
  if i.inc then { r with areg := setReg r.areg i.areg ((r.areg.getD i.areg 0 + cdiv i.bankBytes 64 * 64) % 2 ^ 30) } else r

/-- The checkpoint after an instruction's last microstep. -/
def nextIp (r : BsuRunSt) : BsuRunSt := { r with ip := r.ip + 1, prog := 0, got := [] }

/-- The instruction at a run's checkpoint. -/
def instrAt (u : Bsu) (r : BsuRunSt) : BInstr := bsuInstr (Mem.read 0 u.store (1024 * r.ent.prog + 16 * r.ip) 16)

/-! ## Ends of runs -/

/-- Change the job of a `BSU_RUN`. -/
def modJob (n : Node) (h : Nat) (f : BsuJob → BsuJob) : Node :=
  { n with bsu := { n.bsu with jobs := lmodify n.bsu.jobs (·.handle == h) f } }

/-- A run fails (R171): its BSU stops, and the earliest failure stands, of equals in a notch that of the lowest BSU. -/
def failRun (t : Tck) (n : Node) (b : Nat) (r : BsuRunSt) (status addr : Nat) : Node :=
  let f : BsuFail := ⟨status, b, r.ip, addr, t.notches⟩
  modJob (modUnit n b fun u => { u with run := none }) r.ent.handle fun j =>
    { j with fail := match j.fail with
      | some g => if g.notch == f.notch && b < g.bsu then some f else some g
      | none => some f }

/-- A bank-side granule item fails at a page in progress (R127, R195). -/
def failItem (t : Tck) (n : Node) (b : Nat) (r : BsuRunSt) (status : Nat) : Tck × Node :=
  let n1 := modUnit n b fun u => { u with run := none }
  match findShare n1 r.ent.home r.ent.handle, findItem n1 r.ent.home r.ent.handle r.ent.group r.ent.granule with
  | some s, some it => endItem it t (reportFault n1 s it status (((it.pages[r.prog]?).map (·.2)).getD 0))
  | _, _ => (t, n1)

/-- The end of a run, by what runs. -/
def stopRun (t : Tck) (n : Node) (b : Nat) (r : BsuRunSt) (status addr : Nat) : Tck × Node :=
  if r.ent.src = 1 then failItem t n b r status else (t, failRun t n b r status addr)

/-- A microstep has committed. -/
def committed (n : Node) (b : Nat) (r : BsuRunSt) : Node :=
  let n1 := bsuCount (modRun n b fun x => { x with msteps := x.msteps + 1 }) b (Rg.bsuMstepsCount (b / 128) (b % 128)) 0x2001 1
  if r.ent.src = 0 then modJob n1 r.ent.handle fun j => { j with msteps := j.msteps + 1 } else n1

/-- What follows a line access that did not succeed (R191, R192, R194). -/
def lineStop (t : Tck) (n : Node) (b : Nat) (r : BsuRunSt) (x : LineRes) : Tck × Node :=
  match x with
  | .ok => (t, n)
  | .refused off => stopRun t (bsuCount n b (Rg.bsuOwnFaultCount (b / 128) (b % 128)) 0x2006 1) b r stNotOwner off
  | .poison off k => stopRun t n b r (if k = 2 then stOwnerLost else stMemUncorr) off
  | .defer off =>
    (t, bsuCount (scrubAhead (modRun n b fun y => { y with deferred := some off }) (b * pchBytes + off)) b (Rg.bsuDeferDeferred (b / 128) (b % 128)) 0x2002 1)

/-! ## Microsteps (R183, R184) -/

/-- LOAD: up to 224 lines of the operand to SRAM. -/
def stepLoad (t : Tck) (errs : List (Nat × List Nat)) (n : Node) (b : Nat) (r : BsuRunSt) (i : BInstr) : Tck × Node :=
  let a := r.areg.getD i.areg 0
  let ls := ((bankLines a i.bankBytes).drop r.prog).take 224
  let x := lightReads b errs false (fun _ => true) n ls
  if x.2 != .ok then lineStop t x.1 b r x.2
  else
    let lo := max a (ls.headD a)
    let hi := min (a + i.bankBytes) ((ls.getLast?.getD a) + 64)
    let bytes := bankRead x.1 b lo (hi - lo)
    let n1 := modUnit x.1 b fun u => { u with sram := Mem.write 0 u.sram (8 * i.sd + (lo - a)) bytes }
    let done := (bankLines a i.bankBytes).length ≤ r.prog + ls.length
    (t, committed (modRun n1 b fun y => if done then nextIp (incAreg i y) else { y with prog := y.prog + ls.length }) b r)

/-- STORE: up to 64 lines from SRAM; a line written in part is read first (R193). -/
def stepStore (t : Tck) (errs : List (Nat × List Nat)) (n : Node) (b : Nat) (r : BsuRunSt) (i : BInstr) : Tck × Node :=
  let a := r.areg.getD i.areg 0
  let e := a + i.bankBytes
  let ls := ((bankLines a i.bankBytes).drop r.prog).take 64
  let x := lightReads b errs true (fun l => l < a || e < l + 64) n ls
  if x.2 != .ok then lineStop t (match x.2 with | .poison _ _ => bump x.1 Rg.micPoisonPartialWr 1 | _ => x.1) b r x.2
  else
    let lo := max a (ls.headD a)
    let hi := min e ((ls.getLast?.getD a) + 64)
    let bytes := Mem.read 0 (unitOf x.1 b).sram (8 * i.sa + (lo - a)) (hi - lo)
    let n1 := pmc (bankWrite x.1 b lo bytes) (32 + b / 128) 0x2005 ls.length
    let done := (bankLines a i.bankBytes).length ≤ r.prog + ls.length
    (t, committed (modRun n1 b fun y => if done then nextIp (incAreg i y) else { y with prog := y.prog + ls.length }) b r)

/-- MATVEC: up to 224 lines of a bank operand read; with the last of them, the products, over the lines as each microstep read them (R181, R184). -/
def stepMatvec (t : Tck) (errs : List (Nat × List Nat)) (n : Node) (b : Nat) (r : BsuRunSt) (i : BInstr) : Tck × Node :=
  let a := r.areg.getD i.areg 0
  let all := if isBank i.sb then bankLines a i.bankBytes else []
  let ls := (all.drop r.prog).take 224
  let x := lightReads b errs false (fun _ => true) n ls
  if x.2 != .ok then lineStop t x.1 b r x.2
  else if r.prog + ls.length < all.length then
    (t, committed (modRun x.1 b fun y => { y with prog := y.prog + ls.length, got := y.got ++ readLines x.1 b ls }) b r)
  else
    let bank := if isBank i.sb then ((r.got ++ readLines x.1 b ls).drop (a % 64)).take i.bankBytes else []
    let n1 := modUnit x.1 b fun u => putResult u i ⟨matvec bank u i, [], 0, 0, 0⟩
    (t, committed (modRun n1 b fun y => nextIp (if isBank i.sb then incAreg i y else y)) b r)

/-- The register and loop operations (R176). -/
def stepControl (n : Node) (b : Nat) (r : BsuRunSt) (i : BInstr) : Node :=
  let u := unitOf n b
  let set (k v : Nat) (y : BsuRunSt) : BsuRunSt := { y with areg := setReg y.areg k (v % 2 ^ 30) }
  if i.op = bSeta then modRun n b fun y => nextIp (set i.areg (field (sramRead u i.sa 8) 0 8) y)
  else if i.op = bAdda then
    modRun n b fun y => nextIp (set i.areg (wrapInt 30 ((y.areg.getD i.areg 0 : Int) + 64 * signed 16 i.aux)) y)
  else if i.op = bSetl then modRun n b fun y => nextIp { y with lreg := setReg y.lreg i.lreg i.n }
  else
    let v := (r.lreg.getD i.lreg 0 + 65535) % 65536
    modRun n b fun y =>
      let z := { y with lreg := setReg y.lreg i.lreg v }
      if v = 0 then nextIp z else { z with ip := i.aux, prog := 0, got := [] }

/-- The vector operations. -/
def stepVector (t : Tck) (n0 : Node) (b : Nat) (i : BInstr) : Node :=
  let fr := takeFrees (if modOpen i then i.all else 0) n0
  let n := fr.2
  let x := if modOpen i then (fr.1.map (· % 2 ^ 32), 0) else vecResult (unitOf n b) i
  let row := narrowRow i.fd x.1
  let n1 := bump (countRow t n 7 row) (Rg.bsuNonfiniteElements (b / 128) (b % 128)) x.2
  modRun (modUnit n1 b fun u => putResult u i row) b nextIp

/-- The lines of a page, by offset in it, that an item reads: those of the positions that some row sees (R127). -/
def seenLines (d : Desc) (it : Item) (pg : Nat) : List Nat :=
  dedupNat ((seenAny d it.group it.granule pg).flatMap fun k => (List.range d.heads).flatMap fun h => (List.range 4).flatMap fun s =>
    bankLines (rowPlace d.heads d.dim d.kf d.vf s h k).1 (rowPlace d.heads d.dim d.kf d.vf s h k).2)

/-- A page as a bank-side run has read it: the item's own copy, which its running values are taken over (R181, R184). -/
def keepPage (n : Node) (it : Item) (f : Nat) (e : PageEnt) : Node :=
  modItem n it fun i => { i with copies := i.copies ++ [⟨f, pageRead n e 0 e.foot, [], none⟩] }

/-- One microstep of a granule item: the lines of one page that its rows see, in order, every access checked (R127, R181, R191, R192). -/
def stepItem (t : Tck) (errs : List (Nat × List Nat)) (n : Node) (b : Nat) (r : BsuRunSt) : Tck × Node :=
  match findShare n r.ent.home r.ent.handle, findItem n r.ent.home r.ent.handle r.ent.group r.ent.granule with
  | some s, some it =>
    let next (m : Node) : Tck × Node :=
      (t, committed (modRun m b fun y => { y with prog := y.prog + 1, halted := it.pages.length ≤ y.prog + 1 }) b r)
    match it.pages[r.prog]?, (it.pages[r.prog]?).bind fun p => pageAt n (fpnIdx p.2) with
    | some p, some e =>
      if pageGood n s.desc it p.2 then
        let x := lightReads b errs false (fun _ => true) n ((seenLines s.desc it p.1).map (e.addr - b * pchBytes + ·))
        if x.2 != .ok then lineStop t x.1 b r x.2 else next (keepPage x.1 it p.2 e)
      else next n
    | _, _ => next n
  | _, _ => (t, modUnit n b fun u => { u with run := none })

/-- May a BSU start a microstep now (R28, R33, R171, R183, R185, R186, R194): its 40 cycles, 115 units, end no later than the start of notch 62 and of its channel's
next refresh window. -/
def mayStep (t : Tck) (n : Node) (b : Nat) (r : BsuRunSt) : Bool :=
  !r.paused && r.deferred.isNone && !r.halted && !bsuShed n b && !stopped n && r.start ≤ t.notches && jobGoes t n r.ent
    && t.now + 115 ≤ t.at t.tick 62 && refreshClear t b 115

/-- `MICROSTEP` (R184): one microstep of BSU `b`, all its effects at once. `errs` names the bank lines in error by offset with their lanes, `sram` the
faults of its SRAM and scale queue: an uncorrectable word or a scale of another tag ends the run (R151, R195). -/
def microstep (b : Nat) (errs : List (Nat × List Nat)) (sram : List SramFault) (t : Tck) (n : Node) : Tck × Node :=
  match (unitOf n b).run with
  | none => (t, n)
  | some r =>
    let i := instrAt (unitOf n b) r
    if !mayStep t n b r || (r.ent.src == 0 && i.op == bHalt) then (t, n)
    else
      let n := modUnit (sramFaults t n sram) b fun u =>
        { u with sram := (stoodWords sram arrBsu).foldl (fun m x => Mem.write 0 m (8 * x.1) x.2) u.sram }
      if unitLost sram arrBsu then stopRun t n b r stMemUncorr 0
      else
        if r.ent.src = 1 then stepItem t errs n b r
        else if i.op = bLoad && isBank i.sa then stepLoad t errs n b r i
        else if i.op = bStore && isBank i.sd then stepStore t errs n b r i
        else if i.op = bMatvec then stepMatvec t errs n b r i
        else if i.op = bLoad || i.op = bStore then
          (t, committed (modRun (modUnit n b fun u => { u with sram := Mem.write 0 u.sram (8 * i.sd) (sramRead u i.sa i.bankBytes) }) b nextIp) b r)
        else if i.op ≤ bLoop then (t, committed (stepControl n b r i) b r)
        else (t, committed (stepVector t n b i) b r)

/-- `DEFERRED_LINE_DONE` (R194): the full decoder corrects and rewrites the line, and the microstep is replayed; or the line is poisoned and the run ends. -/
def deferredDone (b : Nat) (lanes : List Nat) (t : Tck) (n : Node) : Tck × Node :=
  match (unitOf n b).run with
  | none => (t, n)
  | some r =>
    match r.deferred with
    | none => (t, n)
    | some off =>
      let a := b * pchBytes + off
      let n1 := modRun n b fun y => { y with deferred := none }
      let r1 := { r with deferred := none }
      let fail (m : Node) : Tck × Node :=
        stopRun t (bump (uncorrectable t m a) (Rg.bsuDeferUncorr (b / 128) (b % 128)) 1) b r1 stMemUncorr off
      match fullDecode (erasureLane n (pchOf a)) lanes with
      | .clean => (t, n1)
      | .laneOnly => (t, n1)
      | .fixed l => (t, corrected t n1 a l)
      | .uncorr => fail n1
      | .beyond =>
        let (v, n2) := takeFree n1
        if v % 2 = 0 then fail n2 else (t, { n2 with t1 := Mem.write 0 n2.t1 a (leBytes 64 (v / 2)) })

/-- `BSU_PAUSE` (R185): a run that can finish no microstep before notch 62 pauses; for a granule item that is a slice overrun, its report stamped no
earlier than notch 62. -/
def bsuPause (b : Nat) (t : Tck) (n : Node) : Tck × Node :=
  match (unitOf n b).run with
  | none => (t, n)
  | some r =>
    if r.paused || r.halted || t.now + 115 ≤ t.at t.tick 62 then (t, n)
    else
      let n1 := modRun n b fun y => { y with paused := true }
      if r.ent.src = 1 then
        let x := sliceOverrun r.ent.home r.ent.handle r.ent.group r.ent.granule { t with now := max t.now (t.at t.tick 62) } n1
        ({ x.1 with now := t.now }, x.2)
      else (t, n1)

/-- `BSU_RESUME` (R185, R186): from notch 0 of the next tick, with compute not suspended. -/
def bsuResume (b : Nat) (t : Tck) (n : Node) : Node :=
  match (unitOf n b).run with
  | none => n
  | some r => if r.paused && !bsuShed n b && t.now + 115 ≤ t.at t.tick 62 then modRun n b fun y => { y with paused := false } else n

/-- Write the outputs of a `BSU_RUN` whose runs have all halted, and complete it (R169, R171). -/
def finishJob (t : Tck) (n : Node) (j : BsuJob) : Node :=
  match findCmd n j.handle with
  | none => n
  | some c =>
    let n1 := j.outs.foldl (fun m o => hostWrite m c.mem (c.f 40 8 + 64 * c.f 48 2 * (o.1 - j.first)) o.2) n
    complete t { n1 with bsu := { n1.bsu with jobs := n1.bsu.jobs.filter (·.handle != j.handle) } } j.handle stOk (bsuResult j.msteps 0xFFFF 0 0)

/-- `BSU_HALT` (R169): a run reaches HALT; none does once another run of its command has failed or the deadline tick has ended (R171). -/
def bsuHalt (b : Nat) (t : Tck) (n : Node) : Node :=
  match (unitOf n b).run with
  | none => n
  | some r =>
    if r.ent.src != 0 || r.paused || r.deferred.isSome || bsuShed n b || !jobGoes t n r.ent || (instrAt (unitOf n b) r).op != bHalt then n
    else
      let n1 := bump (modUnit n b fun u => { u with run := none }) (Rg.bsuRunsCount (b / 128) (b % 128)) 1
      match findCmd n r.ent.handle with
      | none => n1
      | some c =>
        let out := Mem.read 0 (unitOf n b).sram (64 * c.f 50 2) (64 * c.f 48 2)
        let n2 := modJob n1 r.ent.handle fun j => { j with outs := mset j.outs b out }
        match n2.bsu.jobs.find? (·.handle == r.ent.handle) with
        | some j => if j.fail.isNone && j.outs.length = j.count then finishJob t n2 j else n2
        | none => n2

/-- Stop every run of a `BSU_RUN` and take its entries out. -/
def dropJob (n : Node) (h : Nat) : Node :=
  let hit (e : BsuEntry) : Bool := e.src == 0 && e.handle == h
  let u (b : Bsu) : Bsu :=
    { b with
      area := b.area.filter fun e => !hit e
      run := match b.run with | some r => if hit r.ent then none else some r | none => none }
  { n with bsu := { n.bsu with units := n.bsu.units.map fun e => (e.1, u e.2), jobs := n.bsu.jobs.filter (·.handle != h) } }

/-- `BSU_RUN_FAIL` (R171): the other BSUs stop, and the command completes with its first failure. -/
def runFail (h : Nat) (t : Tck) (n : Node) : Node :=
  match n.bsu.jobs.find? (·.handle == h) with
  | none => n
  | some j =>
    match j.fail with
    | none => n
    | some f => complete t (dropJob n h) h f.status (bsuResult j.msteps f.bsu f.ip f.addr)

/-- `BSU_RUN_DEADLINE` (R171): at the end of the deadline tick. -/
def runDeadline (h : Nat) (t : Tck) (n : Node) : Node :=
  match n.bsu.jobs.find? (·.handle == h), findCmd n h with
  | some j, some c =>
    if t.tick ≤ c.deadline || j.fail.isSome then n
    else
      let b := (((List.range j.count).map (j.first + ·)).find? fun k => !mhas j.outs k).getD j.first
      let ip := match (unitOf n b).run with
        | some r => if r.ent.src == 0 && r.ent.handle == h then r.ip else 0
        | none => 0
      complete t (dropJob n h) h stDeadline (bsuResult j.msteps b ip 0)
  | _, _ => n

/-! ## Ownership (R187 to R190) -/

/-- Offending fields of `BSU_OWN` and `BSU_RELEASE` (R188). -/
def ownOffs (c : Cmd) : List Nat :=
  rsv c 40 63 ++ offIf (!mult (c.f 24 8) 4096) 24
    ++ offIf (c.f 32 8 == 0 || !mult (c.f 32 8) 4096 || 2 ^ 34 < c.f 32 8 || t1Bytes < c.f 24 8 + c.f 32 8) 32

/-- Is a frame held by the node's tenant: in an extent that a head holds, or in a page. -/
def frameOurs (n : Node) (f : Nat) : Bool :=
  (n.cxd.exts.any fun e => e.2.state == 2 && e.2.accepted != 0 && e.2.runs.any fun r => r.1 ≤ f && f < r.1 + r.2)
    || n.ter.pages.any fun p => p.2.terrace == 1 && p.2.addr ≤ f && f < p.2.addr + p.2.foot

/-- `BSU_OWN` ends once every copy is recalled: the frames enter the BSU state (R188). -/
def ownEnd (t : Tck) (n : Node) (j : OwnJob) : Node :=
  if j.lines.any fun l => (mget? n.cxd.dir l).isSome then n
  else
    let enter (m : Node) (f : Nat) : Node := setFrame m f (if frameSt m f = 5 then 3 else 2)
    let lost := (j.lines.filter fun l => mget? n.mic.poison (resolve n (64 * l)) == some 2 && !j.lostOld.contains l).length
    let n1 := j.frames.foldl enter n
    complete t { n1 with bsu := { n1.bsu with owns := n1.bsu.owns.filter (·.handle != j.handle) } } j.handle stOk
      (leBytes 4 j.frames.length ++ leBytes 4 j.lines.length ++ leBytes 4 lost)

/-- `BSU_OWN` (R188): later writes are held at once, the lines of the range are recalled from every head, then the frames change. -/
def bsuOwn (h : Nat) (t : Tck) (n : Node) : Node :=
  match n.bsu.owns.find? (·.handle == h) with
  | some j => ownEnd t n j
  | none =>
    withCmd n h opBsuOwn fun c =>
      checked t n c (ownOffs c)
        (let fs := nameFrames n (c.f 24 8) (c.f 32 8)
         if fs.any fun f => !frameOurs n f || isScratch n f then complete t n h stNotOwner []
         else
           let new := dedupNat (fs.filter fun f => frameSt n f < 2)
           let n1 := new.foldl (fun m f => setFrame m f (if frameSt m f = 1 then 5 else 4)) n
           let ls := heldInFrames n1 true fs
           let n2 := ls.foldl (recallLine t true) n1
           let j : OwnJob := ⟨h, new, ls, ls.filter fun l => mget? n.mic.poison (resolve n (64 * l)) == some 2⟩
           ownEnd t (setRunning { n2 with bsu := { n2.bsu with owns := n2.bsu.owns ++ [j] } } h) j)

/-- Apply, in arrival order, the held writes whose frames are no longer held (R188, R189). -/
def releaseHeldWrites (t : Tck) (n : Node) : Node :=
  let l := n.bsu.held
  l.foldl
    (fun m w =>
      if bsuOwned m w.1 then { m with bsu := { m.bsu with held := m.bsu.held ++ [w] } }
      else if w.2.isEmpty then poisonLine m w.1 1
      else (lineWrite t m w.1 w.2).1)
    { n with bsu := { n.bsu with held := [] } }

/-- Has a BSU among those named a run accepted before a command: a `BSU_RUN` accepted earlier, or a granule item whose descriptor came no later than the tick of the
command's acceptance (R189). -/
def busyBelow (n : Node) (c : Cmd) (bs : List Nat) : Bool :=
  (n.fe.cmds.any fun d => d.op == opBsuRun && d.seq < c.seq && (bsuSpan d).any bs.contains)
    || bs.any fun b => ((unitOf n b).area ++ ((unitOf n b).run.map (·.ent)).toList).any fun e =>
      e.src == 1 && (findShare n e.home e.handle).any fun s => s.got ≤ c.accTick

/-- `BSU_RELEASE` (R189): after every earlier run on the channels of the range. -/
def bsuRelease (h : Nat) (t : Tck) (n : Node) : Node :=
  withCmd n h opBsuRelease fun c =>
    checked t n c (ownOffs c)
      (let fs := dedupNat (nameFrames n (c.f 24 8) (c.f 32 8))
       if fs.any fun f => frameKind n f != 2 then badParam t n h 24
       else if fs.any (isScratch n) then complete t n h stNotOwner []
       else
         if busyBelow n c (dedupNat (fs.map pchOf)) then n
         else
           let n1 := fs.foldl (fun m f => setFrame m f (if frameSt m f = 3 then 1 else 0)) n
           complete t (releaseHeldWrites t n1) h stOk (leBytes 4 fs.length))

/-- Granule items queued on BSUs whose compute is suspended, and not started, go to the die queues (R186). -/
def shedItems (n : Node) : Node :=
  (n.bsu.units.filter fun u => bsuShed n u.1).foldl
    (fun m u =>
      let moved := u.2.area.filter (·.src == 1)
      let m1 := modUnit m u.1 fun x => { x with area := x.area.filter (·.src != 1) }
      moved.foldl
        (fun k e =>
          match findItem k e.home e.handle e.group e.granule with
          | some it => queueDie k it e.launch
          | none => k)
        m1)
    n

/-! ## The commands -/

/-- `BSU_RUN`. -/
def execBsuRun (h : Word) (s : State) : Outcome State Fault Refusal := onNode (bsuRun h.toNat) s
/-- `BSU_RUN_START`. -/
def execBsuRunStart (b : Fin 1024) (s : State) : Outcome State Fault Refusal := onNode (runStart b.val) s
/-- `DEFERRED_LINE_DONE`. -/
def execDeferredLineDone (b : Fin 1024) (lanes : List Nat) (s : State) : Outcome State Fault Refusal := onBoth (deferredDone b.val lanes) s
/-- `BSU_PAUSE`. -/
def execBsuPause (b : Fin 1024) (s : State) : Outcome State Fault Refusal := onBoth (bsuPause b.val) s
/-- `BSU_RESUME`. -/
def execBsuResume (b : Fin 1024) (s : State) : Outcome State Fault Refusal := onNode (bsuResume b.val) s
/-- `BSU_HALT`. -/
def execBsuHalt (b : Fin 1024) (s : State) : Outcome State Fault Refusal := onNode (bsuHalt b.val) s
/-- `BSU_RUN_FAIL`. -/
def execBsuRunFail (h : Word) (s : State) : Outcome State Fault Refusal := onNode (runFail h.toNat) s
/-- `BSU_RUN_DEADLINE`. -/
def execBsuRunDeadline (h : Word) (s : State) : Outcome State Fault Refusal := onNode (runDeadline h.toNat) s
/-- `BSU_LOAD`. -/
def execBsuLoad (h : Word) (s : State) : Outcome State Fault Refusal := onNode (bsuLoad h.toNat) s
/-- `BSU_OWN`. -/
def execBsuOwn (h : Word) (s : State) : Outcome State Fault Refusal := onNode (bsuOwn h.toNat) s
/-- `BSU_RELEASE`. -/
def execBsuRelease (h : Word) (s : State) : Outcome State Fault Refusal := onNode (bsuRelease h.toNat) s

end Sys2Proof.Machine
end

