-- ==== Sys2Proof/Machine/Image.lean ====
section
/-! DEFINITION. The image of a weight set (R237 to R243), its checks, and the entropy decoder (R243, R255). -/

namespace Sys2Proof.Machine

/-! ## The image -/

/-- A tensor-table entry (R239). -/
structure Tens where
  n : Nat
  kr : Nat
  fmt : Nat
  kind : Nat
  scaleT : Nat
  blocks : Nat
  index : Nat
  area : Nat
  code : Nat
  deriving DecidableEq, Repr

/-- LAYERS, TENSORS and IMAGE_LEN of an image (R238). -/
def imgLayers (b : Bytes) : Nat := field b 8 2
/-- TENSORS. -/
def imgTensors (b : Bytes) : Nat := field b 10 2
/-- IMAGE_LEN. -/
def imgLen (b : Bytes) : Nat := field b 16 8
/-- FLAGS.VARIANT. -/
def imgVariant (b : Bytes) : Bool := bitAt (field b 6 1) 0
/-- FLAGS.ENCRYPTED. -/
def imgEncrypted (b : Bytes) : Bool := bitAt (field b 6 1) 1

/-- Where tensor-table entry `t` lies. -/
def tensOff (b : Bytes) (t : Nat) : Nat := field b 32 8 + 48 * t

/-- Tensor-table entry `t`. -/
def tensAt (b : Bytes) (t : Nat) : Tens :=
  let o := tensOff b t
  ⟨field b o 4, field b (o + 4) 4, field b (o + 8) 1, field b (o + 9) 1, field b (o + 10) 2, field b (o + 12) 4, field b (o + 16) 8,
    field b (o + 24) 8, field b (o + 32) 8⟩

/-- Where layer descriptor `l` lies. -/
def layerOff (b : Bytes) (l : Nat) : Nat := field b 24 8 + 64 * l

/-- Layer descriptor `l` (R241). -/
def layerDesc (b : Bytes) (l : Nat) : Bytes := padTo 64 (slice b (layerOff b l) 64)

/-- Tiles of a matrix (R240). -/
def Tens.tiles (x : Tens) : Nat := cdiv x.n 128 * cdiv x.kr 128

/-- Expanded bytes of a tensor (R240). -/
def Tens.expLen (x : Tens) : Nat :=
  match x.kind with
  | 0 => x.tiles * (16384 * fmtBits x.fmt / 8)
  | 1 => x.tiles * 512
  | _ => 4 * x.n

/-! Layer descriptor fields. -/

/-- HIDDEN. -/
def ldHidden (d : Bytes) : Nat := field d 0 4
/-- QH. -/
def ldQh (d : Bytes) : Nat := byteAt d 6 * byteAt d 7 * byteAt d 5
/-- HEAD_DIM. -/
def ldDim (d : Bytes) : Nat := field d 8 2
/-- Tensor number in the field at `o`. -/
def ldT (d : Bytes) (o : Nat) : Nat := field d o 2

/-- N and KR that a layer descriptor gives a tensor it names, by the descriptor's byte offset of the name (R241). -/
def ldShape (d : Bytes) (o : Nat) : Nat × Nat :=
  let q := ldQh d * ldDim d
  let k := byteAt d 6 * byteAt d 7 * ldDim d
  let h := ldHidden d
  match o with
  | 16 => (q, h)
  | 18 => (k, h)
  | 20 => (k, h)
  | 22 => (h, q)
  | 28 => (q, 1)
  | 30 => (k, 1)
  | 32 => (k, 1)
  | _ => (h, 1)

/-- The matrix, with its scale tensor, that a descriptor names. -/
def ldMatrix (b d : Bytes) (o : Nat) : List Nat :=
  let t := ldT d o
  t :: (if fmtScaled (tensAt b t).fmt then [(tensAt b t).scaleT] else [])

/-- An optional vector. -/
def ldVec (d : Bytes) (o : Nat) : List Nat := if ldT d o = 0xFFFF then [] else [ldT d o]

/-- The tensors of a layer that stage one needs, and those that the output projection needs besides, in stream order (R251). A tensor that a layer names twice
streams once. DEDUCED: log entry 81. -/
def layerTensors (b : Bytes) (l : Nat) : List Nat × List Nat :=
  let d := layerDesc b l
  let first := dedupNat (ldT d 24 :: ((if byteAt d 4 = 1 then ldVec d 26 else []) ++ ldMatrix b d 16 ++ ldMatrix b d 18 ++ ldMatrix b d 20
    ++ ldVec d 28 ++ ldVec d 30 ++ ldVec d 32))
  (first, (dedupNat (ldMatrix b d 22 ++ ldVec d 34)).filter fun t => !first.contains t)

/-- The blocks of tensors, in order: (tensor, block). -/
def blocksOf (b : Bytes) (ts : List Nat) : List (Nat × Nat) := ts.flatMap fun t => (List.range (tensAt b t).blocks).map fun j => (t, j)

/-- A layer's stream (R251). -/
def streamOf (b : Bytes) (l : Nat) : List (Nat × Nat) := blocksOf b ((layerTensors b l).1 ++ (layerTensors b l).2)

/-! Checks (R238 to R243, R245). Each answers the image byte offsets of what it finds wrong. -/

/-- Does a structure lie outside the image, or off its alignment. -/
def badPlace (b : Bytes) (off len align : Nat) : Bool := imgLen b < off + len || !mult off align

/-- The header (R238). -/
def headerFaults (b : Bytes) : List Nat :=
  offIf (field b 0 4 != 0x53575744) 0 ++ offIf (field b 4 2 != 1) 4 ++ offIf (4 ≤ field b 6 1) 6 ++ offIf (field b 7 1 != 0) 7
    ++ offIf (imgLayers b == 0 || 1024 < imgLayers b) 8 ++ offIf (imgTensors b == 0 || 16384 < imgTensors b) 10
    ++ offIf (field b 12 4 != 0) 12 ++ offIf (imgLen b < 128) 16 ++ offIf (badPlace b (field b 24 8) (64 * imgLayers b) 64) 24
    ++ offIf (badPlace b (field b 32 8) (48 * imgTensors b) 16) 32 ++ offIf (!imgVariant b && field b 40 48 != 0) 40
    ++ offIf (field b 88 40 != 0) 88

/-- Tensor-table entry `t` (R239, R240). -/
def tensFaults (b : Bytes) (t : Nat) : List Nat :=
  let x := tensAt b t
  let o := tensOff b t
  let s := tensAt b x.scaleT
  let scaled := x.kind == 0 && fmtScaled x.fmt
  offIf (x.n == 0 || 2 ^ 20 < x.n) o
    ++ offIf (if x.kind < 2 then x.kr == 0 || !mult x.kr 32 else x.kr != 1) (o + 4)
    ++ offIf (if x.kind = 0 then 8 ≤ x.fmt else x.fmt != 0) (o + 8) ++ offIf (2 < x.kind) (o + 9)
    ++ offIf (if scaled then imgTensors b ≤ x.scaleT || s.kind != 1 || s.n != x.n || s.kr != x.kr else x.scaleT != 0xFFFF) (o + 10)
    ++ offIf (x.blocks != cdiv x.expLen 4096) (o + 12) ++ offIf (badPlace b x.index (16 * x.blocks) 16) (o + 16)
    ++ offIf (badPlace b x.area 0 64) (o + 24) ++ offIf (x.code != 0 && badPlace b x.code 272 16) (o + 32)
    ++ offIf (field b (o + 40) 8 != 0) (o + 40)

/-- A tensor that a descriptor names, of a kind, with its shape (R241). -/
def nameFault (b d : Bytes) (o kind at_ : Nat) : List Nat :=
  let x := tensAt b (ldT d o)
  offIf (imgTensors b ≤ ldT d o || x.kind != kind || x.n != (ldShape d o).1 || x.kr != (ldShape d o).2) (at_ + o)

/-- Layer descriptor `l` (R241). -/
def layerFaults (b : Bytes) (l : Nat) : List Nat :=
  let d := layerDesc b l
  let o := layerOff b l
  let eps := field d 12 4
  let opt (k : Nat) : List Nat := if ldT d k = 0xFFFF then [] else nameFault b d k 2 o
  offIf (ldHidden d < 128 || 65536 < ldHidden d || !mult (ldHidden d) 128) o ++ offIf (1 < byteAt d 4) (o + 4)
    ++ offIf (byteAt d 5 == 0 || 16 < byteAt d 5) (o + 5) ++ offIf (byteAt d 6 == 0 || 32 < byteAt d 6) (o + 6)
    ++ offIf (byteAt d 7 == 0 || 8 < byteAt d 7) (o + 7) ++ offIf (ldDim d < 32 || 256 < ldDim d || !mult (ldDim d) 32) (o + 8)
    ++ offIf (7 < byteAt d 10) (o + 10) ++ offIf (7 < byteAt d 11) (o + 11)
    ++ offIf (bitAt eps 31 || bits eps 23 8 == 0 || bits eps 23 8 == 255) (o + 12)
    ++ nameFault b d 16 0 o ++ nameFault b d 18 0 o ++ nameFault b d 20 0 o ++ nameFault b d 22 0 o ++ nameFault b d 24 2 o
    ++ (if byteAt d 4 = 1 then nameFault b d 26 2 o else offIf (ldT d 26 != 0xFFFF) (o + 26))
    ++ opt 28 ++ opt 30 ++ opt 32 ++ opt 34 ++ offIf (field d 36 28 != 0) (o + 36)

/-- What breaks R238 to R241. -/
def clearPartFaults (b : Bytes) : List Nat :=
  let h := headerFaults b
  if h.isEmpty then (List.range (imgTensors b)).flatMap (tensFaults b) ++ (List.range (imgLayers b)).flatMap (layerFaults b) else h

/-! Reading the parts that may be encrypted. -/

/-- Bytes of a loaded set's image in clear; those of an encrypted one through its binding key. -/
def imgClear (n : Node) (k : Nat) (w : WSet) (off len : Nat) : Bytes :=
  let s := padTo len (slice w.image off len)
  if imgEncrypted w.image then padTo len (Config.imageClear (mgetD n.sec.bind k []) off s) else s

/-- An index entry (R242). -/
def idxEnt (n : Node) (k : Nat) (w : WSet) (t j : Nat) : Bytes := imgClear n k w ((tensAt w.image t).index + 16 * j) 16

/-- CLEN of an index entry. -/
def ixLen (e : Bytes) : Nat := field e 4 2
/-- DLEN. -/
def ixDlen (e : Bytes) : Nat := field e 6 2
/-- RAW. -/
def ixRaw (e : Bytes) : Bool := bitAt (byteAt e 12) 0

/-- The stored bytes of a block, in clear. -/
def storedBlock (n : Node) (k : Nat) (w : WSet) (t j : Nat) : Bytes :=
  let e := idxEnt n k w t j
  imgClear n k w ((tensAt w.image t).area + field e 0 4) (ixLen e)

/-- Does the image's own copy of a block pass its CRC. -/
def crcOk (n : Node) (k : Nat) (w : WSet) (t j : Nat) : Bool := crc32c (storedBlock n k w t j) == field (idxEnt n k w t j) 8 4

/-! The entropy decoder (R243, R255). -/

/-- Code lengths of symbols 0 to 256. -/
def codeLens (n : Node) (k : Nat) (w : WSet) (t : Nat) : List Nat :=
  (imgClear n k w (tensAt w.image t).code 257).map (·.toNat)

/-- The symbols of one length, rising, with their canonical codes; `first` is the first code of the length. -/
def codesOfLen (lens : List Nat) (len first : Nat) : List (Nat × Nat) :=
  let syms := (List.range 257).filter fun s => lens.getD s 0 == len
  (List.range syms.length).map fun i => (first + i, syms.getD i 0)

/-- The canonical codes by length from `len` on: (length, codes with their symbols). -/
def codeTable (lens : List Nat) : Nat → Nat → Nat → List (Nat × List (Nat × Nat))
  | 0, _, _ => []
  | f + 1, len, first =>
    let c := codesOfLen lens len first
    (len, c) :: codeTable lens f (len + 1) ((first + c.length) * 2)

/-- The bits of bytes, from bit 0 of byte 0 upward. -/
def bitsOf (b : Bytes) : List Bool := b.flatMap fun x => (List.range 8).map fun i => bitAt x.toNat i

/-- Decode until the end of block: the bytes, and the bits used. Nothing when the bits end first, or when more than `room` bytes come. -/
def decodeBits (tab : List (Nat × List (Nat × Nat))) : List Bool → Nat → Nat → Nat → Nat → List Nat → Option (List Nat × Nat)
  | [], _, _, _, _, _ => none
  | b :: rest, code, len, used, room, acc =>
    let c := 2 * code + b2n b
    let hit := ((tab.find? (·.1 == len + 1)).bind fun e => e.2.find? (·.1 == c)).map (·.2)
    match hit with
    | none => decodeBits tab rest c (len + 1) (used + 1) room acc
    | some s =>
      if s = 256 then some (acc.reverse, used + 1)
      else
        match room with
        | 0 => none
        | r + 1 => decodeBits tab rest 0 0 (used + 1) r (s :: acc)

/-- The output of the decoder for a coded block, or nothing when the block is defective (R255). -/
def decodeBlock (lens : List Nat) (stored : Bytes) (dlen : Nat) : Option Bytes :=
  match decodeBits (codeTable lens 15 1 0) (bitsOf stored) 0 0 0 dlen [] with
  | some (l, used) => if l.length = dlen && cdiv used 8 = stored.length then some (l.map fun x => BitVec.ofNat 8 x) else none
  | none => none

/-- The base of a variant. -/
def baseSet (n : Node) (w : WSet) : Option WSet := if w.base = 0 then none else mget? n.wts.sets w.base

/-- The expanded block of a base set, or of a raw block (R237). -/
def ownBlock (n : Node) (k : Nat) (w : WSet) (t j : Nat) : Option Bytes :=
  let e := idxEnt n k w t j
  if ixRaw e then some (storedBlock n k w t j) else decodeBlock (codeLens n k w t) (storedBlock n k w t j) (ixDlen e)

/-- Expanded block `j` of tensor `t` (R237), or nothing when it is defective. -/
def expandedBlock (n : Node) (k : Nat) (w : WSet) (t j : Nat) : Option Bytes :=
  match ownBlock n k w t j, baseSet n w with
  | some d, some b => if ixRaw (idxEnt n k w t j) then some d else (ownBlock n w.base b t j).map fun r => xorBytes r d
  | x, _ => x

/-- The expanded bytes of a tensor. -/
def tensorBytes (n : Node) (k : Nat) (w : WSet) (t : Nat) : Bytes :=
  (List.range (tensAt w.image t).blocks).flatMap fun j => (expandedBlock n k w t j).getD []

/-- Entry `i` of an FP32 vector. -/
def vecOf (n : Node) (k : Nat) (w : WSet) (t : Nat) : List Nat :=
  let b := tensorBytes n k w t
  (List.range (tensAt w.image t).n).map fun i => field b (4 * i) 4

/-- What breaks R242 in the index table of a tensor. -/
def indexFaults (n : Node) (k : Nat) (w : WSet) (t : Nat) : List Nat :=
  let x := tensAt w.image t
  (List.range x.blocks).flatMap fun j =>
    let e := idxEnt n k w t j
    let o := x.index + 16 * j
    offIf (imgLen w.image < x.area + field e 0 4 + ixLen e) o ++ offIf (ixLen e == 0 || 4096 < ixLen e) (o + 4)
      ++ offIf (if j + 1 = x.blocks then ixDlen e == 0 || 4096 < ixDlen e else ixDlen e != 4096) (o + 6)
      ++ offIf (2 ≤ byteAt e 12 || (ixRaw e && ixLen e != ixDlen e) || (!ixRaw e && x.code == 0)) (o + 12) ++ offIf (field e 13 3 != 0) (o + 13)

/-- What breaks R243 in the code table of a tensor. -/
def codeFaults (n : Node) (k : Nat) (w : WSet) (t : Nat) : List Nat :=
  let x := tensAt w.image t
  if x.code = 0 then []
  else
    let l := codeLens n k w t
    let kraft := (l.map fun c => if c = 0 then 0 else 2 ^ (15 - c)).foldl (· + ·) 0
    offIf (l.any (15 < ·) || kraft != 2 ^ 15 || l.getD 256 0 == 0) x.code ++ offIf (!allZero (imgClear n k w (x.code + 257) 15)) (x.code + 257)

/-- The vectors that R245 holds to R158. -/
def checkedVecs (b : Bytes) : List Nat :=
  dedupNat ((List.range (imgLayers b)).flatMap fun l =>
    let d := layerDesc b l
    ldT d 24 :: ([26, 28, 30, 32, 34].flatMap (ldVec d)))

/-- What breaks R242, R243 or R158 in a set whose bytes can be read (R245). -/
def hiddenFaults (n : Node) (k : Nat) (w : WSet) : List Nat :=
  let ts := List.range (imgTensors w.image)
  let f := ts.flatMap fun t => indexFaults n k w t ++ codeFaults n k w t
  let baseRead := match baseSet n w with | some b => b.bound | none => true
  if !f.isEmpty || !baseRead then f
  else ((checkedVecs w.image).filter fun t => (vecOf n k w t).any fun v => !rescaleOk v).map fun t => (tensAt w.image t).area

/-- Does a variant's table differ from its base's (R245): shapes, and expanded lengths where both can be read. -/
def differsFrom (n : Node) (k : Nat) (w : WSet) (kb : Nat) (b : WSet) : Bool :=
  (List.range (imgTensors w.image)).any fun t =>
    let x := tensAt w.image t
    let y := tensAt b.image t
    imgTensors b.image ≤ t || x.n != y.n || x.kr != y.kr || x.fmt != y.fmt || x.kind != y.kind || x.blocks != y.blocks
      || (!imgEncrypted w.image && b.bound
          && (List.range x.blocks).any fun j => ixDlen (idxEnt n k w t j) != ixDlen (idxEnt n kb b t j))

end Sys2Proof.Machine
end

