-- ==== Sys2Proof/Machine/Layout.lean ====
section
/-! DEFINITION. Where the layers of a weight set lie in terrace 1 (R175, R219), and what is read back from there. A layer's space is its runs end to end. -/

namespace Sys2Proof.Machine

/-! ## Runs read and written as one space -/

/-- Write bytes at an offset of the space that runs make. -/
def runWrite (t : Tck) : List (Nat × Nat) → Nat → Bytes → Node → Node
  | [], _, _, n => n
  | (a, l) :: rs, off, x, n =>
    if l ≤ off then runWrite t rs (off - l) x n
    else
      let n1 := (t1Write t n (a + off) (x.take (l - off))).1
      if x.length ≤ l - off then n1 else runWrite t rs 0 (x.drop (l - off)) n1

/-- The terrace-1 ranges of `len` bytes at an offset of the space that runs make. -/
def runRanges : List (Nat × Nat) → Nat → Nat → List (Nat × Nat)
  | [], _, _ => []
  | (a, l) :: rs, off, len =>
    if l ≤ off then runRanges rs (off - l) len
    else if len ≤ l - off then [(a + off, len)]
    else (a + off, l - off) :: runRanges rs 0 (len - (l - off))

/-- The bytes of such a range. -/
def runRead (n : Node) (rs : List (Nat × Nat)) (off len : Nat) : Bytes := (runRanges rs off len).flatMap fun r => Mem.read 0 n.t1 r.1 r.2

/-- The kind of the first poison among them. -/
def spacePoison (n : Node) (rs : List (Nat × Nat)) (off len : Nat) : Option Nat := (runRanges rs off len).findSome? fun r => t1Poison n r.1 r.2

/-- Runs taken for a new object: what stood there is gone, poison included. -/
def clearRuns (n : Node) (rs : List (Nat × Nat)) : Node :=
  rs.foldl (fun m r => { m with
    t1 := Mem.clear m.t1 r.1 r.2
    mic := { m.mic with poison := m.mic.poison.filter fun x => x.1 < r.1 || r.1 + r.2 ≤ x.1 } }) n

/-! ## Expanded layers (R175) -/

/-- Bytes from one row of a matrix to the next in the bank operand layout. -/
def Tens.pitch (x : Tens) : Nat := cdiv (x.kr * fmtBits x.fmt / 8) 64 * 64

/-- Bytes of the scales of one row. -/
def Tens.rowScales (x : Tens) : Nat := if fmtScaled x.fmt then x.kr / 32 else 0

/-- The tensors of a layer that stand as operands: vectors, and matrices each with its scales. -/
def layerOps (b : Bytes) (l : Nat) : List Nat := ((layerTensors b l).1 ++ (layerTensors b l).2).filter fun t => (tensAt b t).kind != 1

/-- The operands of stage one (`false`) and of the output projection (R251). -/
def stageOps (b : Bytes) (l : Nat) (last : Bool) : List Nat :=
  if last then ldT (layerDesc b l) 22 :: ldVec (layerDesc b l) 34 else (layerTensors b l).1.filter fun t => (tensAt b t).kind != 1

/-- Bytes of an operand. -/
def opLen (x : Tens) : Nat := if x.kind = 0 then x.n * (x.pitch + x.rowScales) else 4 * x.n

/-- Where an operand begins in its layer's space: each stands in whole frames, in stream order. DESIGN CHOICE: log entry 68. -/
def opBase (b : Bytes) (t : Nat) : List Nat → Nat
  | [] => 0
  | o :: r => if o = t then 0 else cdiv (opLen (tensAt b o)) 4096 * 4096 + opBase b t r

/-- Where operand `t` of a layer begins. -/
def opAt (b : Bytes) (l t : Nat) : Nat := opBase b t (layerOps b l)

/-- Where expanded block `j` of a matrix goes: each row of a tile to its channel's row (R175, R240). -/
def matrixPlaces (base : Nat) (x : Tens) (j : Nat) (data : Bytes) : List (Nat × Bytes) :=
  let rb := 128 * fmtBits x.fmt / 8
  let nb := cdiv x.kr 128
  (List.range (4096 / rb)).filterMap fun i =>
    let r := j * (4096 / rb) + i
    let c := r / 128 / nb * 128 + r % 128
    let k := r / 128 % nb * 128
    if c < x.n then
      let len := min rb ((x.kr - k) * fmtBits x.fmt / 8)
      some (base + c * x.pitch + k * fmtBits x.fmt / 8, padTo (cdiv len 64 * 64) (slice data (i * rb) len))
    else none

/-- Where expanded block `j` of the scale tensor of matrix `m` goes: the scales of all rows follow the rows. -/
def scalePlaces (base : Nat) (m : Tens) (j : Nat) (data : Bytes) : List (Nat × Bytes) :=
  let nb := cdiv m.kr 128
  (List.range 1024).filterMap fun i =>
    let q := 1024 * j + i
    let c := q / 128 / nb * 128 + q % 128
    let k := q / 128 % nb * 4
    if c < m.n then some (base + m.n * m.pitch + c * m.rowScales + k, slice data (4 * i) (min 4 (m.rowScales - k))) else none

/-- Where expanded block `j` of tensor `t` of a layer goes in the layer's space. -/
def blockPlaces (b : Bytes) (l t j : Nat) (data : Bytes) : List (Nat × Bytes) :=
  let x := tensAt b t
  match x.kind with
  | 0 => matrixPlaces (opAt b l t) x j data
  | 1 => ((layerOps b l).filter fun m => (tensAt b m).kind == 0 && (tensAt b m).scaleT == t).flatMap fun m => scalePlaces (opAt b l m) (tensAt b m) j data
  | _ => [(opAt b l t + 4096 * j, data)]

/-- Bytes of terrace 1 for one layer, expanded. -/
def layerBytes (b : Bytes) (l : Nat) : Nat := ((layerOps b l).map fun t => cdiv (opLen (tensAt b t)) 4096 * 4096).foldl (· + ·) 0

/-! ## Compressed layers (R219) -/

/-- Bytes kept for each block of a tiles window: the stored block, and for a variant the base's after it (R250). DESIGN CHOICE: log entry 68. -/
def tilePitch (w : WSet) : Nat := if w.base = 0 then 4096 else 8192

/-- Bytes of a layer in the form of its set. -/
def formBytes (w : WSet) (l : Nat) : Nat := if w.form = 0 then layerBytes w.image l else tilePitch w * (streamOf w.image l).length

/-- The size of a window slot: the set's largest layer (ch. 09, the weight window). -/
def slotBytes (w : WSet) : Nat := ((List.range (imgLayers w.image)).map (formBytes w)).foldl max 0

/-- Does a layer stand expanded in terrace 1: in a pages window, or pinned at level 1 (R212, R219). -/
def expandedIn (w : WSet) (l : Nat) : Bool := w.form == 0 || w.pins.any (·.layer == l)

/-- The runs of a layer: its own space, or its slot. -/
def layerRuns (w : WSet) (l : Nat) : List (Nat × Nat) :=
  match w.pins.find? (·.layer == l) with
  | some p => p.runs
  | none => ((w.slots.find? (·.layer == some l)).map (·.runs)).getD []

/-- The place of block (t, j) in its layer's stream. -/
def streamIdx (b : Bytes) (l t j : Nat) : Nat := (streamOf b l).findIdx (· == (t, j))

/-- The stored bytes of a block of a tiles window, and its base's. -/
def slotStored (n : Node) (k : Nat) (w : WSet) (l t j : Nat) : Bytes × Bytes :=
  let off := tilePitch w * streamIdx w.image l t j
  (runRead n (layerRuns w l) off (ixLen (idxEnt n k w t j)),
    match baseSet n w with
    | some b => runRead n (layerRuns w l) (off + 4096) (ixLen (idxEnt n w.base b t j))
    | none => [])

/-- Does a coded block need its base's. -/
def needsBase (n : Node) (k : Nat) (w : WSet) (t j : Nat) : Bool := (baseSet n w).isSome && !ixRaw (idxEnt n k w t j)

/-- A block expanded from stored bytes, its own and its base's: which set's block is defective, or the bytes (R237, R255). -/
def expandStored (n : Node) (k : Nat) (w : WSet) (t j : Nat) (own base : Bytes) : Except Nat Bytes :=
  let one (k : Nat) (w : WSet) (x : Bytes) : Option Bytes :=
    if ixRaw (idxEnt n k w t j) then some x else decodeBlock (codeLens n k w t) x (ixDlen (idxEnt n k w t j))
  match one k w own, baseSet n w with
  | none, _ => .error k
  | some d, none => .ok d
  | some d, some b =>
    if ixRaw (idxEnt n k w t j) then .ok d
    else
      match one w.base b base with
      | none => .error w.base
      | some r => .ok (xorBytes r d)

/-- An expanded block of a layer as a tiles window holds it. -/
def slotBlock (n : Node) (k : Nat) (w : WSet) (l t j : Nat) : Bytes :=
  let s := slotStored n k w l t j
  match expandStored n k w t j s.1 s.2 with
  | .ok d => d
  | .error _ => []

/-- A tensor of a layer in a tiles window, expanded. -/
def slotTensor (n : Node) (k : Nat) (w : WSet) (l t : Nat) : Bytes := (List.range (tensAt w.image t).blocks).flatMap (slotBlock n k w l t)

/-! ## What terrace 2 holds of a set -/

/-- The sectors that a layer needs of its set: index tables, code tables and block areas (R245). Node firmware keeps every sector of a set that it cannot read.
DEDUCED: log entry 33. -/
def layerSecs (n : Node) (k : Nat) (w : WSet) (l : Nat) : List Nat :=
  let of (o len : Nat) : List Nat := sectors o len
  if !w.bound then of 0 w.len
  else
    dedupNat (((layerTensors w.image l).1 ++ (layerTensors w.image l).2).flatMap fun t =>
      let x := tensAt w.image t
      of x.index (16 * x.blocks) ++ (if x.code = 0 then [] else of x.code 272)
        ++ (List.range x.blocks).flatMap fun j => of (x.area + field (idxEnt n k w t j) 0 4) (ixLen (idxEnt n k w t j)))

/-- A set with the sectors of its layers. -/
def withSecs (n : Node) (k : Nat) (w : WSet) : WSet := { w with secs := w.layers.map fun l => (l, layerSecs n k w l) }

/-- The pinned sectors of a set. -/
def pinnedSecs (w : WSet) : List Nat := dedupNat ((w.secs.filter fun e => layerPinned w e.1).flatMap (·.2))

/-! ## What a stage reads -/

/-- A vector of a layer in terrace 1. -/
def layerVec (n : Node) (k : Nat) (w : WSet) (l t : Nat) : List Nat :=
  let len := (tensAt w.image t).n
  let b := if expandedIn w l then runRead n (layerRuns w l) (opAt w.image l t) (4 * len) else slotTensor n k w l t
  (List.range len).map fun i => field b (4 * i) 4

/-- The kind of the first poison among the lines of a layer that a stage reads. -/
def stagePoison (n : Node) (w : WSet) (l : Nat) (last : Bool) : Option Nat :=
  if expandedIn w l then (stageOps w.image l last).findSome? fun t => spacePoison n (layerRuns w l) (opAt w.image l t) (opLen (tensAt w.image t))
  else none

/-! ## Room -/

/-- Slots of a new window, as many of `k` as terrace 1 has room for. -/
def newSlots (len : Nat) : Nat → Node → Node × List WSlot
  | 0, n => (n, [])
  | k + 1, n =>
    match takeRuns n len (List.range 1024) with
    | none => (n, [])
    | some r =>
      let x := newSlots len k (holdRuns n r)
      (x.1, ⟨r, none, 0, []⟩ :: x.2)

end Sys2Proof.Machine
end

