-- ==== Sys2Proof/Machine/Weights.lean ====
section
/-! DEFINITION. Weight sets: `WEIGHTS_STREAM` and `WEIGHTS_EVICT` (R244 to R249), the window (R218, R219), the expanders (R250 to R253), damaged and defective
blocks (R254, R255). -/

namespace Sys2Proof.Machine

open Host (Outcome)

/-! ## Room and pins -/

/-- Is `part` more than `pct` percent of `whole`. -/
def overPct (part whole pct : Nat) : Bool := whole * pct < part * 100

/-- Sectors pinned at terrace 2: pages pinned there, and those that the pinned layers of loaded sets need (R212, R213, R245). -/
def pinned2 (n : Node) : Nat :=
  let ps : List Nat := n.ter.pages.filterMap fun e => if e.2.pin == 2 then some (e.2.foot / 4096) else none
  let ws : List Nat := n.wts.sets.map fun w => (pinnedSecs w.2).length
  (ps ++ ws).foldl (· + ·) 0

/-- Frames pinned at terrace 1: pages, and layers pinned at level 1. -/
def pinned1 (n : Node) : Nat :=
  let ps : List Nat := n.ter.pages.filterMap fun e => if e.2.pin == 1 then some (e.2.foot / 4096) else none
  let ws : List Nat := n.wts.sets.flatMap fun w => (w.2.pins.filter (·.pinned)).flatMap fun p => p.runs.map fun r => r.2 / 4096
  (ps ++ ws).foldl (· + ·) 0

/-! ## The window (R218) -/

/-- Change a weight set. -/
def modSet (n : Node) (k : Nat) (f : WSet → WSet) : Node := { n with wts := { n.wts with sets := mmod n.wts.sets k f } }

/-- Does an outstanding command name a weight set (R249). -/
def namesSet (k : Nat) (c : Cmd) : Bool :=
  if c.op = opAttendBlock then c.f 48 4 == k
  else if c.op = opWeightsStream then c.f 24 4 == k || (c.f 28 1 == 0 && c.f 32 4 == k)
  else if c.op = opWeightsBind then c.f 24 4 == k
  else (c.op = opMigrate || c.op = opPin || c.op = opUnpin || c.op = opPlaceHint) && c.f 40 1 % 4 == 2 && c.f 24 4 == k

/-- Is a set the base of a loaded variant. -/
def isBase (n : Node) (k : Nat) : Bool := n.wts.sets.any fun e => e.2.base == k

/-- An eviction of the set stands ahead of the command in acceptance order (R249). -/
def evictAhead (n : Node) (c : Cmd) (k : Nat) : Bool :=
  !isBase n k && n.fe.cmds.any fun d => d.op == opWeightsEvict && d.f 24 4 == k && d.seq < c.seq

/-- The set a command names, unless it is to it as though it were not loaded. -/
def setFor (n : Node) (c : Cmd) (k : Nat) : Option WSet := if evictAhead n c k then none else mget? n.wts.sets k

/-- A set and its base are bound (R246, R248). -/
def usable (n : Node) (w : WSet) : Bool := w.bound && (match baseSet n w with | some b => b.bound | none => true)

/-- Is a layer marked defective, in the set or in its base (R255). -/
def layerDefective (n : Node) (w : WSet) (l : Nat) : Bool :=
  w.defective.contains l || (match baseSet n w with | some b => b.defective.contains l | none => false)

/-- The blocks of a layer written in terrace 1: in its own space, or its slot. -/
def blocksIn (w : WSet) (l : Nat) : Option (List Nat) :=
  match w.pins.find? (·.layer == l) with
  | some p => some p.blocks
  | none => (w.slots.find? (·.layer == some l)).map (·.blocks)

/-- Are the first `k` blocks of a layer's stream, or all of them, in terrace 1. -/
def layerHas (w : WSet) (l lo hi : Nat) : Bool :=
  match blocksIn w l with
  | some b => (List.range (hi - lo)).all fun i => b.contains (lo + i)
  | none => false

/-- Blocks of a layer that stage one needs, and of the whole stream. -/
def layerCounts (w : WSet) (l : Nat) : Nat × Nat :=
  let x := layerTensors w.image l
  ((blocksOf w.image x.1).length, (streamOf w.image l).length)

/-- Is a whole layer in terrace 1. -/
def layerWhole (w : WSet) (l : Nat) : Bool := layerHas w l 0 (layerCounts w l).2

/-- Layers FIRST to FIRST + COUNT - 1, modulo the layer count. -/
def layerSpan (w : WSet) (first count : Nat) : List Nat :=
  dedupNat ((List.range count).map fun i => (first + i) % imgLayers w.image)

/-- The layers of a KIND 2 selection (R209). -/
def selLayers (c : Cmd) (w : WSet) : List Nat :=
  w.layers.filter fun l => c.f 32 4 ≤ l && (c.f 36 4 == 0 || l < c.f 32 4 + c.f 36 4)

/-- The layers of a set that a command names (R218). -/
def layersNamed (k : Nat) (w : WSet) (c : Cmd) : List Nat :=
  if !namesSet k c then []
  else if c.op = opAttendBlock then [c.f 32 2]
  else if c.op = opWeightsStream then (if c.f 28 1 = 1 then layerSpan w (c.f 32 2) (c.f 34 2) else [])
  else if c.op = opMigrate || c.op = opPin || c.op = opUnpin || c.op = opPlaceHint then selLayers c w
  else []

/-- The layers of a set that accepted commands not complete name (R218). -/
def namedLayers (n : Node) (k : Nat) (w : WSet) : List Nat := n.fe.cmds.flatMap (layersNamed k w)

/-- Is a layer being streamed. -/
def streaming (w : WSet) (l : Nat) : Bool := w.streams.any (·.layer == l)

/-- The slot for a new layer: free of named and of streaming layers, the least recently used. -/
def victimSlot (n : Node) (k : Nat) (w : WSet) : Option WSlot :=
  let named := namedLayers n k w
  leastBy (·.used) (w.slots.filter fun s =>
    match s.layer with
    | some l => !named.contains l && !streaming w l
    | none => true)

/-- Layers unpinned at level 1 leave with the next eviction (R218). -/
def dropUnpinned (n : Node) (k : Nat) (w : WSet) : Node :=
  let gone := w.pins.filter fun p => !p.pinned && !streaming w p.layer
  modSet (gone.foldl (fun m p => dropRuns m p.runs) n) k fun x => { x with pins := x.pins.filter fun p => !gone.contains p }

/-- Give a wanted layer a slot and begin its stream; a layer in terrace 1 or on its way needs none, one without a slot goes on waiting. -/
def serveLayer (k : Nat) (n : Node) (l : Nat) : Node :=
  match mget? n.wts.sets k with
  | none => n
  | some w =>
    let done (m : Node) : Node := modSet m k fun x => { x with wanted := x.wanted.filter (· != l) }
    if (blocksIn w l).isSome || layerDefective n w l then done n
    else
      match victimSlot n k w with
      | none => n
      | some v =>
        let n1 := if v.layer.isSome then dropUnpinned n k w else n
        let u := n.wts.useSeq + 1
        done (modSet { clearRuns n1 v.runs with wts := { n1.wts with useSeq := u } } k fun x =>
          { x with slots := lmodify x.slots (fun s => s.runs == v.runs && s.layer == v.layer) fun s => { s with layer := some l, used := u, blocks := [] }
                   streams := x.streams ++ [⟨l, [], 0, 0, 0⟩] })

/-- Serve the layers a set waits for, in order. -/
def serveSet (n : Node) (k : Nat) : Node :=
  match mget? n.wts.sets k with
  | none => n
  | some w => w.wanted.foldl (serveLayer k) n

/-- Ask for layers of a set. -/
def wantLayers (n : Node) (k : Nat) (ls : List Nat) : Node :=
  serveSet (modSet n k fun w => { w with wanted := w.wanted ++ ls.filter fun l => !w.wanted.contains l }) k

/-- Accepting an `ATTEND_BLOCK` for layer L asks for layers L to L + W - 1 (R218). -/
def requestWindow (n : Node) (c : Cmd) : Node :=
  let k := c.f 48 4
  match setFor n c k with
  | none => n
  | some w =>
    if !usable n w || imgLayers w.image ≤ c.f 32 2 || n.wts.uses.any (·.1 == c.handle) then serveSet n k
    else
      wantLayers { n with wts := { n.wts with
          uses := (n.wts.uses.filter fun u => (findCmd n u.1).isSome) ++ [(c.handle, k, c.f 32 2)] } } k
        (layerSpan w (c.f 32 2) w.slots.length)

/-- `WINDOW_STREAM_REQUEST`. -/
def windowRequest (h : Nat) (n : Node) : Node :=
  match findCmd n h with
  | some c => if c.op == opAttendBlock then requestWindow n c else n
  | none => n

/-! ## Streams -/

/-- Prefetches complete with the last of their layers (R246). -/
def endPrefetches (t : Tck) (n : Node) : Node :=
  (n.wts.jobs.filter (·.left.isEmpty)).foldl
    (fun m j => complete t { m with wts := { m.wts with jobs := m.wts.jobs.filter (·.handle != j.handle) } } j.handle stOk
      (leBytes 4 j.coded ++ leBytes 4 j.crc ++ leBytes 4 j.raw))
    n

/-- A placement command whose pages and layers have all arrived completes (R210 to R212). -/
def endMigs (t : Tck) (n : Node) : Node :=
  (n.ter.jobs.filter fun j => j.pages.isEmpty && j.layers.isEmpty).foldl
    (fun m j => complete t { m with ter := { m.ter with jobs := m.ter.jobs.filter (·.handle != j.handle) } } j.handle stOk
      (leBytes 4 j.acted ++ leBytes 4 j.already ++ leBytes 4 j.skipped))
    n

/-- A layer is whole in terrace 1: its stream ends, and what waits for it goes on. -/
def layerDone (t : Tck) (n : Node) (k l : Nat) : Node :=
  match mget? n.wts.sets k with
  | none => n
  | some w =>
    match w.streams.find? (·.layer == l) with
    | none => n
    | some s =>
      let job (j : WJob) : WJob :=
        if j.wset = k && j.left.contains l then
          { j with left := j.left.filter (· != l), coded := j.coded + s.coded, crc := j.crc + s.crc, raw := j.raw + s.raw }
        else j
      let mig (j : MigJob) : MigJob :=
        if j.layers.contains (k, l) then { j with layers := j.layers.filter (· != (k, l)), acted := j.acted + (layerCounts w l).2 } else j
      let n1 := modSet n k fun x => { x with streams := x.streams.filter (·.layer != l) }
      endMigs t (endPrefetches t { n1 with
        wts := { n1.wts with jobs := n1.wts.jobs.map job }, ter := { n1.ter with jobs := n1.ter.jobs.map mig } })

/-- Block `b` of a layer's stream is in terrace 1. -/
def putBlock (t : Tck) (n : Node) (k l b : Nat) (raw : Bool) : Node :=
  let add (x : List Nat) : List Nat := if x.contains b then x else x ++ [b]
  let n1 := modSet n k fun w =>
    { w with
      pins := lmodify w.pins (·.layer == l) fun p => { p with blocks := add p.blocks }
      slots := if w.pins.any (·.layer == l) then w.slots
        else lmodify w.slots (·.layer == some l) fun s => { s with blocks := add s.blocks }
      streams := lmodify w.streams (·.layer == l) fun s =>
        { s with refetch := s.refetch.filter (· != b), coded := s.coded + b2n !raw, raw := s.raw + b2n raw } }
  match mget? n1.wts.sets k with
  | some w => if layerWhole w l then layerDone t n1 k l else n1
  | none => n1

/-- A layer leaves the window and its stream stops. -/
def withdrawLayer (n : Node) (k l : Nat) : Node :=
  match mget? n.wts.sets k with
  | none => n
  | some w =>
    modSet ((w.pins.filter (·.layer == l)).foldl (fun m p => dropRuns m p.runs) n) k fun x =>
      { x with
        slots := lmodify x.slots (·.layer == some l) fun s => { s with layer := none, used := 0, blocks := [] }
        pins := x.pins.filter (·.layer != l), streams := x.streams.filter (·.layer != l), wanted := x.wanted.filter (· != l) }

/-- The commands that need a layer. -/
def needers (n : Node) (k l : Nat) : List Nat :=
  dedupNat ((n.wts.uses.filterMap fun u => if u.2.1 == k && u.2.2 == l then some u.1 else none)
    ++ (n.wts.jobs.filterMap fun j => if j.wset == k && j.left.contains l then some j.handle else none)
    ++ (n.ter.jobs.filterMap fun j => if j.layers.contains (k, l) then some j.handle else none))

/-- Complete a command with a status that a weight block or a lost key gives it, and forget it everywhere. -/
def failWeights (t : Tck) (status : Nat) (n : Node) (h : Nat) : Node :=
  complete t { dropStep n h with
    wts := { n.wts with jobs := n.wts.jobs.filter (·.handle != h), uses := n.wts.uses.filter (·.1 != h) }
    ter := { n.ter with jobs := n.ter.jobs.filter (·.handle != h) } } h status []

/-- A layer whose block cannot be had: withdrawn, and every command that needs it completed (R254, R255). -/
def failLayer (t : Tck) (n : Node) (k l status : Nat) : Node :=
  (needers n k l).foldl (failWeights t status) (withdrawLayer n k l)

/-- Layers whose stream holds a tensor. -/
def layersWith (w : WSet) (t : Nat) : List Nat :=
  (List.range (imgLayers w.image)).filter fun l => ((layerTensors w.image l).1 ++ (layerTensors w.image l).2).contains t

/-- A defective block (R255): counted, recorded, its layers marked in the set and in the variants that rest on it, their commands completed. -/
def defective (t : Tck) (n : Node) (ex k x j : Nat) : Node :=
  let n1 := raise t (bump n (Rg.expErrSize ex) 1) evExpandSize (leBytes 4 k ++ leBytes 2 x ++ leBytes 4 j)
  let hit := n1.wts.sets.filter fun e => e.1 == k || e.2.base == k
  hit.foldl
    (fun m e =>
      let ls := layersWith e.2 x
      let m1 := modSet m e.1 fun w => { w with defective := w.defective ++ ls.filter fun l => !w.defective.contains l }
      ls.foldl (fun m2 l => failLayer t m2 e.1 l stExpandSize) m1)
    n1

/-- Stored input read by an expander, in bytes (`EXP_IN_KIB`). -/
def countInput (n : Node) (ex bytes : Nat) : Node :=
  let v := mgetD n.wts.inRem ex 0 + bytes
  bump { n with wts := { n.wts with inRem := mset n.wts.inRem ex (v % 1024) } } (Rg.expInKibKib ex) (v / 1024)

/-- Stored bytes a block costs: its own and, for a coded block of a variant, its base's (R250). -/
def inputBytes (n : Node) (k : Nat) (w : WSet) (t j : Nat) : Nat :=
  let own := ixLen (idxEnt n k w t j)
  match baseSet n w with
  | some b => if ixRaw (idxEnt n k w t j) then own else own + ixLen (idxEnt n w.base b t j)
  | none => own

/-- A CRC failure at first reading (R254): counted, recorded, re-fetched once. -/
def crcMiss (t : Tck) (n : Node) (ex k l b set x j : Nat) : Node :=
  modSet (raise t (bump n (Rg.expErrRefetch ex) 1) evExpandCrc (leBytes 4 set ++ leBytes 2 x ++ leBytes 4 j)) k fun w =>
    { w with streams := lmodify w.streams (·.layer == l) fun s => { s with refetch := s.refetch ++ [b], crc := s.crc + 1 } }

/-- The set whose stored copy of a block fails its CRC: the set itself, or the base that a coded block of a variant is read with. -/
def crcBad (n : Node) (k : Nat) (w : WSet) (x j : Nat) (bad badBase : Bool) : Option Nat :=
  if bad || !crcOk n k w x j then some k
  else
    match baseSet n w with
    | some b => if !ixRaw (idxEnt n k w x j) && (badBase || !crcOk n w.base b x j) then some w.base else none
    | none => none

/-- A block written to its place in terrace 1: expanded, or in the form of a tiles window, as stored with the base's after it (R219). -/
def writeBlock (t : Tck) (n : Node) (k l : Nat) (w : WSet) (x j : Nat) (data : Bytes) : Node :=
  let runs := layerRuns w l
  if expandedIn w l then (blockPlaces w.image l x j data).foldl (fun m p => runWrite t runs p.1 p.2 m) n
  else
    let off := tilePitch w * streamIdx w.image l x j
    let n1 := runWrite t runs off (storedBlock n k w x j) n
    match baseSet n w with
    | some b => if needsBase n k w x j then runWrite t runs (off + 4096) (storedBlock n w.base b x j) n1 else n1
    | none => n1

/-- A block whose stored copies are good reaches its place: a raw one, and any of a tiles window, without an expander (R219, R250, R252). -/
def goodBlock (t : Tck) (m : Node) (ex k l b : Nat) (w : WSet) (x j : Nat) : Node :=
  let n := touchSectors m (w.addr + (tensAt w.image x).area + field (idxEnt m k w x j) 0 4) (ixLen (idxEnt m k w x j))
  let raw := ixRaw (idxEnt n k w x j)
  if raw || !expandedIn w l then
    putBlock t (writeBlock t (if raw && expandedIn w l then bump n Rg.expRawBlocks 1 else n) k l w x j (storedBlock n k w x j)) k l b raw
  else
    let n1 := countInput n ex (inputBytes n k w x j)
    match ownBlock n k w x j, expandedBlock n k w x j with
    | none, _ => defective t n1 ex k x j
    | some _, none => defective t n1 ex w.base x j
    | some _, some d => putBlock t (pmc (bump (writeBlock t n1 k l w x j d) (Rg.expOutBlocks ex) 1) (40 + ex) 0x3001 1) k l b false

/-- The expander that serves block `b` of a stream in pages form (R251). -/
def expanderOf (n : Node) (b : Nat) : Option Nat :=
  let e := (List.range 8).filter fun k => !n.mic.expOut.contains k
  e[b % e.length]?

/-- A block of a stream is read for its window slot; a scale tag that does not match ends what needs the layer (R151). -/
def blockRead (t : Tck) (n : Node) (ex k l b : Nat) (w : WSet) (bad badBase skew : Bool) : Node :=
  match (streamOf w.image l)[b]?, w.streams.find? (·.layer == l) with
  | some (x, j), some s =>
    if s.refetch.contains b || ((blocksIn w l).getD []).contains b || !usable n w then n
    else if skew then failLayer t (raise t n evScaleSkew []) k l stMemUncorr
    else
      match crcBad n k w x j bad badBase with
      | some set => crcMiss t n ex k l b set x j
      | none => goodBlock t n ex k l b w x j
  | _, _ => n

/-! ## Tile queues (R252, R253) -/

/-- The expander that serves a cluster: its own, or one that node firmware assigns in its place. DESIGN CHOICE: log entry 69. -/
def expanderFor (n : Node) (c : Nat) : Option Nat :=
  if n.mic.expOut.contains (c / 4) then
    let e := (List.range 8).filter fun k => !n.mic.expOut.contains k
    e[c % e.length]?
  else some (c / 4)

/-- Data blocks of a tile of a matrix. -/
def tileBlocks (x : Tens) : Nat := 4 * fmtBits x.fmt / 8

/-- The blocks of whole tiles of a matrix in the order of R240, a block of scales ahead of the eight tiles it serves. -/
def tileOrder (b : Bytes) (m first count : Nat) : List (Nat × Nat) :=
  let x := tensAt b m
  (List.range count).flatMap fun i =>
    let q := first + i
    (if fmtScaled x.fmt && (i = 0 || q % 8 = 0) then [(x.scaleT, q / 8)] else []) ++ (List.range (tileBlocks x)).map fun y => (m, q * tileBlocks x + y)

/-- Change a cluster's tile queue. -/
def modTileQ (n : Node) (c : Nat) (f : List TileEnt → List TileEnt) : Node :=
  { n with att := { n.att with tileQs := mset n.att.tileQs c (f (mgetD n.att.tileQs c [])) } }

/-- The engines take whole tiles from the front of a queue. -/
def takeTiles : Nat → List TileEnt → List TileEnt
  | 0, q => q
  | _, [] => []
  | k + 1, e :: q => if e.got = e.need && (!e.scaled || e.scales) then takeTiles k q else e :: q

/-- Tiles whose scales one block of scales holds for a job. -/
def scaleTiles (w : WSet) (m : Nat) (left : List (Nat × Nat)) : Nat :=
  min 8 ((left.filter (·.1 == m)).length / max 1 (tileBlocks (tensAt w.image m)))

/-- The matrix a job fills its queue with. -/
def jobMatrix (w : WSet) (g : TileJob) : Nat := ((g.left.find? fun y => (tensAt w.image y.1).kind == 0).map (·.1)).getD 0

/-- Does a queue hold the credit for a job's next block: 64 of data, 16 of scales (R253). -/
def tileCredit (n : Node) (w : WSet) (g : TileJob) : Bool :=
  let q := mgetD n.att.tileQs g.cluster []
  match g.left.head? with
  | none => false
  | some y =>
    if (tensAt w.image y.1).kind = 0 then (q.map (·.got)).foldl (· + ·) 0 < 64
    else (q.filter (·.scales)).length + scaleTiles w (jobMatrix w g) g.left ≤ 16

/-- The first entry that a test admits is changed, or a new one joins. -/
def fillEnt (ok : TileEnt → Bool) (f : TileEnt → TileEnt) (new : TileEnt) : List TileEnt → List TileEnt
  | [] => [f new]
  | e :: q => if ok e then f e :: q else e :: fillEnt ok f new q

/-- A job's next block enters its cluster's queue. -/
def fillTile (n : Node) (w : WSet) (g : TileJob) : Node :=
  let m := jobMatrix w g
  let x := tensAt w.image m
  let new : TileEnt := ⟨tileBlocks x, 0, fmtScaled x.fmt, false⟩
  let data := (g.left.head?.map fun y => (tensAt w.image y.1).kind == 0).getD false
  let put (q : List TileEnt) : List TileEnt :=
    if data then fillEnt (fun e => e.got < e.need) (fun e => { e with got := e.got + 1 }) new q
    else (List.range (scaleTiles w m g.left)).foldl (fun a _ => fillEnt (fun e => e.scaled && !e.scales) (fun e => { e with scales := true }) new a) q
  let n1 := modTileQ n g.cluster put
  { n1 with att := { n1.att with tileJobs := (lmodify n1.att.tileJobs (· == g) fun y => { y with left := y.left.tail }).filter fun y => !y.left.isEmpty } }

/-- The job at the front of a cluster. -/
def frontJob (n : Node) (c : Nat) : Option TileJob := n.att.tileJobs.find? (·.cluster == c)

/-- The job of a cluster that may go on: its set loaded, its queue with credit. -/
def readyJob (n : Node) (c : Nat) : Option TileJob :=
  (frontJob n c).filter fun g => (mget? n.wts.sets g.wset).any fun w => tileCredit n w g

/-- Does the next block of a job need an expander. -/
def nextCoded (n : Node) (g : TileJob) : Bool :=
  match mget? n.wts.sets g.wset, g.left.head? with
  | some w, some y => !ixRaw (idxEnt n g.wset w y.1 y.2)
  | _, _ => false

/-- The job an expander serves: of the clusters that ask it, by rotating priority (R253). -/
def grantJob (n : Node) (ex : Nat) : Option TileJob :=
  (List.range 32).findSome? fun i =>
    let c := (mgetD n.att.exRotor ex 0 + i) % 32
    if expanderFor n c == some ex then (readyJob n c).filter (nextCoded n) else none

/-- The rotating priority advances. -/
def turnExpander (n : Node) (ex : Nat) : Node := { n with att := { n.att with exRotor := mset n.att.exRotor ex ((mgetD n.att.exRotor ex 0 + 1) % 32) } }

/-- Which copies in a tiles window fail their CRC: the set's own, or its base's. -/
def slotCrcBad (n : Node) (k : Nat) (w : WSet) (l x j : Nat) (bad badBase : Bool) : Option Nat :=
  let s := slotStored n k w l x j
  if bad || crc32c s.1 != field (idxEnt n k w x j) 8 4 then some k
  else
    match baseSet n w with
    | some b => if needsBase n k w x j && (badBase || crc32c s.2 != field (idxEnt n w.base b x j) 8 4) then some w.base else none
    | none => none

/-- A block in a tiles window fails its CRC: it is out of its slot until its re-fetch has passed (R254). -/
def slotMiss (t : Tck) (n : Node) (ex k l b set x j : Nat) : Node :=
  let n1 := modSet n k fun y => { y with
    streams := if y.streams.any (·.layer == l) then y.streams else y.streams ++ [⟨l, [], 0, 0, 0⟩]
    slots := lmodify y.slots (·.layer == some l) fun s => { s with blocks := s.blocks.filter (· != b) } }
  crcMiss t n1 ex k l b set x j

/-- A block of a tiles window is read from its slot, checked and, when coded, expanded; `fed` is what becomes of the node once it is good. -/
def tileExpand (t : Tck) (n : Node) (ex k l b : Nat) (w : WSet) (x j : Nat) (e : ExpandIn) (fed : Node → Node) : Node :=
  if e.skew then failLayer t (raise t n evScaleSkew []) k l stMemUncorr
  else
    match slotCrcBad n k w l x j e.bad e.badBase with
    | some set => slotMiss t n ex k l b set x j
    | none =>
      if ixRaw (idxEnt n k w x j) then fed (bump n Rg.expRawBlocks 1)
      else
        let n1 := countInput n ex (inputBytes n k w x j)
        let s := slotStored n k w l x j
        match expandStored n k w x j s.1 s.2 with
        | .error set => defective t n1 ex set x j
        | .ok _ => fed (pmc (bump n1 (Rg.expOutBlocks ex) 1) (40 + ex) 0x3001 1)

/-- A block of a layer that stands whole in a tiles window is used (R219, R252, R253): for the cluster's job whose next block it is and whose queue has credit, when
coded in the expander's turn. A vector is not fed to a tile queue. -/
def tileStep (t : Tck) (n : Node) (ex k l b : Nat) (w : WSet) (x j : Nat) (e : ExpandIn) : Node :=
  let mine := e.errs.filter fun y => (layerRuns w l).any fun r => r.1 ≤ y.1 && y.1 < r.1 + r.2
  let n0 := ctrlReads t (modTileQ n e.cluster.val (takeTiles e.drained)) mine
  let go := if ixRaw (idxEnt n k w x j) then readyJob n0 e.cluster.val else grantJob n0 ex
  if (tensAt w.image x).kind = 2 then tileExpand t n0 ex k l b w x j e id
  else
    match go with
    | none => n0
    | some g =>
      if g.cluster = e.cluster.val && g.wset = k && g.layer = l && g.left.head? = some (x, j) then
        turnExpander (tileExpand t n0 ex k l b w x j e fun m => fillTile m w g) ex
      else n0

/-- `EXPAND_BLOCK` (R250 to R255): expander `ex` takes block `j` of tensor `x` of a layer, into its window slot, or from a tiles window into a tile queue. -/
def expandStep (ex k l x j : Nat) (e : ExpandIn) (t : Tck) (n : Node) : Node :=
  match mget? n.wts.sets k with
  | none => n
  | some w =>
    let b := streamIdx w.image l x j
    if (streamOf w.image l).length ≤ b || n.mic.expOut.contains ex then n
    else if expandedIn w l then
      if streaming w l && expanderOf n b == some ex && !ixRaw (idxEnt n k w x j) then blockRead t n ex k l b w e.bad e.badBase e.skew else n
    else if usable n w && !streaming w l && layerWhole w l then tileStep t n ex k l b w x j e
    else n

/-- `BLOCK_CRC_REFETCH` (R254): the copy read from the next terrace down arrives; when it fails too, every command that needs the block completes with
`ST_EXPAND_CRC`. -/
def crcRefetch (ex k l x j : Nat) (bad badBase : Bool) (t : Tck) (n : Node) : Node :=
  match mget? n.wts.sets k with
  | none => n
  | some w =>
    let b := streamIdx w.image l x j
    if !w.streams.any fun s => s.layer == l && s.refetch.contains b then n
    else
      match crcBad n k w x j bad badBase with
      | some _ => failLayer t (bump n (Rg.expErrCrcFail ex) 1) k l stExpandCrc
      | none => goodBlock t n ex k l b w x j

/-! ## WEIGHTS_STREAM and WEIGHTS_EVICT -/

/-- A load refused at an offset; an image fault is recorded with its byte offset (R245). -/
def loadBad (t : Tck) (n : Node) (c : Cmd) (off : Nat) (fault : Option Nat) : Node :=
  badParam t (match fault with | some o => raise t n evWsetBad (leBytes 4 (c.f 24 4) ++ leBytes 8 o) | none => n) c.handle off

/-- The base checks of LOAD (R245). -/
def baseBad (n : Node) (c : Cmd) (w : WSet) : Bool :=
  let base := c.f 32 4
  if imgVariant w.image then
    (match setFor n c base with
     | none => true
     | some b => base == 0 || b.base != 0 || slice w.image 40 48 != b.digest || differsFrom n (c.f 24 4) w base b)
  else base != 0

/-- Enter a checked set: its sectors, its pins at terrace 2, its window (R218, R245). -/
def enterSet (n : Node) (k a : Nat) (v : WSet) : Node :=
  let w := withSecs n k v
  let x := newSlots (slotBytes w) (rd n Rg.terWinCfgW) n
  let n1 := { x.1 with wts := { x.1.wts with sets := mset x.1.wts.sets k { w with addr := a, slots := x.2 } } }
  (sectors a w.len).foldl (cacheSector true) n1

/-- LOAD (R245). -/
def weightsLoad (t : Tck) (n : Node) (c : Cmd) : Node :=
  let k := c.f 24 4
  let len := c.f 44 8
  let head := hostRead n c.mem (c.f 36 8) 128
  let img := hostRead n c.mem (c.f 36 8) (imgLen head)
  let w : WSet := {
    form := c.f 29 1, base := c.f 32 4, image := img, digest := [], bound := !imgEncrypted head, policy := [], addr := 0, len := len,
    layers := List.range (imgLayers head), slots := [], pins := [], streams := [], wanted := [], defective := [], unpinned := [], deep := [],
    hints := [], secs := [] }
  if k = 0 || mhas n.wts.sets k || 64 ≤ n.wts.sets.length then badParam t n c.handle 24
  else if 1 < c.f 29 1 then badParam t n c.handle 29
  else if baseBad n c w then loadBad t n c 32 (if imgVariant img == (c.f 32 4 != 0) then some 40 else some 6)
  else if !mult (c.f 36 8) 4096 then badParam t n c.handle 36
  else
    match firstOff (clearPartFaults img) with
    | some o => loadBad t n c 36 (some o)
    | none =>
      match (if imgEncrypted img then none else firstOff (hiddenFaults n k w)) with
      | some o => loadBad t n c 36 (some o)
      | none =>
        if len != imgLen img then loadBad t n c 44 (some 16)
        else
          match t3Alloc n len with
          | none => badParam t n c.handle 44
          | some a =>
            if overPct (pinned2 n + (pinnedSecs (withSecs n k w)).length) (cacheBytes n / 4096) (rd n Rg.terPinCfgT2Pct) then badParam t n c.handle 44
            else
              let d := sha384 img
              complete t (enterSet n k a { w with digest := d }) c.handle stOk (d.take 16)

/-- PREFETCH (R246). -/
def weightsPrefetch (t : Tck) (n : Node) (c : Cmd) : Node :=
  let k := c.f 24 4
  match setFor n c k with
  | none => badParam t n c.handle 24
  | some w =>
    if imgLayers w.image ≤ c.f 32 2 then badParam t n c.handle 32
    else if c.f 34 2 = 0 || rd n Rg.terWinCfgW < c.f 34 2 then badParam t n c.handle 34
    else if !usable n w then complete t n c.handle stNotBound []
    else
      let ls := layerSpan w (c.f 32 2) (c.f 34 2)
      if ls.any (layerDefective n w) then complete t n c.handle stExpandSize []
      else
        let j : WJob := ⟨c.handle, k, ls.filter fun l => !layerWhole w l, 0, 0, 0⟩
        let n1 := setRunning n c.handle
        endPrefetches t (wantLayers { n1 with wts := { n1.wts with jobs := n1.wts.jobs ++ [j] } } k ls)

/-- `WEIGHTS_STREAM` with OP 0 (R245). A load of a set that an earlier command evicts waits for the eviction. -/
def streamLoad (h : Nat) (t : Tck) (n : Node) : Node :=
  withCmd n h opWeightsStream fun c =>
    if c.f 28 1 = 1 || evictAhead n c (c.f 24 4) then n
    else checked t n c (rsv c 30 31 ++ rsv c 52 63 ++ offIf (1 < c.f 28 1) 28) (weightsLoad t n c)

/-- `WEIGHTS_STREAM` with OP 1 (R246). -/
def streamPrefetch (h : Nat) (t : Tck) (n : Node) : Node :=
  withCmd n h opWeightsStream fun c =>
    if c.f 28 1 != 1 then n else checked t n c (rsv c 29 29 ++ rsv c 30 31 ++ rsv c 36 43 ++ rsv c 44 51 ++ rsv c 52 63) (weightsPrefetch t n c)

/-- A number of ticks has passed since a command's acceptance. -/
def ticksPassed (t : Tck) (c : Cmd) (k : Nat) : Bool := c.accTime + k * unitsPerTick t.cur ≤ t.now

/-- `PREFETCH_TIMEOUT` (R246). -/
def prefetchTimeout (h : Nat) (t : Tck) (n : Node) : Node :=
  match findCmd n h, n.wts.jobs.find? (·.handle == h) with
  | some c, some _ =>
    if ticksPassed t c 1024 then
      complete t { n with wts := { n.wts with jobs := n.wts.jobs.filter (·.handle != h) } } h stDeadline []
    else n
  | _, _ => n

/-- Free everything a set holds (R249). -/
def freeSet (n : Node) (k : Nat) : Node :=
  match mget? n.wts.sets k with
  | none => n
  | some w =>
    let n1 := (w.slots.map (·.runs) ++ w.pins.map (·.runs)).foldl dropRuns n
    let n2 := (sectors w.addr w.len).foldl cacheDrop n1
    { n2 with
      wts := { n2.wts with sets := mdel n2.wts.sets k }
      sec := { n2.sec with bind := mdel n2.sec.bind k }
      att := { n2.att with tableOf := n2.att.tableOf.filter fun e => e.2.1 != k, tileJobs := n2.att.tileJobs.filter (·.wset != k) }
      ter := { n2.ter with moves := n2.ter.moves.filter fun m =>
        match m.what with
        | .block s _ _ => s != k
        | .page _ => true } }

/-- `WEIGHTS_EVICT` (R249): at its place in acceptance order; it completes once every earlier command that names the set has. -/
def weightsEvict (h : Nat) (t : Tck) (n : Node) : Node :=
  match findCmd n h with
  | none => n
  | some c =>
    let k := c.f 24 4
    let earlier := n.fe.cmds.any fun d => d.seq < c.seq && namesSet k d
    let finish (m : Node) : Node :=
      match mget? m.wts.sets k with
      | none => m
      | some w =>
        let freed := ((List.range (imgTensors w.image)).map fun x => (tensAt w.image x).blocks).foldl (· + ·) 0
        complete t { freeSet m k with wts := { (freeSet m k).wts with evicts := m.wts.evicts.filter (·.1 != h) } } h stOk (leBytes 4 freed)
    if c.op == opWeightsEvict && c.stage == .running then (if earlier then n else finish n)
    else
      withCmd n h opWeightsEvict fun c =>
        checked t n c (rsv c 28 63)
          (if !mhas n.wts.sets k || isBase n k || (n.fe.cmds.any fun d => d.op == opWeightsEvict && d.f 24 4 == k && d.seq < c.seq) then
            badParam t n h 24
           else
            let n1 := setRunning { n with wts := { n.wts with evicts := n.wts.evicts ++ [(h, c.seq, k)] } } h
            if earlier then n1 else finish n1)

/-! The commands. -/

/-- `WEIGHTS_STREAM_LOAD`. -/
def execWeightsStreamLoad (h : Word) (s : State) : Outcome State Fault Refusal := onNode (streamLoad h.toNat) s
/-- `WEIGHTS_STREAM_PREFETCH`. -/
def execWeightsStreamPrefetch (h : Word) (s : State) : Outcome State Fault Refusal := onNode (streamPrefetch h.toNat) s
/-- `WINDOW_STREAM_REQUEST`. -/
def execWindowStreamRequest (h : Word) (s : State) : Outcome State Fault Refusal := onNode (fun _ => windowRequest h.toNat) s
/-- `EXPAND_BLOCK`. -/
def execExpandBlock (ex : Fin 8) (wset : Word) (layer tensor block : Nat) (x : ExpandIn) (s : State) : Outcome State Fault Refusal :=
  onNode (expandStep ex.val wset.toNat layer tensor block x) s
/-- `BLOCK_CRC_REFETCH`. -/
def execBlockCrcRefetch (ex : Fin 8) (wset : Word) (layer tensor block : Nat) (bad badBase : Bool) (s : State) :
    Outcome State Fault Refusal :=
  onNode (crcRefetch ex.val wset.toNat layer tensor block bad badBase) s
/-- `WEIGHTS_EVICT`. -/
def execWeightsEvict (h : Word) (s : State) : Outcome State Fault Refusal := onNode (weightsEvict h.toNat) s
/-- `PREFETCH_TIMEOUT`. -/
def execPrefetchTimeout (h : Word) (s : State) : Outcome State Fault Refusal := onNode (prefetchTimeout h.toNat) s

end Sys2Proof.Machine
end

