-- ==== Sys2Proof/Machine/Block.lean ====
section
/-! DEFINITION. Attention-block mode: `ATTEND_BLOCK` (R110, R111) and its stages (R18 to R20, R182); the rescale tables of the clusters (R158, R159). -/

namespace Sys2Proof.Machine

open Host (Outcome)

/-- HID_FMT. -/
def hidFmt (c : Cmd) : Nat := c.f 35 1 % 4

/-- Offending fields of `ATTEND_BLOCK` beyond the reserved bytes (R107, R110). -/
def blockOffs (c : Cmd) (s : Seqn) (sh : Shape) : List Nat := commonOffs c s sh ++ offIf (!mult (c.f 40 8) 64) 40

/-- Does the layer descriptor fit the sequence, with no more than 256 query heads (R82, R111). -/
def blockFits (c : Cmd) (s : Seqn) (w : WSet) : Bool :=
  let d := layerDesc w.image (c.f 32 2)
  c.f 32 2 < imgLayers w.image && byteAt d 6 == s.groups && byteAt d 7 == s.heads && ldDim d == s.dim && ldQh d ≤ 256

/-- Begin a block: its window is asked for, and its first stage is due at the launch tick (R18, R218). -/
def startBlock (t : Tck) (n : Node) (c : Cmd) (w : WSet) (sh : Shape) : Node :=
  if bmRevoked n c sh then complete t n c.handle stExtentRevoked (attEnd n c)
  else if bmForeign n c sh then complete t n c.handle stNotOwner (attEnd n c)
  else
    let b : Block := {
      handle := c.handle, wset := c.f 48 4, ldesc := layerDesc w.image (c.f 32 2), stage := 0, due := c.launch, hidden := [], q := [], k := [],
      v := [], att := [], missCounted := none, rootHash := [], partial_ := false, tables := [] }
    let n1 := setRunning (requestWindow n c) c.handle
    { n1 with att := { n1.att with blocks := n1.att.blocks ++ [b] } }

/-- The shape of a block's inner step, with QPK as given. -/
def blockShape (c : Cmd) (s : Seqn) (qpk : Nat) : Shape := stepShape s (c.f 34 1) (c.f 56 2) (c.f 58 1) (c.f 36 4) 1 qpk

/-- Offending fields of `ATTEND_BLOCK` with its weight set, where WSET names one (R111). -/
def blockSetOffs (n : Node) (c : Cmd) (s : Seqn) : List Nat :=
  match setFor n c (c.f 48 4) with
  | none => blockOffs c s (blockShape c s 1) ++ [48]
  | some w => blockOffs c s (blockShape c s (byteAt (layerDesc w.image (c.f 32 2)) 5)) ++ offIf (!blockFits c s w) 48

/-- `ATTEND_BLOCK` in its turn (R110, R111, R248, R255). -/
def blockStart (h : Nat) (t : Tck) (n : Node) : Node :=
  withCmd n h opAttendBlock fun c =>
    withSeq t n c (offIf (16 ≤ c.f 34 1) 34 ++ offIf (1 < c.f 35 1) 35 ++ rsv c 52 55 ++ rsv c 62 63) (blockSetOffs n c) fun s =>
      match setFor n c (c.f 48 4) with
      | none => n
      | some w =>
        if !usable n w then complete t n h stNotBound (attEnd n c)
        else if layerDefective n w (c.f 32 2) then complete t n h stExpandSize (attEnd n c)
        else startBlock t n c w (blockShape c s (byteAt (layerDesc w.image (c.f 32 2)) 5))

/-! Projections (R157, R159, R182). -/

/-- The BSU that carries a layer's element-wise work: that of the pseudo-channel where the layer's terrace-1 space begins.
DESIGN CHOICE, unsafe for one unit's counters: log entry 30. -/
def layerBsu (w : WSet) (l : Nat) : Nat :=
  match w.pins.find? (·.layer == l) with
  | some p => pchOf ((p.runs.map (·.1)).headD 0)
  | none =>
    match w.slots.find? (·.layer == some l) with
    | some s => pchOf ((s.runs.map (·.1)).headD 0)
    | none => 0

/-- Elements of 128 reduction elements of output channel `c`, in tile column `b` of a matrix of format `fmt` (R240). -/
def tileRow (bytes : Bytes) (fmt nb c b : Nat) : List Nat :=
  unpackElems fmt 128 (slice bytes ((c / 128 * nb + b) * (16384 * fmtBits fmt / 8) + c % 128 * (128 * fmtBits fmt / 8)) (128 * fmtBits fmt / 8))

/-- Their four scales. -/
def tileScales (bytes : Bytes) (nb c b : Nat) : List Nat :=
  (slice bytes ((c / 128 * nb + b) * 512 + 4 * (c % 128)) 4).map (·.toNat)

/-- The exact products of channel `c` of a matrix with an activation row, in order of the reduction. -/
def chanProducts (af : Nat) (a : Row) (x : Tens) (wb sb : Bytes) (c : Nat) : List Ext :=
  let nb := cdiv x.kr 128
  (List.range nb).flatMap fun b =>
    let ws := tileRow wb x.fmt nb c b
    let ss := tileScales sb nb c b
    (List.range (min 128 (x.kr - 128 * b))).map fun i => (rowVal af a.elems a.scales (128 * b + i)).mul (rowVal x.fmt ws ss i)

/-- The exact products of channel `c` of a matrix that stands expanded in terrace 1 (R175). -/
def rowProducts (n : Node) (w : WSet) (l m af : Nat) (a : Row) (c : Nat) : List Ext :=
  let x := tensAt w.image m
  let runs := layerRuns w l
  let o := opAt w.image l m
  let ws := unpackElems x.fmt x.kr (runRead n runs (o + c * x.pitch) (x.kr * fmtBits x.fmt / 8))
  let ss := (runRead n runs (o + x.n * x.pitch + c * x.rowScales) x.rowScales).map (·.toNat)
  (List.range x.kr).map fun i => (rowVal af a.elems a.scales i).mul (rowVal x.fmt ws ss i)

/-- The accumulators of a matrix product (R157), from the weights as terrace 1 holds them: expanded for MATVEC, or compressed for the tile queues (R219). -/
def project (n : Node) (k l : Nat) (w : WSet) (m : Nat) (af : Nat) (a : Row) : List Nat :=
  let x := tensAt w.image m
  if expandedIn w l then (List.range x.n).map fun c => chunkAcc (rowProducts n w l m af a c)
  else
    let wb := slotTensor n k w l m
    let sb := if fmtScaled x.fmt then slotTensor n k w l x.scaleT else []
    (List.range x.n).map fun c => chunkAcc (chanProducts af a x wb sb c)

/-! Rescale tables (R158, R159). -/

/-- The rescale vector of a layer's projection: 0 Q, 1 K, 2 V, 3 O. -/
def rescaleTensor (d : Bytes) (p : Nat) : Nat := ldT d (28 + 2 * p)

/-- `RESCALE_TABLE_LOAD` (R158): table `k` of cluster `c` takes 4,096 channels' entries of a layer's rescale data while no item is bound to it. -/
def tableLoad (c k set l p part : Nat) (n : Node) : Node :=
  match mget? n.wts.sets set with
  | none => n
  | some w =>
    let v := rescaleTensor (layerDesc w.image l) p
    let e := if usable n w && l < imgLayers w.image && v != 0xFFFF then ((vecOf n set w v).drop (4096 * part)).take 4096 else []
    if n.att.bound.contains (8 * c + k) || e.isEmpty || !e.all rescaleOk then n
    else
      bump { n with att := { n.att with
          tables := mset n.att.tables (8 * c + k) e, tableOf := mset n.att.tableOf (8 * c + k) (set, l, p, part) } } (Rg.attRstStatusLoads c) 1

/-- The items of a product: first channel and channels of each (R159). -/
def productItems (nch : Nat) : List (Nat × Nat) := (List.range (cdiv nch 32768)).map fun i => (32768 * i, min 32768 (nch - 32768 * i))

/-- The tables, from the first, that hold the rescale data of an item's channels on one cluster in service. -/
def tablesFor (n : Node) (k l p : Nat) (it : Nat × Nat) : Option Nat :=
  let parts := cdiv it.2 4096
  (List.range 256).find? fun q =>
    q % 8 + parts ≤ 8 && !n.mic.clustersOut.contains (q / 8) && (List.range parts).all fun i => mget? n.att.tableOf (q + i) == some (k, l, p, it.1 / 4096 + i)

/-- The cluster of an item of a tiles window: that of its tables, else the first in service that belongs to the composition. DESIGN CHOICE: log entry 69. -/
def itemCluster (n : Node) (comp : Nat) (q : Option Nat) : Nat :=
  match q with
  | some q => q / 8
  | none => ((List.range 32).find? fun c => clusterInComp n comp c && !n.mic.clustersOut.contains c).getD 0

/-- Rescaled outputs of an item's channels: by the tables it is bound to, else by the entries of the vector, as the bank-side operation applies them (R159). -/
def rescaleItem (n : Node) (vec acc : List Nat) (it : Nat × Nat) (q : Option Nat) : List Nat :=
  (List.range it.2).map fun i =>
    let c := it.1 + i
    let m := match q with
      | some q => (mgetD n.att.tables (q + i / 4096) []).getD (c % 4096) 0
      | none => vec.getD c 0
    rescale (acc.getD c 0) m

/-- Tile queues are asked for the whole tiles of an item of a product (R253). -/
def askTiles (h cluster k l : Nat) (w : WSet) (m : Nat) (it : Nat × Nat) (n : Node) : Node :=
  let nb := cdiv (tensAt w.image m).kr 128
  { n with att := { n.att with tileJobs := n.att.tileJobs ++ [⟨h, cluster, k, l, tileOrder w.image m (it.1 / 128 * nb) (cdiv it.2 128 * nb)⟩] } }

/-- What a projection gives: its outputs, the tables it is bound to, and what it leaves of the node. -/
structure Proj where
  node : Node
  out : List Nat
  tables : List Nat

/-- Node firmware copies the first 8,192 entries of a vector that no table holds into the SRAM of the BSU that applies them (R159, R166). -/
def copyEntries (n : Node) (bsu : Nat) (vec : List Nat) : Node :=
  modUnit n bsu fun u => { u with sram := Mem.write 0 u.sram 0x30000 ((vec.take 8192).flatMap (leBytes 4)) }

/-- Projection `p` of a layer (R157, R159, R182, R219). -/
def layerProject (n : Node) (c : Cmd) (k : Nat) (w : WSet) (p af : Nat) (a : Row) : Proj :=
  let l := c.f 32 2
  let d := layerDesc w.image l
  let m := ldT d (16 + 2 * p)
  let acc := project n k l w m af a
  let v := rescaleTensor d p
  let scaled := v != 0xFFFF
  let tiles := !expandedIn w l
  let items := (productItems acc.length).map fun it => (it, if scaled && tiles then tablesFor n k l p it else none)
  let vec := if scaled then layerVec n k w l v else []
  let n1 := if scaled && items.any (·.2.isNone) then copyEntries n (layerBsu w l) vec else n
  let n2 := if tiles then items.foldl (fun x y => askTiles c.handle (itemCluster n (compOf (c.f 24 8)) y.2) k l w m y.1 x) n1 else n1
  { node := n2, out := if scaled then items.flatMap fun y => rescaleItem n vec acc y.1 y.2 else acc,
    tables := items.flatMap fun y => match y.2 with | some q => (List.range (cdiv y.1.2 4096)).map (q + ·) | none => [] }

/-! What a stage reads in terrace 1 (R192, R194). -/

/-- A line in error that a stage reads: the light decoder, then, where that cannot correct it, the controller's full decoder. -/
def stageLine (t : Tck) (n : Node) (e : Nat × List Nat) : Node :=
  let b := pchOf e.1
  match lightRead b [(e.1 % pchBytes, e.2)] n (e.1 % pchBytes) with
  | (n1, .defer _) =>
    let n2 := ctrlRead t (bsuCount n1 b (Rg.bsuDeferDeferred (b / 128) (b % 128)) 0x2002 1) e.1 e.2
    if mhas n2.mic.poison (e.1 / 64 * 64) then bump n2 (Rg.bsuDeferUncorr (b / 128) (b % 128)) 1 else n2
  | (n1, _) => n1

/-- The lines in error among those of a layer that a stage reads. -/
def stageReads (t : Tck) (n : Node) (w : WSet) (l : Nat) (last : Bool) (errs : List (Nat × List Nat)) : Node :=
  let rs := if expandedIn w l then
      (stageOps w.image l last).flatMap fun o => runRanges (layerRuns w l) (opAt w.image l o) (opLen (tensAt w.image o))
    else []
  (errs.filter fun e => rs.any fun r => r.1 ≤ e.1 && e.1 < r.1 + r.2).foldl (stageLine t) n

/-! The stages. -/

/-- A stage without its weights stalls to the next tick and counts once a tick (R20); past the deadline tick the command ends. -/
def stageStall (t : Tck) (n : Node) (c : Cmd) (b : Block) : Node :=
  if c.deadline < t.tick then complete t (dropStep n c.handle) c.handle stDeadline (attEnd n c)
  else if b.missCounted == some t.tick then n
  else
    let n1 := pmc (bump n Rg.terWeightMissCount 1) 63 8 1
    { n1 with att := { n1.att with blocks := lmodify n1.att.blocks (·.handle == c.handle) fun x => { x with due := t.tick + 1, missCounted := some t.tick } } }

/-- Change a block. -/
def modBlock (n : Node) (h : Nat) (f : Block → Block) : Node :=
  { n with att := { n.att with blocks := lmodify n.att.blocks (·.handle == h) f } }

/-- The first tick boundary at least `units` after the start of a tick. -/
def tickAfter (t : Tck) (tick units : Nat) : Nat := cdiv (tick * unitsPerTick t.cur + units) (unitsPerTick t.cur)

/-- The digests that treatment records of a sequence carry once a set has been used on it: base, then delta (R245, R378). -/
def setDigests (n : Node) (w : WSet) : Bytes :=
  match baseSet n w with
  | some b => b.digest ++ w.digest
  | none => w.digest ++ zeros 48

/-- A layer's slot has been used. -/
def touchLayer (n : Node) (k l : Nat) : Node :=
  let u := n.wts.useSeq + 1
  modSet { n with wts := { n.wts with useSeq := u } } k fun w => { w with slots := lmodify w.slots (·.layer == some l) fun s => { s with used := u } }

/-- Stage one: normalisation and the Q, K and V projections (R182, steps 1 to 4), which bind their tables until it ends (R158). -/
def stageOne (t : Tck) (n : Node) (c : Cmd) (b : Block) (w : WSet) : Node :=
  let l := c.f 32 2
  let d := b.ldesc
  let fmt := hidFmt c
  let hid := (unpackElems fmt (ldHidden d) (hostRead n c.mem (c.f 40 8) (ldHidden d * (fmtBits fmt / 8)))).map (widen fmt)
  let nrm := normRow (byteAt d 4) (field d 12 4) (layerVec n b.wset w l (ldT d 24)) (if byteAt d 4 = 1 then layerVec n b.wset w l (ldT d 26) else []) hid
  let bsu := layerBsu w l
  let n1 := if nrm.2 then bump n (Rg.bsuNonfiniteElements (bsu / 128) (bsu % 128)) hid.length else n
  let a := narrowRow (byteAt d 10) nrm.1
  let n2 := touchLayer (countRow t n1 3 a) b.wset l
  let q := layerProject n2 c b.wset w 0 (byteAt d 10) a
  let k := layerProject q.node c b.wset w 1 (byteAt d 10) a
  let v := layerProject k.node c b.wset w 2 (byteAt d 10) a
  let ts := q.tables ++ k.tables ++ v.tables
  let n3 := modBlock (modCmd v.node b.handle fun x => { x with launched := true }) b.handle fun x =>
    { x with stage := 1, due := tickAfter t t.tick 32000, hidden := hid, q := q.out, k := k.out, v := v.out, missCounted := none, tables := ts }
  { n3 with
    att := { n3.att with bound := n3.att.bound ++ ts }
    seqs := { n3.seqs with open_ := mmod n3.seqs.open_ (c.f 24 8) fun s => { s with digests := setDigests n w } } }

/-- Stage one ends: its tables are released, and the inner step is due. -/
def stageOneEnd (t : Tck) (n : Node) (b : Block) : Node :=
  let n1 := modBlock n b.handle fun x => { x with stage := 2, due := t.tick, tables := [] }
  { n1 with att := { n1.att with bound := b.tables.foldl (fun l k => l.erase k) n1.att.bound } }

/-- The hidden state after the output projection: sums in FP32, and how many sums of the plain addition are not finite (R177, R182 step 6). -/
def postHidden (n : Node) (c : Cmd) (b : Block) (w : WSet) (a : Row) : Node × List Nat × Nat :=
  let o := layerProject n c b.wset w 3 (byteAt b.ldesc 11) a
  let r := (List.range b.hidden.length).map fun i => fAdd (b.hidden.getD i 0) (o.out.getD i 0)
  (o.node, r, if rescaleTensor b.ldesc 3 = 0xFFFF then (r.filter fNonFinite).length else 0)

/-- The last stage: output projection, residual add, the write of the hidden state, the completion (R110, R182 steps 5 to 7, R377). -/
def stageLast (t : Tck) (n : Node) (c : Cmd) (b : Block) (w : WSet) (st : Step) : Node :=
  let a := narrowRow (byteAt b.ldesc 11) b.att
  let r := postHidden n c b w a
  let out := narrowRow (hidFmt c) r.2.1
  let bytes := packElems (hidFmt c) out.elems
  let bsu := layerBsu w (c.f 32 2)
  let n1 := bump (countRow t (countRow t r.1 3 a) 5 out) (Rg.bsuNonfiniteElements (bsu / 128) (bsu % 128)) r.2.2
  let n2 := hostWrite (dropStep (touchLayer n1 b.wset (c.f 32 2)) c.handle) c.mem (c.f 40 8) bytes
  let res := attResult st st.bankSide st.ran
  if b.partial_ then complete t n2 c.handle stOkPartial res
  else
    match mget? n2.seqs.open_ st.seq with
    | some s =>
      if s.sealed then postSealed t n2 c.handle stOk res (treatment t n2 c st.desc s b.ldesc (hidFmt c) b.rootHash bytes)
      else complete t n2 c.handle stOk res
    | none => complete t n2 c.handle stOk res

/-- A stage runs over its weights: a line that holds poison ends the command (R192). -/
def stageRun (t : Tck) (n : Node) (c : Cmd) (w : WSet) (last : Bool) (errs : List (Nat × List Nat)) (run : Node → Node) : Node :=
  let n1 := stageReads t n w (c.f 32 2) last errs
  match stagePoison n1 w (c.f 32 2) last with
  | some k => complete t (dropStep n1 c.handle) c.handle (if k = 2 then stOwnerLost else stMemUncorr) (attEnd n1 c)
  | none => run n1

/-- `ATTEND_BLOCK_STAGE_START` (R18 to R20): at the tick boundary its stage is due, or at a later one. `errs` names the weight lines in error, by terrace-1 address with
their lanes. -/
def stageStart (h : Nat) (errs : List (Nat × List Nat)) (t : Tck) (n : Node) : Node :=
  match findCmd n h, n.att.blocks.find? (·.handle == h) with
  | some c, some b =>
    if t.tick < b.due || !t.atTick then n
    else if b.stage = 1 then stageOneEnd t n b
    else
      match mget? n.wts.sets b.wset with
      | none => n
      | some w =>
        let l := c.f 32 2
        let k := layerCounts w l
        if b.stage = 0 then
          if c.deadline < t.tick then complete t (dropStep n h) h stDeadline (attEnd n c)
          else if layerHas w l 0 k.1 then stageRun t n c w false errs fun m => stageOne t m c b w
          else stageStall t n c b
        else if b.stage = 3 then
          match n.att.steps.find? (·.handle == h) with
          | some st => if layerHas w l k.1 k.2 then stageRun t n c w true errs fun m => stageLast t m c b w st else stageStall t n c b
          | none => n
        else n
  | _, _ => n

/-! The commands. -/

/-- `ATTEND_BLOCK`. -/
def execAttendBlock (h : Word) (s : State) : Outcome State Fault Refusal := onNode (blockStart h.toNat) s
/-- `ATTEND_BLOCK_STAGE_START`. -/
def execAttendBlockStageStart (h : Word) (errs : List (Nat × List Nat)) (s : State) : Outcome State Fault Refusal :=
  onNode (stageStart h.toNat errs) s
/-- `RESCALE_TABLE_LOAD`. -/
def execRescaleTableLoad (c : Fin 32) (k : Fin 8) (wset : Word) (layer : Nat) (proj : Fin 4) (part : Nat) (s : State) : Outcome State Fault Refusal :=
  onNode (fun _ => tableLoad c.val k.val wset.toNat layer proj.val part) s

end Sys2Proof.Machine
end

