-- ==== Sys2Proof/Machine/Confluence.lean ====
section
/-! DEFINITION. The confluence engine (06): partial messages, lanes, finalising, the cut, `MERGE` (R136 to R147). -/

namespace Sys2Proof.Machine

open Host (Outcome)

/-! Lanes (R138). -/

/-- What a lane leaves: records held, a root, arithmetic merges made, whether it holds one more record. -/
structure Lane where
  held : List HeldRec
  root : Option Bytes
  merges : Nat
  waits : Bool
  deriving DecidableEq, Repr

/-- Does the range of tree node (k, i) hold nothing for a pair: wholly at or above NG, or structurally empty (R138). -/
def sideEmpty (s : Shape) (g t k i : Nat) : Bool := s.ng ≤ i * 2 ^ k || s.empty g t k i

/-- The lowest slot that no held record takes. -/
def freeSlot (held : List HeldRec) : Nat :=
  ((List.range (held.length + 1)).find? fun k => !held.any fun x => x.slot == k).getD held.length

/-- A lane with a record for node (k, i) of a pair of row `t` and query head `q` in group `g`; `fuel` bounds the levels. -/
def lane (s : Shape) (g t q holder : Nat) : Nat → Nat → Nat → Bytes → List HeldRec → Lane
  | 0, k, i, r, held => ⟨held ++ [⟨t * s.qh + q, k, i, holder, r, freeSlot held⟩], none, 0, true⟩
  | f + 1, k, i, r, held =>
    let sib := if i % 2 = 0 then i + 1 else i - 1
    let isSib (x : HeldRec) : Bool := x.pair == t * s.qh + q && x.level == k && x.index == sib
    if k = treeK s.ng then ⟨held, some r, 0, false⟩
    else
      match held.find? isSib with
      | some x =>
        let m := if i % 2 = 0 then mergeParts (recordPart s.dim r) (recordPart s.dim x.data)
          else mergeParts (recordPart s.dim x.data) (recordPart s.dim r)
        let l := lane s g t q holder f (k + 1) (i / 2) (partRecord m.part (k + 1) (i / 2) t q) (held.filter fun y => !isSib y)
        { l with merges := l.merges + b2n m.arith }
      | none =>
        if sideEmpty s g t k sib then lane s g t q holder f (k + 1) (i / 2) r held
        else ⟨held ++ [⟨t * s.qh + q, k, i, holder, r, freeSlot held⟩], none, 0, true⟩

/-! Records in the spill area (R136). -/

/-- The terrace-1 address of line `k` of a slot of the spill area. -/
def spillLine (n : Node) (c : Chain) (slot k : Nat) : Nat :=
  2 ^ 20 * rd n Rg.cflSpillBaseLoBase + 2 ^ 32 * rd n Rg.cflSpillBaseHiBase
    + 64 * unitAt c.spillAt ((slot - c.buf) * strideUnits c.post.dim + k)

/-- Does a held record lie in the spill area. -/
def spilled (c : Chain) (x : HeldRec) : Bool := c.buf ≤ x.slot

/-- A held record with its bytes, read back where it lies in the spill area. -/
def loadRec (n : Node) (c : Chain) (x : HeldRec) : HeldRec :=
  if spilled c x then
    { x with data := (List.range (strideUnits c.post.dim)).flatMap fun k => Mem.read 0 n.t1 (spillLine n c x.slot k) 64 }
  else x

/-- Does a held record meet poison in the spill area. -/
def spillPoison (n : Node) (c : Chain) (x : HeldRec) : Bool :=
  spilled c x && (List.range (strideUnits c.post.dim)).any fun k => (t1Poison n (spillLine n c x.slot k) 64).isSome

/-- Write the bytes of a held record to its slot of the spill area. -/
def storeRec (t : Tck) (n : Node) (c : Chain) (x : HeldRec) : Node :=
  if spilled c x then
    (List.range (strideUnits c.post.dim)).foldl (fun m k => (lineWrite t m (spillLine n c x.slot k) (slice x.data (64 * k) 64)).1) n
  else n

/-- A held record as the chain keeps it: without the bytes that the spill area holds. -/
def keptRec (c : Chain) (x : HeldRec) : HeldRec := if spilled c x then { x with data := [] } else x

/-! Arriving records (R139). -/

/-- The header of a partial message. -/
structure PHead where
  kind : Nat
  group : Nat
  node : Nat
  tag : Nat
  holder : Nat
  count : Nat
  status : Nat
  fpn : Nat
  /-- Reserved bytes are 0 and, for KIND 0x10, the records fill the message. -/
  ok : Bool
  deriving DecidableEq, Repr

/-- Read the header of a message for a chain of head dimension `d`. -/
def pHead (d : Nat) (b : Bytes) : PHead where
  kind := byteAt b 0
  group := field b 2 2
  node := field b 4 4
  tag := field b 8 8
  holder := field b 16 2
  count := field b 18 2
  status := field b 20 2
  fpn := field b 24 8
  ok := byteAt b 1 == 0 && field b 22 2 == 0 && field b 16 2 < 8192 && field b 20 2 == 0 && field b 24 8 == 0
    && 1 ≤ field b 18 2 && field b 18 2 ≤ 128 && b.length == 32 + field b 18 2 * recStride d

/-- Is a record of a message malformed (R129, R139). -/
def recordWrong (s : Shape) (h : PHead) (r : Bytes) : Bool :=
  let k := h.node / 2 ^ 27
  let i := h.node % 2 ^ 27
  let t := field r 12 2
  let q := byteAt r 14
  recordBad s.dim r || s.rows ≤ t || s.qh ≤ q || q / s.perGroup != h.group || field r 8 4 != h.node || s.groups ≤ h.group || treeK s.ng < k
    || 2 ^ (treeK s.ng - k) ≤ i || s.empty h.group t k i

/-- Is a node of a pair already held, merged or stored (R139). -/
def covered (c : Chain) (pair k i : Nat) : Bool :=
  mhas c.roots pair || (c.seen.any fun x => x.pair == pair && x.level == k && x.index == i)
    || (c.held.any fun x => x.pair == pair && k ≤ x.level && i / 2 ^ (x.level - k) == x.index)

/-- A message in progress: the chain, the node, and whether a record has failed it. -/
structure Arrive where
  c : Chain
  n : Node
  bad : Bool
  deriving DecidableEq, Repr

/-- Count a failure of R139 and record it. -/
def recordFails (t : Tck) (a : Arrive) (code : Nat) (args : Bytes) : Arrive :=
  { a with n := raise t (bump a.n Rg.cflDupMismatch 1) code args, bad := true }

/-- A lane with an arriving record, over the records held: those in the spill area are read back, and one that then waits is written there (R136, R138). A poisoned
line of the spill area loses its request. DESIGN CHOICE: log entry 58. -/
def laneRecord (t : Tck) (h : PHead) (a : Arrive) (row q : Nat) (r : Bytes) : Arrive :=
  let s := chainShape a.c.post
  let pair := row * s.qh + q
  let l := lane s h.group row q h.holder (treeK s.ng + 1) (h.node / 2 ^ 27) (h.node % 2 ^ 27) r (a.c.held.map (loadRec a.n a.c))
  let used := a.c.held.filter fun x => !l.held.any fun y => y.slot == x.slot && y.pair == x.pair && y.level == x.level
  let fresh := if l.waits then (l.held.getLast?).toList else []
  let c1 := { a.c with
    held := l.held.map (keptRec a.c), seen := a.c.seen ++ [⟨pair, h.node / 2 ^ 27, h.node % 2 ^ 27, h.holder, r, 0⟩]
    roots := match l.root with | some x => mset a.c.roots pair x | none => a.c.roots }
  let n1 := pmc (bump a.n Rg.cflMergesCount l.merges) 48 0x4001 l.merges
  let n2 := fresh.foldl (fun m x => storeRec t m a.c x) n1
  { c := c1, n := bump n2 Rg.cflSpillsCount (fresh.filter (spilled a.c)).length, bad := used.any (spillPoison a.n a.c) }

/-- One record of a message (R138, R139). -/
def arriveRecord (t : Tck) (h : PHead) (a : Arrive) (r : Bytes) : Arrive :=
  let s := chainShape a.c.post
  let k := h.node / 2 ^ 27
  let i := h.node % 2 ^ 27
  let row := field r 12 2
  let q := byteAt r 14
  let pair := row * s.qh + q
  if a.bad then a
  else if recordWrong s h r then recordFails t a evCflBadRecord (leBytes 8 h.tag)
  else if covered a.c pair k i then
    match a.c.seen.find? fun x => x.pair == pair && x.level == k && x.index == i with
    | some x =>
      if x.data = r then { a with n := bump a.n Rg.cflDupSame 1 }
      else recordFails t a evCflDupMismatch (leBytes 8 h.tag ++ leBytes 4 h.node ++ leBytes 2 x.holder ++ leBytes 2 h.holder)
    | none => recordFails t a evCflDupMismatch (leBytes 8 h.tag ++ leBytes 4 h.node ++ leBytes 2 h.holder ++ leBytes 2 h.holder)
  else laneRecord t h a row q r

/-- Is the chain of a request. -/
def Chain.isOf (c : Chain) (home handle : Nat) : Bool := c.post.home == home && c.post.handle == handle

/-- Put a chain back. -/
def setChain (n : Node) (c : Chain) : Node :=
  { n with cfl := { n.cfl with chains := lmodify n.cfl.chains (fun x => x.isOf c.post.home c.post.handle) fun _ => c } }

/-- Latch the greatest held volume in `CFL_HELD_HIGH`. -/
def latchHeld (n : Node) : Node :=
  let v := (n.cfl.chains.map fun c => c.held.length * strideUnits c.post.dim).foldl (· + ·) 0
  wr n Rg.cflHeldHighHigh (max v (rd n Rg.cflHeldHighHigh))

/-! Finalising (R143 to R145). -/

/-- The part of node (k, i) of a pair from what is held, with identities for what is missing (R144): with its arithmetic merges. -/
def assemble (d : Nat) (held : List HeldRec) (pair : Nat) : Nat → Nat → Part × Nat
  | 0, i =>
    match held.find? fun x => x.pair == pair && x.level == 0 && x.index == i with
    | some x => (recordPart d x.data, 0)
    | none => (idPart d, 0)
  | k + 1, i =>
    match held.find? fun x => x.pair == pair && x.level == k + 1 && x.index == i with
    | some x => (recordPart d x.data, 0)
    | none =>
      let a := assemble d held pair k (2 * i)
      let b := assemble d held pair k (2 * i + 1)
      let m := mergeParts a.1 b.1
      (m.part, a.2 + b.2 + b2n m.arith)

/-- A pair's root, with the merges its assembly takes. -/
def rootOf (c : Chain) (pair : Nat) : Part × Nat :=
  match mget? c.roots pair with
  | some r => (recordPart c.post.dim r, 0)
  | none => assemble c.post.dim c.held pair (treeK c.post.ng) 0

/-- The elements of an output vector (R143). -/
def normalise (p : Part) : List Nat :=
  if p.isNan then p.o.map fun _ => fNan else if p.isId then p.o.map fun _ => 0 else p.o.map fun x => fDiv x p.l

/-- A root in an output form, with its narrowing (R143). -/
def outBytes (form k row q : Nat) (p : Part) : Bytes × Row :=
  if form = 0 then (partRecord p k 0 row q, ⟨[], [], 0, 0, 0⟩)
  else
    let y := normalise p
    if form = 1 then (y.flatMap (leBytes 4), ⟨[], [], 0, 0, 0⟩)
    else
      let r := narrowRow 1 y
      (packElems 1 r.elems, r)

/-- Sum of narrowings. -/
def sumRows (l : List Row) : Row := l.foldl (fun a r => ⟨[], [], a.conv + r.conv, a.clip + r.clip, a.nonfin + r.nonfin⟩) ⟨[], [], 0, 0, 0⟩

/-- Take a finalised chain out: its reservation is released, its later messages are late (R136, R140). -/
def dropChain (n : Node) (c : Chain) : Node :=
  { n with cfl := { n.cfl with
    chains := n.cfl.chains.filter fun x => !x.isOf c.post.home c.post.handle
    done := n.cfl.done ++ [(c.post.home, c.post.handle)] } }

/-- Send a result message to the home node, or hand it to the return step here (R141). -/
def sendResult (t : Tck) (n : Node) (m : ResultMsg) : Node :=
  if m.home = nodeId n then returnStep t n m else if fencedNode n then n else emit n (.resultMsg m.home m)

/-- Finalise without a result. -/
def finalBad (t : Tck) (n : Node) (c : Chain) (status fpn : Nat) : Node :=
  sendResult t (dropChain n c) ⟨c.post.home, c.post.handle, status, fpn, [], [], [], c.late, c.bank, c.count != 0⟩

/-- Finalise with every root, missing units as identities, over held records with their bytes (R143 to R145). -/
def finalRoots (t : Tck) (n : Node) (c : Chain) (missing : List (Nat × Nat)) : Node :=
  let s := chainShape c.post
  let pairs := (List.range s.rows).flatMap fun r => (List.range s.qh).map fun q => (r, q)
  let roots := pairs.map fun x => (x, rootOf c (x.1 * s.qh + x.2))
  let merges := (roots.map fun x => x.2.2).foldl (· + ·) 0
  let outs := roots.map fun x => outBytes c.post.outForm (treeK s.ng) x.1.1 x.1.2 x.2.1
  let n1 := pmc (bump (dropChain n c) Rg.cflMergesCount merges) 48 0x4001 merges
  let n2 := bump n1 Rg.cflNonfiniteCount (roots.filter fun x => x.2.1.isNan).length
  let n3 := countRow t n2 6 (sumRows (outs.map (·.2)))
  let n4 := if missing.isEmpty then n3 else bump (bump n3 Rg.cflMissingCount missing.length) Rg.cflOutcomePartial 1
  let hash := if c.post.sealed then
      sha384 (roots.flatMap fun x => (outBytes 0 (treeK s.ng) x.1.1 x.1.2 x.2.1).1)
    else []
  sendResult t (stamp t n4 c.post.handle 5)
    ⟨c.post.home, c.post.handle, if missing.isEmpty then stOk else stOkPartial, 0, missing, outs.flatMap (·.1), hash, c.late, c.bank,
      c.count != 0⟩

/-- Finalise with a result (R143 to R145): records still held in the spill area are read back, and poison there loses the request. -/
def finalGood (t : Tck) (n : Node) (c : Chain) (missing : List (Nat × Nat)) : Node :=
  if c.held.any (spillPoison n c) then finalBad t n c stStateLost 0
  else finalRoots t n { c with held := c.held.map (loadRec n c) } missing

/-- Messages that fire a chain (R133, R141). -/
def threshold (c : Chain) : Nat := (c.post.units.map fun u => u.2.2.2.2).foldl (· + ·) 0

/-- Does every pair that is not structurally empty throughout hold a root. -/
def allRoots (c : Chain) : Bool :=
  let s := chainShape c.post
  (List.range s.groups).all fun g => (liveRows s g (treeK s.ng) 0).all fun t => (List.range s.perGroup).all fun q =>
    mhas c.roots (t * s.qh + g * s.perGroup + q)

/-- Is a send unit outstanding: some pair it carries has not arrived. -/
def outstanding (c : Chain) (u : Nat × Nat × Nat × Nat × Nat) : Bool :=
  let s := chainShape c.post
  (liveRows s u.1 u.2.1 u.2.2.1).any fun t => (List.range s.perGroup).any fun q =>
    !c.seen.any fun x => x.pair == t * s.qh + u.1 * s.perGroup + q && x.level == u.2.1 && x.index == u.2.2.1

/-- The granule items of outstanding units, by group and granule: structurally empty ones are never missing (R145). -/
def missingItems (c : Chain) : List (Nat × Nat) :=
  let s := chainShape c.post
  let us := c.post.units.filter (outstanding c)
  (List.range s.groups).flatMap fun g => ((List.range s.ng).filter fun i =>
    us.any (fun u => u.1 == g && i / 2 ^ u.2.1 == u.2.2.1) && !s.itemEmpty g i).map fun i => (g, i)

/-- Finalise a chain all of whose units have come, or whose outstanding units are all lost holders' (R141, R144 row 3); otherwise leave it. -/
def tryFire (t : Tck) (n : Node) (c : Chain) : Node :=
  let out := c.post.units.filter (outstanding c)
  if threshold c ≤ c.count && allRoots c then finalGood t n c []
  else if !c.post.sealed && !out.isEmpty && out.all (fun u => c.lost.contains u.2.2.2.1) then finalGood t n c (missingItems c)
  else n

/-- The cut of a chain (R144): rows 3 to 5. -/
def cutChain (t : Tck) (n : Node) (c : Chain) : Node :=
  let out := c.post.units.filter (outstanding c)
  if out.isEmpty then finalGood t n c []
  else if c.post.sealed then finalBad t n c (if out.any (fun u => c.lost.contains u.2.2.2.1) then stPeerLost else stDeadline) 0
  else finalGood t n c (missingItems c)

/-- Holders that have left the map, as a new epoch shows: a sealed request with an outstanding unit of one ends at once (R144 row 3, R347). A
request whose cut has come by then finalises as at its cut. -/
def holdersLost (t : Tck) (lost : List Nat) (n : Node) : Node :=
  n.cfl.chains.foldl
    (fun m c0 =>
      let c := { c0 with lost := c0.lost ++ lost.filter fun k => !c0.lost.contains k }
      let hit := (c.post.units.filter (outstanding c)).any fun u => lost.contains u.2.2.2.1
      if t.at c.post.deadline 48 ≤ t.now then cutChain t m c0
      else if !hit then m
      else if c.post.sealed then finalBad t m c stPeerLost 0
      else tryFire t (setChain m c) c)
    n

/-! Messages (R140, R141, R144). -/

/-- A KIND 0x10 message for a chain (R138, R139, R141). -/
def takePartials (t : Tck) (n : Node) (c : Chain) (b : Bytes) (late bank : Bool) : Node :=
  let h := pHead c.post.dim b
  let c1 := { c with count := c.count + 1, late := c.late || late, bank := c.bank || bank
                     got := c.got ++ [(h.group, h.node / 2 ^ 27, h.node % 2 ^ 27, h.holder)] }
  if !h.ok then finalBad t (recordFails t ⟨c1, n, false⟩ evCflBadRecord (leBytes 8 h.tag)).n c1 stStateLost 0
  else
    let recs := chunksOf (recStride c.post.dim) h.count (b.drop 32)
    let a := recs.foldl (arriveRecord t h) ⟨c1, n, false⟩
    if a.bad then finalBad t a.n a.c stStateLost 0
    else
      let n2 := latchHeld (setChain a.n a.c)
      if threshold a.c ≤ a.c.count then stamp t n2 c.post.handle 4 else n2

/-- Does a request have a held record in an 8-byte word of the confluence buffer. -/
def inWord (c : Chain) (w : Nat) : Bool :=
  c.held.any fun x => !spilled c x && (List.range (strideUnits c.post.dim)).any fun k =>
    unitAt c.bufAt (x.slot * strideUnits c.post.dim + k) == w / 8

/-- Words of the confluence buffer found uncorrectable: every request with a record in one finalises with `ST_STATE_LOST` (R229). -/
def cflWordsLost (t : Tck) (ws : List Nat) (n : Node) : Node :=
  (n.cfl.chains.filter fun c => ws.any (inWord c)).foldl (fun m c => finalBad t m c stStateLost 0) n

/-- A message for the confluence engine, with what its holder reports beside it. -/
def partialReceive (b : Bytes) (late bank : Bool) (t : Tck) (n : Node) : Node :=
  let home := field b 12 4 % 2 ^ 13
  let handle := field b 8 4
  match n.cfl.chains.find? fun c => c.isOf home handle && field b 8 8 == handle + home * 2 ^ 32 with
  | none =>
    if n.cfl.done.any fun x => x.1 == home && x.2 == handle && field b 8 8 == handle + home * 2 ^ 32 then bump n Rg.cflDiscardLate 1
    else bump n Rg.cflDiscardUnknown 1
  | some c =>
    if t.at c.post.deadline 48 ≤ t.now then bump (cutChain t n c) Rg.cflDiscardLate 1
    else if byteAt b 0 = 0x11 then finalBad t n { c with late := c.late || late, bank := c.bank || bank } (field b 20 2) (field b 24 8 % 2 ^ 45)
    else if byteAt b 0 = 0x10 then takePartials t n c b late bank
    else n

/-- `PARTIAL_MESSAGE_RECEIVE`: the message, and the faults of the confluence buffer that its reads meet (R229). -/
def partialIn (b : Bytes) (late bank : Bool) (sram : List SramFault) (t : Tck) (n : Node) : Node :=
  partialReceive b late bank t (cflWordsLost t (lostWords sram arrConfluence) (sramFaults t n sram))

/-- `CONFLUENCE_CHAIN_FIRE` (R141). -/
def chainFire (home handle : Nat) (t : Tck) (n : Node) : Node :=
  match n.cfl.chains.find? (·.isOf home handle) with
  | some c => if t.now < t.at c.post.deadline 48 then tryFire t n c else n
  | none => n

/-- The home node's own part of a cut: an attention command whose descriptors have not gone out ends with `ST_DEADLINE` (R46, R106, R137). -/
def cutHome (h : Nat) (t : Tck) (n : Node) : Node :=
  match findCmd n h with
  | none => n
  | some c =>
    if attends c.op && c.stage == .running && t.at c.deadline 48 ≤ t.now && !(n.att.steps.any fun s => s.handle == h && s.sent) then
      complete t (allocOver (dropStep n h) h) h (unsentStatus n h) (attEnd n c)
    else n

/-- `CUT` (R144, R217): the request finalises here, its items here are abandoned, and a command that never launched ends. -/
def cut (home handle : Nat) (t : Tck) (n : Node) : Tck × Node :=
  let n1 := match n.cfl.chains.find? (·.isOf home handle) with
    | some c => if t.at c.post.deadline 48 ≤ t.now then cutChain t n c else n
    | none => n
  let n2 := if home = nodeId n then cutHome handle t n1 else n1
  match findShare n2 home handle with
  | some s => if t.at s.desc.deadline 48 ≤ t.now then abandon home handle t n2 else (t, n2)
  | none => (t, n2)

/-! MERGE (R147). -/

/-- Leaves of a `MERGE`. -/
def mergeLeaves (c : Cmd) : Nat := if c.f 44 2 = 0 then 65536 else c.f 44 2

/-- Offending fields of `MERGE`. -/
def mergeOffs (c : Cmd) : List Nat :=
  offIf (!mult (c.f 24 8) 64) 24 ++ offIf (!mult (c.f 32 8) 64) 32
  ++ offIf (c.f 40 4 == 0 || 262144 < c.f 40 4 || 16777216 < c.f 40 4 * mergeLeaves c) 40
  ++ offIf (c.f 46 2 < 32 || 256 < c.f 46 2 || !mult (c.f 46 2) 32) 46 ++ offIf (2 < c.f 48 1) 48 ++ rsv c 49 63

/-- The records of a `MERGE`, by pair. -/
def mergeRecords (n : Node) (c : Cmd) : List (List Bytes) :=
  let leaves := mergeLeaves c
  let d := c.f 46 2
  (List.range (c.f 40 4)).map fun p => (List.range leaves).map fun j => hostRead n c.mem (c.f 24 8 + (p * leaves + j) * recStride d) (recStride d)

/-- The root of a pair of a `MERGE`, with its merges. -/
def mergeRoot (c : Cmd) (l : List Bytes) : Part × Nat := treeRoot (c.f 46 2) (treeK (mergeLeaves c)) (l.map (recordPart (c.f 46 2)))

/-- The root of a pair in the form named. -/
def mergeOut (c : Cmd) (l : List Bytes) : Bytes × Row :=
  outBytes (c.f 48 1) (treeK (mergeLeaves c)) (field (l.headD []) 12 2) (byteAt (l.headD []) 14) (mergeRoot c l).1

/-- NaN roots of a `MERGE`. -/
def mergeNans (c : Cmd) (pairs : List (List Bytes)) : Nat := (pairs.filter fun l => (mergeRoot c l).1.isNan).length

/-- Count the merges, NaN roots and conversions of a `MERGE`. -/
def mergeCounted (t : Tck) (n : Node) (c : Cmd) (pairs : List (List Bytes)) : Node :=
  let merges := (pairs.map fun l => (mergeRoot c l).2).foldl (· + ·) 0
  countRow t (pmc (bump (bump n Rg.cflMergesCount merges) Rg.cflNonfiniteCount (mergeNans c pairs)) 48 0x4001 merges) 6
    (sumRows (pairs.map fun l => (mergeOut c l).2))

/-- Merge the records of a `MERGE` and write its output. -/
def mergeRun (t : Tck) (n : Node) (c : Cmd) : Node :=
  let pairs := mergeRecords n c
  if pairs.any fun l => l.any (recordBad (c.f 46 2)) then badParam t n c.handle 24
  else
    complete t (hostWrite (mergeCounted t n c pairs) c.mem (c.f 32 8) (pairs.flatMap fun l => (mergeOut c l).1)) c.handle stOk
      (leBytes 4 (c.f 40 4) ++ leBytes 4 (mergeNans c pairs))

/-- `MERGE`. -/
def merge (h : Nat) (t : Tck) (n : Node) : Node :=
  withCmd n h opMerge fun c => checked t n c (mergeOffs c) (mergeRun t n c)

/-! The commands. -/

/-- `CONFLUENCE_CHAIN_FIRE`. -/
def execConfluenceChainFire (home : BitVec 13) (handle : Word) (s : State) : Outcome State Fault Refusal :=
  onNode (chainFire home.toNat handle.toNat) s
/-- `CUT`. -/
def execCut (home : BitVec 13) (handle : Word) (s : State) : Outcome State Fault Refusal := onBoth (cut home.toNat handle.toNat) s
/-- `MERGE`. -/
def execMerge (h : Word) (s : State) : Outcome State Fault Refusal := onNode (merge h.toNat) s

end Sys2Proof.Machine
end

