-- ==== Sys2Proof/Machine/Terrace.lean ====
section
/-! DEFINITION. Terraces (09): `MIGRATE`, `PIN`, `UNPIN`, `PLACE_HINT` (R209 to R214), the movers (R201 to R204), heat (R205, R206), the cache's cleaner (R198),
allocations that waited (R200), the direct partition (R199). -/

namespace Sys2Proof.Machine

open Host (Outcome)

/-! ## Selections (R209, R210) -/

/-- KIND of a selector. -/
def selKind (c : Cmd) : Nat := c.f 40 1 % 4

/-- The FPNs of a KIND 0 selection. -/
def selFpns (n : Node) (c : Cmd) : List Nat := (List.range (c.f 36 4)).map fun j => ofLe (hostRead n c.mem (c.f 24 8 + 8 * j) 8)

/-- Is a first position in the span of a KIND 1 selection. -/
def inSpan (c : Cmd) (p : Nat) : Bool := c.f 32 4 ≤ p && (c.f 36 4 == 0 || p < c.f 32 4 + c.f 36 4)

/-- Is a layer and group selected by KIND 1. -/
def inPlaceSel (c : Cmd) (l g : Nat) : Bool := (c.f 42 2 == 0xFFFF || c.f 42 2 == l) && (c.f 41 1 == 0xFF || c.f 41 1 == g)

/-- The shared prefix pages of this node that the bodies of a sequence name within a selection. -/
def sharedSel (n : Node) (c : Cmd) (s : Seqn) : List Nat :=
  s.lists.flatMap fun p =>
    if inPlaceSel c (p.1 / s.groups) (p.1 % s.groups) then
      let fs := plFpns n p.2
      (List.range fs.length).filterMap fun i =>
        let f := fs.getD i 0
        let shared := match pageAt n (fpnIdx f) with
          | some e => e.pref
          | none => false
        if fpnNode f == nodeId n && shared && inSpan c (p.2.posBase + 64 * i) then some (fpnIdx f) else none
    else []

/-- Does a selection of KIND 1 take a whole sequence, and with it its pages that no body has placed (R103). -/
def wholeSel (c : Cmd) : Bool := c.f 42 2 == 0xFFFF && c.f 41 1 == 0xFF && c.f 32 4 == 0 && c.f 36 4 == 0

/-- The pages of this node that a selection of KIND 0 or 1 holds, by local index. `named` gives, for a sequence homed elsewhere, the shared prefix pages of this node
that its bodies name within the selection, as its home answers (R209). -/
def selPages (n : Node) (c : Cmd) (named : List Nat) : List Nat :=
  if selKind c = 0 then dedupNat ((selFpns n c).map fpnIdx)
  else if selKind c = 1 then
    let own := n.ter.pages.filterMap fun e =>
      if e.2.seq == c.f 24 8 && !e.2.pref then
        match e.2.place with
        | some (l, g, p) => if inPlaceSel c l g && inSpan c p then some e.1 else none
        | none => if wholeSel c then some e.1 else none
      else none
    let shared := match mget? n.seqs.open_ (c.f 24 8) with
      | some s => sharedSel n c s
      | none => named.filter fun i => (pageAt n i).any (·.pref)
    dedupNat (own ++ shared)
  else []

/-- Offending fields of a selector (R9, R209, R210). -/
def selOffs (n : Node) (c : Cmd) : List Nat :=
  let k := selKind c
  offIf (4 ≤ c.f 40 1) 40 ++ offIf (k == 3) 32
    ++ (if k = 0 then offIf (!mult (c.f 24 8) 8) 24 ++ rsv c 32 35 ++ offIf (c.f 36 4 == 0 || 65536 < c.f 36 4) 36
        else if k = 1 then offIf (!mult (c.f 32 4) 64) 32 ++ offIf (!mult (c.f 36 4) 64) 36
        else if k = 2 then offIf (setFor n c (c.f 24 4)).isNone 24 ++ rsv c 28 31 else [])
    ++ (if k = 1 then [] else rsv c 41 41 ++ rsv c 42 43)

/-- Does a selection name what is not the tenant's or not here (R210). -/
def selForeign (n : Node) (c : Cmd) : Bool :=
  if selKind c = 0 then (selFpns n c).any fun f => 2 ^ 45 ≤ f || fpnNode f != nodeId n || (pageAt n (fpnIdx f)).isNone
  else if selKind c = 1 then
    match mget? n.map.map.comps (compOf (c.f 24 8)) with
    | some e => e.tenant != rd n Rg.secStatusTenant
    | none => false
  else false

/-- Run a placement command whose selector is in order; of KIND 1 it waits for earlier commands on its sequence (R72). -/
def withSel (t : Tck) (n : Node) (c : Cmd) (offs : List Nat) (body : Node) : Node :=
  if seqHeld n c then n
  else checked t n c (selOffs n c ++ offs) (if selForeign n c then complete t n c.handle stNotOwner [] else body)

/-- RESULT of R210. -/
def placeResult (acted already skipped : Nat) : Bytes := leBytes 4 acted ++ leBytes 4 already ++ leBytes 4 skipped

/-! ## Moves (R201 to R204) -/

/-- Is a page held by a snapshot or a resolved descriptor: of an item or a foreign page of a share that stands here (R202). -/
def pageHeld (n : Node) (idx : Nat) : Bool :=
  let f := mkFpn (nodeId n) idx
  n.seqs.snaps.any (fun s => s.fpns.contains f) || n.att.items.any (fun i => i.pages.any fun p => p.2 == f)
    || n.att.shares.any fun s => s.desc.items.any (fun i => i.pages.any fun p => p.2 == f) || s.desc.foreign.any (·.1 == f)

/-- Do a page's frames lie outside the OPEN state (R202). -/
def framesTaken (n : Node) (e : PageEnt) : Bool := (List.range (e.foot / 4096)).any fun k => frameKind n (e.addr + 4096 * k) != 0

/-- May a page in terrace 1 be moved below it (R202). -/
def mayDemote (n : Node) (idx : Nat) (e : PageEnt) : Bool := e.fill == 64 && !framesTaken n e && !pageHeld n idx && e.pin != 1

/-- Has a page still to move to reach a destination. -/
def wantsMove (n : Node) (e : PageEnt) (dest : Nat) (pch : Option Nat) : Bool :=
  if dest = 1 then e.terrace != 1 || (match pch with | some p => pchOf e.addr != p | none => !pchInService n (pchOf e.addr))
  else pageTerrace n e != dest

/-- May a move take a page there (R202, R207); the retirement of its channel takes every page but one in BSU-state frames (R236). -/
def moveAllowed (n : Node) (idx : Nat) (e : PageEnt) (dest : Nat) : Bool :=
  if dest = 1 && e.terrace = 1 && !pchInService n (pchOf e.addr) then (List.range (e.foot / 4096)).all fun k => frameKind n (e.addr + 4096 * k) != 2
  else if dest = 1 then e.terrace != 1 || (!framesTaken n e && e.pin != 1)
  else if dest < pageTerrace n e then true
  else if e.terrace = 1 then mayDemote n idx e && (dest == 2 || e.pin != 2)
  else e.pin != 2

/-- Free share of terrace 1 at or above LOW after `len` more bytes are taken (R206, R207). -/
def staysAboveLow (n : Node) (len : Nat) : Bool := rd n Rg.terWmLow * t1Total n ≤ 100 * (t1Free n - len / 4096)

/-- Poisoned lines of a run, as offset and kind. -/
def runPoisons (m : NMap Nat) (a len : Nat) : List (Nat × Nat) :=
  m.filterMap fun x => if a ≤ x.1 && x.1 < a + len then some (x.1 - a, x.2) else none

/-- Put poison marks on a run whose marks are cleared first. -/
def markRun (m : NMap Nat) (a len : Nat) (l : List (Nat × Nat)) : NMap Nat :=
  l.foldl (fun x p => mset x (a + p.1) p.2) (m.filter fun x => x.1 < a || a + len ≤ x.1)

/-- Is a page exempt from heat moves after a `MIGRATE`. -/
def settling (t : Tck) (n : Node) (e : PageEnt) : Bool :=
  match e.settled with
  | some k => t.tick < k + 2 ^ rd n Rg.terHeatCfgDecay
  | none => false

/-- Change a page's entry. -/
def modPage (n : Node) (idx : Nat) (f : PageEnt → PageEnt) : Node :=
  { n with ter := { n.ter with pages := mmod n.ter.pages idx f } }

/-- The pseudo-channel of the page that precedes one in its granule, when it lies here in terrace 1 (R200). On a node that does not home the sequence every preceding page
counts: log entry 70. -/
def pagePrev (n : Node) (e : PageEnt) : Option Nat :=
  match e.place with
  | none => none
  | some (l, g, p) =>
    let same : Bool := match mget? n.seqs.open_ e.seq with
      | some s => p / 64 % 2 ^ s.granule != 0
      | none => p != 0
    if !same then none
    else (n.ter.pages.find? fun x => x.2.seq == e.seq && x.2.place == some (l, g, p - 64) && x.2.terrace == 1).map fun x => pchOf x.2.addr

/-- Lines that a mover found poisoned (R204). -/
def notePoison (t : Tck) (n : Node) (idx : Nat) (l : List (Nat × Nat)) : Node :=
  if l.isEmpty then n else raise t n evTerMovePoison (leBytes 8 (mkFpn (nodeId n) idx))

/-- The source of a finished move, freed once no earlier reader is left (R94, R201). -/
def freeSource (t : Tck) (n : Node) (e : PageEnt) : Node :=
  let n1 := if e.terrace = 1 then n else (sectors e.addr e.foot).foldl cacheDrop n
  { n1 with ter := { n1.ter with freed := n1.ter.freed ++ [(t.tick, e.terrace, e.addr, e.foot)] } }

/-- A page copied into frames of terrace 1 at `a` (R201). -/
def moveUp (t : Tck) (n : Node) (idx a : Nat) (e : PageEnt) : Node :=
  let bad := runPoisons (if e.terrace = 1 then n.mic.poison else n.mic.poison3) e.addr e.foot
  let data := pageRead n e 0 e.foot
  let n1 := freeSource t n e
  let n2 := { n1 with t1 := Mem.write 0 n1.t1 a data, mic := { n1.mic with poison := markRun n1.mic.poison a e.foot bad } }
  let n3 := if e.terrace = 1 then n2 else bump n2 Rg.terMovesPromoted 1
  notePoison t (modPage n3 idx fun x => { x with terrace := 1, addr := a }) idx bad

/-- A page copied to sectors of terrace 3 at `a`: through the cache for terrace 2, to flash for terrace 3. -/
def moveDown (t : Tck) (n : Node) (idx a dest : Nat) (e : PageEnt) : Node :=
  let bad := runPoisons n.mic.poison e.addr e.foot
  let data := pageRead n e 0 e.foot
  let n1 := freeSource t n e
  let n2 := { n1 with
    ter := { n1.ter with t3 := Mem.write 0 n1.ter.t3 a data }
    mic := { n1.mic with poison3 := markRun n1.mic.poison3 a e.foot bad } }
  let n3 := bump (modPage n2 idx fun x => { x with terrace := 3, addr := a }) Rg.terMovesDemoted 1
  notePoison t (if dest = 2 then (sectors a e.foot).foldl (cacheSector true) n3 else (sectors a e.foot).foldl coarsen n3) idx bad

/-- Where a page goes in terrace 1: the pseudo-channel named, while it is in service, else by the order of R200 (R196, R211). -/
def upPlace (n : Node) (r : MoveReq) (e : PageEnt) : Option Nat :=
  match r.pch.filter (pchInService n) with
  | some p => freeRun n p e.foot
  | none => placeRun n e.comp e.foot none (pagePrev n e)

/-- Does a write into the cache meet a set whose blocks are all pinned (R198). -/
def setFull (n : Node) (a len : Nat) : Bool := 0x100000 ≤ cacheBytes n && (sectors a len).any fun x => (cacheRoom n (x / 16)).isNone

/-- Count once that a page's move waits for a block of the cache (R198). -/
def fullWait (n : Node) (idx : Nat) : Node :=
  if n.ter.fullTold.contains idx then n
  else bump { n with ter := { n.ter with fullTold := n.ter.fullTold ++ [idx] } } Rg.terT2StatusSetFull 1

/-- Carry out a move that is allowed and wanted: whether it is done, or waits for room, with the node it leaves (R198, R201, R206, R207, R211). -/
def movePage (t : Tck) (n : Node) (r : MoveReq) (idx : Nat) (e : PageEnt) : Node × Bool :=
  let m := if e.terrace = 1 then n else touchSectors n e.addr e.foot
  let found := pagePoisonLines n e
  if r.dest = 1 then
    if r.cls != 1 && e.terrace != 1 && !staysAboveLow n e.foot then (n, false)
    else
      match upPlace n r e with
      | some a => (moveUp t m idx a e, true)
      | none => (n, false)
  else if e.terrace = 1 then
    match t3Alloc n e.foot with
    | none => (n, false)
    | some a => if r.dest = 2 && setFull n a e.foot then (fullWait n idx, false) else (moveDown t n idx a r.dest e, true)
  else if r.dest = 2 then (notePoison t ((sectors e.addr e.foot).foldl (cacheSector false) n) idx found, true)
  else (notePoison t ((sectors e.addr e.foot).foldl cacheDrop m) idx found, true)

/-- A page of a placement command has been dealt with: counted, pinned where the command pins, and exempt from heat for a while (R206, R210, R212). -/
def jobPage (t : Tck) (n : Node) (r : MoveReq) (idx moved skipped : Nat) : Node :=
  match r.handle with
  | none => n
  | some h =>
    let hit (j : MigJob) : Bool := j.handle == h && j.pages.contains idx
    let level := ((n.ter.jobs.find? hit).map (·.level)).getD 0
    let n1 := { n with ter := { n.ter with jobs := lmodify n.ter.jobs hit fun j =>
      { j with pages := j.pages.erase idx, acted := j.acted + moved, already := j.already + (1 - moved - skipped), skipped := j.skipped + skipped } } }
    let n2 := modPage n1 idx fun e =>
      { e with pin := if level = 0 || skipped = 1 then e.pin else if e.pin = 0 then level else min e.pin level
               settled := if level = 0 && moved = 1 then some t.tick else e.settled }
    endMigs t n2

/-- Count what has left a channel that is being retired (R433). -/
def retireMoved (n : Node) (p k : Nat) : Node :=
  { n with mic := { n.mic with retiring := lmodify n.mic.retiring (·.pch == p) fun j => { j with moved := j.moved + k } } }

/-- A page move ends. -/
def pageMove (t : Tck) (n : Node) (r : MoveReq) (idx : Nat) : Node :=
  match pageAt n idx with
  | none => jobPage t (dropMove n r) r idx 0 1
  | some e =>
    if !wantsMove n e r.dest r.pch then jobPage t (dropMove n r) r idx 0 0
    else if r.cls == 3 && settling t n e then dropMove n r
    else if !moveAllowed n idx e r.dest then jobPage t (dropMove n r) r idx 0 1
    else
      let (n1, done) := movePage t n r idx e
      if done then
        let n2 := { n1 with ter := { n1.ter with fullTold := n1.ter.fullTold.filter (· != idx) } }
        jobPage t (dropMove (if e.terrace = 1 then retireMoved n2 (pchOf e.addr) 1 else n2) r) r idx 1 0
      else n1

/-- `MOVE` (R201, R252): a mover ends the copy of a page or of a stored weight block. `errs` names the source lines in error, by address with their lanes, in terrace 2 with their devices (R226); `bad`
says that a weight block's stored copy is damaged. -/
def moveStep (what : MoveWhat) (errs : List (Nat × List Nat)) (bad : Bool) (t : Tck) (n : Node) : Node :=
  match what with
  | .page idx =>
    let n := startMovers 8 n
    match n.ter.busy.find? (·.what == what) with
    | none => n
    | some r =>
      let n1 := match pageAt n idx with
        | some e => if e.terrace = 1 then ctrlReads t n (errs.filter fun x => e.addr ≤ x.1 && x.1 < e.addr + e.foot) else cacheReads t n e.addr e.foot errs
        | none => n
      pageMove t n1 r idx
  | .block k l b =>
    match mget? n.wts.sets k with
    | none => n
    | some w =>
      match (streamOf w.image l)[b]? with
      | none => n
      | some (x, j) =>
        if migSuspended n || stopped n || !streaming w l || (expandedIn w l && !ixRaw (idxEnt n k w x j)) then n
        else blockRead t n ((expanderOf n b).getD 0) k l b w bad false false

/-! ## MIGRATE, PIN, UNPIN, PLACE_HINT -/

/-- Queue the moves of a placement command, and complete it when nothing is to move. -/
def startMoves (t : Tck) (n : Node) (c : Cmd) (dest level : Nat) (pch : Option Nat) (pages : List Nat) (layers : List (Nat × Nat))
    (acted already skipped : Nat) : Node :=
  let job : MigJob := ⟨c.handle, acted, already, skipped, level, pages, layers⟩
  let rs : List MoveReq := pages.map fun p => ⟨2, .page p, dest, pch, some c.handle⟩
  let n1 := setRunning n c.handle
  endMigs t (queueMoves { n1 with ter := { n1.ter with jobs := n1.ter.jobs ++ [job] } } rs)

/-- `MIGRATE` of pages: what moves, what is there already, what is skipped. A page in motion waits for that move to end (R203). -/
def sortPages (n : Node) (dest : Nat) (pch : Option Nat) (l : List Nat) : List Nat × List Nat × List Nat :=
  let want (i : Nat) : Bool := inCopy n (.page i) || (pageAt n i).any fun e => wantsMove n e dest pch
  let may (i : Nat) : Bool := inCopy n (.page i) || (pageAt n i).any fun e => moveAllowed n i e dest
  (l.filter fun i => want i && may i, l.filter fun i => !want i, l.filter fun i => want i && !may i)

/-- Blocks of layers. -/
def blockCount (w : WSet) (ls : List Nat) : Nat := (ls.map fun l => (layerCounts w l).2).foldl (· + ·) 0

/-- Keep the sectors of a set's layers in the cache, or let them go, as its layers ask. -/
def settleSet (n : Node) (k : Nat) : Node :=
  match mget? n.wts.sets k with
  | none => n
  | some w =>
    let of (deep : Bool) : List Nat := dedupNat ((w.secs.filter fun e => w.deep.contains e.1 == deep).flatMap (·.2))
    let keep := of false
    let n1 := ((of true).filter fun x => !keep.contains x).foldl (fun m x => cacheDrop m (w.addr / 4096 + x)) n
    keep.foldl (fun m x => cacheSector false m (w.addr / 4096 + x)) n1

/-- `MIGRATE` of weight layers (R207, R209, R211): into the window; to terrace 2; or, where `UNPIN` has let them, to terrace 3. -/
def migrateLayers (t : Tck) (n : Node) (c : Cmd) (k : Nat) (w : WSet) : Node :=
  let ls := selLayers c w
  let dest := c.f 44 1
  if dest = 1 then
    if !usable n w then complete t n c.handle stNotBound []
    else if ls.any (layerDefective n w) then complete t n c.handle stExpandSize []
    else
      let todo := ls.filter fun l => !layerWhole w l
      startMoves t (wantLayers n k todo) c 1 0 none [] (todo.map fun l => (k, l)) 0 (blockCount w (ls.filter (layerWhole w))) 0
  else if dest = 2 then
    let back := ls.filter w.deep.contains
    let n1 := settleSet (modSet n k fun x => { x with deep := x.deep.filter fun l => !back.contains l }) k
    startMoves t n1 c 2 0 none [] [] (blockCount w back) (blockCount w (ls.filter fun l => !back.contains l)) 0
  else
    let kept := ls.filter (layerPinned w)
    let go := ls.filter fun l => !layerPinned w l && !w.deep.contains l
    let n1 := settleSet (modSet n k fun x => { x with deep := x.deep ++ go }) k
    startMoves t n1 c 3 0 none [] [] (blockCount w go) (blockCount w (ls.filter w.deep.contains)) (blockCount w kept)

/-- Is a named pseudo-channel one that may not take every selected page (R211). -/
def pchRefused (n : Node) (c : Cmd) (named : List Nat) : Bool :=
  c.f 44 1 == 1 && c.f 46 2 != 0xFFFF
    && (1023 < c.f 46 2 || n.mic.retired.contains (c.f 46 2)
      || (selPages n c named).any fun i => (pageAt n i).any fun e => !pchInComp n e.comp (c.f 46 2))

/-- `MIGRATE` (R211). -/
def migrate (h : Nat) (named : List Nat) (t : Tck) (n : Node) : Node :=
  withCmd n h opMigrate fun c =>
    let dest := c.f 44 1
    withSel t n c (offIf (dest == 0 || 3 < dest) 44 ++ rsv c 45 45 ++ offIf ((dest != 1 && c.f 46 2 != 0xFFFF) || pchRefused n c named) 46 ++ rsv c 48 63)
      (if selKind c = 2 then
         (match setFor n c (c.f 24 4) with
          | some w => migrateLayers t n c (c.f 24 4) w
          | none => badParam t n h 24)
       else
         let pch := if dest = 1 && c.f 46 2 != 0xFFFF then some (c.f 46 2) else none
         let s := sortPages n dest pch (selPages n c named)
         startMoves t n c dest 0 pch s.1 [] 0 s.2.1.length s.2.2.length)

/-- Pin level after a `PIN` (R212). -/
def pinTo (cur level : Nat) : Nat := if cur = 0 then level else min cur level

/-- Would pinning pages pass a cap (R212). -/
def pinOver (n : Node) (level : Nat) (pages : List Nat) : Bool :=
  let size (p : PageEnt → Bool) : Nat :=
    (pages.map fun i => match pageAt n i with | some e => if p e then e.foot / 4096 else 0 | none => 0).foldl (· + ·) 0
  if level = 1 then overPct (pinned1 n + size fun e => e.pin != 1) (t1Total n) (rd n Rg.terPinCfgT1Pct)
  else overPct (pinned2 n + size fun e => e.pin == 0) (cacheBytes n / 4096) (rd n Rg.terPinCfgT2Pct)

/-- `PIN` of pages: those below LEVEL move first and are pinned as they arrive, the others at once. -/
def pinPages (t : Tck) (n : Node) (c : Cmd) (named : List Nat) (level : Nat) : Node :=
  let l := selPages n c named
  if pinOver n level l then badParam t n c.handle 44
  else
    let low (i : Nat) : Bool := inCopy n (.page i) || (pageAt n i).any fun e => level < pageTerrace n e
    let same (i : Nat) : Bool := (pageAt n i).all fun e => e.pin == pinTo e.pin level
    let now := l.filter fun i => !low i
    let n1 := now.foldl (fun m i => modPage m i fun e => { e with pin := pinTo e.pin level }) n
    startMoves t n1 c level level none (l.filter low) [] (now.filter fun i => !same i).length (now.filter same).length 0

/-- Terrace-1 space for layers kept expanded outside the window, while the free share stays at or above LOW (R207). -/
def pinSpace (w : WSet) : List Nat → Node → Option (Node × List WPin)
  | [], n => some (n, [])
  | l :: t, n =>
    match (takeRuns n (layerBytes w.image l) (List.range 1024)).filter fun _ => staysAboveLow n (layerBytes w.image l) with
    | none => none
    | some r =>
      match pinSpace w t (holdRuns (clearRuns n r) r) with
      | none => none
      | some (m, ps) =>
        some (m, ⟨l, r, [], true⟩ :: ps)

/-- `PIN` of weight layers (R212, R218). At level 1 it waits while terrace 1 has no room for them. -/
def pinLayers (t : Tck) (n : Node) (c : Cmd) (k level : Nat) (w : WSet) : Node :=
  let ls := selLayers c w
  if level = 2 then
    let back := ls.filter fun l => !layerPinned w l
    let held := pinnedSecs w
    let more := dedupNat ((w.secs.filter fun e => back.contains e.1).flatMap fun e => e.2.filter fun x => !held.contains x)
    if overPct (pinned2 n + more.length) (cacheBytes n / 4096) (rd n Rg.terPinCfgT2Pct) then
      badParam t n c.handle 44
    else
      let n1 := settleSet (modSet n k fun x =>
        { x with unpinned := x.unpinned.filter fun l => !ls.contains l, deep := x.deep.filter fun l => !ls.contains l }) k
      startMoves t n1 c 2 0 none [] [] (blockCount w back) (blockCount w (ls.filter fun l => !back.contains l)) 0
  else
    let new := ls.filter fun l => !w.pins.any (·.layer == l)
    let frames := (new.map fun l => layerBytes w.image l / 4096).foldl (· + ·) 0
    if overPct (pinned1 n + frames) (t1Total n) (rd n Rg.terPinCfgT1Pct) then badParam t n c.handle 44
    else if !usable n w then complete t n c.handle stNotBound []
    else if ls.any (layerDefective n w) then complete t n c.handle stExpandSize []
    else
      match pinSpace w new n with
      | none => n
      | some (m, ps) =>
        let todo := ps.filter fun p => p.blocks.length < (layerCounts w p.layer).2
        let m1 := modSet m k fun x =>
          { x with
            pins := (lmodify x.pins (fun p => ls.contains p.layer) fun p => { p with pinned := true }) ++ ps
            slots := lmodify x.slots (fun s => match s.layer with | some l => new.contains l | none => false) fun s =>
              { s with layer := none, used := 0, blocks := [] }
            streams := x.streams ++ (todo.filter fun p => !x.streams.any (·.layer == p.layer)).map fun p => ⟨p.layer, [], 0, 0, 0⟩ }
        let whole := new.filter fun l => !todo.any (·.layer == l)
        startMoves t m1 c 1 0 none [] (todo.map fun p => (k, p.layer)) (blockCount w whole)
          (blockCount w (ls.filter fun l => !new.contains l)) 0

/-- `PIN` (R212). -/
def pin (h : Nat) (named : List Nat) (t : Tck) (n : Node) : Node :=
  withCmd n h opPin fun c =>
    let level := c.f 44 1
    withSel t n c (offIf (level == 0 || 2 < level) 44 ++ rsv c 45 63)
      (if selKind c = 2 then
         (match setFor n c (c.f 24 4) with
          | some w => pinLayers t n c (c.f 24 4) level w
          | none => badParam t n h 24)
       else pinPages t n c named level)

/-- `UNPIN` (R213). -/
def unpin (h : Nat) (named : List Nat) (t : Tck) (n : Node) : Node :=
  withCmd n h opUnpin fun c =>
    withSel t n c (rsv c 44 63)
      (if selKind c = 2 then
         (match setFor n c (c.f 24 4) with
          | some w =>
            let ls := selLayers c w
            let held := ls.filter (layerPinned w)
            let n1 := modSet n (c.f 24 4) fun x =>
              { x with
                pins := lmodify x.pins (fun p => ls.contains p.layer) fun p => { p with pinned := false }
                unpinned := x.unpinned ++ ls.filter fun l => !x.unpinned.contains l }
            complete t n1 h stOk (placeResult (blockCount w held) (blockCount w (ls.filter fun l => !held.contains l)) 0)
          | none => badParam t n h 24)
       else
         let l := selPages n c named
         let held := l.filter fun i => (pageAt n i).any fun e => e.pin != 0
         complete t (held.foldl (fun m i => modPage m i fun e => { e with pin := 0 }) n) h stOk
           (placeResult held.length (l.length - held.length) 0))

/-- The default hints of a sequence's selected layers and groups (R214). -/
def defaultHints (n : Node) (c : Cmd) (bias : Int) (lowest : Nat) : Node :=
  match mget? n.seqs.open_ (c.f 24 8) with
  | none => n
  | some s =>
    let ks := (List.range (s.layers * s.groups)).filter fun k => inPlaceSel c (k / s.groups) (k % s.groups)
    { n with seqs := { n.seqs with open_ := mset n.seqs.open_ (c.f 24 8) { s with hints := ks.foldl (fun m k => mset m k (bias, lowest)) s.hints } } }

/-- `PLACE_HINT` (R214). -/
def placeHint (h : Nat) (named : List Nat) (t : Tck) (n : Node) : Node :=
  withCmd n h opPlaceHint fun c =>
    let bias := signed 8 (c.f 44 1)
    let lowest := c.f 45 1
    withSel t n c (offIf (bias < -8 || 7 < bias) 44 ++ offIf (lowest == 0 || 3 < lowest) 45 ++ rsv c 46 63)
      (if selKind c = 2 then
         (match setFor n c (c.f 24 4) with
          | some w =>
            let ls := selLayers c w
            let new := ls.filter fun l => mget? w.hints l != some (bias, lowest)
            complete t (modSet n (c.f 24 4) fun x => { x with hints := ls.foldl (fun m l => mset m l (bias, lowest)) x.hints }) h stOk
              (placeResult (blockCount w new) (blockCount w (ls.filter fun l => !new.contains l)) 0)
          | none => badParam t n h 24)
       else
         let l := selPages n c named
         let new := l.filter fun i => (pageAt n i).any fun e => e.bias != bias || e.lowest != lowest
         let n1 := l.foldl (fun m i => modPage m i fun e => { e with bias := bias, lowest := lowest }) n
         let n2 := if selKind c = 1 && c.f 36 4 = 0 then defaultHints n1 c bias lowest else n1
         complete t n2 h stOk (placeResult new.length (l.length - new.length) 0))

/-- Does a `PIN` wait for terrace-1 room for its layers (R207, R212). -/
def pinWaits (c : Cmd) : Bool := c.op == opPin && c.stage == .dispatched && selKind c == 2 && c.f 44 1 == 1

/-- `MIGRATE_TIMEOUT` (R211, R212). -/
def migrateTimeout (h : Nat) (t : Tck) (n : Node) : Node :=
  match findCmd n h with
  | none => n
  | some c =>
    if !ticksPassed t c 1024 then n
    else
      match n.ter.jobs.find? (·.handle == h) with
      | some j =>
        complete t (dropMovesOf { n with ter := { n.ter with jobs := n.ter.jobs.filter (·.handle != h) } } h) h stDeadline (placeResult j.acted j.already j.skipped)
      | none => if pinWaits c then complete t n h stDeadline (placeResult 0 0 0) else n

/-! ## Heat (R205, R206) -/

/-- Has a page a move in the queue. -/
def inMotion (n : Node) (idx : Nat) : Bool := n.ter.moves.any fun r => r.what == .page idx

/-- Pages that heat may demote (R206, R207). -/
def demotable (t : Tck) (n : Node) : List (Nat × PageEnt) :=
  n.ter.pages.filter fun e =>
    e.2.terrace == 1 && 2 ≤ e.2.lowest && mayDemote n e.1 e.2 && !settling t n e.2 && !inMotion n e.1

/-- Take demotions in ascending effective heat, the least recently read of equals first, until HIGH is reached; `fuel` bounds them. -/
def pickDemotions (t : Tck) (n : Node) : Nat → Nat → List (Nat × PageEnt) → List Nat
  | 0, _, _ => []
  | fuel + 1, free, l =>
    if rd n Rg.terWmHigh * t1Total n ≤ 100 * free then []
    else
      match leastBy (fun e : Nat × PageEnt => effHeat t n e.2 * 2 ^ 64 + e.2.lastRead) l with
      | none => []
      | some e => e.1 :: pickDemotions t n fuel (free + e.2.foot / 4096) (l.filter fun x => x.1 != e.1)

/-- `DEMOTION` (R206): once below LOW, demotions to terrace 2 are queued until HIGH is reached. -/
def demotion (t : Tck) (n : Node) : Node :=
  let going := (n.ter.demoting && 100 * t1Free n < rd n Rg.terWmHigh * t1Total n) || 100 * t1Free n < rd n Rg.terWmLow * t1Total n
  if !rdB n Rg.terHeatCfgEn || !going then { n with ter := { n.ter with demoting := n.ter.demoting && going } }
  else
    let waiting := (n.ter.moves.filterMap fun r =>
      match r.what with
      | .page i => if r.dest == 1 then none else (pageAt n i).map fun e => if e.terrace == 1 then e.foot / 4096 else 0
      | _ => none).foldl (· + ·) 0
    let l := demotable t n
    let go := pickDemotions t n l.length (t1Free n + waiting) l
    queueMoves { n with ter := { n.ter with demoting := true } } (go.map fun i => ⟨3, .page i, 2, none, none⟩)

/-- `PROMOTION` (R206): a page below terrace 1 whose effective heat has reached PROMOTE is queued. -/
def promotion (idx : Nat) (t : Tck) (n : Node) : Node :=
  match pageAt n idx with
  | none => n
  | some e =>
    if rdB n Rg.terHeatCfgEn && e.terrace != 1 && rd n Rg.terHeatCfgPromote ≤ effHeat t n e && !settling t n e && !inMotion n idx
        && staysAboveLow n e.foot then
      queueMoves n [⟨3, .page idx, 1, none, none⟩]
    else n

/-! ## The cache and the direct partition (R198, R199) -/

/-- Dirty blocks of the cache. -/
def dirtyBlocks (n : Node) : Nat := (n.ter.cache.filter fun e => e.2.dirty != 0).length

/-- Clean the least recently used dirty blocks while their share exceeds `DIRTY_MAX`; `fuel` bounds them. -/
def cleanBlocks : Nat → Node → Node
  | 0, n => n
  | fuel + 1, n =>
    if overPct (dirtyBlocks n) (cacheBytes n / 65536) (rd n Rg.terT2CfgDirtyMax) then
      match leastBy (fun e : Nat × CacheBlk => e.2.used) (n.ter.cache.filter fun e => e.2.dirty != 0) with
      | some v => cleanBlocks fuel { n with ter := { n.ter with cache := mset n.ter.cache v.1 { v.2 with dirty := 0 } } }
      | none => n
    else n

/-- `DIRTY_CLEANER` (R198). -/
def dirtyCleaner (n : Node) : Node := cleanBlocks n.ter.cache.length n

/-- `TER_T2_PART_WRITE` (R199): only while no CXL extent is allocated; a value above the capacity present is ignored (R5). The cache is emptied: its partition has
moved. -/
def t2PartWrite (v : Nat) (t : Tck) (n : Node) : Node :=
  if n.cxd.exts.any fun e => e.2.state != 0 then raise t n evTerWriteIgnored (leBytes 4 Rg.terT2PartDirect.off)
  else if t2Bytes n < 0x10000000 * (v % 2 ^ 14) then n
  else
    let n1 := wr n Rg.terT2PartDirect (v % 2 ^ 14)
    let n2 := coarsenGone n1 []
    { n2 with ter := { n2.ter with cache := [] } }

/-- `ALLOCATION` (R200): a command whose page allocation waits tries again. -/
def allocation (h : Nat) (peer : PeerAns) (grants : List Nat) (t : Tck) (n : Node) : Node :=
  if !n.ter.allocWait.contains h then n
  else
    match findCmd n h with
    | none => allocOver n h
    | some c =>
      match n.seqs.copies.find? (·.handle == h) with
      | some j => copyResume t n j peer
      | none =>
        if c.op = opAppendKv then appendKv h peer t n
        else if c.op = opSeqFork then seqFork h peer t n
        else descriptorBuild h peer grants t n

/-! The commands. -/

/-- `MIGRATE`. -/
def execMigrate (h : Word) (named : List Nat) (s : State) : Outcome State Fault Refusal := onNode (migrate h.toNat named) s
/-- `PIN`. -/
def execPin (h : Word) (named : List Nat) (s : State) : Outcome State Fault Refusal := onNode (pin h.toNat named) s
/-- `UNPIN`. -/
def execUnpin (h : Word) (named : List Nat) (s : State) : Outcome State Fault Refusal := onNode (unpin h.toNat named) s
/-- `PLACE_HINT`. -/
def execPlaceHint (h : Word) (named : List Nat) (s : State) : Outcome State Fault Refusal := onNode (placeHint h.toNat named) s
/-- `MIGRATE_TIMEOUT`. -/
def execMigrateTimeout (h : Word) (s : State) : Outcome State Fault Refusal := onNode (migrateTimeout h.toNat) s
/-- `MOVE`. -/
def execMove (what : MoveWhat) (errs : List (Nat × List Nat)) (bad : Bool) (s : State) : Outcome State Fault Refusal :=
  onNode (moveStep what errs bad) s
/-- `DEMOTION`. -/
def execDemotion (s : State) : Outcome State Fault Refusal := onNode demotion s
/-- `PROMOTION`. -/
def execPromotion (page : Nat) (s : State) : Outcome State Fault Refusal := onNode (promotion page) s
/-- `DIRTY_CLEANER`. -/
def execDirtyCleaner (s : State) : Outcome State Fault Refusal := onNode (fun _ => dirtyCleaner) s
/-- `TER_T2_PART_WRITE`. -/
def execTerT2PartWrite (v : Word) (s : State) : Outcome State Fault Refusal := onNode (whenOpen (t2PartWrite v.toNat)) s
/-- `ALLOCATION`. -/
def execAllocation (h : Word) (peer : PeerAns) (grants : List Nat) (s : State) : Outcome State Fault Refusal :=
  onNode (allocation h.toNat peer grants) s

end Sys2Proof.Machine
end

