-- ==== Sys2Proof/Machine/Cxl.lean ====
section
/-! DEFINITION. Shared memory for local hosts (13): the CXL directory, extents, their release, the loss of a head, publication. -/

namespace Sys2Proof.Machine

open Host (Outcome)

/-! ## Heads and extents -/

/-- A head; one that has never trained has no link. -/
def headOf (n : Node) (h : Nat) : HeadSt := mgetD n.cxd.heads h ⟨false, 0, 0, 0⟩

/-- Set a head. -/
def setHead (n : Node) (h : Nat) (x : HeadSt) : Node := { n with cxd := { n.cxd with heads := mset n.cxd.heads h x } }

/-- Is a head lost. -/
def headIsLost (n : Node) (h : Nat) : Bool := rdB n (Rg.cxdHostStatusLost h)

/-- An extent that has never been offered is FREE. -/
def extentOf (n : Node) (e : Nat) : Extent := mgetD n.cxd.exts e ⟨0, 0, 0, 0, 0, 0, []⟩

/-- Set an extent. -/
def setExtent (n : Node) (e : Nat) (x : Extent) : Node := { n with cxd := { n.cxd with exts := mset n.cxd.exts e x } }

/-- Does an extent exist (R272). -/
def extExists (n : Node) (e : Nat) : Bool := e < 3072 || (4096 ≤ e && e < 4096 + rd n Rg.terT2PartDirect)


/-- Heads by mask. -/
def withoutMask (a b : Nat) : Nat := maskOf ((bitList 4 a).filter fun h => !bitAt b h)

/-- Union of masks. -/
def orMask (a b : Nat) : Nat := maskOf ((List.range 4).filter fun h => bitAt a h || bitAt b h)

/-- Intersection of masks. -/
def andMask (a b : Nat) : Nat := maskOf ((List.range 4).filter fun h => bitAt a h && bitAt b h)

/-- ASSIGNED, or LOST when every head that holds the extent is lost (R274, R290). -/
def heldState (n : Node) (accepted : Nat) : Nat := if (bitList 4 accepted).all (headIsLost n) then 4 else 2

/-! ## Memory behind a DPA -/

/-- Bytes at a DPA. -/
def cxBytes (n : Node) (dpa len : Nat) : Bytes :=
  if dpa < region1 then nameRead n dpa len else Mem.read 0 n.cxd.direct (dpa - region1) len

/-- The poison of a line. -/
def cxPoison (n : Node) (dpa : Nat) : Option Nat :=
  if dpa < region1 then t1Poison n (resolve n (dpa / 64 * 64)) 64 else mget? n.mic.poisonD ((dpa - region1) / 64 * 64)

/-- Poison a line in place. -/
def cxSetPoison (n : Node) (dpa kind : Nat) : Node :=
  let l := dpa / 64 * 64
  if dpa < region1 then
    (let a := resolve n l
     if bsuOwned n a then { n with bsu := { n.bsu with held := n.bsu.held ++ [(a, [])] } } else poisonLine n a kind)
  else
    { n with cxd := { n.cxd with direct := Mem.clear n.cxd.direct (l - region1) 64 }, mic := { n.mic with poisonD := mset n.mic.poisonD (l - region1) kind } }

/-- A write within a line of the direct partition: a part of a poisoned line is discarded, a whole line clears poison (R224). -/
def directWrite (n : Node) (o : Nat) (b : Bytes) : Node :=
  let n1 := { n with cxd := { n.cxd with direct := Mem.write 0 n.cxd.direct o b } }
  if mhas n.mic.poisonD (o / 64 * 64) then
    if b.length = 64 then { n1 with mic := { n1.mic with poisonD := mdel n1.mic.poisonD (o / 64 * 64) } } else bump n Rg.micPoisonPartialWr 1
  else n1

/-- A write at a DPA, within a line: a marked body's VERSION rises first (R90, R280). -/
def cxWrite (t : Tck) (n : Node) (dpa : Nat) (b : Bytes) : Node :=
  if dpa < region1 then nameWrite t (bumpVersions t n dpa b.length) dpa b else directWrite n (dpa - region1) b

/-- May no head be granted a copy of a line (R190, R280): a line of a marked body, or of a frame in the BSU state or on its way there. -/
def noCopy (n : Node) (dpa : Nat) : Bool :=
  dpa < region1 && (bsuOwned n (resolve n dpa) || !(marked n (dpa / 64 * 64) 64).isEmpty)

/-! ## Answers (R276, R284) -/

/-- A bucket's size in quarter bytes. -/
def burstOf (n : Node) (h : Nat) : Nat := rd n (Rg.cxdHostLimitBurst h) * 4096

/-- A head with its bucket filled up to the present (R283). -/
def filledHead (t : Tck) (n : Node) (h : Nat) : HeadSt :=
  let x := headOf n h
  { x with credit := min (burstOf n h) (x.credit + rd n (Rg.cxdHostLimitRate h) * (t.now - x.filled)), filled := t.now }

/-- The load index of a head's bucket; an empty bucket with nothing waiting has none in R284's table, and its index is free.
DESIGN CHOICE, safe: log entry 15. -/
def bucketLoad (t : Tck) (n : Node) (h : Nat) : Nat × Node :=
  let c := (filledHead t n h).credit
  let b := burstOf n h
  if rd n (Rg.cxdHostLimitRate h) = 0 || b ≤ 2 * c then (0, n)
  else if b ≤ 8 * c then (1, n)
  else if 4 ≤ c then (2, n)
  else if n.cxd.reqs.any fun q => q.head == h && !q.paid then (3, n)
  else (let r := takeFree n; (r.1 % 4, r.2))

/-- The load index of the shared request queue. -/
def queueLoad (n : Node) : Nat :=
  let cap := Config.cxdQueueMore + 1
  let k := (n.cxd.reqs.filter (·.paid)).length
  if 4 * k < cap then 0 else if 2 * k < cap then 1 else if 4 * k < 3 * cap then 2 else 3

/-- The DevLoad of an answer, kept in `CXD_HOST_STATUS.LOAD`. -/
def devLoad (t : Tck) (n : Node) (h : Nat) : Nat × Node :=
  let (b, n1) := bucketLoad t n h
  let v := max b (queueLoad n)
  (v, wr n1 (Rg.cxdHostStatusLoad h) v)

/-- Answer a request that is done. -/
def answer (t : Tck) (n : Node) (q : CxlReq) (data : Bytes) (poison : Bool) : Node :=
  let (v, n1) := devLoad t n q.head
  emit n1 (if q.kind = 3 then .cxlDone q.head q.dpa v else .cxlData q.head q.dpa data poison v)

/-- Answer a request without touching memory, and log it (R276). -/
def refuseReq (t : Tck) (n : Node) (q : CxlReq) (status : Nat) : Node :=
  let n1 := wr (bump n (Rg.cxdHostErrCount q.head) 1) (Rg.cxdHostErrStatus q.head) status
  let n2 := wr (wr n1 (Rg.cxdHostErrLoDpaLo q.head) (q.dpa % 2 ^ 32)) (Rg.cxdHostErrHiDpaHi q.head) (q.dpa / 2 ^ 32)
  answer t n2 q (zeros 64) true

/-- The status that a request would be refused with, 0 for none (R276, R287). -/
def denyOf (n : Node) (h kind dpa : Nat) : Nat :=
  let e := dpa / extBytes
  let x := extentOf n e
  if bitAt x.accepted h && !bitAt x.revoking h then (if kind = 3 && x.mode = 1 then stDenied else 0)
  else if bitAt x.taken h then stExtentRevoked
  else stNotOwner

/-! ## Serving a line (R278 to R282) -/

/-- Is a snoop of a line outstanding. -/
def lineSnooped (n : Node) (line : Nat) : Bool := n.cxd.snoops.any (·.line == line)

/-- Enter a line in the directory, most recently used. -/
def setDir (n : Node) (line : Nat) (excl : Bool) (heads : Nat) : Node :=
  { n with cxd := { n.cxd with
    dir := if heads = 0 then mdel n.cxd.dir line else mset n.cxd.dir line ⟨excl, heads, n.cxd.dirSeq⟩
    dirSeq := n.cxd.dirSeq + 1 } }

/-- The line to evict before a line may be entered: the least recently used of a full set. -/
def victim (n : Node) (line : Nat) : Option (Nat × DirEnt) :=
  if mhas n.cxd.dir line || n.cxd.dir.length < 16 then none
  else
    let mates := n.cxd.dir.filter fun e => Config.cxdSet e.1 % 1048576 == Config.cxdSet line % 1048576
    if mates.length < 16 then none else leastBy (fun e : Nat × DirEnt => e.2.used) mates

/-- Recall an eviction's line: BISnpInv of an S entry, counted; BISnpData first of an E entry (R279). -/
def evictLine (t : Tck) (n : Node) (v : Nat × DirEnt) : Node :=
  if lineSnooped n v.1 then n
  else
    let n1 := if v.2.excl then n else bump n Rg.cxdDirEvictCount 1
    (bitList 4 v.2.heads).foldl (fun m h => sendSnoop t m v.1 h (!v.2.excl)) n1

/-- The shed step that stops admission is in force (R292). -/
def sharedOnly (n : Node) : Bool := 5 ≤ n.pwr.step

/-- What a request asks to keep once refusals of copies are applied: 0 nothing, 1 S, 2 E (R279, R280, R292). -/
def wanted (n : Node) (q : CxlReq) : Nat :=
  let k := if q.kind = 3 then q.keep else q.kind
  if noCopy n q.dpa then 0
  else if k = 2 && (sharedOnly n || (q.kind != 3 && (extentOf n (q.dpa / extBytes)).mode == 1)) then 1
  else k

/-- The snoops that a request needs first, as (head, invalidate). -/
def needs (n : Node) (q : CxlReq) : List (Nat × Bool) :=
  match mget? n.cxd.dir (q.dpa / 64) with
  | none => []
  | some e =>
    let inv := q.kind == 3 || wanted n q == 2
    ((bitList 4 e.heads).filter (· != q.head)).filterMap fun h => if inv || e.excl then some (h, inv) else none

/-- Read a line of an extent through its memory's decoder, with symbols or devices in error. -/
def cxDecode (t : Tck) (n : Node) (dpa : Nat) (errs : List Nat) : Node :=
  if dpa < region1 then ctrlRead t n (resolve n (dpa / 64 * 64)) errs else boardRead t n (.direct (dpa - region1)) errs

/-- Complete a request whose snoops have ended. -/
def finish (t : Tck) (n : Node) (q : CxlReq) : Node :=
  let line := q.dpa / 64
  let k := wanted n q
  let old := match mget? n.cxd.dir line with
    | some e => e.heads
    | none => 0
  if q.kind = 3 then
    let n1 := if q.poison then cxSetPoison (bumpVersions t n (line * 64) (if q.dpa < region1 then 64 else 0)) q.dpa 1 else cxWrite t n q.dpa q.data
    answer t (setDir n1 line (k == 2) (if k = 0 then 0 else 2 ^ q.head)) q [] false
  else
    let n := cxDecode t n q.dpa q.errs
    let p := cxPoison n q.dpa
    let data := if p.isSome then zeros 64 else cxBytes n (line * 64) 64
    let n1 := if k = 0 then n else setDir n line (k == 2) (if k = 2 then 2 ^ q.head else orMask old (2 ^ q.head))
    answer t n1 q data p.isSome

/-- Serve a request, or send what it waits for: the node, and whether it is answered. -/
def serve (t : Tck) (n : Node) (q : CxlReq) : Node × Bool :=
  let line := q.dpa / 64
  if q.deny != 0 then (refuseReq t n q q.deny, true)
  else if lineSnooped n line then (n, false)
  else
    let l := needs n q
    if !l.isEmpty then (l.foldl (fun m x => sendSnoop t m line x.1 x.2) n, false)
    else if wanted n q = 0 then (finish t n q, true)
    else
      match victim n line with
      | some v => (evictLine t n v, false)
      | none => (finish t n q, true)

/-- Serve what can be served, in order of arrival, one request of a line at a time (R279). -/
def serveAll (t : Tck) : List CxlReq → List Nat → Node → Node
  | [], _, n => n
  | q :: l, busy, n =>
    if !q.paid || busy.contains (q.dpa / 64) then serveAll t l (if q.paid then q.dpa / 64 :: busy else busy) n
    else
      let (n1, done) := serve t n q
      if done then serveAll t l busy { n1 with cxd := { n1.cxd with reqs := n1.cxd.reqs.erase q } }
      else serveAll t l (q.dpa / 64 :: busy) n1

/-- Recall what heads whose release drains still hold: BISnpData of E, then BISnpInv (R287). -/
def recallRevoking (t : Tck) (n : Node) : Node :=
  n.cxd.dir.foldl
    (fun m e =>
      let x := extentOf m (e.1 * 64 / extBytes)
      (bitList 4 (andMask e.2.heads x.revoking)).foldl (fun k h => sendSnoop t k e.1 h (!e.2.excl)) m)
    n

/-- A published page's lines have been recalled: copy it (R285). -/
def publishDone (t : Tck) (n : Node) (f e frame : Nat) : Node :=
  let n1 := { n with cxd := { n.cxd with pub := none } }
  match pageAt n (fpnIdx f) with
  | none => wr n1 Rg.cxdPubCtlResult stNotOwner
  | some p =>
    let a := e * extBytes + 4096 * frame
    let bad := runPoisons (if p.terrace = 1 then n.mic.poison else n.mic.poison3) p.addr p.foot
    let n2 := (lineParts (p.foot / 64 + 2) a (pageRead n p 0 p.foot)).foldl (fun m x => cxWrite t m x.1 x.2) n1
    wr (bad.foldl (fun m x => cxSetPoison m (a + x.1) x.2) n2) Rg.cxdPubCtlResult stOk

/-- Go on with a copy: recall the lines it writes, and make it once none is held. -/
def publishGoOn (t : Tck) (n : Node) : Node :=
  match n.cxd.pub with
  | none => n
  | some (f, e, frame) =>
    let foot := match pageAt n (fpnIdx f) with
      | some p => p.foot
      | none => 0
    let r := recallRange t true n (e * extBytes + 4096 * frame) foot
    if r.2 then publishDone t n f e frame else r.1

/-- Carry on everything that waits in the CXL directory. -/
def pump (t : Tck) (n : Node) : Node :=
  let n1 := recallRevoking t n
  publishGoOn t (serveAll t n1.cxd.reqs [] n1)

/-! ## Requests (R279, R283) -/

/-- Pay for a head's waiting requests, in order, while its bucket allows. -/
def payList (rate : Nat) (h : Nat) : Nat → List CxlReq → List CxlReq × Nat
  | c, [] => ([], c)
  | c, q :: l =>
    if q.head != h || q.paid then
      let (r, d) := payList rate h c l
      (q :: r, d)
    else if rate = 0 then
      let (r, d) := payList rate h c l
      ({ q with paid := true } :: r, d)
    else if 256 ≤ c then
      let (r, d) := payList rate h (c - 256) l
      ({ q with paid := true } :: r, d)
    else (q :: l, c)

/-- Pay for what can be paid, at the present. -/
def payHead (t : Tck) (n : Node) (h : Nat) : Node :=
  let x := filledHead t n h
  let (r, c) := payList (rd n (Rg.cxdHostLimitRate h)) h x.credit n.cxd.reqs
  setHead { n with cxd := { n.cxd with reqs := r } } h { x with credit := c }

/-- Receive a request of a head. -/
def receive (t : Tck) (n : Node) (q : CxlReq) : Node :=
  if !(headOf n q.head).link then n
  else if headIsLost n q.head then refuseReq t n q stDenied
  else
    let q1 := { q with deny := denyOf n q.head q.kind q.dpa }
    pump t (payHead t { n with cxd := { n.cxd with reqs := n.cxd.reqs ++ [q1] } } q.head)

/-- `CXL_READ`: kind 0 for no copy, 1 for a shared copy, 2 for an exclusive copy; `errs` are the lanes, or the devices, in error of the line read (R221, R226). -/
def cxlRead (h kind dpa : Nat) (errs : List Nat) (t : Tck) (n : Node) : Node :=
  receive t n ⟨h, min kind 2, dpa / 64 * 64, [], 0, false, false, 0, errs⟩

/-- `CXL_WRITE`: bytes within a line, poisoned or not; `keep` is the state the writer asks to keep. -/
def cxlWrite (h dpa : Nat) (data : Bytes) (poison : Bool) (keep : Nat) (t : Tck) (n : Node) : Node :=
  receive t n ⟨h, 3, dpa, data.take (64 - dpa % 64), min keep 2, poison, false, 0, []⟩

/-- `TOKEN_BUCKET_CREDIT` (R283): a head's waiting requests proceed as its credit allows. -/
def bucketCredit (h : Nat) (t : Tck) (n : Node) : Node := pump t (payHead t n h)

/-! ## Snoop responses (R282, R287) -/

/-- The copy that a snoop asked about has gone, or stays in S. -/
def settleCopy (n : Node) (s : Snoop) : Node :=
  match mget? n.cxd.dir s.line with
  | none => n
  | some e =>
    let heads := if s.inv then withoutMask e.heads (2 ^ s.head) else e.heads
    { n with cxd := { n.cxd with dir := if heads = 0 then mdel n.cxd.dir s.line else mset n.cxd.dir s.line ⟨false, heads, e.used⟩ } }

/-- `BISNP_RESPONSE` (R279, R282): the response of a head, with the line's data when it had modified it, poisoned or not. -/
def bisnpResponse (h line : Nat) (data : Option (Bytes × Bool)) (t : Tck) (n : Node) : Node :=
  match n.cxd.snoops.find? fun s => s.line == line && s.head == h with
  | none => n
  | some s =>
    let n1 := { n with cxd := { n.cxd with snoops := n.cxd.snoops.erase s } }
    let own := match mget? n.cxd.dir line with
      | some e => e.excl && bitAt e.heads h
      | none => false
    let n2 := match data with
      | some (b, p) =>
        if !own then n1
        else if p then (if 64 * line < region1 then poisonLine n1 (resolve n1 (64 * line)) 1 else cxSetPoison n1 (64 * line) 1)
        else if 64 * line < region1 then
          -- a line on its way to the BSU state is written back before the state changes (R188)
          { n1 with t1 := Mem.write 0 n1.t1 (resolve n1 (64 * line)) (padTo 64 b), mic := { n1.mic with poison := mdel n1.mic.poison (resolve n1 (64 * line)) } }
        else directWrite n1 (64 * line - region1) (padTo 64 b)
      | none => n1
    pump t (settleCopy n2 s)

/-! ## Losing a head (R289 to R291) -/

/-- Owner-lost poison on a line, counted (R287, R290). -/
def ownerLost (n : Node) (line : Nat) : Node :=
  bump (if 64 * line < region1 then poisonLine n (resolve n (64 * line)) 2 else cxSetPoison n (64 * line) 2) Rg.cxdPoisonedCount 1

/-- No request received before the revoke point, no copy and no snoop of a draining head is left on an extent (R287). -/
def drained (n : Node) (e : Nat) (x : Extent) : Bool :=
  x.revoking != 0
    && !n.cxd.reqs.any (fun q => q.deny == 0 && q.dpa / extBytes == e && bitAt x.revoking q.head)
    && !n.cxd.dir.any (fun d => d.1 * 64 / extBytes == e && andMask d.2.heads x.revoking != 0)
    && !n.cxd.snoops.any (fun s => s.line * 64 / extBytes == e && bitAt x.revoking s.head)

/-- An extent that no head holds any more is zeroed before it is FREE; the offers of it that are left lapse (R277, R287). -/
def leftBy (n : Node) (e : Nat) (x : Extent) : Node :=
  if x.accepted = 0 then
    let n1 := setExtent n e { x with hosts := 0, state := 3 }
    { n1 with cxd := { n1.cxd with zeroing := if n.cxd.zeroing.contains e then n.cxd.zeroing else n.cxd.zeroing ++ [e] } }
  else setExtent n e { x with state := heldState n x.accepted }

/-- The result of an extent command. -/
def extResult (n : Node) (e status : Nat) : Node := wr (wr n Rg.cxdExtStatusResult status) Rg.cxdExtStatusExt e

/-- A release is complete: the draining heads are cleared from the extent, and the command that asked for it ends (R287). -/
def releaseDone (n : Node) (e : Nat) : Node :=
  let x := extentOf n e
  let n1 := leftBy n e { x with hosts := withoutMask x.hosts x.revoking, accepted := withoutMask x.accepted x.revoking, revoking := 0 }
  match n.cxd.job with
  | some (_, e1, _) => if e1 = e then extResult { n1 with cxd := { n1.cxd with job := none } } e stOk else n1
  | none => n1

/-- Releases that the loss of a head has ended (R290). -/
def releaseDrained (n : Node) : Node := (mkeys n.cxd.exts).foldl (fun m e => if drained m e (extentOf m e) then releaseDone m e else m) n

/-- Extents in a state are ASSIGNED or LOST, as their heads are (R274, R290, R291). -/
def restate (n : Node) (k : Nat) : Node :=
  { n with cxd := { n.cxd with exts := n.cxd.exts.map fun e => (e.1, if e.2.state = k then { e.2 with state := heldState n e.2.accepted } else e.2) } }

/-- A head is declared lost, once (R290). -/
def headLost (t : Tck) (n : Node) (h cause : Nat) : Node :=
  if headIsLost n h then n
  else
    let mine := n.cxd.dir.filter fun e => bitAt e.2.heads h
    let excl := (mine.filter (·.2.excl)).map (·.1)
    let n1 := { n with cxd := { n.cxd with reqs := n.cxd.reqs.filter (·.head != h) } }
    let n2 := excl.foldl ownerLost n1
    let n3 := mine.foldl (fun m e => setDir m e.1 false (if e.2.excl then 0 else withoutMask e.2.heads (2 ^ h))) n2
    let n4 := { n3 with cxd := { n3.cxd with snoops := n3.cxd.snoops.filter (·.head != h) } }
    let n5 := wr (wr n4 (Rg.cxdHostStatusLost h) 1) (Rg.cxdHostStatusCause h) cause
    let n6 := raise t n5 evCxlHostLost (leBytes 1 h ++ leBytes 1 cause ++ leBytes 4 excl.length)
    pump t (releaseDrained (restate n6 2))

/-- `BISNP_TIMEOUT` (R282, R287): a snoop unanswered within `RECALL_TO` notches: a line whose release it served takes owner-lost poison, and the head is lost. -/
def bisnpTimeout (h line : Nat) (t : Tck) (n : Node) : Node :=
  match n.cxd.snoops.find? fun s => s.line == line && s.head == h with
  | none => n
  | some s =>
    if t.notches < s.sent + rd n Rg.cxdCfgRecallTo then n
    else
      let shared := match mget? n.cxd.dir line with
        | some e => !e.excl
        | none => false
      let n1 := if shared && bitAt (extentOf n (line * 64 / extBytes)).revoking h then ownerLost n line else n
      headLost t n1 h 3

/-- `HEAD_LOST` (R289): the head's link goes down, or it signals viral. -/
def headLostCmd (h : Nat) (viral : Bool) (t : Tck) (n : Node) : Node :=
  if !(headOf n h).link then n
  else if viral then headLost t n h 1
  else headLost t (setHead n h { headOf n h with link := false }) h 0

/-- Has a head's heartbeat window ended (R41, R289): the window is half open. -/
def beatEnded (t : Tck) (n : Node) (h : Nat) : Bool :=
  let k := rd n (Rg.cxdHostCfgHbTicks h)
  (headOf n h).link && !headIsLost n h && k != 0 && (headOf n h).beat + k * unitsPerTick t.cur ≤ t.now

/-- `HEARTBEAT_TIMEOUT` (R289). -/
def heartbeatTimeout (h : Nat) (t : Tck) (n : Node) : Node := if beatEnded t n h then headLost t n h 2 else n

/-- `CXD_HB` (R289): a heartbeat; one that comes when the window has ended is too late to save the head. -/
def heartbeat (h : Nat) (t : Tck) (n : Node) : Node :=
  let n1 := heartbeatTimeout h t n
  setHead n1 h { headOf n1 h with beat := t.now }

/-- `REJOIN` (R291): a lost head whose link is up is back, with the extents it held. -/
def rejoin (h : Nat) (t : Tck) (n : Node) : Node :=
  if headIsLost n h && (headOf n h).link then
    let n1 := wr (setHead n h { headOf n h with beat := t.now }) (Rg.cxdHostStatusLost h) 0
    restate n1 4
  else n

/-! ## Extent commands (R274, R275, R286 to R288, R291) -/

/-- May a requester write the extent-command registers now. -/
def extMayWrite (n : Node) (src : Req) : Bool :=
  n.cxd.job.isNone &&
    (match src with
     | .mgmt => true
     | .host h _ => rdB n Rg.cxdCfgFmEn && rd n Rg.cxdCfgFmHalf == h.val
     | .qp _ => false)

/-- An extent command from a permitted writer while none runs; any other write is ignored and recorded. -/
def extCmd (t : Tck) (n : Node) (src : Req) (body : Node) : Node :=
  if extMayWrite n src then body else raise t n evCxdWriteIgnored (leBytes 4 Rg.cxdExtCmdOp.off)

/-- Backed extents of region 0. -/
def backedCount (n : Node) : Nat := (n.cxd.exts.filter fun e => e.1 < 3072 && !e.2.runs.isEmpty).length

/-- Make backing read as zero, free of poison. -/
def zeroRuns (n : Node) (l : List (Nat × Nat)) : Node :=
  l.foldl (fun m r => { m with t1 := Mem.clear m.t1 r.1 r.2, mic := { m.mic with poison := m.mic.poison.filter fun x => x.1 < r.1 || r.1 + r.2 ≤ x.1 } }) n

/-- `OFFER` (R273, R275). -/
def offer (e hosts mode : Nat) (src : Req) (t : Tck) (n : Node) : Node :=
  extCmd t n src
    (let bad := !extExists n e || (extentOf n e).state != 0 || hosts == 0 || (bitList 4 hosts).any fun h => !(headOf n h).link
     let post (m : Node) (runs : List (Nat × Nat)) : Node :=
       let m1 := setExtent m e { extentOf m e with state := 1, hosts := hosts, mode := mode, accepted := 0, revoking := 0, runs := runs }
       extResult ((bitList 4 hosts).foldl (fun k h => emit k (.dcEvent h e true)) m1) e stOk
     if bad then extResult n e stBadParam
     else if e < 3072 then
       if rd n Rg.cxdCfgT1Max ≤ backedCount n then extResult n e stBadParam
       else
         match takeRuns n extBytes (List.range 1024) with
         | none => extResult n e stBadParam
         | some r => post (zeroRuns (holdRuns n r) r) r
     else post n [])

/-- Is a frame of the extent in the BSU state, or does it hold an installed page-list body (R288). -/
def extPinned (n : Node) (e : Nat) : Bool :=
  (extentOf n e).runs.any (fun r => n.bsu.frames.any fun f => r.1 ≤ f.1 && f.1 < r.1 + r.2 && 2 ≤ f.2)
    || (e < 3072 && n.seqs.open_.any fun s => s.2.lists.any fun p => marks (e * extBytes) extBytes p.2)

/-- An extent's backing is returned, all zero. -/
def freeExtent (n : Node) (e : Nat) : Node :=
  let x := extentOf n e
  let n1 := dropRuns (zeroRuns n x.runs) x.runs
  let o := (e - 4096) * extBytes
  let n2 := if e < 3072 then n1
    else { n1 with cxd := { n1.cxd with direct := Mem.clear n1.cxd.direct o extBytes }
                   mic := { n1.mic with poisonD := n1.mic.poisonD.filter fun p => p.1 < o || o + extBytes ≤ p.1 } }
  setExtent n2 e { x with state := 0, hosts := 0, mode := 0, accepted := 0, revoking := 0, runs := [] }

/-- The result of an extent command whose outcome the spec does not state. DESIGN CHOICE: log entry 14. -/
def extUnstated (n : Node) (e : Nat) : Node :=
  let (v, n1) := takeFree n
  extResult n1 e (v % 65536)

/-- `WITHDRAW` (R275, R288). -/
def withdraw (e : Nat) (src : Req) (t : Tck) (n : Node) : Node :=
  extCmd t n src
    (let x := extentOf n e
     if extPinned n e then extResult n e stDenied
     else if x.state = 1 then extResult (freeExtent n e) e stOk
     else if x.state = 0 then extUnstated n e
     else extResult (setExtent n e { x with hosts := orMask x.accepted x.revoking }) e stOk)

/-- Take an extent back from heads that hold it: from this point their requests are refused, and their lines are recalled (R286, R287). -/
def startRevoke (t : Tck) (n : Node) (e hosts : Nat) : Node :=
  let x := extentOf n e
  let m := andMask hosts x.accepted
  let gone := withoutMask hosts x.accepted
  pump t (setExtent n e { x with hosts := withoutMask x.hosts gone, state := if m = 0 then x.state else 3, revoking := orMask x.revoking m, taken := orMask x.taken m })

/-- `REVOKE` (R286 to R288). -/
def revoke (e hosts : Nat) (src : Req) (t : Tck) (n : Node) : Node :=
  extCmd t n src
    (let x := extentOf n e
     if extPinned n e then extResult n e stDenied
     else if x.state = 0 then extUnstated n e
     else
       let n1 := (bitList 4 hosts).foldl (fun k h => emit k (.dcEvent h e false)) n
       let n2 := startRevoke t n1 e hosts
       if (extentOf n2 e).revoking = 0 then extResult n2 e stOk
       else wr { n2 with cxd := { n2.cxd with job := some (3, e, hosts) } } Rg.cxdExtStatusExt e)

/-- `RECLAIM` (R291): lost heads' extents are revoked, with no lines to recall. -/
def reclaim (e hosts : Nat) (src : Req) (t : Tck) (n : Node) : Node :=
  extCmd t n src
    (if (extentOf n e).state = 0 || (bitList 4 hosts).any fun h => !headIsLost n h then extUnstated n e
     else
       let n1 := startRevoke t n e hosts
       if (extentOf n1 e).revoking = 0 then extResult n1 e stOk
       else wr { n1 with cxd := { n1.cxd with job := some (4, e, hosts) } } Rg.cxdExtStatusExt e)

/-- `ADD_DYNAMIC_CAPACITY_RESPONSE` (R275): a head of HOSTS accepts. -/
def addCapacity (h e : Nat) (n : Node) : Node :=
  let x := extentOf n e
  if (headOf n h).link && !headIsLost n h && bitAt x.hosts h && !bitAt x.accepted h && x.state != 0 && !n.cxd.zeroing.contains e then
    let a := orMask x.accepted (2 ^ h)
    setExtent n e { x with accepted := a, taken := withoutMask x.taken (2 ^ h), state := if x.state = 3 then 3 else 2 }
  else n

/-- `RELEASE_DYNAMIC_CAPACITY` (R286): a head's own release. -/
def releaseCapacity (h e : Nat) (t : Tck) (n : Node) : Node :=
  let x := extentOf n e
  if bitAt x.accepted h && !bitAt x.revoking h then startRevoke t n e (2 ^ h) else n

/-- `RELEASE_COMPLETE` (R287). -/
def releaseComplete (e : Nat) (n : Node) : Node := if drained n e (extentOf n e) then releaseDone n e else n

/-- `EXTENT_ZERO_DONE` (R277): the backing is zeroed, unless a frame of it is still in the BSU state. -/
def extentZeroDone (e : Nat) (n : Node) : Node :=
  let held := (extentOf n e).runs.any fun r => n.bsu.frames.any fun f => r.1 ≤ f.1 && f.1 < r.1 + r.2 && 2 ≤ f.2
  if n.cxd.zeroing.contains e && !held then freeExtent { n with cxd := { n.cxd with zeroing := n.cxd.zeroing.filter (· != e) } } e else n

/-! ## Publication (R285) -/

/-- `PUBLISH_GO`: ignored while a copy runs. -/
def publishGo (t : Tck) (n : Node) : Node :=
  let f := rd n Rg.cxdPubFpnLoFpn + 2 ^ 32 * (rd n Rg.cxdPubFpnHiFpn % 2 ^ 13)
  let e := rd n Rg.cxdPubDstExt
  let frame := rd n Rg.cxdPubDstFrame
  if n.cxd.pub.isSome then n
  else
    match (if fpnNode f == nodeId n then pageAt n (fpnIdx f) else none) with
    | none => wr n Rg.cxdPubCtlResult stNotOwner
    | some p =>
      if !p.pref then wr n Rg.cxdPubCtlResult stNotOwner
      else if (extentOf n e).state != 2 || extBytes < 4096 * frame + p.foot then wr n Rg.cxdPubCtlResult stBadParam
      else publishGoOn t { n with cxd := { n.cxd with pub := some (f, e, frame) } }

/-! ## Shedding and reset -/

/-- The shed step that stops admission is entered: every E entry's holder is left in S (R292). -/
def cxdShed (t : Tck) (n : Node) : Node :=
  n.cxd.dir.foldl (fun m e => if e.2.excl then (bitList 4 e.2.heads).foldl (fun k h => sendSnoop t k e.1 h false) m else m) n

/-- Is a requester on a host port half. -/
def onHalf (h : Nat) (r : Req) : Bool :=
  match r with
  | .host k _ => k.val == h
  | _ => false

/-- `PERST` (R408): the link, CXL and ring state of a host port half are reset, and its head is lost with cause 0. -/
def perst (h : Nat) (t : Tck) (n : Node) : Node :=
  let n1 := headLostCmd h false t n
  let admin := match mget? n.fe.sqs 0 with
    | some q => onHalf h q.owner
    | none => false
  let n2 := { n1 with
    fe := { n1.fe with sqs := n1.fe.sqs.filter fun q => !onHalf h q.2.owner, cqs := n1.fe.cqs.filter fun q => !onHalf h q.2.owner }
    brd := { n1.brd with trained := n1.brd.trained.filter (· != (1, h)) } }
  if admin then wr (wr n2 Rg.cmdAdminCfgEn 0) Rg.cmdStatusAdminEn 0 else n2

/-- `CXL_READ`. -/
def execCxlRead (head : Fin 4) (kind : Fin 3) (dpa : BitVec 52) (errs : List Nat) (s : State) : Outcome State Fault Refusal := onNode (cxlRead head.val kind.val dpa.toNat errs) s
/-- `CXL_WRITE`. -/
def execCxlWrite (head : Fin 4) (dpa : BitVec 52) (data : Bytes) (poison : Bool) (keep : Fin 3) (s : State) : Outcome State Fault Refusal :=
  onNode (cxlWrite head.val dpa.toNat data poison keep.val) s
/-- `BISNP_RESPONSE`. -/
def execBisnpResponse (head : Fin 4) (line : Nat) (data : Option (Bytes × Bool)) (s : State) : Outcome State Fault Refusal :=
  onNode (bisnpResponse head.val line data) s
/-- `BISNP_TIMEOUT`. -/
def execBisnpTimeout (head : Fin 4) (line : Nat) (s : State) : Outcome State Fault Refusal := onNode (bisnpTimeout head.val line) s
/-- `ADD_DYNAMIC_CAPACITY_RESPONSE`. -/
def execAddDynamicCapacityResponse (head : Fin 4) (ext : BitVec 14) (s : State) : Outcome State Fault Refusal :=
  onNode (fun _ => addCapacity head.val ext.toNat) s
/-- `RELEASE_DYNAMIC_CAPACITY`. -/
def execReleaseDynamicCapacity (head : Fin 4) (ext : BitVec 14) (s : State) : Outcome State Fault Refusal :=
  onNode (releaseCapacity head.val ext.toNat) s
/-- `OFFER`. -/
def execOffer (ext : BitVec 14) (hosts : BitVec 4) (mode : BitVec 1) (src : Req) (s : State) : Outcome State Fault Refusal :=
  onNode (whenOpen (offer ext.toNat hosts.toNat mode.toNat src)) s
/-- `WITHDRAW`. -/
def execWithdraw (ext : BitVec 14) (src : Req) (s : State) : Outcome State Fault Refusal := onNode (whenOpen (withdraw ext.toNat src)) s
/-- `REVOKE`. -/
def execRevoke (ext : BitVec 14) (hosts : BitVec 4) (src : Req) (s : State) : Outcome State Fault Refusal := onNode (whenOpen (revoke ext.toNat hosts.toNat src)) s
/-- `RECLAIM`. -/
def execReclaim (ext : BitVec 14) (hosts : BitVec 4) (src : Req) (s : State) : Outcome State Fault Refusal := onNode (whenOpen (reclaim ext.toNat hosts.toNat src)) s
/-- `RELEASE_COMPLETE`. -/
def execReleaseComplete (ext : BitVec 14) (s : State) : Outcome State Fault Refusal := onNode (fun _ => releaseComplete ext.toNat) s
/-- `EXTENT_ZERO_DONE`. -/
def execExtentZeroDone (ext : BitVec 14) (s : State) : Outcome State Fault Refusal := onNode (fun _ => extentZeroDone ext.toNat) s
/-- `HEAD_LOST`. -/
def execHeadLost (head : Fin 4) (viral : Bool) (s : State) : Outcome State Fault Refusal := onNode (headLostCmd head.val viral) s
/-- `HEARTBEAT_TIMEOUT`. -/
def execHeartbeatTimeout (head : Fin 4) (s : State) : Outcome State Fault Refusal := onNode (heartbeatTimeout head.val) s
/-- `CXD_HB`. -/
def execCxdHb (head : Fin 4) (s : State) : Outcome State Fault Refusal := onNode (whenOpen (heartbeat head.val)) s
/-- `REJOIN`. -/
def execRejoin (head : Fin 4) (s : State) : Outcome State Fault Refusal := onNode (whenOpen (rejoin head.val)) s
/-- `PUBLISH_GO`. -/
def execPublishGo (s : State) : Outcome State Fault Refusal := onNode (whenOpen publishGo) s
/-- `TOKEN_BUCKET_CREDIT`. -/
def execTokenBucketCredit (head : Fin 4) (s : State) : Outcome State Fault Refusal := onNode (bucketCredit head.val) s
/-- `PERST`. -/
def execPerst (head : Fin 4) (s : State) : Outcome State Fault Refusal := onNode (perst head.val) s

end Sys2Proof.Machine
end

