-- ==== Sys2Proof/Machine/Qst.lean ====
section
/-! DEFINITION. The QST transport (14): links and paths, sending, congestion, receiving, acknowledgement, the failure of a queue pair. -/

namespace Sys2Proof.Machine

open Host (Outcome)

/-! ## Queue pairs, regions, keys -/

/-- A queue pair. -/
def qpOf (n : Node) (q : Nat) : Option Qp := mget? n.qst.qps q

/-- Set a queue pair. -/
def setQp (n : Node) (q : Nat) (x : Qp) : Node := { n with qst := { n.qst with qps := mset n.qst.qps q x } }

/-- Change a queue pair. -/
def modQp (n : Node) (q : Nat) (f : Qp → Qp) : Node := { n with qst := { n.qst with qps := mmod n.qst.qps q f } }

/-- The entropy seed of R302. -/
def eseedOf (node q peer peerQp : Nat) : Nat := crc32c (leBytes 4 node ++ leBytes 4 q ++ leBytes 4 peer ++ leBytes 4 peerQp) % 1024

/-- A new queue pair (R303, R304, R310): windows and round-trip time at their initial values, MSN and ASN at 1. -/
def newQp (t : Tck) (n : Node) (q typ pd : Nat) (owner : Req) (peer : Nat) (peerQp : Option Nat) (paths : Nat) : Qp where
  typ := typ
  st := b2n peerQp.isSome
  errTick := 0
  pd := pd
  owner := owner
  peer := peer
  peerQp := peerQp
  paths := paths
  inOrder := false
  svc := 1
  eseed := eseedOf (nodeId n) q peer (peerQp.getD 0xFFFFF)
  sqLog2 := 0
  rqLog2 := 0
  slotLog2 := 12
  cqLog2 := 0
  sqKey := 0
  rqKey := 0
  cqKey := 0
  msix := 0xFFFF
  sqAddr := 0
  rqAddr := 0
  cqAddr := 0
  sqTail := 0
  sqDone := 0
  rqTaken := 0
  rqHead := 0
  cqPosted := 0
  cqHead := 0
  cplq := []
  wrs := []
  wrNext := 0
  cwnd := rd n Rg.qstCcCfgInit * 4096
  srtt := rd n Rg.qstCcCfgTarget * 400
  epochAcked := 0
  epochCe := 0
  epochMin := none
  epochStart := t.now
  lastPath := paths - 1
  bad := []
  order := 0
  msn := 1
  asn := 1
  sends := []
  base := 1
  recvs := []
  since := 0
  ce := 0
  first := none

/-- The region a key names (R306). -/
def regionOf (n : Node) (key : Nat) : Option Mr :=
  match mget? n.qst.mrs (key / 256) with
  | some r => if r.gen == key % 256 && key != 0 then some r else none
  | none => none

/-- Does a region cover a range. -/
def Mr.covers (r : Mr) (a len : Nat) : Bool := r.base ≤ a && a + len ≤ r.base + r.len

/-- Read bytes of a region. -/
def mrRead (n : Node) (r : Mr) (a len : Nat) : Bytes := if r.space = 0 then hostRead n (reqSpace r.owner) a len else nameRead n a len

/-- Poisoned lines of a region's range, as (line of the range, kind). -/
def mrPoison (n : Node) (r : Mr) (a len : Nat) : List (Nat × Nat) :=
  if r.space = 0 then []
  else (List.range (cdiv len 64)).filterMap fun i => (mget? n.mic.poison (resolve n (a + 64 * i) / 64 * 64)).map fun k => (i, k)

/-- Write bytes into a region: a write to terrace 1 goes line by line, marked bodies first (R90). -/
def mrWrite (t : Tck) (n : Node) (r : Mr) (a : Nat) (b : Bytes) : Node :=
  if r.space = 0 then hostWrite n (reqSpace r.owner) a b else nameWrite t (bumpVersions t n a b.length) a b

/-- The ACTIVE transport slot, while packets of new messages may be sent under it (R371, R372). -/
def activeSlot (n : Node) : Option Nat :=
  ((List.range 64).drop 1).find? fun k => rd n (Rg.secSlotState k) == 2 && !rdB n (Rg.secSlotExhausted k)

/-- The slot under which an acknowledgement is sent: the ACTIVE one. -/
def ackSlot (n : Node) : Option Nat := ((List.range 64).drop 1).find? fun k => rd n (Rg.secSlotState k) == 2

/-- Count a packet under a slot; at 2^40 the slot is exhausted, once (R372). -/
def countPacket (t : Tck) (n : Node) (k : Nat) : Node :=
  match mget? n.sec.slots k with
  | none => n
  | some s =>
    let n1 := { n with sec := { n.sec with slots := mset n.sec.slots k { s with packets := s.packets + 1 } } }
    if 2 ^ 40 ≤ s.packets + 1 && !rdB n (Rg.secSlotExhausted k) then raise t (wr n1 (Rg.secSlotExhausted k) 1) evKeyExhausted [] else n1

/-! ## Links and paths (R309, R324) -/

/-- The up board links to a node, in ascending order. -/
def siblingLinks (n : Node) (node : Nat) : List Link :=
  ((List.finRange 6).filter fun b => rdB n (Rg.qstBlStatusUp b.val) && rd n (Rg.qstBlStatusPeer b.val) == node).map Link.bl

/-- The up fabric ports, in ascending order. -/
def upPorts (n : Node) : List Link := ((List.finRange 8).filter fun p => rdB n (Rg.qstPortStatusUp p.val)).map Link.fp

/-- The link that path `p` toward a node uses. -/
def linkOf (n : Node) (node p : Nat) : Option Link :=
  let l := if (siblingLinks n node).isEmpty then upPorts n else siblingLinks n node
  l[p % max l.length 1]?

/-- Is a path usable. -/
def pathOk (t : Tck) (q : Qp) (p : Nat) : Bool :=
  match mget? q.bad p with
  | some u => u ≤ t.tick
  | none => true

/-- The next usable path after the last used; when none is usable, all are again (R308, R309). -/
def nextPath (t : Tck) (q : Qp) : Nat :=
  let l := (List.range q.paths).map fun i => (q.lastPath + 1 + i) % q.paths
  (l.find? (pathOk t q)).getD ((q.lastPath + 1) % max q.paths 1)

/-- Hold a path unusable after a timeout (R309, R311); holding the last usable one frees all. -/
def holdPath (t : Tck) (n : Node) (q : Qp) (p : Nat) : Qp :=
  let b := mset (q.bad.filter fun e => t.tick < e.2) p (t.tick + rd n Rg.qstRtxCfgPathHold)
  { q with bad := if (List.range q.paths).all fun i => mhas b i then [] else b }

/-- The DSCP of a traffic class (R298, R299). -/
def dscpOf (n : Node) (cls : Nat) : Nat :=
  rd n (if cls = 0 then Rg.qstDscpClass0 else if cls = 1 then Rg.qstDscpClass1 else if cls = 2 then Rg.qstDscpClass2 else Rg.qstDscpClass3)

/-- A board link's state; at first it holds 64 KiB of credits on each channel (R323). -/
def blinkOf (n : Node) (b : Nat) : BLink := mgetD n.qst.links b ⟨0, 0, [], [], 0, 0, false, false⟩

/-- Set a board link. -/
def setBlink (n : Node) (b : Nat) (x : BLink) : Node := { n with qst := { n.qst with links := mset n.qst.links b x } }

/-! The layout of a packet (R3, R300). The commands name a packet by the fields of its header; these two say which bytes they are. -/

/-- The 72 header bytes of a packet. -/
def segHeader (g : Seg) : Bytes :=
  leBytes 1 1 ++ leBytes 1 g.op ++ leBytes 1 (b2n g.tagged + 2 * b2n g.ackNow) ++ leBytes 1 (g.path + 16 * g.try_)
    ++ leBytes 4 g.dstQp ++ leBytes 4 g.srcQp ++ leBytes 2 g.srcNode ++ leBytes 2 g.keyId ++ leBytes 6 g.seq ++ leBytes 2 0
    ++ leBytes 4 g.off ++ leBytes 4 g.len ++ leBytes 4 g.rkey ++ leBytes 8 g.raddr ++ leBytes 8 g.tag ++ leBytes 4 g.ts
    ++ leBytes 8 g.pmem ++ leBytes 8 g.pown

/-- The packet that header bytes and a payload spell, with its ECN mark; none where VER is not 1 (R300). -/
def headerSeg (b payload : Bytes) (ce : Bool) : Option Seg :=
  if byteAt b 0 % 16 != 1 then none
  else some
    { op := byteAt b 1, tagged := bitAt (byteAt b 2) 0, ackNow := bitAt (byteAt b 2) 1, path := byteAt b 3 % 16, try_ := byteAt b 3 / 16 % 8,
      dstQp := field b 4 4 % 2 ^ 20, srcQp := field b 8 4 % 2 ^ 20, srcNode := field b 12 2 % 2 ^ 13, keyId := field b 14 2, seq := field b 16 6,
      off := field b 24 4, len := field b 28 4, rkey := field b 32 4, raddr := field b 36 8, tag := field b 44 8, ts := field b 52 4,
      pmem := field b 56 8, pown := field b 64 8, payload := payload, ce := ce }

/-- A QBL frame (R323): an 8-byte header, its body, and the CRC-32C over both; body type 1 is a packet, 2 an acknowledgement of a link sequence number, 3 a credit return. -/
def qblBytes (type vc lseq credit : Nat) (body : Bytes) : Bytes :=
  let b := leBytes 1 type ++ leBytes 1 vc ++ leBytes 2 (lseq % 4096) ++ leBytes 2 body.length ++ leBytes 2 credit ++ body
  b ++ leBytes 4 (crc32c b)

/-- Bytes of a packet in QST: header, payload, tag. -/
def segLen (s : Seg) : Nat := 72 + s.payload.length + 16

/-- Bytes that the replay buffer of a link holds. -/
def BLink.held (x : BLink) : Nat := (x.buf.map fun e => 12 + segLen e.2.2).foldl (· + ·) 0

/-- Send a packet on a link: at once on a fabric port; on a board link against credits and room in the replay buffer, else nothing (R323). -/
def emitSeg (t : Tck) (n : Node) (l : Link) (cls : Nat) (s : Seg) : Option Node :=
  let sent (m : Node) : Node := countPacket t m s.keyId
  match l with
  | .fp p => some (sent (pmc (emit n (.segment l (dscpOf n cls) s)) (52 + p.val) 0x5001 (cdiv (segLen s) 64)))
  | .bl b =>
    let x := blinkOf n b.val
    let c := mgetD x.credits cls 256
    let need := cdiv (segLen s) 256
    if c < need || 262144 < x.held + 12 + segLen s then none
    else
      let y := { x with tx := (x.tx + 1) % 4096, credits := mset x.credits cls (c - need), buf := x.buf ++ [(x.tx, cls, s)] }
      some (sent (emit (setBlink n b.val y) (.qblFrame b.val cls x.tx s)))

/-! ## Completions of queue pairs (R314, R315, R317) -/

/-- A completion entry without its PHASE bit. -/
def qpEntry (q wrid status op tagged len slot tag : Nat) : Bytes :=
  leBytes 8 wrid ++ leBytes 4 q ++ leBytes 2 status ++ leBytes 1 op ++ leBytes 1 (2 * tagged) ++ leBytes 4 len ++ leBytes 4 slot ++ leBytes 8 tag

/-- Write the completions of a queue pair that the ring has room for; `fuel` bounds them. -/
def drainCpl (t : Tck) (q : Nat) : Nat → Node → Node
  | 0, n => n
  | f + 1, n =>
    match qpOf n q with
    | none => n
    | some x =>
      match x.cplq with
      | [] => n
      | e :: l =>
        if x.cqLog2 = 0 then modQp n q fun y => { y with cplq := [] }
        else if 2 ^ x.cqLog2 ≤ (x.cqPosted + 2 ^ 32 - x.cqHead) % 2 ^ 32 then n
        else
          let phase := (x.cqPosted / 2 ^ x.cqLog2 + 1) % 2
          let e1 := e.set 15 (BitVec.ofNat 8 (byteAt e 15 + phase))
          let a := x.cqAddr + x.cqPosted % 2 ^ x.cqLog2 * 32
          let n1 := match regionOf n x.cqKey with
            | some r => mrWrite t n r a e1
            | none => n
          let n2 := modQp n1 q fun y => { y with cplq := l, cqPosted := (y.cqPosted + 1) % 2 ^ 32 }
          let n3 := if x.msix = 0xFFFF then n2
            else
              match x.owner with
              | .host h _ => emit n2 (.msix h.val x.msix)
              | _ => n2
          drainCpl t q f n3

/-- Post a completion: it waits for room in the ring. -/
def postQp (t : Tck) (n : Node) (q : Nat) (e : Bytes) : Node :=
  let n1 := modQp n q fun x => { x with cplq := x.cplq ++ [e] }
  drainCpl t q (((qpOf n1 q).map fun x => x.cplq.length).getD 0) n1

/-- One work request of a chain has completed; the last completes the command (R142, R320). -/
def chainOne (t : Tck) (n : Node) (h : Nat) : Node :=
  match n.cfl.hosts.find? (·.handle == h) with
  | none => n
  | some c =>
    if c.left ≤ 1 then complete t { n with cfl := { n.cfl with hosts := n.cfl.hosts.filter (·.handle != h) } } h stOk (leBytes 4 c.count)
    else { n with cfl := { n.cfl with hosts := lmodify n.cfl.hosts (·.handle == h) fun x => { x with left := x.left - 1 } } }

/-- A chain is stopped by a failure: its command completes with the status and the counter value (R320). -/
def chainFail (t : Tck) (n : Node) (h status : Nat) : Node :=
  match n.cfl.hosts.find? (·.handle == h) with
  | none => n
  | some c => complete t { n with cfl := { n.cfl with hosts := n.cfl.hosts.filter (·.handle != h) } } h status (leBytes 4 c.count)

/-- The completion entry of a work request. -/
def wrEntry (q : Nat) (w : Wr) (status : Nat) : Bytes :=
  qpEntry q (field w.entry 40 8) status (byteAt w.entry 0) 0 (field w.entry 4 4) 0 0

/-- Report work requests complete at the front of the queue, in index order (R315); `fuel` bounds them. -/
def reportWrs (t : Tck) (q : Nat) : Nat → Node → Node
  | 0, n => n
  | f + 1, n =>
    match qpOf n q with
    | none => n
    | some x =>
      match x.wrs with
      | [] => n
      | w :: l =>
        if w.stage != 2 then n
        else
          let n1 := modQp n q fun y => { y with wrs := l, sqDone := if w.chain.isNone then (y.sqDone + 1) % 2 ^ 32 else y.sqDone }
          let n2 := if bitAt (byteAt w.entry 1) 0 then postQp t n1 q (wrEntry q w stOk) else n1
          reportWrs t q f (match w.chain with
            | some h => chainOne t n2 h
            | none => n2)

/-- End a queue pair's work requests with a status, in index order; those complete already report so (R314). -/
def endWrs (t : Tck) (n : Node) (q status : Nat) : Node :=
  match qpOf n q with
  | none => n
  | some x =>
    let n1 := modQp n q fun y => { y with wrs := [], sends := [], sqDone := y.sqTail }
    let n2 := x.wrs.foldl
      (fun m w =>
        if w.stage = 2 then (if bitAt (byteAt w.entry 1) 0 then postQp t m q (wrEntry q w stOk) else m) else postQp t m q (wrEntry q w status))
      n1
    (dedupNat (x.wrs.filterMap (·.chain))).foldl (fun m h => chainFail t m h status) n2

/-- A queue pair enters ERROR (R303, R314). -/
def failQp (t : Tck) (n : Node) (q status : Nat) : Node :=
  match qpOf n q with
  | none => n
  | some x =>
    let n1 := endWrs t n q status
    let n2 := bump (modQp n1 q fun y => { y with st := 2, errTick := t.tick }) Rg.qstQpErrCount 1
    if status = stPeerLost then raise t n2 evQstPeerUnreach (leBytes 2 x.peer) else n2

/-! ## Sending (R308 to R311) -/

/-- Segments of a message of `len` bytes, and the bytes of one. -/
def segCount (len : Nat) : Nat := cdiv len 4096
/-- Bytes of segment `i`. -/
def segBytes (len i : Nat) : Nat := min 4096 (len - 4096 * i)

/-- A segment not yet sent. -/
def freshSeg (try_ : Nat) : SegTx := ⟨false, false, 0, 0, try_, 0, 0⟩

/-- A message to send. -/
def newMsg (msn op : Nat) (data : Bytes) (tag : Option Nat) (rkey raddr cls : Nat) (wr : Option Nat) (poison : List (Nat × Nat)) : SendMsg :=
  ⟨msn, op, data, tag, rkey, raddr, cls, none, List.replicate (segCount data.length) (freshSeg 0), wr, poison, none, false⟩

/-- Bytes of segments sent and not acknowledged. -/
def unackedBytes (q : Qp) : Nat :=
  (q.sends.map fun m => ((List.range m.segs.length).map fun i =>
    match m.segs[i]? with
    | some s => if s.sent && !s.acked then segBytes m.data.length i else 0
    | none => 0).foldl (· + ·) 0).foldl (· + ·) 0

/-- The next segment to send: of the sixteen oldest messages, the first that has one and may go on. -/
def nextSeg (q : Qp) : Option (SendMsg × Nat) :=
  (q.sends.take 16).findSome? fun m =>
    if m.rnrAt.isSome then none
    else ((List.range m.segs.length).find? fun i => match m.segs[i]? with | some s => !s.sent | none => false).map fun i => (m, i)

/-- Does the window admit `b` more bytes. -/
def admits (q : Qp) (b : Nat) : Bool := unackedBytes q = 0 || unackedBytes q + b ≤ q.cwnd

/-- The next segment when it exists and the window admits it. -/
def qpSends (q : Qp) : Option (SendMsg × Nat) := (nextSeg q).filter fun x => admits q (segBytes x.1.data.length x.2)

/-- Change a message being sent. -/
def modMsg (q : Qp) (msn : Nat) (f : SendMsg → SendMsg) : Qp := { q with sends := lmodify q.sends (·.msn == msn) f }

/-- The mask of a segment's poisoned lines of a kind. -/
def pmask (m : SendMsg) (i kind : Nat) : Nat :=
  maskOf (m.poison.filterMap fun x => if x.2 == kind && x.1 / 64 == i then some (x.1 % 64) else none)

/-- Transmit segment `i` of a message on the next usable path (R298 to R301, R308): nothing when no key, no link or no credit allows it. -/
def transmit (t : Tck) (n : Node) (qn : Nat) (q : Qp) (m : SendMsg) (i : Nat) : Option Node :=
  match m.key.orElse (fun _ => activeSlot n), m.segs[i]? with
  | some k, some s =>
    let p := nextPath t q
    match linkOf n q.peer p with
    | none => none
    | some l =>
      let tx : SegTx := ⟨true, false, t.now, p, s.try_, q.order, 0⟩
      let q1 := modMsg { q with lastPath := p, order := q.order + 1 } m.msn fun x => { x with key := some k, segs := x.segs.set i tx }
      let seg : Seg := {
        op := m.op, tagged := m.tag.isSome, ackNow := (qpSends q1).isNone, path := p, try_ := s.try_, dstQp := q.peerQp.getD 0, srcQp := qn,
        srcNode := nodeId n, keyId := k, seq := m.msn, off := 4096 * i, len := m.data.length, rkey := m.rkey, raddr := m.raddr, tag := m.tag.getD 0,
        ts := t.now % 2 ^ 32, pmem := pmask m i 1, pown := pmask m i 2, payload := slice m.data (4096 * i) (segBytes m.data.length i), ce := false }
      (emitSeg t n l m.cls seg).map fun n1 => pmc (setQp n1 qn q1) 51 0x4004 1
  | _, _ => none

/-- Send a queue pair's next segment. -/
def sendNext (t : Tck) (n : Node) (qn : Nat) : Node :=
  match qpOf n qn with
  | none => n
  | some q =>
    if q.st != 1 then n
    else
      match qpSends q with
      | none => n
      | some (m, i) => (transmit t n qn q m i).getD n

/-- The queue pair of the node's own toward a peer. -/
def ownQp (n : Node) (typ peer : Nat) : Option Nat := (n.qst.qps.find? fun e => e.2.typ == typ && e.2.peer == peer && e.2.st != 2).map (·.1)

/-- A queue-pair number that is free and not held (R304). -/
def freeQpn (n : Node) : Option Nat :=
  (List.range (n.qst.qps.length + n.qst.held.length + 1)).find? fun k => k < 1048576 && !mhas n.qst.qps k && !mhas n.qst.held k

/-- Enter a context in the cache as the most recently used; the least recently used without a waiting segment leaves (R305). -/
def touchQp (n : Node) (q : Nat) : Node :=
  let l := n.qst.cache.filter (· != q) ++ [q]
  let l1 := if 65536 < l.length then
      (match l.find? fun k => !n.qst.waiting.any fun w => w.2.dstQp == k with
       | some v => l.filter (· != v)
       | none => l.drop 1)
    else l
  { n with qst := { n.qst with cache := l1 } }

/-- Hand a message of the node's own to its queue pair, created when it is first needed (R302). -/
def queueOwn (t : Tck) (n : Node) (typ peer peerQp cls : Nat) (data : Bytes) (tag : Option Nat) : Node × Option Nat :=
  let msg (q : Qp) : Qp := { q with sends := q.sends ++ [newMsg q.msn 1 data tag 0 0 cls none []], msn := q.msn + 1 }
  if data.isEmpty then (n, none)
  else
    match ownQp n typ peer with
    | some k => (modQp n k msg, some k)
    | none =>
      match freeQpn n with
      | none => (n, none)
      | some k => (touchQp (setQp n k (msg (newQp t n k typ 0 .mgmt peer (some peerQp) 4))) k, some k)

/-- The region and address that a message's work request reads, when it lies in terrace 1. -/
def msgSource (n : Node) (q : Qp) (m : SendMsg) : Option (Mr × Nat) :=
  match q.wrs.find? fun w => m.wr == some w.idx with
  | some w =>
    match regionOf n (field w.entry 8 4) with
    | some r => if r.space = 0 then none else some (r, field w.entry 16 8)
    | none => none
  | none => none

/-- The lines that the next segment of a queue pair is read from pass the full decoder, with those of `errs` in error; a line found uncorrectable goes out as poison
(R221, R225). -/
def readSent (t : Tck) (n : Node) (qn : Nat) (errs : List (Nat × List Nat)) : Node :=
  match qpOf n qn with
  | none => n
  | some q =>
    match qpSends q with
    | none => n
    | some (m, _) =>
      match msgSource n q m with
      | none => n
      | some (r, a) =>
        let ls := (List.range (cdiv m.data.length 64)).map fun i => resolve n (a + 64 * i) / 64 * 64
        let n1 := ctrlReads t n (errs.filter fun e => ls.contains e.1)
        setQp n1 qn (modMsg q m.msn fun x => { x with poison := mrPoison n1 r a m.data.length })

/-- `SEGMENT_SEND` (R298 to R301, R308, R324). -/
def segmentSend (src : SendSrc) (t : Tck) (n : Node) : Node :=
  match src with
  | .qp q errs => sendNext t (if errs.isEmpty then n else readSent t n q errs) q
  | .node typ peer peerQp cls data tag =>
    match queueOwn t n (if typ = 2 then 2 else 3) peer peerQp cls data tag with
    | (n1, some k) => sendNext t n1 k
    | (n1, none) => n1

/-! Starting work requests (R315). -/

/-- Is a work request free of field errors, its data in a region of the queue pair's domain. -/
def wrOk (n : Node) (q : Qp) (w : Bytes) : Bool :=
  let op := byteAt w 0
  let len := field w 4 4
  byteAt w 1 / 8 == 0 && field w 2 2 == 0 && allZero (slice w 48 16)
    && (if op = 0x0F then len == 0
        else (op == 1 || op == 2) && 1 ≤ len && len ≤ 1048576
          && (match regionOf n (field w 8 4) with
              | some r => r.pd == q.pd && r.covers (field w 16 8) len
              | none => false)
          && (op == 2 || (field w 12 4 == 0 && field w 24 8 == 0)))

/-- Start one work request: a NOP completes, another becomes a message. -/
def startWr (n : Node) (qn : Nat) (q : Qp) (w : Wr) : Node :=
  let put (stage : Nat) (x : Qp) : Qp := { x with wrs := lmodify x.wrs (·.idx == w.idx) fun y => { y with stage := stage } }
  if byteAt w.entry 0 = 0x0F then setQp n qn (put 2 q)
  else
    match regionOf n (field w.entry 8 4) with
    | none => n
    | some r =>
      let a := field w.entry 16 8
      let len := field w.entry 4 4
      let tag := if bitAt (byteAt w.entry 1) 1 then some (field w.entry 32 8) else none
      let m := newMsg q.msn (byteAt w.entry 0) (mrRead n r a len) tag (field w.entry 12 4) (field w.entry 24 8) q.svc (some w.idx) (mrPoison n r a len)
      setQp n qn (put 1 { q with sends := q.sends ++ [m], msn := q.msn + 1 })

/-- Start what may start, in index order: FENCE waits for all earlier ones, a field error fails the queue pair; `fuel` bounds the requests. -/
def startWrs (t : Tck) (qn : Nat) : Nat → Node → Node
  | 0, n => n
  | f + 1, n =>
    match qpOf n qn with
    | none => n
    | some q =>
      if q.st = 2 then n
      else
        match q.wrs.find? (·.stage == 0) with
        | none => n
        | some w =>
          if bitAt (byteAt w.entry 1) 2 && q.wrs.any (fun x => x.idx < w.idx && x.stage != 2) then n
          else if !wrOk n q w.entry then failQp t n qn stBadParam
          else startWrs t qn f (startWr n qn q w)

/-- Start and report a queue pair's work requests until nothing moves. -/
def runWrs (t : Tck) (n : Node) (qn : Nat) : Node :=
  let k := ((qpOf n qn).map fun q => q.wrs.length).getD 0
  reportWrs t qn k (startWrs t qn k n)

/-! Retransmission (R311). -/

/-- The retransmission timeout of an attempt. -/
def rtoOf (t : Tck) (n : Node) (q : Qp) (try_ : Nat) : Nat := max (2 * q.srtt) (rd n Rg.qstRtxCfgRtoMin * unitsPerNotch t.cur) * 2 ^ try_

/-- Retransmit a segment on the next usable path, its attempt one higher; past attempt 7 the message fails by loss. -/
def retransmit (t : Tck) (n : Node) (qn msn i : Nat) : Node :=
  match qpOf n qn with
  | none => n
  | some q =>
    match q.sends.find? (·.msn == msn) with
    | none => n
    | some m =>
      match m.segs[i]? with
      | none => n
      | some s =>
        if 7 ≤ s.try_ then failQp t n qn stPeerLost
        else
          let m1 := { m with segs := m.segs.set i (freshSeg (s.try_ + 1)), loss := true }
          let q1 := modMsg q msn fun _ => m1
          let n1 := pmc (bump (setQp n qn q1) Rg.qstRetxCount 1) 51 0x4005 1
          (transmit t n1 qn q1 m1 i).getD n1

/-- `RTO_EXPIRY` (R309, R311): a segment unacknowledged for its timeout; its path is held unusable. -/
def rtoExpiry (qn msn i : Nat) (t : Tck) (n : Node) : Node :=
  match qpOf n qn with
  | none => n
  | some q =>
    match q.sends.find? (·.msn == msn) with
    | none => n
    | some m =>
      match m.segs[i]? with
      | none => n
      | some s =>
        if s.sent && !s.acked && s.at_ + rtoOf t n q s.try_ ≤ t.now && q.st == 1 then retransmit t (setQp n qn (holdPath t n q s.path)) qn msn i
        else n

/-- `PATH_HOLD_EXPIRY` (R309): paths held long enough are usable again. -/
def pathHoldExpiry (qn : Nat) (t : Tck) (n : Node) : Node := modQp n qn fun q => { q with bad := q.bad.filter fun e => t.tick < e.2 }

/-- `RNR_RESEND` (R311): one tick after an RNR the message is sent again from its first segment, every attempt one higher. -/
def rnrResend (qn msn : Nat) (t : Tck) (n : Node) : Node :=
  match qpOf n qn with
  | none => n
  | some q =>
    match q.sends.find? (·.msn == msn) with
    | none => n
    | some m =>
      match m.rnrAt with
      | none => n
      | some at_ =>
        if t.now < at_ || q.st != 1 then n
        else if m.segs.any fun s => 7 ≤ s.try_ then failQp t n qn (if m.loss then stPeerLost else stDeadline)
        else setQp n qn (modMsg q msn fun x => { x with rnrAt := none, segs := x.segs.map fun s => freshSeg (s.try_ + 1) })

/-! ## Acknowledgements at the sender (R310, R313, R314) -/

/-- A quotient that the spec gives no rounding for: one of its two neighbours, free. DESIGN CHOICE, safe: log entry 16. -/
def freeRound (n : Node) (a b : Nat) : Nat × Node :=
  if a % b = 0 then (a / b, n) else (let r := takeFree n; (a / b + r.1 % 2, r.2))

/-- The congestion window after a round trip (R310): g is the larger of the marked share and the excess delay. -/
def newWindow (n : Node) (q : Qp) : Nat × Node :=
  let target := rd n Rg.qstCcCfgTarget * 400
  let ((fnum, fden), n1) :=
    if 0 < q.epochAcked then ((q.epochCe, q.epochAcked), n)
    else if q.epochCe = 0 then ((0, 1), n)
    else (let r := takeFree n; ((r.1 % 65537, 65536), r.2))
  let rtt := q.epochMin.getD 0
  let (dnum, dden) := if target < rtt then (rtt - target, rtt) else (0, 1)
  let (num, den) := if fnum * dden < dnum * fden then (dnum, dden) else (fnum, fden)
  if num = 0 then (min (rd n Rg.qstCcCfgWmax * 65536) (q.cwnd + rd n Rg.qstCcCfgAi * 4096), n1)
  else (let r := freeRound n1 (q.cwnd * (2 * den - num)) (2 * den); (max 4096 r.1, r.2))

/-- `on_ack` of R310. -/
def onAck (t : Tck) (n : Node) (q : Qp) (rtt acked ce : Nat) : Qp × Node :=
  let (s, n1) := freeRound n (7 * q.srtt + rtt) 8
  let q1 := { q with srtt := s, epochAcked := q.epochAcked + acked, epochCe := q.epochCe + ce, epochMin := some (min (q.epochMin.getD rtt) rtt) }
  if q.epochStart + s ≤ t.now then
    let (w, n2) := newWindow n1 q1
    ({ q1 with cwnd := w, epochAcked := 0, epochCe := 0, epochMin := none, epochStart := t.now }, n2)
  else (q1, n1)

/-- Mark one segment acknowledged; earlier ones on its path count it (R311). -/
def ackOne (q : Qp) (x : Nat × Nat) : Qp :=
  match (q.sends.find? (·.msn == x.1)).bind fun m => m.segs[x.2]? with
  | none => q
  | some s =>
    let late (y : SegTx) : SegTx := if y.sent && !y.acked && y.path == s.path && y.order < s.order then { y with later := y.later + 1 } else y
    let q1 := modMsg q x.1 fun m => { m with segs := m.segs.set x.2 { s with acked := true, sent := true } }
    { q1 with sends := q1.sends.map fun m => { m with segs := m.segs.map late } }

/-- The segments that an ACK covers anew. -/
def newlyAcked (q : Qp) (base msn : Nat) (bitmap : Nat) : List (Nat × Nat) :=
  q.sends.flatMap fun m => (List.range m.segs.length).filterMap fun i =>
    match m.segs[i]? with
    | some s => if !s.acked && s.sent && (m.msn < base || (m.msn == msn && bitAt bitmap i)) then some (m.msn, i) else none
    | none => none

/-- `ACK` (R310, R311, R313): the body's BASE, MSN, CE, BITMAP and TS_ECHO. -/
def takeAck (t : Tck) (n : Node) (qn : Nat) (q : Qp) (s : Seg) : Node :=
  let b := s.payload
  let new := newlyAcked q (field b 0 6) (field b 8 6) (field b 16 32)
  let q1 := new.foldl ackOne q
  let rtt := (t.now + 2 ^ 32 - field b 48 4 % 2 ^ 32) % 2 ^ 32
  let r := onAck t n q1 rtt new.length (field b 14 2)
  let q2 : Qp := r.1
  let n1 : Node := r.2
  let doneM := q2.sends.filter fun m => m.segs.all (·.acked)
  let wdone := doneM.filterMap (·.wr)
  let q3 : Qp := { q2 with
    sends := q2.sends.filter fun m => !m.segs.all (·.acked)
    wrs := q2.wrs.map fun w => if wdone.contains w.idx then { w with stage := 2 } else w }
  let fast : List (Nat × Nat) := q3.sends.flatMap fun m => (List.range m.segs.length).filterMap fun i =>
    match m.segs[i]? with
    | some x => if x.sent && !x.acked && 3 ≤ x.later then some (m.msn, i) else none
    | none => none
  runWrs t (fast.foldl (fun m x => retransmit t m qn x.1 x.2) (reportWrs t qn q3.wrs.length (setQp n1 qn q3))) qn

/-- `NACK` (R311, R314): RNR waits one tick; any other reason puts the queue pair in ERROR. -/
def takeNack (t : Tck) (n : Node) (qn : Nat) (q : Qp) (s : Seg) : Node :=
  let reason := byteAt s.payload 6
  if reason = 4 then setQp n qn (modMsg q (field s.payload 0 6) fun m => if m.rnrAt.isSome then m else { m with rnrAt := some (t.now + unitsPerTick t.cur) })
  else if reason = 1 || reason = 2 then failQp t n qn stDenied
  else if reason = 3 then failQp t n qn stNotOwner
  else if reason = 5 || reason = 6 then failQp t n qn stBadParam
  else n

/-! ## Acknowledgements at the receiver (R312 to R314) -/

/-- Send an ACK or NACK (R299: class 0) on a path toward a node; nothing while no slot is ACTIVE or no link is up. -/
def sendControl (t : Tck) (n : Node) (op qn dstQp node path seq : Nat) (body : Bytes) : Node :=
  match ackSlot n, linkOf n node path with
  | some k, some l =>
    (emitSeg t n l 0 {
      op := op, tagged := false, ackNow := false, path := path, try_ := 0, dstQp := dstQp, srcQp := qn, srcNode := nodeId n, keyId := k, seq := seq, off := 0,
      len := 0, rkey := 0, raddr := 0, tag := 0, ts := t.now % 2 ^ 32, pmem := 0, pown := 0, payload := body, ce := false }).getD n
  | _, _ => n

/-- The 56-byte body of an ACK. -/
def ackBody (q : Qp) (msn ts : Nat) : Bytes :=
  let bm := match q.recvs.find? (·.msn == msn) with
    | some r => maskOf r.have_
    | none => 0
  let named := if q.recvs.any (·.msn == msn) then msn else 0
  leBytes 6 q.base ++ zeros 2 ++ leBytes 6 named ++ leBytes 2 (satTo 16 q.ce) ++ leBytes 32 bm ++ leBytes 4 ts ++ zeros 4

/-- Acknowledge now, for the segment of a message with its TS and path. -/
def sendAck (t : Tck) (n : Node) (qn msn ts path : Nat) : Node :=
  match qpOf n qn with
  | none => n
  | some q =>
    let n1 := sendControl t n 0x10 qn (q.peerQp.getD 0) q.peer (path % max q.paths 1) q.asn (ackBody q msn ts)
    modQp n1 qn fun x => { x with asn := x.asn + 1, since := 0, ce := 0, first := none }

/-- Refuse a segment (R314). A number that names no queue pair has no ASN: the NACK's is free. DESIGN CHOICE, safe: log entry 17. -/
def sendNack (t : Tck) (n : Node) (s : Seg) (reason : Nat) : Node :=
  let body := leBytes 6 s.seq ++ leBytes 1 reason ++ [0] ++ leBytes 4 s.off
  match qpOf n s.dstQp with
  | some q => modQp (sendControl t n 0x11 s.dstQp s.srcQp s.srcNode (s.path % max q.paths 1) q.asn body) s.dstQp fun x => { x with asn := x.asn + 1 }
  | none =>
    let (v, n1) := takeFree n
    sendControl t n1 0x11 s.dstQp s.srcQp s.srcNode s.path (v % 2 ^ 48) body

/-- `ACK_DELAY` (R313): the first segment not yet acknowledged has waited long enough. -/
def ackDelay (qn : Nat) (t : Tck) (n : Node) : Node :=
  match (qpOf n qn).bind (·.first) with
  | some (at_, msn, ts, path) => if at_ + rd n Rg.qstRtxCfgAckDelay * unitsPerNotch t.cur ≤ t.now then sendAck t n qn msn ts path else n
  | none => n

/-! ## Receiving (R300, R301, R305, R307, R312, R318, R319) -/

/-- What becomes of a segment's bytes. -/
inductive Placed where
  | ok (n : Node) (slot : Option Nat)
  | nack (reason : Nat)
  /-- Copies of the lines are being recalled: the segment waits (R281). -/
  | wait (n : Node)

/-- Write a segment's bytes at an address of a region, and its poisoned lines as poison of their kinds (R300). -/
def placeAt (t : Tck) (n : Node) (r : Mr) (a : Nat) (s : Seg) : Node × Bool :=
  let rc := if r.space = 0 then (n, true) else recallRange t true n a s.payload.length
  if !rc.2 then rc
  else
    let n1 := mrWrite t rc.1 r a s.payload
    if r.space = 0 then (n1, true)
    else
      let lines := (List.range 64).filter fun i => 64 * i < s.payload.length
      (lines.foldl (fun m i => if bitAt s.pown i then cxSetPoison m (a + 64 * i) 2 else if bitAt s.pmem i then cxSetPoison m (a + 64 * i) 1 else m) n1, true)

/-- Place a segment: a WRITE under R307, a SEND of a HOST queue pair in its slot under R318, others into the message kept for its consumer. -/
def place (t : Tck) (n : Node) (q : Qp) (m : Option RecvMsg) (s : Seg) : Placed :=
  let finish (x : Node × Bool) (slot : Option Nat) : Placed := if x.2 then .ok x.1 slot else .wait x.1
  if s.op = 2 then
    match regionOf n s.rkey with
    | none => .nack 1
    | some r =>
      if r.pd != q.pd || !bitAt r.access 0 then .nack 1
      else if !r.covers s.raddr s.len then .nack 2
      else finish (placeAt t n r (s.raddr + s.off) s) none
  else if q.typ = 0 then
    let free := q.rqLog2 != 0 && (q.rqTaken + 2 ^ 32 - q.rqHead) % 2 ^ 32 < 2 ^ q.rqLog2
    match m.bind (·.slot) with
    | some k =>
      match regionOf n q.rqKey with
      | some r => finish (placeAt t n r (q.rqAddr + k % 2 ^ q.rqLog2 * 2 ^ q.slotLog2 + s.off) s) (some k)
      | none => .nack 4
    | none =>
      if !free then .nack 4
      else if 2 ^ q.slotLog2 < s.len then .nack 5
      else
        match regionOf n q.rqKey with
        | some r => finish (placeAt t n r (q.rqAddr + q.rqTaken % 2 ^ q.rqLog2 * 2 ^ q.slotLog2 + s.off) s) (some q.rqTaken)
        | none => .nack 4
  else .ok n none

/-- A completed message counts on a host-posted chain of its queue pair (R319, R320). -/
def countChain (t : Tck) (n : Node) (qn tag : Nat) : Node :=
  let hit (c : HostChain) : Bool := c.qp == qn && c.tag == tag && !c.fired && t.now < t.at c.expire 0
  { n with cfl := { n.cfl with hosts := lmodify n.cfl.hosts hit fun c => { c with count := c.count + 1 } } }

/-- A message of a CMD queue pair goes to the command front end (R65, R318). -/
def toFrontEnd (t : Tck) (n : Node) (qn : Nat) (b : Bytes) : Node :=
  let src : Req := .qp (BitVec.ofNat 20 qn)
  let ring := byteAt b 1
  if byteAt b 0 = 1 then
    let k := byteAt b 2
    if b.length = 16 + 64 * k then submit ⟨ring, field b 4 4, chunksOf 64 k (b.drop 16)⟩ qn src t n else badDb t n ring
  else if byteAt b 0 = 3 then cqHead ring (field b 4 4) src t n
  else n

/-- Deliver a completed message to its consumer (R312, R318). -/
def deliverMsg (t : Tck) (n : Node) (qn : Nat) (q : Qp) (m : RecvMsg) : Node :=
  let b := Mem.read 0 m.data 0 m.len
  if m.op = 2 then n
  else if q.typ = 0 then
    postQp t n qn (qpEntry qn 0 stOk 0x81 (b2n m.tag.isSome) m.len (m.slot.getD 0 % 2 ^ q.rqLog2) (m.tag.getD 0))
  else if q.typ = 1 then toFrontEnd t n qn b
  else if q.typ = 2 && (byteAt b 0 == 0x10 || byteAt b 0 == 0x11) then partialReceive b false false t n
  else emit n (.nodeMsg qn b)

/-- BASE advances past every completed message at its low end; `fuel` bounds them. -/
def advanceBase (q : Qp) : Nat → Qp
  | 0 => q
  | f + 1 => if q.recvs.any fun r => r.msn == q.base && r.done then advanceBase { q with base := q.base + 1 } f else q

/-- A message is complete: it counts, BASE advances, and it is delivered: at once, or in message order (R312, R319). -/
def messageDone (t : Tck) (n : Node) (qn : Nat) (q : Qp) (m : RecvMsg) : Node :=
  let q1 := advanceBase q (q.recvs.length + 1)
  let q2 := { q1 with recvs := q1.recvs.filter fun r => q1.base ≤ r.msn }
  let n1 := match m.tag with
    | some g => countChain t (setQp n qn q2) qn g
    | none => setQp n qn q2
  let out := if q.inOrder then q1.recvs.filter fun r => r.msn < q1.base else [m]
  (List.range out.length).foldl (fun k i => match (if q.inOrder then out.find? (·.msn == q.base + i) else out[i]?) with
    | some r => deliverMsg t k qn q2 r
    | none => k) n1

/-- Do a segment's fields agree with a message's fixed ones. -/
def agrees (m : RecvMsg) (s : Seg) : Bool :=
  m.op == s.op && m.len == s.len && m.rkey == s.rkey && m.raddr == s.raddr && m.tag == (if s.tagged then some s.tag else none)

/-- A duplicate or out-of-window segment: discarded, counted, acknowledged at once. -/
def dupSeg (t : Tck) (n : Node) (s : Seg) : Node :=
  sendAck t (bump (modQp n s.dstQp fun q => { q with ce := q.ce + b2n s.ce }) Rg.qstRxDupCount 1) s.dstQp s.seq s.ts s.path

/-- Note a segment placed, complete its message, and acknowledge as R313 asks. -/
def segPlaced (t : Tck) (n : Node) (q : Qp) (s : Seg) (old : Option RecvMsg) (slot : Option Nat) : Node :=
  let m0 : RecvMsg := old.getD ⟨s.seq, s.op, s.len, if s.tagged then some s.tag else none, s.rkey, s.raddr, [], none, [], false⟩
  let keep := s.op = 1 && q.typ != 0
  let m1 := { m0 with
    have_ := m0.have_ ++ [s.off / 4096]
    slot := slot
    data := if keep then Mem.write 0 m0.data s.off s.payload else m0.data }
  let m2 := { m1 with done := segCount m1.len ≤ m1.have_.length }
  let q1 := { q with
    recvs := q.recvs.filter (·.msn != s.seq) ++ [m2]
    rqTaken := if slot.isSome && (old.bind (·.slot)).isNone then (q.rqTaken + 1) % 2 ^ 32 else q.rqTaken
    since := q.since + 1
    ce := q.ce + b2n s.ce
    first := some (q.first.getD (t.now, s.seq, s.ts, s.path)) }
  let n1 := if m2.done then messageDone t (setQp n s.dstQp q1) s.dstQp q1 m2 else setQp n s.dstQp q1
  if m2.done || s.ackNow || rd n Rg.qstRtxCfgAckSegs ≤ q1.since then sendAck t n1 s.dstQp s.seq s.ts s.path else n1

/-- Handle a data segment whose context is at hand; answers whether it is done with. -/
def takeSegment (t : Tck) (n : Node) (s : Seg) : Node × Bool :=
  match qpOf n s.dstQp with
  | none => (sendNack t n s 3, true)
  | some q =>
    let m := q.recvs.find? (·.msn == s.seq)
    if q.st != 1 || q.peer != s.srcNode || q.peerQp != some s.srcQp then (sendNack t n s 3, true)
    else if s.seq < q.base || q.base + 16 ≤ s.seq || (match m with | some r => r.have_.contains (s.off / 4096) && s.off % 4096 == 0 | none => false) then
      (dupSeg t n s, true)
    else if (match m with | some r => !agrees r s | none => false) || s.off % 4096 != 0 || s.len ≤ s.off || s.len = 0 || 1048576 < s.len
        || s.payload.length != min 4096 (s.len - s.off) then
      (sendNack t (raise t n evQstMalformed []) s 6, true)
    else
      match place t n q m s with
      | .nack r => (sendNack t n s r, true)
      | .wait n1 => (n1, false)
      | .ok n1 slot => (segPlaced t n1 q s m slot, true)

/-- Handle a packet whose context is at hand. -/
def takePacket (t : Tck) (n : Node) (s : Seg) : Node × Bool :=
  if s.op = 0x10 || s.op = 0x11 then
    (match qpOf n s.dstQp with
     | some q =>
       if q.peer != s.srcNode || q.peerQp != some s.srcQp || q.st != 1 then (n, true)
       else if s.op = 0x10 then (takeAck t n s.dstQp q s, true) else (takeNack t n s.dstQp q s, true)
     | none => (n, true))
  else takeSegment t n s

/-- Count a frame that a port discards. -/
def dropFrame (n : Node) (l : Link) : Node :=
  match l with
  | .fp p => bump n (Rg.qstPortRxDropOther p.val) 1
  | .bl _ => n

/-- Bytes that wait in a port's miss buffer. -/
def missBytes (n : Node) (l : Link) : Nat := ((n.qst.waiting.filter (·.1 == l)).map fun w => segLen w.2).foldl (· + ·) 0

/-- Hold a packet whose context is not cached; a full miss buffer of a fabric port discards it (R21, R305). -/
def missSeg (n : Node) (l : Link) (s : Seg) : Node :=
  let full : Bool := match l with
    | .fp _ => 65536 < missBytes n l + segLen s
    | .bl _ => false
  if full then
    (match l with
     | .fp p => bump n (Rg.qstPortRxDropMiss p.val) 1
     | .bl _ => n)
  else
    let n1 := { n with qst := { n.qst with waiting := n.qst.waiting ++ [(l, s)] } }
    if n.qst.fetching.contains s.dstQp then n1
    else pmc (bump { n1 with qst := { n1.qst with fetching := n1.qst.fetching ++ [s.dstQp] } } Rg.qstQpMissCount 1) 51 0x4006 1

/-- A packet arrives on a link: key and tag first (R301), then its context (R305). -/
def arrive (t : Tck) (n : Node) (l : Link) (s : Seg) (tagOk : Bool) : Node :=
  let st := if 1 ≤ s.keyId && s.keyId ≤ 63 then rd n (Rg.secSlotState s.keyId) else 0
  let n0 := match l with
    | .fp p => pmc (pmc n (52 + p.val) 0x5002 (cdiv (segLen s) 64)) (52 + p.val) 0x5003 (b2n s.ce)
    | .bl _ => n
  if !([1, 2, 0x10, 0x11].contains s.op) then dropFrame n0 l
  else if st = 0 || st = 3 then bump n0 Rg.qstRxDropKeyRetired 1
  else if !tagOk then bump n0 Rg.qstRxDropAuth 1
  else if (qpOf n0 s.dstQp).isSome && !n0.qst.cache.contains s.dstQp then missSeg n0 l s
  else
    let r := takePacket t (if (qpOf n0 s.dstQp).isSome then touchQp n0 s.dstQp else n0) s
    if r.2 then r.1 else { r.1 with qst := { r.1.qst with waiting := r.1.qst.waiting ++ [(l, s)] } }

/-- `SEGMENT_RECEIVE` (R300, R301, R303, R305, R307, R312, R318). -/
def segmentReceive (l : Link) (s : Seg) (tagOk : Bool) (t : Tck) (n : Node) : Node :=
  if linkUp n l && s.op != 0x10 && s.op != 0x11 then arrive t n l s tagOk else n

/-- `ACK` and `NACK` arrive. -/
def controlReceive (op : Nat) (l : Link) (s : Seg) (tagOk : Bool) (t : Tck) (n : Node) : Node :=
  if linkUp n l && s.op = op then arrive t n l s tagOk else n

/-- Handle the packets that waited for a context, in order of arrival. -/
def takeWaiting (t : Tck) : List (Link × Seg) → Node → Node
  | [], n => n
  | w :: l, n =>
    let r := takePacket t n w.2
    takeWaiting t l (if r.2 then r.1 else { r.1 with qst := { r.1.qst with waiting := r.1.qst.waiting ++ [w] } })

/-- `QP_CONTEXT_FETCHED` (R305): a context arrives in the cache; also what waits for a recall is tried again. -/
def contextFetched (qn : Nat) (t : Tck) (n : Node) : Node :=
  let mine := n.qst.waiting.filter fun w => w.2.dstQp == qn
  let n1 := { n with qst := { n.qst with waiting := n.qst.waiting.filter (fun w => w.2.dstQp != qn), fetching := n.qst.fetching.filter (· != qn) } }
  takeWaiting t mine (if (qpOf n qn).isSome then touchQp n1 qn else n1)

/-! ## Replacement and release of numbers (R303, R304) -/

/-- Take a queue pair away: its number is held until every slot in use now has become EMPTY. -/
def dropQp (n : Node) (qn : Nat) : Node :=
  let slots := ((List.range 64).drop 1).filter fun k => rd n (Rg.secSlotState k) != 0
  { n with qst := { n.qst with
    qps := mdel n.qst.qps qn
    held := if slots.isEmpty then n.qst.held else mset n.qst.held qn slots
    cache := n.qst.cache.filter (· != qn)
    fetching := n.qst.fetching.filter (· != qn) } }

/-- A slot has become EMPTY: numbers that waited for it alone are free (R304). -/
def slotEmptied (n : Node) (k : Nat) : Node :=
  { n with qst := { n.qst with held := (n.qst.held.map fun e => (e.1, e.2.filter (· != k))).filter fun e => !e.2.isEmpty } }

/-- `QP_REPLACEMENT` (R303): at the next tick boundary a CFL or NODE queue pair in ERROR gives way to a new one toward the same peer. -/
def qpReplacement (qn : Nat) (peerQp : Option Nat) (t : Tck) (n : Node) : Node :=
  match qpOf n qn with
  | none => n
  | some q =>
    if q.typ < 2 || q.st != 2 || t.tick ≤ q.errTick then n
    else
      let n1 := dropQp n qn
      match freeQpn n1 with
      | none => n1
      | some k => touchQp (setQp n1 k (newQp t n1 k q.typ 0 .mgmt q.peer peerQp q.paths)) k

/-- `SEGMENT_SEND`. -/
def execSegmentSend (src : SendSrc) (s : State) : Outcome State Fault Refusal := onNode (segmentSend src) s
/-- `SEGMENT_RECEIVE`. -/
def execSegmentReceive (l : Link) (g : Seg) (tagOk : Bool) (s : State) : Outcome State Fault Refusal := onNode (segmentReceive l g tagOk) s
/-- `QP_CONTEXT_FETCHED`. -/
def execQpContextFetched (qp : BitVec 20) (s : State) : Outcome State Fault Refusal := onNode (contextFetched qp.toNat) s
/-- `ACK`. -/
def execAck (l : Link) (g : Seg) (tagOk : Bool) (s : State) : Outcome State Fault Refusal := onNode (controlReceive 0x10 l g tagOk) s
/-- `NACK`. -/
def execNack (l : Link) (g : Seg) (tagOk : Bool) (s : State) : Outcome State Fault Refusal := onNode (controlReceive 0x11 l g tagOk) s
/-- `ACK_DELAY`. -/
def execAckDelay (qp : BitVec 20) (s : State) : Outcome State Fault Refusal := onNode (ackDelay qp.toNat) s
/-- `RTO_EXPIRY`. -/
def execRtoExpiry (qp : BitVec 20) (msn seg : Nat) (s : State) : Outcome State Fault Refusal := onNode (rtoExpiry qp.toNat msn seg) s
/-- `RNR_RESEND`. -/
def execRnrResend (qp : BitVec 20) (msn : Nat) (s : State) : Outcome State Fault Refusal := onNode (rnrResend qp.toNat msn) s
/-- `PATH_HOLD_EXPIRY`. -/
def execPathHoldExpiry (qp : BitVec 20) (s : State) : Outcome State Fault Refusal := onNode (pathHoldExpiry qp.toNat) s
/-- `QP_REPLACEMENT`. -/
def execQpReplacement (qp : BitVec 20) (peerQp : Option Nat) (s : State) : Outcome State Fault Refusal := onNode (qpReplacement qp.toNat peerQp) s

end Sys2Proof.Machine
end

