-- ==== Sys2Proof/Machine/Objects.lean ====
section
/-! DEFINITION. Queue-pair doorbells, the object mailbox, and host-posted chains (14, R142). -/

namespace Sys2Proof.Machine

open Host (Outcome)

/-- May a requester use an object: the host port half that created it, or the management path (R316, R321). -/
def mayUse (owner src : Req) : Bool :=
  match src, owner with
  | .mgmt, _ => true
  | .host h _, .host k _ => h == k
  | _, _ => false

/-! ## Doorbells (R316) -/

/-- A doorbell ignored and counted. -/
def badQpDb (n : Node) : Node := bump n Rg.qstDbErrBad 1

/-- Run a doorbell's effect for a requester that may use the queue pair. -/
def withQpDb (n : Node) (qn : Nat) (src : Req) (body : Qp → Node) : Node :=
  match qpOf n qn with
  | none => badQpDb n
  | some q => if mayUse q.owner src then body q else badQpDb n

/-- Read the bytes of a ring slot of a queue pair; a ring whose region is gone reads as free bytes. DESIGN CHOICE: log entry 18. -/
def ringRead (n : Node) (key a len : Nat) : Bytes × Node :=
  match regionOf n key with
  | some r => (mrRead n r a len, n)
  | none =>
    let r := takeFrees len n
    (r.1.map (BitVec.ofNat 8), r.2)

/-- Read `k` work requests from a send queue into the queue pair (R316). -/
def readWrs (qn : Nat) : Nat → Node → Node
  | 0, n => n
  | k + 1, n =>
    match qpOf n qn with
    | none => n
    | some q =>
      let r := ringRead n q.sqKey (q.sqAddr + q.sqTail % 2 ^ q.sqLog2 * 64) 64
      let w : Wr := ⟨q.wrNext, r.1, none, 0⟩
      readWrs qn k (setQp r.2 qn { q with wrs := q.wrs ++ [w], wrNext := q.wrNext + 1, sqTail := (q.sqTail + 1) % 2 ^ 32 })

/-- `SEND_TAIL`: a new tail; it is checked against the work requests reported complete as R58 checks a submission ring. -/
def sendTail (qn tail : Nat) (src : Req) (t : Tck) (n : Node) : Node :=
  withQpDb n qn src fun q =>
    let d := (tail + 2 ^ 32 - q.sqDone) % 2 ^ 32
    let seen := (q.sqTail + 2 ^ 32 - q.sqDone) % 2 ^ 32
    if q.sqLog2 = 0 then badQpDb n
    else if tail = q.sqTail then n
    else if 1 ≤ d && d ≤ 2 ^ q.sqLog2 && seen ≤ d then runWrs t (readWrs qn (d - seen) n) qn
    else badQpDb n

/-- `RECEIVE_HEAD`: release receive slots, no further than those taken. -/
def receiveHead (qn head : Nat) (src : Req) (n : Node) : Node :=
  withQpDb n qn src fun q =>
    if q.rqLog2 != 0 && (head + 2 ^ 32 - q.rqHead) % 2 ^ 32 ≤ (q.rqTaken + 2 ^ 32 - q.rqHead) % 2 ^ 32 then setQp n qn { q with rqHead := head }
    else badQpDb n

/-- `COMPLETION_HEAD`: release completion entries, no further than those posted; completions that waited are written. -/
def completionHead (qn head : Nat) (src : Req) (t : Tck) (n : Node) : Node :=
  withQpDb n qn src fun q =>
    if q.cqLog2 != 0 && (head + 2 ^ 32 - q.cqHead) % 2 ^ 32 ≤ (q.cqPosted + 2 ^ 32 - q.cqHead) % 2 ^ 32 then
      drainCpl t qn q.cplq.length (setQp n qn { q with cqHead := head })
    else badQpDb n

/-! ## The mailbox (R304, R306, R321, R322) -/

/-- The 64 argument bytes. -/
def objArgs (n : Node) : Bytes := (List.range 16).flatMap fun i => leBytes 4 (rd n (Rg.qstObjArgArg i))

/-- Set the result of an operation. -/
def objResult (n : Node) (status : Nat) : Node := wr n Rg.qstObjStatusResult status

/-- Succeed with a returned value. -/
def objReturn (n : Node) (v : Nat) : Node := wr (objResult n stOk) (Rg.qstObjArgArg 0) v

/-- Run an operation on the arguments; while admission is stopped for tenant removal it is denied (R321). -/
def withObj (n : Node) (body : Bytes → Node) : Node :=
  if tenantState n == tsFencing || tenantState n == tsErasing then objResult n stDenied else body (objArgs n)

/-- The lowest number below a bound that a map lacks. -/
def lowestFree (m : NMap β) (bound : Nat) : Option Nat := (List.range (m.length + 1)).find? fun k => k < bound && !mhas m k

/-- `ALLOC_PD`. -/
def allocPd (src : Req) (n : Node) : Node :=
  withObj n fun _ =>
    match lowestFree n.qst.pds 4096 with
    | none => objResult n stBadParam
    | some k => objReturn { n with qst := { n.qst with pds := mset n.qst.pds k src } } k

/-- `FREE_PD`: a domain without members. -/
def freePd (src : Req) (n : Node) : Node :=
  withObj n fun a =>
    let k := field a 0 4
    match mget? n.qst.pds k with
    | none => objResult n stBadParam
    | some o =>
      if !mayUse o src then objResult n stNotOwner
      else if n.qst.qps.any (fun e => e.2.typ < 2 && e.2.pd == k) || n.qst.mrs.any (fun e => e.2.pd == k) then objResult n stBadParam
      else objResult { n with qst := { n.qst with pds := mdel n.qst.pds k } } stOk

/-- The next generation of a region index: index 0 never issues key 0, and no generation is used twice (R306). -/
def nextGen (n : Node) (k : Nat) : Option Nat :=
  match mget? n.qst.gens k with
  | none => some (if k = 0 then 1 else 0)
  | some g => if g < 255 then some (g + 1) else none

/-- The lowest region index free to be issued. -/
def freeRegion (n : Node) : Option (Nat × Nat) :=
  (List.range (n.qst.gens.length + 1)).findSome? fun k =>
    if k < 262144 && !mhas n.qst.mrs k then (nextGen n k).map fun g => (k, g) else none

/-- Is a region descriptor free of field errors (R322). -/
def regionOk (n : Node) (a : Bytes) (src : Req) : Bool :=
  1 ≤ field a 8 8 && field a 8 8 ≤ 2 ^ 40 && byteAt a 16 ≤ 1 && byteAt a 17 ≤ 3 && mhas n.qst.pds (field a 18 2) && allZero (slice a 20 44)
    && (byteAt a 16 == 1 || (match src with | .host _ _ => true | _ => false))
    && (byteAt a 16 == 0 || field a 0 8 + field a 8 8 ≤ t1Bytes)

/-- `REG_MR` (R306, R322): a region in terrace 1 covers only frames that the tenant holds (R307). -/
def regMr (src : Req) (n : Node) : Node :=
  withObj n fun a =>
    let base := field a 0 8
    let len := field a 8 8
    let space := byteAt a 16
    let pd := field a 18 2
    if !regionOk n a src then objResult n stBadParam
    else if !(match mget? n.qst.pds pd with | some o => mayUse o src | none => false)
        || (space == 1 && (nameFrames n base len).any fun f => !frameOurs n f) then objResult n stNotOwner
    else
      match freeRegion n with
      | none => objResult n stBadParam
      | some (k, g) =>
        objReturn { n with qst := { n.qst with
          mrs := mset n.qst.mrs k ⟨g, base, len, space, byteAt a 17, pd, src⟩, gens := mset n.qst.gens k g } } (k * 256 + g)

/-- `DEREG_MR`: a segment is placed in one step, so none is in placement. -/
def deregMr (src : Req) (n : Node) : Node :=
  withObj n fun a =>
    match regionOf n (field a 0 4) with
    | none => objResult n stBadParam
    | some r =>
      if !mayUse r.owner src then objResult n stNotOwner
      else objResult { n with qst := { n.qst with mrs := mdel n.qst.mrs (field a 0 4 / 256) } } stOk

/-- Is a ring field 0 or 4 to 16. -/
def ringLog2Ok (v : Nat) : Bool := v == 0 || (4 ≤ v && v ≤ 16)

/-- Does a ring lie in a region that the requester may use, with an access bit when it needs one. -/
def ringIn (n : Node) (key addr len access : Nat) : Bool :=
  match regionOf n key with
  | some r => r.covers addr len && (access == 0 || bitAt r.access access)
  | none => false

/-- Is a region another requester's. -/
def foreignRegion (n : Node) (src : Req) (key : Nat) : Bool :=
  match regionOf n key with
  | some r => !mayUse r.owner src
  | none => false

/-- Is a QP descriptor free of field errors (R322). -/
def qpDescOk (n : Node) (a : Bytes) : Bool :=
  let typ := byteAt a 15
  let sq := byteAt a 10
  let rq := byteAt a 11
  let cq := byteAt a 13
  field a 0 2 < 8192 && mhas n.qst.pds (field a 2 2) && field a 4 4 < 2 ^ 20 && 1 ≤ byteAt a 8 && byteAt a 8 ≤ 16 && byteAt a 9 ≤ 1
    && (if typ = 1 then sq == 0 && cq == 0 else typ == 0 && 4 ≤ sq && sq ≤ 16 && 4 ≤ cq && cq ≤ 16)
    && ringLog2Ok rq && (rq == 0 || (12 ≤ byteAt a 12 && byteAt a 12 ≤ 20)) && 1 ≤ byteAt a 14 && byteAt a 14 ≤ 3
    && field a 30 2 == 0 && allZero (slice a 56 8)
    && (sq == 0 || (mult (field a 32 8) 64 && ringIn n (field a 16 4) (field a 32 8) (64 * 2 ^ sq) 0))
    && (rq == 0 || (mult (field a 40 8) (2 ^ byteAt a 12) && ringIn n (field a 20 4) (field a 40 8) (2 ^ (byteAt a 12 + rq)) 1))
    && (cq == 0 || (mult (field a 48 8) 4096 && ringIn n (field a 24 4) (field a 48 8) (32 * 2 ^ cq) 1))

/-- The queue pair of a descriptor. -/
def descQp (t : Tck) (n : Node) (k : Nat) (a : Bytes) (src : Req) : Qp :=
  let peer := if field a 4 4 = 0xFFFFF then none else some (field a 4 4)
  { newQp t n k (byteAt a 15) (field a 2 2) src (field a 0 2) peer (byteAt a 8) with
    inOrder := bitAt (byteAt a 9) 0
    svc := byteAt a 14
    sqLog2 := byteAt a 10
    rqLog2 := byteAt a 11
    slotLog2 := byteAt a 12
    cqLog2 := byteAt a 13
    sqKey := field a 16 4
    rqKey := field a 20 4
    cqKey := field a 24 4
    msix := field a 28 2
    sqAddr := field a 32 8
    rqAddr := field a 40 8
    cqAddr := field a 48 8 }

/-- `CREATE_QP` (R304, R321, R322). -/
def createQp (src : Req) (t : Tck) (n : Node) : Node :=
  withObj n fun a =>
    if !qpDescOk n a then objResult n stBadParam
    else if !(match mget? n.qst.pds (field a 2 2) with | some o => mayUse o src | none => false)
        || (byteAt a 10 != 0 && foreignRegion n src (field a 16 4)) || (byteAt a 11 != 0 && foreignRegion n src (field a 20 4))
        || (byteAt a 13 != 0 && foreignRegion n src (field a 24 4)) then objResult n stNotOwner
    else
      match freeQpn n with
      | none => objResult n stBadParam
      | some k => objReturn (touchQp (setQp n k (descQp t n k a src)) k) k

/-- Run an operation on a queue pair that host software or the management path may name. -/
def withObjQp (n : Node) (src : Req) (qn : Nat) (body : Qp → Node) : Node :=
  match qpOf n qn with
  | none => objResult n stBadParam
  | some q => if 2 ≤ q.typ || !mayUse q.owner src then objResult n stNotOwner else body q

/-- `CONNECT_QP` (R303): a queue pair in RESET learns its peer and is READY. -/
def connectQp (src : Req) (n : Node) : Node :=
  withObj n fun a =>
    let qn := field a 0 4
    let p := field a 4 4
    withObjQp n src qn fun q =>
      if q.st != 0 || 0xFFFFF ≤ p then objResult n stBadParam
      else objResult (setQp n qn { q with peerQp := some p, st := 1, eseed := eseedOf (nodeId n) qn q.peer p }) stOk

/-- `DESTROY_QP` (R304, R314, R321). -/
def destroyQp (src : Req) (t : Tck) (n : Node) : Node :=
  withObj n fun a =>
    withObjQp n src (field a 0 4) fun _ => objResult (dropQp (endWrs t n (field a 0 4) stStateLost) (field a 0 4)) stOk

/-! ## Host-posted chains (R142, R319, R320) -/

/-- Offending fields of a `TRIGGER_POST`. -/
def triggerOffs (n : Node) (c : Cmd) : List Nat :=
  let used (x : HostChain) : Bool := !x.fired && x.qp == c.f 36 4 && x.tag == c.f 24 8
  offIf (n.cfl.hosts.any used) 24
    ++ offIf (c.f 32 4 == 0 || 16777216 < c.f 32 4) 32
    ++ offIf (2 ^ 20 ≤ c.f 36 4) 36
    ++ offIf (c.f 40 2 == 0 || 64 < c.f 40 2) 40
    ++ rsv c 42 43 ++ rsv c 56 63

/-- `TRIGGER_POST`. -/
def triggerPost (h : Nat) (t : Tck) (n : Node) : Node :=
  withCmd n h opTriggerPost fun c =>
    checked t n c (triggerOffs n c)
      (if !(match qpOf n (c.f 36 4) with | some q => q.typ < 2 | none => false) then complete t n h stNotOwner []
       else
         let expire := c.accTick + (if c.f 52 4 = 0 then rd n Rg.cmdHorizonDeadlineDef else c.f 52 4)
         let x : HostChain := ⟨h, c.f 36 4, c.f 24 8, c.f 32 4, 0, c.wrs, expire, false, c.f 40 2⟩
         setRunning { n with cfl := { n.cfl with hosts := n.cfl.hosts ++ [x] } } h)

/-- Append a chain's work requests to its queue pair. -/
def issueChain (q : Qp) (c : HostChain) : Qp :=
  let new := (List.range c.wrs.length).map fun i => (⟨q.wrNext + i, c.wrs.getD i [], some c.handle, 0⟩ : Wr)
  { q with wrs := q.wrs ++ new, wrNext := q.wrNext + c.wrs.length }

/-- `TRIGGERED_CHAIN_FIRE` (R320): at the threshold the chain's work requests are issued; on a queue pair that is gone or in ERROR they fail at once. -/
def chainHostFire (h : Nat) (t : Tck) (n : Node) : Node :=
  match n.cfl.hosts.find? (·.handle == h) with
  | none => n
  | some c =>
    if c.fired || c.count < c.threshold then n
    else
      let n1 := { n with cfl := { n.cfl with hosts := lmodify n.cfl.hosts (·.handle == h) fun x => { x with fired := true } } }
      match qpOf n1 c.qp with
      | none => chainFail t n1 h stStateLost
      | some q => if q.st = 2 then chainFail t n1 h stStateLost else runWrs t (setQp n1 c.qp (issueChain q c)) c.qp

/-- `CHAIN_EXPIRE` (R142, R320): an unfired chain is cancelled at the start of tick A + EXPIRE. -/
def chainExpire (h : Nat) (t : Tck) (n : Node) : Node :=
  match n.cfl.hosts.find? (·.handle == h) with
  | none => n
  | some c => if c.fired || c.threshold ≤ c.count || t.tick < c.expire then n else chainFail t n h stDeadline

/-- `SEND_TAIL`. -/
def execSendTail (qp : BitVec 20) (count : Word) (src : Req) (s : State) : Outcome State Fault Refusal := onNode (whenOpen (sendTail qp.toNat count.toNat src)) s
/-- `RECEIVE_HEAD`. -/
def execReceiveHead (qp : BitVec 20) (count : Word) (src : Req) (s : State) : Outcome State Fault Refusal :=
  onNode (whenOpen (fun _ => receiveHead qp.toNat count.toNat src)) s
/-- `COMPLETION_HEAD`. -/
def execCompletionHead (qp : BitVec 20) (count : Word) (src : Req) (s : State) : Outcome State Fault Refusal :=
  onNode (whenOpen (completionHead qp.toNat count.toNat src)) s
/-- `ALLOC_PD`. -/
def execAllocPd (src : Req) (s : State) : Outcome State Fault Refusal := onNode (whenOpen (fun _ => allocPd src)) s
/-- `FREE_PD`. -/
def execFreePd (src : Req) (s : State) : Outcome State Fault Refusal := onNode (whenOpen (fun _ => freePd src)) s
/-- `REG_MR`. -/
def execRegMr (src : Req) (s : State) : Outcome State Fault Refusal := onNode (whenOpen (fun _ => regMr src)) s
/-- `DEREG_MR`. -/
def execDeregMr (src : Req) (s : State) : Outcome State Fault Refusal := onNode (whenOpen (fun _ => deregMr src)) s
/-- `CREATE_QP`. -/
def execCreateQp (src : Req) (s : State) : Outcome State Fault Refusal := onNode (whenOpen (createQp src)) s
/-- `CONNECT_QP`. -/
def execConnectQp (src : Req) (s : State) : Outcome State Fault Refusal := onNode (whenOpen (fun _ => connectQp src)) s
/-- `DESTROY_QP`. -/
def execDestroyQp (src : Req) (s : State) : Outcome State Fault Refusal := onNode (whenOpen (destroyQp src)) s
/-- `TRIGGER_POST`. -/
def execTriggerPost (h : Word) (s : State) : Outcome State Fault Refusal := onNode (triggerPost h.toNat) s
/-- `TRIGGERED_CHAIN_FIRE`. -/
def execTriggeredChainFire (h : Word) (s : State) : Outcome State Fault Refusal := onNode (chainHostFire h.toNat) s
/-- `CHAIN_EXPIRE`. -/
def execChainExpire (h : Word) (s : State) : Outcome State Fault Refusal := onNode (chainExpire h.toNat) s

end Sys2Proof.Machine
end

