-- ==== Sys2Proof/Machine/Epoch.lean ====
section
/-! DEFINITION. The fabric map (16): its bytes, the changes of an epoch, and what a node does when it learns an epoch. -/

namespace Sys2Proof.Machine

open Host (Outcome)

/-! ## The map as bytes (R341, R349) -/

/-- Is a composition DEGRADED: a node with one of its slices is LOST (R341). -/
def compDegraded (m : FMap) (comp : Nat) : Bool :=
  m.slices.any fun s => s.comp == comp && (match mget? m.nodes s.node with | some e => e.state == 4 | none => false)

/-- A node entry. -/
def nodeBytes (m : FMap) (k : Nat) (e : MapNode) : Bytes :=
  let gs := match mget? m.groups e.group with
    | some g => g.gstate
    | none => 0
  leBytes 2 k ++ leBytes 1 e.state
    ++ leBytes 1 (b2n e.suspect + 2 * b2n e.eligible + 4 * b2n (m.keepers.contains k) + 8 * b2n e.offtime + 16 * b2n e.spare)
    ++ leBytes 2 e.group ++ leBytes 1 e.gindex ++ leBytes 1 gs ++ leBytes 2 e.successor ++ leBytes 4 e.since ++ leBytes 2 e.tenant

/-- A slice entry. -/
def sliceBytes (s : SliceF) : Bytes :=
  leBytes 2 s.node ++ leBytes 4 s.clusters ++ leBytes 8 s.pchg ++ leBytes 2 s.qpFirst ++ leBytes 2 s.qpSets ++ leBytes 1 s.share ++ [0]
    ++ leBytes 4 s.quota ++ zeros 8

/-- A composition entry with its slices. -/
def compBytes (m : FMap) (k : Nat) (c : CompEnt) : Bytes :=
  let l := m.slices.filter (·.comp == k)
  leBytes 2 k ++ leBytes 2 c.tenant ++ leBytes 1 (b2n (compDegraded m k)) ++ [0] ++ leBytes 2 l.length ++ leBytes 4 c.since ++ zeros 4
    ++ l.flatMap sliceBytes

/-- The output of `MAP_READ`: the whole map, or one tenant's node entries and compositions. -/
def mapBytes (m : FMap) (tenant : Option Nat) : Bytes :=
  let mine (x : Nat) : Bool := match tenant with
    | some t => x == t
    | none => true
  let nodes := m.nodes.filter fun e => mine e.2.tenant
  let comps := m.comps.filter fun e => mine e.2.tenant
  let keep := (List.range 7).flatMap fun i => leBytes 2 (m.keepers.getD i 0xFFFF)
  leBytes 4 m.epoch ++ leBytes 2 m.domain ++ leBytes 2 nodes.length ++ leBytes 2 comps.length ++ leBytes 1 m.keepers.length ++ leBytes 1 m.period
    ++ leBytes 2 m.coord ++ keep ++ zeros 36
    ++ nodes.flatMap (fun e => nodeBytes m e.1 e.2) ++ comps.flatMap fun e => compBytes m e.1 e.2

/-! ## Changes (R340, R342, R345, R348, R350, R351, R359) -/

/-- What becomes of a change: a map, an offending field of its command, a denial. -/
inductive Applied where
  | ok (m : FMap)
  | bad (off : Nat)
  | denied

/-- Apply a change when a condition holds, else name the offending field. -/
def allow (b : Bool) (off : Nat) (m : FMap) : Applied := if b then .ok m else .bad off

/-- Change a node entry. -/
def modNode (m : FMap) (k : Nat) (f : MapNode → MapNode) : FMap := { m with nodes := mmod m.nodes k f }

/-- Set a node's state and its SINCE. -/
def setNodeState (m : FMap) (k st : Nat) : FMap := modNode m k fun e => { e with state := st, since := m.epoch }

/-- The state of a node in a map; 7 when it has no entry. -/
def stateIn (m : FMap) (k : Nat) : Nat := match mget? m.nodes k with
  | some e => e.state
  | none => 7

/-- A node entry that has just joined. -/
def newNode (epoch : Nat) : MapNode := ⟨0, false, false, false, false, 0xFFFF, 0, 0xFFFF, epoch, 0⟩

/-- The lost members of a group, by index. -/
def lostMembers (m : FMap) (g : Group) : List (Nat × Nat) :=
  (List.range g.members.length).filterMap fun i =>
    let k := g.members.getD i 0
    if stateIn m k = 4 then some (i, k) else none

/-- The protection states after a loss (R359, R360): one or two lost members leave a group DEGRADED, a third makes it FAILED, for good. -/
def judgeGroups (m : FMap) : FMap :=
  { m with groups := m.groups.map fun e =>
    let k := (lostMembers m e.2).length
    (e.1, { e.2 with gstate := if e.2.gstate = 2 || 3 ≤ k then 2 else if k = 0 then e.2.gstate else 1 }) }

/-- May a node be the successor of a lost one: IN, SPARE, same tenant, no group, not suspect, no other's successor (R359). -/
def maySucceed (m : FMap) (tenant k : Nat) : Bool :=
  match mget? m.nodes k with
  | some e => e.state == 1 && e.spare && e.tenant == tenant && e.group == 0xFFFF && !e.suspect && !m.nodes.any fun x => x.2.successor == k
  | none => false

/-- Name a successor for each lost member of a DEGRADED group that has none (R359). -/
def nameSuccessors (m : FMap) : FMap :=
  let open_ := (m.groups.filter (·.2.gstate == 1)).flatMap fun e => (lostMembers m e.2).map (·.2)
  open_.foldl
    (fun x k => match mget? x.nodes k with
      | some e => if e.successor < 8192 then x
        else
          match (mkeys x.nodes).find? (maySucceed x e.tenant) with
          | some s => modNode x k fun y => { y with successor := s }
          | none => x
      | none => x)
    m

/-- Do two slices name the same one: composition, node and first QP set. -/
def sameSlice (a b : SliceF) : Bool := a.comp == b.comp && a.node == b.node && a.qpFirst == b.qpFirst

/-- The fields of a slice that break R340 beside the other slices of its node. -/
def sliceClash (m : FMap) (s : SliceF) : List Nat :=
  let others := m.slices.filter fun x => x.node == s.node && !sameSlice x s
  let share := (others.map (·.share)).foldl (· + ·) s.share
  offIf (100 < share) 27
    ++ offIf (others.any fun x => overlaps s.qpFirst s.qpSets x.qpFirst x.qpSets) 32
    ++ offIf (others.any fun x => s.clusters &&& x.clusters != 0) 36
    ++ offIf (others.any fun x => s.pchg &&& x.pchg != 0) 40

/-- Drop compositions without a slice. -/
def dropComps (m : FMap) : FMap := { m with comps := m.comps.filter fun e => m.slices.any (·.comp == e.1) }

/-- `SLICE_GRANT` (R350). -/
def applySlice (m : FMap) (op : Nat) (s : SliceF) : Applied :=
  match mget? m.nodes s.node with
  | none => .bad 28
  | some e =>
    if op = 1 then allow (m.slices.any (sameSlice s)) 24 (dropComps { m with slices := m.slices.filter fun x => !sameSlice s x })
    else if e.state != 1 then .bad 28
    else if (match mget? m.comps s.comp with | some c => c.tenant != e.tenant | none => false) then .denied
    else
      match sliceClash m s with
      | o :: _ => .bad o
      | [] =>
        if op = 2 then allow (m.slices.any (sameSlice s)) 24 { m with slices := m.slices.map fun x => if sameSlice s x then s else x }
        else if m.slices.any (sameSlice s) then .bad 32
        else
          .ok { m with
            slices := m.slices ++ [s]
            comps := if mhas m.comps s.comp then m.comps else mset m.comps s.comp ⟨e.tenant, m.epoch⟩ }

/-- A NODE_STATE change (R348), and a request to join (R353, R423). -/
def applyState (m : FMap) (k to_ : Nat) : Applied :=
  let st := stateIn m k
  if to_ = 0 then allow (st == 0) 24 (setNodeState m k 1)
  else if to_ = 1 then
    (if st = 7 then .ok { m with nodes := mset m.nodes k (newNode m.epoch) }
     else allow (st == 3 || st == 4) 24 { m with nodes := mset m.nodes k (newNode m.epoch), slices := m.slices.filter (·.node != k) })
  else if to_ = 3 then allow ((st == 1 || st == 2) && !m.slices.any (·.node == k)) 24 (setNodeState m k 3)
  else if to_ = 4 then allow (st != 7) 24 (judgeGroups (setNodeState m k 4))
  else if to_ = 0xFF then allow (st == 3) 24 { m with nodes := mdel m.nodes k }
  else .bad 24

/-- Are node IDs distinct. -/
def distinct (l : List Nat) : Bool := (dedupNat l).length == l.length

/-- Give a member's place in its group to another node. -/
def takePlace (m : FMap) (old new : Nat) : FMap :=
  match mget? m.nodes old with
  | none => m
  | some e =>
    if e.group = 0xFFFF then m
    else
      let m1 := { m with groups := mmod m.groups e.group fun g => { g with members := g.members.set e.gindex new } }
      modNode (modNode m1 old fun x => { x with group := 0xFFFF }) new fun x => { x with group := e.group, gindex := e.gindex }

/-- Start a drain (R351): the node is DRAINING, and its slices are copied to its successor. -/
def applyDrain (m : FMap) (k s : Nat) : Applied :=
  match mget? m.nodes k, mget? m.nodes s with
  | some e, some x =>
    let copies := (m.slices.filter (·.node == k)).map fun y => { y with node := s }
    if e.state != 1 then .bad 24
    else if k == s || x.state != 1 || x.tenant != e.tenant || x.suspect || (x.group != 0xFFFF && x.group != e.group)
        || copies.any (fun y => !(sliceClash m y).isEmpty || m.slices.any (sameSlice y)) then .bad 26
    else .ok (modNode (setNodeState { m with slices := m.slices ++ copies } k 2) k fun y => { y with successor := s })
  | none, _ => .bad 24
  | _, none => .bad 26

/-- A group is WHOLE again (R359): each lost member's successor has its index and its slices. -/
def applyWhole (m : FMap) (g : Nat) : Applied :=
  match mget? m.groups g with
  | none => .bad 24
  | some x =>
    let l := lostMembers m x
    let succ (k : Nat) : Nat := match mget? m.nodes k with
      | some e => e.successor
      | none => 0xFFFF
    if x.gstate != 1 || l.any (fun p => 8192 ≤ succ p.2) then .bad 24
    else
      let m1 := l.foldl (fun y p =>
        let z := takePlace y p.2 (succ p.2)
        { z with slices := z.slices.map fun s => if s.node = p.2 then { s with node := succ p.2 } else s }) m
      .ok { m1 with groups := mmod m1.groups g fun y => { y with gstate := 0 } }

/-- Apply one change to the map of the epoch being made. -/
def applyChange (m : FMap) (c : Change) : Applied :=
  match c with
  | .nodeState k to_ => applyState m k to_
  | .keepers k ids => allow ((k == 5 || k == 7) && ids.length == k && distinct ids && ids.all fun i => stateIn m i == 1) 24 { m with keepers := sortNat ids }
  | .groupForm g members units =>
    let free (k : Nat) : Bool := match mget? m.nodes k with
      | some e => e.state == 1 && e.group == 0xFFFF
      | none => false
    let m1 := { m with groups := mset m.groups g ⟨members, units, 0⟩ }
    allow (!mhas m.groups g && members.length == 10 && distinct members && members.all free) 24
      ((List.range 10).foldl (fun x i => modNode x (members.getD i 0) fun e => { e with group := g, gindex := i }) m1)
  | .groupDissolve g =>
    allow (mhas m.groups g) 24
      { m with groups := mdel m.groups g, nodes := m.nodes.map fun e => (e.1, if e.2.group = g then { e.2 with group := 0xFFFF, gindex := 0 } else e.2) }
  | .period p => allow (p < 6) 24 { m with period := p }
  | .slice op s => applySlice m op s
  | .drainStart k s => applyDrain m k s
  | .drainCancel k => allow (stateIn m k == 2) 24 (modNode (setNodeState m k 1) k fun e => { e with successor := 0xFFFF })
  | .drainDone k _ _ =>
    let s := match mget? m.nodes k with
      | some e => e.successor
      | none => 0xFFFF
    allow (stateIn m k == 2) 24 (setNodeState (takePlace (dropComps { m with slices := m.slices.filter (·.node != k) }) k s) k 3)
  | .flag k b v =>
    allow (stateIn m k != 7) 24
      (modNode m k fun e => if b = 0 then { e with suspect := v } else if b = 1 then { e with eligible := v } else if b = 3 then { e with offtime := v } else { e with spare := v })
  | .groupWhole g => applyWhole m g
  | .tenant k x => allow (stateIn m k != 7) 24 (modNode m k fun e => { e with tenant := x })
  | .revokeAll k => .ok (dropComps { m with slices := m.slices.filter (·.node != k) })

/-- Apply the changes of one proposal, all or none. -/
def applyAll (m : FMap) : List Change → Applied
  | [] => .ok m
  | c :: l =>
    match applyChange m c with
    | .ok m1 => applyAll m1 l
    | x => x

/-- What a proposal's command is told: 0 committed, 1 denied, or 2 with an offset. -/
structure PropResult where
  home : Nat
  handle : Nat
  kind : Nat
  off : Nat
  deriving DecidableEq, Repr

/-- Apply proposals in order; invalid ones are dropped (R345, R348). -/
def applyProps (m : FMap) : List Proposal → FMap × List PropResult
  | [] => (m, [])
  | p :: l =>
    let (m1, r) : FMap × PropResult :=
      if p.base != 0 && p.base + 1 != m.epoch then (m, ⟨p.home, p.handle, 2, 36⟩)
      else
        match applyAll m p.changes with
        | .ok x => (x, ⟨p.home, p.handle, 0, 0⟩)
        | .bad o => (m, ⟨p.home, p.handle, 2, o⟩)
        | .denied => (m, ⟨p.home, p.handle, 1, 0⟩)
    let (m2, rs) := applyProps m1 l
    (m2, r :: rs)

/-- The map of the next epoch, and what its proposals are told. -/
def nextMap (m : FMap) (coord : Nat) (props : List Proposal) : FMap × List PropResult :=
  let (m1, rs) := applyProps { m with epoch := m.epoch + 1, coord := coord } props
  let m2 := nameSuccessors m1
  ({ m2 with comps := m2.comps.map fun e => (e.1, if compDegraded m e.1 == compDegraded m2 e.1 then e.2 else { e.2 with since := m2.epoch }) }, rs)

/-! ## Learning an epoch (R347, R354, R359, R360) -/

/-- Show the map in the node's registers. -/
def showMap (n : Node) : Node :=
  let me := nodeId n
  let m := n.map.map
  let e := (mget? m.nodes me).getD (newNode 0)
  let grouped := e.group != 0xFFFF && mhas m.nodes me
  let n1 := wr (wr n Rg.mapEpochEpoch m.epoch) Rg.mapStatusState e.state
  let n2 := wr n1 Rg.mapStatusKeeper (b2n (m.keepers.contains me))
  let n3 := wr (wr n2 Rg.mapStatusGindex (if grouped then e.gindex else 0xFF)) Rg.mapStatusGroup (if grouped then e.group else 0xFFFF)
  wr n3 Rg.mapProtUnitsUnits (match mget? m.groups e.group with | some g => if grouped then g.units else 0 | none => 0)

/-- The positions at which a sequence's bodies name pages of a node. -/
def lostPositions (n : Node) (s : Seqn) (x : Nat) : List Nat :=
  s.lists.flatMap fun p =>
    let es := plFpns n p.2
    (List.range es.length).filterMap fun j =>
      let f := es.getD j 0
      if fpnNode f == x && fpnIdx f != noPage then some (p.2.posBase + 64 * j) else none

/-- End a queue pair toward a lost node (R354): node firmware's own are taken away, host software's enter ERROR. -/
def endQpTo (t : Tck) (x : Nat) (n : Node) (e : Nat × Qp) : Node :=
  if e.2.peer != x then n
  else
    let n1 := if e.2.st = 2 then n else failQp t n e.1 stPeerLost
    if 2 ≤ e.2.typ then dropQp n1 e.1 else n1

/-- Node `x` is LOST (R144, R354). -/
def nodeLost (t : Tck) (n : Node) (x : Nat) : Node :=
  let gone := n.ter.pages.filter fun e => e.2.home == x && e.2.unit.isNone
  let n1 := gone.foldl (fun m e => freePage m e.1) n
  let n2 := n1.qst.qps.foldl (endQpTo t x) n1
  let tell (m : Node) (e : Nat × Seqn) : Node :=
    if e.2.prot then m
    else
      match leastBy id (lostPositions m e.2 x) with
      | some p => raise t m evSeqPagesLost (leBytes 8 e.1 ++ leBytes 4 p)
      | none => m
  holdersLost t [x] (n2.seqs.open_.foldl tell n2)

/-- Close the protected sequences of a group that has FAILED (R360). -/
def groupFailed (t : Tck) (n : Node) : Node :=
  (n.seqs.open_.filter (·.2.prot)).foldl (fun m e => closeSeq t (raise t m evSeqUnrecoverable (leBytes 8 e.1)) e.2) n

/-- Begin the rebuild that the map names this node for (R359). -/
def beginRebuild (t : Tck) (n : Node) : Node :=
  let m := n.map.map
  let mine := (m.groups.filter (·.2.gstate == 1)).findSome? fun e =>
    ((lostMembers m e.2).find? fun p => match mget? m.nodes p.2 with | some x => x.successor == nodeId n | none => false).map fun p => (e.1, e.2, p)
  match n.map.rebuild, mine with
  | none, some (g, x, i, lost) =>
    let n1 := { n with map := { n.map with rebuild := some ⟨g, lost, i, t.now⟩ } }
    wr (wr n1 Rg.mapRebuildTotalUnits x.units) Rg.mapRebuildDoneUnits 0
  | some _, none => wr (wr { n with map := { n.map with rebuild := none } } Rg.mapRebuildTotalUnits 0) Rg.mapRebuildDoneUnits 0
  | _, _ => n

/-- Tell a command of this node what became of its proposal (R345, R348, R350, R351). -/
def tellCommand (t : Tck) (n : Node) (r : PropResult) : Node :=
  if r.home != nodeId n || !n.map.waits.any (·.handle == r.handle) then n
  else
    let n1 := { n with map := { n.map with waits := n.map.waits.filter (·.handle != r.handle) } }
    match findCmd n1 r.handle with
    | none => n1
    | some c =>
      if r.kind = 1 then complete t n1 r.handle stDenied []
      else if r.kind = 2 then badParam t n1 r.handle r.off
      else if c.op = opDrain && c.f 28 1 = 0 then { n1 with map := { n1.map with drains := n1.map.drains ++ [⟨r.handle, c.accTick, c.f 24 2⟩] } }
      else complete t n1 r.handle stOk (leBytes 4 (epochOf n1))

/-- End the drains of a node that an epoch marks OUT (R351). -/
def tellDrains (t : Tck) (n : Node) (c : Change) : Node :=
  match c with
  | .drainDone k pages seqs =>
    let l := n.map.drains.filter (·.node == k)
    l.foldl (fun m d => complete t m d.handle stOk (leBytes 4 (epochOf m) ++ leBytes 4 pages ++ leBytes 4 seqs))
      { n with map := { n.map with drains := n.map.drains.filter (·.node != k) } }
  | _ => n

/-- Complete the commands whose proposals have expired, now that a later epoch is held (R348). -/
def expireWaits (t : Tck) (n : Node) : Node :=
  let l := n.map.waits.filter fun w => w.expire < t.tick
  l.foldl (fun m w => complete t m w.handle stDeadline []) { n with map := { n.map with waits := n.map.waits.filter fun w => t.tick ≤ w.expire } }

/-- The nodes a commit is forwarded to (R345): the tree over the coordinator first and the other IN, DRAINING and JOINING nodes in ascending order. -/
def treeChildren (m : FMap) (coord me : Nat) : List Nat :=
  let l := coord :: (mkeys (m.nodes.filter fun e => e.2.state ≤ 2)).filter (· != coord)
  let i := l.findIdx (· == me)
  if i < l.length then ((List.range 16).filterMap fun j => l[16 * i + 1 + j]?) else []

/-- Has a node's protection group become FAILED between two maps (R360). -/
def newlyFailed (m old : FMap) (me : Nat) : Bool :=
  match mget? m.nodes me with
  | some e => (match mget? m.groups e.group, mget? old.groups e.group with
      | some g, some g0 => g.gstate == 2 && g0.gstate != 2
      | _, _ => false)
  | none => false

/-- The node with a new epoch's map in place: its acceptance of a passed epoch goes, the log grows, and the nodes told of a loss are those still IN or DRAINING. -/
def holdEpoch (c : CommitMsg) (m : FMap) (n : Node) : Node :=
  let own := match n.map.accepted with
    | some a => if a.epoch ≤ m.epoch then none else some a
    | none => none
  { n with map := { n.map with
    map := m, accepted := own, newest := max n.map.newest m.epoch, log := c :: n.map.log
    told := n.map.told.filter fun k => stateIn m k == 1 || stateIn m k == 2 } }

/-- Install the next epoch. -/
def installEpoch (c : CommitMsg) (t : Tck) (n : Node) : Node :=
  let old := n.map.map
  let (m, rs) := nextMap old c.coord c.props
  let me := nodeId n
  let n2 := bump (wr (showMap (holdEpoch c m n)) Rg.mapLearnedTick (t.tick % 2 ^ 32)) Rg.mapCountsEpochs 1
  let lost := (mkeys m.nodes).filter fun k => stateIn m k == 4 && stateIn old k != 4 && k != me
  let n3 := lost.foldl (nodeLost t) n2
  let n4 := beginRebuild t (if newlyFailed m old me then groupFailed t n3 else n3)
  let n5 := if stateIn m me = 2 && stateIn old me != 2 then { n4 with map := { n4.map with drainSent := [], drainAt := n4.fe.accSeq, drainPages := 0, drainSeqs := 0, drainTold := false } } else n4
  let n6 := rs.foldl (tellCommand t) n5
  let n7 := (c.props.flatMap (·.changes)).foldl (tellDrains t) n6
  expireWaits t n7

/-- Forward a commit down the tree (R345). -/
def forwardCommit (c : CommitMsg) (n : Node) : Node := (treeChildren n.map.map c.coord (nodeId n)).foldl (fun m k => emit m (.commit k c)) n

/-- The grandmaster announces a period that the map has agreed (R30, R348). -/
def adoptPeriod (t : Tck) (n : Node) : Tck :=
  if t.gm && n.map.map.epoch != 0 && n.map.map.period != t.cur then { t with wantPeriod := some n.map.map.period } else { t with wantPeriod := none }

/-- Install commits in turn: this one, and those received ahead of their turn; `fuel` bounds them. -/
def installAll (t : Tck) : Nat → CommitMsg → Node → Node
  | 0, _, n => n
  | f + 1, c, n =>
    if c.epoch != epochOf n + 1 then n
    else
      let n1 := forwardCommit c (installEpoch c t n)
      match n1.map.early.find? fun e => e.epoch == epochOf n1 + 1 with
      | some d => installAll t f d { n1 with map := { n1.map with early := n1.map.early.filter (·.epoch != d.epoch) } }
      | none => n1

/-- A commit reaches the node: in turn it is installed; ahead of its turn it waits while the missing ones are fetched (R345). -/
def takeCommit (c : CommitMsg) (t : Tck) (n : Node) : Node :=
  if epochOf n = 0 || c.epoch ≤ epochOf n then n
  else if c.epoch = epochOf n + 1 then installAll t (n.map.early.length + 1) c n
  else
    let n1 := meetEpoch { n with map := { n.map with early := c :: n.map.early.filter (·.epoch != c.epoch) } } c.epoch
    emit n1 (.fetchEpochs (n1.map.map.keepers.headD 0) (epochOf n1 + 1))

/-- `COMMIT` (R344, R345, R347, R354). -/
def commit (c : CommitMsg) (t : Tck) (n : Node) : Tck × Node :=
  let n1 := takeCommit c t n
  (if epochOf n1 = epochOf n then t else adoptPeriod t n1, n1)

/-- `COMMIT`. -/
def execCommit (c : CommitMsg) (s : State) : Outcome State Fault Refusal := onBoth (commit c) s

end Sys2Proof.Machine
end

