-- ==== Sys2Proof/Machine/Keeper.lean ====
section
/-! DEFINITION. Agreement among the keepers, liveness, fencing (R343 to R346, R352, R353). -/

namespace Sys2Proof.Machine

open Host (Outcome)

/-- Change the node's part in the map. -/
def modMap (n : Node) (f : MapSt → MapSt) : Node := { n with map := f n.map }

/-- Is this node a keeper. -/
def amKeeper (n : Node) : Bool := n.map.map.keepers.contains (nodeId n)

/-- A majority of the keepers. -/
def majority (n : Node) : Nat := n.map.map.keepers.length / 2 + 1

/-- Is a node suspect in the map. -/
def isSuspect (n : Node) (k : Nat) : Bool := match mget? n.map.map.nodes k with
  | some e => e.suspect
  | none => false

/-- Keepers whose acknowledgement of this node's reports is younger than a number of ticks. -/
def ackedWithin (t : Tck) (n : Node) (ticks : Nat) : Nat :=
  (n.map.map.keepers.filter fun k => match mget? n.map.acks k with
    | some a => t.tick < a + ticks
    | none => false).length

/-- Stop coordinating (R344). -/
def stepDown (n : Node) : Node :=
  wr (modMap n fun m => { m with ballot := none, promises := [], reported := [], ready := false, inflight := none, acceptedBy := [] }) Rg.mapStatusCoord 0

/-- May this keeper coordinate (R343): IN, not suspect, in contact with a majority, and every keeper of lower ID is not so or has been silent. -/
def mayCoordinate (t : Tck) (n : Node) : Bool :=
  let me := nodeId n
  let able (k : Nat) : Bool := stateIn n.map.map k == 1 && !isSuspect n k
  let heard (k : Nat) : Bool := match mget? n.map.lastReport k with
    | some r => t.tick < r + rd n Rg.mapCfgLossTicks
    | none => false
  amKeeper n && able me && !fencedNode n && !stopped n && majority n ≤ ackedWithin t n (rd n Rg.mapCfgLossTicks - 16)
    && n.map.map.keepers.all fun k => me ≤ k || !able k || !heard k

/-- `PREPARE` (R344): a keeper that becomes coordinator sends it with a ballot above every one it has seen; a keeper promises, or answers with its promise. -/
def prepare (ev : PrepareEv) (t : Tck) (n : Node) : Node :=
  match ev with
  | .begin_ =>
    if n.map.ballot.isSome || !mayCoordinate t n then n
    else
      let b := (n.map.promised / 8192 + 1) * 8192 + nodeId n
      let n1 := wr (modMap n fun m => { m with ballot := some b, promises := [], reported := [], ready := false, inflight := none, acceptedBy := [] }) Rg.mapStatusCoord 1
      n1.map.map.keepers.foldl (fun m k => emit m (.prepare k b)) n1
  | .receive b =>
    if !amKeeper n then n
    else
      let n1 := if n.map.promised < b then modMap n fun m => { m with promised := b } else n
      let own := match n1.map.accepted with
        | some a => if epochOf n1 < a.epoch then some a else none
        | none => none
      emit n1 (.promise (b % 8192) ⟨nodeId n, n1.map.promised, epochOf n, own⟩)

/-- Send an ACCEPT to every keeper. -/
def sendAccept (n : Node) (a : Accepted) : Node :=
  n.map.map.keepers.foldl (fun m k => emit m (.accept k a)) (modMap n fun m => { m with inflight := some a, acceptedBy := [] })

/-- The accepted epoch of the highest ballot reported (R344). -/
def highestReported (l : List Accepted) : Option Accepted := l.foldl (fun b a => match b with
  | some x => if x.ballot < a.ballot then some a else b
  | none => some a) none

/-- `KEEPER_PROMISE` (R344): with a majority the coordinator goes on, first proposing again an epoch that a keeper accepted and has not seen committed. -/
def keeperPromise (p : Promise) (n : Node) : Node :=
  match n.map.ballot with
  | none => n
  | some b =>
    let n0 := meetEpoch n p.committed
    if b < p.ballot then modMap (stepDown n0) fun m => { m with promised := max m.promised p.ballot }
    else if p.ballot != b || !n.map.map.keepers.contains p.node || n.map.promises.contains p.node then n0
    else
      let rep := match p.accepted with
        | some a => if a.epoch = epochOf n + 1 then n.map.reported ++ [a] else n.map.reported
        | none => n.map.reported
      let n1 := modMap n0 fun m => { m with promises := m.promises ++ [p.node], reported := rep }
      if n1.map.ready || n1.map.promises.length < majority n1 then n1
      else
        let n2 := modMap n1 fun m => { m with ready := true }
        match highestReported rep with
        | some a => sendAccept n2 { a with ballot := b }
        | none => n2

/-- `ACCEPT` (R344): a keeper accepts a ballot at least its promise for the epoch after the one it holds. -/
def acceptEpoch (a : Accepted) (n : Node) : Node :=
  if !amKeeper n then n
  else if a.ballot < n.map.promised then emit n (.accepted (a.ballot % 8192) (nodeId n) n.map.promised a.epoch false)
  else if a.epoch != epochOf n + 1 then meetEpoch n (a.epoch - 1)
  else
    emit (modMap n fun m => { m with promised := a.ballot, accepted := some a }) (.accepted (a.ballot % 8192) (nodeId n) a.ballot a.epoch true)

/-- `KEEPER_ACCEPTANCE` (R344, R345): with a majority the epoch is committed: it is installed here, sent to every keeper and down the tree. -/
def keeperAcceptance (keeper ballot epoch : Nat) (ok : Bool) (t : Tck) (n : Node) : Tck × Node :=
  match n.map.ballot, n.map.inflight with
  | some b, some a =>
    if !ok then (t, if b < ballot then modMap (stepDown n) fun m => { m with promised := max m.promised ballot } else n)
    else if ballot != b || epoch != a.epoch || !n.map.map.keepers.contains keeper || n.map.acceptedBy.contains keeper then (t, n)
    else
      let n1 := modMap n fun m => { m with acceptedBy := m.acceptedBy ++ [keeper] }
      if n1.map.acceptedBy.length < majority n1 || a.epoch != epochOf n1 + 1 then (t, n1)
      else
        let m := (nextMap n1.map.map (nodeId n) a.props).1
        let c : CommitMsg := ⟨a.epoch, a.props, nodeId n, sha384 (mapBytes m none)⟩
        let others := n1.map.map.keepers.filter (· != nodeId n)
        let n2 := others.foldl (fun x k => emit x (.commit k c)) (modMap n1 fun x => { x with inflight := none, acceptedBy := [] })
        let n3 := takeCommit c t n2
        let n4 := if (amKeeper n3 && stateIn n3.map.map (nodeId n3) == 1 && !isSuspect n3 (nodeId n3)) then n3 else stepDown n3
        (adoptPeriod t n4, n4)
  | some b, none => (t, if !ok && b < ballot then modMap (stepDown n) fun m => { m with promised := max m.promised ballot } else n)
  | _, _ => (t, n)

/-! ## Proposals (R343, R345, R346) -/

/-- The board siblings this node knows. -/
def siblings (n : Node) : List Nat := dedupNat (((List.range 6).filter fun b => rdB n (Rg.qstBlStatusUp b)).map fun b => rd n (Rg.qstBlStatusPeer b))

/-- The keeper set with a lost or suspect keeper replaced (R343): the IN node of lowest ID, not suspect, no keeper, not on a keeper's board as far as this node
knows. -/
def newKeepers (n : Node) : Option (List Nat) :=
  let m := n.map.map
  let bad (k : Nat) : Bool := stateIn m k == 4 || isSuspect n k
  let near (k : Nat) : Bool := (siblings n).contains k && (m.keepers.contains (nodeId n) || m.keepers.any (siblings n).contains)
  match m.keepers.find? bad, (mkeys m.nodes).find? fun k => stateIn m k == 1 && !isSuspect n k && !m.keepers.contains k && !near k with
  | some x, some y => some (m.keepers.map fun k => if k = x then y else k)
  | _, _ => none

/-- A proposal of the coordinator's own. -/
def ownProposal (n : Node) (l : List Change) : Proposal := ⟨nodeId n, 0xFFFFFFFF, 0, none, l⟩

/-- End commands whose change would need an epoch beyond the last (R346). -/
def epochEnd (t : Tck) (n : Node) : Node := raise t n evMapEpochEnd []

/-- May a proposal still be made part of an epoch (R348). -/
def unexpired (t : Tck) (p : Proposal) : Bool := match p.expire with
  | some e => t.tick ≤ e
  | none => true

/-- The coordinator's own proposal of new keepers, where one is due (R347). -/
def ownKeepers (n : Node) : List Proposal := match newKeepers n with
  | some l => [ownProposal n [.keepers l.length l]]
  | none => []

/-- `PROPOSAL` (R345, R346): changes reach the coordinator; at notch 0 it proposes those gathered as the next epoch. -/
def proposal (ev : ProposalEv) (t : Tck) (n : Node) : Node :=
  match ev with
  | .arrive p => if n.map.ballot.isSome then modMap n fun m => { m with gathered := m.gathered ++ [p] } else n
  | .propose =>
    let all := n.map.gathered.filter (unexpired t) ++ ownKeepers n
    if !n.map.ready || n.map.inflight.isSome || t.notch != 0 || n.map.proposedAt == some t.tick || stopped n then n
    else if all.isEmpty then modMap n fun m => { m with gathered := [] }
    else if epochOf n = 0xFFFFFFFF then epochEnd t (modMap n fun m => { m with gathered := [] })
    else
      match n.map.ballot with
      | some b => sendAccept (modMap n fun m => { m with gathered := [], proposedAt := some t.tick }) ⟨b, epochOf n + 1, all⟩
      | none => n

/-- Send changes to the coordinator; it gathers its own at once. -/
def forwardChanges (n : Node) (p : Proposal) : Node :=
  if n.map.ballot.isSome then modMap n fun m => { m with gathered := m.gathered ++ [p] } else emit n (.propose n.map.map.coord p)

/-- `EPOCH_FETCH` (R345): ask a keeper for the epochs missed; send those asked for; take those that arrive. -/
def epochFetch (ev : FetchEv) (t : Tck) (n : Node) : Tck × Node :=
  match ev with
  | .ask => (t, if epochOf n < n.map.newest then emit n (.fetchEpochs (n.map.map.keepers.headD 0) (epochOf n + 1)) else n)
  | .asked node from_ => (t, (n.map.log.reverse.filter fun c => from_ ≤ c.epoch).foldl (fun m c => emit m (.commit node c)) n)
  | .got l => l.foldl (fun x c => commit c x.1 x.2) (t, n)

/-! ## Liveness (R352) -/

/-- `LIVENESS_REPORT`: at notch 0 of the ticks that share the node ID's low four bits; a keeper notes it and acknowledges. -/
def livenessReport (ev : LivenessEv) (t : Tck) (n : Node) : Node :=
  match ev with
  | .send =>
    if t.tick % 16 == nodeId n % 16 && t.notch == 0 && !stopped n then n.map.map.keepers.foldl (fun m k => emit m (.liveness k)) n else n
  | .receive k =>
    if !amKeeper n then n
    else
      let n1 := modMap n fun m => { m with lastReport := mset m.lastReport k t.tick, told := m.told.filter (· != k), silent := mdel m.silent k }
      emit n1 (.livenessAck k)

/-- `LIVENESS_ACK`: a keeper acknowledges this node's report. -/
def livenessAck (keeper : Nat) (t : Tck) (n : Node) : Node :=
  if n.map.map.keepers.contains keeper then modMap n fun m => { m with acks := mset m.acks keeper t.tick } else n

/-- Would the loss of a node leave a protection group a member without a successor (R359). -/
def noSpareFor (n : Node) (k : Nat) : Bool :=
  let m := (nextMap n.map.map (nodeId n) [ownProposal n [.nodeState k 4]]).1
  (m.groups.filter (·.2.gstate == 1)).any fun g => (lostMembers m g.2).any fun p =>
    match mget? m.nodes p.2 with
    | some e => 8192 ≤ e.successor
    | none => false

/-- `LOSS_WINDOW_EXPIRY`: a keeper without a report for the window tells the coordinator; a majority makes it propose the node LOST. -/
def lossWindow (ev : LossEv) (t : Tck) (n : Node) : Node :=
  match ev with
  | .expire k =>
    let st := stateIn n.map.map k
    match mget? n.map.lastReport k with
    | none => n
    | some r =>
      if amKeeper n && (st == 1 || st == 2) && r + rd n Rg.mapCfgLossTicks ≤ t.tick && !n.map.told.contains k then
        emit (modMap n fun m => { m with told := m.told ++ [k] }) (.silentNode n.map.map.coord k)
      else n
  | .told keeper k =>
    let st := stateIn n.map.map k
    let l := mgetD n.map.silent k []
    if n.map.ballot.isNone || !n.map.map.keepers.contains keeper || l.contains keeper || !(st == 1 || st == 2) then n
    else
      let n1 := modMap n fun m => { m with silent := mset m.silent k (l ++ [keeper]) }
      if l.length + 1 = majority n then
        let n2 := modMap n1 fun m => { m with gathered := m.gathered ++ [ownProposal n [.nodeState k 4]] }
        if noSpareFor n k then raise t n2 evMapNoSpare [] else n2
      else n1

/-! ## Fencing (R353) -/

/-- Ticks without a majority after which a node fences itself. -/
def fenceTicks (n : Node) : Nat := rd n Rg.mapCfgLossTicks - 16

/-- `FENCE`: without a majority's acknowledgement the node fences itself and ends its commands of the ranges 0x1_ to 0x5_. -/
def fence (t : Tck) (n : Node) : Node :=
  let st := stateIn n.map.map (nodeId n)
  if fencedNode n || !(st == 1 || st == 2) || majority n ≤ ackedWithin t n (fenceTicks n) then n
  else
    let n1 := bump (wr n Rg.mapStatusFenced 1) Rg.mapCountsFences 1
    let l := n1.fe.cmds.filter fun c => 1 ≤ c.op / 16 && c.op / 16 ≤ 5
    let n2 := l.foldl (fun m c => complete t (allocOver (dropJob (dropStep m c.handle) c.handle) c.handle) c.handle stPeerLost []) n1
    stepDown n2

/-- Discard every sequence, page, slice and queue pair of the node (R353). -/
def discardAll (n : Node) : Node :=
  let n1 := { n with
    seqs := { n.seqs with open_ := [], elsewhere := [], snaps := [], retired := [], copies := [], applied := [] }
    att := { n.att with steps := [], shares := [], items := [], rowsIn := [], blocks := [], bound := [], tileJobs := [], planned := [] }
    cfl := { n.cfl with chains := [] }
    ter := { n.ter with pages := [], moves := [], busy := [], freed := [], allocWait := [] }
    map := { n.map with units := [], unitPoison := [], ackWaits := [], rebuild := none } }
  n1.qst.qps.foldl (fun m e => dropQp m e.1) n1

/-- `FENCE_END`: with a majority again, a node that is still IN resumes, and one that is LOST discards its state and asks to join. -/
def fenceEnd (t : Tck) (n : Node) : Node :=
  if !fencedNode n || ackedWithin t n (fenceTicks n) < majority n then n
  else
    let n1 := wr n Rg.mapStatusFenced 0
    if stateIn n1.map.map (nodeId n1) = 4 then forwardChanges (raise t (discardAll n1) evMapRejoin []) (ownProposal n1 [.nodeState (nodeId n1) 1])
    else n1

/-- `PREPARE`. -/
def execPrepare (ev : PrepareEv) (s : State) : Outcome State Fault Refusal := onNode (prepare ev) s
/-- `KEEPER_PROMISE`. -/
def execKeeperPromise (p : Promise) (s : State) : Outcome State Fault Refusal := onNode (fun _ => keeperPromise p) s
/-- `ACCEPT`. -/
def execAccept (a : Accepted) (s : State) : Outcome State Fault Refusal := onNode (fun _ => acceptEpoch a) s
/-- `KEEPER_ACCEPTANCE`. -/
def execKeeperAcceptance (keeper : BitVec 13) (ballot epoch : Word) (ok : Bool) (s : State) : Outcome State Fault Refusal :=
  onBoth (keeperAcceptance keeper.toNat ballot.toNat epoch.toNat ok) s
/-- `PROPOSAL`. -/
def execProposal (ev : ProposalEv) (s : State) : Outcome State Fault Refusal := onNode (proposal ev) s
/-- `EPOCH_FETCH`. -/
def execEpochFetch (ev : FetchEv) (s : State) : Outcome State Fault Refusal := onBoth (epochFetch ev) s
/-- `LIVENESS_REPORT`. -/
def execLivenessReport (ev : LivenessEv) (s : State) : Outcome State Fault Refusal := onNode (livenessReport ev) s
/-- `LIVENESS_ACK`. -/
def execLivenessAck (keeper : BitVec 13) (s : State) : Outcome State Fault Refusal := onNode (livenessAck keeper.toNat) s
/-- `LOSS_WINDOW_EXPIRY`. -/
def execLossWindowExpiry (ev : LossEv) (s : State) : Outcome State Fault Refusal := onNode (lossWindow ev) s
/-- `FENCE`. -/
def execFence (s : State) : Outcome State Fault Refusal := onNode fence s
/-- `FENCE_END`. -/
def execFenceEnd (s : State) : Outcome State Fault Refusal := onNode fenceEnd s

end Sys2Proof.Machine
end

