-- ==== Sys2Proof/Machine/MapCmd.lean ====
section
/-! DEFINITION. The map commands, drains, protection groups and their rebuild (R348 to R351, R356 to R360). -/

namespace Sys2Proof.Machine

open Host (Outcome)

/-! ## MAP_PROPOSE (R346, R348) -/

/-- Distinct node IDs that a record may name. -/
def idsOk (l : List Nat) : Bool := l.all (· < 8192)

/-- Two-byte IDs of a record. -/
def recIds (r : Bytes) (lo k : Nat) : List Nat := (List.range k).map fun i => field r (lo + 2 * i) 2

/-- The change a record asks for; none for a malformed record. -/
def parseChange (r : Bytes) : Option Change :=
  let node := field r 2 2
  let v := byteAt r 4
  let zeroFrom (k : Nat) : Bool := allZero (r.drop k)
  if byteAt r 1 != 0 || 8192 ≤ node then none
  else
    match byteAt r 0 with
    | 1 => if [0, 3, 4, 0xFF].contains v && zeroFrom 5 then some (.nodeState node v) else none
    | 2 =>
      let ids := recIds r 6 7
      if (v == 5 || v == 7) && byteAt r 5 == 0 && idsOk (ids.take v) && (ids.drop v).all (· == 0xFFFF) && zeroFrom 20 then some (.keepers v (ids.take v)) else none
    | 3 =>
      if v = 1 && zeroFrom 5 then some (.groupDissolve node)
      else if v = 0 && byteAt r 5 == 0 && idsOk (recIds r 6 10) && zeroFrom 30 then some (.groupForm node (recIds r 6 10) (field r 26 4)) else none
    | 4 => if v < 6 && zeroFrom 5 then some (.period v) else none
    | _ => none

/-- A node with a home or a page may not be set OUT, as far as this node knows: its own (R348). -/
def holdsMine (n : Node) (c : Change) : Bool :=
  match c with
  | .nodeState k 3 => k == nodeId n && !(n.seqs.open_.isEmpty && n.ter.pages.isEmpty)
  | _ => false

/-- Forward a command's changes to the coordinator; the command waits for their commit or expiry (R345, R346, R348). -/
def proposeFor (t : Tck) (n : Node) (c : Cmd) (base : Nat) (l : List Change) : Node :=
  if epochOf n = 0xFFFFFFFF then complete t (epochEnd t n) c.handle stDenied []
  else
    let last := c.accTick + rd n Rg.mapCfgProposeTicks
    let n1 := modMap (setRunning n c.handle) fun m => { m with waits := m.waits ++ [⟨c.handle, base, last⟩] }
    forwardChanges n1 ⟨nodeId n, c.handle, base, some last, l⟩

/-- `MAP_PROPOSE`. -/
def mapPropose (h : Nat) (t : Tck) (n : Node) : Node :=
  withCmd n h opMapPropose fun c =>
    let count := c.f 32 2
    let recs := if count ≤ 64 then (List.range count).map fun i => hostRead n c.mem (c.f 24 8 + 32 * i) 32 else []
    let changes := recs.filterMap parseChange
    checked t n c
      (offIf (!mult (c.f 24 8) 32) 24 ++ offIf (count == 0 || 64 < count) 32 ++ rsv c 34 35 ++ rsv c 40 47 ++ rsv c 48 63
        ++ offIf (changes.length != recs.length || changes.any (holdsMine n)) 24)
      (proposeFor t n c (c.f 36 4) changes)

/-! ## MAP_READ (R349) -/

/-- `MAP_READ`. -/
def mapRead (h : Nat) (t : Tck) (n : Node) : Node :=
  withCmd n h opMapRead fun c =>
    let tenant := if tenantState n = tsEmpty then none else some (rd n Rg.secStatusTenant)
    let b := mapBytes n.map.map tenant
    checked t n c (offIf (!mult (c.f 24 8) 64) 24 ++ rsv c 36 63)
      (if c.f 32 4 < b.length then complete t n h stBadParam ([32, 0, 0, 0] ++ leBytes 4 b.length)
       else complete t (hostWrite n c.mem (c.f 24 8) b) h stOk (leBytes 4 (epochOf n)))

/-! ## SLICE_GRANT (R350) -/

/-- The slice a `SLICE_GRANT` names. -/
def grantSlice (c : Cmd) : SliceF := ⟨c.f 24 2, c.f 28 2, c.f 36 4, c.f 40 8, c.f 32 2, c.f 34 2, c.f 27 1, c.f 48 4⟩

/-- Would a change of a slice here leave its composition's quota below the frames charged. -/
def quotaBelow (n : Node) (s : SliceF) : Bool :=
  let others := (slicesOn n s.comp (nodeId n)).filter fun x => !sameSlice x s
  (others.map (·.quota)).foldl (· + ·) s.quota < reservedFor n s.comp + chargedOut n s.comp

/-- `SLICE_GRANT`. -/
def sliceGrant (h : Nat) (t : Tck) (n : Node) : Node :=
  withCmd n h opSliceGrant fun c =>
    let s := grantSlice c
    let op := c.f 26 1
    checked t n c
      (offIf (s.comp == 0) 24 ++ offIf (2 < op) 26 ++ offIf (100 < s.share) 27 ++ offIf (8192 ≤ s.node) 28 ++ rsv c 30 31
        ++ offIf (s.qpFirst == 0 || 255 < s.qpFirst) 32 ++ offIf (256 < s.qpFirst + s.qpSets) 34
        ++ offIf (op == 2 && s.node == nodeId n && quotaBelow n s) 48 ++ rsv c 52 63)
      (proposeFor t n c 0 [.slice op s])

/-! ## DRAIN (R351) -/

/-- The successor this node drains to. -/
def drainTo (n : Node) : Option Nat :=
  match mget? n.map.map.nodes (nodeId n) with
  | some e => if e.state = 2 && e.successor < 8192 then some e.successor else none
  | none => none

/-- Commands accepted before the drain that name a sequence are outstanding. -/
def seqBusy (n : Node) (seq : Nat) : Bool := n.fe.cmds.any fun d => d.seq < n.map.drainAt && (namesSeq d).contains seq

/-- Move one sequence to the successor: later commands are refused, and its pages here belong to its new home. -/
def moveSeq (succ : Nat) (n : Node) (s : Seqn) : Node :=
  let rehome (e : Nat × PageEnt) : Nat × PageEnt := if e.2.seq = s.id && e.2.home = nodeId n then (e.1, { e.2 with home := succ }) else e
  let n1 := { n with
    seqs := { n.seqs with open_ := mdel n.seqs.open_ s.id, elsewhere := mset n.seqs.elsewhere s.id succ }
    ter := { n.ter with pages := n.ter.pages.map rehome } }
  emit (modMap n1 fun m => { m with drainSeqs := m.drainSeqs + 1 }) (.drainCopy succ 1 s.id)

/-- Copy a page to the successor; its home swaps the bodies that name it. -/
def movePageOut (succ : Nat) (n : Node) (idx : Nat) : Node :=
  emit (modMap n fun m => { m with drainSent := m.drainSent ++ [idx], drainPages := m.drainPages + 1 }) (.drainCopy succ 2 idx)

/-- The stripes of which this node holds parity. -/
def parityStripes (n : Node) : List Nat := dedupNat ((mkeys n.map.units).map (· / 4096))

/-- The draining node moves what it can; when nothing remains it proposes to be OUT. -/
def drainGoOn (n : Node) : Node :=
  match drainTo n with
  | none => n
  | some succ =>
    let free := (mvals n.seqs.open_).filter fun s => !seqBusy n s.id
    let n1 := free.foldl (moveSeq succ) n
    let n2 := ((mkeys n1.ter.pages).filter fun k => !n1.map.drainSent.contains k).foldl (movePageOut succ) n1
    if !n2.seqs.open_.isEmpty || !n2.ter.pages.isEmpty || n2.map.drainTold then n2
    else
      let n3 := (parityStripes n2).foldl (fun m s => emit m (.drainCopy succ 3 s)) n2
      forwardChanges (modMap n3 fun m => { m with drainTold := true }) (ownProposal n3 [.drainDone (nodeId n3) n3.map.drainPages n3.map.drainSeqs])

/-- The entries of a list's body with some names changed: a new body that node firmware keeps (R93). -/
def swapNames (n : Node) (f : Nat → Nat) (p : PList) : PList :=
  let es := plFpns n p
  if es.map f = es then p
  else { p with length := es.length, generation := (p.generation + 1) % 2 ^ 32, body := 0, inPlace := false, entries := es.map f }

/-- Change the names in every body of the sequences chosen. -/
def swapAll (n : Node) (f : Nat → Nat) (which : Seqn → Bool) : Node :=
  { n with seqs := { n.seqs with
    open_ := n.seqs.open_.map fun e => if which e.2 then (e.1, { e.2 with
      lists := e.2.lists.map (fun p => (p.1, swapNames n f p.2))
      extra := e.2.extra.map f }) else e } }

/-- What a page that has moved here is for. -/
def movedUse (p : MovedPage) : PageUse := ⟨p.seq, p.home, p.place, p.kf, p.vf, p.heads, p.dim, p.charged, p.unit.isSome, 0, 3⟩

/-- Enter a page that has moved here, under its own index, with its contents, each poisoned line as poison of its kind (R225). -/
def arrivePage (t : Tck) (n : Node) (p : MovedPage) : Node :=
  if mhas n.ter.pages p.idx then n
  else
    match placeRun n (compOf p.seq) (footprint p.heads p.dim p.kf p.vf) none none with
    | none => n
    | some a =>
      let n1 := enterPage t n p.idx a (movedUse p) p.unit
      let n2 := fillPage (t1Write t n1 a (p.data.take (footprint p.heads p.dim p.kf p.vf))).1 p.idx p.fill
      match pageAt n2 p.idx with
      | some e => poisonPage n2 e p.poison
      | none => n2

/-- Is this node the successor of a draining one. -/
def takesDrain (n : Node) : Bool := n.map.map.nodes.any fun e => e.2.state == 2 && e.2.successor == nodeId n

/-- `DRAIN`. -/
def drain (ev : DrainEv) (t : Tck) (n : Node) : Node :=
  match ev with
  | .command h =>
    withCmd n h opDrain fun c =>
      let start := c.f 28 1 == 0
      checked t n c (offIf (8192 ≤ c.f 24 2) 24 ++ offIf (start && 8192 ≤ c.f 26 2) 26 ++ offIf (1 < c.f 28 1) 28 ++ rsv c 29 63)
        (proposeFor t n c 0 [if start then .drainStart (c.f 24 2) (c.f 26 2) else .drainCancel (c.f 24 2)])
  | .goOn => if stopped n || fencedNode n then n else drainGoOn n
  | .pageMoved old new =>
    let ok := match mget? n.map.map.nodes (fpnNode old) with
      | some e => e.state == 2 && e.successor == fpnNode new
      | none => false
    if ok && (bodyRefs n).contains old then retirePages t (swapAll n (fun f => if f = old then new else f) fun _ => true) [old] [] else n
  | .arrive s pages =>
    if !takesDrain n then n
    else
      let n1 := pages.foldl (arrivePage t) n
      match s with
      | none => n1
      | some q => { n1 with seqs := { n1.seqs with open_ := mset n1.seqs.open_ q.id q, elsewhere := mdel n1.seqs.elsewhere q.id } }

/-- `DRAIN_TIMEOUT` (R351). -/
def drainTimeout (h : Nat) (t : Tck) (n : Node) : Node :=
  match n.map.drains.find? (·.handle == h) with
  | none => n
  | some d =>
    if d.accTick + rd n Rg.mapCfgProposeTicks * 1024 ≤ t.tick then
      complete t (modMap n fun m => { m with drains := m.drains.filter (·.handle != h) }) h stDeadline []
    else n

/-! ## Parity (R220, R357, R358) -/

/-- The inverse of a non-zero element: its power 254. -/
def gfInv (a : Nat) : Nat := gfPow a 254

/-- A byte string multiplied by a constant. -/
def gfScale (c : Nat) (l : Bytes) : Bytes := l.map fun b => BitVec.ofNat 8 (gfMul c b.toNat)

/-- g^j. -/
def gfG (j : Nat) : Nat := gfPow 2 j

/-- A unit of zeros. -/
def zeroUnit : Bytes := zeros 4096

/-- Sum of data units, each under its coefficient. -/
def gfSum (coef : Nat → Nat) (l : List (Nat × Bytes)) : Bytes := l.foldl (fun a x => xorBytes a (gfScale (coef x.1) x.2)) zeroUnit

/-- The data units of a stripe, known and restored: `known` by data index, `p` and `q` where known. -/
def restoreData (known : List (Nat × Bytes)) (p q : Option Bytes) : List (Nat × Bytes) :=
  let gone := (List.range 8).filter fun j => !known.any (·.1 == j)
  let a := (p.map fun x => xorBytes x (gfSum (fun _ => 1) known)).getD zeroUnit
  let b := (q.map fun x => xorBytes x (gfSum gfG known)).getD zeroUnit
  match gone, p with
  | [x], some _ => known ++ [(x, a)]
  | [x], none => known ++ [(x, gfScale (gfInv (gfG x)) b)]
  | [x, y], _ =>
    let dx := gfScale (gfInv (gfG x ^^^ gfG y)) (xorBytes b (gfScale (gfG y) a))
    known ++ [(x, dx), (y, xorBytes a dx)]
  | _, _ => known

/-- The unit that index `i` holds in stripe `s`, from eight other units (R357). -/
def rebuildUnit (s i : Nat) (l : List Survivor) : Bytes :=
  let at_ (k : Nat) : Option Bytes := (l.find? (·.index == k)).map (·.data)
  let ds := dataIdx s
  let known := (List.range 8).filterMap fun j => (at_ (ds.getD j 0)).map fun d => (j, d)
  let full := restoreData known (at_ (s % 10)) (at_ ((s + 1) % 10))
  if i = s % 10 then gfSum (fun _ => 1) full
  else if i = (s + 1) % 10 then gfSum gfG full
  else ((full.find? fun x => x.1 == ds.findIdx (· == i)).map (·.2)).getD zeroUnit

/-- Are these eight units fit to rebuild index `i`. -/
def survivorsOk (i : Nat) (l : List Survivor) : Bool :=
  l.length == 8 && distinct (l.map (·.index)) && l.all fun v => v.index < 10 && v.index != i && v.data.length == 4096

/-- Time a rebuilt unit takes at `MAP_REBUILD_CFG.RATE`: 4,096 bytes at RATE GB/s, in units of fabric time. -/
def unitTime (n : Node) : Nat := cdiv 16384 (max 1 (rd n Rg.mapRebuildCfgRate))

/-- Poison of a rebuilt unit's lines: that of the survivors' lines; where kinds differ the spec does not say which. DESIGN CHOICE, safe:
log entry 19. -/
def rebuiltPoison (s : Nat) (l : List Survivor) (n : Node) : Node :=
  (List.range 64).foldl
    (fun m i =>
      match (l.flatMap fun v => v.poison.filter (·.1 == i)).map (·.2) with
      | [] => m
      | k :: r =>
        let (v, m1) := if r.all (· == k) then (k, m) else (let x := takeFree m; (1 + x.1 % 2, x.2))
        modMap m1 fun y => { y with unitPoison := mset y.unitPoison (4096 * s + 64 * i) v })
    n

/-- `REBUILD_UNIT` (R359): the next unit in ascending s. -/
def rebuildNext (l : List Survivor) (t : Tck) (n : Node) : Node :=
  match n.map.rebuild with
  | none => n
  | some r =>
    let s := rd n Rg.mapRebuildDoneUnits
    if rd n Rg.mapRebuildTotalUnits ≤ s || t.now < r.next || stopped n || fencedNode n || !survivorsOk r.gindex l then n
    else
      let n1 := modMap n fun m => { m with units := Mem.write 0 (Mem.clear m.units (4096 * s) 4096) (4096 * s) (rebuildUnit s r.gindex l)
                                           rebuild := some { r with next := max t.now r.next + unitTime n } }
      wr (rebuiltPoison s l n1) Rg.mapRebuildDoneUnits (s + 1)

/-- The byte address in `units` of the `q`-th data unit of an index. -/
def dataUnitAt (i q : Nat) : Nat := 4096 * stripeOf i q

/-- Enter a page of the lost member from its rebuilt units (R359). -/
def enterRebuilt (t : Tck) (i : Nat) (n : Node) (p : MovedPage) : Node :=
  match p.unit with
  | none => n
  | some q =>
    let k := footprint p.heads p.dim p.kf p.vf / 4096
    let data := (List.range k).flatMap fun j => Mem.read 0 n.map.units (dataUnitAt i (q + j)) 4096
    let bad := (List.range k).flatMap fun j => (n.map.unitPoison.filter fun x => x.1 / 4096 == stripeOf i (q + j)).map fun x => (4096 * j + x.1 % 4096, x.2)
    arrivePage t n { p with data := data, poison := bad }

/-- Keep of the rebuilt units those that are parity; the data units are pages now. -/
def keepParity (i : Nat) (m : MapSt) : MapSt :=
  let parity (a : Nat) : Bool := i == a / 4096 % 10 || i == (a / 4096 + 1) % 10
  { m with units := m.units.filter fun c => parity c.1, unitPoison := m.unitPoison.filter fun c => parity c.1 }

/-- The successor's rebuild is at its end (R359): page table, homes. -/
def rebuildEnd (lost : Nat) (seqs : List Seqn) (pages : List MovedPage) (t : Tck) (n : Node) : Node :=
  match n.map.rebuild with
  | none => n
  | some r =>
    if r.lost != lost || rd n Rg.mapRebuildDoneUnits < rd n Rg.mapRebuildTotalUnits then n
    else
      let n1 := modMap (pages.foldl (enterRebuilt t r.gindex) n) (keepParity r.gindex)
      let n2 := { n1 with seqs := { n1.seqs with
        open_ := seqs.foldl (fun m q => mset m q.id q) n1.seqs.open_
        elsewhere := seqs.foldl (fun m q => mdel m q.id) n1.seqs.elsewhere } }
      let rename (f : Nat) : Nat := if fpnNode f = lost then mkFpn (nodeId n) (fpnIdx f) else f
      emit (swapAll n2 rename fun q => q.prot) (.homeDone n.map.map.coord r.group)

/-- The homes of a group that must report: the surviving members, and the successors of the lost ones. -/
def homesOf (m : FMap) (g : Group) : List Nat :=
  g.members.filterMap fun k =>
    if stateIn m k = 4 then (match mget? m.nodes k with | some e => if e.successor < 8192 then some e.successor else none | none => none) else some k

/-- `REBUILD_DONE` (R359). -/
def rebuildDone (ev : RebuildEv) (t : Tck) (n : Node) : Node :=
  match ev with
  | .done lost seqs pages => rebuildEnd lost seqs pages t n
  | .swap lost successor =>
    let named := match mget? n.map.map.nodes lost with
      | some e => e.state == 4 && e.successor == successor
      | none => false
    match groupOf n with
    | some (gn, g) =>
      if named && g.members.contains lost then
        emit (swapAll n (fun f => if fpnNode f = lost then mkFpn successor (fpnIdx f) else f) fun q => q.prot) (.homeDone n.map.map.coord gn)
      else n
    | none => n
  | .report group node =>
    match n.map.ballot, mget? n.map.map.groups group with
    | some _, some g =>
      let l := mgetD n.map.homesDone group []
      let l1 := if l.contains node then l else l ++ [node]
      if g.gstate != 1 || !(homesOf n.map.map g).contains node then n
      else if (homesOf n.map.map g).all l1.contains then
        modMap n fun m => { m with homesDone := mdel m.homesDone group, gathered := m.gathered ++ [ownProposal n [.groupWhole group]] }
      else modMap n fun m => { m with homesDone := mset m.homesDone group l1 }
    | _, _ => n

/-- The index whose parity this node holds for a group's stripe: its own, or a lost member's whose unit it has rebuilt (R358). -/
def parityIndex (n : Node) (group stripe : Nat) : Option Nat :=
  match groupOf n, n.map.rebuild with
  | some (g, _), r => if g = group then some (gindexOf n) else match r with
    | some x => if x.group = group && stripe < rd n Rg.mapRebuildDoneUnits then some x.gindex else none
    | none => none
  | none, some x => if x.group = group && stripe < rd n Rg.mapRebuildDoneUnits then some x.gindex else none
  | none, none => none

/-- XOR bytes into a parity unit. -/
def xorUnit (n : Node) (a : Nat) (delta : Bytes) : Node :=
  modMap n fun m => { m with units := Mem.write 0 m.units a (xorBytes (Mem.read 0 m.units a delta.length) delta) }

/-- `PARITY_UPDATE` (R357, R358): P takes old XOR new, Q takes it times g^j; the holder acknowledges. A node at the end of its drain copies the unit again. -/
def parityUpdate (m : ParityMsg) (n : Node) : Node :=
  let a := 4096 * m.stripe + m.off
  let n1 := match parityIndex n m.group m.stripe with
    | some i => if i = m.stripe % 10 then xorUnit n a m.delta
      else if i = (m.stripe + 1) % 10 then xorUnit n a (gfScale (gfG m.j) m.delta) else n
    | none => n
  let n2 := match drainTo n1 with
    | some s => if n1.map.drainTold then emit n1 (.drainCopy s 3 m.stripe) else n1
    | none => n1
  emit n2 (.parityAck m.sender m.home m.handle)

/-- `PARITY_ACKNOWLEDGEMENT` (R14, R358): with the last one an `APPEND_KV` of this node completes. -/
def parityAck (home handle : Nat) (t : Tck) (n : Node) : Node :=
  let hit (w : AckWait) : Bool := w.home == home && w.handle == handle
  let n1 := modMap n fun m => { m with ackWaits := (lmodify m.ackWaits hit fun w => { w with left := w.left - 1 }).filter fun w => w.left != 0 }
  if home != nodeId n1 || acksLeft n1 home handle then n1
  else
    match n1.seqs.applied.find? (·.1 == handle) with
    | some (_, a, k) =>
      complete t { n1 with seqs := { n1.seqs with applied := n1.seqs.applied.filter (·.1 != handle) } } handle stOk (appendResult a k)
    | none => n1

/-- `MAP_PROPOSE`. -/
def execMapPropose (h : Word) (s : State) : Outcome State Fault Refusal := onNode (mapPropose h.toNat) s
/-- `MAP_READ`. -/
def execMapRead (h : Word) (s : State) : Outcome State Fault Refusal := onNode (mapRead h.toNat) s
/-- `SLICE_GRANT`. -/
def execSliceGrant (h : Word) (s : State) : Outcome State Fault Refusal := onNode (sliceGrant h.toNat) s
/-- `DRAIN`. -/
def execDrain (ev : DrainEv) (s : State) : Outcome State Fault Refusal := onNode (drain ev) s
/-- `DRAIN_TIMEOUT`. -/
def execDrainTimeout (h : Word) (s : State) : Outcome State Fault Refusal := onNode (drainTimeout h.toNat) s
/-- `REBUILD_UNIT`. -/
def execRebuildUnit (survivors : List Survivor) (s : State) : Outcome State Fault Refusal := onNode (rebuildNext survivors) s
/-- `REBUILD_DONE`. -/
def execRebuildDone (ev : RebuildEv) (s : State) : Outcome State Fault Refusal := onNode (rebuildDone ev) s
/-- `PARITY_UPDATE`. -/
def execParityUpdate (m : ParityMsg) (s : State) : Outcome State Fault Refusal := onNode (fun _ => parityUpdate m) s
/-- `PARITY_ACKNOWLEDGEMENT`. -/
def execParityAcknowledgement (home : BitVec 13) (handle : Word) (s : State) : Outcome State Fault Refusal := onNode (parityAck home.toNat handle.toNat) s

end Sys2Proof.Machine
end

