-- ==== Sys2Proof/Machine/Integrity.lean ====
section
/-! DEFINITION. Memory integrity (10): refresh windows, patrol scrub, flash reads, row sparing, march tests and the retirement of pseudo-channels. -/

namespace Sys2Proof.Machine

open Host (Outcome)

/-! ## Refresh (R32, R33) -/

/-- Is pseudo-channel `p` in refresh at a notch of a tick. -/
def inRefresh (p notch : Nat) : Bool := (refreshStarts p).any fun s => s ≤ notch && notch ≤ s + 1

/-- `REFRESH_WINDOW` (R32, R33): the window of channel `p` begins and all refresh owed is issued, once for each window; the units named had an access wait. -/
def refreshWindow (p : Nat) (waits : List Nat) (t : Tck) (n : Node) : Node :=
  let start := t.notches / 64 * 64 + (if 52 ≤ t.notch then 52 else 20) + p % 4
  if inRefresh p t.notch && mget? n.mic.refreshed p != some start then
    waits.foldl (fun m u => pmc m u 0x0005 1) { n with mic := { n.mic with refreshed := mset n.mic.refreshed p start } }
  else n

/-- May a hold of `len` units that starts at the present notch end before the next refresh window of channel `p` (R233, R235). -/
def holdFits (t : Tck) (p len : Nat) : Bool :=
  let e := t.notch + cdiv len (unitsPerNotch t.cur)
  len ≤ 4000 && !inRefresh p t.notch && ((refreshStarts p).all fun s => s + 1 < t.notch || e ≤ s) && (e ≤ 64 || e - 64 ≤ 20 + p % 4)

/-! ## Patrol scrub (R227) -/

/-- Units of fabric time in an hour. -/
abbrev unitsPerHour : Nat := 3600 * 4000000000

/-- Lines of a pseudo-channel, and of a stack. -/
abbrev pchLines : Nat := pchBytes / 64

/-- The first line of stack `s` at or after index `k` that lies in a channel in service; `fuel` bounds the channels passed over. -/
def nextLine (n : Node) (s : Nat) : Nat → Nat → Option Nat
  | 0, _ => none
  | f + 1, k =>
    if 128 * pchLines ≤ k then none
    else if n.mic.stacksOut.contains s then none
    else if n.mic.retired.contains (128 * s + k / pchLines) then nextLine n s f ((k / pchLines + 1) * pchLines)
    else some k

/-- A scrub period of a memory ends: counted, late where it has run over, and the next begins no sooner than its time (R227). -/
def endPeriod (t : Tck) (n : Node) (key hours : Nat) : Node :=
  let due := mgetD n.mic.periodAt key 0 + hours * unitsPerHour
  let n1 := bump n Rg.micScrubStatusPasses 1
  let n2 := if due < t.now then bump n1 Rg.micScrubStatusBehind 1 else n1
  { n2 with mic := { n2.mic with patrol := mset n2.mic.patrol key 0, periodAt := mset n2.mic.periodAt key (max due t.now) } }

/-- Counts that run over one scrub period of a stack begin again (R222, R235, R236). -/
def freshCounts (n : Node) (s : Nat) : Node :=
  { n with mic := { n.mic with
    laneRows := n.mic.laneRows.filter fun e => e.1 / 68 / 128 != s
    rows := mset n.mic.rows s []
    ueLines := n.mic.ueLines.filter fun e => e.1 / 128 != s } }

/-- Scrub the next line of stack `s` in patrol order. -/
def patrolNext (s : Nat) (errs : List Nat) (t : Tck) (n : Node) : Node :=
  if t.now < mgetD n.mic.periodAt s 0 then n
  else
    match nextLine n s 129 (mgetD n.mic.patrol s 0) with
    | none => freshCounts (endPeriod t n s (rd n Rg.micScrubCfgStkHours)) s
    | some k =>
      let a := s * 128 * pchBytes + 64 * k
      if inRefresh (pchOf a) t.notch then n
      else
        let n1 := ctrlRead t n a errs
        let n2 := { n1 with mic := { n1.mic with patrol := mset n1.mic.patrol s (k + 1) } }
        if (nextLine n2 s 129 (k + 1)).isNone then freshCounts (endPeriod t n2 s (rd n Rg.micScrubCfgStkHours)) s else n2

/-- `PATROL_SCRUB` (R195, R221, R222, R227): the controller of stack `s` reads a line through the full decoder, a line named ahead of the order before the next in
order, never in its channel's refresh window. `errs` are the lanes in error of the line read. -/
def patrolScrub (s : Nat) (errs : List Nat) (t : Tck) (n : Node) : Node :=
  match mgetD n.mic.ahead s [] with
  | a :: l =>
    if inRefresh (pchOf a) t.notch then n
    else ctrlRead t { n with mic := { n.mic with ahead := mset n.mic.ahead s l } } a errs
  | [] => patrolNext s errs t n

/-! ## Board memory (R226) -/

/-- `BMEM_SCRUB` (R226, R227): the controller reads the next burst of board memory in patrol order, the one at `addr`, with errors in `devs` devices; what it holds and
which channel it lies in are named by the command. One not next in order is not read. -/
def bmemScrub (ch devs : Nat) (b : Burst) (addr : Nat) (t : Tck) (n : Node) : Node :=
  let k := mgetD n.mic.patrol 8 0
  if t.now < mgetD n.mic.periodAt 8 0 || n.mic.ddrOut.contains ch || !mhas n.brd.dimms ch || addr != 64 * k then n
  else
    let n0 := if b = .other false then n else { n with mic := { n.mic with poisonO := n.mic.poisonO.filter (· != addr) } }
    let n1 := burstRead t n0 ch devs b addr
    let n2 := { n1 with mic := { n1.mic with patrol := mset n1.mic.patrol 8 (k + 1) } }
    if t2Bytes n ≤ 64 * (k + 1) then endPeriod t n2 8 (rd n Rg.micScrubCfgBmemHours) else n2

/-! ## Flash (R228) -/

/-- Poison a whole sector as memory poison. -/
def poisonSector (n : Node) (s : Nat) : Node := (List.range 64).foldl (fun m i => poisonLine3 m (4096 * s + 64 * i) 1) n

/-- The sector as the node stored it: ciphertext under the tenant's storage key (R228, R373). -/
def storedBytes (n : Node) (s : Nat) : Bytes := Config.storedSector (n.sec.storage.getD []) s (Mem.read 0 n.ter.t3 (4096 * s) 4096)

/-- The application tag of a sector: 0x8000 where it is poisoned with memory poison, 0xC000 where with owner-lost poison (R228). -/
def appTag (n : Node) (s : Nat) : Nat :=
  let l := (List.range 64).filterMap fun i => mget? n.mic.poison3 (4096 * s + 64 * i)
  if l.isEmpty then 0 else if l.contains 2 then 0xC000 else 0x8000

/-- The protection information that the node gives a sector: the guard over its stored bytes, its block address, its application tag (R228). -/
def sectorPi (n : Node) (s : Nat) : FlashPi := ⟨crc64 (storedBytes n s), s % 2 ^ 48, appTag n s⟩

/-- Does what a module returned pass the node's check: guard and reference tag (R228). -/
def piOk (n : Node) (s : Nat) (p : FlashPi) : Bool := p.guard == (sectorPi n s).guard && p.ref == (sectorPi n s).ref

/-- The poison that an application tag marks its sector with. -/
def appPoison (n : Node) (s : Nat) (p : FlashPi) : Node :=
  let k := if p.app = 0xC000 then 2 else if p.app = 0x8000 then 1 else 0
  if k = 0 then n else (List.range 64).foldl (fun m i => poisonLine3 m (4096 * s + 64 * i) k) n

/-- `FLASH_READ_DONE` (R198, R204, R225, R228): the read of terrace-3 sector `s` from module `m` ends with the protection information it returned, which the node checks. A good sector enters
the cache where its set takes it, as poison where its application tag says so; while the module's root port is retrained the read waits (R427). -/
def flashReadDone (m s : Nat) (pi : FlashPi) (t : Tck) (n : Node) : Node :=
  let n1 := { n with mic := { n.mic with retry := n.mic.retry.filter (· != s) } }
  if n.svc.recal.any (fun r => r.unit == 16 + m && r.start.isSome) then n
  else if piOk n s pi then cacheSector false (appPoison n1 s pi) s
  else if n.mic.retry.contains s then
    poisonSector (raise t (bump n1 (Rg.micFlashErrFail m) 1) evFlashCrc (leBytes 1 m ++ leBytes 8 (4096 * s))) s
  else bump { n with mic := { n.mic with retry := n.mic.retry ++ [s] } } (Rg.micFlashErrRetry m) 1

/-! ## Row sparing (R235) -/

/-- The lines of a row. -/
def rowLines (a : Nat) : List Nat := (List.range 16).map fun i => rowOf a + 64 * i

/-- `ROW_SPARING` (R235): a row that has earned a spare is held for `hold` units, read through the full decoder, repaired and written back, while `waits` accesses
wait; a bank with no spare left leaves it as it is. -/
def rowSparing (a hold waits : Nat) (errs : List (Nat × List Nat)) (t : Tck) (n : Node) : Node :=
  let p := pchOf a
  let bank := Config.bankOf (rowOf a)
  let key := 65536 * p + bank % 65536
  if !n.mic.owed.contains (rowOf a) || n.mic.retired.contains p then n
  else if 2 ≤ mgetD n.mic.spared key 0 then
    let out := mgetD n.mic.sparesOut p []
    raise t { n with mic := { n.mic with
      owed := n.mic.owed.filter (· != rowOf a)
      sparesOut := mset n.mic.sparesOut p (if out.contains (bank % 65536) then out else out ++ [bank % 65536]) } } evSparesOut (leBytes 8 (rowOf a))
  else if holdFits t p hold && t.notch + cdiv hold (unitsPerNotch t.cur) ≤ 62 then
    let n1 := (rowLines a).foldl (fun m l => ctrlRead t m l (((errs.find? (·.1 == l)).map (·.2)).getD [])) n
    let n2 := { n1 with mic := { n1.mic with
      owed := n1.mic.owed.filter (· != rowOf a)
      rows := mmod n1.mic.rows (p / 128) fun l => l.filter (·.row != rowOf a)
      spared := mset n1.mic.spared key (mgetD n1.mic.spared key 0 + 1)
      repair := n1.mic.repair ++ [rowOf a] } }
    raise t (bump (bump n2 (Rg.micStkRepairSpared (p / 128)) 1) (Rg.micStkRepairWaits (p / 128)) waits) evRowSpared (leBytes 8 (rowOf a))
  else n

/-! ## March tests (R233, R234, R432) -/

/-- Frames of a pseudo-channel, or words of an SRAM, that a unit of a kind has. -/
def marchSize (kind : Nat) : Nat :=
  if kind = 0 then 196608 else if kind = 1 then 1048576 else if kind = 2 then 32768 else 8192

/-- Is a frame in use (R233): it holds a page, a window slot, an extent, the spill area, or lies outside the OPEN state. -/
def frameInUse (n : Node) (a : Nat) : Bool :=
  ((busyRuns n (pchOf a)).any fun r => overlaps a 4096 r.1 r.2)
    || n.cxd.exts.any (fun e => e.2.runs.any fun r => overlaps a 4096 r.1 r.2)
    || overlaps a 4096 (2 ^ 20 * rd n Rg.cflSpillBaseLoBase + 2 ^ 32 * rd n Rg.cflSpillBaseHiBase) (2 ^ 20 * rd n Rg.cflSpillSizeMib)
    || frameKind n a != 0

/-- Count whole thousands of a count that a register shows in units of 1,024. -/
def marchSkip (n : Node) (k : Nat) : Node :=
  bump { n with mic := { n.mic with skipRem := (n.mic.skipRem + k) % 1024 } } Rg.micMarchStatusSkipped ((n.mic.skipRem + k) / 1024)

/-- The same for accesses held. -/
def marchWait (n : Node) (k : Nat) : Node :=
  bump { n with mic := { n.mic with waitRem := (n.mic.waitRem + k) % 1024 } } Rg.micMarchStatusWaits ((n.mic.waitRem + k) / 1024)

/-- The array number of a kind in events: pseudo-channel 7, and the numbers of R229's table. -/
def marchArray (kind : Nat) : Nat := if kind = 0 then 7 else kind - 1

/-- The failing cells of one frame or SRAM, by address: counted and recorded (R234). -/
def marchFails (t : Tck) (n : Node) (kind : Nat) (cells : List Nat) : Node :=
  cells.foldl (fun m a => raise t (bump m Rg.micMarchStatusFails 1) evMarchFail (leBytes 1 (marchArray kind) ++ leBytes 8 a)) n

/-- Take a unit of SRAM out of service, or put it back. -/
def marchOut (n : Node) (kind unit : Nat) (out : Bool) : Node :=
  let upd (l : List Nat) : List Nat := if out then (if l.contains unit then l else l ++ [unit]) else l.filter (· != unit)
  if kind = 1 then { n with mic := { n.mic with clustersOut := upd n.mic.clustersOut } }
  else if kind = 2 then { n with mic := { n.mic with bsusOut := upd n.mic.bsusOut } }
  else if kind = 3 then { n with mic := { n.mic with cflOut := upd n.mic.cflOut } }
  else n

/-- Does a unit still work: a cluster with an item, a BSU with a run or an entry. -/
def marchBusy (n : Node) (kind unit : Nat) : Bool :=
  if kind = 1 then n.att.items.any fun i => i.cluster == some unit
  else if kind = 2 then (unitOf n unit).run.isSome
  else false

/-- Do two jobs test a unit in common. -/
def marchOverlap (a b : MarchJob) : Bool := a.kind == b.kind && overlaps a.unit a.left b.unit b.left

/-- May the job at place `k` run: no earlier one tests a unit of it (R432). -/
def marchTurn (n : Node) (k : Nat) (j : MarchJob) : Bool := !(n.svc.march.take k).any (marchOverlap j)

/-- Frames or words tested, cells failed, frames skipped (R432). -/
def marchResult (j : MarchJob) : Bytes := leBytes 4 j.tested ++ leBytes 4 j.failed ++ leBytes 4 j.skipped

/-- Put a job back at its place, or end it: its command completes, and a retired channel that has passed returns to service (R432, R433). -/
def marchPut (t : Tck) (n : Node) (k : Nat) (j : MarchJob) : Node :=
  if j.left != 0 then { n with svc := { n.svc with march := n.svc.march.set k j } }
  else
    let n1 := { n with svc := { n.svc with march := n.svc.march.eraseIdx k } }
    if j.why = 0 then complete t n1 j.handle stOk (marchResult j)
    else if j.why = 1 then
      if j.failed = 0 then
        complete t { n1 with mic := { n1.mic with retired := n1.mic.retired.filter (· != j.unit - 1) } } j.handle stOk (leBytes 4 0)
      else complete t n1 j.handle stMemUncorr (leBytes 4 0)
    else n1

/-- The next unit of a job. -/
def nextUnit (j : MarchJob) : MarchJob := { j with unit := j.unit + 1, left := j.left - 1, frame := 0 }

/-- One frame of a pseudo-channel. -/
def marchStack (k : Nat) (j : MarchJob) (cells : List Nat) (hold waits : Nat) (t : Tck) (n : Node) : Node :=
  let a := j.unit * pchBytes + 4096 * j.frame
  let j1 := if j.frame + 1 = marchSize 0 then nextUnit j else { j with frame := j.frame + 1 }
  if j.form = 0 && frameInUse n a && !n.mic.retired.contains j.unit then marchPut t (marchSkip n 1) k { j1 with skipped := j1.skipped + 1 }
  else if !holdFits t j.unit hold then n
  else
    let c := cells.filter fun x => a ≤ x && x < a + 4096
    let n1 := if j.form = 0 then
        { n with t1 := Mem.clear n.t1 a 4096, mic := { n.mic with poison := n.mic.poison.filter fun x => x.1 < a || a + 4096 ≤ x.1 } }
      else n
    let n2 := c.foldl (fun m x => oweRow m (rowOf x)) (marchFails t (marchWait n1 waits) 0 c)
    marchPut t n2 k { j1 with tested := j1.tested + 1, failed := j1.failed + c.length }

/-- One SRAM: first drained, then tested whole; it returns to service when it passes. -/
def marchSram (k : Nat) (j : MarchJob) (cells : List Nat) (t : Tck) (n : Node) : Node :=
  let n1 := marchOut n j.kind j.unit true
  if marchBusy n j.kind j.unit then n1
  else
    let c := cells.filter (· < marchSize j.kind)
    let n2 := if j.form = 0 && j.kind = 2 then modUnit n1 j.unit fun u => { u with sram := [] } else n1
    let n3 := marchFails t n2 j.kind c
    let n4 := if c.isEmpty then marchOut n3 j.kind j.unit false else n3
    marchPut t n4 k { nextUnit j with tested := j.tested + marchSize j.kind, failed := j.failed + c.length }

/-- `MARCH_FRAME` (R233, R234): the engine of the test at place `k` tests its next frame, held for `hold` units while `waits` accesses wait, or its next SRAM; the
cells that fail are named by terrace-1 address or by word. -/
def marchFrame (k : Nat) (cells : List Nat) (hold waits : Nat) (t : Tck) (n : Node) : Node :=
  match n.svc.march[k]? with
  | none => n
  | some j =>
    if !marchTurn n k j then n
    else
      let n1 := wr n Rg.micMarchStatusForm j.form
      if j.kind = 0 then marchStack k j cells hold waits t n1 else marchSram k j cells t n1

/-! ## Retirement of a pseudo-channel (R236) -/

/-- Do the node's own triggers ask for the retirement of a channel. -/
def retireDue (n : Node) (p : Nat) : Bool :=
  rdB n Rg.micSpareCfgAutoRetire && pchInService n p
    && (2 ≤ (mgetD n.mic.lanes p []).length || 3 ≤ (mgetD n.mic.sparesOut p []).length || 16 < mgetD n.mic.ueLines p 0)

/-- Begin the retirement of a channel: nothing more is allocated there (R236). -/
def startRetire (n : Node) (p : Nat) (handle : Option Nat) : Node :=
  { n with mic := { n.mic with retiring := n.mic.retiring ++ [⟨p, handle, false, 0⟩] } }

/-- Ask the movers for every page of the channel, in class 2. -/
def retirePagesOf (n : Node) (p : Nat) : Node :=
  let l := n.ter.pages.filterMap fun e => if e.2.terrace == 1 && pchOf e.2.addr == p && !inMotion n e.1 then some e.1 else none
  queueMoves n (l.map fun i => ⟨2, .page i, 1, none, none⟩)

/-- Copy a run of terrace 1 into other runs in order, with its poison. -/
def copyRuns (n : Node) (src : Nat) : List (Nat × Nat) → Node
  | [] => n
  | (a, l) :: t =>
    let bad := runPoisons n.mic.poison src l
    copyRuns { n with t1 := Mem.shift n.t1 src a l, mic := { n.mic with poison := markRun n.mic.poison a l bad } } (src + l) t

/-- Move the runs of a list that lie in channel `p` to channels in service: the new list, and the node; runs that find no room stay. -/
def relocate (p : Nat) : List (Nat × Nat) → Node → List (Nat × Nat) × Node
  | [], n => ([], n)
  | r :: t, n =>
    if pchOf r.1 != p then
      let (l, m) := relocate p t n
      (r :: l, m)
    else
      match takeRuns n r.2 (List.range 1024) with
      | none =>
        let (l, m) := relocate p t n
        (r :: l, m)
      | some new =>
        let n1 := retireMoved (dropRuns (holdRuns (copyRuns n r.1 new) new) [r]) p (r.2 / 4096)
        let (l, m) := relocate p t n1
        (new ++ l, m)

/-- Relocate a slot's runs. -/
def relocateSlots (p : Nat) : List WSlot → Node → List WSlot × Node
  | [], n => ([], n)
  | s :: t, n =>
    let (r, n1) := relocate p s.runs n
    let (l, m) := relocateSlots p t n1
    ({ s with runs := r } :: l, m)

/-- Relocate the runs of layers kept expanded. -/
def relocatePins (p : Nat) : List WPin → Node → List WPin × Node
  | [], n => ([], n)
  | s :: t, n =>
    let (r, n1) := relocate p s.runs n
    let (l, m) := relocatePins p t n1
    ({ s with runs := r } :: l, m)

/-- Relocate the windows of every weight set. -/
def relocateSets (n : Node) (p : Nat) : Node :=
  n.wts.sets.foldl
    (fun m e =>
      let (sl, m1) := relocateSlots p e.2.slots m
      let (pn, m2) := relocatePins p e.2.pins m1
      modSet m2 e.1 fun w => { w with slots := sl, pins := pn })
    n

/-- The frames of a run. -/
def runFrames (r : Nat × Nat) : List Nat := (List.range (r.2 / 4096)).map fun k => r.1 + 4096 * k

/-- The runs of an extent with the offsets at which they stand. -/
def runOffsets : Nat → List (Nat × Nat) → List (Nat × Nat × Nat)
  | _, [] => []
  | o, (a, l) :: t => (o, a, l) :: runOffsets (o + l) t

/-- Recall what heads hold of an extent's frames in the channel; once nothing is held the frames are remapped, keeping their host addresses (R236, R273). -/
def relocateExtent (t : Tck) (p : Nat) (n : Node) (e : Nat) (x : Extent) : Node :=
  let mine := (runOffsets 0 x.runs).filter fun r => pchOf r.2.1 == p
  if mine.isEmpty || mine.any (fun r => (runFrames r.2).any fun f => 2 ≤ frameSt n f) then n
  else
    let (n1, clear) := mine.foldl (fun (s : Node × Bool) r => let q := recallRange t true s.1 (e * extBytes + r.1) r.2.2; (q.1, s.2 && q.2)) (n, true)
    if !clear then n1
    else
      let (runs, n2) := relocate p x.runs n1
      { n2 with cxd := { n2.cxd with exts := mset n2.cxd.exts e { x with runs := runs } } }

/-- Frames of the channel in the BSU state for a host range. -/
def retireHeld (n : Node) (p : Nat) : Bool := n.bsu.frames.any fun f => pchOf f.1 == p && frameKind n f.1 == 2

/-- Does anything of the channel's contents remain in it. -/
def retireLeft (n : Node) (p : Nat) : Bool :=
  !(busyRuns n p).isEmpty || n.cxd.exts.any (fun e => e.2.runs.any fun r => pchOf r.1 == p) || (unitOf n p).run.isSome || retireHeld n p

/-- The channel leaves service (R236 step 5). -/
def retireEnd (t : Tck) (n : Node) (j : RetireJob) : Node :=
  let n1 := { n with mic := { n.mic with
    retiring := n.mic.retiring.filter (·.pch != j.pch)
    retired := n.mic.retired ++ [j.pch]
    owed := n.mic.owed.filter fun r => pchOf r != j.pch
    ahead := mmod n.mic.ahead (j.pch / 128) fun l => l.filter fun a => pchOf a != j.pch } }
  let n2 := raise t n1 evPchRetired []
  match j.handle with
  | some h => complete t n2 h stOk (leBytes 4 j.moved)
  | none => n2

/-- Carry a retirement on: relocate what can be, note a wait for `BSU_RELEASE` once, and end when nothing is left. -/
def retireGoOn (t : Tck) (n : Node) (p : Nat) : Node :=
  let n1 := relocateSets (retirePagesOf n p) p
  let n2 := n1.cxd.exts.foldl (fun m e => relocateExtent t p m e.1 e.2) n1
  match n2.mic.retiring.find? (·.pch == p) with
  | none => n2
  | some j =>
    if retireHeld n2 p && !j.told then
      raise t { n2 with mic := { n2.mic with retiring := lmodify n2.mic.retiring (·.pch == p) fun x => { x with told := true } } } evPchRetireWait []
    else if retireLeft n2 p then n2
    else retireEnd t n2 j

/-- `PCH_RETIREMENT` (R236): node firmware retires a channel on its triggers, and carries on a retirement that has begun. -/
def pchRetirement (p : Nat) (t : Tck) (n : Node) : Node :=
  if n.mic.retiring.any (·.pch == p) then retireGoOn t n p
  else if retireDue n p then retireGoOn t (startRetire n p none) p
  else n

/-- `REFRESH_WINDOW`. -/
def execRefreshWindow (p : Fin 1024) (waits : List (Fin 64)) (s : State) : Outcome State Fault Refusal :=
  onNode (refreshWindow p.val (waits.map (·.val))) s
/-- `PATROL_SCRUB`. -/
def execPatrolScrub (stack : Fin 8) (errs : List Nat) (s : State) : Outcome State Fault Refusal := onNode (patrolScrub stack.val errs) s
/-- `BMEM_SCRUB`. -/
def execBmemScrub (ch : Fin 12) (devs : Nat) (b : Burst) (addr : Nat) (s : State) : Outcome State Fault Refusal := onNode (bmemScrub ch.val devs b addr) s
/-- `FLASH_READ_DONE`. -/
def execFlashReadDone (m : Fin 8) (sector : Nat) (pi : FlashPi) (s : State) : Outcome State Fault Refusal := onNode (flashReadDone m.val sector pi) s
/-- `ROW_SPARING`. -/
def execRowSparing (a hold waits : Nat) (errs : List (Nat × List Nat)) (s : State) : Outcome State Fault Refusal := onNode (rowSparing a hold waits errs) s
/-- `PCH_RETIREMENT`. -/
def execPchRetirement (p : Fin 1024) (s : State) : Outcome State Fault Refusal := onNode (pchRetirement p.val) s
/-- `MARCH_FRAME`. -/
def execMarchFrame (k : Nat) (cells : List Nat) (hold waits : Nat) (s : State) : Outcome State Fault Refusal := onNode (marchFrame k cells hold waits) s

end Sys2Proof.Machine
end

