-- ==== Sys2Proof/Machine/Ports.lean ====
section
/-! DEFINITION. Fabric ports and board links (14, R412): coming up and going down, modules, neighbours, frames that are no QST packet, the board link protocol. -/

namespace Sys2Proof.Machine

open Host (Outcome)

/-- Has start-up reached a phase, and not failed (R422). -/
def phaseFrom (n : Node) (k : Nat) : Bool := k ≤ rd n Rg.nidBootPhase && rd n Rg.nidBootPhase != 0xE

/-- Note a part of the node as trained: class 0 stacks, 1 host port halves, 2 flash root ports, 3 board links, 4 fabric ports. -/
def noteTrained (n : Node) (cls k : Nat) : Node :=
  if n.brd.trained.contains (cls, k) then n else { n with brd := { n.brd with trained := n.brd.trained ++ [(cls, k)] } }

/-- Note it as not trained. -/
def noteUntrained (n : Node) (cls k : Nat) : Node := { n with brd := { n.brd with trained := n.brd.trained.filter (· != (cls, k)) } }

/-! ## Fabric ports (R293 to R296) -/

/-- May a port start its link: enabled, with a medium, its module present, not shed, the unit not being retrained. -/
def portMayStart (n : Node) (p : Nat) : Bool :=
  phaseFrom n 3 && rdB n (Rg.qstPortCfgEn p) && rd n (Rg.qstPortCfgMedia p) != 3 && !n.qst.absent.contains p && !rdB n (Rg.qstPortStatusShed p)

/-- The fabric prefix that `QST_PFX` holds (R297). -/
def prefixOf (n : Node) : Nat := rd n Rg.qstPfxLoPfx + rd n Rg.qstPfxHiPfx * 2 ^ 32

/-- `PORT_UP` (R296, R297): the link has started and carries traffic; the prefix takes effect. -/
def portUp (p : Nat) (n : Node) : Node :=
  if !portMayStart n p || rdB n (Rg.qstPortStatusUp p) || n.svc.recal.any (·.unit == p) then n
  else
    let n1 := noteTrained (wr (wr n (Rg.qstPortStatusUp p) 1) (Rg.qstPortStatusLowpwr p) 0) 4 p
    { n1 with qst := { n1.qst with pfx := mset n1.qst.pfx p (prefixOf n) } }

/-- Take a port down (R296). Frames leave the model's ports at once, so none is queued. DESIGN CHOICE: log entry 31. -/
def portOff (t : Tck) (n : Node) (p : Nat) : Node :=
  if rdB n (Rg.qstPortStatusUp p) then raise t (wr n (Rg.qstPortStatusUp p) 0) evPortDown (leBytes 1 p) else n

/-- `PORT_DOWN`. -/
def portDown (p : Nat) (t : Tck) (n : Node) : Node := portOff t n p

/-- Put a port's module in low-power mode, or take it out (R294, R296). -/
def modulePower (n : Node) (p : Nat) (low : Bool) : Node :=
  if rd n (Rg.qstPortCfgMedia p) = 2 && rdB n (Rg.qstPortStatusLowpwr p) != low then emit (wr n (Rg.qstPortStatusLowpwr p) (b2n low)) (.modulePower p low) else n

/-- Shed FP4 to FP7 (R296, R398). -/
def portsShed (t : Tck) (n : Node) : Node := [4, 5, 6, 7].foldl (fun m p => wr (modulePower (portOff t m p) p true) (Rg.qstPortStatusShed p) 1) n

/-- End the shedding of FP4 to FP7: their links start again. -/
def portsBack (n : Node) : Node := [4, 5, 6, 7].foldl (fun m p => wr (modulePower m p (!rdB m (Rg.qstPortCfgEn p))) (Rg.qstPortStatusShed p) 0) n

/-- Apply a change of `QST_PORT_CFG[p].EN` (R294). -/
def portEnable (t : Tck) (n : Node) (p : Nat) : Node :=
  if rdB n (Rg.qstPortCfgEn p) then (if rdB n (Rg.qstPortStatusShed p) then n else modulePower n p false) else modulePower (portOff t n p) p true

/-- `MODULE_INTERRUPT` (R294): the flags read name a fault, a loss of signal or lock, or none; a module may be gone. -/
def moduleInterrupt (p : Nat) (flag : Option (BitVec 16)) (removed : Bool) (t : Tck) (n : Node) : Node :=
  if rd n (Rg.qstPortCfgMedia p) != 2 || n.qst.absent.contains p then n
  else
    match flag with
    | none => n
    | some f =>
      let n1 := portOff t (raise t n evPortModule (leBytes 1 p ++ leBytes 2 f.toNat)) p
      if removed then { n1 with qst := { n1.qst with absent := p :: n1.qst.absent } } else n1

/-- Record a rejected device and the reason (R414): DDR5 channels are devices 0 to 11, flash slots 16 to 23, fabric ports 32 to 39. -/
def idReject (t : Tck) (n : Node) (dev reason : Nat) : Node := raise t n evIdReject (leBytes 1 dev ++ leBytes 1 reason)

/-- Take the identity of a module (R413 table, R414): passive copper, any other module, or one without an 800 Gb/s application, which is not used. -/
def takeModule (t : Tck) (n : Node) (p : Nat) (copper ok : Bool) : Node :=
  if ok then
    let n1 := wr n (Rg.qstPortCfgMedia p) (if copper then 0 else 2)
    { n1 with qst := { n1.qst with absent := n1.qst.absent.filter (· != p) } }
  else
    let n1 := idReject t n (32 + p) 9
    { n1 with qst := { n1.qst with absent := p :: n1.qst.absent.filter (· != p) } }

/-- `MODULE_INSERTION` (R294): the identity of a reinserted module is read and its link started. -/
def moduleInsertion (p : Nat) (copper ok : Bool) (t : Tck) (n : Node) : Node :=
  if phaseFrom n 3 && n.qst.absent.contains p then
    let n1 := takeModule t n p copper ok
    if ok && !rdB n1 (Rg.qstPortStatusShed p) && rdB n1 (Rg.qstPortCfgEn p) then modulePower n1 p false else n1
  else n

/-! ## Neighbours and other packets (R295, R297, R298) -/

/-- The node address on a port, as a 128-bit number. -/
def nodeAddr (n : Node) (p : Nat) : Nat := mgetD n.qst.pfx p (prefixOf n) * 2 ^ 64 + nodeId n

/-- The modified EUI-64 identifier of a MAC address. -/
def eui64 (mac : Nat) : Nat := (mac / 2 ^ 24 * 2 ^ 40 + 0xFFFE000000 + mac % 2 ^ 24) ^^^ 2 ^ 57

/-- A link-local address with an interface identifier. -/
def linkLocal (iid : Nat) : Nat := 0xFE80 * 2 ^ 112 + iid

/-- Does a port answer for an address: the node's, or its own link-local one. -/
def ownAddr (n : Node) (p a : Nat) : Bool := a == nodeAddr n p || a == linkLocal (eui64 (Config.portMac p))

/-- Discard a frame and count it. -/
def discard (n : Node) (p : Nat) : Node := bump n (Rg.qstPortRxDropOther p) 1

/-- `NEIGHBOR_SOLICITATION`. -/
def neighborSol (p target : Nat) (n : Node) : Node :=
  if !rdB n (Rg.qstPortStatusUp p) then n else if ownAddr n p target then emit n (.neighborAdv p target) else discard n p

/-- `NEIGHBOR_ADVERTISEMENT`: the router's gives the MAC address that the port sends to. -/
def neighborAdv (p target mac : Nat) (n : Node) : Node :=
  if !rdB n (Rg.qstPortStatusUp p) then n
  else if target = linkLocal (rd n (Rg.qstPortGwLoIid p) + rd n (Rg.qstPortGwHiIid p) * 2 ^ 32) then { n with qst := { n.qst with mac := mset n.qst.mac p mac } }
  else discard n p

/-- `ECHO_REQUEST`. -/
def echoRequest (p dst src : Nat) (data : Bytes) (n : Node) : Node :=
  if !rdB n (Rg.qstPortStatusUp p) then n else if ownAddr n p dst then emit n (.echoReply p src data) else discard n p

/-- `NON_QST_FRAME`. -/
def nonQst (p : Nat) (f : BadFrame) (n : Node) : Node :=
  if !rdB n (Rg.qstPortStatusUp p) then n
  else
    match f with
    | .tooBig => { n with qst := { n.qst with tooBig := mset n.qst.tooBig p (mgetD n.qst.tooBig p 0 + 1) } }
    | _ => discard n p

/-! ## Board links (R323, R324, R412) -/

/-- A board link goes down: its replay buffer is discarded, and it may retrain once. -/
def blOff (t : Tck) (n : Node) (b : Nat) : Node :=
  if rdB n (Rg.qstBlStatusUp b) then
    raise t (noteUntrained (setBlink (wr n (Rg.qstBlStatusUp b) 0) b ⟨0, 0, [], [], 0, 0, false, false⟩) 3 b) evBlDown (leBytes 1 b)
  else n

/-- `BOARD_LINK_DOWN`: a lane is lost. -/
def boardLinkDown (b : Nat) (t : Tck) (n : Node) : Node := blOff t n b

/-- `BOARD_LINK_TRAINING` (R412): what the ends exchanged, as node, domain and whether the peer is a TQ96; none when training fails. -/
def boardLinkTraining (b : Nat) (peer : Option (Nat × Nat × Bool)) (t : Tck) (n : Node) : Node :=
  let x := blinkOf n b
  if rdB n (Rg.qstBlStatusUp b) || !phaseFrom n 3 || x.retrained || n.svc.recal.any (·.unit == 8 + b) then n
  else
    let spent := if phaseFrom n 4 then setBlink n b { x with retrained := true } else n
    match peer with
    | none => spent
    | some (node, domain, tq) =>
      if tq && domain == rd n Rg.nidNodeDomain then
        noteTrained (setBlink (wr (wr n (Rg.qstBlStatusPeer b) node) (Rg.qstBlStatusUp b) 1) b ⟨0, 0, [], [], 0, 0, false, false⟩) 3 b
      else raise t spent evBlPeerReject (leBytes 1 b)

/-- Credits that come back for a channel. -/
def addCredits (x : BLink) (vc k : Nat) : BLink := { x with credits := mset x.credits vc (mgetD x.credits vc 256 + k) }

/-- `QBL_FRAME` (R323): a frame with a good CRC. A segment out of order, while a replay is awaited, is not taken. -/
def qblFrame (b vc lseq credits : Nat) (body : QblBody) (tagOk : Bool) (t : Tck) (n : Node) : Node :=
  if !rdB n (Rg.qstBlStatusUp b) then n
  else
    let x := addCredits (blinkOf n b) (vc % 4) credits
    let n0 := setBlink n b x
    match body with
    | .ack k => setBlink n b { x with buf := x.buf.dropWhile fun e => decide ((k + 4096 - e.1) % 4096 < 2048) }
    | .credit => n0
    | .qst s =>
      if lseq != x.rx then n0
      else
        let n1 := emit (setBlink n0 b { x with rx := (x.rx + 1) % 4096, waiting := false }) (.qblAck b lseq)
        arrive t (emit n1 (.qblCredit b (vc % 4) (cdiv (segLen s) 256))) (.bl (Fin.ofNat 6 b)) s tagOk

/-- Count a replay of a link; more than eight in a tick take it down. -/
def countReplay (t : Tck) (n : Node) (b : Nat) : Node :=
  let x := blinkOf n b
  let k := if x.replTick = t.tick then x.replCount + 1 else 1
  let n1 := bump (setBlink n b { x with replTick := t.tick, replCount := k }) (Rg.qstBlStatusReplays b) 1
  if 8 < k then blOff t n1 b else n1

/-- `QBL_REPLAY` (R323): a frame arrived with a bad CRC, and its replay is asked for; or the peer asks for a replay from a sequence number. -/
def qblReplay (b : Nat) (asked : Option Nat) (t : Tck) (n : Node) : Node :=
  if !rdB n (Rg.qstBlStatusUp b) then n
  else
    let n1 := countReplay t n b
    if !rdB n1 (Rg.qstBlStatusUp b) then n1
    else
      let x := blinkOf n1 b
      match asked with
      | none => emit (setBlink n1 b { x with waiting := true }) (.qblReplay b x.rx)
      | some k => (x.buf.dropWhile fun e => decide (e.1 ≠ k % 4096)).foldl (fun m e => emit m (.qblFrame b e.2.1 e.1 e.2.2)) n1

/-- `PORT_UP`. -/
def execPortUp (p : Fin 8) (s : State) : Outcome State Fault Refusal := onNode (fun _ => portUp p.val) s
/-- `PORT_DOWN`. -/
def execPortDown (p : Fin 8) (s : State) : Outcome State Fault Refusal := onNode (portDown p.val) s
/-- `MODULE_INTERRUPT`. -/
def execModuleInterrupt (p : Fin 8) (flag : Option (BitVec 16)) (removed : Bool) (s : State) : Outcome State Fault Refusal :=
  onNode (moduleInterrupt p.val flag removed) s
/-- `MODULE_INSERTION`. -/
def execModuleInsertion (p : Fin 8) (copper ok : Bool) (s : State) : Outcome State Fault Refusal := onNode (moduleInsertion p.val copper ok) s
/-- `NEIGHBOR_SOLICITATION`. -/
def execNeighborSolicitation (p : Fin 8) (target : BitVec 128) (s : State) : Outcome State Fault Refusal := onNode (fun _ => neighborSol p.val target.toNat) s
/-- `NEIGHBOR_ADVERTISEMENT`. -/
def execNeighborAdvertisement (p : Fin 8) (target : BitVec 128) (mac : BitVec 48) (s : State) : Outcome State Fault Refusal :=
  onNode (fun _ => neighborAdv p.val target.toNat mac.toNat) s
/-- `ECHO_REQUEST`. -/
def execEchoRequest (p : Fin 8) (dst src : BitVec 128) (data : Bytes) (s : State) : Outcome State Fault Refusal :=
  onNode (fun _ => echoRequest p.val dst.toNat src.toNat data) s
/-- `NON_QST_FRAME`. -/
def execNonQstFrame (p : Fin 8) (f : BadFrame) (s : State) : Outcome State Fault Refusal := onNode (fun _ => nonQst p.val f) s
/-- `QBL_FRAME`. -/
def execQblFrame (b : Fin 6) (vc : BitVec 2) (lseq : BitVec 12) (credits : BitVec 16) (body : QblBody) (tagOk : Bool) (s : State) :
    Outcome State Fault Refusal :=
  onNode (qblFrame b.val vc.toNat lseq.toNat credits.toNat body tagOk) s
/-- `QBL_REPLAY`. -/
def execQblReplay (b : Fin 6) (asked : Option Nat) (s : State) : Outcome State Fault Refusal := onNode (qblReplay b.val asked) s
/-- `BOARD_LINK_DOWN`. -/
def execBoardLinkDown (b : Fin 6) (s : State) : Outcome State Fault Refusal := onNode (boardLinkDown b.val) s
/-- `BOARD_LINK_TRAINING`. -/
def execBoardLinkTraining (b : Fin 6) (peer : Option (Nat × Nat × Bool)) (s : State) : Outcome State Fault Refusal :=
  onNode (boardLinkTraining b.val peer) s

end Sys2Proof.Machine
end

