-- ==== Sys2Proof/Machine/Recorder.lean ====
section
/-! DEFINITION. The event recorder (20): rate windows, the 64-record buffer, records in the SPI NOR, clearing and reading. -/

namespace Sys2Proof.Machine

open Host (Outcome)

/-- Change the service block. -/
def modSvc (n : Node) (f : Svc → Svc) : Node := { n with svc := f n.svc }

/-- Slots of the recorder region (R417). -/
abbrev evrSlots : Nat := 16384

/-- Codes the rate limit never holds back (R440). -/
def unlimited (code : Nat) : Bool := [evTimeStep, evHalt, evBootFail, evTenantKeysDestroyed, evUpdateSwitch, evEvrCleared].contains code

/-- One 32-byte record (R438). -/
def evrRecord (n : Node) (e : Event) (seq supp : Nat) (cont : Bool) (arg : Bytes) : Bytes :=
  leBytes 4 seq ++ leBytes 2 e.code ++ leBytes 1 (b2n e.ambig + 2 * b2n cont) ++ leBytes 1 (min supp 255)
    ++ leBytes 4 n.svc.hours ++ leBytes 4 n.svc.cycles ++ leBytes 8 e.time ++ padTo 8 arg

/-- The 8-byte parts of an event's arguments, one at least. -/
def evrArgs (a : Bytes) : List Bytes := if a.isEmpty then [[]] else chunksOf 8 a.length a

/-- Program one record, which takes the next sequence count; a full region takes none. -/
def programOne (e : Event) (supp : Nat) (n : Node) (x : Nat × Bytes) : Node :=
  if evrSlots ≤ n.svc.slots.length then n
  else modSvc n fun s => { s with slots := s.slots ++ [evrRecord n e s.seqNext (if x.1 = 0 then supp else 0) (x.1 != 0) x.2], seqNext := (s.seqNext + 1) % 2 ^ 32 }

/-- Program an event's record and its continuations, without interleaving (R438); with every slot taken the event is dropped and counted (R441). -/
def program (n : Node) (e : Event) (supp : Nat) : Node :=
  if evrSlots ≤ n.svc.slots.length then bump n Rg.evrStatusDropped 1
  else
    let l := evrArgs e.args
    ((List.range l.length).map fun i => (i, l.getD i [])).foldl (programOne e supp) n

/-- An event that passes its rate limit: into the buffer while the region is erased, else into the region (R441, R442). -/
def admitEvent (n : Node) (e : Event) : Node :=
  let supp := mgetD n.svc.supp e.code 0
  if rdB n Rg.evrStatusClearing then
    if 64 ≤ n.svc.buffer.length then bump n Rg.evrStatusDropped 1
    else modSvc n fun s => { s with buffer := s.buffer ++ [(e, supp)], supp := mdel s.supp e.code }
  else program (modSvc n fun s => { s with supp := mdel s.supp e.code }) e supp

/-- The rate window an event falls in (R440). -/
def rateWindow (t : Tck) (n : Node) (e : Event) : Nat := e.time / unitsPerTick t.cur / max 1 (rd n Rg.evrRateWindow)

/-- Take one event: at most LIMIT records of its code in a window, further ones add to its pending SUPP (R440). -/
def takeEvent (t : Tck) (n : Node) (e : Event) : Node :=
  let w := rateWindow t n e
  let c := match mget? n.svc.winCnt e.code with
    | some (k, c) => if k = w then c else 0
    | none => 0
  if !unlimited e.code && rd n Rg.evrRateLimit ≤ c then modSvc n fun s => { s with supp := mset s.supp e.code (mgetD s.supp e.code 0 + 1) }
  else admitEvent (modSvc n fun s => { s with winCnt := mset s.winCnt e.code (w, c + 1) }) e

/-- Events that wait in the 64-record buffer; those that found it full are dropped and counted (R21, R441). The buffer empties only as the recorder takes from it, so
the events beyond its room are those that arrived while it was full. -/
def settleEvents (n : Node) : Node :=
  let room := 64 - n.svc.buffer.length
  if n.svc.arrivals.length ≤ room then n
  else bump (modSvc n fun s => { s with arrivals := s.arrivals.take room }) Rg.evrStatusDropped (n.svc.arrivals.length - room)

/-- `EVENT_RECORD` (R438, R440, R441): the first event that waits at the recorder interface. -/
def eventRecord (t : Tck) (n : Node) : Node :=
  let n := settleEvents n
  match n.svc.arrivals with
  | [] => n
  | e :: l => takeEvent t (modSvc n fun s => { s with arrivals := l }) e

/-- Record every event that waits. -/
def recordAll (t : Tck) (n : Node) : Node :=
  let n := settleEvents n
  n.svc.arrivals.foldl (takeEvent t) (modSvc n fun s => { s with arrivals := [] })

/-- `EVR_CLEAR` (R442): from the management path, while no erase runs. -/
def evrClear (src : Req) (n : Node) : Node :=
  match src with
  | .mgmt => wr n Rg.evrStatusClearing 1
  | _ => n

/-- `EVR_CLEAR_DONE` (R442): `EV_EVR_CLEARED` with the records erased and DROPPED, then DROPPED is zeroed and the buffered events follow. -/
def evrClearDone (t : Tck) (n : Node) : Node :=
  if !rdB n Rg.evrStatusClearing then n
  else
    let n := settleEvents n
    let e : Event := ⟨evEvrCleared, leBytes 2 n.svc.slots.length ++ leBytes 2 (rd n Rg.evrStatusDropped), t.now, t.u,
      ambig (rd n Rg.evrRateWindow * unitsPerTick t.cur) t.now t.u⟩
    let n1 := modSvc (wr (wr n Rg.evrStatusClearing 0) Rg.evrStatusDropped 0) fun s => { s with slots := [], buffer := [], supp := mdel s.supp evEvrCleared }
    n.svc.buffer.foldl (fun m x => program m x.1 x.2) (program n1 e (mgetD n.svc.supp evEvrCleared 0))

/-- A slot as it reads: erased bytes are 0xFF. -/
def evrSlot (n : Node) (k : Nat) : Bytes := n.svc.slots.getD k (List.replicate 32 0xFF)

/-- Copy 4-byte words of a record into data registers. -/
def copyWords (n : Node) (fld : Nat → Fld) (k : Nat) (b : Bytes) : Node := (List.range k).foldl (fun m w => wr m (fld w) (field b (4 * w) 4)) n

/-- `EVR_RD_SEL_WRITE` (R442). -/
def evrRdSel (v : Nat) (src : Req) (n : Node) : Node :=
  match src with
  | .mgmt => copyWords (wr n Rg.evrRdSelSlot v) Rg.evrRdDataData 8 (evrSlot n (v % evrSlots))
  | _ => n

/-- `EVENT_RECORD`. -/
def execEventRecord (s : State) : Outcome State Fault Refusal := onNode eventRecord s
/-- `EVR_CLEAR`. -/
def execEvrClear (src : Req) (s : State) : Outcome State Fault Refusal := onNode (whenOpen (fun _ => evrClear src)) s
/-- `EVR_CLEAR_DONE`. -/
def execEvrClearDone (s : State) : Outcome State Fault Refusal := onNode evrClearDone s
/-- `EVR_RD_SEL_WRITE`. -/
def execEvrRdSelWrite (v : Word) (src : Req) (s : State) : Outcome State Fault Refusal := onNode (whenOpen (fun _ => evrRdSel v.toNat src)) s

end Sys2Proof.Machine
end

