-- ==== Sys2Proof/Machine/Counters.lean ====
section
/-! DEFINITION. The fields that count (R387, R388): those of type ROC, and the RO fields that the tables give as a number of things, a rate, a depth, a backlog or a
high-water mark. -/

namespace Sys2Proof.Machine

/-- RO and RW fields that count, by the base offset of their register and their low bit. -/
def countFields : List (Nat × Nat) :=
  [(0x200044, 0), (0x104000, 0), (0x104008, 0), (0x10400C, 0), (0x308000, 0), (0x500014, 0), (0x30C100, 0), (0x30C104, 0), (0x30C108, 0),
   (0x600000, 5), (0x600004, 10), (0x610000, 0), (0x700000, 0), (0x700004, 0), (0x800004, 0), (0x800004, 12), (0x800320, 0), (0x800320, 8), (0x800320, 16),
   (0x900404, 0), (0x900404, 8), (0x900404, 16), (0xA00000, 0), (0xB00040, 16), (0xB00200, 0), (0xC00200, 0), (0xD01008, 0), (0xD01008, 16), (0xD0100C, 0),
   (0xD01010, 0), (0xE00018, 0), (0xE0001C, 0), (0x1000204, 16), (0x1200000, 0), (0x1200004, 0), (0x1200040, 0), (0x1200044, 0), (0x1204018, 0)]

/-- Does a field of a register count. -/
def countsOf (d : RegDef) (f : FieldDef) : Bool := f.ty == .roc || countFields.contains (d.base, f.lo)

/-- The words of a register with its counting fields at their reset values. -/
def clearCounts (off v : Nat) : Nat :=
  match regAt off with
  | none => v
  | some d => (d.fields.filter (countsOf d)).foldl (fun x f => putBits x f.lo f.w f.reset) v

/-- Every counter of the performance, admission and block registers at its reset value, the event recorder kept; selections and enables of the performance
units as well (R387, R436). -/
def resetCounters (n : Node) : Node :=
  let keep (off : Nat) : Bool := 0x1100000 ≤ off && off < 0x1200000
  let pmcSel (off : Nat) : Bool := 0x1200000 ≤ off && off < 0x1204010
  { n with
    bank := (n.bank.filter fun e => !pmcSel e.1).map fun e => if keep e.1 then e else (e.1, BitVec.ofNat 32 (clearCounts e.1 e.2.toNat))
    svc := { n.svc with pmc := [] } }

end Sys2Proof.Machine
end

