-- ==== Sys2Proof/Machine/Security.lean ====
section
/-! DEFINITION. The security core (17): tenants, keys, binding, records and statements, attestation, the removal of a tenant. -/

namespace Sys2Proof.Machine

open Host (Outcome)

/-- Change the security core. -/
def modSec (n : Node) (f : Sec → Sec) : Node := { n with sec := f n.sec }

/-- The handle that stands for a close no command asked for: no handle has its value. DESIGN CHOICE, safe: log entry 38. -/
abbrev noHandle : Nat := 2 ^ 32

/-! ## Ending everything at once (R385, R400) -/

/-- Take every command but one out of the engines. -/
def quiet (n : Node) (keep : Option Nat) : Node :=
  let stays (h : Nat) : Bool := keep == some h
  { n with
    att := { n.att with steps := [], shares := [], items := [], rowsIn := [], blocks := [], bound := [], tileJobs := [], planned := [] }
    cfl := { n.cfl with chains := [], hosts := n.cfl.hosts.filter fun c => stays c.handle }
    bsu := { n.bsu with
      units := n.bsu.units.map fun u => (u.1, { u.2 with area := [], run := none })
      frames := n.bsu.frames.filterMap fun f => if f.2 = 4 then none else some (f.1, if f.2 = 5 then 1 else f.2)
      jobs := [], owns := [] }
    ter := { n.ter with moves := [], busy := [], jobs := [], allocWait := [], fullTold := [] }
    seqs := { n.seqs with snaps := [], copies := [], applied := [] }
    wts := { n.wts with jobs := [], uses := [], evicts := [] }
    pdx := { n.pdx with job := none }
    map := { n.map with waits := n.map.waits.filter (fun w => stays w.handle), drains := n.map.drains.filter fun d => stays d.handle }
    sec := { n.sec with held := [] }
    mic := { n.mic with retiring := n.mic.retiring.map fun r => { r with handle := none } }
    svc := { n.svc with march := n.svc.march.filter (fun m => m.why != 0), recal := n.svc.recal.filter (·.dead), commit := none } }

/-- Complete every outstanding command but one with a status; nothing of them goes on. -/
def endAll (t : Tck) (n : Node) (keep : Option Nat) (status : Nat) : Node :=
  (n.fe.cmds.filter fun c => keep != some c.handle).foldl (fun m c => complete t m c.handle status []) (quiet n keep)

/-! ## Keys (R371, R385) -/

/-- Set what `SEC_SLOT[k]` shows. -/
def showSlot (n : Node) (k st : Nat) : Node := wr n (Rg.secSlotState k) st

/-- Install a transport key. -/
def putSlot (n : Node) (k st : Nat) (key : Bytes) : Node :=
  wr (showSlot (modSec n fun s => { s with slots := mset s.slots k ⟨key, 0, none, none⟩ }) k st) (Rg.secSlotExhausted k) 0

/-- Destroy the key of a slot, which becomes EMPTY (R304, R371). -/
def emptySlot (n : Node) (k : Nat) : Node :=
  slotEmptied (wr (showSlot (modSec n fun s => { s with slots := mdel s.slots k }) k 0) (Rg.secSlotExhausted k) 0) k

/-- Destroy every key of R371. -/
def destroyKeys (n : Node) : Node :=
  let n1 := (mkeys n.sec.slots).foldl emptySlot n
  let n2 := modSec n1 fun s => { s with storage := none, authPub := [], bind := [] }
  { n2 with wts := { n2.wts with sets := n2.wts.sets.map fun e => (e.1, if imgEncrypted e.2.image then { e.2 with bound := false } else e.2) } }

/-- The tenant is gone: EMPTY, no tenant ID. -/
def setEmpty (n : Node) : Node := wr (wr (wr n Rg.secStatusState tsEmpty) Rg.secStatusSeal 0) Rg.secStatusTenant 0

/-! ## Opening and sealing (R364 to R366) -/

/-- Does a bundle keep the layout of R365. -/
def bundleOk (b : Bytes) (tenant : Nat) : Bool :=
  let k := byteAt b 6
  field b 0 4 == 0x544E4254 && field b 4 2 == tenant && 1 ≤ k && k ≤ 4 && byteAt b 7 == 0 && allZero (slice b 200 8) && b.length == 280 + 32 * k

/-- The keys of a bundle: the storage key, then its transport keys. -/
def bundleKeys (b : Bytes) : Option Bytes :=
  match Config.unwrap (slice b 104 96) (b.take 8) (b.drop 208) with
  | some x => if x.length = 64 + 32 * byteAt b 6 then some x else none
  | none => none

/-- A bundle is installed: OPENING, its keys in slots 1 to SLOTS as ACTIVE. -/
def installBundle (n : Node) (c : Cmd) (b keys : Bytes) : Node :=
  let n1 := (List.range (byteAt b 6)).foldl (fun m i => putSlot m (i + 1) 2 (slice keys (64 + 32 * i) 32)) n
  let n2 := modSec n1 fun s => { s with storage := some (keys.take 64), authPub := slice b 8 96, opening := some (c.handle, c.accTick) }
  setRunning (wr (wr n2 Rg.secStatusState tsOpening) Rg.secStatusTenant (c.f 24 2)) c.handle

/-- `TENANT_OPEN`. -/
def tenantOpen (h : Nat) (t : Tck) (n : Node) : Node :=
  withCmd n h opTenantOpen fun c =>
    checked t n c (offIf (c.f 24 2 == 0) 24 ++ rsv c 26 31 ++ rsv c 44 63)
      (if tenantState n != tsEmpty then complete t n h stDenied []
       else
         let b := if c.f 40 4 ≤ 408 then hostRead n c.mem (c.f 32 8) (c.f 40 4) else []
         match (if bundleOk b (c.f 24 2) then bundleKeys b else none) with
         | some keys => installBundle n c b keys
         | none => complete t (raise t n evTenantOpenFail []) h stDenied [])

/-- Values of the SL fields in ascending register offset (R366). -/
def slValues (n : Node) : List Nat :=
  regTable.flatMap fun d =>
    if d.fields.any fun f => f.ty == .sl then
      (List.range d.n1).flatMap fun i => (List.range d.n2).flatMap fun j =>
        (d.fields.filter fun f => f.ty == .sl).map fun f => bits (n.bank.get (d.base + i * d.s1 + j * d.s2)) f.lo f.w
    else []

/-- `SEAL`: written from the management path in OPENING. -/
def sealTenant (src : Req) (t : Tck) (n : Node) : Node :=
  match src, n.sec.opening with
  | .mgmt, some (h, _) =>
    if tenantState n != tsOpening then n
    else
      let n1 := modSec n fun s => { s with opening := none, meas := mset s.meas 7 (sha384 (Config.encodeFields 7 (slValues n))) }
      let n2 := wr (wr n1 Rg.secStatusState tsSealed) Rg.secStatusSeal 1
      forwardChanges (complete t n2 h stOk []) (ownProposal n2 [.tenant (nodeId n2) (rd n2 Rg.secStatusTenant)])
  | _, _ => n

/-- Give up an open: its keys are destroyed. -/
def abortOpen (n : Node) : Node := setEmpty (modSec (destroyKeys n) fun s => { s with opening := none })

/-- `OPEN_SEAL_TIMEOUT`. -/
def openSealTimeout (t : Tck) (n : Node) : Node :=
  match n.sec.opening with
  | some (h, a) => if a + 65536 ≤ t.tick then complete t (abortOpen n) h stDeadline [] else n
  | none => n

/-! ## Removing a tenant (R384 to R387) -/

/-- Records of ticks not released. -/
def unreleased (n : Node) : Nat := ((n.sec.store.filter fun r => !r.released).map fun r => r.recs.length).foldl (· + ·) 0

/-- FORCE: slices revoked in the next epoch, extents revoked with every head named, unreleased records destroyed. -/
def forceClose (t : Tck) (n : Node) : Node :=
  let n1 := modSec n fun s => { s with destroyed := unreleased n, store := s.store.filter (·.released) }
  let ext (m : Node) (e : Nat) : Node := startRevoke t ((List.range 4).foldl (fun k h => emit k (.dcEvent h e false)) m) e 0xF
  let n2 := ((n1.cxd.exts.filter fun e => e.2.state != 0).map (·.1)).foldl ext n1
  if n2.map.map.slices.any fun s => s.node == nodeId n2 then forwardChanges n2 (ownProposal n2 [.revokeAll (nodeId n2)]) else n2

/-- `TENANT_CLOSE`: the close that its acceptance began (R363), or why it is refused. -/
def tenantClose (h : Nat) (t : Tck) (n : Node) : Node :=
  withCmd n h opTenantClose fun c =>
    if n.sec.closing.map (·.1) = some h then setRunning (if c.f 26 1 = 1 then forceClose t n else n) h
    else checked t n c (closeOffs n c) (complete t n h stDenied [])

/-- `FENCE_BEGIN`: at A+1.00. -/
def fenceBegin (t : Tck) (n : Node) : Node :=
  match n.sec.closing with
  | some (h, a) =>
    if n.sec.fenced || t.tick < a + 1 then n
    else
      let n1 := (mkeys n.sec.slots).foldl (fun m k => showSlot m k 3) n
      modSec (endAll t n1 (some h) stKeyRetired) fun s => { s with fenced := true }
  | none => n

/-- `KEY_DESTRUCTION`: at a notch boundary once the fence is complete, at the latest A+3.00. -/
def keyDestruction (t : Tck) (n : Node) : Node :=
  match n.sec.closing with
  | some (_, a) =>
    if !n.sec.fenced || tenantState n != tsFencing || t.now < t.at (a + 1) 1 then n
    else raise t (wr (destroyKeys n) Rg.secStatusState tsErasing) evTenantKeysDestroyed []
  | none => n

/-- Everything the tenant left is zeroed or cleared (R387). -/
def eraseNode (n : Node) : Node :=
  let n1 := resetCounters n
  { n1 with
    t1 := []
    seqs := Seqs.reset
    att := Att.reset
    cfl := Cfl.reset
    cvt := Cvt.reset
    bsu := Bsus.reset
    ter := Ter.reset
    wts := Wts.reset
    pdx := Pdx.reset
    cxd := { n1.cxd with exts := [], dir := [], snoops := [], reqs := [], job := none, zeroing := [], direct := [], pub := none }
    qst := { n1.qst with qps := [], held := [], pds := [], mrs := [], cache := [], fetching := [], waiting := [] }
    mic := { n1.mic with poison := [], poison3 := [], poisonD := [] }
    sch := { n1.sch with qs := n1.sch.qs.map fun e => (e.1, { e.2 with rate := 0, disp := 0, delay := 0 }) }
    sec := { n1.sec with store := [], held := [], lowTold := false, closing := none, fenced := false }
    svc := { n1.svc with trace := [] } }

/-- A forced token that waited for the tenant to be gone becomes active (R443). -/
def tokenNow (t : Tck) (n : Node) : Node :=
  match n.svc.tokenWait with
  | none => n
  | some k => raise t { n with svc := { n.svc with token := some k, tokenWait := none } } evMonUnlock []

/-- `ERASE_DONE`: EMPTY, and the close completes; fine grants end with the tenant (R390). -/
def eraseDone (t : Tck) (n : Node) : Node :=
  match n.sec.closing with
  | some (h, a) =>
    if tenantState n != tsErasing then n
    else
      let n1 := recShow t (wr (setEmpty (eraseNode n)) Rg.secFineGrant 0)
      let n2 := tokenNow t (forwardChanges n1 (ownProposal n1 [.tenant (nodeId n1) 0]))
      complete t n2 h stOk (leBytes 4 (t.tick - a) ++ leBytes 4 n.sec.destroyed)
  | none => n

/-! ## The record store (R381 to R383) -/

/-- `TICK_STATEMENT_SIGN`: a tick that is over has its statement signed with the Alias in force in it (R381, R429). -/
def statementSign (k : Nat) (t : Tck) (n : Node) : Node :=
  match n.sec.store.find? (·.tick == k) with
  | some r =>
    if t.tick ≤ k || r.sig.isSome then n
    else
      let (x, n1) := takeFree n
      let sig := padTo 96 (Config.aliasSign (aliasMeas n k) x (recStatement n r))
      modSec n1 fun s => { s with store := lmodify s.store (·.tick == k) fun y => { y with sig := some sig } }
  | none => n

/-- Is a tick not yet signed: not over, or with a tree and no signature. -/
def unsigned (t : Tck) (n : Node) (k : Nat) : Bool :=
  t.tick ≤ k || n.sec.store.any fun r => r.tick == k && r.sig.isNone

/-- `RECORD_GET`. -/
def recordGet (h : Nat) (t : Tck) (n : Node) : Node :=
  withCmd n h opRecordGet fun c =>
    let first := c.f 24 8
    let ticks := c.f 32 2
    checked t n c (offIf (ticks == 0 || 1024 < ticks) 32 ++ offIf (1 < c.f 34 1) 34 ++ rsv c 35 39 ++ offIf (!mult (c.f 40 8) 64) 40 ++ rsv c 52 63)
      (let l := n.sec.store.filter fun r => first ≤ r.tick && r.tick < first + ticks && r.sig.isSome
       let b := l.flatMap fun r => recBlock n r (r.sig.getD [])
       if c.f 48 4 < b.length then complete t n h stBadParam (leBytes 1 48 ++ zeros 11 ++ leBytes 4 b.length)
       else
         let late := (((List.range ticks).map (first + ·)).find? (unsigned t n)).getD 0
         let res := leBytes 4 l.length ++ leBytes 4 (l.map fun r => r.recs.length).sum ++ leBytes 4 late
         let n1 := complete t (hostWrite n c.mem (c.f 40 8) b) h stOk res
         if c.f 34 1 = 1 then
           recShow t (modSec n1 fun s => { s with store := lmodify s.store (fun r => l.any fun x => x.tick == r.tick) fun r => { r with released := true } })
         else n1)

/-- `HELD_COMPLETION_RELEASE` (R383). -/
def heldRelease (t : Tck) (n : Node) : Node := releaseHeld t n.sec.held.length n

/-! ## Attestation (R369, R370) -/

/-- The report of `ATTEST` without its signature. -/
def report (t : Tck) (n : Node) (nonce : Bytes) : Bytes :=
  leBytes 4 0x54415454 ++ leBytes 2 8 ++ leBytes 2 (nodeId n) ++ leBytes 8 t.tick ++ padTo 32 nonce
    ++ (List.range 8).flatMap fun i => leBytes 1 (i + 1) ++ zeros 3 ++ measurement n (i + 1)

/-- A certificate chain preceded by its length. -/
def certWithLen (n : Node) (t : Tck) (slot : Nat) : Bytes :=
  let c := Config.certChain slot (aliasMeas n t.tick)
  leBytes 4 c.length ++ c

/-- `ATTEST`. DEDUCED: a length too small reports the length needed (R370, log entry 34); the secret number of the signature is free (log entry 23). -/
def attest (h : Nat) (t : Tck) (n : Node) : Node :=
  withCmd n h opAttest fun c =>
    checked t n c (offIf (!mult (c.f 32 8) 64) 32 ++ offIf (1 < c.f 44 1) 44 ++ rsv c 45 63)
      (let r := report t n (hostRead n c.mem (c.f 24 8) 32)
       let (x, n1) := takeFree n
       let b := r ++ padTo 96 (Config.aliasSign (aliasMeas n t.tick) x r) ++ (if c.f 44 1 = 1 then certWithLen n t 0 ++ certWithLen n t 1 else [])
       if c.f 40 4 < b.length then complete t n h stBadParam (leBytes 4 b.length)
       else complete t (hostWrite n1 c.mem (c.f 32 8) b) h stOk [])

/-- How far a requester has negotiated, and what it has sent. -/
def spdmOf (n : Node) (via : Nat) : Nat × Bytes := mgetD n.sec.spdm via (0, [])

/-- Answer an SPDM request that needs the phase given; `log` is what it adds to the transcript, `next` the phase it leaves. -/
def spdmAnswer (n : Node) (via needs next : Nat) (log : Bytes) (r : SpdmResp) : Node :=
  let (ph, tr) := spdmOf n via
  if ph < needs then emit n (.spdm via .error)
  else emit (modSec n fun s => { s with spdm := mset s.spdm via (max ph next, tr ++ log) }) (.spdm via r)

/-- `GET_VERSION` begins a new negotiation. -/
def getVersion (via : Nat) (n : Node) : Node :=
  emit (modSec n fun s => { s with spdm := mset s.spdm via (1, [0x84]) }) (.spdm via .version)

/-- `GET_CAPABILITIES`. -/
def getCapabilities (via : Nat) (n : Node) : Node := spdmAnswer n via 1 2 [0xE1] .capabilities

/-- `NEGOTIATE_ALGORITHMS`. -/
def negotiate (via : Nat) (n : Node) : Node := spdmAnswer n via 2 3 [0xE3] .algorithms

/-- The chain of a slot as it stands. -/
def chainNow (t : Tck) (n : Node) (slot : Nat) : Bytes := Config.certChain slot (aliasMeas n t.tick)

/-- `GET_DIGESTS`. -/
def getDigests (via : Nat) (t : Tck) (n : Node) : Node := spdmAnswer n via 3 3 [0x81] (.digests [sha384 (chainNow t n 0), sha384 (chainNow t n 1)])

/-- `GET_CERTIFICATE`. -/
def getCertificate (via slot off len : Nat) (t : Tck) (n : Node) : Node :=
  let c := chainNow t n slot
  spdmAnswer n via 3 3 (0x82 :: leBytes 1 slot) (if 1 < slot || c.length ≤ off then .error else .certificate slot (slice c off len) (c.length - off - len))

/-- The signature of a requester's transcript by Alias, with the responder's own nonce. -/
def spdmSign (t : Tck) (n : Node) (via : Nat) (log : Bytes) : Nat × Bytes × Node :=
  let (nonce, n1) := takeFree n
  let (x, n2) := takeFree n1
  (nonce, padTo 96 (Config.aliasSign (aliasMeas n t.tick) x ((spdmOf n via).2 ++ log ++ leBytes 32 nonce)), n2)

/-- `CHALLENGE`: slot 0, whose chain ends in Alias. -/
def challenge (via slot : Nat) (nonce : Bytes) (t : Tck) (n : Node) : Node :=
  let log := 0x83 :: (leBytes 1 slot ++ nonce)
  let (own, sig, n1) := spdmSign t n via log
  if slot = 0 then spdmAnswer n1 via 3 3 log (.challengeAuth 0 (sha384 (chainNow t n 0)) own sig) else spdmAnswer n via 3 3 log .error

/-- `GET_MEASUREMENTS`: all blocks (0xFF), one, or none (0). -/
def getMeasurements (via index : Nat) (signed : Bool) (nonce : Bytes) (t : Tck) (n : Node) : Node :=
  let log := 0xE0 :: (leBytes 1 index ++ nonce)
  let ks := if index = 0xFF then (List.range 8).map (· + 1) else if index = 0 then [] else [index]
  let blocks := ks.map fun k => (k, measurement n k)
  if index != 0xFF && 8 < index then spdmAnswer n via 3 3 log .error
  else if signed then
    let (own, sig, n1) := spdmSign t n via log
    spdmAnswer n1 via 3 3 log (.measurements blocks own (some sig))
  else
    let (own, n1) := takeFree n
    spdmAnswer n1 via 3 3 log (.measurements blocks own none)

/-! ## Slot operations (R371) -/

/-- May a requester operate the key slots: the management path, and host port halves while there is a tenant. -/
def mayKey (n : Node) (src : Req) : Bool :=
  match src with
  | .mgmt => true
  | .host _ _ => tenantState n != tsEmpty
  | .qp _ => false

/-- Set the result of a slot operation. -/
def keyResult (n : Node) (status : Nat) : Node := wr n Rg.secKeyStatusResult status

/-- A slot operation on a slot in the state it needs. -/
def onSlot (n : Node) (slot st : Nat) (src : Req) (body : Node) : Node :=
  if !mayKey n src || rdB n Rg.secKeyStatusBusy then n
  else if slot = 0 || 63 < slot || rd n (Rg.secSlotState slot) != st then keyResult n stBadParam
  else body

/-- `INSTALL`. -/
def install (slot : Nat) (src : Req) (n : Node) : Node :=
  onSlot n slot 0 src
    (let a := rd n Rg.secKeyAddrLoAddr + 2 ^ 32 * rd n Rg.secKeyAddrHiAddr
     let b := hostRead n (reqSpace src) a 136
     match Config.unwrap (b.take 96) (leBytes 2 (rd n Rg.secStatusTenant) ++ leBytes 1 slot ++ [0]) (b.drop 96) with
     | some key => keyResult (putSlot n slot 1 key) stOk
     | none => keyResult n stDenied)

/-- Change a slot. -/
def modSlot (n : Node) (k : Nat) (f : KeySlot → KeySlot) : Node := modSec n fun s => { s with slots := mmod s.slots k f }

/-- `ACTIVATE`: asked for; or its tick boundary, where the previous ACTIVE slots become RECEIVE. -/
def activate (ev : KeyEv) (t : Tck) (n : Node) : Node :=
  match ev with
  | .write slot src => onSlot n slot 1 src (keyResult (modSlot n slot fun k => { k with activate := some (t.tick + 1) }) stOk)
  | .boundary =>
    (n.sec.slots.filter fun e => match e.2.activate with | some k => k ≤ t.tick | none => false).foldl
      (fun m e =>
        let m1 := (mkeys m.sec.slots).foldl (fun x k => if rd x (Rg.secSlotState k) = 2 then showSlot x k 1 else x) m
        modSlot (if rd m (Rg.secSlotState e.1) = 1 then showSlot m1 e.1 2 else m) e.1 fun k => { k with activate := none })
      n

/-- `RETIRE`: asked for; or the boundary after the next, where the key is destroyed. -/
def retire (ev : KeyEv) (t : Tck) (n : Node) : Node :=
  match ev with
  | .write slot src => onSlot n slot 1 src (keyResult (showSlot (modSlot n slot fun k => { k with activate := none, destroyAt := some (t.tick + 2) }) slot 3) stOk)
  | .boundary =>
    (n.sec.slots.filter fun e => match e.2.destroyAt with | some k => k ≤ t.tick | none => false).foldl (fun m e => emptySlot m e.1) n

/-- `SEC_FINE_WRITE` (R390). -/
def fineWrite (v : Nat) (src : Req) (t : Tck) (n : Node) : Node :=
  match src with
  | .mgmt => wr n Rg.secFineGrant v
  | _ => raise t n evSecWriteIgnored (leBytes 4 Rg.secFineGrant.off)

/-! ## Weight binding (R247, R374 to R376) -/

/-- The member entries of a binding record. -/
def bindMembers (b : Bytes) : List Bytes := (List.range (field b 6 2)).map fun i => slice b (128 + 256 * i) 256

/-- Step 1: length, MAGIC, VERSION, reserved fields. -/
def bindShape (b : Bytes) : Bool :=
  let m := field b 6 2
  224 ≤ b.length && field b 0 4 == 0x44424E42 && field b 4 2 == 1 && 1 ≤ m && m ≤ 255 && b.length == 224 + 256 * m && allZero (slice b 56 8)
    && field b 64 2 < 256 && byteAt b 68 < 2 && allZero (slice b 69 11) && (bindMembers b).all fun e => allZero (e.drop 184)

/-- Step 5, on the policy kept: REQUIRE, MIN_SVN, PFLAGS, POLICY_DIGEST as bytes 64 to 127 of the record. -/
def policyMet (n : Node) (p : Bytes) : Bool :=
  let req := (List.range 8).filter fun i => bitAt (field p 0 2) i
  field p 2 2 ≤ rd n Rg.secSvnFwSvn && !(bitAt (byteAt p 4) 0 && (Config.debugFuse || n.svc.token.isSome))
    && slice p 16 48 == sha384 (req.flatMap fun i => measurement n (i + 1))

/-- The member entry of this node. -/
def myEntry (b : Bytes) : Option Bytes := (bindMembers b).find? fun e => e.take 48 == Config.bindIdHash

/-- The reason code of the first step that fails, or the binding key (R375). -/
def bindCheck (n : Node) (w : WSet) (b : Bytes) : Nat ⊕ Bytes :=
  if !bindShape b then .inl 6
  else if !Config.sigOk n.sec.authPub (b.take (b.length - 96)) (b.drop (b.length - 96)) then .inl 1
  else if slice b 8 48 != w.digest then .inl 2
  else
    match myEntry b with
    | none => .inl 3
    | some e =>
      if !policyMet n (slice b 64 64) then .inl 4
      else
        match Config.unwrap (slice e 48 96) (slice b 8 48) (slice e 144 40) with
        | some k => if k.length = 32 then .inr k else .inl 5
        | none => .inl 5

/-- Count and record a failed check. -/
def bindFail (t : Tck) (n : Node) (k reason : Nat) : Node :=
  raise t (wr (bump n Rg.secBindFailCount 1) Rg.secBindFailReason reason) evBindFail (leBytes 4 k ++ leBytes 1 reason)

/-- Expanded lengths of a variant, now readable, against those of its base (R245). -/
def lensDiffer (n : Node) (k : Nat) (w : WSet) : Bool :=
  match baseSet n w with
  | none => false
  | some b => b.bound && (List.range (imgTensors w.image)).any fun x =>
      (List.range (tensAt w.image x).blocks).any fun j => ixDlen (idxEnt n k w x j) != ixDlen (idxEnt n w.base b x j)

/-- `WEIGHTS_BIND`. -/
def weightsBind (h : Nat) (t : Tck) (n : Node) : Node :=
  withCmd n h opWeightsBind fun c =>
    let k := c.f 24 4
    let len := c.f 40 4
    checked t n c (offIf (setFor n c k).isNone 24 ++ rsv c 28 31 ++ offIf (len == 0 || 65536 < len) 40 ++ rsv c 44 63)
      (match setFor n c k with
       | none => n
       | some w =>
         if w.bound then complete t n h stOk []
         else
           let b := hostRead n c.mem (c.f 32 8) len
           match bindCheck n w b with
           | .inl r => complete t (bindFail t n k r) h stNotBound []
           | .inr key =>
             let n1 := modSec n fun s => { s with bind := mset s.bind k key }
             match firstOff (hiddenFaults n1 k w), lensDiffer n1 k w with
             | none, false => complete t (modSet n1 k fun x => withSecs n1 k { x with bound := true, policy := slice b 64 64 }) h stOk []
             | some o, _ => badParam t (raise t n evWsetBad (leBytes 4 k ++ leBytes 8 o)) h 32
             | none, true => badParam t n h 32)

/-- The commands that need a set or a variant of it. -/
def setUsers (n : Node) (k : Nat) : List Nat :=
  dedupNat ((n.wts.sets.filter fun e => e.1 == k || e.2.base == k).flatMap fun e => e.2.layers.flatMap (needers n e.1))

/-- Check every bound set again on the policy kept (R376): one that fails is unbound, its key destroyed, commands that stream it end. -/
def rebind (t : Tck) (n : Node) : Node :=
  (n.wts.sets.filter fun e => e.2.bound && imgEncrypted e.2.image).foldl
    (fun m e =>
      if policyMet m e.2.policy then m
      else
        let m1 := (setUsers m e.1).foldl (failWeights t stKeyRetired) (bindFail t m e.1 4)
        modSet (modSec m1 fun s => { s with bind := mdel s.bind e.1 }) e.1 fun x => { x with bound := false })
    n

/-! ## The commands -/

/-- `TENANT_OPEN`. -/
def execTenantOpen (h : Word) (s : State) : Outcome State Fault Refusal := onNode (tenantOpen h.toNat) s
/-- `SEAL`. -/
def execSeal (src : Req) (s : State) : Outcome State Fault Refusal := onNode (whenOpen (sealTenant src)) s
/-- `OPEN_SEAL_TIMEOUT`. -/
def execOpenSealTimeout (s : State) : Outcome State Fault Refusal := onNode openSealTimeout s
/-- `TENANT_CLOSE`. -/
def execTenantClose (h : Word) (s : State) : Outcome State Fault Refusal := onNode (tenantClose h.toNat) s
/-- `FENCE_BEGIN`. -/
def execFenceBegin (s : State) : Outcome State Fault Refusal := onNode fenceBegin s
/-- `KEY_DESTRUCTION`. -/
def execKeyDestruction (s : State) : Outcome State Fault Refusal := onNode keyDestruction s
/-- `ERASE_DONE`. -/
def execEraseDone (s : State) : Outcome State Fault Refusal := onNode eraseDone s
/-- `RECORD_GET`. -/
def execRecordGet (h : Word) (s : State) : Outcome State Fault Refusal := onNode (recordGet h.toNat) s
/-- `ATTEST`. -/
def execAttest (h : Word) (s : State) : Outcome State Fault Refusal := onNode (attest h.toNat) s
/-- `TICK_STATEMENT_SIGN`. -/
def execTickStatementSign (tick : Nat) (s : State) : Outcome State Fault Refusal := onNode (statementSign tick) s
/-- `HELD_COMPLETION_RELEASE`. -/
def execHeldCompletionRelease (s : State) : Outcome State Fault Refusal := onNode heldRelease s
/-- `INSTALL`. -/
def execInstall (slot : BitVec 6) (src : Req) (s : State) : Outcome State Fault Refusal := onNode (whenOpen (fun _ => install slot.toNat src)) s
/-- `ACTIVATE`. -/
def execActivate (ev : KeyEv) (s : State) : Outcome State Fault Refusal := onNode (whenOpen (activate ev)) s
/-- `RETIRE`. -/
def execRetire (ev : KeyEv) (s : State) : Outcome State Fault Refusal := onNode (whenOpen (retire ev)) s
/-- `SEC_FINE_WRITE`. -/
def execSecFineWrite (v : Word) (src : Req) (s : State) : Outcome State Fault Refusal := onNode (whenOpen (fineWrite v.toNat src)) s
/-- `GET_VERSION`. -/
def execGetVersion (via : Fin 5) (s : State) : Outcome State Fault Refusal := onNode (fun _ => getVersion via.val) s
/-- `GET_CAPABILITIES`. -/
def execGetCapabilities (via : Fin 5) (s : State) : Outcome State Fault Refusal := onNode (fun _ => getCapabilities via.val) s
/-- `NEGOTIATE_ALGORITHMS`. -/
def execNegotiateAlgorithms (via : Fin 5) (s : State) : Outcome State Fault Refusal := onNode (fun _ => negotiate via.val) s
/-- `GET_DIGESTS`. -/
def execGetDigests (via : Fin 5) (s : State) : Outcome State Fault Refusal := onNode (getDigests via.val) s
/-- `GET_CERTIFICATE`. -/
def execGetCertificate (via : Fin 5) (slot : BitVec 8) (off len : BitVec 16) (s : State) : Outcome State Fault Refusal :=
  onNode (getCertificate via.val slot.toNat off.toNat len.toNat) s
/-- `CHALLENGE`. -/
def execChallenge (via : Fin 5) (slot : BitVec 8) (nonce : Bytes) (s : State) : Outcome State Fault Refusal := onNode (challenge via.val slot.toNat nonce) s
/-- `GET_MEASUREMENTS`. -/
def execGetMeasurements (via : Fin 5) (index : BitVec 8) (signed : Bool) (nonce : Bytes) (s : State) : Outcome State Fault Refusal :=
  onNode (getMeasurements via.val index.toNat signed nonce) s
/-- `WEIGHTS_BIND`. -/
def execWeightsBind (h : Word) (s : State) : Outcome State Fault Refusal := onNode (weightsBind h.toNat) s

end Sys2Proof.Machine
end

