-- ==== Sys2Proof/Machine/Power.lean ====
section
/-! DEFINITION. Power (18): the shed ladder, halts, thermal levels, power states, readings and hints. -/

namespace Sys2Proof.Machine

open Host (Outcome)

/-- Change the power manager. -/
def modPwr (n : Node) (f : Pwr → Pwr) : Node := { n with pwr := f n.pwr }

/-- The sag at which each step is entered, and the level above which it is reversed, in 0.1 % of the setpoint (R398). -/
def shedAt (k : Nat) : Int := match k with
  | 1 => -30 | 2 => -40 | 3 => -50 | 4 => -60 | 5 => -70 | _ => -90
def shedBack (k : Nat) : Int := match k with
  | 1 => -20 | 2 => -30 | 3 => -40 | 4 => -50 | 5 => -60 | _ => -80

/-! ## Counting (R399) -/

/-- Count a step's ticks up to a tick, that one included. -/
def countStep (upto : Nat) (n : Node) (k : Nat) : Node :=
  match mget? n.pwr.cntTick k with
  | none => n
  | some c =>
    if upto ≤ c then n
    else modPwr (bump n (Rg.pwrShedCountTicks (k - 1)) (upto - c)) fun p => { p with cntTick := mset p.cntTick k upto }

/-- Count the ticks of every step in force. -/
def countSteps (upto : Nat) (n : Node) : Node := ((List.range n.pwr.step).map (· + 1)).foldl (countStep upto) n

/-- A step is in force in the present tick: the first part of a tick counts it once. -/
def countEntry (t : Tck) (n : Node) (k : Nat) : Node :=
  if mget? n.pwr.cntTick k = some t.tick then n
  else modPwr (bump n (Rg.pwrShedCountTicks (k - 1)) 1) fun p => { p with cntTick := mset p.cntTick k t.tick }

/-! ## Halting (R400) -/

/-- A halt begins: nothing starts any more, and the node holds no upstream (R401). DEDUCED, unsafe: it enters no shed step of itself (log entry 36). -/
def beginHalt (cause : Nat) (t : Tck) (n : Node) : Tck × Node :=
  if stopped n then (t, n)
  else (toHoldover { t with upstream := none }, wr (modPwr n fun p => { p with halting := some cause, haltStage := 0 }) Rg.pwrStatusHaltCause cause)

/-! ## The shed ladder (R397 to R399) -/

/-- Does the IOD's thermal level hold FP4 to FP7 down (R402, R403). -/
def iodHot (n : Node) : Bool := match mget? n.pwr.therm 4 with
  | some x => 2 ≤ x.1
  | none => false

/-- The action of a step at its entry. -/
def stepAction (k : Nat) (t : Tck) (n : Node) : Node :=
  if k = 3 then shedItems n else if k = 4 then portsShed t n else if k = 5 then cxdShed t n else n

/-- Enter the next deeper step: a re-entry in the tick of its reversal cancels the reversal (R399). -/
def enterStep (cause : Nat) (s : Tck × Node) (k : Nat) : Tck × Node :=
  let (t, n) := s
  let n1 := wr (modPwr n fun p => { p with step := k }) Rg.pwrStatusShed k
  let n2 := if mget? n.pwr.revTick k = some t.tick then n1 else bump n1 (Rg.pwrShedCountEntries (k - 1)) 1
  let n3 := stepAction k t (countEntry t n2 k)
  if k = 6 then beginHalt cause t n3 else (t, n3)

/-- Enter every step down to `k`, in ladder order. -/
def enterTo (cause k : Nat) (t : Tck) (n : Node) : Tck × Node :=
  (((List.range 6).map (· + 1)).filter fun i => n.pwr.step < i && i ≤ k).foldl (enterStep cause) (t, n)

/-- Keep the history of the last tick: the least sag of the tick that runs and of the one before it. -/
def noteSag (t : Tck) (sag : Int) (p : Pwr) : Pwr :=
  let q : Pwr := { p with sag := sag, leastSag := min p.leastSag sag }
  if p.curTick = t.tick then { q with curMin := min p.curMin sag }
  else { q with curTick := t.tick, prevMin := if p.curTick + 1 = t.tick then p.curMin else p.sag, curMin := sag }

/-- `SAG_WINDOW` (R397, R398, R400): the window's sag in 0.1 % of the setpoint, and whether PWR_FAIL_N is asserted within it. -/
def sagWindow (sag : Int) (fail : Bool) (t : Tck) (n : Node) : Tck × Node :=
  let n1 := countSteps t.tick n
  let least := min (signed 16 (rd n Rg.pwrSagLeast)) sag
  let n2 := wr (wr n1 Rg.pwrSagSag (wrapInt 16 sag)) Rg.pwrSagLeast (wrapInt 16 least)
  let n3 := modPwr n2 (noteSag t sag)
  let k := (((List.range 6).map (· + 1)).filter fun i => sag ≤ shedAt i).length
  enterTo (if fail || n.pwr.failN then 2 else 1) k t n3

/-- The least sag of the tick before the boundary that has just been reached. -/
def lastTickMin (t : Tck) (p : Pwr) : Int := if p.curTick = t.tick then p.prevMin else if p.curTick + 1 = t.tick then p.curMin else p.sag

/-- May a step be reversed at this boundary: at a tick boundary, one step a boundary, the sag above its level throughout the tick before (R399). -/
def reversible (t : Tck) (n : Node) (k : Nat) : Bool :=
  t.notch == 0 && n.pwr.step == k && shedBack k < lastTickMin t n.pwr && !n.pwr.revTick.any (fun e => e.2 == t.tick)
    && !n.pwr.cntTick.any fun e => e.1 == k && e.2 == t.tick

/-- Take the deepest step out of force. -/
def leaveStep (t : Tck) (n : Node) (k : Nat) : Node :=
  let n1 := countStep (t.tick - 1) n k
  wr (modPwr n1 fun p => { p with step := k - 1, revTick := mset p.revTick k t.tick }) Rg.pwrStatusShed (k - 1)

/-- `SHED_REVERSAL` (R399): steps 5 to 1. -/
def shedReversal (t : Tck) (n : Node) : Node :=
  let k := n.pwr.step
  if k = 0 || k = 6 || !reversible t n k then n
  else
    let n1 := leaveStep t n k
    if k = 4 then startMovers 8 (if iodHot n1 then n1 else portsBack n1) else n1

/-- `PWR_FAIL_N` asserted (R398). -/
def pwrFail (t : Tck) (n : Node) : Tck × Node :=
  let n1 := wr (modPwr (countSteps t.tick n) fun p => { p with failN := true }) Rg.pwrStatusPwrFail 1
  enterTo 2 6 t n1

/-- `PWR_FAIL_N` released (R399). -/
def pwrFailRelease (n : Node) : Node := wr (modPwr n fun p => { p with failN := false }) Rg.pwrStatusPwrFail 0

/-- Count the notches spent in the present power state up to now. -/
def countState (t : Tck) (n : Node) : Node :=
  let s := rd n Rg.pwrStatusNstate
  let k := t.now / unitsPerNotch t.cur - n.pwr.since / unitsPerNotch t.cur
  let n1 := if s ≤ 3 then bump n (Rg.pwrResNotches s) k else n
  modPwr n1 fun p => { p with since := t.now }

/-- Change the power state. -/
def setState (t : Tck) (n : Node) (s : Nat) (wake : Option Nat) : Node :=
  modPwr (wr (countState t n) Rg.pwrStatusNstate s) fun p => { p with wakeAt := wake }

/-- What cluster SRAM and rescale tables lose with their power (R401, R404). -/
def diesOff (n : Node) : Node := { n with att := { n.att with tables := [], tableOf := [], bound := [], tileQs := [] } }

/-- `HALT` (R400): the points of a halt that has begun, in order. -/
def halt (ev : HaltEv) (t : Tck) (n : Node) : Node :=
  match n.pwr.halting, ev, n.pwr.haltStage with
  | some _, .settle, 0 => modPwr (endAll t n none stStateLost) fun p => { p with haltStage := 1 }
  | some _, .dark, 1 => modPwr (diesOff (setState t n 4 none)) fun p => { p with haltStage := 2 }
  | some c, .record, 2 =>
    let n1 := raise t n evHalt (leBytes 1 c ++ leBytes 2 (wrapInt 16 n.pwr.leastSag) ++ leBytes 1 n.pwr.hottest ++ leBytes 8 t.tick)
    wr (modPwr (recordAll t n1) fun p => { p with halting := none, haltStage := 0, haltN := some t.tick }) Rg.pwrStatusHalted 1
  | _, _, _ => n

/-- `HALT_REVERSAL` (R399, R401): a halt by sag or PWR_FAIL_N, from the first tick boundary after HALT_N is asserted. DEDUCED, unsafe:
`HALT_CAUSE` is then 0 (log entry 35). -/
def haltReversal (t : Tck) (n : Node) : Node :=
  match n.pwr.haltN with
  | none => n
  | some k =>
    if t.tick ≤ k || 2 < rd n Rg.pwrStatusHaltCause || n.pwr.failN || !reversible t n 6 then n
    else
      let n1 := setState t (leaveStep t n 6) 0 none
      wr (wr (modPwr n1 fun p => { p with haltN := none }) Rg.pwrStatusHalted 0) Rg.pwrStatusHaltCause 0

/-- `PWR_CTL_HALT`: from the management path alone. -/
def ctlHalt (src : Req) (t : Tck) (n : Node) : Tck × Node :=
  match src with
  | .mgmt => beginHalt 4 t n
  | _ => (t, raise t n evPwrWriteIgnored (leBytes 4 Rg.pwrCtlReset.off))

/-! ## Thermal limits (R402, R403) -/

/-- The threshold of a level. -/
def thermAt (n : Node) (l : Nat) : Nat := if l = 1 then rd n Rg.pwrThermCfgWarn else if l = 2 then rd n Rg.pwrThermCfgHot else 105

/-- The level a temperature reaches. -/
def thermLevel (n : Node) (temp : Nat) : Nat := if 105 ≤ temp then 3 else if thermAt n 2 ≤ temp then 2 else if thermAt n 1 ≤ temp then 1 else 0

/-- What a level does at its site as it is entered: board ports for the IOD, items of suspended units for a stack, a halt at level 3. -/
def thermAction (site old new : Nat) (t : Tck) (n : Node) : Tck × Node :=
  let n1 := if old = 0 && 1 ≤ new then raise t n evThermWarn [] else n
  let n2 := if old < 2 && 2 ≤ new then (if site = 4 then portsShed t n1 else if 5 ≤ site then shedItems n1 else n1) else n1
  if old < 3 && new = 3 then beginHalt 3 t n2 else (t, n2)

/-- `THERMAL_READ`: a site's hottest sensor in °C. -/
def thermalRead (site temp : Nat) (t : Tck) (n : Node) : Tck × Node :=
  let x := mgetD n.pwr.therm site (0, t.tick, 0, 0)
  let new := max x.1 (thermLevel n temp)
  let y := if x.2.1 = t.tick then (new, t.tick, max x.2.2.1 temp, x.2.2.2) else (new, t.tick, temp, if x.2.1 + 1 = t.tick then x.2.2.1 else rd n (Rg.pwrTempTemp site))
  let n1 := modPwr n fun p => { p with therm := mset p.therm site y, hottest := max p.hottest temp }
  let n2 := wr (wr (wr n1 (Rg.pwrTempTemp site) temp) (Rg.pwrTempMax site) (max temp (rd n (Rg.pwrTempMax site)))) (Rg.pwrTempLevel site) new
  thermAction site x.1 new t n2

/-- The highest temperature a site showed in the tick before the boundary just reached. -/
def lastTickMax (t : Tck) (n : Node) (site : Nat) (x : Nat × Nat × Nat × Nat) : Nat :=
  if x.2.1 = t.tick then x.2.2.2 else if x.2.1 + 1 = t.tick then x.2.2.1 else rd n (Rg.pwrTempTemp site)

/-- `THERMAL_REVERSAL`: each level 3 °C below whose threshold the site stayed for a whole tick. -/
def thermalReversal (site : Nat) (t : Tck) (n : Node) : Node :=
  match mget? n.pwr.therm site with
  | none => n
  | some x =>
    let top := lastTickMax t n site x
    let new := if x.1 = 3 then 3 else if x.1 = 2 && thermAt n 2 < top + 3 then 2 else if 1 ≤ x.1 && thermAt n 1 < top + 3 then 1 else 0
    if t.notch != 0 || x.1 ≤ new then n
    else
      let n1 := wr (modPwr n fun p => { p with therm := mset p.therm site (new, x.2) }) (Rg.pwrTempLevel site) new
      if site = 4 && x.1 = 2 && new < 2 && n1.pwr.step < 4 then portsBack n1 else n1

/-! ## Power states (R404 to R406, R431) -/

/-- Entry and wake times of N1 to N3, in units. -/
def stateCost (s : Nat) : Nat × Nat := if s = 1 then (80, 800) else if s = 2 then (4000, 20000) else (600000, 3200000)

/-- The times of the node's known events: planned slices, launches of accepted timed commands, queued BSU runs. -/
def knownEvents (t : Tck) (n : Node) : List Nat :=
  (n.fe.cmds.filterMap fun c => if timed c.op && !c.launched then some (t.at c.launch 0) else none)
    ++ (n.att.shares.flatMap fun s => if s.launched.isNone then [t.at s.desc.launch 0] else [])
    ++ (n.att.items.filterMap fun i => if i.st == .planned then some (t.at i.slice 0) else none)
    ++ (n.bsu.units.flatMap fun u => u.2.area.map fun e => e.launch * unitsPerNotch t.cur)

/-- Is a cluster item running or due, or a BSU running. -/
def working (n : Node) : Bool := (n.att.items.any fun i => i.st != .planned) || n.bsu.units.any fun u => u.2.run.isSome

/-- The deepest state allowed: the lesser of the configuration and a hint in force. -/
def deepest (t : Tck) (n : Node) : Nat :=
  match n.pwr.hint with
  | some (d, some e) => if t.tick < e then min d (rd n Rg.pwrStateCfgDeepest) else rd n Rg.pwrStateCfgDeepest
  | some (d, none) => min d (rd n Rg.pwrStateCfgDeepest)
  | none => rd n Rg.pwrStateCfgDeepest

/-- May N3 be entered until a time: no region-0 extent assigned, no scrub, march test or heat move due. -/
def mayN3 (n : Node) (until_ : Nat) : Bool :=
  !(n.cxd.exts.any fun e => e.1 < 3072 && e.2.state == 2) && n.svc.march.isEmpty && !(n.ter.moves.any fun m => m.cls == 3)
    && (List.range 8).all fun s => n.mic.stacksOut.contains s || until_ ≤ mgetD n.mic.periodAt s 0

/-- The states that fit before the next known event, with their wake times; `next` is that event's time, or none. -/
def fits (t : Tck) (n : Node) (next : Option Nat) (s : Nat) : Bool :=
  let (e, w) := stateCost s
  let p2 := 2 * unitsPerNotch t.cur
  (match next with | some k => e + w + p2 ≤ k - t.now | none => true)
    && (s != 2 || w + p2 ≤ 2 * unitsPerTick t.cur)
    && (s != 3 || (match next with | some k => mayN3 n k | none => mayN3 n (2 ^ 64)))

/-- `POWER_STATE_ENTRY`: at a notch boundary. -/
def powerStateEntry (t : Tck) (n : Node) : Node :=
  let next := leastBy id ((knownEvents t n).filter (t.now < ·))
  let due := (knownEvents t n).any (· ≤ t.now)
  let s := (((List.range 4).filter fun k => 1 ≤ k && k ≤ deepest t n && fits t n next k).getLast?).getD 0
  if stopped n || working n || due || s ≤ rd n Rg.pwrStatusNstate then n
  else
    let wake := next.map fun k => k - (stateCost s).2 - 2 * unitsPerNotch t.cur
    let n1 := setState t n s wake
    if s = 3 then diesOff n1 else n1

/-- `WAKE`: at the planned time, or at once for an event not known at entry. -/
def wake (unknown : Bool) (t : Tck) (n : Node) : Node :=
  let s := rd n Rg.pwrStatusNstate
  let due := match n.pwr.wakeAt with
    | some k => k ≤ t.now
    | none => false
  if s = 0 || s = 4 || !(unknown || due) then n else setState t n 0 none

/-- `POWER_HINT`. -/
def powerHint (h : Nat) (t : Tck) (n : Node) : Node :=
  withCmd n h opPowerHint fun c =>
    checked t n c (offIf (3 < c.f 24 1) 24 ++ rsv c 25 27 ++ rsv c 32 63)
      (let old := match n.pwr.hint with
         | some (d, some e) => if c.accTick < e then d else 0xFF
         | some (d, none) => d
         | none => 0xFF
       let k := c.f 28 4
       complete t (modPwr n fun p => { p with hint := some (c.f 24 1, if k = 0 then none else some (c.accTick + k)) }) h stOk (leBytes 1 old))

/-- `POWER_HINT_EXPIRY`. -/
def hintExpiry (t : Tck) (n : Node) : Node :=
  match n.pwr.hint with
  | some (_, some e) => if e ≤ t.tick then modPwr n fun p => { p with hint := none } else n
  | _ => n

/-! ## Readings (R393, R394, R407) -/

/-- The nominal voltage of a rail in mV (R391). -/
def nominal (r : Nat) : Nat := match r with
  | 0 => Config.fusedSetpoint | 1 => 900 | 2 => 850 | 3 => 1100 | 4 => 1800 | _ => 800

/-- Show a rail's voltage and current; it is good within 3 % of its nominal value. -/
def showRail (n : Node) (r mv amps : Nat) : Node :=
  let good := 97 * nominal r ≤ 100 * mv && 100 * mv ≤ 103 * nominal r
  wr (wr (wr n (Rg.pwrRailMv r) (satTo 12 mv)) (Rg.pwrRailAmps r) (satTo 16 amps)) (Rg.pwrRailPg r) (b2n good)

/-- `AVS_READBACK`: the regulator's answer; more than 10 mV from the setpoint outside a sag, or a rejection, is recorded. -/
def avsReadback (rejected : Bool) (mv amps : Nat) (t : Tck) (n : Node) : Node :=
  let off := 10 < max (mv - Config.fusedSetpoint) (Config.fusedSetpoint - mv)
  let n1 := showRail n 0 mv amps
  if rejected || (off && n.pwr.step = 0) then raise t n1 evAvsErr [] else n1

/-- `PMBUS_POLL`: the status word and readings of a board regulator. -/
def pmbusPoll (r status mv amps : Nat) (t : Tck) (n : Node) : Node :=
  let n1 := showRail n r mv amps
  if status = 0 then n1 else raise t (wr n1 (Rg.pwrRailFault r) 1) evRailFault (leBytes 1 r ++ leBytes 2 status)

/-- `POWER_READING`. -/
def powerReading (watts : Nat) (n : Node) : Node :=
  let w := satTo 12 watts
  wr (modPwr n fun p => { p with watts := (w :: p.watts).take 1024 }) Rg.pwrPowerWatts w

/-! ## The commands -/

/-- `SAG_WINDOW`. -/
def execSagWindow (sag : BitVec 16) (fail : Bool) (s : State) : Outcome State Fault Refusal := onBoth (sagWindow sag.toInt fail) s
/-- `SHED_REVERSAL`. -/
def execShedReversal (s : State) : Outcome State Fault Refusal := onNode shedReversal s
/-- `PWR_FAIL_N`. -/
def execPwrFailN (s : State) : Outcome State Fault Refusal := onBoth pwrFail s
/-- `PWR_FAIL_N_RELEASE`. -/
def execPwrFailNRelease (s : State) : Outcome State Fault Refusal := onNode (fun _ => pwrFailRelease) s
/-- `HALT`. -/
def execHalt (ev : HaltEv) (s : State) : Outcome State Fault Refusal := onNode (halt ev) s
/-- `HALT_REVERSAL`. -/
def execHaltReversal (s : State) : Outcome State Fault Refusal := onNode haltReversal s
/-- `PWR_CTL_HALT`. -/
def execPwrCtlHalt (src : Req) (s : State) : Outcome State Fault Refusal := onBoth (whenOpenT (ctlHalt src)) s
/-- `THERMAL_READ`. -/
def execThermalRead (site : Fin 13) (temp : BitVec 8) (s : State) : Outcome State Fault Refusal := onBoth (thermalRead site.val temp.toNat) s
/-- `THERMAL_REVERSAL`. -/
def execThermalReversal (site : Fin 13) (s : State) : Outcome State Fault Refusal := onNode (thermalReversal site.val) s
/-- `POWER_STATE_ENTRY`. -/
def execPowerStateEntry (s : State) : Outcome State Fault Refusal := onNode powerStateEntry s
/-- `WAKE`. -/
def execWake (unknown : Bool) (s : State) : Outcome State Fault Refusal := onNode (wake unknown) s
/-- `POWER_HINT`. -/
def execPowerHint (h : Word) (s : State) : Outcome State Fault Refusal := onNode (powerHint h.toNat) s
/-- `POWER_HINT_EXPIRY`. -/
def execPowerHintExpiry (s : State) : Outcome State Fault Refusal := onNode hintExpiry s
/-- `AVS_READBACK`. -/
def execAvsReadback (rejected : Bool) (mv amps : BitVec 16) (s : State) : Outcome State Fault Refusal := onNode (avsReadback rejected mv.toNat amps.toNat) s
/-- `PMBUS_POLL`. -/
def execPmbusPoll (rail : Fin 6) (status mv amps : BitVec 16) (s : State) : Outcome State Fault Refusal :=
  onNode (pmbusPoll rail.val status.toNat mv.toNat amps.toNat) s
/-- `POWER_READING`. -/
def execPowerReading (watts : BitVec 16) (s : State) : Outcome State Fault Refusal := onNode (fun _ => powerReading watts.toNat) s

end Sys2Proof.Machine
end

