-- ==== Sys2Proof/Machine/Boot.lean ====
section
/-! DEFINITION. Reset (18) and start-up (19): what each reset leaves, the start-up phases, identity memories, host ports, power and modules that go away. -/

namespace Sys2Proof.Machine

open Host (Outcome)

/-! ## Reset (R408, R409) -/

/-- Change the board's state. -/
def modBrd (n : Node) (f : Brd → Brd) : Node := { n with brd := f n.brd }

/-- What the board controller writes into the boot flash while reset is held (R421). -/
def programFlash (f : Option Flash) (n : Node) : Node :=
  match f with
  | none => n
  | some x => modBrd n fun b =>
      { b with cfg := x.cfg.foldl (fun m e => mset m (e.1 % 2) e.2) b.cfg, images := x.images.foldl (fun m e => mset m (e.1 % 2) e.2) b.images }

/-- The node after a reset: every register at its reset value, every command ended. The boot flash, stack contents (until start-up zeroes them), hours, cycles and the
host's memory stay; an unlock token stays over a warm reset (R443; DEDUCED, log entry 39). -/
def resetNode (cold : Bool) (n : Node) : Node :=
  { Node.reset with
    hmem := n.hmem
    t1 := n.t1
    mic := { Mic.reset with retired := n.mic.retired, repair := n.mic.repair, spared := n.mic.spared, poison := n.mic.poison }
    brd := { Brd.reset with cfg := n.brd.cfg, images := n.brd.images }
    svc := { Svc.reset with
      slots := n.svc.slots, seqNext := n.svc.seqNext, hours := n.svc.hours
      cycles := n.svc.cycles + b2n cold, token := if cold then none else n.svc.token }
    out := n.out
    freeCtr := n.freeCtr }

/-- Did the node stand in a halt that only a reset ends, by a thermal trip or `PWR_CTL.HALT` (R401). -/
def haltHeld (n : Node) : Bool := stopped n && 3 ≤ rd n Rg.pwrStatusHaltCause

/-- A warm reset (R408): the always-on island keeps fabric time, and that the fabric has had a grandmaster. Leaving a held halt is cause 4. -/
def warmReset (cause : Nat) (t : Tck) (n : Node) : Tck × Node :=
  let n1 := wr (resetNode false n) Rg.pwrResetCauseCause (if haltHeld n then 4 else cause)
  ({ Tck.reset with now := t.now, everGm := t.everGm }, wr n1 Rg.pwrResetCauseWarm (satTo 16 (rd n Rg.pwrResetCauseWarm + 1)))

/-- A cold reset: fabric time begins again, and the power-cycle count goes on. -/
def coldReset (n : Node) : Tck × Node := (Tck.reset, resetNode true n)

/-- A command that resets the node when `go` holds: a reset leaves no count behind, so the counts that the last tick boundary latched begin with it. -/
def onReset (go : Bool) (f : Tck → Node → Tck × Node) (s : State) : Outcome State Fault Refusal :=
  .next { s with tck := (f s.tck s.node).1, node := (f s.tck s.node).2, last := if go then (f s.tck s.node).2 else s.last }

/-- `PWR_CTL_RESET`: from the management path alone. -/
def ctlReset (src : Req) (t : Tck) (n : Node) : Tck × Node :=
  match src with
  | .mgmt => warmReset 2 t n
  | _ => (t, raise t n evPwrWriteIgnored (leBytes 4 Rg.pwrCtlReset.off))

/-- The image slot that a switch not yet confirmed has replaced boots again, and the rollback is recorded (R430). -/
def rollback (t : Tck) (n old : Node) : Node := if old.svc.switched.isSome then raise t n evUpdateRollback [] else n

/-- `WATCHDOG_EXPIRY`. -/
def watchdog (t : Tck) (n : Node) : Tck × Node :=
  let (t1, n1) := warmReset 3 t n
  (t1, rollback t1 n1 n)

/-! ## The boot flash (R418 to R420) -/

/-- Is a boot configuration copy valid. -/
def cfgValid (b : Bytes) : Bool :=
  b.length == 64 && field b 0 4 == 0x43464E42 && field b 60 4 == crc32c (b.take 60) && byteAt b 15 == 0 && allZero (slice b 24 36) && field b 8 2 < 8192

/-- The copy in force: the valid one with the higher SEQ. -/
def bootCfg (n : Node) : Option Bytes :=
  let v (k : Nat) : Option Bytes := match mget? n.brd.cfg k with
    | some b => if cfgValid b then some b else none
    | none => none
  match v 0, v 1 with
  | some a, some b => some (if field a 4 4 < field b 4 4 then b else a)
  | some a, none => some a
  | none, x => x

/-- Does an image slot keep the header layout of R419. -/
def imageLayout (b : Bytes) : Bool :=
  let len := field b 4 4
  field b 0 4 == 0x4D495751 && 1 ≤ len && len ≤ 0x77FF00 && 256 + len ≤ b.length && allZero (slice b 10 6) && allZero (slice b 160 96)

/-- The first check of R420 that an image fails: 1 layout, 2 DIGEST, 3 SIGNATURE, 4 FW_SVN; 0 for none. -/
def imageCheck (b : Bytes) : Nat :=
  if !imageLayout b then 1
  else if slice b 16 48 != sha384 (slice b 256 (field b 4 4)) then 2
  else if !Config.sigOk (Config.romKey 0) (b.take 64) (slice b 64 96) then 3
  else if field b 8 2 < Config.fusedMinSvn then 4
  else 0

/-- The contents of an image slot. -/
def imageIn (n : Node) (slot : Nat) : Bytes := mgetD n.brd.images slot []

/-- Measurements 1 to 5 of a running image, and its security version (R368). -/
def runImage (n : Node) (img : Bytes) : Node :=
  let n1 := { n with sec := { n.sec with meas := (List.range 4).foldl (fun m i => mset m (i + 2) (Config.imageMeasure (i + 2) img)) n.sec.meas } }
  wr n1 Rg.secSvnFwSvn (field img 8 2)

/-! ## Start-up (R422 to R424) -/

/-- The limit of a phase in milliseconds. -/
def phaseLimit (p : Nat) : Nat := [400, 50, 250, 3000, 800, 40, 5, 2000, 1000].getD p 0

/-- Enter a phase. -/
def enterPhase (p ms : Nat) (n : Node) : Node := modBrd (wr n Rg.nidBootPhase p) fun b => { b with phaseMs := ms }

/-- Start-up is abandoned (R423): fabric ports and board links idle. -/
def failBoot (ms : Nat) (t : Tck) (n : Node) : Node :=
  let n1 := raise t n evBootFail (leBytes 1 (rd n Rg.nidBootPhase))
  let n2 := (List.range 8).foldl (fun m p => wr m (Rg.qstPortStatusUp p) 0) ((List.range 6).foldl (fun m b => wr m (Rg.qstBlStatusUp b) 0) n1)
  wr (wr n2 Rg.nidBootPhase 0xE) Rg.nidBootMs (satTo 16 ms)

/-- Slots that hold data but no SEQ are marked torn (R438). -/
def markTorn (n : Node) : Node :=
  { n with svc := { n.svc with slots := n.svc.slots.map fun r => if field r 0 4 = 0xFFFFFFFF then zeros 4 ++ r.drop 4 else r } }

/-- Start from an image slot. -/
def startFrom (cfg : Bytes) (slot : Nat) (ms : Nat) (n : Node) : Node :=
  let n1 := wr (wr n Rg.nidBootSlot slot) Rg.nidBootFallback (b2n (slot != byteAt cfg 12 % 2))
  let n2 := wr (wr n1 Rg.nidNodeNodeId (field cfg 8 2)) Rg.nidNodeDomain (field cfg 10 2)
  let n3 := wr (wr n2 Rg.qstPfxLoPfx (field cfg 16 4)) Rg.qstPfxHiPfx (field cfg 20 4)
  let n4 := { n3 with sec := { n3.sec with meas := mset n3.sec.meas 1 Config.romMeasure } }
  enterPhase 1 ms (runImage n4 (imageIn n slot))

/-- ROM: the configuration, and an image that passes R420. -/
def romPhase (ms : Nat) (t : Tck) (n0 : Node) : Node :=
  let n := markTorn n0
  match bootCfg n with
  | none => failBoot ms t (raise t n evBootCfgBad [])
  | some cfg =>
    let a := byteAt cfg 12 % 2
    let bad (m : Node) (s : Nat) : Node := raise t m evBootImageBad (leBytes 1 s ++ leBytes 1 (imageCheck (imageIn n s)))
    if imageCheck (imageIn n a) = 0 then startFrom cfg a ms n
    else if imageCheck (imageIn n (1 - a)) = 0 then startFrom cfg (1 - a) ms (bad n a)
    else failBoot ms t (bad (bad n a) (1 - a))

/-- REG: the regulator EEPROM, or the default addresses; the setpoint is commanded (R393, R414). -/
def regPhase (eeprom : Option (List Nat × Nat)) (ms : Nat) (t : Tck) (n : Node) : Node :=
  let n1 := match eeprom with
    | some (a, amps) => modBrd n fun b => { b with pmbus := a, rated := some amps }
    | none => modBrd (raise t n evIdAbsent []) fun b => { b with pmbus := [0x40, 0x41, 0x42, 0x43, 0x44] }
  enterPhase 2 ms (emit n1 (.avsSet Config.fusedSetpoint))

/-- Take the memory devices found: rejected ones are left out (R414). -/
def takeFound (base : Nat) (use : Node → Found → Node) (t : Tck) (n : Node) (l : List Found) : Node :=
  l.foldl (fun m d => match d.reject with
    | some r => idReject t m (base + d.dev) r
    | none => use m d) n

/-- A DDR5 module is fitted. -/
def useDimm (n : Node) (d : Found) : Node := modBrd n fun b => { b with dimms := mset b.dimms d.dev (d.cap, d.speed) }

/-- A flash module is fitted. -/
def useFlash (n : Node) (d : Found) : Node := modBrd n fun b => { b with flash := mset b.flash d.dev d.cap }

/-- Set the MEDIA of a fabric port: 0 or 2 for a module found, 1 or 3 without one (R413 table). -/
def setMedia (media : List (Nat × Nat)) (n : Node) (p : Nat) : Node :=
  let kr := match bootCfg n with
    | some c => bitAt (byteAt c 14) p
    | none => false
  match media.find? (·.1 == p) with
  | some (_, m) => wr n (Rg.qstPortCfgMedia p) (if m = 0 then 0 else 2)
  | none =>
    let n1 := wr n (Rg.qstPortCfgMedia p) (if kr then 1 else 3)
    if kr then n1 else { n1 with qst := { n1.qst with absent := p :: n1.qst.absent } }

/-- IDENT. -/
def identPhase (dimms flash : List Found) (media : List (Nat × Nat)) (ms : Nat) (t : Tck) (n : Node) : Node :=
  let n1 := takeFound 0 useDimm t n (dimms.filter (·.dev < 12))
  let n2 := takeFound 16 useFlash t n1 (flash.filter (·.dev < 8))
  enterPhase 3 ms (modBrd ((List.range 8).foldl (setMedia media) n2) fun b => { b with busTries := [] })

/-- A part that has not trained is left out and recorded. -/
def untrained (t : Tck) (cls : Nat) (out : Node → Nat → Node) (n : Node) (k : Nat) : Node := out (raise t n evTrainFail (leBytes 1 cls ++ leBytes 1 k)) k

/-- TRAIN: stacks, DDR5 channels, flash ports and board links that have not trained are left out of service (R423). -/
def trainPhase (done : List (Nat × Nat)) (ms : Nat) (t : Tck) (n : Node) : Node :=
  let n1 := done.foldl (fun m d => if d.1 = 0 || d.1 = 2 || d.1 = 5 then noteTrained m d.1 d.2 else m) n
  let miss (cls : Nat) (l : List Nat) : List Nat := l.filter fun k => !n1.brd.trained.contains (cls, k)
  let n2 := (miss 0 (List.range 8)).foldl (untrained t 0 fun m k => { m with mic := { m.mic with stacksOut := m.mic.stacksOut ++ [k] } }) n1
  let n3 := (miss 5 (mkeys n.brd.dimms)).foldl (untrained t 5 fun m k => { m with mic := { m.mic with ddrOut := m.mic.ddrOut ++ [k] } }) n2
  let n4 := (miss 2 (mkeys n.brd.flash)).foldl (untrained t 2 fun m k => { m with mic := { m.mic with flashOut := m.mic.flashOut ++ [k] } }) n3
  let n5 := (miss 3 (List.range 6)).foldl (untrained t 3 fun m _ => m) n4
  if 8 ≤ n5.mic.stacksOut.length then failBoot ms t n5 else enterPhase 4 ms n5

/-- The march tests of start-up: every pseudo-channel and SRAM (R233, R418). -/
def bootMarch : List MarchJob :=
  [⟨2, 0, 0, 0, 0, 1024, 0, 0, 0, 0⟩, ⟨2, 0, 0, 1, 0, 32, 0, 0, 0, 0⟩, ⟨2, 0, 0, 2, 0, 1024, 0, 0, 0, 0⟩, ⟨2, 0, 0, 3, 0, 1024, 0, 0, 0, 0⟩]

/-- FW: node firmware runs (its BSU programs are behind measurement 5); TEST begins, with its tests when MARCH is 1. -/
def fwPhase (runs : Bool) (ms : Nat) (n : Node) : Node :=
  let march := match bootCfg n with
    | some c => byteAt c 13 == 1
    | none => false
  let n1 := enterPhase 5 ms (wr n Rg.cmdStatusFwRun (b2n runs))
  if march then wr { n1 with svc := { n1.svc with march := bootMarch } } Rg.nidBootMarched 1 else n1

/-- TEST ends; a node with no cluster in service ends in FAIL. -/
def testPhase (ms : Nat) (t : Tck) (n : Node) : Node :=
  let n1 := { n with svc := { n.svc with march := n.svc.march.filter (·.why != 2) } }
  if 32 ≤ n1.mic.clustersOut.length then failBoot ms t n1 else enterPhase 6 ms n1

/-- ZERO: terrace 1 reads 0, free of poison; node firmware takes its block-mode scratch into the BSU state (R187). DESIGN CHOICE: log entry 74. -/
def zeroPhase (ms : Nat) (n : Node) : Node := enterPhase 7 ms { n with t1 := [], mic := { n.mic with poison := [] }, bsu := { n.bsu with scratch := Config.blockScratch } }

/-- READY: the scrub periods of the stacks and of board memory begin (R227). -/
def readyPhase (ms : Nat) (t : Tck) (n : Node) : Node :=
  let n1 := wr (wr (enterPhase 0xF ms n) Rg.nidBootMs (satTo 16 ms)) Rg.cmdStatusReady 1
  { n1 with mic := { n1.mic with periodAt := (List.range 9).foldl (fun m k => mset m k t.now) n1.mic.periodAt } }

/-- The current epoch arrives: a node that is IN or draining resumes, a LOST one follows R353, any other asks to join (R423). Its keepers count as heard now. -/
def learnMap (m : FMap) (t : Tck) (n : Node) : Tck × Node :=
  let n1 := { n with map := { n.map with map := m, newest := max n.map.newest m.epoch, acks := m.keepers.map fun k => (k, t.tick) } }
  let n2 := beginRebuild t (bump (wr (showMap n1) Rg.mapLearnedTick (t.tick % 2 ^ 32)) Rg.mapCountsEpochs 1)
  let st := stateIn m (nodeId n)
  let n3 := if st = 4 then raise t n2 evMapRejoin [] else n2
  let n4 := if st = 1 || st = 2 then n3 else forwardChanges n3 (ownProposal n3 [.nodeState (nodeId n) 1])
  (adoptPeriod t n4, n4)

/-- The end of a phase: its work done, or at its limit as far as it has come. A phase that the work is not of is left as it is. -/
def endPhase (w : BootWork) (limit : Bool) (ms : Nat) (t : Tck) (n : Node) : Tck × Node :=
  match w, rd n Rg.nidBootPhase with
  | .rom, 0 => (t, if limit then failBoot ms t n else romPhase ms t n)
  | .reg e, 1 => (t, regPhase e ms t n)
  | .ident d f m, 2 => (t, identPhase d f m ms t n)
  | .train l, 3 => (t, trainPhase l ms t n)
  | .fw, 4 => (t, fwPhase (!limit) ms n)
  | .test, 5 => (t, if !limit && n.svc.march.any (·.why == 2) then n else testPhase ms t n)
  | .zero, 6 => (t, zeroPhase ms n)
  | .time, 7 => (t, if !limit && !timeRuns t.state then n else enterPhase 8 ms n)
  | .map none, 8 => (t, if limit then readyPhase ms t n else n)
  | .map (some m), 8 =>
    let (t1, n1) := learnMap m t n
    (t1, readyPhase ms t1 n1)
  | .map (some m), 0xF => if epochOf n = 0 && !limit then learnMap m t n else (t, n)
  | _, _ => (t, n)

/-- `START_UP`: a phase's work is done, `ms` after the release of reset, within its limit. -/
def startUp (w : BootWork) (ms : Nat) (t : Tck) (n : Node) : Tck × Node :=
  let p := rd n Rg.nidBootPhase
  if stopped n || (p != 0xF && (ms < n.brd.phaseMs || n.brd.phaseMs + phaseLimit p < ms)) then (t, n) else endPhase w false ms t n

/-- `PHASE_LIMIT`: a phase reaches its limit with its work as far as it has come. -/
def phaseLimitAt (w : BootWork) (ms : Nat) (t : Tck) (n : Node) : Tck × Node :=
  let p := rd n Rg.nidBootPhase
  if stopped n || 9 ≤ p || ms < n.brd.phaseMs + phaseLimit p then (t, n) else endPhase w true ms t n

/-- `BUS_ARBITRATION_LOSS` (R415): bus 0 and 1 SPD, 2 FLS, 3 MOD, 4 PMBus; the ninth loss of a transfer ends its retries and its memory is taken as absent. -/
def busLoss (bus dev : Nat) (t : Tck) (n : Node) : Node :=
  let k := 256 * bus + dev
  let c := mgetD n.brd.busTries k 0
  if c < 8 then modBrd n fun b => { b with busTries := mset b.busTries k (c + 1) }
  else raise t (modBrd n fun b => { b with busTries := mdel b.busTries k }) evIdBus (leBytes 1 bus ++ leBytes 1 dev)

/-- `HOST_PORT_LINK_UP` (R423): a half trains; in CXL mode its head becomes usable, though a lost one waits for its REJOIN. -/
def hostPortUp (h : Nat) (cxl : Bool) (t : Tck) (n : Node) : Node :=
  if phaseFrom n 3 && !n.brd.trained.contains (1, h) then
    let n1 := noteTrained n 1 h
    if cxl then setHead n1 h { headOf n1 h with link := true, credit := 4 * burstOf n1 h, filled := t.now, beat := t.now } else n1
  else n

/-! ## What goes away (R394, R433) -/

/-- The slot whose record was being programmed holds data and no SEQ, and keeps its place in the count (R438). -/
def tearSlot (n : Node) : Node :=
  match n.svc.arrivals with
  | [] => n
  | e :: _ =>
    if evrSlots ≤ n.svc.slots.length then n
    else modSvc n fun s => { s with slots := s.slots ++ [evrRecord n e 0xFFFFFFFF 0 false (e.args.take 8)], seqNext := (s.seqNext + 1) % 2 ^ 32 }

/-- `LOSS_OF_POWER`: with a warning the node halts; without one it stops where it stands and does nothing until a reset.
DEDUCED, unsafe: log entry 40. -/
def lossOfPower (warned torn : Bool) (t : Tck) (n : Node) : Tck × Node :=
  if warned then pwrFail t n
  else
    let n1 := resetNode false (if torn then tearSlot n else n)
    let n2 := wr (wr n1 Rg.pwrResetCauseCause (rd n Rg.pwrResetCauseCause)) Rg.pwrResetCauseWarm (rd n Rg.pwrResetCauseWarm)
    ({ Tck.reset with now := t.now, everGm := t.everGm }, modPwr n2 fun p => { p with halting := some 0, haltStage := 3 })

/-- A DDR5 module is gone: every burst it held is uncorrectable. -/
def dimmGone (ch : Nat) (lost : List (Burst × Nat)) (t : Tck) (n : Node) : Node :=
  let n1 := lost.foldl (fun m b => if burstPoison m b.1 b.2 then m else burstBad t m ch b.1 b.2) n
  { n1 with brd := { n1.brd with dimms := mdel n1.brd.dimms ch } }

/-- A flash module is gone: every sector it held is uncorrectable, but for those the cache holds. -/
def flashGone (k : Nat) (lost : List Nat) (t : Tck) (n : Node) : Node :=
  let n1 := (lost.filter fun s => !cached n s).foldl
    (fun m s => poisonSector (raise t (bump m (Rg.micFlashErrFail k) 1) evFlashCrc (leBytes 1 k ++ leBytes 8 (4096 * s))) s) n
  { n1 with brd := { n1.brd with flash := mdel n1.brd.flash k } }

/-- `MODULE_REMOVED`: with its `EV_MODULE_OUT` recorded nothing is lost. -/
def moduleRemoved (flash : Bool) (unit : Nat) (lost : List (Burst × Nat)) (sectors : List Nat) (t : Tck) (n : Node) : Node :=
  if flash then
    if !mhas n.brd.flash unit then n
    else if n.mic.flashOut.contains unit then modBrd n fun b => { b with flash := mdel b.flash unit }
    else flashGone unit sectors t n
  else if !mhas n.brd.dimms unit then n
  else if n.mic.ddrOut.contains unit then modBrd n fun b => { b with dimms := mdel b.dimms unit }
  else dimmGone unit lost t n

/-! ## The commands -/

/-- `POWER_ON_RESET`. -/
def execPowerOnReset (flash : Option Flash) (s : State) : Outcome State Fault Refusal := onReset true (fun _ n => coldReset (programFlash flash n)) s
/-- `RESET_N`. -/
def execResetN (flash : Option Flash) (s : State) : Outcome State Fault Refusal := onReset true (fun t n => warmReset 1 t (programFlash flash n)) s
/-- `PWR_CTL_RESET`. -/
def execPwrCtlReset (src : Req) (s : State) : Outcome State Fault Refusal := onReset (src == .mgmt && !regsShut s.node) (whenOpenT (ctlReset src)) s
/-- `WATCHDOG_EXPIRY`. -/
def execWatchdogExpiry (s : State) : Outcome State Fault Refusal := onReset true watchdog s
/-- `START_UP`. -/
def execStartUp (w : BootWork) (ms : BitVec 32) (s : State) : Outcome State Fault Refusal := onBoth (startUp w ms.toNat) s
/-- `PHASE_LIMIT`. -/
def execPhaseLimit (w : BootWork) (ms : BitVec 32) (s : State) : Outcome State Fault Refusal := onBoth (phaseLimitAt w ms.toNat) s
/-- `BUS_ARBITRATION_LOSS`. -/
def execBusArbitrationLoss (bus : Fin 5) (dev : BitVec 8) (s : State) : Outcome State Fault Refusal := onNode (busLoss bus.val dev.toNat) s
/-- `HOST_PORT_LINK_UP`. -/
def execHostPortLinkUp (half : Fin 4) (cxl : Bool) (s : State) : Outcome State Fault Refusal := onNode (hostPortUp half.val cxl) s
/-- `LOSS_OF_POWER`. -/
def execLossOfPower (warned torn : Bool) (s : State) : Outcome State Fault Refusal := onReset (!warned) (lossOfPower warned torn) s
/-- `MODULE_REMOVED`. -/
def execModuleRemoved (flash : Bool) (unit : BitVec 4) (lost : List (Burst × Nat)) (sectors : List Nat) (s : State) : Outcome State Fault Refusal :=
  onNode (moduleRemoved flash unit.toNat lost sectors) s

end Sys2Proof.Machine
end

