-- ==== Sys2Proof/Machine/Prefix.lean ====
section
/-! DEFINITION. The prefix directory (12): lookup, insertion and deletion, rebalance, the comparator. -/

namespace Sys2Proof.Machine

open Host (Outcome)

/-- Slots of a segment, and segments of the array (R257). -/
abbrev segSlots : Nat := 64
/-- Segments. -/
abbrev pdxSegs : Nat := 16384

/-- The sort key of an entry: (KEY, RANK, FPN). -/
def PdxEnt.rankKey (e : PdxEnt) : Nat := (e.key * 256 + e.rank) * 2 ^ 45 + e.fpn

/-- Change the array and its shadow together (R268). -/
def setArray (n : Node) (l : NMap PdxEnt) : Node := { n with pdx := { n.pdx with slots := l, shadow := l } }

/-- Entries in the directory. -/
def pdxCount (n : Node) : Nat := n.pdx.slots.length

/-- The entries of a segment, by slot. -/
def segEnts (l : NMap PdxEnt) (s : Nat) : NMap PdxEnt := l.filter fun e => e.1 / segSlots == s

/-- The greatest slot of a list of slots. -/
def greatest (l : List Nat) : Option Nat := l.getLast?

/-- The slot of the last entry that sorts before a sort key. -/
def predSlot (l : NMap PdxEnt) (k : Nat) : Option Nat := greatest ((l.filter fun e => e.2.rankKey < k).map (·.1))

/-- The segment that a new entry's place lies in: the segment of the entry it follows, else the first. -/
def placeSeg (l : NMap PdxEnt) (k : Nat) : Nat :=
  match predSlot l k with
  | some a => a / segSlots
  | none => 0

/-- The hollows of a segment. -/
def hollows (l : NMap PdxEnt) (s : Nat) : List Nat := ((List.range segSlots).map (s * segSlots + ·)).filter fun a => !mhas l a

/-- Shift the entries of `[lo, hi)` by one slot: up when `up`, else down. -/
def shiftEnts (l : NMap PdxEnt) (lo hi : Nat) (up : Bool) : NMap PdxEnt :=
  let mv := l.filter fun e => lo ≤ e.1 && e.1 < hi
  mv.foldl (fun m e => mset m (if up then e.1 + 1 else e.1 - 1) e.2) (l.filter fun e => !(lo ≤ e.1 && e.1 < hi))

/-- Place a new entry in its segment (R259): toward the nearest hollow, the side on which fewer entries move, the higher side on a tie; nothing when the segment has no hollow. -/
def placeEntry (l : NMap PdxEnt) (e : PdxEnt) : Option (NMap PdxEnt) :=
  let s := placeSeg l e.rankKey
  let place := match predSlot l e.rankKey with
    | some a => a + 1
    | none => 0
  let hs := hollows l s
  match hs.find? (place ≤ ·), greatest (hs.filter (· < place)) with
  | some h, none => some (mset (shiftEnts l place h true) place e)
  | some h, some g =>
    if h - place ≤ place - 1 - g then some (mset (shiftEnts l place h true) place e)
    else some (mset (shiftEnts l (g + 1) place false) (place - 1) e)
  | none, some g => some (mset (shiftEnts l (g + 1) place false) (place - 1) e)
  | none, none => none

/-- A segment that has been left without a hollow starts a rebalance (R260). -/
def wantRebal (n : Node) (s : Nat) : Node :=
  if (hollows n.pdx.slots s).isEmpty && !n.pdx.rebal.contains s then { n with pdx := { n.pdx with rebal := n.pdx.rebal ++ [s] } } else n

/-! ## Rebalance (R258, R260) -/

/-- Lay entries out from a segment's first slot: a hollow after every eighth (R258). -/
def layout (base : Nat) : Nat → List PdxEnt → NMap PdxEnt
  | _, [] => []
  | k, e :: t => (base + k + k / 8, e) :: layout base (k + 1) t

/-- Build segments from `s` on, `q` entries each and one more in the first `r`. -/
def buildSegs (q r : Nat) : Nat → Nat → List PdxEnt → NMap PdxEnt
  | 0, _, _ => []
  | m + 1, s, l =>
    let k := if 0 < r then q + 1 else q
    layout (s * segSlots) 0 (l.take k) ++ buildSegs q (r - 1) m (s + 1) (l.drop k)

/-- The smallest aligned window of 2^j segments around segment `s`, from exponent `j`, that holds at most 56 entries a segment; `fuel` bounds j. -/
def rebalWindow (l : NMap PdxEnt) (s : Nat) : Nat → Nat → Nat
  | 0, j => j
  | f + 1, j =>
    let w := 2 ^ j
    if (l.filter fun e => e.1 / segSlots / w == s / w).length ≤ 56 * w then j else rebalWindow l s f (j + 1)

/-- Rebuild the window of segment `s`. -/
def rebalanced (l : NMap PdxEnt) (s : Nat) : NMap PdxEnt :=
  let w := 2 ^ rebalWindow l s 13 1
  let ents := l.filter fun e => e.1 / segSlots / w == s / w
  let new := buildSegs (ents.length / w) (ents.length % w) w (s / w * w) (ents.map (·.2))
  new.foldl (fun m e => mset m e.1 e.2) (l.filter fun e => e.1 / segSlots / w != s / w)

/-! ## Order of directory commands (R262) -/

/-- The directory's opcodes. -/
def pdOp (op : Nat) : Bool := [opPdLookup, opPdInsert, opPdDelete].contains op

/-- An earlier directory command has not ended. -/
def pdHeld (n : Node) (c : Cmd) : Bool := n.fe.cmds.any fun d => pdOp d.op && d.seq < c.seq

/-! ## PD_LOOKUP (R263, R269) -/

/-- Entries that match a key, by slot. -/
def matching (n : Node) (k : Nat) : NMap PdxEnt := n.pdx.slots.filter fun e => e.2.key == k

/-- Reload a slot from the shadow and record it (R269, R270). -/
def reloadSlot (t : Tck) (n : Node) (x : Nat × Bool) : Node :=
  let n1 := if x.2 then sramLost t n arrPdx x.1 else n
  let slots := match mget? n1.pdx.shadow x.1 with
    | some e => mset n1.pdx.slots x.1 e
    | none => mdel n1.pdx.slots x.1
  raise t (bump { n1 with pdx := { n1.pdx with slots := slots } } Rg.pdxScrubStatusMismatch 1) evPdxMismatch (leBytes 4 x.1)

/-- One lookup result (R263), and whether it hit. Bytes that the table gives no value for a key without an entry are free. DESIGN CHOICE, safe:
log entry 13. -/
def lookupOne (t : Tck) (bad : List (Nat × Bool)) (n : Node) (k : Nat) : Node × Bytes × Bool :=
  let n1 := match (matching n k).head? with
    | some e => (bad.filter (·.1 == e.1)).foldl (reloadSlot t) n
    | none => n
  match matching n1 k with
  | e :: l =>
    let n2 := pmc (bump n1 Rg.pdxLookupsHits 1) 49 0x4002 1
    (n2, leBytes 8 e.2.fpn ++ leBytes 1 e.2.rank ++ leBytes 1 (min (l.length + 1) 255) ++ [0, 0] ++ leBytes 4 e.1, true)
  | [] =>
    let (v, n2) := takeFree (pmc (bump n1 Rg.pdxLookupsMisses 1) 49 0x4002 1)
    (n2, zeros 8 ++ leBytes 1 v ++ [0, 1, 0] ++ leBytes 4 (v / 256), false)

/-- A key that is not looked up. -/
def notLooked (n : Node) : Node × Bytes :=
  let (v, n1) := takeFree n
  (n1, zeros 8 ++ leBytes 1 v ++ leBytes 1 (v / 256) ++ [2, 0] ++ leBytes 4 (v / 65536))

/-- Look keys up in order: results, hits, and the index of the first miss. -/
def lookups (t : Tck) (bad : List (Nat × Bool)) (stop : Bool) : List Nat → Nat → Node × Bytes × Nat × Option Nat → Node × Bytes × Nat × Option Nat
  | [], _, a => a
  | k :: l, i, (n, out, hits, miss) =>
    if stop && miss.isSome then
      let (n1, r) := notLooked n
      lookups t bad stop l (i + 1) (n1, out ++ r, hits, miss)
    else
      let (n1, r, hit) := lookupOne t bad n k
      lookups t bad stop l (i + 1) (n1, out ++ r, hits + b2n hit, if hit then miss else some (miss.getD i))

/-- `PD_LOOKUP` (R262, R263, R269). `bad` names slots that fail their check when they are read for return, and whether their word is uncorrectable. -/
def pdLookup (h : Nat) (bad : List (Nat × Bool)) (t : Tck) (n : Node) : Node :=
  withCmd n h opPdLookup fun c =>
    if pdHeld n c then n
    else
      let cnt := c.f 32 2
      checked t n c (offIf (!mult (c.f 24 8) 8) 24 ++ offIf (cnt == 0 || 4096 < cnt) 32 ++ offIf (1 < c.f 34 1) 34 ++ rsv c 35 39
        ++ offIf (!mult (c.f 40 8) 16) 40 ++ rsv c 48 63)
        (let keys := (List.range cnt).map fun j => ofLe (hostRead n c.mem (c.f 24 8 + 8 * j) 8)
         let (n1, out, hits, miss) := lookups t bad (bitAt (c.f 34 1) 0) keys 0 (n, [], 0, none)
         complete t (hostWrite n1 c.mem (c.f 40 8) out) h stOk (leBytes 4 hits ++ leBytes 4 (miss.getD cnt)))

/-! ## PD_INSERT and PD_DELETE (R264 to R267) -/

/-- The 16-byte entries of a command: KEY and the second word. -/
def pdEntries (n : Node) (c : Cmd) : List (Nat × Nat) :=
  (List.range (c.f 32 2)).map fun j =>
    (ofLe (hostRead n c.mem (c.f 24 8 + 16 * j) 8), ofLe (hostRead n c.mem (c.f 24 8 + 16 * j + 8) 8))

/-- An entry of the directory from its two words. -/
def pdEnt (x : Nat × Nat) : PdxEnt := ⟨x.1, bits x.2 0 45, bits x.2 45 8⟩

/-- Offending fields of the shared body; `all` says whether ALL may be set. -/
def pdOffs (n : Node) (c : Cmd) (all : Bool) : List Nat :=
  let cnt := c.f 32 2
  let count := cnt == 0 || 4096 < cnt
  offIf (!mult (c.f 24 8) 16 || (!count && (pdEntries n c).any fun x => bits x.2 53 10 != 0 || (!all && bitAt x.2 63))) 24
  ++ offIf count 32 ++ rsv c 34 39 ++ rsv c 48 63

/-- Is a page of this node eligible (R266): of a sequence of the node's tenant, or a shared prefix page already, and filled. -/
def pdEligible (n : Node) (f : Nat) : Bool :=
  match pageAt n (fpnIdx f) with
  | some e => e.fill == 64 && (e.pref || compOurs n e.comp)
  | none => false

/-- A page of this node becomes a shared prefix page. -/
def markPrefix (n : Node) (f : Nat) : Node :=
  if fpnNode f == nodeId n then { n with ter := { n.ter with pages := mmod n.ter.pages (fpnIdx f) fun e => { e with pref := true } } } else n

/-- Apply one entry of `PD_INSERT` (R265): its outcome and the node, or nothing while its segment has no hollow (R260). -/
def insertOne (n : Node) (e : PdxEnt) : Option (Nat × Node) :=
  let put (l : NMap PdxEnt) (out : Nat) : Option (Nat × Node) :=
    (placeEntry l e).map fun m =>
      (out, wantRebal (bump (setArray n m) Rg.pdxEditsInserts 1) (placeSeg l e.rankKey))
  match n.pdx.slots.find? fun x => x.2.key == e.key && x.2.fpn == e.fpn with
  | some x => if x.2.rank = e.rank then some (2, n) else put (mdel n.pdx.slots x.1) 1
  | none =>
    if rd n Rg.pdxCfgLimit ≤ pdxCount n then some (3, n)
    else if !inMap n (fpnNode e.fpn) then some (4, n)
    else if fpnNode e.fpn == nodeId n && !pdEligible n e.fpn then some (5, n)
    else (put n.pdx.slots 0).map fun r => (r.1, markPrefix r.2 e.fpn)

/-- The end of a `PD_INSERT`: its outcome bytes and counts. -/
def insertEnd (t : Tck) (n : Node) (c : Cmd) (outs : Bytes) : Node :=
  let done := (outs.filter fun b => b.toNat < 2).length
  let refused := (outs.filter fun b => 3 ≤ b.toNat).length
  complete t (hostWrite { n with pdx := { n.pdx with job := none } } c.mem (c.f 40 8) outs) c.handle stOk (leBytes 4 done ++ leBytes 4 refused)

/-- Apply entries in index order; one that must wait keeps the command's place (R260, R262). -/
def insertAll (t : Tck) (c : Cmd) (counted : Bool) : List PdxEnt → Nat → Bytes → Node → Node
  | [], _, outs, n => insertEnd t n c outs
  | e :: l, i, outs, n =>
    match insertOne n e with
    | some (o, n1) => insertAll t c false l (i + 1) (outs ++ leBytes 1 o) n1
    | none =>
      let n1 := if counted then n else bump n Rg.pdxRebalWaits 1
      let n2 := wantRebal n1 (placeSeg n.pdx.slots e.rankKey)
      setRunning { n2 with pdx := { n2.pdx with job := some ⟨c.handle, i, outs, true⟩ } } c.handle

/-- `PD_INSERT` (R259 to R261, R264 to R266). -/
def pdInsert (h : Nat) (t : Tck) (n : Node) : Node :=
  withCmd n h opPdInsert fun c =>
    if pdHeld n c then n
    else checked t n c (pdOffs n c false) (insertAll t c false ((pdEntries n c).map pdEnt) 0 [] n)

/-- A waiting `PD_INSERT` goes on. -/
def insertGoOn (t : Tck) (n : Node) : Node :=
  match n.pdx.job with
  | none => n
  | some j =>
    match findCmd n j.handle with
    | none => { n with pdx := { n.pdx with job := none } }
    | some c => insertAll t c j.counted (((pdEntries n c).map pdEnt).drop j.next) j.next j.outs n

/-- Remove entries and release their page references; a page left without one is freed under R94. -/
def removeEnts (t : Tck) (n : Node) (l : NMap PdxEnt) : Node :=
  let n1 := setArray n (n.pdx.slots.filter fun e => !l.contains e)
  let mine := (l.map (·.2.fpn)).filter fun f => fpnNode f == nodeId n && !pageLive n1 f
  if mine.isEmpty then n1 else retirePages t n1 mine []

/-- Apply the entries of `PD_DELETE` in order: outcome bytes and entries removed (R267). -/
def deleteAll (t : Tck) : List (Nat × Nat) → Node × Bytes × Nat → Node × Bytes × Nat
  | [], a => a
  | x :: l, (n, outs, k) =>
    let hit := n.pdx.slots.filter fun e => e.2.key == x.1 && (bitAt x.2 63 || e.2.fpn == bits x.2 0 45)
    deleteAll t l (bump (removeEnts t n hit) Rg.pdxEditsDeletes hit.length, outs ++ [if hit.isEmpty then 1 else 0], k + hit.length)

/-- `PD_DELETE` (R264, R267). -/
def pdDelete (h : Nat) (t : Tck) (n : Node) : Node :=
  withCmd n h opPdDelete fun c =>
    if pdHeld n c then n
    else checked t n c (pdOffs n c true)
      (let (n1, outs, k) := deleteAll t (pdEntries n c) (n, [], 0)
       complete t (hostWrite n1 c.mem (c.f 40 8) outs) h stOk (leBytes 4 k ++ leBytes 4 (outs.filter (· == 1)).length))

/-- `PDX_REBALANCE` (R258, R260): the first rebalance waiting ends, and an insertion that waited goes on. -/
def pdxRebalance (t : Tck) (n : Node) : Node :=
  match n.pdx.rebal with
  | [] => n
  | s :: l =>
    let m := rebalanced n.pdx.slots s
    let n1 := setArray { n with pdx := { n.pdx with rebal := l.filter fun x => (hollows m x).isEmpty } } m
    insertGoOn t (bump n1 Rg.pdxRebalCount 1)

/-! ## The comparator (R270) -/

/-- A poisoned shadow line of four slots: rewritten from the array when its slots pass SECDED, else its slots become hollows and their references are released. -/
def shadowLine (t : Tck) (n : Node) (x : Nat × Bool) : Node :=
  let mine (a : Nat) : Bool := a / 4 == x.1
  if x.2 then
    { n with pdx := { n.pdx with shadow := (n.pdx.slots.filter fun e => mine e.1).foldl (fun m e => mset m e.1 e.2) (n.pdx.shadow.filter fun e => !mine e.1) } }
  else raise t (removeEnts t n (n.pdx.slots.filter fun e => mine e.1)) evPdxLost []

/-- `PDX_COMPARATOR` (R229, R270): once a tick, the next `SEGS` segments are compared. `bad` names slots that differ or hold an uncorrectable word, `lost` shadow
lines that are poisoned and whether their array slots pass SECDED. -/
def pdxComparator (bad lost : List (Nat × Bool)) (t : Tck) (n : Node) : Node :=
  if t.tick < n.pdx.cmpTick then n
  else
    let k := rd n Rg.pdxScrubCfgSegs
    let inSpan (s : Nat) : Bool := (s + pdxSegs - n.pdx.cmpNext) % pdxSegs < k
    let n1 := (lost.filter fun x => inSpan (x.1 * 4 / segSlots)).foldl (shadowLine t) n
    let n2 := (bad.filter fun x => inSpan (x.1 / segSlots)).foldl (reloadSlot t) n1
    let n3 := { n2 with pdx := { n2.pdx with cmpNext := (n.pdx.cmpNext + k) % pdxSegs, cmpTick := t.tick + 1 } }
    if pdxSegs ≤ n.pdx.cmpNext + k then bump n3 Rg.pdxScrubStatusPasses 1 else n3

/-- `PD_LOOKUP`. -/
def execPdLookup (h : Word) (bad : List (Nat × Bool)) (s : State) : Outcome State Fault Refusal := onNode (pdLookup h.toNat bad) s
/-- `PD_INSERT`. -/
def execPdInsert (h : Word) (s : State) : Outcome State Fault Refusal := onNode (pdInsert h.toNat) s
/-- `PD_DELETE`. -/
def execPdDelete (h : Word) (s : State) : Outcome State Fault Refusal := onNode (pdDelete h.toNat) s
/-- `PDX_REBALANCE`. -/
def execPdxRebalance (s : State) : Outcome State Fault Refusal := onNode pdxRebalance s
/-- `PDX_COMPARATOR`. -/
def execPdxComparator (bad lost : List (Nat × Bool)) (s : State) : Outcome State Fault Refusal := onNode (pdxComparator bad lost) s

end Sys2Proof.Machine
end

