-- ==== Sys2Proof/Machine/Service.lean ====
section
/-! DEFINITION. Service (20): capabilities, live update, recalibration, march tests, retirement and replacement, performance counters, traces, unlock tokens and the monitor. -/

namespace Sys2Proof.Machine

open Host (Outcome)

/-! ## Capabilities (R11, R76) -/

/-- The numbers below `k` for which something holds, as a mask. -/
def maskWhere (k : Nat) (p : Nat → Bool) : Nat := maskOf ((List.range k).filter p)

/-- The 128-byte capability structure. -/
def capsBytes (t : Tck) (n : Node) : Bytes :=
  let pch := ((List.range 1024).filter (pchInService n)).length
  let cl := maskWhere 32 fun c => rdB n (Rg.attClStatusInService c) && !n.mic.clustersOut.contains c
  padTo 128 (leBytes 4 (n.bank.get Rg.nidIdentMinor.off) ++ leBytes 4 cl ++ leBytes 1 (maskWhere 8 fun s => !n.mic.stacksOut.contains s)
    ++ leBytes 1 (maskWhere 8 fun p => rdB n (Rg.qstPortStatusUp p)) ++ leBytes 1 (maskWhere 6 fun b => rdB n (Rg.qstBlStatusUp b)) ++ leBytes 1 t.cur
    ++ leBytes 2 pch ++ leBytes 2 ((List.range 1024).filter (bsuInService n)).length
    ++ leBytes 8 (pch * pchBytes) ++ leBytes 8 (t2Bytes n) ++ leBytes 8 (t3Bytes n)
    ++ leBytes 2 (nodeId n) ++ leBytes 1 0xFF ++ leBytes 1 1 ++ leBytes 4 (epochOf n)
    ++ leBytes 2 (rd n Rg.cmdHorizonMax) ++ leBytes 2 (rd n Rg.cmdHorizonDeadlineDef))

/-- `QUERY_CAPS`. -/
def queryCaps (h : Nat) (t : Tck) (n : Node) : Node :=
  withCmd n h opQueryCaps fun c =>
    checked t n c (offIf (!mult (c.f 24 8) 64) 24 ++ rsv c 32 63) (complete t (hostWrite n c.mem (c.f 24 8) (capsBytes t n)) h stOk (leBytes 1 128))

/-! ## Live update (R425 to R430) -/

/-- The slot that is not running. -/
def otherSlot (n : Node) : Nat := 1 - rd n Rg.nidBootSlot

/-- Is a commit pending: accepted and not yet complete. -/
def commitPending (n : Node) : Bool := n.svc.commit.isSome || n.svc.switched.isSome

/-- May a unit number be recalibrated (R425). -/
def recalUnit (u : Nat) : Bool := u < 14 || (16 ≤ u && u < 24)

/-- Offending fields of an `UPDATE_STAGE` (R9, R425). -/
def stageOffs (n : Node) (c : Cmd) : List Nat :=
  let fw := c.f 24 1 == 0
  offIf (1 < c.f 24 1 || (fw && commitPending n)) 24
    ++ (if fw then rsv c 25 25 else offIf (!recalUnit (c.f 25 1)) 25)
    ++ rsv c 26 31
    ++ (if fw then offIf (!mult (c.f 32 8) 4096) 32 ++ offIf (0x780000 < c.f 40 4) 40 else rsv c 32 39 ++ rsv c 40 43)
    ++ rsv c 44 63

/-- Write an image into the slot that is not running and check it. -/
def stageImage (c : Cmd) (t : Tck) (n : Node) : Node :=
  let img := hostRead n c.mem (c.f 32 8) (c.f 40 4)
  let slot := otherSlot n
  let k := imageCheck img
  let n1 := modBrd n fun b => { b with images := mset b.images slot (if k = 0 then img else []) }
  if k = 0 then
    let d := slice img 16 48
    let n2 := modSvc n1 fun s => { s with staged := some ⟨slot, d, field img 8 2⟩ }
    complete t (raise t n2 evUpdateStaged []) c.handle stOk (d.take 16)
  else badParam t (raise t (modSvc n1 fun s => { s with staged := none }) evBootImageBad (leBytes 1 slot ++ leBytes 1 k)) c.handle 32

/-- A recalibration is accepted: the unit stops at the next tick boundary (R427). -/
def recalBegin (c : Cmd) (n : Node) : Node :=
  let u := c.f 25 1
  setRunning (modSvc n fun s => { s with recal := s.recal.filter (fun r => r.unit != u || !r.dead) ++ [⟨c.handle, u, c.accTick, none, false, false⟩] }) c.handle

/-- `UPDATE_STAGE`: an image is staged, or a unit's recalibration begins. -/
def updateStage (h : Nat) (t : Tck) (n : Node) : Node :=
  withCmd n h opUpdateStage fun c => checked t n c (stageOffs n c) (if c.f 24 1 = 0 then stageImage c t n else recalBegin c n)

/-- Does a unit carry traffic: a fabric port, a board link, a flash root port. -/
def unitUp (n : Node) (u : Nat) : Bool :=
  if u < 8 then rdB n (Rg.qstPortStatusUp u) else if u < 14 then rdB n (Rg.qstBlStatusUp (u - 8)) else n.brd.trained.contains (2, u - 16)

/-- Stop a unit. -/
def unitStop (t : Tck) (n : Node) (u : Nat) : Node :=
  if u < 8 then portOff t n u else if u < 14 then blOff t n (u - 8) else noteUntrained n 2 (u - 16)

/-- A unit returns as it was. -/
def unitBack (n : Node) (u : Nat) (was : Bool) : Node :=
  if !was then n
  else if u < 8 then portUp u n
  else if u < 14 then noteTrained (wr n (Rg.qstBlStatusUp (u - 8)) 1) 3 (u - 8)
  else noteTrained n 2 (u - 16)

/-- Stop the units whose boundary has come. -/
def recalStop (t : Tck) (n : Node) : Node :=
  n.svc.recal.foldl
    (fun m r =>
      if r.start.isSome || t.tick < r.accTick + 1 then m
      else
        let x : Recal := { r with start := some t.notches, was := unitUp m r.unit }
        unitStop t (modSvc m fun s => { s with recal := lmodify s.recal (· == r) fun _ => x }) r.unit)
    n

/-- A unit is back: the command completes with the notches taken. -/
def recalBack (u : Nat) (t : Tck) (n : Node) : Node :=
  match n.svc.recal.find? fun r => r.unit == u && !r.dead with
  | some r =>
    match r.start with
    | some k => complete t (unitBack (modSvc n fun s => { s with recal := s.recal.filter (· != r) }) u r.was) r.handle stOk (leBytes 4 (t.notches - k))
    | none => n
  | none => n

/-- `RECALIBRATION`. -/
def recalibration (ev : RecalEv) (t : Tck) (n : Node) : Node :=
  match ev with
  | .command h => withCmd n h opUpdateStage fun c => if c.f 24 1 = 1 then checked t n c (stageOffs n c) (recalBegin c n) else n
  | .stop => recalStop t n
  | .back u => recalBack u t n

/-- The class and number of a unit in `EV_TRAIN_FAIL`. -/
def unitClass (u : Nat) : Nat × Nat := if u < 8 then (4, u) else if u < 14 then (3, u - 8) else (2, u - 16)

/-- `RECALIBRATION_TIMEOUT`: the unit stays down. -/
def recalTimeout (h : Nat) (t : Tck) (n : Node) : Node :=
  match findCmd n h, n.svc.recal.find? (fun r => r.handle == h && !r.dead) with
  | some c, some r =>
    if !ticksPassed t c 1024 then n
    else
      let n1 := modSvc n fun s => { s with recal := lmodify s.recal (· == r) fun x => { x with dead := true, start := some (x.start.getD t.notches) } }
      let n2 := if r.start.isSome then n1 else unitStop t n1 r.unit
      complete t (raise t n2 evTrainFail (leBytes 1 (unitClass r.unit).1 ++ leBytes 1 (unitClass r.unit).2)) h stDeadline []
  | _, _ => n

/-- `UPDATE_COMMIT`: firmware dispatch is held, and the switch scheduled. -/
def updateCommit (h : Nat) (t : Tck) (n : Node) : Node :=
  withCmd n h opUpdateCommit fun c =>
    checked t n c (offIf n.svc.staged.isNone 24 ++ rsv c 32 63)
      (setRunning (modSvc n fun s => { s with commit := some (h, if c.f 24 8 = 0 then c.accTick + 1 else c.f 24 8, c.accTick) }) h)

/-- Has node firmware finished every firmware-path command it had begun, but for the commit. -/
def fwFinished (n : Node) (h : Nat) : Bool := !n.fe.cmds.any fun c => fwPath c.op && c.stage != .queued && c.handle != h

/-- Measurements 1 to 6 as they stand. -/
def measNow (n : Node) : NMap Bytes := (List.range 6).map fun i => (i + 1, measurement n (i + 1))

/-- The new image takes over (R428, R429). -/
def takeOver (h : Nat) (x : Image) (t : Tck) (n : Node) : Node :=
  let old := slice (imageIn n (rd n Rg.nidBootSlot)) 16 48
  let n1 := modSec n fun s => { s with prior := some (t.tick, measNow n) }
  let n2 := wr (runImage n1 (imageIn n x.slot)) Rg.nidBootSlot x.slot
  let n3 := modSvc { n2 with bsu := { n2.bsu with fwNew := true } } fun s => { s with commit := none, staged := none, switched := some (h, t.tick, rd n Rg.nidBootSlot) }
  rebind t (raise t n3 evUpdateSwitch (old ++ x.digest))

/-- `UPDATE_SWITCH`: at the first tick boundary at or after SWITCH at which firmware has finished what it had begun. -/
def updateSwitch (t : Tck) (n : Node) : Node :=
  match n.svc.commit, n.svc.staged with
  | some (h, sw, a), some x => if t.notch = 0 && a < t.tick && sw ≤ t.tick && fwFinished n h then takeOver h x t n else n
  | _, _ => n

/-- `SWITCH_TIMEOUT`. -/
def switchTimeout (t : Tck) (n : Node) : Node :=
  match n.svc.commit with
  | some (h, _, _) =>
    match findCmd n h with
    | some c => if ticksPassed t c 1024 then complete t (modSvc n fun s => { s with commit := none }) h stDeadline [] else n
    | none => modSvc n fun s => { s with commit := none }
  | none => n

/-- A boot configuration record with a new SEQ and ACTIVE slot (R418). -/
def newCfg (old : Bytes) (slot : Nat) : Bytes :=
  let b := (putBytes (putBytes old 4 (leBytes 4 (field old 4 4 + 1))) 12 (leBytes 1 slot)).take 60
  b ++ leBytes 4 (crc32c b)

/-- The copy a writer updates: one that is not valid, else the one with the lower SEQ. -/
def cfgToWrite (n : Node) : Nat :=
  match mget? n.brd.cfg 0, mget? n.brd.cfg 1 with
  | some a, some b => if !cfgValid a then 0 else if !cfgValid b then 1 else if field a 4 4 < field b 4 4 then 0 else 1
  | none, _ => 0
  | _, none => 1

/-- `UPDATE_CONFIRM`: 1,024 ticks after the switch the new slot becomes ACTIVE. -/
def updateConfirm (t : Tck) (n : Node) : Node :=
  match n.svc.switched with
  | some (h, k, _) =>
    if t.tick < k + 1024 then n
    else
      let n1 := match bootCfg n with
        | some c => modBrd n fun b => { b with cfg := mset b.cfg (cfgToWrite n) (newCfg c (rd n Rg.nidBootSlot)) }
        | none => n
      complete t (modSvc (wr n1 Rg.nidBootFallback 0) fun s => { s with switched := none }) h stOk (leBytes 8 k)
  | none => n

/-- `UPDATE_ROLLBACK`: a watchdog expiry before the confirmation. -/
def updateRollback (t : Tck) (n : Node) : Tck × Node := if n.svc.switched.isSome then watchdog t n else (t, n)

/-! ## March tests and units (R432, R433) -/

/-- `MARCH_TEST`. -/
def marchTest (h : Nat) (t : Tck) (n : Node) : Node :=
  withCmd n h opMarchTest fun c =>
    let k := c.f 25 1
    let first := c.f 26 2
    let count := c.f 28 2
    let units := if k = 1 then 32 else 1024
    checked t n c (offIf (1 < c.f 24 1) 24 ++ offIf (2 < k) 25 ++ offIf (units ≤ first) 26 ++ offIf (count == 0 || units < first + count) 28 ++ rsv c 30 63)
      (setRunning (modSvc n fun s => { s with march := s.march ++ [⟨0, h, c.f 24 1, k, first, count, 0, 0, 0, 0⟩] }) h)

/-- `MARCH_TEST_TIMEOUT`: a unit that was still draining returns to service. -/
def marchTimeout (h : Nat) (t : Tck) (n : Node) : Node :=
  match findCmd n h, n.svc.march.find? (fun j => j.why == 0 && j.handle == h) with
  | some c, some j =>
    if !ticksPassed t c 65536 then n
    else
      let n1 := modSvc n fun s => { s with march := s.march.filter (· != j) }
      complete t (if marchBusy n1 j.kind j.unit then marchOut n1 j.kind j.unit false else n1) h stDeadline (marchResult j)
  | _, _ => n

/-- The speed that every module of a board memory half supports: the highest of R416. -/
def halfSpeed (n : Node) (half : Nat) : Nat :=
  let l := (n.brd.dimms.filter fun d => d.1 / 6 == half && !n.mic.ddrOut.contains d.1).map (·.2.2)
  (([8800, 8000, 7200, 6400].find? fun v => l.all (v ≤ ·))).getD 6400

/-- Lines of direct-partition frames in a channel that heads hold. -/
def directHeld (n : Node) (ch : Nat) : List Nat :=
  (n.cxd.dir.map (·.1)).filter fun l => region1 ≤ 64 * l && Config.directChannel ((64 * l - region1) / 65536) % 12 == ch

/-- Take a DDR5 channel out (KIND 1 OP 0): its lines are recalled first; then its cache blocks leave, dirty ones by way of the cleaner, and its frames are remapped. -/
def dimmOut (h ch : Nat) (t : Tck) (n : Node) : Node :=
  let cap := match mget? n.brd.dimms ch with
    | some d => d.1
    | none => 0
  if !mhas n.brd.dimms ch || n.mic.ddrOut.contains ch then complete t n h stOk (leBytes 4 0)
  else if t2Bytes n - cap < directBytes n + recSize n then badParam t n h 26
  else if !(directHeld n ch).isEmpty then (directHeld n ch).foldl (recallLine t true) n
  else
    let gone := (mkeys n.ter.cache).filter fun b => Config.cacheChannel b % 12 == ch
    let n1 := gone.foldl (fun m b => (List.range 16).foldl (fun x i => cacheDrop x (16 * b + i)) m) n
    let (v, n2) := takeFree { n1 with mic := { n1.mic with ddrOut := n1.mic.ddrOut ++ [ch] } }
    complete t (raise t n2 evModuleOut []) h stOk (leBytes 4 v)

/-- Bring a DDR5 channel in (KIND 1 OP 1) with the module its SPD describes. -/
def dimmIn (h ch : Nat) (d : Option Found) (t : Tck) (n : Node) : Node :=
  match d with
  | none => badParam t n h 26
  | some d =>
    match (if d.speed < halfSpeed n (ch / 6) then some 8 else d.reject) with
    | some r => badParam t (idReject t n ch r) h 26
    | none =>
      let n1 := noteTrained (useDimm n { d with dev := ch }) 5 ch
      complete t (raise t { n1 with mic := { n1.mic with ddrOut := n1.mic.ddrOut.filter (· != ch) } } evModuleIn []) h stOk (leBytes 4 0)

/-- Take a flash module out (KIND 2 OP 0): its sectors go to the others. DESIGN CHOICE, safe: the count moved is free (log entry 20). -/
def flashOutOf (h k : Nat) (t : Tck) (n : Node) : Node :=
  if !mhas n.brd.flash k || n.mic.flashOut.contains k then complete t n h stOk (leBytes 4 0)
  else if t3Bytes n - mgetD n.brd.flash k 0 < t3Used n then badParam t n h 26
  else
    let (v, n1) := takeFree (noteUntrained { n with mic := { n.mic with flashOut := n.mic.flashOut ++ [k] } } 2 k)
    complete t (raise t n1 evModuleOut []) h stOk (leBytes 4 v)

/-- Bring a flash module in (KIND 2 OP 1). -/
def flashInto (h k : Nat) (d : Option Found) (t : Tck) (n : Node) : Node :=
  match d with
  | none => badParam t n h 26
  | some d =>
    match d.reject with
    | some r => badParam t (idReject t n (16 + k) r) h 26
    | none =>
      let n1 := noteTrained (useFlash n { d with dev := k }) 2 k
      complete t (raise t { n1 with mic := { n1.mic with flashOut := n1.mic.flashOut.filter (· != k) } } evModuleIn []) h stOk (leBytes 4 0)

/-- Retire a pseudo-channel by command (KIND 0 OP 0); one that retires already takes the command as its own. -/
def pchOutOf (h p : Nat) (t : Tck) (n : Node) : Node :=
  if n.mic.retired.contains p then complete t n h stOk (leBytes 4 0)
  else if n.mic.retiring.any (·.pch == p) then
    if (n.mic.retiring.any fun r => r.pch == p && r.handle.isSome) then n
    else setRunning { n with mic := { n.mic with retiring := lmodify n.mic.retiring (·.pch == p) fun r => { r with handle := some h } } } h
  else retireGoOn t (startRetire (setRunning n h) p (some h)) p

/-- Test a retired pseudo-channel for its return (KIND 0 OP 1). -/
def pchInto (h p : Nat) (t : Tck) (n : Node) : Node :=
  if n.mic.retired.contains p then setRunning (modSvc n fun s => { s with march := s.march ++ [⟨1, h, 0, 0, p, 1, 0, 0, 0, 0⟩] }) h
  else complete t n h stOk (leBytes 4 0)

/-- `RETIRE_PCH`: `d` is what the identity memory of a unit brought in says. -/
def retirePch (h : Nat) (d : Option Found) (t : Tck) (n : Node) : Node :=
  withCmd n h opRetirePch fun c =>
    let k := c.f 24 1
    let op := c.f 25 1
    let u := c.f 26 2
    let units := if k = 0 then 1024 else if k = 1 then 12 else 8
    checked t n c (offIf (2 < k) 24 ++ offIf (1 < op) 25 ++ offIf (units ≤ u) 26 ++ rsv c 28 63)
      (if k = 0 then (if op = 0 then pchOutOf h u t n else pchInto h u t n)
       else if k = 1 then (if op = 0 then dimmOut h u t n else dimmIn h u d t n)
       else if op = 0 then flashOutOf h u t n else flashInto h u d t n)

/-! ## Performance counters and traces (R436, R437) -/

/-- May a requester program the performance counters: the management path, and host port halves of the tenant. -/
def mayPmc (n : Node) (src : Req) : Bool :=
  match src with
  | .mgmt => true
  | .host _ _ => tenantState n != tsEmpty
  | .qp _ => false

/-- Has a requester the management path's view: itself, or a head granted under R390. -/
def fineView (n : Node) (src : Req) : Bool :=
  match src with
  | .mgmt => true
  | .host h _ => bitAt (rd n Rg.secFineGrant) h.val
  | .qp _ => false

/-- `PMC_CTL_WRITE`. -/
def pmcCtl (v : Nat) (src : Req) (n : Node) : Node :=
  if !mayPmc n src then n
  else
    let n1 := wr n Rg.pmcCtlFreeze v
    if bitAt v 1 then (List.range 64).foldl (fun m u => wr m (Rg.pmcOvfOvf u) 0) (modSvc n1 fun s => { s with pmc := [] }) else n1

/-- `PMC_TRACE_SEL_WRITE`. -/
def pmcTraceSel (v : Nat) (src : Req) (n : Node) : Node :=
  if fineView n src then copyWords (wr n Rg.pmcTraceSelSlot v) Rg.pmcTraceDataData 16 (mgetD n.svc.trace (v % 4096) (zeros 64)) else n

/-! ## Unlock tokens (R443) -/

/-- A write of a monitor register by the management path; any other is ignored and recorded. -/
def monWrite (t : Tck) (n : Node) (src : Req) (off : Nat) (body : Node) : Node :=
  match src with
  | .mgmt => body
  | _ => raise t n evMonWriteIgnored (leBytes 4 off)

/-- `MON_TOKEN_DATA_WRITE`. -/
def tokenData (v : Nat) (src : Req) (t : Tck) (n : Node) : Node :=
  monWrite t n src Rg.monTokenDataWord.off
    (if n.svc.tokenBytes.length < 208 then modSvc n fun s => { s with tokenBytes := s.tokenBytes ++ leBytes 4 v } else n)

/-- Do a token's fields and signature hold, for this node, with its end ahead. -/
def tokenGood (n : Node) (b : Bytes) : Bool :=
  b.length == 208 && field b 0 4 == 0x4B4C4E55 && slice b 4 48 == Config.deviceIdHash && n.svc.hours < field b 52 4 && byteAt b 56 < 4
    && allZero (slice b 57 55) && Config.sigOk (Config.romKey 1) (b.take 112) (b.drop 112)

/-- The submission's result; the fill position begins again. -/
def tokenResult (n : Node) (status : Nat) : Node := wr (modSvc n fun s => { s with tokenBytes := [] }) Rg.monTokenCtlResult status

/-- A forced unlock closes the tenant first; the token waits until it is gone. -/
def forceUnlock (k : Token) (t : Tck) (n : Node) : Node :=
  let n1 := wr (wr n Rg.secStatusState tsFencing) Rg.secStatusSeal 0
  let n2 := modSec n1 fun s => { s with closing := some (noHandle, t.tick), fenced := false, destroyed := 0 }
  forceClose t (modSvc n2 fun s => { s with tokenWait := some k })

/-- `SUBMIT`. -/
def submitToken (src : Req) (t : Tck) (n : Node) : Node :=
  monWrite t n src Rg.monTokenCtlSubmit.off
    (let b := n.svc.tokenBytes
     let k : Token := ⟨field b 52 4, byteAt b 56⟩
     if !tokenGood n b then tokenResult n stDenied
     else if tenantState n = tsSealed then
       if bitAt k.flags 0 then forceUnlock k t (tokenResult n stOk) else tokenResult (raise t n evDebugRefused []) stDenied
     else rebind t (raise t (modSvc (tokenResult n stOk) fun s => { s with token := some k }) evMonUnlock []))

/-- `LOCK`. -/
def lockToken (src : Req) (t : Tck) (n : Node) : Node :=
  monWrite t n src Rg.monCtlLock.off (modSvc n fun s => { s with token := none, tokenWait := none })

/-- `TOKEN_EXPIRY`: the operating hours have reached `hours`. -/
def tokenExpiry (hours : Nat) (n : Node) : Node :=
  let n1 := modSvc n fun s => { s with hours := max s.hours hours }
  match n1.svc.token with
  | some k => if k.expires ≤ n1.svc.hours then modSvc n1 fun s => { s with token := none } else n1
  | none => n1

/-! ## The monitor (R443, R444) -/

/-- Does the monitor answer. -/
def monOn (n : Node) : Bool := Config.debugFuse || n.svc.token.isSome

/-- A reply, while the monitor answers. -/
def monReply (n : Node) (r : MonReply) (body : Node) : Node := if monOn n then emit body (.mon r) else n

/-- `EVLOG`: records from an index on, torn ones skipped. -/
def monEvlog (first : Nat) (k : Option Nat) (n : Node) : Node :=
  let l := n.svc.slots.drop first
  monReply n (.records ((l.take (k.getD l.length)).filter fun r => field r 0 4 != 0)) n

/-- `TICKS`: begin a capture at the next boundary. -/
def monTicks (k : Nat) (t : Tck) (n : Node) : Node :=
  if !monOn n then n
  else if k = 0 || 256 < k then emit n (.mon .err)
  else modSvc n fun s => { s with cap := some ⟨t.tick + 1, k, []⟩ }

/-- `TICKS_CAPTURE_DONE`: one line for each tick. -/
def ticksDone (t : Tck) (n : Node) : Node :=
  match n.svc.cap with
  | none => n
  | some c =>
    if t.tick < c.first + c.n then n
    else
      let line (i : Nat) : TickLine := (c.lines.find? (·.tick == c.first + i)).getD ⟨c.first + i, none, false, 0, n.pwr.step, rd n Rg.pwrStatusNstate, false⟩
      monReply n (.ticks ((List.range c.n).map line)) (modSvc n fun s => { s with cap := none })

/-- A stack's line. -/
def stackLine (n : Node) (s : Nat) : StackLine :=
  let mine (p : Nat) : Bool := p / 128 == s
  let x := mgetD n.svc.dump s (0, 0)
  ⟨s, (((List.range 128).map (128 * s + ·)).filter (pchInService n)).length, rd n (Rg.pwrTempTemp (5 + s)), x.1, x.2, (n.mic.retired.filter mine).map (· % 128)⟩

/-- `STACKS`: the counts since the last dump begin again. -/
def monStacks (n : Node) : Node := monReply n (.stacks ((List.range 8).map (stackLine n))) (modSvc n fun s => { s with dump := [] })

/-- `HELP`. -/
def monHelp (n : Node) : Node := monReply n .commands n

/-- `UART_BAD_LINE`: a line of more than 80 characters is discarded; another that is no command is answered `ERR`. -/
def uartBadLine (tooLong : Bool) (n : Node) : Node := if tooLong then n else monReply n .err n

/-! ## The commands -/

/-- `QUERY_CAPS`. -/
def execQueryCaps (h : Word) (s : State) : Outcome State Fault Refusal := onNode (queryCaps h.toNat) s
/-- `UPDATE_STAGE`. -/
def execUpdateStage (h : Word) (s : State) : Outcome State Fault Refusal := onNode (updateStage h.toNat) s
/-- `RECALIBRATION`. -/
def execRecalibration (ev : RecalEv) (s : State) : Outcome State Fault Refusal := onNode (recalibration ev) s
/-- `RECALIBRATION_TIMEOUT`. -/
def execRecalibrationTimeout (h : Word) (s : State) : Outcome State Fault Refusal := onNode (recalTimeout h.toNat) s
/-- `UPDATE_COMMIT`. -/
def execUpdateCommit (h : Word) (s : State) : Outcome State Fault Refusal := onNode (updateCommit h.toNat) s
/-- `UPDATE_SWITCH`. -/
def execUpdateSwitch (s : State) : Outcome State Fault Refusal := onNode updateSwitch s
/-- `SWITCH_TIMEOUT`. -/
def execSwitchTimeout (s : State) : Outcome State Fault Refusal := onNode switchTimeout s
/-- `UPDATE_CONFIRM`. -/
def execUpdateConfirm (s : State) : Outcome State Fault Refusal := onNode updateConfirm s
/-- `UPDATE_ROLLBACK`. -/
def execUpdateRollback (s : State) : Outcome State Fault Refusal := onReset s.node.svc.switched.isSome updateRollback s
/-- `MARCH_TEST`. -/
def execMarchTest (h : Word) (s : State) : Outcome State Fault Refusal := onNode (marchTest h.toNat) s
/-- `MARCH_TEST_TIMEOUT`. -/
def execMarchTestTimeout (h : Word) (s : State) : Outcome State Fault Refusal := onNode (marchTimeout h.toNat) s
/-- `RETIRE_PCH`. -/
def execRetirePch (h : Word) (found : Option Found) (s : State) : Outcome State Fault Refusal := onNode (retirePch h.toNat found) s
/-- `PMC_CTL_WRITE`. -/
def execPmcCtlWrite (v : Word) (src : Req) (s : State) : Outcome State Fault Refusal := onNode (whenOpen (fun _ => pmcCtl v.toNat src)) s
/-- `PMC_TRACE_SEL_WRITE`. -/
def execPmcTraceSelWrite (v : Word) (src : Req) (s : State) : Outcome State Fault Refusal := onNode (whenOpen (fun _ => pmcTraceSel v.toNat src)) s
/-- `MON_TOKEN_DATA_WRITE`. -/
def execMonTokenDataWrite (v : Word) (src : Req) (s : State) : Outcome State Fault Refusal := onNode (whenOpen (tokenData v.toNat src)) s
/-- `SUBMIT`. -/
def execSubmit (src : Req) (s : State) : Outcome State Fault Refusal := onNode (whenOpen (submitToken src)) s
/-- `LOCK`. -/
def execLock (src : Req) (s : State) : Outcome State Fault Refusal := onNode (whenOpen (lockToken src)) s
/-- `TOKEN_EXPIRY`. -/
def execTokenExpiry (hours : Word) (s : State) : Outcome State Fault Refusal := onNode (fun _ => tokenExpiry hours.toNat) s
/-- `EVLOG`. -/
def execEvlog (first : Nat) (count : Option Nat) (s : State) : Outcome State Fault Refusal := onNode (fun _ => monEvlog first count) s
/-- `TICKS`. -/
def execTicks (k : Nat) (s : State) : Outcome State Fault Refusal := onNode (monTicks k) s
/-- `TICKS_CAPTURE_DONE`. -/
def execTicksCaptureDone (s : State) : Outcome State Fault Refusal := onNode ticksDone s
/-- `STACKS`. -/
def execStacks (s : State) : Outcome State Fault Refusal := onNode (fun _ => monStacks) s
/-- `HELP`. -/
def execHelp (s : State) : Outcome State Fault Refusal := onNode (fun _ => monHelp) s
/-- `UART_BAD_LINE`. -/
def execUartBadLine (tooLong : Bool) (s : State) : Outcome State Fault Refusal := onNode (fun _ => uartBadLine tooLong) s

end Sys2Proof.Machine
end

