-- ==== Sys2Proof/Machine/Registers.lean ====
section
/-! DEFINITION. Register accesses (00): what each register reads, what a write does, coarsened reads (17), and the monitor's register commands (20). -/

namespace Sys2Proof.Machine

open Host (Outcome)

/-! ## What registers show that the bank does not hold -/

/-- A field's word from a list of (low bit, value). -/
def packWord (l : List (Nat × Nat)) : Nat := l.foldl (fun v e => v + e.2 * 2 ^ e.1) 0

/-- A mask of the numbers below `k` for which something holds, over the word's other bits. -/
def overBits (w lo k v : Nat) : Nat := putBits w lo k v

/-- The code of a time state (R45). -/
def stateCode (s : TimeState) : Nat :=
  match s with
  | .acquire => 0
  | .locked => 1
  | .holdover => 2
  | .free => 3
  | .stepping => 4

/-- TCK registers. HOPS shows the distance modulo 32, so that a node 32 hops away shows 0: the spec does not say what the 5-bit field shows there (DESIGN CHOICE, safe:
log entry 65). -/
def viewTck (t : Tck) (n : Node) (off : Nat) : Nat :=
  let tick := t.tick
  let sw := match t.switch with | some (_, a) => a | none => 0
  if off = 0x200000 then t.now % 2 ^ 32
  else if off = 0x200004 then t.now / 2 ^ 32 % 2 ^ 32
  else if off = 0x200008 then t.u
  else if off = 0x200010 then packWord [(0, t.notch), (6, tick % 2 ^ 26)]
  else if off = 0x200014 then tick / 2 ^ 26 % 2 ^ 32
  else if off = 0x200020 then packWord [(0, t.cur), (4, match t.switch with | some (p, _) => p | none => t.cur), (8, b2n t.switch.isSome)]
  else if off = 0x200024 then sw % 2 ^ 32
  else if off = 0x200028 then sw / 2 ^ 32
  else if off = 0x200030 then
    packWord [(0, stateCode t.state), (3, b2n t.gm), (4, b2n t.extOk), (5, t.hops % 32), (10, match t.upstream with | some l => linkCode l | none => 0x1F),
      (16, match t.gmKey with | some k => k.node % 8192 | none => 0), (29, match t.gmKey with | some k => k.cls % 4 | none => 2)]
  else if off = 0x200044 then packWord [(0, satTo 11 t.late.length), (16, b2n t.suspect)]
  else if off = 0x200050 then wrapInt 32 t.extOffset
  else if off = 0x200058 then t.seed % 2 ^ 32
  else if off = 0x20005C then t.seed / 2 ^ 32
  else n.bank.get off

/-- CMD registers. -/
def viewCmd (n : Node) (off : Nat) : Nat :=
  if 0x104000 ≤ off && off < 0x105000 then
    let i := (off - 0x104000) / 16
    let r := off % 16
    let sq := mget? n.fe.sqs i
    let cq := mget? n.fe.cqs i
    if r = 0 then (match sq with | some q => q.head | none => 0)
    else if r = 4 then (match sq with | some q => q.tail | none => 0)
    else if r = 8 then (match cq with | some q => q.posted | none => 0)
    else packWord [(0, match sq with | some q => q.outstanding | none => 0), (17, b2n (sq.any (·.en))), (18, b2n (cq.any (·.en)))]
  else n.bank.get off

/-- The composition whose slice on this node holds a cluster, or a pseudo-channel's group; 0 for none. -/
def compWith (n : Node) (p : SliceF → Bool) : Nat :=
  match n.map.map.slices.find? fun s => s.node == nodeId n && p s with
  | some s => s.comp
  | none => 0

/-- Is a cluster's clock halved: shed step 2, level 2 of its die's thermal site, or a board regulator rated below 2,400 A (R398, R402, R414). -/
def halfClock (n : Node) (c : Nat) : Bool :=
  2 ≤ n.pwr.step || (match mget? n.pwr.therm (c / 8) with | some x => 2 ≤ x.1 | none => false) || n.brd.rated.any (· < 2400)

/-- The read view a requester has of the conversion statistics; all zeros before its first read (R163). -/
def cvtView (n : Node) (src : Req) : CvtTotals := mgetD n.cvt.views (viewKey src) CvtTotals.zero

/-- ATT registers, of clusters, dies and conversion statistics. -/
def viewAtt (n : Node) (src : Req) (off : Nat) : Nat :=
  let c := (off - 0x300000) / 0x10000
  let r := off % 0x10000
  let w := n.bank.get off
  if off = 0x30C000 then n.cvt.snap.tick % 2 ^ 32
  else if off = 0x30C004 then (cvtView n src).tick / 2 ^ 32 % 2 ^ 26
  else if 0x30C100 ≤ off && off < 0x30C200 then
    let k := (off - 0x30C100) / 16
    let v := cvtView n src
    mgetD (if off % 16 = 0 then v.conv else if off % 16 = 4 then v.clip else v.nonfin) k 0
  else if r = 0 then
    packWord [(0, b2n (!n.mic.clustersOut.contains c)), (1, b2n (n.att.items.any fun i => i.st == .running && i.cluster == some c)), (2, c / 8),
      (4, b2n (halfClock n c)), (16, compWith n fun s => bitAt s.clusters c)]
  else if r = 0x40 then
    overBits (overBits w 0 8 (maskWhere 8 fun k => mhas n.att.tables (8 * c + k))) 8 8 (maskWhere 8 fun k => n.att.bound.contains (8 * c + k))
  else if r = 0x48 then
    let sel := n.bank.get (off - 4)
    (mgetD n.att.tables (8 * c + bits sel 12 3) []).getD (bits sel 0 12) 0
  else if r = 0x8000 then overBits w 0 13 (dieQueue n (c / 8)).length
  else w

/-- CFL registers. -/
def viewCfl (n : Node) (off : Nat) : Nat :=
  if off = 0x500004 then cflFree n else if off = 0x500014 then n.cfl.chains.length else n.bank.get off

/-- A digest's word. -/
def digestWord (d : Bytes) (w : Nat) : Nat := field d (4 * w) 4

/-- Slots of a micro-program store that hold a loaded program. -/
def loadedSlots (n : Node) (u : Bsu) : Nat := maskOf (u.progs.flatMap (fun p => (List.range p.2.1).map (p.1 + ·)) ++ fwSlots n u)

/-- BSU registers, of a unit and of a stack. -/
def viewBsu (n : Node) (off : Nat) : Nat :=
  let s := (off - 0x600000) / 0x20000
  let y := (off - 0x600000) % 0x20000
  if 0x10000 ≤ y then
    if y = 0x10000 then (n.bsu.frames.filter fun f => f.1 / 0x3000_0000 / 128 == s && (f.2 == 2 || f.2 == 3)).length + (n.bsu.scratch.map fun x =>
      if x.1 / 0x3000_0000 / 128 = s then x.2 / 4096 else 0).foldl (· + ·) 0
    else if y = 0x10008 then
      let sel := n.bank.get (off - 4)
      match mget? (unitOf n (128 * s + bits sel 0 7)).progs (bits sel 8 4) with
      | some p => digestWord p.2 (bits sel 12 4)
      | none => 0
    else n.bank.get off
  else
    let b := 128 * s + y / 0x200
    let u := unitOf n b
    let r := y % 0x200
    if r = 0 then
      packWord [(0, b2n (bsuInService n b)), (1, b2n u.run.isSome), (2, b2n (u.run.any (·.paused))), (3, b2n (bsuShed n b)),
        (4, b2n (u.run.any (·.deferred.isSome))), (5, areaUsed u), (12, match u.run with | some x => x.ent.prog % 16 | none => 0),
        (16, compWith n fun x => bitAt x.pchg (b / 16))]
    else if r = 4 then (match u.run with | some x => packWord [(0, x.ip % 1024), (10, satTo 22 x.msteps)] | none => 0)
    else if r = 8 then packWord [(0, loadedSlots n u), (16, maskOf (dedupNat (boundSlots u)))]
    else n.bank.get off

/-- A share in percent, 0 of nothing. -/
def percent (a b : Nat) : Nat := if b = 0 then 0 else a * 100 / b

/-- TER registers. -/
def viewTer (n : Node) (off : Nat) : Nat :=
  if off = 0x700000 then t1Free n
  else if off = 0x700004 then pinned1 n
  else if off = 0x700010 then
    overBits (overBits (n.bank.get off) 0 7 (percent (dirtyBlocks n) (cacheBytes n / 65536))) 8 8 (percent (pinned2 n) (cacheBytes n / 4096))
  else if off = 0x700024 then packWord [(0, 2 ^ (copying n).length - 1), (8, b2n (migSuspended n))]
  else n.bank.get off

/-- MIC registers. -/
def viewMic (n : Node) (off : Nat) : Nat :=
  if 0x800100 ≤ off && off < 0x800180 then
    let base := 128 * ((off - 0x800100) / 16) + 32 * (off % 16 / 4)
    maskWhere 32 fun j => n.mic.retired.contains (base + j)
  else if off = 0x800310 then overBits (n.bank.get off) 0 1 (b2n (!n.svc.march.isEmpty))
  else if off = 0x800320 then packWord [(0, Config.fusedCols 0 % 256), (8, Config.fusedCols 1 % 256), (16, Config.fusedCols 2 % 256)]
  else n.bank.get off

/-- EXP registers. A block is decoded within one step of the model, so BUSY and INPUT_WAIT read 0.
DESIGN CHOICE, unsafe: log entry 31. -/
def viewExp (n : Node) (off : Nat) : Nat :=
  if off < 0x900200 && off % 0x40 = 0 then b2n (!n.mic.expOut.contains ((off - 0x900000) / 0x40))
  else if off = 0x900404 then
    packWord [(0, n.wts.sets.length), (8, (n.wts.sets.filter (·.2.bound)).length), (16, (n.wts.sets.filter fun w => !w.2.defective.isEmpty).length)]
  else if off = 0x900418 then
    match mget? n.wts.sets (rd n Rg.expDigSetWset) with
    | some w =>
      let d := if rd n Rg.expDigSelWhich = 0 then w.digest else match baseSet n w with | some b => b.digest | none => []
      digestWord d (rd n Rg.expDigSelWord)
    | none => 0
  else n.bank.get off

/-- PDX registers; the place of the shadow is node firmware's own. DESIGN CHOICE, safe: log entry 26. -/
def viewPdx (n : Node) (off : Nat) : Nat :=
  if off = 0xA00000 then packWord [(0, n.pdx.slots.length), (21, b2n (!n.pdx.rebal.isEmpty))]
  else if off = 0xA00028 then Config.pdxShadow % 2 ^ 32
  else if off = 0xA0002C then Config.pdxShadow / 2 ^ 32 % 2 ^ 32
  else n.bank.get off

/-- CXD registers. -/
def viewCxd (n : Node) (off : Nat) : Nat :=
  let w := n.bank.get off
  if off = 0xB00000 then overBits w 0 4 (maskWhere 4 fun h => (headOf n h).link)
  else if 0xB00040 ≤ off && off < 0xB00050 then
    let h := (off - 0xB00040) / 4
    overBits (overBits w 0 1 (b2n ((headOf n h).link && !headIsLost n h))) 16 16 (n.cxd.exts.filter fun e => bitAt e.2.accepted h).length
  else if off = 0xB00104 then overBits w 16 1 (b2n n.cxd.job.isSome)
  else if off = 0xB0010C then
    let x := extentOf n (rd n Rg.cxdExtQueryExt)
    packWord [(0, x.state), (3, x.hosts), (7, x.mode), (8, x.accepted), (12, x.revoking)]
  else if off = 0xB00190 then b2n n.cxd.pub.isSome
  else if off = 0xB00200 then satTo 25 n.cxd.dir.length
  else w

/-- SEC, EVR and MON registers that show something held elsewhere. -/
def viewService (n : Node) (off : Nat) : Nat :=
  let w := n.bank.get off
  let open_ := Config.debugFuse || n.svc.token.isSome
  if off = 0xF00000 then overBits w 4 1 (b2n open_)
  else if off = 0x1000008 then Config.fusedSetpoint % 1024
  else if off = 0x1100000 then overBits (overBits w 0 15 n.svc.slots.length) 15 1 (b2n (evrSlots ≤ n.svc.slots.length))
  else if off = 0x1100004 then (n.svc.seqNext + 2 ^ 32 - n.svc.slots.length) % 2 ^ 32
  else if off = 0x1100040 then n.svc.hours % 2 ^ 32
  else if off = 0x1300000 then
    packWord [(0, b2n open_), (1, b2n Config.debugFuse), (2, b2n n.svc.token.isSome), (3, b2n (Config.debugFuse || n.svc.token.any fun k => bitAt k.flags 1))]
  else w

/-- PMC registers: a counter's 48 bits (R434). -/
def viewPmc (n : Node) (off : Nat) : Nat :=
  let u := (off - 0x1200000) / 0x100
  let r := off % 0x100
  if off < 0x1204000 && 0x40 ≤ r && r < 0x80 then
    let v := mgetD n.svc.pmc (8 * u + (r - 0x40) / 8) 0
    if r % 8 = 0 then v % 2 ^ 32 else v / 2 ^ 32
  else n.bank.get off

/-- What a register holds now, as the management path would see it. -/
def viewWord (t : Tck) (n : Node) (src : Req) (off : Nat) : Nat :=
  let b := off / 0x100000
  if b = 1 then viewCmd n off
  else if b = 2 then viewTck t n off
  else if b = 3 || b = 4 then viewAtt n src off
  else if b = 5 then viewCfl n off
  else if b = 6 then viewBsu n off
  else if b = 7 then viewTer n off
  else if b = 8 then viewMic n off
  else if b = 9 then viewExp n off
  else if b = 0xA then viewPdx n off
  else if b = 0xB then viewCxd n off
  else if off = 0xC00200 then n.qst.qps.length
  else if b = 0x12 then viewPmc n off
  else viewService n off

/-! ## Reads (R4, R7, R388, R389) -/

/-- The registers that a read of a LO register latches, by the offset of LO. -/
def latchedBy (off : Nat) : List Nat :=
  if off = 0x200000 then [0x200004, 0x200008]
  else if off ∈ [0x200010, 0x200024, 0x800290, 0xA00028, 0xF00408] then [off + 4]
  else if 0xB00080 ≤ off && off < 0xB000C0 && off % 16 = 0 then [off + 4, off + 8]
  else if 0x1200000 ≤ off && off < 0x1204000 && (off % 0x100 = 0 || (0x40 ≤ off % 0x100 && off % 0x100 < 0x80 && off % 8 = 0)) then [off + 4]
  else []

/-- Does a register show what the last read of another latched. -/
def isLatched (off : Nat) : Bool := (latchedBy (off - 4)).contains off || (latchedBy (off - 8)).contains off

/-- Registers that count clock cycles, whose values the model leaves open. DESIGN CHOICE, safe: log entry 10. -/
def cycleReg (off : Nat) : Bool :=
  let r := off % 0x10000
  ((0x300000 ≤ off && off < 0x500000) && (r = 0x20 || r = 0x24 || r = 0x30 || r = 0x800C))
    || ((0x600000 ≤ off && off < 0x700000) && off % 0x20000 < 0x10000 && (off % 0x200 = 0x20 || off % 0x200 = 0x24))
    || ((0x900000 ≤ off && off < 0x900200) && (off % 0x40 = 0xC || off % 0x40 = 0x10 || off % 0x40 = 0x14))
    || ((0x1200000 ≤ off && off < 0x1204000) && off % 0x100 = 0)

/-- Events of R435 that count cycles or the work of an engine's datapath, which the model does not count. DESIGN CHOICE, safe:
log entry 10. -/
def cycleEvents : List Nat := [0x0001, 0x0002, 0x0006, 0x1004, 0x1005, 0x1006, 0x1007, 0x3002, 0x3003]

/-- The low word of a performance counter that runs on such an event: its value is open; the high word shows what its read latched. -/
def openCounter (n : Node) (off : Nat) : Bool :=
  let u := (off - 0x1200000) / 0x100
  let i := (off % 0x100 - 0x40) / 8
  0x1200000 ≤ off && off < 0x1204000 && 0x40 ≤ off % 0x100 && off % 0x100 < 0x80 && off % 8 == 0 && rdB n (Rg.pmcSelEn u i) && cycleEvents.contains (rd n (Rg.pmcSelEvent u i))

/-- Does a requester read 0 here: a host port in the recorder (R442), anyone but a fine reader in the trace window and `PMC_TAG_CFG` (R437). -/
def readsZero (n : Node) (src : Req) (off : Nat) : Bool :=
  (off / 0x100000 == 0x11 && src != .mgmt) || ((off == 0x1204010 || (0x120401C ≤ off && off < 0x1204080)) && !fineView n src)

/-- Rounded down to a multiple of 1,024 (R388). -/
def coarse (v : Nat) : Nat := v / 1024 * 1024

/-- The mean of the last 1,024 ticks' power, rounded down to 5 W (R389). -/
def coarseWatts (n : Node) : Nat :=
  let l := n.pwr.watts.take 1024
  if l.isEmpty then 0 else l.foldl (· + ·) 0 / l.length / 5 * 5

/-- `TCK_LATE.COUNT` as the last tick boundary left it. -/
def lateAtEdge (t : Tck) : Nat := (t.late.filter (·.1 < t.tick)).length

/-- Does a field read coarsened; words latched from one that did are as they were latched. -/
def coarsened (n : Node) (src : Req) (d : RegDef) (f : FieldDef) (off : Nat) : Bool := !fineView n src && countsOf d f && !isLatched off

/-- The value a read returns for a field: 0 of type WO; a counter coarsened from its value at the last tick boundary; else the present value. -/
def fieldRead (t : Tck) (last n : Node) (src : Req) (off : Nat) (d : RegDef) (f : FieldDef) : Nat :=
  let live := bits (if isLatched off then mgetD n.hi off (regReset off) else viewWord t n src off) f.lo f.w
  if f.ty == .wo then 0
  else if off == Rg.pwrPowerWatts.off && !fineView n src then coarseWatts last
  else if coarsened n src d f off then
    coarse (if off == 0x200044 then lateAtEdge t else if 0x30C100 ≤ off && off < 0x30C200 then live else bits (viewWord t last src off) f.lo f.w)
  else live

/-- The word a read returns. -/
def wordRead (t : Tck) (last n : Node) (src : Req) (off : Nat) (d : RegDef) : Nat := packWord (d.fields.map fun f => (f.lo, fieldRead t last n src off d f))

/-- What a read leaves of an ROC field: nothing, or for a coarsened read what it did not return (R7, R388). -/
def fieldAfter (n : Node) (src : Req) (off : Nat) (d : RegDef) (w x : Nat) (f : FieldDef) : Nat :=
  if f.ty == .roc then putBits x f.lo f.w (if coarsened n src d f off then bits x f.lo f.w - bits w f.lo f.w else 0) else x

/-- Clear the ROC fields of a register in a node, for a read that returned `w`. -/
def clearRead (n m : Node) (src : Req) (off : Nat) (d : RegDef) (w : Nat) : Node :=
  if d.fields.any (·.ty == .roc) then { m with bank := m.bank.put off (d.fields.foldl (fieldAfter n src off d w) (m.bank.get off)) } else m

/-- Set the latches that a read of LO sets: a coarse reader's counter words as the last tick boundary left them. -/
def setLatches (t : Tck) (last n : Node) (src : Req) (off : Nat) : Node :=
  let from_ := if off / 0x100000 == 0x12 && !fineView n src then last else n
  (latchedBy off).foldl (fun m o => { m with hi := mset m.hi o (viewWord t from_ src o) }) n

/-- The selector that a data register's read advances: its field and its length. -/
def advances (off : Nat) : Option (Fld × Nat) :=
  if 0x300000 ≤ off && off < 0x500000 && off % 0x10000 == 0x48 then some (Rg.attRstSelEntry ((off - 0x300000) / 0x10000), 4096)
  else if 0x600000 ≤ off && off < 0x700000 && off % 0x20000 == 0x10008 then some (Rg.bsuDigSelWord ((off - 0x600000) / 0x20000), 12)
  else if off == 0x900418 then some (Rg.expDigSelWord, 12)
  else none

/-- What else a read does: a selector's advance. -/
def readEffects (off : Nat) (n : Node) : Node :=
  match advances off with
  | some (f, k) => wr n f ((rd n f + 1) % k)
  | none => n

/-- Counts kept by spans are brought up to the present before they are read: ticks of shed steps, notches of power states; and the events dropped so far. -/
def catchUp (t : Tck) (n : Node) (off : Nat) : Node :=
  if off = Rg.evrStatusDropped.off then settleEvents n else
  if 0x1000010 ≤ off && off < 0x1000028 then countSteps t.tick n else if 0x1000040 ≤ off && off < 0x1000050 then countState t n else n

/-- A read of an open value: fresh each time, coarsened as any counter, its upper word latched. -/
def openRead (n : Node) (src : Req) (off : Nat) : Nat × Node :=
  let (v, n1) := takeFree n
  let w := v % 2 ^ 32
  (if fineView n src then w else coarse w, (latchedBy off).foldl (fun m o => { m with hi := mset m.hi o (v / 2 ^ 32 % 2 ^ (if off % 0x100 = 0 then 32 else 16)) }) n1)

/-- Does a register show the digests of node firmware's own programs, which the spec does not give. DESIGN CHOICE, safe: they are free (log entry 21). -/
def firmwareSlots (n : Node) (off : Nat) : Nat :=
  if 0x600000 ≤ off && off < 0x700000 then
    if off % 0x20000 = 0x10008 && bits (n.bank.get (off - 4)) 8 4 < 8 then 2 ^ 32 else 1
  else 1

/-- A register read: the word, and what it leaves of the node and of the counts latched at the last tick boundary. -/
def readReg (t : Tck) (last n : Node) (src : Req) (off : Nat) : Nat × Node × Node :=
  match regAt off with
  | none => (0, n, last)
  | some d =>
    if !regsOpen n off || readsZero n src off then (0, n, last)
    else if cycleReg off || openCounter n off then
      let (v, n1) := openRead n src off
      (packWord (d.fields.map fun f => (f.lo, bits v f.lo f.w)), n1, last)
    else
      let n1 := setLatches t last (catchUp t n off) src off
      let (v, n2) := if firmwareSlots n off = 1 then (0, n1) else takeFree n1
      let n3 := if off = 0x30C000 then cvtRead src t n2 else n2
      let w := wordRead t last n3 src off d
      let w1 := if firmwareSlots n off = 1 then w else w / firmwareSlots n off * firmwareSlots n off + v % firmwareSlots n off
      (w1, readEffects off (clearRead n3 n3 src off d w), clearRead n3 last src off d w)

/-! ## Writes (R4, R5, R6, R8, R445) -/

/-- May a write place a value in a field (R5). -/
def fieldTakes (f : FieldDef) (v : Nat) : Bool := f.valid.isEmpty || f.valid.any fun r => r.1 ≤ v && v ≤ r.2

/-- A field after a write of a word: RW takes a listed encoding, SL too until the tenant seal, RW1C clears and RW1S sets the bits written as 1. -/
def fieldWrite (sealed_ : Bool) (v x : Nat) (f : FieldDef) : Nat :=
  let new := bits v f.lo f.w
  let old := bits x f.lo f.w
  match f.ty with
  | .rw => if fieldTakes f new then putBits x f.lo f.w new else x
  | .sl => if !sealed_ && fieldTakes f new then putBits x f.lo f.w new else x
  | .w1c => putBits x f.lo f.w (maskOf ((bitList f.w old).filter fun i => !bitAt new i))
  | .w1s => putBits x f.lo f.w (maskWhere f.w fun i => bitAt old i || bitAt new i)
  | _ => x

/-- Does a write break a constraint between two fields of the register (R445). -/
def breaksPair (off v : Nat) : Bool :=
  if off = Rg.tckSuspectThr.off then bits v 0 11 ≤ bits v 16 11
  else if off = Rg.terWmLow.off then bits v 8 7 ≤ bits v 0 7
  else if off = Rg.pwrThermCfgWarn.off then bits v 8 8 ≤ bits v 0 8
  else false

/-- The tenant seal holds for SL fields from the seal on until the node is EMPTY again (R8, R363, R366): in SEALED, FENCING and ERASING. -/
def slShut (n : Node) : Bool := tenantState n == tsSealed || tenantState n == tsFencing || tenantState n == tsErasing

/-- The plain write of a register's fields; an SL field after the seal is unchanged, and the write recorded (R8). -/
def plainWrite (t : Tck) (n : Node) (off v : Nat) : Node :=
  match regAt off with
  | none => n
  | some d =>
    let shut := slShut n
    if breaksPair off v then n
    else
      let n1 := { n with bank := n.bank.put off (d.fields.foldl (fieldWrite shut v) (n.bank.get off)) }
      if shut && d.fields.any (·.ty == .sl) then raise t n1 evSealedWrite (leBytes 4 off) else n1

/-- The class of a counter unit (R434, R435). -/
def pmcClass (u : Nat) : Nat := if u < 32 then 1 else if u < 40 then 2 else if u < 48 then 3 else if u < 52 then 4 else 5

/-- Is an event number defined for a unit (R435). -/
def pmcEventOk (u e : Nat) : Bool :=
  let c := e / 4096
  let k := e % 4096
  1 ≤ k && ((c == 0 && k ≤ 8) || (c == pmcClass u && k ≤ (if c = 1 then 7 else if c = 2 then 6 else if c = 3 then 3 else if c = 4 then 6 else 5)))

/-- Writes of the performance counters' blocks (R434 to R437). -/
def pmcWrite (t : Tck) (n : Node) (off v : Nat) (src : Req) : Node :=
  let u := (off - 0x1200000) / 0x100
  let r := off % 0x100
  if off = 0x1204000 then pmcCtl v src n
  else if off = 0x120401C then pmcTraceSel v src n
  else if off = 0x1204010 then (if fineView n src then plainWrite t n off v else n)
  else if off = 0x1204014 then (if v = 0 then n else plainWrite t n off v)
  else if 0x1204000 ≤ off then plainWrite t n off v
  else if 0x10 ≤ r && r < 0x30 then
    if !mayPmc n src then n
    else
      let i := (r - 0x10) / 4
      wr (if pmcEventOk u (v % 65536) then wr n (Rg.pmcSelEvent u i) (v % 65536) else n) (Rg.pmcSelEn u i) (bits v 16 1)
  else if 0x40 ≤ r && r < 0x80 then
    let k := 8 * u + (r - 0x40) / 8
    let x := mgetD n.svc.pmc k 0
    modSvc n fun s => { s with pmc := mset s.pmc k (if r % 8 = 0 then x / 2 ^ 32 * 2 ^ 32 + v else v % 65536 * 2 ^ 32 + x % 2 ^ 32) }
  else plainWrite t n off v

/-- Does a reservation use the spill area. -/
def spillUsed (n : Node) : Bool := n.cfl.chains.any fun c => 0 < c.spill

/-- `CFL_SPILL_WRITE` (R136). -/
def spillWrite (off v : Nat) (t : Tck) (n : Node) : Node :=
  if spillUsed n then raise t n evCflWriteIgnored (leBytes 4 off) else plainWrite t n off v

/-- The flags a node reports to the map: a change of one is proposed (R349). -/
def flagWrite (t : Tck) (n : Node) (off v : Nat) (f : Fld) (bit : Nat) : Node :=
  let n1 := plainWrite t n off v
  if rdB n f == rdB n1 f then n1 else forwardChanges n1 (ownProposal n1 [.flag (nodeId n1) bit (rdB n1 f)])

/-- May a requester write the extent-command registers (13, registers). -/
def mayExtent (n : Node) (src : Req) : Bool :=
  match src with
  | .mgmt => true
  | .host h _ => rdB n Rg.cxdCfgFmEn && rd n Rg.cxdCfgFmHalf == h.val
  | .qp _ => false

/-- A write of `CXD_EXT_CMD`: other operations are ignored. -/
def extCmdWrite (t : Tck) (n : Node) (v : Nat) (src : Req) : Node :=
  let e := bits v 16 14
  let h := bits v 4 4
  match bits v 0 4 with
  | 1 => offer e h (bits v 8 1) src t n
  | 2 => withdraw e src t n
  | 3 => revoke e h src t n
  | 4 => reclaim e h src t n
  | _ => if extMayWrite n src then n else raise t n evCxdWriteIgnored (leBytes 4 Rg.cxdExtCmdOp.off)

/-- Writes of the CXD block. -/
def cxdWrite (t : Tck) (n : Node) (off v : Nat) (src : Req) : Node :=
  if 0xB00030 ≤ off && off < 0xB00040 then heartbeat ((off - 0xB00030) / 4) t n
  else if 0xB00050 ≤ off && off < 0xB00060 then (if bitAt v 0 then rejoin ((off - 0xB00050) / 4) t n else n)
  else if off = 0xB00100 then extCmdWrite t n v src
  else if off = 0xB00108 && !mayExtent n src then raise t n evCxdWriteIgnored (leBytes 4 off)
  else if off = 0xB0018C then (if bitAt v 0 then publishGo t n else n)
  else plainWrite t n off v

/-- A doorbell write: KIND and QP are those of the same requester's last `QST_DB_LO` (R316). -/
def dbWrite (t : Tck) (n : Node) (v : Nat) (src : Req) : Node :=
  let lo := match n.qst.dbLo.find? (·.1 == src) with | some e => e.2 | none => 0
  let q := bits lo 0 20
  match bits lo 20 2 with
  | 0 => sendTail q v src t n
  | 1 => receiveHead q v src n
  | 2 => completionHead q v src t n
  | _ => n

/-- An operation of the mailbox (R321); others are ignored. -/
def objWrite (t : Tck) (n : Node) (v : Nat) (src : Req) : Node :=
  match bits v 0 4 with
  | 1 => allocPd src n
  | 2 => freePd src n
  | 3 => regMr src n
  | 4 => deregMr src n
  | 5 => createQp src t n
  | 6 => connectQp src n
  | 7 => destroyQp src t n
  | _ => n

/-- Writes of the QST block. -/
def qstWriteReg (t : Tck) (n : Node) (off v : Nat) (src : Req) : Node :=
  if off = 0xC01000 then { n with qst := { n.qst with dbLo := (src, v % 2 ^ 22) :: n.qst.dbLo.filter (·.1 != src) } }
  else if off = 0xC01004 then dbWrite t n v src
  else if off = 0xC02000 then objWrite t n v src
  else if 0xC00100 ≤ off && off < 0xC00200 && off % 0x20 = 4 then
    let p := (off - 0xC00100) / 0x20
    let n1 := plainWrite t n off v
    if rdB n (Rg.qstPortCfgEn p) == rdB n1 (Rg.qstPortCfgEn p) then n1 else portEnable t n1 p
  else plainWrite t n off v

/-- A slot operation (R371). -/
def keyWrite (t : Tck) (n : Node) (v : Nat) (src : Req) : Node :=
  let k := bits v 4 6
  match bits v 0 4 with
  | 1 => install k src n
  | 2 => activate (.write k src) t n
  | 3 => retire (.write k src) t n
  | _ => n

/-- Writes of the SEC block. -/
def secWrite (t : Tck) (n : Node) (off v : Nat) (src : Req) : Node :=
  if off = 0xF00000 then (if bitAt v 3 then sealTenant src t n else n)
  else if off = 0xF00200 then keyWrite t n v src
  else if off = 0xF00300 then fineWrite v src t n
  else if off = 0xF00400 then recShow t (plainWrite t n off v)
  else plainWrite t n off v

/-- Writes of the EVR block: from the management path alone (R442). -/
def evrWrite (t : Tck) (n : Node) (off v : Nat) (src : Req) : Node :=
  if src != .mgmt then n
  else if off = 0x110000C then (if bitAt v 0 then evrClear src n else n)
  else if off = 0x1100010 then evrRdSel v src n
  else plainWrite t n off v

/-- Writes of the MON block: from the management path alone, others recorded. -/
def monWriteReg (t : Tck) (n : Node) (off v : Nat) (src : Req) : Node :=
  if off = 0x1300010 then tokenData v src t n
  else if off = 0x1300014 && bitAt v 0 then submitToken src t n
  else if off = 0x1300018 && bitAt v 0 then lockToken src t n
  else monWrite t n src off (plainWrite t n off v)

/-- Writes of the CMD block; the admin bases hold while ring pair 0 is enabled. -/
def cmdWrite (t : Tck) (n : Node) (off v : Nat) (src : Req) : Node :=
  if off = 0x100020 then adminCfgWrite v src t n
  else if 0x100010 ≤ off && off < 0x100020 && rdB n Rg.cmdAdminCfgEn then raise t n evCmdWriteIgnored (leBytes 4 off)
  else if 0x108000 ≤ off && off < 0x108800 then
    if off % 8 = 0 then sqDoorbell ((off - 0x108000) / 8) v src t n else cqHead ((off - 0x108000) / 8) v src t n
  else plainWrite t n off v

/-- Does a write start a warm reset: `PWR_CTL.RESET` from the management path. -/
def writeResets (n : Node) (off v : Nat) (src : Req) : Bool := off == 0x1000200 && bitAt v 0 && src == .mgmt && !regsShut n

/-- Writes that change fabric time's unit, or reach the power manager. -/
def timeWrite (off v : Nat) (src : Req) (t : Tck) (n : Node) : Tck × Node :=
  if off = 0x200058 || off = 0x20005C then seedWrite (off == 0x20005C) v t n
  else if off = Rg.tckSuspectThr.off then
    let n1 := plainWrite t n off v
    (judgeSuspect t n1, n1)
  else if src != .mgmt then (t, raise t n evPwrWriteIgnored (leBytes 4 off))
  else if bitAt v 0 then ctlReset src t n
  else if bitAt v 1 then ctlHalt src t n
  else (t, n)

/-- A write that changes the node alone: the meaning the register's own table or rule gives it, else its fields under R4 to R8 and R445. -/
def blockWrite (t : Tck) (n : Node) (off v : Nat) (src : Req) : Node :=
  let b := off / 0x100000
  if (regAt off).isNone then n
  else if b = 1 then cmdWrite t n off v src
  else if off = Rg.cflCfgEligible.off then flagWrite t n off v Rg.cflCfgEligible 1
  else if off = 0x500008 || off = 0x50000C || off = 0x500010 then spillWrite off v t n
  else if off = Rg.terT2PartDirect.off then t2PartWrite v t n
  else if off = Rg.terHeatCfgDecay.off then plainWrite t (decayAll t n) off v
  else if b = 0xB then cxdWrite t n off v src
  else if b = 0xC then qstWriteReg t n off v src
  else if off = Rg.mapCfgSpare.off then flagWrite t n off v Rg.mapCfgSpare 4
  else if b = 0xF then secWrite t n off v src
  else if b = 0x11 then evrWrite t n off v src
  else if b = 0x12 then pmcWrite t n off v src
  else if b = 0x13 then monWriteReg t n off v src
  else plainWrite t n off v

/-- Is a register written through fabric time's unit or the power manager. -/
def timeReg (off : Nat) : Bool := off == 0x1000200 || off == 0x200058 || off == 0x20005C || off == Rg.tckSuspectThr.off

/-- A register write; doorbells of command rings are answered before READY too (R424). -/
def writeReg (off v : Nat) (src : Req) (t : Tck) (n : Node) : Tck × Node :=
  if regsShut n && !(0x108000 ≤ off && off < 0x108800) then (t, n)
  else if timeReg off then timeWrite off v src t n
  else (t, blockWrite t n off v src)

/-! ## The monitor (R444) -/

/-- Read registers one after another for the monitor, as the management path. -/
def readMany (t : Tck) (offs : List Nat) (last n : Node) : List Nat × Node × Node :=
  offs.foldl (fun x o => let r := readReg t x.2.2 x.2.1 .mgmt o; (x.1 ++ [r.1], r.2.1, r.2.2)) ([], n, last)

/-- One 8-byte word of terrace 1; what a poisoned line gives is open. DESIGN CHOICE, safe: log entry 22. -/
def t1Word (n : Node) (a : Nat) : Nat × Node :=
  if mhas n.mic.poison (a / 64 * 64) || mhas n.mic.poison ((a + 7) / 64 * 64) then
    let (v, n1) := takeFree n
    (v % 2 ^ 64, n1)
  else (ofLe (Mem.read 0 n.t1 a 8), n)

/-- Words of terrace 1 in a row. -/
def t1Words : Nat → Nat → Node → List Nat × Node
  | 0, _, n => ([], n)
  | k + 1, a, n =>
    let (v, n1) := t1Word n a
    let (l, n2) := t1Words k (a + 8) n1
    (v :: l, n2)

/-- Does a `peek` keep its bounds: 1 to 256 words, aligned registers, words inside terrace 1. -/
def peekOk (t1 : Bool) (a k : Nat) : Bool := 1 ≤ k && k ≤ 256 && (if t1 then a + 8 * k ≤ 1024 * pchBytes else a % 4 == 0 && a + 4 * k ≤ 2 ^ 28)

/-- `PEEK`. -/
def peek (t1 : Bool) (a k : Nat) (t : Tck) (last n : Node) : Node × Node :=
  if !monOn n then (n, last)
  else if !peekOk t1 a k then (emit n (.mon .err), last)
  else if t1 then
    let (l, n1) := t1Words k a n
    (emit n1 (.mon (.words l)), last)
  else
    let (l, n1, last1) := readMany t ((List.range k).map fun i => a + 4 * i) last n
    (emit n1 (.mon (.words l)), last1)

/-- May the monitor write: under the debug fuse, or a token with POKE. -/
def mayPoke (n : Node) : Bool := Config.debugFuse || n.svc.token.any fun k => bitAt k.flags 1

/-- `POKE`. -/
def poke (off v : Nat) (t : Tck) (n : Node) : Tck × Node :=
  if !monOn n then (t, n)
  else if mayPoke n && off % 4 == 0 && off < 2 ^ 28 then writeReg off v .mgmt t (emit n (.mon .done))
  else (t, emit n (.mon .err))

/-- Does a `POKE` start a warm reset. -/
def pokeResets (n : Node) (off v : Nat) : Bool := monOn n && mayPoke n && writeResets n off v .mgmt

/-- The offsets of every register of a block, in table order. -/
def blockRegs (b : Nat) : List Nat :=
  (regTable.filter fun d => d.base / 0x100000 == b).flatMap fun d =>
    (List.range d.n1).flatMap fun i => (List.range d.n2).map fun j => d.base + i * d.s1 + j * d.s2

/-- `REGS`: every register of the block. -/
def regs (b : Nat) (t : Tck) (last n : Node) : Node × Node :=
  if !monOn n then (n, last)
  else if (blockRegs b).isEmpty then (emit n (.mon .err), last)
  else
    let (l, n1, last1) := readMany t (blockRegs b) last n
    (emit n1 (.mon (.words l)), last1)

/-! ## Idling -/

/-- A tick begins: counts kept by spans are brought up to it, a new firmware image's programs come into use (R172), and the monitor's capture
gets its line. -/
def tickEdge (t : Tck) (n : Node) : Node := capNote t (countState t (countSteps (t.tick - 1) (fwTurn n))) id

/-- What the node does with no command waiting: one cycle of the fabric time unit; at a tick boundary the counts are latched for coarsened reads (R388) and
the upstream is chosen again (R35); a node in STEPPING steps once its slices have finished (R47). -/
def idle (s : State) : State :=
  let t := ftuCycle s.tck
  let s1 := if t.tick = s.tck.tick then { s with tck := t } else { s with tck := reElect t s.node, node := tickEdge t s.node, last := tickEdge t s.node }
  { s1 with tck := (stepWhenDone s1.tck s1.node).1, node := (stepWhenDone s1.tck s1.node).2 }

/-! ## The commands -/

/-- A command that reads registers: the node and the latched counts. -/
def onRead (f : Tck → Node → Node → Node × Node) (s : State) : Outcome State Fault Refusal :=
  .next { s with node := (f s.tck s.last s.node).1, last := (f s.tck s.last s.node).2 }

/-- `PEEK`. -/
def execPeek (t1 : Bool) (addr : BitVec 64) (k : Nat) (s : State) : Outcome State Fault Refusal := onRead (peek t1 addr.toNat k) s
/-- `POKE`. -/
def execPoke (addr v : Word) (s : State) : Outcome State Fault Refusal := onReset (pokeResets s.node addr.toNat v.toNat) (poke addr.toNat v.toNat) s
/-- `REGS`: the block by BAR0 offset [27:20]. -/
def execRegs (block : BitVec 8) (s : State) : Outcome State Fault Refusal := onRead (regs block.toNat) s
/-- `CFL_SPILL_WRITE`: `hi` and `size` choose the register among `CFL_SPILL_BASE_LO`, `CFL_SPILL_BASE_HI` and `CFL_SPILL_SIZE`. -/
def execCflSpillWrite (reg : Fin 3) (v : Word) (s : State) : Outcome State Fault Refusal :=
  onNode (whenOpen (spillWrite (0x500008 + 4 * reg.val) v.toNat)) s
/-- `REGISTER_WRITE`. -/
def execRegisterWrite (off v : Word) (src : Req) (s : State) : Outcome State Fault Refusal :=
  onReset (writeResets s.node off.toNat v.toNat src) (writeReg off.toNat v.toNat src) s
/-- `REGISTER_READ`. -/
def execRegisterRead (off : Word) (src : Req) (s : State) : Outcome State Fault Refusal :=
  onRead (fun t last n =>
    let r := readReg t last n src off.toNat
    (emit r.2.1 (.regData src off.toNat r.1), r.2.2)) s

end Sys2Proof.Machine
end

