-- ==== Sys2Proof/Machine/Sram.lean ====
section
/-! DEFINITION. What follows an uncorrectable word of the arrays that no item or merge works from: control-core SRAM, the key store, the queue-pair context cache
(R229); and the commands whose faults may name such a word beside those of their own unit. -/

namespace Sys2Proof.Machine

open Host (Outcome)

/-! ## Control-core SRAM -/

/-- Is a handle that of an outstanding command that node firmware runs. -/
def fwOwned (n : Node) (h : Nat) : Bool := (findCmd n h).any fun c => fwPath c.op || c.diverted

/-- What the restarted firmware no longer carries on: the work of its commands in the node's queues. -/
def dropFirmware (n : Node) : Node :=
  let stays (h : Nat) : Bool := !fwOwned n h
  { n with
    att := { n.att with blocks := n.att.blocks.filter fun b => stays b.handle }
    cfl := { n.cfl with hosts := n.cfl.hosts.filter fun c => stays c.handle }
    bsu := { n.bsu with owns := n.bsu.owns.filter fun o => stays o.handle }
    ter := { n.ter with jobs := n.ter.jobs.filter (fun j => stays j.handle), allocWait := n.ter.allocWait.filter stays }
    seqs := { n.seqs with copies := n.seqs.copies.filter fun c => stays c.handle }
    wts := { n.wts with jobs := n.wts.jobs.filter (fun j => stays j.handle), uses := n.wts.uses.filter fun u => stays u.1 }
    map := { n.map with waits := n.map.waits.filter (fun w => stays w.handle), drains := n.map.drains.filter fun d => stays d.handle }
    svc := { n.svc with march := n.svc.march.filter fun m => m.why != 0 || stays m.handle } }

/-- Node firmware restarts the control cluster from the active image: firmware-path commands outstanding complete, hot-path commands go on (R229).
DESIGN CHOICE, unsafe, what of their work is dropped: log entry 79. -/
def restartCores (t : Tck) (n : Node) : Node :=
  (n.fe.cmds.filter fun c => fwOwned n c.handle).foldl (fun m c => complete t m c.handle stStateLost []) (dropFirmware n)

/-! ## The key store -/

/-- The security core destroys the tenant's keys, and the node goes on as at a tenant's removal from there: what is outstanding ends, the erase follows (R229, R385 to R387).
DESIGN CHOICE, unsafe: log entry 80. -/
def keysLost (t : Tck) (n : Node) : Node :=
  if tenantState n = tsEmpty || tenantState n = tsErasing then n
  else
    let keep := n.sec.closing.map (·.1)
    let n1 := modSec (endAll t n keep stKeyRetired) fun s => { s with opening := none, fenced := true, closing := some (s.closing.getD (noHandle, t.tick)) }
    raise t (wr (destroyKeys n1) Rg.secStatusState tsErasing) evTenantKeysDestroyed []

/-! ## The queue-pair context cache -/

/-- The context that a lost word belongs to leaves the cache; its next use fetches it from terrace 2. Which that is, is open. DESIGN CHOICE:
log entry 78. -/
def ctxLost (n : Node) (w : Nat) : Node := { n with qst := { n.qst with cache := n.qst.cache.filter (· != Config.qpOfWord w) } }

/-! ## The commands -/

/-- Does a fault leave a word of one of these arrays uncorrectable. -/
def ofOther (f : SramFault) : Bool :=
  match lostWord f with
  | some (a, _) => [arrCore, arrKeys, arrQp].contains a
  | none => false

/-- Count and record the faults of these arrays, with what follows each. -/
def otherArrays (t : Tck) (n : Node) (faults : List SramFault) : Node :=
  let l := faults.filter ofOther
  let n1 := (lostWords l arrQp).foldl ctxLost (sramFaults t n l)
  let n2 := if (lostWords l arrCore).isEmpty then n1 else restartCores t n1
  if (lostWords l arrKeys).isEmpty then n2 else keysLost t n2

/-- `GRANULE_ITEM_END`. -/
def granuleItemEnd (home handle group granule : Nat) (errs : List (Nat × List Nat)) (sram : List SramFault) (page : Nat) (t : Tck) (n : Node) : Tck × Node :=
  let x := itemEnd home handle group granule errs (sram.filter (!ofOther ·)) page t n
  (x.1, otherArrays x.1 x.2 sram)

/-- `PARTIAL_MESSAGE_RECEIVE`. -/
def partialMessage (b : Bytes) (late bank : Bool) (sram : List SramFault) (t : Tck) (n : Node) : Node := otherArrays t (partialIn b late bank (sram.filter (!ofOther ·)) t n) sram

/-- `MICROSTEP`. -/
def microstepAll (b : Nat) (errs : List (Nat × List Nat)) (sram : List SramFault) (t : Tck) (n : Node) : Tck × Node :=
  let x := microstep b errs (sram.filter (!ofOther ·)) t n
  (x.1, otherArrays x.1 x.2 sram)

/-- `GRANULE_ITEM_END`. -/
def execGranuleItemEnd (home : BitVec 13) (handle : Word) (group granule : Nat) (errs : List (Nat × List Nat)) (sram : List SramFault) (page : Nat)
    (s : State) : Outcome State Fault Refusal :=
  onBoth (granuleItemEnd home.toNat handle.toNat group granule errs sram page) s
/-- `PARTIAL_MESSAGE_RECEIVE`. -/
def execPartialMessageReceive (b : Bytes) (late bank : Bool) (sram : List SramFault) (s : State) : Outcome State Fault Refusal :=
  onNode (partialMessage b late bank sram) s
/-- `MICROSTEP`. -/
def execMicrostep (b : Fin 1024) (errs : List (Nat × List Nat)) (sram : List SramFault) (s : State) : Outcome State Fault Refusal :=
  onBoth (microstepAll b.val errs sram) s

end Sys2Proof.Machine
end

