-- ==== Sys2Proof/Machine/Dispatch.lean ====
section
/-! DEFINITION. The dispatch: one arm for each command, each a direct call of the command's meaning. -/

namespace Sys2Proof.Machine

/-- The effect of a command on everything but the queue. -/
def exec (i : Instr) (s : State) : Host.Outcome State Fault Refusal :=
  match i with
  | .cmdSqDb ring tail src => Sys2Proof.Machine.execCmdSqDb ring tail src s
  | .cmdCqDb ring head src => Sys2Proof.Machine.execCmdCqDb ring head src s
  | .cmdSubmit b qp => Sys2Proof.Machine.execCmdSubmit b qp s
  | .cmdCqHead b qp => Sys2Proof.Machine.execCmdCqHead b qp s
  | .cqIntrDelay ring => Sys2Proof.Machine.execCqIntrDelay ring s
  | .cmdAdminCfgWrite v src => Sys2Proof.Machine.execCmdAdminCfgWrite v src s
  | .nop h => Sys2Proof.Machine.execNop h s
  | .queryCaps h => Sys2Proof.Machine.execQueryCaps h s
  | .ringCfg h => Sys2Proof.Machine.execRingCfg h s
  | .ringDisableDrain h => Sys2Proof.Machine.execRingDisableDrain h s
  | .seqOpen h => Sys2Proof.Machine.execSeqOpen h s
  | .seqClose h => Sys2Proof.Machine.execSeqClose h s
  | .seqExtend h => Sys2Proof.Machine.execSeqExtend h s
  | .pagelistSwap h => Sys2Proof.Machine.execPagelistSwap h s
  | .seqFork h peer => Sys2Proof.Machine.execSeqFork h peer s
  | .appendKv h peer => Sys2Proof.Machine.execAppendKv h peer s
  | .appendPositionWaitEnd h peer => Sys2Proof.Machine.execAppendPositionWaitEnd h peer s
  | .forwardedAppend m => Sys2Proof.Machine.execForwardedAppend m s
  | .copyPages h peer => Sys2Proof.Machine.execCopyPages h peer s
  | .copyPagesTimeout h => Sys2Proof.Machine.execCopyPagesTimeout h s
  | .listInplaceWrite a b => Sys2Proof.Machine.execListInplaceWrite a b s
  | .attend h => Sys2Proof.Machine.execAttend h s
  | .prefill h => Sys2Proof.Machine.execPrefill h s
  | .attendBlock h => Sys2Proof.Machine.execAttendBlock h s
  | .attendBlockStageStart h errs => Sys2Proof.Machine.execAttendBlockStageStart h errs s
  | .launchDescriptorBuild h peer grants => Sys2Proof.Machine.execLaunchDescriptorBuild h peer grants s
  | .holdReservationRetry h grants => Sys2Proof.Machine.execHoldReservationRetry h grants s
  | .launchDescriptorReceive m plan => Sys2Proof.Machine.execLaunchDescriptorReceive m plan s
  | .splitGranulePagesReceive home handle pages => Sys2Proof.Machine.execSplitGranulePagesReceive home handle pages s
  | .launch home handle => Sys2Proof.Machine.execLaunch home handle s
  | .itemTake cs => Sys2Proof.Machine.execItemTake cs s
  | .sliceStart home handle group granule => Sys2Proof.Machine.execSliceStart home handle group granule s
  | .sliceOverrun u => Sys2Proof.Machine.execSliceOverrun u s
  | .granuleItemEnd home handle group granule errs sram page => Sys2Proof.Machine.execGranuleItemEnd home handle group granule errs sram page s
  | .partialMessageReceive b late bank sram => Sys2Proof.Machine.execPartialMessageReceive b late bank sram s
  | .confluenceChainFire home handle => Sys2Proof.Machine.execConfluenceChainFire home handle s
  | .cut home handle => Sys2Proof.Machine.execCut home handle s
  | .resultMessageReceive m => Sys2Proof.Machine.execResultMessageReceive m s
  | .homeWatchdogExpiry h => Sys2Proof.Machine.execHomeWatchdogExpiry h s
  | .merge h => Sys2Proof.Machine.execMerge h s
  | .triggerPost h => Sys2Proof.Machine.execTriggerPost h s
  | .triggeredChainFire h => Sys2Proof.Machine.execTriggeredChainFire h s
  | .chainExpire h => Sys2Proof.Machine.execChainExpire h s
  | .demandPromotionDone home handle group granule => Sys2Proof.Machine.execDemandPromotionDone home handle group granule s
  | .terraceStall home handle group granule => Sys2Proof.Machine.execTerraceStall home handle group granule s
  | .readInPlaceDone home handle group granule errs => Sys2Proof.Machine.execReadInPlaceDone home handle group granule errs s
  | .bsuRun h => Sys2Proof.Machine.execBsuRun h s
  | .bsuRunStart b => Sys2Proof.Machine.execBsuRunStart b s
  | .microstep b errs sram => Sys2Proof.Machine.execMicrostep b errs sram s
  | .deferredLineDone b lanes => Sys2Proof.Machine.execDeferredLineDone b lanes s
  | .bsuPause b => Sys2Proof.Machine.execBsuPause b s
  | .bsuResume b => Sys2Proof.Machine.execBsuResume b s
  | .bsuHalt b => Sys2Proof.Machine.execBsuHalt b s
  | .bsuRunFail h => Sys2Proof.Machine.execBsuRunFail h s
  | .bsuRunDeadline h => Sys2Proof.Machine.execBsuRunDeadline h s
  | .bsuLoad h => Sys2Proof.Machine.execBsuLoad h s
  | .bsuOwn h => Sys2Proof.Machine.execBsuOwn h s
  | .bsuRelease h => Sys2Proof.Machine.execBsuRelease h s
  | .refreshWindow p waits => Sys2Proof.Machine.execRefreshWindow p waits s
  | .patrolScrub stack errs => Sys2Proof.Machine.execPatrolScrub stack errs s
  | .bmemScrub ch devs b addr => Sys2Proof.Machine.execBmemScrub ch devs b addr s
  | .flashReadDone m sector pi => Sys2Proof.Machine.execFlashReadDone m sector pi s
  | .rowSparing a hold waits errs => Sys2Proof.Machine.execRowSparing a hold waits errs s
  | .pchRetirement p => Sys2Proof.Machine.execPchRetirement p s
  | .marchFrame k cells hold waits => Sys2Proof.Machine.execMarchFrame k cells hold waits s
  | .migrate h named => Sys2Proof.Machine.execMigrate h named s
  | .pin h named => Sys2Proof.Machine.execPin h named s
  | .unpin h named => Sys2Proof.Machine.execUnpin h named s
  | .placeHint h named => Sys2Proof.Machine.execPlaceHint h named s
  | .move what errs bad => Sys2Proof.Machine.execMove what errs bad s
  | .demotion => Sys2Proof.Machine.execDemotion s
  | .promotion page => Sys2Proof.Machine.execPromotion page s
  | .dirtyCleaner => Sys2Proof.Machine.execDirtyCleaner s
  | .allocation h peer grants => Sys2Proof.Machine.execAllocation h peer grants s
  | .weightsStreamLoad h => Sys2Proof.Machine.execWeightsStreamLoad h s
  | .weightsStreamPrefetch h => Sys2Proof.Machine.execWeightsStreamPrefetch h s
  | .windowStreamRequest h => Sys2Proof.Machine.execWindowStreamRequest h s
  | .expandBlock ex wset layer tensor block x => Sys2Proof.Machine.execExpandBlock ex wset layer tensor block x s
  | .blockCrcRefetch ex wset layer tensor block bad badBase => Sys2Proof.Machine.execBlockCrcRefetch ex wset layer tensor block bad badBase s
  | .weightsBind h => Sys2Proof.Machine.execWeightsBind h s
  | .weightsEvict h => Sys2Proof.Machine.execWeightsEvict h s
  | .pdLookup h bad => Sys2Proof.Machine.execPdLookup h bad s
  | .pdInsert h => Sys2Proof.Machine.execPdInsert h s
  | .pdDelete h => Sys2Proof.Machine.execPdDelete h s
  | .pdxRebalance => Sys2Proof.Machine.execPdxRebalance s
  | .pdxComparator bad lost => Sys2Proof.Machine.execPdxComparator bad lost s
  | .cxlRead head kind dpa errs => Sys2Proof.Machine.execCxlRead head kind dpa errs s
  | .cxlWrite head dpa data poison keep => Sys2Proof.Machine.execCxlWrite head dpa data poison keep s
  | .bisnpResponse head line data => Sys2Proof.Machine.execBisnpResponse head line data s
  | .bisnpTimeout head line => Sys2Proof.Machine.execBisnpTimeout head line s
  | .addDynamicCapacityResponse head ext => Sys2Proof.Machine.execAddDynamicCapacityResponse head ext s
  | .releaseDynamicCapacity head ext => Sys2Proof.Machine.execReleaseDynamicCapacity head ext s
  | .offer ext hosts mode src => Sys2Proof.Machine.execOffer ext hosts mode src s
  | .withdraw ext src => Sys2Proof.Machine.execWithdraw ext src s
  | .revoke ext hosts src => Sys2Proof.Machine.execRevoke ext hosts src s
  | .reclaim ext hosts src => Sys2Proof.Machine.execReclaim ext hosts src s
  | .releaseComplete ext => Sys2Proof.Machine.execReleaseComplete ext s
  | .extentZeroDone ext => Sys2Proof.Machine.execExtentZeroDone ext s
  | .headLost head viral => Sys2Proof.Machine.execHeadLost head viral s
  | .heartbeatTimeout head => Sys2Proof.Machine.execHeartbeatTimeout head s
  | .cxdHb head => Sys2Proof.Machine.execCxdHb head s
  | .rejoin head => Sys2Proof.Machine.execRejoin head s
  | .perst head => Sys2Proof.Machine.execPerst head s
  | .publishGo => Sys2Proof.Machine.execPublishGo s
  | .tokenBucketCredit head => Sys2Proof.Machine.execTokenBucketCredit head s
  | .segmentSend src => Sys2Proof.Machine.execSegmentSend src s
  | .segmentReceive l g tagOk => Sys2Proof.Machine.execSegmentReceive l g tagOk s
  | .qpContextFetched qp => Sys2Proof.Machine.execQpContextFetched qp s
  | .ack l g tagOk => Sys2Proof.Machine.execAck l g tagOk s
  | .nack l g tagOk => Sys2Proof.Machine.execNack l g tagOk s
  | .ackDelay qp => Sys2Proof.Machine.execAckDelay qp s
  | .rtoExpiry qp msn seg => Sys2Proof.Machine.execRtoExpiry qp msn seg s
  | .rnrResend qp msn => Sys2Proof.Machine.execRnrResend qp msn s
  | .pathHoldExpiry qp => Sys2Proof.Machine.execPathHoldExpiry qp s
  | .qpReplacement qp peerQp => Sys2Proof.Machine.execQpReplacement qp peerQp s
  | .sendTail qp count src => Sys2Proof.Machine.execSendTail qp count src s
  | .receiveHead qp count src => Sys2Proof.Machine.execReceiveHead qp count src s
  | .completionHead qp count src => Sys2Proof.Machine.execCompletionHead qp count src s
  | .allocPd src => Sys2Proof.Machine.execAllocPd src s
  | .freePd src => Sys2Proof.Machine.execFreePd src s
  | .regMr src => Sys2Proof.Machine.execRegMr src s
  | .deregMr src => Sys2Proof.Machine.execDeregMr src s
  | .createQp src => Sys2Proof.Machine.execCreateQp src s
  | .connectQp src => Sys2Proof.Machine.execConnectQp src s
  | .destroyQp src => Sys2Proof.Machine.execDestroyQp src s
  | .portUp p => Sys2Proof.Machine.execPortUp p s
  | .portDown p => Sys2Proof.Machine.execPortDown p s
  | .moduleInterrupt p flag removed => Sys2Proof.Machine.execModuleInterrupt p flag removed s
  | .moduleInsertion p copper ok => Sys2Proof.Machine.execModuleInsertion p copper ok s
  | .neighborSolicitation p target => Sys2Proof.Machine.execNeighborSolicitation p target s
  | .echoRequest p dst src data => Sys2Proof.Machine.execEchoRequest p dst src data s
  | .nonQstFrame p f => Sys2Proof.Machine.execNonQstFrame p f s
  | .qblFrame b vc lseq credits body tagOk => Sys2Proof.Machine.execQblFrame b vc lseq credits body tagOk s
  | .qblReplay b asked => Sys2Proof.Machine.execQblReplay b asked s
  | .boardLinkDown b => Sys2Proof.Machine.execBoardLinkDown b s
  | .boardLinkTraining b peer => Sys2Proof.Machine.execBoardLinkTraining b peer s
  | .dispatch hw fw => Sys2Proof.Machine.execDispatch hw fw s
  | .schedulerTickLatch => Sys2Proof.Machine.execSchedulerTickLatch s
  | .announceSend => Sys2Proof.Machine.execAnnounceSend s
  | .announceReceive l a => Sys2Proof.Machine.execAnnounceReceive l a s
  | .announceTimeout => Sys2Proof.Machine.execAnnounceTimeout s
  | .syncWord l m => Sys2Proof.Machine.execSyncWord l m s
  | .upstreamOffsetMeasured m => Sys2Proof.Machine.execUpstreamOffsetMeasured m s
  | .lockAchieved => Sys2Proof.Machine.execLockAchieved s
  | .holdoverGrowth => Sys2Proof.Machine.execHoldoverGrowth s
  | .todFrame fr before => Sys2Proof.Machine.execTodFrame fr before s
  | .ppsEdge => Sys2Proof.Machine.execPpsEdge s
  | .ppsMissing => Sys2Proof.Machine.execPpsMissing s
  | .periodSwitch => Sys2Proof.Machine.execPeriodSwitch s
  | .lateCountExpiry => Sys2Proof.Machine.execLateCountExpiry s
  | .suspectReport => Sys2Proof.Machine.execSuspectReport s
  | .cvtTickSnapshot => Sys2Proof.Machine.execCvtTickSnapshot s
  | .attCvtTickLoRead r => Sys2Proof.Machine.execAttCvtTickLoRead r s
  | .retiredBodyFree released => Sys2Proof.Machine.execRetiredBodyFree released s
  | .rescaleTableLoad c k wset layer proj part => Sys2Proof.Machine.execRescaleTableLoad c k wset layer proj part s
  | .mapPropose h => Sys2Proof.Machine.execMapPropose h s
  | .mapRead h => Sys2Proof.Machine.execMapRead h s
  | .sliceGrant h => Sys2Proof.Machine.execSliceGrant h s
  | .drain ev => Sys2Proof.Machine.execDrain ev s
  | .proposal ev => Sys2Proof.Machine.execProposal ev s
  | .prepare ev => Sys2Proof.Machine.execPrepare ev s
  | .accept a => Sys2Proof.Machine.execAccept a s
  | .commit c => Sys2Proof.Machine.execCommit c s
  | .epochFetch ev => Sys2Proof.Machine.execEpochFetch ev s
  | .livenessReport ev => Sys2Proof.Machine.execLivenessReport ev s
  | .livenessAck keeper => Sys2Proof.Machine.execLivenessAck keeper s
  | .lossWindowExpiry ev => Sys2Proof.Machine.execLossWindowExpiry ev s
  | .fence => Sys2Proof.Machine.execFence s
  | .fenceEnd => Sys2Proof.Machine.execFenceEnd s
  | .rebuildUnit survivors => Sys2Proof.Machine.execRebuildUnit survivors s
  | .rebuildDone ev => Sys2Proof.Machine.execRebuildDone ev s
  | .parityUpdate m => Sys2Proof.Machine.execParityUpdate m s
  | .tenantOpen h => Sys2Proof.Machine.execTenantOpen h s
  | .sealTenant src => Sys2Proof.Machine.execSeal src s
  | .openSealTimeout => Sys2Proof.Machine.execOpenSealTimeout s
  | .tenantClose h => Sys2Proof.Machine.execTenantClose h s
  | .fenceBegin => Sys2Proof.Machine.execFenceBegin s
  | .keyDestruction => Sys2Proof.Machine.execKeyDestruction s
  | .eraseDone => Sys2Proof.Machine.execEraseDone s
  | .recordGet h => Sys2Proof.Machine.execRecordGet h s
  | .attest h => Sys2Proof.Machine.execAttest h s
  | .tickStatementSign tick => Sys2Proof.Machine.execTickStatementSign tick s
  | .heldCompletionRelease => Sys2Proof.Machine.execHeldCompletionRelease s
  | .install slot src => Sys2Proof.Machine.execInstall slot src s
  | .activate ev => Sys2Proof.Machine.execActivate ev s
  | .retire ev => Sys2Proof.Machine.execRetire ev s
  | .secFineWrite v src => Sys2Proof.Machine.execSecFineWrite v src s
  | .getVersion via => Sys2Proof.Machine.execGetVersion via s
  | .getCapabilities via => Sys2Proof.Machine.execGetCapabilities via s
  | .negotiateAlgorithms via => Sys2Proof.Machine.execNegotiateAlgorithms via s
  | .getDigests via => Sys2Proof.Machine.execGetDigests via s
  | .getCertificate via slot off len => Sys2Proof.Machine.execGetCertificate via slot off len s
  | .challenge via slot nonce => Sys2Proof.Machine.execChallenge via slot nonce s
  | .getMeasurements via index signed nonce => Sys2Proof.Machine.execGetMeasurements via index signed nonce s
  | .sagWindow sag fail => Sys2Proof.Machine.execSagWindow sag fail s
  | .shedReversal => Sys2Proof.Machine.execShedReversal s
  | .pwrFailN => Sys2Proof.Machine.execPwrFailN s
  | .halt ev => Sys2Proof.Machine.execHalt ev s
  | .haltReversal => Sys2Proof.Machine.execHaltReversal s
  | .thermalRead site temp => Sys2Proof.Machine.execThermalRead site temp s
  | .thermalReversal site => Sys2Proof.Machine.execThermalReversal site s
  | .powerStateEntry => Sys2Proof.Machine.execPowerStateEntry s
  | .wake unknown => Sys2Proof.Machine.execWake unknown s
  | .avsReadback rejected mv amps => Sys2Proof.Machine.execAvsReadback rejected mv amps s
  | .pmbusPoll rail status mv amps => Sys2Proof.Machine.execPmbusPoll rail status mv amps s
  | .powerReading watts => Sys2Proof.Machine.execPowerReading watts s
  | .powerHint h => Sys2Proof.Machine.execPowerHint h s
  | .powerHintExpiry => Sys2Proof.Machine.execPowerHintExpiry s
  | .powerOnReset flash => Sys2Proof.Machine.execPowerOnReset flash s
  | .resetN flash => Sys2Proof.Machine.execResetN flash s
  | .pwrCtlReset src => Sys2Proof.Machine.execPwrCtlReset src s
  | .pwrCtlHalt src => Sys2Proof.Machine.execPwrCtlHalt src s
  | .watchdogExpiry => Sys2Proof.Machine.execWatchdogExpiry s
  | .startUp w ms => Sys2Proof.Machine.execStartUp w ms s
  | .phaseLimit w ms => Sys2Proof.Machine.execPhaseLimit w ms s
  | .busArbitrationLoss bus dev => Sys2Proof.Machine.execBusArbitrationLoss bus dev s
  | .updateStage h => Sys2Proof.Machine.execUpdateStage h s
  | .recalibration ev => Sys2Proof.Machine.execRecalibration ev s
  | .updateCommit h => Sys2Proof.Machine.execUpdateCommit h s
  | .updateSwitch => Sys2Proof.Machine.execUpdateSwitch s
  | .updateConfirm => Sys2Proof.Machine.execUpdateConfirm s
  | .updateRollback => Sys2Proof.Machine.execUpdateRollback s
  | .marchTest h => Sys2Proof.Machine.execMarchTest h s
  | .retirePch h found => Sys2Proof.Machine.execRetirePch h found s
  | .eventRecord => Sys2Proof.Machine.execEventRecord s
  | .evrClear src => Sys2Proof.Machine.execEvrClear src s
  | .evrClearDone => Sys2Proof.Machine.execEvrClearDone s
  | .evrRdSelWrite v src => Sys2Proof.Machine.execEvrRdSelWrite v src s
  | .pmcCtlWrite v src => Sys2Proof.Machine.execPmcCtlWrite v src s
  | .pmcTraceSelWrite v src => Sys2Proof.Machine.execPmcTraceSelWrite v src s
  | .monTokenDataWrite v src => Sys2Proof.Machine.execMonTokenDataWrite v src s
  | .submit src => Sys2Proof.Machine.execSubmit src s
  | .lock src => Sys2Proof.Machine.execLock src s
  | .tokenExpiry hours => Sys2Proof.Machine.execTokenExpiry hours s
  | .peek t1 addr k => Sys2Proof.Machine.execPeek t1 addr k s
  | .poke addr v => Sys2Proof.Machine.execPoke addr v s
  | .regs block => Sys2Proof.Machine.execRegs block s
  | .evlog first count => Sys2Proof.Machine.execEvlog first count s
  | .ticks k => Sys2Proof.Machine.execTicks k s
  | .ticksCaptureDone => Sys2Proof.Machine.execTicksCaptureDone s
  | .stacks => Sys2Proof.Machine.execStacks s
  | .help => Sys2Proof.Machine.execHelp s
  | .uartBadLine tooLong => Sys2Proof.Machine.execUartBadLine tooLong s
  | .tckSeedWrite hi v => Sys2Proof.Machine.execTckSeedWrite hi v s
  | .terT2PartWrite v => Sys2Proof.Machine.execTerT2PartWrite v s
  | .cflSpillWrite reg v => Sys2Proof.Machine.execCflSpillWrite reg v s
  | .registerWrite off v src => Sys2Proof.Machine.execRegisterWrite off v src s
  | .registerRead off src => Sys2Proof.Machine.execRegisterRead off src s
  | .migrateTimeout h => Sys2Proof.Machine.execMigrateTimeout h s
  | .prefetchTimeout h => Sys2Proof.Machine.execPrefetchTimeout h s
  | .drainTimeout h => Sys2Proof.Machine.execDrainTimeout h s
  | .recalibrationTimeout h => Sys2Proof.Machine.execRecalibrationTimeout h s
  | .switchTimeout => Sys2Proof.Machine.execSwitchTimeout s
  | .marchTestTimeout h => Sys2Proof.Machine.execMarchTestTimeout h s
  | .pwrFailNRelease => Sys2Proof.Machine.execPwrFailNRelease s
  | .lossOfPower warned torn => Sys2Proof.Machine.execLossOfPower warned torn s
  | .hostPortLinkUp half cxl => Sys2Proof.Machine.execHostPortLinkUp half cxl s
  | .moduleRemoved flash unit lost sectors => Sys2Proof.Machine.execModuleRemoved flash unit lost sectors s
  | .neighborAdvertisement p target mac => Sys2Proof.Machine.execNeighborAdvertisement p target mac s
  | .parityAcknowledgement home handle => Sys2Proof.Machine.execParityAcknowledgement home handle s
  | .keeperPromise p => Sys2Proof.Machine.execKeeperPromise p s
  | .keeperAcceptance keeper ballot epoch ok => Sys2Proof.Machine.execKeeperAcceptance keeper ballot epoch ok s

end Sys2Proof.Machine
end

