-- ==== Sys2Proof/Safety.lean ====
section
/-! DEFINITION. The terms in which statements speak of a command that is about to run, of the completion it posts, and of what a command leaves alone. -/

namespace Sys2Proof.Machine

/-- A handle names an accepted command of an opcode that has been dispatched, whose FENCE is satisfied and whose header has no offending field (R50 to R53, R71, R329). -/
abbrev Runs (n : Node) (h : Word) (op : Nat) (c : Cmd) : Prop :=
  findCmd n h.toNat = some c ∧ c.op = op ∧ c.stage = .dispatched ∧ fenceOk n c = true ∧ headerOffs c = []

/-- A handle names a command of an opcode that has begun and not finished. -/
abbrev Running (n : Node) (h : Word) (op : Nat) (c : Cmd) : Prop :=
  findCmd n h.toNat = some c ∧ c.op = op ∧ c.stage = .running

/-- A command on a sequence stands first in the order of its sequence, and the sequence's composition holds a slice here for the node's tenant (R72, R78). -/
abbrev SeqTurn (n : Node) (c : Cmd) : Prop := seqHeld n c = false ∧ compOurs n (compOf (c.f 24 8)) = true

/-- The same, the sequence being open here, and no sealed sequence commanded on a relaxed ring (R326). -/
abbrev OnSeq (n : Node) (c : Cmd) (x : Seqn) : Prop :=
  SeqTurn n c ∧ mget? n.seqs.open_ (c.f 24 8) = some x ∧ (x.sealed = true → sealedClass c.q = true)

/-- The opcode and handle of a command of the table that carries out a dispatched command entry (R69); none for an event, a register access or a message. -/
def opcodeOf (i : Instr) : Option (Nat × Nat) :=
  match i with
  | .nop h => some (opNop, h.toNat)
  | .queryCaps h => some (opQueryCaps, h.toNat)
  | .ringCfg h => some (opRingCfg, h.toNat)
  | .seqOpen h => some (opSeqOpen, h.toNat)
  | .seqClose h => some (opSeqClose, h.toNat)
  | .seqExtend h => some (opSeqExtend, h.toNat)
  | .pagelistSwap h => some (opPagelistSwap, h.toNat)
  | .seqFork h _ => some (opSeqFork, h.toNat)
  | .appendKv h _ => some (opAppendKv, h.toNat)
  | .copyPages h _ => some (opCopyPages, h.toNat)
  | .attend h => some (opAttend, h.toNat)
  | .prefill h => some (opPrefill, h.toNat)
  | .attendBlock h => some (opAttendBlock, h.toNat)
  | .merge h => some (opMerge, h.toNat)
  | .triggerPost h => some (opTriggerPost, h.toNat)
  | .bsuRun h => some (opBsuRun, h.toNat)
  | .bsuLoad h => some (opBsuLoad, h.toNat)
  | .bsuOwn h => some (opBsuOwn, h.toNat)
  | .bsuRelease h => some (opBsuRelease, h.toNat)
  | .migrate h _ => some (opMigrate, h.toNat)
  | .pin h _ => some (opPin, h.toNat)
  | .unpin h _ => some (opUnpin, h.toNat)
  | .placeHint h _ => some (opPlaceHint, h.toNat)
  | .weightsStreamLoad h => some (opWeightsStream, h.toNat)
  | .weightsStreamPrefetch h => some (opWeightsStream, h.toNat)
  | .weightsBind h => some (opWeightsBind, h.toNat)
  | .weightsEvict h => some (opWeightsEvict, h.toNat)
  | .pdLookup h _ => some (opPdLookup, h.toNat)
  | .pdInsert h => some (opPdInsert, h.toNat)
  | .pdDelete h => some (opPdDelete, h.toNat)
  | .mapPropose h => some (opMapPropose, h.toNat)
  | .mapRead h => some (opMapRead, h.toNat)
  | .sliceGrant h => some (opSliceGrant, h.toNat)
  | .tenantOpen h => some (opTenantOpen, h.toNat)
  | .tenantClose h => some (opTenantClose, h.toNat)
  | .recordGet h => some (opRecordGet, h.toNat)
  | .attest h => some (opAttest, h.toNat)
  | .powerHint h => some (opPowerHint, h.toNat)
  | .marchTest h => some (opMarchTest, h.toNat)
  | .updateStage h => some (opUpdateStage, h.toNat)
  | .updateCommit h => some (opUpdateCommit, h.toNat)
  | .retirePch h _ => some (opRetirePch, h.toNat)
  | .drain (.command h) => some (opDrain, h)
  | .recalibration (.command h) => some (opUpdateStage, h)
  | _ => none

/-- The registers take writes: `CMD_STATUS.READY` is 1, or no host port has a link (R424). -/
abbrev Writable (n : Node) : Prop := regsShut n = false

/-- What holds of fabric time between commands: the period is one of the six of R27; U fits its 16 bits and is at most 160 units in LOCKED (R38); a grandmaster is LOCKED
with U 0 and has no upstream; while a node slews, its U is the sum of R47; a switch point is one R30 allows. -/
def Tck.Ok (t : Tck) : Prop :=
  t.cur ≤ 5 ∧ t.u ≤ 0xFFFF ∧ (t.state = .locked → t.u ≤ 160) ∧ (t.gm = true → t.upstream = none ∧ t.state = .locked ∧ t.u = 0)
  ∧ (t.gm = false → t.state = .locked ∨ t.regaining = true → t.slew ≠ 0 → t.u = uOf t.measU t.slew)
  ∧ ∀ p a : Nat, t.switch = some (p, a) → p ≤ 5 ∧ a % 256000 = 0

/-- The state with another node. -/
abbrev State.withNode (s : State) (n : Node) : State := { s with node := n }

/-- A run after an instruction whose last microstep has committed (R184). -/
abbrev BsuRunSt.stepped (r : BsuRunSt) : BsuRunSt := { r with ip := r.ip + 1, prog := 0, msteps := r.msteps + 1, got := [] }

/-- The CXL directory waits for nothing: no request, no copy of R285, no release draining. -/
abbrev CxdIdle (n : Node) : Prop := n.cxd.reqs = [] ∧ n.cxd.pub = none ∧ ∀ e, (extentOf n e).revoking = 0

/-- What the loss of a head leaves (R290): LOST and CAUSE set and the event recorded; no request of it, no snoop to it and no copy of its own left; the lines it held in E
with owner-lost poison; ASSIGNED extents restated. -/
abbrev LostHead (a b : Node) (h cause : Nat) : Prop :=
  headIsLost b h = true ∧ rd b (Rg.cxdHostStatusCause h) = cause ∧ b.svc.arrivals.map (·.code) = a.svc.arrivals.map (·.code) ++ [evCxlHostLost]
  ∧ b.cxd.reqs = [] ∧ (∀ s ∈ b.cxd.snoops, s.head ≠ h) ∧ (∀ line e, mget? b.cxd.dir line = some e → bitAt e.heads h = false)
  ∧ (∀ x ∈ a.cxd.dir, x.2.excl = true → bitAt x.2.heads h = true →
      if 64 * x.1 < region1 then mget? b.mic.poison (resolve a (64 * x.1) / 64 * 64) = some 2 else mget? b.mic.poisonD (64 * x.1 - region1) = some 2)
  ∧ ∀ e x, mget? a.cxd.exts e = some x → mget? b.cxd.exts e = some (if x.state = 2 then { x with state := heldState b x.accepted } else x)

/-- Everything of the node but host memory, the front end's rings and commands, the snapshots, the registers, the counters and trace, and what it has sent: the parts
that posting a completion leaves alone. -/
abbrev SameBlocks (a b : Node) : Prop :=
  b.t1 = a.t1 ∧ b.sch = a.sch ∧ b.att = a.att ∧ b.cfl = a.cfl ∧ b.cvt = a.cvt ∧ b.bsu = a.bsu ∧ b.ter = a.ter ∧ b.mic = a.mic ∧ b.wts = a.wts
  ∧ b.pdx = a.pdx ∧ b.cxd = a.cxd ∧ b.qst = a.qst ∧ b.map = a.map ∧ b.sec = a.sec ∧ b.pwr = a.pwr ∧ b.brd = a.brd ∧ b.hi = a.hi

/-- An epoch that asks nothing of this node but to hold it: no command, drain or later commit of the node waits for it, no other node is newly LOST, every protection
group is WHOLE and no rebuild runs, and the node does not begin to drain. -/
abbrev QuietEpoch (n : Node) (m : FMap) : Prop :=
  n.map.waits = [] ∧ n.map.drains = [] ∧ n.map.early = [] ∧ n.map.rebuild = none ∧ (∀ k, k ≠ nodeId n → stateIn m k = 4 → stateIn n.map.map k = 4)
  ∧ (∀ g ∈ m.groups, g.2.gstate = 0) ∧ (stateIn m (nodeId n) = 2 → stateIn n.map.map (nodeId n) = 2)

end Sys2Proof.Machine
end

