-- ==== Sys2Proof/Certificates/Slice0/Obligations.lean ====
section
/-! DEFINITION. The statements. -/

open Sys2Proof Sys2Proof.Machine

/-- A step with commands waiting runs the first of them on the state without it; with none waiting one cycle of fabric time passes: For every command c
and every list of commands behind it: a step of a state whose queue is c and that list is exec of c on the state whose queue is that list. With an
empty queue a step idles: it answers a next state with an empty queue (the model's choice, log entry 2). -/
def Obligations.StepRunsTheCommandInFront : Prop :=
  (∀ (c : Instr) (l : List Instr) (s : State), s.pending = c :: l → step s = exec c { s with pending := l })
  ∧ (∀ s : State, s.pending = [] → step s = .next (idle s) ∧ (idle s).pending = [])

/-- No command faults or is refused, and none touches the commands waiting behind it: For every command and every state: exec answers a next state, and
the queue of waiting commands in it is the one before. The spec reports every error as a status, a count or an event, so no command stops the block
(the model's reading, log entry 1). -/
def Obligations.EveryCommandIsAnsweredAndKeepsTheQueue : Prop :=
  ∀ (c : Instr) (s : State), ∃ t : State, exec c s = .next t ∧ t.pending = s.pending

/-- Every step keeps fabric time well formed: a legal period, U at most 160 units in LOCKED, a grandmaster LOCKED with U 0, U while slewing the sum of
R47: For every state in which fabric time is well formed and every step that answers a next state, whatever command stands in front and whatever its
operands, fabric time is well formed in the next state: TCK_PERIOD is 0 to 5, U fits 16 bits and is at most 160 units in LOCKED, a grandmaster is
LOCKED with U 0 and without upstream, a slewing node's U is its measured uncertainty plus the offset left, and a pending switch point names a legal
period at a multiple of 256,000 units. -/
def Obligations.FabricTimeStaysWellFormed : Prop :=
  ∀ s t : State, s.tck.Ok → step s = .next t → t.tck.Ok

/-- Fabric time never decreases but in the re-join step and at power-on: For every state in which no re-join step waits for running slices and every step
that answers a next state, unless the command in front is UPSTREAM_OFFSET_MEASURED, which may be the re-join step of R47, or POWER_ON_RESET, which
starts fabric time anew: fabric time in the next state is at least what it was. -/
def Obligations.FabricTimeNeverGoesBack : Prop :=
  ∀ s t : State, s.tck.stepTo = none → step s = .next t → (∀ m, s.pending.head? ≠ some (.upstreamOffsetMeasured m)) →
    (∀ f, s.pending.head? ≠ some (.powerOnReset f)) → s.tck.now ≤ t.tck.now

/-- After power-on: time state ACQUIRE with U unknown and the default period, memories empty, no ring or sequence, registers at their reset values: In the
reset state no command waits, fabric time is in ACQUIRE, not grandmaster, U is unknown, TCK_PERIOD is 2; terrace 1 and host memory list no byte; no
ring is enabled, no sequence is open, no page is allocated; READY is 0, the tenant state is EMPTY; TCK_HOLD_LIMIT is 400, TCK_SUSPECT 16 and 4,
CMD_HORIZON.MAX 4,096; and fabric time is well formed. Fabric time 0 itself is the model's choice (log entry 3). -/
def Obligations.ResetLeavesTheSpecsValues : Prop :=
  State.reset.pending = [] ∧ State.reset.tck.state = .acquire ∧ State.reset.tck.gm = false ∧ State.reset.tck.u = 0xFFFF ∧ State.reset.tck.cur = 2
  ∧ State.reset.node.t1 = [] ∧ State.reset.node.hmem = [] ∧ Memory.wf 0 State.reset.node.t1 = true ∧ Memory.wf 0 State.reset.node.hmem = true
  ∧ State.reset.node.fe = ⟨[], [], [], 0, 0, []⟩ ∧ State.reset.node.seqs = Seqs.reset ∧ State.reset.node.ter.pages = []
  ∧ rdB State.reset.node Rg.cmdStatusReady = false ∧ tenantState State.reset.node = tsEmpty
  ∧ rd State.reset.node Rg.tckHoldLimitLimit = 400 ∧ rd State.reset.node Rg.tckSuspectThr = 16 ∧ rd State.reset.node Rg.tckSuspectClr = 4
  ∧ rd State.reset.node Rg.cmdHorizonMax = 4096 ∧ State.reset.tck.Ok

/-- Announces choose the grandmaster: its own announces, the upstream chosen from one heard, and the election after 16 silent ticks: For every state: a
grandmaster with no period waiting sends an announce of hop count 0 on each link that is up, and changes nothing else of the node. A node that does
not stand for grandmaster and hears one announce, with a hop count of at most 31, takes that link as upstream at one hop more, forwards it with the
hop count increased on its other up links when no period changes, and notes the tick. A node that stands and hears nobody for 16 whole ticks becomes
grandmaster, LOCKED with U 0, from its own fabric time when the fabric has had a grandmaster; one that does not stand is left without upstream, in
HOLDOVER if it was LOCKED. -/
def Obligations.GrandmasterIsTheLowestKeyHeard : Prop :=
  (∀ s : State, s.tck.gm = true → s.tck.wantPeriod = none →
    exec .announceSend s = .next (s.withNode (forward s.node none ⟨ownKey s.tck s.node, s.tck.cur, s.tck.switch, 0⟩)))
  ∧ (∀ (s : State) (l : Link) (a : Announce), a.hops ≤ 31 → stopped s.node = false → rdB s.node Rg.tckGmCfgEligible = false → s.tck.heard = [] → a.period = s.tck.cur →
    ∃ t : State, exec (.announceReceive l a) s = .next t ∧ t.tck.upstream = some l ∧ t.tck.hops = a.hops + 1 ∧ t.tck.gmKey = some a.key ∧ t.tck.gm = false
      ∧ t.tck.lastAnn = s.tck.tick ∧ t.tck.now = s.tck.now ∧ t.tck.cur = s.tck.cur ∧ t.node = forward s.node (some l) { a with hops := a.hops + 1 })
  ∧ (∀ s : State, s.tck.gm = false → stopped s.node = false → s.tck.lastAnn + 17 ≤ s.tck.tick → s.tck.heard = [] → rdB s.node Rg.tckGmCfgEligible = true → s.tck.everGm = true →
    ∃ t : State, exec .announceTimeout s = .next t ∧ t.tck.gm = true ∧ t.tck.state = .locked ∧ t.tck.u = 0 ∧ t.tck.now = s.tck.now ∧ t.tck.hops = 0
      ∧ t.tck.gmKey = some (ownKey s.tck s.node) ∧ t.node = s.node)
  ∧ (∀ s : State, s.tck.gm = false → stopped s.node = false → s.tck.lastAnn + 17 ≤ s.tck.tick → s.tck.heard = [] → rdB s.node Rg.tckGmCfgEligible = false → s.tck.state = .locked →
    ∃ t : State, exec .announceTimeout s = .next t ∧ t.tck.gm = false ∧ t.tck.state = .holdover ∧ t.tck.upstream = none ∧ t.tck.gmKey = none ∧ t.tck.u = s.tck.u
      ∧ t.tck.holdAt = s.tck.now ∧ t.node = s.node)

/-- Sync words and offsets: slewing within 160 units stays LOCKED, a large re-join offset is a step, a slewed one regains lock, HOLDOVER grows a unit each
0.5 ms: For every node with an upstream that is not grandmaster: a locked node's sync word from the upstream sets the offset to slew and U while U is
at most 160 units; past that it leaves LOCKED, for HOLDOVER while U is within TCK_HOLD_LIMIT and known, else for FREE, reported. It never moves fabric
time, and what rate it learns is open (log entry 62). In ACQUIRE, FREE or HOLDOVER an offset of at most 4,000 units is slewed; a larger one is a step
to the upstream's time, recorded as EV_TIME_STEP, at once where no slice runs; while one runs the node is in STEPPING, and steps once none does.
LOCKED is entered at a tick boundary when U is at most 160. In HOLDOVER each completed 0.5 ms adds one unit to U; past TCK_HOLD_LIMIT the node is FREE
with U 0xFFFF and reports itself off-time. That a node put into HOLDOVER by a sync word keeps its upstream is the model's choice (log entry 71).
How long a tick boundary lasts is the model's choice too (log entry 61). -/
def Obligations.OffsetsAreSlewedOrSteppedAndLossGrows : Prop :=
  (∀ (s : State) (l : Link) (m : SyncMeas), s.tck.gm = false → s.tck.upstream = some l → s.tck.state = .locked → uOf (measured m) m.offset ≤ 160 →
    exec (.syncWord l m) s
      = .next { s with tck := { s.tck with measU := measured m, rate := learnRate s.tck m.offset, slew := m.offset, u := uOf (measured m) m.offset } })
  ∧ (∀ (s : State) (l : Link) (m : SyncMeas), s.tck.gm = false → s.tck.upstream = some l → s.tck.state = .locked → 160 < uOf (measured m) m.offset →
    (uOf (measured m) m.offset ≤ rd s.node Rg.tckHoldLimitLimit → uOf (measured m) m.offset < 0xFFFF →
      exec (.syncWord l m) s = .next { s with tck := { s.tck with
        measU := measured m, rate := learnRate s.tck m.offset, slew := 0, slewAcc := 0, u := uOf (measured m) m.offset, regaining := false
        state := .holdover, holdAt := s.tck.now, holdSteps := 0 } })
    ∧ (rd s.node Rg.tckHoldLimitLimit < uOf (measured m) m.offset ∨ 0xFFFF ≤ uOf (measured m) m.offset →
      exec (.syncWord l m) s = .next { s with
        tck := { s.tck with measU := measured m, rate := learnRate s.tck m.offset, slew := 0, slewAcc := 0, u := 0xFFFF, regaining := false, state := .free }
        node := emit s.node .offTimeReport }))
  ∧ (∀ (s : State) (l : Link) (m : SyncMeas), s.tck.upstream = some l → s.tck.state = .acquire ∨ s.tck.state = .free ∨ s.tck.state = .holdover → m.offset.natAbs ≤ 4000 →
    exec (.upstreamOffsetMeasured m) s = .next { s with tck := { s.tck with measU := measured m, slew := m.offset, u := uOf (measured m) m.offset, regaining := true } })
  ∧ (∀ (s : State) (l : Link) (m : SyncMeas), s.tck.upstream = some l → s.tck.state = .acquire ∨ s.tck.state = .free ∨ s.tck.state = .holdover → 4000 < m.offset.natAbs →
    (slicesRun s.node = false → uOf (measured m) 0 ≤ 160 → s.node.fe.cmds = [] →
      ∃ t : State, exec (.upstreamOffsetMeasured m) s = .next t ∧ t.tck.now = ((s.tck.now : Int) + m.offset).toNat ∧ t.tck.slew = 0 ∧ t.tck.u = uOf (measured m) 0
        ∧ t.tck.state = .locked ∧ t.tck.cur = s.tck.cur
        ∧ t.node = raise t.tck s.node evTimeStep (leBytes 8 s.tck.now ++ leBytes 8 t.tck.now ++ leBytes 8 (wrapInt 64 m.offset)))
    ∧ (slicesRun s.node = true →
      exec (.upstreamOffsetMeasured m) s = .next { s with tck := { s.tck with state := .stepping, stepTo := some m, slew := 0, slewAcc := 0, regaining := false } }))
  ∧ (∀ (s : State) (m : SyncMeas), s.tck.state = .stepping → s.tck.stepTo = some m → s.tck.regaining = false → slicesRun s.node = false → uOf (measured m) 0 ≤ 160 →
    ∃ t : State, exec .lockAchieved s = .next t ∧ t.tck.now = ((s.tck.now : Int) + m.offset).toNat ∧ t.tck.state = .locked ∧ t.tck.stepTo = none)
  ∧ (∀ (s : State) (l : Link), s.tck.upstream = some l → s.tck.regaining = true → s.tck.u ≤ 160 → s.tck.atTick = true →
    s.tck.state = .acquire ∨ s.tck.state = .free ∨ s.tck.state = .holdover →
    exec .lockAchieved s = .next { s with tck := { s.tck with state := .locked, regaining := false } })
  ∧ (∀ s : State, s.tck.state = .holdover → s.tck.regaining = false → s.tck.holdAt + (s.tck.holdSteps + 1) * 2000000 ≤ s.tck.now →
    (s.tck.u < rd s.node Rg.tckHoldLimitLimit → s.tck.u < 0xFFFE →
      exec .holdoverGrowth s = .next { s with tck := { s.tck with u := s.tck.u + 1, holdSteps := s.tck.holdSteps + 1 } })
    ∧ (rd s.node Rg.tckHoldLimitLimit ≤ s.tck.u ∨ 0xFFFE ≤ s.tck.u →
      exec .holdoverGrowth s
        = .next { s with tck := { s.tck with u := 0xFFFF, holdSteps := s.tck.holdSteps + 1, state := .free }, node := emit s.node .offTimeReport }))

/-- Time-of-day frames are taken or counted, four good edges make the reference valid, two missing ones lose it, and only a grandmaster is disciplined:
With EXT_EN set: a frame that passes the checks names the next edge and any other is counted in TOD_BAD; an edge with an accepted frame, the first or
within 1 ms of the time it was due, is good, the fourth in a row sets EXT_OK, and a grandmaster with a valid reference slews by the difference while
another node records it in TCK_EXT_OFFSET; an edge on time without a frame is missing and counted, and the second in a row clears EXT_OK; an edge more
than 1 ms early counts as the missing one of its second (the model's choice, log entry 64); an edge 1 ms overdue counts as missing at the time it was
due. -/
def Obligations.ExternalReferenceNeedsFourGoodEdges : Prop :=
  (∀ (s : State) (fr : Bytes) (before : Nat), rdB s.node Rg.tckGmCfgExtEn = true → todGood fr before = true →
    exec (.todFrame fr before) s = .next { s with tck := { s.tck with tod := some (field fr 2 6) } })
  ∧ (∀ (s : State) (fr : Bytes) (before : Nat), rdB s.node Rg.tckGmCfgExtEn = true → todGood fr before = false →
    exec (.todFrame fr before) s = .next (s.withNode (bump s.node Rg.tckExtErrTodBad 1)))
  ∧ (∀ (s : State) (sec : Nat), rdB s.node Rg.tckGmCfgExtEn = true → s.tck.tod = some sec →
    (∀ e, s.tck.lastEdge = some e → e + 3996000000 ≤ s.tck.now ∧ s.tck.now ≤ e + 4004000000) →
    ∃ t : State, exec .ppsEdge s = .next t ∧ t.node = s.node ∧ t.tck.now = s.tck.now ∧ t.tck.lastEdge = some s.tck.now ∧ t.tck.tod = none ∧ t.tck.missRun = 0
      ∧ t.tck.goodRun = s.tck.goodRun + 1 ∧ (t.tck.extOk = true ↔ s.tck.extOk = true ∨ 3 ≤ s.tck.goodRun)
      ∧ (t.tck.extOk = true → s.tck.gm = true → t.tck.slew = (sec * 4000000000 : Nat) - (s.tck.now : Int) ∧ t.tck.extOffset = s.tck.extOffset)
      ∧ (t.tck.extOk = true → s.tck.gm = false → t.tck.slew = s.tck.slew ∧ t.tck.extOffset = sat32 ((s.tck.now : Int) - (sec * 4000000000 : Nat))))
  ∧ (∀ s : State, rdB s.node Rg.tckGmCfgExtEn = true → s.tck.tod = none →
    (∀ e, s.tck.lastEdge = some e → e + 3996000000 ≤ s.tck.now ∧ s.tck.now ≤ e + 4004000000) →
    exec .ppsEdge s = .next { s with tck := { s.tck with goodRun := 0, missRun := s.tck.missRun + 1, tod := none, lastEdge := some s.tck.now, extOk := s.tck.extOk && decide (s.tck.missRun + 1 < 2) }, node := bump s.node Rg.tckExtErrPpsMiss 1 })
  ∧ (∀ (s : State) (e : Nat), rdB s.node Rg.tckGmCfgExtEn = true → s.tck.lastEdge = some e → s.tck.now < e + 3996000000 →
    exec .ppsEdge s = .next { s with tck := { s.tck with goodRun := 0, missRun := s.tck.missRun + 1, tod := none, lastEdge := some (e + 4000000000), extOk := s.tck.extOk && decide (s.tck.missRun + 1 < 2) }, node := bump s.node Rg.tckExtErrPpsMiss 1 })
  ∧ (∀ (s : State) (e : Nat), rdB s.node Rg.tckGmCfgExtEn = true → s.tck.lastEdge = some e → e + 4004000000 < s.tck.now →
    exec .ppsMissing s = .next { s with tck := { s.tck with goodRun := 0, missRun := s.tck.missRun + 1, tod := none, lastEdge := some (e + 4000000000), extOk := s.tck.extOk && decide (s.tck.missRun + 1 < 2) }, node := bump s.node Rg.tckExtErrPpsMiss 1 })

/-- The agreed period begins at its switch point, late reports leave the count after 1,024 ticks, SUSPECT changes are told, the seed is taken only in
ACQUIRE: For every locked node whose switch point has come: the new period runs, fabric time is unchanged, and no switch point is pending. A late
report leaves COUNT at the boundary that ends its 1,024th tick, and SUSPECT is set above THR, cleared at or below CLR and else kept. A change of
SUSPECT is reported once. A seed write in ACQUIRE with writable registers sets its half of the seed; in another state it is ignored but for
EV_TCK_WRITE_IGNORED. -/
def Obligations.PeriodLatenessAndSeed : Prop :=
  (∀ (s : State) (p a : Nat), s.tck.state = .locked → s.tck.switch = some (p, a) → a ≤ s.tck.now →
    ∃ t : State, exec .periodSwitch s = .next t ∧ t.tck.cur = p ∧ t.tck.now = s.tck.now ∧ t.tck.switch = none ∧ t.tck.state = .locked ∧ t.node.bank = s.node.bank
      ∧ t.node.t1 = s.node.t1 ∧ t.node.fe.cmds.length = s.node.fe.cmds.length)
  ∧ (∀ s : State, ∃ t : State, exec .lateCountExpiry s = .next t ∧ t.node = s.node ∧ t.tck.now = s.tck.now ∧ t.tck.late = s.tck.late.filter (fun k => s.tck.tick < k.1 + 1024)
      ∧ t.tck.suspect = (if rd s.node Rg.tckSuspectThr < t.tck.late.length then true else if t.tck.late.length ≤ rd s.node Rg.tckSuspectClr then false else s.tck.suspect))
  ∧ (∀ s : State, s.tck.suspect ≠ s.tck.suspectTold →
    exec .suspectReport s = .next { s with tck := { s.tck with suspectTold := s.tck.suspect }, node := emit s.node (.suspectReport s.tck.suspect) })
  ∧ (∀ (s : State) (v : Word), Writable s.node → s.tck.state = .acquire →
    exec (.tckSeedWrite false v) s = .next { s with tck := { s.tck with seed := putBits s.tck.seed 0 32 v.toNat } }
    ∧ exec (.tckSeedWrite true v) s = .next { s with tck := { s.tck with seed := putBits s.tck.seed 32 32 v.toNat } })
  ∧ (∀ (s : State) (v : Word), Writable s.node → s.tck.state ≠ .acquire →
    exec (.tckSeedWrite false v) s = .next (s.withNode (raise s.tck s.node evTckWriteIgnored (leBytes 4 Rg.tckSeedLoSeed.off))))

/-- A submission doorbell within the ring's size is answered for every entry up to the new tail: For every enabled local ring, every doorbell of its own
requester whose distance from the head is between 1 and the ring size and not behind the last tail: the command answers a next state in which the
ring's head and tail both stand at the new tail, the ring is otherwise as it was but for its accepted and outstanding counts and its closing mark, and
every command outstanding before still is, in its place. -/
def Obligations.DoorbellReadsEveryEntryUpToTheTail : Prop :=
  ∀ (s : State) (ring : BitVec 8) (tail : Word) (sq : Sq), rdB s.node Rg.cmdStatusReady = true → mget? s.node.fe.sqs ring.toNat = some sq →
    sq.en = true → sq.closing = false → sq.remote = false → sq.head < 2 ^ 32 → tail.toNat ≠ sq.tail →
    1 ≤ (tail.toNat + 2 ^ 32 - sq.head) % 2 ^ 32 → (tail.toNat + 2 ^ 32 - sq.head) % 2 ^ 32 ≤ 2 ^ sq.log2 →
    (sq.tail + 2 ^ 32 - sq.head) % 2 ^ 32 ≤ (tail.toNat + 2 ^ 32 - sq.head) % 2 ^ 32 →
    ∃ (t : State) (q : Sq), exec (.cmdSqDb ring tail sq.owner) s = .next t ∧ mget? t.node.fe.sqs ring.toNat = some q
      ∧ q.head = tail.toNat ∧ q.tail = tail.toNat
      ∧ q = { sq with head := tail.toNat, tail := tail.toNat, accepted := q.accepted, outstanding := q.outstanding, closing := q.closing }
      ∧ s.node.fe.cmds <+: t.node.fe.cmds ∧ t.tck = s.tck ∧ t.pending = s.pending

/-- An entry that passes every check becomes one command with the next handle, reserves one completion entry, and its acceptance word is written: For
every enabled local ring of its own requester, a doorbell one past the head whose entry passes the checks: the command answers a next state with
exactly one command more, last in acceptance order, whose handle is the ring in bits 31:24 and the count of commands accepted on the ring modulo 2^24,
queued, holding the entry read; its completion ring has one more entry reserved; bytes 8 to 15 of the slot hold the handle with word kind 5. -/
def Obligations.AcceptedEntryIsQueuedAndAnswered : Prop :=
  ∀ (s : State) (ring : BitVec 8) (tail : Word) (sq : Sq) (cq : Cq) (e : Bytes), e = hostRead s.node (reqSpace sq.owner) (headSlot sq) 64 → rdB s.node Rg.cmdStatusReady = true → Memory.wf 0 s.node.hmem = true →
    mget? s.node.fe.sqs ring.toNat = some sq → sq.en = true → sq.closing = false → sq.remote = false → sq.head < 2 ^ 32 → tail.toNat = (sq.head + 1) % 2 ^ 32 → sq.tail = sq.head →
    acceptCheck s.tck (setTail s.node ring.toNat tail.toNat) ring.toNat { sq with tail := tail.toNat } e = none →
    mget? s.node.fe.cqs (chosenCq s.node sq e) = some cq →
    ∃ (t : State) (c : Cmd) (q : Cq), exec (.cmdSqDb ring tail sq.owner) s = .next t ∧ t.node.fe.cmds = s.node.fe.cmds ++ [c]
      ∧ c.handle = ring.toNat * 2 ^ 24 + sq.accepted % 2 ^ 24 ∧ c.stage = .queued ∧ c.accTick = s.tck.tick ∧ c.req = sq.owner
      ∧ c.entry = e ∧ c.cq = chosenCq s.node sq c.entry
      ∧ mget? t.node.fe.cqs c.cq = some q ∧ q = { cq with reserved := cq.reserved + 1 }
      ∧ hostRead t.node (reqSpace sq.owner) (headSlot sq + 8) 8 = leBytes 8 (c.handle + 0x5 * 2 ^ 60)

/-- An entry that fails a check is answered with the refusal's word and becomes no command: For every enabled local ring of its own requester, a doorbell
one past the head whose entry fails a check: the command answers a next state with the same outstanding commands and the same completion rings, and
bytes 8 to 15 of the slot hold the refusal's status, hint and, for a stale epoch, the current epoch, with word kind 10. -/
def Obligations.RefusedEntryHasNoOtherEffect : Prop :=
  ∀ (s : State) (ring : BitVec 8) (tail : Word) (sq : Sq) (r : Refuse) (e : Bytes), e = hostRead s.node (reqSpace sq.owner) (headSlot sq) 64 → rdB s.node Rg.cmdStatusReady = true → Memory.wf 0 s.node.hmem = true →
    mget? s.node.fe.sqs ring.toNat = some sq → sq.en = true → sq.closing = false → sq.remote = false → sq.head < 2 ^ 32 → tail.toNat = (sq.head + 1) % 2 ^ 32 → sq.tail = sq.head →
    acceptCheck s.tck (setTail s.node ring.toNat tail.toNat) ring.toNat { sq with tail := tail.toNat } e = some r →
    ∃ t : State, exec (.cmdSqDb ring tail sq.owner) s = .next t ∧ t.node.fe.cmds = s.node.fe.cmds ∧ t.node.fe.cqs = s.node.fe.cqs ∧ t.node.t1 = s.node.t1
      ∧ t.node.seqs = s.node.seqs ∧ t.node.sch = s.node.sch ∧ t.tck = s.tck
      ∧ hostRead t.node (reqSpace sq.owner) (headSlot sq + 8) 8
        = leBytes 8 ((if r.status = stStaleEpoch then epochOf s.node else 0) + r.status * 2 ^ 32 + r.retry * 2 ^ 48 + 0xA * 2 ^ 60)

/-- Completing a command posts one 32-byte entry where its ring's count says and ends the command, and touches no other block: For every outstanding
command whose completion ring exists: after its completion no command has its handle; the ring's posted count is one more modulo 2^32 and one entry
fewer is reserved; a local ring's entry stands in the slot of the count before, handle, status, opcode, PHASE and result included; for a remote ring
the entry is sent as one QST write to that slot and host memory is unchanged; every block but the front end, the registers, the counters, the
snapshots and what was sent is as it was. -/
def Obligations.CompletionPostsOneEntryAndEndsTheCommand : Prop :=
  ∀ (t : Tck) (n : Node) (h st : Nat) (r : Bytes) (c : Cmd) (q : Cq), findCmd n h = some c → mget? n.fe.cqs c.cq = some q → Memory.wf 0 n.hmem = true →
    findCmd (complete t n h st r) h = none
    ∧ (∃ p : Cq, mget? (complete t n h st r).fe.cqs c.cq = some p ∧ p.posted = (q.posted + 1) % 2 ^ 32 ∧ p.reserved = q.reserved - 1 ∧ p.head = q.head ∧ p.owner = q.owner)
    ∧ (q.remote = false → hostRead (complete t n h st r) (reqSpace q.owner) (q.base + q.posted % 2 ^ q.log2 * 32) 32
        = leBytes 4 h ++ leBytes 2 st ++ leBytes 1 c.op ++ leBytes 1 ((q.posted / 2 ^ q.log2 + 1) % 2 + 2 * b2n c.moved + 4 * b2n c.late)
          ++ leBytes 8 ((if timed c.op then c.launch else t.tick) % 2 ^ 58) ++ padTo 16 r)
    ∧ (∀ p, q.remote = true → q.owner = .qp p → (complete t n h st r).hmem = n.hmem
        ∧ (complete t n h st r).out = n.out ++ [.qstWrite p.toNat q.mrKey (q.base + q.posted % 2 ^ q.log2 * 32) (cplEntry t c q st r)])
    ∧ SameBlocks n (complete t n h st r)

/-- A completion doorbell or message releases entries up to its count; beyond the posted entries, on a disabled ring or from another source it is counted:
For every enabled completion ring and every head count of its own requester not beyond the entries posted: the ring's head becomes that count and
nothing else changes, for CMD_CQ_DB and, from the ring's queue pair, for CMD_CQ_HEAD. A count beyond the posted entries, or a ring not enabled, only
adds one to CMD_DB_ERR.BAD and records EV_DB_BAD; another source only adds one to FOREIGN and records EV_DB_FOREIGN. A message of another shape than
CMD_CQ_HEAD's is counted as BAD (the model's choice, log entry 48). -/
def Obligations.CompletionHeadsReleaseEntriesOrAreIgnored : Prop :=
  (∀ (s : State) (ring : BitVec 8) (head : Word) (q : Cq), mget? s.node.fe.cqs ring.toNat = some q → q.en = true →
    (head.toNat + 2 ^ 32 - q.head) % 2 ^ 32 ≤ (q.posted + 2 ^ 32 - q.head) % 2 ^ 32 →
    exec (.cmdCqDb ring head q.owner) s = .next (s.withNode { s.node with fe := { s.node.fe with cqs := mset s.node.fe.cqs ring.toNat { q with head := head.toNat } } }))
  ∧ (∀ (s : State) (b : Bytes) (ring head : Nat) (qp : BitVec 20) (q : Cq), cqHeadOf b = some (ring, head) → mget? s.node.fe.cqs ring = some q → q.en = true → q.owner = .qp qp →
    (head + 2 ^ 32 - q.head) % 2 ^ 32 ≤ (q.posted + 2 ^ 32 - q.head) % 2 ^ 32 →
    exec (.cmdCqHead b qp) s = .next (s.withNode { s.node with fe := { s.node.fe with cqs := mset s.node.fe.cqs ring { q with head := head } } }))
  ∧ (∀ (s : State) (b : Bytes) (qp : BitVec 20), cqHeadOf b = none →
    exec (.cmdCqHead b qp) s = .next (s.withNode (raise s.tck (bump s.node Rg.cmdDbErrBad 1) evDbBad (leBytes 1 (byteAt b 1)))))
  ∧ (∀ (s : State) (ring : BitVec 8) (head : Word) (q : Cq), mget? s.node.fe.cqs ring.toNat = some q → q.en = true →
    (q.posted + 2 ^ 32 - q.head) % 2 ^ 32 < (head.toNat + 2 ^ 32 - q.head) % 2 ^ 32 →
    exec (.cmdCqDb ring head q.owner) s = .next (s.withNode (raise s.tck (bump s.node Rg.cmdDbErrBad 1) evDbBad (leBytes 1 ring.toNat))))
  ∧ (∀ (s : State) (ring : BitVec 8) (head : Word) (src : Req) (q : Cq), mget? s.node.fe.cqs ring.toNat = some q → q.en = false →
    exec (.cmdCqDb ring head src) s = .next (s.withNode (raise s.tck (bump s.node Rg.cmdDbErrBad 1) evDbBad (leBytes 1 ring.toNat))))
  ∧ (∀ (s : State) (ring : BitVec 8) (head : Word) (src : Req) (q : Cq), mget? s.node.fe.cqs ring.toNat = some q → q.en = true → src ≠ q.owner →
    exec (.cmdCqDb ring head src) s = .next (s.withNode (raise s.tck (bump s.node Rg.cmdDbErrForeign 1) evDbForeign (leBytes 1 ring.toNat))))

/-- A command message that continues a remote ring is taken whole and answered with one CMD_ACCEPT; one that leaves a gap is held: For every enabled ring
of the sending queue pair and every message laid out as a CMD_SUBMIT of 1 to 16 entries that stays within the ring's size: with nothing held and FIRST
the count received so far, the ring's tail and head move past its entries and exactly one CMD_ACCEPT is sent, laid out as R65 has it, with one word
for each entry. A message whose FIRST lies beyond the count received and that overlaps no held one is held on the ring and changes nothing else. One
that reaches past the ring's size, as one that repeats entries received does, is only counted and recorded, as is one that overlaps a held message
(the model's choice, log entry 48). -/
def Obligations.CommandMessageIsAnsweredInOrder : Prop :=
  ∀ (s : State) (b : Bytes) (m : SubmitMsg) (qp : BitVec 20) (sq : Sq), submitOf b = some m → mget? s.node.fe.sqs m.ring = some sq → sq.en = true → sq.closing = false →
    sq.owner = .qp qp → 1 ≤ m.entries.length → m.entries.length ≤ 16 →
    (sq.held = [] → m.first = sq.tail → (sq.tail + 2 ^ 32 - sq.head) % 2 ^ 32 + m.entries.length ≤ 2 ^ sq.log2 →
      ∃ (t : State) (q : Sq) (ws : List Nat), exec (.cmdSubmit b qp) s = .next t ∧ mget? t.node.fe.sqs m.ring = some q
        ∧ q.tail = (m.first + m.entries.length) % 2 ^ 32 ∧ q.head = (m.first + m.entries.length) % 2 ^ 32
        ∧ ws.length = m.entries.length ∧ t.node.out = s.node.out ++ [.cmdAccept qp.toNat (acceptBytes m ws)] ∧ s.node.fe.cmds <+: t.node.fe.cmds ∧ t.tck = s.tck)
    ∧ ((m.first + 2 ^ 32 - sq.tail) % 2 ^ 32 ≠ 0 →
      (sq.tail + 2 ^ 32 - sq.head) % 2 ^ 32 + (m.first + 2 ^ 32 - sq.tail) % 2 ^ 32 + m.entries.length ≤ 2 ^ sq.log2 → overlapsHeld sq m.first m.entries.length = false →
      exec (.cmdSubmit b qp) s = .next (s.withNode { s.node with fe := { s.node.fe with sqs := mset s.node.fe.sqs m.ring { sq with held := sq.held ++ [m] } } }))
    ∧ (2 ^ sq.log2 < (sq.tail + 2 ^ 32 - sq.head) % 2 ^ 32 + (m.first + 2 ^ 32 - sq.tail) % 2 ^ 32 + m.entries.length ∨ overlapsHeld sq m.first m.entries.length = true →
      exec (.cmdSubmit b qp) s = .next (s.withNode (raise s.tck (bump s.node Rg.cmdDbErrBad 1) evDbBad (leBytes 1 m.ring))))

/-- DELAY notches after the first unsignalled entry of a local ring its vector is raised and its counts start afresh: For every local completion ring of a
host requester with INTR enabled and an entry not yet signalled since time tm: once DELAY notches have passed, CQ_INTR_DELAY sends the ring's MSI-X
vector on its port half and clears the count and the time, and changes nothing else. Before that, it changes nothing. -/
def Obligations.CompletionInterruptAfterItsDelay : Prop :=
  (∀ (s : State) (ring : BitVec 8) (q : Cq) (tm : Nat) (half : Fin 4) (rid : BitVec 16), mget? s.node.fe.cqs ring.toNat = some q → q.remote = false →
    q.owner = .host half rid → q.firstUnsig = some tm → rdB s.node (Rg.cmdCqIntrEn ring.toNat) = true →
    tm + rd s.node (Rg.cmdCqIntrDelay ring.toNat) * unitsPerNotch s.tck.cur ≤ s.tck.now →
    exec (.cqIntrDelay ring) s = .next (s.withNode (emit { s.node with fe := { s.node.fe with cqs := mset s.node.fe.cqs ring.toNat { q with unsig := 0, firstUnsig := none } } }
      (.msix half.val q.msix))))
  ∧ (∀ (s : State) (ring : BitVec 8) (q : Cq) (tm : Nat), mget? s.node.fe.cqs ring.toNat = some q → q.firstUnsig = some tm →
    s.tck.now < tm + rd s.node (Rg.cmdCqIntrDelay ring.toNat) * unitsPerNotch s.tck.cur → exec (.cqIntrDelay ring) s = .next s)

/-- A write that sets EN of CMD_ADMIN_CFG enables ring pair 0 for the requester that made it; one that clears EN disables it: For every state whose
registers take writes: a write with EN 1 while EN is 0, from a requester other than the management path, leaves ring pair 0 enabled and local, owned
by that requester, at the addresses of the base registers, every count 0, and EN and CMD_STATUS.ADMIN_EN at 1. A write with EN 0 and unchanged ring
sizes while EN is 1 leaves both rings disabled and both bits at 0. From the management path a write that would set EN is ignored but for
EV_CMD_WRITE_IGNORED.
That counts and handle numbers start at 0 whatever is outstanding is the model's choice (log entry 49). -/
def Obligations.AdminRingIsBoundToItsWriter : Prop :=
  (∀ (s : State) (v : Word) (src : Req), Writable s.node → src ≠ .mgmt → rdB s.node Rg.cmdAdminCfgEn = false → bitAt v.toNat 8 = true →
    ∃ (t : State) (sq : Sq) (cq : Cq), exec (.cmdAdminCfgWrite v src) s = .next t ∧ mget? t.node.fe.sqs 0 = some sq ∧ mget? t.node.fe.cqs 0 = some cq
      ∧ sq.en = true ∧ sq.remote = false ∧ sq.owner = src ∧ sq.base = s.node.bank.get Rg.cmdAdminSqLoBase.off + s.node.bank.get Rg.cmdAdminSqHiBase.off * 2 ^ 32
      ∧ sq.head = 0 ∧ sq.tail = 0 ∧ sq.accepted = 0
      ∧ cq.en = true ∧ cq.remote = false ∧ cq.owner = src ∧ cq.base = s.node.bank.get Rg.cmdAdminCqLoBase.off + s.node.bank.get Rg.cmdAdminCqHiBase.off * 2 ^ 32
      ∧ cq.posted = 0 ∧ cq.head = 0 ∧ rdB t.node Rg.cmdAdminCfgEn = true ∧ rdB t.node Rg.cmdStatusAdminEn = true ∧ t.node.fe.cmds = s.node.fe.cmds)
  ∧ (∀ (s : State) (v : Word) (src : Req), Writable s.node → rdB s.node Rg.cmdAdminCfgEn = true → bitAt v.toNat 8 = false →
    bits v.toNat 0 8 = bits (s.node.bank.get Rg.cmdAdminCfgEn.off) 0 8 →
    ∃ t : State, exec (.cmdAdminCfgWrite v src) s = .next t ∧ (∀ sq, mget? t.node.fe.sqs 0 = some sq → sq.en = false) ∧ (∀ cq, mget? t.node.fe.cqs 0 = some cq → cq.en = false)
      ∧ rdB t.node Rg.cmdAdminCfgEn = false ∧ rdB t.node Rg.cmdStatusAdminEn = false ∧ t.node.fe.cmds = s.node.fe.cmds)
  ∧ (∀ (s : State) (v : Word), Writable s.node → rdB s.node Rg.cmdAdminCfgEn = false → bitAt v.toNat 8 = true →
    exec (.cmdAdminCfgWrite v .mgmt) s = .next (s.withNode (raise s.tck s.node evCmdWriteIgnored (leBytes 4 Rg.cmdAdminCfgEn.off))))

/-- NOP, QUERY_CAPS, RING_CFG and the drain of a disabled ring complete with ST_OK and their effect when no field offends: For every dispatched command
with an unobjectionable header: NOP only completes; QUERY_CAPS writes the capability structure to the 64-byte aligned buffer named and completes with
RESULT byte 16 at 128; RING_CFG on ring 0 enables the submission or completion ring it describes, disables an idle submission ring at once, begins a
drain where commands are outstanding, or disables a completion ring; the drain of a running disabling RING_CFG ends once its ring has none
outstanding. On another ring RING_CFG completes with ST_DENIED and changes nothing. -/
def Obligations.RingCommandsComplete : Prop :=
  (∀ (s : State) (h : Word) (c : Cmd), Runs s.node h opNop c → rsv c 24 63 = [] → exec (.nop h) s = .next (s.withNode (complete s.tck s.node h.toNat stOk [])))
  ∧ (∀ (s : State) (h : Word) (c : Cmd), Runs s.node h opQueryCaps c → mult (c.f 24 8) 64 = true → rsv c 32 63 = [] →
    exec (.queryCaps h) s = .next (s.withNode (complete s.tck (hostWrite s.node c.mem (c.f 24 8) (capsBytes s.tck s.node)) h.toNat stOk [128])))
  ∧ (∀ (s : State) (h : Word) (c : Cmd), Runs s.node h opRingCfg c → c.ring = 0 → c.f 25 1 = 0 → ringEnableOffs s.node c true = [] →
    exec (.ringCfg h) s = .next (s.withNode (complete s.tck (enableSq s.node c) h.toNat stOk [])))
  ∧ (∀ (s : State) (h : Word) (c : Cmd), Runs s.node h opRingCfg c → c.ring = 0 → c.f 25 1 = 1 → ringEnableOffs s.node c false = [] →
    exec (.ringCfg h) s = .next (s.withNode (complete s.tck (enableCq s.node c) h.toNat stOk [])))
  ∧ (∀ (s : State) (h : Word) (c : Cmd), Runs s.node h opRingCfg c → c.ring = 0 → c.f 25 1 = 2 → ringDisableOffs s.node c true = [] → ringDrained s.node (c.f 24 1) = true →
    exec (.ringCfg h) s = .next (s.withNode (complete s.tck (disableSq s.node (c.f 24 1)) h.toNat stOk [])))
  ∧ (∀ (s : State) (h : Word) (c : Cmd), Runs s.node h opRingCfg c → c.ring = 0 → c.f 25 1 = 2 → ringDisableOffs s.node c true = [] → ringDrained s.node (c.f 24 1) = false →
    exec (.ringCfg h) s = .next (s.withNode (setRunning s.node h.toNat)))
  ∧ (∀ (s : State) (h : Word) (c : Cmd), Runs s.node h opRingCfg c → c.ring = 0 → c.f 25 1 = 3 → ringDisableOffs s.node c false = [] →
    exec (.ringCfg h) s = .next (s.withNode (complete s.tck { s.node with fe := { s.node.fe with cqs := mmod s.node.fe.cqs (c.f 24 1) fun q => { q with en := false } } } h.toNat stOk [])))
  ∧ (∀ (s : State) (h : Word) (c : Cmd), Runs s.node h opRingCfg c → c.ring ≠ 0 → exec (.ringCfg h) s = .next (s.withNode (complete s.tck s.node h.toNat stDenied [])))
  ∧ (∀ (s : State) (h : Word) (c : Cmd), Running s.node h opRingCfg c → c.f 25 1 = 2 → ringDrained s.node (c.f 24 1) = true →
    exec (.ringDisableDrain h) s = .next (s.withNode (complete s.tck (disableSq s.node (c.f 24 1)) h.toNat stOk [])))

/-- A SEQ_OPEN without an offending field opens its sequence and reserves the frames of its longest form; the same SEQ_OPEN again succeeds with RESULT
0100h: For every dispatched SEQ_OPEN in its turn, of a composition with a slice here for the node's tenant, sealed only on a sealed ring, with no
reserved bit set: if the sequence is not open here or elsewhere, the node does not drain, no field offends, there is room for one more sequence and
the composition's unreserved quota holds the frames of MAX_LEN positions of every layer and group, the next state is the completion with ST_OK of a
node in which the sequence is open with the entry's fields, exactly those frames reserved and no page; a region sequence has in addition, for every
layer and group, the run of page slots the allocation gives; if the sequence is open with the same body, the completion is ST_OK with RESULT bytes 00
01 and the sequences are as they were.
That an opened sequence's context is cached, and the bound on open sequences among the conditions, are the model's choice (log entry 54). -/
def Obligations.SequencesOpenWithTheirReservation : Prop :=
  ∀ (s : State) (h : Word) (c : Cmd), Runs s.node h opSeqOpen c → SeqTurn s.node c → (bitAt (c.f 32 1) 0 = true → sealedClass c.q = true) →
    c.f 32 1 < 16 → c.f 41 1 < 4 → rsv c 60 63 = [] →
    (mget? s.node.seqs.open_ (c.f 24 8) = none → mget? s.node.seqs.elsewhere (c.f 24 8) = none → nodeState s.node (nodeId s.node) ≠ 2 → openOffs s.node c = [] →
      s.node.seqs.open_.length < maxSeqs → framesFor (openSeqn c 0) (c.f 44 4) ≤ unreserved s.node (compOf (c.f 24 8)) →
      (bitAt (c.f 32 1) 2 = false →
        exec (.seqOpen h) s = .next (s.withNode (complete s.tck (openIn s.node (openSeqn c (framesFor (openSeqn c 0) (c.f 44 4)))) h.toNat stOk [])))
      ∧ ∀ (n1 : Node) (m : NMap PList), bitAt (c.f 32 1) 2 = true →
        regionRuns s.tck (openSeqn c (framesFor (openSeqn c 0) (c.f 44 4))) (layerGroups (openSeqn c 0)) s.node [] = some (n1, m) →
        exec (.seqOpen h) s = .next (s.withNode (complete s.tck
          (openIn n1 { openSeqn c (framesFor (openSeqn c 0) (c.f 44 4)) with lists := m }) h.toNat stOk [])))
    ∧ ∀ x : Seqn, mget? s.node.seqs.open_ (c.f 24 8) = some x → (x.sealed = true → sealedClass c.q = true) → x.openBody = slice c.entry 24 40 →
        exec (.seqOpen h) s = .next (s.withNode (complete s.tck s.node h.toNat stOk [0, 1]))

/-- SEQ_CLOSE gives back what the sequence held, SEQ_EXTEND enlarges it, PAGELIST_SWAP installs a body with the next generation: For every dispatched
command in its turn on a sequence open here. SEQ_CLOSE: the completion is ST_OK with RESULT the number of entries of its bodies that name a page, of a
node in which the sequence is not open and its pages and marked bodies are retired in the running tick. SEQ_EXTEND without an offending field: the
completion is ST_OK with no RESULT and, of all open sequences, only this one has changed: MAX_LEN is the new one, it is paged, its reservation has
grown by the frames of the added positions, and its granule is the one named unless FFh. PAGELIST_SWAP without an offending field or a foreign entry,
its source not held by a head: the completion is ST_OK with RESULT the new generation, which is one more, and, of all open sequences, only this one
has changed: the list of the layer and group has the body's entries, the base position named, the version and filled positions it had; a source that
heads hold is recalled from them, and the command waits.
Where node firmware keeps a body is the model's choice (log entry 53). -/
def Obligations.SequencesCloseExtendAndSwap : Prop :=
  ∀ (s : State) (h : Word) (c : Cmd) (x : Seqn), OnSeq s.node c x →
    (Runs s.node h opSeqClose c → rsv c 32 63 = [] →
      exec (.seqClose h) s = .next (s.withNode (complete s.tck
        (retirePages s.tck { s.node with seqs := { s.node.seqs with open_ := mdel s.node.seqs.open_ x.id, ctx := s.node.seqs.ctx.filter (· != x.id) } } (seqPages s.node x)
          (x.lists.flatMap fun p => oldBody x p.1 p.2)) h.toNat stOk
        (leBytes 4 ((x.lists.flatMap fun p => plFpns s.node p.2).filter fun f => fpnIdx f != noPage).length))))
    ∧ (Runs s.node h opSeqExtend c → rsv c 37 63 = [] → x.id = c.f 24 8 → x.maxLen ≤ c.f 32 4 → c.f 32 4 ≤ 2 ^ 31 → (x.rope ≠ 0 → c.f 32 4 ≤ x.ropeLen) →
      framesFor x (c.f 32 4) - framesFor x x.maxLen ≤ unreserved s.node (compOf x.id) →
      (c.f 36 1 = 0xFF ∨ (x.sealed = true ∧ c.f 36 1 = x.granule ∧ c.f 36 1 ≤ 8) ∨ (x.sealed = false ∧ c.f 36 1 ≤ 8 ∧ ∀ p ∈ x.lists, mult p.2.posBase (64 * 2 ^ c.f 36 1) = true)) →
      ∃ (n : Node) (q : Seqn), exec (.seqExtend h) s = .next (s.withNode (complete s.tck n h.toNat stOk []))
        ∧ n = { s.node with seqs := { n.seqs with
            elsewhere := s.node.seqs.elsewhere, snaps := s.node.seqs.snaps, copies := s.node.seqs.copies, applied := s.node.seqs.applied, ctx := s.node.seqs.ctx } }
        ∧ n.seqs.open_ = mset s.node.seqs.open_ x.id q
        ∧ q = { x with region := false, maxLen := c.f 32 4, reserved := x.reserved + (framesFor x (c.f 32 4) - framesFor x x.maxLen)
                       granule := if c.f 36 1 = 0xFF then x.granule else c.f 36 1, lists := q.lists })
    ∧ (Runs s.node h opPagelistSwap c → rsv c 52 63 = [] → x.id = c.f 24 8 → swapOffs s.node c x = [] →
      (c.f 35 1 = 1 → c.f 36 4 ≠ 0 → extentsHeld s.node (c.f 40 8) (8 * c.f 36 4) = true) →
      (c.f 35 1 = 1 → heldLines s.node true (c.f 40 8) (8 * c.f 36 4) ≠ [] →
        exec (.pagelistSwap h) s = .next (s.withNode (recallRange s.tck true s.node (c.f 40 8) (8 * c.f 36 4)).1))
      ∧ ∀ es : List Nat, (c.f 35 1 = 1 → heldLines s.node true (c.f 40 8) (8 * c.f 36 4) = []) →
        es = swapEntries s.node c → entryOffs s.node x es = [] → (∀ e ∈ es, foreignEntry s.node x e = false) →
        ∃ (n : Node) (q : Seqn), exec (.pagelistSwap h) s = .next (s.withNode (complete s.tck n h.toNat stOk (leBytes 4 (((listOf x (c.f 32 2) (c.f 34 1)).generation + 1) % 2 ^ 32))))
          ∧ (∀ k : Nat, mget? n.seqs.open_ k = if k = x.id then some q else mget? s.node.seqs.open_ k)
          ∧ q = { x with lists := q.lists, extra := x.extra.filter fun f => !es.contains f }
          ∧ (∀ k : Nat, mget? q.lists k = if k = c.f 32 2 * x.groups + c.f 34 1 then
              some ⟨(listOf x (c.f 32 2) (c.f 34 1)).version, es.length, es.length, ((listOf x (c.f 32 2) (c.f 34 1)).generation + 1) % 2 ^ 32,
                if c.f 35 1 = 1 then c.f 40 8 else bodyPlace x.id (c.f 32 2 * x.groups + c.f 34 1) (((listOf x (c.f 32 2) (c.f 34 1)).generation + 1) % 2 ^ 32), c.f 48 4,
                c.f 35 1 == 1, if c.f 35 1 = 1 then [] else es, (listOf x (c.f 32 2) (c.f 34 1)).filled⟩
            else mget? x.lists k))

/-- SEQ_FORK opens the child with the pages the parent's lists give it; COPY_PAGES makes its pages or waits for room; a wait past its bound frees what it
had made: For every dispatched command in its turn on a sequence open here. SEQ_FORK without an offending field, whose child's composition holds a
slice here and its quota the child's frames, and whose copies all find room: the completion is ST_OK with no RESULT, and the child is open with the
parent's formats and shape, its own handle, MODE and MAX_LEN, its reservation, and the lists built from the parent's; where a copy zeroes part of a
poisoned line the completion has the status of its kind and no child is open; where one finds no room the command waits. COPY_PAGES to this node
without an offending field or a foreign source: when every page finds frames the new pages are ended with, else the command is running and waits with
the pages made so far. COPY_PAGES to another node that has answered with enough pages: the same end with that node's pages, and the message that tells
it what to copy. That end, with no list read changed since the snapshot, is ST_OK and the pages' numbers, 8 bytes each, in the host buffer at the
destination. COPY_PAGES_TIMEOUT after the end of tick A + DEADLINE_DEF: the pages made are freed and the completion is ST_DEADLINE.
That an opened sequence's context is cached is the model's choice (log entry 54). -/
def Obligations.ForksAndCopiesMakeNewPages : Prop :=
  ∀ (s : State) (h : Word) (c : Cmd) (peer : PeerAns) (x : Seqn),
    (Runs s.node h opSeqFork c → OnSeq s.node c x → (bitAt (c.f 44 1) 0 = true → sealedClass c.q = true) → c.f 44 1 < 16 → rsv c 50 63 = [] →
      compOurs s.node (compOf (c.f 32 8)) = true → mget? s.node.seqs.elsewhere (c.f 32 8) = none → forkOffs s.node c x = [] →
      ∀ (n0 : Node) (r : Option (AppSt × NMap PList)), n0 = ctrlReads s.tck s.node peer.errs →
        (layerGroups x).foldl (fun acc y => forkList s.tck c x (forkChild c x) y acc) (some (⟨n0, peer.pages, peer.data, peerPoison peer⟩, [])) = r →
        (r = none → exec (.seqFork h peer) s = .next (s.withNode (allocWaits n0 h.toNat)))
        ∧ ∀ (a : AppSt) (m : NMap PList), r = some (a, m) →
          (a.bad = none → exec (.seqFork h peer) s = .next (s.withNode (complete s.tck (allocOver
            (openIn a.n { forkChild c x with reserved := framesFor (forkChild c x) (c.f 46 4), lists := m }) h.toNat) h.toNat stOk [])))
          ∧ ∀ k : Nat, a.bad = some k →
            exec (.seqFork h peer) s = .next (s.withNode (complete s.tck (allocOver (bump n0 Rg.micPoisonPartialWr 1) h.toNat) h.toNat (if k = 2 then stOwnerLost else stMemUncorr) [])))
    ∧ (∀ (fs : List Nat) (n1 : Node), Runs s.node h opCopyPages c → OnSeq s.node c x → rsv c 33 33 = [] → rsv c 56 63 = [] → copyOffs s.node c peer x = [] →
      fs = copySources s.node c → (∀ f ∈ fs, foreignSource s.node x f = false) → n1 = setRunning (takeSnap s.tck s.node h.toNat fs (copyVers s.node x fs)) h.toNat →
      snapTorn n1 x h.toNat = false →
      (c.f 34 2 = nodeId s.node →
        ∀ (n2 : Node) (ids : List Nat) (left : Nat), copyLocal s.tck c x fs peer 0 (c.f 36 2) 0 (ctrlReads s.tck n1 peer.errs) = (n2, ids, left) →
          (left = 0 → exec (.copyPages h peer) s = .next (s.withNode (copyDone s.tck n2 c x ids)))
          ∧ (left ≠ 0 → exec (.copyPages h peer) s = .next (s.withNode (allocWaits
              { n2 with seqs := { n2.seqs with copies := n2.seqs.copies.filter (·.handle != h.toNat) ++ [⟨h.toNat, ids, left⟩] } } h.toNat))))
      ∧ (c.f 34 2 ≠ nodeId s.node → c.f 36 2 ≤ peer.pages.length →
        exec (.copyPages h peer) s = .next (s.withNode (copyDone s.tck (ctrlReads s.tck (emit n1 (.remoteCopy (c.f 34 2) h.toNat fs
            (if c.f 32 1 = 1 then (List.range (c.f 36 2)).map (fun j => (copyContents s.node c x fs peer 0 j).1.bytes) else []) 64)) peer.errs) c x
          ((peer.pages.take (c.f 36 2)).map (mkFpn (c.f 34 2)))))))
    ∧ (∀ (n : Node) (fpns : List Nat), findCmd n h.toNat = some c → snapTorn n x h.toNat = false → Memory.wf 0 n.hmem = true →
      ∃ m : Node, copyDone s.tck n c x fpns = complete s.tck m h.toNat stOk []
        ∧ hostRead m c.mem (c.f 48 8) (8 * fpns.length) = fpns.flatMap (leBytes 8))
    ∧ ∀ j : CopyJob, findCmd s.node h.toNat = some c → s.node.seqs.copies.find? (·.handle == h.toNat) = some j →
      s.tck.at (c.accTick + rd s.node Rg.cmdHorizonDeadlineDef + 1) 0 ≤ s.tck.now →
      exec (.copyPagesTimeout h) s = .next (s.withNode (complete s.tck (copyDrop s.node c j.got) h.toNat stDeadline []))

/-- An append compares the positions filled already, appends the others, and answers how many of each; it waits for earlier positions no longer than its
bound: For every dispatched APPEND_KV in its turn on a sequence open here, without an offending field. Its first position past the filled ones: it
waits, and from its bound on completes with ST_DEADLINE. Else, unless it has waited past its bound: if every position is filled and equals what its
page holds, the completion is ST_OK with RESULT 0 appended and COUNT matched, and no page changes; if one differs, it is ST_BAD_PARAM at offset 36; if
the rest is applied, it is ST_OK with the numbers appended and matched, once no parity is outstanding; if a page finds no frames, it waits, or ends
past its bound. APPEND_POSITION_WAIT_END does what the command does in its turn; an attention command still without its snapshot at notch 48 of its
deadline tick completes with ST_DEADLINE. A forwarded append whose filled positions match and whose page takes writes answers the home node with the
positions appended and matched; one whose new page passes the slice's unreserved quota is answered so.
Which contexts are cached is the model's choice (log entry 54). -/
def Obligations.AppendsMatchFilledPositionsAndWriteTheRest : Prop :=
  ∀ (s : State) (h : Word) (c : Cmd) (peer : PeerAns) (x : Seqn),
    (∀ (n0 n : Node), Runs s.node h opAppendKv c → OnSeq s.node c x → rsv c 35 35 = [] → rsv c 42 43 = [] → rsv c 60 63 = [] → appendOffs c x = [] →
      n0 = needCtx s.node c x.id → n = ctrlReads s.tck n0 peer.errs →
      (filledOf x (c.f 32 2) < c.f 36 4 →
        (s.tck.now < waitBound s.tck n0 c → exec (.appendKv h peer) s = .next (s.withNode (modCmd n0 h.toNat fun d => { d with waited := true })))
        ∧ (waitBound s.tck n0 c ≤ s.tck.now → exec (.appendKv h peer) s = .next (s.withNode (complete s.tck (allocOver n0 h.toNat) h.toNat stDeadline []))))
      ∧ (c.f 36 4 ≤ filledOf x (c.f 32 2) → (c.waited = true → s.tck.now < waitBound s.tck s.node c) →
        (c.f 36 4 + c.f 40 2 ≤ filledOf x (c.f 32 2) → skewAt n x (c.f 32 2) (c.f 36 4) (c.f 40 2) peer = none →
          cmpAll n x (c.f 32 2) (c.f 36 4) (appendBuf s.node c x) (c.f 40 2) peer.cmp = .ok → acksLeft n (nodeId n) h.toNat = false →
          exec (.appendKv h peer) s = .next (s.withNode (complete s.tck (allocOver n h.toNat) h.toNat stOk (leBytes 4 0 ++ leBytes 4 (c.f 40 2)))))
        ∧ (skewAt n x (c.f 32 2) (c.f 36 4) (min (filledOf x (c.f 32 2) - c.f 36 4) (c.f 40 2)) peer = none →
          cmpAll n x (c.f 32 2) (c.f 36 4) (appendBuf s.node c x) (min (filledOf x (c.f 32 2) - c.f 36 4) (c.f 40 2)) peer.cmp = .differs →
          exec (.appendKv h peer) s = .next (s.withNode (complete s.tck (allocOver n h.toNat) h.toNat stBadParam (leBytes 1 36))))
        ∧ (∀ n1 : Node, appendRows s.tck n0 h.toNat x.id x (c.f 32 2) (c.f 36 4) (appendBuf s.node c x) peer = .wait n1 →
          exec (.appendKv h peer) s = .next (s.withNode (waitOrEnd s.tck (allocWaits n1 h.toNat) c)))
        ∧ ∀ (n1 : Node) (a m : Nat), appendRows s.tck n0 h.toNat x.id x (c.f 32 2) (c.f 36 4) (appendBuf s.node c x) peer = .ok n1 a m →
          (acksLeft n1 (nodeId n1) h.toNat = false →
            exec (.appendKv h peer) s = .next (s.withNode (complete s.tck (allocOver n1 h.toNat) h.toNat stOk (leBytes 4 a ++ leBytes 4 m))))
          ∧ (acksLeft n1 (nodeId n1) h.toNat = true →
            ∃ n2 : Node, exec (.appendKv h peer) s = .next (s.withNode (setRunning n2 h.toNat)) ∧ n2.seqs = { n1.seqs with applied := n1.seqs.applied ++ [(h.toNat, a, m)] }
              ∧ n2.fe = n1.fe)))
    ∧ (findCmd s.node h.toNat = some c → c.op = opAppendKv → c.stage = .dispatched → exec (.appendPositionWaitEnd h peer) s = exec (.appendKv h peer) s)
    ∧ (findCmd s.node h.toNat = some c → attends c.op = true → c.stage ≠ .queued → (∀ q ∈ s.node.seqs.snaps, q.handle ≠ h.toNat) → s.tck.at c.deadline 48 ≤ s.tck.now →
      exec (.appendPositionWaitEnd h peer) s = .next (s.withNode (complete s.tck (allocOver (dropStep s.node h.toNat) h.toNat) h.toNat stDeadline (attEnd s.node c))))
    ∧ ∀ m : FwdAppend,
      (∀ (n1 : Node) (e : PageEnt), mhas s.node.ter.pages (fwdIdx m) = true ∨ fwdFrames m ≤ unreserved s.node (compOf m.seq) →
        forwardedPage s.tck (allocOver s.node (farWait m)) m = some n1 → pageAt n1 (fwdIdx m) = some e → fwdCmp n1 e (fwdIdx m) m = .ok → fwdPoison n1 e m = none →
        ∃ n : Node, exec (.forwardedAppend m) s = .next (s.withNode n)
          ∧ .appendReply m.home m.handle (m.rows.length - min (m.filled - m.first) m.rows.length) (min (m.filled - m.first) m.rows.length) .ok ∈ n.out)
      ∧ (mhas s.node.ter.pages (fwdIdx m) = false → unreserved s.node (compOf m.seq) < fwdFrames m →
        exec (.forwardedAppend m) s = .next (s.withNode (emit s.node (.appendReply m.home m.handle 0 0 .noQuota))))

/-- A write on the marked lines of an installed list raises its VERSION and takes effect; at a tick boundary what nothing reads any more is freed: For
every state: LIST_INPLACE_WRITE of bytes that land on the marked lines of a body, installed or retired and not yet freed, raises the version of every
such list, with EV_LIST_INPLACE, and writes the bytes by name; it changes no page list but in its version, and on a write that lands on no marked line
changes nothing. RETIRED_BODY_FREE keeps of what was retired exactly what was retired in the running tick or has a reader since, and pages that a
snapshot alone still names, and of the sources of moves the same. -/
def Obligations.InPlaceWritesRaiseVersionAndRetiredPagesAreFreed : Prop :=
  ∀ (s : State),
    (∀ (a : BitVec 64) (b : Bytes), (marked s.node a.toNat b.length ≠ [] →
        exec (.listInplaceWrite a b) s = .next (s.withNode (nameWrite s.tck (bumpVersions s.tck s.node a.toNat b.length) a.toNat b)))
      ∧ (marked s.node a.toNat b.length = [] → exec (.listInplaceWrite a b) s = .next s)
      ∧ (∀ (sh k : Nat) (x : Seqn) (p : PList), s.node.seqs.open_ = [(sh, x)] → x.lists = [(k, p)] → s.node.seqs.retired = [] → marks a.toNat b.length p = true →
          ∃ t : State, exec (.listInplaceWrite a b) s = .next t ∧ t.node.seqs.open_ = [(sh, { x with lists := [(k, { p with version := (p.version + 1) % 2 ^ 32 })] })]
            ∧ t.node.fe = s.node.fe ∧ t.node.ter = s.node.ter))
    ∧ ∀ (released : List Nat) (go : Nat → Bool), (∀ r, go r = (decide (r < s.tck.tick) && !readersSince s.node r)) →
      ∃ t : State, exec (.retiredBodyFree released) s = .next t
      ∧ t.node.seqs = { s.node.seqs with retired := s.node.seqs.retired.filter (fun r => !go r.tick)
          ++ (((s.node.seqs.retired.filter fun r => go r.tick).map fun r => { r with pages := r.pages.filter (snapOnly s.node), bodies := [] }).filter fun r => !r.pages.isEmpty) }
      ∧ t.node.ter.freed = s.node.ter.freed.filter (fun r => !go r.1) ∧ t.tck = s.tck

/-- An attention command without an offending field begins; its step is built from one snapshot once its positions are filled, and waits for a
reservation: For every dispatched command in its turn on a sequence open here. ATTEND and PREFILL without an offending field, the bitmap area held and
not revoked: the command is running and nothing else has changed but that its context is cached. ATTEND_BLOCK whose weight set is bound, fits the
sequence and has no defective layer: the window is asked for, the command is running, and one block is due at the launch tick with its first stage
before it. LAUNCH_DESCRIPTOR_BUILD of a running ATTEND or PREFILL from tick T - 1 on, before notch 48 of its deadline tick, with NO_APPEND, no bitmap
and every position below KEND filled: the next state holds exactly one step more for the handle, whose versions and generations are the lists' at that
moment, with a snapshot of the running tick of every entry. HOLD_RESERVATION_RETRY of an unsent step: at notch 48 of the deadline tick the command
completes with ST_DEADLINE, or ST_KEY_RETIRED while the transport key is exhausted; before, outside the saddle, where no node of its order grants the
reservation, it counts one notch of waiting and changes nothing else. ATTEND_BLOCK_STAGE_START at a tick boundary from its due tick on, of a block in
stage one: stage two, its tables released.
Which contexts are cached, which units a chain takes and how long a tick boundary lasts are the model's choice (log entries 54, 58 and 61). -/
def Obligations.AttentionCommandsBeginAndAreBuilt : Prop :=
  ∀ (s : State) (h : Word) (c : Cmd) (x : Seqn),
    (Runs s.node h opAttend c → OnSeq s.node c x → c.f 34 1 < 32 → rsv c 62 63 = [] → attendOffs c x = [] → bmRevoked s.node c (cmdShape c x) = false → bmForeign s.node c (cmdShape c x) = false →
      exec (.attend h) s = .next (s.withNode (setRunning (needCtx s.node c (c.f 24 8)) h.toNat)))
    ∧ (Runs s.node h opPrefill c → OnSeq s.node c x → c.f 34 1 < 32 → attendOffs c x = [] → bmRevoked s.node c (cmdShape c x) = false → bmForeign s.node c (cmdShape c x) = false →
      exec (.prefill h) s = .next (s.withNode (setRunning (needCtx s.node c (c.f 24 8)) h.toNat)))
    ∧ (∀ (w : WSet) (sh : Shape), Runs s.node h opAttendBlock c → OnSeq s.node c x → c.f 34 1 < 16 → c.f 35 1 ≤ 1 → rsv c 52 55 = [] → rsv c 62 63 = [] → setFor s.node c (c.f 48 4) = some w →
      sh = stepShape x (c.f 34 1) (c.f 56 2) (c.f 58 1) (c.f 36 4) 1 (byteAt (layerDesc w.image (c.f 32 2)) 5) →
      blockOffs c x sh = [] → blockFits c x w = true → usable s.node w = true → layerDefective s.node w (c.f 32 2) = false → bmRevoked s.node c sh = false → bmForeign s.node c sh = false →
      ∃ (n : Node) (b : Block), n = setRunning (requestWindow s.node c) h.toNat ∧ exec (.attendBlock h) s = .next (s.withNode { n with att := { n.att with blocks := n.att.blocks ++ [b] } })
        ∧ b.handle = h.toNat ∧ b.wset = c.f 48 4 ∧ b.stage = 0 ∧ b.due = c.launch)
    ∧ (∀ (peer : PeerAns) (grants : List Nat), findCmd s.node h.toNat = some c → c.stage = .running → c.op = opAttend ∨ c.op = opPrefill → mget? s.node.seqs.open_ (c.f 24 8) = some x →
      s.tck.at (c.launch - 1) 0 ≤ s.tck.now → s.tck.now < s.tck.at c.deadline 48 → (∀ p ∈ s.node.att.steps, p.handle ≠ h.toNat) → bitAt (c.f 34 1) mNoAppend = true → bitAt (c.f 34 1) mBitmap = false →
      (cmdShape c x).kend ≤ filledOf x (c.f 32 2) →
      ∃ (t : State) (p : Step), exec (.launchDescriptorBuild h peer grants) s = .next t ∧ t.node.att.steps = s.node.att.steps ++ [p] ∧ p.handle = h.toNat ∧ p.seq = x.id ∧ p.tick = s.tck.tick
        ∧ p.versions = (List.range x.groups).map (fun g => (listOf x (c.f 32 2) g).version) ∧ p.gens = (List.range x.groups).map (fun g => (listOf x (c.f 32 2) g).generation)
        ∧ t.node.seqs = { s.node.seqs with snaps := s.node.seqs.snaps ++ [⟨h.toNat, s.tck.tick, p.fpns, []⟩] } ∧ p.fpns = ((List.range x.groups).map fun g => plFpns s.node (listOf x (c.f 32 2) g)).flatten)
    ∧ (∀ (p : Step) (grants : List Nat), s.node.att.steps.find? (fun y => y.handle == h.toNat && !y.sent) = some p →
      (s.tck.at p.desc.deadline 48 ≤ s.tck.now → findCmd s.node h.toNat = some c →
        exec (.holdReservationRetry h grants) s = .next (s.withNode (complete s.tck (dropStep s.node h.toNat) h.toNat (unsentStatus s.node h.toNat) (attEnd s.node c))))
      ∧ (s.tck.now < s.tck.at p.desc.deadline 48 → s.tck.inSaddle = false → keysOut s.node = false → cflTake s.node p.chain = none →
        (∀ k ∈ conflOrder s.node (compOf p.seq) p.confl, k = nodeId s.node ∨ k ∉ grants) →
        exec (.holdReservationRetry h grants) s = .next (s.withNode (bump s.node Rg.cflResvWaitNotches 1))))
    ∧ ∀ (b : Block) (errs : List (Nat × List Nat)), findCmd s.node h.toNat = some c → s.node.att.blocks.find? (·.handle == h.toNat) = some b → b.due ≤ s.tck.tick → s.tck.atTick = true → b.stage = 1 →
      exec (.attendBlockStageStart h errs) s = .next (s.withNode { s.node with att := { s.node.att with
        blocks := lmodify s.node.att.blocks (·.handle == h.toNat) fun y => { y with stage := 2, due := s.tck.tick, tables := [] }
        bound := b.tables.foldl (fun l k => l.erase k) s.node.att.bound } })

/-- A result message ends its step: the output is written and the command completes; a torn list, the watchdog and a failed page end it without a result:
For every sent step of an ATTEND or PREFILL on this home node that waits for its result. RESULT_MESSAGE_RECEIVE with ST_OK and no list changed since
the snapshot, of a sequence that is not sealed: the output stands in host memory at OUT_ADDR and the completion is ST_OK with KEND, NG, holders and
flags in RESULT. With a list's VERSION changed: ST_TORN_LIST. With a status that is neither ST_OK nor ST_OK_PARTIAL: that status. A result for another
node changes nothing; one without a step that waits for it, as from notch 62 of the deadline tick under a watchdog, is discarded and counted.
HOME_WATCHDOG_EXPIRY at notch 62 of the deadline tick of a step whose chain lies on another node: ST_STATE_LOST, counted. CUT at or after notch 48 of
the deadline tick of a request whose chain and share are not here and whose command has sent nothing: the command completes with the status of an
unsent step. -/
def Obligations.StepsEndOnceWithTheirResult : Prop :=
  ∀ (s : State),
    (∀ (m : ResultMsg) (st : Step) (c : Cmd), m.home = nodeId s.node →
      s.node.att.steps.find? (awaits s.tck s.node m.handle) = some st → findCmd s.node m.handle = some c → c.op ≠ opAttendBlock →
      (m.status = stOk → torn s.node st = false → (∀ x : Seqn, mget? s.node.seqs.open_ st.seq = some x → x.sealed = false) →
        exec (.resultMessageReceive m) s = .next (s.withNode (complete s.tck (hostWrite (dropStep (modCmd s.node m.handle fun d => { d with late := d.late || m.late }) m.handle) c.mem st.outAddr m.output)
          m.handle stOk (leBytes 4 st.desc.kend ++ leBytes 4 st.desc.ng ++ leBytes 1 (min (st.descs.filter fun d => !d.items.isEmpty).length 255)
            ++ leBytes 1 (b2n m.bank + 2 * b2n (st.desc.twoPass && m.ran))))))
      ∧ (m.status = stOk ∨ m.status = stOkPartial → torn s.node st = true →
        exec (.resultMessageReceive m) s = .next (s.withNode (complete s.tck (dropStep (modCmd s.node m.handle fun d => { d with late := d.late || m.late }) m.handle) m.handle stTornList
          (attResult st m.bank m.ran))))
      ∧ (m.status ≠ stOk → m.status ≠ stOkPartial →
        exec (.resultMessageReceive m) s = .next (s.withNode (complete s.tck (dropStep (modCmd s.node m.handle fun d => { d with late := d.late || m.late }) m.handle) m.handle m.status
          (if m.status = stMemUncorr ∨ m.status = stOwnerLost ∨ m.status = stNotOwner then leBytes 8 (m.fpn % 2 ^ 45) ++ [0, 0x80] else attResult st m.bank m.ran)))))
    ∧ (∀ m : ResultMsg, m.home ≠ nodeId s.node → exec (.resultMessageReceive m) s = .next s)
    ∧ (∀ m : ResultMsg, m.home = nodeId s.node → (∀ p ∈ s.node.att.steps, p.handle = m.handle → p.sent = true → p.watchdog = true ∧ s.tck.at p.desc.deadline 62 ≤ s.tck.now) →
        exec (.resultMessageReceive m) s = .next (s.withNode (bump s.node Rg.cflDiscardLate 1)))
    ∧ (∀ (h : Word) (st : Step), s.node.att.steps.find? (fun p => p.handle == h.toNat && p.watchdog) = some st → s.tck.at st.desc.deadline 62 ≤ s.tck.now →
        exec (.homeWatchdogExpiry h) s = .next (s.withNode (complete s.tck (dropStep (bump s.node Rg.cflOutcomeStateLost 1) h.toNat) h.toNat stStateLost (attResult st st.bankSide st.ran))))
    ∧ ∀ (home : BitVec 13) (h : Word) (c : Cmd), home.toNat = nodeId s.node → findCmd s.node h.toNat = some c → attends c.op = true → c.stage = .running → s.tck.at c.deadline 48 ≤ s.tck.now →
        (∀ p ∈ s.node.att.steps, p.handle = h.toNat → p.sent = false) → (∀ x ∈ s.node.cfl.chains, x.isOf home.toNat h.toNat = false) → (∀ x ∈ s.node.att.shares, x.desc.handle ≠ h.toNat) →
        exec (.cut home h) s = .next (s.withNode (complete s.tck (allocOver (dropStep s.node h.toNat) h.toNat) h.toNat (unsentStatus s.node h.toNat) (attEnd s.node c)))

/-- A holder takes a descriptor once, launches it at its tick or late, serves its items in order and ends each with its partials or its fault: For every
state. A chain for which the confluence buffer has room is posted and answered yes, without room answered no; a chain already posted is left alone; a
descriptor for this holder that is not here yet becomes a share, with an item for each of its own. Pages of a split granule go to the items of the
request that name them and do not run, a later copy for an earlier. LAUNCH of a share not launched, in its launch tick or later, before notch 48 of
its deadline tick, outside the saddle, with time running, the epoch, the rows and the parity here, marks it launched in the tick of the first notch
boundary from now outside the saddle, late when that is past notch 0 of its launch tick. SLICE_START of a planned item at the boundary of its tick
enters it; SLICE_OVERRUN at notch 62 counts a running item of a cluster once, gives a bank-side one a slice in the next tick, and counts a mover or
expander at work. ITEM_TAKE: an idle cluster takes the oldest item it may from its die's queue, or, with none, from the first other queue deeper than
STEAL_MIN, and each queue's priority advances by one. GRANULE_ITEM_END of a running item with no fault in it reports its partials and takes it out;
with a fault it reports the fault. A promoted item starts; one not started by notch 0 counts a stall once a tick; an item read in place waits for its
data and then starts.
The units a chain takes, when owed pages go, that a command is one cycle of the rotating priority, how long a boundary lasts and on which unit movers'
overruns and stalls count are the model's choice (log entries 58, 59, 60, 61 and 75). -/
def Obligations.HoldersTakeLaunchAndEndTheirItems : Prop :=
  ∀ (s : State) (home : BitVec 13) (h : Word) (g i : Nat),
    (∀ (p : ChainPost) (plan : List ItemPlan),
      ((∀ x ∈ s.node.cfl.chains, x.post.home = p.home → x.post.handle ≠ p.handle) →
        (∀ n1 : Node, cflTake s.node p = some n1 → exec (.launchDescriptorReceive (.chain p) plan) s = .next (s.withNode (emit n1 (.reserveReply p.home p.handle true))))
        ∧ (cflTake s.node p = none → exec (.launchDescriptorReceive (.chain p) plan) s = .next (s.withNode (emit s.node (.reserveReply p.home p.handle false)))))
      ∧ ((∃ x ∈ s.node.cfl.chains, x.post.home = p.home ∧ x.post.handle = p.handle) → exec (.launchDescriptorReceive (.chain p) plan) s = .next s))
    ∧ (∀ (d : Desc) (plan : List ItemPlan), d.holder = nodeId s.node → findShare s.node d.home d.handle = none → d.foreign = [] →
      ∃ t : State, exec (.launchDescriptorReceive (.desc d) plan) s = .next t ∧ t.tck = s.tck ∧ t.node.att.shares = s.node.att.shares ++ [⟨d, s.tck.tick, none, false, false, []⟩]
        ∧ (∀ x ∈ d.items, ∃ y ∈ t.node.att.items, y.home = d.home ∧ y.handle = d.handle ∧ y.group = x.group ∧ y.granule = x.granule)
        ∧ ∀ y ∈ s.node.att.items, y.home ≠ d.home ∨ y.handle ≠ d.handle → y ∈ t.node.att.items)
    ∧ (∀ pages : List SplitPage, exec (.splitGranulePagesReceive home h pages) s = .next (s.withNode { s.node with att := { s.node.att with items := s.node.att.items.map fun x =>
          if x.home = home.toNat ∧ x.handle = h.toNat ∧ x.st ≠ .running then
            { x with copies := x.copies.filter (fun c => !(pages.filter fun p => x.pages.any fun y => y.2 == p.fpn).any (·.fpn == c.fpn))
                ++ pages.filter fun p => x.pages.any fun y => y.2 == p.fpn }
          else x } }))
    ∧ (∀ x : Share, s.tck.inSaddle = false → timeRuns s.tck.state = true → stopped s.node = false → fencedNode s.node = false → findShare s.node home.toNat h.toNat = some x →
      x.launched = none → s.tck.at x.desc.launch 0 ≤ s.tck.now → s.tck.now < s.tck.at x.desc.deadline 48 → x.desc.epoch ≤ epochOf s.node → rowsHere s.node x.desc = true →
      acksLeft s.node home.toNat h.toNat = false → (∃ y ∈ s.node.att.items, y.home = home.toNat ∧ y.handle = h.toNat) →
      ∃ (t : State) (y : Share), exec (.launch home h) s = .next t ∧ t.tck = s.tck ∧ findShare t.node home.toNat h.toNat = some y ∧ y.launched = some (dueNotch s.tck / 64)
        ∧ y.late = decide (x.desc.launch * 64 < dueNotch s.tck) ∧ ∃ z ∈ t.node.att.items, z.home = home.toNat ∧ z.handle = h.toNat)
    ∧ (∀ (x : Share) (it : Item), findShare s.node home.toNat h.toNat = some x → findItem s.node home.toNat h.toNat g i = some it →
      (stopped s.node = false → x.launched.isSome = true → it.st = .planned → s.tck.at it.slice 0 ≤ s.tck.now → s.tck.inSaddle = false → it.blocked = true ∨ s.tck.atTick = true →
        s.tck.now < s.tck.at x.desc.deadline 48 → exec (.sliceStart home h g i) s = .next (s.withNode (enterItem s.tck s.node x.desc it)))
      ∧ (it.st = .waitT1 ∨ (x.desc.sealed = true ∧ it.st = .waitData) → s.tck.tick ∉ it.stalled → (s.tck.notch ≠ 0 ∨ itemReady s.node x.desc it = false) →
        exec (.terraceStall home h g i) s = .next (s.withNode (pmc (bump (modItem s.node it fun y => { y with stalled := y.stalled ++ [s.tck.tick] }) Rg.terStallCount 1) 63 7 1)))
      ∧ (∀ (errs : List (Nat × List Nat)) (n1 : Node), it.direct = true → it.loaded = false → itemReady s.node x.desc { it with loaded := true } = true →
        n1 = modItem (((livePages x.desc it).filterMap fun p => (pageAt s.node (fpnIdx p.2)).filter fun e => fpnNode p.2 == nodeId s.node && e.terrace != 1).foldl
          (fun m e => touchSectors (cacheReads s.tck m e.addr e.foot errs) e.addr e.foot) s.node) it (fun y => { y with loaded := true }) →
        exec (.readInPlaceDone home h g i errs) s = .next (s.withNode (if it.st = .waitData then queueItem n1 { it with loaded := true } (dueNotch s.tck) else n1)))
      ∧ (∀ (errs : List (Nat × List Nat)) (page : Nat) (n : Node), it.st = .running → it.due ≤ s.tck.notches → bankDone s.node it = true →
        n = ((livePages x.desc it).filter fun p => fpnNode p.2 == nodeId s.node).foldl (fun m p => readHeat s.tck m (fpnIdx p.2)) (freeBsu (ctrlReads s.tck s.node errs) it) →
        (pageFault n x.desc it = none → ∀ r : Tck × Node,
          r = endItem it s.tck (leafDone (countItem n x.desc it (itemLeaf n x.desc it).2.1 (itemLeaf n x.desc it).2.2) x g i (itemLeaf n x.desc it).1) →
          exec (.granuleItemEnd home h g i errs [] page) s = .next { s with tck := r.1, node := r.2 })
        ∧ ∀ (st fpn : Nat) (r : Tck × Node), pageFault n x.desc it = some (st, fpn) → r = endItem it s.tck (reportFault (countFault n it st) x it st fpn) →
          exec (.granuleItemEnd home h g i errs [] page) s = .next { s with tck := r.1, node := r.2 }))
    ∧ (∀ (n : Node) (x : Share) (it : Item), n = endShare (settleForeign s.tck s.node home.toNat h.toNat) home.toNat h.toNat → findShare n home.toNat h.toNat = some x →
      findItem n home.toNat h.toNat g i = some it → it.st = .waitT1 → itemReady n x.desc it = true →
      exec (.demandPromotionDone home h g i) s = .next (s.withNode (queueItem n it (dueNotch s.tck))))
    ∧ (∀ it : Item, findItem s.node home.toNat h.toNat g i = some it → it.st = .running → it.overrun = false → s.tck.at it.slice 62 ≤ s.tck.now →
      (∀ k : Nat, it.bsu = none → it.cluster = some k →
        exec (.sliceOverrun (.item home h g i)) s = .next (s.withNode (modItem (pmc s.node k 4 1) it fun y => { y with overrun := true })))
      ∧ ∀ (b : Nat) (r : Tck × Node), it.bsu = some b →
        r = endSlice it.slice s.tck (planSlice (modItem (pmc s.node (32 + b / 128) 4 1) it fun y => { y with slice := s.tck.tick + 1 }) (s.tck.tick + 1)) →
        exec (.sliceOverrun (.item home h g i)) s = .next { s with tck := r.1, node := r.2 })
    ∧ (∀ m : Fin 8, m.val < s.node.ter.busy.length → s.tck.at s.tck.tick 62 ≤ s.tck.now → mgetD s.node.ter.overAt m.val 0 ≤ s.tck.tick →
      exec (.sliceOverrun (.mover m)) s = .next (s.withNode (pmc { s.node with ter := { s.node.ter with overAt := mset s.node.ter.overAt m.val (s.tck.tick + 1) } } 63 4 1)))
    ∧ ∀ (k : Fin 32) (it : Item), clusterIdle s.node k.val = true →
      ((dieQueue s.node (k.val / 8)).find? (mayTake s.tck s.node k.val) = some it →
        exec (.itemTake [k]) s = .next (s.withNode (turnRotors (takeItem s.tck k.val s.node it))))
      ∧ ∀ d : Nat, stealFrom s.tck s.node k.val = some d → (dieQueue s.node d).find? (mayTake s.tck s.node k.val) = some it →
        exec (.itemTake [k]) s = .next (s.withNode (turnRotors
          (pmc (bump (bump (takeItem s.tck k.val s.node it) (Rg.attStealsCount k.val) 1) (Rg.attDqStolenCount d) 1) k.val 0x1002 1)))

/-- A partial message for no posted request counts in CFL_DISCARD.UNKNOWN, one for a finalised request in CFL_DISCARD.LATE, and nothing else changes: For
every state and message, met by no fault of an array, whose REQ_TAG names no request with a posted chain here: the next state is the same but for one
counter, which has gone up by one unless it stood at its greatest value. The counter is CFL_DISCARD.LATE when the request has already finalised here,
else CFL_DISCARD.UNKNOWN. -/
def Obligations.DiscardedPartialMessagesAreCounted : Prop :=
  ∀ (s : State) (b : Bytes) (late bank : Bool), (∀ x ∈ s.node.cfl.chains, field b 8 8 ≠ x.post.handle + x.post.home * 2 ^ 32) →
    ((∃ x ∈ s.node.cfl.done, x.2 < 2 ^ 32 ∧ x.1 < 2 ^ 13 ∧ field b 8 8 = x.2 + x.1 * 2 ^ 32) →
      exec (.partialMessageReceive b late bank []) s = .next (s.withNode (wr s.node Rg.cflDiscardLate (satTo Rg.cflDiscardLate.w (rd s.node Rg.cflDiscardLate + 1)))))
    ∧ ((∀ x ∈ s.node.cfl.done, field b 8 8 ≠ x.2 + x.1 * 2 ^ 32) →
      exec (.partialMessageReceive b late bank []) s = .next (s.withNode (wr s.node Rg.cflDiscardUnknown (satTo Rg.cflDiscardUnknown.w (rd s.node Rg.cflDiscardUnknown + 1)))))

/-- Partial messages are counted and merged into their chain; a chain fires when complete, is cut at notch 48, and MERGE writes the roots of its pairs:
For every state. A KIND 0x10 message of a posted request before notch 48 of its deadline tick, whose header is in order and whose records each pass
the checks of R139: the chain's count is one more, its records held are what its lanes leave, and the chain is otherwise as posted. A KIND 0x11
message ends the request with its status and page. CONFLUENCE_CHAIN_FIRE before notch 48, the count at the threshold and every pair with a root: the
request finalises without a missing item. CUT at notch 48 on a confluence node that is neither home nor holder: a request with an outstanding unit
finalises with its missing items when relaxed, and with ST_DEADLINE, or ST_PEER_LOST for a lost holder, when sealed. MERGE without an offending field,
whose records are none of them malformed: the roots stand at OUT in the form named, and the completion is ST_OK with the number of pairs and of NaN
roots. -/
def Obligations.ConfluenceMergesAndFinalises : Prop :=
  ∀ (s : State),
    (∀ (b : Bytes) (late bank : Bool) (x : Chain), s.node.cfl.chains.find? (fun c => c.isOf (field b 12 4 % 2 ^ 13) (field b 8 4) && field b 8 8 == field b 8 4 + field b 12 4 % 2 ^ 13 * 2 ^ 32) = some x →
      s.tck.now < s.tck.at x.post.deadline 48 →
      (byteAt b 0 = 0x10 → (pHead x.post.dim b).ok = true →
        ∀ a : Arrive, a = (chunksOf (recStride x.post.dim) (field b 18 2) (b.drop 32)).foldl (arriveRecord s.tck (pHead x.post.dim b))
            ⟨{ x with count := x.count + 1, late := x.late || late, bank := x.bank || bank, got := x.got ++ [(field b 2 2, field b 4 4 / 2 ^ 27, field b 4 4 % 2 ^ 27, field b 16 2)] }, s.node, false⟩ → a.bad = false →
        ∃ (t : State) (y : Chain), exec (.partialMessageReceive b late bank []) s = .next t ∧ t.tck = s.tck ∧ t.node.cfl = { s.node.cfl with chains := lmodify s.node.cfl.chains (·.isOf y.post.home y.post.handle) fun _ => y }
          ∧ y = { x with count := x.count + 1, late := x.late || late, bank := x.bank || bank, got := y.got, held := y.held, seen := y.seen, roots := y.roots })
      ∧ (byteAt b 0 = 0x11 →
        exec (.partialMessageReceive b late bank []) s = .next (s.withNode (finalBad s.tck s.node { x with late := x.late || late, bank := x.bank || bank } (field b 20 2) (field b 24 8 % 2 ^ 45)))))
    ∧ (∀ (home : BitVec 13) (h : Word) (x : Chain), s.node.cfl.chains.find? (·.isOf home.toNat h.toNat) = some x →
      (s.tck.now < s.tck.at x.post.deadline 48 → threshold x ≤ x.count → allRoots x = true → exec (.confluenceChainFire home h) s = .next (s.withNode (finalGood s.tck s.node x [])))
      ∧ (s.tck.at x.post.deadline 48 ≤ s.tck.now → home.toNat ≠ nodeId s.node → (∀ y ∈ s.node.att.shares, y.desc.home = home.toNat → y.desc.handle ≠ h.toNat) → (∃ u ∈ x.post.units, outstanding x u = true) →
        (x.post.sealed = false → exec (.cut home h) s = .next (s.withNode (finalGood s.tck s.node x (missingItems x))))
        ∧ (x.post.sealed = true → (∀ u ∈ x.post.units, outstanding x u = true → u.2.2.2.1 ∉ x.lost) → exec (.cut home h) s = .next (s.withNode (finalBad s.tck s.node x stDeadline 0)))
        ∧ (x.post.sealed = true → (∃ u ∈ x.post.units, outstanding x u = true ∧ u.2.2.2.1 ∈ x.lost) → exec (.cut home h) s = .next (s.withNode (finalBad s.tck s.node x stPeerLost 0)))))
    ∧ ∀ (h : Word) (c : Cmd) (pairs : List (List Bytes)), Runs s.node h opMerge c → mergeOffs c = [] →
      pairs = ((List.range (c.f 40 4)).map fun p => (List.range (mergeLeaves c)).map fun j => hostRead s.node c.mem (c.f 24 8 + (p * mergeLeaves c + j) * recStride (c.f 46 2)) (recStride (c.f 46 2))) →
      (∀ l ∈ pairs, ∀ r ∈ l, recordBad (c.f 46 2) r = false) →
      ∃ n : Node, n.hmem = s.node.hmem ∧ n.fe = s.node.fe ∧ exec (.merge h) s = .next (s.withNode (complete s.tck (hostWrite n c.mem (c.f 32 8) (pairs.flatMap fun l =>
          (outBytes (c.f 48 1) (treeK (mergeLeaves c)) (field (l.headD []) 12 2) (byteAt (l.headD []) 14) (treeRoot (c.f 46 2) (treeK (mergeLeaves c)) (l.map (recordPart (c.f 46 2)))).1).1)) h.toNat stOk
        (leBytes 4 (c.f 40 4) ++ leBytes 4 (pairs.filter fun l => (treeRoot (c.f 46 2) (treeK (mergeLeaves c)) (l.map (recordPart (c.f 46 2)))).1.isNan).length)))

/-- BSU_RUN queues one entry per BSU, runs start, pause, resume and halt, a failed or late command ends, programs load, and frames change hands: For every
dispatched command without an offending field and every BSU. BSU_RUN on time, with the program loaded and a credit on every BSU named, all in service and
in the tenant's slices: the command is running, each BSU named has one entry more, due at the launch tick, and the job holds the input block as read.
BSU_RUN_START with no run in progress: the oldest entry whose notch has come becomes the run, while no other run of its command has failed and its
deadline tick has not ended, at instruction 0, with its BSU's number in L3 and the input block at run-area byte 0. BSU_PAUSE of a BSU_RUN that can end no microstep before notch 62 pauses it, BSU_RESUME with compute not suspended ends
the pause. BSU_HALT at HALT ends the run; with others outstanding the output is kept, and with none the outputs are written in order and the command
completes with ST_OK. BSU_RUN_FAIL completes with the first failure, BSU_RUN_DEADLINE after the deadline tick with ST_DEADLINE. BSU_LOAD of a valid
image stores it on every BSU named and returns the first 16 digest bytes. BSU_OWN with no copy out puts its frames in the BSU state, BSU_RELEASE with
no earlier run returns them. -/
def Obligations.BankSideRunsAreQueuedPausedAndEnded : Prop :=
  ∀ (s : State) (h : Word) (c : Cmd) (b : Fin 1024) (u : Bsu), unitOf s.node b.val = u →
    (Runs s.node h opBsuRun c → rsv c 29 29 = [] → rsv c 52 63 = [] → bsuSpanBad c = false → 8 ≤ c.f 28 1 → c.f 28 1 ≤ 15 → c.f 30 2 ≤ 1024 → mult (c.f 32 8) 64 = true → mult (c.f 40 8) 64 = true →
      c.f 48 2 ≤ 1024 → c.f 50 2 + c.f 48 2 ≤ 3072 → s.tck.now ≤ s.tck.at c.launch 0 → s.tck.tick ≤ c.deadline →
      (∀ k ∈ bsuSpan c, mhas (unitOf s.node k).progs (c.f 28 1) = true ∧ bsuInService s.node k = true ∧ bsuOurs s.node k = true ∧ areaUsed (unitOf s.node k) < 64) →
      ∃ t, exec (.bsuRun h) s = .next t ∧ findCmd t.node h.toNat = some { c with stage := .running }
        ∧ (∀ k ∈ bsuSpan c, unitOf t.node k = { unitOf s.node k with area := (unitOf s.node k).area ++ [⟨0, nodeId s.node, h.toNat, 0, 0, c.f 28 1, c.launch * 64⟩] })
        ∧ t.node.bsu.jobs = s.node.bsu.jobs ++ [⟨h.toNat, c.f 24 2, c.f 26 2, hostRead s.node c.mem (c.f 32 8) (64 * c.f 30 2), [], none, 0⟩])
    ∧ (∀ (e : BsuEntry) (j : BsuJob), u.run = none → bsuShed s.node b.val = false → stopped s.node = false → bsuInService s.node b.val = true → s.tck.inSaddle = false →
      u.area.find? (fun x => x.launch ≤ s.tck.notches) = some e → s.node.bsu.jobs.find? (fun x => x.handle == e.handle) = some j → e.src = 0 → jobGoes s.tck s.node e = true →
      ∃ t r, exec (.bsuRunStart b) s = .next t ∧ (unitOf t.node b.val).run = some r ∧ r.ent = e ∧ r.ip = 0 ∧ r.areg.length = 8 ∧ r.lreg.getD 3 0 = b.val ∧ r.msteps = 0
        ∧ (unitOf t.node b.val).area = u.area.erase e ∧ (unitOf t.node b.val).sram = Mem.write 0 u.sram 0 j.input)
    ∧ (∀ r : BsuRunSt, u.run = some r → r.ent.src = 0 →
      (r.paused = false → r.halted = false → s.tck.at s.tck.tick 62 < s.tck.now + 115 → exec (.bsuPause b) s = .next (s.withNode (modUnit s.node b.val fun x => { x with run := some { r with paused := true } })))
      ∧ (r.paused = true → bsuShed s.node b.val = false → s.tck.now + 115 ≤ s.tck.at s.tck.tick 62 →
        exec (.bsuResume b) s = .next (s.withNode (modUnit s.node b.val fun x => { x with run := some { r with paused := false } })))
      ∧ (∀ j : BsuJob, r.paused = false → r.deferred = none → bsuShed s.node b.val = false → jobGoes s.tck s.node r.ent = true → (instrAt u r).op = bHalt → findCmd s.node r.ent.handle = some c →
        s.node.bsu.jobs.find? (fun x => x.handle == r.ent.handle) = some j → j.fail = none → j.handle = r.ent.handle →
        ∃ t, exec (.bsuHalt b) s = .next t ∧ (unitOf t.node b.val).run = none
          ∧ (j.count ≠ (mset j.outs b.val (Mem.read 0 u.sram (64 * c.f 50 2) (64 * c.f 48 2))).length →
            t.node.bsu.jobs.find? (fun x => x.handle == r.ent.handle) = some { j with outs := mset j.outs b.val (Mem.read 0 u.sram (64 * c.f 50 2) (64 * c.f 48 2)) })
          ∧ (j.count = (mset j.outs b.val (Mem.read 0 u.sram (64 * c.f 50 2) (64 * c.f 48 2))).length → ∃ m : Node, findCmd m r.ent.handle = some c
            ∧ m.hmem = ((mset j.outs b.val (Mem.read 0 u.sram (64 * c.f 50 2) (64 * c.f 48 2))).foldl
                (fun k o => Mem.write 0 k (hostKey c.mem (c.f 40 8 + 64 * c.f 48 2 * (o.1 - j.first))) o.2) s.node.hmem)
            ∧ t = s.withNode (complete s.tck m r.ent.handle stOk (leBytes 4 (satTo 32 j.msteps) ++ leBytes 2 0xFFFF ++ leBytes 2 0 ++ leBytes 8 0)))))
    ∧ (∀ j : BsuJob, s.node.bsu.jobs.find? (fun x => x.handle == h.toNat) = some j →
      (∀ f : BsuFail, j.fail = some f → exec (.bsuRunFail h) s = .next (s.withNode (complete s.tck (dropJob s.node h.toNat) h.toNat f.status (bsuResult j.msteps f.bsu f.ip f.addr))))
      ∧ (findCmd s.node h.toNat = some c → j.fail = none → c.deadline < s.tck.tick →
        ∃ k ip, exec (.bsuRunDeadline h) s = .next (s.withNode (complete s.tck (dropJob s.node h.toNat) h.toNat stDeadline (bsuResult j.msteps k ip 0)))))
    ∧ (Runs s.node h opBsuLoad c → rsv c 30 31 = [] → rsv c 44 63 = [] → bsuSpanBad c = false → 8 ≤ c.f 28 1 → c.f 29 1 ≠ 0 → c.f 28 1 + c.f 29 1 ≤ 16 → mult (c.f 32 8) 16 = true → 16 ≤ c.f 40 4 →
      c.f 40 4 ≤ 1024 * c.f 29 1 → mult (c.f 40 4) 16 = true → (∀ k ∈ bsuSpan c, bsuOurs s.node k = true ∧ ∀ x ∈ boundSlots (unitOf s.node k), x < c.f 28 1 ∨ c.f 28 1 + c.f 29 1 ≤ x) →
      imageFault (hostRead s.node c.mem (c.f 32 8) (c.f 40 4)) = none →
      ∃ m : Node, exec (.bsuLoad h) s = .next (s.withNode (complete s.tck m h.toNat stOk ((sha384 (hostRead s.node c.mem (c.f 32 8) (c.f 40 4))).take 16)))
        ∧ (∀ k ∈ bsuSpan c, unitOf m k = storeProg (c.f 28 1) (c.f 29 1) (hostRead s.node c.mem (c.f 32 8) (c.f 40 4)) (sha384 (hostRead s.node c.mem (c.f 32 8) (c.f 40 4))) (unitOf s.node k))
        ∧ ∀ k, k ∉ bsuSpan c → unitOf m k = unitOf s.node k)
    ∧ (Runs s.node h opBsuOwn c → (∀ j ∈ s.node.bsu.owns, j.handle ≠ h.toNat) → ownOffs c = [] → (∀ f ∈ nameFrames s.node (c.f 24 8) (c.f 32 8), frameOurs s.node f = true ∧ isScratch s.node f = false) →
      s.node.cxd.dir = [] → ∃ m : Node, exec (.bsuOwn h) s = .next (s.withNode (complete s.tck m h.toNat stOk
        (leBytes 4 (dedupNat ((nameFrames s.node (c.f 24 8) (c.f 32 8)).filter fun f => frameSt s.node f < 2)).length ++ leBytes 4 0 ++ leBytes 4 0)))
        ∧ ∀ f ∈ nameFrames s.node (c.f 24 8) (c.f 32 8), frameSt s.node f ≤ 3 → frameKind m f = 2)
    ∧ (Runs s.node h opBsuRelease c → ownOffs c = [] → (∀ f ∈ dedupNat (nameFrames s.node (c.f 24 8) (c.f 32 8)), frameKind s.node f = 2 ∧ isScratch s.node f = false) → busyBelow s.node c (dedupNat ((dedupNat (nameFrames s.node (c.f 24 8) (c.f 32 8))).map pchOf)) = false →
      s.node.bsu.held = [] → ∃ m : Node, exec (.bsuRelease h) s = .next (s.withNode (complete s.tck m h.toNat stOk (leBytes 4 (dedupNat (nameFrames s.node (c.f 24 8) (c.f 32 8))).length)))
        ∧ (∀ f ∈ dedupNat (nameFrames s.node (c.f 24 8) (c.f 32 8)), mget? m.bsu.frames f = none))

/-- A microstep commits its instruction's whole effect on SRAM, banks, registers and checkpoint, or, refused or deferred, none of it: For every BSU whose
run of a BSU_RUN may start a microstep, no SRAM word failing, and its next instruction. SETA, ADDA, SETL and LOOP set their register and the
instruction index; the vector operations, RSACC, WIDEN and QUANT write their row to the SRAM destination, a row of
free values for a modifier that R176 gives no result for (the model's choice, log entry 66); MATVEC writes its channels, from SRAM or
from a bank operand of at most 224 lines; LOAD of at most 224 readable lines without error copies the operand's bytes to SRAM; STORE of at most 64
whole lines in BSU-state frames writes SRAM's bytes to the banks, and every other byte of the banks reads as before. Each counts one microstep
committed, advances the checkpoint to the next instruction and A by the operand's bytes rounded up to 64 where INC is set, and leaves the banks as
they are except for STORE. A LOAD whose first line the frame's state refuses ends the run with ST_NOT_OWNER and that address. A LOAD whose first line
the light decoder detects and cannot correct commits nothing and waits, deferred; DEFERRED_LINE_DONE of a line that the full decoder finds clean lets
it be replayed. -/
def Obligations.MicrostepsCommitWholeOrNotAtAll : Prop :=
  ∀ (s : State) (b : Fin 1024) (u : Bsu) (r : BsuRunSt) (i : BInstr) (a : Nat), unitOf s.node b.val = u → u.run = some r → r.ent.src = 0 →
    (mayStep s.tck s.node b.val r = true → instrAt u r = i → a = r.areg.getD i.areg 0 →
      (i.op ≤ bLoop → i.op ≠ bHalt → ∃ t, exec (.microstep b [] []) s = .next t ∧ t.node.t1 = s.node.t1
        ∧ (i.op = bSeta → unitOf t.node b.val = { u with run := some { r.stepped with areg := r.areg.set i.areg (field (sramRead u i.sa 8) 0 8 % 2 ^ 30) } })
        ∧ (i.op = bAdda → unitOf t.node b.val = { u with run := some { r.stepped with areg := r.areg.set i.areg (wrapInt 30 ((a : Int) + 64 * signed 16 i.aux) % 2 ^ 30) } })
        ∧ (i.op = bSetl → unitOf t.node b.val = { u with run := some { r.stepped with lreg := r.lreg.set i.lreg i.n } })
        ∧ (i.op = bLoop → unitOf t.node b.val = { u with run := some { r.stepped with
            lreg := r.lreg.set i.lreg ((r.lreg.getD i.lreg 0 + 65535) % 65536), ip := if (r.lreg.getD i.lreg 0 + 65535) % 65536 = 0 then r.ip + 1 else i.aux } }))
      ∧ (i.op ∈ [bVadd, bVmul, bVact, bWiden, bNorm, bRsacc, bQuant] → ∃ t, exec (.microstep b [] []) s = .next t ∧ t.node.t1 = s.node.t1
        ∧ unitOf t.node b.val = { putResult u i (narrowRow i.fd (if modOpen i then (takeFrees i.all s.node).1.map (· % 2 ^ 32) else (vecResult u i).1)) with run := some r.stepped })
      ∧ (i.op = bMatvec → isBank i.sb = false → ∃ t, exec (.microstep b [] []) s = .next t ∧ t.node.t1 = s.node.t1
        ∧ unitOf t.node b.val = { putResult u i ⟨matvec [] u i, [], 0, 0, 0⟩ with run := some r.stepped })
      ∧ (r.prog = 0 → r.got = [] → 0 < i.bankBytes → (bankLines a i.bankBytes).length ≤ 224 → (∀ l ∈ bankLines a i.bankBytes, lineAllowed s.node b.val l false = true ∧ mget? s.node.mic.poison (b.val * pchBytes + l) = none) →
        (i.op = bMatvec → isBank i.sb = true → ∃ t, exec (.microstep b [] []) s = .next t ∧ t.node.t1 = s.node.t1
          ∧ unitOf t.node b.val = { putResult u i ⟨matvec (bankRead s.node b.val a i.bankBytes) u i, [], 0, 0, 0⟩ with run := some (incAreg i r).stepped })
        ∧ (i.op = bLoad → isBank i.sa = true → ∃ t, exec (.microstep b [] []) s = .next t ∧ t.node.t1 = s.node.t1
          ∧ unitOf t.node b.val = { u with sram := Mem.write 0 u.sram (8 * i.sd) (bankRead s.node b.val a i.bankBytes), run := some (incAreg i r).stepped }))
      ∧ (r.prog = 0 → 0 < i.bankBytes → mult a 64 = true → mult i.bankBytes 64 = true → (bankLines a i.bankBytes).length ≤ 64 → (∀ l ∈ bankLines a i.bankBytes, lineAllowed s.node b.val l true = true) →
        i.op = bStore → isBank i.sd = true → Memory.wf 0 s.node.t1 = true → ∃ t, exec (.microstep b [] []) s = .next t
          ∧ unitOf t.node b.val = { u with run := some (incAreg i r).stepped } ∧ bankRead t.node b.val a i.bankBytes = Mem.read 0 u.sram (8 * i.sa) i.bankBytes
          ∧ ∀ k, k < b.val * pchBytes + a ∨ b.val * pchBytes + a + i.bankBytes ≤ k → Mem.get 0 t.node.t1 k = Mem.get 0 s.node.t1 k)
      ∧ (i.op = bLoad → isBank i.sa = true → r.prog = 0 → 0 < i.bankBytes →
        (lineAllowed s.node b.val (a / 64 * 64) false = false → ∃ t, exec (.microstep b [] []) s = .next t ∧ t.node.t1 = s.node.t1 ∧ unitOf t.node b.val = { u with run := none }
          ∧ ∀ j : BsuJob, s.node.bsu.jobs.find? (fun x => x.handle == r.ent.handle) = some j → j.fail = none →
            t.node.bsu.jobs.find? (fun x => x.handle == r.ent.handle) = some { j with fail := some ⟨stNotOwner, b.val, r.ip, a / 64 * 64, s.tck.notches⟩ })
        ∧ (∀ lanes : List Nat, lineAllowed s.node b.val (a / 64 * 64) false = true → mget? s.node.mic.poison (b.val * pchBytes + a / 64 * 64) = none → lightDecode lanes = .uncorr →
          ∃ t, exec (.microstep b [(a / 64 * 64, lanes)] []) s = .next t ∧ t.node.t1 = s.node.t1 ∧ unitOf t.node b.val = { u with run := some { r with deferred := some (a / 64 * 64) } })))
    ∧ (∀ off : Nat, r.deferred = some off → erasureLane s.node (pchOf (b.val * pchBytes + off)) = none →
      exec (.deferredLineDone b []) s = .next (s.withNode (modUnit s.node b.val fun x => { x with run := some { r with deferred := none } })))

/-- MIGRATE, PIN, UNPIN and PLACE_HINT move, pin, unpin and hint exactly the pages selected, and count them; MIGRATE_TIMEOUT ends a late one: For every
dispatched placement command that no earlier command on its sequence holds back, without an offending field, whose selection is the tenant's, while every
placement command in progress has pages or layers to wait for. MIGRATE of pages: with pages to move, each is queued in class 2 for the destination and
pseudo-channel, and the command runs; with none, it completes with ST_OK, counting those already there and those that R202 or R207 protects; a page in
motion counts as one to move. PIN of pages under the caps, none in motion and all at or above LEVEL: each page's pin becomes the shallower of its pin and
LEVEL, and the command completes with ST_OK and its counts. UNPIN of pages: every page selected has pin 0, and the counts are of those that were pinned
and those that were not. PLACE_HINT of named pages: every page selected has the hint, and nothing moves. MIGRATE_TIMEOUT more than 1,024 ticks after
acceptance: no request bears the command's handle any longer and it completes with ST_DEADLINE and its counts; a PIN of layers that waits for room in
terrace 1 completes with ST_DEADLINE and counts of 0. -/
def Obligations.PlacementCommandsActOnTheirSelection : Prop :=
  ∀ (s : State) (h : Word) (c : Cmd) (named : List Nat), findCmd s.node h.toNat = some c → (∀ j ∈ s.node.ter.jobs, j.pages ≠ [] ∨ j.layers ≠ []) → seqHeld s.node c = false →
    (∀ (pch : Option Nat) (p a k : List Nat), Runs s.node h opMigrate c → selOffs s.node c = [] → 1 ≤ c.f 44 1 → c.f 44 1 ≤ 3 → rsv c 45 45 = [] → (c.f 44 1 = 1 ∨ c.f 46 2 = 0xFFFF) → rsv c 48 63 = [] →
      selForeign s.node c = false → pchRefused s.node c named = false → selKind c ≠ 2 → pch = (if c.f 44 1 = 1 && c.f 46 2 != 0xFFFF then some (c.f 46 2) else none) → sortPages s.node (c.f 44 1) pch (selPages s.node c named) = (p, a, k) →
      (∀ i ∈ selPages s.node c named, inCopy s.node (.page i) = true → i ∈ p)
      ∧ (p ≠ [] → ∃ t, exec (.migrate h named) s = .next t ∧ t.node.ter.moves = s.node.ter.moves ++ p.map (fun i => ⟨2, .page i, c.f 44 1, pch, some h.toNat⟩)
        ∧ t.node.ter.jobs = s.node.ter.jobs ++ [⟨h.toNat, 0, a.length, k.length, 0, p, []⟩] ∧ t.node.ter.pages = s.node.ter.pages ∧ findCmd t.node h.toNat = some { c with stage := .running })
      ∧ (p = [] → ∃ m : Node, exec (.migrate h named) s = .next (s.withNode (complete s.tck m h.toNat stOk (placeResult 0 a.length k.length))) ∧ m.ter.pages = s.node.ter.pages ∧ m.ter.moves = s.node.ter.moves))
    ∧ (Runs s.node h opPin c → selOffs s.node c = [] → 1 ≤ c.f 44 1 → c.f 44 1 ≤ 2 → rsv c 45 63 = [] → selForeign s.node c = false → selKind c ≠ 2 → pinOver s.node (c.f 44 1) (selPages s.node c named) = false →
      (∀ i ∈ selPages s.node c named, inCopy s.node (.page i) = false ∧ ∃ e, pageAt s.node i = some e ∧ pageTerrace s.node e ≤ c.f 44 1) →
      ∃ (m : Node) (a k : Nat), exec (.pin h named) s = .next (s.withNode (complete s.tck m h.toNat stOk (placeResult a k 0))) ∧ a + k = (selPages s.node c named).length ∧ m.ter.moves = s.node.ter.moves
        ∧ ∀ i, pageAt m i = if i ∈ selPages s.node c named then (pageAt s.node i).map fun e => { e with pin := if e.pin = 0 then c.f 44 1 else min e.pin (c.f 44 1) } else pageAt s.node i)
    ∧ (Runs s.node h opUnpin c → selOffs s.node c = [] → rsv c 44 63 = [] → selForeign s.node c = false → selKind c ≠ 2 →
      ∃ (m : Node) (k : Nat), exec (.unpin h named) s = .next (s.withNode (complete s.tck m h.toNat stOk (placeResult k ((selPages s.node c named).length - k) 0))) ∧ m.ter.moves = s.node.ter.moves
        ∧ k = ((selPages s.node c named).filter fun i => (pageAt s.node i).any fun e => e.pin != 0).length
        ∧ ∀ i ∈ selPages s.node c named, pageAt m i = (pageAt s.node i).map fun e => { e with pin := 0 })
    ∧ (Runs s.node h opPlaceHint c → selOffs s.node c = [] → -8 ≤ signed 8 (c.f 44 1) → signed 8 (c.f 44 1) ≤ 7 → 1 ≤ c.f 45 1 → c.f 45 1 ≤ 3 → rsv c 46 63 = [] → selForeign s.node c = false → selKind c = 0 →
      ∃ (m : Node) (a k : Nat), exec (.placeHint h named) s = .next (s.withNode (complete s.tck m h.toNat stOk (placeResult a k 0))) ∧ a + k = (selPages s.node c named).length ∧ m.ter.moves = s.node.ter.moves
        ∧ ∀ i ∈ selPages s.node c named, pageAt m i = (pageAt s.node i).map fun e => { e with bias := signed 8 (c.f 44 1), lowest := c.f 45 1 })
    ∧ (ticksPassed s.tck c 1024 = true →
      (∀ j : MigJob, s.node.ter.jobs.find? (fun x => x.handle == h.toNat) = some j →
        ∃ m : Node, exec (.migrateTimeout h) s = .next (s.withNode (complete s.tck m h.toNat stDeadline (placeResult j.acted j.already j.skipped))) ∧ m.ter.pages = s.node.ter.pages ∧ ∀ r ∈ m.ter.moves, r.handle ≠ some h.toNat)
      ∧ (s.node.ter.jobs.find? (fun x => x.handle == h.toNat) = none → c.op = opPin → c.stage = .dispatched → selKind c = 2 → c.f 44 1 = 1 →
        exec (.migrateTimeout h) s = .next (s.withNode (complete s.tck s.node h.toNat stDeadline (placeResult 0 0 0)))))

/-- A finished move leaves the page's bytes and changes its entry; heat queues what its rules allow; the cleaner, the partition and waiting allocations
act: For every node. MOVE of a heat promotion in the movers' hands with a free run, of a page not settling: the page's entry names the run in terrace 1, its
bytes are those it had, and the request is gone. DEMOTION with heat moves enabled and terrace 1 below LOW, or below HIGH once it has been below LOW, adds
only class-3 requests to terrace 2, each of a page in terrace 1 that R202 allows, whose hint permits it, and that is neither settling nor in motion, and
goes on until HIGH; otherwise it changes nothing, or having reached HIGH it rests. PROMOTION of a page below terrace 1 whose effective heat has reached
PROMOTE queues it for terrace 1 while LOW would hold. DIRTY_CLEANER over DIRTY_MAX writes back the
least recently used dirty block first; at or under it nothing changes. A write of TER_T2_PART with no extent allocated, within the capacity, sets
DIRECT and leaves the cache empty; with an extent allocated it is recorded and ignored. ALLOCATION retries the append or fork that waits, as its
command would.
Which free run a page takes, and its preceding page on a node that does not home it, are the model's choice (log entries 27 and 70). -/
def Obligations.MoversHeatAndTheCacheFollowTheirRules : Prop :=
  ∀ s : State,
    (∀ (i : Nat) (r : MoveReq) (e : PageEnt) (a : Nat), (copying s.node).find? (fun x => x.what == .page i) = some r → r.cls = 3 → r.dest = 1 → r.handle = none → r.pch = none → pageAt s.node i = some e → e.terrace = 3 →
      settling s.tck s.node e = false → staysAboveLow s.node e.foot = true → placeRun s.node e.comp e.foot none (pagePrev s.node e) = some a → Memory.wf 0 s.node.t1 = true →
      ∃ t, exec (.move (.page i) [] false) s = .next t ∧ pageAt t.node i = some { e with terrace := 1, addr := a } ∧ pageRead t.node { e with terrace := 1, addr := a } 0 e.foot = pageRead s.node e 0 e.foot
        ∧ t.node.ter.moves = s.node.ter.moves.erase r)
    ∧ (rdB s.node Rg.terHeatCfgEn = true → ((s.node.ter.demoting = true ∧ 100 * t1Free s.node < rd s.node Rg.terWmHigh * t1Total s.node) ∨ 100 * t1Free s.node < rd s.node Rg.terWmLow * t1Total s.node) →
      ∃ l : List Nat, exec .demotion s = .next (s.withNode (queueMoves { s.node with ter := { s.node.ter with demoting := true } } (l.map fun i => ⟨3, .page i, 2, none, none⟩)))
        ∧ ∀ i ∈ l, ∃ e, (i, e) ∈ s.node.ter.pages ∧ e.terrace = 1 ∧ 2 ≤ e.lowest ∧ mayDemote s.node i e = true ∧ settling s.tck s.node e = false ∧ inMotion s.node i = false)
    ∧ (rd s.node Rg.terWmLow * t1Total s.node ≤ 100 * t1Free s.node → (s.node.ter.demoting = false → exec .demotion s = .next s)
      ∧ (rd s.node Rg.terWmHigh * t1Total s.node ≤ 100 * t1Free s.node → exec .demotion s = .next (s.withNode { s.node with ter := { s.node.ter with demoting := false } })))
    ∧ (∀ (i : Nat) (e : PageEnt), pageAt s.node i = some e → rdB s.node Rg.terHeatCfgEn = true → e.terrace ≠ 1 → rd s.node Rg.terHeatCfgPromote ≤ effHeat s.tck s.node e → settling s.tck s.node e = false →
      inMotion s.node i = false → staysAboveLow s.node e.foot = true →
      exec (.promotion i) s = .next (s.withNode (queueMoves s.node [⟨3, .page i, 1, none, none⟩])))
    ∧ (overPct (dirtyBlocks s.node) (cacheBytes s.node / 65536) (rd s.node Rg.terT2CfgDirtyMax) = false → exec .dirtyCleaner s = .next s)
    ∧ (∀ v : Nat × CacheBlk, overPct (dirtyBlocks s.node) (cacheBytes s.node / 65536) (rd s.node Rg.terT2CfgDirtyMax) = true →
      leastBy (fun e : Nat × CacheBlk => e.2.used) (s.node.ter.cache.filter fun e => e.2.dirty != 0) = some v → ∃ (m : Node) (k : Nat), exec .dirtyCleaner s = .next (s.withNode (cleanBlocks k m))
        ∧ m = { s.node with ter := { s.node.ter with cache := mset s.node.ter.cache v.1 { v.2 with dirty := 0 } } })
    ∧ (∀ v : Word, Writable s.node → (s.node.cxd.exts.any fun e => e.2.state != 0) = false → v.toNat < 2 ^ 14 → v.toNat * 0x10000000 ≤ t2Bytes s.node →
      ∃ t, exec (.terT2PartWrite v) s = .next t ∧ t.node.ter.cache = [] ∧ rd t.node Rg.terT2PartDirect = v.toNat)
    ∧ (∀ v : Word, Writable s.node → (s.node.cxd.exts.any fun e => e.2.state != 0) = true → exec (.terT2PartWrite v) s = .next (s.withNode (raise s.tck s.node evTerWriteIgnored (leBytes 4 Rg.terT2PartDirect.off))))
    ∧ ∀ (h : Word) (c : Cmd) (peer : PeerAns) (g : List Nat), s.node.ter.allocWait.contains h.toNat = true → findCmd s.node h.toNat = some c → s.node.seqs.copies.find? (fun j => j.handle == h.toNat) = none →
      (c.op = opAppendKv → exec (.allocation h peer g) s = exec (.appendKv h peer) s) ∧ (c.op = opSeqFork → exec (.allocation h peer g) s = exec (.seqFork h peer) s)

/-- Refresh opens once per window, scrub corrects or poisons, a second flash failure poisons the sector, rows are spared, frames tested, channels retired:
For every node. REFRESH_WINDOW of a channel at a notch of its window notes that window and leaves memory as it is; within the same window again it
changes nothing. PATROL_SCRUB serves the line named first before the patrol order, outside its channel's refresh: a clean line changes nothing but the
list, an uncorrectable one is poisoned in place, counted, latched and recorded. BMEM_SCRUB of the burst next in order, good, with one device in error counts a
correction, with two poisons a cached burst and records it. FLASH_READ_DONE of a sector whose guard or reference tag is not the node's is retried once and counted;
failing again, its every line is memory poison; a good one is cached where its set takes it, its every line poison of the kind that its application tag
records. ROW_SPARING of a row that has earned it, with a spare left and a hold that fits: the row is on the repair list and no
longer owed, and its bank has used one spare more. MARCH_FRAME of a destructive test: a free frame is tested and reads zero, a frame in use is skipped
and counted. PCH_RETIREMENT of a channel whose retirement has begun and in which nothing is left: it is retired, and its command completes.
The polynomial of the sector guard is presumed (log entry 72). -/
def Obligations.ScrubSparingTestsAndRetirementFollowTheirRules : Prop :=
  ∀ s : State,
    (∀ (p : Fin 1024) (w : List (Fin 64)) (start : Nat), start = s.tck.notches / 64 * 64 + (if 52 ≤ s.tck.notch then 52 else 20) + p.val % 4 → inRefresh p.val s.tck.notch = true →
      (mget? s.node.mic.refreshed p.val ≠ some start → ∃ t, exec (.refreshWindow p w) s = .next t ∧ t.node.mic = { s.node.mic with refreshed := mset s.node.mic.refreshed p.val start } ∧ t.node.t1 = s.node.t1)
      ∧ (mget? s.node.mic.refreshed p.val = some start → exec (.refreshWindow p w) s = .next s))
    ∧ (∀ (k : Fin 8) (a : Nat) (l : List Nat) (e : List Nat), mgetD s.node.mic.ahead k.val [] = a :: l → inRefresh (pchOf a) s.tck.notch = false → mhas s.node.mic.poison (a / 64 * 64) = false →
      s.node.mic.retired.contains (pchOf a) = false →
      (fullDecode (erasureLane s.node (pchOf a)) e = .clean → exec (.patrolScrub k e) s = .next (s.withNode { s.node with mic := { s.node.mic with ahead := mset s.node.mic.ahead k.val l } }))
      ∧ (fullDecode (erasureLane s.node (pchOf a)) e = .uncorr → ∃ t, exec (.patrolScrub k e) s = .next t ∧ mget? t.node.mic.poison (a / 64 * 64) = some 1 ∧ t.node.t1 = Mem.clear s.node.t1 (a / 64 * 64) 64
        ∧ rd t.node Rg.micUeAddrLoAddr = a / 64 * 64 % 2 ^ 32 ∧ t.node.svc.arrivals.map (·.code) = s.node.svc.arrivals.map (·.code) ++ [evStkUncorr] ∧ t.node.mic.ahead = mset s.node.mic.ahead k.val l))
    ∧ (∀ (ch : Fin 12) (a addr : Nat), addr = 64 * mgetD s.node.mic.patrol 8 0 → mgetD s.node.mic.periodAt 8 0 ≤ s.tck.now → s.node.mic.ddrOut.contains ch.val = false → mhas s.node.brd.dimms ch.val = true → burstPoison s.node (.cache a) addr = false →
      64 * (mgetD s.node.mic.patrol 8 0 + 1) < t2Bytes s.node →
      (∃ t, exec (.bmemScrub ch 1 (.cache a) addr) s = .next t ∧ rd t.node (Rg.micBmemErrCe ch.val) = satTo 16 (rd s.node (Rg.micBmemErrCe ch.val) + 1) ∧ t.node.mic = { s.node.mic with patrol := mset s.node.mic.patrol 8 (mgetD s.node.mic.patrol 8 0 + 1), poisonO := s.node.mic.poisonO.filter (· != addr) })
      ∧ ∃ t, exec (.bmemScrub ch 2 (.cache a) addr) s = .next t ∧ t.node.mic.poison3 = mset s.node.mic.poison3 (a / 64 * 64) 1
        ∧ t.node.svc.arrivals.map (·.code) = s.node.svc.arrivals.map (·.code) ++ [evBmemUncorr])
    ∧ (∀ (m : Fin 8) (x : Nat) (pi : FlashPi), s.node.svc.recal = [] →
      ((pi.guard ≠ crc64 (storedBytes s.node x) ∨ pi.ref ≠ x % 2 ^ 48) →
        (s.node.mic.retry.contains x = false → ∃ t, exec (.flashReadDone m x pi) s = .next t ∧ t.node.mic = { s.node.mic with retry := s.node.mic.retry ++ [x] }
          ∧ rd t.node (Rg.micFlashErrRetry m.val) = satTo 16 (rd s.node (Rg.micFlashErrRetry m.val) + 1))
        ∧ (s.node.mic.retry.contains x = true → ∃ t, exec (.flashReadDone m x pi) s = .next t ∧ (∀ i : Nat, i < 64 → mget? t.node.mic.poison3 (4096 * x + 64 * i) = some 1) ∧ t.node.mic.retry = s.node.mic.retry.filter (· != x)
          ∧ t.node.svc.arrivals.map (·.code) = s.node.svc.arrivals.map (·.code) ++ [evFlashCrc]))
      ∧ (pi.guard = crc64 (storedBytes s.node x) → pi.ref = x % 2 ^ 48 → (pi.app ≠ 0x8000 → pi.app ≠ 0xC000 →
          exec (.flashReadDone m x pi) s = .next (s.withNode (cacheSector false { s.node with mic := { s.node.mic with retry := s.node.mic.retry.filter (· != x) } } x)))
        ∧ (∀ k : Nat, (pi.app = 0x8000 ∧ k = 1) ∨ (pi.app = 0xC000 ∧ k = 2) →
          ∃ n1 : Node, exec (.flashReadDone m x pi) s = .next (s.withNode (cacheSector false n1 x)) ∧ ∀ i : Nat, i < 64 → mget? n1.mic.poison3 (4096 * x + 64 * i) = some k)))
    ∧ (∀ (a hold : Nat) (key : Nat), key = 65536 * pchOf a + Config.bankOf (rowOf a) % 65536 → s.node.mic.owed.contains (rowOf a) = true → s.node.mic.retired.contains (pchOf a) = false → mgetD s.node.mic.spared key 0 < 2 →
      holdFits s.tck (pchOf a) hold = true → s.tck.notch + cdiv hold (unitsPerNotch s.tck.cur) ≤ 62 → ∃ t, exec (.rowSparing a hold 0 []) s = .next t ∧ t.node.mic.owed = s.node.mic.owed.filter (· != rowOf a)
        ∧ t.node.mic.repair = s.node.mic.repair ++ [rowOf a] ∧ mget? t.node.mic.spared key = some (mgetD s.node.mic.spared key 0 + 1) ∧ t.node.t1 = s.node.t1
        ∧ t.node.svc.arrivals.map (·.code) = s.node.svc.arrivals.map (·.code) ++ [evRowSpared])
    ∧ (∀ (j : MarchJob) (l : List MarchJob) (hold : Nat) (a : Nat), s.node.svc.march = j :: l → j.kind = 0 → j.form = 0 → 1 < j.left → j.frame + 1 < 196608 → a = j.unit * pchBytes + 4096 * j.frame → s.node.mic.retired.contains j.unit = false →
      (frameInUse (wr s.node Rg.micMarchStatusForm 0) a = false → holdFits s.tck j.unit hold = true → ∃ t, exec (.marchFrame 0 [] hold 0) s = .next t ∧ t.node.t1 = Mem.clear s.node.t1 a 4096
        ∧ t.node.svc.march = { j with frame := j.frame + 1, tested := j.tested + 1 } :: l)
      ∧ (frameInUse (wr s.node Rg.micMarchStatusForm 0) a = true → ∃ t, exec (.marchFrame 0 [] hold 0) s = .next t ∧ t.node.t1 = s.node.t1
        ∧ t.node.svc.march = { j with frame := j.frame + 1, skipped := j.skipped + 1 } :: l))
    ∧ ∀ (p : Fin 1024) (j : RetireJob) (h : Nat), s.node.mic.retiring = [j] → j.pch = p.val → j.handle = some h → s.node.ter.pages = [] → s.node.wts.sets = [] → s.node.cxd.exts = [] → retireHeld s.node p.val = false → retireLeft s.node p.val = false →
      ∃ m : Node, exec (.pchRetirement p) s = .next (s.withNode (complete s.tck m h stOk (leBytes 4 j.moved))) ∧ m.mic.retired = s.node.mic.retired ++ [p.val] ∧ m.mic.retiring = []
        ∧ m.svc.arrivals.map (·.code) = s.node.svc.arrivals.map (·.code) ++ [evPchRetired]

/-- A valid image becomes a weight set with its digest; prefetches begin or complete; an ATTEND_BLOCK asks for its window; an eviction frees the set: For
every node. WEIGHTS_STREAM LOAD of an image that breaks no check, with room in terrace 3 and under the pin cap: the set is loaded under its number
with the image, its SHA-384 digest and its form, bound where the image is not encrypted, and the command completes with ST_OK and the first 16 digest
bytes. PREFETCH of layers within the set and the window, the set bound and no layer defective: where some layer is not whole the command runs and
waits for exactly those layers, and where all are it completes with ST_OK and zero counts. WINDOW_STREAM_REQUEST of an accepted ATTEND_BLOCK asks for
its layer and those that follow it, as many as the window has slots, and notes the use. WEIGHTS_EVICT of a loaded set that is no base: while an
accepted earlier command names the set it waits, and otherwise it completes with ST_OK and the blocks freed, the set being gone. PREFETCH_TIMEOUT more
than 1,024 ticks after acceptance completes with ST_DEADLINE.
Which sectors a set takes in terrace 3, and which of them a layer pins, are the model's choice (log entries 28 and 33). -/
def Obligations.WeightSetsLoadPrefetchAndEvict : Prop :=
  ∀ (s : State) (h : Word) (c : Cmd), findCmd s.node h.toNat = some c →
    (∀ (img : Bytes) (a : Nat) (w : WSet), Runs s.node h opWeightsStream c → c.f 28 1 = 0 → evictAhead s.node c (c.f 24 4) = false → rsv c 30 31 = [] → rsv c 52 63 = [] → c.f 24 4 ≠ 0 → mhas s.node.wts.sets (c.f 24 4) = false →
      s.node.wts.sets.length < 64 → c.f 29 1 ≤ 1 → mult (c.f 36 8) 4096 = true → img = hostRead s.node c.mem (c.f 36 8) (imgLen (hostRead s.node c.mem (c.f 36 8) 128)) →
      w = ⟨c.f 29 1, c.f 32 4, img, [], !imgEncrypted (hostRead s.node c.mem (c.f 36 8) 128), [], 0, c.f 44 8, List.range (imgLayers (hostRead s.node c.mem (c.f 36 8) 128)), [], [], [], [], [], [], [], [], []⟩ →
      baseBad s.node c w = false → clearPartFaults img = [] → (imgEncrypted img = false → hiddenFaults s.node (c.f 24 4) w = []) → c.f 44 8 = imgLen img → t3Alloc s.node (c.f 44 8) = some a →
      overPct (pinned2 s.node + (pinnedSecs (withSecs s.node (c.f 24 4) w)).length) (cacheBytes s.node / 4096) (rd s.node Rg.terPinCfgT2Pct) = false →
      ∃ (m : Node) (x : WSet), exec (.weightsStreamLoad h) s = .next (s.withNode (complete s.tck m h.toNat stOk ((sha384 img).take 16))) ∧ mget? m.wts.sets (c.f 24 4) = some x
        ∧ x.image = img ∧ x.digest = sha384 img ∧ x.form = c.f 29 1 ∧ x.base = c.f 32 4 ∧ x.addr = a ∧ x.bound = w.bound)
    ∧ (∀ w : WSet, Runs s.node h opWeightsStream c → c.f 28 1 = 1 → rsv c 29 29 = [] → rsv c 30 31 = [] → rsv c 36 43 = [] → rsv c 44 51 = [] → rsv c 52 63 = [] → setFor s.node c (c.f 24 4) = some w →
      c.f 32 2 < imgLayers w.image → 1 ≤ c.f 34 2 → c.f 34 2 ≤ rd s.node Rg.terWinCfgW → usable s.node w = true → (layerSpan w (c.f 32 2) (c.f 34 2)).any (layerDefective s.node w) = false →
      (∀ j ∈ s.node.wts.jobs, j.left ≠ []) →
      ((layerSpan w (c.f 32 2) (c.f 34 2)).filter (fun l => !layerWhole w l) = [] → ∃ m : Node, exec (.weightsStreamPrefetch h) s = .next (s.withNode (complete s.tck m h.toNat stOk (leBytes 4 0 ++ leBytes 4 0 ++ leBytes 4 0))))
      ∧ ((layerSpan w (c.f 32 2) (c.f 34 2)).filter (fun l => !layerWhole w l) ≠ [] → ∃ t, exec (.weightsStreamPrefetch h) s = .next t ∧ findCmd t.node h.toNat = some { c with stage := .running }
        ∧ t.node.wts.jobs = s.node.wts.jobs ++ [⟨h.toNat, c.f 24 4, (layerSpan w (c.f 32 2) (c.f 34 2)).filter (fun l => !layerWhole w l), 0, 0, 0⟩]))
    ∧ (∀ w : WSet, c.op = opAttendBlock → setFor s.node c (c.f 48 4) = some w → usable s.node w = true → c.f 32 2 < imgLayers w.image → (s.node.wts.uses.any fun u => u.1 == h.toNat) = false →
      ∃ t, exec (.windowStreamRequest h) s = .next t ∧ t.node.wts.uses = (s.node.wts.uses.filter fun u => (findCmd s.node u.1).isSome) ++ [(h.toNat, c.f 48 4, c.f 32 2)]
        ∧ t.node = wantLayers { s.node with wts := { s.node.wts with uses := (s.node.wts.uses.filter fun u => (findCmd s.node u.1).isSome) ++ [(h.toNat, c.f 48 4, c.f 32 2)] } } (c.f 48 4)
            (layerSpan w (c.f 32 2) w.slots.length))
    ∧ (∀ w : WSet, Runs s.node h opWeightsEvict c → rsv c 28 63 = [] → mget? s.node.wts.sets (c.f 24 4) = some w → isBase s.node (c.f 24 4) = false →
      (∀ d ∈ s.node.fe.cmds, d.op = opWeightsEvict → d.f 24 4 = c.f 24 4 → c.seq ≤ d.seq) →
      ((s.node.fe.cmds.any fun d => d.seq < c.seq && namesSet (c.f 24 4) d) = true → ∃ t, exec (.weightsEvict h) s = .next t ∧ t.node.wts.sets = s.node.wts.sets ∧ findCmd t.node h.toNat = some { c with stage := .running })
      ∧ ((s.node.fe.cmds.any fun d => d.seq < c.seq && namesSet (c.f 24 4) d) = false → ∃ m : Node, exec (.weightsEvict h) s = .next (s.withNode (complete s.tck m h.toNat stOk
          (leBytes 4 (((List.range (imgTensors w.image)).map fun x => (tensAt w.image x).blocks).foldl (· + ·) 0)))) ∧ m.wts.sets = mdel s.node.wts.sets (c.f 24 4)))
    ∧ ∀ j : WJob, s.node.wts.jobs.find? (fun x => x.handle == h.toNat) = some j → ticksPassed s.tck c 1024 = true →
      exec (.prefetchTimeout h) s = .next (s.withNode (complete s.tck { s.node with wts := { s.node.wts with jobs := s.node.wts.jobs.filter fun x => x.handle != h.toNat } } h.toNat stDeadline []))

/-- A good block reaches its layer's place, a failed CRC is counted and re-fetched once, a second failure or a defective block ends the commands that need
it: For every loaded, usable set and every block of a layer that is streaming into its slot. EXPAND_BLOCK by the expander the order gives, of a coded
block of a pages window not yet there: where the stored copies pass their CRC and decode, the block is in the layer's slot and its bytes at their places there; where a stored copy fails,
the failure is counted and recorded, and the block waits for its re-fetch; where it does not decode, the defect is counted and recorded and the layer
is marked. BLOCK_CRC_REFETCH of such a waiting block: a good copy reaches the slot; a second failure completes the one command that needs the layer
with ST_EXPAND_CRC.
Where a layer's operands lie in its space, and that a tensor named twice streams once, are the model's choice (log entries 68 and 81). -/
def Obligations.BlocksReachTheirSlotOrFailTheirCommands : Prop :=
  ∀ (s : State) (ex : Fin 8) (k : Word) (w : WSet) (l x j b : Nat), mget? s.node.wts.sets k.toNat = some w → b = (streamOf w.image l).findIdx (fun e => e == (x, j)) → (streamOf w.image l)[b]? = some (x, j) →
    w.form = 0 → w.pins = [] → usable s.node w = true → s.node.mic.expOut.contains ex.val = false →
    (∀ (st : WStream) (v : WSlot) (e : ExpandIn), w.streams.find? (fun y => y.layer == l) = some st → st.refetch.contains b = false → w.slots.find? (fun y => y.layer == some l) = some v → v.blocks.contains b = false →
      expanderOf s.node b = some ex.val → ixRaw (idxEnt s.node k.toNat w x j) = false → e.skew = false →
      (∀ d : Bytes, crcBad s.node k.toNat w x j e.bad e.badBase = none → (ownBlock s.node k.toNat w x j).isSome = true → expandedBlock s.node k.toNat w x j = some d →
        ∃ t y, exec (.expandBlock ex k l x j e) s = .next t ∧ mget? t.node.wts.sets k.toNat = some y ∧ b ∈ (blocksIn y l).getD [] ∧ t.node.t1 = (writeBlock s.tck s.node k.toNat l w x j d).t1)
      ∧ (∀ set : Nat, crcBad s.node k.toNat w x j e.bad e.badBase = some set → ∃ t y, exec (.expandBlock ex k l x j e) s = .next t ∧ mget? t.node.wts.sets k.toNat = some y
        ∧ (∃ z, y.streams.find? (fun y => y.layer == l) = some z ∧ z.refetch = st.refetch ++ [b] ∧ z.crc = st.crc + 1) ∧ rd t.node (Rg.expErrRefetch ex.val) = satTo (Rg.expErrRefetch ex.val).w (rd s.node (Rg.expErrRefetch ex.val) + 1)
        ∧ t.node.svc.arrivals.map (·.code) = s.node.svc.arrivals.map (·.code) ++ [evExpandCrc])
      ∧ (crcBad s.node k.toNat w x j e.bad e.badBase = none → ownBlock s.node k.toNat w x j = none →
        exec (.expandBlock ex k l x j e) s = .next (s.withNode (defective s.tck (countInput (touchSectors s.node (w.addr + (tensAt w.image x).area + field (idxEnt s.node k.toNat w x j) 0 4)
          (ixLen (idxEnt s.node k.toNat w x j))) ex.val (inputBytes s.node k.toNat w x j)) ex.val k.toNat x j))))
    ∧ ∀ (st : WStream) (v : WSlot) (bad badBase : Bool), w.streams.find? (fun y => y.layer == l) = some st → st.refetch.contains b = true → w.slots.find? (fun y => y.layer == some l) = some v →
      (crcBad s.node k.toNat w x j bad badBase = none → ixRaw (idxEnt s.node k.toNat w x j) = true →
        ∃ t y, exec (.blockCrcRefetch ex k l x j bad badBase) s = .next t ∧ mget? t.node.wts.sets k.toNat = some y ∧ b ∈ (blocksIn y l).getD [])
      ∧ ∀ h : Nat, (crcBad s.node k.toNat w x j bad badBase).isSome = true → needers (bump s.node (Rg.expErrCrcFail ex.val) 1) k.toNat l = [h] →
        ∃ m : Node, exec (.blockCrcRefetch ex k l x j bad badBase) s = .next (s.withNode (complete s.tck m h stExpandCrc []))

/-- Each key reads its lowest matching slot; an insertion places, re-ranks or refuses its entry; a deletion removes every entry named; rebalances and the
comparator: For every node with no earlier directory command outstanding. PD_LOOKUP with good fields and no failed check completes with ST_OK, its
hits and the index of the first miss; its results give, key by key, the entry of the lowest matching slot, or the miss, or OUTCOME 2 after the first
miss where STOP_AT_MISS is set. PD_INSERT of one entry: present, re-ranked, refused as FULL, NO_NODE or NOT_ELIGIBLE, or placed in the segment of its
predecessor, each with its outcome byte and counts; where that segment has no hollow it waits, counted, and the rebalance is asked for. PD_DELETE
completes with the entries removed and the entries that named none; nothing named is left, and the shadow equals the array when anything was removed.
A segment of at most 56 entries is built with a hollow after every eighth. PDX_REBALANCE rebuilds the smallest aligned window with at most 56 entries
a segment and is counted. The comparator passes over SEGS segments once a tick and reloads a slot that differs from its shadow. -/
def Obligations.PrefixLookupsInsertionsAndRebalancesDoWhatTheyName : Prop :=
  (∀ (s : State) (h : Word) (c : Cmd), Runs s.node h opPdLookup c → pdHeld s.node c = false → mult (c.f 24 8) 8 = true → 1 ≤ c.f 32 2 → c.f 32 2 ≤ 4096 → c.f 34 1 ≤ 1 → rsv c 35 39 = [] → mult (c.f 40 8) 16 = true → rsv c 48 63 = [] →
    ∃ (m : Node) (out : Bytes), let keys := (List.range (c.f 32 2)).map fun j => ofLe (hostRead s.node c.mem (c.f 24 8 + 8 * j) 8)
      let found := fun k : Nat => s.node.pdx.slots.filter fun e => e.2.key == k
      let first := keys.findIdx fun k => (found k).isEmpty
      exec (.pdLookup h []) s = .next (s.withNode (complete s.tck (hostWrite m c.mem (c.f 40 8) out) h.toNat stOk
        (leBytes 4 (if bitAt (c.f 34 1) 0 then first else (keys.filter fun k => !(found k).isEmpty).length) ++ leBytes 4 first)))
      ∧ m.pdx = s.node.pdx ∧ out.length = 16 * c.f 32 2
      ∧ ∀ (j k : Nat), keys[j]? = some k →
        (bitAt (c.f 34 1) 0 = true → first < j → slice out (16 * j) 8 = zeros 8 ∧ byteAt (slice out (16 * j) 16) 10 = 2)
        ∧ ((bitAt (c.f 34 1) 0 = true → j ≤ first) → (∀ e l, found k = e :: l → slice out (16 * j) 16 = leBytes 8 e.2.fpn ++ leBytes 1 e.2.rank ++ leBytes 1 (min (l.length + 1) 255) ++ [0, 0] ++ leBytes 4 e.1)
          ∧ (found k = [] → slice out (16 * j) 8 = zeros 8 ∧ byteAt (slice out (16 * j) 16) 10 = 1)))
  ∧ (∀ (s : State) (h : Word) (c : Cmd) (x : Nat × Nat) (e : PdxEnt), Runs s.node h opPdInsert c → pdHeld s.node c = false → pdOffs s.node c false = [] → pdEntries s.node c = [x] → e = pdEnt x →
    (∀ y : Nat × PdxEnt, s.node.pdx.slots.find? (fun z => z.2.key == e.key && z.2.fpn == e.fpn) = some y →
      (y.2.rank = e.rank → ∃ m : Node, m.pdx.slots = s.node.pdx.slots ∧ exec (.pdInsert h) s = .next (s.withNode (complete s.tck (hostWrite m c.mem (c.f 40 8) [2]) h.toNat stOk (leBytes 4 0 ++ leBytes 4 0))))
      ∧ (∀ l : NMap PdxEnt, y.2.rank ≠ e.rank → placeEntry (mdel s.node.pdx.slots y.1) e = some l → ∃ m : Node, m.pdx.slots = l ∧ m.pdx.shadow = l
        ∧ exec (.pdInsert h) s = .next (s.withNode (complete s.tck (hostWrite m c.mem (c.f 40 8) [1]) h.toNat stOk (leBytes 4 1 ++ leBytes 4 0)))))
    ∧ (s.node.pdx.slots.find? (fun z => z.2.key == e.key && z.2.fpn == e.fpn) = none →
      (∀ o : Byte, ((rd s.node Rg.pdxCfgLimit ≤ pdxCount s.node ∧ o = 3) ∨ (pdxCount s.node < rd s.node Rg.pdxCfgLimit ∧ inMap s.node (fpnNode e.fpn) = false ∧ o = 4)
          ∨ (pdxCount s.node < rd s.node Rg.pdxCfgLimit ∧ inMap s.node (fpnNode e.fpn) = true ∧ fpnNode e.fpn = nodeId s.node ∧ pdEligible s.node e.fpn = false ∧ o = 5)) →
        ∃ m : Node, m.pdx.slots = s.node.pdx.slots ∧ exec (.pdInsert h) s = .next (s.withNode (complete s.tck (hostWrite m c.mem (c.f 40 8) [o]) h.toNat stOk (leBytes 4 0 ++ leBytes 4 1))))
      ∧ (pdxCount s.node < rd s.node Rg.pdxCfgLimit → inMap s.node (fpnNode e.fpn) = true → (fpnNode e.fpn = nodeId s.node → pdEligible s.node e.fpn = true) →
        (∀ l : NMap PdxEnt, placeEntry s.node.pdx.slots e = some l → (∃ a : Nat, mget? l a = some e ∧ a / 64 = placeSeg s.node.pdx.slots e.rankKey)
          ∧ ∃ m : Node, m.pdx.slots = l ∧ m.pdx.shadow = l ∧ (fpnNode e.fpn = nodeId s.node → (pageAt m (fpnIdx e.fpn)).any (·.pref) = true)
            ∧ exec (.pdInsert h) s = .next (s.withNode (complete s.tck (hostWrite m c.mem (c.f 40 8) [0]) h.toNat stOk (leBytes 4 1 ++ leBytes 4 0))))
        ∧ (placeEntry s.node.pdx.slots e = none → ∃ t, exec (.pdInsert h) s = .next t ∧ t.node.pdx.slots = s.node.pdx.slots ∧ t.node.pdx.job = some ⟨h.toNat, 0, [], true⟩
          ∧ placeSeg s.node.pdx.slots e.rankKey ∈ t.node.pdx.rebal ∧ rd t.node Rg.pdxRebalWaits = satTo Rg.pdxRebalWaits.w (rd s.node Rg.pdxRebalWaits + 1)))))
  ∧ (∀ (s : State) (h : Word) (c : Cmd), Runs s.node h opPdDelete c → pdHeld s.node c = false → pdOffs s.node c true = [] →
    ∃ (m : Node) (outs : Bytes), exec (.pdDelete h) s = .next (s.withNode (complete s.tck (hostWrite m c.mem (c.f 40 8) outs) h.toNat stOk
        (leBytes 4 (s.node.pdx.slots.length - m.pdx.slots.length) ++ leBytes 4 (outs.filter (· == 1)).length)))
      ∧ outs.length = (pdEntries s.node c).length ∧ m.pdx.slots.Sublist s.node.pdx.slots
      ∧ ∀ e ∈ s.node.pdx.slots, e ∈ m.pdx.slots ↔ ∀ x ∈ pdEntries s.node c, e.2.key = x.1 → bitAt x.2 63 = false ∧ e.2.fpn ≠ bits x.2 0 45)
  ∧ (∀ (base : Nat) (l : List PdxEnt) (a : Nat) (e : PdxEnt), (a, e) ∈ layout base 0 l ↔ ∃ k, l[k]? = some e ∧ a = base + k + k / 8)
  ∧ (∀ (s : State) (x : Nat) (l : List Nat), s.node.pdx.rebal = x :: l → s.node.pdx.job = none → ∃ t, exec .pdxRebalance s = .next t ∧ t.node.pdx.slots = rebalanced s.node.pdx.slots x ∧ t.node.pdx.shadow = t.node.pdx.slots
      ∧ t.node.pdx.rebal = l.filter (fun y => (hollows t.node.pdx.slots y).isEmpty) ∧ rd t.node Rg.pdxRebalCount = satTo Rg.pdxRebalCount.w (rd s.node Rg.pdxRebalCount + 1))
  ∧ (∀ (l : NMap PdxEnt) (x : Nat), let held := fun j : Nat => (l.filter fun e => e.1 / 64 / 2 ^ j == x / 2 ^ j).length
      1 ≤ rebalWindow l x 13 1 ∧ rebalWindow l x 13 1 ≤ 14 ∧ (held (rebalWindow l x 13 1) ≤ 56 * 2 ^ rebalWindow l x 13 1 ∨ rebalWindow l x 13 1 = 14)
      ∧ ∀ i, 1 ≤ i → i < rebalWindow l x 13 1 → 56 * 2 ^ i < held i)
  ∧ ∀ (s : State), s.node.pdx.cmpTick ≤ s.tck.tick →
    (∃ t, exec (.pdxComparator [] []) s = .next t ∧ t.node.pdx.slots = s.node.pdx.slots ∧ t.node.pdx.cmpTick = s.tck.tick + 1
      ∧ t.node.pdx.cmpNext = (s.node.pdx.cmpNext + rd s.node Rg.pdxScrubCfgSegs) % 16384)
    ∧ ∀ (a : Nat), (a / 64 + 16384 - s.node.pdx.cmpNext) % 16384 < rd s.node Rg.pdxScrubCfgSegs → s.node.pdx.cmpNext + rd s.node Rg.pdxScrubCfgSegs < 16384 →
      ∃ t, exec (.pdxComparator [(a, false)] []) s = .next t ∧ mget? t.node.pdx.slots a = mget? s.node.pdx.shadow a ∧ (∀ b, b ≠ a → mget? t.node.pdx.slots b = mget? s.node.pdx.slots b)
        ∧ rd t.node Rg.pdxScrubStatusMismatch = satTo Rg.pdxScrubStatusMismatch.w (rd s.node Rg.pdxScrubStatusMismatch + 1) ∧ t.node.svc.arrivals.map (·.code) = s.node.svc.arrivals.map (·.code) ++ [evPdxMismatch]

/-- A request a head may not make touches no memory; others read the current line or write it, after the snoops they need; responses write back; credit
gates: For every node, every linked head that is not lost, with the directory otherwise idle. CXL_READ and CXL_WRITE to a DPA the head may not reach
are answered with zero and poison, or completed, and logged in CXD_HOST_ERR, memory and directory unchanged. CXL_READ with no copy to recall and no
way to evict, of a line without error, answers the line, or zero with poison, and enters the requester as its request asks and its rights allow; with the line in E at another
head it sends that head the snoop and waits. CXL_WRITE of a read-write head writes its bytes and completes, and the writer keeps the state it asks
for. BISNP_RESPONSE with data from the head that holds the line in E writes the line back and settles the entry. A request whose bucket is short
waits; TOKEN_BUCKET_CREDIT pays for it when the credit is there, and it is answered. Every answer carries a DevLoad of 0 to 3.
How an extent is named to node units is the model's choice (log entry 29). -/
def Obligations.HostRequestsAreServedCoherently : Prop :=
  (∀ (s : State) (h : Fin 4) (kind : Fin 3) (dpa : BitVec 52) (line : Nat) (q : CxlReq), CxdIdle s.node → (headOf s.node h.val).link = true → headIsLost s.node h.val = false →
    (rd s.node (Rg.cxdHostLimitRate h.val) = 0 ∨ 256 ≤ (filledHead s.tck s.node h.val).credit) → line = dpa.toNat / 64 → q = ⟨h.val, kind.val, line * 64, [], 0, false, false, 0, []⟩ →
    (denyOf s.node h.val kind.val (line * 64) ≠ 0 → ∃ (t : State) (v : Nat), exec (.cxlRead h kind dpa []) s = .next t ∧ v ≤ 3 ∧ t.node.out = s.node.out ++ [.cxlData h.val (line * 64) (zeros 64) true v]
      ∧ t.node.cxd.dir = s.node.cxd.dir ∧ t.node.cxd.direct = s.node.cxd.direct ∧ t.node.t1 = s.node.t1 ∧ t.node.cxd.reqs = [] ∧ rd t.node (Rg.cxdHostErrStatus h.val) = denyOf s.node h.val kind.val (line * 64) % 2 ^ 16
      ∧ rd t.node (Rg.cxdHostErrCount h.val) = satTo 16 (rd s.node (Rg.cxdHostErrCount h.val) + 1))
    ∧ (denyOf s.node h.val kind.val (line * 64) = 0 → lineSnooped s.node line = false → needs s.node q = [] → (wanted s.node q = 0 ∨ victim s.node line = none) →
      ∃ (t : State) (v : Nat), exec (.cxlRead h kind dpa []) s = .next t ∧ v ≤ 3
        ∧ t.node.out = s.node.out ++ [.cxlData h.val (line * 64) (if (cxPoison s.node (line * 64)).isSome then zeros 64 else cxBytes s.node (line * 64) 64) (cxPoison s.node (line * 64)).isSome v]
        ∧ t.node.cxd.direct = s.node.cxd.direct ∧ t.node.t1 = s.node.t1 ∧ t.node.cxd.reqs = [] ∧ (wanted s.node q = 0 → t.node.cxd.dir = s.node.cxd.dir)
        ∧ (wanted s.node q = 2 → mget? t.node.cxd.dir line = some ⟨true, 2 ^ h.val, s.node.cxd.dirSeq⟩)
        ∧ (wanted s.node q = 1 → ∀ x : DirEnt, mget? s.node.cxd.dir line = some x → mget? t.node.cxd.dir line = some ⟨false, orMask x.heads (2 ^ h.val), s.node.cxd.dirSeq⟩))
    ∧ (∀ (g : Fin 4) (u : Nat), denyOf s.node h.val kind.val (line * 64) = 0 → lineSnooped s.node line = false → mget? s.node.cxd.dir line = some ⟨true, 2 ^ g.val, u⟩ → g ≠ h →
      ∃ t : State, exec (.cxlRead h kind dpa []) s = .next t ∧ t.node.cxd.snoops = s.node.cxd.snoops ++ [⟨line, g.val, wanted s.node q == 2, s.tck.notches⟩]
        ∧ t.node.out = s.node.out ++ [.biSnp g.val line (wanted s.node q == 2)] ∧ t.node.cxd.reqs = [{ q with paid := true }] ∧ rd t.node Rg.cxdRecallsCount = satTo 32 (rd s.node Rg.cxdRecallsCount + 1))
    ∧ wanted s.node q = (if noCopy s.node (line * 64) then 0 else if kind.val = 2 ∧ (sharedOnly s.node = true ∨ (extentOf s.node (line * 64 / extBytes)).mode = 1) then 1 else kind.val))
  ∧ (∀ (s : State) (h : Fin 4) (dpa : BitVec 52) (data : Bytes) (keep : Fin 3) (q : CxlReq), CxdIdle s.node → (headOf s.node h.val).link = true → headIsLost s.node h.val = false →
    (rd s.node (Rg.cxdHostLimitRate h.val) = 0 ∨ 256 ≤ (filledHead s.tck s.node h.val).credit) → data ≠ [] → data.length ≤ 64 - dpa.toNat % 64 → q = ⟨h.val, 3, dpa.toNat, data, keep.val, false, false, 0, []⟩ →
    (denyOf s.node h.val 3 dpa.toNat ≠ 0 → ∃ (t : State) (v : Nat), exec (.cxlWrite h dpa data false keep) s = .next t ∧ v ≤ 3 ∧ t.node.out = s.node.out ++ [.cxlDone h.val dpa.toNat v]
      ∧ t.node.cxd.dir = s.node.cxd.dir ∧ t.node.cxd.direct = s.node.cxd.direct ∧ t.node.t1 = s.node.t1 ∧ rd t.node (Rg.cxdHostErrStatus h.val) = denyOf s.node h.val 3 dpa.toNat % 2 ^ 16)
    ∧ (denyOf s.node h.val 3 dpa.toNat = 0 → lineSnooped s.node (dpa.toNat / 64) = false → needs s.node q = [] → (wanted s.node q = 0 ∨ victim s.node (dpa.toNat / 64) = none) → region1 ≤ dpa.toNat →
      mhas s.node.mic.poisonD ((dpa.toNat - region1) / 64 * 64) = false →
      ∃ (t : State) (v : Nat), exec (.cxlWrite h dpa data false keep) s = .next t ∧ v ≤ 3 ∧ t.node.out = s.node.out ++ [.cxlDone h.val dpa.toNat v] ∧ t.node.t1 = s.node.t1
        ∧ t.node.cxd.direct = Mem.write 0 s.node.cxd.direct (dpa.toNat - region1) data ∧ t.node.cxd.reqs = []
        ∧ (wanted s.node q ≠ 0 → mget? t.node.cxd.dir (dpa.toNat / 64) = some ⟨wanted s.node q == 2, 2 ^ h.val, s.node.cxd.dirSeq⟩))
    ∧ (denyOf s.node h.val 3 dpa.toNat = 0 → lineSnooped s.node (dpa.toNat / 64) = false → needs s.node q = [] → (wanted s.node q = 0 ∨ victim s.node (dpa.toNat / 64) = none) → dpa.toNat < region1 →
      (∀ e ∈ s.node.seqs.open_, ∀ p ∈ e.2.lists, marks dpa.toNat data.length p.2 = false) → bsuOwned s.node (resolve s.node dpa.toNat) = false →
      s.node.mic.retired.contains (pchOf (resolve s.node dpa.toNat)) = false → mget? s.node.mic.poison (resolve s.node dpa.toNat / 64 * 64) = none →
      ∃ (t : State) (v : Nat), exec (.cxlWrite h dpa data false keep) s = .next t ∧ v ≤ 3 ∧ t.node.out = s.node.out ++ [.cxlDone h.val dpa.toNat v] ∧ t.node.cxd.direct = s.node.cxd.direct
        ∧ t.node.t1 = Mem.write 0 s.node.t1 (resolve s.node dpa.toNat) data ∧ t.node.cxd.reqs = []))
  ∧ (∀ (s : State) (h : Fin 4) (line : Nat) (b : Bytes) (x : Snoop) (e : DirEnt), CxdIdle s.node → b.length = 64 → s.node.cxd.snoops.find? (fun y => y.line == line && y.head == h.val) = some x → mget? s.node.cxd.dir line = some e →
    e.excl = true → bitAt e.heads h.val = true → x.inv = false → e.heads ≠ 0 →
    ∃ t, exec (.bisnpResponse h line (some (b, false))) s = .next t ∧ t.node.cxd.snoops = s.node.cxd.snoops.erase x ∧ mget? t.node.cxd.dir line = some ⟨false, e.heads, e.used⟩
      ∧ (64 * line < region1 → t.node.t1 = Mem.write 0 s.node.t1 (resolve s.node (64 * line)) b) ∧ (region1 ≤ 64 * line → t.node.cxd.direct = Mem.write 0 s.node.cxd.direct (64 * line - region1) b))
  ∧ ∀ (s : State) (h : Fin 4) (q : CxlReq), s.node.cxd.reqs = [q] → s.node.cxd.pub = none → (∀ e, (extentOf s.node e).revoking = 0) → q.head = h.val → q.paid = false → q.deny = 0 → q.kind = 0 → q.errs = [] →
    rd s.node (Rg.cxdHostLimitRate h.val) ≠ 0 →
    ((filledHead s.tck s.node h.val).credit < 256 → ∃ t, exec (.tokenBucketCredit h) s = .next t ∧ t.node.cxd.reqs = [q] ∧ headOf t.node h.val = filledHead s.tck s.node h.val ∧ t.node.out = s.node.out)
    ∧ (256 ≤ (filledHead s.tck s.node h.val).credit → lineSnooped s.node (q.dpa / 64) = false → needs s.node q = [] → wanted s.node q = 0 → ∃ (t : State) (v : Nat), exec (.tokenBucketCredit h) s = .next t ∧ v ≤ 3
      ∧ t.node.cxd.reqs = [] ∧ (headOf t.node h.val).credit = (filledHead s.tck s.node h.val).credit - 256
      ∧ t.node.out = s.node.out ++ [.cxlData h.val q.dpa (if (cxPoison s.node q.dpa).isSome then zeros 64 else cxBytes s.node (q.dpa / 64 * 64) 64) (cxPoison s.node q.dpa).isSome v])

/-- Offers back and announce an extent, heads accept it, a revocation refuses the named heads at once, a complete release zeroes what no head is left to
hold: For every node with its registers open and every writer permitted to command extents while none runs; another writer is ignored and recorded.
OFFER of an existing FREE extent to linked heads: OFFERED with its heads and mode, its frames held and zeroed in region 0, an event sent to each head,
RESULT ST_OK; else ST_BAD_PARAM and no change. A linked head of HOSTS accepts: ASSIGNED. WITHDRAW: ST_DENIED and no change while pinned; an OFFERED
extent becomes FREE; otherwise the heads that have not accepted lose their offer. REVOKE, RECLAIM of lost heads and a head's own release, with the
directory idle: from then on the heads that held the extent are refused with ST_EXTENT_REVOKED, and the extent is REVOKING; with nothing to drain the
command ends with ST_OK. RELEASE_COMPLETE: the drained heads are cleared, the command ends, and an extent left with no head is zeroed next.
EXTENT_ZERO_DONE: it is FREE and its backing is returned. -/
def Obligations.ExtentsAreOfferedAcceptedRevokedAndFreed : Prop :=
  ∀ (s : State) (ext : BitVec 14) (hosts : BitVec 4) (mode : BitVec 1) (src : Req) (x : Extent), Writable s.node → x = extentOf s.node ext.toNat →
    (extMayWrite s.node src = false → ∃ t, exec (.offer ext hosts mode src) s = .next t ∧ exec (.withdraw ext src) s = .next t ∧ exec (.revoke ext hosts src) s = .next t ∧ exec (.reclaim ext hosts src) s = .next t
      ∧ t.node.cxd = s.node.cxd ∧ t.node.svc.arrivals.map (·.code) = s.node.svc.arrivals.map (·.code) ++ [evCxdWriteIgnored])
    ∧ (extMayWrite s.node src = true →
      ((extExists s.node ext.toNat = false ∨ x.state ≠ 0 ∨ hosts = 0 ∨ ∃ h ∈ bitList 4 hosts.toNat, (headOf s.node h).link = false) → ∃ t, exec (.offer ext hosts mode src) s = .next t ∧ t.node.cxd = s.node.cxd ∧ rd t.node Rg.cxdExtStatusResult = stBadParam)
      ∧ (extExists s.node ext.toNat = true → x.state = 0 → hosts ≠ 0 → (∀ h ∈ bitList 4 hosts.toNat, (headOf s.node h).link = true) →
        (3072 ≤ ext.toNat → ∃ t, exec (.offer ext hosts mode src) s = .next t ∧ extentOf t.node ext.toNat = { x with state := 1, hosts := hosts.toNat, mode := mode.toNat, accepted := 0, revoking := 0, runs := [] }
          ∧ t.node.out = s.node.out ++ (bitList 4 hosts.toNat).map (fun h => .dcEvent h ext.toNat true) ∧ rd t.node Rg.cxdExtStatusResult = stOk)
        ∧ (∀ r : List (Nat × Nat), ext.toNat < 3072 → backedCount s.node < rd s.node Rg.cxdCfgT1Max → takeRuns s.node extBytes (List.range 1024) = some r →
          ∃ t, exec (.offer ext hosts mode src) s = .next t ∧ extentOf t.node ext.toNat = { x with state := 1, hosts := hosts.toNat, mode := mode.toNat, accepted := 0, revoking := 0, runs := r }
            ∧ t.node.out = s.node.out ++ (bitList 4 hosts.toNat).map (fun h => .dcEvent h ext.toNat true) ∧ t.node.t1 = r.foldl (fun m y => Mem.clear m y.1 y.2) s.node.t1
            ∧ t.node.ter.holds = s.node.ter.holds ++ r.map (fun y => ⟨y.1, y.2⟩) ∧ rd t.node Rg.cxdExtStatusResult = stOk))
      ∧ (extPinned s.node ext.toNat = true → ∃ t, exec (.withdraw ext src) s = .next t ∧ exec (.revoke ext hosts src) s = .next t ∧ t.node.cxd = s.node.cxd ∧ rd t.node Rg.cxdExtStatusResult = stDenied)
      ∧ (extPinned s.node ext.toNat = false → x.state = 1 → ∃ t, exec (.withdraw ext src) s = .next t ∧ (extentOf t.node ext.toNat).state = 0 ∧ (extentOf t.node ext.toNat).hosts = 0 ∧ (extentOf t.node ext.toNat).runs = [] ∧ rd t.node Rg.cxdExtStatusResult = stOk)
      ∧ (extPinned s.node ext.toNat = false → 2 ≤ x.state → ∃ t, exec (.withdraw ext src) s = .next t ∧ extentOf t.node ext.toNat = { x with hosts := orMask x.accepted x.revoking } ∧ rd t.node Rg.cxdExtStatusResult = stOk)
      ∧ (CxdIdle s.node → x.state ≠ 0 → s.node.cxd.dir = [] →
        (extPinned s.node ext.toNat = false → ∃ t, exec (.revoke ext hosts src) s = .next t ∧ (extentOf t.node ext.toNat).revoking = andMask hosts.toNat x.accepted
          ∧ t.node.out = s.node.out ++ (bitList 4 hosts.toNat).map (fun h => .dcEvent h ext.toNat false)
          ∧ (andMask hosts.toNat x.accepted ≠ 0 → (extentOf t.node ext.toNat).state = 3 ∧ t.node.cxd.job = some (3, ext.toNat, hosts.toNat))
          ∧ (andMask hosts.toNat x.accepted = 0 → t.node.cxd.job = none ∧ rd t.node Rg.cxdExtStatusResult = stOk)
          ∧ ∀ (h kind dpa : Nat), h < 4 → bitAt hosts.toNat h = true → bitAt x.accepted h = true → dpa / extBytes = ext.toNat → denyOf t.node h kind dpa = stExtentRevoked)
        ∧ ((∀ h ∈ bitList 4 hosts.toNat, headIsLost s.node h = true) → andMask hosts.toNat x.accepted ≠ 0 → ∃ t, exec (.reclaim ext hosts src) s = .next t ∧ (extentOf t.node ext.toNat).state = 3
          ∧ (extentOf t.node ext.toNat).revoking = andMask hosts.toNat x.accepted ∧ t.node.cxd.job = some (4, ext.toNat, hosts.toNat))))
    ∧ (∀ h : Fin 4, ((headOf s.node h.val).link = true → headIsLost s.node h.val = false → bitAt x.hosts h.val = true → bitAt x.accepted h.val = false → x.state ≠ 0 → s.node.cxd.zeroing.contains ext.toNat = false →
        ∃ t, exec (.addDynamicCapacityResponse h ext) s = .next t ∧ extentOf t.node ext.toNat = { x with accepted := orMask x.accepted (2 ^ h.val), taken := withoutMask x.taken (2 ^ h.val), state := if x.state = 3 then 3 else 2 })
      ∧ (CxdIdle s.node → s.node.cxd.dir = [] → bitAt x.accepted h.val = true → ∃ t, exec (.releaseDynamicCapacity h ext) s = .next t ∧ bitAt (extentOf t.node ext.toNat).revoking h.val = true
        ∧ (extentOf t.node ext.toNat).state = 3 ∧ ∀ (kind dpa : Nat), dpa / extBytes = ext.toNat → denyOf t.node h.val kind dpa = stExtentRevoked))
    ∧ (drained s.node ext.toNat x = true → ∃ t, exec (.releaseComplete ext) s = .next t ∧ (extentOf t.node ext.toNat).revoking = 0 ∧ (extentOf t.node ext.toNat).accepted = withoutMask x.accepted x.revoking
      ∧ (withoutMask x.accepted x.revoking = 0 → ext.toNat ∈ t.node.cxd.zeroing) ∧ (withoutMask x.accepted x.revoking ≠ 0 → (extentOf t.node ext.toNat).state = heldState s.node (withoutMask x.accepted x.revoking))
      ∧ ∀ op hs : Nat, s.node.cxd.job = some (op, ext.toNat, hs) → t.node.cxd.job = none ∧ rd t.node Rg.cxdExtStatusResult = stOk)
    ∧ (s.node.cxd.zeroing.contains ext.toNat = true → (∀ r ∈ x.runs, ∀ f ∈ s.node.bsu.frames, r.1 ≤ f.1 → f.1 < r.1 + r.2 → f.2 < 2) →
      ∃ t, exec (.extentZeroDone ext) s = .next t ∧ (extentOf t.node ext.toNat).state = 0 ∧ (extentOf t.node ext.toNat).runs = [] ∧ ext.toNat ∉ t.node.cxd.zeroing
        ∧ t.node.t1 = x.runs.foldl (fun m y => Mem.clear m y.1 y.2) s.node.t1)

/-- A head is lost by its link, viral, a missed heartbeat or a snoop timeout, keeps its extents, and is back after REJOIN; PUBLISH_GO copies a shared
prefix page: For every node with the CXL directory idle and every head that is linked and not lost. HEAD_LOST (link down, cause 0; viral, cause 1),
PERST (cause 0), the end of its heartbeat window (cause 2) and a snoop unanswered for RECALL_TO notches (cause 3): the head is LOST with that cause,
the event is recorded, no request, snoop or copy of it is left, the lines it held in E have owner-lost poison, and an ASSIGNED extent whose heads are
all lost becomes LOST. PERST also removes the rings of the half. A heartbeat within its window restarts it; nothing happens before a window or a
snoop's time has ended. REJOIN of a lost head whose link is up: not lost, a new window, its extents ASSIGNED again. PUBLISH_GO with no copy running:
ST_NOT_OWNER for a page that is not a shared prefix page of this node, ST_BAD_PARAM where the extent is not ASSIGNED or too short, and otherwise, with
no head holding a line of the place, ST_OK, the page's bytes written to the direct partition when its extent lies there. -/
def Obligations.HeadsAreLostRejoinAndPagesArePublished : Prop :=
  ∀ (s : State) (h : Fin 4),
    (CxdIdle s.node → (headOf s.node h.val).link = true → headIsLost s.node h.val = false →
      (∃ t, exec (.headLost h true) s = .next t ∧ LostHead s.node t.node h.val 1 ∧ (headOf t.node h.val).link = true)
      ∧ (∃ t, exec (.headLost h false) s = .next t ∧ LostHead s.node t.node h.val 0 ∧ (headOf t.node h.val).link = false)
      ∧ (∃ t, exec (.perst h) s = .next t ∧ LostHead s.node t.node h.val 0 ∧ (headOf t.node h.val).link = false ∧ (∀ q ∈ t.node.fe.sqs, onHalf h.val q.2.owner = false) ∧ (∀ q ∈ t.node.fe.cqs, onHalf h.val q.2.owner = false))
      ∧ (beatEnded s.tck s.node h.val = true → (∃ t, exec (.heartbeatTimeout h) s = .next t ∧ LostHead s.node t.node h.val 2)
        ∧ (Writable s.node → ∃ t, exec (.cxdHb h) s = .next t ∧ LostHead s.node t.node h.val 2))
      ∧ (∀ (line : Nat) (x : Snoop), s.node.cxd.snoops.find? (fun y => y.line == line && y.head == h.val) = some x → x.sent + rd s.node Rg.cxdCfgRecallTo ≤ s.tck.notches →
        ∃ t, exec (.bisnpTimeout h line) s = .next t ∧ LostHead s.node t.node h.val 3))
    ∧ (∀ (line : Nat) (x : Snoop), s.node.cxd.snoops.find? (fun y => y.line == line && y.head == h.val) = some x → s.tck.notches < x.sent + rd s.node Rg.cxdCfgRecallTo → exec (.bisnpTimeout h line) s = .next s)
    ∧ (beatEnded s.tck s.node h.val = false → exec (.heartbeatTimeout h) s = .next s
      ∧ (Writable s.node → exec (.cxdHb h) s = .next (s.withNode { s.node with cxd := { s.node.cxd with heads := mset s.node.cxd.heads h.val { headOf s.node h.val with beat := s.tck.now } } })))
    ∧ (Writable s.node → headIsLost s.node h.val = true → (headOf s.node h.val).link = true → ∃ t, exec (.rejoin h) s = .next t ∧ headIsLost t.node h.val = false ∧ (headOf t.node h.val).beat = s.tck.now
      ∧ t.node.cxd.dir = s.node.cxd.dir ∧ ∀ e x, mget? s.node.cxd.exts e = some x → mget? t.node.cxd.exts e = some (if x.state = 4 then { x with state := heldState t.node x.accepted } else x))
    ∧ ∀ f e frame : Nat, Writable s.node → s.node.cxd.pub = none → f = rd s.node Rg.cxdPubFpnLoFpn + 2 ^ 32 * (rd s.node Rg.cxdPubFpnHiFpn % 2 ^ 13) → e = rd s.node Rg.cxdPubDstExt → frame = rd s.node Rg.cxdPubDstFrame →
      ((fpnNode f ≠ nodeId s.node ∨ (pageAt s.node (fpnIdx f)).any (·.pref) = false) → ∃ t, exec .publishGo s = .next t ∧ t.node.cxd = s.node.cxd ∧ t.node.t1 = s.node.t1 ∧ rd t.node Rg.cxdPubCtlResult = stNotOwner)
      ∧ ∀ p : PageEnt, fpnNode f = nodeId s.node → pageAt s.node (fpnIdx f) = some p → p.pref = true →
        (((extentOf s.node e).state ≠ 2 ∨ extBytes < 4096 * frame + p.foot) → ∃ t, exec .publishGo s = .next t ∧ t.node.cxd = s.node.cxd ∧ t.node.t1 = s.node.t1 ∧ rd t.node Rg.cxdPubCtlResult = stBadParam)
        ∧ ((extentOf s.node e).state = 2 → 4096 * frame + p.foot ≤ extBytes → heldLines s.node true (e * extBytes + 4096 * frame) p.foot = [] →
          ∃ t, exec .publishGo s = .next t ∧ t.node.cxd.pub = none ∧ rd t.node Rg.cxdPubCtlResult = stOk
            ∧ (4096 ≤ e → s.node.mic.poisonD = [] → runPoisons (if p.terrace = 1 then s.node.mic.poison else s.node.mic.poison3) p.addr p.foot = [] →
              t.node.cxd.direct = Mem.write 0 s.node.cxd.direct (e * extBytes + 4096 * frame - region1) (pageRead s.node p 0 p.foot)))

/-- A READY pair sends its next segment on the next usable path while the window admits it; lost and refused ones go again, TRY higher; ACKs end messages:
For every node and queue pair. SEGMENT_SEND of a READY pair with a key and a fabric port sends the next segment, with message number, offset, bytes,
attempt and time, on the next usable path, when the window admits it or nothing is outstanding, with ACK_NOW set exactly when the window admits no
other, and otherwise nothing; a message of the node's own joins its queue pair. ACK below whose BASE the one message outstanding lies ends it, moves
SRTT by an eighth of the difference (rounding free, log entry 16), and leaves the window alone within a round trip, or grows it by AI up to WMAX after
one without marks or excess delay. RTO_EXPIRY counts RETX, resends on the next usable path with TRY one higher and holds the path; past TRY 7 the pair
enters ERROR, counted, with EV_QST_PEER_UNREACH. RNR_RESEND makes every segment unsent, TRY one higher; PATH_HOLD_EXPIRY frees the paths whose hold is
over. -/
def Obligations.SegmentsAreSentAndResentUnderTheWindow : Prop :=
  (∀ (s : State) (q : Nat) (x : Qp) (m : SendMsg) (i k : Nat) (sg : SegTx) (p : Fin 8), qpOf s.node q = some x → x.st = 1 → nextSeg x = some (m, i) → m.segs[i]? = some sg →
    (m.key = some k ∨ m.key = none ∧ activeSlot s.node = some k) → linkOf s.node x.peer (nextPath s.tck x) = some (.fp p) →
    ((unackedBytes x = 0 ∨ unackedBytes x + segBytes m.data.length i ≤ x.cwnd) →
      ∃ (N : Node) (g : Seg) (y : Qp), exec (.segmentSend (.qp q [])) s = .next (s.withNode N) ∧ N.out = s.node.out ++ [.segment (.fp p) (dscpOf s.node m.cls) g]
        ∧ (g.op, g.seq, g.off, g.len, g.payload) = (m.op, m.msn, 4096 * i, m.data.length, slice m.data (4096 * i) (segBytes m.data.length i))
        ∧ (g.path, g.try_, g.keyId, g.ts, g.srcQp, g.srcNode) = (nextPath s.tck x, sg.try_, k, s.tck.now % 2 ^ 32, q, nodeId s.node)
        ∧ qpOf N q = some y ∧ (y.lastPath, y.cwnd, y.srtt, y.msn, y.asn) = (nextPath s.tck x, x.cwnd, x.srtt, x.msn, x.asn) ∧ (g.ackNow = true ↔ qpSends y = none))
    ∧ (unackedBytes x ≠ 0 → x.cwnd < unackedBytes x + segBytes m.data.length i → exec (.segmentSend (.qp q [])) s = .next s))
  ∧ (∀ (s : State) (typ peer peerQp cls q : Nat) (data : Bytes) (tag : Option Nat) (x : Qp), data ≠ [] → ownQp s.node (if typ = 2 then 2 else 3) peer = some q → qpOf s.node q = some x → x.sends = [] →
    activeSlot s.node = none → exec (.segmentSend (.node typ peer peerQp cls data tag)) s
      = .next (s.withNode (setQp s.node q { x with sends := [newMsg x.msn 1 data tag 0 0 cls none []], msn := x.msn + 1 })))
  ∧ (∀ (s : State) (l : Link) (g : Seg) (x : Qp) (m : SendMsg), linkUp s.node l = true → g.op = 0x10 → 1 ≤ g.keyId → g.keyId ≤ 63 → rd s.node (Rg.secSlotState g.keyId) ≠ 0 → rd s.node (Rg.secSlotState g.keyId) ≠ 3 →
    qpOf s.node g.dstQp = some x → g.dstQp ∈ s.node.qst.cache → x.peer = g.srcNode → x.peerQp = some g.srcQp → x.st = 1 → x.wrs = [] → x.sends = [m] → (∀ sg ∈ m.segs, sg.sent = true) →
    m.msn < field g.payload 0 6 →
    ∃ (N : Node) (y : Qp) (rtt : Nat), exec (.ack l g true) s = .next (s.withNode N) ∧ qpOf N g.dstQp = some y ∧ y.sends = [] ∧ rtt = (s.tck.now + 2 ^ 32 - field g.payload 48 4 % 2 ^ 32) % 2 ^ 32
      ∧ (y.srtt = (7 * x.srtt + rtt) / 8 ∨ y.srtt = (7 * x.srtt + rtt) / 8 + 1)
      ∧ (s.tck.now < x.epochStart + y.srtt → y.cwnd = x.cwnd)
      ∧ (x.epochStart + y.srtt ≤ s.tck.now → x.epochCe = 0 → field g.payload 14 2 = 0 → rtt ≤ rd s.node Rg.qstCcCfgTarget * 400 →
          y.cwnd = min (rd s.node Rg.qstCcCfgWmax * 65536) (x.cwnd + rd s.node Rg.qstCcCfgAi * 4096)))
  ∧ (∀ (s : State) (q : BitVec 20) (x : Qp) (m : SendMsg) (msn i : Nat) (sg : SegTx), qpOf s.node q.toNat = some x → x.st = 1 → x.sends.find? (·.msn == msn) = some m → m.segs[i]? = some sg → sg.sent = true → sg.acked = false →
    sg.at_ + max (2 * x.srtt) (rd s.node Rg.qstRtxCfgRtoMin * unitsPerNotch s.tck.cur) * 2 ^ sg.try_ ≤ s.tck.now →
    (7 ≤ sg.try_ → x.wrs = [] → ∃ (N : Node) (y : Qp), exec (.rtoExpiry q msn i) s = .next (s.withNode N) ∧ qpOf N q.toNat = some y ∧ y.st = 2 ∧ y.sends = []
      ∧ N.svc.arrivals.map (·.code) = s.node.svc.arrivals.map (·.code) ++ [evQstPeerUnreach] ∧ rd N Rg.qstQpErrCount = satTo 32 (rd s.node Rg.qstQpErrCount + 1))
    ∧ (∀ (k : Nat) (p : Fin 8), sg.try_ < 7 → m.key = some k → linkOf s.node x.peer (nextPath s.tck (holdPath s.tck s.node x sg.path)) = some (.fp p) →
      ∃ (N : Node) (g : Seg) (y : Qp), exec (.rtoExpiry q msn i) s = .next (s.withNode N) ∧ N.out = s.node.out ++ [.segment (.fp p) (dscpOf s.node m.cls) g]
        ∧ (g.seq, g.off, g.try_, g.keyId, g.path) = (msn, 4096 * i, sg.try_ + 1, k, nextPath s.tck (holdPath s.tck s.node x sg.path))
        ∧ g.payload = slice m.data (4096 * i) (segBytes m.data.length i) ∧ rd N Rg.qstRetxCount = satTo 32 (rd s.node Rg.qstRetxCount + 1)
        ∧ qpOf N q.toNat = some y ∧ y.bad = (holdPath s.tck s.node x sg.path).bad))
  ∧ (∀ (s : State) (q : BitVec 20) (x : Qp) (m : SendMsg) (msn a : Nat), qpOf s.node q.toNat = some x → x.st = 1 → x.sends.find? (·.msn == msn) = some m → m.rnrAt = some a → a ≤ s.tck.now → (∀ sg ∈ m.segs, sg.try_ < 7) →
    exec (.rnrResend q msn) s = .next (s.withNode (setQp s.node q.toNat (modMsg x msn fun y => { y with rnrAt := none, segs := y.segs.map fun sg => ⟨false, false, 0, 0, sg.try_ + 1, 0, 0⟩ }))))
  ∧ ∀ (s : State) (q : BitVec 20) (x : Qp), qpOf s.node q.toNat = some x →
    ∃ N : Node, exec (.pathHoldExpiry q) s = .next (s.withNode N) ∧ qpOf N q.toNat = some { x with bad := x.bad.filter fun e => s.tck.tick < e.2 }

/-- A good segment is placed by offset at once or when its context is fetched; a wrong one draws a NACK; ACKs go out on time; a NACK acts; failed pairs
renew: For every node and READY queue pair. SEGMENT_RECEIVE of a WRITE segment of a message with more to come, in the window, whose key names a region
of the pair's domain with REMOTE_WRITE that covers the message, writes its bytes in host memory and sets its bit, sending nothing before ACK_SEGS; a
key that fails draws NACK KEY, a range outside the region NACK RANGE, and nothing is written; a packet whose tag fails is counted and discarded; one
whose context is not cached waits while it is fetched, and QP_CONTEXT_FETCHED places it then. The last segment of a message to a NODE pair delivers
the message, advances BASE and sends an ACK of class 0. ACK_DELAY sends the ACK once the first segment not acknowledged is old enough. NACK RNR sets
the message aside for one tick; every other reason puts the pair in ERROR and counts it. QP_REPLACEMENT gives a node pair in ERROR way to a new one
toward the same peer, its number held while a key slot is in use. -/
def Obligations.SegmentsArePlacedRefusedAndAcknowledged : Prop :=
  (∀ (s : State) (l : Link) (g : Seg) (x : Qp), g.op = 2 → qpOf s.node g.dstQp = some x → x.st = 1 → x.peer = g.srcNode → x.peerQp = some g.srcQp → x.base ≤ g.seq → g.seq < x.base + 16 →
    x.recvs.find? (·.msn == g.seq) = none → g.off % 4096 = 0 → g.off < g.len → 4096 < g.len → g.len ≤ 1048576 → g.payload.length = min 4096 (g.len - g.off) →
    (∀ r : Mr, regionOf s.node g.rkey = some r → r.pd = x.pd → bitAt r.access 0 = true → r.covers g.raddr g.len = true → r.space = 0 → g.ackNow = false → x.since + 1 < rd s.node Rg.qstRtxCfgAckSegs →
      (linkUp s.node l = true → 1 ≤ g.keyId → g.keyId ≤ 63 → rd s.node (Rg.secSlotState g.keyId) ≠ 0 → rd s.node (Rg.secSlotState g.keyId) ≠ 3 → g.dstQp ∈ s.node.qst.cache →
        ∃ (N : Node) (y : Qp), exec (.segmentReceive l g true) s = .next (s.withNode N) ∧ N.hmem = Mem.write 0 s.node.hmem (hostKey (reqSpace r.owner) (g.raddr + g.off)) g.payload ∧ N.out = s.node.out
          ∧ qpOf N g.dstQp = some y ∧ y.recvs = x.recvs.filter (·.msn != g.seq) ++ [⟨g.seq, 2, g.len, if g.tagged then some g.tag else none, g.rkey, g.raddr, [g.off / 4096], none, [], false⟩]
          ∧ (y.base, y.since, y.asn) = (x.base, x.since + 1, x.asn))
      ∧ (∀ q : BitVec 20, q.toNat = g.dstQp → s.node.qst.waiting.filter (fun w => w.2.dstQp == q.toNat) = [(l, g)] →
        ∃ (N : Node) (y : Qp), exec (.qpContextFetched q) s = .next (s.withNode N) ∧ N.hmem = Mem.write 0 s.node.hmem (hostKey (reqSpace r.owner) (g.raddr + g.off)) g.payload ∧ N.out = s.node.out
          ∧ qpOf N g.dstQp = some y ∧ y.recvs = x.recvs.filter (·.msn != g.seq) ++ [⟨g.seq, 2, g.len, if g.tagged then some g.tag else none, g.rkey, g.raddr, [g.off / 4096], none, [], false⟩]
          ∧ N.qst.waiting = s.node.qst.waiting.filter (fun w => w.2.dstQp != q.toNat) ∧ N.qst.fetching = s.node.qst.fetching.filter (· != q.toNat)
          ∧ (s.node.qst.cache.length < 65536 → g.dstQp ∈ N.qst.cache)))
    ∧ (∀ (k : Nat) (p : Fin 8) (reason : Nat), linkUp s.node l = true → 1 ≤ g.keyId → g.keyId ≤ 63 → rd s.node (Rg.secSlotState g.keyId) ≠ 0 → rd s.node (Rg.secSlotState g.keyId) ≠ 3 → g.dstQp ∈ s.node.qst.cache →
      ackSlot s.node = some k → linkOf s.node g.srcNode (g.path % max x.paths 1) = some (.fp p) →
      (reason = 1 ∧ (∀ r : Mr, regionOf s.node g.rkey = some r → r.pd ≠ x.pd ∨ bitAt r.access 0 = false)
        ∨ reason = 2 ∧ ∃ r : Mr, regionOf s.node g.rkey = some r ∧ r.pd = x.pd ∧ bitAt r.access 0 = true ∧ r.covers g.raddr g.len = false) →
      ∃ (N : Node) (h : Seg), exec (.segmentReceive l g true) s = .next (s.withNode N) ∧ N.out = s.node.out ++ [.segment (.fp p) (dscpOf s.node 0) h] ∧ (h.op, h.seq, h.keyId, h.dstQp) = (0x11, x.asn, k, g.srcQp)
        ∧ h.payload = leBytes 6 g.seq ++ leBytes 1 reason ++ [0] ++ leBytes 4 g.off ∧ N.hmem = s.node.hmem ∧ N.t1 = s.node.t1 ∧ qpOf N g.dstQp = some { x with asn := x.asn + 1 }))
  ∧ (∀ (s : State) (p : Fin 8) (g : Seg), linkUp s.node (.fp p) = true → (g.op = 1 ∨ g.op = 2) → 1 ≤ g.keyId → g.keyId ≤ 63 → rd s.node (Rg.secSlotState g.keyId) ≠ 0 → rd s.node (Rg.secSlotState g.keyId) ≠ 3 →
    (∃ N : Node, exec (.segmentReceive (.fp p) g false) s = .next (s.withNode N) ∧ rd N Rg.qstRxDropAuth = satTo 16 (rd s.node Rg.qstRxDropAuth + 1) ∧ N.qst = s.node.qst ∧ N.out = s.node.out ∧ N.hmem = s.node.hmem ∧ N.t1 = s.node.t1)
    ∧ ((qpOf s.node g.dstQp).isSome = true → g.dstQp ∉ s.node.qst.cache → missBytes s.node (.fp p) + segLen g ≤ 65536 →
      ∃ N : Node, exec (.segmentReceive (.fp p) g true) s = .next (s.withNode N) ∧ N.qst.waiting = s.node.qst.waiting ++ [(.fp p, g)] ∧ g.dstQp ∈ N.qst.fetching ∧ N.qst.qps = s.node.qst.qps
        ∧ rd N Rg.qstQpMissCount = (if g.dstQp ∈ s.node.qst.fetching then rd s.node Rg.qstQpMissCount else satTo 32 (rd s.node Rg.qstQpMissCount + 1))))
  ∧ (∀ (s : State) (l : Link) (g : Seg) (x : Qp) (k : Nat) (p : Fin 8), linkUp s.node l = true → g.op = 1 → 1 ≤ g.keyId → g.keyId ≤ 63 → rd s.node (Rg.secSlotState g.keyId) ≠ 0 → rd s.node (Rg.secSlotState g.keyId) ≠ 3 →
    qpOf s.node g.dstQp = some x → g.dstQp ∈ s.node.qst.cache → x.st = 1 → x.peer = g.srcNode → x.peerQp = some g.srcQp → x.typ = 3 → x.inOrder = false → x.recvs = [] → g.seq = x.base → g.off = 0 → 1 ≤ g.len → g.len ≤ 4096 →
    g.payload.length = g.len → g.tagged = false → ackSlot s.node = some k → linkOf s.node g.srcNode (g.path % max x.paths 1) = some (.fp p) →
    ∃ (N : Node) (h : Seg) (y : Qp), exec (.segmentReceive l g true) s = .next (s.withNode N) ∧ N.out = s.node.out ++ [.nodeMsg g.dstQp g.payload, .segment (.fp p) (dscpOf s.node 0) h] ∧ (h.op, h.seq, h.keyId) = (0x10, x.asn, k)
      ∧ field h.payload 0 6 = (x.base + 1) % 2 ^ 48 ∧ qpOf N g.dstQp = some y ∧ (y.base, y.asn, y.recvs, y.since) = (x.base + 1, x.asn + 1, [], 0))
  ∧ (∀ (s : State) (q : BitVec 20) (x : Qp) (a msn ts path k : Nat) (p : Fin 8), qpOf s.node q.toNat = some x → x.first = some (a, msn, ts, path) → a + rd s.node Rg.qstRtxCfgAckDelay * unitsPerNotch s.tck.cur ≤ s.tck.now →
    ackSlot s.node = some k → linkOf s.node x.peer (path % max x.paths 1) = some (.fp p) →
    ∃ (N : Node) (h : Seg), exec (.ackDelay q) s = .next (s.withNode N) ∧ N.out = s.node.out ++ [.segment (.fp p) (dscpOf s.node 0) h] ∧ (h.op, h.seq, h.keyId, h.payload) = (0x10, x.asn, k, ackBody x msn ts)
      ∧ qpOf N q.toNat = some { x with asn := x.asn + 1, since := 0, ce := 0, first := none })
  ∧ (∀ (s : State) (l : Link) (g : Seg) (x : Qp), linkUp s.node l = true → g.op = 0x11 → 1 ≤ g.keyId → g.keyId ≤ 63 → rd s.node (Rg.secSlotState g.keyId) ≠ 0 → rd s.node (Rg.secSlotState g.keyId) ≠ 3 →
    qpOf s.node g.dstQp = some x → g.dstQp ∈ s.node.qst.cache → x.peer = g.srcNode → x.peerQp = some g.srcQp → x.st = 1 →
    (byteAt g.payload 6 = 4 → ∃ N : Node, exec (.nack l g true) s = .next (s.withNode N)
      ∧ qpOf N g.dstQp = some (modMsg x (field g.payload 0 6) fun m => if m.rnrAt.isSome then m else { m with rnrAt := some (s.tck.now + unitsPerTick s.tck.cur) }))
    ∧ (byteAt g.payload 6 ∈ [1, 2, 3, 5, 6] → x.wrs = [] → ∃ (N : Node) (y : Qp), exec (.nack l g true) s = .next (s.withNode N) ∧ qpOf N g.dstQp = some y ∧ y.st = 2 ∧ y.sends = []
      ∧ rd N Rg.qstQpErrCount = satTo 32 (rd s.node Rg.qstQpErrCount + 1)))
  ∧ ∀ (s : State) (q : BitVec 20) (x : Qp) (peerQp : Option Nat) (k : Nat), qpOf s.node q.toNat = some x → 2 ≤ x.typ → x.st = 2 → x.errTick < s.tck.tick → freeQpn (dropQp s.node q.toNat) = some k →
    ∃ (N : Node) (y : Qp), exec (.qpReplacement q peerQp) s = .next (s.withNode N) ∧ qpOf N k = some y ∧ (y.typ, y.peer, y.peerQp, y.paths, y.msn, y.asn, y.base) = (x.typ, x.peer, peerQp, x.paths, 1, 1, 1)
      ∧ y.cwnd = rd s.node Rg.qstCcCfgInit * 4096 ∧ (k ≠ q.toNat → qpOf N q.toNat = none) ∧ ((∃ j, 1 ≤ j ∧ j ≤ 63 ∧ rd s.node (Rg.secSlotState j) ≠ 0) → k ≠ q.toNat ∧ mhas N.qst.held q.toNat = true)

/-- A send doorbell starts the next work request, heads release entries, a wrong doorbell is counted; a posted chain fires at its threshold or expires:
For every node whose registers take writes and every HOST queue pair its owner or the management path may use: SEND_TAIL one past the last request
read reads it from the send queue; a SEND or WRITE free of field errors becomes the pair's next message with the bytes of its local region, a NOP
without SIGNAL is complete at once. RECEIVE_HEAD releases slots up to a head no further than those taken, COMPLETION_HEAD entries no further than
those posted. A doorbell from another requester, or whose count breaks the rule, changes nothing but QST_DB_ERR.BAD. TRIGGER_POST with no offending
field posts the chain at count 0 with the work requests copied at its acceptance, and keeps the command running. TRIGGERED_CHAIN_FIRE of a chain at its
threshold marks it fired and starts its one work request; CHAIN_EXPIRE at tick A + EXPIRE takes the unfired chain away and completes its command with
ST_DEADLINE and the counter. -/
def Obligations.WorkRequestsStartAndChainsFireOrExpire : Prop :=
  (∀ (s : State) (q : BitVec 20) (count : Word) (src : Req) (x : Qp), Writable s.node → qpOf s.node q.toNat = some x → mayUse x.owner src = true →
    (∀ (r : Mr) (w : Bytes), x.sqLog2 ≠ 0 → x.st ≠ 2 → x.wrs = [] → x.sqDone = x.sqTail → count.toNat = (x.sqTail + 1) % 2 ^ 32 → x.sqTail < 2 ^ 32 → regionOf s.node x.sqKey = some r →
      w = mrRead s.node r (x.sqAddr + x.sqTail % 2 ^ x.sqLog2 * 64) 64 → wrOk s.node x w = true →
      (∀ l : Mr, (byteAt w 0 = 1 ∨ byteAt w 0 = 2) → regionOf s.node (field w 8 4) = some l → ∃ (N : Node) (y : Qp), exec (.sendTail q count src) s = .next (s.withNode N) ∧ N.out = s.node.out ∧ qpOf N q.toNat = some y
        ∧ (y.sqTail, y.sqDone, y.msn) = (count.toNat, x.sqDone, x.msn + 1)
        ∧ y.sends = x.sends ++ [newMsg x.msn (byteAt w 0) (mrRead s.node l (field w 16 8) (field w 4 4)) (if bitAt (byteAt w 1) 1 then some (field w 32 8) else none) (field w 12 4) (field w 24 8) x.svc (some x.wrNext)
            (mrPoison s.node l (field w 16 8) (field w 4 4))])
      ∧ (byteAt w 0 = 0x0F → bitAt (byteAt w 1) 0 = false → ∃ (N : Node) (y : Qp), exec (.sendTail q count src) s = .next (s.withNode N) ∧ N.out = s.node.out ∧ qpOf N q.toNat = some y
        ∧ (y.sqTail, y.sqDone, y.wrs, y.sends, y.msn) = (count.toNat, count.toNat, [], x.sends, x.msn)))
    ∧ (x.rqLog2 ≠ 0 → (count.toNat + 2 ^ 32 - x.rqHead) % 2 ^ 32 ≤ (x.rqTaken + 2 ^ 32 - x.rqHead) % 2 ^ 32 → exec (.receiveHead q count src) s = .next (s.withNode (setQp s.node q.toNat { x with rqHead := count.toNat })))
    ∧ (x.cqLog2 ≠ 0 → x.cplq = [] → (count.toNat + 2 ^ 32 - x.cqHead) % 2 ^ 32 ≤ (x.cqPosted + 2 ^ 32 - x.cqHead) % 2 ^ 32 →
      exec (.completionHead q count src) s = .next (s.withNode (setQp s.node q.toNat { x with cqHead := count.toNat })))
    ∧ ((x.rqLog2 = 0 ∨ (x.rqTaken + 2 ^ 32 - x.rqHead) % 2 ^ 32 < (count.toNat + 2 ^ 32 - x.rqHead) % 2 ^ 32) → exec (.receiveHead q count src) s = .next (s.withNode (bump s.node Rg.qstDbErrBad 1))))
  ∧ (∀ (s : State) (q : BitVec 20) (count : Word) (src : Req) (i : Instr), Writable s.node → (∀ x : Qp, qpOf s.node q.toNat = some x → mayUse x.owner src = false) →
    i ∈ [.sendTail q count src, .receiveHead q count src, .completionHead q count src] → exec i s = .next (s.withNode (bump s.node Rg.qstDbErrBad 1)))
  ∧ (∀ (s : State) (h : Word) (c : Cmd) (x : Qp), Runs s.node h opTriggerPost c → triggerOffs s.node c = [] → qpOf s.node (c.f 36 4) = some x → x.typ < 2 →
    ∃ N : Node, exec (.triggerPost h) s = .next (s.withNode N) ∧ findCmd N h.toNat = some { c with stage := .running }
      ∧ N.cfl.hosts = s.node.cfl.hosts ++ [⟨h.toNat, c.f 36 4, c.f 24 8, c.f 32 4, 0, c.wrs,
          c.accTick + (if c.f 52 4 = 0 then rd s.node Rg.cmdHorizonDeadlineDef else c.f 52 4), false, c.f 40 2⟩])
  ∧ (∀ (s : State) (h : Word) (c : HostChain) (w : Bytes) (x : Qp) (l : Mr), s.node.cfl.hosts.find? (·.handle == h.toNat) = some c → c.fired = false → c.threshold ≤ c.count → c.wrs = [w] → qpOf s.node c.qp = some x → x.st ≠ 2 →
    x.wrs = [] → wrOk s.node x w = true → (byteAt w 0 = 1 ∨ byteAt w 0 = 2) → regionOf s.node (field w 8 4) = some l →
    ∃ (N : Node) (y : Qp), exec (.triggeredChainFire h) s = .next (s.withNode N) ∧ N.cfl.hosts = lmodify s.node.cfl.hosts (·.handle == h.toNat) (fun z => { z with fired := true }) ∧ qpOf N c.qp = some y ∧ y.msn = x.msn + 1
      ∧ y.sends = x.sends ++ [newMsg x.msn (byteAt w 0) (mrRead s.node l (field w 16 8) (field w 4 4)) (if bitAt (byteAt w 1) 1 then some (field w 32 8) else none) (field w 12 4) (field w 24 8) x.svc (some x.wrNext)
          (mrPoison s.node l (field w 16 8) (field w 4 4))])
  ∧ ∀ (s : State) (h : Word) (c : HostChain), s.node.cfl.hosts.find? (·.handle == h.toNat) = some c → c.fired = false → c.count < c.threshold → c.expire ≤ s.tck.tick →
    exec (.chainExpire h) s = .next (s.withNode (complete s.tck { s.node with cfl := { s.node.cfl with hosts := s.node.cfl.hosts.filter (·.handle != h.toNat) } } h.toNat stDeadline (leBytes 4 c.count)))

/-- The mailbox allocates the lowest free domain, region key or pair, connects and destroys pairs, refuses what it must, and is shut during tenant
removal: For every node whose registers take writes. While the tenant is FENCING or ERASING each operation answers ST_DENIED and changes no object.
Otherwise: ALLOC_PD takes the lowest free domain below 4,096, or answers ST_BAD_PARAM; FREE_PD frees a domain of the requester's without members,
answers ST_BAD_PARAM for one with members or none, ST_NOT_OWNER for another's; REG_MR of a good descriptor in the requester's domain, over frames the
tenant holds, issues the key of a free index and a new generation; DEREG_MR ends the region its key names; CREATE_QP of a good descriptor over the
requester's domain and regions makes a pair with INIT window, MSN and ASN 1, READY when the peer is known; CONNECT_QP makes a RESET pair READY;
DESTROY_QP takes an idle pair away and holds its number while a key slot is in use. Each returns its value in word 0 and its status in RESULT. -/
def Obligations.ObjectsAreCreatedUsedAndDestroyed : Prop :=
  (∀ (s : State) (src : Req) (i : Instr), Writable s.node → (tenantState s.node = tsFencing ∨ tenantState s.node = tsErasing) → i ∈ [.allocPd src, .freePd src, .regMr src, .deregMr src, .createQp src, .connectQp src, .destroyQp src] →
    exec i s = .next (s.withNode (wr s.node Rg.qstObjStatusResult stDenied)))
  ∧ ∀ (s : State) (src : Req) (a : Bytes), Writable s.node → tenantState s.node ≠ tsFencing → tenantState s.node ≠ tsErasing → a = objArgs s.node →
    (∀ k : Nat, k < 4096 → mhas s.node.qst.pds k = false → (∀ j, j < k → mhas s.node.qst.pds j = true) → ∃ N : Node, exec (.allocPd src) s = .next (s.withNode N) ∧ N.qst = { s.node.qst with pds := mset s.node.qst.pds k src }
      ∧ rd N Rg.qstObjStatusResult = stOk ∧ rd N (Rg.qstObjArgArg 0) = k)
    ∧ ((∀ k, k < 4096 → mhas s.node.qst.pds k = true) → exec (.allocPd src) s = .next (s.withNode (wr s.node Rg.qstObjStatusResult stBadParam)))
    ∧ (mget? s.node.qst.pds (field a 0 4) = none → exec (.freePd src) s = .next (s.withNode (wr s.node Rg.qstObjStatusResult stBadParam)))
    ∧ (∀ o : Req, mget? s.node.qst.pds (field a 0 4) = some o →
      (mayUse o src = false → exec (.freePd src) s = .next (s.withNode (wr s.node Rg.qstObjStatusResult stNotOwner)))
      ∧ (mayUse o src = true → (∀ e ∈ s.node.qst.qps, e.2.typ < 2 → e.2.pd ≠ field a 0 4) → (∀ e ∈ s.node.qst.mrs, e.2.pd ≠ field a 0 4) → ∃ N : Node, exec (.freePd src) s = .next (s.withNode N)
          ∧ N.qst = { s.node.qst with pds := mdel s.node.qst.pds (field a 0 4) } ∧ rd N Rg.qstObjStatusResult = stOk)
      ∧ (mayUse o src = true → (∃ e ∈ s.node.qst.mrs, e.2.pd = field a 0 4) → exec (.freePd src) s = .next (s.withNode (wr s.node Rg.qstObjStatusResult stBadParam))))
    ∧ (∀ (o : Req) (k g : Nat), regionOk s.node a src = true → mget? s.node.qst.pds (field a 18 2) = some o → mayUse o src = true →
      (byteAt a 16 = 1 → ∀ f ∈ nameFrames s.node (field a 0 8) (field a 8 8), frameOurs s.node f = true) → freeRegion s.node = some (k, g) → ∃ N : Node, exec (.regMr src) s = .next (s.withNode N)
        ∧ mget? N.qst.mrs k = some ⟨g, field a 0 8, field a 8 8, byteAt a 16, byteAt a 17, field a 18 2, src⟩ ∧ (∀ j, j ≠ k → mget? N.qst.mrs j = mget? s.node.qst.mrs j) ∧ mget? s.node.qst.mrs k = none
        ∧ (∀ g', mget? s.node.qst.gens k = some g' → g = g' + 1) ∧ (k, g) ≠ (0, 0) ∧ rd N Rg.qstObjStatusResult = stOk ∧ rd N (Rg.qstObjArgArg 0) = (k * 256 + g) % 2 ^ 32)
    ∧ (∀ r : Mr, regionOf s.node (field a 0 4) = some r → mayUse r.owner src = true → ∃ N : Node, exec (.deregMr src) s = .next (s.withNode N) ∧ regionOf N (field a 0 4) = none ∧ rd N Rg.qstObjStatusResult = stOk)
    ∧ (∀ (o : Req) (k : Nat), qpDescOk s.node a = true → mget? s.node.qst.pds (field a 2 2) = some o → mayUse o src = true → (byteAt a 10 ≠ 0 → foreignRegion s.node src (field a 16 4) = false) →
      (byteAt a 11 ≠ 0 → foreignRegion s.node src (field a 20 4) = false) → (byteAt a 13 ≠ 0 → foreignRegion s.node src (field a 24 4) = false) → freeQpn s.node = some k →
      ∃ (N : Node) (y : Qp), exec (.createQp src) s = .next (s.withNode N) ∧ qpOf N k = some y ∧ qpOf s.node k = none ∧ mhas s.node.qst.held k = false ∧ (y.typ, y.pd, y.owner, y.peer, y.paths, y.svc) = (byteAt a 15, field a 2 2, src, field a 0 2, byteAt a 8, byteAt a 14)
        ∧ (y.st, y.peerQp) = (if field a 4 4 = 0xFFFFF then (0, none) else (1, some (field a 4 4))) ∧ (y.msn, y.asn, y.base, y.cwnd, y.srtt) = (1, 1, 1, rd s.node Rg.qstCcCfgInit * 4096, rd s.node Rg.qstCcCfgTarget * 400)
        ∧ (y.sqLog2, y.sqKey, y.sqAddr, y.rqLog2, y.slotLog2, y.rqKey, y.rqAddr, y.cqLog2, y.cqKey, y.cqAddr, y.msix)
          = (byteAt a 10, field a 16 4, field a 32 8, byteAt a 11, byteAt a 12, field a 20 4, field a 40 8, byteAt a 13, field a 24 4, field a 48 8, field a 28 2)
        ∧ rd N Rg.qstObjStatusResult = stOk ∧ rd N (Rg.qstObjArgArg 0) = k % 2 ^ 32)
    ∧ (∀ x : Qp, qpOf s.node (field a 0 4) = some x → x.typ < 2 → mayUse x.owner src = true →
      (x.st = 0 → field a 4 4 < 0xFFFFF → ∃ (N : Node) (y : Qp), exec (.connectQp src) s = .next (s.withNode N) ∧ qpOf N (field a 0 4) = some y ∧ y.st = 1 ∧ y.peerQp = some (field a 4 4) ∧ y.cwnd = x.cwnd ∧ rd N Rg.qstObjStatusResult = stOk)
      ∧ (x.st ≠ 0 → exec (.connectQp src) s = .next (s.withNode (wr s.node Rg.qstObjStatusResult stBadParam)))
      ∧ (x.wrs = [] → ∃ N : Node, exec (.destroyQp src) s = .next (s.withNode N) ∧ qpOf N (field a 0 4) = none ∧ rd N Rg.qstObjStatusResult = stOk ∧ N.out = s.node.out
          ∧ ((∃ j, 1 ≤ j ∧ j ≤ 63 ∧ rd s.node (Rg.secSlotState j) ≠ 0) → mhas N.qst.held (field a 0 4) = true)))
    ∧ (∀ x : Qp, qpOf s.node (field a 0 4) = some x → (2 ≤ x.typ ∨ mayUse x.owner src = false) → ∀ i ∈ [Instr.connectQp src, Instr.destroyQp src], exec i s = .next (s.withNode (wr s.node Rg.qstObjStatusResult stNotOwner)))

/-- Ports and board links come up when they may, answer for their addresses, discard and count other frames, replay, and go down with their event: For
every node. PORT_UP of a port that may start (enabled, a medium, its module present, not shed, not retraining, start-up past training) sets UP and
takes the prefix of QST_PFX; PORT_DOWN clears it with EV_PORT_DOWN. MODULE_INTERRUPT with a flag records EV_PORT_MODULE and takes the port down;
without one nothing changes; MODULE_INSERTION sets the medium by the identity or rejects it with EV_ID_REJECT. On a port that is up a solicitation or
echo for the node or link-local address is answered, another counted in OTHER; the router's advertisement gives its MAC; Packet Too Big is counted
apart, every other frame in OTHER. On a board link that is up, a frame with the expected LSEQ is acknowledged, its credits returned and its packet
taken, one out of order only returns credits; an acknowledgement frees the replay buffer up to it; a bad CRC asks for a replay and a request resends
from its LSEQ, each counted, the ninth in a tick taking the link down with EV_BL_DOWN. BOARD_LINK_TRAINING accepts a TQ96 of its time domain and
rejects others with EV_BL_PEER_REJECT. -/
def Obligations.PortsAndBoardLinksComeUpAnswerAndGoDown : Prop :=
  (∀ (s : State) (p : Fin 8), 3 ≤ rd s.node Rg.nidBootPhase → rd s.node Rg.nidBootPhase ≠ 0xE → rd s.node (Rg.qstPortCfgEn p) = 1 → rd s.node (Rg.qstPortCfgMedia p) ≠ 3 → p.val ∉ s.node.qst.absent → rd s.node (Rg.qstPortStatusShed p) = 0 →
    rd s.node (Rg.qstPortStatusUp p) = 0 → (∀ r ∈ s.node.svc.recal, r.unit ≠ p.val) →
    ∃ N : Node, exec (.portUp p) s = .next (s.withNode N) ∧ rd N (Rg.qstPortStatusUp p) = 1 ∧ rd N (Rg.qstPortStatusLowpwr p) = 0 ∧ (4, p.val) ∈ N.brd.trained
      ∧ mget? N.qst.pfx p.val = some (rd s.node Rg.qstPfxLoPfx + rd s.node Rg.qstPfxHiPfx * 2 ^ 32) ∧ N.out = s.node.out)
  ∧ (∀ (s : State) (p : Fin 8), rd s.node (Rg.qstPortStatusUp p) = 1 →
    (∃ N : Node, exec (.portDown p) s = .next (s.withNode N) ∧ rd N (Rg.qstPortStatusUp p) = 0 ∧ N.svc.arrivals.map (·.code) = s.node.svc.arrivals.map (·.code) ++ [evPortDown] ∧ N.qst = s.node.qst)
    ∧ (∀ (f : BitVec 16) (gone : Bool), rd s.node (Rg.qstPortCfgMedia p) = 2 → p.val ∉ s.node.qst.absent → ∃ N : Node, exec (.moduleInterrupt p (some f) gone) s = .next (s.withNode N) ∧ rd N (Rg.qstPortStatusUp p) = 0
        ∧ N.svc.arrivals.map (·.code) = s.node.svc.arrivals.map (·.code) ++ [evPortModule, evPortDown] ∧ N.qst.absent = if gone then p.val :: s.node.qst.absent else s.node.qst.absent)
    ∧ (∀ gone : Bool, exec (.moduleInterrupt p none gone) s = .next s)
    ∧ (∀ target : BitVec 128, (target.toNat = nodeAddr s.node p ∨ target.toNat = linkLocal (eui64 (Config.portMac p)) → exec (.neighborSolicitation p target) s = .next (s.withNode (emit s.node (.neighborAdv p target.toNat))))
        ∧ (target.toNat ≠ nodeAddr s.node p → target.toNat ≠ linkLocal (eui64 (Config.portMac p)) → exec (.neighborSolicitation p target) s = .next (s.withNode (bump s.node (Rg.qstPortRxDropOther p) 1))))
    ∧ (∀ (dst src : BitVec 128) (data : Bytes), (dst.toNat = nodeAddr s.node p ∨ dst.toNat = linkLocal (eui64 (Config.portMac p)) → exec (.echoRequest p dst src data) s = .next (s.withNode (emit s.node (.echoReply p src.toNat data))))
        ∧ (dst.toNat ≠ nodeAddr s.node p → dst.toNat ≠ linkLocal (eui64 (Config.portMac p)) → exec (.echoRequest p dst src data) s = .next (s.withNode (bump s.node (Rg.qstPortRxDropOther p) 1))))
    ∧ (∀ (target : BitVec 128) (mac : BitVec 48), target.toNat = linkLocal (rd s.node (Rg.qstPortGwLoIid p) + rd s.node (Rg.qstPortGwHiIid p) * 2 ^ 32) →
        exec (.neighborAdvertisement p target mac) s = .next (s.withNode { s.node with qst := { s.node.qst with mac := mset s.node.qst.mac p mac.toNat } }))
    ∧ (∃ N : Node, exec (.nonQstFrame p .tooBig) s = .next (s.withNode N) ∧ mget? N.qst.tooBig p = some (mgetD s.node.qst.tooBig p 0 + 1) ∧ rd N (Rg.qstPortRxDropOther p) = rd s.node (Rg.qstPortRxDropOther p))
    ∧ ∀ f : BadFrame, f ≠ .tooBig → exec (.nonQstFrame p f) s = .next (s.withNode (bump s.node (Rg.qstPortRxDropOther p) 1)))
  ∧ (∀ (s : State) (p : Fin 8) (copper : Bool), 3 ≤ rd s.node Rg.nidBootPhase → rd s.node Rg.nidBootPhase ≠ 0xE → p.val ∈ s.node.qst.absent →
    (∃ N : Node, exec (.moduleInsertion p copper true) s = .next (s.withNode N) ∧ rd N (Rg.qstPortCfgMedia p) = (if copper then 0 else 2) ∧ p.val ∉ N.qst.absent)
    ∧ ∃ N : Node, exec (.moduleInsertion p copper false) s = .next (s.withNode N) ∧ p.val ∈ N.qst.absent ∧ N.svc.arrivals.map (·.code) = s.node.svc.arrivals.map (·.code) ++ [evIdReject])
  ∧ (∀ (s : State) (b : Fin 6) (vc : BitVec 2) (lseq : BitVec 12) (credits : BitVec 16) (ok : Bool), rd s.node (Rg.qstBlStatusUp b) = 1 →
    (∀ g : Seg, lseq.toNat = (blinkOf s.node b).rx → ∃ M : Node, exec (.qblFrame b vc lseq credits (.qst g) ok) s = .next (s.withNode (arrive s.tck M (.bl b) g ok)) ∧ M.out = s.node.out ++ [.qblAck b lseq.toNat, .qblCredit b vc.toNat (cdiv (segLen g) 256)]
        ∧ (blinkOf M b).rx = ((blinkOf s.node b).rx + 1) % 4096 ∧ (blinkOf M b).waiting = false)
    ∧ (∀ body : QblBody, (body = .credit ∨ ∃ g, body = .qst g ∧ lseq.toNat ≠ (blinkOf s.node b).rx) → ∃ N : Node, exec (.qblFrame b vc lseq credits body ok) s = .next (s.withNode N) ∧ N.out = s.node.out
        ∧ mget? (blinkOf N b).credits vc.toNat = some (mgetD (blinkOf s.node b).credits vc.toNat 256 + credits.toNat) ∧ (blinkOf N b).rx = (blinkOf s.node b).rx)
    ∧ (∀ k : Nat, ∃ N : Node, exec (.qblFrame b vc lseq credits (.ack k) ok) s = .next (s.withNode N) ∧ N.out = s.node.out ∧ (blinkOf N b).buf = (blinkOf s.node b).buf.dropWhile fun e => decide ((k + 4096 - e.1) % 4096 < 2048))
    ∧ (∀ asked : Option Nat, ((blinkOf s.node b).replTick ≠ s.tck.tick ∨ (blinkOf s.node b).replCount < 8) → ∃ N : Node, exec (.qblReplay b asked) s = .next (s.withNode N) ∧ rd N (Rg.qstBlStatusReplays b) = satTo 16 (rd s.node (Rg.qstBlStatusReplays b) + 1)
        ∧ rd N (Rg.qstBlStatusUp b) = 1 ∧ N.out = s.node.out ++ (match asked with
          | none => [.qblReplay b (blinkOf s.node b).rx]
          | some k => ((blinkOf s.node b).buf.dropWhile fun e => decide (e.1 ≠ k % 4096)).map fun e => .qblFrame b e.2.1 e.1 e.2.2))
    ∧ (∀ asked : Option Nat, (blinkOf s.node b).replTick = s.tck.tick → 8 ≤ (blinkOf s.node b).replCount → ∃ N : Node, exec (.qblReplay b asked) s = .next (s.withNode N) ∧ rd N (Rg.qstBlStatusUp b) = 0
        ∧ N.svc.arrivals.map (·.code) = s.node.svc.arrivals.map (·.code) ++ [evBlDown] ∧ N.out = s.node.out)
    ∧ ∃ N : Node, exec (.boardLinkDown b) s = .next (s.withNode N) ∧ rd N (Rg.qstBlStatusUp b) = 0 ∧ N.svc.arrivals.map (·.code) = s.node.svc.arrivals.map (·.code) ++ [evBlDown] ∧ (blinkOf N b).buf = [] ∧ (3, b.val) ∉ N.brd.trained)
  ∧ ∀ (s : State) (b : Fin 6) (node domain : Nat) (tq : Bool), rd s.node (Rg.qstBlStatusUp b) = 0 → 3 ≤ rd s.node Rg.nidBootPhase → rd s.node Rg.nidBootPhase ≠ 0xE → (blinkOf s.node b).retrained = false → (∀ r ∈ s.node.svc.recal, r.unit ≠ 8 + b.val) →
    (tq = true → domain = rd s.node Rg.nidNodeDomain → ∃ N : Node, exec (.boardLinkTraining b (some (node, domain, tq))) s = .next (s.withNode N) ∧ rd N (Rg.qstBlStatusUp b) = 1 ∧ rd N (Rg.qstBlStatusPeer b) = node % 2 ^ 13 ∧ (3, b.val) ∈ N.brd.trained)
    ∧ ((tq = false ∨ domain ≠ rd s.node Rg.nidNodeDomain) → ∃ N : Node, exec (.boardLinkTraining b (some (node, domain, tq))) s = .next (s.withNode N) ∧ rd N (Rg.qstBlStatusUp b) = 0
        ∧ N.svc.arrivals.map (·.code) = s.node.svc.arrivals.map (·.code) ++ [evBlPeerReject])

/-- A command with FENCE set changes nothing while a command accepted earlier on its ring is outstanding; commands of other rings do not hold it: For
every command of the table that carries out a dispatched entry, and every state in which its handle names a dispatched entry that has taken no frame:
while FENCE is set and a command accepted earlier on the same submission ring has not posted its completion, the command leaves the state as it is;
and the fence is satisfied in exactly the states in which FENCE is not set or no command accepted earlier on that ring is outstanding, whatever other
rings hold. -/
def Obligations.FencedCommandsWaitForTheirRing : Prop :=
  ∀ (i : Instr) (op h : Nat), opcodeOf i = some (op, h) → ∀ (s : State) (c : Cmd), findCmd s.node h = some c → c.stage = .dispatched → (∀ j ∈ s.node.bsu.owns, j.handle ≠ h) →
    (bitAt (c.f 1 1) 0 = true → (∃ d ∈ s.node.fe.cmds, d.ring = c.ring ∧ d.seq < c.seq) → exec i s = .next s)
    ∧ (fenceOk s.node c = true ↔ (bitAt (c.f 1 1) 0 = true → ∀ d ∈ s.node.fe.cmds, d.ring = c.ring → c.seq ≤ d.seq))

/-- The head with the least finish tag goes to its executor, and each tick boundary latches every queue's rate, statistics and credit: For every state and
credits of the two executors: the command dispatched is a head of a queue whose executor has a credit, none of these heads has a smaller tag, virtual
time becomes its tag, and the command is at its executor; an opcode outside the table completes at once with ST_BAD_OPCODE, a timed command whose
deadline tick has ended with ST_DEADLINE. With no such head nothing changes. SCHEDULER_TICK_LATCH: every queue's rate moves toward 16 times the CU
dispatched by a sixteenth of the difference rounded up, its count of CU starts again at 0, and an empty queue gains a sixteenth of its burst credit up
to the whole; commands, rings and tags are as before. -/
def Obligations.TheLeastTagIsDispatchedFirst : Prop :=
  ∀ (s : State),
    (∀ (hw fw : Bool) (c : Cmd), chosenHead s.node hw fw = some c → findCmd s.node c.handle = some c →
      c ∈ heads s.node hw fw ∧ (∀ d ∈ heads s.node hw fw, c.tag ≤ d.tag)
      ∧ (opcodes.contains c.op = true → (timed c.op = true → s.tck.tick ≤ c.deadline) →
        ∃ (t : State) (d : Cmd), exec (.dispatch hw fw) s = .next t ∧ findCmd t.node c.handle = some d ∧ d.stage = .dispatched ∧ d.entry = c.entry ∧ d.seq = c.seq ∧ t.node.sch.v = c.tag
          ∧ t.node.fe.cmds.length = s.node.fe.cmds.length ∧ t.tck = s.tck)
      ∧ (opcodes.contains c.op = false → exec (.dispatch hw fw) s = .next (s.withNode (complete s.tck (takeHead s.tck s.node c) c.handle stBadOpcode [])))
      ∧ (opcodes.contains c.op = true → timed c.op = true → c.deadline < s.tck.tick →
        exec (.dispatch hw fw) s = .next (s.withNode (complete s.tck (takeHead s.tck s.node c) c.handle stDeadline (attEnd (takeHead s.tck s.node c) c)))))
    ∧ (∀ hw fw : Bool, heads s.node hw fw = [] → exec (.dispatch hw fw) s = .next s)
    ∧ ∃ t : State, exec .schedulerTickLatch s = .next t ∧ t.node.fe = s.node.fe ∧ t.node.sch.v = s.node.sch.v ∧ t.tck = s.tck
      ∧ ∀ q : Nat, q < 80 → (schQ t.node q).rate = newRate (schQ s.node q).rate (schQ s.node q).disp ∧ (schQ t.node q).disp = 0 ∧ (schQ t.node q).delay = 0 ∧ (schQ t.node q).fin = (schQ s.node q).fin
        ∧ (schQ t.node q).credit = if queued s.node q = [] then min (rd s.node (Rg.schQCfgBurst q)) ((schQ s.node q).credit + rd s.node (Rg.schQCfgBurst q) / 16) else (schQ s.node q).credit

/-- Keepers promise and accept by ballot, the coordinator proposes at notch 0 and commits with a majority, and every node holds and forwards the commit:
For every node. PREPARE promises the greater of the ballot and the promise and answers with it; a keeper that may coordinate begins with a ballot
above its promise that carries its node ID. A promise above the ballot ends coordination; promises are counted once each, and the majority's last
makes the coordinator ready, which proposes again an epoch reported as accepted. ACCEPT of a ballot not below the promise for the next epoch is
accepted, of one below refused. Changes gather at the coordinator and go at notch 0 as the next epoch to every keeper. Acceptances are counted once;
the majority's last commits: COMMIT goes to the other keepers, and the node holds the map that the changes give. COMMIT of the next epoch installs
that map, shows it in MAP_EPOCH, counts it, notes the tick and forwards it to the node's children of the tree, where it asks nothing else of the node.
Missing epochs are fetched from a keeper, and those asked for are sent. -/
def Obligations.KeepersAgreeOnEachEpochAndNodesHoldIt : Prop :=
  (∀ (s : State) (b : Nat), nodeId s.node ∈ s.node.map.map.keepers → ∃ N : Node, exec (.prepare (.receive b)) s = .next (s.withNode N) ∧ N.map = { s.node.map with promised := max s.node.map.promised b }
      ∧ N.out = s.node.out ++ [.promise (b % 8192) ⟨nodeId s.node, max s.node.map.promised b, epochOf s.node, match s.node.map.accepted with | some a => if epochOf s.node < a.epoch then some a else none | none => none⟩])
  ∧ (∀ s : State, s.node.map.ballot = none → mayCoordinate s.tck s.node = true → ∃ (N : Node) (b : Nat), exec (.prepare .begin_) s = .next (s.withNode N) ∧ N.map.ballot = some b ∧ s.node.map.promised < b ∧ b % 8192 = nodeId s.node
      ∧ N.map.ready = false ∧ rd N Rg.mapStatusCoord = 1 ∧ N.out = s.node.out ++ s.node.map.map.keepers.map fun k => .prepare k b)
  ∧ (∀ (s : State) (p : Promise) (b : Nat), s.node.map.ballot = some b →
      (b < p.ballot → ∃ N : Node, exec (.keeperPromise p) s = .next (s.withNode N) ∧ N.map.ballot = none ∧ N.map.promised = max s.node.map.promised p.ballot ∧ rd N Rg.mapStatusCoord = 0)
      ∧ (p.ballot = b → p.node ∈ s.node.map.map.keepers → p.node ∉ s.node.map.promises → s.node.map.ready = false → ∃ N : Node, exec (.keeperPromise p) s = .next (s.withNode N) ∧ N.map.promises = s.node.map.promises ++ [p.node]
          ∧ (s.node.map.promises.length + 1 < s.node.map.map.keepers.length / 2 + 1 → N.map.ready = false ∧ N.out = s.node.out)
          ∧ (s.node.map.map.keepers.length / 2 + 1 ≤ s.node.map.promises.length + 1 → N.map.ready = true ∧ (s.node.map.reported = [] → ∀ a : Accepted, p.accepted = some a → a.epoch = epochOf s.node + 1 →
              N.map.inflight = some { a with ballot := b } ∧ N.out = s.node.out ++ s.node.map.map.keepers.map fun k => .accept k { a with ballot := b }))))
  ∧ (∀ (s : State) (a : Accepted), nodeId s.node ∈ s.node.map.map.keepers →
      (s.node.map.promised ≤ a.ballot → a.epoch = epochOf s.node + 1 → ∃ N : Node, exec (.accept a) s = .next (s.withNode N) ∧ N.map = { s.node.map with promised := a.ballot, accepted := some a }
          ∧ N.out = s.node.out ++ [.accepted (a.ballot % 8192) (nodeId s.node) a.ballot a.epoch true])
      ∧ (a.ballot < s.node.map.promised → exec (.accept a) s = .next (s.withNode (emit s.node (.accepted (a.ballot % 8192) (nodeId s.node) s.node.map.promised a.epoch false)))))
  ∧ (∀ (s : State) (p : Proposal) (b : Nat), s.node.map.ballot = some b →
      (∃ N : Node, exec (.proposal (.arrive p)) s = .next (s.withNode N) ∧ N.map = { s.node.map with gathered := s.node.map.gathered ++ [p] })
      ∧ (s.node.map.gathered = [p] → (∀ e, p.expire = some e → s.tck.tick ≤ e) → newKeepers s.node = none → s.node.map.ready = true → s.node.map.inflight = none → s.tck.notch = 0 → s.node.map.proposedAt ≠ some s.tck.tick →
          stopped s.node = false → epochOf s.node ≠ 0xFFFFFFFF → ∃ N : Node, exec (.proposal .propose) s = .next (s.withNode N) ∧ N.map.inflight = some ⟨b, epochOf s.node + 1, [p]⟩ ∧ N.map.gathered = []
          ∧ N.out = s.node.out ++ s.node.map.map.keepers.map fun k => .accept k ⟨b, epochOf s.node + 1, [p]⟩)
      ∧ (s.node.map.gathered = [p] → (∀ e, p.expire = some e → s.tck.tick ≤ e) → s.node.map.ready = true → s.node.map.inflight = none → s.tck.notch = 0 → s.node.map.proposedAt ≠ some s.tck.tick → stopped s.node = false →
          epochOf s.node = 0xFFFFFFFF → ∃ N : Node, exec (.proposal .propose) s = .next (s.withNode N) ∧ N.svc.arrivals.map (·.code) = s.node.svc.arrivals.map (·.code) ++ [evMapEpochEnd] ∧ N.out = s.node.out))
  ∧ (∀ (s : State) (k : BitVec 13) (ballot epoch : Word) (b : Nat) (a : Accepted), s.node.map.ballot = some b → s.node.map.inflight = some a →
      (b < ballot.toNat → ∃ N : Node, exec (.keeperAcceptance k ballot epoch false) s = .next (s.withNode N) ∧ N.map.ballot = none ∧ N.map.inflight = none ∧ rd N Rg.mapStatusCoord = 0)
      ∧ (ballot.toNat = b → epoch.toNat = a.epoch → k.toNat ∈ s.node.map.map.keepers → k.toNat ∉ s.node.map.acceptedBy →
          (s.node.map.acceptedBy.length + 1 < s.node.map.map.keepers.length / 2 + 1 → ∃ N : Node, exec (.keeperAcceptance k ballot epoch true) s = .next (s.withNode N) ∧ N.map = { s.node.map with acceptedBy := s.node.map.acceptedBy ++ [k.toNat] } ∧ N.out = s.node.out)
          ∧ (s.node.map.map.keepers.length / 2 + 1 ≤ s.node.map.acceptedBy.length + 1 → a.epoch = epochOf s.node + 1 → epochOf s.node ≠ 0 → QuietEpoch s.node (nextMap s.node.map.map (nodeId s.node) a.props).1 →
              ∃ (t : State) (c : CommitMsg), exec (.keeperAcceptance k ballot epoch true) s = .next t ∧ t.node.map.map = (nextMap s.node.map.map (nodeId s.node) a.props).1 ∧ (c.epoch, c.props, c.coord) = (a.epoch, a.props, nodeId s.node)
                ∧ t.node.out = s.node.out ++ (s.node.map.map.keepers.filter (· != nodeId s.node)).map (fun j => .commit j c) ++ (treeChildren t.node.map.map (nodeId s.node) (nodeId s.node)).map fun j => .commit j c)))
  ∧ (∀ (s : State) (i : Instr) (c : CommitMsg), (i = .commit c ∨ i = .epochFetch (.got [c])) → epochOf s.node ≠ 0 → c.epoch = epochOf s.node + 1 → QuietEpoch s.node (nextMap s.node.map.map c.coord c.props).1 →
      ∃ t : State, exec i s = .next t ∧ t.node.map.map = (nextMap s.node.map.map c.coord c.props).1 ∧ epochOf t.node = (s.node.map.map.epoch + 1) % 2 ^ 32 ∧ rd t.node Rg.mapLearnedTick = s.tck.tick % 2 ^ 32
        ∧ rd t.node Rg.mapCountsEpochs = satTo 16 (rd s.node Rg.mapCountsEpochs + 1) ∧ t.node.map.log = c :: s.node.map.log
        ∧ t.node.out = s.node.out ++ (treeChildren t.node.map.map c.coord (nodeId s.node)).map fun k => .commit k c)
  ∧ ∀ s : State, (epochOf s.node < s.node.map.newest → exec (.epochFetch .ask) s = .next (s.withNode (emit s.node (.fetchEpochs (s.node.map.map.keepers.headD 0) (epochOf s.node + 1)))))
      ∧ ∀ node from_ : Nat, ∃ N : Node, exec (.epochFetch (.asked node from_)) s = .next (s.withNode N) ∧ N.out = s.node.out ++ (s.node.map.log.reverse.filter fun c => decide (from_ ≤ c.epoch)).map (fun c => .commit node c) ∧ N.map = s.node.map

/-- Nodes report to the keepers, keepers report silence, a majority makes a node LOST; a node without a majority fences itself and leaves the fence again:
For every node. At notch 0 of a tick that shares the node ID's low four bits LIVENESS_REPORT sends to every keeper; a keeper notes a report with its
tick, forgets silence it told of, and acknowledges; an acknowledgement from a keeper is noted with its tick. When LOSS_TICKS have passed since the
last report of an IN or DRAINING node a keeper tells the coordinator, once; the coordinator counts each keeper once, and with the majority's it
gathers the change to LOST. A node IN or DRAINING with fewer than a majority's acknowledgements within LOSS_TICKS - 16 ticks sets FENCED, counts it,
coordinates no more, and completes every command of ranges 0x1_ to 0x5_ with ST_PEER_LOST. With a majority again the fence ends: a node not LOST only
clears FENCED; one that is LOST has no sequence, page, page list copy or queue pair left, records EV_MAP_REJOIN and asks to join. -/
def Obligations.LivenessDecidesLossAndFencing : Prop :=
  (∀ s : State, s.tck.tick % 16 = nodeId s.node % 16 → s.tck.notch = 0 → stopped s.node = false → ∃ N : Node, exec (.livenessReport .send) s = .next (s.withNode N) ∧ N.out = s.node.out ++ s.node.map.map.keepers.map (fun k => .liveness k) ∧ N.map = s.node.map)
  ∧ (∀ (s : State) (k : Nat), nodeId s.node ∈ s.node.map.map.keepers → ∃ N : Node, exec (.livenessReport (.receive k)) s = .next (s.withNode N) ∧ mget? N.map.lastReport k = some s.tck.tick ∧ k ∉ N.map.told ∧ mget? N.map.silent k = none
      ∧ (∀ j, j ≠ k → mget? N.map.lastReport j = mget? s.node.map.lastReport j ∧ (j ∈ N.map.told ↔ j ∈ s.node.map.told)) ∧ N.out = s.node.out ++ [.livenessAck k])
  ∧ (∀ (s : State) (k : BitVec 13), k.toNat ∈ s.node.map.map.keepers → ∃ N : Node, exec (.livenessAck k) s = .next (s.withNode N) ∧ mget? N.map.acks k.toNat = some s.tck.tick ∧ (∀ j, j ≠ k.toNat → mget? N.map.acks j = mget? s.node.map.acks j) ∧ N.out = s.node.out)
  ∧ (∀ (s : State) (k r : Nat), nodeId s.node ∈ s.node.map.map.keepers → (stateIn s.node.map.map k = 1 ∨ stateIn s.node.map.map k = 2) → mget? s.node.map.lastReport k = some r → k ∉ s.node.map.told →
      (r + rd s.node Rg.mapCfgLossTicks ≤ s.tck.tick → ∃ N : Node, exec (.lossWindowExpiry (.expire k)) s = .next (s.withNode N) ∧ N.map = { s.node.map with told := s.node.map.told ++ [k] } ∧ N.out = s.node.out ++ [.silentNode s.node.map.map.coord k])
      ∧ (s.tck.tick < r + rd s.node Rg.mapCfgLossTicks → exec (.lossWindowExpiry (.expire k)) s = .next s))
  ∧ (∀ (s : State) (keeper k : Nat), s.node.map.ballot ≠ none → keeper ∈ s.node.map.map.keepers → keeper ∉ mgetD s.node.map.silent k [] → (stateIn s.node.map.map k = 1 ∨ stateIn s.node.map.map k = 2) →
      ∃ N : Node, exec (.lossWindowExpiry (.told keeper k)) s = .next (s.withNode N) ∧ mget? N.map.silent k = some (mgetD s.node.map.silent k [] ++ [keeper])
        ∧ N.map.gathered = s.node.map.gathered ++ if (mgetD s.node.map.silent k []).length + 1 = s.node.map.map.keepers.length / 2 + 1 then [ownProposal s.node [.nodeState k 4]] else [])
  ∧ (∀ s : State, rd s.node Rg.mapStatusFenced = 0 → (stateIn s.node.map.map (nodeId s.node) = 1 ∨ stateIn s.node.map.map (nodeId s.node) = 2) → ackedWithin s.tck s.node (rd s.node Rg.mapCfgLossTicks - 16) < s.node.map.map.keepers.length / 2 + 1 →
      (∃ (N M : Node), exec .fence s = .next (s.withNode N) ∧ rd M Rg.mapStatusFenced = 1 ∧ rd M Rg.mapCountsFences = satTo 16 (rd s.node Rg.mapCountsFences + 1) ∧ M.fe = s.node.fe ∧ M.map = s.node.map ∧ N.map.ballot = none ∧ rd N Rg.mapStatusCoord = 0
        ∧ N = stepDown ((s.node.fe.cmds.filter fun c => decide (0x10 ≤ c.op) && decide (c.op < 0x60)).foldl (fun m c => complete s.tck (allocOver (dropJob (dropStep m c.handle) c.handle) c.handle) c.handle stPeerLost []) M)
        ∧ ((∀ c ∈ s.node.fe.cmds, c.op < 0x10 ∨ 0x60 ≤ c.op) → rd N Rg.mapStatusFenced = 1 ∧ N.fe = s.node.fe ∧ N.out = s.node.out)))
  ∧ ∀ s : State, rd s.node Rg.mapStatusFenced = 1 → s.node.map.map.keepers.length / 2 + 1 ≤ ackedWithin s.tck s.node (rd s.node Rg.mapCfgLossTicks - 16) →
      (stateIn s.node.map.map (nodeId s.node) ≠ 4 → exec .fenceEnd s = .next (s.withNode (wr s.node Rg.mapStatusFenced 0)))
      ∧ (stateIn s.node.map.map (nodeId s.node) = 4 → ∃ N : Node, exec .fenceEnd s = .next (s.withNode N) ∧ rd N Rg.mapStatusFenced = 0 ∧ N.seqs.open_ = [] ∧ N.seqs.snaps = [] ∧ N.ter.pages = [] ∧ N.qst.qps = [] ∧ N.map.units = []
          ∧ N.svc.arrivals.map (·.code) = s.node.svc.arrivals.map (·.code) ++ [evMapRejoin] ∧ (s.node.map.ballot = none → ∃ p : Proposal, N.out = s.node.out ++ [.propose s.node.map.map.coord p] ∧ p.changes = [.nodeState (nodeId s.node) 1]))

/-- The map commands propose and read, a drain moves what is left and ends, a lost member is rebuilt and reported, and parity follows every write: For
every node. MAP_PROPOSE, SLICE_GRANT and DRAIN, their fields in order, keep the command running, wait for their change until PROPOSE_TICKS after
acceptance, and send it to the coordinator; MAP_READ writes the map to host memory and completes with its epoch, or with the length needed. A draining
node with no sequence and no unsent page proposes its end with the pages and sequences it moved; with no sequence it copies every page not yet sent; a
sequence that arrives at its successor is open there. A drain not over after PROPOSE_TICKS x 1,024 ticks completes with ST_DEADLINE. A rebuild writes
the next unit from eight survivors and counts it; the last home's report makes the coordinator gather GROUP_WHOLE; the successor opens the lost
member's sequences and reports. A parity holder xors the change into P, or g^j times it into Q, and acknowledges; the last acknowledgement completes
the append. -/
def Obligations.MapCommandsDrainsRebuildsAndParity : Prop :=
  (∀ (s : State) (h : Word) (c : Cmd), s.node.map.ballot = none → epochOf s.node ≠ 0xFFFFFFFF →
      let waits := fun (i : Instr) (base : Nat) (l : List Change) => ∃ N : Node, exec i s = .next (s.withNode N) ∧ findCmd N h.toNat = some { c with stage := .running }
        ∧ N.map.waits = s.node.map.waits ++ [⟨h.toNat, base, c.accTick + rd s.node Rg.mapCfgProposeTicks⟩]
        ∧ N.out = s.node.out ++ [.propose s.node.map.map.coord ⟨nodeId s.node, h.toNat, base, some (c.accTick + rd s.node Rg.mapCfgProposeTicks), l⟩]
      (∀ l : List Change, Runs s.node h opMapPropose c → mult (c.f 24 8) 32 = true → 1 ≤ c.f 32 2 → c.f 32 2 ≤ 64 → rsv c 34 35 = [] → rsv c 40 47 = [] → rsv c 48 63 = [] →
          ((List.range (c.f 32 2)).map fun i => parseChange (hostRead s.node c.mem (c.f 24 8 + 32 * i) 32)) = l.map some → l.any (holdsMine s.node) = false → waits (.mapPropose h) (c.f 36 4) l)
      ∧ (Runs s.node h opSliceGrant c → c.f 24 2 ≠ 0 → c.f 26 1 ≤ 2 → c.f 27 1 ≤ 100 → c.f 28 2 < 8192 → rsv c 30 31 = [] → 1 ≤ c.f 32 2 → c.f 32 2 ≤ 255 → c.f 32 2 + c.f 34 2 ≤ 256 → rsv c 52 63 = [] →
          (c.f 26 1 = 2 → c.f 28 2 = nodeId s.node → quotaBelow s.node (grantSlice c) = false) → waits (.sliceGrant h) 0 [.slice (c.f 26 1) (grantSlice c)])
      ∧ (Runs s.node h opDrain c → c.f 24 2 < 8192 → c.f 26 2 < 8192 → rsv c 29 63 = [] →
          (c.f 28 1 = 0 → waits (.drain (.command h.toNat)) 0 [.drainStart (c.f 24 2) (c.f 26 2)]) ∧ (c.f 28 1 = 1 → waits (.drain (.command h.toNat)) 0 [.drainCancel (c.f 24 2)])))
  ∧ (∀ (s : State) (h : Word) (c : Cmd) (b : Bytes), Runs s.node h opMapRead c → mult (c.f 24 8) 64 = true → rsv c 36 63 = [] → b = mapBytes s.node.map.map (if tenantState s.node = tsEmpty then none else some (rd s.node Rg.secStatusTenant)) →
      (b.length ≤ c.f 32 4 → exec (.mapRead h) s = .next (s.withNode (complete s.tck (hostWrite s.node c.mem (c.f 24 8) b) h.toNat stOk (leBytes 4 (epochOf s.node)))))
      ∧ (c.f 32 4 < b.length → exec (.mapRead h) s = .next (s.withNode (complete s.tck s.node h.toNat stBadParam ([32, 0, 0, 0] ++ leBytes 4 b.length)))))
  ∧ (∀ (s : State) (succ : Nat), stopped s.node = false → fencedNode s.node = false → drainTo s.node = some succ → s.node.seqs.open_ = [] →
      (s.node.ter.pages = [] → s.node.map.units = [] → s.node.map.drainTold = false → s.node.map.ballot = none → ∃ N : Node, exec (.drain .goOn) s = .next (s.withNode N) ∧ N.map.drainTold = true
          ∧ N.out = s.node.out ++ [.propose s.node.map.map.coord (ownProposal s.node [.drainDone (nodeId s.node) s.node.map.drainPages s.node.map.drainSeqs])])
      ∧ (s.node.ter.pages ≠ [] → ∃ N : Node, exec (.drain .goOn) s = .next (s.withNode N) ∧ N.out = s.node.out ++ ((mkeys s.node.ter.pages).filter fun k => !s.node.map.drainSent.contains k).map (fun k => .drainCopy succ 2 k)
          ∧ N.map.drainPages = s.node.map.drainPages + ((mkeys s.node.ter.pages).filter fun k => !s.node.map.drainSent.contains k).length ∧ N.ter = s.node.ter))
  ∧ (∀ (s : State) (q : Seqn), takesDrain s.node = true → ∃ N : Node, exec (.drain (.arrive (some q) [])) s = .next (s.withNode N) ∧ mget? N.seqs.open_ q.id = some q ∧ mget? N.seqs.elsewhere q.id = none)
  ∧ (∀ (s : State) (h : Word) (d : DrainJob), s.node.map.drains = [d] → d.handle = h.toNat → d.accTick + rd s.node Rg.mapCfgProposeTicks * 1024 ≤ s.tck.tick →
      ∃ N : Node, exec (.drainTimeout h) s = .next (s.withNode (complete s.tck N h.toNat stDeadline [])) ∧ N.map.drains = [] ∧ N.fe = s.node.fe ∧ N.out = s.node.out)
  ∧ (∀ (s : State) (l : List Survivor) (r : Rebuild), s.node.map.rebuild = some r → rd s.node Rg.mapRebuildDoneUnits < rd s.node Rg.mapRebuildTotalUnits → r.next ≤ s.tck.now → stopped s.node = false → fencedNode s.node = false →
      survivorsOk r.gindex l = true → (∀ v ∈ l, v.poison = []) → ∃ N : Node, exec (.rebuildUnit l) s = .next (s.withNode N) ∧ rd N Rg.mapRebuildDoneUnits = (rd s.node Rg.mapRebuildDoneUnits + 1) % 2 ^ 32 ∧ N.map.unitPoison = s.node.map.unitPoison
        ∧ N.map.units = Mem.write 0 (Mem.clear s.node.map.units (4096 * rd s.node Rg.mapRebuildDoneUnits) 4096) (4096 * rd s.node Rg.mapRebuildDoneUnits) (rebuildUnit (rd s.node Rg.mapRebuildDoneUnits) r.gindex l) ∧ N.out = s.node.out)
  ∧ (∀ (s : State) (gn node : Nat) (g : Group) (b : Nat), s.node.map.ballot = some b → mget? s.node.map.map.groups gn = some g → g.gstate = 1 → node ∈ homesOf s.node.map.map g →
      ((∀ k ∈ homesOf s.node.map.map g, k = node ∨ k ∈ mgetD s.node.map.homesDone gn []) → ∃ N : Node, exec (.rebuildDone (.report gn node)) s = .next (s.withNode N) ∧ N.map.gathered = s.node.map.gathered ++ [ownProposal s.node [.groupWhole gn]])
      ∧ (∀ k, k ∈ homesOf s.node.map.map g → k ≠ node → k ∉ mgetD s.node.map.homesDone gn [] → ∃ N : Node, exec (.rebuildDone (.report gn node)) s = .next (s.withNode N) ∧ N.map.gathered = s.node.map.gathered ∧ node ∈ mgetD N.map.homesDone gn []))
  ∧ (∀ (s : State) (q : Seqn) (r : Rebuild), s.node.map.rebuild = some r → rd s.node Rg.mapRebuildTotalUnits ≤ rd s.node Rg.mapRebuildDoneUnits →
      ∃ N : Node, exec (.rebuildDone (.done r.lost [q] [])) s = .next (s.withNode N) ∧ mhas N.seqs.open_ q.id = true ∧ N.out = s.node.out ++ [.homeDone s.node.map.map.coord r.group])
  ∧ (∀ (s : State) (m : ParityMsg) (g : Group), groupOf s.node = some (m.group, g) → drainTo s.node = none → (gindexOf s.node = m.stripe % 10 ∨ gindexOf s.node = (m.stripe + 1) % 10) →
      ∃ N : Node, exec (.parityUpdate m) s = .next (s.withNode N) ∧ N.out = s.node.out ++ [.parityAck m.sender m.home m.handle]
        ∧ N.map.units = Mem.write 0 s.node.map.units (4096 * m.stripe + m.off) (xorBytes (Mem.read 0 s.node.map.units (4096 * m.stripe + m.off) m.delta.length)
            (if gindexOf s.node = m.stripe % 10 then m.delta else gfScale (gfG m.j) m.delta)))
  ∧ ∀ (s : State) (h : Word) (w : AckWait) (a k : Nat), s.node.map.ackWaits = [w] → w.home = nodeId s.node → w.handle = h.toNat →
      (w.left = 1 → s.node.seqs.applied = [(h.toNat, a, k)] → ∃ N : Node, exec (.parityAcknowledgement (BitVec.ofNat 13 w.home) h) s = .next (s.withNode (complete s.tck N h.toNat stOk (leBytes 4 a ++ leBytes 4 k)))
          ∧ N.map.ackWaits = [] ∧ N.seqs.applied = [] ∧ N.fe = s.node.fe ∧ N.out = s.node.out)
      ∧ (2 ≤ w.left → ∃ N : Node, exec (.parityAcknowledgement (BitVec.ofNat 13 w.home) h) s = .next (s.withNode N) ∧ N.map.ackWaits = [{ w with left := w.left - 1 }] ∧ N.fe = s.node.fe ∧ N.out = s.node.out)

/-- A tenant is opened, sealed and removed in R385's order: TENANT_OPEN installs a good bundle's keys, a close fences, destroys the keys and erases: For every state. A dispatched TENANT_OPEN in EMPTY whose bundle of at most 408 bytes keeps R365's layout and
unwraps leaves the node OPENING with the bundle's storage key, authority key and ACTIVE transport keys, the command running; a bundle that does not
records EV_TENANT_OPEN_FAIL and completes with ST_DENIED, as the command does outside EMPTY. SEAL from the management path in OPENING enters SEALED,
records measurement 7 and completes the open; from elsewhere it changes nothing. 65,536 ticks after acceptance an unsealed open completes with
ST_DEADLINE, EMPTY and without keys. TENANT_CLOSE that acceptance has begun runs; another tenant's completes at offset 24, a refused one with
ST_DENIED. At A+1.00 every slot is RETIRING and no other command is left; then the keys go, ERASING; then EMPTY, terrace 1, sequences, directory, sets
and pairs cleared, the recorder kept, and the close completes with the ticks taken and the records destroyed. -/
def Obligations.TenantsAreOpenedSealedAndRemoved : Prop :=
  (∀ (s : State) (h : Word) (c : Cmd) (b : Bytes), Runs s.node h opTenantOpen c → c.f 24 2 ≠ 0 → rsv c 26 31 = [] → rsv c 44 63 = [] → c.f 40 4 ≤ 408 → b = hostRead s.node c.mem (c.f 32 8) (c.f 40 4) →
      (tenantState s.node ≠ tsEmpty → exec (.tenantOpen h) s = .next (s.withNode (complete s.tck s.node h.toNat stDenied [])))
      ∧ (tenantState s.node = tsEmpty → bundleOk b (c.f 24 2) = false →
          exec (.tenantOpen h) s = .next (s.withNode (complete s.tck (raise s.tck s.node evTenantOpenFail []) h.toNat stDenied [])))
      ∧ (tenantState s.node = tsEmpty → bundleOk b (c.f 24 2) = true →
          match bundleKeys b with
          | none => exec (.tenantOpen h) s = .next (s.withNode (complete s.tck (raise s.tck s.node evTenantOpenFail []) h.toNat stDenied []))
          | some keys => ∃ N : Node, exec (.tenantOpen h) s = .next (s.withNode N) ∧ tenantState N = tsOpening ∧ rd N Rg.secStatusTenant = c.f 24 2 ∧ N.sec.storage = some (keys.take 64)
            ∧ N.sec.authPub = slice b 8 96 ∧ N.sec.opening = some (c.handle, c.accTick) ∧ findCmd N h.toNat = some { c with stage := .running } ∧ N.out = s.node.out ∧ N.t1 = s.node.t1
            ∧ ∀ k, 1 ≤ k → k ≤ byteAt b 6 → mget? N.sec.slots k = some ⟨slice keys (64 + 32 * (k - 1)) 32, 0, none, none⟩ ∧ rd N (Rg.secSlotState k) = 2))
  ∧ (∀ (s : State) (h a : Nat), Writable s.node → tenantState s.node = tsOpening → s.node.sec.opening = some (h, a) →
      ∃ M : Node, exec (.sealTenant .mgmt) s = .next (s.withNode (forwardChanges (complete s.tck M h stOk []) (ownProposal M [.tenant (nodeId M) (rd M Rg.secStatusTenant)])))
        ∧ tenantState M = tsSealed ∧ rd M Rg.secStatusSeal = 1 ∧ rd M Rg.secStatusTenant = rd s.node Rg.secStatusTenant ∧ M.sec.opening = none ∧ M.sec.slots = s.node.sec.slots
        ∧ mget? M.sec.meas 7 = some (sha384 (Config.encodeFields 7 (slValues s.node))) ∧ M.fe = s.node.fe ∧ M.out = s.node.out)
  ∧ (∀ (s : State) (src : Req), src ≠ .mgmt → exec (.sealTenant src) s = .next s)
  ∧ (∀ (s : State) (h a : Nat), s.node.sec.opening = some (h, a) →
      (s.tck.tick < a + 65536 → exec .openSealTimeout s = .next s)
      ∧ (a + 65536 ≤ s.tck.tick → ∃ M : Node, exec .openSealTimeout s = .next (s.withNode (complete s.tck M h stDeadline [])) ∧ tenantState M = tsEmpty ∧ rd M Rg.secStatusTenant = 0
          ∧ M.sec.slots = [] ∧ M.sec.storage = none ∧ M.sec.bind = [] ∧ M.sec.opening = none ∧ M.fe = s.node.fe))
  ∧ (∀ (s : State) (h : Word) (c : Cmd), Runs s.node h opTenantClose c →
      (∀ a : Nat, s.node.sec.closing = some (h.toNat, a) → c.f 26 1 = 0 → exec (.tenantClose h) s = .next (s.withNode (setRunning s.node h.toNat)))
      ∧ (∀ a : Nat, s.node.sec.closing = some (h.toNat, a) → c.f 26 1 = 1 → s.node.cxd.exts = [] → (∀ x ∈ s.node.map.map.slices, x.node ≠ nodeId s.node) →
          ∃ N : Node, exec (.tenantClose h) s = .next (s.withNode (setRunning N h.toNat)) ∧ N.sec.destroyed = unreleased s.node ∧ N.sec.store = s.node.sec.store.filter (·.released) ∧ N.fe = s.node.fe)
      ∧ (s.node.sec.closing.map (·.1) ≠ some h.toNat → rsv c 27 63 = [] → c.f 26 1 ≤ 1 →
          (c.f 24 2 = rd s.node Rg.secStatusTenant → exec (.tenantClose h) s = .next (s.withNode (complete s.tck s.node h.toNat stDenied [])))
          ∧ (c.f 24 2 ≠ rd s.node Rg.secStatusTenant → exec (.tenantClose h) s = .next (s.withNode (complete s.tck s.node h.toNat stBadParam (leBytes 1 24))))))
  ∧ (∀ (s : State) (h a : Nat), s.node.sec.closing = some (h, a) → s.node.sec.fenced = false → a + 1 ≤ s.tck.tick →
      ∃ N : Node, exec .fenceBegin s = .next (s.withNode N) ∧ N.sec.fenced = true ∧ N.sec.closing = some (h, a) ∧ (∀ c ∈ N.fe.cmds, c.handle = h) ∧ (∀ c ∈ s.node.fe.cmds, c.handle = h → c ∈ N.fe.cmds)
        ∧ (∀ k, k < 64 → mhas s.node.sec.slots k = true → rd N (Rg.secSlotState k) = 3) ∧ N.sec.slots = s.node.sec.slots ∧ N.t1 = s.node.t1)
  ∧ (∀ (s : State) (h a : Nat), s.node.sec.closing = some (h, a) → s.node.sec.fenced = true → tenantState s.node = tsFencing → s.tck.at (a + 1) 1 ≤ s.tck.now →
      ∃ N : Node, exec .keyDestruction s = .next (s.withNode N) ∧ tenantState N = tsErasing ∧ N.sec.slots = [] ∧ N.sec.storage = none ∧ N.sec.authPub = [] ∧ N.sec.bind = []
        ∧ N.svc.arrivals.map (·.code) = s.node.svc.arrivals.map (·.code) ++ [evTenantKeysDestroyed] ∧ N.fe = s.node.fe ∧ N.t1 = s.node.t1)
  ∧ (∀ (s : State) (h a : Nat), s.node.sec.closing = some (h, a) → tenantState s.node = tsErasing → s.node.svc.tokenWait = none →
      ∃ N : Node, exec .eraseDone s = .next (s.withNode (complete s.tck N h stOk (leBytes 4 (s.tck.tick - a) ++ leBytes 4 s.node.sec.destroyed)))
        ∧ tenantState N = tsEmpty ∧ rd N Rg.secStatusTenant = 0 ∧ rd N Rg.secFineGrant = 0 ∧ N.t1 = [] ∧ N.seqs = Seqs.reset ∧ N.pdx = Pdx.reset ∧ N.wts = Wts.reset ∧ N.ter = Ter.reset ∧ N.bsu = Bsus.reset
        ∧ N.qst.qps = [] ∧ N.qst.pds = [] ∧ N.qst.mrs = [] ∧ N.sec.store = [] ∧ N.sec.closing = none ∧ N.svc.slots = s.node.svc.slots ∧ N.svc.arrivals = s.node.svc.arrivals ∧ N.fe = s.node.fe ∧ N.hmem = s.node.hmem)

/-- Ticks over are signed, records are read and released, held completions post, ATTEST signs the measurements, WEIGHTS_BIND installs a key or names a failed check: For every state. The tree of one record
is H(0 || r), of two H(1 || leaf || leaf), of three H(1 || pair || leaf). A tick that is over and not signed gets, and keeps beside its records, the
signature of its statement with the Alias of its measurements; a running tick is left. RECORD_GET whose LEN suffices writes the blocks of the signed
ticks in range and completes with the blocks, the records and the first tick not signed; with RELEASE those ticks are released, others kept; a LEN too
small completes at offset 48 with the length needed. The oldest held completion posts and its record joins the running tick while the store has room,
and none does without. ATTEST writes the report with its signature, or completes with the length needed. WEIGHTS_BIND of a bound set completes; else
each failed check completes with ST_NOT_BOUND, counted and recorded with its reason, and a key that unwraps is kept and the set bound.
What RESULT holds for too short a buffer, and which sectors a layer pins, are the model's choice (log entries 34 and 33). -/
def Obligations.RecordsAreSignedReadAndBound : Prop :=
  (∀ a b c : Bytes, recTree 2 [a] = sha384 (0 :: a) ∧ recTree 3 [a, b] = sha384 (1 :: (sha384 (0 :: a) ++ sha384 (0 :: b)))
      ∧ recTree 4 [a, b, c] = sha384 (1 :: (sha384 (1 :: (sha384 (0 :: a) ++ sha384 (0 :: b))) ++ sha384 (0 :: c))))
  ∧ (∀ (s : State) (k : Nat) (r : RecTick), s.node.sec.store.find? (·.tick == k) = some r →
      (k < s.tck.tick → r.sig = none → ∃ N : Node, exec (.tickStatementSign k) s = .next (s.withNode N) ∧ N.out = s.node.out ∧ N.fe = s.node.fe ∧ N.bank = s.node.bank
          ∧ N.sec.store.find? (·.tick == k) = some { r with sig := some (padTo 96 (Config.aliasSign (aliasMeas s.node k) (Config.freeNat s.node.freeCtr) (recStatement s.node r))) }
          ∧ N.sec.store.map (fun x => (x.tick, x.recs, x.released)) = s.node.sec.store.map fun x => (x.tick, x.recs, x.released))
      ∧ ((s.tck.tick ≤ k ∨ r.sig ≠ none) → exec (.tickStatementSign k) s = .next s))
  ∧ (∀ (s : State) (h : Word) (c : Cmd) (l : List RecTick) (b : Bytes), Runs s.node h opRecordGet c → 1 ≤ c.f 32 2 → c.f 32 2 ≤ 1024 → c.f 34 1 ≤ 1 → rsv c 35 39 = [] → mult (c.f 40 8) 64 = true → rsv c 52 63 = [] →
      l = s.node.sec.store.filter (fun r => c.f 24 8 ≤ r.tick && r.tick < c.f 24 8 + c.f 32 2 && r.sig.isSome) → b = l.flatMap (fun r => recBlock s.node r (r.sig.getD [])) →
      (c.f 48 4 < b.length → exec (.recordGet h) s = .next (s.withNode (complete s.tck s.node h.toNat stBadParam (leBytes 1 48 ++ zeros 11 ++ leBytes 4 b.length))))
      ∧ (b.length ≤ c.f 48 4 → ∃ late : Nat, ((∀ k, c.f 24 8 ≤ k → k < c.f 24 8 + c.f 32 2 → unsigned s.tck s.node k = false) → late = 0)
          ∧ (∀ k, c.f 24 8 ≤ k → k < c.f 24 8 + c.f 32 2 → unsigned s.tck s.node k = true → (∀ j, c.f 24 8 ≤ j → j < k → unsigned s.tck s.node j = false) → late = k)
          ∧ (c.f 34 1 = 0 → exec (.recordGet h) s = .next (s.withNode (complete s.tck (hostWrite s.node c.mem (c.f 40 8) b) h.toNat stOk
              (leBytes 4 l.length ++ leBytes 4 (l.map fun r => r.recs.length).sum ++ leBytes 4 late))))
          ∧ (c.f 34 1 = 1 → ∃ N : Node, exec (.recordGet h) s = .next (s.withNode N) ∧ N.fe = (complete s.tck (hostWrite s.node c.mem (c.f 40 8) b) h.toNat stOk
              (leBytes 4 l.length ++ leBytes 4 (l.map fun r => r.recs.length).sum ++ leBytes 4 late)).fe
              ∧ N.sec.store = lmodify s.node.sec.store (fun r => l.any fun x => x.tick == r.tick) (fun r => { r with released := true }))))
  ∧ (∀ (s : State) (x : HeldCpl) (rest : List HeldCpl), s.node.sec.held = x :: rest →
      (recRoom s.tck s.node = false → exec .heldCompletionRelease s = .next s)
      ∧ (recRoom s.tck s.node = true → exec .heldCompletionRelease s = .next (s.withNode (releaseHeld s.tck rest.length
          (recAdd s.tck (complete s.tck { s.node with sec := { s.node.sec with held := rest } } x.handle x.status x.result) x.record)))))
  ∧ (∀ (s : State) (h : Word) (c : Cmd) (r b : Bytes), Runs s.node h opAttest c → mult (c.f 32 8) 64 = true → c.f 44 1 ≤ 1 → rsv c 45 63 = [] → r = report s.tck s.node (hostRead s.node c.mem (c.f 24 8) 32) →
      b = r ++ padTo 96 (Config.aliasSign (aliasMeas s.node s.tck.tick) (Config.freeNat s.node.freeCtr) r) ++ (if c.f 44 1 = 1 then certWithLen s.node s.tck 0 ++ certWithLen s.node s.tck 1 else []) →
      if c.f 40 4 < b.length then exec (.attest h) s = .next (s.withNode (complete s.tck s.node h.toNat stBadParam (leBytes 4 b.length)))
      else exec (.attest h) s = .next (s.withNode (complete s.tck (hostWrite { s.node with freeCtr := s.node.freeCtr + 1 } c.mem (c.f 32 8) b) h.toNat stOk [])))
  ∧ ∀ (s : State) (h : Word) (c : Cmd) (w : WSet) (b : Bytes), Runs s.node h opWeightsBind c → setFor s.node c (c.f 24 4) = some w → rsv c 28 31 = [] → 1 ≤ c.f 40 4 → c.f 40 4 ≤ 65536 → rsv c 44 63 = [] →
      b = hostRead s.node c.mem (c.f 32 8) (c.f 40 4) →
      (w.bound = true → exec (.weightsBind h) s = .next (s.withNode (complete s.tck s.node h.toNat stOk [])))
      ∧ (w.bound = false → match bindCheck s.node w b with
          | .inl k => ∃ N : Node, exec (.weightsBind h) s = .next (s.withNode (complete s.tck N h.toNat stNotBound [])) ∧ rd N Rg.secBindFailCount = satTo 16 (rd s.node Rg.secBindFailCount + 1)
              ∧ rd N Rg.secBindFailReason = k % 8 ∧ N.wts = s.node.wts ∧ N.sec = s.node.sec ∧ N.svc.arrivals.map (·.code) = s.node.svc.arrivals.map (·.code) ++ [evBindFail]
          | .inr key => ∀ M : Node, M = { s.node with sec := { s.node.sec with bind := mset s.node.sec.bind (c.f 24 4) key } } → hiddenFaults M (c.f 24 4) w = [] → lensDiffer M (c.f 24 4) w = false →
              exec (.weightsBind h) s = .next (s.withNode (complete s.tck (modSet M (c.f 24 4) fun x => withSecs M (c.f 24 4) { x with bound := true, policy := slice b 64 64 }) h.toNat stOk [])))

/-- Key slots change state as R371 says, fine views are granted by the management path alone, and SPDM requests are answered in their order: For every state
whose registers take writes. INSTALL of a blob that unwraps puts its key into an EMPTY slot as RECEIVE with ST_OK, one that does not leaves ST_DENIED;
an operation on a slot in another state, or on slot 0, leaves ST_BAD_PARAM and no other change, and one of a requester that may not operate slots
changes nothing. ACTIVATE of a RECEIVE slot waits for the next tick boundary, where it becomes ACTIVE and the ACTIVE one RECEIVE; RETIRE shows RETIRING
at once and the boundary after the next destroys the key. SEC_FINE takes a write of the management path; from a host port it is ignored but for
EV_SEC_WRITE_IGNORED. GET_VERSION begins a negotiation anew; each later request is answered once its predecessors have been, else with an error:
capabilities, algorithms, digests of both chains, a portion of a chain, measurements, a signed challenge on slot 0. -/
def Obligations.KeySlotsAndIdentityAnswer : Prop :=
  (∀ (s : State) (slot : BitVec 6) (src : Req) (b : Bytes), Writable s.node → mayKey s.node src = true → rdB s.node Rg.secKeyStatusBusy = false →
      b = hostRead s.node (reqSpace src) (rd s.node Rg.secKeyAddrLoAddr + 2 ^ 32 * rd s.node Rg.secKeyAddrHiAddr) 136 →
      (slot ≠ 0 → rd s.node (Rg.secSlotState slot.toNat) = 0 →
        match Config.unwrap (b.take 96) (leBytes 2 (rd s.node Rg.secStatusTenant) ++ leBytes 1 slot.toNat ++ [0]) (b.drop 96) with
        | some key => ∃ N : Node, exec (.install slot src) s = .next (s.withNode N) ∧ mget? N.sec.slots slot.toNat = some ⟨key, 0, none, none⟩ ∧ rd N (Rg.secSlotState slot.toNat) = 1
            ∧ rd N Rg.secKeyStatusResult = stOk ∧ (∀ k, k ≠ slot.toNat → mget? N.sec.slots k = mget? s.node.sec.slots k ∧ (k < 64 → rd N (Rg.secSlotState k) = rd s.node (Rg.secSlotState k)))
        | none => exec (.install slot src) s = .next (s.withNode (wr s.node Rg.secKeyStatusResult stDenied)))
      ∧ ((slot = 0 ∨ rd s.node (Rg.secSlotState slot.toNat) ≠ 0) → exec (.install slot src) s = .next (s.withNode (wr s.node Rg.secKeyStatusResult stBadParam)))
      ∧ ((slot = 0 ∨ rd s.node (Rg.secSlotState slot.toNat) ≠ 1) → ∀ i ∈ [Instr.activate (.write slot.toNat src), .retire (.write slot.toNat src)],
          exec i s = .next (s.withNode (wr s.node Rg.secKeyStatusResult stBadParam)))
      ∧ ∀ x : KeySlot, slot ≠ 0 → rd s.node (Rg.secSlotState slot.toNat) = 1 → mget? s.node.sec.slots slot.toNat = some x →
          (∃ N : Node, exec (.activate (.write slot.toNat src)) s = .next (s.withNode N) ∧ mget? N.sec.slots slot.toNat = some { x with activate := some (s.tck.tick + 1) }
            ∧ rd N (Rg.secSlotState slot.toNat) = 1 ∧ rd N Rg.secKeyStatusResult = stOk)
          ∧ ∃ N : Node, exec (.retire (.write slot.toNat src)) s = .next (s.withNode N) ∧ mget? N.sec.slots slot.toNat = some { x with activate := none, destroyAt := some (s.tck.tick + 2) }
            ∧ rd N (Rg.secSlotState slot.toNat) = 3 ∧ rd N Rg.secKeyStatusResult = stOk)
  ∧ (∀ (s : State) (slot : BitVec 6) (src : Req), mayKey s.node src = false →
      exec (.install slot src) s = .next s ∧ exec (.activate (.write slot.toNat src)) s = .next s ∧ exec (.retire (.write slot.toNat src)) s = .next s)
  ∧ (∀ (s : State) (j k : Nat) (x y : KeySlot), Writable s.node → j < k → k < 64 → s.node.sec.slots = [(j, x), (k, y)] → rd s.node (Rg.secSlotState j) = 2 → rd s.node (Rg.secSlotState k) = 1 → x.activate = none →
      y.activate = some s.tck.tick → ∃ N : Node, exec (.activate .boundary) s = .next (s.withNode N) ∧ rd N (Rg.secSlotState j) = 1 ∧ rd N (Rg.secSlotState k) = 2
        ∧ N.sec.slots = [(j, x), (k, { y with activate := none })])
  ∧ (∀ (s : State) (k : Nat) (x : KeySlot), Writable s.node → k < 64 → s.node.sec.slots = [(k, x)] →
      (x.destroyAt = some s.tck.tick → ∃ N : Node, exec (.retire .boundary) s = .next (s.withNode N) ∧ N.sec.slots = [] ∧ rd N (Rg.secSlotState k) = 0 ∧ rd N (Rg.secSlotExhausted k) = 0)
      ∧ (x.destroyAt = none → exec (.retire .boundary) s = .next s))
  ∧ (∀ (s : State) (v : Word), Writable s.node → ∃ N : Node, exec (.secFineWrite v .mgmt) s = .next (s.withNode N) ∧ rd N Rg.secFineGrant = v.toNat % 16 ∧ N.svc = s.node.svc)
  ∧ (∀ (s : State) (v : Word) (src : Req), Writable s.node → src ≠ .mgmt → exec (.secFineWrite v src) s = .next (s.withNode (raise s.tck s.node evSecWriteIgnored (leBytes 4 Rg.secFineGrant.off))))
  ∧ (∀ (s : State) (via : Fin 5), ∃ N : Node, exec (.getVersion via) s = .next (s.withNode N) ∧ spdmOf N via.val = (1, [0x84]) ∧ N.out = s.node.out ++ [.spdm via.val .version] ∧ N.bank = s.node.bank)
  ∧ (∀ (s : State) (via : Fin 5) (slot : BitVec 8) (off len : BitVec 16) (index : BitVec 8) (nonce : Bytes) (p : Nat) (tr : Bytes), spdmOf s.node via.val = (p, tr) →
      let answers := fun (i : Instr) (q : Nat) (r : SpdmResp) => ∃ N : Node, exec i s = .next (s.withNode N) ∧ (spdmOf N via.val).1 = max p q ∧ N.out = s.node.out ++ [.spdm via.val r] ∧ N.bank = s.node.bank ∧ N.fe = s.node.fe
      let early := fun i : Instr => ∃ N : Node, exec i s = .next (s.withNode N) ∧ N.out = s.node.out ++ [.spdm via.val .error] ∧ N.sec = s.node.sec ∧ N.bank = s.node.bank
      (1 ≤ p → answers (.getCapabilities via) 2 .capabilities) ∧ (2 ≤ p → answers (.negotiateAlgorithms via) 3 .algorithms)
      ∧ (3 ≤ p → answers (.getDigests via) 3 (.digests [sha384 (chainNow s.tck s.node 0), sha384 (chainNow s.tck s.node 1)]))
      ∧ (3 ≤ p → slot.toNat ≤ 1 → off.toNat < (chainNow s.tck s.node slot.toNat).length → answers (.getCertificate via slot off len) 3
          (.certificate slot.toNat (slice (chainNow s.tck s.node slot.toNat) off.toNat len.toNat) ((chainNow s.tck s.node slot.toNat).length - off.toNat - len.toNat)))
      ∧ (3 ≤ p → slot.toNat = 0 → ∃ (own : Nat) (sig : Bytes), sig.length = 96 ∧ answers (.challenge via slot nonce) 3 (.challengeAuth 0 (sha384 (chainNow s.tck s.node 0)) own sig))
      ∧ (3 ≤ p → 1 ≤ index.toNat → index.toNat ≤ 8 → ∃ own : Nat, answers (.getMeasurements via index false nonce) 3 (.measurements [(index.toNat, measurement s.node index.toNat)] own none))
      ∧ (3 ≤ p → ∃ (own : Nat) (sig : Bytes), sig.length = 96
          ∧ answers (.getMeasurements via 0xFF true nonce) 3 (.measurements ((List.range 8).map fun k => (k + 1, measurement s.node (k + 1))) own (some sig)))
      ∧ (p < 1 → early (.getCapabilities via)) ∧ (p < 2 → early (.negotiateAlgorithms via)) ∧ (p < 3 → early (.getDigests via) ∧ early (.getCertificate via slot off len)
        ∧ early (.challenge via slot nonce) ∧ ∀ signed : Bool, early (.getMeasurements via index signed nonce)))

/-- The shed ladder is entered at once and left one step a tick, step 6 and PWR_FAIL_N halt the node in R400's order, and each thermal level acts at its threshold: For
every state. A window shows its sag; it enters every step whose threshold it reaches, never a shallower one than is in force, and counts one entry for
each step newly entered that was not left in the same tick; at −9% the node begins its halt and holds no upstream. At a tick boundary before which the
sag stayed above the deepest step's level for a tick that step alone is left. PWR_FAIL_N enters step 6 with cause 2; its release is noted. A halt ends
every command with ST_STATE_LOST, then takes the dies and memories down (N4), then records EV_HALT and asserts HALT_N; one by sag or PWR_FAIL_N is
reversed to N0 and step 5 at a later boundary, one by a thermal trip or PWR_CTL.HALT is not. PWR_CTL.HALT is the management path's alone. A
temperature shows at its site with the level it reaches, EV_THERM_WARN once from level 0, a halt with cause 3 at 105 °C; a level is left when the site
stayed 3 °C below its threshold for the tick before.
HALT_CAUSE after a halt is reversed is the model's choice (log entry 35). -/
def Obligations.ShedLadderHaltsAndThermalLevels : Prop :=
  (∀ (s : State) (sag : BitVec 16) (fail : Bool) (k : Nat), k = ((List.range 6).filter fun i => sag.toInt ≤ shedAt (i + 1)).length → s.node.pwr.step ≤ 6 →
      ∃ t : State, exec (.sagWindow sag fail) s = .next t ∧ t.node.pwr.step = max s.node.pwr.step k ∧ rd t.node Rg.pwrSagSag = sag.toNat ∧ t.node.pwr.sag = sag.toInt ∧ t.tck.now = s.tck.now ∧ t.tck.cur = s.tck.cur
        ∧ (s.node.pwr.step < k → rd t.node Rg.pwrStatusShed = k) ∧ (k ≤ s.node.pwr.step → t.tck = s.tck ∧ rd t.node Rg.pwrStatusShed = rd s.node Rg.pwrStatusShed)
        ∧ (∀ i, 1 ≤ i → i ≤ 6 → mget? s.node.pwr.revTick i ≠ some s.tck.tick → rd t.node (Rg.pwrShedCountEntries (i - 1)) =
            if s.node.pwr.step < i ∧ i ≤ k then satTo 16 (rd s.node (Rg.pwrShedCountEntries (i - 1)) + 1) else rd s.node (Rg.pwrShedCountEntries (i - 1)))
        ∧ (k = 6 → s.node.pwr.step < 6 → stopped s.node = false → t.node.pwr.halting = some (if fail || s.node.pwr.failN then 2 else 1) ∧ t.tck.upstream = none ∧ (s.tck.state = .locked → t.tck.state = .holdover)))
  ∧ (((List.range 6).map fun i => (shedAt (i + 1), shedBack (i + 1))) = [(-30, -20), (-40, -30), (-50, -40), (-60, -50), (-70, -60), (-90, -80)])
  ∧ (∀ s : State, 1 ≤ s.node.pwr.step → s.node.pwr.step ≤ 5 →
      (reversible s.tck s.node s.node.pwr.step = true → ∃ N : Node, exec .shedReversal s = .next (s.withNode N) ∧ N.pwr.step = s.node.pwr.step - 1 ∧ rd N Rg.pwrStatusShed = s.node.pwr.step - 1
        ∧ mget? N.pwr.revTick s.node.pwr.step = some s.tck.tick ∧ N.fe = s.node.fe)
      ∧ ((s.tck.notch ≠ 0 ∨ lastTickMin s.tck s.node.pwr ≤ shedBack s.node.pwr.step) → exec .shedReversal s = .next s))
  ∧ (∀ s : State, s.node.pwr.step < 6 → stopped s.node = false → ∃ t : State, exec .pwrFailN s = .next t ∧ t.node.pwr.step = 6 ∧ t.node.pwr.failN = true ∧ rd t.node Rg.pwrStatusPwrFail = 1
        ∧ t.node.pwr.halting = some 2 ∧ rd t.node Rg.pwrStatusHaltCause = 2 ∧ t.tck.upstream = none ∧ t.node.fe = s.node.fe)
  ∧ (∀ s : State, ∃ N : Node, exec .pwrFailNRelease s = .next (s.withNode N) ∧ N.pwr = { s.node.pwr with failN := false } ∧ rd N Rg.pwrStatusPwrFail = 0 ∧ rd N Rg.pwrStatusShed = rd s.node Rg.pwrStatusShed)
  ∧ (∀ (s : State) (c : Nat), s.node.pwr.halting = some c →
      (s.node.pwr.haltStage = 0 → ∃ N : Node, exec (.halt .settle) s = .next (s.withNode N) ∧ N.fe.cmds = []
          ∧ (∀ x : Cmd, s.node.fe.cmds = [x] → N.fe = (complete s.tck s.node x.handle stStateLost []).fe ∧ N.hmem = (complete s.tck s.node x.handle stStateLost []).hmem) ∧ N.att.items = [] ∧ N.cfl.chains = [] ∧ N.ter.moves = [] ∧ N.sec.store = s.node.sec.store ∧ N.pwr.haltStage = 1 ∧ N.pwr.halting = some c)
      ∧ (s.node.pwr.haltStage = 1 → ∃ N : Node, exec (.halt .dark) s = .next (s.withNode N) ∧ rd N Rg.pwrStatusNstate = 4 ∧ N.att.tables = [] ∧ N.pwr.haltStage = 2 ∧ N.pwr.halting = some c ∧ N.t1 = s.node.t1)
      ∧ (s.node.pwr.haltStage = 2 → ∃ N : Node, exec (.halt .record) s = .next (s.withNode N) ∧ N.pwr.haltN = some s.tck.tick ∧ N.pwr.halting = none ∧ rd N Rg.pwrStatusHalted = 1 ∧ N.svc.arrivals = [] ∧ N.fe = s.node.fe
          ∧ (s.node.svc.arrivals = [] → s.node.svc.buffer.length < 64 → rdB s.node Rg.evrStatusClearing = false → s.node.svc.slots.length + 2 ≤ evrSlots → ∃ r q : Bytes, N.svc.slots = s.node.svc.slots ++ [r, q] ∧ field r 4 2 = evHalt)))
  ∧ (∀ (s : State) (k : Nat), s.node.pwr.haltN = some k →
      (k < s.tck.tick → rd s.node Rg.pwrStatusHaltCause ≤ 2 → s.node.pwr.failN = false → reversible s.tck s.node 6 = true →
        ∃ N : Node, exec .haltReversal s = .next (s.withNode N) ∧ N.pwr.step = 5 ∧ rd N Rg.pwrStatusShed = 5 ∧ rd N Rg.pwrStatusNstate = 0 ∧ rd N Rg.pwrStatusHalted = 0 ∧ N.pwr.haltN = none ∧ N.t1 = s.node.t1)
      ∧ ((s.tck.tick ≤ k ∨ 3 ≤ rd s.node Rg.pwrStatusHaltCause ∨ s.node.pwr.failN = true) → exec .haltReversal s = .next s))
  ∧ (∀ (s : State) (src : Req), Writable s.node → (src ≠ .mgmt → exec (.pwrCtlHalt src) s = .next (s.withNode (raise s.tck s.node evPwrWriteIgnored (leBytes 4 Rg.pwrCtlReset.off))))
      ∧ (stopped s.node = false → ∃ t : State, exec (.pwrCtlHalt .mgmt) s = .next t ∧ t.node.pwr.halting = some 4 ∧ rd t.node Rg.pwrStatusHaltCause = 4 ∧ t.tck.upstream = none ∧ t.node.fe = s.node.fe))
  ∧ (∀ (s : State) (site : Fin 13) (temp : BitVec 8) (l : Nat), l = (mgetD s.node.pwr.therm site.val (0, s.tck.tick, 0, 0)).1 → l ≤ 3 →
      ∃ t : State, exec (.thermalRead site temp) s = .next t ∧ rd t.node (Rg.pwrTempTemp site.val) = temp.toNat ∧ rd t.node (Rg.pwrTempLevel site.val) = max l (thermLevel s.node temp.toNat)
        ∧ rd t.node (Rg.pwrTempMax site.val) = max temp.toNat (rd s.node (Rg.pwrTempMax site.val))
        ∧ (max l (thermLevel s.node temp.toNat) < 3 ∨ l = 3 → t.tck = s.tck)
        ∧ (l = 0 → 1 ≤ thermLevel s.node temp.toNat → evThermWarn ∈ t.node.svc.arrivals.map (·.code)) ∧ (l ≠ 0 → site.val ≠ 4 → t.node.svc.arrivals = s.node.svc.arrivals)
        ∧ (l < 3 → 105 ≤ temp.toNat → stopped s.node = false → t.node.pwr.halting = some 3 ∧ rd t.node Rg.pwrStatusHaltCause = 3))
  ∧ ∀ (s : State) (site : Fin 13) (x : Nat × Nat × Nat × Nat), mget? s.node.pwr.therm site.val = some x →
      (s.tck.notch = 0 → 1 ≤ x.1 → x.1 ≤ 2 → lastTickMax s.tck s.node site.val x + 3 ≤ thermAt s.node 1 → lastTickMax s.tck s.node site.val x + 3 ≤ thermAt s.node 2 →
        ∃ N : Node, exec (.thermalReversal site) s = .next (s.withNode N) ∧ rd N (Rg.pwrTempLevel site.val) = 0 ∧ mget? N.pwr.therm site.val = some (0, x.2) ∧ N.fe = s.node.fe)
      ∧ ((s.tck.notch ≠ 0 ∨ x.1 = 3) → exec (.thermalReversal site) s = .next s)

/-- The deepest power state that fits is entered, an event wakes the node, a hint limits the states while it lasts, and readings show as taken: For every state. A node in N0 that has not stopped, with no item at work and no known event due, enters the deepest state no deeper than allowed whose
entry, wake and 2 notches fit before the next known event (N2 only if its wake fits 2 ticks less 2 notches, N3 only if nothing is due there); the wake is planned 2 notches
and the wake time before the event; N3 loses the rescale tables; with no known event the time does not limit it. A node that has stopped, works or has an event due stays. An
unknown event wakes a node in N1 to N3 at once, a planned wake at its time, and the notches spent are counted. POWER_HINT keeps its limit and completes with
the one it replaces, 0xFF for none; it ends at its tick; a DEEPEST above 3 completes at offset 24. AVS and PMBus readings show on their rail, good within
3 percent of nominal; a rejection, or 10 mV off the setpoint outside a sag, records EV_AVS_ERR, a status word that is not 0 FAULT and EV_RAIL_FAULT. -/
def Obligations.PowerStatesHintsAndReadings : Prop :=
  stateCost 1 = (80, 800) ∧ stateCost 2 = (4000, 20000) ∧ stateCost 3 = (600000, 3200000)
  ∧ (∀ (s : State) (k j p : Nat) (F : Nat → Prop), stopped s.node = false → working s.node = false → rd s.node Rg.pwrStatusNstate = 0 → k ∈ knownEvents s.tck s.node →
      (∀ e ∈ knownEvents s.tck s.node, k ≤ e) → s.tck.now < k → p = 2 * unitsPerNotch s.tck.cur →
      F = (fun i => (stateCost i).1 + (stateCost i).2 + p ≤ k - s.tck.now ∧ (i = 2 → 20000 + p ≤ 2 * unitsPerTick s.tck.cur) ∧ (i = 3 → mayN3 s.node k = true)) →
      1 ≤ j → j ≤ 3 → j ≤ deepest s.tck s.node → F j → (∀ i, j < i → i ≤ 3 → i ≤ deepest s.tck s.node → ¬ F i) →
      ∃ N : Node, exec .powerStateEntry s = .next (s.withNode N) ∧ rd N Rg.pwrStatusNstate = j ∧ N.pwr.wakeAt = some (k - (stateCost j).2 - p)
        ∧ N.att = (if j = 3 then { s.node.att with tables := [], tableOf := [], bound := [], tileQs := [] } else s.node.att) ∧ N.fe = s.node.fe ∧ N.t1 = s.node.t1 ∧ N.pwr.since = s.tck.now
        ∧ rd N (Rg.pwrResNotches 0) = satTo 32 (rd s.node (Rg.pwrResNotches 0) + (s.tck.now / unitsPerNotch s.tck.cur - s.node.pwr.since / unitsPerNotch s.tck.cur)))
  ∧ (∀ (s : State) (j : Nat) (F : Nat → Prop), stopped s.node = false → working s.node = false → rd s.node Rg.pwrStatusNstate = 0 → knownEvents s.tck s.node = [] →
      F = (fun i => (i = 2 → 20000 + 2 * unitsPerNotch s.tck.cur ≤ 2 * unitsPerTick s.tck.cur) ∧ (i = 3 → mayN3 s.node (2 ^ 64) = true)) →
      1 ≤ j → j ≤ 3 → j ≤ deepest s.tck s.node → F j → (∀ i, j < i → i ≤ 3 → i ≤ deepest s.tck s.node → ¬ F i) →
      ∃ N : Node, exec .powerStateEntry s = .next (s.withNode N) ∧ rd N Rg.pwrStatusNstate = j ∧ N.pwr.wakeAt = none ∧ N.fe = s.node.fe ∧ N.t1 = s.node.t1)
  ∧ (∀ s : State, (stopped s.node = true ∨ working s.node = true ∨ deepest s.tck s.node = 0 ∨ ∃ e ∈ knownEvents s.tck s.node, e ≤ s.tck.now) → exec .powerStateEntry s = .next s)
  ∧ (∀ (s : State) (st : Nat), st = rd s.node Rg.pwrStatusNstate →
      let wakes := fun i : Instr => ∃ N : Node, exec i s = .next (s.withNode N) ∧ rd N Rg.pwrStatusNstate = 0 ∧ N.pwr.wakeAt = none ∧ N.fe = s.node.fe ∧ N.att = s.node.att
        ∧ rd N (Rg.pwrResNotches st) = satTo 32 (rd s.node (Rg.pwrResNotches st) + (s.tck.now / unitsPerNotch s.tck.cur - s.node.pwr.since / unitsPerNotch s.tck.cur))
      (1 ≤ st → st ≤ 3 → wakes (.wake true) ∧ ∀ k : Nat, s.node.pwr.wakeAt = some k → (k ≤ s.tck.now → wakes (.wake false)) ∧ (s.tck.now < k → exec (.wake false) s = .next s))
      ∧ (st = 0 ∨ st = 4 → ∀ u : Bool, exec (.wake u) s = .next s) ∧ (s.node.pwr.wakeAt = none → exec (.wake false) s = .next s))
  ∧ (∀ (s : State) (h : Word) (c : Cmd), Runs s.node h opPowerHint c →
      (∀ old : Nat, (s.node.pwr.hint = none → old = 0xFF) → (∀ d : Nat, s.node.pwr.hint = some (d, none) → old = d) →
        (∀ d e : Nat, s.node.pwr.hint = some (d, some e) → old = if c.accTick < e then d else 0xFF) → c.f 24 1 ≤ 3 → rsv c 25 27 = [] → rsv c 32 63 = [] →
        exec (.powerHint h) s = .next (s.withNode (complete s.tck { s.node with pwr := { s.node.pwr with
          hint := some (c.f 24 1, if c.f 28 4 = 0 then none else some (c.accTick + c.f 28 4)) } } h.toNat stOk (leBytes 1 old))))
      ∧ (3 < c.f 24 1 → exec (.powerHint h) s = .next (s.withNode (complete s.tck s.node h.toNat stBadParam (leBytes 1 24)))))
  ∧ (∀ (s : State) (d e : Nat), s.node.pwr.hint = some (d, some e) →
      (e ≤ s.tck.tick → exec .powerHintExpiry s = .next (s.withNode { s.node with pwr := { s.node.pwr with hint := none } }) ∧ deepest s.tck s.node = rd s.node Rg.pwrStateCfgDeepest)
      ∧ (s.tck.tick < e → exec .powerHintExpiry s = .next s ∧ deepest s.tck s.node = min d (rd s.node Rg.pwrStateCfgDeepest)))
  ∧ (∀ (s : State) (rejected : Bool) (mv amps : BitVec 16), ∃ N : Node, exec (.avsReadback rejected mv amps) s = .next (s.withNode N) ∧ rd N (Rg.pwrRailMv 0) = satTo 12 mv.toNat
      ∧ rd N (Rg.pwrRailAmps 0) = amps.toNat ∧ N.pwr = s.node.pwr ∧ N.fe = s.node.fe
      ∧ rd N (Rg.pwrRailPg 0) = (if 97 * Config.fusedSetpoint ≤ 100 * mv.toNat ∧ 100 * mv.toNat ≤ 103 * Config.fusedSetpoint then 1 else 0)
      ∧ N.svc.arrivals.map (·.code) = s.node.svc.arrivals.map (·.code) ++
          if rejected = true ∨ (s.node.pwr.step = 0 ∧ (Config.fusedSetpoint + 10 < mv.toNat ∨ mv.toNat + 10 < Config.fusedSetpoint)) then [evAvsErr] else [])
  ∧ (∀ (s : State) (r : Fin 6) (status mv amps : BitVec 16), ∃ N : Node, exec (.pmbusPoll r status mv amps) s = .next (s.withNode N) ∧ rd N (Rg.pwrRailMv r.val) = satTo 12 mv.toNat
      ∧ rd N (Rg.pwrRailAmps r.val) = amps.toNat ∧ N.pwr = s.node.pwr ∧ N.fe = s.node.fe
      ∧ (r ≠ 0 → rd N (Rg.pwrRailPg r.val) = if 97 * ([0, 900, 850, 1100, 1800, 800].getD r.val 0) ≤ 100 * mv.toNat ∧ 100 * mv.toNat ≤ 103 * ([0, 900, 850, 1100, 1800, 800].getD r.val 0) then 1 else 0)
      ∧ (status = 0 → N.svc = s.node.svc ∧ rd N (Rg.pwrRailFault r.val) = rd s.node (Rg.pwrRailFault r.val))
      ∧ (status ≠ 0 → rd N (Rg.pwrRailFault r.val) = 1 ∧ N.svc.arrivals.map (fun e => (e.code, e.args)) =
          s.node.svc.arrivals.map (fun e => (e.code, e.args)) ++ [(evRailFault, leBytes 1 r.val ++ leBytes 2 status.toNat)]))
  ∧ ∀ (s : State) (w : BitVec 16), ∃ N : Node, exec (.powerReading w) s = .next (s.withNode N) ∧ rd N Rg.pwrPowerWatts = satTo 12 w.toNat ∧ N.pwr.watts = (satTo 12 w.toNat :: s.node.pwr.watts).take 1024
      ∧ N.fe = s.node.fe ∧ N.svc = s.node.svc

/-- A reset leaves every register at its reset value and its own cause, start-up takes its phases in their order, and what goes away is left out: For every state. RESET_N,
the management path's PWR_CTL_RESET and the watchdog leave, with their cause (4 out of a held halt), one warm reset more, no command, fabric time kept and
in ACQUIRE, tenant EMPTY, READY 0, every other register at reset, the host's memory, terrace 1, recorder, hours and cycles kept; a watchdog after a switch not confirmed records
EV_UPDATE_ROLLBACK. POWER_ON_RESET leaves the same with cause 0, fabric time begun anew, one power cycle more and no token. A loss of power with a warning enters step 6 with cause 2; one without stops the node, keeps the recorder but for a torn record, and the reset cause. Within its
limit a phase whose work is done gives way to the next: ROM names the slot it starts from or fails, REG commands the setpoint, IDENT fits what it finds, TRAIN needs a stack, FW runs,
TEST ends when no start-up march test is left, ZERO clears terrace 1, TIME and MAP lead to READY; outside its limit nothing changes; at its limit ROM fails, TIME and MAP go on. The ninth
lost arbitration of a transfer records EV_ID_BUS. A host port half trains once; a module taken out is no longer fitted.
What stands of an unpowered node is the model's choice (log entry 40). -/
def Obligations.ResetsAndStartUp : Prop :=
  (∀ s : State, Writable s.node →
      let left := fun (cause : Nat) (t : State) => t.tck = { Tck.reset with now := s.tck.now, everGm := s.tck.everGm } ∧ t.tck.state = .acquire ∧ t.last = t.node ∧ t.pending = s.pending
        ∧ rd t.node Rg.pwrResetCauseCause = (if stopped s.node && 3 ≤ rd s.node Rg.pwrStatusHaltCause then 4 else cause)
        ∧ rd t.node Rg.pwrResetCauseWarm = satTo 16 (rd s.node Rg.pwrResetCauseWarm + 1) ∧ t.node.fe = Front.reset ∧ t.node.att = Att.reset ∧ t.node.seqs = Seqs.reset ∧ tenantState t.node = tsEmpty
        ∧ rd t.node Rg.cmdStatusReady = 0 ∧ (∀ f : Fld, f.off ≠ Rg.pwrResetCauseCause.off → rd t.node f = bits (regReset f.off) f.lo f.w) ∧ t.node.hmem = s.node.hmem ∧ t.node.t1 = s.node.t1
        ∧ t.node.svc.slots = s.node.svc.slots ∧ t.node.svc.seqNext = s.node.svc.seqNext ∧ t.node.svc.hours = s.node.svc.hours ∧ t.node.svc.cycles = s.node.svc.cycles
      (∀ fl : Option Flash, ∃ t : State, exec (.resetN fl) s = .next t ∧ left 1 t ∧ t.node.svc.arrivals = [])
      ∧ (∃ t : State, exec (.pwrCtlReset .mgmt) s = .next t ∧ left 2 t ∧ t.node.svc.arrivals = [])
      ∧ (∃ t : State, exec .watchdogExpiry s = .next t ∧ left 3 t ∧ t.node.svc.arrivals.map (·.code) = if s.node.svc.switched.isSome then [evUpdateRollback] else [])
      ∧ ∀ src : Req, src ≠ .mgmt → exec (.pwrCtlReset src) s = .next (s.withNode (raise s.tck s.node evPwrWriteIgnored (leBytes 4 Rg.pwrCtlReset.off))))
  ∧ (∀ (s : State) (fl : Option Flash), ∃ t : State, exec (.powerOnReset fl) s = .next t ∧ t.tck = Tck.reset ∧ t.last = t.node ∧ t.pending = s.pending ∧ (∀ f : Fld, rd t.node f = bits (regReset f.off) f.lo f.w)
      ∧ t.node.fe = Front.reset ∧ t.node.att = Att.reset ∧ t.node.seqs = Seqs.reset ∧ tenantState t.node = tsEmpty ∧ t.node.hmem = s.node.hmem ∧ t.node.t1 = s.node.t1 ∧ t.node.svc.slots = s.node.svc.slots
      ∧ t.node.svc.hours = s.node.svc.hours ∧ t.node.svc.cycles = s.node.svc.cycles + 1 ∧ t.node.svc.token = none)
  ∧ (∀ (s : State) (torn : Bool),
      (s.node.pwr.step < 6 → stopped s.node = false → ∃ t : State, exec (.lossOfPower true torn) s = .next t ∧ t.node.pwr.step = 6 ∧ t.node.pwr.halting = some 2 ∧ t.tck.upstream = none ∧ t.node.fe = s.node.fe)
      ∧ ∃ t : State, exec (.lossOfPower false torn) s = .next t ∧ stopped t.node = true ∧ t.node.fe = Front.reset ∧ t.node.hmem = s.node.hmem ∧ t.tck.now = s.tck.now
        ∧ rd t.node Rg.pwrResetCauseCause = rd s.node Rg.pwrResetCauseCause ∧ rd t.node Rg.pwrResetCauseWarm = rd s.node Rg.pwrResetCauseWarm
        ∧ (torn = false → t.node.svc.slots = s.node.svc.slots)
        ∧ (torn = true → s.node.svc.arrivals ≠ [] → s.node.svc.slots.length < evrSlots → ∃ r : Bytes, t.node.svc.slots = s.node.svc.slots ++ [r] ∧ field r 0 4 = 0xFFFFFFFF))
  ∧ (∀ (s : State) (ms : BitVec 32) (p : Nat), stopped s.node = false → p = rd s.node Rg.nidBootPhase → s.node.brd.phaseMs ≤ ms.toNat → ms.toNat ≤ s.node.brd.phaseMs + phaseLimit p →
      let goes := fun (w : BootWork) (q : Nat) (P : Node → Prop) => ∃ N : Node, exec (.startUp w ms) s = .next (s.withNode N) ∧ rd N Rg.nidBootPhase = q ∧ P N
      let also := fun (l : List Nat) (N : Node) => N.svc.arrivals.map (·.code) = s.node.svc.arrivals.map (·.code) ++ l
      (p = 0 → match bootCfg s.node with
        | none => goes .rom 0xE (also [evBootCfgBad, evBootFail])
        | some cfg => let a := byteAt cfg 12 % 2
          if imageCheck (imageIn s.node a) = 0 then goes .rom 1 fun N => also [] N ∧ rd N Rg.nidBootSlot = a ∧ rd N Rg.nidBootFallback = 0 ∧ N.brd.phaseMs = ms.toNat ∧ rd N Rg.nidNodeNodeId = field cfg 8 2 % 2 ^ 13
          else if imageCheck (imageIn s.node (1 - a)) = 0 then goes .rom 1 fun N => also [evBootImageBad] N ∧ rd N Rg.nidBootSlot = 1 - a ∧ rd N Rg.nidBootFallback = 1
          else goes .rom 0xE (also [evBootImageBad, evBootImageBad, evBootFail]))
      ∧ (p = 1 → (∀ (l : List Nat) (amps : Nat), goes (.reg (some (l, amps))) 2 fun N => also [] N ∧ N.brd.pmbus = l ∧ N.brd.rated = some amps ∧ N.out = s.node.out ++ [.avsSet Config.fusedSetpoint])
          ∧ goes (.reg none) 2 fun N => also [evIdAbsent] N ∧ N.brd.pmbus = [0x40, 0x41, 0x42, 0x43, 0x44] ∧ N.out = s.node.out ++ [.avsSet Config.fusedSetpoint])
      ∧ (p = 2 → ∀ (d f : List Found) (m : List (Nat × Nat)), (∀ x ∈ d ++ f, x.reject = none) → goes (.ident d f m) 3 fun N => also [] N
          ∧ (∀ x ∈ d, x.dev < 12 → mhas N.brd.dimms x.dev = true) ∧ ∀ x ∈ f, x.dev < 8 → mhas N.brd.flash x.dev = true)
      ∧ (p = 3 → s.node.mic.stacksOut = [] → ∀ l : List (Nat × Nat),
          ((∃ k, k < 8 ∧ ((0, k) ∈ l ∨ (0, k) ∈ s.node.brd.trained)) → goes (.train l) 4 fun N => ∀ k, k < 8 → (k ∈ N.mic.stacksOut ↔ (0, k) ∉ l ∧ (0, k) ∉ s.node.brd.trained))
          ∧ ((∀ k, k < 8 → (0, k) ∉ l ∧ (0, k) ∉ s.node.brd.trained) → goes (.train l) 0xE fun N => rd N Rg.cmdStatusReady = rd s.node Rg.cmdStatusReady))
      ∧ (p = 4 → goes .fw 5 fun N => rd N Rg.cmdStatusFwRun = 1 ∧ N.svc.march = (match bootCfg s.node with
          | some c => if byteAt c 13 = 1 then bootMarch else s.node.svc.march
          | none => s.node.svc.march))
      ∧ (p = 5 → (∀ j ∈ s.node.svc.march, j.why ≠ 2) → s.node.mic.clustersOut.length < 32 → goes .test 6 fun N => N.svc.march = s.node.svc.march)
      ∧ (p = 6 → goes .zero 7 fun N => N.t1 = [] ∧ N.mic.poison = [])
      ∧ (p = 7 → (timeRuns s.tck.state = true → goes .time 8 fun N => N.brd.phaseMs = ms.toNat) ∧ (timeRuns s.tck.state = false → exec (.startUp .time ms) s = .next s))
      ∧ (p = 8 → exec (.startUp (.map none) ms) s = .next s ∧ ∀ m : FMap, ∃ t : State, exec (.startUp (.map (some m)) ms) s = .next t ∧ rd t.node Rg.nidBootPhase = 0xF
          ∧ rd t.node Rg.cmdStatusReady = 1 ∧ rd t.node Rg.nidBootMs = satTo 16 ms.toNat))
  ∧ (∀ (s : State) (ms : BitVec 32) (w : BootWork) (p : Nat), p = rd s.node Rg.nidBootPhase → p < 9 →
      ((ms.toNat < s.node.brd.phaseMs ∨ s.node.brd.phaseMs + phaseLimit p < ms.toNat) → exec (.startUp w ms) s = .next s)
      ∧ (ms.toNat < s.node.brd.phaseMs + phaseLimit p → exec (.phaseLimit w ms) s = .next s)
      ∧ (stopped s.node = false → s.node.brd.phaseMs + phaseLimit p ≤ ms.toNat →
          (p = 0 → ∃ N : Node, exec (.phaseLimit .rom ms) s = .next (s.withNode N) ∧ rd N Rg.nidBootPhase = 0xE ∧ N.svc.arrivals.map (·.code) = s.node.svc.arrivals.map (·.code) ++ [evBootFail])
          ∧ (p = 7 → ∃ N : Node, exec (.phaseLimit .time ms) s = .next (s.withNode N) ∧ rd N Rg.nidBootPhase = 8 ∧ N.brd.phaseMs = ms.toNat)
          ∧ (p = 8 → ∃ N : Node, exec (.phaseLimit (.map none) ms) s = .next (s.withNode N) ∧ rd N Rg.nidBootPhase = 0xF ∧ rd N Rg.cmdStatusReady = 1)))
  ∧ (List.range 9).map phaseLimit = [400, 50, 250, 3000, 800, 40, 5, 2000, 1000]
  ∧ (∀ (s : State) (bus : Fin 5) (dev : BitVec 8) (c : Nat), c = mgetD s.node.brd.busTries (256 * bus.val + dev.toNat) 0 →
      (c < 8 → exec (.busArbitrationLoss bus dev) s = .next (s.withNode { s.node with brd := { s.node.brd with busTries := mset s.node.brd.busTries (256 * bus.val + dev.toNat) (c + 1) } }))
      ∧ (8 ≤ c → ∃ N : Node, exec (.busArbitrationLoss bus dev) s = .next (s.withNode N) ∧ mget? N.brd.busTries (256 * bus.val + dev.toNat) = none ∧ N.bank = s.node.bank
          ∧ N.svc.arrivals.map (fun e => (e.code, e.args)) = s.node.svc.arrivals.map (fun e => (e.code, e.args)) ++ [(evIdBus, leBytes 1 bus.val ++ leBytes 1 dev.toNat)]))
  ∧ (∀ (s : State) (half : Fin 4) (cxl : Bool),
      (phaseFrom s.node 3 = true → (1, half.val) ∉ s.node.brd.trained → ∃ N : Node, exec (.hostPortLinkUp half cxl) s = .next (s.withNode N) ∧ (1, half.val) ∈ N.brd.trained ∧ N.bank = s.node.bank
        ∧ N.fe = s.node.fe ∧ (cxl = false → N.cxd = s.node.cxd) ∧ (cxl = true → (headOf N half.val).link = true))
      ∧ ((phaseFrom s.node 3 = false ∨ (1, half.val) ∈ s.node.brd.trained) → exec (.hostPortLinkUp half cxl) s = .next s))
  ∧ ∀ (s : State) (u : BitVec 4) (lost : List (Burst × Nat)) (sectors : List Nat),
      (mhas s.node.brd.flash u.toNat = true → ∃ N : Node, exec (.moduleRemoved true u lost sectors) s = .next (s.withNode N) ∧ mhas N.brd.flash u.toNat = false ∧ N.brd.dimms = s.node.brd.dimms
        ∧ N.fe = s.node.fe ∧ N.t1 = s.node.t1 ∧ ((sectors = [] ∨ u.toNat ∈ s.node.mic.flashOut) → N.svc = s.node.svc ∧ N.bank = s.node.bank ∧ N.mic = s.node.mic))
      ∧ (mhas s.node.brd.dimms u.toNat = true → ∃ N : Node, exec (.moduleRemoved false u lost sectors) s = .next (s.withNode N) ∧ mhas N.brd.dimms u.toNat = false ∧ N.brd.flash = s.node.brd.flash
        ∧ N.fe = s.node.fe ∧ N.t1 = s.node.t1 ∧ ((lost = [] ∨ u.toNat ∈ s.node.mic.ddrOut) → N.svc = s.node.svc ∧ N.bank = s.node.bank ∧ N.mic = s.node.mic))
      ∧ (mhas s.node.brd.flash u.toNat = false → exec (.moduleRemoved true u lost sectors) s = .next s)
      ∧ (mhas s.node.brd.dimms u.toNat = false → exec (.moduleRemoved false u lost sectors) s = .next s)

/-- An image is staged and checked, a unit recalibrated, and a commit switches, times out, is confirmed or rolled back: For every state. UPDATE_STAGE of an image writes
it to the slot that is not running and checks it: good, it is staged, recorded, and completes with its digest's first 16 bytes; bad, the slot is unusable, and it completes at offset 32 with
EV_BOOT_IMAGE_BAD. For a unit it begins a recalibration, which stops the unit at the next tick boundary, brings back one that was up and completes with the notches taken, or after
1,024 ticks completes with ST_DEADLINE and EV_TRAIN_FAIL. UPDATE_COMMIT with no image staged completes at offset 24, else is kept for its tick; at a tick boundary then, with firmware
done, the slot that runs and EV_UPDATE_SWITCH change together, the measurements before being kept; otherwise nothing happens. A commit 1,024 ticks old completes with
ST_DEADLINE. 1,024 ticks after the switch it completes with the switch tick and the configuration names the slot, one SEQ later. A roll-back resets the node with cause 3 and records
EV_UPDATE_ROLLBACK. -/
def Obligations.ImagesAndUnitsAreReplacedLive : Prop :=
  (∀ (s : State) (h : Word) (c : Cmd) (img : Bytes), Runs s.node h opUpdateStage c → rsv c 26 31 = [] → rsv c 44 63 = [] →
      (c.f 24 1 = 0 → commitPending s.node = false → rsv c 25 25 = [] → mult (c.f 32 8) 4096 = true → c.f 40 4 ≤ 0x780000 → img = hostRead s.node c.mem (c.f 32 8) (c.f 40 4) →
        if imageCheck img = 0 then ∃ M : Node, exec (.updateStage h) s = .next (s.withNode (complete s.tck M c.handle stOk (slice img 16 16))) ∧ mget? M.brd.images (1 - rd s.node Rg.nidBootSlot) = some img
          ∧ M.svc.staged = some ⟨1 - rd s.node Rg.nidBootSlot, slice img 16 48, field img 8 2⟩ ∧ M.svc.arrivals.map (·.code) = s.node.svc.arrivals.map (·.code) ++ [evUpdateStaged]
          ∧ M.bank = s.node.bank ∧ M.sec = s.node.sec ∧ M.fe = s.node.fe
        else ∃ M : Node, exec (.updateStage h) s = .next (s.withNode (complete s.tck M c.handle stBadParam (leBytes 1 32))) ∧ mget? M.brd.images (1 - rd s.node Rg.nidBootSlot) = some [] ∧ M.svc.staged = none
          ∧ M.svc.arrivals.map (fun e => (e.code, e.args)) = s.node.svc.arrivals.map (fun e => (e.code, e.args)) ++ [(evBootImageBad, leBytes 1 (1 - rd s.node Rg.nidBootSlot) ++ leBytes 1 (imageCheck img))]
          ∧ M.bank = s.node.bank ∧ M.sec = s.node.sec ∧ M.fe = s.node.fe)
      ∧ (c.f 24 1 = 0 → commitPending s.node = true → exec (.updateStage h) s = .next (s.withNode (complete s.tck s.node h.toNat stBadParam (leBytes 1 24))))
      ∧ (c.f 24 1 = 1 → recalUnit (c.f 25 1) = true → rsv c 32 39 = [] → rsv c 40 43 = [] → ∀ i ∈ [Instr.updateStage h, .recalibration (.command h.toNat)], ∃ N : Node, exec i s = .next (s.withNode N)
          ∧ N.svc.recal = s.node.svc.recal.filter (fun r => r.unit != c.f 25 1 || !r.dead) ++ [⟨c.handle, c.f 25 1, c.accTick, none, false, false⟩]
          ∧ findCmd N h.toNat = some { c with stage := .running } ∧ N.bank = s.node.bank ∧ N.out = s.node.out))
  ∧ (∀ (s : State) (r : Recal), s.node.svc.recal = [r] → recalUnit r.unit = true → r.start = none →
      (r.accTick + 1 ≤ s.tck.tick → ∃ N : Node, exec (.recalibration .stop) s = .next (s.withNode N) ∧ N.svc.recal = [{ r with start := some s.tck.notches, was := unitUp s.node r.unit }] ∧ unitUp N r.unit = false ∧ N.fe = s.node.fe)
      ∧ (s.tck.tick < r.accTick + 1 → exec (.recalibration .stop) s = .next s))
  ∧ (∀ (s : State) (r : Recal) (k : Nat), s.node.svc.recal = [r] → recalUnit r.unit = true → r.dead = false → r.start = some k →
      ∃ M : Node, exec (.recalibration (.back r.unit)) s = .next (s.withNode (complete s.tck M r.handle stOk (leBytes 4 (s.tck.notches - k)))) ∧ M.svc.recal = [] ∧ M.fe = s.node.fe
        ∧ (r.was = false → M.bank = s.node.bank ∧ M.brd = s.node.brd) ∧ (r.was = true → (r.unit < 8 → portMayStart s.node r.unit = true) → unitUp M r.unit = true))
  ∧ (∀ (s : State) (h : Word) (c : Cmd) (r : Recal), findCmd s.node h.toNat = some c → s.node.svc.recal = [r] → r.handle = h.toNat → r.dead = false →
      (s.tck.now < c.accTime + 1024 * unitsPerTick s.tck.cur → exec (.recalibrationTimeout h) s = .next s)
      ∧ (c.accTime + 1024 * unitsPerTick s.tck.cur ≤ s.tck.now → ∃ M : Node, exec (.recalibrationTimeout h) s = .next (s.withNode (complete s.tck M h.toNat stDeadline []))
          ∧ M.svc.recal = [{ r with dead := true, start := some (r.start.getD s.tck.notches) }] ∧ evTrainFail ∈ M.svc.arrivals.map (·.code) ∧ M.fe = s.node.fe
          ∧ (r.start ≠ none → M.svc.arrivals.map (·.code) = s.node.svc.arrivals.map (·.code) ++ [evTrainFail])))
  ∧ (∀ (s : State) (h : Word) (c : Cmd), Runs s.node h opUpdateCommit c →
      (s.node.svc.staged = none → exec (.updateCommit h) s = .next (s.withNode (complete s.tck s.node h.toNat stBadParam (leBytes 1 24))))
      ∧ (s.node.svc.staged ≠ none → rsv c 32 63 = [] → ∃ N : Node, exec (.updateCommit h) s = .next (s.withNode N) ∧ N.svc.commit = some (h.toNat, if c.f 24 8 = 0 then c.accTick + 1 else c.f 24 8, c.accTick)
          ∧ findCmd N h.toNat = some { c with stage := .running } ∧ N.svc.staged = s.node.svc.staged ∧ N.bank = s.node.bank ∧ N.out = s.node.out))
  ∧ (∀ (s : State) (h sw a : Nat) (x : Image), s.node.svc.commit = some (h, sw, a) → s.node.svc.staged = some x →
      (s.tck.notch = 0 → a < s.tck.tick → sw ≤ s.tck.tick → fwFinished s.node h = true → ∃ N : Node, exec .updateSwitch s = .next (s.withNode N) ∧ rd N Rg.nidBootSlot = x.slot % 2 ∧ N.svc.commit = none
          ∧ N.svc.staged = none ∧ N.svc.switched = some (h, s.tck.tick, rd s.node Rg.nidBootSlot) ∧ N.sec.prior = some (s.tck.tick, (List.range 6).map fun i => (i + 1, measurement s.node (i + 1)))
          ∧ rd N Rg.secSvnFwSvn = field (imageIn s.node x.slot) 8 2 ∧ evUpdateSwitch ∈ N.svc.arrivals.map (·.code)
          ∧ ((∀ e ∈ s.node.wts.sets, e.2.bound = false) → N.fe = s.node.fe ∧ N.svc.arrivals.map (·.code) = s.node.svc.arrivals.map (·.code) ++ [evUpdateSwitch]))
      ∧ ((s.tck.notch ≠ 0 ∨ s.tck.tick ≤ a ∨ s.tck.tick < sw ∨ fwFinished s.node h = false) → exec .updateSwitch s = .next s))
  ∧ (∀ (s : State) (h sw a : Nat) (c : Cmd), s.node.svc.commit = some (h, sw, a) → findCmd s.node h = some c →
      (s.tck.now < c.accTime + 1024 * unitsPerTick s.tck.cur → exec .switchTimeout s = .next s)
      ∧ (c.accTime + 1024 * unitsPerTick s.tck.cur ≤ s.tck.now →
          exec .switchTimeout s = .next (s.withNode (complete s.tck { s.node with svc := { s.node.svc with commit := none } } h stDeadline []))))
  ∧ (∀ (s : State) (h k old : Nat), s.node.svc.switched = some (h, k, old) →
      (s.tck.tick < k + 1024 → exec .updateConfirm s = .next s)
      ∧ (k + 1024 ≤ s.tck.tick → ∃ M : Node, exec .updateConfirm s = .next (s.withNode (complete s.tck M h stOk (leBytes 8 k))) ∧ M.svc.switched = none ∧ M.fe = s.node.fe
          ∧ ∀ b : Bytes, bootCfg s.node = some b → ∃ b' : Bytes, mget? M.brd.cfg (cfgToWrite s.node) = some b' ∧ byteAt b' 12 = rd s.node Rg.nidBootSlot ∧ field b' 4 4 = (field b 4 4 + 1) % 2 ^ 32)
      ∧ ∃ t : State, exec .updateRollback s = .next t ∧ rd t.node Rg.pwrResetCauseCause = (if stopped s.node && 3 ≤ rd s.node Rg.pwrStatusHaltCause then 4 else 3)
          ∧ t.node.svc.arrivals.map (·.code) = [evUpdateRollback] ∧ t.node.fe = Front.reset ∧ t.node.brd.cfg = s.node.brd.cfg ∧ t.node.brd.images = s.node.brd.images ∧ t.tck.now = s.tck.now)
  ∧ ∀ s : State, s.node.svc.switched = none → exec .updateRollback s = .next s

/-- March tests and retirements run on their units, and the recorder keeps what is raised until it is cleared: For every state. MARCH_TEST of a form, kind and units in range
waits its turn as a job; a unit out of range completes at offset 26; after 65,536 ticks it completes with ST_DEADLINE and the counts of the part done. RETIRE_PCH of a channel retired
already completes with nothing moved, of one with nothing left in it retires it; a retired one is tested for its return; a module not fitted is out already; one lacking room completes at offset 26;
one brought in needs an identity that is not rejected. The first event that waits is recorded with the next sequence count and its code's pending count, one over its limit adds to that
count, one during an erase waits in the buffer; events beyond the 64 that the buffer has room for, and one that finds every slot taken, are counted in DROPPED. CLEAR and the slot selection are the management path's alone; after the erase the first record is
EV_EVR_CLEARED with the records erased and DROPPED, which is then 0; a selected slot shows in the data registers, 0xFF where it is erased. -/
def Obligations.MarchTestsRetirementsAndTheRecorder : Prop :=
  (∀ (s : State) (h : Word) (c : Cmd) (units : Nat), Runs s.node h opMarchTest c → c.f 24 1 ≤ 1 → c.f 25 1 ≤ 2 → units = (if c.f 25 1 = 1 then 32 else 1024) → rsv c 30 63 = [] →
      (c.f 28 2 ≠ 0 → c.f 26 2 + c.f 28 2 ≤ units → ∃ N : Node, exec (.marchTest h) s = .next (s.withNode N)
        ∧ N.svc.march = s.node.svc.march ++ [⟨0, h.toNat, c.f 24 1, c.f 25 1, c.f 26 2, c.f 28 2, 0, 0, 0, 0⟩] ∧ findCmd N h.toNat = some { c with stage := .running } ∧ N.bank = s.node.bank ∧ N.t1 = s.node.t1)
      ∧ (units ≤ c.f 26 2 → exec (.marchTest h) s = .next (s.withNode (complete s.tck s.node h.toNat stBadParam (leBytes 1 26)))))
  ∧ (∀ (s : State) (h : Word) (c : Cmd) (j : MarchJob), findCmd s.node h.toNat = some c → s.node.svc.march = [j] → j.why = 0 → j.handle = h.toNat →
      (s.tck.now < c.accTime + 65536 * unitsPerTick s.tck.cur → exec (.marchTestTimeout h) s = .next s)
      ∧ (c.accTime + 65536 * unitsPerTick s.tck.cur ≤ s.tck.now → ∃ M : Node, exec (.marchTestTimeout h) s = .next (s.withNode (complete s.tck M h.toNat stDeadline (leBytes 4 j.tested ++ leBytes 4 j.failed ++ leBytes 4 j.skipped)))
          ∧ M.svc.march = [] ∧ M.fe = s.node.fe ∧ M.bank = s.node.bank))
  ∧ (∀ (s : State) (h : Word) (c : Cmd) (d : Option Found) (u : Nat), Runs s.node h opRetirePch c → u = c.f 26 2 → rsv c 28 63 = [] →
      let done := fun r : Bytes => exec (.retirePch h d) s = .next (s.withNode (complete s.tck s.node h.toNat stOk r))
      let bad := exec (.retirePch h d) s = .next (s.withNode (complete s.tck s.node h.toNat stBadParam (leBytes 1 26)))
      (c.f 24 1 = 0 → c.f 25 1 = 0 → u < 1024 → (u ∈ s.node.mic.retired → done (leBytes 4 0))
        ∧ (u ∉ s.node.mic.retired → s.node.mic.retiring = [] → s.node.ter.pages = [] → s.node.ter.moves = [] → s.node.wts.sets = [] → s.node.cxd.exts = [] → retireLeft s.node u = false →
          ∃ M : Node, exec (.retirePch h d) s = .next (s.withNode (complete s.tck M h.toNat stOk (leBytes 4 0))) ∧ M.mic.retired = s.node.mic.retired ++ [u] ∧ M.mic.retiring = []
            ∧ findCmd M h.toNat = some { c with stage := .running } ∧ M.svc.arrivals.map (·.code) = s.node.svc.arrivals.map (·.code) ++ [evPchRetired] ∧ M.bank = s.node.bank))
      ∧ (c.f 24 1 = 0 → c.f 25 1 = 1 → u < 1024 → (u ∉ s.node.mic.retired → done (leBytes 4 0))
        ∧ (u ∈ s.node.mic.retired → ∃ N : Node, exec (.retirePch h d) s = .next (s.withNode N) ∧ N.svc.march = s.node.svc.march ++ [⟨1, h.toNat, 0, 0, u, 1, 0, 0, 0, 0⟩]
          ∧ findCmd N h.toNat = some { c with stage := .running } ∧ N.bank = s.node.bank))
      ∧ (c.f 24 1 = 1 → c.f 25 1 = 0 → u < 12 → (mhas s.node.brd.dimms u = false ∨ u ∈ s.node.mic.ddrOut → done (leBytes 4 0))
        ∧ ∀ x : Nat × Nat, mget? s.node.brd.dimms u = some x → u ∉ s.node.mic.ddrOut → t2Bytes s.node - x.1 < directBytes s.node + recSize s.node → bad)
      ∧ (c.f 24 1 = 1 → c.f 25 1 = 1 → u < 12 → (d = none → bad) ∧ ∀ x : Found, d = some x → halfSpeed s.node (u / 6) ≤ x.speed → x.reject = none →
          ∃ M : Node, exec (.retirePch h d) s = .next (s.withNode (complete s.tck M h.toNat stOk (leBytes 4 0))) ∧ mget? M.brd.dimms u = some (x.cap, x.speed) ∧ u ∉ M.mic.ddrOut
            ∧ M.svc.arrivals.map (·.code) = s.node.svc.arrivals.map (·.code) ++ [evModuleIn])
      ∧ (c.f 24 1 = 2 → c.f 25 1 = 1 → u < 8 → (d = none → bad) ∧ ∀ x : Found, d = some x → x.reject = none →
          ∃ M : Node, exec (.retirePch h d) s = .next (s.withNode (complete s.tck M h.toNat stOk (leBytes 4 0))) ∧ mget? M.brd.flash u = some x.cap ∧ u ∉ M.mic.flashOut
            ∧ M.svc.arrivals.map (·.code) = s.node.svc.arrivals.map (·.code) ++ [evModuleIn])
      ∧ (∀ x : Found, d = some x → c.f 25 1 = 1 → (c.f 24 1 = 1 ∧ u < 12 ∧ (x.speed < halfSpeed s.node (u / 6) ∨ x.reject ≠ none)) ∨ (c.f 24 1 = 2 ∧ u < 8 ∧ x.reject ≠ none) →
          ∃ M : Node, exec (.retirePch h d) s = .next (s.withNode (complete s.tck M h.toNat stBadParam (leBytes 1 26))) ∧ M.brd = s.node.brd ∧ M.svc.arrivals.map (·.code) = s.node.svc.arrivals.map (·.code) ++ [evIdReject])
      ∧ (c.f 24 1 = 2 → c.f 25 1 = 0 → u < 8 → (mhas s.node.brd.flash u = false ∨ u ∈ s.node.mic.flashOut → done (leBytes 4 0))
        ∧ ∀ x : Nat, mget? s.node.brd.flash u = some x → u ∉ s.node.mic.flashOut → (t3Bytes s.node - x < t3Used s.node → bad)
          ∧ (t3Used s.node ≤ t3Bytes s.node - x → ∃ (M : Node) (moved : Nat), exec (.retirePch h d) s = .next (s.withNode (complete s.tck M h.toNat stOk (leBytes 4 moved))) ∧ u ∈ M.mic.flashOut
            ∧ M.svc.arrivals.map (·.code) = s.node.svc.arrivals.map (·.code) ++ [evModuleOut] ∧ M.freeCtr = s.node.freeCtr + 1))
      ∧ (c.f 24 1 ≤ 2 → c.f 25 1 ≤ 1 → (if c.f 24 1 = 0 then 1024 else if c.f 24 1 = 1 then 12 else 8) ≤ u → bad))
  ∧ (∀ (s : State) (e : Event) (l : List Event) (k supp : Nat), s.node.svc.arrivals = e :: l → l.length + s.node.svc.buffer.length < 64 → supp = mgetD s.node.svc.supp e.code 0 →
      k = (match mget? s.node.svc.winCnt e.code with
        | some (w, n) => if w = rateWindow s.tck s.node e then n else 0
        | none => 0) →
      ∃ N : Node, exec .eventRecord s = .next (s.withNode N) ∧ N.svc.arrivals = l ∧ N.fe = s.node.fe ∧ N.out = s.node.out
        ∧ (unlimited e.code = false → rd s.node Rg.evrRateLimit ≤ k → N.bank = s.node.bank ∧ N.svc.slots = s.node.svc.slots ∧ mgetD N.svc.supp e.code 0 = supp + 1)
        ∧ (unlimited e.code = true ∨ k < rd s.node Rg.evrRateLimit →
            (rdB s.node Rg.evrStatusClearing = false → s.node.svc.slots.length < evrSlots → e.args.length ≤ 8 → N.svc.slots = s.node.svc.slots ++ [evrRecord s.node e s.node.svc.seqNext supp false e.args]
              ∧ N.svc.seqNext = (s.node.svc.seqNext + 1) % 2 ^ 32 ∧ mgetD N.svc.supp e.code 0 = 0 ∧ N.bank = s.node.bank)
            ∧ (rdB s.node Rg.evrStatusClearing = true → N.svc.buffer = s.node.svc.buffer ++ [(e, supp)] ∧ N.svc.slots = s.node.svc.slots ∧ N.bank = s.node.bank)
            ∧ (rdB s.node Rg.evrStatusClearing = false → evrSlots ≤ s.node.svc.slots.length →
                rd N Rg.evrStatusDropped = satTo 15 (rd s.node Rg.evrStatusDropped + 1) ∧ N.svc.slots = s.node.svc.slots ∧ N.svc.buffer = s.node.svc.buffer)))
  ∧ (∀ (s : State) (room : Nat), room = 64 - s.node.svc.buffer.length → room < s.node.svc.arrivals.length →
      ∃ M : Node, exec .eventRecord s = exec .eventRecord (s.withNode M) ∧ M.svc = { s.node.svc with arrivals := s.node.svc.arrivals.take room } ∧ M.fe = s.node.fe ∧ M.t1 = s.node.t1
        ∧ rd M Rg.evrStatusDropped = satTo 15 (rd s.node Rg.evrStatusDropped + (s.node.svc.arrivals.length - room)) ∧ (room = 0 → exec .eventRecord s = .next (s.withNode M)))
  ∧ (∀ s : State, s.node.svc.arrivals = [] → exec .eventRecord s = .next s)
  ∧ (∀ (s : State) (src : Req) (v : Word), Writable s.node →
      (∃ N : Node, exec (.evrClear .mgmt) s = .next (s.withNode N) ∧ rd N Rg.evrStatusClearing = 1 ∧ rd N Rg.evrStatusDropped = rd s.node Rg.evrStatusDropped ∧ N.svc = s.node.svc)
      ∧ (∃ N : Node, exec (.evrRdSelWrite v .mgmt) s = .next (s.withNode N) ∧ rd N Rg.evrRdSelSlot = v.toNat % evrSlots ∧ N.svc = s.node.svc
          ∧ ∀ w, w < 8 → rd N (Rg.evrRdDataData w) = field (s.node.svc.slots.getD (v.toNat % evrSlots) (List.replicate 32 0xFF)) (4 * w) 4)
      ∧ (src ≠ .mgmt → exec (.evrClear src) s = .next s ∧ exec (.evrRdSelWrite v src) s = .next s))
  ∧ ∀ s : State, (rdB s.node Rg.evrStatusClearing = false → exec .evrClearDone s = .next s)
      ∧ (rdB s.node Rg.evrStatusClearing = true → s.node.svc.buffer = [] → s.node.svc.arrivals.length ≤ 64 → ∃ (N : Node) (r : Bytes), exec .evrClearDone s = .next (s.withNode N) ∧ rd N Rg.evrStatusClearing = 0 ∧ rd N Rg.evrStatusDropped = 0
          ∧ N.svc.slots = [r] ∧ field r 4 2 = evEvrCleared ∧ slice r 24 4 = leBytes 2 s.node.svc.slots.length ++ leBytes 2 (rd s.node Rg.evrStatusDropped) ∧ field r 0 4 = s.node.svc.seqNext % 2 ^ 32
          ∧ N.svc.arrivals = s.node.svc.arrivals)

/-- Counters and traces are governed by those who may, unlock tokens open the monitor, and the monitor's commands are answered while it is open: For every state whose
registers take writes. PMC_CTL from the management path or a tenant's host port stops or starts the counters and clears them; a trace record shows to a fine reader alone; others change
nothing. Token words fill 208 bytes from the management path, else the write is recorded. SUBMIT of a token that is not good leaves ST_DENIED; of a good one with no tenant sealed
ST_OK, the token and EV_MON_UNLOCK; with one sealed ST_DENIED and EV_DEBUG_REFUSED, or with FORCE, where no extent is given out, a token that waits. LOCK takes it away, as do the hours it expires at. With a token
active `peek` of terrace 1 or of registers, `regs`, `evlog`, `ticks` and its end, `stacks` and `help` reply as their line says, `poke` under a token with POKE writes as REGISTER_WRITE
of the management path does, and a line out of bounds is answered ERR. Without a token nothing answers unless the debug fuse is blown. -/
def Obligations.CountersTokensAndTheMonitor : Prop :=
  (∀ (s : State) (v : Word) (src : Req), Writable s.node →
      (mayPmc s.node src = true → ∃ N : Node, exec (.pmcCtlWrite v src) s = .next (s.withNode N) ∧ rd N Rg.pmcCtlFreeze = v.toNat % 2 ∧ (bitAt v.toNat 1 = true → N.svc.pmc = [] ∧ ∀ u, u < 64 → rd N (Rg.pmcOvfOvf u) = 0) ∧ (bitAt v.toNat 1 = false → N.svc = s.node.svc))
      ∧ (mayPmc s.node src = false → exec (.pmcCtlWrite v src) s = .next s)
      ∧ (fineView s.node src = true → ∃ N : Node, exec (.pmcTraceSelWrite v src) s = .next (s.withNode N) ∧ rd N Rg.pmcTraceSelSlot = v.toNat % 4096 ∧ N.svc = s.node.svc
        ∧ ∀ w, w < 16 → rd N (Rg.pmcTraceDataData w) = field (mgetD s.node.svc.trace (v.toNat % 4096) (zeros 64)) (4 * w) 4)
      ∧ (fineView s.node src = false → exec (.pmcTraceSelWrite v src) s = .next s)
      ∧ (s.node.svc.tokenBytes.length < 208 → exec (.monTokenDataWrite v .mgmt) s =
          .next (s.withNode { s.node with svc := { s.node.svc with tokenBytes := s.node.svc.tokenBytes ++ leBytes 4 v.toNat } }))
      ∧ (208 ≤ s.node.svc.tokenBytes.length → exec (.monTokenDataWrite v .mgmt) s = .next s)
      ∧ (src ≠ .mgmt → exec (.monTokenDataWrite v src) s = .next (s.withNode (raise s.tck s.node evMonWriteIgnored (leBytes 4 Rg.monTokenDataWord.off)))
        ∧ exec (.submit src) s = .next (s.withNode (raise s.tck s.node evMonWriteIgnored (leBytes 4 Rg.monTokenCtlSubmit.off)))
        ∧ exec (.lock src) s = .next (s.withNode (raise s.tck s.node evMonWriteIgnored (leBytes 4 Rg.monCtlLock.off))))
      ∧ exec (.lock .mgmt) s = .next (s.withNode { s.node with svc := { s.node.svc with token := none, tokenWait := none } }))
  ∧ (∀ (s : State) (b : Bytes) (k : Token), Writable s.node → b = s.node.svc.tokenBytes → k = ⟨field b 52 4, byteAt b 56⟩ →
      ∃ N : Node, exec (.submit .mgmt) s = .next (s.withNode N)
        ∧ if tokenGood s.node b = false then rd N Rg.monTokenCtlResult = stDenied ∧ N.svc = { s.node.svc with tokenBytes := [] }
          else if tenantState s.node = tsSealed then
            if bitAt (byteAt b 56) 0 then s.node.cxd.exts = [] → rd N Rg.monTokenCtlResult = stOk ∧ N.svc.tokenWait = some k ∧ N.svc.tokenBytes = [] ∧ tenantState N = tsFencing
            else rd N Rg.monTokenCtlResult = stDenied ∧ N.svc.token = s.node.svc.token ∧ N.svc.tokenBytes = [] ∧ N.svc.arrivals.map (·.code) = s.node.svc.arrivals.map (·.code) ++ [evDebugRefused]
          else rd N Rg.monTokenCtlResult = stOk ∧ N.svc.token = some k ∧ N.svc.tokenBytes = [] ∧ evMonUnlock ∈ N.svc.arrivals.map (·.code))
  ∧ (∀ b : Bytes, b.length ≠ 208 ∨ field b 0 4 ≠ 0x4B4C4E55 → ∀ n : Node, tokenGood n b = false)
  ∧ (∀ (s : State) (hours : Word), ∃ N : Node, exec (.tokenExpiry hours) s = .next (s.withNode N) ∧ N.svc.hours = max s.node.svc.hours hours.toNat ∧ N.bank = s.node.bank ∧ N.fe = s.node.fe
      ∧ N.svc.token = s.node.svc.token.filter fun k => max s.node.svc.hours hours.toNat < k.expires)
  ∧ (∀ (s : State) (k : Token), s.node.svc.token = some k →
      let replies := fun (i : Instr) (r : MonReply) => exec i s = .next (s.withNode (emit s.node (.mon r)))
      (∀ (a : BitVec 64) (n : Nat), s.node.mic.poison = [] → 1 ≤ n → n ≤ 256 → a.toNat + 8 * n ≤ 1024 * pchBytes →
        replies (.peek true a n) (.words ((List.range n).map fun i => ofLe (Mem.read 0 s.node.t1 (a.toNat + 8 * i) 8))))
      ∧ (∀ (a : BitVec 64) (n : Nat), 1 ≤ n → n ≤ 256 → a.toNat % 4 = 0 → a.toNat + 4 * n ≤ 2 ^ 28 → ∃ (t : State) (l : List Nat), exec (.peek false a n) s = .next t ∧ t.node.out = s.node.out ++ [.mon (.words l)]
        ∧ l.length = n ∧ l.headD 0 = (readReg s.tck s.last s.node .mgmt a.toNat).1 ∧ t.tck = s.tck ∧ t.node.fe = s.node.fe ∧ t.node.t1 = s.node.t1)
      ∧ (∀ (t1 : Bool) (a : BitVec 64) (n : Nat), peekOk t1 a.toNat n = false → replies (.peek t1 a n) .err)
      ∧ (∀ b : BitVec 8, (blockRegs b.toNat = [] → replies (.regs b) .err) ∧ (blockRegs b.toNat ≠ [] → ∃ (t : State) (l : List Nat), exec (.regs b) s = .next t ∧ t.node.out = s.node.out ++ [.mon (.words l)]
        ∧ l.length = (blockRegs b.toNat).length ∧ t.tck = s.tck ∧ t.node.fe = s.node.fe ∧ t.node.t1 = s.node.t1))
      ∧ (∀ (a v : Word), (bitAt k.flags 1 = true → a.toNat % 4 = 0 → a.toNat < 2 ^ 28 →
          ∃ t : State, exec (.poke a v) s = .next t ∧ exec (.registerWrite a v .mgmt) (s.withNode (emit s.node (.mon .done))) = .next t)
        ∧ ((a.toNat % 4 ≠ 0 ∨ 2 ^ 28 ≤ a.toNat) → replies (.poke a v) .err) ∧ (bitAt k.flags 1 = false → replies (.poke a v) .err ∨ Config.debugFuse = true))
      ∧ (∀ (first : Nat) (n : Nat), replies (.evlog first none) (.records ((s.node.svc.slots.drop first).filter fun r => field r 0 4 != 0))
        ∧ replies (.evlog first (some n)) (.records (((s.node.svc.slots.drop first).take n).filter fun r => field r 0 4 != 0)))
      ∧ (∀ n : Nat, (1 ≤ n → n ≤ 256 → exec (.ticks n) s = .next (s.withNode { s.node with svc := { s.node.svc with cap := some ⟨s.tck.tick + 1, n, []⟩ } })) ∧ (n = 0 ∨ 256 < n → replies (.ticks n) .err))
      ∧ (∀ c : TickCap, s.node.svc.cap = some c → (s.tck.tick < c.first + c.n → exec .ticksCaptureDone s = .next s)
        ∧ (c.first + c.n ≤ s.tck.tick → ∃ (N : Node) (l : List TickLine), exec .ticksCaptureDone s = .next (s.withNode N) ∧ N.out = s.node.out ++ [.mon (.ticks l)] ∧ l.map (·.tick) = (List.range c.n).map (c.first + ·)
          ∧ N.svc.cap = none ∧ N.bank = s.node.bank))
      ∧ (∃ N : Node, exec .stacks s = .next (s.withNode N) ∧ N.out = s.node.out ++ [.mon (.stacks ((List.range 8).map (stackLine s.node)))] ∧ N.svc.dump = [] ∧ N.bank = s.node.bank)
      ∧ replies .help .commands ∧ replies (.uartBadLine false) .err ∧ exec (.uartBadLine true) s = .next s)
  ∧ ∀ s : State, s.node.svc.token = none → ∀ (t1 : Bool) (a : BitVec 64) (n : Nat) (b : BitVec 8) (x v : Word) (m : Option Nat),
      ∀ i ∈ [Instr.peek t1 a n, .regs b, .poke x v, .evlog n m, .ticks n, .stacks, .help, .uartBadLine false, .uartBadLine true], exec i s = .next s ∨ Config.debugFuse = true

/-- A register write changes the fields that its table lets it, a read answers what a reader may see, and nothing moves while the registers are shut: For every state. A write of an
offset that names no register, or while the registers are shut (but for ring doorbells), changes nothing. In blocks whose registers have no operation of their own a write puts an RW
field at the value written if its table lists it, leaves every other field and every other register, and raises nothing; a pair of watermarks that breaks R445 is not
written; a 1 clears PWR_RAIL.FAULT; after the seal, until the node is EMPTY, SEC_REC_CFG stays and EV_SEALED_WRITE is recorded. The spill area takes a write while no reservation uses it, else
EV_CFL_WRITE_IGNORED is recorded. A read of no register, or while the registers are shut, answers 0. In blocks that show what they hold a fine reader gets every field, 0 of type WO,
and an ROC field is then 0; any other gets a counting field as the last tick boundary left it, rounded down to a multiple of 1,024, and an ROC field keeps what was not returned. -/
def Obligations.RegisterReadsAndWrites : Prop :=
  (∀ (s : State) (off v : Word) (src : Req),
      (regsShut s.node = true → ¬ (0x108000 ≤ off.toNat ∧ off.toNat < 0x108800) → exec (.registerWrite off v src) s = .next s)
      ∧ (Writable s.node → regAt off.toNat = none → exec (.registerWrite off v src) s = .next s)
      ∧ ((regAt off.toNat = none ∨ regsShut s.node = true ∧ 0x100000 ≤ off.toNat ∧ off.toNat ≠ Rg.cmdStatusReady.off) →
          exec (.registerRead off src) s = .next (s.withNode (emit s.node (.regData src off.toNat 0)))))
  ∧ (∀ (s : State) (off v : Word) (src : Req) (d : RegDef), Writable s.node → regAt off.toNat = some d → off.toNat / 0x100000 ∈ [0, 3, 4, 6, 8, 9, 0xA, 0xD] →
      ∃ N : Node, exec (.registerWrite off v src) s = .next (s.withNode N) ∧ (∀ g : Fld, g.off ≠ off.toNat → rd N g = rd s.node g) ∧ N.fe = s.node.fe ∧ N.svc = s.node.svc ∧ N.t1 = s.node.t1
        ∧ ∀ f ∈ d.fields, rd N ⟨off.toNat, f.lo, f.w⟩ = if f.ty = .rw ∧ fieldTakes f (bits v.toNat f.lo f.w) = true then bits v.toNat f.lo f.w else rd s.node ⟨off.toNat, f.lo, f.w⟩)
  ∧ (∀ (s : State) (v : Word) (src : Req) (r : Fin 6), Writable s.node →
      (bits v.toNat 8 7 ≤ bits v.toNat 0 7 → exec (.registerWrite (BitVec.ofNat 32 Rg.terWmLow.off) v src) s = .next s)
      ∧ (∃ N : Node, exec (.registerWrite (BitVec.ofNat 32 (Rg.pwrRailFault r.val).off) v src) s = .next (s.withNode N) ∧ rd N (Rg.pwrRailMv r.val) = rd s.node (Rg.pwrRailMv r.val)
          ∧ rd N (Rg.pwrRailFault r.val) = if bitAt v.toNat 29 then 0 else rd s.node (Rg.pwrRailFault r.val))
      ∧ ∃ N : Node, exec (.registerWrite (BitVec.ofNat 32 Rg.secRecCfgMib.off) v src) s = .next (s.withNode N)
          ∧ (slShut s.node = true → rd N Rg.secRecCfgMib = rd s.node Rg.secRecCfgMib ∧ evSealedWrite ∈ N.svc.arrivals.map (·.code)))
  ∧ (∀ (s : State) (k : Fin 3) (v : Word), Writable s.node →
      (spillUsed s.node = true → exec (.cflSpillWrite k v) s = .next (s.withNode (raise s.tck s.node evCflWriteIgnored (leBytes 4 (0x500008 + 4 * k.val)))))
      ∧ (spillUsed s.node = false → ∃ N : Node, exec (.cflSpillWrite k v) s = .next (s.withNode N) ∧ N.svc = s.node.svc ∧ N.cfl = s.node.cfl
          ∧ rd N Rg.cflSpillBaseLoBase = (if k = 0 then bits v.toNat 20 12 else rd s.node Rg.cflSpillBaseLoBase) ∧ rd N Rg.cflSpillBaseHiBase = (if k = 1 then v.toNat else rd s.node Rg.cflSpillBaseHiBase)
          ∧ rd N Rg.cflSpillSizeMib = (if k = 2 then bits v.toNat 0 16 else rd s.node Rg.cflSpillSizeMib)))
  ∧ ∀ (s : State) (off : Word) (src : Req) (d : RegDef), Writable s.node → regAt off.toNat = some d → off.toNat / 0x100000 ∈ [0, 0xD, 0xE] →
      ∃ (t : State) (x : Nat), exec (.registerRead off src) s = .next t ∧ t.tck = s.tck ∧ t.node.out = s.node.out ++ [.regData src off.toNat x] ∧ t.node.fe = s.node.fe ∧ t.node.svc = s.node.svc
        ∧ (∀ g : Fld, g.off ≠ off.toNat → rd t.node g = rd s.node g)
        ∧ ∀ f ∈ d.fields, (f.ty = .wo → bits x f.lo f.w = 0) ∧ (f.ty ≠ .roc → rd t.node ⟨off.toNat, f.lo, f.w⟩ = rd s.node ⟨off.toNat, f.lo, f.w⟩)
            ∧ (f.ty ≠ .wo → fineView s.node src = true ∨ countsOf d f = false → bits x f.lo f.w = rd s.node ⟨off.toNat, f.lo, f.w⟩)
            ∧ (f.ty ≠ .wo → fineView s.node src = false → countsOf d f = true → bits x f.lo f.w = rd s.last ⟨off.toNat, f.lo, f.w⟩ / 1024 * 1024)
            ∧ (f.ty = .roc → rd t.node ⟨off.toNat, f.lo, f.w⟩ = if fineView s.node src then 0 else rd s.node ⟨off.toNat, f.lo, f.w⟩ - bits x f.lo f.w)

/-- The conversion totals of a tick become the snapshot, a reader's view and the clip alarms, and a rescale table is loaded while nothing is bound to it: For every state. After a
tick boundary the totals of the tick just ended, or none where nothing was converted in it, become the snapshot and the running totals begin at 0; each class whose alarm is enabled, with 1,024
conversions at least and a clipped share over the threshold in the totals latched, records EV_CLIP_HIGH with its class, tick and counts; within a tick nothing changes. A read of
ATT_CVT_TICK_LO latches what is due, gives its requester the snapshot as its view and leaves the others' views. A table takes 4,096 channels' entries of a layer's rescale data, each +0 or a
finite normal number, shows LOADED and is counted in LOADS while no item is bound to it and its set is usable; any other load changes nothing. -/
def Obligations.SnapshotsViewsAndRescaleTables : Prop :=
  (∀ (s : State) (R S : CvtTotals), R = s.node.cvt.run → S = (if R.tick + 1 = s.tck.tick then R else ⟨s.tck.tick - 1, [], [], []⟩) →
      (R.tick < s.tck.tick → ∃ N : Node, exec .cvtTickSnapshot s = .next (s.withNode N) ∧ N.cvt.snap = S ∧ N.cvt.run = ⟨s.tck.tick, [], [], []⟩ ∧ N.cvt.views = s.node.cvt.views ∧ N.bank = s.node.bank
        ∧ N.fe = s.node.fe ∧ N.svc.arrivals.map (fun e => (e.code, e.args)) = s.node.svc.arrivals.map (fun e => (e.code, e.args)) ++
          ((List.range 8).filter fun k => bitAt (rd s.node Rg.attCvtAlarmEn) k && (1024 ≤ mgetD R.conv k 0 && rd s.node Rg.attCvtAlarmThr * mgetD R.conv k 0 < mgetD R.clip k 0 * 65536)).map
            fun k => (evClipHigh, leBytes 1 k ++ leBytes 8 R.tick ++ leBytes 4 (mgetD R.conv k 0) ++ leBytes 4 (mgetD R.clip k 0)))
      ∧ (s.tck.tick ≤ R.tick → exec .cvtTickSnapshot s = .next s))
  ∧ (∀ (s : State) (r : Req), Writable s.node → ∃ M N : Node, exec .cvtTickSnapshot s = .next (s.withNode M) ∧ exec (.attCvtTickLoRead r) s = .next (s.withNode N) ∧ cvtView N r = M.cvt.snap
      ∧ (∀ q : Req, viewKey q ≠ viewKey r → cvtView N q = cvtView s.node q) ∧ N.cvt.snap = M.cvt.snap ∧ N.cvt.run = M.cvt.run ∧ N.bank = s.node.bank ∧ N.svc = M.svc)
  ∧ (∀ (s : State) (r : Req), regsShut s.node = true → exec (.attCvtTickLoRead r) s = .next s)
  ∧ ∀ (s : State) (c : Fin 32) (k : Fin 8) (wset : Word) (layer : Nat) (p : Fin 4) (part : Nat),
      (mget? s.node.wts.sets wset.toNat = none → exec (.rescaleTableLoad c k wset layer p part) s = .next s)
      ∧ ∀ (w : WSet) (v : Nat) (e : List Nat), mget? s.node.wts.sets wset.toNat = some w → v = rescaleTensor (layerDesc w.image layer) p.val →
        e = ((vecOf s.node wset.toNat w v).drop (4096 * part)).take 4096 →
        (usable s.node w = true → layer < imgLayers w.image → v ≠ 0xFFFF → e ≠ [] → 8 * c.val + k.val ∉ s.node.att.bound → (∀ x ∈ e, x = 0 ∨ (x / 2 ^ 23 % 256 ≠ 0 ∧ x / 2 ^ 23 % 256 ≠ 255)) →
          ∃ N : Node, exec (.rescaleTableLoad c k wset layer p part) s = .next (s.withNode N) ∧ mget? N.att.tables (8 * c.val + k.val) = some e
            ∧ mget? N.att.tableOf (8 * c.val + k.val) = some (wset.toNat, layer, p.val, part)
            ∧ (∀ j, j ≠ 8 * c.val + k.val → mget? N.att.tables j = mget? s.node.att.tables j ∧ mget? N.att.tableOf j = mget? s.node.att.tableOf j)
            ∧ (∀ j, j < 8 → bitAt (viewAtt N .mgmt (Rg.attRstStatusLoaded c.val).off) j = (j == k.val || bitAt (viewAtt s.node .mgmt (Rg.attRstStatusLoaded c.val).off) j))
            ∧ rd N (Rg.attRstStatusLoads c.val) = satTo (Rg.attRstStatusLoads c.val).w (rd s.node (Rg.attRstStatusLoads c.val) + 1) ∧ N.fe = s.node.fe ∧ N.svc = s.node.svc ∧ N.att.bound = s.node.att.bound)
        ∧ ((usable s.node w = false ∨ imgLayers w.image ≤ layer ∨ v = 0xFFFF ∨ e = [] ∨ 8 * c.val + k.val ∈ s.node.att.bound ∨ ∃ x ∈ e, x ≠ 0 ∧ (x / 2 ^ 23 % 256 = 0 ∨ x / 2 ^ 23 % 256 = 255)) →
            exec (.rescaleTableLoad c k wset layer p part) s = .next s)
end

