-- ==== Sys2Proof/Laws/Map.lean ====
section
/-! SUPPORT. Laws of keyed lists and memories: a read after a write, and the canonical form that every memory operation keeps. -/

namespace Sys2Proof.Machine

variable {β : Type}

@[simp] theorem mget?_nil (k : Nat) : mget? ([] : NMap β) k = none := rfl

theorem mget?_cons (k k' : Nat) (v : β) (t : NMap β) : mget? ((k', v) :: t) k = if k' = k then some v else mget? t k := rfl

/-- The value just set is the one read. -/
@[simp] theorem mget?_mset_self (m : NMap β) (k : Nat) (v : β) : mget? (mset m k v) k = some v := by
  induction m with
  | nil => simp [mset, mget?]
  | cons x t ih =>
    obtain ⟨a, b⟩ := x
    unfold mset
    split
    · simp [mget?]
    · split
      · simp [mget?]
      · have : a ≠ k := by omega
        simp [mget?, this, ih]

/-- Setting a key leaves every other key's value. -/
theorem mget?_mset_ne (m : NMap β) (k j : Nat) (v : β) (h : j ≠ k) : mget? (mset m k v) j = mget? m j := by
  induction m with
  | nil => simp [mset, mget?, Ne.symm h]
  | cons x t ih =>
    obtain ⟨a, b⟩ := x
    unfold mset
    split
    · simp [mget?, Ne.symm h]
    · split
      · rename_i _ hk
        subst hk
        simp [mget?, Ne.symm h]
      · simp [mget?, ih]

/-- Both at once. -/
theorem mget?_mset (m : NMap β) (k j : Nat) (v : β) : mget? (mset m k v) j = if j = k then some v else mget? m j := by
  by_cases h : j = k
  · subst h; simp
  · simp [h, mget?_mset_ne]

@[simp] theorem mgetD_mset_self (m : NMap β) (k : Nat) (v d : β) : mgetD (mset m k v) k d = v := by simp [mgetD]

theorem mgetD_mset_ne (m : NMap β) (k j : Nat) (v d : β) (h : j ≠ k) : mgetD (mset m k v) j d = mgetD m j d := by simp [mgetD, mget?_mset_ne _ _ _ _ h]

/-! The canonical form. -/

/-- A later start is weaker. -/
theorem risingFrom_le {a b : Nat} (m : NMap β) (hab : a ≤ b) (h : risingFrom b m = true) : risingFrom a m = true := by
  cases m with
  | nil => rfl
  | cons x t =>
    simp only [risingFrom, Bool.and_eq_true, decide_eq_true_eq] at *
    exact ⟨by omega, h.2⟩

/-- Setting a key keeps the keys rising. -/
theorem risingFrom_mset (m : NMap β) (lo k : Nat) (v : β) (hk : lo ≤ k) (h : risingFrom lo m = true) : risingFrom lo (mset m k v) = true := by
  induction m generalizing lo with
  | nil => simp [mset, risingFrom, hk]
  | cons x t ih =>
    obtain ⟨a, b⟩ := x
    simp only [risingFrom, Bool.and_eq_true, decide_eq_true_eq] at h
    unfold mset
    split
    · simp only [risingFrom, Bool.and_eq_true, decide_eq_true_eq]
      exact ⟨hk, by omega, h.2⟩
    · split
      · rename_i _ e
        subst e
        simp only [risingFrom, Bool.and_eq_true, decide_eq_true_eq]
        exact ⟨hk, h.2⟩
      · simp only [risingFrom, Bool.and_eq_true, decide_eq_true_eq]
        exact ⟨h.1, ih (a + 1) (by omega) h.2⟩

/-- Removing a key keeps the keys rising. -/
theorem risingFrom_mdel (m : NMap β) (lo k : Nat) (h : risingFrom lo m = true) : risingFrom lo (mdel m k) = true := by
  induction m generalizing lo with
  | nil => rfl
  | cons x t ih =>
    obtain ⟨a, b⟩ := x
    simp only [risingFrom, Bool.and_eq_true, decide_eq_true_eq] at h
    unfold mdel
    split
    · exact risingFrom_le _ (by omega) (ih (a + 1) h.2)
    · simp only [risingFrom, Bool.and_eq_true, decide_eq_true_eq]
      exact ⟨h.1, ih (a + 1) h.2⟩

/-- Dropping entries keeps the keys rising. -/
theorem risingFrom_filter (m : NMap β) (lo : Nat) (p : Nat × β → Bool) (h : risingFrom lo m = true) : risingFrom lo (m.filter p) = true := by
  induction m generalizing lo with
  | nil => rfl
  | cons x t ih =>
    obtain ⟨a, b⟩ := x
    simp only [risingFrom, Bool.and_eq_true, decide_eq_true_eq] at h
    rw [List.filter_cons]
    split
    · simp only [risingFrom, Bool.and_eq_true, decide_eq_true_eq]
      exact ⟨h.1, ih (a + 1) h.2⟩
    · exact risingFrom_le _ (by omega) (ih (a + 1) h.2)

/-- What holds of every entry, and of the new one, holds of every entry after a set. -/
theorem all_mset (m : NMap β) (k : Nat) (v : β) (p : Nat × β → Bool) (hv : p (k, v) = true) (h : m.all p = true) : (mset m k v).all p = true := by
  induction m with
  | nil => simp [mset, hv]
  | cons x t ih =>
    obtain ⟨a, b⟩ := x
    simp only [List.all_cons, Bool.and_eq_true] at h
    unfold mset
    split
    · simp [hv, h.1, h.2]
    · split
      · simp [hv, h.2]
      · simp [h.1, ih h.2]

/-- What holds of every entry holds after a removal. -/
theorem all_mdel (m : NMap β) (k : Nat) (p : Nat × β → Bool) (h : m.all p = true) : (mdel m k).all p = true := by
  induction m with
  | nil => rfl
  | cons x t ih =>
    obtain ⟨a, b⟩ := x
    simp only [List.all_cons, Bool.and_eq_true] at h
    unfold mdel
    split
    · exact ih h.2
    · simp [h.1, ih h.2]

/-- What holds of every entry holds of those kept. -/
theorem all_filter_of_all (m : NMap β) (p q : Nat × β → Bool) (h : m.all p = true) : (m.filter q).all p = true := by
  simp only [List.all_eq_true] at *
  exact fun x hx => h x (List.mem_filter.mp hx).1

/-- Storing a byte keeps the canonical form. -/
theorem Memory.wf_put (d : Byte) (m : Mem) (a : Nat) (v : Byte) (h : Memory.wf d m = true) : Memory.wf d (Mem.put d m a v) = true := by
  simp only [Memory.wf, Bool.and_eq_true] at *
  unfold Mem.put
  split
  · exact ⟨risingFrom_mdel m 0 a h.1, all_mdel m a _ h.2⟩
  · rename_i hv
    exact ⟨risingFrom_mset m 0 a v (Nat.zero_le _) h.1, all_mset m a v _ (by simp [hv]) h.2⟩

/-- Storing a string keeps the canonical form. -/
theorem Memory.wf_write (d : Byte) (b : Bytes) (m : Mem) (a : Nat) (h : Memory.wf d m = true) : Memory.wf d (Mem.write d m a b) = true := by
  induction b generalizing m a with
  | nil => exact h
  | cons x t ih => exact ih _ _ (Memory.wf_put d m a x h)

/-- Clearing keeps the canonical form. -/
theorem Memory.wf_clear (d : Byte) (m : Mem) (a n : Nat) (h : Memory.wf d m = true) : Memory.wf d (Mem.clear m a n) = true := by
  simp only [Memory.wf, Bool.and_eq_true] at *
  exact ⟨risingFrom_filter m 0 _ h.1, all_filter_of_all m _ _ h.2⟩

/-- Copying cells keeps the canonical form. -/
theorem Memory.wf_shift (d : Byte) (m : Mem) (src dst len : Nat) (h : Memory.wf d m = true) : Memory.wf d (Mem.shift m src dst len) = true := by
  unfold Mem.shift
  have hf : (m.filter fun c => src ≤ c.1 && c.1 < src + len).all (fun c => c.2 != d) = true := by
    simp only [Memory.wf, Bool.and_eq_true] at h
    exact all_filter_of_all m _ _ h.2
  generalize (m.filter fun c => src ≤ c.1 && c.1 < src + len) = l at hf
  have hc := Memory.wf_clear d m dst len h
  generalize Mem.clear m dst len = x at hc
  induction l generalizing x with
  | nil => exact hc
  | cons c t ih =>
    simp only [List.all_cons, Bool.and_eq_true] at hf
    refine ih hf.2 _ ?_
    simp only [Memory.wf, Bool.and_eq_true] at *
    exact ⟨risingFrom_mset _ 0 _ _ (Nat.zero_le _) hc.1, all_mset _ _ _ _ hf.1 hc.2⟩

/-- In a rising list, a key below the start is absent. -/
theorem mget?_below (m : NMap β) (lo k : Nat) (hk : k < lo) (h : risingFrom lo m = true) : mget? m k = none := by
  induction m generalizing lo with
  | nil => rfl
  | cons x t ih =>
    obtain ⟨a, b⟩ := x
    simp only [risingFrom, Bool.and_eq_true, decide_eq_true_eq] at h
    have : a ≠ k := by omega
    simp only [mget?_cons, this, if_false]
    exact ih (a + 1) (by omega) h.2

/-- Removing a key removes that key alone. -/
theorem mget?_mdel (m : NMap β) (k j : Nat) : mget? (mdel m k) j = if j = k then none else mget? m j := by
  induction m with
  | nil => simp [mdel]
  | cons x t ih =>
    obtain ⟨a, b⟩ := x
    unfold mdel
    split
    · rename_i e
      rw [ih, mget?_cons]
      by_cases hj : j = k
      · rw [if_pos hj, if_pos hj]
      · rw [if_neg hj, if_neg hj, if_neg (by omega)]
    · rename_i e
      rw [mget?_cons, mget?_cons, ih]
      by_cases hj : j = k
      · rw [if_pos hj, if_neg (by omega), if_pos hj]
      · rw [if_neg hj, if_neg hj]

/-- The byte just stored is the one read, and every other byte reads as before. -/
theorem Mem.get_put (d : Byte) (m : Mem) (a b : Nat) (v : Byte) (_h : Memory.wf d m = true) :
    Mem.get d (Mem.put d m a v) b = if b = a then v else Mem.get d m b := by
  unfold Mem.put Mem.get mgetD
  split
  · rename_i e
    rw [mget?_mdel m a b]
    by_cases hb : b = a <;> simp [hb, e]
  · rw [mget?_mset]
    by_cases hb : b = a <;> simp [hb]

/-- After a string is stored, an address within it reads the string's byte and every other address reads as before. -/
theorem Mem.get_write (d : Byte) (l : Bytes) (m : Mem) (a b : Nat) (h : Memory.wf d m = true) :
    Mem.get d (Mem.write d m a l) b = if a ≤ b ∧ b < a + l.length then l.getD (b - a) 0 else Mem.get d m b := by
  induction l generalizing m a with
  | nil =>
    rw [Mem.write, if_neg (by simp only [List.length_nil]; omega)]
  | cons x t ih =>
    rw [Mem.write, ih _ _ (Memory.wf_put d m a x h), Mem.get_put d m a b x h]
    by_cases hb : b = a
    · subst hb
      rw [if_neg (by omega), if_pos rfl, if_pos (by simp only [List.length_cons]; omega), Nat.sub_self, List.getD_cons_zero]
    · by_cases h1 : a + 1 ≤ b ∧ b < a + 1 + t.length
      · have h2 : a ≤ b ∧ b < a + (x :: t).length := by simp only [List.length_cons]; omega
        rw [if_pos h1, if_pos h2]
        have : b - a = b - (a + 1) + 1 := by omega
        rw [this, List.getD_cons_succ]
      · have h2 : ¬(a ≤ b ∧ b < a + (x :: t).length) := by simp only [List.length_cons]; omega
        rw [if_neg h1, if_neg h2, if_neg hb]

/-- A string read back where it was stored. -/
theorem Mem.read_write (d : Byte) (l : Bytes) (m : Mem) (a : Nat) (h : Memory.wf d m = true) : Mem.read d (Mem.write d m a l) a l.length = l := by
  suffices ∀ (k : Nat) (r : Bytes), r = l.drop k → Mem.read d (Mem.write d m a l) (a + k) r.length = r by simpa using this 0 l (by simp)
  intro k r
  induction r generalizing k with
  | nil => intro _; rfl
  | cons x t ih =>
    intro hr
    have hk : k < l.length := by
      rcases Nat.lt_or_ge k l.length with q | q
      · exact q
      · rw [List.drop_eq_nil_of_le q] at hr; cases hr
    rw [List.drop_eq_getElem_cons hk] at hr
    injection hr with h1 h2
    rw [List.length_cons, Mem.read, Mem.get_write d l m a _ h, Nat.add_assoc, ih (k + 1) h2]
    have : a ≤ a + k ∧ a + k < a + l.length := by omega
    rw [if_pos this, Nat.add_sub_cancel_left, List.getD_eq_getElem?_getD, List.getElem?_eq_getElem hk, Option.getD_some, h1]

end Sys2Proof.Machine
end

