-- ==== Sys2Proof/Laws/Regs.lean ====
section
/-! SUPPORT. Laws of register fields: what a field reads after a field has been written. -/

namespace Sys2Proof.Machine

/-- A number cut at two places. -/
theorem nat_cut (v lo w : Nat) : v = v / 2 ^ (lo + w) * 2 ^ (lo + w) + bits v lo w * 2 ^ lo + v % 2 ^ lo := by
  unfold bits
  have h1 := Nat.div_add_mod v (2 ^ lo)
  have h2 := Nat.div_add_mod (v / 2 ^ lo) (2 ^ w)
  rw [Nat.div_div_eq_div_mul, ← Nat.pow_add] at h2
  have h3 : v / 2 ^ (lo + w) * 2 ^ (lo + w) = 2 ^ lo * (2 ^ w * (v / 2 ^ (lo + w))) := by
    rw [Nat.pow_add, Nat.mul_comm, Nat.mul_assoc]
  rw [h3, Nat.mul_comm (v / 2 ^ lo % 2 ^ w), Nat.add_assoc, ← Nat.add_assoc, ← Nat.mul_add, h2, h1]

/-- A field put into a word, cut at its two ends. -/
theorem putBits_eq (v lo w x : Nat) : putBits v lo w x = v / 2 ^ (lo + w) * 2 ^ (lo + w) + x % 2 ^ w * 2 ^ lo + v % 2 ^ lo := by
  have h := nat_cut v lo w
  unfold putBits
  generalize v / 2 ^ (lo + w) * 2 ^ (lo + w) = a at *
  generalize bits v lo w * 2 ^ lo = b at *
  generalize x % 2 ^ w * 2 ^ lo = c at *
  omega

/-- The field just put is the one read. -/
theorem bits_putBits_self (v lo w x : Nat) : bits (putBits v lo w x) lo w = x % 2 ^ w := by
  rw [putBits_eq, bits]
  have hp : 0 < 2 ^ lo := Nat.two_pow_pos lo
  have e : v / 2 ^ (lo + w) * 2 ^ (lo + w) + x % 2 ^ w * 2 ^ lo + v % 2 ^ lo = (v / 2 ^ (lo + w) * 2 ^ w + x % 2 ^ w) * 2 ^ lo + v % 2 ^ lo := by
    rw [Nat.add_mul, Nat.mul_assoc, ← Nat.pow_add, Nat.add_comm w lo]
  rw [e, Nat.mul_comm _ (2 ^ lo), Nat.mul_add_div hp, Nat.div_eq_of_lt (Nat.mod_lt _ hp), Nat.add_zero, Nat.mul_add_mod_self_right, Nat.mod_mod]

/-- Cutting a word to its width leaves a field below it. -/
theorem bits_mod (v lo w k : Nat) (h : lo + w ≤ k) : bits (v % 2 ^ k) lo w = bits v lo w := by
  unfold bits
  apply Nat.eq_of_testBit_eq
  intro i
  simp only [Nat.testBit_mod_two_pow, Nat.testBit_div_two_pow]
  by_cases hi : i < w
  · have : i + lo < k := by omega
    simp [hi, this]
  · simp [hi]

/-- A field of 32 bits or fewer read after it is written (R5). -/
theorem rd_wr_self (n : Node) (f : Fld) (v : Nat) (h : f.lo + f.w ≤ 32) : rd (wr n f v) f = v % 2 ^ f.w := by
  simp only [rd, wr, Bank.get, Bank.put, mget?_mset_self, BitVec.toNat_ofNat]
  rw [bits_mod _ _ _ _ h, bits_putBits_self]

/-- A field of another register reads as before. -/
theorem rd_wr_off (n : Node) (f g : Fld) (v : Nat) (h : g.off ≠ f.off) : rd (wr n f v) g = rd n g := by
  simp only [rd, wr, Bank.get, Bank.put, mget?_mset_ne _ _ _ _ h]

/-- The same through another update that leaves the registers. -/
theorem rd_of_bank {a b : Node} (g : Fld) (h : a.bank = b.bank) : rd a g = rd b g := by
  simp only [rd, h]

/-- A field above or below the one put reads as before. -/
theorem bits_putBits_ne (v lo w x lo' w' : Nat) (h : lo + w ≤ lo' ∨ lo' + w' ≤ lo) : bits (putBits v lo w x) lo' w' = bits v lo' w' := by
  apply Nat.eq_of_testBit_eq
  intro i
  simp only [bits, Nat.testBit_mod_two_pow, Nat.testBit_div_two_pow]
  by_cases hi : i < w'
  · simp only [hi, decide_true, Bool.true_and]
    rw [putBits_eq]
    have hx : x % 2 ^ w < 2 ^ w := Nat.mod_lt _ (Nat.two_pow_pos w)
    have hv : v % 2 ^ lo < 2 ^ lo := Nat.mod_lt _ (Nat.two_pow_pos lo)
    have e : v / 2 ^ (lo + w) * 2 ^ (lo + w) + x % 2 ^ w * 2 ^ lo + v % 2 ^ lo = 2 ^ lo * (2 ^ w * (v / 2 ^ (lo + w)) + x % 2 ^ w) + v % 2 ^ lo := by
      rw [Nat.mul_add, ← Nat.mul_assoc, ← Nat.pow_add, Nat.mul_comm (2 ^ (lo + w)), Nat.mul_comm (2 ^ lo) (x % 2 ^ w)]
    rw [e, Nat.testBit_two_pow_mul_add _ hv]
    rcases h with h | h
    · have hn : ¬ i + lo' < lo := by omega
      rw [if_neg hn, Nat.testBit_two_pow_mul_add _ hx]
      have hn2 : ¬ i + lo' - lo < w := by omega
      rw [if_neg hn2, Nat.testBit_div_two_pow]
      congr 1
      omega
    · have hn : i + lo' < lo := by omega
      rw [if_pos hn, Nat.testBit_mod_two_pow]
      simp [hn]
  · simp [hi]

/-- A field of the same register outside the one written reads as before. -/
theorem rd_wr_field (n : Node) (f g : Fld) (v : Nat) (ho : g.off = f.off) (hg : g.lo + g.w ≤ 32) (h : f.lo + f.w ≤ g.lo ∨ g.lo + g.w ≤ f.lo) :
    rd (wr n f v) g = rd n g := by
  simp only [rd, wr, Bank.get, Bank.put, ho, mget?_mset_self, BitVec.toNat_ofNat]
  rw [bits_mod _ _ _ _ hg, bits_putBits_ne _ _ _ _ _ _ h]

/-- A counted event leaves every register but the overflow register of its unit. -/
theorem rd_pmc (n : Node) (u ev k : Nat) (g : Fld) (h : g.off ≠ (Rg.pmcOvfOvf u).off) : rd (pmc n u ev k) g = rd n g := by
  have h1 : ∀ (m : Node) (i : Nat), rd (pmcOne u ev k m i) g = rd m g := by
    intro m i
    unfold pmcOne
    split
    · simp only []
      split
      · exact rd_wr_off _ _ _ _ h
      · rfl
    · rfl
  unfold pmc
  generalize List.range 8 = l
  induction l generalizing n with
  | nil => rfl
  | cons a l ih => simp only [List.foldl_cons]; rw [ih, h1]

/-- The node's number stands in one register. -/
theorem nodeId_wr (n : Node) (f : Fld) (v : Nat) (h : f.off ≠ 0x14) : nodeId (wr n f v) = nodeId n := rd_wr_off _ _ _ _ (fun e => h e.symm)

/-- Counting leaves the node's number. -/
theorem nodeId_bump (n : Node) (f : Fld) (k : Nat) (h : f.off ≠ 0x14) : nodeId (bump n f k) = nodeId n := nodeId_wr _ _ _ h

/-- Counting an event leaves the node's number. -/
theorem nodeId_pmc (n : Node) (u ev k : Nat) (h : (Rg.pmcOvfOvf u).off ≠ 0x14) : nodeId (pmc n u ev k) = nodeId n := rd_pmc _ _ _ _ _ (fun e => h e.symm)

end Sys2Proof.Machine
end

