-- ==== Sys2Proof/Laws/Keep.lean ====
section
/-! SUPPORT. What counting, recording and sending change of a node, and that they change nothing else. -/

namespace Sys2Proof.Machine

/-- A command that changes the node alone answers it changed. -/
theorem onNode_eq {f : Tck → Node → Node} {s : State} {N : Node} (h : f s.tck s.node = N) : onNode f s = .next { s with node := N } := by
  subst h; rfl

/-- A counter field after it has counted, up to its width (R20). -/
theorem rd_bump_self (n : Node) (f : Fld) (k : Nat) (h : f.lo + f.w ≤ 32) : rd (bump n f k) f = satTo f.w (rd n f + k) := by
  unfold bump
  rw [rd_wr_self _ _ _ h]
  apply Nat.mod_eq_of_lt
  unfold satTo
  have : 0 < 2 ^ f.w := Nat.two_pow_pos _
  omega

/-- An event raised stands last in the recorder's interface. -/
theorem codes_raise (t : Tck) (n : Node) (k : Nat) (b : Bytes) : (raise t n k b).svc.arrivals.map (·.code) = n.svc.arrivals.map (·.code) ++ [k] := by
  show List.map _ (_ ++ [_]) = _
  rw [List.map_append]; rfl

/-- Counting an event of a unit changes registers and counters alone. -/
theorem pmc_shape (n : Node) (u ev k : Nat) : ∃ b m, pmc n u ev k = { n with bank := b, svc := { n.svc with pmc := m } } := by
  have h1 : ∀ (m : Node) (i : Nat), ∃ b v, pmcOne u ev k m i = { m with bank := b, svc := { m.svc with pmc := v } } := by
    intro m i
    unfold pmcOne
    split
    · simp only []
      split
      · exact ⟨_, _, rfl⟩
      · exact ⟨_, _, rfl⟩
    · exact ⟨_, _, rfl⟩
  unfold pmc
  generalize List.range 8 = l
  induction l generalizing n with
  | nil => exact ⟨_, _, rfl⟩
  | cons a l ih =>
    rw [List.foldl_cons]
    obtain ⟨b, v, e⟩ := h1 n a
    rw [e]
    obtain ⟨b', v', e'⟩ := ih { n with bank := b, svc := { n.svc with pmc := v } }
    exact ⟨b', v', e'⟩

/-- A register of the blocks below the performance units reads as before after counting. -/
theorem rd_pmc_low (n : Node) (u ev k : Nat) (f : Fld) (h : f.off < 0x01000000) : rd (pmc n u ev k) f = rd n f := by
  refine rd_pmc n u ev k f ?_
  have : 0x01000000 ≤ (Rg.pmcOvfOvf u).off := by simp only []; omega
  omega

/-- Counting a packet under its slot changes the slot, its EXHAUSTED bit and the events alone. -/
theorem countPacket_shape (t : Tck) (n : Node) (k : Nat) : ∃ b se sv, countPacket t n k = { n with bank := b, sec := se, svc := sv } ∧ ∀ f : Fld, f.off ≠ (Rg.secSlotExhausted k).off → rd (countPacket t n k) f = rd n f := by
  unfold countPacket
  split
  · exact ⟨n.bank, n.sec, n.svc, rfl, fun _ _ => rfl⟩
  · simp only []
    split
    · exact ⟨_, _, _, rfl, fun f h => (rd_of_bank f rfl).trans (rd_wr_off _ _ _ _ h)⟩
    · exact ⟨n.bank, _, n.svc, rfl, fun f _ => rd_of_bank f rfl⟩

/-- A segment leaves on a fabric port at once. -/
theorem emitSeg_fp (t : Tck) (n : Node) (p : Fin 8) (cls : Nat) (s : Seg) : ∃ m b se sv, emitSeg t n (.fp p) cls s = some m
    ∧ m = { n with out := n.out ++ [.segment (.fp p) (dscpOf n cls) s], bank := b, sec := se, svc := sv }
    ∧ ∀ f : Fld, f.off < 0x01000000 → f.off ≠ (Rg.secSlotExhausted s.keyId).off → rd m f = rd n f := by
  obtain ⟨b, v, e⟩ := pmc_shape (emit n (.segment (.fp p) (dscpOf n cls) s)) (52 + p.val) 0x5001 (cdiv (segLen s) 64)
  obtain ⟨b', se, sv, e', h'⟩ := countPacket_shape t (pmc (emit n (.segment (.fp p) (dscpOf n cls) s)) (52 + p.val) 0x5001 (cdiv (segLen s) 64)) s.keyId
  refine ⟨countPacket t (pmc (emit n (.segment (.fp p) (dscpOf n cls) s)) (52 + p.val) 0x5001 (cdiv (segLen s) 64)) s.keyId, b', se, sv, rfl, ?_, ?_⟩
  · rw [e', e]; rfl
  · intro f h1 h2
    rw [h' f h2, rd_pmc_low _ _ _ _ _ h1]
    exact rd_of_bank f rfl

end Sys2Proof.Machine
end

