-- ==== Sys2Proof/Laws/State.lean ====
section
/-! SUPPORT. What each named update of the node leaves as it was: one lemma for each field, so that no proof unfolds a record update. -/

namespace Sys2Proof.Machine

@[simp] theorem wr_hi (n : Node) (f : Fld) (v : Nat) : (wr n f v).hi = n.hi := (rfl)
@[simp] theorem wr_hmem (n : Node) (f : Fld) (v : Nat) : (wr n f v).hmem = n.hmem := (rfl)
@[simp] theorem wr_t1 (n : Node) (f : Fld) (v : Nat) : (wr n f v).t1 = n.t1 := (rfl)
@[simp] theorem wr_fe (n : Node) (f : Fld) (v : Nat) : (wr n f v).fe = n.fe := (rfl)
@[simp] theorem wr_sch (n : Node) (f : Fld) (v : Nat) : (wr n f v).sch = n.sch := (rfl)
@[simp] theorem wr_seqs (n : Node) (f : Fld) (v : Nat) : (wr n f v).seqs = n.seqs := (rfl)
@[simp] theorem wr_att (n : Node) (f : Fld) (v : Nat) : (wr n f v).att = n.att := (rfl)
@[simp] theorem wr_cfl (n : Node) (f : Fld) (v : Nat) : (wr n f v).cfl = n.cfl := (rfl)
@[simp] theorem wr_cvt (n : Node) (f : Fld) (v : Nat) : (wr n f v).cvt = n.cvt := (rfl)
@[simp] theorem wr_bsu (n : Node) (f : Fld) (v : Nat) : (wr n f v).bsu = n.bsu := (rfl)
@[simp] theorem wr_ter (n : Node) (f : Fld) (v : Nat) : (wr n f v).ter = n.ter := (rfl)
@[simp] theorem wr_mic (n : Node) (f : Fld) (v : Nat) : (wr n f v).mic = n.mic := (rfl)
@[simp] theorem wr_wts (n : Node) (f : Fld) (v : Nat) : (wr n f v).wts = n.wts := (rfl)
@[simp] theorem wr_pdx (n : Node) (f : Fld) (v : Nat) : (wr n f v).pdx = n.pdx := (rfl)
@[simp] theorem wr_cxd (n : Node) (f : Fld) (v : Nat) : (wr n f v).cxd = n.cxd := (rfl)
@[simp] theorem wr_qst (n : Node) (f : Fld) (v : Nat) : (wr n f v).qst = n.qst := (rfl)
@[simp] theorem wr_map (n : Node) (f : Fld) (v : Nat) : (wr n f v).map = n.map := (rfl)
@[simp] theorem wr_sec (n : Node) (f : Fld) (v : Nat) : (wr n f v).sec = n.sec := (rfl)
@[simp] theorem wr_pwr (n : Node) (f : Fld) (v : Nat) : (wr n f v).pwr = n.pwr := (rfl)
@[simp] theorem wr_brd (n : Node) (f : Fld) (v : Nat) : (wr n f v).brd = n.brd := (rfl)
@[simp] theorem wr_svc (n : Node) (f : Fld) (v : Nat) : (wr n f v).svc = n.svc := (rfl)
@[simp] theorem wr_out (n : Node) (f : Fld) (v : Nat) : (wr n f v).out = n.out := (rfl)
@[simp] theorem wr_freeCtr (n : Node) (f : Fld) (v : Nat) : (wr n f v).freeCtr = n.freeCtr := (rfl)

@[simp] theorem emit_bank (n : Node) (o : Out) : (emit n o).bank = n.bank := (rfl)
@[simp] theorem emit_hi (n : Node) (o : Out) : (emit n o).hi = n.hi := (rfl)
@[simp] theorem emit_hmem (n : Node) (o : Out) : (emit n o).hmem = n.hmem := (rfl)
@[simp] theorem emit_t1 (n : Node) (o : Out) : (emit n o).t1 = n.t1 := (rfl)
@[simp] theorem emit_fe (n : Node) (o : Out) : (emit n o).fe = n.fe := (rfl)
@[simp] theorem emit_sch (n : Node) (o : Out) : (emit n o).sch = n.sch := (rfl)
@[simp] theorem emit_seqs (n : Node) (o : Out) : (emit n o).seqs = n.seqs := (rfl)
@[simp] theorem emit_att (n : Node) (o : Out) : (emit n o).att = n.att := (rfl)
@[simp] theorem emit_cfl (n : Node) (o : Out) : (emit n o).cfl = n.cfl := (rfl)
@[simp] theorem emit_cvt (n : Node) (o : Out) : (emit n o).cvt = n.cvt := (rfl)
@[simp] theorem emit_bsu (n : Node) (o : Out) : (emit n o).bsu = n.bsu := (rfl)
@[simp] theorem emit_ter (n : Node) (o : Out) : (emit n o).ter = n.ter := (rfl)
@[simp] theorem emit_mic (n : Node) (o : Out) : (emit n o).mic = n.mic := (rfl)
@[simp] theorem emit_wts (n : Node) (o : Out) : (emit n o).wts = n.wts := (rfl)
@[simp] theorem emit_pdx (n : Node) (o : Out) : (emit n o).pdx = n.pdx := (rfl)
@[simp] theorem emit_cxd (n : Node) (o : Out) : (emit n o).cxd = n.cxd := (rfl)
@[simp] theorem emit_qst (n : Node) (o : Out) : (emit n o).qst = n.qst := (rfl)
@[simp] theorem emit_map (n : Node) (o : Out) : (emit n o).map = n.map := (rfl)
@[simp] theorem emit_sec (n : Node) (o : Out) : (emit n o).sec = n.sec := (rfl)
@[simp] theorem emit_pwr (n : Node) (o : Out) : (emit n o).pwr = n.pwr := (rfl)
@[simp] theorem emit_brd (n : Node) (o : Out) : (emit n o).brd = n.brd := (rfl)
@[simp] theorem emit_svc (n : Node) (o : Out) : (emit n o).svc = n.svc := (rfl)
@[simp] theorem emit_freeCtr (n : Node) (o : Out) : (emit n o).freeCtr = n.freeCtr := (rfl)

@[simp] theorem raise_bank (t : Tck) (n : Node) (k : Nat) (a : Bytes) : (raise t n k a).bank = n.bank := (rfl)
@[simp] theorem raise_hi (t : Tck) (n : Node) (k : Nat) (a : Bytes) : (raise t n k a).hi = n.hi := (rfl)
@[simp] theorem raise_hmem (t : Tck) (n : Node) (k : Nat) (a : Bytes) : (raise t n k a).hmem = n.hmem := (rfl)
@[simp] theorem raise_t1 (t : Tck) (n : Node) (k : Nat) (a : Bytes) : (raise t n k a).t1 = n.t1 := (rfl)
@[simp] theorem raise_fe (t : Tck) (n : Node) (k : Nat) (a : Bytes) : (raise t n k a).fe = n.fe := (rfl)
@[simp] theorem raise_sch (t : Tck) (n : Node) (k : Nat) (a : Bytes) : (raise t n k a).sch = n.sch := (rfl)
@[simp] theorem raise_seqs (t : Tck) (n : Node) (k : Nat) (a : Bytes) : (raise t n k a).seqs = n.seqs := (rfl)
@[simp] theorem raise_att (t : Tck) (n : Node) (k : Nat) (a : Bytes) : (raise t n k a).att = n.att := (rfl)
@[simp] theorem raise_cfl (t : Tck) (n : Node) (k : Nat) (a : Bytes) : (raise t n k a).cfl = n.cfl := (rfl)
@[simp] theorem raise_cvt (t : Tck) (n : Node) (k : Nat) (a : Bytes) : (raise t n k a).cvt = n.cvt := (rfl)
@[simp] theorem raise_bsu (t : Tck) (n : Node) (k : Nat) (a : Bytes) : (raise t n k a).bsu = n.bsu := (rfl)
@[simp] theorem raise_ter (t : Tck) (n : Node) (k : Nat) (a : Bytes) : (raise t n k a).ter = n.ter := (rfl)
@[simp] theorem raise_mic (t : Tck) (n : Node) (k : Nat) (a : Bytes) : (raise t n k a).mic = n.mic := (rfl)
@[simp] theorem raise_wts (t : Tck) (n : Node) (k : Nat) (a : Bytes) : (raise t n k a).wts = n.wts := (rfl)
@[simp] theorem raise_pdx (t : Tck) (n : Node) (k : Nat) (a : Bytes) : (raise t n k a).pdx = n.pdx := (rfl)
@[simp] theorem raise_cxd (t : Tck) (n : Node) (k : Nat) (a : Bytes) : (raise t n k a).cxd = n.cxd := (rfl)
@[simp] theorem raise_qst (t : Tck) (n : Node) (k : Nat) (a : Bytes) : (raise t n k a).qst = n.qst := (rfl)
@[simp] theorem raise_map (t : Tck) (n : Node) (k : Nat) (a : Bytes) : (raise t n k a).map = n.map := (rfl)
@[simp] theorem raise_sec (t : Tck) (n : Node) (k : Nat) (a : Bytes) : (raise t n k a).sec = n.sec := (rfl)
@[simp] theorem raise_pwr (t : Tck) (n : Node) (k : Nat) (a : Bytes) : (raise t n k a).pwr = n.pwr := (rfl)
@[simp] theorem raise_brd (t : Tck) (n : Node) (k : Nat) (a : Bytes) : (raise t n k a).brd = n.brd := (rfl)
@[simp] theorem raise_out (t : Tck) (n : Node) (k : Nat) (a : Bytes) : (raise t n k a).out = n.out := (rfl)
@[simp] theorem raise_freeCtr (t : Tck) (n : Node) (k : Nat) (a : Bytes) : (raise t n k a).freeCtr = n.freeCtr := (rfl)

@[simp] theorem hostWrite_bank (n : Node) (r a : Nat) (b : Bytes) : (hostWrite n r a b).bank = n.bank := (rfl)
@[simp] theorem hostWrite_hi (n : Node) (r a : Nat) (b : Bytes) : (hostWrite n r a b).hi = n.hi := (rfl)
@[simp] theorem hostWrite_t1 (n : Node) (r a : Nat) (b : Bytes) : (hostWrite n r a b).t1 = n.t1 := (rfl)
@[simp] theorem hostWrite_fe (n : Node) (r a : Nat) (b : Bytes) : (hostWrite n r a b).fe = n.fe := (rfl)
@[simp] theorem hostWrite_sch (n : Node) (r a : Nat) (b : Bytes) : (hostWrite n r a b).sch = n.sch := (rfl)
@[simp] theorem hostWrite_seqs (n : Node) (r a : Nat) (b : Bytes) : (hostWrite n r a b).seqs = n.seqs := (rfl)
@[simp] theorem hostWrite_att (n : Node) (r a : Nat) (b : Bytes) : (hostWrite n r a b).att = n.att := (rfl)
@[simp] theorem hostWrite_cfl (n : Node) (r a : Nat) (b : Bytes) : (hostWrite n r a b).cfl = n.cfl := (rfl)
@[simp] theorem hostWrite_cvt (n : Node) (r a : Nat) (b : Bytes) : (hostWrite n r a b).cvt = n.cvt := (rfl)
@[simp] theorem hostWrite_bsu (n : Node) (r a : Nat) (b : Bytes) : (hostWrite n r a b).bsu = n.bsu := (rfl)
@[simp] theorem hostWrite_ter (n : Node) (r a : Nat) (b : Bytes) : (hostWrite n r a b).ter = n.ter := (rfl)
@[simp] theorem hostWrite_mic (n : Node) (r a : Nat) (b : Bytes) : (hostWrite n r a b).mic = n.mic := (rfl)
@[simp] theorem hostWrite_wts (n : Node) (r a : Nat) (b : Bytes) : (hostWrite n r a b).wts = n.wts := (rfl)
@[simp] theorem hostWrite_pdx (n : Node) (r a : Nat) (b : Bytes) : (hostWrite n r a b).pdx = n.pdx := (rfl)
@[simp] theorem hostWrite_cxd (n : Node) (r a : Nat) (b : Bytes) : (hostWrite n r a b).cxd = n.cxd := (rfl)
@[simp] theorem hostWrite_qst (n : Node) (r a : Nat) (b : Bytes) : (hostWrite n r a b).qst = n.qst := (rfl)
@[simp] theorem hostWrite_map (n : Node) (r a : Nat) (b : Bytes) : (hostWrite n r a b).map = n.map := (rfl)
@[simp] theorem hostWrite_sec (n : Node) (r a : Nat) (b : Bytes) : (hostWrite n r a b).sec = n.sec := (rfl)
@[simp] theorem hostWrite_pwr (n : Node) (r a : Nat) (b : Bytes) : (hostWrite n r a b).pwr = n.pwr := (rfl)
@[simp] theorem hostWrite_brd (n : Node) (r a : Nat) (b : Bytes) : (hostWrite n r a b).brd = n.brd := (rfl)
@[simp] theorem hostWrite_svc (n : Node) (r a : Nat) (b : Bytes) : (hostWrite n r a b).svc = n.svc := (rfl)
@[simp] theorem hostWrite_out (n : Node) (r a : Nat) (b : Bytes) : (hostWrite n r a b).out = n.out := (rfl)
@[simp] theorem hostWrite_freeCtr (n : Node) (r a : Nat) (b : Bytes) : (hostWrite n r a b).freeCtr = n.freeCtr := (rfl)

@[simp] theorem modCmd_bank (n : Node) (h : Nat) (f : Cmd → Cmd) : (modCmd n h f).bank = n.bank := (rfl)
@[simp] theorem modCmd_hi (n : Node) (h : Nat) (f : Cmd → Cmd) : (modCmd n h f).hi = n.hi := (rfl)
@[simp] theorem modCmd_hmem (n : Node) (h : Nat) (f : Cmd → Cmd) : (modCmd n h f).hmem = n.hmem := (rfl)
@[simp] theorem modCmd_t1 (n : Node) (h : Nat) (f : Cmd → Cmd) : (modCmd n h f).t1 = n.t1 := (rfl)
@[simp] theorem modCmd_sch (n : Node) (h : Nat) (f : Cmd → Cmd) : (modCmd n h f).sch = n.sch := (rfl)
@[simp] theorem modCmd_seqs (n : Node) (h : Nat) (f : Cmd → Cmd) : (modCmd n h f).seqs = n.seqs := (rfl)
@[simp] theorem modCmd_att (n : Node) (h : Nat) (f : Cmd → Cmd) : (modCmd n h f).att = n.att := (rfl)
@[simp] theorem modCmd_cfl (n : Node) (h : Nat) (f : Cmd → Cmd) : (modCmd n h f).cfl = n.cfl := (rfl)
@[simp] theorem modCmd_cvt (n : Node) (h : Nat) (f : Cmd → Cmd) : (modCmd n h f).cvt = n.cvt := (rfl)
@[simp] theorem modCmd_bsu (n : Node) (h : Nat) (f : Cmd → Cmd) : (modCmd n h f).bsu = n.bsu := (rfl)
@[simp] theorem modCmd_ter (n : Node) (h : Nat) (f : Cmd → Cmd) : (modCmd n h f).ter = n.ter := (rfl)
@[simp] theorem modCmd_mic (n : Node) (h : Nat) (f : Cmd → Cmd) : (modCmd n h f).mic = n.mic := (rfl)
@[simp] theorem modCmd_wts (n : Node) (h : Nat) (f : Cmd → Cmd) : (modCmd n h f).wts = n.wts := (rfl)
@[simp] theorem modCmd_pdx (n : Node) (h : Nat) (f : Cmd → Cmd) : (modCmd n h f).pdx = n.pdx := (rfl)
@[simp] theorem modCmd_cxd (n : Node) (h : Nat) (f : Cmd → Cmd) : (modCmd n h f).cxd = n.cxd := (rfl)
@[simp] theorem modCmd_qst (n : Node) (h : Nat) (f : Cmd → Cmd) : (modCmd n h f).qst = n.qst := (rfl)
@[simp] theorem modCmd_map (n : Node) (h : Nat) (f : Cmd → Cmd) : (modCmd n h f).map = n.map := (rfl)
@[simp] theorem modCmd_sec (n : Node) (h : Nat) (f : Cmd → Cmd) : (modCmd n h f).sec = n.sec := (rfl)
@[simp] theorem modCmd_pwr (n : Node) (h : Nat) (f : Cmd → Cmd) : (modCmd n h f).pwr = n.pwr := (rfl)
@[simp] theorem modCmd_brd (n : Node) (h : Nat) (f : Cmd → Cmd) : (modCmd n h f).brd = n.brd := (rfl)
@[simp] theorem modCmd_svc (n : Node) (h : Nat) (f : Cmd → Cmd) : (modCmd n h f).svc = n.svc := (rfl)
@[simp] theorem modCmd_out (n : Node) (h : Nat) (f : Cmd → Cmd) : (modCmd n h f).out = n.out := (rfl)
@[simp] theorem modCmd_freeCtr (n : Node) (h : Nat) (f : Cmd → Cmd) : (modCmd n h f).freeCtr = n.freeCtr := (rfl)

@[simp] theorem bump_hi (n : Node) (f : Fld) (k : Nat) : (bump n f k).hi = n.hi := (rfl)
@[simp] theorem bump_hmem (n : Node) (f : Fld) (k : Nat) : (bump n f k).hmem = n.hmem := (rfl)
@[simp] theorem bump_t1 (n : Node) (f : Fld) (k : Nat) : (bump n f k).t1 = n.t1 := (rfl)
@[simp] theorem bump_fe (n : Node) (f : Fld) (k : Nat) : (bump n f k).fe = n.fe := (rfl)
@[simp] theorem bump_sch (n : Node) (f : Fld) (k : Nat) : (bump n f k).sch = n.sch := (rfl)
@[simp] theorem bump_seqs (n : Node) (f : Fld) (k : Nat) : (bump n f k).seqs = n.seqs := (rfl)
@[simp] theorem bump_att (n : Node) (f : Fld) (k : Nat) : (bump n f k).att = n.att := (rfl)
@[simp] theorem bump_cfl (n : Node) (f : Fld) (k : Nat) : (bump n f k).cfl = n.cfl := (rfl)
@[simp] theorem bump_cvt (n : Node) (f : Fld) (k : Nat) : (bump n f k).cvt = n.cvt := (rfl)
@[simp] theorem bump_bsu (n : Node) (f : Fld) (k : Nat) : (bump n f k).bsu = n.bsu := (rfl)
@[simp] theorem bump_ter (n : Node) (f : Fld) (k : Nat) : (bump n f k).ter = n.ter := (rfl)
@[simp] theorem bump_mic (n : Node) (f : Fld) (k : Nat) : (bump n f k).mic = n.mic := (rfl)
@[simp] theorem bump_wts (n : Node) (f : Fld) (k : Nat) : (bump n f k).wts = n.wts := (rfl)
@[simp] theorem bump_pdx (n : Node) (f : Fld) (k : Nat) : (bump n f k).pdx = n.pdx := (rfl)
@[simp] theorem bump_cxd (n : Node) (f : Fld) (k : Nat) : (bump n f k).cxd = n.cxd := (rfl)
@[simp] theorem bump_qst (n : Node) (f : Fld) (k : Nat) : (bump n f k).qst = n.qst := (rfl)
@[simp] theorem bump_map (n : Node) (f : Fld) (k : Nat) : (bump n f k).map = n.map := (rfl)
@[simp] theorem bump_sec (n : Node) (f : Fld) (k : Nat) : (bump n f k).sec = n.sec := (rfl)
@[simp] theorem bump_pwr (n : Node) (f : Fld) (k : Nat) : (bump n f k).pwr = n.pwr := (rfl)
@[simp] theorem bump_brd (n : Node) (f : Fld) (k : Nat) : (bump n f k).brd = n.brd := (rfl)
@[simp] theorem bump_svc (n : Node) (f : Fld) (k : Nat) : (bump n f k).svc = n.svc := (rfl)
@[simp] theorem bump_out (n : Node) (f : Fld) (k : Nat) : (bump n f k).out = n.out := (rfl)
@[simp] theorem bump_freeCtr (n : Node) (f : Fld) (k : Nat) : (bump n f k).freeCtr = n.freeCtr := (rfl)

@[simp] theorem retireCmd_bank (n : Node) (c : Cmd) : (retireCmd n c).bank = n.bank := (rfl)
@[simp] theorem retireCmd_hi (n : Node) (c : Cmd) : (retireCmd n c).hi = n.hi := (rfl)
@[simp] theorem retireCmd_hmem (n : Node) (c : Cmd) : (retireCmd n c).hmem = n.hmem := (rfl)
@[simp] theorem retireCmd_t1 (n : Node) (c : Cmd) : (retireCmd n c).t1 = n.t1 := (rfl)
@[simp] theorem retireCmd_sch (n : Node) (c : Cmd) : (retireCmd n c).sch = n.sch := (rfl)
@[simp] theorem retireCmd_att (n : Node) (c : Cmd) : (retireCmd n c).att = n.att := (rfl)
@[simp] theorem retireCmd_cfl (n : Node) (c : Cmd) : (retireCmd n c).cfl = n.cfl := (rfl)
@[simp] theorem retireCmd_cvt (n : Node) (c : Cmd) : (retireCmd n c).cvt = n.cvt := (rfl)
@[simp] theorem retireCmd_bsu (n : Node) (c : Cmd) : (retireCmd n c).bsu = n.bsu := (rfl)
@[simp] theorem retireCmd_ter (n : Node) (c : Cmd) : (retireCmd n c).ter = n.ter := (rfl)
@[simp] theorem retireCmd_mic (n : Node) (c : Cmd) : (retireCmd n c).mic = n.mic := (rfl)
@[simp] theorem retireCmd_wts (n : Node) (c : Cmd) : (retireCmd n c).wts = n.wts := (rfl)
@[simp] theorem retireCmd_pdx (n : Node) (c : Cmd) : (retireCmd n c).pdx = n.pdx := (rfl)
@[simp] theorem retireCmd_cxd (n : Node) (c : Cmd) : (retireCmd n c).cxd = n.cxd := (rfl)
@[simp] theorem retireCmd_qst (n : Node) (c : Cmd) : (retireCmd n c).qst = n.qst := (rfl)
@[simp] theorem retireCmd_map (n : Node) (c : Cmd) : (retireCmd n c).map = n.map := (rfl)
@[simp] theorem retireCmd_sec (n : Node) (c : Cmd) : (retireCmd n c).sec = n.sec := (rfl)
@[simp] theorem retireCmd_pwr (n : Node) (c : Cmd) : (retireCmd n c).pwr = n.pwr := (rfl)
@[simp] theorem retireCmd_brd (n : Node) (c : Cmd) : (retireCmd n c).brd = n.brd := (rfl)
@[simp] theorem retireCmd_svc (n : Node) (c : Cmd) : (retireCmd n c).svc = n.svc := (rfl)
@[simp] theorem retireCmd_out (n : Node) (c : Cmd) : (retireCmd n c).out = n.out := (rfl)
@[simp] theorem retireCmd_freeCtr (n : Node) (c : Cmd) : (retireCmd n c).freeCtr = n.freeCtr := (rfl)

@[simp] theorem meetEpoch_bank (n : Node) (e : Nat) : (meetEpoch n e).bank = n.bank := (rfl)
@[simp] theorem meetEpoch_hi (n : Node) (e : Nat) : (meetEpoch n e).hi = n.hi := (rfl)
@[simp] theorem meetEpoch_hmem (n : Node) (e : Nat) : (meetEpoch n e).hmem = n.hmem := (rfl)
@[simp] theorem meetEpoch_t1 (n : Node) (e : Nat) : (meetEpoch n e).t1 = n.t1 := (rfl)
@[simp] theorem meetEpoch_fe (n : Node) (e : Nat) : (meetEpoch n e).fe = n.fe := (rfl)
@[simp] theorem meetEpoch_sch (n : Node) (e : Nat) : (meetEpoch n e).sch = n.sch := (rfl)
@[simp] theorem meetEpoch_seqs (n : Node) (e : Nat) : (meetEpoch n e).seqs = n.seqs := (rfl)
@[simp] theorem meetEpoch_att (n : Node) (e : Nat) : (meetEpoch n e).att = n.att := (rfl)
@[simp] theorem meetEpoch_cfl (n : Node) (e : Nat) : (meetEpoch n e).cfl = n.cfl := (rfl)
@[simp] theorem meetEpoch_cvt (n : Node) (e : Nat) : (meetEpoch n e).cvt = n.cvt := (rfl)
@[simp] theorem meetEpoch_bsu (n : Node) (e : Nat) : (meetEpoch n e).bsu = n.bsu := (rfl)
@[simp] theorem meetEpoch_ter (n : Node) (e : Nat) : (meetEpoch n e).ter = n.ter := (rfl)
@[simp] theorem meetEpoch_mic (n : Node) (e : Nat) : (meetEpoch n e).mic = n.mic := (rfl)
@[simp] theorem meetEpoch_wts (n : Node) (e : Nat) : (meetEpoch n e).wts = n.wts := (rfl)
@[simp] theorem meetEpoch_pdx (n : Node) (e : Nat) : (meetEpoch n e).pdx = n.pdx := (rfl)
@[simp] theorem meetEpoch_cxd (n : Node) (e : Nat) : (meetEpoch n e).cxd = n.cxd := (rfl)
@[simp] theorem meetEpoch_qst (n : Node) (e : Nat) : (meetEpoch n e).qst = n.qst := (rfl)
@[simp] theorem meetEpoch_sec (n : Node) (e : Nat) : (meetEpoch n e).sec = n.sec := (rfl)
@[simp] theorem meetEpoch_pwr (n : Node) (e : Nat) : (meetEpoch n e).pwr = n.pwr := (rfl)
@[simp] theorem meetEpoch_brd (n : Node) (e : Nat) : (meetEpoch n e).brd = n.brd := (rfl)
@[simp] theorem meetEpoch_svc (n : Node) (e : Nat) : (meetEpoch n e).svc = n.svc := (rfl)
@[simp] theorem meetEpoch_out (n : Node) (e : Nat) : (meetEpoch n e).out = n.out := (rfl)
@[simp] theorem meetEpoch_freeCtr (n : Node) (e : Nat) : (meetEpoch n e).freeCtr = n.freeCtr := (rfl)

@[simp] theorem setRunning_bank (n : Node) (h : Nat) : (setRunning n h).bank = n.bank := (rfl)
@[simp] theorem setRunning_hi (n : Node) (h : Nat) : (setRunning n h).hi = n.hi := (rfl)
@[simp] theorem setRunning_hmem (n : Node) (h : Nat) : (setRunning n h).hmem = n.hmem := (rfl)
@[simp] theorem setRunning_t1 (n : Node) (h : Nat) : (setRunning n h).t1 = n.t1 := (rfl)
@[simp] theorem setRunning_sch (n : Node) (h : Nat) : (setRunning n h).sch = n.sch := (rfl)
@[simp] theorem setRunning_seqs (n : Node) (h : Nat) : (setRunning n h).seqs = n.seqs := (rfl)
@[simp] theorem setRunning_att (n : Node) (h : Nat) : (setRunning n h).att = n.att := (rfl)
@[simp] theorem setRunning_cfl (n : Node) (h : Nat) : (setRunning n h).cfl = n.cfl := (rfl)
@[simp] theorem setRunning_cvt (n : Node) (h : Nat) : (setRunning n h).cvt = n.cvt := (rfl)
@[simp] theorem setRunning_bsu (n : Node) (h : Nat) : (setRunning n h).bsu = n.bsu := (rfl)
@[simp] theorem setRunning_ter (n : Node) (h : Nat) : (setRunning n h).ter = n.ter := (rfl)
@[simp] theorem setRunning_mic (n : Node) (h : Nat) : (setRunning n h).mic = n.mic := (rfl)
@[simp] theorem setRunning_wts (n : Node) (h : Nat) : (setRunning n h).wts = n.wts := (rfl)
@[simp] theorem setRunning_pdx (n : Node) (h : Nat) : (setRunning n h).pdx = n.pdx := (rfl)
@[simp] theorem setRunning_cxd (n : Node) (h : Nat) : (setRunning n h).cxd = n.cxd := (rfl)
@[simp] theorem setRunning_qst (n : Node) (h : Nat) : (setRunning n h).qst = n.qst := (rfl)
@[simp] theorem setRunning_map (n : Node) (h : Nat) : (setRunning n h).map = n.map := (rfl)
@[simp] theorem setRunning_sec (n : Node) (h : Nat) : (setRunning n h).sec = n.sec := (rfl)
@[simp] theorem setRunning_pwr (n : Node) (h : Nat) : (setRunning n h).pwr = n.pwr := (rfl)
@[simp] theorem setRunning_brd (n : Node) (h : Nat) : (setRunning n h).brd = n.brd := (rfl)
@[simp] theorem setRunning_svc (n : Node) (h : Nat) : (setRunning n h).svc = n.svc := (rfl)
@[simp] theorem setRunning_out (n : Node) (h : Nat) : (setRunning n h).out = n.out := (rfl)
@[simp] theorem setRunning_freeCtr (n : Node) (h : Nat) : (setRunning n h).freeCtr = n.freeCtr := (rfl)

@[simp] theorem setTail_bank (n : Node) (r k : Nat) : (setTail n r k).bank = n.bank := (rfl)
@[simp] theorem setTail_hi (n : Node) (r k : Nat) : (setTail n r k).hi = n.hi := (rfl)
@[simp] theorem setTail_hmem (n : Node) (r k : Nat) : (setTail n r k).hmem = n.hmem := (rfl)
@[simp] theorem setTail_t1 (n : Node) (r k : Nat) : (setTail n r k).t1 = n.t1 := (rfl)
@[simp] theorem setTail_sch (n : Node) (r k : Nat) : (setTail n r k).sch = n.sch := (rfl)
@[simp] theorem setTail_seqs (n : Node) (r k : Nat) : (setTail n r k).seqs = n.seqs := (rfl)
@[simp] theorem setTail_att (n : Node) (r k : Nat) : (setTail n r k).att = n.att := (rfl)
@[simp] theorem setTail_cfl (n : Node) (r k : Nat) : (setTail n r k).cfl = n.cfl := (rfl)
@[simp] theorem setTail_cvt (n : Node) (r k : Nat) : (setTail n r k).cvt = n.cvt := (rfl)
@[simp] theorem setTail_bsu (n : Node) (r k : Nat) : (setTail n r k).bsu = n.bsu := (rfl)
@[simp] theorem setTail_ter (n : Node) (r k : Nat) : (setTail n r k).ter = n.ter := (rfl)
@[simp] theorem setTail_mic (n : Node) (r k : Nat) : (setTail n r k).mic = n.mic := (rfl)
@[simp] theorem setTail_wts (n : Node) (r k : Nat) : (setTail n r k).wts = n.wts := (rfl)
@[simp] theorem setTail_pdx (n : Node) (r k : Nat) : (setTail n r k).pdx = n.pdx := (rfl)
@[simp] theorem setTail_cxd (n : Node) (r k : Nat) : (setTail n r k).cxd = n.cxd := (rfl)
@[simp] theorem setTail_qst (n : Node) (r k : Nat) : (setTail n r k).qst = n.qst := (rfl)
@[simp] theorem setTail_map (n : Node) (r k : Nat) : (setTail n r k).map = n.map := (rfl)
@[simp] theorem setTail_sec (n : Node) (r k : Nat) : (setTail n r k).sec = n.sec := (rfl)
@[simp] theorem setTail_pwr (n : Node) (r k : Nat) : (setTail n r k).pwr = n.pwr := (rfl)
@[simp] theorem setTail_brd (n : Node) (r k : Nat) : (setTail n r k).brd = n.brd := (rfl)
@[simp] theorem setTail_svc (n : Node) (r k : Nat) : (setTail n r k).svc = n.svc := (rfl)
@[simp] theorem setTail_out (n : Node) (r k : Nat) : (setTail n r k).out = n.out := (rfl)
@[simp] theorem setTail_freeCtr (n : Node) (r k : Nat) : (setTail n r k).freeCtr = n.freeCtr := (rfl)

@[simp] theorem advanceHead_bank (n : Node) (r : Nat) : (advanceHead n r).bank = n.bank := (rfl)
@[simp] theorem advanceHead_hi (n : Node) (r : Nat) : (advanceHead n r).hi = n.hi := (rfl)
@[simp] theorem advanceHead_hmem (n : Node) (r : Nat) : (advanceHead n r).hmem = n.hmem := (rfl)
@[simp] theorem advanceHead_t1 (n : Node) (r : Nat) : (advanceHead n r).t1 = n.t1 := (rfl)
@[simp] theorem advanceHead_sch (n : Node) (r : Nat) : (advanceHead n r).sch = n.sch := (rfl)
@[simp] theorem advanceHead_seqs (n : Node) (r : Nat) : (advanceHead n r).seqs = n.seqs := (rfl)
@[simp] theorem advanceHead_att (n : Node) (r : Nat) : (advanceHead n r).att = n.att := (rfl)
@[simp] theorem advanceHead_cfl (n : Node) (r : Nat) : (advanceHead n r).cfl = n.cfl := (rfl)
@[simp] theorem advanceHead_cvt (n : Node) (r : Nat) : (advanceHead n r).cvt = n.cvt := (rfl)
@[simp] theorem advanceHead_bsu (n : Node) (r : Nat) : (advanceHead n r).bsu = n.bsu := (rfl)
@[simp] theorem advanceHead_ter (n : Node) (r : Nat) : (advanceHead n r).ter = n.ter := (rfl)
@[simp] theorem advanceHead_mic (n : Node) (r : Nat) : (advanceHead n r).mic = n.mic := (rfl)
@[simp] theorem advanceHead_wts (n : Node) (r : Nat) : (advanceHead n r).wts = n.wts := (rfl)
@[simp] theorem advanceHead_pdx (n : Node) (r : Nat) : (advanceHead n r).pdx = n.pdx := (rfl)
@[simp] theorem advanceHead_cxd (n : Node) (r : Nat) : (advanceHead n r).cxd = n.cxd := (rfl)
@[simp] theorem advanceHead_qst (n : Node) (r : Nat) : (advanceHead n r).qst = n.qst := (rfl)
@[simp] theorem advanceHead_map (n : Node) (r : Nat) : (advanceHead n r).map = n.map := (rfl)
@[simp] theorem advanceHead_sec (n : Node) (r : Nat) : (advanceHead n r).sec = n.sec := (rfl)
@[simp] theorem advanceHead_pwr (n : Node) (r : Nat) : (advanceHead n r).pwr = n.pwr := (rfl)
@[simp] theorem advanceHead_brd (n : Node) (r : Nat) : (advanceHead n r).brd = n.brd := (rfl)
@[simp] theorem advanceHead_svc (n : Node) (r : Nat) : (advanceHead n r).svc = n.svc := (rfl)
@[simp] theorem advanceHead_out (n : Node) (r : Nat) : (advanceHead n r).out = n.out := (rfl)
@[simp] theorem advanceHead_freeCtr (n : Node) (r : Nat) : (advanceHead n r).freeCtr = n.freeCtr := (rfl)

@[simp] theorem setSchQ_hi (n : Node) (q : Nat) (x : SchQ) : (setSchQ n q x).hi = n.hi := (rfl)
@[simp] theorem setSchQ_hmem (n : Node) (q : Nat) (x : SchQ) : (setSchQ n q x).hmem = n.hmem := (rfl)
@[simp] theorem setSchQ_t1 (n : Node) (q : Nat) (x : SchQ) : (setSchQ n q x).t1 = n.t1 := (rfl)
@[simp] theorem setSchQ_fe (n : Node) (q : Nat) (x : SchQ) : (setSchQ n q x).fe = n.fe := (rfl)
@[simp] theorem setSchQ_seqs (n : Node) (q : Nat) (x : SchQ) : (setSchQ n q x).seqs = n.seqs := (rfl)
@[simp] theorem setSchQ_att (n : Node) (q : Nat) (x : SchQ) : (setSchQ n q x).att = n.att := (rfl)
@[simp] theorem setSchQ_cfl (n : Node) (q : Nat) (x : SchQ) : (setSchQ n q x).cfl = n.cfl := (rfl)
@[simp] theorem setSchQ_cvt (n : Node) (q : Nat) (x : SchQ) : (setSchQ n q x).cvt = n.cvt := (rfl)
@[simp] theorem setSchQ_bsu (n : Node) (q : Nat) (x : SchQ) : (setSchQ n q x).bsu = n.bsu := (rfl)
@[simp] theorem setSchQ_ter (n : Node) (q : Nat) (x : SchQ) : (setSchQ n q x).ter = n.ter := (rfl)
@[simp] theorem setSchQ_mic (n : Node) (q : Nat) (x : SchQ) : (setSchQ n q x).mic = n.mic := (rfl)
@[simp] theorem setSchQ_wts (n : Node) (q : Nat) (x : SchQ) : (setSchQ n q x).wts = n.wts := (rfl)
@[simp] theorem setSchQ_pdx (n : Node) (q : Nat) (x : SchQ) : (setSchQ n q x).pdx = n.pdx := (rfl)
@[simp] theorem setSchQ_cxd (n : Node) (q : Nat) (x : SchQ) : (setSchQ n q x).cxd = n.cxd := (rfl)
@[simp] theorem setSchQ_qst (n : Node) (q : Nat) (x : SchQ) : (setSchQ n q x).qst = n.qst := (rfl)
@[simp] theorem setSchQ_map (n : Node) (q : Nat) (x : SchQ) : (setSchQ n q x).map = n.map := (rfl)
@[simp] theorem setSchQ_sec (n : Node) (q : Nat) (x : SchQ) : (setSchQ n q x).sec = n.sec := (rfl)
@[simp] theorem setSchQ_pwr (n : Node) (q : Nat) (x : SchQ) : (setSchQ n q x).pwr = n.pwr := (rfl)
@[simp] theorem setSchQ_brd (n : Node) (q : Nat) (x : SchQ) : (setSchQ n q x).brd = n.brd := (rfl)
@[simp] theorem setSchQ_svc (n : Node) (q : Nat) (x : SchQ) : (setSchQ n q x).svc = n.svc := (rfl)
@[simp] theorem setSchQ_out (n : Node) (q : Nat) (x : SchQ) : (setSchQ n q x).out = n.out := (rfl)
@[simp] theorem setSchQ_freeCtr (n : Node) (q : Nat) (x : SchQ) : (setSchQ n q x).freeCtr = n.freeCtr := (rfl)

@[simp] theorem dropStep_bank (n : Node) (h : Nat) : (dropStep n h).bank = n.bank := (rfl)
@[simp] theorem dropStep_hi (n : Node) (h : Nat) : (dropStep n h).hi = n.hi := (rfl)
@[simp] theorem dropStep_hmem (n : Node) (h : Nat) : (dropStep n h).hmem = n.hmem := (rfl)
@[simp] theorem dropStep_t1 (n : Node) (h : Nat) : (dropStep n h).t1 = n.t1 := (rfl)
@[simp] theorem dropStep_fe (n : Node) (h : Nat) : (dropStep n h).fe = n.fe := (rfl)
@[simp] theorem dropStep_sch (n : Node) (h : Nat) : (dropStep n h).sch = n.sch := (rfl)
@[simp] theorem dropStep_seqs (n : Node) (h : Nat) : (dropStep n h).seqs = n.seqs := (rfl)
@[simp] theorem dropStep_cfl (n : Node) (h : Nat) : (dropStep n h).cfl = n.cfl := (rfl)
@[simp] theorem dropStep_cvt (n : Node) (h : Nat) : (dropStep n h).cvt = n.cvt := (rfl)
@[simp] theorem dropStep_bsu (n : Node) (h : Nat) : (dropStep n h).bsu = n.bsu := (rfl)
@[simp] theorem dropStep_ter (n : Node) (h : Nat) : (dropStep n h).ter = n.ter := (rfl)
@[simp] theorem dropStep_mic (n : Node) (h : Nat) : (dropStep n h).mic = n.mic := (rfl)
@[simp] theorem dropStep_wts (n : Node) (h : Nat) : (dropStep n h).wts = n.wts := (rfl)
@[simp] theorem dropStep_pdx (n : Node) (h : Nat) : (dropStep n h).pdx = n.pdx := (rfl)
@[simp] theorem dropStep_cxd (n : Node) (h : Nat) : (dropStep n h).cxd = n.cxd := (rfl)
@[simp] theorem dropStep_qst (n : Node) (h : Nat) : (dropStep n h).qst = n.qst := (rfl)
@[simp] theorem dropStep_map (n : Node) (h : Nat) : (dropStep n h).map = n.map := (rfl)
@[simp] theorem dropStep_sec (n : Node) (h : Nat) : (dropStep n h).sec = n.sec := (rfl)
@[simp] theorem dropStep_pwr (n : Node) (h : Nat) : (dropStep n h).pwr = n.pwr := (rfl)
@[simp] theorem dropStep_brd (n : Node) (h : Nat) : (dropStep n h).brd = n.brd := (rfl)
@[simp] theorem dropStep_svc (n : Node) (h : Nat) : (dropStep n h).svc = n.svc := (rfl)
@[simp] theorem dropStep_out (n : Node) (h : Nat) : (dropStep n h).out = n.out := (rfl)
@[simp] theorem dropStep_freeCtr (n : Node) (h : Nat) : (dropStep n h).freeCtr = n.freeCtr := (rfl)

@[simp] theorem emit_out (n : Node) (o : Out) : (emit n o).out = n.out ++ [o] := (rfl)
@[simp] theorem setTail_cmds (n : Node) (r k : Nat) : (setTail n r k).fe.cmds = n.fe.cmds := (rfl)
@[simp] theorem setTail_cqs (n : Node) (r k : Nat) : (setTail n r k).fe.cqs = n.fe.cqs := (rfl)
@[simp] theorem advanceHead_cmds (n : Node) (r : Nat) : (advanceHead n r).fe.cmds = n.fe.cmds := (rfl)
@[simp] theorem advanceHead_cqs (n : Node) (r : Nat) : (advanceHead n r).fe.cqs = n.fe.cqs := (rfl)
@[simp] theorem hostWrite_hmem (n : Node) (r a : Nat) (b : Bytes) : (hostWrite n r a b).hmem = Mem.write 0 n.hmem (hostKey r a) b := (rfl)

/-- The programmable counters and their overflow masks are all that counting an event changes. -/
theorem pmcOne_frame {α : Type} (g : Node → α) (hs : ∀ (n : Node) (x : Svc), g { n with svc := x } = g n) (hb : ∀ (n : Node) f v, g (wr n f v) = g n)
    (u ev k : Nat) (n : Node) (i : Nat) : g (pmcOne u ev k n i) = g n := by
  unfold pmcOne
  split
  · simp only []
    split
    · rw [hb, hs]
    · rw [hs]
  · rfl

/-- What an update of the counters' store and of registers leaves, counting an event leaves. -/
theorem pmc_frame {α : Type} (g : Node → α) (hs : ∀ (n : Node) (x : Svc), g { n with svc := x } = g n) (hb : ∀ (n : Node) f v, g (wr n f v) = g n)
    (n : Node) (u ev k : Nat) : g (pmc n u ev k) = g n := by
  unfold pmc
  generalize List.range 8 = l
  induction l generalizing n with
  | nil => rfl
  | cons a t ih => rw [List.foldl_cons, ih, pmcOne_frame g hs hb]

@[simp] theorem pmc_hi (n : Node) (u ev k : Nat) : (pmc n u ev k).hi = n.hi := pmc_frame (·.hi) (fun _ _ => rfl) (fun _ _ _ => rfl) n u ev k
@[simp] theorem pmc_hmem (n : Node) (u ev k : Nat) : (pmc n u ev k).hmem = n.hmem := pmc_frame (·.hmem) (fun _ _ => rfl) (fun _ _ _ => rfl) n u ev k
@[simp] theorem pmc_t1 (n : Node) (u ev k : Nat) : (pmc n u ev k).t1 = n.t1 := pmc_frame (·.t1) (fun _ _ => rfl) (fun _ _ _ => rfl) n u ev k
@[simp] theorem pmc_fe (n : Node) (u ev k : Nat) : (pmc n u ev k).fe = n.fe := pmc_frame (·.fe) (fun _ _ => rfl) (fun _ _ _ => rfl) n u ev k
@[simp] theorem pmc_sch (n : Node) (u ev k : Nat) : (pmc n u ev k).sch = n.sch := pmc_frame (·.sch) (fun _ _ => rfl) (fun _ _ _ => rfl) n u ev k
@[simp] theorem pmc_seqs (n : Node) (u ev k : Nat) : (pmc n u ev k).seqs = n.seqs := pmc_frame (·.seqs) (fun _ _ => rfl) (fun _ _ _ => rfl) n u ev k
@[simp] theorem pmc_att (n : Node) (u ev k : Nat) : (pmc n u ev k).att = n.att := pmc_frame (·.att) (fun _ _ => rfl) (fun _ _ _ => rfl) n u ev k
@[simp] theorem pmc_cfl (n : Node) (u ev k : Nat) : (pmc n u ev k).cfl = n.cfl := pmc_frame (·.cfl) (fun _ _ => rfl) (fun _ _ _ => rfl) n u ev k
@[simp] theorem pmc_cvt (n : Node) (u ev k : Nat) : (pmc n u ev k).cvt = n.cvt := pmc_frame (·.cvt) (fun _ _ => rfl) (fun _ _ _ => rfl) n u ev k
@[simp] theorem pmc_bsu (n : Node) (u ev k : Nat) : (pmc n u ev k).bsu = n.bsu := pmc_frame (·.bsu) (fun _ _ => rfl) (fun _ _ _ => rfl) n u ev k
@[simp] theorem pmc_ter (n : Node) (u ev k : Nat) : (pmc n u ev k).ter = n.ter := pmc_frame (·.ter) (fun _ _ => rfl) (fun _ _ _ => rfl) n u ev k
@[simp] theorem pmc_mic (n : Node) (u ev k : Nat) : (pmc n u ev k).mic = n.mic := pmc_frame (·.mic) (fun _ _ => rfl) (fun _ _ _ => rfl) n u ev k
@[simp] theorem pmc_wts (n : Node) (u ev k : Nat) : (pmc n u ev k).wts = n.wts := pmc_frame (·.wts) (fun _ _ => rfl) (fun _ _ _ => rfl) n u ev k
@[simp] theorem pmc_pdx (n : Node) (u ev k : Nat) : (pmc n u ev k).pdx = n.pdx := pmc_frame (·.pdx) (fun _ _ => rfl) (fun _ _ _ => rfl) n u ev k
@[simp] theorem pmc_cxd (n : Node) (u ev k : Nat) : (pmc n u ev k).cxd = n.cxd := pmc_frame (·.cxd) (fun _ _ => rfl) (fun _ _ _ => rfl) n u ev k
@[simp] theorem pmc_qst (n : Node) (u ev k : Nat) : (pmc n u ev k).qst = n.qst := pmc_frame (·.qst) (fun _ _ => rfl) (fun _ _ _ => rfl) n u ev k
@[simp] theorem pmc_map (n : Node) (u ev k : Nat) : (pmc n u ev k).map = n.map := pmc_frame (·.map) (fun _ _ => rfl) (fun _ _ _ => rfl) n u ev k
@[simp] theorem pmc_sec (n : Node) (u ev k : Nat) : (pmc n u ev k).sec = n.sec := pmc_frame (·.sec) (fun _ _ => rfl) (fun _ _ _ => rfl) n u ev k
@[simp] theorem pmc_pwr (n : Node) (u ev k : Nat) : (pmc n u ev k).pwr = n.pwr := pmc_frame (·.pwr) (fun _ _ => rfl) (fun _ _ _ => rfl) n u ev k
@[simp] theorem pmc_brd (n : Node) (u ev k : Nat) : (pmc n u ev k).brd = n.brd := pmc_frame (·.brd) (fun _ _ => rfl) (fun _ _ _ => rfl) n u ev k
@[simp] theorem pmc_out (n : Node) (u ev k : Nat) : (pmc n u ev k).out = n.out := pmc_frame (·.out) (fun _ _ => rfl) (fun _ _ _ => rfl) n u ev k
@[simp] theorem pmc_freeCtr (n : Node) (u ev k : Nat) : (pmc n u ev k).freeCtr = n.freeCtr := pmc_frame (·.freeCtr) (fun _ _ => rfl) (fun _ _ _ => rfl) n u ev k

@[simp] theorem signalCq_bank (n : Node) (k : Nat) (q : Cq) : (signalCq n k q).bank = n.bank := by unfold signalCq; split <;> rfl
@[simp] theorem signalCq_hi (n : Node) (k : Nat) (q : Cq) : (signalCq n k q).hi = n.hi := by unfold signalCq; split <;> rfl
@[simp] theorem signalCq_hmem (n : Node) (k : Nat) (q : Cq) : (signalCq n k q).hmem = n.hmem := by unfold signalCq; split <;> rfl
@[simp] theorem signalCq_t1 (n : Node) (k : Nat) (q : Cq) : (signalCq n k q).t1 = n.t1 := by unfold signalCq; split <;> rfl
@[simp] theorem signalCq_sch (n : Node) (k : Nat) (q : Cq) : (signalCq n k q).sch = n.sch := by unfold signalCq; split <;> rfl
@[simp] theorem signalCq_seqs (n : Node) (k : Nat) (q : Cq) : (signalCq n k q).seqs = n.seqs := by unfold signalCq; split <;> rfl
@[simp] theorem signalCq_att (n : Node) (k : Nat) (q : Cq) : (signalCq n k q).att = n.att := by unfold signalCq; split <;> rfl
@[simp] theorem signalCq_cfl (n : Node) (k : Nat) (q : Cq) : (signalCq n k q).cfl = n.cfl := by unfold signalCq; split <;> rfl
@[simp] theorem signalCq_cvt (n : Node) (k : Nat) (q : Cq) : (signalCq n k q).cvt = n.cvt := by unfold signalCq; split <;> rfl
@[simp] theorem signalCq_bsu (n : Node) (k : Nat) (q : Cq) : (signalCq n k q).bsu = n.bsu := by unfold signalCq; split <;> rfl
@[simp] theorem signalCq_ter (n : Node) (k : Nat) (q : Cq) : (signalCq n k q).ter = n.ter := by unfold signalCq; split <;> rfl
@[simp] theorem signalCq_mic (n : Node) (k : Nat) (q : Cq) : (signalCq n k q).mic = n.mic := by unfold signalCq; split <;> rfl
@[simp] theorem signalCq_wts (n : Node) (k : Nat) (q : Cq) : (signalCq n k q).wts = n.wts := by unfold signalCq; split <;> rfl
@[simp] theorem signalCq_pdx (n : Node) (k : Nat) (q : Cq) : (signalCq n k q).pdx = n.pdx := by unfold signalCq; split <;> rfl
@[simp] theorem signalCq_cxd (n : Node) (k : Nat) (q : Cq) : (signalCq n k q).cxd = n.cxd := by unfold signalCq; split <;> rfl
@[simp] theorem signalCq_qst (n : Node) (k : Nat) (q : Cq) : (signalCq n k q).qst = n.qst := by unfold signalCq; split <;> rfl
@[simp] theorem signalCq_map (n : Node) (k : Nat) (q : Cq) : (signalCq n k q).map = n.map := by unfold signalCq; split <;> rfl
@[simp] theorem signalCq_sec (n : Node) (k : Nat) (q : Cq) : (signalCq n k q).sec = n.sec := by unfold signalCq; split <;> rfl
@[simp] theorem signalCq_pwr (n : Node) (k : Nat) (q : Cq) : (signalCq n k q).pwr = n.pwr := by unfold signalCq; split <;> rfl
@[simp] theorem signalCq_brd (n : Node) (k : Nat) (q : Cq) : (signalCq n k q).brd = n.brd := by unfold signalCq; split <;> rfl
@[simp] theorem signalCq_svc (n : Node) (k : Nat) (q : Cq) : (signalCq n k q).svc = n.svc := by unfold signalCq; split <;> rfl
@[simp] theorem signalCq_freeCtr (n : Node) (k : Nat) (q : Cq) : (signalCq n k q).freeCtr = n.freeCtr := by unfold signalCq; split <;> rfl

@[simp] theorem writeTrace_hi (t : Tck) (n : Node) (c : Cmd) : (writeTrace t n c).hi = n.hi := by unfold writeTrace; split <;> rfl
@[simp] theorem writeTrace_hmem (t : Tck) (n : Node) (c : Cmd) : (writeTrace t n c).hmem = n.hmem := by unfold writeTrace; split <;> rfl
@[simp] theorem writeTrace_t1 (t : Tck) (n : Node) (c : Cmd) : (writeTrace t n c).t1 = n.t1 := by unfold writeTrace; split <;> rfl
@[simp] theorem writeTrace_fe (t : Tck) (n : Node) (c : Cmd) : (writeTrace t n c).fe = n.fe := by unfold writeTrace; split <;> rfl
@[simp] theorem writeTrace_sch (t : Tck) (n : Node) (c : Cmd) : (writeTrace t n c).sch = n.sch := by unfold writeTrace; split <;> rfl
@[simp] theorem writeTrace_seqs (t : Tck) (n : Node) (c : Cmd) : (writeTrace t n c).seqs = n.seqs := by unfold writeTrace; split <;> rfl
@[simp] theorem writeTrace_att (t : Tck) (n : Node) (c : Cmd) : (writeTrace t n c).att = n.att := by unfold writeTrace; split <;> rfl
@[simp] theorem writeTrace_cfl (t : Tck) (n : Node) (c : Cmd) : (writeTrace t n c).cfl = n.cfl := by unfold writeTrace; split <;> rfl
@[simp] theorem writeTrace_cvt (t : Tck) (n : Node) (c : Cmd) : (writeTrace t n c).cvt = n.cvt := by unfold writeTrace; split <;> rfl
@[simp] theorem writeTrace_bsu (t : Tck) (n : Node) (c : Cmd) : (writeTrace t n c).bsu = n.bsu := by unfold writeTrace; split <;> rfl
@[simp] theorem writeTrace_ter (t : Tck) (n : Node) (c : Cmd) : (writeTrace t n c).ter = n.ter := by unfold writeTrace; split <;> rfl
@[simp] theorem writeTrace_mic (t : Tck) (n : Node) (c : Cmd) : (writeTrace t n c).mic = n.mic := by unfold writeTrace; split <;> rfl
@[simp] theorem writeTrace_wts (t : Tck) (n : Node) (c : Cmd) : (writeTrace t n c).wts = n.wts := by unfold writeTrace; split <;> rfl
@[simp] theorem writeTrace_pdx (t : Tck) (n : Node) (c : Cmd) : (writeTrace t n c).pdx = n.pdx := by unfold writeTrace; split <;> rfl
@[simp] theorem writeTrace_cxd (t : Tck) (n : Node) (c : Cmd) : (writeTrace t n c).cxd = n.cxd := by unfold writeTrace; split <;> rfl
@[simp] theorem writeTrace_qst (t : Tck) (n : Node) (c : Cmd) : (writeTrace t n c).qst = n.qst := by unfold writeTrace; split <;> rfl
@[simp] theorem writeTrace_map (t : Tck) (n : Node) (c : Cmd) : (writeTrace t n c).map = n.map := by unfold writeTrace; split <;> rfl
@[simp] theorem writeTrace_sec (t : Tck) (n : Node) (c : Cmd) : (writeTrace t n c).sec = n.sec := by unfold writeTrace; split <;> rfl
@[simp] theorem writeTrace_pwr (t : Tck) (n : Node) (c : Cmd) : (writeTrace t n c).pwr = n.pwr := by unfold writeTrace; split <;> rfl
@[simp] theorem writeTrace_brd (t : Tck) (n : Node) (c : Cmd) : (writeTrace t n c).brd = n.brd := by unfold writeTrace; split <;> rfl
@[simp] theorem writeTrace_out (t : Tck) (n : Node) (c : Cmd) : (writeTrace t n c).out = n.out := by unfold writeTrace; split <;> rfl
@[simp] theorem writeTrace_freeCtr (t : Tck) (n : Node) (c : Cmd) : (writeTrace t n c).freeCtr = n.freeCtr := by unfold writeTrace; split <;> rfl

@[simp] theorem postEntry_bank (t : Tck) (n : Node) (k : Nat) (q : Cq) (e : Bytes) : (postEntry t n k q e).bank = n.bank := by
  unfold postEntry; repeat' (first | rfl | (simp only []; split) | simp | split)
@[simp] theorem postEntry_hi (t : Tck) (n : Node) (k : Nat) (q : Cq) (e : Bytes) : (postEntry t n k q e).hi = n.hi := by
  unfold postEntry; repeat' (first | rfl | (simp only []; split) | simp | split)
@[simp] theorem postEntry_t1 (t : Tck) (n : Node) (k : Nat) (q : Cq) (e : Bytes) : (postEntry t n k q e).t1 = n.t1 := by
  unfold postEntry; repeat' (first | rfl | (simp only []; split) | simp | split)
@[simp] theorem postEntry_sch (t : Tck) (n : Node) (k : Nat) (q : Cq) (e : Bytes) : (postEntry t n k q e).sch = n.sch := by
  unfold postEntry; repeat' (first | rfl | (simp only []; split) | simp | split)
@[simp] theorem postEntry_seqs (t : Tck) (n : Node) (k : Nat) (q : Cq) (e : Bytes) : (postEntry t n k q e).seqs = n.seqs := by
  unfold postEntry; repeat' (first | rfl | (simp only []; split) | simp | split)
@[simp] theorem postEntry_att (t : Tck) (n : Node) (k : Nat) (q : Cq) (e : Bytes) : (postEntry t n k q e).att = n.att := by
  unfold postEntry; repeat' (first | rfl | (simp only []; split) | simp | split)
@[simp] theorem postEntry_cfl (t : Tck) (n : Node) (k : Nat) (q : Cq) (e : Bytes) : (postEntry t n k q e).cfl = n.cfl := by
  unfold postEntry; repeat' (first | rfl | (simp only []; split) | simp | split)
@[simp] theorem postEntry_cvt (t : Tck) (n : Node) (k : Nat) (q : Cq) (e : Bytes) : (postEntry t n k q e).cvt = n.cvt := by
  unfold postEntry; repeat' (first | rfl | (simp only []; split) | simp | split)
@[simp] theorem postEntry_bsu (t : Tck) (n : Node) (k : Nat) (q : Cq) (e : Bytes) : (postEntry t n k q e).bsu = n.bsu := by
  unfold postEntry; repeat' (first | rfl | (simp only []; split) | simp | split)
@[simp] theorem postEntry_ter (t : Tck) (n : Node) (k : Nat) (q : Cq) (e : Bytes) : (postEntry t n k q e).ter = n.ter := by
  unfold postEntry; repeat' (first | rfl | (simp only []; split) | simp | split)
@[simp] theorem postEntry_mic (t : Tck) (n : Node) (k : Nat) (q : Cq) (e : Bytes) : (postEntry t n k q e).mic = n.mic := by
  unfold postEntry; repeat' (first | rfl | (simp only []; split) | simp | split)
@[simp] theorem postEntry_wts (t : Tck) (n : Node) (k : Nat) (q : Cq) (e : Bytes) : (postEntry t n k q e).wts = n.wts := by
  unfold postEntry; repeat' (first | rfl | (simp only []; split) | simp | split)
@[simp] theorem postEntry_pdx (t : Tck) (n : Node) (k : Nat) (q : Cq) (e : Bytes) : (postEntry t n k q e).pdx = n.pdx := by
  unfold postEntry; repeat' (first | rfl | (simp only []; split) | simp | split)
@[simp] theorem postEntry_cxd (t : Tck) (n : Node) (k : Nat) (q : Cq) (e : Bytes) : (postEntry t n k q e).cxd = n.cxd := by
  unfold postEntry; repeat' (first | rfl | (simp only []; split) | simp | split)
@[simp] theorem postEntry_qst (t : Tck) (n : Node) (k : Nat) (q : Cq) (e : Bytes) : (postEntry t n k q e).qst = n.qst := by
  unfold postEntry; repeat' (first | rfl | (simp only []; split) | simp | split)
@[simp] theorem postEntry_map (t : Tck) (n : Node) (k : Nat) (q : Cq) (e : Bytes) : (postEntry t n k q e).map = n.map := by
  unfold postEntry; repeat' (first | rfl | (simp only []; split) | simp | split)
@[simp] theorem postEntry_sec (t : Tck) (n : Node) (k : Nat) (q : Cq) (e : Bytes) : (postEntry t n k q e).sec = n.sec := by
  unfold postEntry; repeat' (first | rfl | (simp only []; split) | simp | split)
@[simp] theorem postEntry_pwr (t : Tck) (n : Node) (k : Nat) (q : Cq) (e : Bytes) : (postEntry t n k q e).pwr = n.pwr := by
  unfold postEntry; repeat' (first | rfl | (simp only []; split) | simp | split)
@[simp] theorem postEntry_brd (t : Tck) (n : Node) (k : Nat) (q : Cq) (e : Bytes) : (postEntry t n k q e).brd = n.brd := by
  unfold postEntry; repeat' (first | rfl | (simp only []; split) | simp | split)
@[simp] theorem postEntry_svc (t : Tck) (n : Node) (k : Nat) (q : Cq) (e : Bytes) : (postEntry t n k q e).svc = n.svc := by
  unfold postEntry; repeat' (first | rfl | (simp only []; split) | simp | split)
@[simp] theorem postEntry_freeCtr (t : Tck) (n : Node) (k : Nat) (q : Cq) (e : Bytes) : (postEntry t n k q e).freeCtr = n.freeCtr := by
  unfold postEntry; repeat' (first | rfl | (simp only []; split) | simp | split)

@[simp] theorem complete_hi (t : Tck) (n : Node) (h st : Nat) (r : Bytes) : (complete t n h st r).hi = n.hi := by
  unfold complete; split
  · rfl
  · split <;> simp
@[simp] theorem complete_t1 (t : Tck) (n : Node) (h st : Nat) (r : Bytes) : (complete t n h st r).t1 = n.t1 := by
  unfold complete; split
  · rfl
  · split <;> simp
@[simp] theorem complete_sch (t : Tck) (n : Node) (h st : Nat) (r : Bytes) : (complete t n h st r).sch = n.sch := by
  unfold complete; split
  · rfl
  · split <;> simp
@[simp] theorem complete_att (t : Tck) (n : Node) (h st : Nat) (r : Bytes) : (complete t n h st r).att = n.att := by
  unfold complete; split
  · rfl
  · split <;> simp
@[simp] theorem complete_cfl (t : Tck) (n : Node) (h st : Nat) (r : Bytes) : (complete t n h st r).cfl = n.cfl := by
  unfold complete; split
  · rfl
  · split <;> simp
@[simp] theorem complete_cvt (t : Tck) (n : Node) (h st : Nat) (r : Bytes) : (complete t n h st r).cvt = n.cvt := by
  unfold complete; split
  · rfl
  · split <;> simp
@[simp] theorem complete_bsu (t : Tck) (n : Node) (h st : Nat) (r : Bytes) : (complete t n h st r).bsu = n.bsu := by
  unfold complete; split
  · rfl
  · split <;> simp
@[simp] theorem complete_ter (t : Tck) (n : Node) (h st : Nat) (r : Bytes) : (complete t n h st r).ter = n.ter := by
  unfold complete; split
  · rfl
  · split <;> simp
@[simp] theorem complete_mic (t : Tck) (n : Node) (h st : Nat) (r : Bytes) : (complete t n h st r).mic = n.mic := by
  unfold complete; split
  · rfl
  · split <;> simp
@[simp] theorem complete_wts (t : Tck) (n : Node) (h st : Nat) (r : Bytes) : (complete t n h st r).wts = n.wts := by
  unfold complete; split
  · rfl
  · split <;> simp
@[simp] theorem complete_pdx (t : Tck) (n : Node) (h st : Nat) (r : Bytes) : (complete t n h st r).pdx = n.pdx := by
  unfold complete; split
  · rfl
  · split <;> simp
@[simp] theorem complete_cxd (t : Tck) (n : Node) (h st : Nat) (r : Bytes) : (complete t n h st r).cxd = n.cxd := by
  unfold complete; split
  · rfl
  · split <;> simp
@[simp] theorem complete_qst (t : Tck) (n : Node) (h st : Nat) (r : Bytes) : (complete t n h st r).qst = n.qst := by
  unfold complete; split
  · rfl
  · split <;> simp
@[simp] theorem complete_map (t : Tck) (n : Node) (h st : Nat) (r : Bytes) : (complete t n h st r).map = n.map := by
  unfold complete; split
  · rfl
  · split <;> simp
@[simp] theorem complete_sec (t : Tck) (n : Node) (h st : Nat) (r : Bytes) : (complete t n h st r).sec = n.sec := by
  unfold complete; split
  · rfl
  · split <;> simp
@[simp] theorem complete_pwr (t : Tck) (n : Node) (h st : Nat) (r : Bytes) : (complete t n h st r).pwr = n.pwr := by
  unfold complete; split
  · rfl
  · split <;> simp
@[simp] theorem complete_brd (t : Tck) (n : Node) (h st : Nat) (r : Bytes) : (complete t n h st r).brd = n.brd := by
  unfold complete; split
  · rfl
  · split <;> simp
@[simp] theorem complete_freeCtr (t : Tck) (n : Node) (h st : Nat) (r : Bytes) : (complete t n h st r).freeCtr = n.freeCtr := by
  unfold complete; split
  · rfl
  · split <;> simp

@[simp] theorem badParam_hi (t : Tck) (n : Node) (h o : Nat) : (badParam t n h o).hi = n.hi := complete_hi t n h _ _
@[simp] theorem badParam_t1 (t : Tck) (n : Node) (h o : Nat) : (badParam t n h o).t1 = n.t1 := complete_t1 t n h _ _
@[simp] theorem badParam_sch (t : Tck) (n : Node) (h o : Nat) : (badParam t n h o).sch = n.sch := complete_sch t n h _ _
@[simp] theorem badParam_att (t : Tck) (n : Node) (h o : Nat) : (badParam t n h o).att = n.att := complete_att t n h _ _
@[simp] theorem badParam_cfl (t : Tck) (n : Node) (h o : Nat) : (badParam t n h o).cfl = n.cfl := complete_cfl t n h _ _
@[simp] theorem badParam_cvt (t : Tck) (n : Node) (h o : Nat) : (badParam t n h o).cvt = n.cvt := complete_cvt t n h _ _
@[simp] theorem badParam_bsu (t : Tck) (n : Node) (h o : Nat) : (badParam t n h o).bsu = n.bsu := complete_bsu t n h _ _
@[simp] theorem badParam_ter (t : Tck) (n : Node) (h o : Nat) : (badParam t n h o).ter = n.ter := complete_ter t n h _ _
@[simp] theorem badParam_mic (t : Tck) (n : Node) (h o : Nat) : (badParam t n h o).mic = n.mic := complete_mic t n h _ _
@[simp] theorem badParam_wts (t : Tck) (n : Node) (h o : Nat) : (badParam t n h o).wts = n.wts := complete_wts t n h _ _
@[simp] theorem badParam_pdx (t : Tck) (n : Node) (h o : Nat) : (badParam t n h o).pdx = n.pdx := complete_pdx t n h _ _
@[simp] theorem badParam_cxd (t : Tck) (n : Node) (h o : Nat) : (badParam t n h o).cxd = n.cxd := complete_cxd t n h _ _
@[simp] theorem badParam_qst (t : Tck) (n : Node) (h o : Nat) : (badParam t n h o).qst = n.qst := complete_qst t n h _ _
@[simp] theorem badParam_map (t : Tck) (n : Node) (h o : Nat) : (badParam t n h o).map = n.map := complete_map t n h _ _
@[simp] theorem badParam_sec (t : Tck) (n : Node) (h o : Nat) : (badParam t n h o).sec = n.sec := complete_sec t n h _ _
@[simp] theorem badParam_pwr (t : Tck) (n : Node) (h o : Nat) : (badParam t n h o).pwr = n.pwr := complete_pwr t n h _ _
@[simp] theorem badParam_brd (t : Tck) (n : Node) (h o : Nat) : (badParam t n h o).brd = n.brd := complete_brd t n h _ _
@[simp] theorem badParam_freeCtr (t : Tck) (n : Node) (h o : Nat) : (badParam t n h o).freeCtr = n.freeCtr := complete_freeCtr t n h _ _

/-- The command of an opcode, dispatched and past its FENCE, is the one that the opcode's effect runs on (R71, R329). -/
theorem withCmd_eq {n : Node} {h op : Nat} {c : Cmd} (body : Cmd → Node) (hf : findCmd n h = some c) (ho : c.op = op) (hs : c.stage = .dispatched)
    (hq : fenceOk n c = true) : withCmd n h op body = body c := by
  simp [withCmd, hf, ho, hs, hq]

/-- Without an offending field the effect runs (R9, R61). -/
theorem checked_ok {t : Tck} {n : Node} {c : Cmd} {l : List Nat} (body : Node) (hh : headerOffs c = []) (hl : l = []) : checked t n c l body = body := by
  simp [checked, hh, hl, firstOff, leastBy]

/-- A command that a handle finds has that handle. -/
theorem findCmd_handle {n : Node} {h : Nat} {c : Cmd} (hf : findCmd n h = some c) : c.handle = h := by
  have := List.find?_some hf
  simpa using this

/-- A command that a handle finds is outstanding. -/
theorem findCmd_mem {n : Node} {h : Nat} {c : Cmd} (hf : findCmd n h = some c) : c ∈ n.fe.cmds := List.mem_of_find?_eq_some hf

end Sys2Proof.Machine
end

