-- ==== Sys2Proof/Laws/Ops.lean ====
section
/-! SUPPORT. What the shared checks of commands do when nothing offends, and maps changed at a key. -/

namespace Sys2Proof.Machine

/-- The checks of a sequence command pass. -/
theorem checks_pass {t : Tck} {n : Node} {c : Cmd} {seals : Bool} {l offs : List Nat} {b : Node} (h1 : seqHeld n c = false)
    (h2 : (seals || sealedSeq n (c.f 24 8)) = true → sealedClass c.q = true)
    (h3 : headerOffs c = []) (h4 : l = []) (h5 : compOurs n (compOf (c.f 24 8)) = true) (h6 : (mget? n.seqs.open_ (c.f 24 8)).isSome = true ∨ mget? n.seqs.elsewhere (c.f 24 8) = none) :
    seqChecks t n c seals l offs b = b := by
  subst h4
  have h7 : ((seals || sealedSeq n (c.f 24 8)) && !sealedClass c.q) = false := by
    cases hb : (seals || sealedSeq n (c.f 24 8))
    · rfl
    · rw [h2 hb]; rfl
  unfold seqChecks
  simp only [h1, h3, h7, List.append_nil, List.isEmpty_nil, h5, Bool.not_true, Bool.false_eq_true, if_false]
  rcases h6 with h | h
  · simp only [mhas, h, if_true]
  · simp only [h]; split <;> rfl

/-- The same where the sequence is open nowhere. -/
theorem checks_none {t : Tck} {n : Node} {c : Cmd} {seals : Bool} {l offs : List Nat} {b : Node} (h1 : seqHeld n c = false) (h2 : seals = true → sealedClass c.q = true)
    (h3 : headerOffs c = []) (h4 : l = []) (h5 : compOurs n (compOf (c.f 24 8)) = true) (h6 : mget? n.seqs.open_ (c.f 24 8) = none) (h7 : mget? n.seqs.elsewhere (c.f 24 8) = none) :
    seqChecks t n c seals l offs b = b :=
  checks_pass h1 (by simpa [sealedSeq, h6] using h2) h3 h4 h5 (Or.inr h7)

/-- Nothing offends. -/
theorem orBad_nil {t : Tck} {n : Node} {c : Cmd} {l : List Nat} {b : Node} (h : l = []) : orBad t n c l b = b := by subst h; rfl

/-- A command on an open sequence in its turn runs its effect. -/
theorem withSeq_pass {t : Tck} {n : Node} {c : Cmd} {l : List Nat} {offs : Seqn → List Nat} {b : Seqn → Node} {x : Seqn} (h : OnSeq n c x) (h3 : headerOffs c = []) (h4 : l = [])
    (h5 : offs x = []) : withSeq t n c l offs b = b x := by
  obtain ⟨⟨h1, h2⟩, h6, h7⟩ := h
  unfold withSeq
  rw [h6]
  show seqChecks t n c false l (offs x) (orBad t n c (offs x) (b x)) = b x
  rw [orBad_nil h5]
  exact checks_pass h1 (by simpa [sealedSeq, h6] using h7) h3 h4 h2 (Or.inl (by rw [h6]; rfl))

/-- Reading a map after a change of one key. -/
theorem mget?_mmod {β : Type} (m : NMap β) (k j : Nat) (f : β → β) : mget? (mmod m k f) j = if j = k then (mget? m k).map f else mget? m j := by
  unfold mmod
  split
  · rename_i h; by_cases e : j = k <;> simp [e, h]
  · rename_i v h; rw [mget?_mset]; by_cases e : j = k <;> simp [e, h]

/-- A change of a present key sets it. -/
theorem mmod_some {β : Type} {m : NMap β} {k : Nat} {f : β → β} {v : β} (h : mget? m k = some v) : mmod m k f = mset m k (f v) := by
  unfold mmod; rw [h]

/-- Nothing to report. -/
theorem offIf_false {b : Bool} {k : Nat} (h : b = false) : offIf b k = [] := by subst h; rfl

/-! Commands and lists. -/

/-- A command that a handle finds is found running once it has begun. -/
theorem findCmd_setRunning {n : Node} {h : Nat} {c : Cmd} (e : findCmd n h = some c) : findCmd (setRunning n h) h = some { c with stage := .running } := by
  unfold setRunning modCmd findCmd at *
  show (lmodify n.fe.cmds _ _).find? _ = _
  generalize n.fe.cmds = l at e
  induction l with
  | nil => simp at e
  | cons a l ih =>
    by_cases g : a.handle == h
    · rw [List.find?_cons_of_pos (by simpa using g)] at e
      cases e; simp only [lmodify, List.map_cons, g, if_true]
      rw [List.find?_cons_of_pos (by simpa using g)]
    · rw [List.find?_cons_of_neg (by simpa using g)] at e
      simp only [lmodify, List.map_cons, if_neg g] at ih ⊢
      rw [List.find?_cons_of_neg (by simpa using g)]
      exact ih e

/-- A list without its repetitions holds what it held. -/
theorem mem_dedupNat (l : List Nat) (x : Nat) : x ∈ dedupNat l ↔ x ∈ l := by
  induction l with
  | nil => simp [dedupNat]
  | cons a l ih =>
    simp only [dedupNat, List.mem_cons, List.mem_filter, ih, bne_iff_ne, ne_eq]
    by_cases e : x = a <;> simp [e]

/-- It holds nothing twice. -/
theorem nodup_dedupNat (l : List Nat) : (dedupNat l).Nodup := by
  induction l with
  | nil => exact List.nodup_nil
  | cons a l ih =>
    simp only [dedupNat, List.nodup_cons]
    exact ⟨by simp, ih.filter _⟩

/-- Reading a number of bytes answers that many. -/
theorem Mem.read_length (d : Byte) (m : Mem) (k a : Nat) : (Mem.read d m a k).length = k := by
  induction k generalizing a with
  | zero => rfl
  | succ k ih => exact congrArg (· + 1) (ih (a + 1))

/-! Numbers that bytes spell. -/

/-- Bytes spell a number of their width. -/
theorem ofLe_lt (l : Bytes) : ofLe l < 256 ^ l.length := by
  induction l with
  | nil => simp [ofLe]
  | cons a l ih =>
    have := a.isLt
    simp only [ofLe, List.length_cons, Nat.pow_succ]
    omega

/-- The number of a concatenation. -/
theorem ofLe_append (l m : Bytes) : ofLe (l ++ m) = ofLe l + 256 ^ l.length * ofLe m := by
  induction l with
  | nil => simp [ofLe]
  | cons a l ih =>
    simp only [List.cons_append, ofLe, ih, List.length_cons, Nat.pow_succ]
    rw [Nat.mul_add, ← Nat.mul_assoc, Nat.mul_comm (256 ^ l.length) 256]
    omega

/-- A field is below its width. -/
theorem field_lt (b : Bytes) (lo n : Nat) : field b lo n < 256 ^ n := by
  refine Nat.lt_of_lt_of_le (ofLe_lt _) (Nat.pow_le_pow_right (by decide) ?_)
  rw [List.length_take]
  exact Nat.min_le_left _ _

/-- The bytes of a number spell it, cut to their width. -/
theorem ofLe_leBytes (k v : Nat) : ofLe (leBytes k v) = v % 256 ^ k := by
  induction k generalizing v with
  | zero => simp [leBytes, ofLe, Nat.mod_one]
  | succ k ih =>
    show (BitVec.ofNat 8 v).toNat + 256 * ofLe (leBytes k (v / 256)) = _
    rw [ih, BitVec.toNat_ofNat, show 256 ^ (k + 1) = 256 * 256 ^ k from Nat.pow_succ']
    exact (Nat.mod_mul (x := v) (a := 256) (b := 256 ^ k)).symm

/-- As many bytes as asked. -/
theorem leBytes_length (k v : Nat) : (leBytes k v).length = k := by
  induction k generalizing v with
  | zero => rfl
  | succ k ih => simp only [leBytes, List.length_cons, ih]

/-- The first field of a text that begins with a number. -/
theorem field_first (k v : Nat) (r : Bytes) : field (leBytes k v ++ r) 0 k = v % 256 ^ k := by
  unfold field
  rw [List.drop_zero, List.take_append_of_le_length (Nat.le_of_eq (leBytes_length k v).symm), List.take_of_length_le (Nat.le_of_eq (leBytes_length k v)), ofLe_leBytes]

/-- A field of eight bytes is its two halves. -/
theorem field_halves (b : Bytes) (lo : Nat) : field b lo 8 = field b lo 4 + 2 ^ 32 * field b (lo + 4) 4 := by
  unfold field
  have e : (b.drop lo).take 8 = (b.drop lo).take 4 ++ (b.drop (lo + 4)).take 4 := by
    rw [show (8 : Nat) = 4 + 4 from rfl, List.take_add, List.drop_drop]
  rw [e, ofLe_append]
  by_cases h : 4 ≤ (b.drop lo).length
  · rw [List.length_take, Nat.min_eq_left h, show (256 : Nat) ^ 4 = 2 ^ 32 from rfl]
  · have : (b.drop (lo + 4)).take 4 = [] := by
      rw [List.drop_eq_nil_of_le (by simp at h ⊢; omega)]; rfl
    rw [this]; simp [ofLe]

end Sys2Proof.Machine
end

