-- ==== Sys2Proof/WellFormed.lean ====
section
/-! DEFINITION. Well-formed commands: the lengths and ranges that the spec gives the operands of a command. A meaning answers for every command; what is no command of the
hardware's, because an operand does not have the shape the spec gives it, is named here. -/

namespace Sys2Proof

/-- Lanes in error, by line: a codeword has 68 symbols, one from each lane (R220). -/
def lanesWf (l : List (Nat × List Nat)) : Bool := l.all fun x => x.2.all (· < 68)

/-- Peer answers carry whole pages' local indices below 2^32 (R81), and lines in error with their lanes (R221). -/
def PeerAns.wf (p : PeerAns) : Bool := p.pages.all (· < 2 ^ 32) && lanesWf p.errs

/-- Forwarded rows: a key and a value row for each head of the group (R79, R101). -/
def FwdAppend.wf (m : FwdAppend) : Bool :=
  m.rows.all (fun r => r.k.length == m.heads && r.v.length == m.heads
    && r.k.all (·.elems.length == m.dim) && r.v.all (·.elems.length == m.dim))

/-- A launch descriptor has a POS_BASE for each head group, and bitmap blocks of one size. A chain names its units once. -/
def LaunchMsg.wf (m : LaunchMsg) : Bool :=
  match m with
  | .desc d => d.posBase.length == d.groups && d.home < 8192 && d.holder < 8192 && d.confluence < 8192
  | .chain c => c.posBase.length == c.groups && c.home < 8192 && c.units.length ≤ 65536

/-- A split page is a whole page or absent (R446). -/
def SplitPage.wf (p : SplitPage) : Bool := p.poison.all (·.2 < 4)

/-- A result message names a node that exists and carries 8 hash bytes or none. -/
def ResultMsg.wf (m : ResultMsg) : Bool := m.home < 8192 && m.status < 65536

/-- The header fields of R300 fit their widths, and the payload fits a segment. -/
def Seg.wf (g : Seg) : Bool :=
  g.op < 256 && g.path < 16 && g.try_ < 8 && g.dstQp < 2 ^ 20 && g.srcQp < 2 ^ 20 && g.srcNode < 2 ^ 13 && g.keyId < 2 ^ 16
  && g.seq < 2 ^ 48 && g.off < 2 ^ 32 && g.len < 2 ^ 32 && g.rkey < 2 ^ 32 && g.raddr < 2 ^ 64 && g.tag < 2 ^ 64 && g.ts < 2 ^ 32
  && g.pmem < 2 ^ 64 && g.pown < 2 ^ 64 && g.payload.length ≤ 4096

/-- A message of the node's own firmware has 1 to 1,048,576 bytes and goes to a node ID (R300). -/
def SendSrc.wf (s : SendSrc) : Bool :=
  match s with
  | .qp n errs => n < 2 ^ 20 && lanesWf errs
  | .node typ peer peerQp cls data _ => (typ == 2 || typ == 3) && peer < 8192 && peerQp < 2 ^ 20 && cls < 4 && 1 ≤ data.length && data.length ≤ 1048576

/-- A segment within a frame is one (R323). -/
def QblBody.wf (b : QblBody) : Bool :=
  match b with
  | .qst s => s.wf
  | .ack lseq => lseq < 4096
  | .credit => true

/-- An announce fits its fields (R34). -/
def Announce.wf (a : Announce) : Bool := a.period ≤ 5 && a.hops < 256 && a.key.node < 8192

/-- An uncertainty has 16 bits. -/
def SyncMeas.wf (m : SyncMeas) : Bool := m.upU < 65536 && m.ownU < 65536

/-- Ballots and epochs have 32 bits (R344). -/
def Accepted.wf (a : Accepted) : Bool := a.ballot < 2 ^ 32 && a.epoch < 2 ^ 32

/-- A promise comes from a node (R344). -/
def Promise.wf (p : Promise) : Bool := p.node < 8192 && p.ballot < 2 ^ 32 && (p.accepted.all (·.wf))

/-- A parity delta stays inside its unit of 4,096 bytes (R357, R358). -/
def ParityMsg.wf (m : ParityMsg) : Bool := m.sender < 8192 && m.home < 8192 && m.off + m.delta.length ≤ 4096

/-- A surviving unit is 4,096 bytes (R357). -/
def Survivor.wf (s : Survivor) : Bool := s.data.length == 4096 && s.poison.all (fun x => x.1 < 64 && x.2 < 4)

/-- The boot flash keeps two configuration copies and two image slots (R421). -/
def flashWf (f : Option Flash) : Bool := f.all fun f => f.cfg.all (·.1 < 2) && f.images.all (·.1 < 2)

/-- A device sits on a channel or in a slot. -/
def Found.wf (f : Found) : Bool := f.dev < 16

/-- Is a command well formed. -/
def Instr.wf (i : Instr) : Bool :=
  match i with
  | .cmdSqDb _ _ _ => true
  | .cmdCqDb _ _ _ => true
  | .cmdSubmit b _ => b.headD 0 == 1 && 16 ≤ b.length
  | .cmdCqHead b _ => b.headD 0 == 3 && b.length == 8
  | .cqIntrDelay _ => true
  | .cmdAdminCfgWrite _ _ => true
  | .nop _ => true
  | .queryCaps _ => true
  | .ringCfg _ => true
  | .ringDisableDrain _ => true
  | .seqOpen _ => true
  | .seqClose _ => true
  | .seqExtend _ => true
  | .pagelistSwap _ => true
  | .seqFork _ peer => peer.wf
  | .appendKv _ peer => peer.wf
  | .appendPositionWaitEnd _ peer => peer.wf
  | .forwardedAppend m => m.wf
  | .copyPages _ peer => peer.wf
  | .copyPagesTimeout _ => true
  | .listInplaceWrite _ _ => true
  | .attend _ => true
  | .prefill _ => true
  | .attendBlock _ => true
  | .attendBlockStageStart _ errs => lanesWf errs
  | .launchDescriptorBuild _ peer grants => peer.wf && grants.all (· < 8192)
  | .holdReservationRetry _ grants => grants.all (· < 8192)
  | .launchDescriptorReceive m _ => m.wf
  | .splitGranulePagesReceive _ _ pages => pages.all (·.wf)
  | .launch _ _ => true
  | .itemTake _ => true
  | .sliceStart _ _ group granule => group < 256 && granule < 65536
  | .sliceOverrun u => match u with
      | .item _ _ group granule => group < 256 && granule < 65536
      | .mover _ => true
      | .expander _ => true
  | .granuleItemEnd _ _ group granule errs _ _ => group < 256 && granule < 65536 && lanesWf errs
  | .partialMessageReceive b _ _ _ => 32 ≤ b.length
  | .confluenceChainFire _ _ => true
  | .cut _ _ => true
  | .resultMessageReceive m => m.wf
  | .homeWatchdogExpiry _ => true
  | .merge _ => true
  | .triggerPost _ => true
  | .triggeredChainFire _ => true
  | .chainExpire _ => true
  | .demandPromotionDone _ _ group granule => group < 256 && granule < 65536
  | .terraceStall _ _ group granule => group < 256 && granule < 65536
  | .readInPlaceDone _ _ group granule errs => group < 256 && granule < 65536 && lanesWf errs
  | .bsuRun _ => true
  | .bsuRunStart _ => true
  | .microstep _ errs _ => lanesWf errs
  | .deferredLineDone _ lanes => lanes.all (· < 68)
  | .bsuPause _ => true
  | .bsuResume _ => true
  | .bsuHalt _ => true
  | .bsuRunFail _ => true
  | .bsuRunDeadline _ => true
  | .bsuLoad _ => true
  | .bsuOwn _ => true
  | .bsuRelease _ => true
  | .refreshWindow _ _ => true
  | .patrolScrub _ errs => errs.all (· < 68)
  | .bmemScrub _ devs _ _ => devs ≤ 20
  | .flashReadDone _ _ _ => true
  | .rowSparing _ _ _ errs => lanesWf errs
  | .pchRetirement _ => true
  | .marchFrame _ cells _ _ => cells.all (· < 4096)
  | .migrate _ named => named.all (· < 2 ^ 32)
  | .pin _ named => named.all (· < 2 ^ 32)
  | .unpin _ named => named.all (· < 2 ^ 32)
  | .placeHint _ named => named.all (· < 2 ^ 32)
  | .move _ errs _ => lanesWf errs
  | .demotion => true
  | .promotion _ => true
  | .dirtyCleaner => true
  | .allocation _ peer grants => peer.wf && grants.all (· < 8192)
  | .weightsStreamLoad _ => true
  | .weightsStreamPrefetch _ => true
  | .windowStreamRequest _ => true
  | .expandBlock _ _ layer tensor _ x => layer < 65536 && tensor < 65536 && lanesWf x.errs
  | .blockCrcRefetch _ _ layer tensor _ _ _ => layer < 65536 && tensor < 65536
  | .weightsBind _ => true
  | .weightsEvict _ => true
  | .pdLookup _ _ => true
  | .pdInsert _ => true
  | .pdDelete _ => true
  | .pdxRebalance => true
  | .pdxComparator _ _ => true
  | .cxlRead _ _ _ errs => errs.all (· < 68)
  | .cxlWrite _ _ data _ _ => data.length == 64
  | .bisnpResponse _ _ data => (data.all fun x => x.1.length == 64)
  | .bisnpTimeout _ _ => true
  | .addDynamicCapacityResponse _ _ => true
  | .releaseDynamicCapacity _ _ => true
  | .offer _ _ _ _ => true
  | .withdraw _ _ => true
  | .revoke _ _ _ => true
  | .reclaim _ _ _ => true
  | .releaseComplete _ => true
  | .extentZeroDone _ => true
  | .headLost _ _ => true
  | .heartbeatTimeout _ => true
  | .cxdHb _ => true
  | .rejoin _ => true
  | .perst _ => true
  | .publishGo => true
  | .tokenBucketCredit _ => true
  | .segmentSend src => src.wf
  | .segmentReceive _ g _ => g.wf
  | .qpContextFetched _ => true
  | .ack _ g _ => g.wf
  | .nack _ g _ => g.wf
  | .ackDelay _ => true
  | .rtoExpiry _ msn seg => msn < 2 ^ 48 && seg < 256
  | .rnrResend _ msn => msn < 2 ^ 48
  | .pathHoldExpiry _ => true
  | .qpReplacement _ peerQp => (peerQp.all fun q => q < 2 ^ 20)
  | .sendTail _ _ _ => true
  | .receiveHead _ _ _ => true
  | .completionHead _ _ _ => true
  | .allocPd _ => true
  | .freePd _ => true
  | .regMr _ => true
  | .deregMr _ => true
  | .createQp _ => true
  | .connectQp _ => true
  | .destroyQp _ => true
  | .portUp _ => true
  | .portDown _ => true
  | .moduleInterrupt _ _ _ => true
  | .moduleInsertion _ _ _ => true
  | .neighborSolicitation _ _ => true
  | .echoRequest _ _ _ data => data.length ≤ 9000
  | .nonQstFrame _ _ => true
  | .qblFrame _ _ _ _ body _ => body.wf
  | .qblReplay _ _ => true
  | .boardLinkDown _ => true
  | .boardLinkTraining _ _ => true
  | .dispatch _ _ => true
  | .schedulerTickLatch => true
  | .announceSend => true
  | .announceReceive _ a => a.wf
  | .announceTimeout => true
  | .syncWord _ m => m.wf
  | .upstreamOffsetMeasured m => m.wf
  | .lockAchieved => true
  | .holdoverGrowth => true
  | .todFrame _ _ => true
  | .ppsEdge => true
  | .ppsMissing => true
  | .periodSwitch => true
  | .lateCountExpiry => true
  | .suspectReport => true
  | .cvtTickSnapshot => true
  | .attCvtTickLoRead _ => true
  | .retiredBodyFree _ => true
  | .rescaleTableLoad _ _ _ layer _ part => layer < 65536 && part < 256
  | .mapPropose _ => true
  | .mapRead _ => true
  | .sliceGrant _ => true
  | .drain _ => true
  | .proposal _ => true
  | .prepare _ => true
  | .accept a => a.wf
  | .commit c => c.digest.length == 48
  | .epochFetch _ => true
  | .livenessReport _ => true
  | .livenessAck _ => true
  | .lossWindowExpiry _ => true
  | .fence => true
  | .fenceEnd => true
  | .rebuildUnit survivors => survivors.all (·.wf)
  | .rebuildDone _ => true
  | .parityUpdate m => m.wf
  | .tenantOpen _ => true
  | .sealTenant _ => true
  | .openSealTimeout => true
  | .tenantClose _ => true
  | .fenceBegin => true
  | .keyDestruction => true
  | .eraseDone => true
  | .recordGet _ => true
  | .attest _ => true
  | .tickStatementSign _ => true
  | .heldCompletionRelease => true
  | .install _ _ => true
  | .activate _ => true
  | .retire _ => true
  | .secFineWrite _ _ => true
  | .getVersion _ => true
  | .getCapabilities _ => true
  | .negotiateAlgorithms _ => true
  | .getDigests _ => true
  | .getCertificate _ _ _ _ => true
  | .challenge _ _ nonce => nonce.length == 32
  | .getMeasurements _ _ _ nonce => nonce.length == 32
  | .sagWindow _ _ => true
  | .shedReversal => true
  | .pwrFailN => true
  | .halt _ => true
  | .haltReversal => true
  | .thermalRead _ _ => true
  | .thermalReversal _ => true
  | .powerStateEntry => true
  | .wake _ => true
  | .avsReadback _ _ _ => true
  | .pmbusPoll _ _ _ _ => true
  | .powerReading _ => true
  | .powerHint _ => true
  | .powerHintExpiry => true
  | .powerOnReset flash => flashWf flash
  | .resetN flash => flashWf flash
  | .pwrCtlReset _ => true
  | .pwrCtlHalt _ => true
  | .watchdogExpiry => true
  | .startUp _ _ => true
  | .phaseLimit _ _ => true
  | .busArbitrationLoss _ _ => true
  | .updateStage _ => true
  | .recalibration _ => true
  | .updateCommit _ => true
  | .updateSwitch => true
  | .updateConfirm => true
  | .updateRollback => true
  | .marchTest _ => true
  | .retirePch _ found => (found.all (·.wf))
  | .eventRecord => true
  | .evrClear _ => true
  | .evrClearDone => true
  | .evrRdSelWrite _ _ => true
  | .pmcCtlWrite _ _ => true
  | .pmcTraceSelWrite _ _ => true
  | .monTokenDataWrite _ _ => true
  | .submit _ => true
  | .lock _ => true
  | .tokenExpiry _ => true
  | .peek _ _ _ => true
  | .poke _ _ => true
  | .regs _ => true
  | .evlog first _ => first < 2 ^ 32
  | .ticks k => k ≤ 256
  | .ticksCaptureDone => true
  | .stacks => true
  | .help => true
  | .uartBadLine _ => true
  | .tckSeedWrite _ _ => true
  | .terT2PartWrite _ => true
  | .cflSpillWrite _ _ => true
  | .registerWrite _ _ _ => true
  | .registerRead _ _ => true
  | .migrateTimeout _ => true
  | .prefetchTimeout _ => true
  | .drainTimeout _ => true
  | .recalibrationTimeout _ => true
  | .switchTimeout => true
  | .marchTestTimeout _ => true
  | .pwrFailNRelease => true
  | .lossOfPower _ _ => true
  | .hostPortLinkUp _ _ => true
  | .moduleRemoved _ _ lost _ => lost.all (·.2 < 64)
  | .neighborAdvertisement _ _ _ => true
  | .parityAcknowledgement _ _ => true
  | .keeperPromise p => p.wf
  | .keeperAcceptance _ _ _ _ => true

end Sys2Proof
end

