-- ==== Sys2Proof/Tests/Slice0.lean ====
section
/-! SUPPORT. Tests: what a single command does to a small state, and states that meet the hypotheses of the statements. -/

namespace Sys2Proof.Tests

set_option Elab.async false

open Sys2Proof Sys2Proof.Machine

/-- A codeword of R220, the data followed by its check symbols, has the roots 1, g, g² and g³ of the code's polynomial (R220). -/
theorem test_check_symbols : ∀ a ∈ [1, 2, 4, 8], symEval a ([0x12, 0xFE, 0x80, 0x01] ++ checkSymbols [0x12, 0xFE, 0x80, 0x01]) = 0 := by decide +kernel

/-- A command entry on the default completion ring: opcode, EPOCH 1 where an epoch is required, body. -/
def tEntry (op : Nat) (body : Bytes) : Bytes :=
  BitVec.ofNat 8 op :: 0 :: 0xFF :: 0 :: (if epochRequired op then 1 else 0) :: zeros 19 ++ padTo 40 body

/-- A dispatched command with handle 1 on ring 1. -/
def tCmd (op : Nat) (body : Bytes) : Cmd :=
  { handle := 1, ring := 1, cq := 1, entry := tEntry op body, req := .host 0 0, seq := 0, accTick := 0, accTime := 0, stage := .dispatched, q := 0, cost := 1, tag := 0,
    launch := 2, deadline := 10, tooFar := false, moved := false, late := false, launched := false, badCq := false, diverted := false, waited := false, mrKey := 0, tagged := false, stamps := [], wrs := [] }

/-- The node with one command outstanding. -/
def tNode (c : Cmd) : Node := { Node.reset with fe := { Front.reset with cmds := [c] } }

/-- The block with a node. -/
def tState (n : Node) : State := { State.reset with node := n }

theorem test_witness_StepRunsTheCommandInFront :
    ({ State.reset with pending := [.nop 1, .help] } : State).pending = .nop 1 :: [.help] ∧ State.reset.pending = [] := by decide



theorem test_witness_FabricTimeStaysWellFormed : State.reset.tck.Ok ∧ ∃ t : State, step State.reset = .next t :=
  ⟨⟨by decide, by decide, by decide, by decide, by decide, (fun _ _ h => nomatch h)⟩, _, rfl⟩

/-- A block with one command waiting. -/
def tHelp : State := { State.reset with pending := [.help] }
theorem test_witness_FabricTimeNeverGoesBack :
    tHelp.tck.stepTo = none ∧ (∃ t : State, step tHelp = .next t) ∧ (∀ m, tHelp.pending.head? ≠ some (.upstreamOffsetMeasured m)) ∧ (∀ f, tHelp.pending.head? ≠ some (.powerOnReset f)) :=
  ⟨rfl, ⟨_, rfl⟩, (fun _ h => nomatch h), (fun _ h => nomatch h)⟩



/-- Fabric time under a grandmaster, LOCKED. -/
def tLocked : Tck := { Tck.reset with state := .locked, u := 100, measU := 90, slew := 10, upstream := some (.bl 2), gmKey := some ⟨0, 1, 7⟩, everGm := true, hops := 3 }
theorem test_witness_GrandmasterIsTheLowestKeyHeard :
    ((({ Tck.reset with gm := true } : Tck).gm = true) ∧ Tck.reset.wantPeriod = none)
    ∧ ((⟨⟨0, 1, 7⟩, 2, none, 4⟩ : Announce).hops ≤ 31 ∧ stopped Node.reset = false ∧ Tck.reset.heard = [] ∧ (⟨⟨0, 1, 7⟩, 2, none, 4⟩ : Announce).period = Tck.reset.cur
      ∧ rdB (wr Node.reset Rg.tckGmCfgEligible 0) Rg.tckGmCfgEligible = false)
    ∧ (({ tLocked with now := 17 * 32000, lastAnn := 0 } : Tck).lastAnn + 17 ≤ ({ tLocked with now := 17 * 32000, lastAnn := 0 } : Tck).tick ∧ tLocked.everGm = true
      ∧ tLocked.gm = false ∧ tLocked.heard = [] ∧ tLocked.state = .locked ∧ rdB (wr Node.reset Rg.tckGmCfgEligible 1) Rg.tckGmCfgEligible = true) := by
  repeat' apply And.intro
  all_goals decide +kernel

theorem test_witness_OffsetsAreSlewedOrSteppedAndLossGrows :
    (tLocked.gm = false ∧ tLocked.upstream = some (.bl 2) ∧ tLocked.state = .locked ∧ uOf (measured ⟨-60, 80, 20⟩) (-60) ≤ 160 ∧ 160 < uOf (measured ⟨-61, 80, 20⟩) (-61)
      ∧ uOf (measured ⟨-61, 80, 20⟩) (-61) ≤ rd Node.reset Rg.tckHoldLimitLimit ∧ uOf (measured ⟨-61, 80, 20⟩) (-61) < 0xFFFF ∧ 0xFFFF ≤ uOf (measured ⟨0, 0xFFFF, 20⟩) 0)
    ∧ (({ tLocked with state := .holdover } : Tck).state = .acquire ∨ ({ tLocked with state := .holdover } : Tck).state = .free ∨ ({ tLocked with state := .holdover } : Tck).state = .holdover)
    ∧ ((-4000 : Int).natAbs ≤ 4000 ∧ 4000 < (4001 : Int).natAbs ∧ uOf (measured ⟨4001, 100, 60⟩) 0 ≤ 160 ∧ slicesRun Node.reset = false ∧ Node.reset.fe.cmds = []
      ∧ slicesRun { Node.reset with att := { Att.reset with items := [⟨0, 1, 0, 0, [], .running, 0, some 3, none, 0, 0, [], false, false, [], false, false⟩] } } = true)
    ∧ (({ tLocked with state := .stepping, stepTo := some ⟨4001, 100, 60⟩ } : Tck).stepTo = some ⟨4001, 100, 60⟩ ∧ tLocked.regaining = false)
    ∧ (({ tLocked with regaining := true, state := .free, now := 32000 } : Tck).regaining = true ∧ tLocked.u ≤ 160 ∧ ({ tLocked with regaining := true, state := .free, now := 32000 } : Tck).atTick = true)
    ∧ (({ tLocked with state := .holdover, now := 2000000 } : Tck).holdAt + (tLocked.holdSteps + 1) * 2000000 ≤ ({ tLocked with state := .holdover, now := 2000000 } : Tck).now
      ∧ tLocked.regaining = false ∧ tLocked.u < rd Node.reset Rg.tckHoldLimitLimit ∧ tLocked.u < 0xFFFF ∧ rd Node.reset Rg.tckHoldLimitLimit ≤ ({ tLocked with u := 400 } : Tck).u) := by
  repeat' apply And.intro
  all_goals decide +kernel

/-- A time-of-day frame for second 5 of class 6. -/
def tTod : Bytes := let b : Bytes := [0xD7, 16] ++ leBytes 6 5 ++ [0, 0, 6, 0, 0, 0]; b ++ leBytes 2 (crc16 b)
/-- A node that uses an external reference. -/
def tExt : Node := wr Node.reset Rg.tckGmCfgExtEn 1
theorem test_witness_ExternalReferenceNeedsFourGoodEdges :
    (rdB tExt Rg.tckGmCfgExtEn = true ∧ todGood tTod 40000001 = true ∧ todGood tTod 40000000 = false)
    ∧ (({ Tck.reset with tod := some 5, goodRun := 3 } : Tck).tod = some 5 ∧ Tck.reset.lastEdge = none ∧ Tck.reset.tod = none)
    ∧ (0 + 3996000000 ≤ ({ Tck.reset with lastEdge := some 0, now := 4004000000 } : Tck).now ∧ ({ Tck.reset with lastEdge := some 0, now := 4004000000 } : Tck).now ≤ 0 + 4004000000
      ∧ ({ Tck.reset with lastEdge := some 0, now := 3995999999 } : Tck).now < 0 + 3996000000)
    ∧ (({ Tck.reset with lastEdge := some 0, now := 4004000001 } : Tck).lastEdge = some 0 ∧ 0 + 4004000000 < ({ Tck.reset with lastEdge := some 0, now := 4004000001 } : Tck).now) := by
  repeat' apply And.intro
  all_goals decide +kernel

theorem test_witness_PeriodLatenessAndSeed :
    (({ tLocked with switch := some (3, 256000), now := 256000 } : Tck).switch = some (3, 256000) ∧ tLocked.state = .locked
      ∧ 256000 ≤ ({ tLocked with switch := some (3, 256000), now := 256000 } : Tck).now)
    ∧ ({ tLocked with suspect := true } : Tck).suspect ≠ ({ tLocked with suspect := true } : Tck).suspectTold
    ∧ (Writable Node.reset ∧ Tck.reset.state = .acquire ∧ tLocked.state ≠ .acquire) := by
  repeat' apply And.intro
  all_goals decide +kernel

/-- A local ring 1 of 16 entries of requester 0 on host port half 0, its base at 4,096, and completion ring 1. -/
def tSq : Sq := ⟨true, false, .host 0 0, 4096, 4, 0xFFF, 1, 0, 0, 0, 0, 0, 0, [], false⟩
/-- Its completion ring, with one entry reserved. -/
def tCq : Cq := ⟨true, false, .host 0 0, 8192, 4, 0, 5, 0, 0, 1, 0, none⟩
/-- A node that takes doorbells: `READY`, ring 1, a `NOP` in slot 0. -/
def tRing : Node :=
  let n := wr Node.reset Rg.cmdStatusReady 1
  hostWrite { n with fe := { n.fe with sqs := [(1, tSq)], cqs := [(1, { tCq with reserved := 0 })] } } (reqSpace (.host 0 0)) 4096 (tEntry 0 [])
theorem test_witness_DoorbellReadsEveryEntryUpToTheTail :
    rdB (tState tRing).node Rg.cmdStatusReady = true ∧ mget? (tState tRing).node.fe.sqs (1#8).toNat = some tSq ∧ tSq.en = true ∧ tSq.closing = false
    ∧ tSq.remote = false ∧ tSq.head < 2 ^ 32 ∧ (1#32).toNat ≠ tSq.tail ∧ 1 ≤ ((1#32).toNat + 2 ^ 32 - tSq.head) % 2 ^ 32
    ∧ ((1#32).toNat + 2 ^ 32 - tSq.head) % 2 ^ 32 ≤ 2 ^ tSq.log2
    ∧ (tSq.tail + 2 ^ 32 - tSq.head) % 2 ^ 32 ≤ ((1#32).toNat + 2 ^ 32 - tSq.head) % 2 ^ 32 := by decide +kernel

theorem test_witness_AcceptedEntryIsQueuedAndAnswered :
    rdB (tState { tRing with fe := { tRing.fe with sqs := [(1, tSq)] } }).node Rg.cmdStatusReady = true ∧ Memory.wf 0 tRing.hmem = true
    ∧ mget? tRing.fe.sqs (1#8).toNat = some tSq ∧ tSq.en = true ∧ tSq.closing = false ∧ tSq.remote = false ∧ tSq.head < 2 ^ 32
    ∧ (1#32).toNat = (tSq.head + 1) % 2 ^ 32 ∧ tSq.tail = tSq.head
    ∧ acceptCheck (tState tRing).tck (setTail tRing 1 1) 1 { tSq with tail := 1 } (hostRead tRing (reqSpace tSq.owner) (headSlot tSq) 64) = none
    ∧ mget? tRing.fe.cqs (chosenCq tRing tSq (hostRead tRing (reqSpace tSq.owner) (headSlot tSq) 64)) = some { tCq with reserved := 0 } := by decide +kernel

/-- The same ring with the opcode range of `NOP` not permitted. -/
def tRingDenied : Node := { tRing with fe := { tRing.fe with sqs := [(1, { tSq with opclass := 0 })] } }
theorem test_witness_RefusedEntryHasNoOtherEffect :
    rdB tRingDenied Rg.cmdStatusReady = true ∧ Memory.wf 0 tRingDenied.hmem = true
    ∧ mget? tRingDenied.fe.sqs (1#8).toNat = some { tSq with opclass := 0 } ∧ (1#32).toNat = (tSq.head + 1) % 2 ^ 32 ∧ tSq.tail = tSq.head
    ∧ acceptCheck Tck.reset (setTail tRingDenied 1 1) 1 { tSq with opclass := 0, tail := 1 } (hostRead tRingDenied (reqSpace tSq.owner) (headSlot tSq) 64) = some ⟨stDenied, 0⟩ := by decide +kernel

/-- A node with one dispatched command and its completion ring. -/
def tCpl (c : Cmd) : Node := { tNode c with fe := { (tNode c).fe with sqs := [(1, { tSq with accepted := 1, outstanding := 1 })], cqs := [(1, tCq)] } }
/-- A remote completion ring of queue pair 9. -/
def tCqRemote : Cq := { tCq with remote := true, owner := .qp 9, mrKey := 3 }
theorem test_witness_CompletionPostsOneEntryAndEndsTheCommand :
    findCmd (tCpl (tCmd 0 [])) 1 = some (tCmd 0 []) ∧ mget? (tCpl (tCmd 0 [])).fe.cqs (tCmd 0 []).cq = some tCq ∧ Memory.wf 0 (tCpl (tCmd 0 [])).hmem = true
    ∧ tCq.remote = false ∧ tCqRemote.remote = true ∧ tCqRemote.owner = .qp 9 := by decide +kernel

theorem test_witness_CompletionHeadsReleaseEntriesOrAreIgnored :
    (mget? (tCpl (tCmd 0 [])).fe.cqs (1#8).toNat = some tCq ∧ tCq.en = true ∧ ((0#32).toNat + 2 ^ 32 - tCq.head) % 2 ^ 32 ≤ (tCq.posted + 2 ^ 32 - tCq.head) % 2 ^ 32)
    ∧ (cqHeadOf [3, 1, 0, 0, 0, 0, 0, 0] = some (1, 0) ∧ cqHeadOf [3, 1, 0, 0, 0, 0, 0] = none ∧ mget? [(1, tCqRemote)] 1 = some tCqRemote ∧ tCqRemote.en = true ∧ tCqRemote.owner = .qp 9)
    ∧ (tCq.posted + 2 ^ 32 - tCq.head) % 2 ^ 32 < ((1#32).toNat + 2 ^ 32 - tCq.head) % 2 ^ 32
    ∧ mget? [(1, { tCq with en := false })] (1#8).toNat = some { tCq with en := false } ∧ Req.mgmt ≠ tCq.owner := by decide +kernel

/-- A remote ring of queue pair 9. -/
def tSqRemote : Sq := { tSq with remote := true, owner := .qp 9 }
/-- A `CMD_SUBMIT` of one `NOP` for ring 1. -/
def tSubmit (first : Nat) : SubmitMsg := ⟨1, first, [tEntry 0 []]⟩
def tSubmitBytes (first : Nat) : Bytes := [1, 1, 1, 0] ++ leBytes 4 first ++ zeros 8 ++ tEntry 0 []
theorem test_witness_CommandMessageIsAnsweredInOrder :
    (∀ f ∈ [0, 3, 16, 0xFFFFFFFF], submitOf (tSubmitBytes f) = some (tSubmit f)) ∧ submitOf (1 :: tSubmitBytes 0) = none
    ∧ (mget? [(1, tSqRemote)] (tSubmit 0).ring = some tSqRemote ∧ tSqRemote.en = true ∧ tSqRemote.closing = false ∧ tSqRemote.owner = .qp 9
      ∧ tSqRemote.held = [] ∧ (tSubmit 0).first = tSqRemote.tail ∧ (tSqRemote.tail + 2 ^ 32 - tSqRemote.head) % 2 ^ 32 + (tSubmit 0).entries.length ≤ 2 ^ tSqRemote.log2)
    ∧ (overlapsHeld tSqRemote 3 1 = false ∧ (3 + 2 ^ 32 - tSqRemote.tail) % 2 ^ 32 ≠ 0
      ∧ (tSqRemote.tail + 2 ^ 32 - tSqRemote.head) % 2 ^ 32 + (3 + 2 ^ 32 - tSqRemote.tail) % 2 ^ 32 + 1 ≤ 2 ^ tSqRemote.log2)
    ∧ (∀ f ∈ [16, 0xFFFFFFFF], 2 ^ tSqRemote.log2 < (tSqRemote.tail + 2 ^ 32 - tSqRemote.head) % 2 ^ 32 + (f + 2 ^ 32 - tSqRemote.tail) % 2 ^ 32 + 1)
    ∧ overlapsHeld { tSqRemote with held := [tSubmit 3] } 3 1 = true := by
  decide +kernel

theorem test_witness_CompletionInterruptAfterItsDelay :
    (rdB (wr Node.reset (Rg.cmdCqIntrEn 1) 1) (Rg.cmdCqIntrEn 1) = true
      ∧ 0 + rd (wr Node.reset (Rg.cmdCqIntrEn 1) 1) (Rg.cmdCqIntrDelay 1) * unitsPerNotch 2 ≤ Tck.reset.now)
    ∧ Tck.reset.now < 5 + rd Node.reset (Rg.cmdCqIntrDelay 1) * unitsPerNotch Tck.reset.cur
    ∧ mget? [(1, { tCq with firstUnsig := some 5 })] (1#8).toNat = some { tCq with firstUnsig := some 5 } := by decide +kernel

theorem test_witness_AdminRingIsBoundToItsWriter :
    (Writable Node.reset ∧ Req.host 0 0 ≠ .mgmt ∧ rdB Node.reset Rg.cmdAdminCfgEn = false ∧ bitAt (0x144#32).toNat 8 = true)
    ∧ (rdB (wr Node.reset Rg.cmdAdminCfgEn 1) Rg.cmdAdminCfgEn = true ∧ Writable (wr Node.reset Rg.cmdAdminCfgEn 1)
      ∧ bitAt ((wr Node.reset Rg.cmdAdminCfgEn 1).bank.get Rg.cmdAdminCfgEn.off - 256) 8 = false) := by decide +kernel

/-- A `RING_CFG` on ring 0: ring, OP and what follows. -/
def tRingCfg (body : Bytes) : Cmd := { tCmd opRingCfg body with ring := 0 }
/-- Body of the ring commands of the witness below: ring, OP, log2, remote, owner (4), base (8). -/
def tBody (ring op log2 : Nat) (rest : Bytes) : Bytes := leBytes 1 ring ++ leBytes 1 op ++ leBytes 1 log2 ++ rest
/-- Enabling and disabling commands of rings 1 and 2. -/
def tSqOn : Cmd := tRingCfg (tBody 2 0 4 (zeros 19 ++ [1]))
def tCqOn : Cmd := tRingCfg (tBody 2 1 4 [])
def tSqOff : Cmd := tRingCfg (tBody 1 2 0 [])
def tCqOff : Cmd := tRingCfg (tBody 2 3 0 [])
/-- A command that has begun. -/
def tRun (c : Cmd) : Cmd := { c with stage := .running }
/-- Ring 1 still has a command outstanding. -/
def tBusy : Node := { tCpl tSqOff with fe := { (tCpl tSqOff).fe with cmds := [tSqOff, { tCmd 0 [] with handle := 2 }] } }
/-- A second completion ring. -/
def tTwoCq : Node := { tCpl tCqOff with fe := { (tCpl tCqOff).fe with cqs := [(2, { tCq with reserved := 0 })] } }
theorem test_witness_RingCommandsComplete :
    (Runs (tCpl (tCmd opNop [])) 1 opNop (tCmd opNop []) ∧ rsv (tCmd opNop []) 24 63 = [])
    ∧ (Runs (tCpl (tCmd opQueryCaps [])) 1 opQueryCaps (tCmd opQueryCaps []) ∧ mult ((tCmd opQueryCaps []).f 24 8) 64 = true ∧ rsv (tCmd opQueryCaps []) 32 63 = [])
    ∧ (Runs (tCpl tSqOn) 1 opRingCfg tSqOn ∧ tSqOn.ring = 0 ∧ tSqOn.f 25 1 = 0 ∧ ringEnableOffs (tCpl tSqOn) tSqOn true = [])
    ∧ (Runs (tCpl tCqOn) 1 opRingCfg tCqOn ∧ tCqOn.f 25 1 = 1 ∧ ringEnableOffs (tCpl tCqOn) tCqOn false = [])
    ∧ (Runs (tCpl tSqOff) 1 opRingCfg tSqOff ∧ tSqOff.f 25 1 = 2 ∧ ringDisableOffs (tCpl tSqOff) tSqOff true = [] ∧ ringDrained (tCpl tSqOff) (tSqOff.f 24 1) = true)
    ∧ (Runs tBusy 1 opRingCfg tSqOff ∧ ringDisableOffs tBusy tSqOff true = [] ∧ ringDrained tBusy (tSqOff.f 24 1) = false)
    ∧ (Runs tTwoCq 1 opRingCfg tCqOff ∧ tCqOff.f 25 1 = 3 ∧ ringDisableOffs tTwoCq tCqOff false = [])
    ∧ (Runs (tCpl (tCmd opRingCfg [])) 1 opRingCfg (tCmd opRingCfg []) ∧ (tCmd opRingCfg []).ring ≠ 0)
    ∧ (Running (tCpl (tRun tSqOff)) 1 opRingCfg (tRun tSqOff) ∧ (tRun tSqOff).f 25 1 = 2 ∧ ringDrained (tCpl (tRun tSqOff)) ((tRun tSqOff).f 24 1) = true) := by
  repeat' apply And.intro
  all_goals decide +kernel

/-- A body of `SEQ_OPEN` for sequence 1 of composition 1: FP16 keys and values, one head of 32 elements, one layer, one group, 128 positions. -/
def tOpenBody (mode : Nat) : Bytes :=
  leBytes 8 (2 ^ 48 + 1) ++ [BitVec.ofNat 8 mode, 0, 0x00, 1] ++ leBytes 2 32 ++ leBytes 2 1 ++ [1, 0] ++ leBytes 2 0 ++ leBytes 4 128 ++ zeros 16
/-- A node that is in the map and holds a slice of composition 1, of the node's tenant, with all its channels. -/
def tHome (n : Node) : Node :=
  { n with map := { n.map with map := { n.map.map with
      epoch := 1, nodes := [(nodeId n, ⟨1, false, false, false, false, 0xFFFF, 0, 0xFFFF, 0, 0⟩)], comps := [(1, ⟨rd n Rg.secStatusTenant, 0⟩)],
      slices := [⟨1, nodeId n, 2 ^ 48 - 1, 2 ^ 64 - 1, 0, 1, 100, 100000⟩] } } }
/-- The sequence that `tOpenBody` opens. -/
def tSeq (mode : Nat) : Seqn := openSeqn (tCmd opSeqOpen (tOpenBody mode)) (framesFor (openSeqn (tCmd opSeqOpen (tOpenBody mode)) 0) 128)
/-- The node with sequence 1 open. -/
def tOpened (n : Node) : Node := { n with seqs := { n.seqs with open_ := [(2 ^ 48 + 1, tSeq 0)] } }
theorem test_witness_SequencesOpenWithTheirReservation_open :
    let c := tCmd opSeqOpen (tOpenBody 0)
    let n := tHome (tNode c)
    Runs n 1 opSeqOpen c ∧ SeqTurn n c ∧ bitAt (c.f 32 1) 0 = false ∧ c.f 32 1 < 16 ∧ c.f 41 1 < 4 ∧ rsv c 60 63 = []
    ∧ mget? n.seqs.open_ (c.f 24 8) = none ∧ mget? n.seqs.elsewhere (c.f 24 8) = none ∧ nodeState n (nodeId n) ≠ 2 ∧ openOffs n c = [] ∧ n.seqs.open_.length < maxSeqs ∧ bitAt (c.f 32 1) 2 = false
    ∧ framesFor (openSeqn c 0) (c.f 44 4) ≤ unreserved n (compOf (c.f 24 8)) := by decide +kernel
theorem test_witness_SequencesOpenWithTheirReservation_region :
    let c := tCmd opSeqOpen (tOpenBody 4)
    let n := tHome (tNode c)
    Runs n 1 opSeqOpen c ∧ openOffs n c = [] ∧ bitAt (c.f 32 1) 2 = true ∧ framesFor (openSeqn c 0) (c.f 44 4) ≤ unreserved n (compOf (c.f 24 8))
    ∧ (regionRuns State.reset.tck (openSeqn c (framesFor (openSeqn c 0) (c.f 44 4))) (layerGroups (openSeqn c 0)) n []).isSome = true := by decide +kernel
theorem test_witness_SequencesOpenWithTheirReservation_again :
    mget? (tOpened (tHome (tNode (tCmd opSeqOpen (tOpenBody 0))))).seqs.open_ ((tCmd opSeqOpen (tOpenBody 0)).f 24 8) = some (tSeq 0)
    ∧ (tSeq 0).openBody = slice (tCmd opSeqOpen (tOpenBody 0)).entry 24 40 ∧ (tSeq 0).sealed = false := by decide +kernel

/-- Sequence 1, with one page slot that names no page. -/
def tSeqNoPage : Seqn := { tSeq 0 with lists := [(0, ⟨0, 1, 2, 4, 0, 0, false, [noPage], 0⟩)] }
/-- A body that begins with the handle of sequence 1. -/
def tSeqBody (b : Bytes) : Bytes := leBytes 8 (2 ^ 48 + 1) ++ b
/-- The node with sequence 1 open and a command outstanding. -/
def tOnSeq (x : Seqn) (c : Cmd) : Node := let n := tHome (tNode c); { n with seqs := { n.seqs with open_ := [(2 ^ 48 + 1, x)] } }
theorem test_witness_SequencesCloseExtendAndSwap_close :
    Runs (tOnSeq tSeqNoPage (tCmd opSeqClose (tSeqBody []))) 1 opSeqClose (tCmd opSeqClose (tSeqBody [])) ∧ OnSeq (tOnSeq tSeqNoPage (tCmd opSeqClose (tSeqBody []))) (tCmd opSeqClose (tSeqBody [])) tSeqNoPage
    ∧ rsv (tCmd opSeqClose (tSeqBody [])) 32 63 = [] := by decide +kernel
theorem test_witness_SequencesCloseExtendAndSwap_extend :
    ∀ g ∈ [2, 0xFF], let c := tCmd opSeqExtend (tSeqBody (leBytes 4 256 ++ [g]))
    let n := tOnSeq tSeqNoPage c
    Runs n 1 opSeqExtend c ∧ OnSeq n c tSeqNoPage ∧ rsv c 37 63 = [] ∧ tSeqNoPage.id = c.f 24 8 ∧ tSeqNoPage.maxLen ≤ c.f 32 4 ∧ c.f 32 4 ≤ 2 ^ 31 ∧ tSeqNoPage.rope = 0
    ∧ framesFor tSeqNoPage (c.f 32 4) - framesFor tSeqNoPage tSeqNoPage.maxLen ≤ unreserved n (compOf tSeqNoPage.id) ∧ c.f 36 1 = g.toNat ∧ tSeqNoPage.sealed = false
    ∧ (∀ p ∈ tSeqNoPage.lists, mult p.2.posBase 256 = true) := by decide +kernel
/-- A swap that leaves list (0, 0) empty. -/
def tSwap (src : Nat) : Cmd := tCmd opPagelistSwap (tSeqBody [0, 0, 0, BitVec.ofNat 8 src])
theorem test_witness_SequencesCloseExtendAndSwap_swap :
    let n := tOnSeq tSeqNoPage (tSwap 0)
    Runs n 1 opPagelistSwap (tSwap 0) ∧ OnSeq n (tSwap 0) tSeqNoPage ∧ rsv (tSwap 0) 52 63 = [] ∧ tSeqNoPage.id = (tSwap 0).f 24 8 ∧ (tSwap 0).f 35 1 = 0
    ∧ swapOffs n (tSwap 0) tSeqNoPage = [] ∧ entryOffs n tSeqNoPage (swapEntries n (tSwap 0)) = [] ∧ (∀ e ∈ swapEntries n (tSwap 0), foreignEntry n tSeqNoPage e = false) := by decide +kernel
/-- A node with extent 0 assigned to head 0, accepted, and backed by the lowest 256 MiB of terrace 1. -/
def tShared (n : Node) : Node := { n with cxd := { n.cxd with exts := [(0, ⟨2, 1, 0, 1, 0, 0, [(0, extBytes)]⟩)] } }
/-- A swap for a body of 2 entries at address 0 of an extent, which a head holds or does not. -/
def tSwapIn : Cmd := tCmd opPagelistSwap (tSeqBody ([0, 0, 0, 1] ++ leBytes 4 2))
def tSwapNode (held : Bool) : Node := let n := tShared (tOnSeq tSeqNoPage tSwapIn); { n with cxd := { n.cxd with dir := if held then [(0, ⟨true, 1, 0⟩)] else [] } }
theorem test_witness_SequencesCloseExtendAndSwap_inPlace :
    ∀ held ∈ [true, false], let n := tSwapNode held
    Runs n 1 opPagelistSwap tSwapIn ∧ OnSeq n tSwapIn tSeqNoPage ∧ rsv tSwapIn 52 63 = [] ∧ swapOffs n tSwapIn tSeqNoPage = [] ∧ tSwapIn.f 35 1 = 1 ∧ extentsHeld n (tSwapIn.f 40 8) (8 * tSwapIn.f 36 4) = true
    ∧ (heldLines n true (tSwapIn.f 40 8) (8 * tSwapIn.f 36 4) = [] ↔ held = false) := by
  decide +kernel

/-- Sequence 1 with 64 positions filled in a page slot that names no page. -/
def tSeqFilled : Seqn := { tSeq 0 with lists := [(0, ⟨0, 1, 2, 4, 0, 0, false, [noPage], 64⟩)] }
/-- A fork of it into sequence 2. -/
def tFork : Cmd := tCmd opSeqFork (tSeqBody (leBytes 8 (2 ^ 48 + 2) ++ leBytes 4 64 ++ [0, 0] ++ leBytes 4 128))
/-- What the peers answer where none is asked, and where they hand over pages. -/
def tPeer : PeerAns := ⟨.ok, [], true, [], [], none⟩
theorem test_witness_ForksAndCopiesMakeNewPages_fork :
    let n := tOnSeq tSeqFilled tFork
    Runs n 1 opSeqFork tFork ∧ OnSeq n tFork tSeqFilled ∧ bitAt (tFork.f 44 1) 0 = false ∧ tFork.f 44 1 < 16 ∧ rsv tFork 50 63 = [] ∧ compOurs n (compOf (tFork.f 32 8)) = true
    ∧ mget? n.seqs.elsewhere (tFork.f 32 8) = none ∧ forkOffs n tFork tSeqFilled = []
    ∧ (match (layerGroups tSeqFilled).foldl (fun acc y => forkList State.reset.tck tFork tSeqFilled (forkChild tFork tSeqFilled) y acc) (some (⟨ctrlReads State.reset.tck n tPeer.errs, [], [], none⟩, [])) with
      | some (a, _) => a.bad == none
      | none => false) = true := by
  decide +kernel
theorem test_witness_ForksAndCopiesMakeNewPages_fork_poison :
    (match (layerGroups tSeqFilled).foldl (fun acc y => forkList State.reset.tck tFork tSeqFilled (forkChild tFork tSeqFilled) y acc)
        (some (⟨ctrlReads State.reset.tck (tOnSeq tSeqFilled tFork) [], [], [], peerPoison { tPeer with cmp := .poison false 0 }⟩, [])) with
      | some (a, _) => a.bad == some 1
      | none => false) = true := by decide +kernel
/-- A fork at position 1 of a sequence whose page is on this node, where no frame is free. -/
def tForkOne : Cmd := tCmd opSeqFork (tSeqBody (leBytes 8 (2 ^ 48 + 2) ++ leBytes 4 1 ++ [0, 0] ++ leBytes 4 128))
def tForkFull : Node :=
  let n := tOnSeq { tSeq 0 with lists := [(0, ⟨0, 1, 2, 4, 0, 0, false, [mkFpn (nodeId Node.reset) 7], 1⟩)] } tForkOne
  { n with mic := { n.mic with stacksOut := List.range 8 }, ter := { n.ter with nextPage := 8, pages := [(7, ⟨1, 0, 8192, 2 ^ 48 + 1, some (0, 0, 0), nodeId n, none, false, 0, 0, 1, 32, 1, false, 1, 0, 0, 3, 0, 0, 0, none⟩)] } }
theorem test_witness_ForksAndCopiesMakeNewPages_fork_none :
    let x : Seqn := { tSeq 0 with lists := [(0, ⟨0, 1, 2, 4, 0, 0, false, [mkFpn (nodeId Node.reset) 7], 1⟩)] }
    Runs tForkFull 1 opSeqFork tForkOne ∧ forkOffs tForkFull tForkOne x = []
    ∧ ((layerGroups x).foldl (fun acc y => forkList State.reset.tck tForkOne x (forkChild tForkOne x) y acc) (some (⟨tForkFull, [], [], none⟩, []))).isNone = true := by decide +kernel
/-- A copy of one host image to a node. -/
def tCopy (k : Nat) : Cmd := tCmd opCopyPages (tSeqBody ([1, 0] ++ leBytes 2 k ++ leBytes 2 1 ++ leBytes 2 0xFFFF))
/-- A second node of the composition. -/
def tTwoNodes (n : Node) : Node :=
  { n with map := { n.map with map := { n.map.map with nodes := n.map.map.nodes ++ [(5, ⟨1, false, false, false, false, 0xFFFF, 0, 0xFFFF, 0, 0⟩)], slices := n.map.map.slices ++ [⟨1, 5, 1, 1, 0, 1, 100, 100⟩] } } }
theorem test_witness_ForksAndCopiesMakeNewPages_copyHere :
    ∀ out ∈ [false, true], let n0 := tOnSeq tSeqFilled (tCopy 0)
    let n : Node := { n0 with mic := { n0.mic with stacksOut := if out then List.range 8 else [1, 2, 3, 4, 5, 6, 7], retired := (List.range 128).drop 1 } }
    Runs n 1 opCopyPages (tCopy 0) ∧ OnSeq n (tCopy 0) tSeqFilled ∧ rsv (tCopy 0) 33 33 = [] ∧ rsv (tCopy 0) 56 63 = []
    ∧ copyOffs n (tCopy 0) tPeer tSeqFilled = [] ∧ (∀ f ∈ copySources n (tCopy 0), foreignSource n tSeqFilled f = false) ∧ (tCopy 0).f 34 2 = nodeId n
    ∧ snapTorn (setRunning (takeSnap State.reset.tck n 1 (copySources n (tCopy 0)) (copyVers n tSeqFilled (copySources n (tCopy 0)))) 1) tSeqFilled 1 = false
    ∧ ((copyLocal State.reset.tck (tCopy 0) tSeqFilled (copySources n (tCopy 0)) tPeer 0 1 0 n).2.2 = 0 ↔ out = false) := by decide +kernel
theorem test_witness_ForksAndCopiesMakeNewPages_copyThere :
    let p : PeerAns := { tPeer with pages := [3] }
    Runs (tTwoNodes (tOnSeq tSeqFilled (tCopy 5))) 1 opCopyPages (tCopy 5) ∧ OnSeq (tTwoNodes (tOnSeq tSeqFilled (tCopy 5))) (tCopy 5) tSeqFilled
    ∧ copyOffs (tTwoNodes (tOnSeq tSeqFilled (tCopy 5))) (tCopy 5) p tSeqFilled = [] ∧ (tCopy 5).f 34 2 ≠ nodeId (tOnSeq tSeqFilled (tCopy 5)) ∧ (tCopy 5).f 36 2 ≤ p.pages.length
    ∧ Memory.wf 0 (tOnSeq tSeqFilled (tCopy 5)).hmem = true := by decide +kernel
theorem test_witness_ForksAndCopiesMakeNewPages_timeout :
    findCmd { tNode (tCopy 0) with seqs := { (tNode (tCopy 0)).seqs with copies := [⟨1, [], 1⟩] } } 1 = some (tCopy 0)
    ∧ ({ State.reset.tck with now := 2 ^ 40 } : Tck).at ((tCopy 0).accTick + rd (tNode (tCopy 0)) Rg.cmdHorizonDeadlineDef + 1) 0 ≤ 2 ^ 40 := by decide +kernel

/-- Sequence 1 with one position filled in page 7 of this node. -/
def tSeqOne (n : Node) : Seqn := { tSeq 0 with lists := [(0, ⟨0, 1, 2, 4, 0, 0, false, [mkFpn (nodeId n) 7], 1⟩)] }
/-- The page, its contents zero. -/
def tPage (n : Node) : PageEnt := ⟨1, 0, 8192, 2 ^ 48 + 1, some (0, 0, 0), nodeId n, none, false, 0, 0, 1, 32, 1, false, 1, 0, 0, 3, 0, 0, 0, none⟩
/-- An append of position 0 from buffers of the host that hold zeros, or from a buffer that holds another value. -/
def tAppend (a : Nat) : Cmd := tCmd opAppendKv (tSeqBody ([0, 0, 2, 0] ++ leBytes 4 0 ++ leBytes 2 1 ++ [0, 0] ++ leBytes 8 a ++ leBytes 8 a))
/-- The home node of that sequence. -/
def tAppendNode (a : Nat) : Node :=
  let n := tOnSeq (tSeqOne Node.reset) (tAppend a)
  hostWrite { n with ter := { n.ter with pages := [(7, tPage n)], nextPage := 8 } } (reqSpace (.host 0 0)) 4096 [1]
theorem test_witness_AppendsMatchFilledPositionsAndWriteTheRest_match :
    let n := needCtx (tAppendNode 0) (tAppend 0) (tSeqOne Node.reset).id
    Runs (tAppendNode 0) 1 opAppendKv (tAppend 0) ∧ OnSeq (tAppendNode 0) (tAppend 0) (tSeqOne Node.reset) ∧ rsv (tAppend 0) 35 35 = [] ∧ rsv (tAppend 0) 42 43 = [] ∧ rsv (tAppend 0) 60 63 = []
    ∧ appendOffs (tAppend 0) (tSeqOne Node.reset) = [] ∧ (tAppend 0).f 36 4 + (tAppend 0).f 40 2 ≤ filledOf (tSeqOne Node.reset) 0 ∧ (tAppend 0).waited = false
    ∧ skewAt n (tSeqOne Node.reset) 0 0 1 tPeer = none
    ∧ cmpAll n (tSeqOne Node.reset) 0 0 (appendBuf (tAppendNode 0) (tAppend 0) (tSeqOne Node.reset)) 1 .ok = .ok ∧ acksLeft n (nodeId n) 1 = false := by
  decide +kernel
theorem test_witness_AppendsMatchFilledPositionsAndWriteTheRest_differ :
    cmpAll (tAppendNode 4096) (tSeqOne Node.reset) 0 0 (appendBuf (tAppendNode 4096) (tAppend 4096) (tSeqOne Node.reset)) 1 .ok = .differs := by decide +kernel
/-- An append of a position given, and its node. -/
def tAppendAt (pos : Nat) : Cmd := tCmd opAppendKv (tSeqBody ([0, 0, 2, 0] ++ leBytes 4 pos ++ leBytes 2 1 ++ [0, 0] ++ leBytes 8 0 ++ leBytes 8 0))
def tAppendAtNode (x : Seqn) (pos : Nat) : Node := let n := tOnSeq x (tAppendAt pos); { n with ter := { n.ter with pages := [(7, tPage n)], nextPage := 8 } }
theorem test_witness_AppendsMatchFilledPositionsAndWriteTheRest_beyond :
    Runs (tAppendAtNode (tSeqOne Node.reset) 2) 1 opAppendKv (tAppendAt 2) ∧ OnSeq (tAppendAtNode (tSeqOne Node.reset) 2) (tAppendAt 2) (tSeqOne Node.reset) ∧ appendOffs (tAppendAt 2) (tSeqOne Node.reset) = []
    ∧ filledOf (tSeqOne Node.reset) ((tAppendAt 2).f 32 2) < (tAppendAt 2).f 36 4 ∧ State.reset.tck.now < waitBound State.reset.tck Node.reset (tAppendAt 2)
    ∧ waitBound ({ State.reset.tck with now := 2 ^ 40 } : Tck) Node.reset (tAppendAt 2) ≤ 2 ^ 40 := by decide +kernel
theorem test_witness_AppendsMatchFilledPositionsAndWriteTheRest_write :
    let x := tSeqOne Node.reset
    let n := tAppendAtNode x 1
    let y : Seqn := { tSeq 0 with lists := [] }
    let m0 := tAppendAtNode y 0
    let m : Node := { m0 with mic := { m0.mic with stacksOut := List.range 8 } }
    (match appendRows State.reset.tck n 1 x.id x 0 1 (appendBuf n (tAppendAt 1) x) tPeer with | .ok _ a k => a == 1 && k == 0 | _ => false) = true
    ∧ (match appendRows State.reset.tck m 1 y.id y 0 0 (appendBuf m (tAppendAt 0) y) tPeer with | .wait _ => true | _ => false) = true
    ∧ (tAppendAt 1).f 36 4 ≤ filledOf x 0 ∧ (tAppendAt 0).f 36 4 ≤ filledOf y 0 ∧ acksLeft { n with map := { n.map with ackWaits := [⟨nodeId n, 1, 2⟩] } } (nodeId n) 1 = true := by decide +kernel
theorem test_witness_AppendsMatchFilledPositionsAndWriteTheRest_bound :
    findCmd (tAppendNode 0) 1 = some (tAppend 0) ∧ (tAppend 0).stage = .dispatched ∧ (tAppend 0).op = opAppendKv
    ∧ attends (tCmd opAttend []).op = true ∧ (tCmd opAttend []).stage ≠ .queued ∧ (tAppendNode 0).seqs.snaps = [] ∧ ({ State.reset.tck with now := 2 ^ 40 } : Tck).at (tCmd opAttend []).deadline 48 ≤ 2 ^ 40 := by decide +kernel
/-- A forwarded append of one more position to a page. -/
def tFwd (seq page : Nat) : FwdAppend := ⟨3, 9, seq, 0, 0, page, 1, 1, 0, 0, 1, 32, [⟨[⟨List.replicate 32 0, []⟩], [⟨List.replicate 32 0, []⟩]⟩], false, 0, false, false, 0⟩
theorem test_witness_AppendsMatchFilledPositionsAndWriteTheRest_forwarded :
    let m := tFwd (2 ^ 48 + 1) 7
    let n := allocOver (tAppendNode 0) (farWait m)
    mhas (tAppendNode 0).ter.pages (fwdIdx m) = true ∧ (forwardedPage State.reset.tck n m).isSome = true ∧ pageAt n 7 = some (tPage (tAppendNode 0)) ∧ fwdIdx m = 7
    ∧ fwdCmp n (tPage (tAppendNode 0)) 7 m = .ok ∧ fwdPoison n (tPage (tAppendNode 0)) m = none
    ∧ mhas (tAppendNode 0).ter.pages (fwdIdx (tFwd (2 ^ 50) 9)) = false ∧ unreserved (tAppendNode 0) (compOf (2 ^ 50)) < fwdFrames (tFwd (2 ^ 50) 9) := by decide +kernel

/-- An installed body of 8 entries at 4,096. -/
def tMarked : PList := ⟨3, 8, 8, 1, 4096, 0, true, [], 0⟩
theorem test_witness_InPlaceWritesRaiseVersionAndRetiredPagesAreFreed :
    let n : Node := { Node.reset with seqs := { Seqs.reset with open_ := [(5, { tSeq 0 with lists := [(0, tMarked)] })] } }
    marked n 4100 1 ≠ [] ∧ marked n 8192 1 = [] ∧ marks (4100#64).toNat [1#8].length tMarked = true ∧ n.seqs.retired = [] := by decide +kernel

/-- An `ATTEND` or `PREFILL` of one row at position 0 of sequence 1, without an append. -/
def tAttend (op : Nat) : Cmd := tCmd op (tSeqBody ([0, 0, 0x10, 0] ++ leBytes 4 0 ++ zeros 22 ++ (if op = opPrefill then [1, 0] else [0, 0])))
theorem test_witness_AttentionCommandsBeginAndAreBuilt_attend :
    Runs (tOnSeq (tSeq 0) (tAttend opAttend)) 1 opAttend (tAttend opAttend) ∧ OnSeq (tOnSeq (tSeq 0) (tAttend opAttend)) (tAttend opAttend) (tSeq 0) ∧ (tAttend opAttend).f 34 1 < 32
    ∧ rsv (tAttend opAttend) 62 63 = [] ∧ attendOffs (tAttend opAttend) (tSeq 0) = [] ∧ bmRevoked (tOnSeq (tSeq 0) (tAttend opAttend)) (tAttend opAttend) (cmdShape (tAttend opAttend) (tSeq 0)) = false
    ∧ bmForeign (tOnSeq (tSeq 0) (tAttend opAttend)) (tAttend opAttend) (cmdShape (tAttend opAttend) (tSeq 0)) = false := by decide +kernel
theorem test_witness_AttentionCommandsBeginAndAreBuilt_prefill :
    Runs (tOnSeq (tSeq 0) (tAttend opPrefill)) 1 opPrefill (tAttend opPrefill) ∧ OnSeq (tOnSeq (tSeq 0) (tAttend opPrefill)) (tAttend opPrefill) (tSeq 0) ∧ (tAttend opPrefill).f 34 1 < 32
    ∧ attendOffs (tAttend opPrefill) (tSeq 0) = [] ∧ bmRevoked (tOnSeq (tSeq 0) (tAttend opPrefill)) (tAttend opPrefill) (cmdShape (tAttend opPrefill) (tSeq 0)) = false
    ∧ bmForeign (tOnSeq (tSeq 0) (tAttend opPrefill)) (tAttend opPrefill) (cmdShape (tAttend opPrefill) (tSeq 0)) = false := by decide +kernel
/-- The same command once it runs. -/
def tRunning (c : Cmd) : Cmd := { c with stage := .running }
theorem test_witness_AttentionCommandsBeginAndAreBuilt_build :
    findCmd (tOnSeq tSeqFilled (tRunning (tAttend opAttend))) 1 = some (tRunning (tAttend opAttend)) ∧ (tRunning (tAttend opAttend)).op = opAttend
    ∧ ({ State.reset.tck with now := unitsPerTick State.reset.tck.cur } : Tck).at ((tAttend opAttend).launch - 1) 0 ≤ unitsPerTick State.reset.tck.cur
    ∧ unitsPerTick State.reset.tck.cur < ({ State.reset.tck with now := unitsPerTick State.reset.tck.cur } : Tck).at (tAttend opAttend).deadline 48
    ∧ bitAt ((tAttend opAttend).f 34 1) mNoAppend = true ∧ bitAt ((tAttend opAttend).f 34 1) mBitmap = false ∧ (cmdShape (tAttend opAttend) tSeqFilled).kend ≤ filledOf tSeqFilled 0 := by decide +kernel
/-- A chain of one row of 32 elements that holds `hold` strides. -/
def tChain (hold : Nat) : ChainPost := ⟨0, 1, 10, false, 32, 1, 1, 1, 1, 0, 1, 1, 0, 0, 0, 0, [0], 1, [(0, 0, 0, 0, 1)], hold⟩
/-- The descriptor of its step. -/
def tDesc : Desc := ⟨0, 1, 0, 2, 10, 2 ^ 48 + 1, 0, false, false, 0, 0, 1, 32, 1, 1, 1, 0, 1, 1, 0, 0, 0, 0, [0], [], [⟨List.replicate 32 0, []⟩], 0, [], [(0, 0, 0)], [], 0, 0, []⟩
/-- Its step, not yet sent. -/
def tStep (hold : Nat) : Step := ⟨1, 2 ^ 48 + 1, 0, opAttend, 1, 4096, tDesc, [tDesc], tChain hold, 0, [0], [0], [], 0, false, false, false, false, false⟩
theorem test_witness_AttentionCommandsBeginAndAreBuilt_retry :
    (({ tNode (tRunning (tAttend opAttend)) with att := { Node.reset.att with steps := [tStep 1099511627776] } } : Node).att.steps.find? fun y => y.handle == 1 && !y.sent) = some (tStep 1099511627776)
    ∧ State.reset.tck.now < State.reset.tck.at (tStep 1099511627776).desc.deadline 48 ∧ State.reset.tck.inSaddle = false ∧ keysOut (tNode (tRunning (tAttend opAttend))) = false
    ∧ (cflTake (tNode (tRunning (tAttend opAttend))) (tStep 1099511627776).chain).isNone = true
    ∧ (∀ k ∈ conflOrder (tNode (tRunning (tAttend opAttend))) (compOf (tStep 0).seq) (tStep 0).confl, k = nodeId (tNode (tRunning (tAttend opAttend))))
    ∧ ({ State.reset.tck with now := 2 ^ 40 } : Tck).at (tStep 0).desc.deadline 48 ≤ 2 ^ 40 := by decide +kernel
/-- The image of a weight set of one layer, without tensors: its header, and a layer descriptor that fits sequence 1. -/
def tImage : Bytes := zeros 8 ++ [1, 0] ++ zeros 14 ++ leBytes 8 192 ++ zeros 160 ++ (leBytes 4 128 ++ [0, 1, 1, 1] ++ leBytes 2 32 ++ zeros 54)
/-- The set, bound. -/
def tWSet : WSet := ⟨0, 0, tImage, [], true, [], 0, 256, [0], [], [], [], [], [], [], [], [], []⟩
/-- An `ATTEND_BLOCK` of layer 0 with set 7. -/
def tBlockCmd : Cmd := tCmd opAttendBlock (tSeqBody ([0, 0, 0, 0] ++ leBytes 4 0 ++ leBytes 8 4096 ++ leBytes 4 7))
/-- Its node. -/
def tBlockNode : Node := let n := tOnSeq (tSeq 0) tBlockCmd; { n with wts := { n.wts with sets := [(7, tWSet)] } }
theorem test_witness_AttentionCommandsBeginAndAreBuilt_block :
    Runs tBlockNode 1 opAttendBlock tBlockCmd ∧ OnSeq tBlockNode tBlockCmd (tSeq 0) ∧ tBlockCmd.f 34 1 < 16 ∧ tBlockCmd.f 35 1 ≤ 1 ∧ rsv tBlockCmd 52 55 = [] ∧ rsv tBlockCmd 62 63 = []
    ∧ setFor tBlockNode tBlockCmd (tBlockCmd.f 48 4) = some tWSet ∧ blockFits tBlockCmd (tSeq 0) tWSet = true ∧ usable tBlockNode tWSet = true ∧ layerDefective tBlockNode tWSet (tBlockCmd.f 32 2) = false
    ∧ (let sh := stepShape (tSeq 0) (tBlockCmd.f 34 1) (tBlockCmd.f 56 2) (tBlockCmd.f 58 1) (tBlockCmd.f 36 4) 1 (byteAt (layerDesc tWSet.image (tBlockCmd.f 32 2)) 5)
      blockOffs tBlockCmd (tSeq 0) sh = [] ∧ bmRevoked tBlockNode tBlockCmd sh = false ∧ bmForeign tBlockNode tBlockCmd sh = false) := by decide +kernel
/-- Its block, in stage one. -/
def tBlock : Block := ⟨1, 7, layerDesc tImage 0, 1, 0, [], [], [], [], [], none, [], false, []⟩
theorem test_witness_AttentionCommandsBeginAndAreBuilt_stage :
    findCmd tBlockNode 1 = some tBlockCmd ∧ (([tBlock].find? fun b => b.handle == 1) = some tBlock) ∧ tBlock.due ≤ State.reset.tck.tick ∧ State.reset.tck.atTick = true ∧ tBlock.stage = 1 := by decide +kernel

/-- A sent step whose chain lies on another node, with its command. -/
def tSent : Node := let n := tOnSeq tSeqFilled (tRunning (tAttend opAttend)); { n with att := { n.att with steps := [{ tStep 1 with sent := true, watchdog := true }] } }
theorem test_witness_StepsEndOnceWithTheirResult :
    (tSent.att.steps.find? (awaits State.reset.tck tSent 1)) = some { tStep 1 with sent := true, watchdog := true }
    ∧ findCmd tSent 1 = some (tRunning (tAttend opAttend)) ∧ (tAttend opAttend).op ≠ opAttendBlock ∧ torn tSent { tStep 1 with sent := true, watchdog := true } = false ∧ tSeqFilled.sealed = false
    ∧ (tSent.att.steps.all fun p => p.watchdog && decide (({ State.reset.tck with now := 2 ^ 40 } : Tck).at p.desc.deadline 62 ≤ 2 ^ 40)) = true
    ∧ torn tSent { tStep 1 with versions := [1] } = true ∧ (tSent.att.steps.find? fun p => p.handle == 1 && p.watchdog).isSome = true
    ∧ ({ State.reset.tck with now := 2 ^ 40 } : Tck).at (tStep 1).desc.deadline 62 ≤ 2 ^ 40 ∧ nodeId tSent < 2 ^ 13 := by decide +kernel
theorem test_witness_StepsEndOnceWithTheirResult_cut :
    findCmd (tOnSeq tSeqFilled (tRunning (tAttend opAttend))) 1 = some (tRunning (tAttend opAttend)) ∧ attends (tAttend opAttend).op = true
    ∧ ({ State.reset.tck with now := 2 ^ 40 } : Tck).at (tAttend opAttend).deadline 48 ≤ 2 ^ 40 ∧ (tOnSeq tSeqFilled (tRunning (tAttend opAttend))).att.steps = []
    ∧ (tOnSeq tSeqFilled (tRunning (tAttend opAttend))).cfl.chains = [] ∧ (tOnSeq tSeqFilled (tRunning (tAttend opAttend))).att.shares = [] := by decide +kernel

/-- A holder with a share of request (3, 1), not launched, and an item of it. -/
def tShare : Share := ⟨{ tDesc with home := 3, launch := 0 }, 0, none, false, false, []⟩
/-- Its item, whose pages hold no visible key here. -/
def tItem (st : ItemSt) : Item := ⟨3, 1, 0, 0, [], st, 0, some 2, none, 0, 0, [], false, false, [], false, false⟩
/-- The holder. -/
def tHolder (x : Share) (it : Item) : Node := let n := Node.reset; { n with att := { n.att with shares := [x], items := [it] } }
theorem test_witness_HoldersTakeLaunchAndEndTheirItems_chain : (cflTake Node.reset (tChain 1)).isSome = true ∧ cflTake Node.reset (tChain (2 ^ 40)) = none := by decide +kernel
theorem test_witness_HoldersTakeLaunchAndEndTheirItems_desc :
    ({ tDesc with holder := nodeId Node.reset } : Desc).holder = nodeId Node.reset ∧ findShare Node.reset 0 1 = none ∧ tDesc.epoch ≤ epochOf Node.reset ∧ tDesc.foreign = [] := by decide +kernel
/-- Fabric time that runs, at its reset value. -/
def tTck : Tck := { State.reset.tck with state := .locked }
theorem test_witness_HoldersTakeLaunchAndEndTheirItems_launch :
    tTck.inSaddle = false ∧ timeRuns tTck.state = true ∧ stopped (tHolder tShare (tItem .planned)) = false ∧ fencedNode (tHolder tShare (tItem .planned)) = false
    ∧ findShare (tHolder tShare (tItem .planned)) 3 1 = some tShare ∧ tShare.launched = none ∧ tTck.at tShare.desc.launch 0 ≤ tTck.now ∧ tTck.now < tTck.at tShare.desc.deadline 48
    ∧ tShare.desc.epoch ≤ epochOf (tHolder tShare (tItem .planned)) ∧ rowsHere (tHolder tShare (tItem .planned)) tShare.desc = true ∧ acksLeft (tHolder tShare (tItem .planned)) 3 1 = false
    ∧ findItem (tHolder tShare (tItem .planned)) 3 1 0 0 = some (tItem .planned) := by decide +kernel
theorem test_witness_HoldersTakeLaunchAndEndTheirItems_items :
    (tItem .planned).st = .planned ∧ tTck.at (tItem .planned).slice 0 ≤ tTck.now ∧ itemReady (tHolder tShare (tItem .waitT1)) tShare.desc (tItem .waitT1) = true
    ∧ ({ tTck with now := unitsPerNotch tTck.cur } : Tck).notch ≠ 0 ∧ (tItem .waitT1).stalled = [] ∧ tTck.atTick = true ∧ ({ tItem .waitData with direct := true }).loaded = false
    ∧ itemReady (tHolder tShare (tItem .waitData)) tShare.desc { tItem .waitData with loaded := true, direct := true } = true
    ∧ (tItem .running).due ≤ tTck.notches ∧ (tItem .running).bsu = none ∧ livePages tShare.desc (tItem .running) = [] ∧ (tItem .running).overrun = false ∧ (tItem .running).cluster = some 2
    ∧ ({ tTck with now := 62 * unitsPerNotch tTck.cur } : Tck).at (tItem .running).slice 62 ≤ 62 * unitsPerNotch tTck.cur := by decide +kernel

/-- The holder with its share launched and `k` items on the queue of die 0. -/
def tQueued (k : Nat) : Node :=
  let n := tHome (tHolder { tShare with launched := some 0 } (tItem .queued))
  { n with att := { n.att with items := (List.range k).map fun j => { tItem .queued with granule := j } } }
theorem test_witness_HoldersTakeLaunchAndEndTheirItems_take :
    (clusterIdle (tQueued 1) 0 = true ∧ ((dieQueue (tQueued 1) 0).find? (mayTake tTck (tQueued 1) 0)).isSome = true)
    ∧ (clusterIdle (tQueued 10) 31 = true ∧ stealFrom tTck (tQueued 10) 31 = some 0 ∧ ((dieQueue (tQueued 10) 0).find? (mayTake tTck (tQueued 10) 31)).isSome = true) := by decide +kernel
theorem test_witness_HoldersTakeLaunchAndEndTheirItems_overrun :
    let t : Tck := { tTck with now := 62 * unitsPerNotch tTck.cur }
    t.at t.tick 62 ≤ t.now ∧ ({ tItem .running with bsu := some 300, cluster := none }).bsu = some 300 ∧ t.at ({ tItem .running with bsu := some 300 }).slice 62 ≤ t.now
    ∧ 0 < [some (MoveWhat.page 7)].length ∧ mgetD Node.reset.ter.overAt 0 0 ≤ t.tick := by decide +kernel

/-- A partial message of request (0, 9) without a record. -/
def tUnknown : Bytes := partialHeader 0x10 0 0 0 9 0 1 0 0
theorem test_witness_DiscardedPartialMessagesAreCounted :
    (∀ x ∈ Node.reset.cfl.chains, field tUnknown 8 8 ≠ x.post.handle + x.post.home * 2 ^ 32) ∧ (∀ x ∈ Node.reset.cfl.done, field tUnknown 8 8 ≠ x.2 + x.1 * 2 ^ 32)
    ∧ (∃ x ∈ ({ Node.reset.cfl with done := [(0, 9)] } : Cfl).done, x.2 < 2 ^ 32 ∧ x.1 < 2 ^ 13 ∧ field tUnknown 8 8 = x.2 + x.1 * 2 ^ 32) := by decide +kernel

/-- The chain of request (3, 1), posted here, with one message of one record to come; its record and message. -/
def tPosted (sealed : Bool) : Chain := ⟨{ tChain 1 with home := 3, sealed := sealed }, 0, [], [], [], [], 1, 0, [], false, false, [], []⟩
/-- The identity record of its pair. -/
def tRecord : Bytes := partRecord (idPart 32) 0 0 0 0
/-- Its message. -/
def tPartial : Bytes := partialHeader 0x10 0 0 3 1 0 1 0 0 ++ tRecord
/-- The confluence node. -/
def tCfl (x : Chain) : Node := let n := Node.reset; { n with cfl := { n.cfl with chains := [x] } }
theorem test_witness_ConfluenceMergesAndFinalises_message :
    ((tCfl (tPosted false)).cfl.chains.find? fun c => c.isOf (field tPartial 12 4 % 2 ^ 13) (field tPartial 8 4) && field tPartial 8 8 == field tPartial 8 4 + field tPartial 12 4 % 2 ^ 13 * 2 ^ 32) = some (tPosted false)
    ∧ tTck.now < tTck.at (tPosted false).post.deadline 48 ∧ byteAt tPartial 0 = 0x10 ∧ (pHead 32 tPartial).ok = true
    ∧ ((chunksOf (recStride 32) (field tPartial 18 2) (tPartial.drop 32)).foldl (arriveRecord tTck (pHead 32 tPartial)) ⟨{ tPosted false with count := 1 }, tCfl (tPosted false), false⟩).bad = false
    ∧ byteAt (partialHeader 0x11 0 0 3 1 0 0 0x18 7) 0 = 0x11 := by decide +kernel
theorem test_witness_ConfluenceMergesAndFinalises_fire :
    threshold { tPosted false with count := 1, roots := [(0, tRecord)] } ≤ 1 ∧ allRoots { tPosted false with count := 1, roots := [(0, tRecord)] } = true
    ∧ ({ tTck with now := 2 ^ 40 } : Tck).at (tPosted false).post.deadline 48 ≤ 2 ^ 40 ∧ 3 ≠ nodeId (tCfl (tPosted false))
    ∧ (tPosted true).post.units.any (outstanding (tPosted true)) = true ∧ (tPosted true).lost = [] ∧ outstanding { tPosted true with lost := [0] } (0, 0, 0, 0, 1) = true := by decide +kernel
/-- A `MERGE` of one pair of two records at 4,096 into FP32 at 8,192. -/
def tMerge : Cmd := tCmd opMerge (leBytes 8 4096 ++ leBytes 8 8192 ++ leBytes 4 1 ++ leBytes 2 2 ++ leBytes 2 32 ++ [1])
/-- The node, with two identity records in host memory. -/
def tMergeNode : Node := hostWrite (tNode tMerge) (reqSpace (.host 0 0)) 4096 (tRecord ++ tRecord)
theorem test_witness_ConfluenceMergesAndFinalises_merge :
    Runs tMergeNode 1 opMerge tMerge ∧ mergeOffs tMerge = [] ∧ recordBad 32 (hostRead tMergeNode (reqSpace (.host 0 0)) 4096 192) = false ∧ recordBad 32 (hostRead tMergeNode (reqSpace (.host 0 0)) 4288 192) = false := by
  decide +kernel

/-- A `BSU_RUN` of program 8 on BSU 300: no input, one block of output. -/
def tBsuRun : Cmd := { tCmd opBsuRun (leBytes 2 300 ++ leBytes 2 1 ++ [8, 0] ++ leBytes 2 0 ++ leBytes 8 4096 ++ leBytes 8 8192 ++ leBytes 2 1 ++ leBytes 2 0) with launch := 2, deadline := 10 }
/-- A program of one `HALT` in slot 8. -/
def tProg : Bsu := ⟨[], none, [], [], [(8, 1, [])]⟩
/-- The node, its tenant holding every channel, with BSU 300 as given. -/
def tBsuNode (c : Cmd) (u : Bsu) (j : List BsuJob) : Node :=
  let n := tHome (tNode c)
  { n with bsu := { n.bsu with units := [(300, u)], jobs := j } }
theorem test_witness_BankSideRunsAreQueuedPausedAndEnded_run :
    Runs (tBsuNode tBsuRun tProg []) 1 opBsuRun tBsuRun ∧ rsv tBsuRun 29 29 = [] ∧ rsv tBsuRun 52 63 = [] ∧ bsuSpanBad tBsuRun = false ∧ tBsuRun.f 28 1 = 8 ∧ tBsuRun.f 30 2 ≤ 1024
    ∧ mult (tBsuRun.f 32 8) 64 = true ∧ mult (tBsuRun.f 40 8) 64 = true ∧ tBsuRun.f 48 2 ≤ 1024 ∧ tBsuRun.f 50 2 + tBsuRun.f 48 2 ≤ 3072
    ∧ State.reset.tck.now ≤ State.reset.tck.at tBsuRun.launch 0 ∧ State.reset.tck.tick ≤ tBsuRun.deadline ∧ bsuSpan tBsuRun = [300] ∧ mhas (unitOf (tBsuNode tBsuRun tProg []) 300).progs 8 = true
    ∧ bsuInService (tBsuNode tBsuRun tProg []) 300 = true ∧ bsuOurs (tBsuNode tBsuRun tProg []) 300 = true ∧ areaUsed (unitOf (tBsuNode tBsuRun tProg []) 300) < 64 := by decide +kernel
/-- Its entry, due at once; its run at the `HALT`; its job. -/
def tBsuEntry : BsuEntry := ⟨0, 0, 1, 0, 0, 8, 0⟩
def tBsuRunSt (paused : Bool) : BsuRunSt := ⟨tBsuEntry, 0, List.replicate 8 0, [0, 0, 0, 300], 0, 0, paused, none, false, 0, []⟩
def tBsuJob (fail : Option BsuFail) (count : Nat) : BsuJob := ⟨1, 300, count, [], [], fail, 0⟩
/-- The node with that entry queued. -/
def tBsuQueued : Node := tBsuNode tBsuRun { tProg with area := [tBsuEntry] } [tBsuJob none 1]
theorem test_witness_BankSideRunsAreQueuedPausedAndEnded_start :
    let n := tBsuQueued
    bsuShed n 300 = false ∧ stopped n = false ∧ bsuInService n 300 = true ∧ State.reset.tck.inSaddle = false
    ∧ ({ tProg with area := [tBsuEntry] } : Bsu).area.find? (fun x => x.launch ≤ State.reset.tck.notches) = some tBsuEntry ∧ n.bsu.jobs.find? (fun x => x.handle == tBsuEntry.handle) = some (tBsuJob none 1)
    ∧ tBsuEntry.src = 0 ∧ jobGoes State.reset.tck n tBsuEntry = true := by decide +kernel
theorem test_witness_BankSideRunsAreQueuedPausedAndEnded_pause :
    let late : Tck := { State.reset.tck with now := State.reset.tck.at 0 62 }
    unitOf (tBsuNode tBsuRun { tProg with run := some (tBsuRunSt false) } []) 300 = { tProg with run := some (tBsuRunSt false) } ∧ late.at late.tick 62 < late.now + 115
    ∧ bsuShed (tBsuNode tBsuRun { tProg with run := some (tBsuRunSt true) } []) 300 = false ∧ State.reset.tck.now + 115 ≤ State.reset.tck.at State.reset.tck.tick 62 := by decide +kernel
theorem test_witness_BankSideRunsAreQueuedPausedAndEnded_halt :
    let n := tBsuNode tBsuRun { tProg with run := some (tBsuRunSt false) } [tBsuJob none 1]
    bsuShed n 300 = false ∧ jobGoes State.reset.tck n tBsuEntry = true ∧ (instrAt (unitOf n 300) (tBsuRunSt false)).op = bHalt ∧ findCmd n 1 = some tBsuRun ∧ n.bsu.jobs.find? (fun x => x.handle == 1) = some (tBsuJob none 1)
    ∧ (tBsuJob none 1).count = (mset (tBsuJob none 1).outs 300 (Mem.read 0 (unitOf n 300).sram (64 * tBsuRun.f 50 2) (64 * tBsuRun.f 48 2))).length
    ∧ (tBsuJob none 2).count ≠ (mset (tBsuJob none 2).outs 300 (Mem.read 0 (unitOf n 300).sram (64 * tBsuRun.f 50 2) (64 * tBsuRun.f 48 2))).length
    ∧ ([tBsuJob (some ⟨stNotOwner, 300, 0, 0, 0⟩) 1].find? fun x => x.handle == 1).isSome = true ∧ tBsuRun.deadline < ({ State.reset.tck with now := 2 ^ 40 } : Tck).tick := by decide +kernel
/-- A `BSU_LOAD` of an image of 16 zero bytes, one `HALT`, into slot 8 of BSU 300. -/
def tBsuLoad : Cmd := tCmd opBsuLoad (leBytes 2 300 ++ leBytes 2 1 ++ [8, 1, 0, 0] ++ leBytes 8 4096 ++ leBytes 4 16)
theorem test_witness_BankSideRunsAreQueuedPausedAndEnded_load :
    let n := tBsuNode tBsuLoad tProg []
    Runs n 1 opBsuLoad tBsuLoad ∧ rsv tBsuLoad 30 31 = [] ∧ rsv tBsuLoad 44 63 = [] ∧ bsuSpanBad tBsuLoad = false ∧ tBsuLoad.f 28 1 = 8 ∧ tBsuLoad.f 29 1 = 1 ∧ mult (tBsuLoad.f 32 8) 16 = true
    ∧ tBsuLoad.f 40 4 = 16 ∧ bsuSpan tBsuLoad = [300] ∧ bsuOurs n 300 = true ∧ boundSlots (unitOf n 300) = [] ∧ imageFault (hostRead n tBsuLoad.mem (tBsuLoad.f 32 8) (tBsuLoad.f 40 4)) = none := by decide +kernel
/-- A `BSU_OWN` or `BSU_RELEASE` of frame 0. -/
def tOwn (op : Nat) : Cmd := tCmd op (leBytes 8 0 ++ leBytes 8 4096)
/-- A page of frame 0. -/
def tOwnNode : Node := let n := tNode (tOwn opBsuOwn); { n with ter := { n.ter with pages := [(0, tPage n)] } }
theorem test_witness_BankSideRunsAreQueuedPausedAndEnded_own :
    Runs tOwnNode 1 opBsuOwn (tOwn opBsuOwn) ∧ tOwnNode.bsu.owns = [] ∧ ownOffs (tOwn opBsuOwn) = [] ∧ nameFrames tOwnNode ((tOwn opBsuOwn).f 24 8) ((tOwn opBsuOwn).f 32 8) = [0]
    ∧ frameOurs tOwnNode 0 = true ∧ isScratch tOwnNode 0 = false ∧ tOwnNode.cxd.dir = [] ∧ frameSt tOwnNode 0 ≤ 3 := by decide +kernel
theorem test_witness_BankSideRunsAreQueuedPausedAndEnded_release :
    let n : Node := { tNode (tOwn opBsuRelease) with bsu := { Node.reset.bsu with frames := [(0, 2)] } }
    Runs n 1 opBsuRelease (tOwn opBsuRelease) ∧ ownOffs (tOwn opBsuRelease) = [] ∧ dedupNat (nameFrames n ((tOwn opBsuRelease).f 24 8) ((tOwn opBsuRelease).f 32 8)) = [0]
    ∧ frameKind n 0 = 2 ∧ isScratch n 0 = false ∧ busyBelow n (tOwn opBsuRelease) [0] = false ∧ n.bsu.held = [] := by decide +kernel

/-- BSU 300 at the instruction of some bytes, with its frames in the BSU state. -/
def tBsuAt (i : Bytes) (frames : NMap Nat) (prog : Nat) : Node :=
  let n := tBsuNode tBsuRun { tProg with store := Mem.write 0 [] 8192 i, run := some { tBsuRunSt false with prog := prog, deferred := if prog = 1 then some 0 else none } } [tBsuJob none 1]
  { n with bsu := { n.bsu with frames := frames } }
/-- Does BSU 300 stand at an operation. -/
def tAtOp (i : Bytes) (frames : NMap Nat) (op : Nat) : Bool :=
  let n := tBsuAt i frames 0
  match (unitOf n 300).run with
  | none => false
  | some r => r.ent.src == 0 && mayStep State.reset.tck n 300 r && (instrAt (unitOf n 300) r).op == op
theorem test_witness_MicrostepsCommitWholeOrNotAtAll_ops :
    ([bSeta, bAdda, bSetl, bLoop, bVadd, bVmul, bVact, bWiden, bNorm, bRsacc, bQuant, bMatvec].all fun k => tAtOp (BitVec.ofNat 8 k :: zeros 15) [] k) = true := by decide +kernel
/-- The LOAD and the STORE of the worked example of 08, and a MATVEC of one bank row of 32 BF16 weights. -/
def tLoad : Bytes := [0x08, 0x11, 0x80, 0, 0, 0x80, 0, 0, 0x12, 0, 1, 0, 1, 0, 0, 0]
def tStore : Bytes := [0x09, 0x11, 0, 0, 0x40, 0, 0, 0, 0, 0x80, 1, 0, 1, 0, 0, 0]
def tMatvec : Bytes := [0x20, 1, 1, 0, 0, 0, 0, 0x80, 0x40, 0, 1, 0, 1, 0, 0, 0]
theorem test_witness_MicrostepsCommitWholeOrNotAtAll_bank :
    tAtOp tLoad [] bLoad = true ∧ tAtOp tStore [(300 * pchBytes, 2)] bStore = true ∧ tAtOp tMatvec [] bMatvec = true ∧ isBank (bsuInstr tLoad).sa = true ∧ isBank (bsuInstr tStore).sd = true
    ∧ isBank (bsuInstr tMatvec).sb = true ∧ (bsuInstr tLoad).bankBytes = 64 ∧ (bsuInstr tStore).bankBytes = 64 ∧ (bsuInstr tMatvec).bankBytes = 64 ∧ bankLines 0 64 = [0]
    ∧ lineAllowed (tBsuAt tLoad [] 0) 300 0 false = true ∧ lineAllowed (tBsuAt tStore [(300 * pchBytes, 2)] 0) 300 0 true = true
    ∧ mget? (tBsuAt tLoad [] 0).mic.poison (300 * pchBytes) = none ∧ Memory.wf 0 (tBsuAt tStore [(300 * pchBytes, 2)] 0).t1 = true := by decide +kernel
theorem test_witness_MicrostepsCommitWholeOrNotAtAll_stop :
    lineAllowed { tBsuAt tLoad [] 0 with cxd := { Node.reset.cxd with exts := [(0, ⟨2, 1, 0, 1, 0, 0, [(300 * pchBytes, 4096)]⟩)] } } 300 0 false = false
    ∧ lightDecode [9, 40] = .uncorr ∧ erasureLane (tBsuAt tLoad [] 1) (pchOf (300 * pchBytes)) = none := by decide +kernel

/-- A placement command on the page with index 7, named by the host's array at 4,096. -/
def tPlace (op : Nat) (tail : Bytes) : Cmd := tCmd op (leBytes 8 4096 ++ leBytes 4 0 ++ leBytes 4 1 ++ [0, 0, 0, 0] ++ tail)
/-- Its node, with the page in terrace 1 or 3. -/
def tPlaceNode (op : Nat) (tail : Bytes) (terrace pinned : Nat) : Node :=
  let n := tNode (tPlace op tail)
  hostWrite { n with ter := { n.ter with pages := [(7, { tPage n with terrace := terrace, pin := pinned, fill := 64 })], nextPage := 8 } } (reqSpace (.host 0 0)) 4096 (leBytes 8 7)
theorem test_witness_PlacementCommandsActOnTheirSelection_migrate :
    ∀ terrace ∈ [1, 3], let n := tPlaceNode opMigrate [1, 0, 0xFF, 0xFF] terrace 0
    let c := tPlace opMigrate [1, 0, 0xFF, 0xFF]
    Runs n 1 opMigrate c ∧ selOffs n c = [] ∧ c.f 44 1 = 1 ∧ rsv c 45 45 = [] ∧ rsv c 48 63 = [] ∧ selForeign n c = false ∧ pchRefused n c [] = false ∧ selKind c = 0 ∧ selPages n c [] = [7]
    ∧ sortPages n 1 none [7] = (if terrace = 1 then ([], [7], []) else ([7], [], [])) ∧ n.ter.jobs = [] ∧ seqHeld n c = false := by decide +kernel
theorem test_witness_PlacementCommandsActOnTheirSelection_pin :
    let n := tPlaceNode opPin [2] 1 1
    let c := tPlace opPin [2]
    Runs n 1 opPin c ∧ selOffs n c = [] ∧ c.f 44 1 = 2 ∧ rsv c 45 63 = [] ∧ selForeign n c = false ∧ selKind c = 0 ∧ selPages n c [] = [7] ∧ pinOver n 2 [7] = false
    ∧ inCopy n (.page 7) = false ∧ (match pageAt n 7 with | some e => pageTerrace n e == 1 | none => false) = true := by decide +kernel
theorem test_witness_PlacementCommandsActOnTheirSelection_unpin :
    let n := tPlaceNode opUnpin [] 1 2
    let c := tPlace opUnpin []
    Runs n 1 opUnpin c ∧ selOffs n c = [] ∧ rsv c 44 63 = [] ∧ selForeign n c = false ∧ selKind c = 0 ∧ selPages n c [] = [7] := by decide +kernel
theorem test_witness_PlacementCommandsActOnTheirSelection_hint :
    let n := tPlaceNode opPlaceHint [0xF8, 3] 1 0
    let c := tPlace opPlaceHint [0xF8, 3]
    Runs n 1 opPlaceHint c ∧ selOffs n c = [] ∧ signed 8 (c.f 44 1) = -8 ∧ c.f 45 1 = 3 ∧ rsv c 46 63 = [] ∧ selForeign n c = false ∧ selKind c = 0 ∧ selPages n c [] = [7] := by decide +kernel
theorem test_witness_PlacementCommandsActOnTheirSelection_timeout :
    ticksPassed { State.reset.tck with now := 2 ^ 40 } (tPlace opMigrate []) 1024 = true ∧ ([(⟨1, 0, 0, 0, 0, [7], []⟩ : MigJob)].find? fun x => x.handle == 1).isSome = true
    ∧ (let c := tCmd opPin (leBytes 4 7 ++ zeros 12 ++ [2, 0, 0, 0, 1]); c.stage = .dispatched ∧ selKind c = 2 ∧ c.f 44 1 = 1) := by decide +kernel

/-- A node with page 7 in terrace 3 and its promotion by heat under way. -/
def tMoveNode (m : List MoveReq) : Node :=
  let n := Node.reset
  { n with ter := { n.ter with pages := [(7, { tPage n with terrace := 3, heat := 255, lastRead := 0 })], nextPage := 8, moves := m } }
theorem test_witness_MoversHeatAndTheCacheFollowTheirRules_move :
    let n := tMoveNode [⟨3, .page 7, 1, none, none⟩]
    (copying n).find? (fun x => x.what == .page 7) = some ⟨3, .page 7, 1, none, none⟩ ∧ (match pageAt n 7 with | some e => e.terrace == 3 && !settling State.reset.tck n e | none => false) = true ∧ Memory.wf 0 n.t1 = true := by decide +kernel
/-- The same node with every pseudo-channel but 0 retired, its composition's slice covering channel group 0. -/
def tOneChannel (m : List MoveReq) : Node :=
  let n := tHome (tMoveNode m)
  { n with mic := { n.mic with stacksOut := [1, 2, 3, 4, 5, 6, 7], retired := (List.range 128).drop 1 } }
theorem test_witness_MoversHeatAndTheCacheFollowTheirRules_run :
    (match pageAt (tOneChannel [⟨3, .page 7, 1, none, none⟩]) 7 with
      | some e => (placeRun (tOneChannel [⟨3, .page 7, 1, none, none⟩]) e.comp e.foot none (pagePrev (tOneChannel [⟨3, .page 7, 1, none, none⟩]) e)).isSome && e.foot == 8192
      | none => false) = true ∧ staysAboveLow (tOneChannel [⟨3, .page 7, 1, none, none⟩]) 8192 = true := by decide +kernel
theorem test_witness_MoversHeatAndTheCacheFollowTheirRules_heat :
    let n := tOneChannel []
    let m := { n with mic := { n.mic with stacksOut := List.range 8 } }
    (match pageAt n 7 with | some e => decide (rd n Rg.terHeatCfgPromote ≤ effHeat State.reset.tck n e) && !settling State.reset.tck n e && staysAboveLow n e.foot | none => false) = true
    ∧ rdB n Rg.terHeatCfgEn = true ∧ inMotion n 7 = false ∧ rd m Rg.terWmLow * t1Total m ≤ 100 * t1Free m ∧ rd m Rg.terWmHigh * t1Total m ≤ 100 * t1Free m ∧ m.ter.demoting = false := by decide +kernel
/-- One channel, wholly held: terrace 1 is below LOW. -/
def tFull : Node := let n := tOneChannel []; { n with ter := { n.ter with holds := [⟨0, pchBytes⟩] } }
theorem test_witness_MoversHeatAndTheCacheFollowTheirRules_low : 100 * t1Free tFull < rd tFull Rg.terWmLow * t1Total tFull ∧ rdB tFull Rg.terHeatCfgEn = true := by decide +kernel
theorem test_witness_MoversHeatAndTheCacheFollowTheirRules_cache :
    let n := Node.reset
    let m := { n with ter := { n.ter with cache := [(3, ⟨1, 1, 0⟩)] } }
    overPct (dirtyBlocks n) (cacheBytes n / 65536) (rd n Rg.terT2CfgDirtyMax) = false ∧ overPct (dirtyBlocks m) (cacheBytes m / 65536) (rd m Rg.terT2CfgDirtyMax) = true
    ∧ (leastBy (fun e : Nat × CacheBlk => e.2.used) (m.ter.cache.filter fun e => e.2.dirty != 0)).isSome = true ∧ Writable n ∧ (n.cxd.exts.any fun e => e.2.state != 0) = false ∧ 0 ≤ t2Bytes n
    ∧ ([(0, (⟨1, 0, 0, 0, 0, 0, []⟩ : Extent))].any fun e => e.2.state != 0) = true ∧ n.seqs.copies = [] := by decide +kernel

/-- Fabric time at a notch of tick 0. -/
def tNotch (k : Nat) : Tck := { State.reset.tck with now := State.reset.tck.at 0 k }
theorem test_witness_ScrubSparingTestsAndRetirementFollowTheirRules_scrub :
    inRefresh 0 (tNotch 20).notch = true ∧ Node.reset.mic.refreshed = [] ∧ inRefresh (pchOf 128) (tNotch 0).notch = false ∧ fullDecode none [] = .clean ∧ fullDecode none [3, 9] = .uncorr
    ∧ erasureLane Node.reset (pchOf 128) = none ∧ mgetD ([(0, [128])] : NMap (List Nat)) 0 [] = [128] ∧ Node.reset.mic.retired = [] := by decide +kernel
/-- A node with one module of board memory of 64 GiB in channel 0. -/
def tDimm : Node := let n := Node.reset; { n with brd := { n.brd with dimms := [(0, 2 ^ 36, 0)] } }
theorem test_witness_ScrubSparingTestsAndRetirementFollowTheirRules_board :
    mgetD tDimm.mic.periodAt 8 0 ≤ 0 ∧ tDimm.mic.ddrOut.contains 0 = false ∧ mhas tDimm.brd.dimms 0 = true ∧ burstPoison tDimm (.cache 4096) 0 = false ∧ 0 = 64 * mgetD tDimm.mic.patrol 8 0 ∧ 64 * (mgetD tDimm.mic.patrol 8 0 + 1) < t2Bytes tDimm
    ∧ tDimm.svc.recal = [] ∧ tDimm.mic.retry = [] ∧ (⟨0, 1, 0⟩ : FlashPi).ref ≠ 0 % 2 ^ 48 := by decide +kernel
theorem test_witness_ScrubSparingTestsAndRetirementFollowTheirRules_flash :
    (⟨crc64 (storedBytes tDimm 0), 0, 0x8000⟩ : FlashPi).guard = crc64 (storedBytes tDimm 0) ∧ (⟨crc64 (storedBytes tDimm 0), 0, 0x8000⟩ : FlashPi).ref = 0 % 2 ^ 48 := ⟨rfl, rfl⟩
theorem test_witness_ScrubSparingTestsAndRetirementFollowTheirRules_row :
    holdFits (tNotch 0) (pchOf (rowOf 1024)) 1000 = true ∧ (tNotch 0).notch + cdiv 1000 (unitsPerNotch (tNotch 0).cur) ≤ 62 ∧ Node.reset.mic.spared = [] ∧ [1024].contains (rowOf 1024) = true := by decide +kernel
theorem test_witness_ScrubSparingTestsAndRetirementFollowTheirRules_march :
    holdFits (tNotch 0) 0 1000 = true ∧ frameInUse (wr Node.reset Rg.micMarchStatusForm 0) 0 = false
    ∧ frameInUse (wr { Node.reset with ter := { Node.reset.ter with holds := [⟨0, 4096⟩] } } Rg.micMarchStatusForm 0) 0 = true ∧ (⟨0, 1, 0, 0, 0, 2, 0, 0, 0, 0⟩ : MarchJob).left = 2 := by decide +kernel
theorem test_witness_ScrubSparingTestsAndRetirementFollowTheirRules_retire :
    let n : Node := { tNode (tCmd opRetirePch []) with mic := { Node.reset.mic with retiring := [⟨5, some 1, false, 0⟩] } }
    n.ter.pages = [] ∧ n.wts.sets = [] ∧ n.cxd.exts = [] ∧ retireHeld n 5 = false ∧ retireLeft n 5 = false := by decide +kernel

/-- An encrypted image: one layer, a matrix of 32 rows and 128 columns for the Q, K and V projections, one of 128 rows and 32 columns for the output, a vector of 128. -/
def tWeights : Bytes :=
  let tens (n kr fmt kind blocks : Nat) : Bytes := leBytes 4 n ++ leBytes 4 kr ++ [BitVec.ofNat 8 fmt, BitVec.ofNat 8 kind] ++ leBytes 2 0xFFFF ++ leBytes 4 blocks ++ leBytes 8 336 ++ leBytes 8 512 ++ zeros 16
  (leBytes 4 0x53575744 ++ [1, 0, 2, 0] ++ leBytes 2 1 ++ leBytes 2 3 ++ zeros 4 ++ leBytes 8 512 ++ leBytes 8 128 ++ leBytes 8 192 ++ zeros 88)
    ++ (leBytes 4 128 ++ [0, 1, 1, 1] ++ leBytes 2 32 ++ [0, 0] ++ leBytes 4 0x3F800000 ++ leBytes 2 0 ++ leBytes 2 0 ++ leBytes 2 0 ++ leBytes 2 1 ++ leBytes 2 2 ++ List.replicate 10 0xFF ++ zeros 28)
    ++ tens 32 128 1 0 8 ++ tens 128 32 1 0 8 ++ tens 128 1 0 2 1 ++ zeros 176
/-- A `WEIGHTS_STREAM` of set 7 by the operation given, the image at 4,096. -/
def tStream (op : Nat) : Cmd :=
  tCmd opWeightsStream (leBytes 4 7 ++ [BitVec.ofNat 8 op, 0, 0, 0] ++ (if op = 0 then leBytes 4 0 ++ leBytes 8 4096 ++ leBytes 8 512 else leBytes 2 0 ++ leBytes 2 1))
/-- Its node: the image in host memory, and a flash module and a memory module. -/
def tLoadNodeOf (m : Mem) : Node :=
  let n := tNode (tStream 0)
  { n with hmem := m, brd := { n.brd with flash := [(0, 2 ^ 40)], dimms := [(0, 2 ^ 36, 0)] } }
def tLoadMem : Mem := Mem.write 0 [] (hostKey (reqSpace (.host 0 0)) 4096) tWeights
def tLoadNode : Node := tLoadNodeOf tLoadMem
theorem test_witness_read_take (d : Byte) (m : Mem) (j : Nat) : ∀ (k a : Nat), Mem.read d m a k = (Mem.read d m a (k + j)).take k := by
  intro k
  induction k with
  | zero => intro a; rfl
  | succ k ih => intro a; rw [Nat.add_right_comm]; simp only [Mem.read, List.take_succ_cons]; rw [← ih]
theorem test_witness_written (w : Bytes) (k : Nat) (h : w.length = 512) :
    Mem.read 0 (Mem.write 0 [] k w) k 512 = w ∧ Mem.read 0 (Mem.write 0 [] k w) k 128 = w.take 128 := by
  have e := Mem.read_write 0 w [] k rfl
  rw [h] at e
  exact ⟨e, (test_witness_read_take 0 _ 384 128 _).trans (congrArg (List.take 128) e)⟩
theorem test_witness_load_mem (m : Mem) : (tLoadNodeOf m).hmem = m := rfl
theorem test_witness_load_f : hostKey (tStream 0).mem ((tStream 0).f 36 8) = hostKey (reqSpace (.host 0 0)) 4096 := by decide +kernel
theorem test_witness_WeightSetsLoadPrefetchAndEvict_image :
    hostRead tLoadNode (tStream 0).mem ((tStream 0).f 36 8) 512 = tWeights ∧ hostRead tLoadNode (tStream 0).mem ((tStream 0).f 36 8) 128 = tWeights.take 128 := by
  unfold hostRead
  unfold tLoadNode
  rw [test_witness_load_mem, test_witness_load_f]
  unfold tLoadMem
  generalize hk : hostKey (reqSpace (.host 0 0)) 4096 = k
  have hl : tWeights.length = 512 := by decide +kernel
  generalize tWeights = w at hl ⊢
  exact test_witness_written w k hl
theorem test_witness_WeightSetsLoadPrefetchAndEvict_load :
    Runs tLoadNode 1 opWeightsStream (tStream 0) ∧ (tStream 0).f 28 1 = 0 ∧ evictAhead tLoadNode (tStream 0) 7 = false ∧ rsv (tStream 0) 30 31 = [] ∧ rsv (tStream 0) 52 63 = [] ∧ (tStream 0).f 24 4 = 7
    ∧ tLoadNode.wts.sets = [] ∧ (tStream 0).f 29 1 ≤ 1 ∧ (tStream 0).f 32 4 = 0 ∧ mult ((tStream 0).f 36 8) 4096 = true ∧ imgLen (tWeights.take 128) = 512 ∧ imgLen tWeights = 512
    ∧ clearPartFaults tWeights = [] ∧ imgEncrypted tWeights = true ∧ imgVariant tWeights = false ∧ (tStream 0).f 44 8 = 512 ∧ t3Alloc tLoadNode 512 = some 0
    ∧ (let w : WSet := ⟨0, 0, tWeights, [], false, [], 0, 512, [0], [], [], [], [], [], [], [], [], []⟩
      baseBad tLoadNode (tStream 0) w = false
      ∧ overPct (pinned2 tLoadNode + (pinnedSecs (withSecs tLoadNode 7 w)).length) (cacheBytes tLoadNode / 4096) (rd tLoadNode Rg.terPinCfgT2Pct) = false) := by decide +kernel
/-- The set loaded and bound, its layer's blocks in the one slot of its window as given. -/
def tLoaded (b : List Nat) : WSet := ⟨0, 0, tWeights, [], true, [], 0, 512, [0], [⟨[], some 0, 0, b⟩], [], [], [], [], [], [], [], []⟩
/-- A node with it and a command. -/
def tSetNode (c : Cmd) (b : List Nat) : Node := let n := tNode c; { n with wts := { n.wts with sets := [(7, tLoaded b)] } }
theorem test_witness_WeightSetsLoadPrefetchAndEvict_prefetch :
    ∀ b ∈ [List.range 33, []], let n := tSetNode (tStream 1) b
    Runs n 1 opWeightsStream (tStream 1) ∧ (tStream 1).f 28 1 = 1 ∧ rsv (tStream 1) 29 29 = [] ∧ rsv (tStream 1) 30 31 = [] ∧ rsv (tStream 1) 36 43 = [] ∧ rsv (tStream 1) 44 51 = [] ∧ rsv (tStream 1) 52 63 = []
    ∧ setFor n (tStream 1) 7 = some (tLoaded b) ∧ (tStream 1).f 32 2 < imgLayers tWeights ∧ (tStream 1).f 34 2 = 1 ∧ 1 ≤ rd n Rg.terWinCfgW ∧ usable n (tLoaded b) = true
    ∧ layerSpan (tLoaded b) 0 1 = [0] ∧ layerDefective n (tLoaded b) 0 = false ∧ n.wts.jobs = [] ∧ layerWhole (tLoaded b) 0 = !b.isEmpty := by decide +kernel
theorem test_witness_WeightSetsLoadPrefetchAndEvict_request :
    let n := tSetNode tBlockCmd []
    tBlockCmd.op = opAttendBlock ∧ findCmd n 1 = some tBlockCmd ∧ setFor n tBlockCmd (tBlockCmd.f 48 4) = some (tLoaded []) ∧ usable n (tLoaded []) = true ∧ tBlockCmd.f 32 2 < imgLayers tWeights ∧ n.wts.uses = [] := by decide +kernel
/-- A `WEIGHTS_EVICT` of set 7, and a prefetch of it accepted before. -/
def tEvict : Cmd := { tCmd opWeightsEvict (leBytes 4 7) with seq := 1 }
def tBefore : Cmd := { tStream 1 with handle := 2 }
theorem test_witness_WeightSetsLoadPrefetchAndEvict_evict :
    ∀ l ∈ [[tEvict], [tEvict, tBefore]], let n : Node := { tSetNode tEvict [] with fe := { Front.reset with cmds := l } }
    Runs n 1 opWeightsEvict tEvict ∧ rsv tEvict 28 63 = [] ∧ mget? n.wts.sets (tEvict.f 24 4) = some (tLoaded []) ∧ isBase n 7 = false ∧ (∀ d ∈ n.fe.cmds, d.op = opWeightsEvict → d.f 24 4 = tEvict.f 24 4 → tEvict.seq ≤ d.seq)
    ∧ (n.fe.cmds.any fun d => d.seq < tEvict.seq && namesSet (tEvict.f 24 4) d) = (l.length == 2) := by decide +kernel
theorem test_witness_WeightSetsLoadPrefetchAndEvict_timeout :
    ticksPassed { State.reset.tck with now := 2 ^ 40 } (tStream 1) 1024 = true ∧ ([(⟨1, 7, [0], 0, 0, 0⟩ : WJob)].find? fun x => x.handle == 1).isSome = true := by decide +kernel

/-- The image of `tWeights` in clear, with one coded and one raw block of tensor 0: a code of two symbols of one bit, 0x41 and the end of block, and the stored byte. -/
def tClear (raw : Bool) : Bytes :=
  let idx : Bytes := if raw then leBytes 4 0 ++ leBytes 2 1 ++ leBytes 2 1 ++ leBytes 4 (crc32c [2]) ++ [1, 0, 0, 0] else leBytes 4 0 ++ leBytes 2 1 ++ leBytes 2 1 ++ leBytes 4 (crc32c [2]) ++ zeros 4
  let code : Bytes := zeros 0x41 ++ [1] ++ zeros 190 ++ [1] ++ zeros 15
  let tens (n kr fmt kind blocks : Nat) : Bytes := leBytes 4 n ++ leBytes 4 kr ++ [BitVec.ofNat 8 fmt, BitVec.ofNat 8 kind] ++ leBytes 2 0xFFFF ++ leBytes 4 blocks ++ leBytes 8 336 ++ leBytes 8 384 ++ leBytes 8 (if raw then 0 else 448) ++ zeros 8
  (leBytes 4 0x53575744 ++ [1, 0, 0, 0] ++ leBytes 2 1 ++ leBytes 2 3 ++ zeros 4 ++ leBytes 8 720 ++ leBytes 8 128 ++ leBytes 8 192 ++ zeros 88)
    ++ (leBytes 4 128 ++ [0, 1, 1, 1] ++ leBytes 2 32 ++ [0, 0] ++ leBytes 4 0x3F800000 ++ leBytes 2 0 ++ leBytes 2 0 ++ leBytes 2 0 ++ leBytes 2 1 ++ leBytes 2 2 ++ List.replicate 10 0xFF ++ zeros 28)
    ++ tens 32 128 1 0 8 ++ tens 128 32 1 0 8 ++ tens 128 1 0 2 1 ++ idx ++ zeros 32 ++ [2] ++ zeros 63 ++ code
/-- The set with its layer streaming, and its node. -/
def tStreaming (raw : Bool) (refetch : List Nat) : WSet :=
  ⟨0, 0, tClear raw, [], true, [], 0, 720, [0], [⟨[], some 0, 0, []⟩], [], [⟨0, refetch, 0, 0, 0⟩], [], [], [], [], [], []⟩
def tStreamNode (raw : Bool) (refetch : List Nat) : Node := let n := tNode tBlockCmd; { n with wts := { n.wts with sets := [(7, tStreaming raw refetch)], uses := [(1, 7, 0)] } }
theorem test_witness_BlocksReachTheirSlotOrFailTheirCommands_expand :
    let n := tStreamNode false []
    let w := tStreaming false []
    (streamOf w.image 0).findIdx (fun e => e == (0, 0)) = 1 ∧ (streamOf w.image 0)[1]? = some (0, 0) ∧ usable n w = true ∧ n.mic.expOut.contains 1 = false ∧ expanderOf n 1 = some 1 ∧ ixRaw (idxEnt n 7 w 0 0) = false
    ∧ crcBad n 7 w 0 0 false false = none ∧ crcBad n 7 w 0 0 true false = some 7 ∧ ownBlock n 7 w 0 0 = some [0x41] ∧ (expandedBlock n 7 w 0 0).isSome = true := by decide +kernel
theorem test_witness_BlocksReachTheirSlotOrFailTheirCommands_bad :
    let w : WSet := { tStreaming false [] with image := (tClear false).take 384 ++ [1] ++ (tClear false).drop 385 }
    crcBad Node.reset 7 w 0 0 false false = some 7 ∧ decodeBlock [1] [0xFF] 1 = none := by decide +kernel
theorem test_witness_BlocksReachTheirSlotOrFailTheirCommands_refetch :
    let n := tStreamNode true [1]
    let w := tStreaming true [1]
    ixRaw (idxEnt n 7 w 0 0) = true ∧ crcBad n 7 w 0 0 false false = none ∧ (crcBad n 7 w 0 0 true false).isSome = true ∧ needers (bump n (Rg.expErrCrcFail 1) 1) 7 0 = [1] ∧ (streamOf w.image 0)[1]? = some (0, 0) := by decide +kernel

/-- A directory command on one entry at 4,096 of host memory, its results at 8,192. -/
def tPd (op : Nat) : Cmd := tCmd op (leBytes 8 4096 ++ leBytes 2 1 ++ zeros 6 ++ leBytes 8 8192)
/-- Its node: key 5, the second word 9, and the array given. -/
def tPdNode (op : Nat) (l : NMap PdxEnt) : Node :=
  let n := tNode (tPd op)
  { n with hmem := [(hostKey (reqSpace (.host 0 0)) 4096, 5), (hostKey (reqSpace (.host 0 0)) 4104, 9)], pdx := { n.pdx with slots := l } }
theorem test_witness_PrefixLookupsInsertionsAndRebalancesDoWhatTheyName_lookup :
    let n := tPdNode opPdLookup [(3, ⟨5, 9, 1⟩)]
    let c := tPd opPdLookup
    Runs n 1 opPdLookup c ∧ pdHeld n c = false ∧ mult (c.f 24 8) 8 = true ∧ c.f 32 2 = 1 ∧ c.f 34 1 = 0 ∧ rsv c 35 39 = [] ∧ mult (c.f 40 8) 16 = true ∧ rsv c 48 63 = [] ∧ ofLe (hostRead n c.mem (c.f 24 8) 8) = 5 := by decide +kernel
theorem test_witness_PrefixLookupsInsertionsAndRebalancesDoWhatTheyName_insert :
    let c := tPd opPdInsert
    (∀ l ∈ [[], [(3, ⟨5, 9, 1⟩)], [(3, ⟨5, 9, 0⟩)]], let n := tPdNode opPdInsert l
      Runs n 1 opPdInsert c ∧ pdHeld n c = false ∧ pdOffs n c false = [] ∧ pdEntries n c = [(5, 9)] ∧ pdEnt (5, 9) = ⟨5, 9, 0⟩ ∧ pdxCount n < rd n Rg.pdxCfgLimit ∧ inMap n 0 = false)
    ∧ (placeEntry (mdel [(3, ⟨5, 9, 1⟩)] 3) ⟨5, 9, 0⟩).isSome = true ∧ (placeEntry [] ⟨5, 9, 0⟩).isSome = true ∧ fpnNode 9 = 0 := by decide +kernel
theorem test_witness_PrefixLookupsInsertionsAndRebalancesDoWhatTheyName_own :
    let n := tPdNode opPdInsert []
    let m (f : Nat) : Node := { n with map := { n.map with map := { n.map.map with nodes := [(0, ⟨1, false, false, false, false, 0xFFFF, 0, 0xFFFF, 0, 0⟩)] } }, ter := { n.ter with pages := [(9, { tPage n with fill := f, pref := true })] } }
    inMap (m 64) 0 = true ∧ fpnNode 9 = nodeId (m 64) ∧ pdEligible (m 64) 9 = true ∧ pdEligible (m 0) 9 = false ∧ inMap (m 0) 0 = true ∧ rd { n with bank := n.bank.put 0xA00004 0 } Rg.pdxCfgLimit = 0 := by decide +kernel
theorem test_witness_PrefixLookupsInsertionsAndRebalancesDoWhatTheyName_waits :
    placeEntry ((List.range 64).map fun a => (a, ⟨4, a, 0⟩)) ⟨5, 9, 0⟩ = none := by decide +kernel
theorem test_witness_PrefixLookupsInsertionsAndRebalancesDoWhatTheyName_delete :
    let n := tPdNode opPdDelete [(3, ⟨5, 9, 1⟩)]
    Runs n 1 opPdDelete (tPd opPdDelete) ∧ pdHeld n (tPd opPdDelete) = false ∧ pdOffs n (tPd opPdDelete) true = [] ∧ pdEntries n (tPd opPdDelete) = [(5, 9)] := by decide +kernel
theorem test_witness_PrefixLookupsInsertionsAndRebalancesDoWhatTheyName_compare :
    Pdx.reset.cmpTick ≤ State.reset.tck.tick ∧ (3 / 64 + 16384 - Pdx.reset.cmpNext) % 16384 < rd Node.reset Rg.pdxScrubCfgSegs ∧ Pdx.reset.cmpNext + rd Node.reset Rg.pdxScrubCfgSegs < 16384 ∧ Pdx.reset.job = none := by decide +kernel

/-- A node with head 0 linked, which holds extent 4,096 read-write, and the line entries given. -/
def tCxl (d : NMap DirEnt) : Node := { Node.reset with cxd := { Cxd.reset with heads := [(0, ⟨true, 256, 0, 0⟩)], exts := [(4096, ⟨2, 1, 0, 1, 0, 0, []⟩)], dir := d } }
theorem test_witness_HostRequestsAreServedCoherently_idle : ∀ d, CxdIdle (tCxl d) := by
  intro d
  refine ⟨rfl, rfl, fun e => ?_⟩
  show (mgetD [(4096, (⟨2, 1, 0, 1, 0, 0, []⟩ : Extent))] e ⟨0, 0, 0, 0, 0, 0, []⟩).revoking = 0
  simp only [mgetD, mget?]
  by_cases h : 4096 = e <;> simp [h]
theorem test_witness_HostRequestsAreServedCoherently_read :
    let n := tCxl []
    let line := region1 / 64
    (headOf n 0).link = true ∧ headIsLost n 0 = false ∧ rd n (Rg.cxdHostLimitRate 0) = 0 ∧ denyOf n 0 0 (line * 64) = 0 ∧ denyOf n 0 0 0 ≠ 0 ∧ lineSnooped n line = false
    ∧ (∀ k ∈ [0, 1, 2], needs n ⟨0, k, line * 64, [], 0, false, false, 0, []⟩ = [] ∧ wanted n ⟨0, k, line * 64, [], 0, false, false, 0, []⟩ = k) ∧ victim n line = none
    ∧ needs (tCxl [(line, ⟨false, 2, 0⟩)]) ⟨0, 1, line * 64, [], 0, false, false, 0, []⟩ = [] ∧ wanted (tCxl [(line, ⟨false, 2, 0⟩)]) ⟨0, 1, line * 64, [], 0, false, false, 0, []⟩ = 1
    ∧ mget? (tCxl [(line, ⟨true, 2, 0⟩)]).cxd.dir line = some ⟨true, 2 ^ 1, 0⟩ := by decide +kernel
theorem test_witness_HostRequestsAreServedCoherently_write :
    let n := tCxl []
    denyOf n 0 3 region1 = 0 ∧ denyOf n 0 3 0 ≠ 0 ∧ lineSnooped n (region1 / 64) = false ∧ needs n ⟨0, 3, region1, [1], 1, false, false, 0, []⟩ = [] ∧ wanted n ⟨0, 3, region1, [1], 1, false, false, 0, []⟩ = 1
    ∧ mhas n.mic.poisonD 0 = false ∧ (let m : Node := { n with cxd := { n.cxd with exts := [(0, ⟨2, 1, 0, 1, 0, 0, [(8192, 268435456)]⟩)] } }
      denyOf m 0 3 64 = 0 ∧ needs m ⟨0, 3, 64, [1], 0, false, false, 0, []⟩ = [] ∧ wanted m ⟨0, 3, 64, [1], 0, false, false, 0, []⟩ = 0 ∧ bsuOwned m (resolve m 64) = false ∧ resolve m 64 = 8256 ∧ m.mic.retired.contains (pchOf 8256) = false ∧ m.mic.poison = [] ∧ m.seqs.open_ = []) := by decide +kernel
theorem test_witness_HostRequestsAreServedCoherently_write_idle : CxdIdle { tCxl [] with cxd := { (tCxl []).cxd with exts := [(0, ⟨2, 1, 0, 1, 0, 0, [(8192, 268435456)]⟩)] } } := by
  refine ⟨rfl, rfl, fun e => ?_⟩
  show (mgetD [(0, (⟨2, 1, 0, 1, 0, 0, [(8192, 268435456)]⟩ : Extent))] e ⟨0, 0, 0, 0, 0, 0, []⟩).revoking = 0
  simp only [mgetD, mget?]
  by_cases h : 0 = e <;> simp [h]
theorem test_witness_HostRequestsAreServedCoherently_response :
    ∀ line ∈ [1, region1 / 64], let n := tCxl [(line, ⟨true, 1, 0⟩)]
    (({ n with cxd := { n.cxd with snoops := [⟨line, 0, false, 0⟩] } } : Node).cxd.snoops.find? fun y => y.line == line && y.head == 0).isSome = true ∧ mget? n.cxd.dir line = some ⟨true, 1, 0⟩ ∧ bitAt 1 0 = true := by decide +kernel
theorem test_witness_HostRequestsAreServedCoherently_credit :
    let q : CxlReq := ⟨0, 0, region1, [], 0, false, false, 0, []⟩
    let n := wr (tCxl []) (Rg.cxdHostLimitRate 0) 1
    let m : Node := { n with cxd := { n.cxd with heads := [(0, ⟨true, 0, 0, 0⟩)] } }
    rd n (Rg.cxdHostLimitRate 0) ≠ 0 ∧ 256 ≤ (filledHead State.reset.tck n 0).credit ∧ (filledHead State.reset.tck m 0).credit < 256 ∧ lineSnooped n (q.dpa / 64) = false ∧ needs n q = [] ∧ wanted n q = 0 := by decide +kernel

/-- A node with heads 0 and 1 linked and one extent, with room for backing. -/
def tExtent (e : Nat) (x : Extent) : Node := wr { Node.reset with cxd := { Cxd.reset with heads := [(0, ⟨true, 256, 0, 0⟩), (1, ⟨true, 256, 0, 0⟩)], exts := [(e, x)] } } Rg.cxdCfgT1Max 1
theorem test_witness_ExtentsAreOfferedAcceptedRevokedAndFreed_offer :
    let n := tExtent 0 ⟨0, 0, 0, 0, 0, 0, []⟩
    Writable n ∧ extMayWrite n .mgmt = true ∧ extMayWrite n (.host 0 0) = false ∧ extExists n 0 = true ∧ extExists n 4095 = false ∧ (extentOf n 0).state = 0 ∧ (∀ h ∈ bitList 4 3, (headOf n h).link = true) ∧ backedCount n < rd n Rg.cxdCfgT1Max := by decide +kernel
theorem test_witness_ExtentsAreOfferedAcceptedRevokedAndFreed_direct :
    let n := wr (tExtent 0 ⟨0, 0, 0, 0, 0, 0, []⟩) Rg.terT2PartDirect 1
    extExists n 4096 = true ∧ (extentOf n 4096).state = 0 := by decide +kernel
theorem test_witness_ExtentsAreOfferedAcceptedRevokedAndFreed_room :
    let n := tExtent 0 ⟨0, 0, 0, 0, 0, 0, []⟩
    (takeRuns { n with mic := { n.mic with stacksOut := [1, 2, 3, 4, 5, 6, 7], retired := (List.range 128).drop 1 } } extBytes (List.range 1024)).isSome = true := by decide +kernel
theorem test_witness_ExtentsAreOfferedAcceptedRevokedAndFreed_held :
    let n := tExtent 4096 ⟨2, 3, 0, 1, 0, 0, []⟩
    extPinned n 4096 = false ∧ extPinned { n with bsu := { n.bsu with frames := [(4096, 2)] }, cxd := { n.cxd with exts := [(5, ⟨2, 3, 0, 1, 0, 0, [(0, 8192)]⟩)] } } 5 = true ∧ CxdIdle { Node.reset with cxd := Cxd.reset } = CxdIdle Node.reset
    ∧ (extentOf n 4096).state = 2 ∧ (extentOf (tExtent 4096 ⟨1, 3, 0, 0, 0, 0, []⟩) 4096).state = 1 ∧ n.cxd.dir = [] ∧ andMask 1 1 ≠ 0 ∧ andMask 2 1 = 0 ∧ (headOf n 1).link = true ∧ headIsLost n 1 = false ∧ bitAt (extentOf n 4096).hosts 1 = true
    ∧ bitAt (extentOf n 4096).accepted 1 = false ∧ n.cxd.zeroing = [] ∧ headIsLost (wr n (Rg.cxdHostStatusLost 0) 1) 0 = true ∧ drained (tExtent 4096 ⟨3, 3, 0, 1, 1, 0, []⟩) 4096 ⟨3, 3, 0, 1, 1, 0, []⟩ = true := by
  refine ⟨by decide +kernel, by decide +kernel, rfl, ?_⟩
  decide +kernel
theorem test_witness_ExtentsAreOfferedAcceptedRevokedAndFreed_idle : CxdIdle (tExtent 4096 ⟨2, 3, 0, 1, 0, 0, []⟩) := by
  refine ⟨rfl, rfl, fun e => ?_⟩
  show (mgetD [(4096, (⟨2, 3, 0, 1, 0, 0, []⟩ : Extent))] e ⟨0, 0, 0, 0, 0, 0, []⟩).revoking = 0
  simp only [mgetD, mget?]
  by_cases h : 4096 = e <;> simp [h]

/-- A node whose head 0 holds one line of extent 4,096 in E, has missed its heartbeat and a snoop. -/
def tLost : Node :=
  let n := tCxl [(region1 / 64, ⟨true, 1, 0⟩)]
  wr { n with cxd := { n.cxd with snoops := [⟨region1 / 64, 0, false, 0⟩] } } (Rg.cxdHostCfgHbTicks 0) 1
theorem test_witness_HeadsAreLostRejoinAndPagesArePublished_lost :
    let t : Tck := { State.reset.tck with now := 2 ^ 40 }
    (headOf tLost 0).link = true ∧ headIsLost tLost 0 = false ∧ beatEnded t tLost 0 = true ∧ beatEnded State.reset.tck tLost 0 = false ∧ Writable tLost ∧ (tLost.cxd.snoops.find? fun y => y.line == region1 / 64 && y.head == 0).isSome = true
    ∧ 0 + rd tLost Rg.cxdCfgRecallTo ≤ t.notches ∧ State.reset.tck.notches < 0 + rd tLost Rg.cxdCfgRecallTo := by decide +kernel
theorem test_witness_HeadsAreLostRejoinAndPagesArePublished_idle : CxdIdle tLost := by
  refine ⟨rfl, rfl, fun e => ?_⟩
  show (mgetD [(4096, (⟨2, 1, 0, 1, 0, 0, []⟩ : Extent))] e ⟨0, 0, 0, 0, 0, 0, []⟩).revoking = 0
  simp only [mgetD, mget?]
  by_cases h : 4096 = e <;> simp [h]
theorem test_witness_HeadsAreLostRejoinAndPagesArePublished_rejoin :
    let n := wr (tCxl []) (Rg.cxdHostStatusLost 0) 1
    Writable n ∧ headIsLost n 0 = true ∧ (headOf n 0).link = true := by decide +kernel
theorem test_witness_HeadsAreLostRejoinAndPagesArePublished_publish :
    let n := wr (tCxl []) Rg.cxdPubDstExt 4096
    let m : Node := { n with ter := { n.ter with pages := [(0, { tPage n with pref := true })] } }
    Writable m ∧ m.cxd.pub = none ∧ rd m Rg.cxdPubFpnLoFpn = 0 ∧ rd m Rg.cxdPubFpnHiFpn = 0 ∧ rd m Rg.cxdPubDstFrame = 0 ∧ fpnNode 0 = nodeId m ∧ pageAt m 0 = some { tPage n with pref := true } ∧ (extentOf m 4096).state = 2 ∧ (extentOf m 0).state ≠ 2
    ∧ heldLines m true (4096 * extBytes) 8192 = [] ∧ runPoisons m.mic.poison 0 8192 = [] ∧ rd m Rg.cxdPubDstExt = 4096 := by decide +kernel

/-- A READY queue pair of a type toward node 2, its pair 9 there. -/
def tQp (typ : Nat) : Qp := { newQp State.reset.tck Node.reset 5 typ 0 (.host 0 0) 2 (some 9) 2 with st := 1 }
/-- A node with queue pair 5, fabric port 0 up and transport slot 1 ACTIVE. -/
def tQst (x : Qp) : Node := wr (wr { Node.reset with qst := { Qst.reset with qps := [(5, x)], cache := [5] } } (Rg.secSlotState 1) 2) (Rg.qstPortStatusUp 0) 1
/-- A message of one segment. -/
def tMsg : SendMsg := newMsg 1 1 (zeros 8) none 0 0 1 none []
/-- The same with its segments sent on path 0 at time 0, at an attempt. -/
def tSentMsg (try_ : Nat) : SendMsg := { tMsg with key := some 1, segs := [⟨true, false, 0, 0, try_, 0, 0⟩] }
theorem test_witness_SegmentsAreSentAndResentUnderTheWindow_send :
    let x : Qp := { tQp 3 with sends := [tMsg], msn := 2 }
    let y : Qp := { x with cwnd := 8, sends := [{ tSentMsg 0 with msn := 1 }, { tMsg with msn := 2 }] }
    qpOf (tQst x) 5 = some x ∧ x.st = 1 ∧ nextSeg x = some (tMsg, 0) ∧ unackedBytes x = 0 ∧ activeSlot (tQst x) = some 1 ∧ linkOf (tQst x) 2 (nextPath State.reset.tck x) = some (.fp 0)
    ∧ nextSeg y = some ({ tMsg with msn := 2 }, 0) ∧ unackedBytes y ≠ 0 ∧ y.cwnd < unackedBytes y + segBytes 8 0 := by decide +kernel
theorem test_witness_SegmentsAreSentAndResentUnderTheWindow_own :
    let n : Node := { Node.reset with qst := { Qst.reset with qps := [(5, tQp 3)], cache := [5] } }
    ownQp n 3 2 = some 5 ∧ (tQp 3).sends = [] ∧ activeSlot n = none := by decide +kernel
theorem test_witness_SegmentsAreSentAndResentUnderTheWindow_ack :
    let x : Qp := { tQp 3 with sends := [tSentMsg 0], msn := 2 }
    linkUp (tQst x) (.fp 0) = true ∧ rd (tQst x) (Rg.secSlotState 1) = 2 ∧ x.wrs = [] ∧ (∀ sg ∈ (tSentMsg 0).segs, sg.sent = true) ∧ 1 < field (leBytes 6 2 ++ zeros 50) 0 6 ∧ field (leBytes 6 2 ++ zeros 50) 14 2 = 0 := by decide +kernel
theorem test_witness_SegmentsAreSentAndResentUnderTheWindow_resend :
    let x : Qp := { tQp 3 with sends := [tSentMsg 0], msn := 2 }
    x.sends.find? (·.msn == 1) = some (tSentMsg 0) ∧ max (2 * x.srtt) (rd (tQst x) Rg.qstRtxCfgRtoMin * unitsPerNotch 3) = 32000 ∧ linkOf (tQst x) 2 (nextPath State.reset.tck (holdPath State.reset.tck (tQst x) x 0)) = some (.fp 0)
    ∧ (∀ sg ∈ (tSentMsg 0).segs, sg.try_ < 7) ∧ (∀ sg ∈ (tSentMsg 7).segs, 7 ≤ sg.try_) := by decide +kernel

/-- A segment from queue pair 9 of node 2 to queue pair 5, under key slot 1. -/
def tSeg (op len : Nat) (b : Bytes) : Seg := ⟨op, false, false, 0, 0, 5, 9, 2, 1, 1, 0, len, if op = 2 then 256 else 0, 0, 0, 0, 0, 0, b, false⟩
/-- The node of `tQst` with region 1, key 256, of a host half. -/
def tQstMr (x : Qp) : Node := { tQst x with qst := { (tQst x).qst with mrs := [(1, ⟨0, 0, 8192, 0, 1, 0, .host 0 0⟩)] } }
theorem test_witness_SegmentsArePlacedRefusedAndAcknowledged_write :
    let n := tQstMr (tQp 0)
    let g := tSeg 2 4100 (zeros 4096)
    qpOf n 5 = some (tQp 0) ∧ (tQp 0).st = 1 ∧ g.payload.length = min 4096 (g.len - g.off) ∧ (∃ r, regionOf n 256 = some r ∧ r.pd = (tQp 0).pd ∧ bitAt r.access 0 = true ∧ r.covers 0 4100 = true ∧ r.space = 0 ∧ r.covers 8000 4100 = false)
    ∧ (tQp 0).since + 1 < rd n Rg.qstRtxCfgAckSegs ∧ linkUp n (.fp 0) = true ∧ rd n (Rg.secSlotState 1) = 2 := ⟨rfl, rfl, List.length_replicate, ⟨_, rfl, by decide +kernel⟩, by decide +kernel⟩
theorem test_witness_SegmentsArePlacedRefusedAndAcknowledged_refuse :
    let n := tQst (tQp 0)
    ackSlot n = some 1 ∧ linkOf n 2 (0 % max (tQp 0).paths 1) = some (.fp 0) ∧ regionOf n 256 = none ∧ missBytes n (.fp 0) + segLen (tSeg 1 8 (zeros 8)) ≤ 65536 := by decide +kernel
theorem test_witness_SegmentsArePlacedRefusedAndAcknowledged_done : (tQp 3).typ = 3 ∧ (tQp 3).inOrder = false ∧ (tQp 3).recvs = [] ∧ (tSeg 1 8 (zeros 8)).seq = (tQp 3).base ∧ (tSeg 1 8 (zeros 8)).payload.length = 8 := by decide +kernel
theorem test_witness_SegmentsArePlacedRefusedAndAcknowledged_late :
    let x : Qp := { tQp 3 with first := some (0, 1, 0, 0) }
    0 + rd (tQst x) Rg.qstRtxCfgAckDelay * unitsPerNotch 3 ≤ 4000 ∧ byteAt (leBytes 6 1 ++ leBytes 1 4 ++ zeros 5) 6 = 4 := by decide +kernel
theorem test_witness_SegmentsArePlacedRefusedAndAcknowledged_renew :
    let x : Qp := { tQp 3 with st := 2 }
    freeQpn (dropQp (tQst x) 5) = some 0 ∧ 2 ≤ x.typ ∧ x.errTick < 1 ∧ rd (tQst x) (Rg.secSlotState 1) ≠ 0 := by decide +kernel

/-- A HOST pair with rings of 16 entries, its send queue in the region of `tQstMr`. -/
def tHostQp : Qp := { tQp 0 with sqLog2 := 4, rqLog2 := 4, cqLog2 := 4, sqKey := 256, sqAddr := 0 }
/-- A work request: opcode and length, data at 0x100 of region key 256. -/
def tWr (op len : Nat) : Bytes := padTo 64 (leBytes 1 op ++ zeros 3 ++ leBytes 4 len ++ leBytes 4 (if op = 15 then 0 else 256) ++ zeros 4 ++ leBytes 8 (if op = 15 then 0 else 256))
/-- The node with that pair, and a work request at the head of its send queue. -/
def tWrNode (w : Bytes) : Node := { tQstMr tHostQp with hmem := Mem.write 0 [] (hostKey (reqSpace (.host 0 0)) 0) w }
theorem test_witness_WorkRequestsStartAndChainsFireOrExpire_tail :
    regsShut (tQstMr tHostQp) = false ∧ mayUse (.host 0 0) (.host 0 1) = true ∧ mayUse (.host 0 0) (.host 1 0) = false ∧ tHostQp.sqDone = tHostQp.sqTail ∧ tHostQp.st ≠ 2 ∧ tHostQp.wrs = [] := by decide +kernel
theorem test_witness_WorkRequestsStartAndChainsFireOrExpire_read : ∀ op ∈ [1, 15],
    let w := tWr op (if op = 15 then 0 else 4)
    ∃ r, regionOf (tWrNode w) 256 = some r ∧ mrRead (tWrNode w) r 0 64 = w ∧ wrOk (tWrNode w) tHostQp w = true ∧ byteAt w 0 = op ∧ bitAt (byteAt w 1) 0 = false := by
  intro op hop
  refine ⟨⟨0, 0, 8192, 0, 1, 0, .host 0 0⟩, rfl, ?_⟩
  revert op
  decide +kernel
theorem test_witness_WorkRequestsStartAndChainsFireOrExpire_post :
    let c := tCmd opTriggerPost (leBytes 8 7 ++ leBytes 4 1 ++ leBytes 4 5 ++ leBytes 2 1)
    let n : Node := { tQstMr tHostQp with fe := { Front.reset with cmds := [c] } }
    Runs n 1 opTriggerPost c ∧ triggerOffs n c = [] ∧ c.f 36 4 = 5 ∧ tHostQp.typ < 2 := by decide +kernel
theorem test_witness_WorkRequestsStartAndChainsFireOrExpire_fire :
    let c : HostChain := ⟨1, 5, 7, 1, 1, [tWr 1 4], 0, false, 1⟩
    [c].find? (·.handle == 1) = some c ∧ c.threshold ≤ c.count ∧ ({ c with count := 0 } : HostChain).count < c.threshold ∧ c.expire ≤ State.reset.tck.tick := by decide +kernel

/-- A node with argument words in the mailbox. -/
def tArgs (n : Node) (l : List (Nat × Nat)) : Node := l.foldl (fun m e => wr m (Rg.qstObjArgArg e.1) e.2) n
theorem test_witness_ObjectsAreCreatedUsedAndDestroyed_denied :
    regsShut (wr Node.reset Rg.secStatusState tsErasing) = false ∧ tenantState (wr Node.reset Rg.secStatusState tsErasing) = tsErasing ∧ tenantState (wr Node.reset Rg.secStatusState tsFencing) = tsFencing ∧ regsShut Node.reset = false
    ∧ tenantState Node.reset ≠ tsFencing ∧ tenantState Node.reset ≠ tsErasing := by decide +kernel
/-- A node with domain 0 of a host half. -/
def tPds (n : Node) : Node := { n with qst := { n.qst with pds := [(0, .host 0 0)] } }
theorem test_witness_ObjectsAreCreatedUsedAndDestroyed_domain :
    mhas Node.reset.qst.pds 0 = false ∧ mget? Node.reset.qst.pds (field (objArgs Node.reset) 0 4) = none ∧ mget? (tPds Node.reset).qst.pds (field (objArgs Node.reset) 0 4) = some (.host 0 0) ∧ mayUse (.host 0 0) (.host 1 0) = false
    ∧ mayUse (.host 0 0) (.host 0 0) = true ∧ ∃ e ∈ (tPds (tQstMr (tQp 0))).qst.mrs, e.2.pd = 0 := by decide +kernel
theorem test_witness_ObjectsAreCreatedUsedAndDestroyed_full : ∃ m : NMap Req, ∀ k, k < 4096 → mhas m k = true := by
  refine ⟨(List.range 4096).map fun k => (k, .mgmt), fun k hk => ?_⟩
  have : ∀ (l : List Nat), k ∈ l → (mget? (l.map fun k => (k, (Req.mgmt))) k).isSome = true := by
    intro l
    induction l with
    | nil => intro h; cases h
    | cons a l ih =>
      intro h
      rw [List.map_cons, mget?]
      split
      · rfl
      · rename_i hne; exact ih (by rcases List.mem_cons.mp h with rfl | h; exact absurd rfl hne; exact h)
  exact this _ (List.mem_range.mpr hk)
theorem test_witness_ObjectsAreCreatedUsedAndDestroyed_region :
    let n := tArgs (tPds Node.reset) [(2, 4096), (4, 0x100)]
    let a := objArgs n
    regionOk n a (.host 0 0) = true ∧ byteAt a 16 ≠ 1 ∧ freeRegion n = some (0, 1) ∧ (∃ r, regionOf (tArgs (tQstMr (tQp 0)) [(0, 256)]) (field (objArgs (tArgs (tQstMr (tQp 0)) [(0, 256)])) 0 4) = some r) := by
  refine ⟨by decide +kernel, by decide +kernel, by decide +kernel, ?_⟩
  exact Option.isSome_iff_exists.mp (by decide +kernel)
theorem test_witness_ObjectsAreCreatedUsedAndDestroyed_pair :
    let n := tPds { Node.reset with qst := { Qst.reset with mrs := [(1, ⟨0, 0, 8192, 0, 2, 0, .host 0 0⟩)] } }
    let m := tArgs n [(0, 2), (1, 9), (2, 0x00040002), (3, 0x00010400), (4, 256), (6, 256), (7, 0xFFFF), (12, 4096)]
    let a := objArgs m
    qpDescOk m a = true ∧ foreignRegion m (.host 0 0) 256 = false ∧ freeQpn m = some 0 := by decide +kernel
theorem test_witness_ObjectsAreCreatedUsedAndDestroyed_connect :
    let n := tArgs { Node.reset with qst := { Qst.reset with qps := [(5, { tQp 0 with st := 0 })] } } [(0, 5), (1, 9)]
    field (objArgs n) 0 4 = 5 ∧ (qpOf n 5).isSome = true ∧ field (objArgs n) 4 4 < 0xFFFFF ∧ (tQp 0).wrs = [] ∧ (tQp 0).typ < 2 ∧ 2 ≤ (tQp 3).typ ∧ (tQp 0).st ≠ 0 ∧ rd (tQst (tQp 0)) (Rg.secSlotState 1) ≠ 0 := by decide +kernel

/-- A node whose start-up has passed training. -/
def tPhase (n : Node) : Node := wr n Rg.nidBootPhase 4
theorem test_witness_PortsAndBoardLinksComeUpAnswerAndGoDown_port :
    let n := wr (tPhase Node.reset) (Rg.qstPortCfgMedia 0) 2
    rd n Rg.nidBootPhase = 4 ∧ rd n (Rg.qstPortCfgEn 0) = 1 ∧ rd n (Rg.qstPortCfgMedia 0) = 2 ∧ n.qst.absent = [] ∧ rd n (Rg.qstPortStatusShed 0) = 0 ∧ rd n (Rg.qstPortStatusUp 0) = 0 ∧ n.svc.recal = []
    ∧ rd (wr n (Rg.qstPortStatusUp 0) 1) (Rg.qstPortStatusUp 0) = 1 ∧ (BitVec.ofNat 128 (nodeAddr n 0)).toNat = nodeAddr n 0
    ∧ (BitVec.ofNat 128 1).toNat ≠ nodeAddr (wr n Rg.qstPfxLoPfx 7) 0 ∧ (BitVec.ofNat 128 (linkLocal 0)).toNat = linkLocal (rd n (Rg.qstPortGwLoIid 0) + rd n (Rg.qstPortGwHiIid 0) * 2 ^ 32) := by decide +kernel
theorem tLinkLocal (a : Nat) : 1 ≠ linkLocal a := by
  have h : ∀ k : Nat, 1 < k → 1 ≠ k + a := by intro k hk; omega
  exact h _ (by decide +kernel)
theorem test_witness_PortsAndBoardLinksComeUpAnswerAndGoDown_other : (BitVec.ofNat 128 1).toNat ≠ linkLocal (eui64 (Config.portMac 0)) := by
  rw [show (BitVec.ofNat 128 1).toNat = 1 from by decide +kernel]
  exact tLinkLocal _
theorem test_witness_PortsAndBoardLinksComeUpAnswerAndGoDown_link :
    let n := wr (tPhase Node.reset) (Rg.qstBlStatusUp 0) 1
    let m : Node := setBlink n 0 ⟨0, 0, [], [], 0, 8, false, false⟩
    rd n (Rg.qstBlStatusUp 0) = 1 ∧ (blinkOf n 0).rx = 0 ∧ (blinkOf n 0).replCount < 8 ∧ (blinkOf m 0).replTick = State.reset.tck.tick ∧ 8 ≤ (blinkOf m 0).replCount ∧ rd (tPhase Node.reset) (Rg.qstBlStatusUp 0) = 0
    ∧ (blinkOf n 0).retrained = false ∧ rd n Rg.nidNodeDomain = 0 := by decide +kernel

/-- A `NOP` with FENCE set that was accepted after another `NOP` of its ring. -/
def tFenced : Cmd := { tCmd opNop [] with entry := 1 :: 1 :: (tEntry opNop []).drop 2, handle := 2, seq := 1 }
theorem test_witness_FencedCommandsWaitForTheirRing :
    opcodeOf (.nop 2) = some (opNop, 2) ∧ findCmd { Node.reset with fe := { Front.reset with cmds := [tCmd opNop [], tFenced] } } 2 = some tFenced ∧ tFenced.stage = .dispatched
    ∧ Node.reset.bsu.owns = [] ∧ bitAt (tFenced.f 1 1) 0 = true ∧ (tCmd opNop []).ring = tFenced.ring ∧ (tCmd opNop []).seq < tFenced.seq := by decide +kernel

theorem test_witness_TheLeastTagIsDispatchedFirst :
    chosenHead (tNode { tCmd opNop [] with stage := .queued }) true true = some { tCmd opNop [] with stage := .queued } ∧ opcodes.contains (tCmd opNop []).op = true ∧ timed (tCmd opNop []).op = false
    ∧ findCmd (tNode { tCmd opNop [] with stage := .queued }) 1 = some { tCmd opNop [] with stage := .queued } ∧ opcodes.contains (tCmd 0x7F []).op = false
    ∧ (chosenHead (tNode { tCmd 0x7F [] with stage := .queued }) true true).isSome = true ∧ timed (tCmd opAttend []).op = true
    ∧ (tCmd opAttend []).deadline < ({ State.reset.tck with now := 2 ^ 40 } : Tck).tick ∧ heads (tNode (tCmd opNop [])) true true = [] := by decide +kernel

/-- A map of epoch 1 with nodes 0 to 4 IN, all of them keepers. -/
def tMap : FMap := ⟨1, 0, (List.range 5).map fun k => (k, { newNode 1 with state := 1 }), [], [], [], List.range 5, 3, 0⟩
/-- A node that holds it. -/
def tMapNode : Node := wr { Node.reset with map := { Node.reset.map with map := tMap } } Rg.mapEpochEpoch 1
theorem test_witness_KeepersAgreeOnEachEpochAndNodesHoldIt_prepare :
    let n : Node := { tMapNode with map := { tMapNode.map with acks := [(0, 0), (1, 0), (2, 0)] } }
    nodeId n ∈ n.map.map.keepers ∧ n.map.ballot = none ∧ mayCoordinate State.reset.tck n = true ∧ epochOf n = 1 := by decide +kernel
theorem test_witness_KeepersAgreeOnEachEpochAndNodesHoldIt_promise :
    let n : Node := { tMapNode with map := { tMapNode.map with ballot := some 8192, promises := [0, 1] } }
    2 ∈ n.map.map.keepers ∧ 2 ∉ n.map.promises ∧ n.map.ready = false ∧ n.map.reported = [] ∧ n.map.map.keepers.length / 2 + 1 ≤ n.map.promises.length + 1 ∧ n.map.promised ≤ 8192 := by decide +kernel
theorem test_witness_KeepersAgreeOnEachEpochAndNodesHoldIt_propose :
    let p : Proposal := ⟨0, 1, 0, none, [.period 2]⟩
    let n : Node := { tMapNode with map := { tMapNode.map with ballot := some 8192, ready := true, gathered := [p] } }
    newKeepers n = none ∧ n.map.inflight = none ∧ State.reset.tck.notch = 0 ∧ n.map.proposedAt ≠ some 0 ∧ stopped n = false ∧ epochOf n ≠ 0xFFFFFFFF ∧ epochOf (wr n Rg.mapEpochEpoch 0xFFFFFFFF) = 0xFFFFFFFF := by decide +kernel
theorem test_witness_KeepersAgreeOnEachEpochAndNodesHoldIt_quiet : QuietEpoch tMapNode (nextMap tMapNode.map.map 0 [⟨0, 1, 0, none, [.period 2]⟩]).1 := by
  refine ⟨by decide +kernel, by decide +kernel, by decide +kernel, by decide +kernel, ?_, by decide +kernel, by decide +kernel⟩
  intro k _
  have e : (nextMap tMapNode.map.map 0 [⟨0, 1, 0, none, [.period 2]⟩]).1.nodes = tMapNode.map.map.nodes := by decide +kernel
  have : stateIn (nextMap tMapNode.map.map 0 [⟨0, 1, 0, none, [.period 2]⟩]).1 k = stateIn tMapNode.map.map k := by unfold stateIn; rw [e]
  rw [this]; exact id

theorem test_witness_LivenessDecidesLossAndFencing_keeper :
    let n : Node := { tMapNode with map := { tMapNode.map with lastReport := [(3, 0)], ballot := some 8192, silent := [(3, [0, 1])] } }
    nodeId n ∈ n.map.map.keepers ∧ stateIn n.map.map 3 = 1 ∧ mget? n.map.lastReport 3 = some 0 ∧ 3 ∉ n.map.told ∧ 2 ∉ mgetD n.map.silent 3 [] ∧ 2 ∈ n.map.map.keepers ∧ n.map.ballot ≠ none ∧ 0 + rd n Rg.mapCfgLossTicks ≤ 64
      ∧ (mgetD n.map.silent 3 []).length + 1 = n.map.map.keepers.length / 2 + 1 ∧ State.reset.tck.tick % 16 = nodeId n % 16 ∧ State.reset.tck.notch = 0 ∧ stopped n = false := by decide +kernel
theorem test_witness_LivenessDecidesLossAndFencing_fence :
    rd tMapNode Rg.mapStatusFenced = 0 ∧ stateIn tMapNode.map.map (nodeId tMapNode) = 1 ∧ ackedWithin State.reset.tck tMapNode (rd tMapNode Rg.mapCfgLossTicks - 16) < tMapNode.map.map.keepers.length / 2 + 1
      ∧ (∀ c ∈ tMapNode.fe.cmds, c.op < 0x10 ∨ 0x60 ≤ c.op) := by decide +kernel
theorem test_witness_LivenessDecidesLossAndFencing_fence_end :
    let n : Node := wr { tMapNode with map := { tMapNode.map with acks := [(0, 0), (1, 0), (2, 0)] } } Rg.mapStatusFenced 1
    let m : Node := { n with map := { n.map with map := setNodeState n.map.map 0 4 } }
    rd n Rg.mapStatusFenced = 1 ∧ n.map.map.keepers.length / 2 + 1 ≤ ackedWithin State.reset.tck n (rd n Rg.mapCfgLossTicks - 16) ∧ stateIn n.map.map (nodeId n) ≠ 4
      ∧ rd m Rg.mapStatusFenced = 1 ∧ m.map.map.keepers.length / 2 + 1 ≤ ackedWithin State.reset.tck m (rd m Rg.mapCfgLossTicks - 16) ∧ stateIn m.map.map (nodeId m) = 4 ∧ m.map.ballot = none := by decide +kernel

/-- A change record in host memory at address 0: PERIOD 2. -/
def tChange : Bytes := [4, 0, 0, 0, 2] ++ zeros 27
theorem test_witness_MapCommandsDrainsRebuildsAndParity_propose :
    let c := tCmd opMapPropose (zeros 8 ++ [1, 0, 0, 0, 1, 0, 0, 0])
    let n : Node := { tMapNode with hmem := Mem.write 0 [] (hostKey (reqSpace (.host 0 0)) 0) tChange, fe := { Front.reset with cmds := [c] } }
    Runs n 1 opMapPropose c ∧ mult (c.f 24 8) 32 = true ∧ 1 ≤ c.f 32 2 ∧ c.f 32 2 ≤ 64 ∧ rsv c 34 35 = [] ∧ rsv c 40 47 = [] ∧ rsv c 48 63 = [] ∧ n.map.ballot = none ∧ epochOf n ≠ 0xFFFFFFFF
      ∧ ((List.range (c.f 32 2)).map fun i => parseChange (hostRead n c.mem (c.f 24 8 + 32 * i) 32)) = [Change.period 2].map some ∧ [Change.period 2].any (holdsMine n) = false := by decide +kernel
theorem test_witness_MapCommandsDrainsRebuildsAndParity_grant :
    let c := tCmd opSliceGrant ([5, 0, 0, 10, 0, 0, 0, 0, 1, 0, 4, 0] ++ [0xFF, 0, 0, 0] ++ [0xFF, 0, 0, 0, 0, 0, 0, 0] ++ [0, 1, 0, 0])
    let n : Node := { tMapNode with fe := { Front.reset with cmds := [c] } }
    Runs n 1 opSliceGrant c ∧ c.f 24 2 ≠ 0 ∧ c.f 26 1 ≤ 2 ∧ c.f 27 1 ≤ 100 ∧ c.f 28 2 < 8192 ∧ rsv c 30 31 = [] ∧ 1 ≤ c.f 32 2 ∧ c.f 32 2 + c.f 34 2 ≤ 256 ∧ rsv c 52 63 = [] ∧ c.f 26 1 ≠ 2 := by decide +kernel
theorem test_witness_MapCommandsDrainsRebuildsAndParity_drain : ∀ mode ∈ [0, 1],
    let c := tCmd opDrain [3, 0, 4, 0, mode]
    let n : Node := { tMapNode with fe := { Front.reset with cmds := [c] } }
    Runs n 1 opDrain c ∧ c.f 24 2 < 8192 ∧ c.f 26 2 < 8192 ∧ rsv c 29 63 = [] ∧ c.f 28 1 = mode.toNat := by decide +kernel
theorem test_witness_MapCommandsDrainsRebuildsAndParity_read :
    let c := tCmd opMapRead (zeros 8 ++ [0, 0, 1, 0])
    let n : Node := { tMapNode with fe := { Front.reset with cmds := [c] } }
    Runs n 1 opMapRead c ∧ mult (c.f 24 8) 64 = true ∧ rsv c 36 63 = [] ∧ (mapBytes n.map.map none).length ≤ c.f 32 4 ∧ 64 ≤ (mapBytes n.map.map none).length := by decide +kernel
/-- Node 0 drains to node 1; seen from node 0. -/
def tDraining : Node := { tMapNode with map := { tMapNode.map with map := modNode tMap 0 fun e => { e with state := 2, successor := 1 } } }
theorem test_witness_MapCommandsDrainsRebuildsAndParity_go_on :
    stopped tDraining = false ∧ fencedNode tDraining = false ∧ drainTo tDraining = some 1 ∧ tDraining.seqs.open_ = [] ∧ tDraining.ter.pages = [] ∧ tDraining.map.units = [] ∧ tDraining.map.drainTold = false ∧ tDraining.map.ballot = none
      ∧ takesDrain (wr tDraining Rg.nidNodeNodeId 1) = true := by decide +kernel
theorem test_witness_MapCommandsDrainsRebuildsAndParity_timeout : (0 : Nat) + rd tMapNode Rg.mapCfgProposeTicks * 1024 ≤ 2 ^ 40 := by decide +kernel
/-- Node 1 rebuilds the units of node 0, index 0 of group 2, of which nodes 2 and 3 survive. -/
def tRebuilding : Node :=
  let m := setNodeState (modNode (modNode { tMap with groups := [(2, ⟨[0, 2, 3], 1, 1⟩)] } 0 fun e => { e with group := 2, successor := 1 }) 3 fun e => { e with group := 2, gindex := 2 }) 0 4
  let n : Node := { tMapNode with map := { tMapNode.map with map := m, rebuild := some ⟨2, 0, 0, 0⟩, ballot := some 1, homesDone := [(2, [2, 3])] } }
  wr (wr n Rg.mapRebuildTotalUnits 1) Rg.nidNodeNodeId 1
theorem test_witness_MapCommandsDrainsRebuildsAndParity_rebuild :
    rd tRebuilding Rg.mapRebuildDoneUnits < rd tRebuilding Rg.mapRebuildTotalUnits ∧ stopped tRebuilding = false ∧ fencedNode tRebuilding = false
      ∧ survivorsOk 0 ((List.range 8).map fun k => (⟨k + 1, zeroUnit, []⟩ : Survivor)) = true ∧ mget? tRebuilding.map.map.groups 2 = some ⟨[0, 2, 3], 1, 1⟩
      ∧ homesOf tRebuilding.map.map ⟨[0, 2, 3], 1, 1⟩ = [1, 2, 3] ∧ (∀ k ∈ homesOf tRebuilding.map.map ⟨[0, 2, 3], 1, 1⟩, k = 1 ∨ k ∈ mgetD tRebuilding.map.homesDone 2 []) := by decide +kernel
theorem test_witness_MapCommandsDrainsRebuildsAndParity_parity :
    let n := wr tRebuilding Rg.nidNodeNodeId 3
    groupOf n = some (2, ⟨[0, 2, 3], 1, 1⟩) ∧ drainTo n = none ∧ gindexOf n = 2 % 10 ∧ gindexOf n = (1 + 1) % 10 := by decide +kernel

/-- TENANT_OPEN of tenant 1 with a bundle of 312 bytes at host address 0. -/
def tOpenTenant : Cmd := tCmd opTenantOpen ([1, 0] ++ zeros 14 ++ leBytes 4 312)
/-- Its node: a bundle of one transport key that keeps R365's layout. -/
def tBundleNode : Node := { tNode tOpenTenant with hmem := Mem.write 0 [] (hostKey (reqSpace (.host 0 0)) 0) (leBytes 4 0x544E4254 ++ [1, 0, 1]) }
theorem test_witness_TenantsAreOpenedSealedAndRemoved_open :
    let c := tOpenTenant
    let n := tBundleNode
    let b := hostRead n c.mem (c.f 32 8) (c.f 40 4)
    Runs n 1 opTenantOpen c ∧ c.f 24 2 ≠ 0 ∧ rsv c 26 31 = [] ∧ rsv c 44 63 = [] ∧ c.f 40 4 ≤ 408 ∧ tenantState n = tsEmpty ∧ bundleOk b (c.f 24 2) = true
      ∧ bundleOk (hostRead (tNode c) c.mem (c.f 32 8) (c.f 40 4)) (c.f 24 2) = false ∧ tenantState (wr n Rg.secStatusState tsSealed) ≠ tsEmpty ∧ Runs (wr n Rg.secStatusState tsSealed) 1 opTenantOpen c := by decide +kernel
theorem test_witness_TenantsAreOpenedSealedAndRemoved_seal :
    let n := wr { tNode (tRun tOpenTenant) with sec := { Sec.reset with opening := some (1, 0) } } Rg.secStatusState tsOpening
    Writable n ∧ tenantState n = tsOpening ∧ n.sec.opening = some (1, 0) ∧ State.reset.tck.tick < 0 + 65536 ∧ 0 + 65536 ≤ ({ State.reset.tck with now := 2 ^ 40 } : Tck).tick := by decide +kernel
/-- TENANT_CLOSE of a tenant, with FLAGS. -/
def tClose (tenant flags : Nat) : Cmd := tCmd opTenantClose (leBytes 2 tenant ++ leBytes 1 flags)
/-- A sealed node of tenant 1 that closes it by that command. -/
def tClosing (c : Cmd) : Node := wr (wr { tNode c with sec := { Sec.reset with closing := some (1, 0), slots := [(1, ⟨[], 0, none, none⟩)] } } Rg.secStatusTenant 1) Rg.secStatusState tsFencing
theorem test_witness_TenantsAreOpenedSealedAndRemoved_close :
    (∀ k ∈ [0, 1], Runs (tClosing (tClose 1 k)) 1 opTenantClose (tClose 1 k) ∧ (tClose 1 k).f 26 1 = k) ∧ (tClosing (tClose 1 1)).cxd.exts = [] ∧ (tClosing (tClose 1 1)).map.map.slices = []
    ∧ (∀ k ∈ [1, 2], let n := wr (tNode (tClose k 0)) Rg.secStatusTenant 1
        Runs n 1 opTenantClose (tClose k 0) ∧ n.sec.closing.map (·.1) ≠ some 1 ∧ rsv (tClose k 0) 27 63 = [] ∧ (tClose k 0).f 24 2 = k ∧ rd n Rg.secStatusTenant = 1) := by decide +kernel
theorem test_witness_TenantsAreOpenedSealedAndRemoved_erase :
    let n := tClosing (tRun (tClose 1 0))
    let m := { n with sec := { n.sec with fenced := true } }
    let t : Tck := { State.reset.tck with now := 2 ^ 40 }
    n.sec.fenced = false ∧ 0 + 1 ≤ t.tick ∧ mhas n.sec.slots 1 = true ∧ tenantState m = tsFencing ∧ t.at (0 + 1) 1 ≤ t.now ∧ m.sec.closing = some (1, 0)
      ∧ tenantState (wr m Rg.secStatusState tsErasing) = tsErasing ∧ m.svc.tokenWait = none := by decide +kernel

/-- A store of one tick of one record. -/
def tRecStore (sig : Option Bytes) : Node := { Node.reset with sec := { Sec.reset with store := [⟨0, [zeros 256], sig, false⟩] } }
theorem test_witness_RecordsAreSignedReadAndBound_sign :
    (tRecStore none).sec.store.find? (·.tick == 0) = some ⟨0, [zeros 256], none, false⟩ ∧ (0 : Nat) < ({ State.reset.tck with now := 2 ^ 40 } : Tck).tick ∧ State.reset.tck.tick ≤ 0 := by decide +kernel
/-- RECORD_GET of ticks 0 and on at address 4,096, with RELEASE and LEN. -/
def tRecordGet (ticks rel len : Nat) : Cmd := tCmd opRecordGet (zeros 8 ++ leBytes 2 ticks ++ leBytes 1 rel ++ zeros 5 ++ leBytes 8 4096 ++ leBytes 4 len)
theorem test_witness_RecordsAreSignedReadAndBound_get :
    (∀ rel ∈ [0, 1], ∀ len ∈ [0, 448], let c := tRecordGet 2 rel len
      let n := { tRecStore (some (zeros 96)) with fe := (tNode c).fe }
      Runs n 1 opRecordGet c ∧ 1 ≤ c.f 32 2 ∧ c.f 32 2 ≤ 1024 ∧ c.f 34 1 = rel ∧ rsv c 35 39 = [] ∧ mult (c.f 40 8) 64 = true ∧ rsv c 52 63 = [] ∧ c.f 48 4 = len
        ∧ n.sec.store.filter (fun r => c.f 24 8 ≤ r.tick && r.tick < c.f 24 8 + c.f 32 2 && r.sig.isSome) = n.sec.store ∧ unsigned ({ State.reset.tck with now := 256000 } : Tck) n 0 = false
        ∧ unsigned State.reset.tck n 0 = true) := by decide +kernel
theorem test_witness_RecordsAreSignedReadAndBound_block :
    ((tRecStore (some (zeros 96))).sec.store.flatMap fun r => recBlock (tRecStore none) r (r.sig.getD [])).length = 448 := by decide +kernel
theorem test_witness_RecordsAreSignedReadAndBound_held :
    let n : Node := { Node.reset with sec := { Sec.reset with held := [⟨1, 0, [], zeros 256⟩] } }
    recRoom State.reset.tck n = true ∧ recRoom State.reset.tck (wr n Rg.secRecCfgMib 0) = false := by decide +kernel
theorem test_witness_RecordsAreSignedReadAndBound_attest :
    let c := tCmd opAttest (zeros 16 ++ leBytes 4 4096)
    Runs (tNode c) 1 opAttest c ∧ mult (c.f 32 8) 64 = true ∧ c.f 44 1 ≤ 1 ∧ rsv c 45 63 = [] := by decide +kernel
theorem test_witness_RecordsAreSignedReadAndBound_bind :
    let c := tCmd opWeightsBind (leBytes 4 7 ++ zeros 12 ++ leBytes 4 480)
    (∀ b ∈ [true, false], let w := { tWSet with bound := b }
      let n : Node := { tNode c with wts := { Wts.reset with sets := [(7, w)] } }
      Runs n 1 opWeightsBind c ∧ setFor n c (c.f 24 4) = some w ∧ rsv c 28 31 = [] ∧ 1 ≤ c.f 40 4 ∧ c.f 40 4 ≤ 65536 ∧ rsv c 44 63 = []) := by decide +kernel

theorem test_witness_KeySlotsAndIdentityAnswer_slots :
    let x : KeySlot := ⟨[], 0, none, none⟩
    let n : Node := wr (wr { Node.reset with sec := { Sec.reset with slots := [(1, x), (2, { x with activate := some 0 })] } } (Rg.secSlotState 1) 2) (Rg.secSlotState 2) 1
    Writable n ∧ mayKey n .mgmt = true ∧ rdB n Rg.secKeyStatusBusy = false ∧ rd n (Rg.secSlotState 3) = 0 ∧ rd n (Rg.secSlotState 2) = 1 ∧ rd n (Rg.secSlotState 1) = 2
      ∧ mget? n.sec.slots 2 = some { x with activate := some State.reset.tck.tick } ∧ mayKey n (.qp 3) = false ∧ ({ x with destroyAt := some 0 } : KeySlot).destroyAt = some State.reset.tck.tick := by decide +kernel
theorem test_witness_KeySlotsAndIdentityAnswer_spdm :
    let n (p : Nat) : Node := { Node.reset with sec := { Sec.reset with spdm := [(0, (p, []))] } }
    ∀ p ∈ [0, 1, 2, 3], spdmOf (n p) 0 = (p, []) := by decide +kernel

theorem test_witness_ShedLadderHaltsAndThermalLevels_sag :
    (BitVec.ofInt 16 (-55)).toInt ≤ shedAt 3 ∧ ¬ (BitVec.ofInt 16 (-55)).toInt ≤ shedAt 4 ∧ ((List.range 6).filter fun i => (BitVec.ofInt 16 (-100)).toInt ≤ shedAt (i + 1)).length = 6
    ∧ Node.reset.pwr.step < 6 ∧ stopped Node.reset = false ∧ Tck.reset.state ≠ .locked ∧ mget? Node.reset.pwr.revTick 3 ≠ some State.reset.tck.tick := by decide +kernel
theorem test_witness_ShedLadderHaltsAndThermalLevels_back :
    let n : Node := { Node.reset with pwr := { Pwr.reset with step := 4 } }
    let t : Tck := { State.reset.tck with now := 256000 }
    reversible t n 4 = true ∧ ({ t with now := 256000 + 4000 } : Tck).notch ≠ 0 ∧ lastTickMin t { n.pwr with sag := -70 } ≤ shedBack 4
      ∧ reversible t { n with pwr := { n.pwr with step := 6, haltN := some 0 } } 6 = true ∧ 0 < t.tick ∧ rd n Rg.pwrStatusHaltCause ≤ 2 ∧ n.pwr.failN = false ∧ rd (wr n Rg.pwrStatusHaltCause 3) Rg.pwrStatusHaltCause = 3 := by decide +kernel
theorem test_witness_ShedLadderHaltsAndThermalLevels_halt : ∀ k ∈ [0, 1, 2],
    let n : Node := { Node.reset with pwr := { Pwr.reset with halting := some 2, haltStage := k } }
    n.svc.arrivals = [] ∧ n.svc.buffer.length < 64 ∧ rdB n Rg.evrStatusClearing = false ∧ n.svc.slots.length + 2 ≤ evrSlots ∧ n.pwr.halting = some 2 ∧ n.pwr.haltStage = k ∧ Writable n := by decide +kernel
theorem test_witness_ShedLadderHaltsAndThermalLevels_thermal :
    let n : Node := { Node.reset with pwr := { Pwr.reset with therm := [(3, (2, 0, 40, 40))] } }
    (mgetD n.pwr.therm 3 (0, 0, 0, 0)).1 = 2 ∧ (mgetD n.pwr.therm 5 (0, 0, 0, 0)).1 = 0 ∧ thermLevel n 110 = 3 ∧ 1 ≤ thermLevel n 100 ∧ mget? n.pwr.therm 3 = some (2, 0, 40, 40) ∧ State.reset.tck.notch = 0
      ∧ lastTickMax State.reset.tck n 3 (2, 0, 40, 40) + 3 ≤ thermAt n 1 ∧ lastTickMax State.reset.tck n 3 (2, 0, 40, 40) + 3 ≤ thermAt n 2 := by decide +kernel

/-- A node with one NOP outstanding and one accepted ATTEND that launches at tick 4. -/
def tIdleNode (launch : Nat) : Node := tNode { tCmd opAttend [] with launch := launch }
theorem test_witness_PowerStatesHintsAndReadings_entry :
    let t := State.reset.tck
    let n := tIdleNode 4
    stopped n = false ∧ working n = false ∧ rd n Rg.pwrStatusNstate = 0 ∧ knownEvents t n = [128000] ∧ t.now < 128000 ∧ 2 ≤ deepest t n
      ∧ (stateCost 2).1 + (stateCost 2).2 + 2 * unitsPerNotch t.cur ≤ 128000 - t.now ∧ 20000 + 2 * unitsPerNotch t.cur ≤ 2 * unitsPerTick t.cur ∧ deepest t n < 3
      ∧ knownEvents t Node.reset = [] ∧ working Node.reset = false ∧ mayN3 Node.reset (2 ^ 64) = false ∧ knownEvents t (tIdleNode 0) = [0] := by decide +kernel
theorem test_witness_PowerStatesHintsAndReadings_wake :
    let n := wr { Node.reset with pwr := { Pwr.reset with wakeAt := some 0 } } Rg.pwrStatusNstate 2
    rd n Rg.pwrStatusNstate = 2 ∧ n.pwr.wakeAt = some 0 ∧ (0 : Nat) ≤ State.reset.tck.now ∧ rd Node.reset Rg.pwrStatusNstate = 0 ∧ rd (wr n Rg.pwrStatusNstate 4) Rg.pwrStatusNstate = 4 := by decide +kernel
theorem test_witness_PowerStatesHintsAndReadings_hint :
    (∀ d ∈ [1, 4], let c := tCmd opPowerHint (leBytes 4 d ++ leBytes 4 9)
      Runs (tNode c) 1 opPowerHint c ∧ c.f 24 1 = d ∧ rsv c 25 27 = [] ∧ rsv c 32 63 = [] ∧ (tNode c).pwr.hint = none)
    ∧ ({ Pwr.reset with hint := some (1, some 0) } : Pwr).hint = some (1, some State.reset.tck.tick) := by decide +kernel

theorem test_witness_ResetsAndStartUp_reset :
    Writable Node.reset ∧ stopped Node.reset = false ∧ ({ Svc.reset with switched := some (1, 0, 0) } : Svc).switched.isSome = true ∧ Node.reset.pwr.step < 6 ∧ Node.reset.svc.slots.length < evrSlots
      ∧ (raise State.reset.tck Node.reset evHalt []).svc.arrivals ≠ [] := by decide +kernel
/-- A node in a phase of start-up. -/
def tBoot (p : Nat) : Node := wr Node.reset Rg.nidBootPhase p
theorem test_witness_ResetsAndStartUp_phases :
    (∀ p ∈ [0, 1, 2, 3, 4, 5, 6, 7, 8], let n := tBoot p
      stopped n = false ∧ p = rd n Rg.nidBootPhase ∧ n.brd.phaseMs ≤ (5#32).toNat ∧ (5#32).toNat ≤ n.brd.phaseMs + phaseLimit p ∧ n.brd.phaseMs + phaseLimit p < (5000#32).toNat ∧ (4#32).toNat < n.brd.phaseMs + phaseLimit p)
    ∧ bootCfg (tBoot 0) = none ∧ (tBoot 3).mic.stacksOut = [] ∧ (tBoot 3).brd.trained = [] ∧ (tBoot 5).svc.march = [] ∧ (tBoot 5).mic.clustersOut.length < 32 ∧ timeRuns tLocked.state = true ∧ timeRuns State.reset.tck.state = false := by decide +kernel
theorem test_witness_ResetsAndStartUp_board :
    mgetD Node.reset.brd.busTries 9 0 < 8 ∧ 8 ≤ mgetD [(9, 8)] 9 0 ∧ phaseFrom (tBoot 3) 3 = true ∧ phaseFrom (tBoot 2) 3 = false ∧ (tBoot 3).brd.trained = []
      ∧ mhas ({ Brd.reset with flash := [(1, 5)] } : Brd).flash 1 = true ∧ mhas ({ Brd.reset with dimms := [(1, (5, 6400))] } : Brd).dimms 1 = true ∧ mhas Brd.reset.flash 1 = false := by decide +kernel

/-- UPDATE_STAGE of an image of one byte, and of a recalibration of a unit. -/
def tStage : Cmd := tCmd opUpdateStage (zeros 16 ++ leBytes 4 1)
def tRecal (u : Nat) : Cmd := tCmd opUpdateStage (leBytes 1 1 ++ leBytes 1 u)
theorem test_witness_ImagesAndUnitsAreReplacedLive_stage :
    let c := tStage
    let n := tNode c
    Runs n 1 opUpdateStage c ∧ rsv c 26 31 = [] ∧ rsv c 44 63 = [] ∧ c.f 24 1 = 0 ∧ commitPending n = false ∧ rsv c 25 25 = [] ∧ mult (c.f 32 8) 4096 = true ∧ c.f 40 4 ≤ 0x780000
      ∧ commitPending { n with svc := { n.svc with commit := some (2, 0, 0) } } = true := by decide +kernel
theorem test_witness_ImagesAndUnitsAreReplacedLive_units :
    (∀ u ∈ [0, 13, 16, 23], let c := tRecal u
      Runs (tNode c) 1 opUpdateStage c ∧ rsv c 26 31 = [] ∧ rsv c 44 63 = [] ∧ c.f 24 1 = 1 ∧ recalUnit (c.f 25 1) = true ∧ rsv c 32 39 = [] ∧ rsv c 40 43 = [])
    ∧ recalUnit 14 = false ∧ recalUnit 15 = false ∧ recalUnit 24 = false ∧ findCmd (tNode (tRun (tRecal 0))) 1 = some (tRun (tRecal 0)) ∧ portMayStart (tPhase (wr Node.reset (Rg.qstPortCfgMedia 0) 2)) 0 = true
    ∧ State.reset.tck.now < (tRecal 0).accTime + 1024 * unitsPerTick State.reset.tck.cur ∧ 0 + 1 ≤ ({ State.reset.tck with now := 32000 } : Tck).tick ∧ State.reset.tck.tick < 0 + 1 := by decide +kernel
theorem test_witness_ImagesAndUnitsAreReplacedLive_commit :
    let c := tCmd opUpdateCommit []
    let n : Node := { tNode c with svc := { Svc.reset with staged := some ⟨1, [], 0⟩ } }
    let m : Node := { tNode (tRun c) with svc := { n.svc with commit := some (1, 1, 0) } }
    let t : Tck := { State.reset.tck with now := 32000 }
    Runs (tNode c) 1 opUpdateCommit c ∧ Runs n 1 opUpdateCommit c ∧ (tNode c).svc.staged = none ∧ n.svc.staged ≠ none ∧ rsv c 32 63 = [] ∧ m.svc.commit = some (1, 1, 0) ∧ t.notch = 0 ∧ 0 < t.tick ∧ 1 ≤ t.tick ∧ fwFinished m 1 = true
      ∧ (∀ e ∈ m.wts.sets, e.2.bound = false) ∧ findCmd m 1 = some (tRun c) ∧ (tRun c).accTime + 1024 * unitsPerTick 2 ≤ 2 ^ 40 ∧ State.reset.tck.tick ≤ 0 := by decide +kernel
theorem test_witness_ImagesAndUnitsAreReplacedLive_confirm :
    let b := newCfg (leBytes 4 0x43464E42 ++ zeros 60) 1
    let n : Node := { Node.reset with svc := { Svc.reset with switched := some (1, 0, 0) }, brd := { Brd.reset with cfg := [(0, b)] } }
    n.svc.switched = some (1, 0, 0) ∧ bootCfg n = some b ∧ State.reset.tck.tick < 0 + 1024 ∧ 0 + 1024 ≤ ({ State.reset.tck with now := 2 ^ 40 } : Tck).tick := by decide +kernel

theorem test_witness_MarchTestsRetirementsAndTheRecorder_march :
    (∀ kind ∈ [0, 1, 2], ∀ first ∈ [31, 1024], let c := tCmd opMarchTest (leBytes 1 0 ++ leBytes 1 kind ++ leBytes 2 first ++ leBytes 2 1)
      Runs (tNode c) 1 opMarchTest c ∧ c.f 24 1 ≤ 1 ∧ c.f 25 1 = kind ∧ rsv c 30 63 = [] ∧ c.f 26 2 = first ∧ c.f 28 2 = 1)
    ∧ (let n : Node := { tNode (tRun (tCmd opMarchTest [])) with svc := { Svc.reset with march := [⟨0, 1, 0, 0, 0, 1, 0, 0, 0, 0⟩] } }
      findCmd n 1 = some (tRun (tCmd opMarchTest [])) ∧ (0 : Nat) + 65536 * unitsPerTick 2 ≤ 2 ^ 40 ∧ State.reset.tck.now < 0 + 65536 * unitsPerTick 2) := by decide +kernel
/-- RETIRE_PCH of a unit. -/
def tRetire (kind op unit : Nat) : Cmd := tCmd opRetirePch (leBytes 1 kind ++ leBytes 1 op ++ leBytes 2 unit)
theorem test_witness_MarchTestsRetirementsAndTheRecorder_retire :
    (∀ kind ∈ [0, 1, 2], ∀ op ∈ [0, 1], ∀ unit ∈ [7, 1024], let c := tRetire kind op unit
      Runs (tNode c) 1 opRetirePch c ∧ c.f 24 1 = kind ∧ c.f 25 1 = op ∧ c.f 26 2 = unit ∧ rsv c 28 63 = [])
    ∧ retireLeft Node.reset 7 = false ∧ Node.reset.mic.retiring = [] ∧ Node.reset.ter.moves = [] ∧ Node.reset.ter.pages = [] ∧ Node.reset.wts.sets = [] ∧ Node.reset.cxd.exts = [] ∧ mhas Node.reset.brd.dimms 7 = false
    ∧ (let n : Node := { Node.reset with brd := { Brd.reset with dimms := [(7, (5, 6400))], flash := [(7, 5)] } }
      t2Bytes n - 5 < directBytes n + recSize n ∧ t3Used n ≤ t3Bytes n - 5 ∧ halfSpeed n 1 ≤ 6400 ∧ 6000 < halfSpeed n 1
        ∧ (let m : Node := { n with wts := { Wts.reset with sets := [(7, tWSet)] } }
          t3Bytes m - 5 < t3Used m)) := by decide +kernel
theorem test_witness_MarchTestsRetirementsAndTheRecorder_events :
    let n := raise State.reset.tck (raise State.reset.tck Node.reset evHalt [1]) evBindFail []
    n.svc.arrivals.length = 2 ∧ unlimited evHalt = true ∧ unlimited evBindFail = false ∧ 0 < rd n Rg.evrRateLimit ∧ rd (wr n Rg.evrRateLimit 0) Rg.evrRateLimit ≤ 0 ∧ rdB n Rg.evrStatusClearing = false ∧ rdB (wr n Rg.evrStatusClearing 1) Rg.evrStatusClearing = true
      ∧ n.svc.slots.length < evrSlots ∧ n.svc.buffer = [] ∧ Writable n := by decide +kernel
theorem test_witness_MarchTestsRetirementsAndTheRecorder_full : evrSlots ≤ (List.replicate evrSlots ([] : Bytes)).length ∧ 64 ≤ (List.replicate 64 (⟨0, [], 0, 0, false⟩ : Event)).length
    ∧ 64 - Node.reset.svc.buffer.length < (List.replicate 65 (⟨0, [], 0, 0, false⟩ : Event)).length :=
  ⟨Nat.le_of_eq List.length_replicate.symm, Nat.le_of_eq List.length_replicate.symm, by rw [List.length_replicate]; decide⟩

theorem test_witness_CountersTokensAndTheMonitor_registers :
    let n := Node.reset
    Writable n ∧ mayPmc n .mgmt = true ∧ mayPmc n (.host 0 0) = false ∧ fineView n .mgmt = true ∧ fineView n (.host 0 0) = false ∧ n.svc.tokenBytes.length < 208 ∧ bitAt (2#32).toNat 1 = true ∧ bitAt (1#32).toNat 1 = false := by decide +kernel
theorem test_witness_CountersTokensAndTheMonitor_token :
    let k : Token := ⟨5, 2⟩
    let n : Node := { Node.reset with svc := { Svc.reset with token := some k, cap := some ⟨0, 1, []⟩ } }
    n.svc.token = some k ∧ bitAt k.flags 1 = true ∧ bitAt (⟨5, 0⟩ : Token).flags 1 = false ∧ n.mic.poison = [] ∧ (0#64).toNat + 8 * 256 ≤ 1024 * pchBytes ∧ (0x100000#64).toNat % 4 = 0 ∧ (0x100000#64).toNat + 4 * 256 ≤ 2 ^ 28 ∧ peekOk true 0 257 = false
      ∧ peekOk false 2 1 = false ∧ blockRegs 0xFF = [] ∧ blockRegs 1 ≠ [] ∧ (0x700014#32).toNat % 4 = 0 ∧ (0x700014#32).toNat < 2 ^ 28 ∧ (0xFFFFFFFC#32).toNat ≥ 2 ^ 28 ∧ n.svc.cap = some ⟨0, 1, []⟩
      ∧ 0 + 1 ≤ ({ State.reset.tck with now := 32000 } : Tck).tick ∧ State.reset.tck.tick < 0 + 1 ∧ Node.reset.svc.token = none ∧ ([] : Bytes).length ≠ 208 := by decide +kernel

/-- A node whose host port has a link and which is not READY. -/
def tShut : Node := { Node.reset with brd := { Brd.reset with trained := [(1, 0)] } }
theorem test_witness_RegisterReadsAndWrites_shut :
    regsShut tShut = true ∧ Writable Node.reset ∧ ¬ (0x108000 ≤ (0x700014#32).toNat ∧ (0x700014#32).toNat < 0x108800) ∧ regAt (0x700014#32).toNat ≠ none ∧ regAt (0x0FFFFFF0#32).toNat = none ∧ 0x100000 ≤ (0x700014#32).toNat := by decide +kernel
theorem test_witness_RegisterReadsAndWrites_plain :
    (∀ off ∈ [0x10, 0xD00000, 0xE00000, 0x300040, 0x800004, 0x900404], (regAt (BitVec.ofNat 32 off).toNat).isSome = true ∧ off / 0x100000 ∈ [0, 3, 4, 6, 8, 9, 0xA, 0xD, 0xE]) ∧ spillUsed Node.reset = false
    ∧ spillUsed { Node.reset with cfl := { Cfl.reset with chains := [{ tPosted false with spill := 1 }] } } = true ∧ bits (0x0507#32).toNat 8 7 ≤ bits (0x0507#32).toNat 0 7
    ∧ (∀ k ∈ [tsSealed, tsFencing, tsErasing], slShut (wr Node.reset Rg.secStatusState k) = true) := by decide +kernel

/-- An image of one layer whose Q projection has a rescale vector of one channel, tensor 0, of the word given. -/
def tRescale (v : Nat) : Bytes :=
  (leBytes 4 0x53575744 ++ [1, 0, 0, 0] ++ leBytes 2 1 ++ leBytes 2 1 ++ zeros 4 ++ leBytes 8 320 ++ leBytes 8 128 ++ leBytes 8 192 ++ zeros 88)
    ++ (leBytes 4 128 ++ zeros 24 ++ leBytes 2 0 ++ List.replicate 6 0xFF ++ zeros 28)
    ++ (leBytes 4 1 ++ leBytes 4 1 ++ [0, 2] ++ leBytes 2 0xFFFF ++ leBytes 4 1 ++ leBytes 8 240 ++ leBytes 8 256 ++ leBytes 8 0 ++ zeros 8)
    ++ (leBytes 4 0 ++ leBytes 2 4 ++ leBytes 2 4 ++ zeros 4 ++ [1, 0, 0, 0]) ++ leBytes 4 v ++ zeros 60
def tRescaleSet (v : Nat) : WSet := { tWSet with image := tRescale v }
def tRescaleNode (v : Nat) : Node := { Node.reset with wts := { Wts.reset with sets := [(7, tRescaleSet v)] } }
theorem test_witness_SnapshotsViewsAndRescaleTables_table :
    (∀ v ∈ [0x3F800000, 0x7F800000], usable (tRescaleNode v) (tRescaleSet v) = true ∧ 0 < imgLayers (tRescaleSet v).image ∧ rescaleTensor (layerDesc (tRescaleSet v).image 0) 0 = 0
      ∧ rescaleTensor (layerDesc (tRescaleSet v).image 0) 1 = 0xFFFF ∧ vecOf (tRescaleNode v) 7 (tRescaleSet v) 0 = [v])
    ∧ (∀ r : CvtTotals, r = ⟨0, [], [], []⟩ → r.tick + 1 = ({ State.reset.tck with now := 32000 } : Tck).tick ∧ r.tick + 1 ≠ ({ State.reset.tck with now := 64000 } : Tck).tick) := by
  refine ⟨by decide +kernel, fun r h => ?_⟩
  subst h
  decide +kernel
theorem test_witness_SnapshotsViewsAndRescaleTables :
    let n : Node := { Node.reset with att := { Att.reset with bound := [9] } }
    n.cvt.run.tick < ({ State.reset.tck with now := 32000 } : Tck).tick ∧ State.reset.tck.tick ≤ n.cvt.run.tick ∧ Writable n ∧ regsShut tShut = true ∧ 8 * 1 + 2 ∉ n.att.bound ∧ 8 * 1 + 1 ∈ n.att.bound
      ∧ (0x3F800000#32).toNat / 2 ^ 23 % 256 ≠ 0 ∧ (0x3F800000#32).toNat / 2 ^ 23 % 256 ≠ 255 ∧ (0x7F800000#32) ≠ 0 ∧ (0x7F800000#32).toNat / 2 ^ 23 % 256 = 255 := by decide +kernel

end Sys2Proof.Tests
end

section
/-! Register accesses: a write and a read go through a register's fields one by one, each within its own bits, and most blocks have registers without operations of their own. -/

namespace Sys2Proof.Machine

section

/-! ## The register table -/

/-- Two fields of a register share no bit. -/
abbrev FieldDef.Apart (f g : FieldDef) : Prop := f.lo + f.w ≤ g.lo ∨ g.lo + g.w ≤ f.lo

theorem regTable_fields : ∀ d ∈ regTable, d.fields.Pairwise FieldDef.Apart ∧ ∀ f ∈ d.fields, f.lo + f.w ≤ 32 := by decide +kernel

/-- The first fields of type RW1S, SL and RW1C stand in the SEC block. -/
theorem regTable_types_below_sec : ∀ d ∈ regTable, d.base < 0xF00000 → ∀ f ∈ d.fields, f.ty ∉ [FTy.sl, .w1c, .w1s] := by decide +kernel

theorem regAt_timeReg : ∀ off ∈ [0x1000200, 0x200058, 0x20005C, 0x200040], regAt off ≠ none := by decide +kernel

variable {off : Nat} {d : RegDef} {f : FieldDef}

theorem timeReg_eq_false_of_regAt_none (h : regAt off = none) : timeReg off = false := by
  have hn : off ∉ [0x1000200, 0x200058, 0x20005C, 0x200040] := fun hm => regAt_timeReg off hm h
  simpa [timeReg, and_assoc] using hn

theorem regAt_mem (hd : regAt off = some d) : d ∈ regTable := List.mem_of_find?_eq_some hd

theorem regAt_apart (hd : regAt off = some d) : d.fields.Pairwise FieldDef.Apart := (regTable_fields d (regAt_mem hd)).1

theorem regAt_width (hd : regAt off = some d) (hf : f ∈ d.fields) : f.lo + f.w ≤ 32 := (regTable_fields d (regAt_mem hd)).2 f hf

theorem regAt_base_le (hd : regAt off = some d) : d.base ≤ off := by
  have hc : d.covers off = true := by simpa using List.find?_some hd
  simp only [RegDef.covers, Bool.and_eq_true, decide_eq_true_eq] at hc
  obtain ⟨⟨hbase, -⟩, -⟩ := hc
  exact hbase

theorem regAt_type_below_sec (hd : regAt off = some d) (ho : off < 0xF00000) (hf : f ∈ d.fields) : f.ty ∉ [FTy.sl, .w1c, .w1s] :=
  regTable_types_below_sec d (regAt_mem hd) (Nat.lt_of_le_of_lt (regAt_base_le hd) ho) f hf

theorem regAt_no_sl_below_sec (hd : regAt off = some d) (ho : off < 0xF00000) : ∀ f ∈ d.fields, f.ty ≠ .sl :=
  fun _ hf e => regAt_type_below_sec hd ho hf (by simp [e])

/-! ## A word gone through field by field -/

/-- Each field's change keeps to the field's own bits. -/
abbrev OwnBits (g : Nat → FieldDef → Nat) : Prop :=
  ∀ x (f : FieldDef) lo w, f.lo + f.w ≤ lo ∨ lo + w ≤ f.lo → bits (g x f) lo w = bits x lo w

theorem bits_foldl_apart {g : Nat → FieldDef → Nat} (own : OwnBits g) {l : List FieldDef} {lo w : Nat}
    (h : ∀ f ∈ l, f.lo + f.w ≤ lo ∨ lo + w ≤ f.lo) (x : Nat) : bits (l.foldl g x) lo w = bits x lo w := by
  induction l generalizing x with
  | nil => rfl
  | cons a l ih =>
    rw [List.foldl_cons, ih (fun f hf => h f (List.mem_cons_of_mem _ hf)), own x a lo w (h a List.mem_cons_self)]

/-- In a word whose fields are changed one after another, a field ends as its own change leaves it. -/
theorem bits_foldl_field {g : Nat → FieldDef → Nat} {new : FieldDef → Nat → Nat} (own : OwnBits g)
    (val : ∀ x (f : FieldDef), bits (g x f) f.lo f.w = new f (bits x f.lo f.w)) {l : List FieldDef} (hl : l.Pairwise FieldDef.Apart) (hf : f ∈ l) (x : Nat) :
    bits (l.foldl g x) f.lo f.w = new f (bits x f.lo f.w) := by
  induction l generalizing x with
  | nil => cases hf
  | cons a l ih =>
    obtain ⟨ha, hl⟩ := List.pairwise_cons.mp hl
    rw [List.foldl_cons]
    rcases List.mem_cons.mp hf with rfl | hm
    · rw [bits_foldl_apart own (fun b hb => (ha b hb).symm), val]
    · rw [ih hl hm, own x a _ _ (ha f hm)]

theorem bits_lt (v lo w : Nat) : bits v lo w < 2 ^ w := Nat.mod_lt _ (Nat.two_pow_pos w)

theorem bits_zero (lo w : Nat) : bits 0 lo w = 0 := by simp [bits]

/-- Adding a value where a field is 0 puts it there. -/
theorem add_eq_putBits {x lo w v : Nat} (hx : bits x lo w = 0) (hv : v < 2 ^ w) : x + v * 2 ^ lo = putBits x lo w v := by
  simp [putBits, hx, Nat.mod_eq_of_lt hv]

/-- A packed word of fields with values of their width is those values put one after another. -/
theorem foldl_pack_eq_foldl_putBits (val : FieldDef → Nat) {l : List FieldDef} (hl : l.Pairwise FieldDef.Apart) (hv : ∀ f ∈ l, val f < 2 ^ f.w) (x : Nat)
    (hx : ∀ f ∈ l, bits x f.lo f.w = 0) :
    (l.map fun f => (f.lo, val f)).foldl (fun v e => v + e.2 * 2 ^ e.1) x = l.foldl (fun v f => putBits v f.lo f.w (val f)) x := by
  induction l generalizing x with
  | nil => rfl
  | cons a l ih =>
    obtain ⟨ha, hl⟩ := List.pairwise_cons.mp hl
    rw [List.map_cons, List.foldl_cons, List.foldl_cons, add_eq_putBits (hx a List.mem_cons_self) (hv a List.mem_cons_self)]
    refine ih hl (fun f hf => hv f (List.mem_cons_of_mem _ hf)) _ fun f hf => ?_
    rw [bits_putBits_ne _ _ _ _ _ _ (ha f hf), hx f (List.mem_cons_of_mem _ hf)]

theorem bits_packWord (val : FieldDef → Nat) {l : List FieldDef} (hl : l.Pairwise FieldDef.Apart) (hv : ∀ f ∈ l, val f < 2 ^ f.w) (hf : f ∈ l) :
    bits (packWord (l.map fun f => (f.lo, val f))) f.lo f.w = val f := by
  rw [packWord, foldl_pack_eq_foldl_putBits val hl hv 0 fun f _ => bits_zero f.lo f.w,
    bits_foldl_field (new := fun f _ => val f % 2 ^ f.w) (fun x f lo w => bits_putBits_ne x f.lo f.w _ lo w) (fun x f => bits_putBits_self x f.lo f.w _) hl hf]
  exact Nat.mod_eq_of_lt (hv f hf)

/-! ## The bank -/

/-- A word put at an offset reads back there in its low 32 bits, and no other register changes. -/
theorem bits_get_put_self (b : Bank) (off v : Nat) {lo w : Nat} (h : lo + w ≤ 32) : bits ((b.put off v).get off) lo w = bits v lo w := by
  simp only [Bank.get, Bank.put, mget?_mset_self, BitVec.toNat_ofNat]
  exact bits_mod _ _ _ _ h

theorem get_put_ne (b : Bank) {off off' : Nat} (v : Nat) (h : off' ≠ off) : (b.put off v).get off' = b.get off' := by
  simp only [Bank.get, Bank.put, mget?_mset_ne _ _ _ _ h]

/-! ## Plain writes (R4, R5, R8, R445) -/

/-- What a write of a word `v` makes of a field that holds `old`. -/
def fieldWritten (shut : Bool) (v : Nat) (f : FieldDef) (old : Nat) : Nat :=
  let new := bits v f.lo f.w
  match f.ty with
  | .rw => if fieldTakes f new then new else old
  | .sl => if !shut && fieldTakes f new then new else old
  | .w1c => maskOf ((bitList f.w old).filter fun i => !bitAt new i) % 2 ^ f.w
  | .w1s => maskWhere f.w (fun i => bitAt old i || bitAt new i) % 2 ^ f.w
  | _ => old

theorem fieldWrite_ownBits (shut : Bool) (v : Nat) : OwnBits (fieldWrite shut v) := by
  intro x f lo w h
  have hp : ∀ y, bits (putBits x f.lo f.w y) lo w = bits x lo w := fun y => bits_putBits_ne _ _ _ _ _ _ h
  unfold fieldWrite
  cases f.ty <;> simp only [apply_ite (bits · lo w), hp, ite_self]

theorem bits_fieldWrite (shut : Bool) (v x : Nat) (f : FieldDef) : bits (fieldWrite shut v x f) f.lo f.w = fieldWritten shut v f (bits x f.lo f.w) := by
  have hp : ∀ y, bits (putBits x f.lo f.w y) f.lo f.w = y % 2 ^ f.w := bits_putBits_self x f.lo f.w
  have hv : bits v f.lo f.w % 2 ^ f.w = bits v f.lo f.w := Nat.mod_eq_of_lt (bits_lt _ _ _)
  unfold fieldWrite fieldWritten
  cases f.ty <;> simp only [apply_ite (bits · f.lo f.w), hp, hv]

variable {t : Tck} {n : Node} {v : Nat}

/-- A plain write changes the word at its offset and records at most one event. -/
theorem plainWrite_shape (t : Tck) (n : Node) (off v : Nat) : ∃ b sv, plainWrite t n off v = { n with bank := b, svc := sv } := by
  unfold plainWrite
  split
  · exact ⟨n.bank, n.svc, rfl⟩
  · dsimp only
    split
    · exact ⟨n.bank, n.svc, rfl⟩
    · split
      · exact ⟨_, _, rfl⟩
      · exact ⟨_, n.svc, rfl⟩

@[simp] theorem plainWrite_fe (t : Tck) (n : Node) (off v : Nat) : (plainWrite t n off v).fe = n.fe := by
  obtain ⟨b, sv, e⟩ := plainWrite_shape t n off v; rw [e]

@[simp] theorem plainWrite_t1 (t : Tck) (n : Node) (off v : Nat) : (plainWrite t n off v).t1 = n.t1 := by
  obtain ⟨b, sv, e⟩ := plainWrite_shape t n off v; rw [e]

@[simp] theorem plainWrite_cfl (t : Tck) (n : Node) (off v : Nat) : (plainWrite t n off v).cfl = n.cfl := by
  obtain ⟨b, sv, e⟩ := plainWrite_shape t n off v; rw [e]

theorem plainWrite_breaksPair (h : breaksPair off v = true) : plainWrite t n off v = n := by
  unfold plainWrite
  split
  · rfl
  · simp only [h, if_true]

theorem plainWrite_bank (hd : regAt off = some d) (hp : breaksPair off v = false) :
    (plainWrite t n off v).bank = n.bank.put off (d.fields.foldl (fieldWrite (slShut n) v) (n.bank.get off)) := by
  simp only [plainWrite, hd, hp, Bool.false_eq_true, if_false]
  split <;> rfl

theorem rd_plainWrite_field (hd : regAt off = some d) (hp : breaksPair off v = false) (hf : f ∈ d.fields) :
    rd (plainWrite t n off v) ⟨off, f.lo, f.w⟩ = fieldWritten (slShut n) v f (rd n ⟨off, f.lo, f.w⟩) := by
  simp only [rd, plainWrite_bank hd hp, bits_get_put_self _ _ _ (regAt_width hd hf)]
  exact bits_foldl_field (fieldWrite_ownBits _ v) (bits_fieldWrite _ v) (regAt_apart hd) hf _

theorem rd_plainWrite_off (hd : regAt off = some d) (hp : breaksPair off v = false) {g : Fld} (hg : g.off ≠ off) :
    rd (plainWrite t n off v) g = rd n g := by
  simp only [rd, plainWrite_bank hd hp, get_put_ne _ _ hg]

/-- A register without SL fields is written without an event. -/
theorem plainWrite_svc (hd : regAt off = some d) (hs : ∀ f ∈ d.fields, f.ty ≠ .sl) : (plainWrite t n off v).svc = n.svc := by
  have hn : d.fields.any (·.ty == .sl) = false := by simpa using hs
  simp only [plainWrite, hd, hn, Bool.and_false, Bool.false_eq_true, if_false]
  split <;> rfl

/-- A write of an SL field after the seal is recorded (R8). -/
theorem plainWrite_sealed (hd : regAt off = some d) (hp : breaksPair off v = false) (hf : f ∈ d.fields) (ht : f.ty = .sl) (hs : slShut n = true) :
    evSealedWrite ∈ (plainWrite t n off v).svc.arrivals.map (·.code) := by
  have hy : d.fields.any (·.ty == .sl) = true := List.any_eq_true.mpr ⟨f, hf, by simp [ht]⟩
  simp only [plainWrite, hd, hp, hs, hy, Bool.and_self, Bool.false_eq_true, if_false, if_true, codes_raise, List.mem_append, List.mem_singleton, or_true]

/-! ## From the command to the plain write -/

variable {s : State} {o w : Word} {src : Req}

theorem exec_registerWrite (o w : Word) (src : Req) (s : State) :
    exec (.registerWrite o w src) s = onReset (writeResets s.node o.toNat w.toNat src) (writeReg o.toNat w.toNat src) s := rfl

theorem exec_cflSpillWrite (k : Fin 3) (w : Word) (s : State) :
    exec (.cflSpillWrite k w) s = onNode (whenOpen (spillWrite (0x500008 + 4 * k.val) w.toNat)) s := rfl

theorem registerWrite_shut (hs : regsShut s.node = true) (hd : ¬ (0x108000 ≤ o.toNat ∧ o.toNat < 0x108800)) :
    exec (.registerWrite o w src) s = .next s := by
  have hr : writeResets s.node o.toNat w.toNat src = false := by simp [writeResets, hs]
  have hw : writeReg o.toNat w.toNat src s.tck s.node = (s.tck, s.node) := by
    have hb : (decide (0x108000 ≤ o.toNat) && decide (o.toNat < 0x108800)) = false := by simpa using hd
    simp only [writeReg, hs, hb, Bool.not_false, Bool.and_self, if_true]
  rw [exec_registerWrite, onReset, hr, hw]; rfl

/-- While the registers take writes, those that reach neither fabric time's unit nor the power manager change the node alone. -/
theorem registerWrite_open (hw : Writable s.node) (ht : timeReg o.toNat = false) :
    exec (.registerWrite o w src) s = .next (s.withNode (blockWrite s.tck s.node o.toNat w.toNat src)) := by
  have hr : writeResets s.node o.toNat w.toNat src = false := by
    have h1 : (o.toNat == 0x1000200) = false := by
      simp only [timeReg, Bool.or_eq_false_iff] at ht
      obtain ⟨⟨⟨hpwr, -⟩, -⟩, -⟩ := ht
      exact hpwr
    simp only [writeResets, h1, Bool.false_and]
  have hb : writeReg o.toNat w.toNat src s.tck s.node = (s.tck, blockWrite s.tck s.node o.toNat w.toNat src) := by
    simp only [writeReg, show regsShut s.node = false from hw, ht, Bool.false_and, Bool.false_eq_true, if_false]
  rw [exec_registerWrite, onReset, hr, hb]; rfl

theorem blockWrite_none (h : regAt off = none) : blockWrite t n off v src = n := by simp [blockWrite, h]

/-- Outside the blocks and the registers that have operations of their own, a write is plain. -/
theorem blockWrite_plain (hd : regAt off = some d) (hb : off / 0x100000 ∉ [1, 5, 0xB, 0xC, 0xE, 0xF, 0x11, 0x12, 0x13])
    (h7 : off ∉ [Rg.terT2PartDirect.off, Rg.terHeatCfgDecay.off]) : blockWrite t n off v src = plainWrite t n off v := by
  simp only [List.mem_cons, List.not_mem_nil, or_false, not_or] at hb h7
  obtain ⟨b1, b5, bB, bC, bE, bF, b11, b12, b13⟩ := hb
  have hE : off ≠ 0xE0000C := by omega
  have h5 : off ≠ 0x500000 ∧ off ≠ 0x500008 ∧ off ≠ 0x50000C ∧ off ≠ 0x500010 := by omega
  simp [blockWrite, hd, b1, bB, bC, bF, b11, b12, b13, h7, hE, h5]

theorem breaksPair_eq_false (h : off ∉ [Rg.tckSuspectThr.off, Rg.terWmLow.off, Rg.pwrThermCfgWarn.off]) : breaksPair off v = false := by
  simp only [List.mem_cons, List.not_mem_nil, or_false, not_or] at h
  simp [breaksPair, h]

theorem timeReg_eq_false (h : off ∉ [0x1000200, 0x200058, 0x20005C, 0x200040]) : timeReg off = false := by
  simpa [timeReg, and_assoc] using h

/-! ## The registers that statements name -/

/-- A watermark pair that breaks R445 is not written. -/
theorem terWm_write_breaksPair (hw : Writable s.node) (h : bits w.toNat 8 7 ≤ bits w.toNat 0 7) :
    exec (.registerWrite (BitVec.ofNat 32 Rg.terWmLow.off) w src) s = .next s := by
  have ho : (BitVec.ofNat 32 Rg.terWmLow.off).toNat = 0x700014 := rfl
  have hp : breaksPair 0x700014 w.toNat = true := by simpa [breaksPair] using h
  obtain ⟨d, hd⟩ : ∃ d, regAt 0x700014 = some d := Option.isSome_iff_exists.mp (by decide +kernel)
  rw [registerWrite_open hw (by rw [ho]; decide), ho, blockWrite_plain hd (by decide) (by decide), plainWrite_breaksPair hp]

/-- The fields of `PWR_RAIL`. -/
def railFields : List FieldDef := [⟨0, 12, .ro, 0x0, []⟩, ⟨12, 16, .ro, 0x0, []⟩, ⟨28, 1, .ro, 0x0, []⟩, ⟨29, 1, .w1c, 0x0, []⟩]

theorem regAt_pwrRail : ∀ r : Fin 6, regAt (0x1000110 + 4 * r.val) = some ⟨0x1000110, 6, 0x4, 1, 0x0, railFields⟩ := by decide +kernel

/-- A one-bit RW1C field is cleared by a 1. -/
theorem fieldWritten_w1c_bit (shut : Bool) (v lo old : Nat) (l : List (Nat × Nat)) (k : Nat) (ho : old < 2) :
    fieldWritten shut v ⟨lo, 1, .w1c, k, l⟩ old = if bitAt v lo then 0 else old := by
  have hb : bitAt (bits v lo 1) 0 = bitAt v lo := by simp [bitAt, bits]
  obtain rfl | rfl : old = 0 ∨ old = 1 := by omega
  · rw [ite_self]; rfl
  · have hw : fieldWritten shut v ⟨lo, 1, .w1c, k, l⟩ 1 = maskOf ([0].filter fun i => !bitAt (bits v lo 1) i) % 2 := rfl
    rw [hw, List.filter_cons, hb]
    cases bitAt v lo <;> rfl

theorem pwrRail_write (hw : Writable s.node) (r : Fin 6) :
    ∃ N : Node, exec (.registerWrite (BitVec.ofNat 32 (Rg.pwrRailFault r.val).off) w src) s = .next (s.withNode N)
      ∧ rd N (Rg.pwrRailMv r.val) = rd s.node (Rg.pwrRailMv r.val) ∧ rd N (Rg.pwrRailFault r.val) = if bitAt w.toNat 29 then 0 else rd s.node (Rg.pwrRailFault r.val) := by
  have ho : (BitVec.ofNat 32 (Rg.pwrRailFault r.val).off).toNat = 0x1000110 + 4 * r.val :=
    Nat.mod_eq_of_lt (show 0x1000110 + 4 * r.val < 2 ^ 32 by omega)
  have hd := regAt_pwrRail r
  have hp : breaksPair (0x1000110 + 4 * r.val) w.toNat = false := breaksPair_eq_false (by simp; omega)
  refine ⟨plainWrite s.tck s.node (0x1000110 + 4 * r.val) w.toNat, ?_, ?_, ?_⟩
  · rw [registerWrite_open hw (by rw [ho]; exact timeReg_eq_false (by simp; omega)), ho, blockWrite_plain hd (by simp; omega) (by simp; omega)]
  · exact rd_plainWrite_field (f := ⟨0, 12, .ro, 0x0, []⟩) hd hp (by decide)
  · exact (rd_plainWrite_field (f := ⟨29, 1, .w1c, 0x0, []⟩) hd hp (by decide)).trans (fieldWritten_w1c_bit _ _ _ _ _ _ (bits_lt _ _ 1))

theorem recShow_bank (t : Tck) (n : Node) : ∃ a b c d,
    (recShow t n).bank = (wr (wr (wr (wr n Rg.secRecStatusFree a) Rg.secRecStatusLow b) Rg.secRecOldestLoTick c) Rg.secRecOldestHiTick d).bank := by
  unfold recShow
  dsimp only
  split <;> exact ⟨_, _, _, _, rfl⟩

/-- Showing the record store changes `SEC_REC_STATUS` and `SEC_REC_OLDEST` alone. -/
theorem rd_recShow (t : Tck) (n : Node) {g : Fld} (hg : g.off ∉ [Rg.secRecStatusFree.off, Rg.secRecOldestLoTick.off, Rg.secRecOldestHiTick.off]) :
    rd (recShow t n) g = rd n g := by
  simp only [List.mem_cons, List.not_mem_nil, or_false, not_or] at hg
  obtain ⟨h1, h2, h3⟩ := hg
  obtain ⟨a, b, c, d, e⟩ := recShow_bank t n
  rw [rd_of_bank g e, rd_wr_off _ _ g _ h3, rd_wr_off _ _ g _ h2, rd_wr_off _ _ g _ h1, rd_wr_off _ _ g _ h1]

theorem codes_recShow (t : Tck) (n : Node) {k : Nat} (h : k ∈ n.svc.arrivals.map (·.code)) : k ∈ (recShow t n).svc.arrivals.map (·.code) := by
  unfold recShow
  dsimp only
  split
  · rw [codes_raise]
    exact List.mem_append_left _ h
  · exact h

/-- `SEC_REC_CFG` stays after the seal, and the write is recorded. -/
theorem secRecCfg_write (hw : Writable s.node) :
    ∃ N : Node, exec (.registerWrite (BitVec.ofNat 32 Rg.secRecCfgMib.off) w src) s = .next (s.withNode N)
      ∧ (slShut s.node = true → rd N Rg.secRecCfgMib = rd s.node Rg.secRecCfgMib ∧ evSealedWrite ∈ N.svc.arrivals.map (·.code)) := by
  have ho : (BitVec.ofNat 32 Rg.secRecCfgMib.off).toNat = 0xF00400 := rfl
  have hd : regAt 0xF00400 = some ⟨0xF00400, 1, 0x0, 1, 0x0, [⟨0, 16, .sl, 0x400, [(0x100, 0xFFFF)]⟩]⟩ := by decide +kernel
  have hp : breaksPair 0xF00400 w.toNat = false := breaksPair_eq_false (by decide)
  refine ⟨recShow s.tck (plainWrite s.tck s.node 0xF00400 w.toNat), ?_, fun hs => ⟨?_, codes_recShow _ _ (plainWrite_sealed hd hp List.mem_cons_self rfl hs)⟩⟩
  · rw [registerWrite_open hw (by rw [ho]; decide), ho]
    simp [blockWrite, hd, secWrite]
  · rw [rd_recShow _ _ (by decide)]
    refine (rd_plainWrite_field hd hp List.mem_cons_self).trans ?_
    rw [hs]; rfl

/-! ## The spill area (R136) -/

/-- The field of each register of the spill area. -/
def spillFld : Fin 3 → Fld
  | 0 => Rg.cflSpillBaseLoBase
  | 1 => Rg.cflSpillBaseHiBase
  | 2 => Rg.cflSpillSizeMib

theorem spillFld_off : ∀ k : Fin 3, (spillFld k).off = 0x500008 + 4 * k.val := by decide

theorem regAt_spill : ∀ k : Fin 3, regAt (0x500008 + 4 * k.val) = some ⟨0x500008 + 4 * k.val, 1, 0x0, 1, 0x0, [⟨(spillFld k).lo, (spillFld k).w, .rw, 0x0, []⟩]⟩ := by
  decide +kernel

theorem rd_spill_plainWrite (k j : Fin 3) :
    rd (plainWrite t n (0x500008 + 4 * k.val) v) (spillFld j) = if k = j then bits v (spillFld j).lo (spillFld j).w else rd n (spillFld j) := by
  have hp : breaksPair (0x500008 + 4 * k.val) v = false := breaksPair_eq_false (by simp; omega)
  by_cases e : k = j
  · subst e
    rw [if_pos rfl]
    have h := rd_plainWrite_field (t := t) (n := n) (regAt_spill k) hp List.mem_cons_self
    rw [← spillFld_off] at h ⊢
    exact h
  · rw [if_neg e]
    refine rd_plainWrite_off (regAt_spill k) hp ?_
    rw [spillFld_off]
    omega

theorem cflSpillWrite_open (hw : Writable s.node) (k : Fin 3) :
    exec (.cflSpillWrite k w) s = .next (s.withNode (spillWrite (0x500008 + 4 * k.val) w.toNat s.tck s.node)) := by
  rw [exec_cflSpillWrite]
  exact onNode_eq (by simp only [whenOpen, show regsShut s.node = false from hw, Bool.false_eq_true, if_false])

theorem cflSpillWrite_free (hw : Writable s.node) (hu : spillUsed s.node = false) (k : Fin 3) :
    ∃ N : Node, exec (.cflSpillWrite k w) s = .next (s.withNode N) ∧ N.svc = s.node.svc ∧ N.cfl = s.node.cfl
      ∧ ∀ j, rd N (spillFld j) = if k = j then bits w.toNat (spillFld j).lo (spillFld j).w else rd s.node (spillFld j) := by
  refine ⟨plainWrite s.tck s.node (0x500008 + 4 * k.val) w.toNat, ?_, ?_, plainWrite_cfl _ _ _ _, rd_spill_plainWrite k⟩
  · rw [cflSpillWrite_open hw, spillWrite, hu]; rfl
  · exact plainWrite_svc (regAt_spill k) (regAt_no_sl_below_sec (regAt_spill k) (by omega))

theorem bits_word (w : Word) : bits w.toNat 0 32 = w.toNat := by simp [bits, Nat.mod_eq_of_lt w.isLt]

/-! ## Reads (R4, R7, R388) -/

theorem exec_registerRead (o : Word) (src : Req) (s : State) : exec (.registerRead o src) s =
    .next { s with node := emit (readReg s.tck s.last s.node src o.toNat).2.1 (.regData src o.toNat (readReg s.tck s.last s.node src o.toNat).1),
                   last := (readReg s.tck s.last s.node src o.toNat).2.2 } := rfl

variable {last : Node}

theorem readReg_zero (h : regAt off = none ∨ regsShut n = true ∧ 0x100000 ≤ off ∧ off ≠ Rg.cmdStatusReady.off) :
    readReg t last n src off = (0, n, last) := by
  unfold readReg
  split
  · rfl
  · next d hd =>
    obtain ⟨hs, h1, h2⟩ := h.resolve_left (by simp [hd])
    have ho : regsOpen n off = false := by
      simp only [regsOpen, hs, Bool.not_true, Bool.false_or, Bool.or_eq_false_iff, decide_eq_false_iff_not, Nat.not_lt, beq_eq_false_iff_ne]
      exact ⟨h1, h2⟩
    simp only [ho, Bool.not_false, Bool.true_or, if_true]

/-- Offsets of the blocks NID, SCH and MAP, whose registers show the words that the bank holds. -/
abbrev BankShown (off : Nat) : Prop := off < 0x100000 ∨ 0xD00000 ≤ off ∧ off < 0xF00000

theorem latchedBy_eq_nil (h : off < 0x100000 ∨ 0xC00000 ≤ off ∧ off < 0xF00000) : latchedBy off = [] := by
  have h1 : off ∉ [0x200010, 0x200024, 0x800290, 0xA00028, 0xF00408] := by simp; omega
  unfold latchedBy
  rw [if_neg (by omega), if_neg h1, if_neg (by simp; omega), if_neg (by simp; omega)]

section
variable (hb : BankShown off)
include hb

theorem isLatched_eq_false : isLatched off = false := by
  have h : ∀ k ≤ 8, latchedBy (off - k) = [] := fun k _ => latchedBy_eq_nil (by omega)
  simp [isLatched, h]

theorem viewWord_eq_get : viewWord t n src off = n.bank.get off := by
  have hd : off / 0x100000 = 0 ∨ off / 0x100000 = 0xD ∨ off / 0x100000 = 0xE := by omega
  have hv : viewService n off = n.bank.get off := by
    have hn : off ∉ [0xF00000, 0x1000008, 0x1100000, 0x1100004, 0x1100040, 0x1300000] := by simp; omega
    simp only [List.mem_cons, List.not_mem_nil, or_false, not_or] at hn
    simp [viewService, hn]
  have hq : off ≠ 0xC00200 := by omega
  rcases hd with h | h | h <;> simp [viewWord, h, hq, hv]

/-- A read there latches nothing, advances nothing and returns no open value. -/
theorem readReg_bankShown (hw : Writable n) (hd : regAt off = some d) : readReg t last n src off =
    (wordRead t last n src off d, clearRead n n src off d (wordRead t last n src off d), clearRead n last src off d (wordRead t last n src off d)) := by
  have hz : readsZero n src off = false := by
    have h1 : off / 0x100000 ≠ 0x11 := by omega
    have h2 : off ≠ 0x1204010 ∧ ¬ 0x120401C ≤ off := by omega
    simp [readsZero, h1, h2]
  have hc : (cycleReg off || openCounter n off) = false := by
    have h3 : ¬ (0x300000 ≤ off ∧ off < 0x500000) ∧ ¬ (0x600000 ≤ off ∧ off < 0x700000) ∧ ¬ (0x900000 ≤ off ∧ off < 0x900200) ∧ ¬ 0x1200000 ≤ off := by omega
    simp [cycleReg, openCounter, h3]
  have hu : catchUp t n off = n := by
    rw [catchUp, if_neg (show off ≠ 0x1100000 by omega), if_neg (by simp; omega), if_neg (by simp; omega)]
  have hl : setLatches t last n src off = n := by simp only [setLatches, latchedBy_eq_nil (off := off) (by omega), List.foldl_nil]
  have hf : firmwareSlots n off = 1 := by rw [firmwareSlots, if_neg (by simp; omega)]
  have he : ∀ m, readEffects off m = m := by
    intro m
    have ha : advances off = none := by
      rw [advances, if_neg (by simp; omega), if_neg (by simp; omega), if_neg (by simp; omega)]
    simp only [readEffects, ha]
  have ho : regsOpen n off = true := by simp [regsOpen, show regsShut n = false from hw]
  simp only [readReg, hd, ho, hz, hc, hu, hl, hf, he, Bool.not_true, Bool.or_self, Bool.false_eq_true, if_false, if_true, if_neg (show off ≠ 0x30C000 by omega)]

theorem fieldRead_bankShown : fieldRead t last n src off d f = if f.ty = .wo then 0 else
    if !fineView n src && countsOf d f then bits (last.bank.get off) f.lo f.w / 1024 * 1024 else bits (n.bank.get off) f.lo f.w := by
  have h1 : (off == Rg.pwrPowerWatts.off) = false := by simp; omega
  have h2 : off ≠ 0x200044 := by omega
  have h3 : ¬ (0x30C100 ≤ off ∧ off < 0x30C200) := by omega
  simp [fieldRead, coarsened, coarse, isLatched_eq_false hb, viewWord_eq_get hb, h1, h2, h3]

theorem bits_wordRead_bankShown (hd : regAt off = some d) (hf : f ∈ d.fields) :
    bits (wordRead t last n src off d) f.lo f.w = fieldRead t last n src off d f := by
  refine bits_packWord _ (regAt_apart hd) (fun f _ => ?_) hf
  rw [fieldRead_bankShown hb]
  split
  · exact Nat.two_pow_pos _
  · split
    · exact Nat.lt_of_le_of_lt (Nat.div_mul_le_self _ _) (bits_lt _ _ _)
    · exact bits_lt _ _ _

end

/-- What a read that returned `ret` leaves of a field that holds `old`. -/
def fieldLeft (n : Node) (src : Req) (off : Nat) (d : RegDef) (ret : Nat) (f : FieldDef) (old : Nat) : Nat :=
  if f.ty = .roc then (if coarsened n src d f off then old - bits ret f.lo f.w else 0) % 2 ^ f.w else old

theorem fieldAfter_ownBits (n : Node) (src : Req) (off : Nat) (d : RegDef) (ret : Nat) : OwnBits (fieldAfter n src off d ret) := by
  intro x f lo w h
  unfold fieldAfter
  split
  · exact bits_putBits_ne _ _ _ _ _ _ h
  · rfl

theorem bits_fieldAfter (n : Node) (src : Req) (off : Nat) (d : RegDef) (ret x : Nat) (f : FieldDef) :
    bits (fieldAfter n src off d ret x f) f.lo f.w = fieldLeft n src off d ret f (bits x f.lo f.w) := by
  by_cases h : f.ty = .roc <;> simp [fieldAfter, fieldLeft, h, bits_putBits_self]

/-- A read clears words of the bank and nothing else. -/
theorem clearRead_shape (n m : Node) (src : Req) (off : Nat) (d : RegDef) (ret : Nat) : ∃ b, clearRead n m src off d ret = { m with bank := b } := by
  unfold clearRead
  split
  · exact ⟨_, rfl⟩
  · exact ⟨m.bank, rfl⟩

theorem rd_clearRead_off {m : Node} {ret : Nat} {g : Fld} (hg : g.off ≠ off) : rd (clearRead n m src off d ret) g = rd m g := by
  unfold clearRead
  split
  · simp only [rd, get_put_ne _ _ hg]
  · rfl

theorem rd_clearRead_field (hd : regAt off = some d) (hf : f ∈ d.fields) {m : Node} {ret : Nat} :
    rd (clearRead n m src off d ret) ⟨off, f.lo, f.w⟩ = fieldLeft n src off d ret f (rd m ⟨off, f.lo, f.w⟩) := by
  unfold clearRead
  split
  · simp only [rd, bits_get_put_self _ _ _ (regAt_width hd hf)]
    exact bits_foldl_field (fieldAfter_ownBits _ _ _ _ _) (bits_fieldAfter _ _ _ _ _) (regAt_apart hd) hf _
  · next h =>
    have hr : f.ty ≠ .roc := fun e => h (List.any_eq_true.mpr ⟨f, hf, by simp [e]⟩)
    rw [fieldLeft, if_neg hr]

/-- What a read there leaves of an ROC field: nothing to a fine reader, else what it did not return (R7, R388). -/
theorem rd_clearRead_roc (hb : BankShown off) (hd : regAt off = some d) (hf : f ∈ d.fields) (hr : f.ty = .roc) {ret : Nat} :
    rd (clearRead n n src off d ret) ⟨off, f.lo, f.w⟩ = if fineView n src then 0 else rd n ⟨off, f.lo, f.w⟩ - bits ret f.lo f.w := by
  have hc : coarsened n src d f off = !fineView n src := by simp [coarsened, countsOf, hr, isLatched_eq_false hb]
  rw [rd_clearRead_field hd hf, fieldLeft, if_pos hr, hc]
  cases fineView n src
  · exact Nat.mod_eq_of_lt (Nat.lt_of_le_of_lt (Nat.sub_le _ _) (bits_lt _ _ _))
  · exact Nat.zero_mod _

/-! ## The parts of the statement -/

theorem registerRead_zero (h : regAt o.toNat = none ∨ regsShut s.node = true ∧ 0x100000 ≤ o.toNat ∧ o.toNat ≠ Rg.cmdStatusReady.off) :
    exec (.registerRead o src) s = .next (s.withNode (emit s.node (.regData src o.toNat 0))) := by
  rw [exec_registerRead, readReg_zero h]

theorem registerWrite_plain (hw : Writable s.node) (hd : regAt o.toNat = some d) (hb : o.toNat / 0x100000 ∈ [0, 3, 4, 6, 8, 9, 0xA, 0xD]) :
    ∃ N : Node, exec (.registerWrite o w src) s = .next (s.withNode N) ∧ (∀ g : Fld, g.off ≠ o.toNat → rd N g = rd s.node g) ∧ N.fe = s.node.fe ∧ N.svc = s.node.svc ∧ N.t1 = s.node.t1
      ∧ ∀ f ∈ d.fields, rd N ⟨o.toNat, f.lo, f.w⟩ = if f.ty = .rw ∧ fieldTakes f (bits w.toNat f.lo f.w) = true then bits w.toNat f.lo f.w else rd s.node ⟨o.toNat, f.lo, f.w⟩ := by
  simp only [List.mem_cons, List.not_mem_nil, or_false] at hb
  have hp : breaksPair o.toNat w.toNat = false := breaksPair_eq_false (by simp; omega)
  have hsec : o.toNat < 0xF00000 := by omega
  refine ⟨plainWrite s.tck s.node o.toNat w.toNat, ?_, fun g => rd_plainWrite_off hd hp, plainWrite_fe _ _ _ _,
    plainWrite_svc hd (regAt_no_sl_below_sec hd hsec), plainWrite_t1 _ _ _ _, fun f hf => ?_⟩
  · rw [registerWrite_open hw (timeReg_eq_false (by simp; omega)), blockWrite_plain hd (by simp; omega) (by simp; omega)]
  · have ht := regAt_type_below_sec hd hsec hf
    rw [rd_plainWrite_field hd hp hf, fieldWritten]
    cases h : f.ty <;> simp [h] at ht ⊢

theorem registerRead_bankShown (hw : Writable s.node) (hd : regAt o.toNat = some d) (hb : BankShown o.toNat) :
    ∃ (t : State) (x : Nat), exec (.registerRead o src) s = .next t ∧ t.tck = s.tck ∧ t.node.out = s.node.out ++ [.regData src o.toNat x] ∧ t.node.fe = s.node.fe ∧ t.node.svc = s.node.svc
      ∧ (∀ g : Fld, g.off ≠ o.toNat → rd t.node g = rd s.node g)
      ∧ ∀ f ∈ d.fields, (f.ty = .wo → bits x f.lo f.w = 0) ∧ (f.ty ≠ .roc → rd t.node ⟨o.toNat, f.lo, f.w⟩ = rd s.node ⟨o.toNat, f.lo, f.w⟩)
          ∧ (f.ty ≠ .wo → fineView s.node src = true ∨ countsOf d f = false → bits x f.lo f.w = rd s.node ⟨o.toNat, f.lo, f.w⟩)
          ∧ (f.ty ≠ .wo → fineView s.node src = false → countsOf d f = true → bits x f.lo f.w = rd s.last ⟨o.toNat, f.lo, f.w⟩ / 1024 * 1024)
          ∧ (f.ty = .roc → rd t.node ⟨o.toNat, f.lo, f.w⟩ = if fineView s.node src then 0 else rd s.node ⟨o.toNat, f.lo, f.w⟩ - bits x f.lo f.w) := by
  obtain ⟨b, hshape⟩ := clearRead_shape s.node s.node src o.toNat d (wordRead s.tck s.last s.node src o.toNat d)
  refine ⟨_, wordRead s.tck s.last s.node src o.toNat d, exec_registerRead o src s, rfl, ?_⟩
  rw [readReg_bankShown hb hw hd]
  refine ⟨by rw [hshape]; rfl, by rw [hshape]; rfl, by rw [hshape]; rfl, fun g hg => rd_clearRead_off hg, fun f hf => ?_⟩
  rw [bits_wordRead_bankShown hb hd hf, fieldRead_bankShown hb]
  refine ⟨fun h => if_pos h, fun h => ?_, fun h hv => ?_, fun h hv hc => ?_, fun h => ?_⟩
  · exact (rd_clearRead_field hd hf).trans (if_neg h)
  · rw [if_neg h, if_neg (by rcases hv with e | e <;> simp [e])]; rfl
  · rw [if_neg h, hv, hc]; rfl
  · rw [← fieldRead_bankShown hb, ← bits_wordRead_bankShown hb hd hf]
    exact rd_clearRead_roc hb hd hf h

end

/-- Settles O59: register writes and reads go through a register's fields one by one, each field within its own bits. -/
theorem registerReadsAndWrites : Obligations.RegisterReadsAndWrites := by
  refine ⟨fun s o w src => ⟨registerWrite_shut, fun hw hd => ?_, registerRead_zero⟩, fun s o w src d => registerWrite_plain,
    fun s w src r hw => ⟨terWm_write_breaksPair hw, pwrRail_write hw r, secRecCfg_write hw⟩, fun s k w hw => ⟨fun hu => ?_, fun hu => ?_⟩, fun s o src d hw hd hb => ?_⟩
  · rw [registerWrite_open hw (timeReg_eq_false_of_regAt_none hd), blockWrite_none hd]
  · rw [cflSpillWrite_open hw, spillWrite, hu]; rfl
  · obtain ⟨N, hN, hsvc, hcfl, hrd⟩ := cflSpillWrite_free (w := w) hw hu k
    exact ⟨N, hN, hsvc, hcfl, hrd 0, by simpa [spillFld, bits_word] using hrd 1, hrd 2⟩
  · simp only [List.mem_cons, List.not_mem_nil, or_false] at hb
    exact registerRead_bankShown hw hd (by omega)

end Sys2Proof.Machine
end

section
/-! Attention commands on the home node: how one begins, how its step is built from one snapshot, how it waits for its reservation. -/

namespace Sys2Proof.Machine

/-! ## What counting and sending leave alone -/

/-- What every step of a fold leaves as it was, the fold leaves as it was. -/
theorem foldl_keeps {α β : Type} (g : Node → β) {f : Node → α → Node} (hf : ∀ m x, g (f m x) = g m) (l : List α) (n : Node) : g (l.foldl f n) = g n := by
  induction l generalizing n with
  | nil => rfl
  | cons a l ih => rw [List.foldl_cons, ih, hf]

@[simp] theorem stamp_att (t : Tck) (n : Node) (h k : Nat) : (stamp t n h k).att = n.att := rfl
@[simp] theorem stamp_seqs (t : Tck) (n : Node) (h k : Nat) : (stamp t n h k).seqs = n.seqs := rfl

@[simp] theorem takeSnap_att (t : Tck) (n : Node) (h : Nat) (l : List Nat) (v : List (Nat × Nat)) : (takeSnap t n h l v).att = n.att := rfl

/-- Taking what the last tick converted raises alarms and changes no more than the conversion counters. -/
theorem cvtSnapshot_keeps {β : Type} (g : Node → β) (hr : ∀ t n k a, g (raise t n k a) = g n) (hc : ∀ n c, g { n with cvt := c } = g n) (t : Tck) (n : Node) :
    g (cvtSnapshot t n) = g n := by
  have ha (s : CvtTotals) (m : Node) (k : Nat) : g (clipAlarm t s m k) = g m := by
    unfold clipAlarm
    dsimp only
    split
    · exact hr _ _ _ _
    · rfl
  unfold cvtSnapshot
  split
  · rw [foldl_keeps g (ha _), hc]
  · rfl

/-- Counting a row's conversions raises alarms and changes no more than the conversion counters (R162, R164). -/
theorem countRow_keeps {β : Type} (g : Node → β) (hr : ∀ t n k a, g (raise t n k a) = g n) (hc : ∀ n c, g { n with cvt := c } = g n) (t : Tck) (n : Node) (cls : Nat) (r : Row) :
    g (countRow t n cls r) = g n := by
  unfold countRow countCvt
  dsimp only
  split
  · rfl
  · rw [hc, cvtSnapshot_keeps g hr hc]

@[simp] theorem countRow_att (t : Tck) (n : Node) (cls : Nat) (r : Row) : (countRow t n cls r).att = n.att :=
  countRow_keeps (·.att) raise_att (fun _ _ => rfl) t n cls r

@[simp] theorem countRow_seqs (t : Tck) (n : Node) (cls : Nat) (r : Row) : (countRow t n cls r).seqs = n.seqs :=
  countRow_keeps (·.seqs) raise_seqs (fun _ _ => rfl) t n cls r

/-! ## Sending a step -/

/-- A reservation taken changes the chains alone. -/
theorem cflTake_eq_some {n m : Node} {p : ChainPost} (h : cflTake n p = some m) : ∃ c, m = { n with cfl := c } := by
  simp only [cflTake, Option.ite_none_right_eq_some] at h
  exact ⟨_, (Option.some.inj h.2).symm⟩

/-- Posting a chain, here or at another node, changes the chains and what has been sent alone. -/
theorem postChain_shape (n : Node) (k : Nat) (st : Step) :
    ∃ c o, (if k = nodeId n then (cflTake n st.chain).getD n else emit n (.launch k (.chain st.chain))) = { n with cfl := c, out := o } := by
  split
  · cases h : cflTake n st.chain with
    | none => exact ⟨n.cfl, n.out, rfl⟩
    | some m =>
      obtain ⟨c, rfl⟩ := cflTake_eq_some h
      exact ⟨c, n.out, rfl⟩
  · exact ⟨n.cfl, _, rfl⟩

/-- Sending one message after another changes what has been sent alone. -/
theorem foldl_emit_keeps {α β : Type} (g : Node → β) (hg : ∀ n o, g (emit n o) = g n) (o : α → Out) (l : List α) (n : Node) :
    g (l.foldl (fun m a => emit m (o a)) n) = g n := foldl_keeps g (fun _ _ => hg _ _) l n

theorem sendStep_seqs (t : Tck) (n : Node) (k : Nat) (st : Step) : (sendStep t n k st).seqs = n.seqs := by
  obtain ⟨c, o, e⟩ := postChain_shape n k st
  unfold sendStep
  dsimp only
  rw [stamp_seqs]
  dsimp only
  rw [foldl_emit_keeps (·.seqs) emit_seqs, e]

/-- A step sent stands behind the others (R137). -/
theorem sendStep_steps (t : Tck) (n : Node) (k : Nat) (st : Step) :
    (sendStep t n k st).att.steps = n.att.steps.filter (·.handle != st.handle) ++ [sentStep n k st] := by
  obtain ⟨c, o, e⟩ := postChain_shape n k st
  unfold sendStep
  dsimp only
  rw [stamp_att]
  dsimp only
  rw [foldl_emit_keeps (·.att) emit_att, e]

theorem trySend_seqs (t : Tck) (grants : List Nat) (n : Node) (st : Step) : (trySend t grants n st).seqs = n.seqs := by
  unfold trySend
  dsimp only
  split
  · rfl
  · split
    · rfl
    · exact sendStep_seqs _ _ _ _

/-- Trying for the reservation of a step that stands last leaves the others, and of the step what it was built from (R137). -/
theorem trySend_steps {t : Tck} {grants : List Nat} {n : Node} {st : Step} {old : List Step} (hn : n.att.steps = old ++ [st]) (ho : ∀ p ∈ old, p.handle ≠ st.handle) :
    ∃ p, (trySend t grants n st).att.steps = old ++ [p] ∧ (p = st ∨ ∃ k, p = sentStep n k st) := by
  have hold : (old ++ [st]).filter (·.handle != st.handle) = old := by
    rw [List.filter_append, List.filter_eq_self.mpr (by simpa using ho)]
    simp
  unfold trySend
  dsimp only
  split
  · exact ⟨st, hn, .inl rfl⟩
  · split
    · exact ⟨st, hn, .inl rfl⟩
    · rename_i k _
      exact ⟨sentStep n k st, by rw [sendStep_steps, hn, hold], .inr ⟨k, rfl⟩⟩

/-- Where no node of the order grants the reservation, one notch of waiting is counted (R137). -/
theorem trySend_waits {t : Tck} {grants : List Nat} {n : Node} {st : Step} (hk : keysOut n = false) (hc : cflTake n st.chain = none)
    (ho : ∀ k ∈ conflOrder n (compOf st.seq) st.confl, k = nodeId n ∨ k ∉ grants) : trySend t grants n st = bump n Rg.cflResvWaitNotches 1 := by
  have hnone : (conflOrder n (compOf st.seq) st.confl).find? (fun k => if k = nodeId n then (cflTake n st.chain).isSome else grants.contains k) = none := by
    rw [List.find?_eq_none]
    intro k hmem
    rcases ho k hmem with rfl | hg
    · simp [hc]
    · simp [hc, hg]
  simp only [trySend, hk, Bool.false_and, Bool.false_eq_true, if_false, hnone]

/-! ## Building a step -/

/-- Building a step takes its snapshot, puts it behind the others and tries for its reservation (R89, R116, R137). -/
theorem buildApplied_tries (t : Tck) (n : Node) (c : Cmd) (x : Seqn) (b : BuildIn) (first : Nat) (grants : List Nat) :
    ∃ m : Node, m.att.steps = n.att.steps ++ [snapStep t n c x b first] ∧ m.seqs = (takeSnap t n c.handle (snapStep t n c x b first).fpns []).seqs
      ∧ buildApplied t n c x b first grants = trySend t grants m (snapStep t n c x b first) := by
  refine ⟨_, ?_, ?_, rfl⟩
  · dsimp only
    rw [countRow_att, takeSnap_att]
  · exact countRow_seqs _ _ _ _

/-- A step built without an append in the way: one step more, what its snapshot holds, and the snapshot itself (R89, R116). -/
theorem buildApplied_spec (t : Tck) {n : Node} {c : Cmd} {x : Seqn} {b : BuildIn} (first : Nat) (grants : List Nat) (ho : ∀ p ∈ n.att.steps, p.handle ≠ c.handle) :
    ∃ p, (buildApplied t n c x b first grants).att.steps = n.att.steps ++ [p] ∧ p.handle = c.handle ∧ p.seq = x.id ∧ p.tick = t.tick
      ∧ p.versions = (layerLists x b.layer).map (·.version) ∧ p.gens = (layerLists x b.layer).map (·.generation)
      ∧ p.fpns = ((layerLists x b.layer).map fun l => plFpns n l).flatten
      ∧ (buildApplied t n c x b first grants).seqs = (takeSnap t n c.handle p.fpns []).seqs := by
  obtain ⟨m, hsteps, hseqs, hb⟩ := buildApplied_tries t n c x b first grants
  rw [hb, trySend_seqs, hseqs]
  obtain ⟨p, hp, rfl | ⟨k, rfl⟩⟩ := trySend_steps (t := t) (grants := grants) hsteps ho
  · exact ⟨_, hp, rfl, rfl, rfl, rfl, rfl, rfl, rfl⟩
  · exact ⟨_, hp, rfl, rfl, rfl, rfl, rfl, rfl, rfl⟩

/-- A step that appends nothing is built once the positions below KEND are filled, before its bound (R73, R106). -/
theorem buildStep_no_append {t : Tck} {n : Node} {c : Cmd} {x : Seqn} {b : BuildIn} (peer : PeerAns) (grants : List Nat) (ho : ∀ p ∈ n.att.steps, p.handle ≠ c.handle)
    (hw : t.now < waitBound t n c) (hkv : b.kv = []) (hf : b.shape.kend ≤ filledOf x b.layer) (hm : bitAt b.shape.mask mBitmap = false) :
    buildStep t n c x b peer grants = buildApplied t n c x b b.shape.kend grants := by
  have ha : n.att.steps.any (·.handle == c.handle) = false := by simpa using ho
  simp only [buildStep, ha, Nat.not_le.mpr hw, hkv, hm, bmRevoked, List.isEmpty_nil, Nat.not_lt.mpr hf, Bool.false_and, Bool.false_eq_true, if_true, if_false]

/-- `ATTEND` and `PREFILL` are timed: they wait until notch 48 of their deadline tick (R73). -/
theorem waitBound_attends {t : Tck} {n : Node} {c : Cmd} (ho : c.op = opAttend ∨ c.op = opPrefill) : waitBound t n c = t.at c.deadline 48 := by
  have ht : timed c.op = true := by rcases ho with h | h <;> rw [h] <;> decide
  rw [waitBound, if_pos ht]

/-- The steps of `ATTEND` and `PREFILL` are built in [T - 1.00, notch 48 of the deadline tick) (R15, R89). -/
theorem descriptorBuild_attends {t : Tck} {n : Node} {h : Nat} {c : Cmd} {x : Seqn} (peer : PeerAns) (grants : List Nat) (hc : findCmd n h = some c) (hr : c.stage = .running)
    (ho : c.op = opAttend ∨ c.op = opPrefill) (hx : mget? n.seqs.open_ (c.f 24 8) = some x) (ht : t.at (c.launch - 1) 0 ≤ t.now) :
    descriptorBuild h peer grants t n = buildStep t n c x (attendIn n c x) peer grants := by
  have hop : (c.op == opAttend || c.op == opPrefill) = true := by simpa using ho
  simp only [descriptorBuild, hc, hx, hr, hop, ht, bne_self_eq_false, Bool.false_eq_true, if_true, if_false]

/-! ## The commands -/

theorem exec_attend (h : Word) (s : State) : exec (.attend h) s = .next (s.withNode (attendStart opAttend h.toNat s.tck s.node)) := rfl
theorem exec_prefill (h : Word) (s : State) : exec (.prefill h) s = .next (s.withNode (attendStart opPrefill h.toNat s.tck s.node)) := rfl
theorem exec_attendBlock (h : Word) (s : State) : exec (.attendBlock h) s = .next (s.withNode (blockStart h.toNat s.tck s.node)) := rfl
theorem exec_launchDescriptorBuild (h : Word) (peer : PeerAns) (grants : List Nat) (s : State) :
    exec (.launchDescriptorBuild h peer grants) s = .next (s.withNode (descriptorBuild h.toNat peer grants s.tck s.node)) := rfl
theorem exec_holdReservationRetry (h : Word) (grants : List Nat) (s : State) :
    exec (.holdReservationRetry h grants) s = .next (s.withNode (reservationRetry h.toNat grants s.tck s.node)) := rfl
theorem exec_attendBlockStageStart (h : Word) (errs : List (Nat × List Nat)) (s : State) :
    exec (.attendBlockStageStart h errs) s = .next (s.withNode (stageStart h.toNat errs s.tck s.node)) := rfl

section

variable {t : Tck} {n : Node} {h : Word} {c : Cmd} {x : Seqn}

/-- An attention command in its turn whose fields are in order is running, with its sequence's context cached (R107). -/
theorem attendStart_begins {op : Nat} (hr : Runs n h op c) (hx : OnSeq n c x) (hm : c.f 34 1 < 32) (hv : op = opAttend → rsv c 62 63 = []) (ho : attendOffs c x = [])
    (hrev : bmRevoked n c (cmdShape c x) = false) (hfor : bmForeign n c (cmdShape c x) = false) :
    attendStart op h.toNat t n = setRunning (needCtx n c (c.f 24 8)) h.toNat := by
  obtain ⟨hf, hop, hs, hq, hh⟩ := hr
  have hl : offIf (decide (32 ≤ c.f 34 1)) 34 ++ (if op = opAttend then rsv c 62 63 else []) = [] := by
    rw [offIf_false (decide_eq_false (Nat.not_le.mpr hm)), List.nil_append, ite_eq_right_iff]
    exact hv
  rw [attendStart, withCmd_eq _ hf hop hs hq, withSeq_pass hx hh hl ho]
  simp only [startAttend, hrev, hfor, Bool.false_eq_true, if_false, findCmd_handle hf]

/-- `ATTEND_BLOCK` in its turn whose fields and weight set are in order: its first stage is due at the launch tick (R18, R110, R218). -/
theorem blockStart_begins {w : WSet} (hr : Runs n h opAttendBlock c) (hx : OnSeq n c x) (hm : c.f 34 1 < 16) (hhid : c.f 35 1 ≤ 1) (hv52 : rsv c 52 55 = [])
    (hv62 : rsv c 62 63 = []) (hw : setFor n c (c.f 48 4) = some w) (ho : blockOffs c x (blockShape c x (byteAt (layerDesc w.image (c.f 32 2)) 5)) = [])
    (hfit : blockFits c x w = true) (hu : usable n w = true) (hd : layerDefective n w (c.f 32 2) = false) :
    blockStart h.toNat t n = startBlock t n c w (blockShape c x (byteAt (layerDesc w.image (c.f 32 2)) 5)) := by
  obtain ⟨hf, hop, hs, hq, hh⟩ := hr
  have hl : offIf (decide (16 ≤ c.f 34 1)) 34 ++ offIf (decide (1 < c.f 35 1)) 35 ++ rsv c 52 55 ++ rsv c 62 63 = [] := by
    rw [offIf_false (decide_eq_false (Nat.not_le.mpr hm)), offIf_false (decide_eq_false (Nat.not_lt.mpr hhid)), hv52, hv62]
    rfl
  have hset : blockSetOffs n c x = [] := by
    simp only [blockSetOffs, hw, ho, hfit, Bool.not_true, offIf_false, List.append_nil]
  rw [blockStart, withCmd_eq _ hf hop hs hq, withSeq_pass hx hh hl hset]
  simp only [hw, hu, hd, Bool.not_true, Bool.false_eq_true, if_false]

/-- A block begins without its bitmap area in the way: the window is asked for, the command runs, its first stage is due at the launch tick (R18, R218). -/
theorem startBlock_begins {w : WSet} {sh : Shape} (hrev : bmRevoked n c sh = false) (hfor : bmForeign n c sh = false) :
    ∃ (m : Node) (b : Block), m = setRunning (requestWindow n c) c.handle ∧ startBlock t n c w sh = { m with att := { m.att with blocks := m.att.blocks ++ [b] } }
      ∧ b.handle = c.handle ∧ b.wset = c.f 48 4 ∧ b.stage = 0 ∧ b.due = c.launch := by
  refine ⟨_, ?b, rfl, ?eq, ?_⟩
  case eq => simp only [startBlock, hrev, hfor, Bool.false_eq_true, if_false]; rfl
  exact ⟨rfl, rfl, rfl, rfl⟩

/-- From notch 48 of its deadline tick an unsent step's command ends (R106, R372). -/
theorem reservationRetry_deadline {p : Step} {h : Nat} (grants : List Nat) (hp : n.att.steps.find? (fun y => y.handle == h && !y.sent) = some p) (hd : t.at p.desc.deadline 48 ≤ t.now)
    (hc : findCmd n h = some c) : reservationRetry h grants t n = complete t (dropStep n h) h (unsentStatus n h) (attEnd n c) := by
  simp only [reservationRetry, hp, hd, hc, if_true, Option.map_some, Option.getD_some]

/-- Before it, outside the saddle, the step tries for its reservation (R137). -/
theorem reservationRetry_tries {p : Step} {h : Nat} (grants : List Nat) (hp : n.att.steps.find? (fun y => y.handle == h && !y.sent) = some p) (hd : t.now < t.at p.desc.deadline 48)
    (hs : t.inSaddle = false) : reservationRetry h grants t n = trySend t grants n p := by
  simp only [reservationRetry, hp, Nat.not_le.mpr hd, hs, Bool.false_eq_true, if_false]

/-- Stage one of a block ends at a tick boundary from its due tick on (R18). -/
theorem stageStart_ends_one {b : Block} {h : Nat} (errs : List (Nat × List Nat)) (hc : findCmd n h = some c) (hb : n.att.blocks.find? (·.handle == h) = some b) (hd : b.due ≤ t.tick)
    (ht : t.atTick = true) (h1 : b.stage = 1) : stageStart h errs t n = stageOneEnd t n b := by
  simp [stageStart, hc, hb, ht, h1, Nat.not_lt.mpr hd]

end

/-- Settles O24: an attention command begins, its step is built from one snapshot, and it waits for its reservation. -/
theorem attentionCommandsBeginAndAreBuilt : Obligations.AttentionCommandsBeginAndAreBuilt := by
  intro s h c x
  refine ⟨fun hr hx hm hv ho hrev hfor => ?attend, fun hr hx hm ho hrev hfor => ?prefill, fun w sh hr hx hm hhid hv52 hv62 hw hsh ho hfit hu hd hrev hfor => ?block,
    fun peer grants hc hr hop hx ht hdl hst hna hbm hk => ?build, fun p grants hp => ⟨fun hd hc => ?deadline, fun hd hs hk hc ho => ?waits⟩, fun b errs hc hb hd ht h1 => ?stage⟩
  case attend => rw [exec_attend, attendStart_begins hr hx hm (fun _ => hv) ho hrev hfor]
  case prefill => rw [exec_prefill, attendStart_begins hr hx hm (fun e => absurd e (by decide)) ho hrev hfor]
  case block =>
    subst hsh
    obtain ⟨n, b, hn, hb, hhandle, hb'⟩ := startBlock_begins (t := s.tck) (w := w) hrev hfor
    rw [findCmd_handle hr.1] at hn hhandle
    refine ⟨n, b, hn, ?_, hhandle, hb'⟩
    rw [exec_attendBlock, blockStart_begins hr hx hm hhid hv52 hv62 hw ho hfit hu hd, ← hb]
    rfl
  case build =>
    have hh := findCmd_handle hc
    obtain ⟨p, hsteps, hp⟩ := buildApplied_spec s.tck (n := s.node) (c := c) (x := x) (b := attendIn s.node c x) (cmdShape c x).kend grants (by rwa [hh])
    have hb : descriptorBuild h.toNat peer grants s.tck s.node = buildApplied s.tck s.node c x (attendIn s.node c x) (cmdShape c x).kend grants := by
      rw [descriptorBuild_attends peer grants hc hr hop hx ht]
      exact buildStep_no_append peer grants (by rwa [hh]) (waitBound_attends hop ▸ hdl) (if_pos hna) hk hbm
    rw [exec_launchDescriptorBuild, hb]
    simp only [layerLists, List.map_map, hh] at hp
    obtain ⟨hhandle, hseq, htick, hvers, hgens, hfpns, hseqs⟩ := hp
    exact ⟨_, p, rfl, hsteps, hhandle, hseq, htick, hvers, hgens, hseqs, hfpns⟩
  case deadline => rw [exec_holdReservationRetry, reservationRetry_deadline grants hp hd hc]
  case waits => rw [exec_holdReservationRetry, reservationRetry_tries grants hp hd hs, trySend_waits hk hc ho]
  case stage =>
    rw [exec_attendBlockStageStart, stageStart_ends_one errs hc hb hd ht h1]
    have hh : b.handle = h.toNat := by simpa using List.find?_some hb
    rw [stageOneEnd, modBlock, hh]

end Sys2Proof.Machine
end

section
/-! Attention on a holder: descriptors and chains received, launches, slices, clusters that take items, the ends of items. -/

namespace Sys2Proof.Machine

/-! ## Items of a request -/

/-- An item goes on under its name: request, group and granule. -/
structure SameItem (x y : Item) : Prop where
  home : y.home = x.home
  handle : y.handle = x.handle
  group : y.group = x.group
  granule : y.granule = x.granule

theorem SameItem.refl (x : Item) : SameItem x x := ⟨rfl, rfl, rfl, rfl⟩

theorem SameItem.trans {x y z : Item} (h : SameItem x y) (k : SameItem y z) : SameItem x z :=
  ⟨k.home.trans h.home, k.handle.trans h.handle, k.group.trans h.group, k.granule.trans h.granule⟩

theorem Item.at_iff {x : Item} {home handle g i : Nat} : x.at home handle g i = true ↔ x.home = home ∧ x.handle = handle ∧ x.group = g ∧ x.granule = i := by
  simp only [Item.at, Bool.and_eq_true, beq_iff_eq, and_assoc]

/-- What the work on a request's items leaves: every share, the items of other requests, and of its own each under its name. -/
structure ItemsKept (home handle : Nat) (a b : Node) : Prop where
  shares : b.att.shares = a.att.shares
  named : ∀ x ∈ a.att.items, ∃ y ∈ b.att.items, SameItem x y
  others : ∀ x ∈ a.att.items, x.home ≠ home ∨ x.handle ≠ handle → x ∈ b.att.items

section

variable {home handle : Nat}

theorem ItemsKept.of_eq {a b : Node} (hs : b.att.shares = a.att.shares) (hi : b.att.items = a.att.items) : ItemsKept home handle a b :=
  ⟨hs, fun x hx => ⟨x, hi ▸ hx, .refl x⟩, fun _ hx _ => hi ▸ hx⟩

theorem ItemsKept.of_att {a b : Node} (h : b.att = a.att) : ItemsKept home handle a b := .of_eq (by rw [h]) (by rw [h])

theorem ItemsKept.refl (a : Node) : ItemsKept home handle a a := .of_att rfl

theorem ItemsKept.trans {a b c : Node} (h : ItemsKept home handle a b) (k : ItemsKept home handle b c) : ItemsKept home handle a c where
  shares := k.shares.trans h.shares
  named x hx := by
    obtain ⟨y, hy, hxy⟩ := h.named x hx
    obtain ⟨z, hz, hyz⟩ := k.named y hy
    exact ⟨z, hz, hxy.trans hyz⟩
  others x hx hne := k.others x (h.others x hx hne) hne

/-- The same to a node that differs outside the shares and the items. -/
theorem ItemsKept.to_eq {a b c : Node} (h : ItemsKept home handle a b) (hs : c.att.shares = b.att.shares) (hi : c.att.items = b.att.items) : ItemsKept home handle a c :=
  h.trans (.of_eq hs hi)

theorem ItemsKept.foldl {α : Type} {f : Node → α → Node} {l : List α} (hf : ∀ m, ∀ x ∈ l, ItemsKept home handle m (f m x)) (a : Node) :
    ItemsKept home handle a (l.foldl f a) := by
  induction l generalizing a with
  | nil => exact .refl a
  | cons x l ih => exact (hf a x (.head l)).trans (ih (fun m y hy => hf m y (.tail x hy)) (f a x))

/-- An item changed in place (R123). -/
theorem ItemsKept.modItem {n : Node} {it : Item} {f : Item → Item} (hit : it.home = home ∧ it.handle = handle) (hf : ∀ x, SameItem x (f x)) :
    ItemsKept home handle n (modItem n it f) where
  shares := rfl
  named x hx := by
    refine ⟨_, List.mem_map_of_mem hx, ?_⟩
    split
    · exact hf x
    · exact .refl x
  others x hx hne := by
    refine List.mem_map.mpr ⟨x, hx, if_neg fun h => ?_⟩
    obtain ⟨h1, h2, -⟩ := Item.at_iff.mp h
    rcases hne with h | h
    · exact h (h1.trans hit.1)
    · exact h (h2.trans hit.2)

/-- An item put behind the others (R123). -/
theorem ItemsKept.requeue {n : Node} {it : Item} {f : Item → Item} (hit : it.home = home ∧ it.handle = handle) (hf : SameItem it (f it)) :
    ItemsKept home handle n (requeue n it f) where
  shares := rfl
  named x hx := by
    by_cases h : x.at it.home it.handle it.group it.granule = true
    · obtain ⟨h1, h2, h3, h4⟩ := Item.at_iff.mp h
      exact ⟨f it, List.mem_append_right _ (.head []), SameItem.trans ⟨h1.symm, h2.symm, h3.symm, h4.symm⟩ hf⟩
    · exact ⟨x, List.mem_append_left _ (List.mem_filter.mpr ⟨hx, by simpa using h⟩), .refl x⟩
  others x hx hne := by
    refine List.mem_append_left _ (List.mem_filter.mpr ⟨hx, ?_⟩)
    rw [Bool.not_eq_true', Bool.eq_false_iff]
    intro h
    obtain ⟨h1, h2, -⟩ := Item.at_iff.mp h
    rcases hne with h | h
    · exact h (h1.trans hit.1)
    · exact h (h2.trans hit.2)

section

variable {t : Tck} {n : Node} {d : Desc} {it : Item} {due : Nat}

theorem ItemsKept.queueDie (hit : it.home = home ∧ it.handle = handle) : ItemsKept home handle n (queueDie n it due) :=
  (ItemsKept.requeue (f := fun i => { i with st := .queued, due := due, die := dieOf n it.pages, bsu := none }) hit ⟨rfl, rfl, rfl, rfl⟩).to_eq rfl rfl

theorem ItemsKept.queueBank {b : Nat} (hit : it.home = home ∧ it.handle = handle) : ItemsKept home handle n (queueBank n b it due) := by
  unfold Machine.queueBank
  dsimp only
  split
  · refine (ItemsKept.modItem (f := fun i => { i with blocked := true }) hit fun _ => ⟨rfl, rfl, rfl, rfl⟩).to_eq ?_ ?_
    all_goals rw [pmc_att]
  · exact (ItemsKept.requeue (f := fun i => { i with st := .running, due := due, blocked := false }) hit ⟨rfl, rfl, rfl, rfl⟩).to_eq rfl rfl

theorem ItemsKept.queueItem (hit : it.home = home ∧ it.handle = handle) : ItemsKept home handle n (queueItem n it due) := by
  unfold Machine.queueItem
  split
  · split
    · exact .queueDie hit
    · exact .queueBank hit
  · exact .queueDie hit

theorem ItemsKept.enterItem (hit : it.home = home ∧ it.handle = handle) : ItemsKept home handle n (enterItem t n d it) := by
  unfold Machine.enterItem
  split
  · split
    · exact .queueItem hit
    · exact .modItem hit fun _ => ⟨rfl, rfl, rfl, rfl⟩
  · split
    · exact .queueItem hit
    · exact .modItem hit fun _ => ⟨rfl, rfl, rfl, rfl⟩

theorem ItemsKept.preQueue (hit : it.home = home ∧ it.handle = handle) : ItemsKept home handle n (preQueue d n it) := by
  unfold Machine.preQueue
  split
  · exact .queueItem hit
  · exact .refl n

theorem ItemsKept.planItem {at_ : Nat} (hit : it.home = home ∧ it.handle = handle) : ItemsKept home handle n (planItem at_ n it) :=
  (ItemsKept.modItem (f := fun x => { x with slice := at_ / 64 + it.slice, due := if it.slice = 0 then at_ else (at_ / 64 + it.slice) * 64 }) hit
    fun _ => ⟨rfl, rfl, rfl, rfl⟩).to_eq rfl rfl

end

/-- While an item of it is here a share stays (R14). -/
theorem endShare_of_item {n : Node} (h : ∃ y ∈ n.att.items, y.home = home ∧ y.handle = handle) : endShare n home handle = n := by
  obtain ⟨y, hy, h1, h2⟩ := h
  have : (n.att.items.any fun i => i.home == home && i.handle == handle) = true := List.any_eq_true.mpr ⟨y, hy, by simp [h1, h2]⟩
  rw [endShare, this, Bool.true_or, if_pos rfl]

end

/-! ## What promotions, reads and notes leave alone -/

theorem startMovers_att (k : Nat) (n : Node) : (startMovers k n).att = n.att := by
  induction k generalizing n with
  | zero => rfl
  | succ k ih =>
    unfold startMovers
    split
    · rfl
    · split
      · rw [ih]
      · rfl

theorem askPromotion_att (n : Node) (f : Nat) : (askPromotion n f).att = n.att := by
  unfold askPromotion
  split
  · rfl
  · exact startMovers_att _ _

theorem promoteFor_att (d : Desc) (n : Node) (it : Item) : (promoteFor d n it).att = n.att := by
  unfold promoteFor
  split
  · rfl
  · exact foldl_keeps (·.att) (fun m (p : Nat × Nat) => askPromotion_att m p.2) _ _

theorem promoteForeign_att (d : Desc) (n : Node) : (promoteForeign d n).att = n.att := by
  unfold promoteForeign
  split
  · rfl
  · exact foldl_keeps (·.att) (fun m (p : Nat × Nat) => askPromotion_att m p.1) _ _

theorem sendForeign_att (t : Tck) (n : Node) (d : Desc) (l : List (Nat × Nat)) : (sendForeign t n d l).att = n.att := by
  unfold sendForeign
  dsimp only
  rw [foldl_keeps (·.att) (f := fun m (x : Nat × Nat) => readHeat t m (fpnIdx x.1)) (fun _ _ => rfl), foldl_emit_keeps (·.att) emit_att]

/-- The same where nothing is due. -/
theorem sendDue_att (t : Tck) (n : Node) (d : Desc) (l : List (Nat × Nat)) : (if l.isEmpty then n else sendForeign t n d l).att = n.att := by
  split
  · rfl
  · exact sendForeign_att t n d l

theorem capNote_att (t : Tck) (n : Node) (f : TickLine → TickLine) : (capNote t n f).att = n.att := by
  unfold capNote
  split
  · rfl
  · split <;> rfl

/-! ## Shares -/

section

variable {t : Tck} {n : Node} {home handle : Nat} {x : Share}

theorem findShare_of_att {m : Node} (h : m.att = n.att) : findShare m home handle = findShare n home handle := by rw [findShare, h, findShare]

/-- A list's element found before a change of the elements like it is found changed. -/
theorem find?_lmodify {α : Type} {p : α → Bool} {f : α → α} (hf : ∀ x, p (f x) = p x) (l : List α) : (lmodify l p f).find? p = (l.find? p).map f := by
  have hp (x : α) : p (if p x then f x else x) = p x := by
    split
    · exact hf x
    · rfl
  rw [lmodify, List.find?_map, show (p ∘ fun x => if p x then f x else x) = p from funext hp]
  cases h : l.find? p with
  | none => rfl
  | some x => simp [List.find?_some h]

/-- A share changed under its name. -/
theorem findShare_modShare {f : Share → Share} (hf : ∀ y : Share, (f y).desc.home = y.desc.home ∧ (f y).desc.handle = y.desc.handle) :
    findShare (modShare n home handle f) home handle = (findShare n home handle).map f :=
  find?_lmodify (fun y => by rw [(hf y).1, (hf y).2]) _

/-- A share whose launch is left as it was. -/
theorem modShare_keeps {m : Node} {f : Share → Share} (hm : m.att = n.att)
    (hf : ∀ y : Share, (f y).desc.home = y.desc.home ∧ (f y).desc.handle = y.desc.handle ∧ (f y).launched = y.launched ∧ (f y).late = y.late) :
    (modShare m home handle f).att.items = n.att.items
    ∧ ∀ x, findShare n home handle = some x → ∃ y, findShare (modShare m home handle f) home handle = some y ∧ y.launched = x.launched ∧ y.late = x.late := by
  refine ⟨by rw [← hm]; rfl, fun x hx => ⟨f x, ?_, (hf x).2.2⟩⟩
  rw [findShare_modShare fun y => ⟨(hf y).1, (hf y).2.1⟩, findShare_of_att hm, hx, Option.map_some]

/-- Pages owed to other nodes, once sent, are forgotten; a share is otherwise as it was (R446). -/
theorem settleForeign_keeps (t : Tck) (n : Node) (home handle : Nat) :
    (settleForeign t n home handle).att.items = n.att.items
    ∧ ∀ x, findShare n home handle = some x → ∃ y, findShare (settleForeign t n home handle) home handle = some y ∧ y.launched = x.launched ∧ y.late = x.late := by
  unfold settleForeign
  split
  · exact ⟨rfl, fun x hx => ⟨x, hx, rfl, rfl⟩⟩
  · split
    · exact ⟨rfl, fun x hx => ⟨x, hx, rfl, rfl⟩⟩
    · rename_i s _ _
      exact modShare_keeps (sendDue_att t n s.desc (s.desc.foreign.filter (sendable n s.desc))) fun _ => ⟨rfl, rfl, rfl, rfl⟩

end

/-! ## Descriptors and chains -/

section

variable {t : Tck} {n : Node}

/-- A chain posted already is left alone (R141). -/
theorem descriptorReceive_chain_posted {p : ChainPost} (plan : List ItemPlan) (h : ∃ x ∈ n.cfl.chains, x.post.home = p.home ∧ x.post.handle = p.handle) :
    descriptorReceive (.chain p) plan t n = n := by
  have ha : (n.cfl.chains.any fun x => x.post.home == p.home && x.post.handle == p.handle) = true := by simpa using h
  simp only [descriptorReceive, ha, if_true]

theorem chains_any_eq_false {p : ChainPost} (h : ∀ x ∈ n.cfl.chains, x.post.home = p.home → x.post.handle ≠ p.handle) :
    (n.cfl.chains.any fun x => x.post.home == p.home && x.post.handle == p.handle) = false := by
  simpa using h

/-- A chain not posted yet is posted where there is room for it (R136). -/
theorem descriptorReceive_chain_room {p : ChainPost} {n1 : Node} (plan : List ItemPlan) (h : ∀ x ∈ n.cfl.chains, x.post.home = p.home → x.post.handle ≠ p.handle)
    (hr : cflTake n p = some n1) : descriptorReceive (.chain p) plan t n = emit n1 (.reserveReply p.home p.handle true) := by
  simp only [descriptorReceive, chains_any_eq_false h, hr, Bool.false_eq_true, if_false]

/-- Without room the reservation is refused (R136). -/
theorem descriptorReceive_chain_full {p : ChainPost} (plan : List ItemPlan) (h : ∀ x ∈ n.cfl.chains, x.post.home = p.home → x.post.handle ≠ p.handle)
    (hr : cflTake n p = none) : descriptorReceive (.chain p) plan t n = emit n (.reserveReply p.home p.handle false) := by
  simp only [descriptorReceive, chains_any_eq_false h, hr, Bool.false_eq_true, if_false]

/-- A share to which nothing is owed stays as it is when what is owed is cut down. -/
theorem Share.filter_foreign_nil {x : Share} (h : x.desc.foreign = []) (q : Nat × Nat → Bool) : { x with desc := { x.desc with foreign := x.desc.foreign.filter q } } = x := by
  have hq : x.desc.foreign.filter q = x.desc.foreign := by rw [h, List.filter_nil]
  rw [hq]

/-- A list whose elements a change leaves as they are. -/
theorem lmodify_eq_self {α : Type} {l : List α} {p : α → Bool} {f : α → α} (h : ∀ x ∈ l, p x = true → f x = x) : lmodify l p f = l := by
  refine (List.map_congr_left (g := id) fun x hx => ?_).trans (List.map_id l)
  split
  · exact h x hx ‹_›
  · rfl

/-- A descriptor without pages for other nodes sends none when it is received, and its share stays (R446). -/
theorem firstForeign_nil {d : Desc} (hd : d.foreign = []) (hs : ∀ y ∈ n.att.shares, y.desc.home = d.home → y.desc.handle = d.handle → y.desc.foreign = []) :
    (firstForeign t n d).att.shares = n.att.shares ∧ (firstForeign t n d).att.items = n.att.items := by
  have hnow : d.foreign.filter (sendable n d) = [] := by rw [hd, List.filter_nil]
  simp only [firstForeign, hnow, List.isEmpty_nil, if_true]
  refine ⟨lmodify_eq_self fun y hy hp => ?_, rfl⟩
  simp only [Bool.and_eq_true, beq_iff_eq] at hp
  exact Share.filter_foreign_nil (hs y hy hp.1 hp.2) _

/-- The share that a descriptor becomes, not launched (R14). -/
def shareOf (t : Tck) (d : Desc) : Share := ⟨d, t.tick, none, false, false, []⟩

/-- The items that a descriptor's items become under node firmware's plan (R168). -/
def plannedItems (n : Node) (d : Desc) (plan : List ItemPlan) : List Item :=
  d.items.map fun x => newItem n d x ((plan.find? fun p => p.group == x.group && p.granule == x.granule).getD ⟨x.group, x.granule, false, 0⟩)

/-- The holder with a descriptor's share and items behind what it has. -/
def withShare (t : Tck) (n : Node) (d : Desc) (plan : List ItemPlan) : Node :=
  { n with att := { n.att with shares := n.att.shares ++ [shareOf t d], items := n.att.items ++ plannedItems n d plan } }

theorem plannedItems_request {d : Desc} {plan : List ItemPlan} {it : Item} (h : it ∈ plannedItems n d plan) : it.home = d.home ∧ it.handle = d.handle := by
  obtain ⟨x, -, rfl⟩ := List.mem_map.mp h
  exact ⟨rfl, rfl⟩

/-- Taking a descriptor adds its share and items, asks for promotions and fetches a newer epoch, and sends the pages it owes (R14, R215, R345, R446). -/
theorem takeDesc_eq {d : Desc} (plan : List ItemPlan) (hd : d.holder = nodeId n) (hs : findShare n d.home d.handle = none) :
    ∃ m, takeDesc t n d plan = firstForeign t m d ∧ ItemsKept d.home d.handle (withShare t n d plan) m := by
  simp only [takeDesc, hd, hs, bne_self_eq_false, Option.isSome_none, Bool.or_self, Bool.false_eq_true, if_false]
  refine ⟨_, rfl, ?_⟩
  have hprom : (promoteForeign d ((plannedItems n d plan).foldl (promoteFor d) (withShare t n d plan))).att = (withShare t n d plan).att := by
    rw [promoteForeign_att, foldl_keeps (·.att) (promoteFor_att d)]
  have hqueued : ItemsKept d.home d.handle (withShare t n d plan)
      ((plannedItems n d plan).foldl (preQueue d) (promoteForeign d ((plannedItems n d plan).foldl (promoteFor d) (withShare t n d plan)))) :=
    (ItemsKept.of_att hprom).trans (.foldl (fun _ _ hx => .preQueue (plannedItems_request hx)) _)
  split
  · exact hqueued.to_eq rfl rfl
  · exact hqueued.to_eq rfl rfl

/-- A descriptor for this holder that is not here yet becomes a share, with an item for each of its own; other requests' items stay (R14). -/
theorem takeDesc_takes {d : Desc} (plan : List ItemPlan) (hd : d.holder = nodeId n) (hs : findShare n d.home d.handle = none) (hf : d.foreign = []) :
    (takeDesc t n d plan).att.shares = n.att.shares ++ [shareOf t d]
    ∧ (∀ x ∈ d.items, ∃ y ∈ (takeDesc t n d plan).att.items, y.home = d.home ∧ y.handle = d.handle ∧ y.group = x.group ∧ y.granule = x.granule)
    ∧ ∀ y ∈ n.att.items, y.home ≠ d.home ∨ y.handle ≠ d.handle → y ∈ (takeDesc t n d plan).att.items := by
  obtain ⟨m, hm, hkept⟩ := takeDesc_eq (t := t) plan hd hs
  have hshares : m.att.shares = n.att.shares ++ [shareOf t d] := hkept.shares
  have howed : ∀ y ∈ m.att.shares, y.desc.home = d.home → y.desc.handle = d.handle → y.desc.foreign = [] := by
    intro y hy h1 h2
    rw [hshares, List.mem_append, List.mem_singleton] at hy
    rcases hy with hy | rfl
    · exact absurd (List.find?_eq_none.mp hs y hy) (by simp [h1, h2])
    · exact hf
  obtain ⟨hfs, hfi⟩ := firstForeign_nil (t := t) hf howed
  rw [hm, hfs, hfi]
  refine ⟨hshares, fun x hx => ?_, fun y hy hne => hkept.others y (List.mem_append_left _ hy) hne⟩
  obtain ⟨y, hy, h1, h2, h3, h4⟩ := hkept.named _ (List.mem_append_right _ (List.mem_map_of_mem hx))
  exact ⟨y, hy, h1, h2, h3, h4⟩

/-- Copies of split pages go to the items of the request that name them and do not run (R446). -/
theorem splitReceive_eq (home handle : Nat) (pages : List SplitPage) (n : Node) :
    splitReceive home handle pages n = { n with att := { n.att with items := n.att.items.map fun x =>
      if x.home = home ∧ x.handle = handle ∧ x.st ≠ .running then
        { x with copies := x.copies.filter (fun c => !(pages.filter fun p => x.pages.any fun y => y.2 == p.fpn).any (·.fpn == c.fpn))
            ++ pages.filter fun p => x.pages.any fun y => y.2 == p.fpn }
      else x } } := by
  simp only [splitReceive, Bool.and_eq_true, beq_iff_eq, bne_iff_ne, and_assoc]

end

/-! ## Launches -/

section

variable {t : Tck} {n : Node} {home handle : Nat} {x : Share}

/-- A share that launches at notch `k`. -/
def launchedAt (k : Nat) (y x : Share) : Share := { x with launched := some (k / 64), late := decide (y.desc.launch * 64 < k) }

/-- The share marked launched in the tick of the notch at which it starts, late past notch 0 of its launch tick, and what it owes sent (R14, R446). -/
def markLaunched (t : Tck) (n : Node) (home handle : Nat) (x : Share) : Node :=
  settleForeign t (modShare (if x.desc.launch * 64 < dueNotch t then pmc n 63 3 1 else n) home handle (launchedAt (dueNotch t) x)) home handle

/-- The items of a request. -/
def itemsOf (n : Node) (home handle : Nat) : List Item := n.att.items.filter fun i => i.home == home && i.handle == handle

/-- The request's items planned, and those of the first slice entered (R14, R29). -/
def startItems (t : Tck) (n : Node) (home handle : Nat) (d : Desc) : Node :=
  ((itemsOf n home handle).filter fun i => i.slice == 0 && i.st == .planned).foldl (fun m i => enterItem t m d { i with slice := dueNotch t / 64 })
    ((itemsOf n home handle).foldl (planItem (dueNotch t)) n)

/-- On the home node of a sent step the launch of its command is noted (R437, R444). -/
def noteLaunch (t : Tck) (n : Node) (home handle : Nat) : Node :=
  if home = nodeId n && n.att.steps.any (fun s => s.handle == handle && s.sent && t.at s.desc.launch 0 ≤ t.now) then
    stamp t (capNote t (modCmd n handle fun c => { c with launched := true }) fun l => { l with launches := l.launches + 1 }) handle 2
  else n

/-- A share in its launch window launches: it is marked, its items are planned and the first of them start (R14, R28, R29). -/
theorem launch_eq (hsad : t.inSaddle = false) (hrun : timeRuns t.state = true) (hstop : stopped n = false) (hfence : fencedNode n = false)
    (hx : findShare n home handle = some x) (hl : x.launched = none) (ht : t.at x.desc.launch 0 ≤ t.now) (hd : t.now < t.at x.desc.deadline 48)
    (he : x.desc.epoch ≤ epochOf n) (hrows : rowsHere n x.desc = true) (hacks : acksLeft n home handle = false) :
    launch home handle t n = endShare (noteLaunch t (startItems t (markLaunched t n home handle x) home handle x.desc) home handle) home handle := by
  simp only [launch, hsad, hrun, hstop, hfence, hx, hl, Nat.not_lt.mpr ht, Nat.not_le.mpr hd, Nat.not_lt.mpr he, hrows, hacks, Bool.not_true, Bool.or_self, Option.isSome_none,
    decide_false, Bool.false_eq_true, if_false]
  rfl

theorem markLaunched_marks (hx : findShare n home handle = some x) :
    (markLaunched t n home handle x).att.items = n.att.items
    ∧ ∃ y, findShare (markLaunched t n home handle x) home handle = some y ∧ y.launched = some (dueNotch t / 64) ∧ y.late = decide (x.desc.launch * 64 < dueNotch t) := by
  have hatt : (if x.desc.launch * 64 < dueNotch t then pmc n 63 3 1 else n).att = n.att := by
    split
    · exact pmc_att _ _ _ _
    · rfl
  have hshare : findShare (if x.desc.launch * 64 < dueNotch t then pmc n 63 3 1 else n) home handle = some x := by rw [findShare_of_att hatt, hx]
  unfold markLaunched
  generalize (if x.desc.launch * 64 < dueNotch t then pmc n 63 3 1 else n) = m at hatt hshare
  obtain ⟨hitems, hkeeps⟩ := settleForeign_keeps t (modShare m home handle (launchedAt (dueNotch t) x)) home handle
  have hmarked : findShare (modShare m home handle (launchedAt (dueNotch t) x)) home handle = some (launchedAt (dueNotch t) x x) := by
    rw [findShare_modShare (f := launchedAt (dueNotch t) x) fun _ => ⟨rfl, rfl⟩, hshare, Option.map_some]
  exact ⟨by rw [hitems, ← hatt]; rfl, hkeeps _ hmarked⟩

theorem itemsOf_request {it : Item} (h : it ∈ itemsOf n home handle) : it.home = home ∧ it.handle = handle := by
  simpa using (List.mem_filter.mp h).2

theorem startItems_keeps (d : Desc) : ItemsKept home handle n (startItems t n home handle d) := by
  have hplan : ItemsKept home handle n ((itemsOf n home handle).foldl (planItem (dueNotch t)) n) := .foldl (fun _ _ hx => .planItem (itemsOf_request hx)) n
  refine hplan.trans (.foldl (f := fun m (i : Item) => enterItem t m d { i with slice := dueNotch t / 64 }) (fun m x hx => .enterItem ?_) _)
  exact itemsOf_request (it := x) (List.mem_filter.mp hx).1

theorem noteLaunch_att : (noteLaunch t n home handle).att = n.att := by
  unfold noteLaunch
  split
  · rw [stamp_att, capNote_att, modCmd_att]
  · rfl

/-- What a launch leaves of the share, which has an item (R14). -/
theorem launch_launches (hsad : t.inSaddle = false) (hrun : timeRuns t.state = true) (hstop : stopped n = false) (hfence : fencedNode n = false)
    (hx : findShare n home handle = some x) (hl : x.launched = none) (ht : t.at x.desc.launch 0 ≤ t.now) (hd : t.now < t.at x.desc.deadline 48)
    (he : x.desc.epoch ≤ epochOf n) (hrows : rowsHere n x.desc = true) (hacks : acksLeft n home handle = false) (hitem : ∃ y ∈ n.att.items, y.home = home ∧ y.handle = handle) :
    ∃ y, findShare (launch home handle t n) home handle = some y ∧ y.launched = some (dueNotch t / 64) ∧ y.late = decide (x.desc.launch * 64 < dueNotch t)
      ∧ ∃ z ∈ (launch home handle t n).att.items, z.home = home ∧ z.handle = handle := by
  obtain ⟨hitems, y, hy, hlaunched, hlate⟩ := markLaunched_marks (t := t) hx
  have hkept : ItemsKept home handle (markLaunched t n home handle x) (noteLaunch t (startItems t (markLaunched t n home handle x) home handle x.desc) home handle) :=
    (startItems_keeps x.desc).trans (.of_att noteLaunch_att)
  obtain ⟨w, hw, hw1, hw2⟩ := hitem
  obtain ⟨z, hz, hz1, hz2, -⟩ := hkept.named w (by rwa [hitems])
  have hhere : ∃ z ∈ (noteLaunch t (startItems t (markLaunched t n home handle x) home handle x.desc) home handle).att.items, z.home = home ∧ z.handle = handle :=
    ⟨z, hz, hz1.trans hw1, hz2.trans hw2⟩
  rw [launch_eq hsad hrun hstop hfence hx hl ht hd he hrows hacks, endShare_of_item hhere, findShare, hkept.shares]
  exact ⟨y, hy, hlaunched, hlate, hhere⟩

/-! ## Slices, stalls and reads in place -/

variable {it : Item} {g i : Nat}

/-- The item of a planned slice enters at the boundary of its tick (R29). -/
theorem sliceStart_enters (hx : findShare n home handle = some x) (hit : findItem n home handle g i = some it) (hstop : stopped n = false) (hl : x.launched.isSome = true)
    (hst : it.st = .planned) (ht : t.at it.slice 0 ≤ t.now) (hsad : t.inSaddle = false) (hb : it.blocked = true ∨ t.atTick = true) (hd : t.now < t.at x.desc.deadline 48) :
    sliceStart home handle g i t n = enterItem t n x.desc it := by
  have hb' : (it.blocked || t.atTick) = true := by rwa [Bool.or_eq_true]
  simp [sliceStart, hx, hit, hstop, hl, hst, ht, hsad, hb', hd]

/-- An item not started by notch 0 counts a stall of the tick (R215). -/
theorem terraceStall_counts (hx : findShare n home handle = some x) (hit : findItem n home handle g i = some it) (hst : it.st = .waitT1 ∨ (x.desc.sealed = true ∧ it.st = .waitData))
    (htick : t.tick ∉ it.stalled) (hnotch : t.notch ≠ 0 ∨ itemReady n x.desc it = false) :
    terraceStall home handle g i t n = pmc (bump (modItem n it fun y => { y with stalled := y.stalled ++ [t.tick] }) Rg.terStallCount 1) 63 7 1 := by
  have hw : (it.st == .waitT1 || (x.desc.sealed && it.st == .waitData)) = true := by simpa using hst
  have hlate : (!(t.notch == 0 && itemReady n x.desc it)) = true := by
    rcases hnotch with h | h <;> simp [h]
  have hnew : (!it.stalled.contains t.tick) = true := by simpa using htick
  simp only [terraceStall, hx, hit, hw, hlate, hnew, Bool.and_self, if_true]

/-- A read in place whose data has arrived starts once its slice waits for it (R216). -/
theorem inPlaceDone_loads {errs : List (Nat × List Nat)} (hx : findShare n home handle = some x) (hit : findItem n home handle g i = some it) (hd : it.direct = true)
    (hl : it.loaded = false) (hr : itemReady n x.desc { it with loaded := true } = true) {n1 : Node}
    (hn : n1 = modItem (((livePages x.desc it).filterMap fun p => (pageAt n (fpnIdx p.2)).filter fun e => fpnNode p.2 == nodeId n && e.terrace != 1).foldl
      (fun m e => touchSectors (cacheReads t m e.addr e.foot errs) e.addr e.foot) n) it fun y => { y with loaded := true }) :
    inPlaceDone home handle g i errs t n = if it.st = .waitData then queueItem n1 { it with loaded := true } (dueNotch t) else n1 := by
  subst hn
  have hgo : (!it.direct || it.loaded || !itemReady n x.desc { it with loaded := true }) = false := by rw [hr, hd, hl]; rfl
  simp only [inPlaceDone, hx, hit]
  rw [hgo, if_neg Bool.false_ne_true]
  simp only [beq_iff_eq]

/-- A promoted item starts (R215). -/
theorem promotionDone_starts (hx : findShare (endShare (settleForeign t n home handle) home handle) home handle = some x)
    (hit : findItem (endShare (settleForeign t n home handle) home handle) home handle g i = some it) (hst : it.st = .waitT1)
    (hr : itemReady (endShare (settleForeign t n home handle) home handle) x.desc it = true) :
    promotionDone home handle g i t n = queueItem (endShare (settleForeign t n home handle) home handle) it (dueNotch t) := by
  simp only [promotionDone, hx, hit, hst, hr, beq_self_eq_true, Bool.and_self, if_true]

/-- A cluster's item still running at notch 62 is counted once (R29). -/
theorem sliceOverrun_cluster {k : Nat} (hit : findItem n home handle g i = some it) (hst : it.st = .running) (ho : it.overrun = false) (ht : t.at it.slice 62 ≤ t.now)
    (hb : it.bsu = none) (hk : it.cluster = some k) : sliceOverrun home handle g i t n = (t, modItem (pmc n k 4 1) it fun y => { y with overrun := true }) := by
  simp [sliceOverrun, hit, hst, ho, ht, hb, hk]

/-- A bank-side item still running at notch 62 goes on in a slice of the next tick (R29, R43). -/
theorem sliceOverrun_bank {b : Nat} (hit : findItem n home handle g i = some it) (hst : it.st = .running) (ho : it.overrun = false) (ht : t.at it.slice 62 ≤ t.now)
    (hb : it.bsu = some b) : sliceOverrun home handle g i t n
      = endSlice it.slice t (planSlice (modItem (pmc n (32 + b / 128) 4 1) it fun y => { y with slice := t.tick + 1 }) (t.tick + 1)) := by
  simp [sliceOverrun, hit, hst, ho, ht, hb]

/-- A unit at work at notch 62 is counted once in the tick (R29). -/
theorem unitOverrun_counts {key u : Nat} (ht : t.at t.tick 62 ≤ t.now) (ho : mgetD n.ter.overAt key 0 ≤ t.tick) :
    unitOverrun t n key u true = pmc { n with ter := { n.ter with overAt := mset n.ter.overAt key (t.tick + 1) } } u 4 1 := by
  simp [unitOverrun, ht, ho]

end

/-! ## Clusters that take items -/

section

variable {t : Tck} {n : Node} {k d : Nat} {it : Item}

/-- A fold over a list in which no element has an effect. -/
theorem foldl_eq_self {α β : Type} {f : β → α → β} {l : List α} (hf : ∀ b, ∀ x ∈ l, f b x = b) (b : β) : l.foldl f b = b := by
  induction l with
  | nil => rfl
  | cons y l ih => rw [List.foldl_cons, hf b y (.head l), ih fun b x hx => hf b x (.tail y hx)]

/-- A fold over a list in which one element alone has an effect, once. -/
theorem foldl_eq_of_unique {α β : Type} {f : β → α → β} {l : List α} {a : α} (hl : l.Nodup) (ha : a ∈ l) (hf : ∀ b, ∀ x ∈ l, x ≠ a → f b x = b) (b : β) :
    l.foldl f b = f b a := by
  induction l generalizing b with
  | nil => cases ha
  | cons y l ih =>
    obtain ⟨hy, hl⟩ := List.nodup_cons.mp hl
    rw [List.foldl_cons]
    by_cases e : y = a
    · subst e
      exact foldl_eq_self (fun b x hx => hf b x (.tail y hx) fun e => hy (e ▸ hx)) _
    · rw [hf b y (.head l) e]
      exact ih hl ((List.mem_cons.mp ha).resolve_left (Ne.symm e)) (fun b x hx => hf b x (.tail y hx)) b

/-- Only cluster `k` among those that a queue serves tries. -/
theorem foldl_filter_singleton {β : Type} {f : β → Nat → β} {l : List Nat} {q : Nat → Bool} (hl : l.Nodup) (hk : k ∈ l) (hq : q k = true) (b : β) :
    (l.filter fun c => [k].contains c && q c).foldl f b = f b k := by
  refine foldl_eq_of_unique (hl.filter _) (List.mem_filter.mpr ⟨hk, by simp [hq]⟩) (fun b x hx hne => absurd ?_ hne) b
  have := (List.mem_filter.mp hx).2
  simp only [List.contains_cons, List.contains_nil, Bool.or_false, Bool.and_eq_true, beq_iff_eq] at this
  exact this.1

/-- The values of a function that takes no value twice below `k`. -/
theorem nodup_map_range {f : Nat → Nat} {k : Nat} (h : ∀ i j, i < k → j < k → f i = f j → i = j) : ((List.range k).map f).Nodup :=
  List.pairwise_map.mpr (List.nodup_range.imp_of_mem fun hi hj hne e => hne (h _ _ (List.mem_range.mp hi) (List.mem_range.mp hj) e))

/-- A queue's own clusters are the eight of its die, each once (R125). -/
theorem mem_ownOrder {c : Nat} : c ∈ ownOrder n d ↔ c / 8 = d := by
  simp only [ownOrder, List.mem_map, List.mem_range]
  constructor
  · rintro ⟨j, hj, rfl⟩
    omega
  · intro h
    refine ⟨(c + 8 - mgetD n.att.rotor d 0 % 8) % 8, Nat.mod_lt _ (by omega), ?_⟩
    omega

theorem nodup_ownOrder : (ownOrder n d).Nodup := by
  refine nodup_map_range fun i j hi hj h => ?_
  omega

/-- The clusters of other dies are among those a queue may serve (R125). -/
theorem mem_otherOrder {c : Nat} (hd : d < 4) (hc : c < 32) (h : c / 8 ≠ d) : c ∈ otherOrder n d := by
  simp only [otherOrder, List.mem_map, List.mem_range]
  generalize mgetD n.att.rotor d 0 = r
  refine ⟨((c + 64 - 8 * (d + 1)) % 32 + 24 - r % 24) % 24, Nat.mod_lt _ (by omega), ?_⟩
  omega

theorem nodup_otherOrder : (otherOrder n d).Nodup := by
  refine nodup_map_range fun i j hi hj h => ?_
  omega

theorem nodup_allOrder : ((List.range 4).flatMap (ownOrder n)).Nodup := by
  refine List.pairwise_flatMap.mpr ⟨fun d _ => nodup_ownOrder, List.nodup_range.imp fun {a b} hab c hc e he hce => hab ?_⟩
  subst hce
  exact (mem_ownOrder.mp hc).symm.trans (mem_ownOrder.mp he)

/-- A cycle in which one cluster tries: its own queue first, then the queues it turns to (R124, R125). -/
theorem itemTake_singleton {k : Fin 32} : itemTake [k] t n = turnRotors ((List.range 4).foldl (serveOthers t (takeOwn t n k.val) [k.val]) (takeOwn t n k.val)) := by
  have hown : (((List.range 4).flatMap (ownOrder n)).filter [k.val].contains).foldl (takeOwn t) n = takeOwn t n k.val := by
    have hmem : k.val ∈ (List.range 4).flatMap (ownOrder n) := List.mem_flatMap.mpr ⟨k.val / 8, List.mem_range.mpr (by omega), mem_ownOrder.mpr rfl⟩
    simpa only [Bool.and_true] using foldl_filter_singleton (f := takeOwn t) (q := fun _ => true) nodup_allOrder hmem rfl n
  simp only [itemTake, List.map_cons, List.map_nil]
  rw [hown]

/-- A queue to which the cluster did not turn serves it nothing (R125). -/
theorem serveOthers_none {m : Node} (h : stealFrom t n k ≠ some d) : serveOthers t n [k] m d = m := by
  refine foldl_eq_self (fun b c hc => ?_) m
  have hc' := (List.mem_filter.mp hc).2
  simp only [Bool.and_eq_true, List.contains_cons, List.contains_nil, Bool.or_false, beq_iff_eq] at hc'
  exact absurd (hc'.1 ▸ hc'.2) h

/-- The queue to which the cluster turned serves it (R124, R125). -/
theorem serveOthers_steal {m : Node} (hd : d < 4) (hk : k < 32) (hkd : k / 8 ≠ d) (h : stealFrom t n k = some d) : serveOthers t n [k] m d = takeOther t d m k :=
  foldl_filter_singleton nodup_otherOrder (mem_otherOrder hd hk hkd) (by simp [h]) m

/-- What the queue to which a cluster turns is: one of another die, deeper than `STEAL_MIN`, while the cluster is idle and may take nothing of its own (R124). -/
theorem stealFrom_eq_some (h : stealFrom t n k = some d) : clusterIdle n k = true ∧ (∀ it ∈ dieQueue n (k / 8), mayTake t n k it = false) ∧ d < 4
    ∧ (k < 32 → k / 8 ≠ d) ∧ rd n (Rg.attDqCfgStealMin d) < (dieQueue n d).length := by
  unfold stealFrom at h
  split at h
  · cases h
  · rename_i hc
    simp only [Bool.or_eq_true, Bool.not_eq_true', not_or, Bool.not_eq_false, Bool.not_eq_true, List.any_eq_false] at hc
    have hmem := List.mem_of_find?_eq_some h
    simp only [List.map_cons, List.map_nil, List.mem_cons, List.not_mem_nil, or_false] at hmem
    exact ⟨hc.1.1, hc.2, by omega, by omega, by simpa using List.find?_some h⟩

theorem takeOwn_takes (hidle : clusterIdle n k = true) (hit : (dieQueue n (k / 8)).find? (mayTake t n k) = some it) : takeOwn t n k = takeItem t k n it := by
  simp only [takeOwn, hidle, hit, Bool.not_true, Bool.false_eq_true, if_false]

theorem takeOwn_nothing (h : ∀ it ∈ dieQueue n (k / 8), mayTake t n k it = false) : takeOwn t n k = n := by
  have hnone : (dieQueue n (k / 8)).find? (mayTake t n k) = none := List.find?_eq_none.mpr fun x hx => by simp [h x hx]
  unfold takeOwn
  split
  · rfl
  · rw [hnone]

/-- A cluster that has taken an item is not idle (R124). -/
theorem clusterIdle_takeItem (hit : it ∈ n.att.items) : clusterIdle (takeItem t k n it) k = false := by
  have hrun : { it with st := .running, cluster := some k, due := dueNotch t } ∈ (takeItem t k n it).att.items :=
    List.mem_map.mpr ⟨it, hit, if_pos (Item.at_iff.mpr ⟨rfl, rfl, rfl, rfl⟩)⟩
  have hbusy : ((takeItem t k n it).att.items.any fun i => i.st == .running && i.cluster == some k) = true :=
    List.any_eq_true.mpr ⟨_, hrun, by simp⟩
  simp only [clusterIdle, hbusy, Bool.not_true, Bool.and_false]

theorem dieQueue_mem (h : it ∈ dieQueue n d) : it ∈ n.att.items := (List.mem_filter.mp (List.mem_of_mem_take h)).1

/-- An idle cluster takes the oldest item it may from its die's queue (R124). -/
theorem itemTake_own {k : Fin 32} (hidle : clusterIdle n k.val = true) (hit : (dieQueue n (k.val / 8)).find? (mayTake t n k.val) = some it) :
    itemTake [k] t n = turnRotors (takeItem t k.val n it) := by
  have hbusy : clusterIdle (takeItem t k.val n it) k.val = false := clusterIdle_takeItem (dieQueue_mem (List.mem_of_find?_eq_some hit))
  rw [itemTake_singleton, takeOwn_takes hidle hit, foldl_eq_self fun m d _ => serveOthers_none fun h => ?_]
  rw [(stealFrom_eq_some h).1] at hbusy
  cases hbusy

/-- One that may take nothing of its own takes from the first other queue deeper than `STEAL_MIN` (R124). -/
theorem itemTake_other {k : Fin 32} (hs : stealFrom t n k.val = some d) (hit : (dieQueue n d).find? (mayTake t n k.val) = some it) :
    itemTake [k] t n = turnRotors (pmc (bump (bump (takeItem t k.val n it) (Rg.attStealsCount k.val) 1) (Rg.attDqStolenCount d) 1) k.val 0x1002 1) := by
  obtain ⟨-, hown, hd, hkd, hdeep⟩ := stealFrom_eq_some hs
  have hothers : ∀ (m : Node), ∀ e ∈ List.range 4, e ≠ d → serveOthers t n [k.val] m e = m :=
    fun m e _ hne => serveOthers_none fun h => hne (Option.some.inj (h.symm.trans hs))
  rw [itemTake_singleton, takeOwn_nothing hown, foldl_eq_of_unique List.nodup_range (List.mem_range.mpr hd) hothers, serveOthers_steal hd k.isLt (hkd k.isLt) hs]
  simp only [takeOther, Nat.not_le.mpr hdeep, hit, if_false]

end

/-! ## The end of an item -/

section

variable {t : Tck} {n : Node} {home handle g i : Nat} {x : Share} {it : Item}

/-- Without a fault of an array no unit loses its item (R151, R229). -/
theorem unitLost_nil (a : Nat) : unitLost [] a = false := rfl

/-- Nor does anything follow (R229). -/
theorem otherArrays_nil (t : Tck) (n : Node) : otherArrays t n [] = n := rfl

/-- An item that runs, is due and has left its unit is one whose end is taken (R167). -/
theorem itemRuns_guard (hst : it.st = .running) (hdue : it.due ≤ t.notches) (hbank : bankDone n it = true) :
    (it.st != .running || decide (t.notches < it.due) || !bankDone n it) = false := by
  simp [hst, hbank, Nat.not_lt.mpr hdue]

/-- What the end of an item leaves before its result is judged: the lines in error read, the bank-side unit freed, the pages read here warmer (R167, R205). -/
def endReads (t : Tck) (n : Node) (d : Desc) (it : Item) (errs : List (Nat × List Nat)) : Node :=
  ((livePages d it).filter fun p => fpnNode p.2 == nodeId n).foldl (fun m p => readHeat t m (fpnIdx p.2)) (freeBsu (ctrlReads t n errs) it)

section

variable {errs : List (Nat × List Nat)} {page : Nat} (hx : findShare n home handle = some x) (hit : findItem n home handle g i = some it) (hst : it.st = .running)
  (hdue : it.due ≤ t.notches) (hbank : bankDone n it = true)

include hx hit hst hdue hbank

/-- A running item whose pages are in order reports its leaf and ends (R132, R134). -/
theorem granuleItemEnd_reports (hf : pageFault (endReads t n x.desc it errs) x.desc it = none) :
    granuleItemEnd home handle g i errs [] page t n
      = endItem it t (leafDone (countItem (endReads t n x.desc it errs) x.desc it (itemLeaf (endReads t n x.desc it errs) x.desc it).2.1
          (itemLeaf (endReads t n x.desc it errs) x.desc it).2.2) x g i (itemLeaf (endReads t n x.desc it errs) x.desc it).1) := by
  unfold endReads at hf ⊢
  simp only [granuleItemEnd, itemEnd, List.filter_nil, sramFaults, List.foldl_nil, hx, hit, itemRuns_guard hst hdue hbank, unitLost_nil, otherArrays_nil, hf, Bool.false_eq_true, if_false]

/-- One that a page fails reports the fault and ends (R127). -/
theorem granuleItemEnd_fails {st fpn : Nat} (hf : pageFault (endReads t n x.desc it errs) x.desc it = some (st, fpn)) :
    granuleItemEnd home handle g i errs [] page t n = endItem it t (reportFault (countFault (endReads t n x.desc it errs) it st) x it st fpn) := by
  unfold endReads at hf ⊢
  simp only [granuleItemEnd, itemEnd, List.filter_nil, sramFaults, List.foldl_nil, hx, hit, itemRuns_guard hst hdue hbank, unitLost_nil, otherArrays_nil, hf, Bool.false_eq_true, if_false]

end

end

/-! ## The commands -/

section

variable (s : State) (home : BitVec 13) (h : Word) (g i : Nat)

theorem exec_launchDescriptorReceive (m : LaunchMsg) (plan : List ItemPlan) :
    exec (.launchDescriptorReceive m plan) s = .next (s.withNode (descriptorReceive m plan s.tck s.node)) := rfl
theorem exec_splitGranulePagesReceive (pages : List SplitPage) :
    exec (.splitGranulePagesReceive home h pages) s = .next (s.withNode (splitReceive home.toNat h.toNat pages s.node)) := rfl
theorem exec_launch : exec (.launch home h) s = .next (s.withNode (launch home.toNat h.toNat s.tck s.node)) := rfl
theorem exec_itemTake (cs : List (Fin 32)) : exec (.itemTake cs) s = .next (s.withNode (itemTake cs s.tck s.node)) := rfl
theorem exec_sliceStart : exec (.sliceStart home h g i) s = .next (s.withNode (sliceStart home.toNat h.toNat g i s.tck s.node)) := rfl
theorem exec_sliceOverrun (u : SliceUnit) : exec (.sliceOverrun u) s = .next { s with tck := (overrun u s.tck s.node).1, node := (overrun u s.tck s.node).2 } := rfl
theorem exec_terraceStall : exec (.terraceStall home h g i) s = .next (s.withNode (terraceStall home.toNat h.toNat g i s.tck s.node)) := rfl
theorem exec_demandPromotionDone : exec (.demandPromotionDone home h g i) s = .next (s.withNode (promotionDone home.toNat h.toNat g i s.tck s.node)) := rfl
theorem exec_readInPlaceDone (errs : List (Nat × List Nat)) :
    exec (.readInPlaceDone home h g i errs) s = .next (s.withNode (inPlaceDone home.toNat h.toNat g i errs s.tck s.node)) := rfl
theorem exec_granuleItemEnd (errs : List (Nat × List Nat)) (sram : List SramFault) (page : Nat) :
    exec (.granuleItemEnd home h g i errs sram page) s = .next { s with
      tck := (granuleItemEnd home.toNat h.toNat g i errs sram page s.tck s.node).1, node := (granuleItemEnd home.toNat h.toNat g i errs sram page s.tck s.node).2 } := rfl

end

/-- Settles O26: a holder takes, launches, serves and ends its items. -/
theorem holdersTakeLaunchAndEndTheirItems : Obligations.HoldersTakeLaunchAndEndTheirItems := by
  intro s home h g i
  refine ⟨fun p plan => ⟨fun hnew => ⟨fun n1 hroom => ?room, fun hfull => ?full⟩, fun hposted => ?posted⟩, fun d plan hd hs hf => ?desc, fun pages => ?split,
    fun x hsad hrun hstop hfence hx hl ht hd he hrows hacks hitem => ?launch, fun x it hx hit => ⟨fun hstop hl hst ht hsad hb hd => ?start, fun hst htick hnotch => ?stall,
      fun errs n1 hd hl hr hn => ?inPlace, fun errs page n hst hdue hbank hn => ⟨fun hf r hr => ?reports, fun st fpn r hf hr => ?fails⟩⟩,
    fun n x it hn hx hit hst hr => ?promoted, fun it hit hst ho ht => ⟨fun k hb hk => ?cluster, fun b r hb hr => ?bank⟩, fun m hm ht ho => ?mover,
    fun k it hidle => ⟨fun hit => ?own, fun d hs hit => ?other⟩⟩
  case room => rw [exec_launchDescriptorReceive, descriptorReceive_chain_room plan hnew hroom]
  case full => rw [exec_launchDescriptorReceive, descriptorReceive_chain_full plan hnew hfull]
  case posted => rw [exec_launchDescriptorReceive, descriptorReceive_chain_posted plan hposted]
  case desc => exact ⟨_, exec_launchDescriptorReceive s (.desc d) plan, rfl, takeDesc_takes plan hd hs hf⟩
  case split => rw [exec_splitGranulePagesReceive, splitReceive_eq]
  case launch =>
    obtain ⟨y, hy, hlaunched, hlate, hz⟩ := launch_launches hsad hrun hstop hfence hx hl ht hd he hrows hacks hitem
    exact ⟨_, y, exec_launch s home h, rfl, hy, hlaunched, hlate, hz⟩
  case start => rw [exec_sliceStart, sliceStart_enters hx hit hstop hl hst ht hsad hb hd]
  case stall => rw [exec_terraceStall, terraceStall_counts hx hit hst htick hnotch]
  case inPlace => rw [exec_readInPlaceDone, inPlaceDone_loads hx hit hd hl hr hn]
  case reports =>
    subst hn hr
    rw [exec_granuleItemEnd, granuleItemEnd_reports hx hit hst hdue hbank hf]
    rfl
  case fails =>
    subst hn hr
    rw [exec_granuleItemEnd, granuleItemEnd_fails hx hit hst hdue hbank hf]
    rfl
  case promoted =>
    subst hn
    rw [exec_demandPromotionDone, promotionDone_starts hx hit hst hr]
  case cluster => rw [exec_sliceOverrun, overrun, sliceOverrun_cluster hit hst ho ht hb hk]
  case bank =>
    subst hr
    rw [exec_sliceOverrun, overrun, sliceOverrun_bank hit hst ho ht hb]
  case mover => rw [exec_sliceOverrun, overrun, decide_eq_true hm, unitOverrun_counts ht ho]
  case own => rw [exec_itemTake, itemTake_own hidle hit]
  case other => rw [exec_itemTake, itemTake_other hs hit]

end Sys2Proof.Machine
end

section
/-! What reads of terrace 1, writes of its lines and the freeing of pages leave alone: sequences, commands, pages, the node's number. -/

namespace Sys2Proof.Machine

/-! ## Reading and writing lines (R221, R224) -/

/-- A view of the node that terrace 1, its integrity, its bank-side owners, the recorder and the counters are no part of. -/
structure LineBlind {β : Type} (g : Node → β) : Prop where
  t1 : ∀ n m, g { n with t1 := m } = g n
  mic : ∀ n m, g { n with mic := m } = g n
  bsu : ∀ n b, g { n with bsu := b } = g n
  svc : ∀ n x, g { n with svc := x } = g n
  free : ∀ n k, g { n with freeCtr := k } = g n
  count : ∀ n (f : Fld) v, f.off ≠ Rg.nidNodeNodeId.off → g (wr n f v) = g n

theorem LineBlind.seqs : LineBlind (·.seqs) := ⟨fun _ _ => rfl, fun _ _ => rfl, fun _ _ => rfl, fun _ _ => rfl, fun _ _ => rfl, fun _ _ _ _ => rfl⟩
theorem LineBlind.fe : LineBlind (·.fe) := ⟨fun _ _ => rfl, fun _ _ => rfl, fun _ _ => rfl, fun _ _ => rfl, fun _ _ => rfl, fun _ _ _ _ => rfl⟩
theorem LineBlind.ter : LineBlind (·.ter) := ⟨fun _ _ => rfl, fun _ _ => rfl, fun _ _ => rfl, fun _ _ => rfl, fun _ _ => rfl, fun _ _ _ _ => rfl⟩
theorem LineBlind.nodeId : LineBlind nodeId := ⟨fun _ _ => rfl, fun _ _ => rfl, fun _ _ => rfl, fun _ _ => rfl, fun _ _ => rfl, nodeId_wr⟩

section

variable {β : Type} {g : Node → β} (b : LineBlind g) (t : Tck) (n : Node) (a : Nat)

include b

theorem LineBlind.bump (f : Fld) (k : Nat) (h : f.off ≠ Rg.nidNodeNodeId.off) : g (bump n f k) = g n := b.count n f _ h

theorem LineBlind.raise (code : Nat) (args : Bytes) : g (raise t n code args) = g n := b.svc n _

theorem LineBlind.oweRow (row : Nat) : g (oweRow n row) = g n := by
  unfold Machine.oweRow
  split
  · rfl
  · exact b.mic n _

theorem LineBlind.noteRow : g (noteRow n a) = g n := by
  unfold Machine.noteRow
  extract_lets
  split
  · rw [b.oweRow, b.mic]
  · exact b.mic n _

theorem LineBlind.noteLane (lane : Nat) : g (noteLane t a n lane) = g n := by
  unfold Machine.noteLane
  extract_lets
  split
  · rw [b.raise, b.bump _ _ _ (by simp only []; omega), b.mic, b.mic]
  · exact b.mic n _

theorem LineBlind.noteErr (s ce ue : Nat) : g (noteErr n s ce ue) = g n := b.svc n _

theorem LineBlind.corrected (lanes : List Nat) : g (corrected t n a lanes) = g n := by
  unfold Machine.corrected
  rw [foldl_keeps g fun m k => b.noteLane t m a k, b.noteRow, b.noteErr, b.bump _ _ _ (by simp only []; omega)]

theorem LineBlind.poisonLine (kind : Nat) : g (poisonLine n a kind) = g n :=
  (b.mic { n with t1 := Mem.clear n.t1 (a / 64 * 64) 64 } _).trans (b.t1 n _)

theorem LineBlind.uncorrectable : g (uncorrectable t n a) = g n := by
  unfold Machine.uncorrectable
  extract_lets
  rw [b.oweRow, b.raise, b.mic, b.count _ _ _ (by decide), b.count _ _ _ (by decide), b.noteErr, b.bump _ _ _ (by simp only []; omega), b.poisonLine]

theorem LineBlind.escaped : g (escaped t n a) = g n := by
  unfold Machine.escaped takeFree
  dsimp only
  split
  · rw [b.uncorrectable, b.free]
  · exact (b.t1 { n with freeCtr := n.freeCtr + 1 } _).trans (b.free n _)

/-- A read by the memory controller, whatever it meets (R221, R223). -/
theorem LineBlind.ctrlRead (errs : List Nat) : g (ctrlRead t n a errs) = g n := by
  unfold Machine.ctrlRead
  split
  · rfl
  · split
    · split
      · rfl
      · exact (b.escaped t _ a).trans (b.mic n _)
    · split
      · rfl
      · rfl
      · exact b.corrected t n a _
      · exact b.uncorrectable t n a
      · exact b.escaped t n a

theorem LineBlind.ctrlReads (errs : List (Nat × List Nat)) : g (ctrlReads t n errs) = g n :=
  foldl_keeps g (fun m (e : Nat × List Nat) => b.ctrlRead t m e.1 e.2) errs n

theorem LineBlind.retiredAccess : g (retiredAccess t n a) = g n := by
  unfold Machine.retiredAccess
  split
  · rw [b.raise, b.bump _ _ _ (by decide)]
  · rfl

/-- A write of a piece of a line, held, discarded or done (R188, R224, R236). -/
theorem LineBlind.lineWrite (l : Bytes) : g (lineWrite t n a l).1 = g n := by
  unfold Machine.lineWrite
  extract_lets
  split
  · exact b.bsu n _
  · split
    · exact b.retiredAccess t n a
    · split
      · exact b.t1 n _
      · split
        · exact (b.mic _ _).trans (b.t1 n _)
        · exact b.bump n _ _ (by decide)

theorem LineBlind.nameWrite (l : Bytes) : g (nameWrite t n a l) = g n :=
  foldl_keeps g (fun m (p : Nat × Bytes) => b.lineWrite t m (resolve m p.1) p.2) _ n

end

/-! ## Freeing pages (R94) -/

/-- What waits to be freed under R94 and R201: the sequences with what they have retired, and the sources of moves. -/
abbrev retireView (n : Node) : Seqs × List (Nat × Nat × Nat × Nat) := (n.seqs, n.ter.freed)

theorem coarsen_retireView (n : Node) (k : Nat) : retireView (coarsen n k) = retireView n := by
  unfold coarsen
  split
  · rfl
  · dsimp only
    split <;> rfl

theorem cacheDrop_retireView (n : Node) (k : Nat) : retireView (cacheDrop n k) = retireView n := by
  unfold cacheDrop
  split
  · rfl
  · dsimp only
    split
    · exact coarsen_retireView n k
    · rfl

theorem freePage_retireView (n : Node) (k : Nat) : retireView (freePage n k) = retireView n := by
  unfold freePage
  split
  · split
    · rfl
    · exact foldl_keeps retireView cacheDrop_retireView _ n
  · rfl

theorem dropPage_retireView (n : Node) (f : Nat) : retireView (dropPage n f) = retireView n := by
  unfold dropPage
  split
  · rfl
  · split
    · exact freePage_retireView n _
    · rfl

end Sys2Proof.Machine
end

section
/-! Sequence commands in their turn, and `SEQ_OPEN`: a fresh sequence with its reservation, and the same one again (R78, R82, R85 to R88). -/

namespace Sys2Proof.Machine

section

variable {t : Tck} {n : Node} {h : Word} {c : Cmd} {x : Seqn}

/-- The checks of a command on a sequence open here pass, whether or not the command itself names a sealed form (R78, R326). -/
theorem seqChecks_open {seals : Bool} {l offs : List Nat} {b : Node} (hx : OnSeq n c x) (hs : seals = true → sealedClass c.q = true) (hh : headerOffs c = []) (hl : l = []) :
    seqChecks t n c seals l offs b = b := by
  obtain ⟨⟨hheld, hours⟩, hopen, hsealed⟩ := hx
  refine checks_pass hheld (fun hb => ?_) hh hl hours (.inl (by rw [hopen]; rfl))
  rcases Bool.or_eq_true_iff.mp hb with hb | hb
  · exact hs hb
  · exact hsealed (by simpa only [sealedSeq, hopen] using hb)

/-! ## SEQ_OPEN -/

theorem exec_seqOpen (h : Word) (s : State) : exec (.seqOpen h) s = .next (s.withNode (seqOpen h.toNat s.tck s.node)) := rfl

/-- The sequence that a `SEQ_OPEN` opens, with the frames of its longest form reserved (R87). -/
abbrev reservedSeqn (c : Cmd) : Seqn := openSeqn c (framesFor (openSeqn c 0) (c.f 44 4))

/-- Without an offending field, with room and quota, and with a run for every list of a region, nothing keeps a sequence from being opened (R78, R82, R87). -/
theorem freshOffs_nil (ho : openOffs n c = []) (hmax : n.seqs.open_.length < maxSeqs) (hquota : framesFor (openSeqn c 0) (c.f 44 4) ≤ unreserved n (compOf (c.f 24 8)))
    (hrun : bitAt (c.f 32 1) 2 = true → (regionRuns t (reservedSeqn c) (layerGroups (openSeqn c 0)) n []).isNone = false) : freshOffs t n c = [] := by
  have hroom : roomOffs n (reservedSeqn c) 24 44 = [] := by
    rw [roomOffs, offIf_false (decide_eq_false (Nat.not_le.mpr hmax)), List.nil_append]
    exact offIf_false (decide_eq_false (Nat.not_lt.mpr hquota))
  have hregion : ((reservedSeqn c).region && (regionRuns t (reservedSeqn c) (layerGroups (reservedSeqn c)) n []).isNone) = false := by
    cases hb : (reservedSeqn c).region with
    | false => rfl
    | true => exact hrun hb
  simp only [freshOffs, ho, hroom, List.append_nil, List.all_nil, if_true, offIf_false hregion]

/-- The bits of a `SEQ_OPEN` that are reserved and clear (R9). -/
theorem openRsv_nil (hm : c.f 32 1 < 16) (hp : c.f 41 1 < 4) (hv : rsv c 60 63 = []) : offIf (16 ≤ c.f 32 1) 32 ++ offIf (4 ≤ c.f 41 1) 41 ++ rsv c 60 63 = [] := by
  rw [offIf_false (decide_eq_false (Nat.not_le.mpr hm)), offIf_false (decide_eq_false (Nat.not_le.mpr hp)), hv]
  rfl

section

variable (hr : Runs n h opSeqOpen c) (hs : bitAt (c.f 32 1) 0 = true → sealedClass c.q = true) (hm : c.f 32 1 < 16) (hp : c.f 41 1 < 4) (hv : rsv c 60 63 = [])

include hr hs hm hp hv

/-- A sequence open nowhere is opened afresh where nothing keeps it from it (R78, R82, R342). -/
theorem seqOpen_fresh (ht : SeqTurn n c) (hx : mget? n.seqs.open_ (c.f 24 8) = none) (he : mget? n.seqs.elsewhere (c.f 24 8) = none) (hd : nodeState n (nodeId n) ≠ 2)
    (ho : freshOffs t n c = []) : seqOpen h.toNat t n = openFresh t n c := by
  obtain ⟨hf, hop, hst, hq, hh⟩ := hr
  have hhome : noNewHome n = false := beq_false_of_ne hd
  rw [seqOpen, withCmd_eq _ hf hop hst hq, checks_none ht.1 hs hh (openRsv_nil hm hp hv) ht.2 hx he]
  simp only [mhas, hx, Option.isSome_none, hhome, Bool.false_eq_true, if_false, orBad_nil ho]

/-- An open sequence opened again with the body that opened it: RESULT 0100h (R88). -/
theorem seqOpen_again (hx : OnSeq n c x) (hb : x.openBody = slice c.entry 24 40) : seqOpen h.toNat t n = complete t n h.toNat stOk [0, 1] := by
  obtain ⟨hf, hop, hst, hq, hh⟩ := hr
  have ⟨_, hopen, _⟩ := hx
  have ho : reopenOffs c x = [] := if_pos hb
  rw [seqOpen, withCmd_eq _ hf hop hst hq, seqChecks_open hx hs hh (openRsv_nil hm hp hv)]
  simp only [mhas, hopen, Option.isSome_some, if_true, orBad_nil ho]
  rfl

end

/-- A paged sequence is opened without a page (R87). -/
theorem openFresh_paged (hb : bitAt (c.f 32 1) 2 = false) : openFresh t n c = complete t (openIn n (reservedSeqn c)) c.handle stOk [] := by
  have hreg : (reservedSeqn c).region = false := hb
  simp only [openFresh, hreg, Bool.false_eq_true, if_false]

/-- A region sequence is opened with the runs of page slots that the allocation gives (R82). -/
theorem openFresh_region {n1 : Node} {m : NMap PList} (hb : bitAt (c.f 32 1) 2 = true) (hrun : regionRuns t (reservedSeqn c) (layerGroups (openSeqn c 0)) n [] = some (n1, m)) :
    openFresh t n c = complete t (openIn n1 { reservedSeqn c with lists := m }) c.handle stOk [] := by
  have hreg : (reservedSeqn c).region = true := hb
  have hrun' : regionRuns t (reservedSeqn c) (layerGroups (reservedSeqn c)) n [] = some (n1, m) := hrun
  simp only [openFresh, hreg, if_true, hrun']

end

/-- Settles O19: a fresh sequence is opened with the frames of its longest form reserved, and opened again it is as it was. -/
theorem sequencesOpenWithTheirReservation : Obligations.SequencesOpenWithTheirReservation := by
  intro s h c hr ht hs hm hp hv
  have hh := findCmd_handle hr.1
  refine ⟨fun hx he hd ho hmax hquota => ⟨fun hb => ?paged, fun n1 m hb hrun => ?region⟩, fun x hx hsealed hb => ?again⟩
  case paged =>
    have hfresh : freshOffs s.tck s.node c = [] := freshOffs_nil ho hmax hquota fun hb' => absurd (hb.symm.trans hb') Bool.false_ne_true
    rw [exec_seqOpen, seqOpen_fresh hr hs hm hp hv ht hx he hd hfresh, openFresh_paged hb, hh]
  case region =>
    have hfresh : freshOffs s.tck s.node c = [] := freshOffs_nil ho hmax hquota fun _ => by rw [hrun]; rfl
    rw [exec_seqOpen, seqOpen_fresh hr hs hm hp hv ht hx he hd hfresh, openFresh_region hb hrun, hh]
  case again => rw [exec_seqOpen, seqOpen_again hr hs hm hp hv ⟨ht, hx, hsealed⟩ hb]

end Sys2Proof.Machine
end

section
/-! `SEQ_CLOSE`, `SEQ_EXTEND` and `PAGELIST_SWAP`: what a sequence gives back, how it grows, how a new body is installed (R91 to R96, R99). -/

namespace Sys2Proof.Machine

section

variable {t : Tck} {n : Node} {h : Word} {c : Cmd} {x : Seqn}

theorem exec_seqClose (h : Word) (s : State) : exec (.seqClose h) s = .next (s.withNode (seqClose h.toNat s.tck s.node)) := rfl
theorem exec_seqExtend (h : Word) (s : State) : exec (.seqExtend h) s = .next (s.withNode (seqExtend h.toNat s.tck s.node)) := rfl
theorem exec_pagelistSwap (h : Word) (s : State) : exec (.pagelistSwap h) s = .next (s.withNode (pagelistSwap h.toNat s.tck s.node)) := rfl

/-! ## SEQ_CLOSE -/

/-- A sequence is closed, and its entries that name a page are counted (R99). -/
theorem seqClose_closes (hr : Runs n h opSeqClose c) (hx : OnSeq n c x) (hv : rsv c 32 63 = []) :
    seqClose h.toNat t n = complete t (closeSeq t n x) h.toNat stOk (leBytes 4 ((x.lists.flatMap fun p => plFpns n p.2).filter fun f => fpnIdx f != noPage).length) := by
  obtain ⟨hf, hop, hst, hq, hh⟩ := hr
  rw [seqClose, withCmd_eq _ hf hop hst hq, withSeq_pass hx hh hv rfl]

/-! ## SEQ_EXTEND -/

/-- The granule that a `SEQ_EXTEND` may name: none, the sequence's own where it is sealed, or one that divides every base position (R95). -/
def GranuleFits (c : Cmd) (x : Seqn) : Prop :=
  c.f 36 1 = 0xFF ∨ (x.sealed = true ∧ c.f 36 1 = x.granule ∧ c.f 36 1 ≤ 8)
    ∨ (x.sealed = false ∧ c.f 36 1 ≤ 8 ∧ ∀ p ∈ x.lists, mult p.2.posBase (64 * 2 ^ c.f 36 1) = true)

/-- A granule that fits offends nowhere, and the sequence ends with the one named, unless FFh (R95). -/
theorem GranuleFits.passes (hg : GranuleFits c x) :
    (c.f 36 1 != 0xFF && (decide (8 < c.f 36 1) || (x.sealed && c.f 36 1 != x.granule))) = false
    ∧ (regrains c x && x.lists.any fun p => !mult p.2.posBase (64 * 2 ^ c.f 36 1)) = false
    ∧ (if regrains c x then c.f 36 1 else x.granule) = if c.f 36 1 = 0xFF then x.granule else c.f 36 1 := by
  rcases hg with hff | ⟨hs, hown, hle⟩ | ⟨hs, hle, hmult⟩
  · simp [regrains, hff]
  · have hne : x.granule ≠ 0xFF := by omega
    simp [regrains, hs, hown, hne, hown ▸ hle]
  · have hne : c.f 36 1 ≠ 0xFF := by omega
    simpa [regrains, hs, hne, hle] using hmult

/-- Without an offending field (R87, R95, R96). -/
theorem extendOffs_nil (hmin : x.maxLen ≤ c.f 32 4) (hmax : c.f 32 4 ≤ 2 ^ 31) (hrope : x.rope ≠ 0 → c.f 32 4 ≤ x.ropeLen)
    (hquota : framesFor x (c.f 32 4) - framesFor x x.maxLen ≤ unreserved n (compOf x.id)) (hg : GranuleFits c x) : extendOffs n c x = [] := by
  obtain ⟨hgran, hbase, -⟩ := hg.passes
  have hlen : (decide (c.f 32 4 < x.maxLen) || decide (2 ^ 31 < c.f 32 4) || (x.rope != 0 && decide (x.ropeLen < c.f 32 4))
      || decide (unreserved n (compOf x.id) < framesFor x (c.f 32 4) - framesFor x x.maxLen)) = false := by
    simp only [Bool.or_eq_false_iff, Bool.and_eq_false_imp, decide_eq_false_iff_not, Nat.not_lt, bne_iff_ne]
    exact ⟨⟨⟨hmin, hmax⟩, hrope⟩, hquota⟩
  simp only [extendOffs, hgran, hbase, offIf_false, List.append_nil]
  exact offIf_false hlen

/-- A sequence is extended, its marked bodies retired (R94 to R96). -/
theorem seqExtend_extends (hr : Runs n h opSeqExtend c) (hx : OnSeq n c x) (hv : rsv c 37 63 = []) (ho : extendOffs n c x = []) :
    seqExtend h.toNat t n = complete t (retirePages t (modSeq n x.id fun _ => extended n c x) [] (x.lists.flatMap fun p => oldBody x p.1 p.2)) h.toNat stOk [] := by
  obtain ⟨hf, hop, hst, hq, hh⟩ := hr
  rw [seqExtend, withCmd_eq _ hf hop hst hq, withSeq_pass hx hh hv ho]

/-! ## PAGELIST_SWAP -/

/-- A range that no head holds is left as it is, and is clear (R280). -/
theorem recallRange_clear {inv : Bool} {a k : Nat} (hl : heldLines n inv a k = []) : recallRange t inv n a k = (n, true) := by
  simp only [recallRange, hl, List.foldl_nil, List.isEmpty_nil]

/-- A range of which heads hold lines is not clear (R280). -/
theorem recallRange_held {inv : Bool} {a k : Nat} (hl : heldLines n inv a k ≠ []) : (recallRange t inv n a k).2 = false :=
  List.isEmpty_eq_false_iff.mpr hl

/-- The sequence with its new body (R93). -/
def swapped (x : Seqn) (c : Cmd) (es : List Nat) : Seqn :=
  { x with lists := mset x.lists (c.f 32 2 * x.groups + c.f 34 1) (swapBody x c es), extra := x.extra.filter fun f => !es.contains f }

theorem placePages_seqs (n : Node) (x : Seqn) (l g pb : Nat) (es : List Nat) : (placePages n x l g pb es).seqs = n.seqs := by
  refine foldl_keeps (·.seqs) (fun m j => ?_) _ n
  unfold placeOne
  dsimp only
  split <;> rfl

/-- Of all open sequences a swap changes the one alone (R93). -/
theorem swapIn_open (es : List Nat) (hx : mget? n.seqs.open_ x.id = some x) (k : Nat) :
    mget? (swapIn t n x c es).seqs.open_ k = if k = x.id then some (swapped x c es) else mget? n.seqs.open_ k := by
  have hset (j : Nat) : mget? (setList n x.id (c.f 32 2) (c.f 34 1) (swapBody x c es)).seqs.open_ j
      = if j = x.id then some { x with lists := mset x.lists (c.f 32 2 * x.groups + c.f 34 1) (swapBody x c es) } else mget? n.seqs.open_ j := by
    rw [setList, modSeq, mget?_mmod, hx]
    rfl
  rw [swapIn, modSeq, mget?_mmod, placePages_seqs]
  simp only [retirePages, hset]
  split
  · simp only [if_true]
    rfl
  · rfl

section

variable (hr : Runs n h opPagelistSwap c) (hx : OnSeq n c x) (hv : rsv c 52 63 = []) (ho : swapOffs n c x = [])
  (hext : c.f 35 1 = 1 → c.f 36 4 ≠ 0 → extentsHeld n (c.f 40 8) (8 * c.f 36 4) = true)

/-- The extents of a body in shared memory are held by a head (R91, R274). -/
theorem swapExtents_held (hext : c.f 35 1 = 1 → c.f 36 4 ≠ 0 → extentsHeld n (c.f 40 8) (8 * c.f 36 4) = true) :
    (c.f 35 1 == 1 && c.f 36 4 != 0 && !extentsHeld n (c.f 40 8) (8 * c.f 36 4)) = false := by
  simpa [Bool.and_eq_false_imp] using hext

include hr hx hv ho hext

/-- A source that heads hold is recalled from them, and the command waits (R280). -/
theorem pagelistSwap_recalls (h1 : c.f 35 1 = 1) (hl : heldLines n true (c.f 40 8) (8 * c.f 36 4) ≠ []) :
    pagelistSwap h.toNat t n = (recallRange t true n (c.f 40 8) (8 * c.f 36 4)).1 := by
  obtain ⟨hf, hop, hst, hq, hh⟩ := hr
  have hoffs : swapOffs n c x ++ (if c.f 35 1 == 0 && (swapOffs n c x).all (40 ≤ ·) then entryOffs n x (swapEntries n c) else []) = [] := by
    rw [ho, h1]
    rfl
  rw [pagelistSwap, withCmd_eq _ hf hop hst hq, withSeq_pass hx hh hv hoffs]
  simp only [swapExtents_held hext, if_pos h1, recallRange_held hl, Bool.not_false, Bool.false_eq_true, if_true, if_false]

/-- A clear source whose entries are in order is installed, one generation on (R91 to R93). -/
theorem pagelistSwap_installs (hl : c.f 35 1 = 1 → heldLines n true (c.f 40 8) (8 * c.f 36 4) = []) (he : entryOffs n x (swapEntries n c) = [])
    (hfor : ∀ e ∈ swapEntries n c, foreignEntry n x e = false) :
    pagelistSwap h.toNat t n
      = complete t (swapIn t n x c (swapEntries n c)) h.toNat stOk (leBytes 4 (((listOf x (c.f 32 2) (c.f 34 1)).generation + 1) % 2 ^ 32)) := by
  obtain ⟨hf, hop, hst, hq, hh⟩ := hr
  have hoffs : swapOffs n c x ++ (if c.f 35 1 == 0 && (swapOffs n c x).all (40 ≤ ·) then entryOffs n x (swapEntries n c) else []) = [] := by
    rw [ho, he, ite_self]
    rfl
  have hclear : (if c.f 35 1 = 1 then recallRange t true n (c.f 40 8) (8 * c.f 36 4) else (n, true)) = (n, true) := by
    split
    · exact recallRange_clear (hl ‹_›)
    · rfl
  have hnone : (swapEntries n c).any (foreignEntry n x) = false := List.any_eq_false.mpr fun e hm => by rw [hfor e hm]; decide
  rw [pagelistSwap, withCmd_eq _ hf hop hst hq, withSeq_pass hx hh hv hoffs]
  simp only [swapExtents_held hext, hclear, hnone, orBad_nil he, Bool.not_true, Bool.false_eq_true, if_false]

end

end

/-- Settles O20: a closed sequence gives back what it held, an extended one grows, a swapped list has its new body. -/
theorem sequencesCloseExtendAndSwap : Obligations.SequencesCloseExtendAndSwap := by
  intro s h c x hx
  have ⟨_, hopen, _⟩ := hx
  refine ⟨fun hr hv => ?closed, fun hr hv hid hmin hmax hrope hquota hg => ?extended, fun hr hv hid ho hext => ⟨fun h1 hl => ?recalled, fun es hl hes he hfor => ?installed⟩⟩
  case closed =>
    rw [exec_seqClose, seqClose_closes hr hx hv]
    rfl
  case extended =>
    rw [← hid] at hopen
    have hg : GranuleFits c x := hg
    obtain ⟨-, -, hgran⟩ := hg.passes
    have ho : extendOffs s.node c x = [] := extendOffs_nil hmin hmax hrope hquota hg
    refine ⟨_, extended s.node c x, by rw [exec_seqExtend, seqExtend_extends hr hx hv ho], rfl, mmod_some hopen, ?_⟩
    rw [extended, hgran]
  case recalled => rw [exec_pagelistSwap, pagelistSwap_recalls hr hx hv ho hext h1 hl]
  case installed =>
    subst hes
    rw [← hid] at hopen
    refine ⟨_, swapped x c (swapEntries s.node c), by rw [exec_pagelistSwap, pagelistSwap_installs hr hx hv ho hext hl he hfor], swapIn_open _ hopen, rfl, fun k => ?_⟩
    simp only [swapped, mget?_mset, swapBody, beq_iff_eq]

end Sys2Proof.Machine
end

section
/-! `SEQ_FORK` and `COPY_PAGES`: the child's lists, the pages made, and the wait for room (R97, R103, R200). -/

namespace Sys2Proof.Machine

section

variable {t : Tck} {n : Node} {h : Word} {c : Cmd} {x : Seqn} {peer : PeerAns}

theorem exec_seqFork (h : Word) (peer : PeerAns) (s : State) : exec (.seqFork h peer) s = .next (s.withNode (seqFork h.toNat peer s.tck s.node)) := rfl
theorem exec_copyPages (h : Word) (peer : PeerAns) (s : State) : exec (.copyPages h peer) s = .next (s.withNode (copyPages h.toNat peer s.tck s.node)) := rfl
theorem exec_copyPagesTimeout (h : Word) (s : State) : exec (.copyPagesTimeout h) s = .next (s.withNode (copyTimeout h.toNat s.tck s.node)) := rfl

/-! ## SEQ_FORK -/

/-- The child's lists, with what building them has made of the node; nothing where a copy finds no room (R97, R200). -/
def forkLists (t : Tck) (n0 : Node) (c : Cmd) (x : Seqn) (peer : PeerAns) : Option (AppSt × NMap PList) :=
  (layerGroups x).foldl (fun acc y => forkList t c x (forkChild c x) y acc) (some (⟨n0, peer.pages, peer.data, peerPoison peer⟩, []))

/-- How a fork ends, as its lists could be built (R97, R200, R224). -/
def forkEnd (t : Tck) (n0 : Node) (h : Nat) (c : Cmd) (x : Seqn) : Option (AppSt × NMap PList) → Node
  | none => allocWaits n0 h
  | some (a, m) =>
    match a.bad with
    | some k => complete t (allocOver (bump n0 Rg.micPoisonPartialWr 1) h) h (if k = 2 then stOwnerLost else stMemUncorr) []
    | none => complete t (allocOver (openIn a.n { forkChild c x with reserved := framesFor (forkChild c x) (c.f 46 4), lists := m }) h) h stOk []

/-- A fork without an offending field builds the child's lists from the parent's (R97). -/
theorem seqFork_builds (hr : Runs n h opSeqFork c) (hx : OnSeq n c x) (hs : bitAt (c.f 44 1) 0 = true → sealedClass c.q = true) (hm : c.f 44 1 < 16) (hv : rsv c 50 63 = [])
    (hours : compOurs n (compOf (c.f 32 8)) = true) (he : mget? n.seqs.elsewhere (c.f 32 8) = none) (ho : forkOffs n c x = []) :
    seqFork h.toNat peer t n = forkEnd t (ctrlReads t n peer.errs) h.toNat c x (forkLists t (ctrlReads t n peer.errs) c x peer) := by
  obtain ⟨hf, hop, hst, hq, hh⟩ := hr
  have hl : offIf (decide (16 ≤ c.f 44 1)) 44 ++ rsv c 50 63 = [] := by
    rw [offIf_false (decide_eq_false (Nat.not_le.mpr hm)), hv]
    rfl
  have ⟨_, hopen, _⟩ := hx
  rw [seqFork, withCmd_eq _ hf hop hst hq, seqChecks_open hx hs hh hl]
  simp only [hopen, hours, he, orBad_nil ho, Bool.not_true, Bool.false_eq_true, if_false]
  rfl

/-! ## COPY_PAGES -/

/-- Without an offending field the destination's number is one of a node (R103). -/
theorem copyOffs_dest (ho : copyOffs n c peer x = []) : c.f 34 2 < 8192 := by
  refine Nat.lt_of_not_le fun hle => ?_
  have hd : decide (8192 ≤ c.f 34 2) = true := decide_eq_true hle
  simp [copyOffs, hd, offIf] at ho

/-- A copy without an offending field or a foreign source takes its snapshot and begins (R89, R103). -/
theorem copyPages_begins (hr : Runs n h opCopyPages c) (hx : OnSeq n c x) (hv33 : rsv c 33 33 = []) (hv56 : rsv c 56 63 = []) (ho : copyOffs n c peer x = [])
    (hfor : ∀ f ∈ copySources n c, foreignSource n x f = false) : copyPages h.toNat peer t n = copyTo t n c x peer := by
  obtain ⟨hf, hop, hst, hq, hh⟩ := hr
  have hl : rsv c 33 33 ++ offIf (decide (8192 ≤ c.f 34 2)) 34 ++ rsv c 56 63 = [] := by
    rw [hv33, offIf_false (decide_eq_false (Nat.not_le.mpr (copyOffs_dest ho))), hv56]
    rfl
  have hnone : (copySources n c).any (foreignSource n x) = false := List.any_eq_false.mpr fun f hm => by rw [hfor f hm]; decide
  rw [copyPages, withCmd_eq _ hf hop hst hq, withSeq_pass hx hh hl ho]
  simp only [hnone, Bool.false_eq_true, if_false]

/-- Reads by the memory controller change no snapshot, so no list read looks changed for them (R89). -/
theorem snapTorn_ctrlReads (errs : List (Nat × List Nat)) (k : Nat) : snapTorn (ctrlReads t n errs) x k = snapTorn n x k := by
  rw [snapTorn, LineBlind.seqs.ctrlReads, snapTorn]

section

variable {fs : List Nat} (hsnap : snapTorn n x c.handle = false)

include hsnap

/-- A copy to this node ends with the pages made, once none is left to make (R103). -/
theorem copyGoOn_here_done {n2 : Node} {ids : List Nat} (hd : c.f 34 2 = nodeId n) (hmade : copyLocal t c x fs peer 0 (c.f 36 2) 0 (ctrlReads t n peer.errs) = (n2, ids, 0)) :
    copyGoOn t n c x fs peer [] (c.f 36 2) = copyDone t n2 c x ids := by
  simp only [copyGoOn, snapTorn_ctrlReads, hsnap, LineBlind.nodeId.ctrlReads, hd, hmade, List.length_nil, List.nil_append, Bool.false_eq_true, if_true, if_false]

/-- While frames for a page are wanting it waits, with the pages made so far (R200). -/
theorem copyGoOn_here_waits {n2 : Node} {ids : List Nat} {left : Nat} (hd : c.f 34 2 = nodeId n)
    (hmade : copyLocal t c x fs peer 0 (c.f 36 2) 0 (ctrlReads t n peer.errs) = (n2, ids, left)) (hleft : left ≠ 0) :
    copyGoOn t n c x fs peer [] (c.f 36 2)
      = allocWaits { n2 with seqs := { n2.seqs with copies := n2.seqs.copies.filter (·.handle != c.handle) ++ [⟨c.handle, ids, left⟩] } } c.handle := by
  simp only [copyGoOn, snapTorn_ctrlReads, hsnap, LineBlind.nodeId.ctrlReads, hd, hmade, hleft, List.length_nil, List.nil_append, Bool.false_eq_true, if_true, if_false]

/-- A copy to another node ends with the pages that node has answered with, when they are enough (R103). -/
theorem copyGoOn_there (hd : c.f 34 2 ≠ nodeId n) (hpages : c.f 36 2 ≤ peer.pages.length) :
    copyGoOn t n c x fs peer [] (c.f 36 2) = copyDone t (ctrlReads t n peer.errs) c x ((peer.pages.take (c.f 36 2)).map (mkFpn (c.f 34 2))) := by
  simp only [copyGoOn, snapTorn_ctrlReads, hsnap, LineBlind.nodeId.ctrlReads, hd, Nat.sub_eq_zero_of_le hpages, List.nil_append, Bool.false_eq_true, if_true, if_false]

end

/-- As many bytes as eight for each number. -/
theorem length_flatMap_leBytes (k : Nat) (l : List Nat) : (l.flatMap (leBytes k)).length = k * l.length := by
  induction l with
  | nil => rfl
  | cons a l ih => rw [List.flatMap_cons, List.length_append, leBytes_length, ih, List.length_cons, Nat.mul_succ, Nat.add_comm]

/-- Bytes written to host memory read back (R91). -/
theorem hostRead_hostWrite (space a : Nat) (b : Bytes) (hwf : Memory.wf 0 n.hmem = true) : hostRead (hostWrite n space a b) space a b.length = b :=
  Mem.read_write 0 b n.hmem (hostKey space a) hwf

/-- The end of a copy whose lists are as its snapshot has them: the pages' numbers stand in the host buffer (R103). -/
theorem copyDone_writes (fpns : List Nat) (hsnap : snapTorn n x c.handle = false) (hwf : Memory.wf 0 n.hmem = true) :
    ∃ m, copyDone t n c x fpns = complete t m c.handle stOk [] ∧ hostRead m c.mem (c.f 48 8) (8 * fpns.length) = fpns.flatMap (leBytes 8) := by
  refine ⟨_, by rw [copyDone, hsnap]; rfl, ?_⟩
  rw [← length_flatMap_leBytes 8 fpns]
  exact hostRead_hostWrite (n := copyDrop n c []) c.mem (c.f 48 8) (fpns.flatMap (leBytes 8)) hwf

/-- Past its bound a copy that still waits frees what it has made and ends (R103). -/
theorem copyTimeout_ends {h : Nat} {j : CopyJob} (hf : findCmd n h = some c) (hj : n.seqs.copies.find? (·.handle == h) = some j)
    (hb : t.at (c.accTick + rd n Rg.cmdHorizonDeadlineDef + 1) 0 ≤ t.now) : copyTimeout h t n = complete t (copyDrop n c j.got) h stDeadline [] := by
  simp only [copyTimeout, hf, hj, hb, if_true]

end

/-- Settles O21: a fork opens its child or waits, a copy ends with its pages or waits, and past its bound frees them. -/
theorem forksAndCopiesMakeNewPages : Obligations.ForksAndCopiesMakeNewPages := by
  intro s h c peer x
  refine ⟨fun hr hx hs hm hv hours he ho n0 r hn0 hlists => ?fork, fun fs n1 hr hx hv33 hv56 ho hfs hfor hn1 hsnap => ?copy,
    fun n fpns hf hsnap hwf => ?written, fun j hf hj hb => ?late⟩
  case fork =>
    subst hn0
    have hlists : forkLists s.tck (ctrlReads s.tck s.node peer.errs) c x peer = r := hlists
    have hend : exec (.seqFork h peer) s = .next (s.withNode (forkEnd s.tck (ctrlReads s.tck s.node peer.errs) h.toNat c x r)) := by
      rw [exec_seqFork, seqFork_builds hr hx hs hm hv hours he ho, hlists]
    refine ⟨fun hr => by rw [hend, hr]; rfl, fun a m hr => ⟨fun hb => ?_, fun k hb => ?_⟩⟩
    · rw [hend, hr]
      simp only [forkEnd, hb]
    · rw [hend, hr]
      simp only [forkEnd, hb]
  case copy =>
    subst hfs
    have hh : c.handle = h.toNat := findCmd_handle hr.1
    rw [← hh] at hn1 hsnap ⊢
    have hid : nodeId n1 = nodeId s.node := by rw [hn1]; rfl
    have hto : exec (.copyPages h peer) s = .next (s.withNode (copyTo s.tck s.node c x peer)) := by
      rw [exec_copyPages, copyPages_begins hr hx hv33 hv56 ho hfor]
    refine ⟨fun hd n2 ids left hmade => ?_, fun hd hpages => ?_⟩
    · have hhere : copyTo s.tck s.node c x peer = copyGoOn s.tck n1 c x (copySources s.node c) peer [] (c.f 36 2) := by
        rw [copyTo, if_pos hd, hn1]
      rw [hto, hhere]
      refine ⟨fun h0 => ?_, fun h0 => ?_⟩
      · rw [copyGoOn_here_done hsnap (hd.trans hid.symm) (h0 ▸ hmade)]
      · rw [copyGoOn_here_waits hsnap (hd.trans hid.symm) hmade h0]
    · rw [hto, copyTo, if_neg hd, ← hn1, copyGoOn_there (n := emit n1 _) hsnap (fun e => hd (e.trans hid)) hpages]
  case written =>
    have hh : c.handle = h.toNat := findCmd_handle hf
    rw [← hh] at hsnap ⊢
    exact copyDone_writes fpns hsnap hwf
  case late => rw [exec_copyPagesTimeout, copyTimeout_ends hf hj hb]

end Sys2Proof.Machine
end

section
/-! A write on the marked lines of a list, and what a tick boundary frees (R90, R94, R201). -/

namespace Sys2Proof.Machine

section

variable {t : Tck} {n : Node} {a : Nat} {b : Bytes}

theorem exec_listInplaceWrite (a : BitVec 64) (b : Bytes) (s : State) : exec (.listInplaceWrite a b) s = .next (s.withNode (inplaceWrite a.toNat b s.tck s.node)) := rfl
theorem exec_retiredBodyFree (released : List Nat) (s : State) : exec (.retiredBodyFree released) s = .next (s.withNode (retiredFree released s.tck s.node)) := rfl

/-! ## LIST_INPLACE_WRITE -/

/-- A write on marked lines raises the versions of their lists, and takes effect (R90). -/
theorem inplaceWrite_marked (h : marked n a b.length ≠ []) : inplaceWrite a b t n = nameWrite t (bumpVersions t n a b.length) a b := by
  simp only [inplaceWrite, List.isEmpty_eq_false_iff.mpr h, Bool.false_eq_true, if_false]

/-- A write that lands on no marked line is none of this command's (R90). -/
theorem inplaceWrite_unmarked (h : marked n a b.length = []) : inplaceWrite a b t n = n := by
  simp only [inplaceWrite, h, List.isEmpty_nil, if_true]

/-- Where one list is open and nothing is retired, its body alone can be marked (R90). -/
theorem marked_single {sh k len : Nat} {x : Seqn} {p : PList} (ho : n.seqs.open_ = [(sh, x)]) (hl : x.lists = [(k, p)]) (hret : n.seqs.retired = []) (hm : marks a len p = true) :
    marked n a len = [⟨sh, x.groups, k, p.body, 8 * p.length⟩] := by
  simp [marked, ho, hl, hret, hm]

/-- Raising a list's version changes its sequence in that alone, and records the event (R90). -/
theorem bumpVersion_open (o : OldBody) : (bumpVersion t a n o).seqs.open_
    = mmod n.seqs.open_ o.seq fun x => { x with lists := mmod x.lists o.list fun p => { p with version := (p.version + 1) % 2 ^ 32 } } := rfl

/-- A change of the one key that a map has. -/
theorem mmod_singleton {β : Type} (k : Nat) (v : β) (f : β → β) : mmod [(k, v)] k f = [(k, f v)] := by
  simp [mmod, mget?, mset]

/-- The one list open has its version raised; commands and pages are as they were (R90). -/
theorem inplaceWrite_single {sh k : Nat} {x : Seqn} {p : PList} (ho : n.seqs.open_ = [(sh, x)]) (hl : x.lists = [(k, p)]) (hret : n.seqs.retired = [])
    (hm : marks a b.length p = true) :
    (inplaceWrite a b t n).seqs.open_ = [(sh, { x with lists := [(k, { p with version := (p.version + 1) % 2 ^ 32 })] })]
    ∧ (inplaceWrite a b t n).fe = n.fe ∧ (inplaceWrite a b t n).ter = n.ter := by
  have hmarked := marked_single ho hl hret hm
  have hbump : bumpVersions t n a b.length = bumpVersion t a n ⟨sh, x.groups, k, p.body, 8 * p.length⟩ := by
    rw [bumpVersions, hmarked, List.foldl_cons, List.foldl_nil]
  rw [inplaceWrite_marked (by rw [hmarked]; exact List.cons_ne_nil _ _), hbump]
  refine ⟨?_, LineBlind.fe.nameWrite t _ a b, LineBlind.ter.nameWrite t _ a b⟩
  rw [LineBlind.seqs.nameWrite, bumpVersion_open, ho, mmod_singleton, hl, mmod_singleton]

/-! ## RETIRED_BODY_FREE -/

/-- Is what was retired in tick `r` to be freed: the tick is over, and nothing reads it since (R94). -/
def freedNow (t : Tck) (n : Node) (r : Nat) : Bool := decide (r < t.tick) && !readersSince n r

/-- What a tick boundary leaves retired: what is not freed yet, and pages that a snapshot alone still names (R94). -/
def stillRetired (t : Tck) (n : Node) : List Retired :=
  n.seqs.retired.filter (fun r => !freedNow t n r.tick)
    ++ (((n.seqs.retired.filter fun r => freedNow t n r.tick).map fun r => { r with pages := r.pages.filter (snapOnly n), bodies := [] }).filter fun r => !r.pages.isEmpty)

/-- A tick boundary keeps of what was retired, and of the sources of moves, what is not freed; dropping the pages touches neither (R94, R201). -/
theorem retiredFree_keeps (released : List Nat) :
    retireView (retiredFree released t n) = ({ n.seqs with retired := stillRetired t n }, n.ter.freed.filter fun r => !freedNow t n r.1) :=
  foldl_keeps retireView dropPage_retireView _ _

end

/-- Settles O23: a write on marked lines raises their lists' versions, and a tick boundary frees what nothing reads any more. -/
theorem inPlaceWritesRaiseVersionAndRetiredPagesAreFreed : Obligations.InPlaceWritesRaiseVersionAndRetiredPagesAreFreed := by
  intro s
  refine ⟨fun a b => ⟨fun hm => ?marked, fun hm => ?unmarked, fun sh k x p ho hl hret hm => ?single⟩, fun released go hgo => ?free⟩
  case marked => rw [exec_listInplaceWrite, inplaceWrite_marked hm]
  case unmarked => rw [exec_listInplaceWrite, inplaceWrite_unmarked hm]
  case single => exact ⟨_, exec_listInplaceWrite a b s, inplaceWrite_single ho hl hret hm⟩
  case free =>
    obtain rfl : go = freedNow s.tck s.node := funext hgo
    obtain ⟨hseqs, hfreed⟩ := Prod.mk.inj (retiredFree_keeps (t := s.tck) (n := s.node) released)
    exact ⟨_, exec_retiredBodyFree released s, hseqs, hfreed, rfl⟩

end Sys2Proof.Machine
end

section
/-! How a step ends: its result, a torn list, a failed page, the watchdog, the cut (R108, R109, R141, R144, R146). -/

namespace Sys2Proof.Machine

section

variable {t : Tck} {n : Node} {c : Cmd} {st : Step} {m : ResultMsg}

theorem exec_resultMessageReceive (m : ResultMsg) (s : State) : exec (.resultMessageReceive m) s = .next (s.withNode (resultReceive m s.tck s.node)) := rfl
theorem exec_homeWatchdogExpiry (h : Word) (s : State) : exec (.homeWatchdogExpiry h) s = .next (s.withNode (watchdogExpiry h.toNat s.tck s.node)) := rfl
theorem exec_cut (home : BitVec 13) (h : Word) (s : State) :
    exec (.cut home h) s = .next { s with tck := (cut home.toNat h.toNat s.tck s.node).1, node := (cut home.toNat h.toNat s.tck s.node).2 } := rfl

/-! ## The return step -/

/-- The step found to wait for a request's result is that request's. -/
theorem awaited_handle {k : Nat} (hf : n.att.steps.find? (awaits t n k) = some st) : st.handle = k := by
  have ha := List.find?_some hf
  simp only [awaits, Bool.and_eq_true, beq_iff_eq] at ha
  obtain ⟨⟨⟨hhandle, -⟩, -⟩, -⟩ := ha
  exact hhandle

/-- The command marked late if its result was (R109). -/
abbrev noteLate (n : Node) (m : ResultMsg) : Node := modCmd n m.handle fun d => { d with late := d.late || m.late }

section

variable (hst : n.att.steps.find? (awaits t n m.handle) = some st) (hc : findCmd n m.handle = some c)

include hst hc

/-- A result that is whole ends its step, with its output in host memory, where no list changed and the sequence is not sealed (R89, R108). -/
theorem returnStep_delivers (hop : c.op ≠ opAttendBlock) (hok : m.status = stOk) (ht : torn n st = false)
    (hopen : ∀ x, mget? n.seqs.open_ st.seq = some x → x.sealed = false) :
    returnStep t n m = complete t (hostWrite (dropStep (noteLate n m) m.handle) c.mem st.outAddr m.output) m.handle stOk (attResult st m.bank m.ran) := by
  have hh := awaited_handle hst
  have htorn : torn (noteLate n m) st = false := ht
  have hdeliver : deliver t (noteLate n m) c st m
      = complete t (hostWrite (dropStep (noteLate n m) st.handle) c.mem st.outAddr m.output) st.handle stOk (attResult st m.bank m.ran) := by
    cases hx : mget? n.seqs.open_ st.seq with
    | none => simp [deliver, hok, hx]
    | some x => simp [deliver, hok, hx, hopen x hx]
  simp only [returnStep, hst, hc, hok, htorn, hop, beq_self_eq_true, beq_iff_eq, Bool.true_or, Bool.false_eq_true, if_true, if_false, hdeliver, hh]

/-- Where a list's VERSION has changed since the snapshot the result is not given (R89). -/
theorem returnStep_torn (hok : m.status = stOk ∨ m.status = stOkPartial) (ht : torn n st = true) :
    returnStep t n m = complete t (dropStep (noteLate n m) m.handle) m.handle stTornList (attResult st m.bank m.ran) := by
  have hh := awaited_handle hst
  have htorn : torn (noteLate n m) st = true := ht
  have hres : (m.status == stOk || m.status == stOkPartial) = true := by simpa using hok
  simp only [returnStep, hst, hc, hres, htorn, if_true, failStep, hh]
  rfl

/-- A status that is no result ends the step as it is, with the page in RESULT where a page failed it (R109, R127). -/
theorem returnStep_fails (hok : m.status ≠ stOk) (hpart : m.status ≠ stOkPartial) :
    returnStep t n m = complete t (dropStep (noteLate n m) m.handle) m.handle m.status
      (if m.status = stMemUncorr ∨ m.status = stOwnerLost ∨ m.status = stNotOwner then attFpnResult m.fpn else attResult st m.bank m.ran) := by
  have hh := awaited_handle hst
  have hres : (m.status == stOk || m.status == stOkPartial) = false := by simp [hok, hpart]
  simp only [returnStep, hst, hc, hres, Bool.false_eq_true, if_false, failStep, hh, Bool.or_eq_true, beq_iff_eq, or_assoc]

end

/-- Without a step that waits for it a result is discarded and counted (R146). -/
theorem returnStep_discards (h : ∀ p ∈ n.att.steps, p.handle = m.handle → p.sent = true → p.watchdog = true ∧ t.at p.desc.deadline 62 ≤ t.now) :
    returnStep t n m = bump n Rg.cflDiscardLate 1 := by
  have hnone : n.att.steps.find? (awaits t n m.handle) = none := by
    refine List.find?_eq_none.mpr fun p hp ha => ?_
    simp only [awaits, Bool.and_eq_true, beq_iff_eq, Bool.not_eq_true'] at ha
    obtain ⟨⟨⟨hhandle, hsent⟩, hwait⟩, -⟩ := ha
    obtain ⟨hw, hd⟩ := h p hp hhandle hsent
    simp [hw, hd] at hwait
  simp only [returnStep, hnone]

/-! ## The watchdog and the cut -/

/-- At notch 62 of the deadline tick the watchdog ends its step (R146). -/
theorem watchdogExpiry_ends {h : Nat} (hst : n.att.steps.find? (fun p => p.handle == h && p.watchdog) = some st) (hd : t.at st.desc.deadline 62 ≤ t.now) :
    watchdogExpiry h t n = complete t (dropStep (bump n Rg.cflOutcomeStateLost 1) h) h stStateLost (attResult st st.bankSide st.ran) := by
  have hh : st.handle = h := by
    have hf := List.find?_some hst
    simp only [Bool.and_eq_true, beq_iff_eq] at hf
    obtain ⟨hhandle, -⟩ := hf
    exact hhandle
  simp only [watchdogExpiry, hst, hd, if_true, failStep, hh]
  rfl

/-- A command that has sent nothing by notch 48 of its deadline tick ends at the cut (R46, R106, R137). -/
theorem cutHome_ends {h : Nat} (hc : findCmd n h = some c) (ha : attends c.op = true) (hr : c.stage = .running) (hd : t.at c.deadline 48 ≤ t.now)
    (hs : ∀ p ∈ n.att.steps, p.handle = h → p.sent = false) :
    cutHome h t n = complete t (allocOver (dropStep n h) h) h (unsentStatus n h) (attEnd n c) := by
  have hsent : (n.att.steps.any fun p => p.handle == h && p.sent) = false := by simpa using hs
  simp [cutHome, hc, ha, hr, hd, hsent]

/-- A cut of a request whose chain and share are not here is the home node's own part of it (R144). -/
theorem cut_home {home h : Nat} (hn : home = nodeId n) (hchain : ∀ x ∈ n.cfl.chains, x.isOf home h = false)
    (hshare : ∀ x ∈ (cutHome h t n).att.shares, x.desc.handle ≠ h) : cut home h t n = (t, cutHome h t n) := by
  have hnochain : n.cfl.chains.find? (·.isOf home h) = none := List.find?_eq_none.mpr fun x hx => by rw [hchain x hx]; decide
  have hnoshare : findShare (cutHome h t n) home h = none := List.find?_eq_none.mpr fun x hx => by simp [hshare x hx]
  simp only [cut, hnochain, if_pos hn, hnoshare]

end

/-- Settles O25: a result ends its step, and without one a torn list, a failed page, the watchdog or the cut does. -/
theorem stepsEndOnceWithTheirResult : Obligations.StepsEndOnceWithTheirResult := by
  intro s
  refine ⟨fun m st c hhome hst hc hop => ⟨fun hok ht hopen => ?delivered, fun hok ht => ?torn, fun hok hpart => ?failed⟩, fun m hhome => ?foreign,
    fun m hhome hsteps => ?discarded, fun h st hst hd => ?watchdog, fun home h c hhome hc ha hr hd hs hchain hshare => ?cut⟩
  case delivered => rw [exec_resultMessageReceive, resultReceive, if_pos hhome, returnStep_delivers hst hc hop hok ht hopen, attResult]
  case torn => rw [exec_resultMessageReceive, resultReceive, if_pos hhome, returnStep_torn hst hc hok ht]
  case failed =>
    rw [exec_resultMessageReceive, resultReceive, if_pos hhome, returnStep_fails hst hc hok hpart, attFpnResult, List.append_assoc]
    rfl
  case foreign => rw [exec_resultMessageReceive, resultReceive, if_neg hhome]
  case discarded => rw [exec_resultMessageReceive, resultReceive, if_pos hhome, returnStep_discards hsteps]
  case watchdog => rw [exec_homeWatchdogExpiry, watchdogExpiry_ends hst hd]
  case cut =>
    have hend := cutHome_ends hc ha hr hd hs
    have hcut : cut home.toNat h.toNat s.tck s.node = (s.tck, cutHome h.toNat s.tck s.node) := by
      refine cut_home hhome hchain ?_
      rw [hend, complete_att]
      exact hshare
    rw [exec_cut, hcut, hend]

end Sys2Proof.Machine
end

section
/-! Partial messages that the confluence engine discards: what `REQ_TAG` names, and which counter a message without a chain raises (R140). -/

namespace Sys2Proof.Machine

section

variable {b : Bytes} {late bank : Bool} {t : Tck} {n : Node}

theorem exec_partialMessageReceive (b : Bytes) (late bank : Bool) (sram : List SramFault) (s : State) :
    exec (.partialMessageReceive b late bank sram) s = .next (s.withNode (partialMessage b late bank sram s.tck s.node)) := rfl

/-! ## Without a fault of an array -/

/-- No word lost ends no request (R229). -/
theorem cflWordsLost_nil (t : Tck) (n : Node) : cflWordsLost t [] n = n := by
  have hnone : n.cfl.chains.filter (fun c => ([] : List Nat).any (inWord c)) = [] := List.filter_eq_nil_iff.mpr fun _ _ => Bool.false_ne_true
  rw [cflWordsLost, hnone, List.foldl_nil]

theorem partialMessage_nil (b : Bytes) (late bank : Bool) (t : Tck) (n : Node) : partialMessage b late bank [] t n = partialReceive b late bank t n :=
  calc partialMessage b late bank [] t n
    _ = partialIn b late bank [] t n := otherArrays_nil t _
    _ = partialReceive b late bank t (cflWordsLost t [] n) := rfl
    _ = partialReceive b late bank t n := by rw [cflWordsLost_nil]

/-! ## The request that a message names -/

/-- The low half of `REQ_TAG` is the request's handle and the high half its home (R132). -/
theorem reqTag_names {home handle : Nat} (hhandle : handle < 2 ^ 32) (hhome : home < 2 ^ 13) (htag : field b 8 8 = handle + home * 2 ^ 32) :
    field b 8 4 = handle ∧ field b 12 4 % 2 ^ 13 = home := by
  have hlow : field b 8 4 < 2 ^ 32 := field_lt b 8 4
  have hhalves : field b 8 8 = field b 8 4 + 2 ^ 32 * field b 12 4 := field_halves b 8
  omega

variable (hchain : ∀ x ∈ n.cfl.chains, field b 8 8 ≠ x.post.handle + x.post.home * 2 ^ 32)
include hchain

theorem noChain_of_reqTag :
    (n.cfl.chains.find? fun c => c.isOf (field b 12 4 % 2 ^ 13) (field b 8 4) && field b 8 8 == field b 8 4 + field b 12 4 % 2 ^ 13 * 2 ^ 32) = none := by
  refine List.find?_eq_none.mpr fun x hx hfound => hchain x hx ?_
  simp only [Chain.isOf, Bool.and_eq_true, beq_iff_eq] at hfound
  obtain ⟨⟨hhome, hhandle⟩, htag⟩ := hfound
  rw [hhome, hhandle, htag]

/-! ## The message discarded -/

/-- A message for no posted chain is discarded and counted: as `LATE` when its request stands among the finalised, else as `UNKNOWN` (R140). -/
theorem partialReceive_noChain :
    partialReceive b late bank t n =
      if ∃ x ∈ n.cfl.done, x.1 = field b 12 4 % 2 ^ 13 ∧ x.2 = field b 8 4 ∧ field b 8 8 = x.2 + x.1 * 2 ^ 32 then bump n Rg.cflDiscardLate 1
      else bump n Rg.cflDiscardUnknown 1 := by
  have hnamed : (n.cfl.done.any fun x => x.1 == field b 12 4 % 2 ^ 13 && x.2 == field b 8 4 && field b 8 8 == field b 8 4 + field b 12 4 % 2 ^ 13 * 2 ^ 32) = true ↔
      ∃ x ∈ n.cfl.done, x.1 = field b 12 4 % 2 ^ 13 ∧ x.2 = field b 8 4 ∧ field b 8 8 = x.2 + x.1 * 2 ^ 32 := by
    simp only [List.any_eq_true, Bool.and_eq_true, beq_iff_eq]
    constructor
    · rintro ⟨x, hx, ⟨hhome, hhandle⟩, htag⟩
      exact ⟨x, hx, hhome, hhandle, by rw [hhome, hhandle, htag]⟩
    · rintro ⟨x, hx, hhome, hhandle, htag⟩
      exact ⟨x, hx, ⟨hhome, hhandle⟩, by rw [← hhome, ← hhandle, htag]⟩
  simp only [partialReceive, noChain_of_reqTag hchain, hnamed]

theorem partialReceive_late (hdone : ∃ x ∈ n.cfl.done, x.2 < 2 ^ 32 ∧ x.1 < 2 ^ 13 ∧ field b 8 8 = x.2 + x.1 * 2 ^ 32) :
    partialReceive b late bank t n = bump n Rg.cflDiscardLate 1 := by
  obtain ⟨x, hx, hlow, hhigh, htag⟩ := hdone
  obtain ⟨hhandle, hhome⟩ := reqTag_names hlow hhigh htag
  rw [partialReceive_noChain hchain, if_pos ⟨x, hx, hhome.symm, hhandle.symm, htag⟩]

theorem partialReceive_unknown (hdone : ∀ x ∈ n.cfl.done, field b 8 8 ≠ x.2 + x.1 * 2 ^ 32) :
    partialReceive b late bank t n = bump n Rg.cflDiscardUnknown 1 := by
  rw [partialReceive_noChain hchain, if_neg fun ⟨x, hx, _, _, htag⟩ => hdone x hx htag]

end

/-- Settles O27: a partial message for no posted chain raises one counter of `CFL_DISCARD`, and that is all it does. -/
theorem discardedPartialMessagesAreCounted : Obligations.DiscardedPartialMessagesAreCounted := by
  intro s b late bank hchain
  refine ⟨fun hdone => ?late, fun hdone => ?unknown⟩
  case late => rw [exec_partialMessageReceive, partialMessage_nil, partialReceive_late hchain hdone, bump]
  case unknown => rw [exec_partialMessageReceive, partialMessage_nil, partialReceive_unknown hchain hdone, bump]

end Sys2Proof.Machine
end

section
/-! Conversion statistics and rescale tables: the snapshot and the alarms of a tick boundary, a requester's read view, the load of a table (R158, R162 to R164). -/

namespace Sys2Proof.Machine

section

variable {t : Tck} {n : Node}

theorem exec_cvtTickSnapshot (s : State) : exec .cvtTickSnapshot s = .next (s.withNode (cvtSnapshot s.tck s.node)) := rfl
theorem exec_attCvtTickLoRead (r : Req) (s : State) : exec (.attCvtTickLoRead r) s = .next (s.withNode (whenOpen (cvtRead r) s.tck s.node)) := rfl
theorem exec_rescaleTableLoad (c : Fin 32) (k : Fin 8) (wset : Word) (layer : Nat) (p : Fin 4) (part : Nat) (s : State) :
    exec (.rescaleTableLoad c k wset layer p part) s = .next (s.withNode (tableLoad c.val k.val wset.toNat layer p.val part s.node)) := rfl

/-! ## The clip alarms (R164) -/

/-- Is the clipped share of a class over the threshold: its alarm enabled, 1,024 conversions at least. -/
def clipOver (n : Node) (R : CvtTotals) (k : Nat) : Bool :=
  bitAt (rd n Rg.attCvtAlarmEn) k && (1024 ≤ mgetD R.conv k 0 && rd n Rg.attCvtAlarmThr * mgetD R.conv k 0 < mgetD R.clip k 0 * 65536)

/-- What `EV_CLIP_HIGH` carries: class, tick and the two counts. -/
def clipArgs (R : CvtTotals) (k : Nat) : Bytes := leBytes 1 k ++ leBytes 8 R.tick ++ leBytes 4 (mgetD R.conv k 0) ++ leBytes 4 (mgetD R.clip k 0)

theorem clipAlarm_eq (R : CvtTotals) (k : Nat) : clipAlarm t R n k = if clipOver n R k then raise t n evClipHigh (clipArgs R k) else n := by
  rw [clipAlarm, clipOver, ← Bool.and_assoc]
  rfl

/-- Going through classes records an event for each that is over the threshold, and changes nothing else. -/
theorem foldl_clipAlarm (R : CvtTotals) (l : List Nat) (n : Node) :
    ∃ evs : List Event, l.foldl (clipAlarm t R) n = { n with svc := { n.svc with arrivals := n.svc.arrivals ++ evs } }
      ∧ evs.map (fun e => (e.code, e.args)) = (l.filter (clipOver n R)).map fun k => (evClipHigh, clipArgs R k) := by
  induction l generalizing n with
  | nil => exact ⟨[], by simp, rfl⟩
  | cons k l ih =>
    rw [List.foldl_cons, clipAlarm_eq]
    by_cases hk : clipOver n R k = true
    · obtain ⟨evs, hfold, hevs⟩ := ih (raise t n evClipHigh (clipArgs R k))
      rw [if_pos hk, List.filter_cons_of_pos hk, hfold]
      refine ⟨⟨evClipHigh, clipArgs R k, t.now, t.u, ambig (rd n Rg.evrRateWindow * unitsPerTick t.cur) t.now t.u⟩ :: evs, by simp [raise], ?_⟩
      rw [List.map_cons, hevs]
      rfl
    · rw [if_neg hk, List.filter_cons_of_neg hk]
      exact ih n

/-! ## The tick boundary (R162) -/

/-- The totals that a boundary before tick `k` latches: those of the tick just ended, or none. -/
def latched (R : CvtTotals) (k : Nat) : CvtTotals := if R.tick + 1 = k then R else ⟨k - 1, [], [], []⟩

theorem cvtSnapshot_boundary (h : n.cvt.run.tick < t.tick) :
    ∃ evs : List Event, cvtSnapshot t n = { n with cvt := { n.cvt with snap := latched n.cvt.run t.tick, run := ⟨t.tick, [], [], []⟩ },
                                                   svc := { n.svc with arrivals := n.svc.arrivals ++ evs } }
      ∧ evs.map (fun e => (e.code, e.args)) = ((List.range 8).filter (clipOver n n.cvt.run)).map fun k => (evClipHigh, clipArgs n.cvt.run k) := by
  rw [cvtSnapshot, if_pos h]
  exact foldl_clipAlarm n.cvt.run (List.range 8) _

theorem cvtSnapshot_within (h : t.tick ≤ n.cvt.run.tick) : cvtSnapshot t n = n := if_neg (by omega)

theorem cvtSnapshot_views (t : Tck) (n : Node) : (cvtSnapshot t n).cvt.views = n.cvt.views := by
  rcases Nat.lt_or_ge n.cvt.run.tick t.tick with h | h
  · obtain ⟨evs, hN, -⟩ := cvtSnapshot_boundary h
    rw [hN]
  · rw [cvtSnapshot_within h]

theorem cvtSnapshot_bank (t : Tck) (n : Node) : (cvtSnapshot t n).bank = n.bank := cvtSnapshot_keeps (·.bank) raise_bank (fun _ _ => rfl) t n

/-! ## The read view (R163) -/

theorem cvtView_cvtRead_self (r : Req) (t : Tck) (n : Node) : cvtView (cvtRead r t n) r = (cvtSnapshot t n).cvt.snap := mgetD_mset_self _ _ _ _

theorem cvtView_cvtRead_other {q r : Req} (h : viewKey q ≠ viewKey r) : cvtView (cvtRead r t n) q = cvtView n q := by
  rw [cvtView, cvtView, ← cvtSnapshot_views t n]
  exact mgetD_mset_ne _ _ _ _ _ h

/-! ## Masks -/

theorem bitAt_eq_bits (v i : Nat) : bitAt v i = (bits v i 1 == 1) := rfl

/-- A bit added where it was clear is set, and no other bit changes. -/
theorem bitAt_add_two_pow {m a : Nat} (h : bitAt m a = false) (i : Nat) : bitAt (m + 2 ^ a) i = (decide (i = a) || bitAt m i) := by
  have hclear : bits m a 1 = 0 := by
    have hlt := bits_lt m a 1
    have hne : bits m a 1 ≠ 1 := by simpa [bitAt_eq_bits] using h
    omega
  have hput : m + 2 ^ a = putBits m a 1 1 := by rw [← add_eq_putBits hclear (by decide), Nat.one_mul]
  rw [hput, bitAt_eq_bits, bitAt_eq_bits]
  by_cases hi : i = a
  · subst hi
    simp [bits_putBits_self]
  · rw [bits_putBits_ne _ _ _ _ _ _ (by omega), decide_eq_false hi, Bool.false_or]

theorem bitAt_addBit (m a i : Nat) : bitAt (if bitAt m a then m else m + 2 ^ a) i = (decide (i = a) || bitAt m i) := by
  split
  · next ha => by_cases hi : i = a <;> simp [hi, ha]
  · next ha => exact bitAt_add_two_pow (Bool.eq_false_iff.mpr ha) i

theorem bitAt_foldl_addBit (l : List Nat) (m i : Nat) :
    bitAt (l.foldl (fun m i => if bitAt m i then m else m + 2 ^ i) m) i = (decide (i ∈ l) || bitAt m i) := by
  induction l generalizing m with
  | nil => simp
  | cons a l ih => simp only [List.foldl_cons, ih, bitAt_addBit, List.mem_cons, Bool.decide_or, Bool.or_assoc, Bool.or_left_comm (decide (i ∈ l))]

theorem bitAt_maskOf (l : List Nat) (i : Nat) : bitAt (maskOf l) i = decide (i ∈ l) := by
  rw [maskOf, bitAt_foldl_addBit, bitAt_eq_bits, bits_zero]
  exact Bool.or_false _

theorem bitAt_maskWhere {k i : Nat} (p : Nat → Bool) (h : i < k) : bitAt (maskWhere k p) i = p i := by
  simp [maskWhere, bitAt_maskOf, h]

/-- A bit of a word's low field, which a field put above leaves. -/
theorem bitAt_overBits_low {i k : Nat} (w x lo width v : Nat) (hi : i < k) (hlo : k ≤ lo) : bitAt (overBits (overBits w 0 k v) lo width x) i = bitAt v i := by
  have hcut : bits (v % 2 ^ k) i 1 = bits v i 1 := bits_mod v i 1 k (by omega)
  have hput : bits (putBits w 0 k v) 0 k = v % 2 ^ k := bits_putBits_self w 0 k v
  have hlow : bits (putBits w 0 k v) 0 k = putBits w 0 k v % 2 ^ k := by simp [bits]
  rw [bitAt_eq_bits, bitAt_eq_bits, overBits, overBits, bits_putBits_ne _ _ _ _ _ _ (by omega), ← hcut, ← hput, hlow, bits_mod _ _ _ _ (by omega)]

/-! ## Rescale tables (R158) -/

/-- `ATT_RST_STATUS.LOADED` shows the tables that hold entries. -/
theorem bitAt_rstStatusLoaded (n : Node) (r : Req) (c : Fin 32) {j : Nat} (hj : j < 8) :
    bitAt (viewAtt n r (Rg.attRstStatusLoaded c.val).off) j = mhas n.att.tables (8 * c.val + j) := by
  have hc : (0x300040 + 0x10000 * c.val - 0x300000) / 0x10000 = c.val := by omega
  have hr : (0x300040 + 0x10000 * c.val) % 0x10000 = 0x40 := by omega
  rw [viewAtt, if_neg (by simp only; omega), if_neg (by simp only; omega), if_neg (by simp; omega)]
  simp only [hc, hr]
  rw [if_neg (by decide), if_true, bitAt_overBits_low _ _ _ _ _ hj (Nat.le_refl 8), bitAt_maskWhere _ hj]

theorem rescaleOk_iff (x : Nat) : rescaleOk x = true ↔ x = 0 ∨ (x / 2 ^ 23 % 256 ≠ 0 ∧ x / 2 ^ 23 % 256 ≠ 255) := by
  simp [rescaleOk, bits]

/-- A load that takes effect: the set usable, the layer and its vector there, entries for the part, no item bound to the table, every entry +0 or a finite normal number. -/
structure TakesEntries (n : Node) (w : WSet) (l v q : Nat) (e : List Nat) : Prop where
  usable : usable n w = true
  layer : l < imgLayers w.image
  vector : v ≠ 0xFFFF
  entries : e ≠ []
  unbound : q ∉ n.att.bound
  normal : ∀ x ∈ e, x = 0 ∨ (x / 2 ^ 23 % 256 ≠ 0 ∧ x / 2 ^ 23 % 256 ≠ 255)

/-- The node with table `k` of cluster `c` loaded, and counted. -/
def tableTaken (n : Node) (c k : Nat) (src : Nat × Nat × Nat × Nat) (e : List Nat) : Node :=
  bump { n with att := { n.att with tables := mset n.att.tables (8 * c + k) e, tableOf := mset n.att.tableOf (8 * c + k) src } } (Rg.attRstStatusLoads c) 1

theorem tableLoad_unknown {set : Nat} (c k l p part : Nat) (h : mget? n.wts.sets set = none) : tableLoad c k set l p part n = n := by
  simp only [tableLoad, h]

section

variable {set l p part v : Nat} {w : WSet} {e : List Nat} (c k : Nat)
variable (hw : mget? n.wts.sets set = some w) (hv : v = rescaleTensor (layerDesc w.image l) p) (he : e = ((vecOf n set w v).drop (4096 * part)).take 4096)
include hw hv he

theorem tableLoad_takes (h : TakesEntries n w l v (8 * c + k) e) : tableLoad c k set l p part n = tableTaken n c k (set, l, p, part) e := by
  obtain ⟨hu, hl, hvec, hne, hb, hok⟩ := h
  have hall : e.all rescaleOk = true := List.all_eq_true.mpr fun x hx => (rescaleOk_iff x).mpr (hok x hx)
  simp [tableLoad, hw, ← hv, ← he, hu, hl, hvec, hne, hb, hall, tableTaken]

theorem tableLoad_refuses (h : ¬ TakesEntries n w l v (8 * c + k) e) : tableLoad c k set l p part n = n := by
  simp only [tableLoad, hw, ← hv, ← he]
  refine if_pos (Bool.not_eq_false _ |>.mp fun hpass => h ?_)
  split at hpass
  · next hset =>
    simp only [Bool.and_eq_true, decide_eq_true_eq, bne_iff_ne] at hset
    obtain ⟨⟨hu, hl⟩, hvec⟩ := hset
    simp only [Bool.or_eq_false_iff, Bool.not_eq_false', List.all_eq_true, List.contains_eq_mem, decide_eq_false_iff_not, List.isEmpty_eq_false_iff] at hpass
    obtain ⟨⟨hb, hne⟩, hok⟩ := hpass
    exact ⟨hu, hl, hvec, hne, hb, fun x hx => (rescaleOk_iff x).mp (hok x hx)⟩
  · simp at hpass

end

theorem mhas_tableTaken (c k : Nat) (src : Nat × Nat × Nat × Nat) (e : List Nat) (j : Nat) :
    mhas (tableTaken n c k src e).att.tables (8 * c + j) = (j == k || mhas n.att.tables (8 * c + j)) := by
  simp only [mhas, tableTaken, bump_att, mget?_mset, Nat.add_left_cancel_iff]
  by_cases hj : j = k <;> simp [hj]

theorem rd_loads_tableTaken (c k : Nat) (src : Nat × Nat × Nat × Nat) (e : List Nat) :
    rd (tableTaken n c k src e) (Rg.attRstStatusLoads c) = satTo (Rg.attRstStatusLoads c).w (rd n (Rg.attRstStatusLoads c) + 1) :=
  rd_bump_self _ _ _ (Nat.le_refl 32)

end

/-- Settles O60: a tick boundary latches its totals with their alarms, a read takes them for its own view, and a table unbound takes the entries of a usable set. -/
theorem snapshotsViewsAndRescaleTables : Obligations.SnapshotsViewsAndRescaleTables := by
  refine ⟨fun s R S hR hS => ⟨fun h => ?boundary, fun h => ?within⟩, fun s r hw => ?read, fun s r hshut => ?shut,
    fun s c k wset layer p part => ⟨fun h => ?unknown, fun w v e hw hv he => ⟨fun hu hl hvec hne hb hok => ?taken, fun h => ?refused⟩⟩⟩
  case boundary =>
    subst hR hS
    obtain ⟨evs, hN, hevs⟩ := cvtSnapshot_boundary h
    refine ⟨_, exec_cvtTickSnapshot s, ?_⟩
    rw [hN]
    exact ⟨rfl, rfl, rfl, rfl, rfl, by rw [List.map_append, hevs]; rfl⟩
  case within =>
    subst hR
    rw [exec_cvtTickSnapshot, cvtSnapshot_within h]
  case read =>
    refine ⟨cvtSnapshot s.tck s.node, cvtRead r s.tck s.node, exec_cvtTickSnapshot s, ?_, cvtView_cvtRead_self r s.tck s.node, fun q hq => cvtView_cvtRead_other hq,
      rfl, rfl, cvtSnapshot_bank s.tck s.node, rfl⟩
    rw [exec_attCvtTickLoRead, whenOpen, if_neg (by simp [hw])]
  case shut => rw [exec_attCvtTickLoRead, whenOpen, if_pos hshut]
  case unknown => rw [exec_rescaleTableLoad, tableLoad_unknown _ _ _ _ _ h]
  case taken =>
    refine ⟨tableTaken s.node c.val k.val (wset.toNat, layer, p.val, part) e, ?_, mget?_mset_self _ _ _, mget?_mset_self _ _ _,
      fun j hj => ⟨mget?_mset_ne _ _ _ _ hj, mget?_mset_ne _ _ _ _ hj⟩, fun j hj => ?_, rd_loads_tableTaken _ _ _ _, rfl, rfl, rfl⟩
    · rw [exec_rescaleTableLoad, tableLoad_takes _ _ hw hv he ⟨hu, hl, hvec, hne, hb, hok⟩]
    · rw [bitAt_rstStatusLoaded _ _ _ hj, bitAt_rstStatusLoaded _ _ _ hj, mhas_tableTaken]
  case refused =>
    rw [exec_rescaleTableLoad, tableLoad_refuses _ _ hw hv he]
    rintro ⟨hu, hl, hvec, hne, hb, hok⟩
    rcases h with h | h | h | h | h | ⟨x, hx, hx0, hx1⟩
    · simp [hu] at h
    · omega
    · exact hvec h
    · exact hne h
    · exact hb h
    · have := hok x hx
      omega

end Sys2Proof.Machine
end

section
/-! Bank-side units: what one unit reads as after a change of it, what such a change leaves alone, free values, what a `BSU_RUN` holds. -/

namespace Sys2Proof.Machine

/-! ## A unit changed -/

section

variable (n : Node) (b : Nat) (f : Bsu → Bsu) (g : BsuRunSt → BsuRunSt) (h : Nat) (p : BsuJob → BsuJob)

/-- A unit is read from the bank-side units alone. -/
theorem unitOf_of_bsu {m n : Node} (h : m.bsu = n.bsu) (b : Nat) : unitOf m b = unitOf n b := by rw [unitOf, h, unitOf]

@[simp] theorem unitOf_modUnit_self : unitOf (modUnit n b f) b = f (unitOf n b) := mgetD_mset_self _ _ _ _

theorem unitOf_modUnit_ne {k : Nat} (hk : k ≠ b) : unitOf (modUnit n b f) k = unitOf n k := mgetD_mset_ne _ _ _ _ _ hk

@[simp] theorem modUnit_fe : (modUnit n b f).fe = n.fe := rfl
@[simp] theorem modUnit_t1 : (modUnit n b f).t1 = n.t1 := rfl
@[simp] theorem modUnit_jobs : (modUnit n b f).bsu.jobs = n.bsu.jobs := rfl

/-- A run changed is its unit changed. -/
theorem modRun_of_run {n : Node} {b : Nat} {r : BsuRunSt} (hr : (unitOf n b).run = some r) : modRun n b g = modUnit n b fun u => { u with run := some (g r) } := by
  simp only [modRun, modUnit, hr, Option.map_some]

@[simp] theorem unitOf_modRun_self : unitOf (modRun n b g) b = { unitOf n b with run := (unitOf n b).run.map g } := unitOf_modUnit_self n b _
@[simp] theorem modRun_t1 : (modRun n b g).t1 = n.t1 := rfl

@[simp] theorem unitOf_modJob : unitOf (modJob n h p) b = unitOf n b := rfl
@[simp] theorem modJob_t1 : (modJob n h p).t1 = n.t1 := rfl

/-- A job changed under its handle. -/
theorem find?_modJob (hp : ∀ j, (p j).handle = j.handle) :
    (modJob n h p).bsu.jobs.find? (·.handle == h) = (n.bsu.jobs.find? (·.handle == h)).map p :=
  find?_lmodify (fun j => by rw [hp]) _

@[simp] theorem bsuCount_bsu (k : Nat) (q : Fld) (ev c : Nat) : (bsuCount n k q ev c).bsu = n.bsu := by rw [bsuCount, pmc_bsu, bump_bsu]
@[simp] theorem bsuCount_t1 (k : Nat) (q : Fld) (ev c : Nat) : (bsuCount n k q ev c).t1 = n.t1 := by rw [bsuCount, pmc_t1, bump_t1]
@[simp] theorem unitOf_bsuCount (k : Nat) (q : Fld) (ev c : Nat) : unitOf (bsuCount n k q ev c) b = unitOf n b := unitOf_of_bsu (bsuCount_bsu n k q ev c) b

end

/-! ## The units that a command names -/

theorem nodup_bsuSpan (c : Cmd) : (bsuSpan c).Nodup := nodup_map_range fun _ _ _ _ h => Nat.add_left_cancel h

section

variable {n : Node} {f : Bsu → Bsu} {k : Nat} {l : List Nat}

/-- A unit outside a list stays as it is when the list's units change. -/
theorem unitOf_foldl_modUnit_not_mem (hk : k ∉ l) : unitOf (l.foldl (fun m b => modUnit m b f) n) k = unitOf n k := by
  induction l generalizing n with
  | nil => rfl
  | cons b l ih =>
    obtain ⟨hb, hl⟩ : k ≠ b ∧ k ∉ l := by simpa using hk
    rw [List.foldl_cons, ih hl, unitOf_modUnit_ne _ _ _ hb]

/-- A unit in a list without repetitions changes once. -/
theorem unitOf_foldl_modUnit_mem (hl : l.Nodup) (hk : k ∈ l) : unitOf (l.foldl (fun m b => modUnit m b f) n) k = f (unitOf n k) := by
  induction l generalizing n with
  | nil => cases hk
  | cons b l ih =>
    obtain ⟨hb, hl⟩ := List.nodup_cons.mp hl
    rw [List.foldl_cons]
    rcases List.mem_cons.mp hk with rfl | hm
    · rw [unitOf_foldl_modUnit_not_mem hb, unitOf_modUnit_self]
    · rw [ih hl hm, unitOf_modUnit_ne _ _ _ (by rintro rfl; exact hb hm)]

end

/-! ## Free values -/

/-- Free values are those at the counter, which advances past them. -/
theorem takeFrees_eq (k : Nat) (n : Node) :
    takeFrees k n = ((List.range k).map fun i => Config.freeNat (n.freeCtr + i), { n with freeCtr := n.freeCtr + k }) := by
  induction k generalizing n with
  | zero => rfl
  | succ k ih =>
    rw [takeFrees, takeFree]
    simp only [ih, List.range_succ_eq_map, List.map_cons, List.map_map, Nat.add_zero, Nat.add_assoc, Nat.add_comm 1 k]
    congr 2
    exact List.map_congr_left fun i _ => by rw [Function.comp_apply, Nat.add_comm 1 i]

end Sys2Proof.Machine
end

section
/-! `BSU_RUN`, `BSU_LOAD`, `BSU_OWN` and `BSU_RELEASE`: how runs are queued, start, pause and end, how programs load, how frames change hands (R167 to R174, R185 to R189). -/

namespace Sys2Proof.Machine

/-! ## The commands -/

theorem exec_bsuRun (h : Word) (s : State) : exec (.bsuRun h) s = .next (s.withNode (bsuRun h.toNat s.tck s.node)) := rfl
theorem exec_bsuRunStart (b : Fin 1024) (s : State) : exec (.bsuRunStart b) s = .next (s.withNode (runStart b.val s.tck s.node)) := rfl
theorem exec_bsuPause (b : Fin 1024) (s : State) :
    exec (.bsuPause b) s = .next { s with tck := (bsuPause b.val s.tck s.node).1, node := (bsuPause b.val s.tck s.node).2 } := rfl
theorem exec_bsuResume (b : Fin 1024) (s : State) : exec (.bsuResume b) s = .next (s.withNode (bsuResume b.val s.tck s.node)) := rfl
theorem exec_bsuHalt (b : Fin 1024) (s : State) : exec (.bsuHalt b) s = .next (s.withNode (bsuHalt b.val s.tck s.node)) := rfl
theorem exec_bsuRunFail (h : Word) (s : State) : exec (.bsuRunFail h) s = .next (s.withNode (runFail h.toNat s.tck s.node)) := rfl
theorem exec_bsuRunDeadline (h : Word) (s : State) : exec (.bsuRunDeadline h) s = .next (s.withNode (runDeadline h.toNat s.tck s.node)) := rfl
theorem exec_bsuLoad (h : Word) (s : State) : exec (.bsuLoad h) s = .next (s.withNode (bsuLoad h.toNat s.tck s.node)) := rfl
theorem exec_bsuOwn (h : Word) (s : State) : exec (.bsuOwn h) s = .next (s.withNode (bsuOwn h.toNat s.tck s.node)) := rfl
theorem exec_bsuRelease (h : Word) (s : State) : exec (.bsuRelease h) s = .next (s.withNode (bsuRelease h.toNat s.tck s.node)) := rfl

section

variable {t : Tck} {n : Node} {h : Word} {c : Cmd} {b : Nat} {r : BsuRunSt}

/-! ## BSU_RUN -/

/-- The entry that a `BSU_RUN` on time queues on each BSU it names (R167, R169). -/
def onTimeEntry (n : Node) (h : Nat) (c : Cmd) : BsuEntry := ⟨0, nodeId n, h, 0, 0, c.f 28 1, c.launch * 64⟩

/-- The job of a `BSU_RUN` that begins: its input block as read (R169). -/
def freshJob (n : Node) (h : Nat) (c : Cmd) : BsuJob := ⟨h, c.f 24 2, c.f 26 2, hostRead n c.mem (c.f 32 8) (64 * c.f 30 2), [], none, 0⟩

/-- The node with an entry behind the others of every BSU that a command names. -/
def entriesQueued (n : Node) (c : Cmd) (e : BsuEntry) : Node := (bsuSpan c).foldl (fun m b => modUnit m b fun u => { u with area := u.area ++ [e] }) n

theorem entriesQueued_fe (n : Node) (c : Cmd) (e : BsuEntry) : (entriesQueued n c e).fe = n.fe := foldl_keeps (·.fe) (fun m k => modUnit_fe m k _) _ n
theorem entriesQueued_jobs (n : Node) (c : Cmd) (e : BsuEntry) : (entriesQueued n c e).bsu.jobs = n.bsu.jobs := foldl_keeps (·.bsu.jobs) (fun m k => modUnit_jobs m k _) _ n

/-- The node with a `BSU_RUN` on time queued on its BSUs, and its job behind the others (R167, R169). -/
def runsQueued (n : Node) (h : Nat) (c : Cmd) : Node :=
  let n1 := entriesQueued n c (onTimeEntry n h c)
  { n1 with bsu := { n1.bsu with jobs := n1.bsu.jobs ++ [freshJob n h c] } }

/-- A `BSU_RUN` on time with a credit everywhere queues its runs and is running (R167, R169, R170). -/
theorem bsuRun_queues (hr : Runs n h opBsuRun c) (hv29 : rsv c 29 29 = []) (hv52 : rsv c 52 63 = []) (hspan : bsuSpanBad c = false) (hlo : 8 ≤ c.f 28 1) (hhi : c.f 28 1 ≤ 15)
    (hin : c.f 30 2 ≤ 1024) (hinAt : mult (c.f 32 8) 64 = true) (houtAt : mult (c.f 40 8) 64 = true) (hout : c.f 48 2 ≤ 1024) (hend : c.f 50 2 + c.f 48 2 ≤ 3072)
    (ht : t.now ≤ t.at c.launch 0) (hd : t.tick ≤ c.deadline)
    (hb : ∀ k ∈ bsuSpan c, mhas (unitOf n k).progs (c.f 28 1) = true ∧ bsuInService n k = true ∧ bsuOurs n k = true ∧ areaUsed (unitOf n k) < 64) :
    bsuRun h.toNat t n = setRunning (runsQueued n h.toNat c) h.toNat := by
  obtain ⟨hf, hop, hs, hq, hh⟩ := hr
  have hprog : (bsuSpan c).any (fun b => !mhas (unitOf n b).progs (c.f 28 1)) = false := by simpa using fun k hk => (hb k hk).1
  have hours : (bsuSpan c).find? (fun b => !bsuInService n b || !bsuOurs n b) = none := by simpa using fun k hk => ⟨(hb k hk).2.1, (hb k hk).2.2.1⟩
  have hroom : (bsuSpan c).any (fun b => decide (64 ≤ areaUsed (unitOf n b))) = false := by simpa using fun k hk => (hb k hk).2.2.2
  rw [bsuRun, withCmd_eq _ hf hop hs hq]
  dsimp only
  rw [checked_ok _ hh (by simp only [hv29, hv52, List.append_nil, offIf, hspan, Bool.false_eq_true, reduceIte, Nat.not_lt.mpr hlo, Nat.not_lt.mpr hhi, decide_false, Bool.or_self, Bool.not_false, hprog,
    Bool.and_false, Nat.not_lt.mpr hin, hinAt, Bool.not_true, houtAt, Nat.not_lt.mpr hout, Nat.not_lt.mpr hend])]
  simp only [hours, hroom, Nat.not_lt.mpr hd, Nat.not_lt.mpr ht, Bool.false_eq_true, if_false]
  rfl

/-! ## BSU_RUN_START -/

/-- With no run in progress the oldest entry whose notch has come starts, while its command goes on (R167, R171). -/
theorem runStart_starts {e : BsuEntry} (hr : (unitOf n b).run = none) (hshed : bsuShed n b = false) (hstop : stopped n = false) (hserv : bsuInService n b = true)
    (hsad : t.inSaddle = false) (he : (unitOf n b).area.find? (fun x => x.launch ≤ t.notches) = some e) (hg : jobGoes t n e = true) : runStart b t n = startRun t n b e := by
  simp only [runStart, hr, hshed, hstop, hserv, hsad, he, hg, Option.isSome_none, Bool.not_true, Bool.or_self, Bool.false_eq_true, if_false, if_true]

/-- What starts on a unit for a `BSU_RUN`: instruction 0, the BSU's number in L3, the input block at the start of the run area (R169). -/
theorem startRun_unit {e : BsuEntry} {j : BsuJob} (t : Tck) (he : e.src = 0) (hj : n.bsu.jobs.find? (fun x => x.handle == e.handle) = some j) :
    ∃ r, (unitOf (startRun t n b e) b) = { unitOf n b with area := (unitOf n b).area.erase e, run := some r, sram := Mem.write 0 (unitOf n b).sram 0 j.input }
      ∧ r.ent = e ∧ r.ip = 0 ∧ r.areg.length = 8 ∧ r.lreg.getD 3 0 = b ∧ r.msteps = 0 := by
  have hu (k : Nat) : unitOf { noteStart n e with freeCtr := k } b = unitOf n b := by rw [noteStart, if_pos he]; rfl
  simp only [startRun, takeFrees_eq, hj, he, if_true, unitOf_modUnit_self, hu]
  exact ⟨_, rfl, rfl, rfl, rfl, rfl, rfl⟩

/-! ## BSU_PAUSE, BSU_RESUME and BSU_HALT -/

/-- A run that can finish no microstep before notch 62 pauses (R185). -/
theorem bsuPause_pauses (hr : (unitOf n b).run = some r) (hsrc : r.ent.src = 0) (hp : r.paused = false) (hh : r.halted = false) (ht : t.at t.tick 62 < t.now + 115) :
    bsuPause b t n = (t, modUnit n b fun u => { u with run := some { r with paused := true } }) := by
  simp only [bsuPause, hr, hp, hh, hsrc, Nat.not_le.mpr ht, modRun_of_run _ hr, decide_false, Bool.or_self, Bool.false_eq_true, Nat.zero_ne_one, if_false]

/-- With compute not suspended a pause ends once a microstep fits again (R185, R186). -/
theorem bsuResume_resumes (hr : (unitOf n b).run = some r) (hp : r.paused = true) (hshed : bsuShed n b = false) (ht : t.now + 115 ≤ t.at t.tick 62) :
    bsuResume b t n = modUnit n b fun u => { u with run := some { r with paused := false } } := by
  simp only [bsuResume, hr, hp, hshed, ht, modRun_of_run _ hr, decide_true, Bool.not_false, Bool.and_self, if_true]

/-- The output of a run that halts (R169). -/
def runOutput (u : Bsu) (c : Cmd) : Bytes := Mem.read 0 u.sram (64 * c.f 50 2) (64 * c.f 48 2)

/-- A job with the output of a BSU kept (R169). -/
def BsuJob.keep (j : BsuJob) (b : Nat) (out : Bytes) : BsuJob := { j with outs := mset j.outs b out }

/-- The node once a run has halted and its output is kept (R169). -/
def haltedRun (n : Node) (b : Nat) (r : BsuRunSt) (c : Cmd) : Node :=
  modJob (bump (modUnit n b fun u => { u with run := none }) (Rg.bsuRunsCount (b / 128) (b % 128)) 1) r.ent.handle fun j => j.keep b (runOutput (unitOf n b) c)

theorem haltedRun_run (r : BsuRunSt) (c : Cmd) : (unitOf (haltedRun n b r c) b).run = none := by
  rw [haltedRun, unitOf_modJob, unitOf_of_bsu (bump_bsu _ _ _), unitOf_modUnit_self]

theorem haltedRun_job {j : BsuJob} (hj : n.bsu.jobs.find? (fun x => x.handle == r.ent.handle) = some j) :
    (haltedRun n b r c).bsu.jobs.find? (fun x => x.handle == r.ent.handle) = some (j.keep b (runOutput (unitOf n b) c)) :=
  (find?_modJob _ _ (fun j => j.keep b (runOutput (unitOf n b) c)) fun _ => rfl).trans (congrArg (Option.map _) hj)

/-- At HALT the run ends and its output is kept; with the last output in, the command is finished (R169). -/
theorem bsuHalt_halts {j : BsuJob} (hr : (unitOf n b).run = some r) (hsrc : r.ent.src = 0) (hp : r.paused = false) (hdef : r.deferred = none) (hshed : bsuShed n b = false)
    (hg : jobGoes t n r.ent = true) (hop : (instrAt (unitOf n b) r).op = bHalt) (hc : findCmd n r.ent.handle = some c)
    (hj : n.bsu.jobs.find? (fun x => x.handle == r.ent.handle) = some j) (hok : j.fail = none) :
    bsuHalt b t n = if (j.keep b (runOutput (unitOf n b) c)).outs.length = j.count
      then finishJob t (haltedRun n b r c) (j.keep b (runOutput (unitOf n b) c)) else haltedRun n b r c := by
  have hj' := haltedRun_job (b := b) (c := c) hj
  unfold haltedRun runOutput BsuJob.keep at hj' ⊢
  simp only [bsuHalt, hr, hsrc, hp, hdef, hshed, hg, hop, hc, hj', hok, bne_self_eq_false, Option.isSome_none, Option.isNone_none, Bool.not_true, Bool.or_self, Bool.true_and,
    Bool.false_eq_true, if_false, decide_eq_true_eq]

/-- Outputs written in order reach host memory one after another. -/
theorem hmem_foldl_hostWrite (mem : Nat) (at_ : Nat × Bytes → Nat) (l : List (Nat × Bytes)) (n : Node) :
    (l.foldl (fun m o => hostWrite m mem (at_ o) o.2) n).hmem = l.foldl (fun k o => Mem.write 0 k (hostKey mem (at_ o)) o.2) n.hmem := by
  induction l generalizing n with
  | nil => rfl
  | cons o l ih => rw [List.foldl_cons, List.foldl_cons, ih, hostWrite_hmem]

/-- The node with the outputs of a `BSU_RUN` written in order, and its job gone (R169). -/
def jobFinished (n : Node) (c : Cmd) (j : BsuJob) : Node :=
  let n1 := j.outs.foldl (fun m o => hostWrite m c.mem (c.f 40 8 + 64 * c.f 48 2 * (o.1 - j.first)) o.2) n
  { n1 with bsu := { n1.bsu with jobs := n1.bsu.jobs.filter (·.handle != j.handle) } }

theorem jobFinished_hmem (c : Cmd) (j : BsuJob) :
    (jobFinished n c j).hmem = j.outs.foldl (fun k o => Mem.write 0 k (hostKey c.mem (c.f 40 8 + 64 * c.f 48 2 * (o.1 - j.first))) o.2) n.hmem :=
  hmem_foldl_hostWrite c.mem _ j.outs n

theorem jobFinished_fe (c : Cmd) (j : BsuJob) : (jobFinished n c j).fe = n.fe := foldl_keeps (·.fe) (fun m _ => hostWrite_fe m _ _ _) _ n

theorem unitOf_jobFinished (c : Cmd) (j : BsuJob) (b : Nat) : unitOf (jobFinished n c j) b = unitOf n b :=
  foldl_keeps (unitOf · b) (fun _ _ => rfl) (f := fun m (o : Nat × Bytes) => hostWrite m c.mem (c.f 40 8 + 64 * c.f 48 2 * (o.1 - j.first)) o.2) _ n

/-- A finished `BSU_RUN` completes with its outputs written (R169, R171). -/
theorem finishJob_completes {j : BsuJob} (hc : findCmd n j.handle = some c) : finishJob t n j = complete t (jobFinished n c j) j.handle stOk (bsuResult j.msteps 0xFFFF 0 0) := by
  simp only [finishJob, hc]
  rfl

/-! ## BSU_RUN_FAIL and BSU_RUN_DEADLINE -/

theorem runFail_completes {h : Nat} {j : BsuJob} {f : BsuFail} (hj : n.bsu.jobs.find? (fun x => x.handle == h) = some j) (hf : j.fail = some f) :
    runFail h t n = complete t (dropJob n h) h f.status (bsuResult j.msteps f.bsu f.ip f.addr) := by
  simp only [runFail, hj, hf]

theorem runDeadline_completes {h : Nat} {j : BsuJob} (hj : n.bsu.jobs.find? (fun x => x.handle == h) = some j) (hc : findCmd n h = some c) (hf : j.fail = none)
    (hd : c.deadline < t.tick) : ∃ k ip, runDeadline h t n = complete t (dropJob n h) h stDeadline (bsuResult j.msteps k ip 0) := by
  simp only [runDeadline, hj, hc, hf, Nat.not_le.mpr hd, decide_false, Option.isSome_none, Bool.or_self, Bool.false_eq_true, if_false]
  exact ⟨_, _, rfl⟩

/-! ## BSU_LOAD -/

/-- A valid image is stored on every BSU named, each the tenant's, and answers the start of its digest (R173, R174). -/
theorem bsuLoad_loads {img : Bytes} (hr : Runs n h opBsuLoad c) (hv30 : rsv c 30 31 = []) (hv44 : rsv c 44 63 = []) (hspan : bsuSpanBad c = false) (hlo : 8 ≤ c.f 28 1)
    (hslots : c.f 29 1 ≠ 0) (hhi : c.f 28 1 + c.f 29 1 ≤ 16) (hat : mult (c.f 32 8) 16 = true) (hmin : 16 ≤ c.f 40 4) (hmax : c.f 40 4 ≤ 1024 * c.f 29 1)
    (hlen : mult (c.f 40 4) 16 = true) (hb : ∀ k ∈ bsuSpan c, bsuOurs n k = true ∧ ∀ x ∈ boundSlots (unitOf n k), x < c.f 28 1 ∨ c.f 28 1 + c.f 29 1 ≤ x)
    (himg : img = hostRead n c.mem (c.f 32 8) (c.f 40 4)) (hok : imageFault img = none) :
    bsuLoad h.toNat t n = complete t ((bsuSpan c).foldl (fun m b => modUnit m b (storeProg (c.f 28 1) (c.f 29 1) img (sha384 img))) n) h.toNat stOk ((sha384 img).take 16) := by
  obtain ⟨hf, hop, hs, hq, hh⟩ := hr
  subst himg
  have hbound : (bsuSpan c).any (fun b => (boundSlots (unitOf n b)).any ((List.range (c.f 29 1)).map (c.f 28 1 + ·)).contains) = false := by
    simp only [List.any_eq_false, Bool.not_eq_true, List.contains_eq_mem, List.mem_map, List.mem_range, decide_eq_false_iff_not, not_exists, not_and]
    intro k hk x hx i hi e
    have := (hb k hk).2 x hx
    omega
  have hours : (bsuSpan c).any (fun b => !bsuOurs n b) = false := by simpa using fun k hk => (hb k hk).1
  have hrange : ¬ c.f 28 1 < 8 ∧ ¬ 15 < c.f 28 1 ∧ ¬ 16 < c.f 28 1 + c.f 29 1 := by omega
  have hsize : ¬ c.f 40 4 < 16 ∧ ¬ 1024 * c.f 29 1 < c.f 40 4 := by omega
  rw [bsuLoad, withCmd_eq _ hf hop hs hq]
  dsimp only
  rw [checked_ok _ hh (by simp only [hv30, hv44, List.append_nil, offIf, hspan, Bool.false_eq_true, reduceIte, hrange, decide_false, Bool.or_self, Bool.false_or, Bool.or_false, Bool.not_false, hbound,
    Bool.and_false, beq_iff_eq, hslots, hat, Bool.not_true, hsize, hlen])]
  simp only [hok, hours, Bool.false_eq_true, if_false]

end

/-! ## Frames that change hands -/

section

variable {t : Tck} {n : Node} {h : Word} {c : Cmd} {l : List Nat} {v : Nat → Nat} {f : Nat}

/-- What a `BSU_OWN` that begins notes of a frame, by what was noted of it (R188). -/
def takenSt (v : Nat) : Nat := if v = 1 then 5 else 4

/-- What is noted of a frame that has entered the BSU state, by whether it was SHARED before (R187, R188). -/
def enteredSt (v : Nat) : Nat := if v = 5 then 3 else 2

theorem two_le_takenSt (v : Nat) : 2 ≤ takenSt v := by unfold takenSt; split <;> omega
theorem two_le_enteredSt (v : Nat) : 2 ≤ enteredSt v := by unfold enteredSt; split <;> omega

/-- What `BSU_RELEASE` notes of a frame (R189). -/
def releasedSt (v : Nat) : Nat := if v = 3 then 1 else 0

/-- The node with the states of a list's frames changed in turn. -/
def setFrames (v : Nat → Nat) (l : List Nat) (n : Node) : Node := l.foldl (fun m f => setFrame m f (v (frameSt m f))) n

@[simp] theorem setFrame_dir (f k : Nat) : (setFrame n f k).cxd.dir = n.cxd.dir := rfl
@[simp] theorem setFrame_held (f k : Nat) : (setFrame n f k).bsu.held = n.bsu.held := rfl

theorem frameSt_setFrame_self {k : Nat} (hk : 2 ≤ k) : frameSt (setFrame n f k) f = k := by
  simp only [frameSt, setFrame, if_neg (Nat.not_le.mpr hk), mget?_mset_self]

theorem frameSt_setFrame_ne {g k : Nat} (hk : 2 ≤ k) (hg : g ≠ f) : frameSt (setFrame n f k) g = frameSt n g := by
  simp only [frameSt, setFrame, if_neg (Nat.not_le.mpr hk), mget?_mset_ne _ _ _ _ hg]

/-- With states that the controller notes, a frame outside the list keeps its own and one in it changes once (R187). -/
theorem frameSt_setFrames (hv : ∀ k, 2 ≤ v k) (hl : l.Nodup) : frameSt (setFrames v l n) f = if f ∈ l then v (frameSt n f) else frameSt n f := by
  induction l generalizing n with
  | nil => rfl
  | cons g l ih =>
    obtain ⟨hg, hl⟩ := List.nodup_cons.mp hl
    have hstep : frameSt (setFrames v (g :: l) n) f = if f ∈ l then v (frameSt (setFrame n g (v (frameSt n g))) f) else frameSt (setFrame n g (v (frameSt n g))) f := ih hl
    rw [hstep]
    by_cases e : f = g
    · subst e
      rw [if_neg hg, if_pos List.mem_cons_self, frameSt_setFrame_self (hv _)]
    · rw [frameSt_setFrame_ne (hv _) e]
      simp only [List.mem_cons, e, false_or]

/-- A frame noted as 2 or 3 is in the BSU state (R187). -/
theorem frameKind_bsu (h : frameSt n f = 2 ∨ frameSt n f = 3) : frameKind n f = 2 := by
  unfold frameKind
  split
  · rfl
  · rcases h with e | e <;> rw [e] <;> rfl

/-- The node with the frames of a `BSU_OWN` in the BSU state, and its job gone (R188). -/
def framesEntered (n : Node) (j : OwnJob) : Node :=
  let n1 := setFrames enteredSt j.frames n
  { n1 with bsu := { n1.bsu with owns := n1.bsu.owns.filter (·.handle != j.handle) } }

theorem frameSt_framesEntered (j : OwnJob) : frameSt (framesEntered n j) f = frameSt (setFrames enteredSt j.frames n) f := rfl

/-- With nothing left to recall, a `BSU_OWN` ends with its frames in the BSU state (R188). -/
theorem ownEnd_clear {j : OwnJob} (hj : j.lines = []) :
    ownEnd t n j = complete t (framesEntered n j) j.handle stOk (leBytes 4 j.frames.length ++ leBytes 4 0 ++ leBytes 4 0) := by
  simp only [ownEnd, hj, List.any_nil, List.filter_nil, List.length_nil, Bool.false_eq_true, if_false]
  rfl

/-- The frames of a range that a `BSU_OWN` finds not owned (R188). -/
def newFrames (n : Node) (c : Cmd) : List Nat := dedupNat ((nameFrames n (c.f 24 8) (c.f 32 8)).filter fun f => frameSt n f < 2)

/-- A `BSU_OWN` without a copy out is noted and ends at once (R188). -/
theorem bsuOwn_takes (hr : Runs n h opBsuOwn c) (hnew : ∀ j ∈ n.bsu.owns, j.handle ≠ h.toNat) (ho : ownOffs c = [])
    (hours : ∀ f ∈ nameFrames n (c.f 24 8) (c.f 32 8), frameOurs n f = true ∧ isScratch n f = false) (hdir : n.cxd.dir = []) :
    ∃ m : Node, bsuOwn h.toNat t n = ownEnd t m ⟨h.toNat, newFrames n c, [], []⟩ ∧ ∀ f, frameSt m f = frameSt (setFrames takenSt (newFrames n c) n) f := by
  obtain ⟨hf, hop, hs, hq, hh⟩ := hr
  have hfind : n.bsu.owns.find? (·.handle == h.toNat) = none := by simpa using hnew
  have hforeign : (nameFrames n (c.f 24 8) (c.f 32 8)).any (fun f => !frameOurs n f || isScratch n f) = false := by simpa using hours
  have hlines : heldInFrames (setFrames takenSt (newFrames n c) n) true (nameFrames n (c.f 24 8) (c.f 32 8)) = [] := by
    rw [heldInFrames, show (setFrames takenSt (newFrames n c) n).cxd.dir = [] from (foldl_keeps (·.cxd.dir) (fun _ _ => setFrame_dir _ _) _ _).trans hdir]
    rfl
  unfold setFrames newFrames takenSt at *
  rw [bsuOwn, hfind]
  dsimp only
  rw [withCmd_eq _ hf hop hs hq, checked_ok _ hh ho]
  simp only [hforeign, hlines, Bool.false_eq_true, if_false, List.foldl_nil, List.filter_nil]
  exact ⟨_, rfl, fun f => rfl⟩

/-- A frame that a `BSU_OWN` names is in the BSU state in the end (R187, R188). -/
theorem frameKind_entered {m : Node} {j : OwnJob} (hj : j.frames = newFrames n c) (hm : ∀ f, frameSt m f = frameSt (setFrames takenSt (newFrames n c) n) f)
    (hf : f ∈ nameFrames n (c.f 24 8) (c.f 32 8)) (h3 : frameSt n f ≤ 3) :
    frameKind (framesEntered m j) f = 2 := by
  have hmem : f ∈ newFrames n c ↔ frameSt n f < 2 := by simp only [newFrames, mem_dedupNat, List.mem_filter, hf, decide_eq_true_eq, true_and]
  have hnodup : (newFrames n c).Nodup := nodup_dedupNat _
  apply frameKind_bsu
  rw [frameSt_framesEntered, hj, frameSt_setFrames two_le_enteredSt hnodup, hm, frameSt_setFrames two_le_takenSt hnodup]
  by_cases hnew : frameSt n f < 2
  · rw [if_pos (hmem.mpr hnew), if_pos (hmem.mpr hnew)]
    by_cases hshared : frameSt n f = 1
    · exact .inr (by rw [takenSt, if_pos hshared, enteredSt, if_pos rfl])
    · exact .inl (by rw [takenSt, if_neg hshared, enteredSt, if_neg (by decide)])
  · rw [if_neg (mt hmem.mp hnew), if_neg (mt hmem.mp hnew)]
    omega

/-- Releasing frames leaves the held writes (R189). -/
theorem setFrames_released_held : (setFrames releasedSt l n).bsu.held = n.bsu.held := foldl_keeps (·.bsu.held) (fun _ _ => setFrame_held _ _) l n

/-- A frame released is no longer noted (R187). -/
theorem setFrame_released (f k : Nat) : (setFrame n f (releasedSt k)).bsu.frames = mdel n.bsu.frames f := if_pos (by unfold releasedSt; split <;> omega)

theorem mget?_frames_released (hf : f ∈ l ∨ mget? n.bsu.frames f = none) : mget? (setFrames releasedSt l n).bsu.frames f = none := by
  induction l generalizing n with
  | nil => exact hf.resolve_left List.not_mem_nil
  | cons g l ih =>
    refine ih (n := setFrame n g (releasedSt (frameSt n g))) ?_
    rw [setFrame_released, mget?_mdel]
    by_cases e : f = g
    · exact .inr (if_pos e)
    · rw [if_neg e]
      exact hf.imp_left fun hm => (List.mem_cons.mp hm).resolve_left e

/-- The node with frames returned and no write held (R189). -/
def framesReturned (fs : List Nat) (n : Node) : Node := { setFrames releasedSt fs n with bsu := { (setFrames releasedSt fs n).bsu with held := [] } }

theorem framesReturned_open (hf : f ∈ l) : mget? (framesReturned l n).bsu.frames f = none := mget?_frames_released (.inl hf)

/-- With no earlier run on its channels and no write held, `BSU_RELEASE` returns the frames (R189). -/
theorem bsuRelease_returns {fs : List Nat} (hr : Runs n h opBsuRelease c) (ho : ownOffs c = []) (hfs : fs = dedupNat (nameFrames n (c.f 24 8) (c.f 32 8)))
    (hown : ∀ f ∈ fs, frameKind n f = 2 ∧ isScratch n f = false) (hbusy : busyBelow n c (dedupNat (fs.map pchOf)) = false) (hheld : n.bsu.held = []) :
    bsuRelease h.toNat t n = complete t (framesReturned fs n) h.toNat stOk (leBytes 4 fs.length) := by
  obtain ⟨hf, hop, hs, hq, hh⟩ := hr
  subst hfs
  have hkind : (dedupNat (nameFrames n (c.f 24 8) (c.f 32 8))).any (fun f => frameKind n f != 2) = false := by simpa using fun f hm => (hown f hm).1
  have hscr : (dedupNat (nameFrames n (c.f 24 8) (c.f 32 8))).any (isScratch n) = false := by simpa using fun f hm => (hown f hm).2
  have hrel : releaseHeldWrites t (setFrames releasedSt (dedupNat (nameFrames n (c.f 24 8) (c.f 32 8))) n) = framesReturned (dedupNat (nameFrames n (c.f 24 8) (c.f 32 8))) n := by
    rw [releaseHeldWrites, setFrames_released_held, hheld, List.foldl_nil]
    rfl
  rw [bsuRelease, withCmd_eq _ hf hop hs hq]
  dsimp only
  rw [checked_ok _ hh ho]
  simp only [hkind, hscr, hbusy, Bool.false_eq_true, if_false]
  exact congrArg (fun m => complete t m h.toNat stOk _) hrel

end

/-- Settles O29: each command of bank-side runs, programs and frames, by what it does when nothing stands in its way. -/
theorem bankSideRunsAreQueuedPausedAndEnded : Obligations.BankSideRunsAreQueuedPausedAndEnded := by
  intro s h c b u hu
  subst hu
  refine ⟨fun hr hv29 hv52 hspan hlo hhi hin hinAt houtAt hout hend ht hd hb => ?run, fun e j hr hshed hstop hserv hsad he hj hsrc hg => ?start,
    fun r hr hsrc => ⟨fun hp hh ht => ?pause, fun hp hshed ht => ?resume, fun j hp hdef hshed hg hop hc hj hok hjh => ?halt⟩,
    fun j hj => ⟨fun f hf => ?fail, fun hc hf hd => ?deadline⟩, fun hr hv30 hv44 hspan hlo hslots hhi hat hmin hmax hlen hb hok => ?load,
    fun hr hnew ho hours hdir => ?own, fun hr ho hown hbusy hheld => ?release⟩
  case run =>
    refine ⟨_, by rw [exec_bsuRun, bsuRun_queues hr hv29 hv52 hspan hlo hhi hin hinAt houtAt hout hend ht hd hb], ?_, fun k hk => ?_, ?_⟩
    · exact findCmd_setRunning ((congrArg (fun fe => fe.cmds.find? (·.handle == h.toNat)) (entriesQueued_fe s.node c _)).trans hr.1)
    · exact unitOf_foldl_modUnit_mem (nodup_bsuSpan c) hk
    · exact congrArg (· ++ [freshJob s.node h.toNat c]) (entriesQueued_jobs s.node c _)
  case start =>
    obtain ⟨r, hunit, hent, hip, ha, hl, hm⟩ := startRun_unit s.tck hsrc hj
    refine ⟨_, r, by rw [exec_bsuRunStart, runStart_starts hr hshed hstop hserv hsad he hg], ?_, hent, hip, ha, hl, hm, ?_, ?_⟩ <;> rw [hunit]
  case pause => rw [exec_bsuPause, bsuPause_pauses hr hsrc hp hh ht]
  case resume => rw [exec_bsuResume, bsuResume_resumes hr hp hshed ht]
  case halt =>
    have hhalt := bsuHalt_halts (t := s.tck) hr hsrc hp hdef hshed hg hop hc hj hok
    have hrun : (unitOf (haltedRun s.node b.val r c) b.val).run = none := haltedRun_run r c
    rw [exec_bsuHalt, hhalt]
    split
    next hlast =>
      have hc' : findCmd (haltedRun s.node b.val r c) (j.keep b.val (runOutput (unitOf s.node b.val) c)).handle = some c := hjh ▸ hc
      rw [finishJob_completes hc', show (j.keep b.val (runOutput (unitOf s.node b.val) c)).handle = r.ent.handle from hjh]
      refine ⟨_, rfl, ?_, fun hne => absurd hlast.symm hne, fun _ => ⟨_, ?_, jobFinished_hmem c _, rfl⟩⟩
      · rw [unitOf_of_bsu (complete_bsu _ _ _ _ _), unitOf_jobFinished, hrun]
      · rw [findCmd, jobFinished_fe]
        exact hc
    next hmore => exact ⟨_, rfl, hrun, fun _ => haltedRun_job hj, fun e => absurd e.symm hmore⟩
  case fail => rw [exec_bsuRunFail, runFail_completes hj hf]
  case deadline =>
    obtain ⟨k, ip, e⟩ := runDeadline_completes (t := s.tck) hj hc hf hd
    exact ⟨k, ip, by rw [exec_bsuRunDeadline, e]⟩
  case load =>
    exact ⟨_, by rw [exec_bsuLoad, bsuLoad_loads hr hv30 hv44 hspan hlo hslots hhi hat hmin hmax hlen hb rfl hok], fun k hk => unitOf_foldl_modUnit_mem (nodup_bsuSpan c) hk,
      fun k hk => unitOf_foldl_modUnit_not_mem hk⟩
  case own =>
    obtain ⟨m, e, hm⟩ := bsuOwn_takes (t := s.tck) hr hnew ho hours hdir
    exact ⟨_, by rw [exec_bsuOwn, e, ownEnd_clear rfl]; rfl, fun f hf h3 => frameKind_entered rfl hm hf h3⟩
  case release =>
    exact ⟨_, by rw [exec_bsuRelease, bsuRelease_returns hr ho rfl hown hbusy hheld], fun f hf => framesReturned_open hf⟩

end Sys2Proof.Machine
end

section
/-! `MICROSTEP` and `DEFERRED_LINE_DONE`: an instruction's whole effect at once, or none of it when a line is refused or deferred (R176 to R184, R187, R191 to R194). -/

namespace Sys2Proof.Machine

/-! ## Bytes of consecutive lines -/

section

variable (d : Byte) (m : Mem) (a : Nat)

theorem Mem.read_add (j k : Nat) : Mem.read d m a (j + k) = Mem.read d m a j ++ Mem.read d m (a + j) k := by
  induction j generalizing a with
  | zero => rw [Nat.zero_add, Nat.add_zero, Mem.read, List.nil_append]
  | succ j ih => rw [Nat.succ_add, Mem.read, Mem.read, ih, List.cons_append, Nat.add_assoc, Nat.add_comm 1 j]

variable {j k : Nat}

theorem Mem.drop_read (h : j ≤ k) : (Mem.read d m a k).drop j = Mem.read d m (a + j) (k - j) := by
  obtain ⟨i, rfl⟩ := Nat.exists_eq_add_of_le h
  rw [Mem.read_add, List.drop_left' (Mem.read_length d m j a), Nat.add_sub_cancel_left]

theorem Mem.take_read (h : j ≤ k) : (Mem.read d m a k).take j = Mem.read d m a j := by
  obtain ⟨i, rfl⟩ := Nat.exists_eq_add_of_le h
  rw [Mem.read_add, List.take_left' (Mem.read_length d m j a)]

end

section

variable {a len : Nat}

/-- The lines that an operand of some bytes touches are at least one: its first, and those behind it. -/
theorem bankLines_eq_cons (h : 0 < len) : ∃ ls, bankLines a len = a / 64 * 64 :: ls := by
  obtain ⟨k, hk⟩ : ∃ k, (a + len + 63) / 64 - a / 64 = k + 1 := ⟨(a + len + 63) / 64 - a / 64 - 1, by omega⟩
  rw [bankLines, hk, List.range_succ_eq_map, List.map_cons, Nat.add_zero]
  exact ⟨_, rfl⟩

theorem bankLines_headD (h : 0 < len) (x : Nat) : (bankLines a len).headD x = a / 64 * 64 := by
  obtain ⟨ls, e⟩ := bankLines_eq_cons (a := a) h
  rw [e, List.headD_cons]

/-- The last line ends where the operand does, rounded up to a line. -/
theorem bankLines_getLast (h : 0 < len) (x : Nat) : (bankLines a len).getLast?.getD x + 64 = (a + len + 63) / 64 * 64 := by
  obtain ⟨k, hk⟩ : ∃ k, (a + len + 63) / 64 - a / 64 = k + 1 := ⟨(a + len + 63) / 64 - a / 64 - 1, by omega⟩
  rw [bankLines, hk, List.range_succ, List.map_append, List.map_singleton, List.getLast?_append, List.getLast?_singleton, Option.some_or, Option.getD_some]
  omega

/-- A line of an operand that begins and ends on lines lies within it. -/
theorem bankLines_within (ha : a % 64 = 0) (hlen : len % 64 = 0) {l : Nat} (hl : l ∈ bankLines a len) : a ≤ l ∧ l + 64 ≤ a + len := by
  obtain ⟨k, hk, rfl⟩ := List.mem_map.mp hl
  rw [List.mem_range] at hk
  omega

/-- Consecutive lines read one after another are their bytes in one piece. -/
theorem readLines_consecutive (n : Node) (b q k : Nat) : readLines n b ((List.range k).map fun i => (q + i) * 64) = bankRead n b (q * 64) (64 * k) := by
  induction k with
  | zero => rfl
  | succ k ih =>
    rw [List.range_succ, List.map_append, readLines, List.flatMap_append, ← readLines, ih, List.map_singleton, List.flatMap_singleton, bankRead, bankRead, bankRead,
      Nat.mul_add 64 k 1, Mem.read_add, Nat.add_mul, Nat.mul_comm k 64, Nat.add_assoc]

/-- An operand cut out of its lines. -/
theorem readLines_operand (n : Node) (b : Nat) : ((readLines n b (bankLines a len)).drop (a % 64)).take len = bankRead n b a len := by
  have hstart : b * pchBytes + a / 64 * 64 + a % 64 = b * pchBytes + a := by omega
  rw [bankLines, readLines_consecutive, bankRead, Mem.drop_read _ _ _ (by omega), Mem.take_read _ _ _ (by omega), hstart, bankRead]

end

/-! ## Reading lines through the light decoder (R187, R191 to R194) -/

section

variable {n : Node} {b off : Nat} {errs : List (Nat × List Nat)} {wr : Bool} {need : Nat → Bool} {ls : List Nat}

@[simp] theorem lineAllowed_pmc (k ev c : Nat) : lineAllowed (pmc n k ev c) b off wr = lineAllowed n b off wr := by
  obtain ⟨bank, counts, e⟩ := pmc_shape n k ev c
  rw [e]
  rfl

/-- A line without a symbol in error that bears no poison is read. -/
theorem lightRead_clean (hp : mget? n.mic.poison (b * pchBytes + off) = none) : lightRead b [] n off = (pmc n (32 + b / 128) 0x2004 1, .ok) := by
  simp only [lightRead, List.find?_nil, Option.map_none, Option.getD_none, hp, Option.filter_none, mhas, Option.isSome_none, Bool.false_eq_true, reduceIte, lightDecode, List.isEmpty_nil]

/-- A line that the light decoder detects and cannot correct is deferred (R194). -/
theorem lightRead_uncorr {lanes : List Nat} (hp : mget? n.mic.poison (b * pchBytes + off) = none) (hd : lightDecode lanes = .uncorr) :
    lightRead b [(off, lanes)] n off = (pmc n (32 + b / 128) 0x2004 1, .defer off) := by
  simp only [lightRead, BEq.rfl, List.find?_cons_of_pos, Option.map_some, Option.getD_some, hp, Option.filter_none, mhas, Option.isSome_none, Bool.false_eq_true, reduceIte, hd]

/-- The next line of an access: looked at while none has stopped it, checked against its frame's state, and read where it is needed. -/
def readNext (b : Nat) (errs : List (Nat × List Nat)) (wr : Bool) (need : Nat → Bool) (s : Node × LineRes) (off : Nat) : Node × LineRes :=
  if s.2 != .ok then s else if !lineAllowed s.1 b off wr then (s.1, .refused off) else if need off then lightRead b errs s.1 off else s

theorem lightReads_eq_foldl (n : Node) (ls : List Nat) : lightReads b errs wr need n ls = ls.foldl (readNext b errs wr need) (n, .ok) := rfl

/-- Once a line has stopped an access, the lines behind it are not looked at. -/
theorem foldl_readNext_stopped {x : LineRes} (hx : x ≠ .ok) (ls : List Nat) : ls.foldl (readNext b errs wr need) (n, x) = (n, x) := by
  induction ls with
  | nil => rfl
  | cons l ls ih => rw [List.foldl_cons, readNext, if_pos (bne_iff_ne.mpr hx), ih]

/-- A first line whose frame's state refuses the access stops it (R191). -/
theorem lightReads_refused (ha : lineAllowed n b off wr = false) : lightReads b errs wr need n (off :: ls) = (n, .refused off) := by
  simp only [lightReads_eq_foldl, List.foldl_cons, readNext, ha, bne_self_eq_false, Bool.not_false, Bool.false_eq_true, if_false, if_true]
  exact foldl_readNext_stopped (x := .refused off) nofun ls

/-- A first line whose read does not succeed stops the access (R192, R194). -/
theorem lightReads_first {m : Node} {x : LineRes} (ha : lineAllowed n b off wr = true) (hn : need off = true) (hr : lightRead b errs n off = (m, x)) (hx : x ≠ .ok) :
    lightReads b errs wr need n (off :: ls) = (m, x) := by
  simp only [lightReads_eq_foldl, List.foldl_cons, readNext, ha, hn, hr, bne_self_eq_false, Bool.not_true, Bool.false_eq_true, if_false, if_true]
  exact foldl_readNext_stopped hx ls

/-- Lines that the frames' states allow, those needed free of poison and of errors, are all read; units and banks stay as they are. -/
theorem lightReads_ok (h : ∀ l ∈ ls, lineAllowed n b l wr = true ∧ (need l = true → mget? n.mic.poison (b * pchBytes + l) = none)) :
    ∃ m, lightReads b [] wr need n ls = (m, .ok) ∧ m.bsu = n.bsu ∧ m.t1 = n.t1 := by
  induction ls generalizing n with
  | nil => exact ⟨n, rfl, rfl, rfl⟩
  | cons l ls ih =>
    obtain ⟨⟨ha, hp⟩, hls⟩ := List.forall_mem_cons.mp h
    by_cases hn : need l = true
    · obtain ⟨m, e, hb, ht⟩ := ih (n := pmc n (32 + b / 128) 0x2004 1) (by simpa using hls)
      refine ⟨m, ?_, by rw [hb, pmc_bsu], by rw [ht, pmc_t1]⟩
      rw [← e]
      simp only [lightReads_eq_foldl, List.foldl_cons, readNext, ha, hn, lightRead_clean (hp hn), bne_self_eq_false, Bool.not_true, Bool.false_eq_true, if_false, if_true]
    · obtain ⟨m, e, hbt⟩ := ih hls
      refine ⟨m, ?_, hbt⟩
      rw [← e]
      simp only [lightReads_eq_foldl, List.foldl_cons, readNext, ha, hn, bne_self_eq_false, Bool.not_true, Bool.false_eq_true, if_false]

end

/-! ## A microstep committed, failed or deferred -/

section

variable {t : Tck} {n m : Node} {b : Nat} {r : BsuRunSt} {i : BInstr} {f : Bsu → Bsu} {g : BsuRunSt → BsuRunSt} {errs : List (Nat × List Nat)}

@[simp] theorem committed_t1 (n : Node) (b : Nat) (r : BsuRunSt) : (committed n b r).t1 = n.t1 := by
  unfold committed
  dsimp only
  split
  · rw [modJob_t1, bsuCount_t1, modRun_t1]
  · rw [bsuCount_t1, modRun_t1]

/-- A commit counts one microstep of the run (R184). -/
theorem unitOf_committed (n : Node) (b : Nat) (r : BsuRunSt) :
    unitOf (committed n b r) b = { unitOf n b with run := (unitOf n b).run.map fun y => { y with msteps := y.msteps + 1 } } := by
  unfold committed
  dsimp only
  split
  · rw [unitOf_modJob, unitOf_bsuCount, unitOf_modRun_self]
  · rw [unitOf_bsuCount, unitOf_modRun_self]

/-- A run after a change of its checkpoint that commits. -/
theorem unitOf_committed_modRun (hr : (unitOf n b).run = some r) (g : BsuRunSt → BsuRunSt) :
    unitOf (committed (modRun n b g) b r) b = { unitOf n b with run := some { g r with msteps := (g r).msteps + 1 } } := by
  rw [unitOf_committed, unitOf_modRun_self, hr]
  rfl

/-- A unit after a change of its SRAM and of its run's checkpoint that commits. -/
theorem unitOf_committed_modUnit (hr : (unitOf n b).run = some r) (hm : m.bsu = n.bsu) (hf : ∀ u, (f u).run = u.run) (g : BsuRunSt → BsuRunSt) :
    unitOf (committed (modRun (modUnit m b f) b g) b r) b = { f (unitOf n b) with run := some { g r with msteps := (g r).msteps + 1 } } := by
  rw [unitOf_committed_modRun (by rw [unitOf_modUnit_self, hf, unitOf_of_bsu hm, hr]), unitOf_modUnit_self, unitOf_of_bsu hm]

@[simp] theorem unitOf_failRun (t : Tck) (n : Node) (b : Nat) (r : BsuRunSt) (status addr : Nat) : unitOf (failRun t n b r status addr) b = { unitOf n b with run := none } := by
  rw [failRun, unitOf_modJob, unitOf_modUnit_self]

@[simp] theorem failRun_t1 (t : Tck) (n : Node) (b : Nat) (r : BsuRunSt) (status addr : Nat) : (failRun t n b r status addr).t1 = n.t1 := rfl

/-- The first failure of a job stands (R171). -/
theorem failRun_job {j : BsuJob} (status addr : Nat) (hj : n.bsu.jobs.find? (fun x => x.handle == r.ent.handle) = some j) (hok : j.fail = none) :
    (failRun t n b r status addr).bsu.jobs.find? (fun x => x.handle == r.ent.handle) = some { j with fail := some ⟨status, b, r.ip, addr, t.notches⟩ } := by
  rw [failRun]
  refine (find?_modJob _ _ _ ?_).trans ?_
  · exact fun _ => rfl
  · rw [modUnit_jobs, hj, Option.map_some, hok]

theorem lineStop_refused (hsrc : r.ent.src = 0) (off : Nat) :
    lineStop t n b r (.refused off) = (t, failRun t (bsuCount n b (Rg.bsuOwnFaultCount (b / 128) (b % 128)) 0x2006 1) b r stNotOwner off) := by
  rw [lineStop, stopRun, hsrc, if_neg (by decide)]

@[simp] theorem scrubAhead_bsu (n : Node) (a : Nat) : (scrubAhead n a).bsu = n.bsu := by
  unfold scrubAhead
  dsimp only
  split <;> rfl

@[simp] theorem scrubAhead_t1 (n : Node) (a : Nat) : (scrubAhead n a).t1 = n.t1 := by
  unfold scrubAhead
  dsimp only
  split <;> rfl

/-- A deferral leaves the banks, and of the unit all but that its run waits for the line (R194). -/
theorem lineStop_defer (hr : (unitOf n b).run = some r) (hm : m.bsu = n.bsu) (off : Nat) :
    ∃ N, lineStop t m b r (.defer off) = (t, N) ∧ N.t1 = m.t1 ∧ unitOf N b = { unitOf n b with run := some { r with deferred := some off } } := by
  refine ⟨_, rfl, by rw [bsuCount_t1, scrubAhead_t1, modRun_t1], ?_⟩
  rw [unitOf_bsuCount, unitOf_of_bsu (scrubAhead_bsu _ _), unitOf_modRun_self, unitOf_of_bsu hm, hr, Option.map_some]

/-! ## The effect of one instruction -/

@[simp] theorem countRow_bsu (t : Tck) (n : Node) (cls : Nat) (x : Row) : (countRow t n cls x).bsu = n.bsu := countRow_keeps (·.bsu) raise_bsu (fun _ _ => rfl) t n cls x
@[simp] theorem countRow_t1 (t : Tck) (n : Node) (cls : Nat) (x : Row) : (countRow t n cls x).t1 = n.t1 := countRow_keeps (·.t1) raise_t1 (fun _ _ => rfl) t n cls x

/-- The row that a vector operation stores: what it computes, or free values for an open modifier (R176). -/
def vectorRow (n : Node) (u : Bsu) (i : BInstr) : Row := narrowRow i.fd (if modOpen i then (takeFrees i.all n).1.map (· % 2 ^ 32) else (vecResult u i).1)

/-- A vector operation writes its row to SRAM and steps on; units and banks stay else as they are (R176 to R179). -/
theorem stepVector_eq (t : Tck) (n : Node) (b : Nat) (i : BInstr) :
    ∃ m, stepVector t n b i = modRun (modUnit m b fun u => putResult u i (vectorRow n (unitOf n b) i)) b nextIp ∧ m.bsu = n.bsu ∧ m.t1 = n.t1 := by
  unfold stepVector vectorRow
  cases ho : modOpen i
  · exact ⟨_, rfl, by rw [bump_bsu, countRow_bsu]; rfl, by rw [bump_t1, countRow_t1]; rfl⟩
  · simp only [if_true, takeFrees_eq]
    exact ⟨_, rfl, by rw [bump_bsu, countRow_bsu], by rw [bump_t1, countRow_t1]⟩

/-- MATVEC on weights in SRAM: all its channels at once (R180). -/
theorem stepMatvec_sram (hb : isBank i.sb = false) :
    stepMatvec t errs n b r i = (t, committed (modRun (modUnit n b fun u => putResult u i ⟨matvec [] u i, [], 0, 0, 0⟩) b nextIp) b r) := by
  simp only [stepMatvec, lightReads, hb, Bool.false_eq_true, reduceIte, List.drop_nil, List.take_nil, List.foldl_nil, bne_self_eq_false, List.length_nil, Nat.add_zero, Nat.not_lt_zero]

section

variable {a : Nat} (ha : a = r.areg.getD i.areg 0) (hp : r.prog = 0) (hpos : 0 < i.bankBytes)
include ha hp

/-- MATVEC on a bank operand that one microstep reads: its channels from the operand's bytes (R180, R184). -/
theorem stepMatvec_bank (hgot : r.got = []) (hb : isBank i.sb = true) (hfit : (bankLines a i.bankBytes).length ≤ 224)
    (hl : ∀ l ∈ bankLines a i.bankBytes, lineAllowed n b l false = true ∧ mget? n.mic.poison (b * pchBytes + l) = none) :
    ∃ m, stepMatvec t [] n b r i = (t, committed (modRun (modUnit m b fun u => putResult u i ⟨matvec (bankRead n b a i.bankBytes) u i, [], 0, 0, 0⟩) b
        fun y => nextIp (incAreg i y)) b r) ∧ m.bsu = n.bsu ∧ m.t1 = n.t1 := by
  obtain ⟨m, hread, hm, ht⟩ := lightReads_ok (wr := false) (need := fun _ => true) fun l h => ⟨(hl l h).1, fun _ => (hl l h).2⟩
  have hbytes : bankRead m b a i.bankBytes = bankRead n b a i.bankBytes := by rw [bankRead, ht, bankRead]
  refine ⟨m, ?_, hm, ht⟩
  simp only [stepMatvec, ← ha, hp, hgot, hb, List.drop_zero, List.take_of_length_le hfit, hread, bne_self_eq_false, Nat.zero_add, Nat.lt_irrefl, Bool.false_eq_true, if_false, if_true,
    List.nil_append, readLines_operand, hbytes]

/-- A LOAD that a line stops goes on as that line has it. -/
theorem stepLoad_stops {x : LineRes} (hx : x ≠ .ok) (h : lightReads b errs false (fun _ => true) n ((bankLines a i.bankBytes).take 224) = (m, x)) :
    stepLoad t errs n b r i = lineStop t m b r x := by
  simp only [stepLoad, ← ha, hp, List.drop_zero, h, bne_iff_ne.mpr hx, if_true]

include hpos

/-- LOAD of an operand that one microstep reads copies its bytes to SRAM (R176, R184). -/
theorem stepLoad_whole (hfit : (bankLines a i.bankBytes).length ≤ 224)
    (hl : ∀ l ∈ bankLines a i.bankBytes, lineAllowed n b l false = true ∧ mget? n.mic.poison (b * pchBytes + l) = none) :
    ∃ m, stepLoad t [] n b r i = (t, committed (modRun (modUnit m b fun u => { u with sram := Mem.write 0 u.sram (8 * i.sd) (bankRead n b a i.bankBytes) }) b
        fun y => nextIp (incAreg i y)) b r) ∧ m.bsu = n.bsu ∧ m.t1 = n.t1 := by
  obtain ⟨m, hread, hm, ht⟩ := lightReads_ok (wr := false) (need := fun _ => true) fun l h => ⟨(hl l h).1, fun _ => (hl l h).2⟩
  have hlo : max a (a / 64 * 64) = a := by omega
  have hhi : min (a + i.bankBytes) ((a + i.bankBytes + 63) / 64 * 64) = a + i.bankBytes := by omega
  have hbytes : bankRead m b a i.bankBytes = bankRead n b a i.bankBytes := by rw [bankRead, ht, bankRead]
  refine ⟨m, ?_, hm, ht⟩
  simp only [stepLoad, ← ha, hp, List.drop_zero, List.take_of_length_le hfit, hread, bne_self_eq_false, bankLines_headD hpos, bankLines_getLast hpos, hlo, hhi, Nat.sub_self, Nat.add_zero,
    Nat.add_sub_cancel_left, Nat.zero_add, Nat.le_refl, Bool.false_eq_true, if_false, if_true, hbytes]

/-- A LOAD whose first line the frame's state refuses fails its run (R171, R191). -/
theorem stepLoad_refused (hsrc : r.ent.src = 0) (hl : lineAllowed n b (a / 64 * 64) false = false) :
    stepLoad t errs n b r i = (t, failRun t (bsuCount n b (Rg.bsuOwnFaultCount (b / 128) (b % 128)) 0x2006 1) b r stNotOwner (a / 64 * 64)) := by
  obtain ⟨ls, hls⟩ := bankLines_eq_cons (a := a) hpos
  rw [stepLoad_stops ha hp (x := .refused (a / 64 * 64)) nofun (by rw [hls, List.take_succ_cons, lightReads_refused hl]), lineStop_refused hsrc]

/-- A LOAD whose first line the light decoder detects and cannot correct waits for it (R192, R194). -/
theorem stepLoad_deferred {lanes : List Nat} (hr : (unitOf n b).run = some r) (hl : lineAllowed n b (a / 64 * 64) false = true)
    (hpois : mget? n.mic.poison (b * pchBytes + a / 64 * 64) = none) (hd : lightDecode lanes = .uncorr) :
    ∃ N, stepLoad t [(a / 64 * 64, lanes)] n b r i = (t, N) ∧ N.t1 = n.t1 ∧ unitOf N b = { unitOf n b with run := some { r with deferred := some (a / 64 * 64) } } := by
  obtain ⟨ls, hls⟩ := bankLines_eq_cons (a := a) hpos
  obtain ⟨N, e, ht, hu⟩ := lineStop_defer (t := t) hr (pmc_bsu n (32 + b / 128) 0x2004 1) (a / 64 * 64)
  refine ⟨N, ?_, by rw [ht, pmc_t1], hu⟩
  rw [← e]
  exact stepLoad_stops ha hp nofun (by rw [hls, List.take_succ_cons, lightReads_first hl rfl (lightRead_uncorr hpois hd) nofun])

/-- STORE of whole lines that one microstep writes copies SRAM's bytes to the bank (R176, R184, R193). -/
theorem stepStore_whole (hat : a % 64 = 0) (hlen : i.bankBytes % 64 = 0) (hfit : (bankLines a i.bankBytes).length ≤ 64)
    (hl : ∀ l ∈ bankLines a i.bankBytes, lineAllowed n b l true = true) :
    ∃ m k, stepStore t [] n b r i = (t, committed (modRun (pmc (bankWrite m b a (Mem.read 0 (unitOf n b).sram (8 * i.sa) i.bankBytes)) (32 + b / 128) 0x2005 k) b
        fun y => nextIp (incAreg i y)) b r) ∧ m.bsu = n.bsu ∧ m.t1 = n.t1 := by
  have hread := lightReads_ok (n := n) (b := b) (wr := true) (ls := bankLines a i.bankBytes)
    (need := fun l => l < a || a + i.bankBytes < l + 64) fun l h => ⟨hl l h, fun hn => by
      obtain ⟨hlo, hhi⟩ := bankLines_within hat hlen h
      simp only [Bool.or_eq_true, decide_eq_true_eq] at hn
      omega⟩
  obtain ⟨m, hread, hm, ht⟩ := hread
  have hlo : max a (a / 64 * 64) = a := by omega
  have hhi : min (a + i.bankBytes) ((a + i.bankBytes + 63) / 64 * 64) = a + i.bankBytes := by omega
  refine ⟨m, (bankLines a i.bankBytes).length, ?_, hm, ht⟩
  simp only [stepStore, ← ha, hp, List.drop_zero, List.take_of_length_le hfit, hread, bne_self_eq_false, bankLines_headD hpos, bankLines_getLast hpos, hlo, hhi, Nat.sub_self, Nat.add_zero,
    Nat.add_sub_cancel_left, Nat.zero_add, Nat.le_refl, unitOf_of_bsu hm, Bool.false_eq_true, if_false, if_true]

end

/-- The banks and the unit once a STORE has committed (R184, R193). -/
theorem stored_t1 (a : Nat) (x : Bytes) (u ev k : Nat) : (committed (modRun (pmc (bankWrite m b a x) u ev k) b g) b r).t1 = Mem.write 0 m.t1 (b * pchBytes + a) x := by
  rw [committed_t1, modRun_t1, pmc_t1]
  rfl

theorem unitOf_stored (hr : (unitOf n b).run = some r) (hm : m.bsu = n.bsu) (a : Nat) (x : Bytes) (v ev k : Nat) :
    unitOf (committed (modRun (pmc (bankWrite m b a x) v ev k) b g) b r) b = { unitOf n b with run := some { g r with msteps := (g r).msteps + 1 } } := by
  have hu : unitOf (pmc (bankWrite m b a x) v ev k) b = unitOf n b := (unitOf_of_bsu (pmc_bsu _ _ _ _) b).trans (unitOf_of_bsu hm b)
  rw [unitOf_committed_modRun (by rw [hu, hr]), hu]

/-! ## Which instruction a microstep runs (R176, R184) -/

/-- The node on which a microstep without a fault of SRAM works: its unit written back as it was. -/
def rewritten (n : Node) (b : Nat) : Node := modUnit n b fun u => u

theorem sramFaults_nil (t : Tck) (n : Node) : sramFaults t n [] = n := rfl
theorem stoodWords_nil (k : Nat) : stoodWords [] k = [] := rfl

@[simp] theorem unitOf_rewritten (n : Node) (b : Nat) : unitOf (rewritten n b) b = unitOf n b := unitOf_modUnit_self n b _
@[simp] theorem rewritten_t1 (n : Node) (b : Nat) : (rewritten n b).t1 = n.t1 := rfl
@[simp] theorem rewritten_jobs (n : Node) (b : Nat) : (rewritten n b).bsu.jobs = n.bsu.jobs := rfl
theorem vectorRow_rewritten (n : Node) (b : Nat) (u : Bsu) (i : BInstr) : vectorRow (rewritten n b) u i = vectorRow n u i := by
  simp only [vectorRow, takeFrees_eq]
  rfl

section

variable (hr : (unitOf n b).run = some r) (hsrc : r.ent.src = 0) (hm : mayStep t n b r = true) (hi : instrAt (unitOf n b) r = i)
include hr hsrc hm hi

/-- The register and loop operations. -/
theorem microstep_control (hop : i.op ≤ bLoop) (hh : i.op ≠ bHalt) : microstep b errs [] t n = (t, committed (stepControl (rewritten n b) b r i) b r) := by
  have h : i.op ≠ bLoad ∧ i.op ≠ bStore ∧ i.op ≠ bMatvec := by simp only [bLoop, bLoad, bStore, bMatvec] at *; omega
  simp only [microstep, hr, hsrc, hm, hi, hop, hh, h, Bool.not_true, BEq.rfl, Bool.true_and, Bool.false_or, beq_iff_eq, reduceIte, Bool.false_eq_true, Nat.zero_ne_one, decide_false,
    Bool.false_and, Bool.or_self, List.foldl_nil, unitLost_nil, sramFaults_nil, stoodWords_nil, rewritten]

/-- The vector operations, RSACC, WIDEN and QUANT. -/
theorem microstep_vector (hop : bLoop < i.op) (h : i.op ≠ bLoad ∧ i.op ≠ bStore ∧ i.op ≠ bMatvec) :
    microstep b errs [] t n = (t, committed (stepVector t (rewritten n b) b i) b r) := by
  have hh : i.op ≠ bHalt := by simp only [bLoop, bHalt] at *; omega
  simp only [microstep, hr, hsrc, hm, hi, Nat.not_le.mpr hop, hh, h, Bool.not_true, BEq.rfl, Bool.true_and, Bool.false_or, beq_iff_eq, reduceIte, Bool.false_eq_true, Nat.zero_ne_one,
    decide_false, Bool.false_and, Bool.or_self, List.foldl_nil, unitLost_nil, sramFaults_nil, stoodWords_nil, rewritten]

theorem microstep_matvec (hop : i.op = bMatvec) : microstep b errs [] t n = stepMatvec t errs (rewritten n b) b r i := by
  have hne : bMatvec ≠ bLoad ∧ bMatvec ≠ bStore ∧ bMatvec ≠ bHalt := by decide
  simp only [microstep, hr, hsrc, hm, hi, hop, hne, Bool.not_true, BEq.rfl, Bool.true_and, Bool.false_or, beq_iff_eq, reduceIte, Bool.false_eq_true, Nat.zero_ne_one, decide_false,
    Bool.false_and, List.foldl_nil, unitLost_nil, sramFaults_nil, stoodWords_nil, rewritten]

theorem microstep_load (hop : i.op = bLoad) (hb : isBank i.sa = true) : microstep b errs [] t n = stepLoad t errs (rewritten n b) b r i := by
  have hne : bLoad ≠ bHalt := by decide
  simp only [microstep, hr, hsrc, hm, hi, hop, hne, hb, Bool.not_true, BEq.rfl, Bool.true_and, Bool.false_or, beq_iff_eq, reduceIte, Bool.false_eq_true, Nat.zero_ne_one, decide_true,
    Bool.and_self, List.foldl_nil, unitLost_nil, sramFaults_nil, stoodWords_nil, rewritten]

theorem microstep_store (hop : i.op = bStore) (hb : isBank i.sd = true) : microstep b errs [] t n = stepStore t errs (rewritten n b) b r i := by
  have hne : bStore ≠ bLoad ∧ bStore ≠ bHalt := by decide
  simp only [microstep, hr, hsrc, hm, hi, hop, hne, hb, Bool.not_true, BEq.rfl, Bool.true_and, Bool.false_or, beq_iff_eq, reduceIte, Bool.false_eq_true, Nat.zero_ne_one, decide_true,
    decide_false, Bool.false_and, Bool.and_self, List.foldl_nil, unitLost_nil, sramFaults_nil, stoodWords_nil, rewritten]

end

/-! ## The register and loop operations (R176) -/

@[simp] theorem stepControl_t1 (n : Node) (b : Nat) (r : BsuRunSt) (i : BInstr) : (stepControl n b r i).t1 = n.t1 := by
  simp only [stepControl]
  split
  · rfl
  · split
    · rfl
    · split <;> rfl

theorem stepControl_seta (h : i.op = bSeta) :
    stepControl n b r i = modRun n b fun y => nextIp { y with areg := y.areg.set i.areg (field (sramRead (unitOf n b) i.sa 8) 0 8 % 2 ^ 30) } := if_pos h

theorem stepControl_adda (h : i.op = bAdda) :
    stepControl n b r i = modRun n b fun y => nextIp { y with areg := y.areg.set i.areg (wrapInt 30 ((y.areg.getD i.areg 0 : Int) + 64 * signed 16 i.aux) % 2 ^ 30) } := by
  simp only [stepControl, h, if_true, setReg]
  rfl

theorem stepControl_setl (h : i.op = bSetl) : stepControl n b r i = modRun n b fun y => nextIp { y with lreg := y.lreg.set i.lreg i.n } := by
  simp only [stepControl, h, if_true, setReg]
  rfl

theorem stepControl_loop (h : i.op = bLoop) : stepControl n b r i = modRun n b fun y => { y with
    lreg := y.lreg.set i.lreg ((r.lreg.getD i.lreg 0 + 65535) % 65536), ip := if (r.lreg.getD i.lreg 0 + 65535) % 65536 = 0 then y.ip + 1 else i.aux, prog := 0, got := [] } := by
  simp only [stepControl, h, setReg]
  by_cases hz : (r.lreg.getD i.lreg 0 + 65535) % 65536 = 0
  · simp only [hz, if_true]
    rfl
  · simp only [hz, if_false]
    rfl

/-! ## DEFERRED_LINE_DONE -/

/-- A deferred line that the full decoder finds clean lets its microstep be replayed (R194). -/
theorem deferredDone_clean {off : Nat} (hr : (unitOf n b).run = some r) (hd : r.deferred = some off) (hl : erasureLane n (pchOf (b * pchBytes + off)) = none) :
    deferredDone b [] t n = (t, modUnit n b fun u => { u with run := some { r with deferred := none } }) := by
  simp only [deferredDone, hr, hd, hl, fullDecode, List.isEmpty_nil, if_true, modRun_of_run _ hr]

end

/-! ## The commands -/

section

variable {s : State} {b : Fin 1024} {r : BsuRunSt} {errs : List (Nat × List Nat)} {m N : Node} {f : Bsu → Bsu} {g : BsuRunSt → BsuRunSt}

theorem exec_deferredLineDone (b : Fin 1024) (lanes : List Nat) (s : State) :
    exec (.deferredLineDone b lanes) s = .next { s with tck := (deferredDone b.val lanes s.tck s.node).1, node := (deferredDone b.val lanes s.tck s.node).2 } := rfl

theorem exec_microstep (h : microstep b.val errs [] s.tck s.node = (s.tck, N)) : exec (.microstep b errs []) s = .next (s.withNode N) := by
  have e : exec (.microstep b errs []) s = .next { s with tck := (microstep b.val errs [] s.tck s.node).1, node := (microstep b.val errs [] s.tck s.node).2 } := rfl
  rw [e, h]

/-- A microstep that commits a change of SRAM and of the checkpoint: the banks stay, the unit is changed so, with one microstep more (R184). -/
theorem exec_microstep_commits (hr : (unitOf s.node b.val).run = some r) (e : microstep b.val errs [] s.tck s.node = (s.tck, committed (modRun (modUnit m b.val f) b.val g) b.val r))
    (hm : m.bsu = (rewritten s.node b.val).bsu) (ht : m.t1 = (rewritten s.node b.val).t1) (hf : ∀ u, (f u).run = u.run) :
    ∃ t, exec (.microstep b errs []) s = .next t ∧ t.node.t1 = s.node.t1
      ∧ unitOf t.node b.val = { f (unitOf s.node b.val) with run := some { g r with msteps := (g r).msteps + 1 } } := by
  refine ⟨_, exec_microstep e, by rw [committed_t1, modRun_t1, modUnit_t1, ht, rewritten_t1], ?_⟩
  rw [unitOf_committed_modUnit (n := rewritten s.node b.val) (by rw [unitOf_rewritten, hr]) hm hf, unitOf_rewritten]

end

/-- Settles O30: each instruction's microstep, committed whole; a refused or deferred line commits none of it. -/
theorem microstepsCommitWholeOrNotAtAll : Obligations.MicrostepsCommitWholeOrNotAtAll := by
  intro s b u r i a hu hr hsrc
  subst hu
  have hr' : (unitOf (rewritten s.node b.val) b.val).run = some r := by rw [unitOf_rewritten, hr]
  refine ⟨fun hm hi ha => ⟨fun hop hh => ?control, fun hop => ?vector, fun hop hb => ?sram, fun hp hgot hpos hfit hl => ⟨fun hop hb => ?matvec, fun hop hb => ?load⟩,
    fun hp hpos hat hlen hfit hl hop hb hwf => ?store, fun hop hb hp hpos => ⟨fun hl => ?refused, fun lanes hl hpois hd => ?deferred⟩⟩, fun off hd hl => ?done⟩
  case control =>
    refine ⟨_, exec_microstep (microstep_control hr hsrc hm hi hop hh), by rw [committed_t1, stepControl_t1, rewritten_t1],
      fun h => ?seta, fun h => ?adda, fun h => ?setl, fun h => ?loop⟩
    case seta =>
      rw [stepControl_seta h, unitOf_committed_modRun hr', unitOf_rewritten]
      rfl
    case adda =>
      rw [stepControl_adda h, unitOf_committed_modRun hr', unitOf_rewritten, ha]
      rfl
    case setl =>
      rw [stepControl_setl h, unitOf_committed_modRun hr', unitOf_rewritten]
      rfl
    case loop => rw [stepControl_loop h, unitOf_committed_modRun hr', unitOf_rewritten]
  case vector =>
    have hops : bLoop < i.op ∧ i.op ≠ bLoad ∧ i.op ≠ bStore ∧ i.op ≠ bMatvec := by
      simp only [List.mem_cons, List.not_mem_nil, or_false] at hop
      rcases hop with h | h | h | h | h | h | h <;> rw [h] <;> decide
    obtain ⟨m, e, hmb, hmt⟩ := stepVector_eq s.tck (rewritten s.node b.val) b.val i
    rw [unitOf_rewritten, vectorRow_rewritten] at e
    exact exec_microstep_commits hr ((microstep_vector hr hsrc hm hi hops.1 hops.2).trans (congrArg (fun N => (s.tck, committed N b.val r)) e)) hmb hmt fun _ => rfl
  case sram => exact exec_microstep_commits hr ((microstep_matvec hr hsrc hm hi hop).trans (stepMatvec_sram hb)) rfl rfl fun _ => rfl
  case matvec =>
    obtain ⟨m, e, hmb, hmt⟩ := stepMatvec_bank (t := s.tck) (n := rewritten s.node b.val) ha hp hgot hb hfit hl
    exact exec_microstep_commits hr ((microstep_matvec hr hsrc hm hi hop).trans e) hmb hmt fun _ => rfl
  case load =>
    obtain ⟨m, e, hmb, hmt⟩ := stepLoad_whole (t := s.tck) (n := rewritten s.node b.val) ha hp hpos hfit hl
    exact exec_microstep_commits hr ((microstep_load hr hsrc hm hi hop hb).trans e) hmb hmt fun _ => rfl
  case store =>
    obtain ⟨m, k, e, hmb, hmt⟩ := stepStore_whole (t := s.tck) (n := rewritten s.node b.val) ha hp hpos (beq_iff_eq.mp hat) (beq_iff_eq.mp hlen) hfit hl
    rw [unitOf_rewritten] at e
    have hx : (Mem.read 0 (unitOf s.node b.val).sram (8 * i.sa) i.bankBytes).length = i.bankBytes := Mem.read_length _ _ _ _
    refine ⟨_, exec_microstep ((microstep_store hr hsrc hm hi hop hb).trans e), ?_, ?_, fun j hj => ?_⟩
    · rw [unitOf_stored hr' hmb, unitOf_rewritten]
      rfl
    · have hread := Mem.read_write 0 (Mem.read 0 (unitOf s.node b.val).sram (8 * i.sa) i.bankBytes) s.node.t1 (b.val * pchBytes + a) hwf
      rw [hx] at hread
      rw [bankRead, stored_t1, hmt, rewritten_t1, hread]
    · rw [stored_t1, hmt, rewritten_t1, Mem.get_write _ _ _ _ _ hwf, hx, if_neg (by omega)]
  case refused =>
    refine ⟨_, exec_microstep ((microstep_load hr hsrc hm hi hop hb).trans (stepLoad_refused (n := rewritten s.node b.val) ha hp hpos hsrc hl)), ?_, ?_, fun j hj hok => ?_⟩
    · rw [failRun_t1, bsuCount_t1, rewritten_t1]
    · rw [unitOf_failRun, unitOf_bsuCount, unitOf_rewritten]
    · exact failRun_job _ _ (by rw [bsuCount_bsu, rewritten_jobs, hj]) hok
  case deferred =>
    obtain ⟨N, e, ht, hu⟩ := stepLoad_deferred (t := s.tck) (n := rewritten s.node b.val) (i := i) ha hp hpos hr' hl hpois hd
    exact ⟨_, exec_microstep ((microstep_load hr hsrc hm hi hop hb).trans e), ht, by rw [hu, unitOf_rewritten]⟩
  case done => rw [exec_deferredLineDone, deferredDone_clean hr hd hl]

end Sys2Proof.Machine
end

section
/-! The mover queue and the cache: what free movers that start, cached sectors and changed page entries leave alone (R197, R198, R201, R203). -/

namespace Sys2Proof.Machine

variable {n : Node}

/-! ## Movers (R201) -/

/-- Free movers that start change no more than which requests are being copied. -/
theorem startMovers_shape (k : Nat) (n : Node) : ∃ b, startMovers k n = { n with ter := { n.ter with busy := b } } := by
  induction k generalizing n with
  | zero => exact ⟨n.ter.busy, rfl⟩
  | succ k ih =>
    unfold startMovers
    split
    · exact ⟨n.ter.busy, rfl⟩
    · split
      · obtain ⟨b, e⟩ := ih { n with ter := { n.ter with busy := n.ter.busy ++ [_] } }
        exact ⟨b, e⟩
      · exact ⟨n.ter.busy, rfl⟩

/-- Requests join behind those that wait. -/
theorem queueMoves_shape (n : Node) (rs : List MoveReq) : ∃ b, queueMoves n rs = { n with ter := { n.ter with moves := n.ter.moves ++ rs, busy := b } } :=
  startMovers_shape 8 { n with ter := { n.ter with moves := n.ter.moves ++ rs } }

/-- A request that ends leaves the queue. -/
theorem dropMove_shape (n : Node) (r : MoveReq) : ∃ b, dropMove n r = { n with ter := { n.ter with moves := n.ter.moves.erase r, busy := b } } :=
  startMovers_shape 8 { n with ter := { n.ter with moves := n.ter.moves.erase r, busy := n.ter.busy.erase r } }

theorem dropMovesOf_pages (n : Node) (h : Nat) : (dropMovesOf n h).ter.pages = n.ter.pages := by
  unfold dropMovesOf
  obtain ⟨b, e⟩ := startMovers_shape 8 _
  rw [e]

/-- No request of a command is left once its requests are dropped. -/
theorem dropMovesOf_handle {h : Nat} {r : MoveReq} (hr : r ∈ (dropMovesOf n h).ter.moves) : r.handle ≠ some h := by
  unfold dropMovesOf at hr
  obtain ⟨b, e⟩ := startMovers_shape 8 _
  rw [e] at hr
  obtain ⟨q, -, rfl⟩ := List.mem_map.mp hr
  split
  · simp
  · assumption

/-! ## Cached sectors (R198) -/

/-- A view of the node that the cache, the contents of terrace 3, its poison and the free values are no part of. -/
structure CacheBlind {β : Type} (g : Node → β) : Prop where
  ter : ∀ (n : Node) t3 c u, g { n with ter := { n.ter with t3 := t3, cache := c, useSeq := u } } = g n
  mic : ∀ (n : Node) p, g { n with mic := { n.mic with poison3 := p } } = g n
  free : ∀ (n : Node) k, g { n with freeCtr := k } = g n

theorem CacheBlind.wts : CacheBlind (·.wts) := ⟨fun _ _ _ _ => rfl, fun _ _ => rfl, fun _ _ => rfl⟩
theorem CacheBlind.bank : CacheBlind (·.bank) := ⟨fun _ _ _ _ => rfl, fun _ _ => rfl, fun _ _ => rfl⟩
theorem CacheBlind.t1 : CacheBlind (·.t1) := ⟨fun _ _ _ _ => rfl, fun _ _ => rfl, fun _ _ => rfl⟩
theorem CacheBlind.pages : CacheBlind (·.ter.pages) := ⟨fun _ _ _ _ => rfl, fun _ _ => rfl, fun _ _ => rfl⟩
theorem CacheBlind.moves : CacheBlind (·.ter.moves) := ⟨fun _ _ _ _ => rfl, fun _ _ => rfl, fun _ _ => rfl⟩

section

variable {β : Type} {g : Node → β} (b : CacheBlind g)

include b

theorem CacheBlind.coarsen (n : Node) (s : Nat) : g (coarsen n s) = g n := by
  unfold Machine.coarsen
  split
  · rfl
  · extract_lets
    split
    rename_i v n1 h
    have hn : g n1 = g n := by
      split at h
      · cases h; rfl
      · cases h; exact b.free n _
    exact (b.mic { n1 with ter := { n1.ter with t3 := Mem.clear n1.ter.t3 (4096 * s) 4096 } } _).trans ((b.ter n1 _ n1.ter.cache n1.ter.useSeq).trans hn)

theorem CacheBlind.coarsenGone (n : Node) (c : NMap CacheBlk) : g (coarsenGone n c) = g n :=
  foldl_keeps g (fun m (e : Nat × CacheBlk) => foldl_keeps g (fun x _ => b.coarsen x _) (bitList 16 e.2.valid) m) _ n

theorem CacheBlind.cacheDrop (n : Node) (s : Nat) : g (cacheDrop n s) = g n := by
  unfold Machine.cacheDrop
  split
  · rfl
  · extract_lets v blk n1
    have hn : g n1 = g n := by
      show g (if _ then _ else _) = _
      split
      · exact b.coarsen n s
      · rfl
    exact (b.ter n1 n1.ter.t3 _ n1.ter.useSeq).trans hn

theorem CacheBlind.cacheDrops (n : Node) (l : List Nat) : g (l.foldl Machine.cacheDrop n) = g n := foldl_keeps g b.cacheDrop l n

theorem CacheBlind.cacheSector (hc : ∀ n f v, g (wr n f v) = g n) (dirty : Bool) (n : Node) (s : Nat) : g (cacheSector dirty n s) = g n := by
  unfold Machine.cacheSector
  split
  · split
    · exact hc n _ _
    · rfl
  · exact (b.ter (Machine.coarsenGone n _) _ _ _).trans (b.coarsenGone n _)

end

/-! ## Page entries changed (R197) -/

theorem pageAt_modPage (n : Node) (idx : Nat) (f : PageEnt → PageEnt) (i : Nat) : pageAt (modPage n idx f) i = if i = idx then (pageAt n idx).map f else pageAt n i :=
  mget?_mmod n.ter.pages idx i f

/-- Pages' entries changed in turn. -/
def modPages (n : Node) (l : List Nat) (f : PageEnt → PageEnt) : Node := l.foldl (fun m i => modPage m i f) n

theorem modPages_moves (n : Node) (l : List Nat) (f : PageEnt → PageEnt) : (modPages n l f).ter.moves = n.ter.moves :=
  foldl_keeps (·.ter.moves) (f := fun m i => modPage m i f) (fun _ _ => rfl) l n

theorem modPages_jobs (n : Node) (l : List Nat) (f : PageEnt → PageEnt) : (modPages n l f).ter.jobs = n.ter.jobs :=
  foldl_keeps (·.ter.jobs) (f := fun m i => modPage m i f) (fun _ _ => rfl) l n

theorem findCmd_modPages (n : Node) (l : List Nat) (f : PageEnt → PageEnt) (h : Nat) : findCmd (modPages n l f) h = findCmd n h :=
  foldl_keeps (findCmd · h) (f := fun m i => modPage m i f) (fun _ _ => rfl) l n

theorem pageAt_modPages {l : List Nat} (f : PageEnt → PageEnt) (hl : l.Nodup) (n : Node) (i : Nat) :
    pageAt (modPages n l f) i = if i ∈ l then (pageAt n i).map f else pageAt n i := by
  unfold modPages
  induction l generalizing n with
  | nil => simp
  | cons a l ih =>
    obtain ⟨ha, hl⟩ := List.nodup_cons.mp hl
    rw [List.foldl_cons, ih hl, pageAt_modPage]
    by_cases hi : i = a
    · subst hi; simp [ha]
    · simp [hi]

end Sys2Proof.Machine
end

section
/-! Placement commands on pages: `MIGRATE`, `PIN`, `UNPIN`, `PLACE_HINT` and what ends a late one (R201, R207, R209 to R214). -/

namespace Sys2Proof.Machine

variable {t : Tck} {n m : Node} {s : State} {h : Word} {c : Cmd} {named : List Nat}

theorem exec_migrate (e : migrate h.toNat named s.tck s.node = m) : exec (.migrate h named) s = .next (s.withNode m) := onNode_eq e
theorem exec_pin (e : pin h.toNat named s.tck s.node = m) : exec (.pin h named) s = .next (s.withNode m) := onNode_eq e
theorem exec_unpin (e : unpin h.toNat named s.tck s.node = m) : exec (.unpin h named) s = .next (s.withNode m) := onNode_eq e
theorem exec_placeHint (e : placeHint h.toNat named s.tck s.node = m) : exec (.placeHint h named) s = .next (s.withNode m) := onNode_eq e
theorem exec_migrateTimeout (e : migrateTimeout h.toNat s.tck s.node = m) : exec (.migrateTimeout h) s = .next (s.withNode m) := onNode_eq e

/-! ## The commands in progress (R210) -/

/-- A placement command still waits for a page or a layer. -/
abbrev MigJob.Waits (j : MigJob) : Prop := j.pages ≠ [] ∨ j.layers ≠ []

theorem MigJob.Waits.not_done {j : MigJob} (hj : j.Waits) : ¬ (j.pages.isEmpty && j.layers.isEmpty) = true := by
  rw [Bool.and_eq_true, List.isEmpty_iff, List.isEmpty_iff]
  exact fun ⟨hp, hl⟩ => hj.elim (· hp) (· hl)

/-- While every command waits, none completes. -/
theorem endMigs_waiting (hj : ∀ j ∈ n.ter.jobs, j.Waits) : endMigs t n = n := by
  rw [endMigs, List.filter_eq_nil_iff.mpr fun j hm => (hj j hm).not_done]
  rfl

/-- A command that waits for nothing completes with its counts. -/
theorem endMigs_last {old : List MigJob} {j : MigJob} (hn : n.ter.jobs = old ++ [j]) (hold : ∀ j ∈ old, j.Waits) (hp : j.pages = []) (hl : j.layers = []) :
    endMigs t n = complete t { n with ter := { n.ter with jobs := n.ter.jobs.filter (·.handle != j.handle) } } j.handle stOk (placeResult j.acted j.already j.skipped) := by
  have hdone : n.ter.jobs.filter (fun j => j.pages.isEmpty && j.layers.isEmpty) = [j] := by
    rw [hn, List.filter_append, List.filter_eq_nil_iff.mpr fun j hm => (hold j hm).not_done]
    simp [hp, hl]
  rw [endMigs, hdone]
  rfl

section

variable {k dest level acted already skipped : Nat} {pch : Option Nat} {pages : List Nat} (hf : findCmd n k = some c) (hj : ∀ j ∈ n.ter.jobs, j.Waits)

include hf hj

/-- A command with pages to move queues them and runs (R201, R211). -/
theorem startMoves_pages (hp : pages ≠ []) (hm : m = startMoves t n c dest level pch pages [] acted already skipped) :
    m.ter.moves = n.ter.moves ++ pages.map (fun i => ⟨2, .page i, dest, pch, some k⟩)
      ∧ m.ter.jobs = n.ter.jobs ++ [⟨k, acted, already, skipped, level, pages, []⟩] ∧ m.ter.pages = n.ter.pages ∧ findCmd m k = some { c with stage := .running } := by
  obtain rfl := findCmd_handle hf
  subst hm
  unfold startMoves
  extract_lets job rs n1
  obtain ⟨b, e⟩ := queueMoves_shape { n1 with ter := { n1.ter with jobs := n1.ter.jobs ++ [job] } } rs
  rw [e, endMigs_waiting fun j hm => (List.mem_append.mp hm).elim (hj j) fun hm => .inl (List.mem_singleton.mp hm ▸ hp)]
  exact ⟨rfl, rfl, rfl, findCmd_setRunning hf⟩

/-- A command with nothing to move completes with its counts. -/
theorem startMoves_nothing : ∃ m, startMoves t n c dest level pch [] [] acted already skipped = complete t m k stOk (placeResult acted already skipped)
    ∧ m.ter.pages = n.ter.pages ∧ m.ter.moves = n.ter.moves := by
  obtain rfl := findCmd_handle hf
  unfold startMoves
  extract_lets job rs n1
  obtain ⟨b, e⟩ := queueMoves_shape { n1 with ter := { n1.ter with jobs := n1.ter.jobs ++ [job] } } rs
  rw [e, endMigs_last rfl hj rfl rfl]
  exact ⟨_, rfl, rfl, List.append_nil _⟩

end

/-! ## Selections (R209, R210) -/

/-- A selector in order, of what is the tenant's and in its turn, lets the command act. -/
theorem withSel_acts {offs : List Nat} {body : Node} (hheld : seqHeld n c = false) (hh : headerOffs c = []) (hsel : selOffs n c = []) (hoffs : offs = [])
    (hfor : selForeign n c = false) : withSel t n c offs body = body := by
  rw [withSel, if_neg (by simp [hheld]), checked_ok _ hh (by rw [hsel, hoffs]; rfl), if_neg (by simp [hfor])]

theorem nodup_selPages (n : Node) (c : Cmd) (named : List Nat) : (selPages n c named).Nodup := by
  unfold selPages
  split
  · exact nodup_dedupNat _
  · split
    · exact nodup_dedupNat _
    · exact List.nodup_nil

/-! ## MIGRATE (R211) -/

/-- The pseudo-channel that a `MIGRATE` names. -/
def namedPch (c : Cmd) : Option Nat := if c.f 44 1 = 1 && c.f 46 2 != 0xFFFF then some (c.f 46 2) else none

theorem migrate_pages (hr : Runs n h opMigrate c) (hheld : seqHeld n c = false) (hsel : selOffs n c = []) (hlo : 1 ≤ c.f 44 1) (hhi : c.f 44 1 ≤ 3) (hv45 : rsv c 45 45 = [])
    (hpch : c.f 44 1 = 1 ∨ c.f 46 2 = 0xFFFF) (hv48 : rsv c 48 63 = []) (hfor : selForeign n c = false) (href : pchRefused n c named = false) (hkind : selKind c ≠ 2) :
    migrate h.toNat named t n = let s := sortPages n (c.f 44 1) (namedPch c) (selPages n c named)
      startMoves t n c (c.f 44 1) 0 (namedPch c) s.1 [] 0 s.2.1.length s.2.2.length := by
  obtain ⟨hf, hop, hs, hq, hh⟩ := hr
  have hdest : (c.f 44 1 == 0 || decide (3 < c.f 44 1)) = false := by simp only [Bool.or_eq_false_iff, beq_eq_false_iff_ne, decide_eq_false_iff_not]; omega
  have hnamed : (c.f 44 1 != 1 && c.f 46 2 != 0xFFFF || pchRefused n c named) = false := by rcases hpch with e | e <;> simp [e, href]
  rw [migrate, withCmd_eq _ hf hop hs hq]
  dsimp only
  rw [withSel_acts hheld hh hsel (by rw [offIf_false hdest, offIf_false hnamed, hv45, hv48]; rfl) hfor, if_neg hkind]
  rfl

/-- A page in motion is one to move (R203). -/
theorem mem_sortPages_of_inCopy {dest i : Nat} {pch : Option Nat} {l : List Nat} (hi : i ∈ l) (hc : inCopy n (.page i) = true) : i ∈ (sortPages n dest pch l).1 :=
  List.mem_filter.mpr ⟨hi, by simp [hc]⟩

/-! ## PIN (R212) -/

/-- A list is what a test keeps and what it drops. -/
theorem length_filter_add_filter_not {α : Type} (p : α → Bool) (l : List α) : (l.filter p).length + (l.filter fun a => !p a).length = l.length := by
  induction l with
  | nil => rfl
  | cons a l ih => cases h : p a <;> simp only [List.filter_cons, h, Bool.not_true, Bool.not_false, if_true, Bool.false_eq_true, if_false, List.length_cons] <;> omega

/-- Pages at or above the level are pinned at once (R212). -/
theorem pinPages_high {k level : Nat} (hf : findCmd n k = some c) (hj : ∀ j ∈ n.ter.jobs, j.Waits) (hover : pinOver n level (selPages n c named) = false)
    (hhigh : ∀ i ∈ selPages n c named, inCopy n (.page i) = false ∧ ∃ e, pageAt n i = some e ∧ pageTerrace n e ≤ level) :
    ∃ m a b, pinPages t n c named level = complete t m k stOk (placeResult a b 0) ∧ a + b = (selPages n c named).length ∧ m.ter.moves = n.ter.moves
      ∧ m.ter.pages = (modPages n (selPages n c named) fun e => { e with pin := pinTo e.pin level }).ter.pages := by
  have hlow : ∀ i ∈ selPages n c named, (inCopy n (.page i) || (pageAt n i).any fun e => level < pageTerrace n e) = false := by
    intro i hi
    obtain ⟨hc, e, he, hle⟩ := hhigh i hi
    simp [hc, he, hle]
  unfold pinPages
  extract_lets l low same now n1
  have hnow : now = l := List.filter_eq_self.mpr fun i hi => by simp only [low, hlow i hi, Bool.not_false]
  have hnone : l.filter low = [] := List.filter_eq_nil_iff.mpr fun i hi => by simp only [low, hlow i hi, Bool.false_eq_true, not_false_eq_true]
  have hn1 : n1 = modPages n l fun e => { e with pin := pinTo e.pin level } := by rw [← hnow]; rfl
  obtain ⟨m, e, hpages, hmoves⟩ := startMoves_nothing (t := t) (n := n1) (k := k) (c := c) (dest := level) (level := level) (pch := none)
    (acted := (now.filter fun i => !same i).length) (already := (now.filter same).length) (skipped := 0) (by rwa [hn1, findCmd_modPages]) (by rwa [hn1, modPages_jobs])
  rw [if_neg (by rw [hover]; decide), hnone]
  refine ⟨m, _, _, e, ?_, by rw [hmoves, hn1, modPages_moves], by rw [hpages, hn1]⟩
  rw [hnow, Nat.add_comm, length_filter_add_filter_not]

theorem pin_pages (hr : Runs n h opPin c) (hheld : seqHeld n c = false) (hsel : selOffs n c = []) (hlo : 1 ≤ c.f 44 1) (hhi : c.f 44 1 ≤ 2) (hv : rsv c 45 63 = [])
    (hfor : selForeign n c = false) (hkind : selKind c ≠ 2) : pin h.toNat named t n = pinPages t n c named (c.f 44 1) := by
  obtain ⟨hf, hop, hs, hq, hh⟩ := hr
  have hlevel : (c.f 44 1 == 0 || decide (2 < c.f 44 1)) = false := by simp only [Bool.or_eq_false_iff, beq_eq_false_iff_ne, decide_eq_false_iff_not]; omega
  rw [pin, withCmd_eq _ hf hop hs hq]
  dsimp only
  rw [withSel_acts hheld hh hsel (by rw [offIf_false hlevel, hv]; rfl) hfor, if_neg hkind]

/-! ## UNPIN (R213) -/

/-- The selected pages that are pinned. -/
def pinnedPages (n : Node) (l : List Nat) : List Nat := l.filter fun i => (pageAt n i).any fun e => e.pin != 0

theorem unpin_pages (hr : Runs n h opUnpin c) (hheld : seqHeld n c = false) (hsel : selOffs n c = []) (hv : rsv c 44 63 = []) (hfor : selForeign n c = false) (hkind : selKind c ≠ 2) :
    unpin h.toNat named t n = complete t (modPages n (pinnedPages n (selPages n c named)) fun e => { e with pin := 0 }) h.toNat stOk
      (placeResult (pinnedPages n (selPages n c named)).length ((selPages n c named).length - (pinnedPages n (selPages n c named)).length) 0) := by
  obtain ⟨hf, hop, hs, hq, hh⟩ := hr
  rw [unpin, withCmd_eq _ hf hop hs hq]
  dsimp only
  rw [withSel_acts hheld hh hsel hv hfor, if_neg hkind]
  rfl

/-- Every selected page has pin 0 once those pinned are unpinned. -/
theorem pageAt_unpinned {l : List Nat} {i : Nat} (hl : l.Nodup) (hi : i ∈ l) :
    pageAt (modPages n (pinnedPages n l) fun e => { e with pin := 0 }) i = (pageAt n i).map fun e => { e with pin := 0 } := by
  rw [pageAt_modPages _ (show (pinnedPages n l).Nodup from hl.filter _)]
  split
  · rfl
  · rename_i hout
    cases hp : pageAt n i with
    | none => rfl
    | some e =>
      have hpin : e.pin = 0 := by simpa [pinnedPages, hi, hp] using hout
      rw [Option.map_some, ← hpin]

/-! ## PLACE_HINT (R214) -/

/-- Named pages take the hint, and nothing else of the node changes before the completion. -/
theorem placeHint_pages (hr : Runs n h opPlaceHint c) (hheld : seqHeld n c = false) (hsel : selOffs n c = []) (hblo : -8 ≤ signed 8 (c.f 44 1)) (hbhi : signed 8 (c.f 44 1) ≤ 7)
    (hlo : 1 ≤ c.f 45 1) (hhi : c.f 45 1 ≤ 3) (hv : rsv c 46 63 = []) (hfor : selForeign n c = false) (hkind : selKind c = 0) :
    ∃ a, a ≤ (selPages n c named).length ∧ placeHint h.toNat named t n
      = complete t (modPages n (selPages n c named) fun e => { e with bias := signed 8 (c.f 44 1), lowest := c.f 45 1 }) h.toNat stOk
          (placeResult a ((selPages n c named).length - a) 0) := by
  obtain ⟨hf, hop, hs, hq, hh⟩ := hr
  have hbias : (decide (signed 8 (c.f 44 1) < -8) || decide (7 < signed 8 (c.f 44 1))) = false := by
    simp only [Bool.or_eq_false_iff, decide_eq_false_iff_not]; omega
  have hlowest : (c.f 45 1 == 0 || decide (3 < c.f 45 1)) = false := by simp only [Bool.or_eq_false_iff, beq_eq_false_iff_ne, decide_eq_false_iff_not]; omega
  rw [placeHint, withCmd_eq _ hf hop hs hq]
  dsimp only
  rw [withSel_acts hheld hh hsel (by rw [offIf_false hbias, offIf_false hlowest, hv]; rfl) hfor, if_neg (by omega), if_neg (by simp [hkind])]
  exact ⟨_, List.length_filter_le _ _, rfl⟩

/-! ## MIGRATE_TIMEOUT (R211, R212) -/

theorem migrateTimeout_moves {h : Nat} {j : MigJob} (hf : findCmd n h = some c) (ht : ticksPassed t c 1024 = true) (hj : n.ter.jobs.find? (fun x => x.handle == h) = some j) :
    migrateTimeout h t n = complete t (dropMovesOf { n with ter := { n.ter with jobs := n.ter.jobs.filter (·.handle != h) } } h) h stDeadline
      (placeResult j.acted j.already j.skipped) := by
  simp only [migrateTimeout, hf, ht, Bool.not_true, Bool.false_eq_true, if_false, hj]

theorem migrateTimeout_waits {h : Nat} (hf : findCmd n h = some c) (ht : ticksPassed t c 1024 = true) (hj : n.ter.jobs.find? (fun x => x.handle == h) = none)
    (hw : pinWaits c = true) : migrateTimeout h t n = complete t n h stDeadline (placeResult 0 0 0) := by
  simp only [migrateTimeout, hf, ht, Bool.not_true, Bool.false_eq_true, if_false, hj, hw, if_true]

/-- Settles O31: each command acts on its selection through the pages' entries and the queue, and a late one gives its requests up. -/
theorem placementCommandsActOnTheirSelection : Obligations.PlacementCommandsActOnTheirSelection := by
  intro s h c named hf hjobs hheld
  have hh : c.handle = h.toNat := findCmd_handle hf
  refine ⟨fun pch p a k hr hsel hlo hhi hv45 hp hv48 hfor href hkind hpch hsort => ⟨fun i hi hc => ?motion, fun hne => ?moves, fun hnil => ?stays⟩,
    fun hr hsel hlo hhi hv hfor hkind hover hhigh => ?pin, fun hr hsel hv hfor hkind => ?unpin,
    fun hr hsel hblo hbhi hlo hhi hv hfor hkind => ?hint, fun ht => ⟨fun j hj => ?late, fun hj hop hst hkind hlevel => ?room⟩⟩
  case motion =>
    have hmem := mem_sortPages_of_inCopy (dest := c.f 44 1) (pch := pch) hi hc
    rwa [hsort] at hmem
  case moves =>
    have e := migrate_pages (t := s.tck) (named := named) hr hheld hsel hlo hhi hv45 hp hv48 hfor href hkind
    rw [show namedPch c = pch from hpch.symm, hsort] at e
    exact ⟨_, exec_migrate e, startMoves_pages hf hjobs hne rfl⟩
  case stays =>
    have e := migrate_pages (t := s.tck) (named := named) hr hheld hsel hlo hhi hv45 hp hv48 hfor href hkind
    rw [show namedPch c = pch from hpch.symm, hsort, hnil] at e
    obtain ⟨m, em, hkept⟩ := startMoves_nothing hf hjobs
    exact ⟨m, exec_migrate (e.trans em), hkept⟩
  case pin =>
    obtain ⟨m, a, k, e, hcount, hmoves, hpages⟩ := pinPages_high (t := s.tck) hf hjobs hover hhigh
    refine ⟨m, a, k, exec_pin ((pin_pages hr hheld hsel hlo hhi hv hfor hkind).trans e), hcount, hmoves, fun i => ?_⟩
    rw [pageAt, hpages]
    exact pageAt_modPages _ (nodup_selPages _ _ _) _ _
  case unpin =>
    exact ⟨_, _, exec_unpin (unpin_pages hr hheld hsel hv hfor hkind), modPages_moves _ _ _, rfl, fun i hi => pageAt_unpinned (nodup_selPages _ _ _) hi⟩
  case hint =>
    obtain ⟨a, ha, e⟩ := placeHint_pages (t := s.tck) (named := named) hr hheld hsel hblo hbhi hlo hhi hv hfor hkind
    exact ⟨_, _, _, exec_placeHint e, Nat.add_sub_of_le ha, modPages_moves _ _ _, fun i hi => by rw [pageAt_modPages _ (nodup_selPages _ _ _), if_pos hi]⟩
  case late => exact ⟨_, exec_migrateTimeout (migrateTimeout_moves hf ht hj), dropMovesOf_pages _ _, fun r hr => dropMovesOf_handle hr⟩
  case room => exact exec_migrateTimeout (migrateTimeout_waits hf ht hj (by simp [pinWaits, hop, hst, hkind, hlevel]))

end Sys2Proof.Machine
end

section
/-! Moves, heat, the cache's cleaner, the direct partition and allocations that waited (R198 to R206). -/

namespace Sys2Proof.Machine

variable {t : Tck} {n m : Node} {s : State}

theorem exec_move (what : MoveWhat) (errs : List (Nat × List Nat)) (bad : Bool) (s : State) : exec (.move what errs bad) s = .next (s.withNode (moveStep what errs bad s.tck s.node)) := rfl
theorem exec_demotion (e : demotion s.tck s.node = m) : exec .demotion s = .next (s.withNode m) := onNode_eq e
theorem exec_promotion {i : Nat} (e : promotion i s.tck s.node = m) : exec (.promotion i) s = .next (s.withNode m) := onNode_eq e
theorem exec_dirtyCleaner (e : dirtyCleaner s.node = m) : exec .dirtyCleaner s = .next (s.withNode m) := onNode_eq (f := fun _ => dirtyCleaner) e
theorem exec_terT2PartWrite {v : Word} (hw : Writable s.node) (e : t2PartWrite v.toNat s.tck s.node = m) : exec (.terT2PartWrite v) s = .next (s.withNode m) :=
  onNode_eq ((if_neg (by rw [hw]; decide)).trans e)
theorem exec_allocation {h : Word} {peer : PeerAns} {grants : List Nat} (e : allocation h.toNat peer grants s.tck s.node = m) :
    exec (.allocation h peer grants) s = .next (s.withNode m) := onNode_eq e

/-! ## MOVE (R201) -/

/-- The bytes of a source freed later stay where they are: only its cached sectors go. -/
theorem freeSource_keeps {β : Type} {g : Node → β} (b : CacheBlind g) (hf : ∀ (n : Node) l, g { n with ter := { n.ter with freed := l } } = g n) (t : Tck) (n : Node) (e : PageEnt) :
    g (freeSource t n e) = g n := by
  unfold freeSource
  extract_lets n1
  refine (hf n1 _).trans ?_
  show g (if _ then _ else _) = _
  split
  · rfl
  · exact b.cacheDrops n _

@[simp] theorem notePoison_ter (t : Tck) (n : Node) (idx : Nat) (l : List (Nat × Nat)) : (notePoison t n idx l).ter = n.ter := by
  unfold notePoison; split <;> simp

@[simp] theorem notePoison_t1 (t : Tck) (n : Node) (idx : Nat) (l : List (Nat × Nat)) : (notePoison t n idx l).t1 = n.t1 := by
  unfold notePoison; split <;> simp

section

variable (t : Tck) (n : Node) (i a : Nat) (e : PageEnt)

/-- A page copied up: its entry names the new place, its bytes stand there, and the queue is as it was. -/
theorem moveUp_spec : (moveUp t n i a e).ter.pages = mmod n.ter.pages i (fun x => { x with terrace := 1, addr := a })
    ∧ (moveUp t n i a e).t1 = Mem.write 0 n.t1 a (pageRead n e 0 e.foot) ∧ (moveUp t n i a e).ter.moves = n.ter.moves := by
  have hpages := freeSource_keeps CacheBlind.pages (fun _ _ => rfl) t n e
  have ht1 := freeSource_keeps CacheBlind.t1 (fun _ _ => rfl) t n e
  have hmoves := freeSource_keeps CacheBlind.moves (fun _ _ => rfl) t n e
  unfold moveUp
  extract_lets bad data n1 mic n2 n3
  have hn3 : n3.ter = n1.ter ∧ n3.t1 = Mem.write 0 n1.t1 a data := by
    simp only [n3]
    split <;> exact ⟨rfl, rfl⟩
  rw [notePoison_ter, notePoison_t1, modPage, hn3.1, hn3.2, show n1.ter.pages = n.ter.pages from hpages, show n1.t1 = n.t1 from ht1]
  exact ⟨rfl, rfl, hmoves⟩

theorem pageRead_length (off len : Nat) : (pageRead n e off len).length = len := by
  unfold pageRead
  split <;> exact Mem.read_length _ _ _ _

end

/-- Where a page goes does not depend on what is being copied. -/
theorem placeRun_busy (n : Node) (b : List MoveReq) (comp len : Nat) (named prev : Option Nat) :
    placeRun { n with ter := { n.ter with busy := b } } comp len named prev = placeRun n comp len named prev := by
  have htakes : pchTakes { n with ter := { n.ter with busy := b } } = pchTakes n := rfl
  have hrun : freeRun { n with ter := { n.ter with busy := b } } = freeRun n := rfl
  have hfree : freeFrames { n with ter := { n.ter with busy := b } } = freeFrames n := rfl
  simp only [placeRun, htakes, hrun, hfree]

/-- The node once a page's move is done: its wait for a block of the cache is forgotten (R198). -/
def waitForgotten (n : Node) (i : Nat) : Node := { n with ter := { n.ter with fullTold := n.ter.fullTold.filter (· != i) } }

/-- A heat promotion with a free run is carried out (R200, R201, R206). -/
theorem pageMove_promotes {r : MoveReq} {i a : Nat} {e : PageEnt} (hdest : r.dest = 1) (hh : r.handle = none) (hpch : r.pch = none) (hp : pageAt n i = some e)
    (ht : e.terrace = 3) (hset : settling t n e = false) (hlow : staysAboveLow n e.foot = true) (hrun : placeRun n e.comp e.foot none (pagePrev n e) = some a) :
    pageMove t n r i = dropMove (waitForgotten (moveUp t (touchSectors n e.addr e.foot) i a e) i) r := by
  have hwant : wantsMove n e r.dest r.pch = true := by simp [wantsMove, hdest, ht]
  have hmay : moveAllowed n i e r.dest = true := by simp [moveAllowed, hdest, ht]
  have hdone : movePage t n r i e = (moveUp t (touchSectors n e.addr e.foot) i a e, true) := by simp [movePage, hdest, ht, hlow, upPlace, hpch, hrun]
  simp only [pageMove, hp, hwant, hset, hmay, hdone, ht, Bool.not_true, Bool.and_false, Bool.false_eq_true, if_false, if_true, jobPage, hh]
  rfl

/-- `MOVE` of a heat promotion: the page's entry names the run, its bytes are those it had, and the request is gone (R201, R206). -/
theorem moveStep_promotes {r : MoveReq} {i a : Nat} {e : PageEnt} (hfind : (copying n).find? (fun x => x.what == .page i) = some r) (hdest : r.dest = 1)
    (hh : r.handle = none) (hpch : r.pch = none) (hp : pageAt n i = some e) (ht : e.terrace = 3) (hset : settling t n e = false) (hlow : staysAboveLow n e.foot = true)
    (hrun : placeRun n e.comp e.foot none (pagePrev n e) = some a) (hwf : Memory.wf 0 n.t1 = true) (hm : m = moveStep (.page i) [] false t n) :
    pageAt m i = some { e with terrace := 1, addr := a } ∧ pageRead m { e with terrace := 1, addr := a } 0 e.foot = pageRead n e 0 e.foot ∧ m.ter.moves = n.ter.moves.erase r := by
  obtain ⟨b, hb⟩ := startMovers_shape 8 n
  have hmove : moveStep (.page i) [] false t n = pageMove t { n with ter := { n.ter with busy := b } } r i := by
    rw [copying, hb] at hfind
    simp only [moveStep, hb, hfind, show pageAt { n with ter := { n.ter with busy := b } } i = some e from hp, ht, show (3 = 1) = False from by decide, if_false]
    rfl
  have hdone := hmove.trans (pageMove_promotes (n := { n with ter := { n.ter with busy := b } }) hdest hh hpch hp ht hset hlow ((placeRun_busy n b _ _ _ _).trans hrun))
  obtain ⟨b', hb'⟩ := dropMove_shape (waitForgotten (moveUp t (touchSectors { n with ter := { n.ter with busy := b } } e.addr e.foot) i a e) i) r
  obtain ⟨hpages, ht1, hmoves⟩ := moveUp_spec t (touchSectors { n with ter := { n.ter with busy := b } } e.addr e.foot) i a e
  rw [hdone, hb'] at hm
  subst hm
  refine ⟨(congrArg (mget? · i) hpages).trans ?_, ?_, congrArg (·.erase r) hmoves⟩
  · rw [mget?_mmod, if_pos rfl]
    exact congrArg (Option.map _) hp
  · have hread := Mem.read_write 0 (pageRead n e 0 e.foot) n.t1 a hwf
    rw [pageRead_length] at hread
    rw [pageRead, if_pos rfl]
    exact (congrArg (Mem.read 0 · a e.foot) ht1).trans hread

/-! ## Heat (R205, R206) -/

theorem leastBy_mem {α : Type} {f : α → Nat} {l : List α} {x : α} (h : leastBy f l = some x) : x ∈ l := by
  induction l generalizing x with
  | nil => cases h
  | cons a l ih =>
    unfold leastBy at h
    split at h
    · cases h; exact List.mem_cons_self
    · rename_i y hy
      split at h
      · cases h; exact List.mem_cons_self
      · cases h; exact List.mem_cons_of_mem _ (ih hy)

/-- Demotions are picked from the pages given. -/
theorem mem_pickDemotions {fuel free i : Nat} {l : List (Nat × PageEnt)} (hi : i ∈ pickDemotions t n fuel free l) : ∃ e, (i, e) ∈ l := by
  induction fuel generalizing free l with
  | zero => cases hi
  | succ fuel ih =>
    unfold pickDemotions at hi
    split at hi
    · cases hi
    · split at hi
      · cases hi
      · rename_i e he
        rcases List.mem_cons.mp hi with rfl | hi
        · exact ⟨e.2, leastBy_mem he⟩
        · obtain ⟨e', he'⟩ := ih hi
          exact ⟨e', (List.mem_filter.mp he').1⟩

theorem mem_demotable {i : Nat} {e : PageEnt} (h : (i, e) ∈ demotable t n) :
    (i, e) ∈ n.ter.pages ∧ e.terrace = 1 ∧ 2 ≤ e.lowest ∧ mayDemote n i e = true ∧ settling t n e = false ∧ inMotion n i = false := by
  simpa [demotable, and_assoc] using h

/-- Heat is demoting: below HIGH once it has been below LOW, or below LOW (R206). -/
def demotes (n : Node) : Bool := (n.ter.demoting && 100 * t1Free n < rd n Rg.terWmHigh * t1Total n) || 100 * t1Free n < rd n Rg.terWmLow * t1Total n

theorem demotion_queues (hen : rdB n Rg.terHeatCfgEn = true) (hgo : demotes n = true) :
    ∃ l : List Nat, demotion t n = queueMoves { n with ter := { n.ter with demoting := true } } (l.map fun i => ⟨3, .page i, 2, none, none⟩) ∧ ∀ i ∈ l, ∃ e, (i, e) ∈ demotable t n := by
  unfold demotion
  extract_lets going
  rw [if_neg (by simp [hen, show going = true from hgo])]
  exact ⟨_, rfl, fun i hi => mem_pickDemotions hi⟩

theorem demotion_rests (hgo : demotes n = false) : demotion t n = { n with ter := { n.ter with demoting := false } } := by
  unfold demotion
  extract_lets going
  rw [if_pos (by simp [show going = false from hgo]), show going = false from hgo, Bool.and_false]

theorem promotion_queues {i : Nat} {e : PageEnt} (hp : pageAt n i = some e) (hen : rdB n Rg.terHeatCfgEn = true) (ht : e.terrace ≠ 1) (hheat : rd n Rg.terHeatCfgPromote ≤ effHeat t n e)
    (hset : settling t n e = false) (hmo : inMotion n i = false) (hlow : staysAboveLow n e.foot = true) : promotion i t n = queueMoves n [⟨3, .page i, 1, none, none⟩] := by
  simp [promotion, hp, hen, ht, hheat, hset, hmo, hlow]

/-! ## The cache's cleaner (R198) -/

/-- Too large a share of the cache is dirty. -/
def tooDirty (n : Node) : Bool := overPct (dirtyBlocks n) (cacheBytes n / 65536) (rd n Rg.terT2CfgDirtyMax)

theorem dirtyCleaner_clean (hd : tooDirty n = false) : dirtyCleaner n = n := by
  unfold dirtyCleaner
  cases n.ter.cache.length with
  | zero => rfl
  | succ k => exact if_neg (by rw [← tooDirty, hd]; decide)

/-- The least recently used dirty block is written back first. -/
theorem dirtyCleaner_cleans {v : Nat × CacheBlk} (hd : tooDirty n = true) (hv : leastBy (fun e : Nat × CacheBlk => e.2.used) (n.ter.cache.filter fun e => e.2.dirty != 0) = some v) :
    ∃ k, dirtyCleaner n = cleanBlocks k { n with ter := { n.ter with cache := mset n.ter.cache v.1 { v.2 with dirty := 0 } } } := by
  obtain ⟨k, hk⟩ : ∃ k, n.ter.cache.length = k + 1 := Nat.exists_eq_add_one.mpr (List.length_pos_of_mem (List.mem_filter.mp (leastBy_mem hv)).1)
  refine ⟨k, ?_⟩
  rw [dirtyCleaner, hk, cleanBlocks, ← tooDirty, if_pos hd, hv]

/-! ## The direct partition (R199) -/

theorem t2PartWrite_ignored {v : Nat} (hx : (n.cxd.exts.any fun e => e.2.state != 0) = true) : t2PartWrite v t n = raise t n evTerWriteIgnored (leBytes 4 Rg.terT2PartDirect.off) := if_pos hx

theorem t2PartWrite_sets {v : Nat} (hx : (n.cxd.exts.any fun e => e.2.state != 0) = false) (hv : v < 2 ^ 14) (hcap : v * 0x10000000 ≤ t2Bytes n) (hm : m = t2PartWrite v t n) :
    m.ter.cache = [] ∧ rd m Rg.terT2PartDirect = v := by
  rw [t2PartWrite, if_neg (by rw [hx]; decide), Nat.mod_eq_of_lt hv, if_neg (by omega)] at hm
  subst hm
  refine ⟨rfl, (rd_of_bank _ (CacheBlind.bank.coarsenGone (wr n Rg.terT2PartDirect v) [])).trans ?_⟩
  rw [rd_wr_self _ _ _ (by decide), Nat.mod_eq_of_lt hv]

/-! ## Allocations that waited (R200) -/

section

variable {h : Nat} {c : Cmd} {peer : PeerAns} {grants : List Nat} (hw : n.ter.allocWait.contains h = true) (hf : findCmd n h = some c)
  (hj : n.seqs.copies.find? (fun j => j.handle == h) = none)

include hw hf hj

theorem allocation_append (hop : c.op = opAppendKv) : allocation h peer grants t n = appendKv h peer t n := by
  simp only [allocation, hw, Bool.not_true, Bool.false_eq_true, if_false, hf, hj, hop, if_true]

theorem allocation_fork (hop : c.op = opSeqFork) : allocation h peer grants t n = seqFork h peer t n := by
  simp only [allocation, hw, Bool.not_true, Bool.false_eq_true, if_false, hf, hj, hop, show ¬ opSeqFork = opAppendKv by decide, if_true]

end

/-- Settles O32: a promotion carried out, what heat queues, and the cache's cleaner, partition and waiting allocations in turn. -/
theorem moversHeatAndTheCacheFollowTheirRules : Obligations.MoversHeatAndTheCacheFollowTheirRules := by
  intro s
  refine ⟨fun i r e a hfind hcls hdest hh hpch hp ht hset hlow hrun hwf => ?move, fun hen hgo => ?demote, fun hfree => ⟨fun hidle => ?idle, fun hhigh => ?rest⟩,
    fun i e hp hen ht hheat hset hmo hlow => ?promote, fun hd => exec_dirtyCleaner (dirtyCleaner_clean hd), fun v hd hv => ?clean, fun v hw hx hv hcap => ?part,
    fun v hw hx => exec_terT2PartWrite hw (t2PartWrite_ignored hx), fun h c peer g hw hf hj => ⟨fun hop => ?append, fun hop => ?fork⟩⟩
  case move => exact ⟨_, exec_move _ _ _ s, moveStep_promotes hfind hdest hh hpch hp ht hset hlow hrun hwf rfl⟩
  case demote =>
    obtain ⟨l, e, hl⟩ := demotion_queues (t := s.tck) hen (by simpa [demotes] using hgo)
    refine ⟨l, exec_demotion e, fun i hi => ?_⟩
    obtain ⟨e, he⟩ := hl i hi
    exact ⟨e, mem_demotable he⟩
  case idle =>
    have hgo : demotes s.node = false := by simp [demotes, hidle, hfree]
    exact exec_demotion (m := s.node) ((demotion_rests hgo).trans (by rw [← hidle]))
  case rest =>
    have hgo : demotes s.node = false := by simp [demotes, hfree, hhigh]
    exact exec_demotion (demotion_rests hgo)
  case promote => exact exec_promotion (promotion_queues hp hen ht hheat hset hmo hlow)
  case clean =>
    obtain ⟨k, e⟩ := dirtyCleaner_cleans hd hv
    exact ⟨_, k, exec_dirtyCleaner e, rfl⟩
  case part => exact ⟨_, exec_terT2PartWrite hw rfl, t2PartWrite_sets hx hv hcap rfl⟩
  case append => exact exec_allocation (allocation_append hw hf hj hop)
  case fork => exact exec_allocation (allocation_fork hw hf hj hop)

end Sys2Proof.Machine
end

section
/-! Weight sets loaded, streamed ahead, asked for and evicted: `WEIGHTS_STREAM`, `WEIGHTS_EVICT` and the window (R218, R245 to R249). -/

namespace Sys2Proof.Machine

variable {t : Tck} {n m : Node} {s : State} {h : Word} {c : Cmd}

theorem exec_weightsStreamLoad (e : streamLoad h.toNat s.tck s.node = m) : exec (.weightsStreamLoad h) s = .next (s.withNode m) := onNode_eq e
theorem exec_weightsStreamPrefetch (e : streamPrefetch h.toNat s.tck s.node = m) : exec (.weightsStreamPrefetch h) s = .next (s.withNode m) := onNode_eq e
theorem exec_windowStreamRequest (e : windowRequest h.toNat s.node = m) : exec (.windowStreamRequest h) s = .next (s.withNode m) :=
  onNode_eq (f := fun _ => windowRequest h.toNat) e
theorem exec_weightsEvict (e : weightsEvict h.toNat s.tck s.node = m) : exec (.weightsEvict h) s = .next (s.withNode m) := onNode_eq e
theorem exec_prefetchTimeout (e : prefetchTimeout h.toNat s.tck s.node = m) : exec (.prefetchTimeout h) s = .next (s.withNode m) := onNode_eq e

/-! ## The window (R218) -/

/-- A view of the node that the weight sets themselves, the runs they hold and the bytes there are no part of. -/
structure WindowBlind {β : Type} (g : Node → β) : Prop where
  holds : ∀ (n : Node) l, g { n with ter := { n.ter with holds := l } } = g n
  space : ∀ (n : Node) x p, g { n with t1 := x, mic := { n.mic with poison := p } } = g n
  sets : ∀ (n : Node) x u, g { n with wts := { n.wts with sets := x, useSeq := u } } = g n

theorem WindowBlind.findCmd (h : Nat) : WindowBlind (findCmd · h) := ⟨fun _ _ => rfl, fun _ _ _ => rfl, fun _ _ _ => rfl⟩
theorem WindowBlind.jobs : WindowBlind (·.wts.jobs) := ⟨fun _ _ => rfl, fun _ _ _ => rfl, fun _ _ _ => rfl⟩
theorem WindowBlind.uses : WindowBlind (·.wts.uses) := ⟨fun _ _ => rfl, fun _ _ _ => rfl, fun _ _ _ => rfl⟩

/-- Runs taken for a new object change the bytes there and their poison alone. -/
theorem clearRuns_shape (n : Node) (l : List (Nat × Nat)) : ∃ x p, clearRuns n l = { n with t1 := x, mic := { n.mic with poison := p } } := by
  unfold clearRuns
  induction l generalizing n with
  | nil => exact ⟨n.t1, n.mic.poison, rfl⟩
  | cons r l ih =>
    obtain ⟨x, p, e⟩ := ih _
    exact ⟨x, p, e⟩

section

variable {β : Type} {g : Node → β} (b : WindowBlind g)

include b

theorem WindowBlind.modSet (n : Node) (k : Nat) (f : WSet → WSet) : g (modSet n k f) = g n := b.sets n _ n.wts.useSeq

theorem WindowBlind.dropUnpinned (n : Node) (k : Nat) (w : WSet) : g (dropUnpinned n k w) = g n :=
  (b.modSet _ k _).trans (foldl_keeps g (fun m (_ : WPin) => b.holds m _) _ n)

/-- A slot cleared for a layer, and the next place in use order taken. -/
theorem WindowBlind.cleared (n : Node) (l : List (Nat × Nat)) (u : Nat) : g { clearRuns n l with wts := { n.wts with useSeq := u } } = g n := by
  obtain ⟨x, p, e⟩ := clearRuns_shape n l
  rw [e]
  exact (b.space { n with wts := { n.wts with useSeq := u } } x p).trans (b.sets n n.wts.sets u)

/-- A wanted layer given a slot, or left to wait. -/
theorem WindowBlind.serveLayer (k : Nat) (n : Node) (l : Nat) : g (serveLayer k n l) = g n := by
  unfold Machine.serveLayer
  split
  · rfl
  · split
    · exact b.modSet n k _
    · split
      · rfl
      · rename_i w _ _ _ v _
        have hn1 : g (if v.layer.isSome then Machine.dropUnpinned n k w else n) = g n := by
          split
          · exact b.dropUnpinned n k w
          · rfl
        exact (b.modSet _ k _).trans ((b.modSet _ k _).trans ((b.cleared _ v.runs _).trans hn1))

theorem WindowBlind.wantLayers (n : Node) (k : Nat) (ls : List Nat) : g (wantLayers n k ls) = g n := by
  unfold Machine.wantLayers serveSet
  split
  · exact b.modSet n k _
  · exact (foldl_keeps g (b.serveLayer k) _ _).trans (b.modSet n k _)

end

/-- An `ATTEND_BLOCK` accepted for a layer of a usable set asks for that layer and those after it, as many as there are slots (R218). -/
theorem windowRequest_asks {w : WSet} {h : Nat} (hf : findCmd n h = some c) (hop : c.op = opAttendBlock) (hset : setFor n c (c.f 48 4) = some w) (hu : usable n w = true)
    (hl : c.f 32 2 < imgLayers w.image) (hnew : (n.wts.uses.any fun u => u.1 == h) = false) :
    windowRequest h n = wantLayers { n with wts := { n.wts with uses := (n.wts.uses.filter fun u => (findCmd n u.1).isSome) ++ [(h, c.f 48 4, c.f 32 2)] } } (c.f 48 4)
      (layerSpan w (c.f 32 2) w.slots.length) := by
  have hh := findCmd_handle hf
  simp only [windowRequest, hf, hop, beq_self_eq_true, if_true, requestWindow, hset, hu, Nat.not_le.mpr hl, hh, hnew, Bool.not_true, decide_false, Bool.or_self, Bool.false_eq_true, if_false]

/-! ## LOAD (R245) -/

/-- A checked set is entered under its number, at its sectors. -/
theorem enterSet_enters (n : Node) (k a : Nat) (v : WSet) : ∃ l, mget? (enterSet n k a v).wts.sets k = some { withSecs n k v with addr := a, slots := l } := by
  unfold enterSet
  extract_lets w x base wts n1
  refine ⟨x.2, ?_⟩
  rw [foldl_keeps (·.wts) (CacheBlind.wts.cacheSector wr_wts true) (sectors a w.len) n1]
  exact mget?_mset_self _ _ _

/-- An image that breaks no check becomes a set (R245). -/
theorem weightsLoad_loads {img : Bytes} {a : Nat} {w : WSet} (hk : c.f 24 4 ≠ 0) (hnew : mhas n.wts.sets (c.f 24 4) = false) (hroom : n.wts.sets.length < 64) (hform : c.f 29 1 ≤ 1)
    (hat : mult (c.f 36 8) 4096 = true) (himg : img = hostRead n c.mem (c.f 36 8) (imgLen (hostRead n c.mem (c.f 36 8) 128)))
    (hw : w = ⟨c.f 29 1, c.f 32 4, img, [], !imgEncrypted (hostRead n c.mem (c.f 36 8) 128), [], 0, c.f 44 8, List.range (imgLayers (hostRead n c.mem (c.f 36 8) 128)), [], [], [], [], [], [], [],
      [], []⟩)
    (hbase : baseBad n c w = false) (hclear : clearPartFaults img = []) (hhid : imgEncrypted img = false → hiddenFaults n (c.f 24 4) w = []) (hlen : c.f 44 8 = imgLen img)
    (halloc : t3Alloc n (c.f 44 8) = some a)
    (hcap : overPct (pinned2 n + (pinnedSecs (withSecs n (c.f 24 4) w)).length) (cacheBytes n / 4096) (rd n Rg.terPinCfgT2Pct) = false) :
    weightsLoad t n c = complete t (enterSet n (c.f 24 4) a { w with digest := sha384 img }) c.handle stOk ((sha384 img).take 16) := by
  have hhidden : (if imgEncrypted img then none else firstOff (hiddenFaults n (c.f 24 4) w)) = none := by
    split
    · rfl
    · rename_i he
      rw [hhid (by simpa using he)]
      rfl
  have hslot : ¬ (decide (c.f 24 4 = 0) || mhas n.wts.sets (c.f 24 4) || decide (64 ≤ n.wts.sets.length)) = true := by simp [hk, hnew, hroom]
  unfold weightsLoad
  extract_lets k len head img' w' d
  have himg' : img' = img := himg.symm
  have hw' : w' = w := by rw [hw, himg]
  have hd : d = sha384 img := congrArg sha384 himg'
  rw [hw', himg', if_neg hslot, if_neg (by omega), if_neg (by simp [hbase]), if_neg (by simp [hat]), hclear]
  simp only [k, show firstOff [] = none from rfl, hhidden, show len = imgLen img from hlen, bne_self_eq_false, Bool.false_eq_true, if_false]
  rw [← hlen, halloc]
  simp only [hcap, hd, Bool.false_eq_true, if_false]

theorem streamLoad_loads {x : Node} (hr : Runs n h opWeightsStream c) (hload : c.f 28 1 = 0) (hev : evictAhead n c (c.f 24 4) = false) (hv30 : rsv c 30 31 = []) (hv52 : rsv c 52 63 = [])
    (hx : weightsLoad t n c = x) : streamLoad h.toNat t n = x := by
  obtain ⟨hf, hop, hs, hq, hh⟩ := hr
  rw [streamLoad, withCmd_eq _ hf hop hs hq]
  rw [if_neg (by simp [hload, hev]), checked_ok _ hh (by rw [hv30, hv52, offIf_false (by simp [hload])]; rfl), hx]

/-! ## PREFETCH (R246) -/

/-- Prefetches that wait for a layer go on waiting. -/
theorem endPrefetches_waiting (hj : ∀ j ∈ n.wts.jobs, j.left ≠ []) : endPrefetches t n = n := by
  rw [endPrefetches, List.filter_eq_nil_iff.mpr fun j hm => by simpa using hj j hm]
  rfl

/-- A prefetch that waits for none completes with its counts. -/
theorem endPrefetches_last {old : List WJob} {j : WJob} (hn : n.wts.jobs = old ++ [j]) (hold : ∀ j ∈ old, j.left ≠ []) (hl : j.left = []) :
    ∃ m, endPrefetches t n = complete t m j.handle stOk (leBytes 4 j.coded ++ leBytes 4 j.crc ++ leBytes 4 j.raw) := by
  have hdone : n.wts.jobs.filter (·.left.isEmpty) = [j] := by
    rw [hn, List.filter_append, List.filter_eq_nil_iff.mpr fun j hm => by simpa using hold j hm]
    simp [hl]
  rw [endPrefetches, hdone]
  exact ⟨_, rfl⟩

/-- The layers of a prefetch that are not whole in terrace 1. -/
def prefetchLeft (c : Cmd) (w : WSet) : List Nat := (layerSpan w (c.f 32 2) (c.f 34 2)).filter fun l => !layerWhole w l

/-- The node with a prefetch begun, its layers asked for. -/
def prefetching (n : Node) (h : Nat) (c : Cmd) (w : WSet) : Node :=
  wantLayers { setRunning n h with wts := { n.wts with jobs := n.wts.jobs ++ [⟨h, c.f 24 4, prefetchLeft c w, 0, 0, 0⟩] } } (c.f 24 4) (layerSpan w (c.f 32 2) (c.f 34 2))

theorem prefetching_jobs (n : Node) (h : Nat) (c : Cmd) (w : WSet) : (prefetching n h c w).wts.jobs = n.wts.jobs ++ [⟨h, c.f 24 4, prefetchLeft c w, 0, 0, 0⟩] :=
  WindowBlind.jobs.wantLayers _ _ _

theorem prefetching_running {h : Nat} {w : WSet} (hf : findCmd n h = some c) : findCmd (prefetching n h c w) h = some { c with stage := .running } :=
  ((WindowBlind.findCmd h).wantLayers _ _ _).trans (findCmd_setRunning hf)

theorem streamPrefetch_begins {w : WSet} (hr : Runs n h opWeightsStream c) (hpre : c.f 28 1 = 1) (hv29 : rsv c 29 29 = []) (hv30 : rsv c 30 31 = []) (hv36 : rsv c 36 43 = [])
    (hv44 : rsv c 44 51 = []) (hv52 : rsv c 52 63 = []) (hset : setFor n c (c.f 24 4) = some w) (hfirst : c.f 32 2 < imgLayers w.image) (hlo : 1 ≤ c.f 34 2)
    (hhi : c.f 34 2 ≤ rd n Rg.terWinCfgW) (hu : usable n w = true) (hdef : (layerSpan w (c.f 32 2) (c.f 34 2)).any (layerDefective n w) = false) :
    streamPrefetch h.toNat t n = endPrefetches t (prefetching n h.toNat c w) := by
  obtain ⟨hf, hop, hs, hq, hh⟩ := hr
  have hhandle := findCmd_handle hf
  have hpre' : ¬ (c.f 28 1 != 1) = true := by simp [hpre]
  have hcount : ¬ (decide (c.f 34 2 = 0) || decide (rd n Rg.terWinCfgW < c.f 34 2)) = true := by simp; omega
  rw [streamPrefetch, withCmd_eq _ hf hop hs hq]
  rw [if_neg hpre', checked_ok _ hh (by rw [hv29, hv30, hv36, hv44, hv52]; rfl)]
  unfold weightsPrefetch
  simp only [hset, Nat.not_le.mpr hfirst, if_false, if_neg hcount, hu, Bool.not_true, Bool.false_eq_true, hdef, hhandle]
  rfl

theorem prefetchTimeout_ends {h : Nat} {j : WJob} (hf : findCmd n h = some c) (hj : n.wts.jobs.find? (fun x => x.handle == h) = some j) (ht : ticksPassed t c 1024 = true) :
    prefetchTimeout h t n = complete t { n with wts := { n.wts with jobs := n.wts.jobs.filter fun x => x.handle != h } } h stDeadline [] := by
  simp only [prefetchTimeout, hf, hj, ht, if_true]

/-! ## WEIGHTS_EVICT (R249) -/

/-- Freeing what a set holds takes the set out. -/
theorem freeSet_sets {k : Nat} {w : WSet} (hw : mget? n.wts.sets k = some w) : (freeSet n k).wts.sets = mdel n.wts.sets k := by
  unfold freeSet
  simp only [hw]
  rw [CacheBlind.wts.cacheDrops, foldl_keeps (·.wts) (f := dropRuns) fun _ _ => rfl]

/-- An eviction waits, noted, for the commands before it, or frees the set at once. -/
theorem weightsEvict_acts {w : WSet} (hr : Runs n h opWeightsEvict c) (hv : rsv c 28 63 = []) (hw : mget? n.wts.sets (c.f 24 4) = some w) (hbase : isBase n (c.f 24 4) = false)
    (hfirst : ∀ d ∈ n.fe.cmds, d.op = opWeightsEvict → d.f 24 4 = c.f 24 4 → c.seq ≤ d.seq) :
    ((n.fe.cmds.any fun d => d.seq < c.seq && namesSet (c.f 24 4) d) = true → ∃ l, weightsEvict h.toNat t n = setRunning { n with wts := { n.wts with evicts := l } } h.toNat)
    ∧ ((n.fe.cmds.any fun d => d.seq < c.seq && namesSet (c.f 24 4) d) = false → ∃ m : Node, weightsEvict h.toNat t n = complete t m h.toNat stOk
        (leBytes 4 (((List.range (imgTensors w.image)).map fun x => (tensAt w.image x).blocks).foldl (· + ·) 0)) ∧ m.wts.sets = mdel n.wts.sets (c.f 24 4)) := by
  obtain ⟨hf, hop, hs, hq, hh⟩ := hr
  have hahead : (n.fe.cmds.any fun d => d.op == opWeightsEvict && d.f 24 4 == c.f 24 4 && d.seq < c.seq) = false := by
    simpa [and_imp] using fun d hd ho hk => hfirst d hd ho hk
  have hok : ¬ (!mhas n.wts.sets (c.f 24 4) || isBase n (c.f 24 4) || (n.fe.cmds.any fun d => d.op == opWeightsEvict && d.f 24 4 == c.f 24 4 && d.seq < c.seq)) = true := by
    simp [mhas, hw, hbase, hahead]
  unfold weightsEvict
  simp only [hf]
  rw [if_neg (by simp [hs]), withCmd_eq _ hf hop hs hq, checked_ok _ hh hv, if_neg hok]
  refine ⟨fun he => ⟨_, by rw [if_pos he]⟩, fun he => ?_⟩
  rw [if_neg (by rw [he]; decide)]
  simp only [setRunning_wts, hw]
  exact ⟨_, rfl, freeSet_sets hw⟩

/-- Settles O34: the commands on a weight set in turn, from its image to its eviction. -/
theorem weightSetsLoadPrefetchAndEvict : Obligations.WeightSetsLoadPrefetchAndEvict := by
  intro s h c hf
  have hh : c.handle = h.toNat := findCmd_handle hf
  refine ⟨fun img a w hr hload hev hv30 hv52 hk hnew hroom hform hat himg hw hbase hclear hhid hlen halloc hcap => ?load,
    fun w hr hpre hv29 hv30 hv36 hv44 hv52 hset hfirst hlo hhi hu hdef hjobs => ⟨fun hnil => ?whole, fun hne => ?part⟩,
    fun w hop hset hu hl hnew => ?window, fun w hr hv hw hbase hfirst => ?evict, fun j hj ht => exec_prefetchTimeout (prefetchTimeout_ends hf hj ht)⟩
  case load =>
    have e := weightsLoad_loads (t := s.tck) hk hnew hroom hform hat himg hw hbase hclear hhid hlen halloc hcap
    obtain ⟨l, hset⟩ := enterSet_enters s.node (c.f 24 4) a { w with digest := sha384 img }
    rw [hh] at e
    exact ⟨_, _, exec_weightsStreamLoad (streamLoad_loads hr hload hev hv30 hv52 e), hset, hw ▸ rfl, rfl, hw ▸ rfl, hw ▸ rfl, rfl, rfl⟩
  case whole =>
    obtain ⟨m, e⟩ := endPrefetches_last (t := s.tck) (prefetching_jobs s.node h.toNat c w) hjobs hnil
    exact ⟨m, exec_weightsStreamPrefetch ((streamPrefetch_begins hr hpre hv29 hv30 hv36 hv44 hv52 hset hfirst hlo hhi hu hdef).trans e)⟩
  case part =>
    have hwait : ∀ j ∈ (prefetching s.node h.toNat c w).wts.jobs, j.left ≠ [] := by
      rw [prefetching_jobs]
      exact fun j hj => (List.mem_append.mp hj).elim (hjobs j) fun hj => List.mem_singleton.mp hj ▸ hne
    exact ⟨_, exec_weightsStreamPrefetch ((streamPrefetch_begins hr hpre hv29 hv30 hv36 hv44 hv52 hset hfirst hlo hhi hu hdef).trans (endPrefetches_waiting hwait)), prefetching_running hf,
      prefetching_jobs _ _ _ _⟩
  case window => exact ⟨_, exec_windowStreamRequest (windowRequest_asks hf hop hset hu hl hnew), WindowBlind.uses.wantLayers _ _ _, rfl⟩
  case evict =>
    obtain ⟨hwaits, hfrees⟩ := weightsEvict_acts (t := s.tck) hr hv hw hbase hfirst
    refine ⟨fun he => ?_, fun he => ?_⟩
    · obtain ⟨l, e⟩ := hwaits he
      exact ⟨_, exec_weightsEvict e, rfl, findCmd_setRunning hf⟩
    · obtain ⟨m, e, hsets⟩ := hfrees he
      exact ⟨m, exec_weightsEvict e, hsets⟩

end Sys2Proof.Machine
end

section
/-! Blocks of weight layers: read by an expander or copied, checked, written to their place in the layer's slot, or failed (R219, R250 to R255). -/

namespace Sys2Proof.Machine

theorem LineBlind.wts : LineBlind (·.wts) := ⟨fun _ _ => rfl, fun _ _ => rfl, fun _ _ => rfl, fun _ _ => rfl, fun _ _ => rfl, fun _ _ _ _ => rfl⟩

variable {t : Tck} {n m : Node} {s : State}

theorem exec_expandBlock {ex : Fin 8} {k : Word} {l x j : Nat} {e : ExpandIn} (h : expandStep ex.val k.toNat l x j e s.tck s.node = m) :
    exec (.expandBlock ex k l x j e) s = .next (s.withNode m) := onNode_eq h
theorem exec_blockCrcRefetch {ex : Fin 8} {k : Word} {l x j : Nat} {bad badBase : Bool} (h : crcRefetch ex.val k.toNat l x j bad badBase s.tck s.node = m) :
    exec (.blockCrcRefetch ex k l x j bad badBase) s = .next (s.withNode m) := onNode_eq h

/-! ## Writes of a layer's space (R224, R236) -/

theorem t1Write_fst (t : Tck) (n : Node) (a : Nat) (x : Bytes) :
    (t1Write t n a x).1 = (lineParts (x.length / 64 + 2) a x).foldl (fun m p => (lineWrite t m p.1 p.2).1) n := by
  unfold t1Write
  generalize lineParts (x.length / 64 + 2) a x = l
  generalize (none : Option Nat) = k
  induction l generalizing n k with
  | nil => rfl
  | cons p l ih => exact ih _ _

theorem LineBlind.t1Write {β : Type} {g : Node → β} (b : LineBlind g) (t : Tck) (n : Node) (a : Nat) (x : Bytes) : g (t1Write t n a x).1 = g n := by
  rw [t1Write_fst]
  exact foldl_keeps g (fun m (p : Nat × Bytes) => b.lineWrite t m p.1 p.2) _ n

theorem LineBlind.runWrite {β : Type} {g : Node → β} (b : LineBlind g) (t : Tck) (rs : List (Nat × Nat)) (off : Nat) (x : Bytes) (n : Node) : g (runWrite t rs off x n) = g n := by
  induction rs generalizing off x n with
  | nil => rfl
  | cons r rs ih =>
    unfold Machine.runWrite
    split
    · exact ih _ _ _
    · dsimp only
      split
      · exact b.t1Write t n _ _
      · exact (ih _ _ _).trans (b.t1Write t n _ _)

/-- A block written to its place, expanded or as stored, touches terrace 1 and what guards it alone (R219). -/
theorem LineBlind.writeBlock {β : Type} {g : Node → β} (b : LineBlind g) (t : Tck) (n : Node) (k l : Nat) (w : WSet) (x j : Nat) (data : Bytes) :
    g (writeBlock t n k l w x j data) = g n := by
  unfold Machine.writeBlock
  dsimp only
  split
  · exact foldl_keeps g (fun m (p : Nat × Bytes) => b.runWrite t _ p.1 p.2 m) _ n
  · split
    · split
      · exact (b.runWrite t _ _ _ _).trans (b.runWrite t _ _ _ n)
      · exact b.runWrite t _ _ _ n
    · exact b.runWrite t _ _ _ n

/-- All that a write of terrace 1 looks at, and all that it changes but counts and events: the bytes, who owns the frames, and poison and retired channels. -/
abbrev lineView (n : Node) : Mem × Bsus × Mic := (n.t1, n.bsu, n.mic)

/-- Steps that a view determines, one after another. -/
theorem foldl_view {α β : Type} {v : Node → β} {f : Node → α → Node} (hf : ∀ a b x, v a = v b → v (f a x) = v (f b x)) (l : List α) {a b : Node} (h : v a = v b) :
    v (l.foldl f a) = v (l.foldl f b) := by
  induction l generalizing a b with
  | nil => exact h
  | cons x l ih => exact ih (hf a b x h)

theorem retiredAccess_lineView (t : Tck) (n : Node) (a : Nat) : lineView (retiredAccess t n a) = lineView n := by
  unfold retiredAccess
  split <;> rfl

theorem lineWrite_lineView (t : Tck) (a b : Node) (p : Nat × Bytes) (h : lineView a = lineView b) : lineView (lineWrite t a p.1 p.2).1 = lineView (lineWrite t b p.1 p.2).1 := by
  obtain ⟨ht, hb, hm⟩ : a.t1 = b.t1 ∧ a.bsu = b.bsu ∧ a.mic = b.mic := by simpa [lineView] using h
  simp only [lineWrite, bsuOwned, isScratch, hb, hm, ht]
  split
  · simp only [lineView]
  · split
    · rw [retiredAccess_lineView, retiredAccess_lineView, h]
    · split
      · simp only [lineView]
      · split
        · simp only [lineView]
        · simp only [lineView, bump_t1, bump_bsu, bump_mic, ht, hb, hm]

theorem t1Write_lineView (t : Tck) (y : Nat) (z : Bytes) {a b : Node} (h : lineView a = lineView b) : lineView (t1Write t a y z).1 = lineView (t1Write t b y z).1 := by
  rw [t1Write_fst, t1Write_fst]
  exact foldl_view (lineWrite_lineView t) _ h

theorem runWrite_lineView (t : Tck) (rs : List (Nat × Nat)) (off : Nat) (x : Bytes) {a b : Node} (h : lineView a = lineView b) :
    lineView (runWrite t rs off x a) = lineView (runWrite t rs off x b) := by
  induction rs generalizing off x a b with
  | nil => exact h
  | cons r rs ih =>
    have hw := t1Write_lineView t (r.1 + off) (x.take (r.2 - off)) h
    unfold runWrite
    split
    · exact ih _ _ h
    · dsimp only
      split
      · exact hw
      · exact ih _ _ hw

/-- What an expanded block leaves in terrace 1 does not depend on what its stored copies cost. -/
theorem writeBlock_t1 {l : Nat} {w : WSet} (t : Tck) (k x j : Nat) (data : Bytes) (hexp : expandedIn w l = true) {a b : Node} (h : lineView a = lineView b) :
    (writeBlock t a k l w x j data).t1 = (writeBlock t b k l w x j data).t1 := by
  simp only [writeBlock, hexp, if_true]
  exact congrArg (·.1) (foldl_view (v := lineView) (fun a b (p : Nat × Bytes) hv => runWrite_lineView t _ p.1 p.2 hv) _ h)

/-! ## A block in its slot (R218, R251) -/

/-- The weight sets and the bytes of terrace 1. -/
abbrev setsView (n : Node) : NMap WSet × Mem := (n.wts.sets, n.t1)

theorem endPrefetches_setsView (t : Tck) (n : Node) : setsView (endPrefetches t n) = setsView n :=
  foldl_keeps setsView (fun m (j : WJob) => by simp only [setsView, complete_wts, complete_t1]) _ n

theorem endMigs_setsView (t : Tck) (n : Node) : setsView (endMigs t n) = setsView n :=
  foldl_keeps setsView (fun m (j : MigJob) => by simp only [setsView, complete_wts, complete_t1]) _ n

/-- The set changed is the one found. -/
theorem mget?_modSet {k : Nat} {w : WSet} (f : WSet → WSet) (hw : mget? n.wts.sets k = some w) : mget? (modSet n k f).wts.sets k = some (f w) := by
  rw [modSet, mget?_mmod, if_pos rfl, hw, Option.map_some]

/-- A stream that ends leaves its layer where it is. -/
theorem layerDone_keeps {k : Nat} {w : WSet} (t : Tck) (l : Nat) (hw : mget? n.wts.sets k = some w) :
    (layerDone t n k l).t1 = n.t1 ∧ ∃ y, mget? (layerDone t n k l).wts.sets k = some y ∧ y.pins = w.pins ∧ y.slots = w.slots := by
  unfold layerDone
  simp only [hw]
  split
  · exact ⟨rfl, w, hw, rfl, rfl⟩
  · have hview (m : Node) : setsView (endMigs t (endPrefetches t m)) = setsView m := (endMigs_setsView t _).trans (endPrefetches_setsView t m)
    have hsets (m : Node) : (endMigs t (endPrefetches t m)).wts.sets = m.wts.sets := congrArg Prod.fst (hview m)
    have hend := mget?_modSet (fun x : WSet => { x with streams := x.streams.filter (·.layer != l) }) hw
    refine ⟨congrArg Prod.snd (hview _), { w with streams := w.streams.filter (·.layer != l) }, ?_, rfl, rfl⟩
    rw [hsets]
    exact hend

/-- A list with an element added once. -/
def addOnce (x : List Nat) (b : Nat) : List Nat := if x.contains b then x else x ++ [b]

theorem mem_addOnce (x : List Nat) (b : Nat) : b ∈ addOnce x b := by
  unfold addOnce
  split
  · rename_i h
    simpa using h
  · simp

/-- A set with a block of a layer's stream put in place. -/
def blockPut (w : WSet) (l b : Nat) (raw : Bool) : WSet :=
  { w with
    pins := lmodify w.pins (·.layer == l) fun p => { p with blocks := addOnce p.blocks b }
    slots := if w.pins.any (·.layer == l) then w.slots else lmodify w.slots (·.layer == some l) fun s => { s with blocks := addOnce s.blocks b }
    streams := lmodify w.streams (·.layer == l) fun s => { s with refetch := s.refetch.filter (· != b), coded := s.coded + b2n !raw, raw := s.raw + b2n raw } }

theorem blocksIn_blockPut {w : WSet} {l : Nat} {v : WSlot} (b : Nat) (raw : Bool) (hp : w.pins = []) (hv : w.slots.find? (fun y => y.layer == some l) = some v) :
    blocksIn (blockPut w l b raw) l = some (addOnce v.blocks b) := by
  have hslot := find?_lmodify (p := fun y : WSlot => y.layer == some l) (f := fun s => { s with blocks := addOnce s.blocks b }) (fun _ => rfl) w.slots
  simp only [hv, Option.map_some] at hslot
  simp only [blocksIn, blockPut, hp, lmodify, List.map_nil, List.find?_nil, List.any_nil, Bool.false_eq_true, if_false]
  exact congrArg (Option.map (·.blocks)) hslot

/-- A block put in its layer's slot is there, whatever its arrival completes, and terrace 1 is as it was. -/
theorem putBlock_puts {k l : Nat} {w : WSet} {v : WSlot} (t : Tck) (b : Nat) (raw : Bool) (hw : mget? n.wts.sets k = some w) (hp : w.pins = [])
    (hv : w.slots.find? (fun y => y.layer == some l) = some v) :
    (putBlock t n k l b raw).t1 = n.t1 ∧ ∃ y, mget? (putBlock t n k l b raw).wts.sets k = some y ∧ b ∈ (blocksIn y l).getD [] := by
  have hput : mget? (modSet n k fun w => blockPut w l b raw).wts.sets k = some (blockPut w l b raw) := mget?_modSet _ hw
  have hin := blocksIn_blockPut b raw hp hv
  unfold putBlock
  extract_lets add n1
  have hn : mget? n1.wts.sets k = some (blockPut w l b raw) := hput
  simp only [hn]
  split
  · obtain ⟨ht, y, hy, hpins, hslots⟩ := layerDone_keeps t l hn
    exact ⟨ht, y, hy, by rw [blocksIn, hpins, hslots, ← blocksIn, hin]; exact mem_addOnce _ _⟩
  · exact ⟨rfl, _, hn, by rw [hin]; exact mem_addOnce _ _⟩

/-! ## A block whose stored copies are good (R250, R252) -/

/-- The node once a coded block's stored copies have been read. -/
def inputTaken (n : Node) (ex k : Nat) (w : WSet) (x j : Nat) : Node :=
  countInput (touchSectors n (w.addr + (tensAt w.image x).area + field (idxEnt n k w x j) 0 4) (ixLen (idxEnt n k w x j))) ex (inputBytes n k w x j)

section

variable {ex k l b x j : Nat} {w : WSet} {v : WSlot} (hexp : expandedIn w l = true)

include hexp

/-- One that decodes is written to its place (R237, R250). -/
theorem goodBlock_coded {d : Bytes} (hraw : ixRaw (idxEnt n k w x j) = false) (hown : (ownBlock n k w x j).isSome = true) (hd : expandedBlock n k w x j = some d) :
    goodBlock t n ex k l b w x j
      = putBlock t (pmc (bump (writeBlock t (inputTaken n ex k w x j) k l w x j d) (Rg.expOutBlocks ex) 1) (40 + ex) 0x3001 1) k l b false := by
  obtain ⟨o, ho⟩ := Option.isSome_iff_exists.mp hown
  unfold goodBlock
  extract_lets N raw n1
  have hraw' : raw = false := hraw
  have ho' : ownBlock N k w x j = some o := ho
  have hd' : expandedBlock N k w x j = some d := hd
  simp only [hraw', hexp, Bool.not_true, Bool.or_self, Bool.false_eq_true, if_false, ho', hd']
  rfl

/-- One that does not is defective (R255). -/
theorem goodBlock_defective (hraw : ixRaw (idxEnt n k w x j) = false) (hown : ownBlock n k w x j = none) :
    goodBlock t n ex k l b w x j = defective t (inputTaken n ex k w x j) ex k x j := by
  unfold goodBlock
  extract_lets N raw n1
  have hraw' : raw = false := hraw
  have ho' : ownBlock N k w x j = none := hown
  simp only [hraw', hexp, Bool.not_true, Bool.or_self, Bool.false_eq_true, if_false, ho']
  rfl

end

/-- A raw block is written as it is stored, without an expander (R252). -/
theorem goodBlock_raw {ex k l b x j : Nat} {w : WSet} {v : WSlot} (hraw : ixRaw (idxEnt n k w x j) = true)
    (hw : mget? n.wts.sets k = some w) (hp : w.pins = []) (hv : w.slots.find? (fun y => y.layer == some l) = some v) :
    ∃ y, mget? (goodBlock t n ex k l b w x j).wts.sets k = some y ∧ b ∈ (blocksIn y l).getD [] := by
  unfold goodBlock
  extract_lets N raw
  have hraw' : raw = true := hraw
  simp only [hraw', Bool.true_or, if_true]
  refine (putBlock_puts t b true ?_ hp hv).2
  rw [LineBlind.wts.writeBlock]
  split
  · exact hw
  · exact hw

/-! ## The first reading of a block, and the second (R250, R254) -/

/-- A block of a layer that is streaming into its slot of a pages window. -/
structure StreamedBlock (n : Node) (k l x j b : Nat) (w : WSet) (st : WStream) (v : WSlot) : Prop where
  found : mget? n.wts.sets k = some w
  index : b = streamIdx w.image l x j
  named : (streamOf w.image l)[b]? = some (x, j)
  pages : w.form = 0
  noPins : w.pins = []
  usable : usable n w = true
  stream : w.streams.find? (fun y => y.layer == l) = some st
  slot : w.slots.find? (fun y => y.layer == some l) = some v

namespace StreamedBlock

variable {ex k l x j b : Nat} {w : WSet} {st : WStream} {v : WSlot} (hb : StreamedBlock n k l x j b w st v)

include hb

theorem expanded : expandedIn w l = true := by simp [expandedIn, hb.pages]

theorem blocksIn_eq : blocksIn w l = some v.blocks := by simp [blocksIn, hb.noPins, hb.slot]

theorem inStream : ¬ (streamOf w.image l).length ≤ b := by
  obtain ⟨hlt, -⟩ := List.getElem?_eq_some_iff.mp hb.named
  omega

theorem streamLayer : (st.layer == l) = true := List.find?_some (p := fun y : WStream => y.layer == l) hb.stream

theorem isStreaming : streaming w l = true := List.any_eq_true.mpr ⟨st, List.mem_of_find?_eq_some hb.stream, hb.streamLayer⟩

/-- The first reading: a stored copy that fails waits for its re-fetch, and good ones go on. -/
theorem expandStep_eq {e : ExpandIn} (t : Tck) (hout : n.mic.expOut.contains ex = false) (href : st.refetch.contains b = false) (hblk : v.blocks.contains b = false)
    (hex : expanderOf n b = some ex) (hraw : ixRaw (idxEnt n k w x j) = false) (hskew : e.skew = false) :
    expandStep ex k l x j e t n = (crcBad n k w x j e.bad e.badBase).elim (goodBlock t n ex k l b w x j) (fun set => crcMiss t n ex k l b set x j) := by
  simp only [expandStep, hb.found, ← hb.index, hb.inStream, hout, hb.expanded, hb.isStreaming, hex, hraw, blockRead, hb.named, hb.stream, href, hb.blocksIn_eq, Option.getD_some, hblk, hb.usable,
    hskew, decide_false, Bool.or_self, Bool.false_eq_true, if_false, if_true, Bool.not_false, Bool.not_true, Bool.and_self, beq_self_eq_true]
  cases crcBad n k w x j e.bad e.badBase <;> rfl

/-- The second: a copy that fails again ends what needs the layer. -/
theorem crcRefetch_eq {bad badBase : Bool} (t : Tck) (href : st.refetch.contains b = true) :
    crcRefetch ex k l x j bad badBase t n = (crcBad n k w x j bad badBase).elim (goodBlock t n ex k l b w x j) (fun _ => failLayer t (bump n (Rg.expErrCrcFail ex) 1) k l stExpandCrc) := by
  have hwaits : (w.streams.any fun s => s.layer == l && s.refetch.contains b) = true :=
    List.any_eq_true.mpr ⟨st, List.mem_of_find?_eq_some hb.stream, by rw [hb.streamLayer, href, Bool.and_self]⟩
  simp only [crcRefetch, hb.found, ← hb.index, hwaits, Bool.not_true, Bool.false_eq_true, if_false]
  cases crcBad n k w x j bad badBase <;> rfl

/-- A copy that fails is noted in the layer's stream, to be read again, and counted there. -/
theorem crcMiss_stream (t : Tck) (set : Nat) :
    ∃ y, mget? (crcMiss t n ex k l b set x j).wts.sets k = some y
      ∧ ∃ z, y.streams.find? (fun y => y.layer == l) = some z ∧ z.refetch = st.refetch ++ [b] ∧ z.crc = st.crc + 1 := by
  have hfind := find?_lmodify (p := fun y : WStream => y.layer == l) (f := fun s => { s with refetch := s.refetch ++ [b], crc := s.crc + 1 }) (fun _ => rfl) w.streams
  rw [hb.stream, Option.map_some] at hfind
  exact ⟨_, mget?_modSet _ hb.found, _, hfind, rfl, rfl⟩

end StreamedBlock

/-- A copy that fails is counted. -/
theorem rd_crcMiss (t : Tck) (n : Node) (ex k l b set x j : Nat) :
    rd (crcMiss t n ex k l b set x j) (Rg.expErrRefetch ex) = satTo (Rg.expErrRefetch ex).w (rd n (Rg.expErrRefetch ex) + 1) :=
  rd_bump_self n (Rg.expErrRefetch ex) 1 (Nat.le_of_ble_eq_true rfl)

/-- It is recorded. -/
theorem codes_crcMiss (t : Tck) (n : Node) (ex k l b set x j : Nat) :
    (crcMiss t n ex k l b set x j).svc.arrivals.map (·.code) = n.svc.arrivals.map (·.code) ++ [evExpandCrc] :=
  codes_raise t (bump n (Rg.expErrRefetch ex) 1) _ _

/-- The one command that needs a layer is completed when the layer fails. -/
theorem failLayer_needer {k l h status : Nat} (t : Tck) (hneed : needers n k l = [h]) : ∃ m : Node, failLayer t n k l status = complete t m h status [] := by
  rw [failLayer, hneed]
  exact ⟨_, rfl⟩

/-- A block that decodes is in its slot, with its bytes at their places. -/
theorem StreamedBlock.goodBlock_puts {ex k l x j b : Nat} {w : WSet} {st : WStream} {v : WSlot} {d : Bytes} (hb : StreamedBlock n k l x j b w st v) (t : Tck)
    (hraw : ixRaw (idxEnt n k w x j) = false) (hown : (ownBlock n k w x j).isSome = true) (hd : expandedBlock n k w x j = some d) :
    ∃ y, mget? (goodBlock t n ex k l b w x j).wts.sets k = some y ∧ b ∈ (blocksIn y l).getD [] ∧ (goodBlock t n ex k l b w x j).t1 = (writeBlock t n k l w x j d).t1 := by
  rw [goodBlock_coded hb.expanded hraw hown hd]
  have hwts : mget? (pmc (bump (writeBlock t (inputTaken n ex k w x j) k l w x j d) (Rg.expOutBlocks ex) 1) (40 + ex) 0x3001 1).wts.sets k = some w := by
    rw [pmc_wts, bump_wts, LineBlind.wts.writeBlock]
    exact hb.found
  obtain ⟨ht1, y, hy, hin⟩ := putBlock_puts t b false hwts hb.noPins hb.slot
  refine ⟨y, hy, hin, ?_⟩
  rw [ht1, pmc_t1, bump_t1]
  exact writeBlock_t1 t k x j d hb.expanded rfl

/-- Settles O35: EXPAND_BLOCK and BLOCK_CRC_REFETCH come down to what the stored copies give, and each outcome has its lemma. -/
theorem blocksReachTheirSlotOrFailTheirCommands : Obligations.BlocksReachTheirSlotOrFailTheirCommands := by
  unfold Obligations.BlocksReachTheirSlotOrFailTheirCommands
  intro s ex k w l x j b hw hidx hnamed hform hpins huse hout
  refine ⟨fun st v e hst href hv hblk hex hraw hskew => ?_, fun st v bad badBase hst href hv => ?_⟩
  · have hb : StreamedBlock s.node k.toNat l x j b w st v := ⟨hw, hidx, hnamed, hform, hpins, huse, hst, hv⟩
    have hstep := hb.expandStep_eq (e := e) s.tck hout href hblk hex hraw hskew
    refine ⟨fun d hgood hown hd => ?_, fun set hbad => ?_, fun hgood hown => ?_⟩
    · rw [hgood] at hstep
      obtain ⟨y, hy, hin, ht1⟩ := hb.goodBlock_puts (ex := ex.val) s.tck hraw hown hd
      exact ⟨_, y, exec_expandBlock hstep, hy, hin, ht1⟩
    · rw [hbad] at hstep
      obtain ⟨y, hy, hz⟩ := hb.crcMiss_stream (ex := ex.val) s.tck set
      exact ⟨_, y, exec_expandBlock hstep, hy, hz, rd_crcMiss .., codes_crcMiss ..⟩
    · rw [hgood] at hstep
      exact exec_expandBlock (hstep.trans (goodBlock_defective hb.expanded hraw hown))
  · have hb : StreamedBlock s.node k.toNat l x j b w st v := ⟨hw, hidx, hnamed, hform, hpins, huse, hst, hv⟩
    have hstep := hb.crcRefetch_eq (ex := ex.val) (bad := bad) (badBase := badBase) s.tck href
    refine ⟨fun hgood hraw => ?_, fun h hbad hneed => ?_⟩
    · rw [hgood] at hstep
      obtain ⟨y, hy, hin⟩ := goodBlock_raw (t := s.tck) (ex := ex.val) (b := b) hraw hw hpins hv
      exact ⟨_, y, exec_blockCrcRefetch hstep, hy, hin⟩
    · obtain ⟨set, hset⟩ := Option.isSome_iff_exists.mp hbad
      rw [hset] at hstep
      obtain ⟨m, hm⟩ := failLayer_needer (status := stExpandCrc) s.tck hneed
      exact ⟨m, exec_blockCrcRefetch (hstep.trans hm)⟩

end Sys2Proof.Machine
end

section
/-! March tests, retired channels and modules taken out and brought in: `MARCH_TEST`, `MARCH_TEST_TIMEOUT`, `RETIRE_PCH` (R236, R432, R433). -/

namespace Sys2Proof.Machine

variable {t : Tck} {n m : Node} {s : State} {h : Word} {c : Cmd} {d : Option Found} {u : Nat}

theorem exec_marchTest (e : marchTest h.toNat s.tck s.node = m) : exec (.marchTest h) s = .next (s.withNode m) := onNode_eq e
theorem exec_marchTestTimeout (e : marchTimeout h.toNat s.tck s.node = m) : exec (.marchTestTimeout h) s = .next (s.withNode m) := onNode_eq e
theorem exec_retirePch (e : retirePch h.toNat d s.tck s.node = m) : exec (.retirePch h d) s = .next (s.withNode m) := onNode_eq e

/-! ## The field at fault (R61) -/

theorem offIf_true {b : Bool} {k : Nat} (hb : b = true) : offIf b k = [k] := if_pos hb

/-- Of the offending offsets the lowest is reported. -/
theorem checked_lowest {o : Nat} {offs rest : List Nat} (body : Node) (hh : headerOffs c = []) (ho : offs = o :: rest) (hmin : ∀ x ∈ rest, o ≤ x) :
    checked t n c offs body = badParam t n c.handle o := by
  have hfirst : firstOff (o :: rest) = some o := by
    rw [firstOff, leastBy]
    split
    · rfl
    · next y hy => exact if_pos (hmin y (leastBy_mem hy))
  rw [checked, hh, ho, List.nil_append, hfirst]

/-! ## MARCH_TEST (R432) -/

/-- A march test of units in range waits behind the others. -/
theorem marchTest_queues {units : Nat} (hr : Runs n h opMarchTest c) (hform : c.f 24 1 ≤ 1) (hkind : c.f 25 1 ≤ 2) (hunits : units = if c.f 25 1 = 1 then 32 else 1024) (hv : rsv c 30 63 = [])
    (hcount : c.f 28 2 ≠ 0) (hend : c.f 26 2 + c.f 28 2 ≤ units) : marchTest h.toNat t n =
      setRunning (modSvc n fun x => { x with march := x.march ++ [⟨0, h.toNat, c.f 24 1, c.f 25 1, c.f 26 2, c.f 28 2, 0, 0, 0, 0⟩] }) h.toNat := by
  obtain ⟨hf, hop, hs, hq, hh⟩ := hr
  rw [marchTest, withCmd_eq _ hf hop hs hq]
  dsimp only
  rw [← hunits, checked_ok _ hh]
  rw [offIf_false (by simpa using hform), offIf_false (by simpa using hkind), offIf_false (by simp; omega), offIf_false (by simp; omega), hv]
  rfl

/-- A first unit out of range is the field at fault. -/
theorem marchTest_outOfRange {units : Nat} (hr : Runs n h opMarchTest c) (hform : c.f 24 1 ≤ 1) (hkind : c.f 25 1 ≤ 2) (hunits : units = if c.f 25 1 = 1 then 32 else 1024)
    (hv : rsv c 30 63 = []) (hfirst : units ≤ c.f 26 2) : marchTest h.toNat t n = badParam t n h.toNat 26 := by
  obtain ⟨hf, hop, hs, hq, hh⟩ := hr
  rw [marchTest, withCmd_eq _ hf hop hs hq]
  dsimp only
  rw [← hunits, offIf_false (by simpa using hform), offIf_false (by simpa using hkind), offIf_true (by simpa using hfirst), hv, List.nil_append, List.nil_append, List.append_nil,
    List.singleton_append, checked_lowest _ hh rfl (fun x hx => ?_), findCmd_handle hf]
  obtain rfl : x = 28 := by
    unfold offIf at hx
    split at hx
    · exact List.mem_singleton.mp hx
    · cases hx
  decide

/-- Taking a unit of SRAM out of service or putting it back changes the units that are out alone. -/
theorem marchOut_shape (n : Node) (kind unit : Nat) (out : Bool) : ∃ x, marchOut n kind unit out = { n with mic := x } := by
  unfold marchOut
  extract_lets upd
  repeat' split
  all_goals exact ⟨_, rfl⟩

/-- The one march test that waits, once its ticks have passed, ends with the counts of the part done. -/
theorem marchTimeout_ends {j : MarchJob} (hf : findCmd n h.toNat = some c) (hm : n.svc.march = [j]) (hwhy : j.why = 0) (hj : j.handle = h.toNat)
    (hdue : ticksPassed t c 65536 = true) : ∃ x, marchTimeout h.toNat t n =
      complete t { modSvc n (fun v => { v with march := [] }) with mic := x } h.toNat stDeadline (marchResult j) := by
  have hfind : n.svc.march.find? (fun j => j.why == 0 && j.handle == h.toNat) = some j := by simp [hm, hwhy, hj]
  have hleft : n.svc.march.filter (· != j) = [] := by simp [hm]
  simp only [marchTimeout, hf, hfind, hdue, Bool.not_true, Bool.false_eq_true, if_false, modSvc, hleft]
  split
  · obtain ⟨x, e⟩ := marchOut_shape { n with svc := { n.svc with march := [] } } j.kind j.unit false
    exact ⟨x, by rw [e]⟩
  · exact ⟨n.mic, rfl⟩

theorem marchTimeout_waits (hf : findCmd n h.toNat = some c) (hdue : ticksPassed t c 65536 = false) : marchTimeout h.toNat t n = n := by
  simp only [marchTimeout, hf]
  split
  · next hc _ => rw [← Option.some.inj hc, hdue]; rfl
  · rfl

/-! ## RETIRE_PCH by kind and operation (R433) -/

/-- Units of a kind: pseudo-channels, DDR5 channels, flash modules. -/
abbrev retireUnits (kind : Nat) : Nat := if kind = 0 then 1024 else if kind = 1 then 12 else 8

/-- What the command does to a unit in range. -/
def retireEffect (k u : Nat) (d : Option Found) (t : Tck) (n : Node) (kind op : Nat) : Node :=
  if kind = 0 then (if op = 0 then pchOutOf k u t n else pchInto k u t n)
  else if kind = 1 then (if op = 0 then dimmOut k u t n else dimmIn k u d t n)
  else if op = 0 then flashOutOf k u t n else flashInto k u d t n

/-- A command whose fields are in range has its effect. -/
theorem retirePch_acts {kind op : Nat} (hr : Runs n h opRetirePch c) (hv : rsv c 28 63 = []) (hkind : c.f 24 1 = kind) (hop : c.f 25 1 = op) (hk : kind ≤ 2) (ho : op ≤ 1)
    (hu : c.f 26 2 < retireUnits kind) : retirePch h.toNat d t n = retireEffect h.toNat (c.f 26 2) d t n kind op := by
  subst hkind hop
  obtain ⟨hf, hop, hs, hq, hh⟩ := hr
  rw [retirePch, withCmd_eq _ hf hop hs hq]
  dsimp only
  rw [checked_ok _ hh, retireEffect]
  rw [offIf_false (by simpa using hk), offIf_false (by simpa using ho), offIf_false (by simpa using hu), hv]
  rfl

theorem exec_retirePch_acts {kind op : Nat} (hr : Runs s.node h opRetirePch c) (hv : rsv c 28 63 = []) (hkind : c.f 24 1 = kind) (hop : c.f 25 1 = op) (hu : c.f 26 2 < retireUnits kind)
    (e : retireEffect h.toNat (c.f 26 2) d s.tck s.node kind op = m) (hk : kind ≤ 2 := by decide) (ho : op ≤ 1 := by decide) : exec (.retirePch h d) s = .next (s.withNode m) :=
  exec_retirePch ((retirePch_acts hr hv hkind hop hk ho hu).trans e)

/-- A unit out of range is the field at fault. -/
theorem retirePch_outOfRange (hr : Runs n h opRetirePch c) (hv : rsv c 28 63 = []) (hk : c.f 24 1 ≤ 2) (ho : c.f 25 1 ≤ 1) (hu : retireUnits (c.f 24 1) ≤ c.f 26 2) :
    retirePch h.toNat d t n = badParam t n h.toNat 26 := by
  obtain ⟨hf, hop, hs, hq, hh⟩ := hr
  rw [retirePch, withCmd_eq _ hf hop hs hq]
  dsimp only
  rw [offIf_false (by simpa using hk), offIf_false (by simpa using ho), offIf_true (by simpa using hu), hv, List.nil_append, List.nil_append, List.append_nil,
    checked_lowest _ hh rfl (by simp), findCmd_handle hf]

/-! ## Pseudo-channels (R236) -/

/-- The node with a channel out of service: its retirement has ended. -/
def channelOut (n : Node) (p : Nat) : Node :=
  { n with mic := { n.mic with
    retiring := n.mic.retiring.filter (·.pch != p)
    retired := n.mic.retired ++ [p]
    owed := n.mic.owed.filter fun r => pchOf r != p
    ahead := mmod n.mic.ahead (p / 128) fun l => l.filter fun a => pchOf a != p } }

theorem retireEnd_handle {j : RetireJob} {k : Nat} (hj : j.handle = some k) :
    retireEnd t n j = complete t (raise t (channelOut n j.pch) evPchRetired []) k stOk (leBytes 4 j.moved) := by
  rw [retireEnd, hj]
  rfl

theorem relocateSets_nil (hw : n.wts.sets = []) (p : Nat) : relocateSets n p = n := by
  rw [relocateSets, hw]
  rfl

/-- A retirement ends at once in a channel that nothing is left in, where there is neither a set nor an extent to relocate. -/
theorem retireGoOn_ends {p : Nat} {j : RetireJob} (hsets : n.wts.sets = []) (hexts : n.cxd.exts = []) (hj : n.mic.retiring.find? (·.pch == p) = some j)
    (hleft : retireLeft n p = false) : ∃ moves busy, retireGoOn t n p = retireEnd t { n with ter := { n.ter with moves := moves, busy := busy } } j := by
  unfold retireGoOn retirePagesOf
  extract_lets l n1 n2
  obtain ⟨b, e⟩ := queueMoves_shape n (l.map fun i => ⟨2, .page i, 1, none, none⟩)
  have hn1 : n1 = { n with ter := { n.ter with moves := n.ter.moves ++ l.map (fun i => ⟨2, .page i, 1, none, none⟩), busy := b } } := by
    rw [← e]
    exact relocateSets_nil (by rw [e]; exact hsets) p
  have hn2 : n2 = n1 := by
    have hexts1 : n1.cxd.exts = [] := by rw [hn1]; exact hexts
    simp only [n2, hexts1, List.foldl_nil]
  have hleft2 : retireLeft n2 p = false := by rw [hn2, hn1]; exact hleft
  have hheld2 : retireHeld n2 p = false := by
    rw [retireLeft, Bool.or_eq_false_iff] at hleft2
    exact hleft2.2
  have hj2 : n2.mic.retiring.find? (·.pch == p) = some j := by rw [hn2, hn1]; exact hj
  simp only [hj2, hheld2, hleft2, Bool.false_and, Bool.false_eq_true, if_false]
  rw [hn2, hn1]
  exact ⟨_, _, rfl⟩

theorem pchOutOf_retired {k : Nat} (hu : u ∈ n.mic.retired) : pchOutOf k u t n = complete t n k stOk (leBytes 4 0) := by
  rw [pchOutOf, if_pos (by simpa using hu)]

/-- A channel that nothing is left in is retired by the command at once. -/
theorem pchOutOf_retires {k : Nat} (hf : findCmd n k = some c) (hu : u ∉ n.mic.retired) (hnone : n.mic.retiring = []) (hsets : n.wts.sets = []) (hexts : n.cxd.exts = [])
    (hleft : retireLeft n u = false) :
    ∃ M : Node, pchOutOf k u t n = complete t M k stOk (leBytes 4 0) ∧ M.mic.retired = n.mic.retired ++ [u] ∧ M.mic.retiring = []
      ∧ findCmd M k = some { c with stage := .running } ∧ M.svc.arrivals.map (·.code) = n.svc.arrivals.map (·.code) ++ [evPchRetired] ∧ M.bank = n.bank := by
  have hj : (startRetire (setRunning n k) u (some k)).mic.retiring = [⟨u, some k, false, 0⟩] := by simp [startRetire, hnone]
  obtain ⟨moves, busy, e⟩ := retireGoOn_ends (t := t) (n := startRetire (setRunning n k) u (some k)) (p := u) (j := ⟨u, some k, false, 0⟩) hsets hexts (by simp [hj]) hleft
  rw [retireEnd_handle rfl] at e
  rw [pchOutOf, if_neg (by simpa using hu), if_neg (by simp [hnone]), e]
  refine ⟨_, rfl, rfl, ?_, findCmd_setRunning hf, codes_raise _ _ _ _, rfl⟩
  show (startRetire (setRunning n k) u (some k)).mic.retiring.filter (·.pch != u) = []
  simp [hj]

theorem pchInto_inService {k : Nat} (hu : u ∉ n.mic.retired) : pchInto k u t n = complete t n k stOk (leBytes 4 0) := by
  rw [pchInto, if_neg (by simpa using hu)]

/-- A retired channel waits for the test of its return. -/
theorem pchInto_tests {k : Nat} (hu : u ∈ n.mic.retired) :
    pchInto k u t n = setRunning (modSvc n fun x => { x with march := x.march ++ [⟨1, k, 0, 0, u, 1, 0, 0, 0, 0⟩] }) k := by
  rw [pchInto, if_pos (by simpa using hu)]

/-! ## Modules (R433) -/

@[simp] theorem noteTrained_mic (n : Node) (cls k : Nat) : (noteTrained n cls k).mic = n.mic := by unfold noteTrained; split <;> rfl
@[simp] theorem noteTrained_svc (n : Node) (cls k : Nat) : (noteTrained n cls k).svc = n.svc := by unfold noteTrained; split <;> rfl
@[simp] theorem noteTrained_dimms (n : Node) (cls k : Nat) : (noteTrained n cls k).brd.dimms = n.brd.dimms := by unfold noteTrained; split <;> rfl
@[simp] theorem noteTrained_flash (n : Node) (cls k : Nat) : (noteTrained n cls k).brd.flash = n.brd.flash := by unfold noteTrained; split <;> rfl

/-- The node with a DDR5 module in its channel. -/
def dimmFitted (n : Node) (u : Nat) (x : Found) : Node :=
  let n1 := noteTrained (useDimm n { x with dev := u }) 5 u
  { n1 with mic := { n1.mic with ddrOut := n1.mic.ddrOut.filter (· != u) } }

/-- The node with a flash module in its slot. -/
def flashFitted (n : Node) (u : Nat) (x : Found) : Node :=
  let n1 := noteTrained (useFlash n { x with dev := u }) 2 u
  { n1 with mic := { n1.mic with flashOut := n1.mic.flashOut.filter (· != u) } }

section

variable {k : Nat} {x : Found} {v : Nat × Nat} {cap : Nat}

theorem dimmOut_out (hu : mhas n.brd.dimms u = false ∨ u ∈ n.mic.ddrOut) : dimmOut k u t n = complete t n k stOk (leBytes 4 0) := by
  rw [dimmOut]
  exact if_pos (by simpa using hu)

/-- What the other modules hold must have room for what the direct partition and the record area take. -/
theorem dimmOut_noRoom (hv : mget? n.brd.dimms u = some v) (hu : u ∉ n.mic.ddrOut) (hroom : t2Bytes n - v.1 < directBytes n + recSize n) :
    dimmOut k u t n = badParam t n k 26 := by
  rw [dimmOut]
  simp only [hv, mhas]
  rw [if_neg (by simpa using hu), if_pos hroom]

/-- A module as fast as the others of its half, and not rejected, is fitted. -/
theorem dimmIn_fits (hs : halfSpeed n (u / 6) ≤ x.speed) (hx : x.reject = none) :
    ∃ M : Node, dimmIn k u (some x) t n = complete t M k stOk (leBytes 4 0) ∧ mget? M.brd.dimms u = some (x.cap, x.speed) ∧ u ∉ M.mic.ddrOut
      ∧ M.svc.arrivals.map (·.code) = n.svc.arrivals.map (·.code) ++ [evModuleIn] := by
  refine ⟨raise t (dimmFitted n u x) evModuleIn [], ?_, ?_, ?_, ?_⟩
  · simp only [dimmIn, if_neg (Nat.not_lt.mpr hs), hx]
    rfl
  · simp [dimmFitted, useDimm, modBrd]
  · simp [dimmFitted]
  · rw [codes_raise]
    simp [dimmFitted, useDimm, modBrd]

/-- A module slower than the others of its half, or rejected, is recorded and the unit is the field at fault. -/
theorem dimmIn_rejected (hx : x.speed < halfSpeed n (u / 6) ∨ x.reject ≠ none) :
    ∃ M : Node, dimmIn k u (some x) t n = badParam t M k 26 ∧ M.brd = n.brd ∧ M.svc.arrivals.map (·.code) = n.svc.arrivals.map (·.code) ++ [evIdReject] := by
  simp only [dimmIn]
  split
  · exact ⟨_, rfl, rfl, codes_raise _ _ _ _⟩
  · next hnone =>
    split at hnone
    · cases hnone
    · next hs => exact absurd hnone (hx.resolve_left hs)

theorem flashOutOf_out (hu : mhas n.brd.flash u = false ∨ u ∈ n.mic.flashOut) : flashOutOf k u t n = complete t n k stOk (leBytes 4 0) := by
  rw [flashOutOf, if_pos (by simpa using hu)]

/-- The other modules must have room for what terrace 3 holds. -/
theorem flashOutOf_noRoom (hv : mget? n.brd.flash u = some cap) (hu : u ∉ n.mic.flashOut) (hroom : t3Bytes n - cap < t3Used n) : flashOutOf k u t n = badParam t n k 26 := by
  rw [flashOutOf, if_neg (by simpa [mhas, hv] using hu), if_pos (by simpa [mgetD, hv] using hroom)]

/-- A module whose sectors fit on the others leaves, with a free count of what moved (log entries 9 and 20). -/
theorem flashOutOf_leaves (hv : mget? n.brd.flash u = some cap) (hu : u ∉ n.mic.flashOut) (hroom : t3Used n ≤ t3Bytes n - cap) :
    ∃ (M : Node) (moved : Nat), flashOutOf k u t n = complete t M k stOk (leBytes 4 moved) ∧ u ∈ M.mic.flashOut
      ∧ M.svc.arrivals.map (·.code) = n.svc.arrivals.map (·.code) ++ [evModuleOut] ∧ M.freeCtr = n.freeCtr + 1 := by
  rw [flashOutOf, if_neg (by simpa [mhas, hv] using hu), if_neg (by simpa [mgetD, hv] using hroom)]
  exact ⟨_, _, rfl, List.mem_append_right _ (List.mem_singleton_self u), codes_raise _ _ _ _, rfl⟩

/-- A module that is not rejected is fitted. -/
theorem flashInto_fits (hx : x.reject = none) :
    ∃ M : Node, flashInto k u (some x) t n = complete t M k stOk (leBytes 4 0) ∧ mget? M.brd.flash u = some x.cap ∧ u ∉ M.mic.flashOut
      ∧ M.svc.arrivals.map (·.code) = n.svc.arrivals.map (·.code) ++ [evModuleIn] := by
  refine ⟨raise t (flashFitted n u x) evModuleIn [], ?_, ?_, ?_, ?_⟩
  · simp only [flashInto, hx]
    rfl
  · simp [flashFitted, useFlash, modBrd]
  · simp [flashFitted]
  · rw [codes_raise]
    simp [flashFitted, useFlash, modBrd]

/-- A rejected module is recorded and the unit is the field at fault. -/
theorem flashInto_rejected (hx : x.reject ≠ none) :
    ∃ M : Node, flashInto k u (some x) t n = badParam t M k 26 ∧ M.brd = n.brd ∧ M.svc.arrivals.map (·.code) = n.svc.arrivals.map (·.code) ++ [evIdReject] := by
  obtain ⟨r, hr⟩ := Option.ne_none_iff_exists'.mp hx
  exact ⟨idReject t n (16 + u) r, by simp only [flashInto, hr], rfl, codes_raise _ _ _ _⟩

end

end Sys2Proof.Machine
end

section
/-! The event recorder: what waits at its interface, rate limits, records and their bytes, the erase, slots read back (R438 to R442). -/

namespace Sys2Proof.Machine

variable {t : Tck} {n m : Node} {s : State} {e : Event} {l : List Event} {supp : Nat}

theorem exec_eventRecord (h : eventRecord s.tck s.node = m) : exec .eventRecord s = .next (s.withNode m) := onNode_eq h
theorem exec_evrClearDone (h : evrClearDone s.tck s.node = m) : exec .evrClearDone s = .next (s.withNode m) := onNode_eq h
theorem exec_evrClear {src : Req} (hw : Writable s.node) (h : evrClear src s.node = m) : exec (.evrClear src) s = .next (s.withNode m) :=
  onNode_eq ((if_neg (by rw [hw]; decide)).trans h)
theorem exec_evrRdSelWrite {src : Req} {v : Word} (hw : Writable s.node) (h : evrRdSel v.toNat src s.node = m) : exec (.evrRdSelWrite v src) s = .next (s.withNode m) :=
  onNode_eq ((if_neg (by rw [hw]; decide)).trans h)

/-! ## Events that wait (R21, R441) -/

theorem settleEvents_fits (h : n.svc.arrivals.length ≤ 64 - n.svc.buffer.length) : settleEvents n = n := if_pos h

/-- Events beyond the buffer's room are dropped and counted. -/
theorem settleEvents_drops (h : 64 - n.svc.buffer.length < n.svc.arrivals.length) : settleEvents n =
    bump (modSvc n fun x => { x with arrivals := x.arrivals.take (64 - n.svc.buffer.length) }) Rg.evrStatusDropped (n.svc.arrivals.length - (64 - n.svc.buffer.length)) :=
  if_neg (Nat.not_le.mpr h)

/-- The node with the events that still wait. -/
def leftWaiting (n : Node) (l : List Event) : Node := modSvc n fun x => { x with arrivals := l }

/-- The first event that waits is taken. -/
theorem eventRecord_takes (ha : n.svc.arrivals = e :: l) (h : l.length + n.svc.buffer.length < 64) :
    eventRecord t n = takeEvent t (leftWaiting n l) e := by
  have hfit : settleEvents n = n := settleEvents_fits (by rw [ha, List.length_cons]; omega)
  simp only [eventRecord, hfit, ha, leftWaiting]

theorem eventRecord_none (h : n.svc.arrivals = []) : eventRecord t n = n := by
  have hfit : settleEvents n = n := settleEvents_fits (by rw [h]; exact Nat.zero_le _)
  simp only [eventRecord, hfit, h]

/-- What has been dropped already is not dropped again. -/
theorem eventRecord_settleEvents (h : 64 - n.svc.buffer.length < n.svc.arrivals.length) : eventRecord t (settleEvents n) = eventRecord t n := by
  have hfit : settleEvents (settleEvents n) = settleEvents n :=
    settleEvents_fits (by rw [settleEvents_drops h]; exact (List.length_take ..).trans_le (Nat.min_le_left _ _))
  rw [eventRecord, hfit, eventRecord]

/-! ## Records (R438) -/

/-- One record holds an event of eight bytes of arguments or fewer. -/
theorem evrArgs_short {a : Bytes} (h : a.length ≤ 8) : evrArgs a = [a] := by
  cases a with
  | nil => rfl
  | cons b a =>
    have hnone : chunksOf 8 a.length ([] : Bytes) = [] := by cases a.length <;> rfl
    simp [evrArgs, chunksOf, List.take_of_length_le h, List.drop_eq_nil_of_le h, hnone]

/-- While a slot is free a short event takes it, with the next sequence count. -/
theorem program_short (hs : n.svc.slots.length < evrSlots) (ha : e.args.length ≤ 8) : program n e supp =
    modSvc n fun x => { x with slots := x.slots ++ [evrRecord n e x.seqNext supp false e.args], seqNext := (x.seqNext + 1) % 2 ^ 32 } := by
  rw [program, if_neg (Nat.not_le.mpr hs), evrArgs_short ha]
  exact if_neg (Nat.not_le.mpr hs)

theorem program_full (hs : evrSlots ≤ n.svc.slots.length) : program n e supp = bump n Rg.evrStatusDropped 1 := if_pos hs

/-- A view of the node that slots, sequence counts, buffer, windows, pending counts and registers are no part of. -/
structure RecorderBlind {β : Type} (g : Node → β) : Prop where
  bank : ∀ (n : Node) b, g { n with bank := b } = g n
  svc : ∀ (n : Node) slots seq buffer win supp,
    g { n with svc := { n.svc with slots := slots, seqNext := seq, buffer := buffer, winCnt := win, supp := supp } } = g n

theorem RecorderBlind.arrivals : RecorderBlind (·.svc.arrivals) := ⟨fun _ _ => rfl, fun _ _ _ _ _ _ => rfl⟩
theorem RecorderBlind.fe : RecorderBlind (·.fe) := ⟨fun _ _ => rfl, fun _ _ _ _ _ _ => rfl⟩
theorem RecorderBlind.out : RecorderBlind (·.out) := ⟨fun _ _ => rfl, fun _ _ _ _ _ _ => rfl⟩

section

variable {β : Type} {g : Node → β} (b : RecorderBlind g)

include b

theorem RecorderBlind.program (n : Node) (e : Event) (supp : Nat) : g (program n e supp) = g n := by
  unfold Machine.program
  split
  · exact b.bank n _
  · refine foldl_keeps g (fun m x => ?_) _ n
    unfold programOne
    split
    · rfl
    · exact b.svc m _ _ m.svc.buffer m.svc.winCnt m.svc.supp

theorem RecorderBlind.admitEvent (n : Node) (e : Event) : g (admitEvent n e) = g n := by
  unfold Machine.admitEvent
  extract_lets supp
  split
  · split
    · exact b.bank n _
    · exact b.svc n n.svc.slots n.svc.seqNext _ n.svc.winCnt _
  · exact (b.program _ e supp).trans (b.svc n n.svc.slots n.svc.seqNext n.svc.buffer n.svc.winCnt _)

theorem RecorderBlind.takeEvent (t : Tck) (n : Node) (e : Event) : g (takeEvent t n e) = g n := by
  unfold Machine.takeEvent
  extract_lets w c
  split
  · exact b.svc n n.svc.slots n.svc.seqNext n.svc.buffer n.svc.winCnt _
  · exact (b.admitEvent _ e).trans (b.svc n n.svc.slots n.svc.seqNext n.svc.buffer _ n.svc.supp)

end

/-! ## Rate limits (R440) -/

@[simp] theorem mgetD_mdel_self {β : Type} (m : NMap β) (k : Nat) (d : β) : mgetD (mdel m k) k d = d := by simp [mgetD, mget?_mdel]

/-- Records of an event's code made in the window that it falls in. -/
def windowCount (t : Tck) (n : Node) (e : Event) : Nat :=
  match mget? n.svc.winCnt e.code with
  | some (w, k) => if w = rateWindow t n e then k else 0
  | none => 0

/-- The node with one more record of a code in its window. -/
def windowCounted (t : Tck) (n : Node) (e : Event) : Node :=
  modSvc n fun x => { x with winCnt := mset x.winCnt e.code (rateWindow t n e, windowCount t n e + 1) }

theorem takeEvent_eq (t : Tck) (n : Node) (e : Event) : takeEvent t n e =
    if !unlimited e.code && rd n Rg.evrRateLimit ≤ windowCount t n e then modSvc n fun x => { x with supp := mset x.supp e.code (mgetD x.supp e.code 0 + 1) }
    else admitEvent (windowCounted t n e) e := rfl

/-- An event over its limit adds to its code's pending count. -/
theorem takeEvent_held (hu : unlimited e.code = false) (hl : rd n Rg.evrRateLimit ≤ windowCount t n e) :
    takeEvent t n e = modSvc n fun x => { x with supp := mset x.supp e.code (mgetD x.supp e.code 0 + 1) } := by
  rw [takeEvent_eq, if_pos (by simp [hu, hl])]

theorem takeEvent_within (h : unlimited e.code = true ∨ windowCount t n e < rd n Rg.evrRateLimit) : takeEvent t n e = admitEvent (windowCounted t n e) e := by
  rw [takeEvent_eq, if_neg]
  rcases h with h | h
  · simp [h]
  · simp [Nat.not_le.mpr h]

/-- During an erase an event waits in the buffer with its code's pending count. -/
theorem admitEvent_erasing (hc : rdB n Rg.evrStatusClearing = true) (hb : n.svc.buffer.length < 64) :
    admitEvent n e = modSvc n fun x => { x with buffer := x.buffer ++ [(e, mgetD n.svc.supp e.code 0)], supp := mdel x.supp e.code } := by
  rw [admitEvent, if_pos hc, if_neg (Nat.not_le.mpr hb)]

theorem admitEvent_programs (hc : rdB n Rg.evrStatusClearing = false) :
    admitEvent n e = program (modSvc n fun x => { x with supp := mdel x.supp e.code }) e (mgetD n.svc.supp e.code 0) := by
  rw [admitEvent, if_neg (by simp [hc])]

/-! ## One event taken -/

section

variable (hin : unlimited e.code = true ∨ windowCount t n e < rd n Rg.evrRateLimit)

include hin

/-- An event within its limit becomes a record, which carries its code's pending count and clears it. -/
theorem takeEvent_records (hc : rdB n Rg.evrStatusClearing = false) (hs : n.svc.slots.length < evrSlots) (ha : e.args.length ≤ 8) : takeEvent t n e =
    modSvc (windowCounted t n e) fun x =>
      { x with supp := mdel x.supp e.code, slots := x.slots ++ [evrRecord n e x.seqNext (mgetD x.supp e.code 0) false e.args], seqNext := (x.seqNext + 1) % 2 ^ 32 } := by
  have hslot : (modSvc (windowCounted t n e) fun x => { x with supp := mdel x.supp e.code }).svc.slots.length < evrSlots := hs
  rw [takeEvent_within hin, admitEvent_programs (n := windowCounted t n e) hc, program_short hslot ha]
  rfl

theorem takeEvent_buffers (hc : rdB n Rg.evrStatusClearing = true) (hb : n.svc.buffer.length < 64) : takeEvent t n e =
    modSvc (windowCounted t n e) fun x => { x with buffer := x.buffer ++ [(e, mgetD x.supp e.code 0)], supp := mdel x.supp e.code } := by
  rw [takeEvent_within hin, admitEvent_erasing (n := windowCounted t n e) hc hb]
  rfl

/-- An event that finds every slot taken is counted. -/
theorem takeEvent_full (hc : rdB n Rg.evrStatusClearing = false) (hs : evrSlots ≤ n.svc.slots.length) : takeEvent t n e =
    bump (modSvc (windowCounted t n e) fun x => { x with supp := mdel x.supp e.code }) Rg.evrStatusDropped 1 := by
  have hslot : evrSlots ≤ (modSvc (windowCounted t n e) fun x => { x with supp := mdel x.supp e.code }).svc.slots.length := hs
  rw [takeEvent_within hin, admitEvent_programs (n := windowCounted t n e) hc, program_full hslot]

end

/-! ## The bytes of a record (R438) -/

/-- A field that begins past the first of two strings. -/
theorem field_append_right {a : Bytes} {k : Nat} (ha : a.length = k) (b : Bytes) (lo w : Nat) : field (a ++ b) (k + lo) w = field b lo w := by
  rw [field, ← ha, List.drop_length_add_append, field]

theorem field_evrRecord_seq (n : Node) (e : Event) (seq supp : Nat) (cont : Bool) (arg : Bytes) : field (evrRecord n e seq supp cont arg) 0 4 = seq % 2 ^ 32 := by
  simp only [evrRecord, List.append_assoc]
  exact field_first 4 seq _

theorem field_evrRecord_code (n : Node) (e : Event) (seq supp : Nat) (cont : Bool) (arg : Bytes) : field (evrRecord n e seq supp cont arg) 4 2 = e.code % 2 ^ 16 := by
  simp only [evrRecord, List.append_assoc]
  exact (field_append_right (leBytes_length 4 seq) _ 0 2).trans (field_first 2 e.code _)

theorem slice_evrRecord_args (n : Node) (e : Event) (seq supp : Nat) (cont : Bool) {arg : Bytes} (h : arg.length ≤ 8) :
    slice (evrRecord n e seq supp cont arg) 24 arg.length = arg := by
  rw [evrRecord, slice, List.drop_left' (by simp [leBytes_length]), padTo, List.take_take, Nat.min_eq_left h, List.take_left]

/-! ## Clearing and reading (R442) -/

/-- The node whose region is erased, its buffer empty and `DROPPED` zero. -/
def recorderErased (n : Node) : Node :=
  modSvc (wr (wr n Rg.evrStatusClearing 0) Rg.evrStatusDropped 0) fun x => { x with slots := [], buffer := [], supp := mdel x.supp evEvrCleared }

/-- `EV_EVR_CLEARED` with the records erased and `DROPPED`. -/
def clearedEvent (t : Tck) (n : Node) : Event :=
  ⟨evEvrCleared, leBytes 2 n.svc.slots.length ++ leBytes 2 (rd n Rg.evrStatusDropped), t.now, t.u, ambig (rd n Rg.evrRateWindow * unitsPerTick t.cur) t.now t.u⟩

theorem clearedEvent_args_length (t : Tck) (n : Node) : (clearedEvent t n).args.length = 4 := by simp [clearedEvent, leBytes_length]

theorem evrClearDone_idle (hc : rdB n Rg.evrStatusClearing = false) : evrClearDone t n = n := if_pos (by simp [hc])

/-- After an erase in which no event waited in the buffer, `EV_EVR_CLEARED` is programmed into the empty region. -/
theorem evrClearDone_ends (hc : rdB n Rg.evrStatusClearing = true) (hb : n.svc.buffer = []) (ha : n.svc.arrivals.length ≤ 64) :
    evrClearDone t n = program (recorderErased n) (clearedEvent t n) (mgetD n.svc.supp evEvrCleared 0) := by
  have hfit : settleEvents n = n := settleEvents_fits (by rw [hb]; exact ha)
  rw [evrClearDone, if_neg (by simp [hc]), hfit]
  dsimp only
  rw [hb, List.foldl_nil]
  rfl

theorem rd_recorderErased_clearing (n : Node) : rd (recorderErased n) Rg.evrStatusClearing = 0 := by
  have h1 : rd (wr (wr n Rg.evrStatusClearing 0) Rg.evrStatusDropped 0) Rg.evrStatusClearing = rd (wr n Rg.evrStatusClearing 0) Rg.evrStatusClearing :=
    rd_wr_field _ _ _ _ rfl (by decide) (by decide)
  exact h1.trans (rd_wr_self n _ 0 (by decide))

theorem rd_recorderErased_dropped (n : Node) : rd (recorderErased n) Rg.evrStatusDropped = 0 := rd_wr_self _ _ 0 (by decide)

theorem evrClear_other {src : Req} (hs : src ≠ .mgmt) (n : Node) : evrClear src n = n := by
  cases src with
  | mgmt => exact absurd rfl hs
  | host => rfl
  | qp => rfl

theorem evrRdSel_other {src : Req} (hs : src ≠ .mgmt) (v : Nat) (n : Node) : evrRdSel v src n = n := by
  cases src with
  | mgmt => exact absurd rfl hs
  | host => rfl
  | qp => rfl

theorem copyWords_succ (n : Node) (fld : Nat → Fld) (k : Nat) (b : Bytes) : copyWords n fld (k + 1) b = wr (copyWords n fld k b) (fld k) (field b (4 * k) 4) := by
  rw [copyWords, List.range_succ, List.foldl_append]
  rfl

theorem copyWords_svc (n : Node) (fld : Nat → Fld) (k : Nat) (b : Bytes) : (copyWords n fld k b).svc = n.svc :=
  foldl_keeps (·.svc) (fun m w => wr_svc m (fld w) _) _ n

/-- Words copied into data registers leave every other register. -/
theorem rd_copyWords_off {fld : Nat → Fld} {k : Nat} {f : Fld} (b : Bytes) (h : ∀ w < k, f.off ≠ (fld w).off) : rd (copyWords n fld k b) f = rd n f := by
  induction k with
  | zero => rfl
  | succ k ih => rw [copyWords_succ, rd_wr_off _ _ _ _ (h k (Nat.lt_succ_self k)), ih fun w hw => h w (Nat.lt_succ_of_lt hw)]

/-- Each of the data registers, whole words of their own, reads as its word of the record. -/
theorem rd_copyWords_word {fld : Nat → Fld} {k w : Nat} (b : Bytes) (hf : ∀ i, (fld i).lo = 0 ∧ (fld i).w = 32) (hoff : ∀ i j, (fld i).off = (fld j).off → i = j) (hw : w < k) :
    rd (copyWords n fld k b) (fld w) = field b (4 * w) 4 := by
  induction k with
  | zero => cases hw
  | succ k ih =>
    obtain ⟨hlo, hwidth⟩ := hf k
    rw [copyWords_succ]
    rcases Nat.lt_succ_iff_lt_or_eq.mp hw with h | rfl
    · rw [rd_wr_off _ _ _ _ (fun e => Nat.ne_of_lt h (hoff w k e)), ih h]
    · rw [rd_wr_self _ _ _ (by rw [hlo, hwidth]), hwidth]
      exact Nat.mod_eq_of_lt (field_lt b (4 * w) 4)

theorem evrRdSel_slot (n : Node) (v : Nat) : rd (evrRdSel v .mgmt n) Rg.evrRdSelSlot = v % evrSlots :=
  (rd_copyWords_off _ fun w _ => by simp only; omega).trans (rd_wr_self n Rg.evrRdSelSlot v (by decide))

theorem evrRdSel_data {v w : Nat} (hw : w < 8) :
    rd (evrRdSel v .mgmt n) (Rg.evrRdDataData w) = field (n.svc.slots.getD (v % evrSlots) (List.replicate 32 0xFF)) (4 * w) 4 :=
  rd_copyWords_word _ (fun _ => ⟨rfl, rfl⟩) (fun i j e => by simp only at e; omega) hw

/-- Settles O57: each command comes down to its effect on a unit in range or to the field at fault, each step of the recorder to what it does with the first event that waits. -/
theorem marchTestsRetirementsAndTheRecorder : Obligations.MarchTestsRetirementsAndTheRecorder := by
  refine ⟨fun s h c units hr hform hkind hunits hv => ⟨fun hcount hend => ?queued, fun hfirst => exec_marchTest (marchTest_outOfRange hr hform hkind hunits hv hfirst)⟩,
    fun s h c j hf hm hwhy hj => ⟨fun hnow => exec_marchTestTimeout (marchTimeout_waits hf (by simpa [ticksPassed] using hnow)), fun hnow => ?late⟩,
    fun s h c d u hr hu hv => ?retire, fun s e l k supp ha hroom hsupp hk => ?record, fun s room hroom hdrop => ?dropped, fun s ha => exec_eventRecord (eventRecord_none ha),
    fun s src v hw => ⟨?clear, ?select, fun hsrc => ⟨exec_evrClear hw (evrClear_other hsrc _), exec_evrRdSelWrite hw (evrRdSel_other hsrc _ _)⟩⟩,
    fun s => ⟨fun hc => exec_evrClearDone (evrClearDone_idle hc), fun hc hb ha => ?erased⟩⟩
  case queued => exact ⟨_, exec_marchTest (marchTest_queues hr hform hkind hunits hv hcount hend), rfl, findCmd_setRunning hr.1, rfl, rfl⟩
  case late =>
    obtain ⟨x, e⟩ := marchTimeout_ends (t := s.tck) hf hm hwhy hj (by simpa [ticksPassed] using hnow)
    exact ⟨_, exec_marchTestTimeout e, rfl, rfl, rfl⟩
  case retire =>
    subst hu
    refine ⟨fun hk ho hlt => ⟨fun hin => ?retired, fun hin hnone _ _ hsets hexts hleft => ?emptied⟩, fun hk ho hlt => ⟨fun hin => ?inService, fun hin => ?returned⟩,
      fun hk ho hlt => ⟨fun hout => ?dimmAbsent, fun x hx hin hless => ?dimmNoRoom⟩, fun hk ho hlt => ⟨fun hd => ?dimmUnknown, fun x hd hs hx => ?dimmIn⟩,
      fun hk ho hlt => ⟨fun hd => ?flashUnknown, fun x hd hx => ?flashIn⟩, fun x hd ho hrej => ?rejected,
      fun hk ho hlt => ⟨fun hout => ?flashAbsent, fun x hx hin => ⟨fun hless => ?flashNoRoom, fun hfits => ?flashOut⟩⟩,
      fun hk ho hge => exec_retirePch (retirePch_outOfRange hr hv hk ho hge)⟩
    case retired => exact exec_retirePch_acts hr hv hk ho hlt (pchOutOf_retired hin)
    case emptied => exact (pchOutOf_retires hr.1 hin hnone hsets hexts hleft).imp fun _ => And.imp_left (exec_retirePch_acts hr hv hk ho hlt)
    case inService => exact exec_retirePch_acts hr hv hk ho hlt (pchInto_inService hin)
    case returned => exact ⟨_, exec_retirePch_acts hr hv hk ho hlt (pchInto_tests hin), rfl, findCmd_setRunning hr.1, rfl⟩
    case dimmAbsent => exact exec_retirePch_acts hr hv hk ho hlt (dimmOut_out hout)
    case dimmNoRoom => exact exec_retirePch_acts hr hv hk ho hlt (dimmOut_noRoom hx hin hless)
    case dimmUnknown => exact exec_retirePch_acts hr hv hk ho hlt (hd ▸ rfl)
    case dimmIn => exact hd ▸ (dimmIn_fits hs hx).imp fun _ => And.imp_left (exec_retirePch_acts hr hv hk ho hlt)
    case flashUnknown => exact exec_retirePch_acts hr hv hk ho hlt (hd ▸ rfl)
    case flashIn => exact hd ▸ (flashInto_fits hx).imp fun _ => And.imp_left (exec_retirePch_acts hr hv hk ho hlt)
    case rejected =>
      subst hd
      rcases hrej with ⟨hk, hlt, hx⟩ | ⟨hk, hlt, hx⟩
      · exact (dimmIn_rejected hx).imp fun _ => And.imp_left (exec_retirePch_acts hr hv hk ho hlt)
      · exact (flashInto_rejected hx).imp fun _ => And.imp_left (exec_retirePch_acts hr hv hk ho hlt)
    case flashAbsent => exact exec_retirePch_acts hr hv hk ho hlt (flashOutOf_out hout)
    case flashNoRoom => exact exec_retirePch_acts hr hv hk ho hlt (flashOutOf_noRoom hx hin hless)
    case flashOut => exact (flashOutOf_leaves hx hin hfits).imp fun _ => Exists.imp fun _ => And.imp_left (exec_retirePch_acts hr hv hk ho hlt)
  case record =>
    have hcount : k = windowCount s.tck (leftWaiting s.node l) e := hk
    have hbuf : (leftWaiting s.node l).svc.buffer.length < 64 := show s.node.svc.buffer.length < 64 by omega
    clear hk
    subst hsupp hcount
    refine ⟨_, exec_eventRecord (eventRecord_takes ha hroom), RecorderBlind.arrivals.takeEvent _ _ _, RecorderBlind.fe.takeEvent _ _ _, RecorderBlind.out.takeEvent _ _ _,
      fun hu hl => ?held, fun hin => ⟨fun hc hs hargs => ?recorded, fun hc => ?erasing, fun hc hs => ?full⟩⟩
    case held =>
      rw [takeEvent_held (n := leftWaiting s.node l) hu hl]
      exact ⟨rfl, rfl, mgetD_mset_self _ _ _ _⟩
    case recorded =>
      rw [takeEvent_records (n := leftWaiting s.node l) hin hc hs hargs]
      exact ⟨rfl, rfl, mgetD_mdel_self _ _ _, rfl⟩
    case erasing =>
      rw [takeEvent_buffers (n := leftWaiting s.node l) hin hc hbuf]
      exact ⟨rfl, rfl, rfl⟩
    case full =>
      rw [takeEvent_full (n := leftWaiting s.node l) hin hc hs]
      exact ⟨rd_bump_self _ _ _ (by decide), rfl, rfl⟩
  case dropped =>
    subst hroom
    have hsettled := settleEvents_drops hdrop
    refine ⟨settleEvents s.node, exec_eventRecord (eventRecord_settleEvents hdrop).symm, ?_, ?_, ?_, ?_, fun hnone => exec_eventRecord ?_⟩
    · rw [hsettled]; rfl
    · rw [hsettled]; rfl
    · rw [hsettled]; rfl
    · rw [hsettled]
      exact rd_bump_self _ _ _ (by decide)
    · rw [← eventRecord_settleEvents hdrop, eventRecord_none]
      rw [hsettled, hnone]
      rfl
  case clear => exact ⟨_, exec_evrClear hw rfl, rd_wr_self _ _ _ (by decide), rd_wr_field _ _ _ _ rfl (by decide) (by decide), rfl⟩
  case select => exact ⟨_, exec_evrRdSelWrite hw rfl, evrRdSel_slot _ _, copyWords_svc _ _ _ _, fun w hlt => evrRdSel_data hlt⟩
  case erased =>
    have hlen := clearedEvent_args_length s.tck s.node
    have hargs := slice_evrRecord_args (recorderErased s.node) (clearedEvent s.tck s.node) s.node.svc.seqNext (mgetD s.node.svc.supp evEvrCleared 0) false
      (arg := (clearedEvent s.tck s.node).args) (by rw [hlen]; decide)
    rw [hlen] at hargs
    exact ⟨_, _, exec_evrClearDone ((evrClearDone_ends hc hb ha).trans (program_short (Nat.zero_lt_succ _) (by rw [hlen]; decide))), rd_recorderErased_clearing _, rd_recorderErased_dropped _, rfl,
      field_evrRecord_code _ _ _ _ _ _, hargs, field_evrRecord_seq _ _ _ _ _ _, rfl⟩

end Sys2Proof.Machine
end

section
/-! The CXL directory: head masks, what waits for nothing, what a pump serves, how a request is answered (R276, R279 to R284). -/

namespace Sys2Proof.Machine

section

/-! ## Head masks -/

theorem bitAt_zero (i : Nat) : bitAt 0 i = false := by simp [bitAt]

theorem bitAt_two_pow (a i : Nat) : bitAt (2 ^ a) i = decide (i = a) := by
  simpa [bitAt_zero] using bitAt_add_two_pow (bitAt_zero a) i

theorem bitAt_andMask (a b i : Nat) : bitAt (andMask a b) i = (decide (i < 4) && (bitAt a i && bitAt b i)) := by
  simp [andMask, bitAt_maskOf]

theorem bitAt_orMask (a b i : Nat) : bitAt (orMask a b) i = (decide (i < 4) && (bitAt a i || bitAt b i)) := by
  simp [orMask, bitAt_maskOf]

theorem andMask_zero (a : Nat) : andMask a 0 = 0 := by simp [andMask, bitAt_zero, maskOf]

/-- A mask of heads joined to none is itself. -/
theorem orMask_zero_andMask (a b : Nat) : orMask 0 (andMask a b) = andMask a b := by
  refine congrArg maskOf (List.filter_congr fun i hi => ?_)
  simp [bitAt_zero, bitAt_andMask, List.mem_range.mp hi]

theorem bitList_zero (k : Nat) : bitList k 0 = [] := by simp [bitList, bitAt_zero]

theorem ne_zero_of_bitAt {v i : Nat} (h : bitAt v i = true) : v ≠ 0 := by
  rintro rfl
  rw [bitAt_zero] at h
  cases h

theorem bitList_two_pow (g : Fin 4) : bitList 4 (2 ^ g.val) = [g.val] := by revert g; decide

variable {t : Tck} {n m : Node} {q : CxlReq}

/-- Messages sent one after another stand last in what the node has sent. -/
theorem foldl_emit {α : Type} (o : α → Out) (l : List α) (n : Node) : l.foldl (fun m x => emit m (o x)) n = { n with out := n.out ++ l.map o } := by
  induction l generalizing n with
  | nil => simp
  | cons x l ih => rw [List.foldl_cons, ih]; simp [emit]

/-! ## The directory at rest -/

/-- With no release draining, nothing is recalled (R287). -/
theorem recallRevoking_settled (h : ∀ e, (extentOf n e).revoking = 0) : recallRevoking t n = n := by
  refine List.foldl_fixed' (fun e => ?_) _
  simp only [h, andMask_zero, bitList_zero, List.foldl_nil]

theorem recallRevoking_no_copy (h : n.cxd.dir = []) : recallRevoking t n = n := by
  rw [recallRevoking, h, List.foldl_nil]

theorem publishGoOn_none (h : n.cxd.pub = none) : publishGoOn t n = n := by
  rw [publishGoOn, h]

theorem pump_rests (hrev : recallRevoking t n = n) (hreqs : n.cxd.reqs = []) (hpub : n.cxd.pub = none) : pump t n = n := by
  simp only [pump, hrev, hreqs, serveAll, publishGoOn_none hpub]

/-- A request not paid for waits (R283). -/
theorem pump_unpaid (hrev : recallRevoking t n = n) (hreqs : n.cxd.reqs = [q]) (hpaid : q.paid = false) (hpub : n.cxd.pub = none) : pump t n = n := by
  simp only [pump, hrev, hreqs, serveAll, hpaid, Bool.not_false, Bool.true_or, if_true, publishGoOn_none hpub]

/-- The only request, served, leaves (R279). -/
theorem pump_served (hrev : recallRevoking t n = n) (hreqs : n.cxd.reqs = [q]) (hpaid : q.paid = true) (hs : serve t n q = (m, true)) (hm : m.cxd.reqs = [q]) (hpub : m.cxd.pub = none) :
    pump t n = { m with cxd := { m.cxd with reqs := [] } } := by
  simp only [pump, hrev, hreqs, serveAll, hpaid, hs, hm, List.erase_cons_head, List.contains_nil, Bool.not_true, Bool.or_self, Bool.false_eq_true, if_true, if_false]
  exact publishGoOn_none hpub

/-- The only request, while it waits for snoops, stays (R279). -/
theorem pump_snooping (hrev : recallRevoking t n = n) (hreqs : n.cxd.reqs = [q]) (hpaid : q.paid = true) (hs : serve t n q = (m, false)) (hpub : m.cxd.pub = none) :
    pump t n = m := by
  simp only [pump, hrev, hreqs, serveAll, hpaid, hs, List.contains_nil, Bool.not_true, Bool.or_self, Bool.false_eq_true, if_false, publishGoOn_none hpub]

/-! ## Answers (R276, R284) -/

/-- The answer to a request. -/
def reply (q : CxlReq) (data : Bytes) (poison : Bool) (v : Nat) : Out :=
  if q.kind = 3 then .cxlDone q.head q.dpa v else .cxlData q.head q.dpa data poison v

theorem bucketLoad_shape (t : Tck) (n : Node) (h : Nat) : ∃ v k, v ≤ 3 ∧ bucketLoad t n h = (v, { n with freeCtr := k }) := by
  unfold bucketLoad takeFree
  extract_lets
  split
  · exact ⟨0, n.freeCtr, by decide, rfl⟩
  split
  · exact ⟨1, n.freeCtr, by decide, rfl⟩
  split
  · exact ⟨2, n.freeCtr, by decide, rfl⟩
  split
  · exact ⟨3, n.freeCtr, by decide, rfl⟩
  · exact ⟨_, _, Nat.le_of_lt_succ (Nat.mod_lt _ (by decide)), rfl⟩

theorem queueLoad_le (n : Node) : queueLoad n ≤ 3 := by
  unfold queueLoad
  extract_lets
  split_ifs <;> decide

/-- An answer sends its message with a load index of 0 to 3 and leaves the index in its register; nothing else but the free values changes. -/
theorem answer_shape (t : Tck) (n : Node) (q : CxlReq) (data : Bytes) (poison : Bool) :
    ∃ v k, v ≤ 3 ∧ answer t n q data poison = emit (wr { n with freeCtr := k } (Rg.cxdHostStatusLoad q.head) v) (reply q data poison v) := by
  obtain ⟨v, k, hv, hb⟩ := bucketLoad_shape t n q.head
  refine ⟨max v (queueLoad n), k, Nat.max_le.mpr ⟨hv, queueLoad_le _⟩, ?_⟩
  simp only [answer, devLoad, hb, reply]

/-! ## Serving the only request (R276, R279) -/

theorem serve_denied (h : q.deny ≠ 0) : serve t n q = (refuseReq t n q q.deny, true) := if_pos (by simpa using h)

/-- A request waits for nothing: no snoop of its line is out, no other head's copy stands against it, and no entry has to make room (R279). -/
structure Unhindered (n : Node) (q : CxlReq) : Prop where
  snoop : lineSnooped n (q.dpa / 64) = false
  copies : needs n q = []
  room : wanted n q = 0 ∨ victim n (q.dpa / 64) = none

theorem serve_finishes (hd : q.deny = 0) (hu : Unhindered n q) : serve t n q = (finish t n q, true) := by
  obtain ⟨hsnoop, hcopies, hroom⟩ := hu
  have hd' : (q.deny != 0) = false := by simp [hd]
  simp only [serve, hd', hsnoop, hcopies, List.isEmpty_nil, Bool.not_true, Bool.false_eq_true, if_false]
  rcases hroom with hw | hv
  · rw [if_pos hw]
  · rw [hv]
    exact ite_self _

theorem serve_snoops {g : Nat} {inv : Bool} (hd : q.deny = 0) (hsnoop : lineSnooped n (q.dpa / 64) = false) (hneeds : needs n q = [(g, inv)]) :
    serve t n q = (sendSnoop t n (q.dpa / 64) g inv, false) := by
  have hd' : (q.deny != 0) = false := by simp [hd]
  simp only [serve, hd', hsnoop, hneeds, List.isEmpty_cons, Bool.not_false, Bool.false_eq_true, if_true, if_false, List.foldl_cons, List.foldl_nil]

/-- A snoop of a line of which none is out is sent and counted (R279, R282). -/
theorem sendSnoop_sends {line : Nat} (h : lineSnooped n line = false) (g : Nat) (inv : Bool) : sendSnoop t n line g inv =
    pmc (bump (emit { n with cxd := { n.cxd with snoops := n.cxd.snoops ++ [⟨line, g, inv, t.notches⟩] } } (.biSnp g line inv)) Rg.cxdRecallsCount 1) 50 0x4003 1 := by
  have hs : snooped n line g = false := by
    simp only [lineSnooped, List.any_eq_false] at h
    simp only [snooped, List.any_eq_false, Bool.and_eq_true, not_and]
    exact fun x hx hl => absurd hl (h x hx)
  simp only [sendSnoop, hs, Bool.false_eq_true, if_false]

/-! ## Credit (R283) -/

/-- A head whose bucket has paid for one request. -/
def charged (t : Tck) (n : Node) (h : Nat) : HeadSt :=
  let x := filledHead t n h
  { x with credit := if rd n (Rg.cxdHostLimitRate h) = 0 then x.credit else x.credit - 256 }

/-- The node whose only request is a head's, paid for. -/
def paidFor (t : Tck) (n : Node) (q : CxlReq) : Node :=
  { n with cxd := { n.cxd with reqs := [{ q with paid := true }], heads := mset n.cxd.heads q.head (charged t n q.head) } }

theorem payHead_pays (hreqs : n.cxd.reqs = [q]) (hun : q.paid = false) (hc : rd n (Rg.cxdHostLimitRate q.head) = 0 ∨ 256 ≤ (filledHead t n q.head).credit) :
    payHead t n q.head = paidFor t n q := by
  have hmine : (q.head != q.head || q.paid) = false := by simp [hun]
  by_cases hr : rd n (Rg.cxdHostLimitRate q.head) = 0
  · simp only [payHead, hreqs, payList, hmine, hr, Bool.false_eq_true, if_true, if_false, paidFor, charged, setHead]
  · simp only [payHead, hreqs, payList, hmine, hr, hc.resolve_left hr, Bool.false_eq_true, if_true, if_false, paidFor, charged, setHead]

theorem payHead_short (hreqs : n.cxd.reqs = [q]) (hun : q.paid = false) (hr : rd n (Rg.cxdHostLimitRate q.head) ≠ 0) (hc : (filledHead t n q.head).credit < 256) :
    payHead t n q.head = setHead n q.head (filledHead t n q.head) := by
  have hmine : (q.head != q.head || q.paid) = false := by simp [hun]
  simp only [payHead, hreqs, payList, hmine, hr, Nat.not_le.mpr hc, Bool.false_eq_true, if_false]
  rw [← hreqs]

theorem headOf_setHead (n : Node) (h : Nat) (x : HeadSt) : headOf (setHead n h x) h = x := mgetD_mset_self _ _ _ _

/-! ## Requests received (R276, R279) -/

/-- A head's request with the status it is refused with. -/
def judged (n : Node) (q : CxlReq) : CxlReq := { q with deny := denyOf n q.head q.kind q.dpa }

/-- A linked head that is not lost asks an idle directory, and its bucket, if it has one, pays for the request at once (R283, R290). -/
structure Asks (t : Tck) (n : Node) (q : CxlReq) : Prop where
  idle : CxdIdle n
  link : (headOf n q.head).link = true
  present : headIsLost n q.head = false
  unpaid : q.paid = false
  credit : rd n (Rg.cxdHostLimitRate q.head) = 0 ∨ 256 ≤ (filledHead t n q.head).credit

theorem receive_pumps (ha : Asks t n q) : receive t n q = pump t (paidFor t n (judged n q)) := by
  obtain ⟨⟨hreqs, -, -⟩, hlink, hlost, hun, hc⟩ := ha
  have hpay : payHead t { n with cxd := { n.cxd with reqs := [judged n q] } } q.head = paidFor t n (judged n q) :=
    payHead_pays (n := { n with cxd := { n.cxd with reqs := [judged n q] } }) (q := judged n q) rfl hun hc
  simp only [receive, hlink, hlost, hreqs, List.nil_append, Bool.not_true, Bool.false_eq_true, if_false]
  exact congrArg (pump t) hpay

theorem recallRevoking_paidFor (h : ∀ e, (extentOf n e).revoking = 0) : recallRevoking t (paidFor t n q) = paidFor t n q :=
  recallRevoking_settled fun e => h e

/-- The only request, paid for, is answered and leaves. -/
theorem pump_paidFor_served (hrev : ∀ e, (extentOf n e).revoking = 0) (hs : serve t (paidFor t n q) { q with paid := true } = (m, true))
    (hm : m.cxd.reqs = [{ q with paid := true }]) (hpub : m.cxd.pub = none) : pump t (paidFor t n q) = { m with cxd := { m.cxd with reqs := [] } } :=
  pump_served (recallRevoking_paidFor hrev) rfl rfl hs hm hpub

end

end Sys2Proof.Machine
end

section
/-! Requests of hosts: refused, read, written, made to wait for snoops or for credit; lines written back (R276, R279, R281 to R284, R286). -/

namespace Sys2Proof.Machine

section

variable {t : Tck} {n X : Node} {s : State} {q : CxlReq}

/-! ## The commands -/

theorem exec_cxlRead {h : Fin 4} {kind : Fin 3} {dpa : BitVec 52} (hq : q = ⟨h.val, kind.val, dpa.toNat / 64 * 64, [], 0, false, false, 0, []⟩) :
    exec (.cxlRead h kind dpa []) s = .next (s.withNode (receive s.tck s.node q)) := by
  refine onNode_eq ?_
  rw [cxlRead, hq, Nat.min_eq_left (by omega)]

theorem exec_cxlWrite {h : Fin 4} {dpa : BitVec 52} {data : Bytes} {keep : Fin 3} (hlen : data.length ≤ 64 - dpa.toNat % 64)
    (hq : q = ⟨h.val, 3, dpa.toNat, data, keep.val, false, false, 0, []⟩) :
    exec (.cxlWrite h dpa data false keep) s = .next (s.withNode (receive s.tck s.node q)) := by
  refine onNode_eq ?_
  rw [cxlWrite, hq, Nat.min_eq_left (by omega), List.take_of_length_le hlen]

theorem exec_bisnpResponse {h : Fin 4} {line : Nat} {data : Option (Bytes × Bool)} (e : bisnpResponse h.val line data s.tck s.node = X) :
    exec (.bisnpResponse h line data) s = .next (s.withNode X) := onNode_eq e

theorem exec_tokenBucketCredit {h : Fin 4} (hh : q.head = h.val) : exec (.tokenBucketCredit h) s = .next (s.withNode (bucketCredit q.head s.tck s.node)) := hh ▸ rfl

/-! ## A request answered -/

theorem reply_read (hk : q.kind ≠ 3) (data : Bytes) (p : Bool) (v : Nat) : reply q data p v = .cxlData q.head q.dpa data p v := if_neg hk
theorem reply_write (hk : q.kind = 3) (data : Bytes) (p : Bool) (v : Nat) : reply q data p v = .cxlDone q.head q.dpa v := if_pos hk

/-- The node once the only request of `X` has been answered with a load index. -/
def answered (X : Node) (q : CxlReq) (v k : Nat) (o : Out) : Node :=
  { emit (wr { X with freeCtr := k } (Rg.cxdHostStatusLoad q.head) v) o with cxd := { X.cxd with reqs := [] } }

theorem rd_answered {v k : Nat} {o : Out} {f : Fld} (hf : f.off ≠ (Rg.cxdHostStatusLoad q.head).off) : rd (answered X q v k o) f = rd X f :=
  rd_wr_off { X with freeCtr := k } _ f v hf

/-- The only request, paid for and served with an answer, leaves. -/
theorem paidFor_answers {data : Bytes} {p : Bool} (hrev : ∀ e, (extentOf n e).revoking = 0)
    (hs : serve t (paidFor t n q) { q with paid := true } = (answer t X { q with paid := true } data p, true))
    (hreqs : X.cxd.reqs = [{ q with paid := true }]) (hpub : X.cxd.pub = none) :
    ∃ v k, v ≤ 3 ∧ pump t (paidFor t n q) = answered X q v k (reply q data p v) := by
  obtain ⟨v, k, hv, he⟩ := answer_shape t X { q with paid := true } data p
  rw [he] at hs
  exact ⟨v, k, hv, pump_paidFor_served hrev hs hreqs hpub⟩

/-! ## Refusals (R276) -/

/-- The node with a refused request logged. -/
def refusalLogged (n : Node) (q : CxlReq) (status : Nat) : Node :=
  wr (wr (wr (bump n (Rg.cxdHostErrCount q.head) 1) (Rg.cxdHostErrStatus q.head) status) (Rg.cxdHostErrLoDpaLo q.head) (q.dpa % 2 ^ 32)) (Rg.cxdHostErrHiDpaHi q.head)
    (q.dpa / 2 ^ 32)

theorem rd_refusalLogged_status (n : Node) (q : CxlReq) (status : Nat) : rd (refusalLogged n q status) (Rg.cxdHostErrStatus q.head) = status % 2 ^ 16 := by
  rw [refusalLogged, rd_wr_off _ _ _ _ (by simp), rd_wr_off _ _ _ _ (by simp), rd_wr_self _ _ _ (by simp)]

theorem rd_refusalLogged_count (n : Node) (q : CxlReq) (status : Nat) :
    rd (refusalLogged n q status) (Rg.cxdHostErrCount q.head) = satTo 16 (rd n (Rg.cxdHostErrCount q.head) + 1) := by
  rw [refusalLogged, rd_wr_off _ _ _ _ (by simp), rd_wr_off _ _ _ _ (by simp), rd_wr_field _ (Rg.cxdHostErrStatus q.head) (Rg.cxdHostErrCount q.head) _ rfl (by simp) (by simp),
    rd_bump_self _ _ _ (by simp)]

/-- The registers of a refusal are not the register of the load index. -/
theorem hostErr_ne_load {h : Nat} (hh : h < 4) : (Rg.cxdHostErrStatus h).off ≠ (Rg.cxdHostStatusLoad h).off := by
  simp only []
  omega

/-- A request that its head may not make is answered with zero and poison, or completed, and logged; memory and directory stay as they are. -/
theorem receive_refuses (ha : Asks t n q) (hh : q.head < 4) (hd : denyOf n q.head q.kind q.dpa ≠ 0) :
    ∃ v ≤ 3, (receive t n q).out = n.out ++ [reply q (zeros 64) true v] ∧ (receive t n q).cxd.dir = n.cxd.dir ∧ (receive t n q).cxd.direct = n.cxd.direct
      ∧ (receive t n q).t1 = n.t1 ∧ (receive t n q).cxd.reqs = [] ∧ rd (receive t n q) (Rg.cxdHostErrStatus q.head) = denyOf n q.head q.kind q.dpa % 2 ^ 16
      ∧ rd (receive t n q) (Rg.cxdHostErrCount q.head) = satTo 16 (rd n (Rg.cxdHostErrCount q.head) + 1) := by
  obtain ⟨hreqs, hpub, hrev⟩ := ha.idle
  obtain ⟨v, k, hv, e⟩ := paidFor_answers (t := t) (q := judged n q) hrev (serve_denied hd) rfl hpub
  have hX : receive t n q = answered (refusalLogged (paidFor t n (judged n q)) q (denyOf n q.head q.kind q.dpa)) q v k (reply q (zeros 64) true v) := (receive_pumps ha).trans e
  rw [hX]
  exact ⟨v, hv, rfl, rfl, rfl, rfl, rfl, (rd_answered (hostErr_ne_load hh)).trans (rd_refusalLogged_status _ _ _),
    (rd_answered (f := Rg.cxdHostErrCount q.head) (hostErr_ne_load hh)).trans (rd_refusalLogged_count _ _ _)⟩

/-! ## Reads (R279, R281) -/

theorem judged_allowed (hd : denyOf n q.head q.kind q.dpa = 0) (h0 : q.deny = 0) : judged n q = q := by
  rw [judged, hd, ← h0]

/-- What a read answers: the line, or zero where it bears poison. -/
def lineData (n : Node) (dpa : Nat) : Bytes := if (cxPoison n dpa).isSome then zeros 64 else cxBytes n (dpa / 64 * 64) 64

/-- The heads that hold a line. -/
def holders (n : Node) (line : Nat) : Nat := match mget? n.cxd.dir line with
  | some e => e.heads
  | none => 0

/-- The node with a reader entered in the directory, as it asks and may (R278, R279). -/
def readerEntered (n : Node) (q : CxlReq) : Node :=
  if wanted n q = 0 then n
  else setDir n (q.dpa / 64) (wanted n q == 2) (if wanted n q = 2 then 2 ^ q.head else orMask (holders n (q.dpa / 64)) (2 ^ q.head))

theorem mget?_setDir {line heads : Nat} {excl : Bool} (h : heads ≠ 0) : mget? (setDir n line excl heads).cxd.dir line = some ⟨excl, heads, n.cxd.dirSeq⟩ := by
  simp only [setDir, if_neg h, mget?_mset_self]

theorem cxDecode_clean (t : Tck) (n : Node) (dpa : Nat) : cxDecode t n dpa [] = n := by
  have hboard : ∀ b, boardRead t n b [] = n := fun b => by simp [boardRead, burstRead]
  have hdec : ∀ o, fullDecode o [] = .clean := fun o => by cases o <;> rfl
  unfold cxDecode ctrlRead
  simp only [hboard, hdec, staysPoison, List.length_nil, Nat.zero_le, decide_true, if_true, ite_self]

theorem finish_reads (hk : q.kind ≠ 3) (he : q.errs = []) : finish t n q = answer t (readerEntered n q) q (lineData n q.dpa) (cxPoison n q.dpa).isSome := by
  rw [finish, if_neg hk, he, cxDecode_clean]
  rfl

theorem resolve_of_exts {m : Node} (h : m.cxd.exts = n.cxd.exts) (a : Nat) : resolve m a = resolve n a := by
  simp only [resolve, extOfName, h]

theorem nameRead_of_exts {m : Node} (ht : m.t1 = n.t1) (h : m.cxd.exts = n.cxd.exts) (k a : Nat) : nameRead m a k = nameRead n a k := by
  induction k generalizing a with
  | zero => rfl
  | succ k ih => rw [nameRead, nameRead, ih, ht, resolve_of_exts h]

theorem lineData_paidFor (t : Tck) (n : Node) (q : CxlReq) (dpa : Nat) : lineData (paidFor t n q) dpa = lineData n dpa := by
  have hread := nameRead_of_exts (m := paidFor t n q) (n := n) rfl rfl 64 (dpa / 64 * 64)
  rw [lineData, cxBytes, hread]
  rfl

/-- Entering a reader changes the lines' entries alone. -/
theorem readerEntered_frame {β : Type} (g : Node → β) (hg : ∀ d k, g { n with cxd := { n.cxd with dir := d, dirSeq := k } } = g n) : g (readerEntered n q) = g n := by
  unfold readerEntered
  split
  · rfl
  · exact hg _ _

theorem readerEntered_none (h : wanted n q = 0) : readerEntered n q = n := if_pos h

theorem readerEntered_excl (h : wanted n q = 2) : mget? (readerEntered n q).cxd.dir (q.dpa / 64) = some ⟨true, 2 ^ q.head, n.cxd.dirSeq⟩ := by
  rw [readerEntered, h, if_neg (by decide), if_pos rfl, mget?_setDir (Nat.two_pow_pos _).ne']
  rfl

theorem orMask_head_ne_zero (a : Nat) (h : Fin 4) : orMask a (2 ^ h.val) ≠ 0 :=
  ne_zero_of_bitAt (i := h.val) (by simp [bitAt_orMask, bitAt_two_pow])

theorem readerEntered_shared {h : Fin 4} {x : DirEnt} (hh : q.head = h.val) (hw : wanted n q = 1) (hx : mget? n.cxd.dir (q.dpa / 64) = some x) :
    mget? (readerEntered n q).cxd.dir (q.dpa / 64) = some ⟨false, orMask x.heads (2 ^ h.val), n.cxd.dirSeq⟩ := by
  rw [readerEntered, hw, if_neg (by decide), if_neg (by decide), hh, mget?_setDir (orMask_head_ne_zero _ h), holders, hx]
  rfl

/-- A read that waits for nothing is answered with the line, and its head entered (R279). -/
theorem paidFor_reads (hrev : ∀ e, (extentOf n e).revoking = 0) (hpub : n.cxd.pub = none) (hd : q.deny = 0) (hu : Unhindered n q) (hk : q.kind ≠ 3) (he : q.errs = []) :
    ∃ v k, v ≤ 3 ∧ pump t (paidFor t n q) = answered (readerEntered (paidFor t n q) q) q v k (reply q (lineData n q.dpa) (cxPoison n q.dpa).isSome v) := by
  have hs := serve_finishes (t := t) (n := paidFor t n q) (q := { q with paid := true }) hd ⟨hu.snoop, hu.copies, hu.room⟩
  rw [finish_reads (q := { q with paid := true }) hk he, lineData_paidFor] at hs
  exact paidFor_answers hrev hs (readerEntered_frame (·.cxd.reqs) fun _ _ => rfl) ((readerEntered_frame (·.cxd.pub) fun _ _ => rfl).trans hpub)

/-- The same for a read just received: memory and the rest of the directory stay as they are. -/
theorem receive_reads {h : Fin 4} (ha : Asks t n q) (hd : denyOf n q.head q.kind q.dpa = 0) (h0 : q.deny = 0) (hu : Unhindered n q) (hh : q.head = h.val) (hk : q.kind ≠ 3)
    (he : q.errs = []) :
    ∃ v ≤ 3, (receive t n q).out = n.out ++ [reply q (lineData n q.dpa) (cxPoison n q.dpa).isSome v]
      ∧ (receive t n q).cxd.direct = n.cxd.direct ∧ (receive t n q).t1 = n.t1 ∧ (receive t n q).cxd.reqs = [] ∧ (wanted n q = 0 → (receive t n q).cxd.dir = n.cxd.dir)
      ∧ (wanted n q = 2 → mget? (receive t n q).cxd.dir (q.dpa / 64) = some ⟨true, 2 ^ h.val, n.cxd.dirSeq⟩)
      ∧ (wanted n q = 1 → ∀ x, mget? n.cxd.dir (q.dpa / 64) = some x → mget? (receive t n q).cxd.dir (q.dpa / 64) = some ⟨false, orMask x.heads (2 ^ h.val), n.cxd.dirSeq⟩) := by
  obtain ⟨hreqs, hpub, hrev⟩ := ha.idle
  obtain ⟨v, k, hv, e⟩ := paidFor_reads (t := t) hrev hpub h0 hu hk he
  rw [receive_pumps ha, judged_allowed hd h0, e]
  refine ⟨v, hv, congrArg (· ++ _) (readerEntered_frame (·.out) fun _ _ => rfl), readerEntered_frame (·.cxd.direct) fun _ _ => rfl, readerEntered_frame (·.t1) fun _ _ => rfl, rfl,
     fun hw => ?_, fun hw => ?_, fun hw x hx => ?_⟩
  · exact congrArg (·.cxd.dir) (readerEntered_none (n := paidFor t n q) hw)
  · exact hh ▸ readerEntered_excl (n := paidFor t n q) hw
  · exact readerEntered_shared (n := paidFor t n q) hh hw hx

/-- A read of a line that another head holds in E recalls it from that head (R279). -/
theorem needs_owned {g u : Nat} (hk : q.kind ≠ 3) (hl : bitList 4 (2 ^ g) = [g]) (hx : mget? n.cxd.dir (q.dpa / 64) = some ⟨true, 2 ^ g, u⟩) (hg : g ≠ q.head) :
    needs n q = [(g, wanted n q == 2)] := by
  simp [needs, hx, hl, hg, hk]

/-- Such a read waits for its snoop, which is sent and counted. -/
theorem receive_snoops {g : Fin 4} {u : Nat} (ha : Asks t n q) (hd : denyOf n q.head q.kind q.dpa = 0) (h0 : q.deny = 0) (hk : q.kind ≠ 3)
    (hs : lineSnooped n (q.dpa / 64) = false) (hx : mget? n.cxd.dir (q.dpa / 64) = some ⟨true, 2 ^ g.val, u⟩) (hg : g.val ≠ q.head) :
    (receive t n q).cxd.snoops = n.cxd.snoops ++ [⟨q.dpa / 64, g.val, wanted n q == 2, t.notches⟩]
      ∧ (receive t n q).out = n.out ++ [.biSnp g.val (q.dpa / 64) (wanted n q == 2)] ∧ (receive t n q).cxd.reqs = [{ q with paid := true }]
      ∧ rd (receive t n q) Rg.cxdRecallsCount = satTo 32 (rd n Rg.cxdRecallsCount + 1) := by
  obtain ⟨hreqs, hpub, hrev⟩ := ha.idle
  have hserve := serve_snoops (t := t) (n := paidFor t n q) (q := { q with paid := true }) h0 hs (needs_owned hk (bitList_two_pow g) hx hg)
  rw [sendSnoop_sends (n := paidFor t n q) hs] at hserve
  rw [receive_pumps ha, judged_allowed hd h0, pump_snooping (recallRevoking_paidFor hrev) rfl rfl hserve (by rw [pmc_cxd]; exact hpub)]
  refine ⟨by rw [pmc_cxd]; rfl, by rw [pmc_out]; rfl, by rw [pmc_cxd]; rfl, ?_⟩
  rw [rd_pmc_low _ _ _ _ _ (by decide), rd_bump_self _ _ _ (by decide)]
  rfl

/-! ## Writes (R279, R280) -/

theorem finish_writes (hk : q.kind = 3) (hp : q.poison = false) : finish t n q =
    answer t (setDir (cxWrite t n q.dpa q.data) (q.dpa / 64) (wanted n q == 2) (if wanted n q = 0 then 0 else 2 ^ q.head)) q [] false := by
  rw [finish, if_pos hk, hp, if_neg Bool.false_ne_true]

/-- A write that waits for nothing writes its bytes and completes, and the writer keeps the state it asks for. -/
theorem receive_writes (ha : Asks t n q) (hd : denyOf n q.head q.kind q.dpa = 0) (h0 : q.deny = 0) (hu : Unhindered n q) (hk : q.kind = 3) (hp : q.poison = false)
    (hX : cxWrite t (paidFor t n q) q.dpa q.data = X) (hreqs : X.cxd.reqs = [{ q with paid := true }]) (hpub : X.cxd.pub = none) :
    ∃ v ≤ 3, (receive t n q).out = X.out ++ [.cxlDone q.head q.dpa v] ∧ (receive t n q).t1 = X.t1 ∧ (receive t n q).cxd.direct = X.cxd.direct ∧ (receive t n q).cxd.reqs = []
      ∧ (wanted n q ≠ 0 → mget? (receive t n q).cxd.dir (q.dpa / 64) = some ⟨wanted n q == 2, 2 ^ q.head, X.cxd.dirSeq⟩) := by
  obtain ⟨-, -, hrev⟩ := ha.idle
  have hs := serve_finishes (t := t) (n := paidFor t n q) (q := { q with paid := true }) h0 ⟨hu.snoop, hu.copies, hu.room⟩
  rw [finish_writes (q := { q with paid := true }) hk hp, hX] at hs
  obtain ⟨v, k, hv, e⟩ := paidFor_answers hrev hs hreqs hpub
  rw [receive_pumps ha, judged_allowed hd h0, e, reply_write hk]
  refine ⟨v, hv, rfl, rfl, rfl, rfl, fun hw => ?_⟩
  exact (congrArg (fun k => mget? (setDir X (q.dpa / 64) (wanted n q == 2) k).cxd.dir (q.dpa / 64)) (if_neg hw)).trans (mget?_setDir (Nat.two_pow_pos _).ne')

theorem cxWrite_direct {dpa : Nat} {b : Bytes} (hr : region1 ≤ dpa) (hp : mhas n.mic.poisonD ((dpa - region1) / 64 * 64) = false) :
    cxWrite t n dpa b = { n with cxd := { n.cxd with direct := Mem.write 0 n.cxd.direct (dpa - region1) b } } := by
  simp only [cxWrite, Nat.not_lt.mpr hr, directWrite, hp, Bool.false_eq_true, if_false]

/-- Raised versions change sequences and record events, and nothing else (R90). -/
theorem bumpVersions_shape (t : Tck) (n : Node) (a len : Nat) : ∃ sq sv, bumpVersions t n a len = { n with seqs := sq, svc := sv } := by
  unfold bumpVersions
  generalize marked n a len = l
  induction l generalizing n with
  | nil => exact ⟨n.seqs, n.svc, rfl⟩
  | cons b l ih => exact ih (bumpVersion t a n b)

theorem lineWrite_clean {a : Nat} {b : Bytes} (hb : bsuOwned n a = false) (hr : n.mic.retired.contains (pchOf a) = false) (hp : mget? n.mic.poison (a / 64 * 64) = none) :
    (lineWrite t n a b).1 = { n with t1 := Mem.write 0 n.t1 a b } := by
  simp only [lineWrite, hb, hr, hp, Bool.false_eq_true, if_false]

/-- Bytes within a line are one part. -/
theorem nameWrite_within_line {a : Nat} {b : Bytes} (h0 : b ≠ []) (hlen : b.length ≤ 64 - a % 64) : nameWrite t n a b = (lineWrite t n (resolve n a) b).1 := by
  have hparts : lineParts (b.length / 64 + 2) a b = [(a, b)] := by
    simp [lineParts, h0, List.take_of_length_le hlen, List.drop_eq_nil_of_le hlen]
  rw [nameWrite, hparts, List.foldl_cons, List.foldl_nil]

theorem cxWrite_region0 {dpa : Nat} {b : Bytes} (hr : dpa < region1) (h0 : b ≠ []) (hlen : b.length ≤ 64 - dpa % 64) (hb : bsuOwned n (resolve n dpa) = false)
    (hret : n.mic.retired.contains (pchOf (resolve n dpa)) = false) (hp : mget? n.mic.poison (resolve n dpa / 64 * 64) = none) :
    ∃ sq sv, cxWrite t n dpa b = { n with seqs := sq, svc := sv, t1 := Mem.write 0 n.t1 (resolve n dpa) b } := by
  obtain ⟨sq, sv, e⟩ := bumpVersions_shape t n dpa b.length
  refine ⟨sq, sv, ?_⟩
  rw [cxWrite, if_pos hr, e, nameWrite_within_line h0 hlen]
  exact lineWrite_clean (n := { n with seqs := sq, svc := sv }) hb hret hp

/-! ## Snoop responses (R279, R282) -/

/-- The node with a modified line back in memory. -/
def lineBack (n : Node) (line : Nat) (b : Bytes) : Node :=
  if 64 * line < region1 then
    { n with t1 := Mem.write 0 n.t1 (resolve n (64 * line)) b, mic := { n.mic with poison := mdel n.mic.poison (resolve n (64 * line)) } }
  else directWrite n (64 * line - region1) b

theorem directWrite_line {o : Nat} {b : Bytes} (hb : b.length = 64) :
    ∃ p, directWrite n o b = { n with cxd := { n.cxd with direct := Mem.write 0 n.cxd.direct o b }, mic := p } := by
  by_cases h : mhas n.mic.poisonD (o / 64 * 64) = true
  · simp only [directWrite, h, hb, if_true]
    exact ⟨_, rfl⟩
  · simp only [directWrite, h, Bool.false_eq_true, if_false]
    exact ⟨n.mic, rfl⟩

/-- A line written back changes its bytes, where they lie, and their poison alone. -/
theorem lineBack_shape (n : Node) (line : Nat) {b : Bytes} (hb : b.length = 64) :
    ∃ x y p, lineBack n line b = { n with t1 := x, cxd := { n.cxd with direct := y }, mic := p }
      ∧ (64 * line < region1 → x = Mem.write 0 n.t1 (resolve n (64 * line)) b) ∧ (region1 ≤ 64 * line → y = Mem.write 0 n.cxd.direct (64 * line - region1) b) := by
  by_cases hr : 64 * line < region1
  · exact ⟨_, n.cxd.direct, _, if_pos hr, fun _ => rfl, fun hn => absurd hr (Nat.not_lt.mpr hn)⟩
  · obtain ⟨p, e⟩ := directWrite_line (n := n) (o := 64 * line - region1) hb
    exact ⟨n.t1, _, p, (if_neg hr).trans e, fun hn => absurd hn hr, fun _ => rfl⟩

theorem padTo_whole {b : Bytes} (h : b.length = 64) : padTo 64 b = b := by
  simp [padTo, h, List.take_of_length_le]

/-- A response with data from the head that holds the line in E writes the line back and settles the copy. -/
theorem bisnpResponse_owned {h line : Nat} {b : Bytes} {x : Snoop} {e : DirEnt} (hb : b.length = 64) (hx : n.cxd.snoops.find? (fun y => y.line == line && y.head == h) = some x)
    (he : mget? n.cxd.dir line = some e) (hexcl : e.excl = true) (hheld : bitAt e.heads h = true) :
    bisnpResponse h line (some (b, false)) t n = pump t (settleCopy (lineBack { n with cxd := { n.cxd with snoops := n.cxd.snoops.erase x } } line b) x) := by
  simp only [bisnpResponse, hx, he, hexcl, hheld, padTo_whole hb, Bool.and_self, Bool.not_true, Bool.false_eq_true, if_false, lineBack]

/-- A copy that its snoop leaves stays in S. -/
theorem settleCopy_stays {x : Snoop} {e : DirEnt} (he : mget? n.cxd.dir x.line = some e) (hinv : x.inv = false) (h0 : e.heads ≠ 0) :
    settleCopy n x = { n with cxd := { n.cxd with dir := mset n.cxd.dir x.line ⟨false, e.heads, e.used⟩ } } := by
  simp only [settleCopy, he, hinv, h0, Bool.false_eq_true, if_false]

theorem bisnpResponse_writesBack {h line : Nat} {b : Bytes} {x : Snoop} {e : DirEnt} (hidle : CxdIdle n) (hb : b.length = 64)
    (hx : n.cxd.snoops.find? (fun y => y.line == line && y.head == h) = some x) (he : mget? n.cxd.dir line = some e) (hexcl : e.excl = true) (hheld : bitAt e.heads h = true)
    (hinv : x.inv = false) (h0 : e.heads ≠ 0) (hX : bisnpResponse h line (some (b, false)) t n = X) :
    X.cxd.snoops = n.cxd.snoops.erase x ∧ mget? X.cxd.dir line = some ⟨false, e.heads, e.used⟩
      ∧ (64 * line < region1 → X.t1 = Mem.write 0 n.t1 (resolve n (64 * line)) b) ∧ (region1 ≤ 64 * line → X.cxd.direct = Mem.write 0 n.cxd.direct (64 * line - region1) b) := by
  obtain ⟨hreqs, hpub, hrev⟩ := hidle
  have hline : x.line = line := by
    have hfound := List.find?_some hx
    simp only [Bool.and_eq_true, beq_iff_eq] at hfound
    exact hfound.1
  subst hline hX
  obtain ⟨x1, y1, p, hback, ht1, hdirect⟩ := lineBack_shape { n with cxd := { n.cxd with snoops := n.cxd.snoops.erase x } } x.line hb
  rw [bisnpResponse_owned hb hx he hexcl hheld, hback, settleCopy_stays (e := e) ?dir hinv h0, pump_rests (recallRevoking_settled ?revoking) ?reqs ?pub]
  case dir => exact he
  case revoking => exact hrev
  case reqs => exact hreqs
  case pub => exact hpub
  exact ⟨rfl, mget?_mset_self _ _ _, ht1, hdirect⟩

/-! ## Credit (R283) -/

theorem bucketCredit_waits (hrev : ∀ e, (extentOf n e).revoking = 0) (hpub : n.cxd.pub = none) (hreqs : n.cxd.reqs = [q]) (hun : q.paid = false)
    (hr : rd n (Rg.cxdHostLimitRate q.head) ≠ 0) (hc : (filledHead t n q.head).credit < 256) :
    bucketCredit q.head t n = setHead n q.head (filledHead t n q.head) := by
  rw [bucketCredit, payHead_short hreqs hun hr hc]
  exact pump_unpaid (recallRevoking_settled hrev) hreqs hun hpub

/-- A request whose credit has come is paid for and, waiting for nothing else, answered. -/
theorem bucketCredit_answers (hrev : ∀ e, (extentOf n e).revoking = 0) (hpub : n.cxd.pub = none) (hreqs : n.cxd.reqs = [q]) (hun : q.paid = false) (hd : q.deny = 0)
    (hk : q.kind ≠ 3) (he : q.errs = []) (hr : rd n (Rg.cxdHostLimitRate q.head) ≠ 0) (hc : 256 ≤ (filledHead t n q.head).credit) (hu : Unhindered n q) :
    ∃ v ≤ 3, (bucketCredit q.head t n).cxd.reqs = [] ∧ (headOf (bucketCredit q.head t n) q.head).credit = (filledHead t n q.head).credit - 256
      ∧ (bucketCredit q.head t n).out = n.out ++ [reply q (lineData n q.dpa) (cxPoison n q.dpa).isSome v] := by
  obtain ⟨v, k, hv, e⟩ := paidFor_reads (t := t) hrev hpub hd hu hk he
  have hcharged : (charged t n q.head).credit = (filledHead t n q.head).credit - 256 := if_neg hr
  rw [bucketCredit, payHead_pays hreqs hun (.inr hc), e]
  refine ⟨v, hv, rfl, ?_, congrArg (· ++ _) (readerEntered_frame (·.out) fun _ _ => rfl)⟩
  rw [← hcharged]
  exact congrArg HeadSt.credit ((congrArg (mgetD · q.head _) (readerEntered_frame (·.cxd.heads) fun _ _ => rfl)).trans (mgetD_mset_self _ _ _ _))

theorem wanted_read (hk : q.kind ≠ 3) : wanted n q
    = if noCopy n q.dpa then 0 else if q.kind = 2 ∧ (sharedOnly n = true ∨ (extentOf n (q.dpa / extBytes)).mode = 1) then 1 else q.kind := by
  simp [wanted, hk]

end

/-- Settles O37: the only request of an idle directory is refused, or waits for a snoop or for credit, or is answered at once. -/
theorem hostRequestsAreServedCoherently : Obligations.HostRequestsAreServedCoherently := by
  refine ⟨fun s h kind dpa line q hidle hlink hlost hc hline hq => ?read, fun s h dpa data keep q hidle hlink hlost hc h0 hlen hq => ?write,
    fun s h line b x e hidle hb hx he hexcl hheld hinv h0 => ⟨_, exec_bisnpResponse rfl, bisnpResponse_writesBack hidle hb hx he hexcl hheld hinv h0 rfl⟩,
    fun s h q hreqs hpub hrev hh hun hd hk herrs hrate => ?credit⟩
  case read =>
    have hexec := exec_cxlRead (s := s) (hline ▸ hq)
    have hk : kind.val ≠ 3 := by omega
    have hl : line * 64 / 64 = line := Nat.mul_div_cancel _ (by decide)
    subst hq
    have hask : Asks s.tck s.node ⟨h.val, kind.val, line * 64, [], 0, false, false, 0, []⟩ := ⟨hidle, hlink, hlost, rfl, hc⟩
    refine ⟨fun hd => ?refused, fun hd hs hcopies hroom => ?answered, fun g u hd hs hx hg => ?snooped, wanted_read hk⟩
    case refused =>
      obtain ⟨v, hv, hout, hrest⟩ := receive_refuses hask h.isLt hd
      rw [reply, if_neg hk] at hout
      exact ⟨_, v, hexec, hv, hout, hrest⟩
    case answered =>
      obtain ⟨v, hv, hout, hrest⟩ := receive_reads hask hd rfl ⟨hl.symm ▸ hs, hcopies, hl.symm ▸ hroom⟩ rfl hk rfl
      rw [reply, if_neg hk, lineData, hl] at hout
      rw [hl] at hrest
      exact ⟨_, v, hexec, hv, hout, hrest⟩
    case snooped =>
      obtain ⟨hsnoops, hout, hrest⟩ := receive_snoops hask hd rfl hk (hl.symm ▸ hs) (hl.symm ▸ hx) (Fin.val_ne_of_ne hg)
      rw [hl] at hsnoops hout
      exact ⟨_, hexec, hsnoops, hout, hrest⟩
  case write =>
    have hexec := exec_cxlWrite (s := s) hlen hq
    subst hq
    have hask : Asks s.tck s.node ⟨h.val, 3, dpa.toNat, data, keep.val, false, false, 0, []⟩ := ⟨hidle, hlink, hlost, rfl, hc⟩
    obtain ⟨-, hpub, -⟩ := hidle
    refine ⟨fun hd => ?refused, fun hd hs hcopies hroom hr hp => ?direct, fun hd hs hcopies hroom hr _ hown hret hp => ?region0⟩
    case refused =>
      obtain ⟨v, hv, hout, hdir, hdirect, ht1, -, hstatus, -⟩ := receive_refuses hask h.isLt hd
      exact ⟨_, v, hexec, hv, hout, hdir, hdirect, ht1, hstatus⟩
    case direct =>
      obtain ⟨v, hv, hout, ht1, hrest⟩ := receive_writes hask hd rfl ⟨hs, hcopies, hroom⟩ rfl rfl (cxWrite_direct hr hp) rfl hpub
      exact ⟨_, v, hexec, hv, hout, ht1, hrest⟩
    case region0 =>
      obtain ⟨sq, sv, hX⟩ := cxWrite_region0 (n := paidFor s.tck s.node _) hr h0 hlen hown hret hp
      obtain ⟨v, hv, hout, ht1, hdirect, hreqs, -⟩ := receive_writes hask hd rfl ⟨hs, hcopies, hroom⟩ rfl rfl hX rfl hpub
      exact ⟨_, v, hexec, hv, hout, hdirect, ht1, hreqs⟩
  case credit =>
    have hexec := exec_tokenBucketCredit (s := s) hh
    have hread : q.kind ≠ 3 := by omega
    rw [← hh] at hrate ⊢
    refine ⟨fun hc => ⟨_, hexec, ?_⟩, fun hc hs hcopies hw => ?answered⟩
    · rw [bucketCredit_waits hrev hpub hreqs hun hrate hc]
      exact ⟨hreqs, headOf_setHead _ _ _, rfl⟩
    case answered =>
      obtain ⟨v, hv, hleft, hcredit, hout⟩ := bucketCredit_answers hrev hpub hreqs hun hd hread herrs hrate hc ⟨hs, hcopies, .inl hw⟩
      rw [reply_read hread] at hout
      exact ⟨_, v, hexec, hv, hleft, hcredit, hout⟩

end Sys2Proof.Machine
end

section
/-! Extents: offered, accepted, withdrawn, revoked, reclaimed, released, zeroed (R273 to R277, R286 to R288, R291). -/

namespace Sys2Proof.Machine

section

variable {t : Tck} {n m : Node} {s : State} {e hosts mode : Nat} {src : Req} {x : Extent}

/-! ## The commands -/

section

variable {ext : BitVec 14} {hs : BitVec 4} {md : BitVec 1} {h : Fin 4}

theorem exec_offer (hw : Writable s.node) (k : offer ext.toNat hs.toNat md.toNat src s.tck s.node = m) : exec (.offer ext hs md src) s = .next (s.withNode m) :=
  onNode_eq ((if_neg (by rw [hw]; decide)).trans k)
theorem exec_withdraw (hw : Writable s.node) (k : withdraw ext.toNat src s.tck s.node = m) : exec (.withdraw ext src) s = .next (s.withNode m) :=
  onNode_eq ((if_neg (by rw [hw]; decide)).trans k)
theorem exec_revoke (hw : Writable s.node) (k : revoke ext.toNat hs.toNat src s.tck s.node = m) : exec (.revoke ext hs src) s = .next (s.withNode m) :=
  onNode_eq ((if_neg (by rw [hw]; decide)).trans k)
theorem exec_reclaim (hw : Writable s.node) (k : reclaim ext.toNat hs.toNat src s.tck s.node = m) : exec (.reclaim ext hs src) s = .next (s.withNode m) :=
  onNode_eq ((if_neg (by rw [hw]; decide)).trans k)
theorem exec_addDynamicCapacityResponse (k : addCapacity h.val ext.toNat s.node = m) : exec (.addDynamicCapacityResponse h ext) s = .next (s.withNode m) :=
  onNode_eq (f := fun _ => addCapacity h.val ext.toNat) k
theorem exec_releaseDynamicCapacity (k : releaseCapacity h.val ext.toNat s.tck s.node = m) : exec (.releaseDynamicCapacity h ext) s = .next (s.withNode m) := onNode_eq k
theorem exec_releaseComplete (k : releaseComplete ext.toNat s.node = m) : exec (.releaseComplete ext) s = .next (s.withNode m) :=
  onNode_eq (f := fun _ => releaseComplete ext.toNat) k
theorem exec_extentZeroDone (k : extentZeroDone ext.toNat s.node = m) : exec (.extentZeroDone ext) s = .next (s.withNode m) :=
  onNode_eq (f := fun _ => extentZeroDone ext.toNat) k

end

/-! ## Permission and results (R274) -/

theorem extCmd_permitted {body : Node} (h : extMayWrite n src = true) : extCmd t n src body = body := if_pos h

theorem extCmd_ignored {body : Node} (h : extMayWrite n src = false) : extCmd t n src body = raise t n evCxdWriteIgnored (leBytes 4 Rg.cxdExtCmdOp.off) :=
  if_neg (by simp [h])

/-- A permitted writer commands while no command runs. -/
theorem extMayWrite_job (h : extMayWrite n src = true) : n.cxd.job = none := by
  obtain ⟨hnone, -⟩ := Bool.and_eq_true_iff.mp h
  exact Option.isNone_iff_eq_none.mp hnone

theorem rd_extResult (n : Node) (e : Nat) {k : Nat} (hk : k < 2 ^ 16) : rd (extResult n e k) Rg.cxdExtStatusResult = k := by
  rw [extResult, rd_wr_field _ Rg.cxdExtStatusExt Rg.cxdExtStatusResult _ rfl (by decide) (by decide), rd_wr_self _ _ _ (by decide)]
  exact Nat.mod_eq_of_lt hk

@[simp] theorem extentOf_setExtent (n : Node) (e : Nat) (x : Extent) : extentOf (setExtent n e x) e = x := mgetD_mset_self _ _ _ _

/-! ## Backing (R273, R277) -/

/-- Zeroing runs clears their bytes and their poison, and nothing else. -/
theorem zeroRuns_shape (n : Node) (l : List (Nat × Nat)) : ∃ p, zeroRuns n l = { n with t1 := l.foldl (fun m y => Mem.clear m y.1 y.2) n.t1, mic := p } := by
  unfold zeroRuns
  induction l generalizing n with
  | nil => exact ⟨n.mic, rfl⟩
  | cons r l ih =>
    obtain ⟨p, k⟩ := ih { n with t1 := Mem.clear n.t1 r.1 r.2, mic := { n.mic with poison := n.mic.poison.filter fun x => x.1 < r.1 || r.1 + r.2 ≤ x.1 } }
    exact ⟨p, k⟩

/-- An extent that no head has, without backing. -/
def Extent.freed (x : Extent) : Extent := { x with state := 0, hosts := 0, mode := 0, accepted := 0, revoking := 0, runs := [] }

/-- A freed extent's backing reads as zero; which extents are being zeroed stays as it is. -/
theorem freeExtent_frees (n : Node) (e : Nat) : extentOf (freeExtent n e) e = (extentOf n e).freed
    ∧ (freeExtent n e).t1 = (extentOf n e).runs.foldl (fun m y => Mem.clear m y.1 y.2) n.t1 ∧ (freeExtent n e).cxd.zeroing = n.cxd.zeroing := by
  have hzero : (freeExtent n e).t1 = (zeroRuns n (extentOf n e).runs).t1 ∧ (freeExtent n e).cxd.zeroing = (zeroRuns n (extentOf n e).runs).cxd.zeroing := by
    by_cases h : e < 3072
    · simp only [freeExtent, if_pos h]
      exact ⟨rfl, rfl⟩
    · simp only [freeExtent, if_neg h]
      exact ⟨rfl, rfl⟩
  obtain ⟨p, k⟩ := zeroRuns_shape n (extentOf n e).runs
  rw [k] at hzero
  exact ⟨extentOf_setExtent _ _ _, hzero⟩

/-! ## OFFER (R275) -/

/-- An existing FREE extent, and linked heads to offer it to. -/
structure Offerable (n : Node) (e hosts : Nat) : Prop where
  present : extExists n e = true
  free : (extentOf n e).state = 0
  nonempty : hosts ≠ 0
  linked : ∀ h ∈ bitList 4 hosts, (headOf n h).link = true

/-- An extent offered to heads with its backing. -/
def Extent.offered (x : Extent) (hosts mode : Nat) (runs : List (Nat × Nat)) : Extent :=
  { x with state := 1, hosts := hosts, mode := mode, accepted := 0, revoking := 0, runs := runs }

/-- The node with an extent offered, each of its heads told. -/
def offerPosted (n : Node) (e hosts mode : Nat) (runs : List (Nat × Nat)) : Node :=
  extResult ((bitList 4 hosts).foldl (fun k h => emit k (.dcEvent h e true)) (setExtent n e ((extentOf n e).offered hosts mode runs))) e stOk

theorem offer_refuses (hp : extMayWrite n src = true)
    (h : extExists n e = false ∨ (extentOf n e).state ≠ 0 ∨ hosts = 0 ∨ ∃ h ∈ bitList 4 hosts, (headOf n h).link = false) :
    offer e hosts mode src t n = extResult n e stBadParam := by
  rw [offer, extCmd_permitted hp]
  refine if_pos ?_
  simpa [or_assoc] using h

theorem Offerable.passes (ho : Offerable n e hosts) :
    (!extExists n e || (extentOf n e).state != 0 || hosts == 0 || (bitList 4 hosts).any fun h => !(headOf n h).link) = false := by
  obtain ⟨he, hfree, hsome, hlinked⟩ := ho
  simpa [he, hfree, hsome] using hlinked

theorem offer_direct (hp : extMayWrite n src = true) (ho : Offerable n e hosts) (he : 3072 ≤ e) : offer e hosts mode src t n = offerPosted n e hosts mode [] := by
  simp only [offer, extCmd_permitted hp, ho.passes, if_neg (Nat.not_lt.mpr he), Bool.false_eq_true, if_false]
  rfl

theorem offer_backed {r : List (Nat × Nat)} (hp : extMayWrite n src = true) (ho : Offerable n e hosts) (he : e < 3072) (hmax : backedCount n < rd n Rg.cxdCfgT1Max)
    (hr : takeRuns n extBytes (List.range 1024) = some r) : offer e hosts mode src t n = offerPosted (zeroRuns (holdRuns n r) r) e hosts mode r := by
  simp only [offer, extCmd_permitted hp, ho.passes, if_pos he, if_neg (Nat.not_le.mpr hmax), hr, Bool.false_eq_true, if_false]
  rfl

/-- What an offer leaves: the extent with its heads, mode and backing, an event to each head, and ST_OK. -/
theorem offerPosted_offers (n : Node) (e hosts mode : Nat) (runs : List (Nat × Nat)) :
    extentOf (offerPosted n e hosts mode runs) e = (extentOf n e).offered hosts mode runs
      ∧ (offerPosted n e hosts mode runs).out = n.out ++ (bitList 4 hosts).map (fun h => .dcEvent h e true)
      ∧ (offerPosted n e hosts mode runs).t1 = n.t1 ∧ (offerPosted n e hosts mode runs).ter = n.ter ∧ rd (offerPosted n e hosts mode runs) Rg.cxdExtStatusResult = stOk := by
  unfold offerPosted
  rw [foldl_emit]
  exact ⟨extentOf_setExtent _ _ _, rfl, rfl, rfl, rd_extResult _ _ (by decide)⟩

/-! ## WITHDRAW (R275, R288) -/

theorem withdraw_pinned (hp : extMayWrite n src = true) (h : extPinned n e = true) : withdraw e src t n = extResult n e stDenied := by
  rw [withdraw, extCmd_permitted hp, h]
  rfl

theorem withdraw_offered (hp : extMayWrite n src = true) (h : extPinned n e = false) (hx : (extentOf n e).state = 1) : withdraw e src t n = extResult (freeExtent n e) e stOk := by
  simp only [withdraw, extCmd_permitted hp, h, hx, Bool.false_eq_true, if_false, if_true]

theorem withdraw_held (hp : extMayWrite n src = true) (h : extPinned n e = false) (hx : 2 ≤ (extentOf n e).state) : withdraw e src t n =
    extResult (setExtent n e { extentOf n e with hosts := orMask (extentOf n e).accepted (extentOf n e).revoking }) e stOk := by
  have h1 : (extentOf n e).state ≠ 1 := by omega
  have h0 : (extentOf n e).state ≠ 0 := by omega
  simp only [withdraw, extCmd_permitted hp, h, h1, h0, Bool.false_eq_true, if_false]

/-! ## REVOKE, RECLAIM and a head's own release (R286, R287, R291) -/

/-- An extent taken back from heads: those that hold it drain, the others lose their offer. -/
def Extent.revoked (x : Extent) (hosts : Nat) : Extent :=
  { x with hosts := withoutMask x.hosts (withoutMask hosts x.accepted), state := if andMask hosts x.accepted = 0 then x.state else 3,
           revoking := orMask x.revoking (andMask hosts x.accepted), taken := orMask x.taken (andMask hosts x.accepted) }

theorem Extent.revoked_revoking (h : x.revoking = 0) : (x.revoked hosts).revoking = andMask hosts x.accepted := by
  rw [Extent.revoked, h, orMask_zero_andMask]

theorem Extent.revoked_state (h : andMask hosts x.accepted ≠ 0) : (x.revoked hosts).state = 3 := if_neg h

theorem Extent.bitAt_revoked_revoking {h : Nat} (hh : h < 4) (hb : bitAt hosts h = true) (ha : bitAt x.accepted h = true) : bitAt (x.revoked hosts).revoking h = true := by
  simp [Extent.revoked, bitAt_orMask, bitAt_andMask, hh, hb, ha]

/-- From the revoke point on, a head that held the extent is refused (R286). -/
theorem denyOf_revoked {h kind dpa : Nat} (hx : extentOf n e = x.revoked hosts) (hh : h < 4) (hb : bitAt hosts h = true) (ha : bitAt x.accepted h = true) (hd : dpa / extBytes = e) :
    denyOf n h kind dpa = stExtentRevoked := by
  have htaken : bitAt (x.revoked hosts).taken h = true := by simp [Extent.revoked, bitAt_orMask, bitAt_andMask, hh, hb, ha]
  simp only [denyOf, hd, hx, Extent.bitAt_revoked_revoking hh hb ha, htaken, Bool.not_true, Bool.and_false, Bool.false_eq_true, if_false, if_true]

/-- With no copy to recall and nothing waiting, taking an extent back changes the extent alone. -/
theorem startRevoke_rests (hidle : CxdIdle n) (hdir : n.cxd.dir = []) : startRevoke t n e hosts = setExtent n e ((extentOf n e).revoked hosts) := by
  obtain ⟨hreqs, hpub, -⟩ := hidle
  exact pump_rests (recallRevoking_no_copy hdir) hreqs hpub

/-- What an extent command that takes an extent back answers: ST_OK at once, or it goes on as the directory's command. -/
def revokeAnswer (n : Node) (op e hosts : Nat) : Node :=
  if (extentOf n e).revoking = 0 then extResult n e stOk else wr { n with cxd := { n.cxd with job := some (op, e, hosts) } } Rg.cxdExtStatusExt e

theorem revokeAnswer_frame {β : Type} (g : Node → β) (hwr : ∀ n f v, g (wr n f v) = g n) (hjob : ∀ n j, g { n with cxd := { n.cxd with job := j } } = g n) (op : Nat) :
    g (revokeAnswer n op e hosts) = g n := by
  unfold revokeAnswer extResult
  split
  · rw [hwr, hwr]
  · rw [hwr, hjob]

theorem revokeAnswer_drains {op : Nat} (h : (extentOf n e).revoking ≠ 0) : (revokeAnswer n op e hosts).cxd.job = some (op, e, hosts) := by
  rw [revokeAnswer, if_neg h]
  rfl

theorem revokeAnswer_ends {op : Nat} (h : (extentOf n e).revoking = 0) :
    (revokeAnswer n op e hosts).cxd.job = n.cxd.job ∧ rd (revokeAnswer n op e hosts) Rg.cxdExtStatusResult = stOk := by
  rw [revokeAnswer, if_pos h]
  exact ⟨rfl, rd_extResult _ _ (by decide)⟩

theorem extentOf_revokeAnswer (n : Node) (op : Nat) : extentOf (revokeAnswer (setExtent n e x) op e hosts) e = x :=
  (revokeAnswer_frame (extentOf · e) (fun _ _ _ => rfl) (fun _ _ => rfl) op).trans (extentOf_setExtent n e x)

theorem revoke_pinned (hp : extMayWrite n src = true) (h : extPinned n e = true) : revoke e hosts src t n = extResult n e stDenied := by
  rw [revoke, extCmd_permitted hp, h]
  rfl

theorem revoke_revokes (hp : extMayWrite n src = true) (hpin : extPinned n e = false) (hidle : CxdIdle n) (hdir : n.cxd.dir = []) (hx : (extentOf n e).state ≠ 0) :
    revoke e hosts src t n =
      revokeAnswer (setExtent { n with out := n.out ++ (bitList 4 hosts).map (fun h => .dcEvent h e false) } e ((extentOf n e).revoked hosts)) 3 e hosts := by
  have hstart := startRevoke_rests (t := t) (n := { n with out := n.out ++ (bitList 4 hosts).map (fun h => .dcEvent h e false) }) (e := e) (hosts := hosts) hidle hdir
  simp only [revoke, extCmd_permitted hp, hpin, hx, foldl_emit, hstart, Bool.false_eq_true, if_false]
  rfl

theorem reclaim_reclaims (hp : extMayWrite n src = true) (hlost : ∀ h ∈ bitList 4 hosts, headIsLost n h = true) (hidle : CxdIdle n) (hdir : n.cxd.dir = [])
    (hx : (extentOf n e).state ≠ 0) : reclaim e hosts src t n = revokeAnswer (setExtent n e ((extentOf n e).revoked hosts)) 4 e hosts := by
  have hstart := startRevoke_rests (t := t) (e := e) (hosts := hosts) hidle hdir
  have hall : ((extentOf n e).state = 0 || (bitList 4 hosts).any fun h => !headIsLost n h) = false := by simpa [hx] using hlost
  simp only [reclaim, extCmd_permitted hp, hall, hstart, Bool.false_eq_true, if_false]
  rfl

theorem releaseCapacity_starts {h : Nat} (ha : bitAt (extentOf n e).accepted h = true) (hidle : CxdIdle n) (hdir : n.cxd.dir = []) :
    releaseCapacity h e t n = setExtent n e ((extentOf n e).revoked (2 ^ h)) := by
  obtain ⟨-, -, hrev⟩ := id hidle
  have hmay : (bitAt (extentOf n e).accepted h && !bitAt (extentOf n e).revoking h) = true := by rw [ha, hrev e, bitAt_zero]; rfl
  simp only [releaseCapacity, hmay, if_true, startRevoke_rests hidle hdir]

/-! ## Acceptance, the end of a release, the end of zeroing (R275, R277, R287) -/

theorem addCapacity_accepts {h : Nat} (hlink : (headOf n h).link = true) (hlost : headIsLost n h = false) (hhost : bitAt (extentOf n e).hosts h = true)
    (hnew : bitAt (extentOf n e).accepted h = false) (hx : (extentOf n e).state ≠ 0) (hz : n.cxd.zeroing.contains e = false) :
    addCapacity h e n = setExtent n e { extentOf n e with
      accepted := orMask (extentOf n e).accepted (2 ^ h), taken := withoutMask (extentOf n e).taken (2 ^ h), state := if (extentOf n e).state = 3 then 3 else 2 } := by
  refine if_pos ?_
  simp only [hlink, hlost, hhost, hnew, hz, Bool.not_false, Bool.and_self, Bool.and_true, Bool.true_and]
  simpa using hx

/-- An extent whose draining heads are cleared. -/
def Extent.released (x : Extent) : Extent := { x with hosts := withoutMask x.hosts x.revoking, accepted := withoutMask x.accepted x.revoking, revoking := 0 }

/-- An extent that no head is left to hold is zeroed next; any other is held by the heads left. -/
theorem leftBy_zeroes (h : x.accepted = 0) : extentOf (leftBy n e x) e = { x with hosts := 0, state := 3 } ∧ e ∈ (leftBy n e x).cxd.zeroing := by
  rw [leftBy, if_pos h]
  refine ⟨extentOf_setExtent _ _ _, ?_⟩
  dsimp only
  split
  case isTrue hz => exact List.contains_iff_mem.mp hz
  case isFalse => simp

theorem leftBy_holds (h : x.accepted ≠ 0) : extentOf (leftBy n e x) e = { x with state := heldState n x.accepted } := by
  rw [leftBy, if_neg h, extentOf_setExtent]

theorem extentOf_leftBy (n : Node) (e : Nat) (x : Extent) : (extentOf (leftBy n e x) e).accepted = x.accepted ∧ (extentOf (leftBy n e x) e).revoking = x.revoking := by
  by_cases h : x.accepted = 0
  · rw [(leftBy_zeroes h).1]
    exact ⟨rfl, rfl⟩
  · rw [leftBy_holds h]
    exact ⟨rfl, rfl⟩

/-- Apart from the end of the command that asked for it, the end of a release leaves what the cleared heads leave. -/
theorem releaseDone_frame {β : Type} (g : Node → β) (hwr : ∀ n f v, g (wr n f v) = g n) (hjob : ∀ n j, g { n with cxd := { n.cxd with job := j } } = g n) :
    g (releaseDone n e) = g (leftBy n e (extentOf n e).released) := by
  unfold releaseDone extResult
  dsimp only
  split
  · split
    · rw [hwr, hwr, hjob]
      rfl
    · rfl
  · rfl

theorem releaseDone_ends {op hs : Nat} (hj : n.cxd.job = some (op, e, hs)) : (releaseDone n e).cxd.job = none ∧ rd (releaseDone n e) Rg.cxdExtStatusResult = stOk := by
  simp only [releaseDone, hj, if_true]
  exact ⟨rfl, rd_extResult _ _ (by decide)⟩

theorem releaseComplete_clears (h : drained n e (extentOf n e) = true) : releaseComplete e n = releaseDone n e := if_pos h

theorem extentZeroDone_frees (hz : n.cxd.zeroing.contains e = true)
    (hopen : ∀ r ∈ (extentOf n e).runs, ∀ f ∈ n.bsu.frames, r.1 ≤ f.1 → f.1 < r.1 + r.2 → f.2 < 2) :
    extentZeroDone e n = freeExtent { n with cxd := { n.cxd with zeroing := n.cxd.zeroing.filter (· != e) } } e := by
  have hheld : ((extentOf n e).runs.any fun r => n.bsu.frames.any fun f => r.1 ≤ f.1 && f.1 < r.1 + r.2 && 2 ≤ f.2) = false := by
    simp only [List.any_eq_false, List.any_eq_true, Bool.and_eq_true, decide_eq_true_eq]
    rintro r hr ⟨f, hf, ⟨hlo, hhi⟩, htwo⟩
    exact absurd htwo (Nat.not_le.mpr (hopen r hr f hf hlo hhi))
  simp only [extentZeroDone, hz, hheld, Bool.not_false, Bool.and_self, if_true]

end

/-- Settles O38: each command of an extent's life changes its entry as its rule says, or answers why not. -/
theorem extentsAreOfferedAcceptedRevokedAndFreed : Obligations.ExtentsAreOfferedAcceptedRevokedAndFreed := by
  intro s ext hosts mode src x hw hx
  subst hx
  refine ⟨fun hp => ?ignored, fun hp => ⟨fun hbad => ?refused, fun he hfree hsome hlinked => ?offered, fun hpin => ?pinned,
    fun hpin h1 => ?withdrawn, fun hpin h2 => ?lapsed, fun hidle h0 hdir => ⟨fun hpin => ?revoked, fun hlost hm => ?reclaimed⟩⟩,
    fun h => ⟨fun hlink hlost hhost hnew h0 hz => ?accepted, fun hidle hdir ha => ?given⟩, fun hdr => ?complete, fun hz hopen => ?zeroed⟩
  case ignored =>
    exact ⟨_, exec_offer hw (extCmd_ignored hp), exec_withdraw hw (extCmd_ignored hp), exec_revoke hw (extCmd_ignored hp), exec_reclaim hw (extCmd_ignored hp), rfl, codes_raise _ _ _ _⟩
  case refused =>
    have hbad' := hbad.imp_right (Or.imp_right (Or.imp_left fun (h : hosts = 0) => show hosts.toNat = 0 by rw [h]; rfl))
    exact ⟨_, exec_offer hw (offer_refuses hp hbad'), rfl, rd_extResult _ _ (by decide)⟩
  case offered =>
    have ho : Offerable s.node ext.toNat hosts.toNat := ⟨he, hfree, fun h => hsome (BitVec.eq_of_toNat_eq h), hlinked⟩
    refine ⟨fun hd => ?direct, fun r hlo hmax hr => ?backed⟩
    case direct =>
      obtain ⟨hext, hout, -, -, hres⟩ := offerPosted_offers s.node ext.toNat hosts.toNat mode.toNat []
      exact ⟨_, exec_offer hw (offer_direct hp ho hd), hext, hout, hres⟩
    case backed =>
      obtain ⟨p, hzero⟩ := zeroRuns_shape (holdRuns s.node r) r
      obtain ⟨hext, hout, ht1, hter, hres⟩ := offerPosted_offers (zeroRuns (holdRuns s.node r) r) ext.toNat hosts.toNat mode.toNat r
      refine ⟨_, exec_offer hw (offer_backed hp ho hlo hmax hr), ?_⟩
      rw [hzero] at hext hout ht1 hter hres ⊢
      exact ⟨hext, hout, ht1, congrArg (·.holds) hter, hres⟩
  case pinned => exact ⟨_, exec_withdraw hw (withdraw_pinned hp hpin), exec_revoke hw (revoke_pinned hp hpin), rfl, rd_extResult _ _ (by decide)⟩
  case withdrawn =>
    obtain ⟨hext, -, -⟩ := freeExtent_frees s.node ext.toNat
    exact ⟨_, exec_withdraw hw (withdraw_offered hp hpin h1), congrArg Extent.state hext, congrArg Extent.hosts hext, congrArg Extent.runs hext, rd_extResult _ _ (by decide)⟩
  case lapsed => exact ⟨_, exec_withdraw hw (withdraw_held hp hpin h2), extentOf_setExtent _ _ _, rd_extResult _ _ (by decide)⟩
  case revoked =>
    obtain ⟨-, -, hrev⟩ := id hidle
    have hr := Extent.revoked_revoking (hosts := hosts.toNat) (hrev ext.toNat)
    refine ⟨_, exec_revoke hw (revoke_revokes hp hpin hidle hdir h0), ?_, ?_, fun hm => ⟨?_, ?_⟩, fun hm => ?_,
      fun h kind dpa hh hb ha hd => denyOf_revoked (extentOf_revokeAnswer _ _) hh hb ha hd⟩
    · rw [extentOf_revokeAnswer, hr]
    · exact revokeAnswer_frame (·.out) (fun _ _ _ => rfl) (fun _ _ => rfl) 3
    · rw [extentOf_revokeAnswer, Extent.revoked_state hm]
    · exact revokeAnswer_drains (by rwa [extentOf_setExtent, hr])
    · obtain ⟨hjob, hres⟩ := revokeAnswer_ends (op := 3) (hosts := hosts.toNat) ((congrArg Extent.revoking (extentOf_setExtent _ _ _)).trans (hr.trans hm))
      exact ⟨hjob.trans (extMayWrite_job hp), hres⟩
  case reclaimed =>
    obtain ⟨-, -, hrev⟩ := id hidle
    have hr := Extent.revoked_revoking (hosts := hosts.toNat) (hrev ext.toNat)
    refine ⟨_, exec_reclaim hw (reclaim_reclaims hp hlost hidle hdir h0), ?_, ?_, revokeAnswer_drains (by rwa [extentOf_setExtent, hr])⟩
    · rw [extentOf_revokeAnswer, Extent.revoked_state hm]
    · rw [extentOf_revokeAnswer, hr]
  case accepted => exact ⟨_, exec_addDynamicCapacityResponse (addCapacity_accepts hlink hlost hhost hnew h0 hz), extentOf_setExtent _ _ _⟩
  case given =>
    have hself : bitAt (2 ^ h.val) h.val = true := by simp [bitAt_two_pow]
    have hm : andMask (2 ^ h.val) (extentOf s.node ext.toNat).accepted ≠ 0 := ne_zero_of_bitAt (i := h.val) (by simp [bitAt_andMask, hself, ha])
    have hext := extentOf_setExtent s.node ext.toNat ((extentOf s.node ext.toNat).revoked (2 ^ h.val))
    refine ⟨_, exec_releaseDynamicCapacity (releaseCapacity_starts ha hidle hdir), ?_, ?_, fun kind dpa hd => denyOf_revoked hext h.isLt hself ha hd⟩
    · rw [hext]
      exact Extent.bitAt_revoked_revoking h.isLt hself ha
    · rw [hext, Extent.revoked_state hm]
  case complete =>
    have hext : extentOf (releaseDone s.node ext.toNat) ext.toNat = _ := releaseDone_frame (extentOf · ext.toNat) (fun _ _ _ => rfl) (fun _ _ => rfl)
    have hzeroing : (releaseDone s.node ext.toNat).cxd.zeroing = _ := releaseDone_frame (·.cxd.zeroing) (fun _ _ _ => rfl) (fun _ _ => rfl)
    obtain ⟨hacc, hrev⟩ := extentOf_leftBy s.node ext.toNat (extentOf s.node ext.toNat).released
    refine ⟨_, exec_releaseComplete (releaseComplete_clears hdr), ?_, ?_, fun h0 => ?_, fun h0 => ?_, fun op hs hj => releaseDone_ends hj⟩
    · rw [hext, hrev]
      rfl
    · rw [hext, hacc]
      rfl
    · obtain ⟨-, hmem⟩ := leftBy_zeroes (n := s.node) (e := ext.toNat) (x := (extentOf s.node ext.toNat).released) h0
      rwa [hzeroing]
    · rw [hext, leftBy_holds h0]
      rfl
  case zeroed =>
    obtain ⟨hext, ht1, hzeroing⟩ := freeExtent_frees { s.node with cxd := { s.node.cxd with zeroing := s.node.cxd.zeroing.filter (· != ext.toNat) } } ext.toNat
    refine ⟨_, exec_extentZeroDone (extentZeroDone_frees hz hopen), ?_⟩
    rw [hext, hzeroing, ht1]
    exact ⟨rfl, rfl, by simp, rfl⟩

end Sys2Proof.Machine
end

section
/-! Dispatch and the tick latch of the admission scheduler (R328 to R330, R334, R335). -/

namespace Sys2Proof.Machine

section

variable {t : Tck} {n : Node} {hw fw : Bool} {c : Cmd}

theorem exec_dispatch (hw fw : Bool) (s : State) : exec (.dispatch hw fw) s = .next (s.withNode (dispatch hw fw s.tck s.node)) := rfl
theorem exec_schedulerTickLatch (s : State) : exec .schedulerTickLatch s = .next (s.withNode (tickLatch s.tck s.node)) := rfl

/-! ## The head chosen -/

theorem leastBy_eq_none {α : Type} {f : α → Nat} {l : List α} (h : leastBy f l = none) : l = [] := by
  cases l with
  | nil => rfl
  | cons a l =>
    rw [leastBy] at h
    split at h
    · cases h
    · split at h <;> cases h

/-- No element has a smaller measure than the one chosen. -/
theorem leastBy_le {α : Type} {f : α → Nat} {l : List α} {x y : α} (h : leastBy f l = some x) (hy : y ∈ l) : f x ≤ f y := by
  induction l generalizing x with
  | nil => cases hy
  | cons a l ih =>
    rw [leastBy] at h
    split at h
    case h_1 hnone =>
      cases h
      obtain rfl := leastBy_eq_none hnone
      rw [List.mem_singleton.mp hy]
    case h_2 z hz =>
      have hmin : f x ≤ f a ∧ f x ≤ f z := by split at h <;> cases h <;> omega
      rcases List.mem_cons.mp hy with rfl | hy
      · exact hmin.1
      · exact Nat.le_trans hmin.2 (ih hz hy)

/-- Tags are compared first: the rotating priority stays below the weight of one tag (R329). -/
theorem chosenHead_tag_le {d : Cmd} (h : chosenHead n hw fw = some c) (hd : d ∈ heads n hw fw) : c.tag ≤ d.tag := by
  have hle : c.tag * 128 + (c.q + 80 - n.sch.rotor % 80) % 80 ≤ d.tag * 128 + (d.q + 80 - n.sch.rotor % 80) % 80 := leastBy_le h hd
  omega

theorem chosenHead_nil (h : heads n hw fw = []) : chosenHead n hw fw = none := by rw [chosenHead, h]; rfl

/-! ## What taking a head does -/

theorem findCmd_of_fe {m : Node} (h : m.fe = n.fe) (k : Nat) : findCmd m k = findCmd n k := by rw [findCmd, h, findCmd]

/-- A command after a change that keeps its handle. -/
theorem findCmd_modCmd {h k : Nat} {f : Cmd → Cmd} (hf : ∀ d, (f d).handle = d.handle) : findCmd (modCmd n h f) k = (findCmd n k).map fun d => if d.handle == h then f d else d := by
  unfold findCmd modCmd lmodify
  rw [List.find?_map]
  congr 2
  funext d
  simp only [Function.comp]
  split <;> simp [hf]

theorem takeHead_cmds_length : (takeHead t n c).fe.cmds.length = n.fe.cmds.length := by
  simp [takeHead, stamp, modCmd, lmodify]

/-- The command taken is at its executor, its entry and its place on its ring as they were. -/
theorem findCmd_takeHead (hc : findCmd n c.handle = some c) :
    ∃ d, findCmd (takeHead t n c) c.handle = some d ∧ d.stage = .dispatched ∧ d.entry = c.entry ∧ d.seq = c.seq := by
  have hfe : findCmd (takeHead t n c) c.handle = findCmd (stamp t (modCmd n c.handle fun d => { d with stage := .dispatched }) c.handle 1) c.handle := rfl
  rw [hfe, stamp, findCmd_modCmd fun d => by split <;> rfl, findCmd_modCmd (by intro _; rfl), hc]
  refine ⟨_, rfl, ?_⟩
  simp only [beq_self_eq_true, if_true]
  split <;> exact ⟨rfl, rfl, rfl⟩

section

variable (hc : chosenHead n hw fw = some c)

include hc

theorem dispatch_unknown (ho : opcodes.contains c.op = false) : dispatch hw fw t n = complete t (takeHead t n c) c.handle stBadOpcode [] := by
  rw [dispatch, hc]
  exact if_pos (by rw [ho]; rfl)

theorem dispatch_late (ho : opcodes.contains c.op = true) (ht : timed c.op = true) (hd : c.deadline < t.tick) :
    dispatch hw fw t n = complete t (takeHead t n c) c.handle stDeadline (attEnd (takeHead t n c) c) := by
  rw [dispatch, hc]
  simp only [ho, ht, hd, Bool.not_true, Bool.false_eq_true, if_false, Bool.true_and, decide_true, if_true]

theorem dispatch_takes (ho : opcodes.contains c.op = true) (hd : timed c.op = true → t.tick ≤ c.deadline) : dispatch hw fw t n = takeHead t n c := by
  have hin : ¬ (timed c.op && decide (c.deadline < t.tick)) = true := by
    rw [Bool.and_eq_true, decide_eq_true_eq]
    exact fun h => absurd (hd h.1) (Nat.not_le.mpr h.2)
  rw [dispatch, hc]
  simp only [ho, Bool.not_true, Bool.false_eq_true, if_false, if_neg hin]

end

theorem dispatch_nothing (h : heads n hw fw = []) : dispatch hw fw t n = n := by rw [dispatch, chosenHead_nil h]

/-! ## The tick latch -/

/-- The latched state of a queue (R330, R335). -/
def latchedQueue (n : Node) (q : Nat) : SchQ :=
  { schQ n q with
    rate := newRate (schQ n q).rate (schQ n q).disp, disp := 0, delay := 0
    credit := if (queued n q).isEmpty then min (rd n (Rg.schQCfgBurst q)) ((schQ n q).credit + rd n (Rg.schQCfgBurst q) / 16) else (schQ n q).credit }

theorem latchQueue_sch (q : Nat) : (latchQueue t n q).sch = { n.sch with qs := mset n.sch.qs q (latchedQueue n q) } := rfl

theorem latchQueue_fe (q : Nat) : (latchQueue t n q).fe = n.fe := rfl

/-- The burst registers stand apart from those that the latch writes. -/
theorem rd_burst_latchQueue (q k : Nat) : rd (latchQueue t n q) (Rg.schQCfgBurst k) = rd n (Rg.schQCfgBurst k) := by
  simp only [latchQueue, setSchQ]
  rw [rd_wr_off _ _ _ _ (by simp only; omega)]
  refine (rd_wr_off _ _ _ _ (by simp only; omega)).trans ?_
  iterate 3 rw [rd_wr_off _ _ _ _ (by simp only; omega)]

theorem latchedQueue_congr {m : Node} {k : Nat} (hq : schQ m k = schQ n k) (hf : m.fe = n.fe) (hb : rd m (Rg.schQCfgBurst k) = rd n (Rg.schQCfgBurst k)) :
    latchedQueue m k = latchedQueue n k := by
  rw [latchedQueue, latchedQueue, hq, hb, queued, hf, queued]

theorem schQ_latchQueue_self (q : Nat) : schQ (latchQueue t n q) q = latchedQueue n q := by
  rw [schQ, latchQueue_sch, mgetD_mset_self]

theorem schQ_latchQueue_ne {q k : Nat} (h : k ≠ q) : schQ (latchQueue t n q) k = schQ n k := by
  rw [schQ, latchQueue_sch, mgetD_mset_ne _ _ _ _ _ h, schQ]

/-- Latching each queue of a list once latches those queues and leaves the others. -/
theorem schQ_foldl_latchQueue {l : List Nat} (hl : l.Nodup) (k : Nat) : schQ (l.foldl (latchQueue t) n) k = if k ∈ l then latchedQueue n k else schQ n k := by
  induction l generalizing n with
  | nil => simp
  | cons q l ih =>
    obtain ⟨hq, hl⟩ := List.nodup_cons.mp hl
    rw [List.foldl_cons, ih hl]
    by_cases e : k = q
    · subst e
      rw [if_neg hq, if_pos List.mem_cons_self, schQ_latchQueue_self]
    · rw [schQ_latchQueue_ne e, latchedQueue_congr (schQ_latchQueue_ne e) (latchQueue_fe q) (rd_burst_latchQueue q k)]
      simp only [List.mem_cons, e, false_or]

theorem schQ_tickLatch {q : Nat} (hq : q < 80) : schQ (tickLatch t n) q = latchedQueue n q := by
  rw [tickLatch, schQ, wr_sch]
  exact (schQ_foldl_latchQueue List.nodup_range q).trans (if_pos (List.mem_range.mpr hq))

theorem tickLatch_fe : (tickLatch t n).fe = n.fe := by
  rw [tickLatch, wr_fe]
  exact foldl_keeps (·.fe) (fun _ _ => latchQueue_fe _) _ n

theorem tickLatch_v : (tickLatch t n).sch.v = n.sch.v := by
  rw [tickLatch, wr_sch]
  exact foldl_keeps (·.sch.v) (f := latchQueue t) (fun m q => by rw [latchQueue_sch]) _ n

end

/-- Settles O46: the head chosen has the least tag because the rotating priority weighs less than one tag, and the latch of a queue reads nothing that the latch of
another writes. -/
theorem theLeastTagIsDispatchedFirst : Obligations.TheLeastTagIsDispatchedFirst := by
  intro s
  refine ⟨fun hw fw c hc hf => ⟨leastBy_mem hc, fun d hd => chosenHead_tag_le hc hd, fun ho hd => ?taken, fun ho => ?unknown, fun ho ht hd => ?late⟩,
    fun hw fw hn => by rw [exec_dispatch, dispatch_nothing hn], _, exec_schedulerTickLatch s, tickLatch_fe, tickLatch_v, rfl, fun q hq => ?latched⟩
  case taken =>
    obtain ⟨d, hd', hst, he, hs⟩ := findCmd_takeHead (t := s.tck) hf
    rw [exec_dispatch, dispatch_takes hc ho hd]
    exact ⟨_, d, rfl, hd', hst, he, hs, rfl, takeHead_cmds_length, rfl⟩
  case unknown => rw [exec_dispatch, dispatch_unknown hc ho]
  case late => rw [exec_dispatch, dispatch_late hc ho ht hd]
  case latched =>
    rw [show schQ (s.withNode (tickLatch s.tck s.node)).node q = latchedQueue s.node q from schQ_tickLatch hq]
    refine ⟨rfl, rfl, rfl, rfl, ?_⟩
    simp only [latchedQueue, List.isEmpty_iff]

end Sys2Proof.Machine
end

section
/-! Agreement among the keepers and the epoch that a node learns from it (R343 to R348). -/

namespace Sys2Proof.Machine

section

variable {t : Tck} {n : Node} {b : Nat}

theorem exec_prepare (ev : PrepareEv) (s : State) : exec (.prepare ev) s = .next (s.withNode (prepare ev s.tck s.node)) := rfl
theorem exec_keeperPromise (p : Promise) (s : State) : exec (.keeperPromise p) s = .next (s.withNode (keeperPromise p s.node)) := rfl
theorem exec_accept (a : Accepted) (s : State) : exec (.accept a) s = .next (s.withNode (acceptEpoch a s.node)) := rfl
theorem exec_proposal (ev : ProposalEv) (s : State) : exec (.proposal ev) s = .next (s.withNode (proposal ev s.tck s.node)) := rfl
theorem exec_keeperAcceptance (k : BitVec 13) (ballot epoch : Word) (ok : Bool) (s : State) : exec (.keeperAcceptance k ballot epoch ok) s =
    .next { s with tck := (keeperAcceptance k.toNat ballot.toNat epoch.toNat ok s.tck s.node).1, node := (keeperAcceptance k.toNat ballot.toNat epoch.toNat ok s.tck s.node).2 } := rfl
theorem exec_commit (c : CommitMsg) (s : State) : exec (.commit c) s = .next { s with tck := (commit c s.tck s.node).1, node := (commit c s.tck s.node).2 } := rfl
theorem exec_epochFetch (ev : FetchEv) (s : State) : exec (.epochFetch ev) s = .next { s with tck := (epochFetch ev s.tck s.node).1, node := (epochFetch ev s.tck s.node).2 } := rfl

theorem amKeeper_of_mem (h : nodeId n ∈ n.map.map.keepers) : amKeeper n = true := List.contains_iff_mem.mpr h

/-! ## Ballots -/

/-- The acceptance of an epoch not yet committed here, which a promise reports (R344). -/
def ownAcceptance (n : Node) : Option Accepted := match n.map.accepted with
  | some a => if epochOf n < a.epoch then some a else none
  | none => none

theorem prepare_promises (h : nodeId n ∈ n.map.map.keepers) :
    prepare (.receive b) t n = emit (modMap n fun m => { m with promised := max m.promised b }) (.promise (b % 8192) ⟨nodeId n, max n.map.promised b, epochOf n, ownAcceptance n⟩) := by
  have hn : (if n.map.promised < b then modMap n fun m => { m with promised := b } else n) = modMap n fun m => { m with promised := max m.promised b } := by
    split
    · rw [modMap, modMap, Nat.max_eq_right (by omega)]
    · rw [modMap, Nat.max_eq_left (by omega)]
  simp only [prepare, amKeeper_of_mem h, Bool.not_true, Bool.false_eq_true, if_false, hn]
  rfl

/-- The ballot that a keeper begins with: above its promise, and carrying its node ID (R344). -/
def newBallot (n : Node) : Nat := (n.map.promised / 8192 + 1) * 8192 + nodeId n

theorem nodeId_lt (n : Node) : nodeId n < 8192 := bits_lt _ _ _

theorem promised_lt_newBallot (n : Node) : n.map.promised < newBallot n := by unfold newBallot; omega

theorem newBallot_mod (n : Node) : newBallot n % 8192 = nodeId n := by have := nodeId_lt n; unfold newBallot; omega

theorem prepare_begins (hb : n.map.ballot = none) (hm : mayCoordinate t n = true) : ∃ N, prepare .begin_ t n = N ∧ N.map.ballot = some (newBallot n) ∧ N.map.ready = false
    ∧ rd N Rg.mapStatusCoord = 1 ∧ N.out = n.out ++ n.map.map.keepers.map fun k => .prepare k (newBallot n) := by
  have hg : ¬ (n.map.ballot.isSome || !mayCoordinate t n) = true := by rw [hb, hm]; decide
  simp only [prepare, if_neg hg, foldl_emit]
  exact ⟨_, rfl, rfl, rfl, rd_wr_self _ _ _ (by decide), rfl⟩

theorem rd_coord_stepDown (n : Node) : rd (stepDown n) Rg.mapStatusCoord = 0 := rd_wr_self _ _ _ (by decide)

/-! ## Promises -/

variable {p : Promise}

theorem keeperPromise_above (hb : n.map.ballot = some b) (h : b < p.ballot) :
    keeperPromise p n = modMap (stepDown (meetEpoch n p.committed)) fun m => { m with promised := max m.promised p.ballot } := by
  simp only [keeperPromise, hb, if_pos h]

/-- The epochs reported with a further promise (R344). -/
def reportedWith (n : Node) (p : Promise) : List Accepted := match p.accepted with
  | some a => if a.epoch = epochOf n + 1 then n.map.reported ++ [a] else n.map.reported
  | none => n.map.reported

/-- A coordinator that has counted a promise. -/
def promiseCounted (n : Node) (p : Promise) : Node :=
  modMap (meetEpoch n p.committed) fun m => { m with promises := m.promises ++ [p.node], reported := reportedWith n p }

/-- A coordinator that the majority has promised: it proposes again the epoch of the highest ballot reported (R344). -/
def goesOn (n : Node) (rep : List Accepted) (b : Nat) : Node := match highestReported rep with
  | some a => sendAccept (modMap n fun m => { m with ready := true }) { a with ballot := b }
  | none => modMap n fun m => { m with ready := true }

theorem goesOn_ready (rep : List Accepted) : (goesOn n rep b).map.ready = true ∧ (goesOn n rep b).map.promises = n.map.promises := by
  unfold goesOn
  split
  · simp only [sendAccept, foldl_emit]
    exact ⟨rfl, rfl⟩
  · exact ⟨rfl, rfl⟩

theorem keeperPromise_counts (hb : n.map.ballot = some b) (h : p.ballot = b) (hk : p.node ∈ n.map.map.keepers) (hp : p.node ∉ n.map.promises) (hr : n.map.ready = false) :
    keeperPromise p n = if n.map.promises.length + 1 < n.map.map.keepers.length / 2 + 1 then promiseCounted n p else goesOn (promiseCounted n p) (reportedWith n p) b := by
  subst h
  have hnew : ¬ (p.ballot != p.ballot || !n.map.map.keepers.contains p.node || n.map.promises.contains p.node) = true := by simp [hk, hp]
  have hcount : (promiseCounted n p).map.promises.length = n.map.promises.length + 1 := by simp [promiseCounted, modMap, meetEpoch]
  have hready : (promiseCounted n p).map.ready = false := hr
  simp only [keeperPromise, hb, Nat.lt_irrefl, if_false, if_neg hnew]
  change (if ((promiseCounted n p).map.ready || decide ((promiseCounted n p).map.promises.length < majority n)) = true then promiseCounted n p
    else goesOn (promiseCounted n p) (reportedWith n p) p.ballot) = _
  rw [hready, hcount, Bool.false_or]
  by_cases hmaj : n.map.promises.length + 1 < n.map.map.keepers.length / 2 + 1
  · rw [if_pos hmaj]
    exact if_pos (decide_eq_true hmaj)
  · rw [if_neg hmaj]
    exact if_neg fun h => hmaj (of_decide_eq_true h)

theorem goesOn_proposes {a : Accepted} : (goesOn n [a] b).map.inflight = some { a with ballot := b }
    ∧ (goesOn n [a] b).out = n.out ++ n.map.map.keepers.map fun k => .accept k { a with ballot := b } := by
  change (sendAccept (modMap n fun m => { m with ready := true }) { a with ballot := b }).map.inflight = _ ∧ (sendAccept (modMap n fun m => { m with ready := true }) { a with ballot := b }).out = _
  rw [sendAccept, foldl_emit]
  exact ⟨rfl, rfl⟩

/-! ## Acceptances of keepers and proposals -/

theorem acceptEpoch_accepts {a : Accepted} (h : nodeId n ∈ n.map.map.keepers) (hb : n.map.promised ≤ a.ballot) (he : a.epoch = epochOf n + 1) :
    acceptEpoch a n = emit (modMap n fun m => { m with promised := a.ballot, accepted := some a }) (.accepted (a.ballot % 8192) (nodeId n) a.ballot a.epoch true) := by
  have hne : ¬ (a.epoch != epochOf n + 1) = true := by simp [he]
  simp only [acceptEpoch, amKeeper_of_mem h, Bool.not_true, Bool.false_eq_true, if_false, if_neg (Nat.not_lt.mpr hb), if_neg hne]

theorem acceptEpoch_refuses {a : Accepted} (h : nodeId n ∈ n.map.map.keepers) (hb : a.ballot < n.map.promised) :
    acceptEpoch a n = emit n (.accepted (a.ballot % 8192) (nodeId n) n.map.promised a.epoch false) := by
  simp only [acceptEpoch, amKeeper_of_mem h, Bool.not_true, Bool.false_eq_true, if_false, if_pos hb]

theorem proposal_gathers {q : Proposal} (hb : n.map.ballot = some b) : proposal (.arrive q) t n = modMap n fun m => { m with gathered := m.gathered ++ [q] } := by
  simp only [proposal, hb, Option.isSome_some, if_true]

theorem unexpired_of {q : Proposal} (h : ∀ e, q.expire = some e → t.tick ≤ e) : unexpired t q = true := by
  unfold unexpired
  split
  case h_1 e he => exact decide_eq_true (h e he)
  case h_2 => rfl

/-- What a coordinator may propose with at a notch 0 (R345). -/
structure MayPropose (t : Tck) (n : Node) : Prop where
  ready : n.map.ready = true
  idle : n.map.inflight = none
  notch : t.notch = 0
  first : n.map.proposedAt ≠ some t.tick
  runs : stopped n = false

theorem MayPropose.guard (h : MayPropose t n) : (!n.map.ready || n.map.inflight.isSome || t.notch != 0 || n.map.proposedAt == some t.tick || stopped n) = false := by
  simp [h.ready, h.idle, h.notch, h.first, h.runs]

section

variable {q : Proposal} (hm : MayPropose t n) (hg : n.map.gathered = [q]) (hx : ∀ e, q.expire = some e → t.tick ≤ e)

include hm hg hx

theorem proposal_proposes (hb : n.map.ballot = some b) (hk : newKeepers n = none) (he : epochOf n ≠ 0xFFFFFFFF) :
    proposal .propose t n = sendAccept (modMap n fun m => { m with gathered := [], proposedAt := some t.tick }) ⟨b, epochOf n + 1, [q]⟩ := by
  have hall : n.map.gathered.filter (unexpired t) ++ ownKeepers n = [q] := by
    rw [hg, List.filter_cons_of_pos (unexpired_of hx), List.filter_nil, ownKeepers, hk, List.append_nil]
  simp only [proposal, hm.guard, Bool.false_eq_true, if_false, hall, List.isEmpty_cons, if_neg he, hb]

theorem proposal_epoch_end (he : epochOf n = 0xFFFFFFFF) : proposal .propose t n = epochEnd t (modMap n fun m => { m with gathered := [] }) := by
  have hall : (n.map.gathered.filter (unexpired t) ++ ownKeepers n).isEmpty = false := by
    rw [hg, List.filter_cons_of_pos (unexpired_of hx)]
    rfl
  simp only [proposal, hm.guard, Bool.false_eq_true, if_false, hall, if_pos he]

end

/-! ## A map's epoch -/

/-- A change that is applied leaves a map of an epoch. -/
def Applied.OfEpoch (e : Nat) (x : Applied) : Prop := ∀ m, x = .ok m → m.epoch = e

theorem Applied.OfEpoch.bad (e o : Nat) : (Applied.bad o).OfEpoch e := fun _ h => nomatch h
theorem Applied.OfEpoch.denied (e : Nat) : Applied.denied.OfEpoch e := fun _ h => nomatch h
theorem Applied.OfEpoch.ok {e : Nat} {m : FMap} (h : m.epoch = e) : (Applied.ok m).OfEpoch e := fun _ hm => by cases hm; exact h

theorem Applied.OfEpoch.ite {e : Nat} {x y : Applied} {p : Prop} [Decidable p] (hx : x.OfEpoch e) (hy : y.OfEpoch e) : (if p then x else y).OfEpoch e := by
  split
  · exact hx
  · exact hy

theorem allow_ofEpoch {e : Nat} {m : FMap} (h : m.epoch = e) (c : Bool) (o : Nat) : (allow c o m).OfEpoch e := .ite (.ok h) (.bad e o)

theorem foldl_epoch {α : Type} {f : FMap → α → FMap} (hf : ∀ m x, (f m x).epoch = m.epoch) (l : List α) (m : FMap) : (l.foldl f m).epoch = m.epoch := by
  induction l generalizing m with
  | nil => rfl
  | cons a l ih => rw [List.foldl_cons, ih, hf]

theorem takePlace_epoch (m : FMap) (old new : Nat) : (takePlace m old new).epoch = m.epoch := by
  unfold takePlace
  split
  · rfl
  · split <;> rfl

theorem applySlice_ofEpoch (m : FMap) (op : Nat) (s : SliceF) : (applySlice m op s).OfEpoch m.epoch := by
  unfold applySlice
  split
  · exact .bad _ _
  · refine .ite (allow_ofEpoch rfl _ _) (.ite (.bad _ _) (.ite (.denied _) ?_))
    split
    · exact .bad _ _
    · exact .ite (allow_ofEpoch rfl _ _) (.ite (.bad _ _) (.ok rfl))

theorem applyState_ofEpoch (m : FMap) (k to_ : Nat) : (applyState m k to_).OfEpoch m.epoch :=
  .ite (allow_ofEpoch rfl _ _) (.ite (.ite (.ok rfl) (allow_ofEpoch rfl _ _))
    (.ite (allow_ofEpoch rfl _ _) (.ite (allow_ofEpoch rfl _ _) (.ite (allow_ofEpoch rfl _ _) (.bad _ _)))))

theorem applyDrain_ofEpoch (m : FMap) (k s : Nat) : (applyDrain m k s).OfEpoch m.epoch := by
  unfold applyDrain
  split
  · exact .ite (.bad _ _) (.ite (.bad _ _) (.ok rfl))
  · exact .bad _ _
  · exact .bad _ _

theorem applyWhole_ofEpoch (m : FMap) (g : Nat) : (applyWhole m g).OfEpoch m.epoch := by
  unfold applyWhole
  split
  · exact .bad _ _
  · refine .ite (.bad _ _) (.ok (foldl_epoch (fun y p => ?_) _ m))
    exact takePlace_epoch _ _ _

theorem applyChange_ofEpoch (m : FMap) (c : Change) : (applyChange m c).OfEpoch m.epoch := by
  cases c with
  | nodeState k to_ => exact applyState_ofEpoch m k to_
  | slice op s => exact applySlice_ofEpoch m op s
  | drainStart k s => exact applyDrain_ofEpoch m k s
  | groupWhole g => exact applyWhole_ofEpoch m g
  | revokeAll k => exact .ok rfl
  | groupForm g members units =>
    rw [applyChange]
    refine allow_ofEpoch ?_ _ _
    rw [foldl_epoch]
    exact fun _ _ => rfl
  | drainDone k pages seqs => exact allow_ofEpoch (m := setNodeState (takePlace _ _ _) _ _) (takePlace_epoch _ _ _) _ _
  | keepers | groupDissolve | period | flag | drainCancel | tenant => exact allow_ofEpoch rfl _ _

theorem applyAll_ofEpoch (l : List Change) (m : FMap) : (applyAll m l).OfEpoch m.epoch := by
  induction l generalizing m with
  | nil => exact .ok rfl
  | cons c l ih =>
    rw [applyAll]
    split
    case h_1 m1 h1 => rw [← applyChange_ofEpoch m c m1 h1]; exact ih m1
    case h_2 h1 => exact applyChange_ofEpoch m c

theorem applyProps_epoch (l : List Proposal) (m : FMap) : (applyProps m l).1.epoch = m.epoch := by
  induction l generalizing m with
  | nil => rfl
  | cons p l ih =>
    rw [applyProps]
    dsimp only
    rw [ih]
    split
    · rfl
    split
    case h_1 x hx => exact applyAll_ofEpoch p.changes m x hx
    case h_2 | h_3 => rfl

theorem nameSuccessors_epoch (m : FMap) : (nameSuccessors m).epoch = m.epoch := by
  refine foldl_epoch (fun x k => ?_) _ m
  split
  · split
    · rfl
    · split <;> rfl
  · rfl

theorem nextMap_epoch (m : FMap) (coord : Nat) (props : List Proposal) : (nextMap m coord props).1.epoch = m.epoch + 1 :=
  (nameSuccessors_epoch _).trans (applyProps_epoch props _)

/-! ## An epoch installed -/

variable {c : CommitMsg} {m : FMap}

/-- The node that holds a map and shows it (R345, R347). -/
def shownEpoch (t : Tck) (c : CommitMsg) (m : FMap) (n : Node) : Node :=
  bump (wr (showMap (holdEpoch c m n)) Rg.mapLearnedTick (t.tick % 2 ^ 32)) Rg.mapCountsEpochs 1

theorem shownEpoch_map (t : Tck) (c : CommitMsg) (m : FMap) (n : Node) : (shownEpoch t c m n).map = (holdEpoch c m n).map := rfl

theorem rd_showMap {f : Fld} (h : f.off ∉ [0xE00000, 0xE00008, 0xE00010]) : rd (showMap n) f = rd n f := by
  simp only [List.mem_cons, List.not_mem_nil, or_false, not_or] at h
  obtain ⟨he, hs, hp⟩ := h
  rw [showMap, rd_wr_off _ _ _ _ hp]
  iterate 4 rw [rd_wr_off _ _ _ _ hs]
  exact rd_wr_off _ _ _ _ he

theorem epochOf_showMap (n : Node) : epochOf (showMap n) = n.map.map.epoch % 2 ^ 32 := by
  rw [epochOf, showMap]
  iterate 5 rw [rd_wr_off _ _ _ _ (by decide)]
  exact rd_wr_self _ _ _ (by decide)

theorem epochOf_shownEpoch : epochOf (shownEpoch t c m n) = m.epoch % 2 ^ 32 := by
  rw [shownEpoch, bump, epochOf]
  iterate 2 rw [rd_wr_off _ _ _ _ (by decide)]
  exact epochOf_showMap _

theorem rd_shownEpoch {f : Fld} (h : f.off ∉ [0xE00000, 0xE00004, 0xE00008, 0xE00010, 0xE00020]) : rd (shownEpoch t c m n) f = rd n f := by
  simp only [List.mem_cons, List.not_mem_nil, or_false, not_or] at h
  obtain ⟨he, hl, hs, hp, hc⟩ := h
  rw [shownEpoch, bump, rd_wr_off _ _ _ _ hc, rd_wr_off _ _ _ _ hl]
  exact rd_showMap (n := holdEpoch c m n) (by simp [he, hs, hp])

theorem nodeId_shownEpoch : nodeId (shownEpoch t c m n) = nodeId n := rd_shownEpoch (by decide)

theorem rd_learned_shownEpoch : rd (shownEpoch t c m n) Rg.mapLearnedTick = t.tick % 2 ^ 32 := by
  rw [shownEpoch, bump, rd_wr_off _ _ _ _ (by decide), rd_wr_self _ _ _ (by decide), Nat.mod_mod]

theorem rd_epochs_shownEpoch : rd (shownEpoch t c m n) Rg.mapCountsEpochs = satTo 16 (rd n Rg.mapCountsEpochs + 1) := by
  rw [shownEpoch, rd_bump_self _ _ _ (by decide), rd_wr_off _ _ _ _ (by decide), rd_showMap (by decide)]
  rfl

/-! What a quiet epoch leaves undone. -/

theorem filter_gstate_nil {k : Nat} (h : ∀ g ∈ m.groups, g.2.gstate = 0) (hk : k ≠ 0) : m.groups.filter (·.2.gstate == k) = [] :=
  List.filter_eq_nil_iff.mpr fun g hg => by rw [h g hg]; simpa using Ne.symm hk

theorem mem_of_mget? {β : Type} {l : NMap β} {k : Nat} {v : β} (h : mget? l k = some v) : (k, v) ∈ l := by
  induction l with
  | nil => cases h
  | cons x l ih =>
    obtain ⟨a, y⟩ := x
    rw [mget?_cons] at h
    split at h
    case isTrue e => subst e; cases h; exact List.mem_cons_self
    case isFalse => exact List.mem_cons_of_mem _ (ih h)

theorem newlyFailed_whole (h : ∀ g ∈ m.groups, g.2.gstate = 0) (old : FMap) (me : Nat) : newlyFailed m old me = false := by
  unfold newlyFailed
  split
  · split
    case h_1 g g0 hg _ => rw [h _ (mem_of_mget? hg)]; rfl
    case h_2 => rfl
  · rfl

theorem beginRebuild_none (hw : ∀ g ∈ n.map.map.groups, g.2.gstate = 0) (hr : n.map.rebuild = none) : beginRebuild t n = n := by
  rw [beginRebuild, filter_gstate_nil hw (by decide), hr]
  rfl

theorem tellCommand_none (hw : n.map.waits = []) (r : PropResult) : tellCommand t n r = n := by
  rw [tellCommand, hw]
  exact if_pos (Bool.or_true _)

theorem tellDrains_none (hd : n.map.drains = []) (x : Change) : tellDrains t n x = n := by
  have hn : { n with map := { n.map with drains := [] } } = n := by rw [← hd]
  unfold tellDrains
  split
  · simp only [hd, List.filter_nil, List.foldl_nil, hn]
  · rfl

theorem expireWaits_none (hw : n.map.waits = []) : expireWaits t n = n := by
  have hn : { n with map := { n.map with waits := [] } } = n := by rw [← hw]
  simp only [expireWaits, hw, List.filter_nil, List.foldl_nil, hn]

/-- A quiet epoch is held and shown, and nothing else (R345, R347, R354, R359). -/
theorem installEpoch_quiet (hq : QuietEpoch n (nextMap n.map.map c.coord c.props).1) : installEpoch c t n = shownEpoch t c (nextMap n.map.map c.coord c.props).1 n := by
  obtain ⟨hwaits, hdrains, -, hrebuild, hlost, hwhole, hdrain⟩ := hq
  rcases hnext : nextMap n.map.map c.coord c.props with ⟨m, rs⟩
  rw [hnext] at hlost hwhole hdrain
  have hgone : (mkeys m.nodes).filter (fun k => stateIn m k == 4 && stateIn n.map.map k != 4 && k != nodeId n) = [] :=
    List.filter_eq_nil_iff.mpr fun k _ h => by
      simp only [Bool.and_eq_true, beq_iff_eq, bne_iff_ne] at h
      exact h.1.2 (hlost k h.2 h.1.1)
  have hstays : ¬ (decide (stateIn m (nodeId n) = 2) && stateIn n.map.map (nodeId n) != 2) = true := by
    simp only [Bool.and_eq_true, decide_eq_true_eq, bne_iff_ne]
    exact fun h => h.2 (hdrain h.1)
  have hbegin : beginRebuild t (shownEpoch t c m n) = shownEpoch t c m n := beginRebuild_none hwhole hrebuild
  have htold : rs.foldl (tellCommand t) (shownEpoch t c m n) = shownEpoch t c m n := List.foldl_fixed' (tellCommand_none (n := shownEpoch t c m n) hwaits) _
  have hended : (c.props.flatMap (·.changes)).foldl (tellDrains t) (shownEpoch t c m n) = shownEpoch t c m n := List.foldl_fixed' (tellDrains_none (n := shownEpoch t c m n) hdrains) _
  have hexpired : expireWaits t (shownEpoch t c m n) = shownEpoch t c m n := expireWaits_none hwaits
  simp only [installEpoch, hnext, hgone, List.foldl_nil, newlyFailed_whole hwhole, Bool.false_eq_true, if_false, if_neg hstays]
  change expireWaits t ((c.props.flatMap (·.changes)).foldl (tellDrains t) (rs.foldl (tellCommand t) (beginRebuild t (shownEpoch t c m n)))) = _
  rw [hbegin, htold, hended, hexpired]

/-- The children of the tree that a commit is forwarded to (R345). -/
theorem forwardCommit_eq (c : CommitMsg) (n : Node) : forwardCommit c n = { n with out := n.out ++ (treeChildren n.map.map c.coord (nodeId n)).map fun k => .commit k c } := foldl_emit _ _ n

/-- A quiet commit in its turn is held, shown and forwarded (R345). -/
theorem takeCommit_quiet (h0 : epochOf n ≠ 0) (he : c.epoch = epochOf n + 1) (hq : QuietEpoch n (nextMap n.map.map c.coord c.props).1) :
    takeCommit c t n = forwardCommit c (shownEpoch t c (nextMap n.map.map c.coord c.props).1 n) := by
  have ⟨_, _, hearly, _⟩ := hq
  have hnew : ¬ (decide (epochOf n = 0) || decide (c.epoch ≤ epochOf n)) = true := by simp [h0, he]
  have hinstall : installAll t (0 + 1) c n = forwardCommit c (shownEpoch t c (nextMap n.map.map c.coord c.props).1 n) := by
    have hnone : (forwardCommit c (shownEpoch t c (nextMap n.map.map c.coord c.props).1 n)).map.early = [] := by rw [forwardCommit_eq]; exact hearly
    simp only [installAll, he, bne_self_eq_false, Bool.false_eq_true, if_false, installEpoch_quiet hq, hnone, List.find?_nil]
  simp only [takeCommit, if_neg hnew, if_pos he, hearly, List.length_nil, hinstall]

/-- The commit of a coordinator's epoch, with the digest of its map (R344, R345). -/
def commitOf (n : Node) (a : Accepted) : CommitMsg := ⟨a.epoch, a.props, nodeId n, sha384 (mapBytes (nextMap n.map.map (nodeId n) a.props).1 none)⟩

/-- A coordinator that has counted an acceptance. -/
def acceptanceCounted (n : Node) (k : Nat) : Node := modMap n fun m => { m with acceptedBy := m.acceptedBy ++ [k] }

/-- A coordinator whose epoch has its majority: the other keepers have the commit (R344). -/
def commitSent (n : Node) (a : Accepted) : Node :=
  { n with
    map := { n.map with inflight := none, acceptedBy := [] }
    out := n.out ++ (n.map.map.keepers.filter (· != nodeId n)).map fun j => .commit j (commitOf n a) }

/-- A coordinator that is no longer fit to be one steps down once it holds an epoch (R343). -/
def staysFit (n : Node) : Node := if (amKeeper n && stateIn n.map.map (nodeId n) == 1 && !isSuspect n (nodeId n)) = true then n else stepDown n

theorem staysFit_keeps {β : Type} (g : Node → β) (hw : ∀ n f v, g (wr n f v) = g n) (hm : ∀ n : Node, g (modMap n fun m => { m with ballot := none, promises := [], reported := [], ready := false, inflight := none, acceptedBy := [] }) = g n) :
    g (staysFit n) = g n := by
  unfold staysFit
  split
  · rfl
  · exact (hw _ _ _).trans (hm n)

section

variable {a : Accepted} {k epoch ballot : Nat} (hb : n.map.ballot = some b) (ha : n.map.inflight = some a)

include hb ha

theorem keeperAcceptance_refused (h : b < ballot) : keeperAcceptance k ballot epoch false t n = (t, modMap (stepDown n) fun m => { m with promised := max m.promised ballot }) := by
  simp only [keeperAcceptance, hb, ha, Bool.not_false, if_true, if_pos h]

variable (he : epoch = a.epoch) (hk : k ∈ n.map.map.keepers) (hnew : k ∉ n.map.acceptedBy)

include he hk hnew

theorem keeperAcceptance_counts (h : n.map.acceptedBy.length + 1 < n.map.map.keepers.length / 2 + 1) :
    keeperAcceptance k b epoch true t n = (t, acceptanceCounted n k) := by
  have hc : ¬ (b != b || epoch != a.epoch || !n.map.map.keepers.contains k || n.map.acceptedBy.contains k) = true := by simp [he, hk, hnew]
  have hmin : (acceptanceCounted n k).map.acceptedBy.length < majority (acceptanceCounted n k) := by simpa [acceptanceCounted, modMap, majority] using h
  simp only [keeperAcceptance, hb, ha, Bool.not_true, Bool.false_eq_true, if_false, if_neg hc]
  exact if_pos (Bool.or_eq_true_iff.mpr (.inl (decide_eq_true hmin)))

theorem keeperAcceptance_commits (h : n.map.map.keepers.length / 2 + 1 ≤ n.map.acceptedBy.length + 1) (hep : a.epoch = epochOf n + 1) :
    (keeperAcceptance k b epoch true t n).2 = staysFit (takeCommit (commitOf n a) t (commitSent n a)) := by
  have hc : ¬ (b != b || epoch != a.epoch || !n.map.map.keepers.contains k || n.map.acceptedBy.contains k) = true := by simp [he, hk, hnew]
  have hgo : ¬ (decide ((acceptanceCounted n k).map.acceptedBy.length < majority (acceptanceCounted n k)) || a.epoch != epochOf (acceptanceCounted n k) + 1) = true := by
    have hl : (acceptanceCounted n k).map.acceptedBy.length = n.map.acceptedBy.length + 1 := by simp [acceptanceCounted, modMap]
    have hm : majority (acceptanceCounted n k) = n.map.map.keepers.length / 2 + 1 := rfl
    have he : epochOf (acceptanceCounted n k) = epochOf n := rfl
    rw [hl, hm, he, hep, decide_eq_false (Nat.not_lt.mpr h), bne_self_eq_false]
    decide
  have hsent : ((n.map.map.keepers.filter (· != nodeId n)).foldl (fun x j => emit x (.commit j (commitOf n a)))
      (modMap (acceptanceCounted n k) fun x => { x with inflight := none, acceptedBy := [] })) = commitSent n a := foldl_emit _ _ _
  simp only [keeperAcceptance, hb, ha, Bool.not_true, Bool.false_eq_true, if_false, if_neg hc]
  rw [← hsent]
  exact congrArg Prod.snd (if_neg hgo)

end

/-- A quiet epoch that its coordinator commits (R344, R345). -/
theorem takeCommit_sent {a : Accepted} (h0 : epochOf n ≠ 0) (hep : a.epoch = epochOf n + 1) (hq : QuietEpoch n (nextMap n.map.map (nodeId n) a.props).1) :
    takeCommit (commitOf n a) t (commitSent n a) = forwardCommit (commitOf n a) (shownEpoch t (commitOf n a) (nextMap n.map.map (nodeId n) a.props).1 (commitSent n a)) :=
  takeCommit_quiet (n := commitSent n a) (c := commitOf n a) h0 hep hq

end

/-- Settles O47: with no command, drain, rebuild or loss waiting on it an epoch only replaces the map, shows it and goes down the tree, and every change of a map
leaves its epoch. -/
theorem keepersAgreeOnEachEpochAndNodesHoldIt : Obligations.KeepersAgreeOnEachEpochAndNodesHoldIt := by
  refine ⟨fun s b hk => ?receives, fun s hb hm => ?begins, fun s p b hb => ⟨fun h => ?above, fun hp hk hnew hr => ?counts⟩,
    fun s a hk => ⟨fun hb he => ?accepts, fun hb => ?refuses⟩, fun s p b hb => ⟨?gathers, fun hg hx hkeep hr hi ht hp hs he => ?proposes, fun hg hx hr hi ht hp hs he => ?ends⟩,
    fun s k ballot epoch b a hb ha => ⟨fun h => ?refused, fun hbal hep hk hnew => ⟨fun h => ?counted, fun h he h0 hq => ?commits⟩⟩,
    fun s i c hi h0 he hq => ?installs, fun s => ⟨fun h => ?asks, fun node from_ => ?asked⟩⟩
  case receives =>
    rw [exec_prepare, prepare_promises hk]
    exact ⟨_, rfl, rfl, rfl⟩
  case begins =>
    obtain ⟨N, hN, hbal, hready, hcoord, hout⟩ := prepare_begins hb hm
    exact ⟨N, newBallot s.node, by rw [exec_prepare, hN], hbal, promised_lt_newBallot _, newBallot_mod _, hready, hcoord, hout⟩
  case above =>
    rw [exec_keeperPromise, keeperPromise_above hb h]
    exact ⟨_, rfl, rfl, rfl, rd_coord_stepDown _⟩
  case counts =>
    have hcount := keeperPromise_counts hb hp hk hnew hr
    by_cases h : s.node.map.promises.length + 1 < s.node.map.map.keepers.length / 2 + 1
    · rw [if_pos h] at hcount
      rw [exec_keeperPromise, hcount]
      exact ⟨_, rfl, rfl, fun _ => ⟨hr, rfl⟩, fun h' => absurd h (Nat.not_lt.mpr h')⟩
    · rw [if_neg h] at hcount
      rw [exec_keeperPromise, hcount]
      refine ⟨_, rfl, (goesOn_ready _).2, fun h' => absurd h' h, fun _ => ⟨(goesOn_ready _).1, fun hrep a ha hae => ?_⟩⟩
      have hone : reportedWith s.node p = [a] := by simp [reportedWith, ha, hae, hrep]
      rw [hone]
      exact goesOn_proposes
  case accepts =>
    rw [exec_accept, acceptEpoch_accepts hk hb he]
    exact ⟨_, rfl, rfl, rfl⟩
  case refuses => rw [exec_accept, acceptEpoch_refuses hk hb]
  case gathers =>
    rw [exec_proposal, proposal_gathers hb]
    exact ⟨_, rfl, rfl⟩
  case proposes =>
    rw [exec_proposal, proposal_proposes ⟨hr, hi, ht, hp, hs⟩ hg hx hb hkeep he, sendAccept, foldl_emit]
    exact ⟨_, rfl, rfl, rfl, rfl⟩
  case ends =>
    rw [exec_proposal, proposal_epoch_end ⟨hr, hi, ht, hp, hs⟩ hg hx he]
    exact ⟨_, rfl, codes_raise _ _ _ _, rfl⟩
  case refused =>
    rw [exec_keeperAcceptance, keeperAcceptance_refused hb ha h]
    exact ⟨_, rfl, rfl, rfl, rd_coord_stepDown _⟩
  case counted =>
    rw [exec_keeperAcceptance, hbal, keeperAcceptance_counts hb ha hep hk hnew h]
    exact ⟨_, rfl, rfl, rfl⟩
  case commits =>
    have hN := keeperAcceptance_commits (t := s.tck) hb ha hep hk hnew h he
    rw [takeCommit_sent h0 he hq, forwardCommit_eq] at hN
    refine ⟨_, commitOf s.node a, exec_keeperAcceptance k ballot epoch true s, ?_, rfl, ?_⟩
    · rw [hbal, hN, staysFit_keeps (·.map.map) (fun _ _ _ => rfl) fun _ => rfl]
      rfl
    · have hme : nodeId (shownEpoch s.tck (commitOf s.node a) (nextMap s.node.map.map (nodeId s.node) a.props).1 (commitSent s.node a)) = nodeId s.node := nodeId_shownEpoch
      rw [hbal, hN, staysFit_keeps (·.out) (fun _ _ _ => rfl) fun _ => rfl, staysFit_keeps (·.map.map) (fun _ _ _ => rfl) fun _ => rfl]
      simp only [hme]
      rfl
  case installs =>
    have hexec : exec i s = .next { s with tck := (commit c s.tck s.node).1, node := (commit c s.tck s.node).2 } := by
      rcases hi with rfl | rfl
      · exact exec_commit c s
      · exact exec_epochFetch _ s
    have hN : (commit c s.tck s.node).2 = forwardCommit c (shownEpoch s.tck c (nextMap s.node.map.map c.coord c.props).1 s.node) := takeCommit_quiet h0 he hq
    rw [hN, forwardCommit_eq] at hexec
    refine ⟨_, hexec, rfl, ?_, rd_learned_shownEpoch, rd_epochs_shownEpoch, rfl, ?_⟩
    · exact epochOf_shownEpoch.trans (by rw [nextMap_epoch])
    · simp only [nodeId_shownEpoch]
      rfl
  case asks =>
    rw [exec_epochFetch]
    simp only [epochFetch, if_pos h]
  case asked =>
    rw [exec_epochFetch]
    simp only [epochFetch, foldl_emit]
    exact ⟨_, rfl, rfl, rfl⟩

end Sys2Proof.Machine
end

section
/-! Liveness, loss and fencing (R347, R348, R352, R353). -/

namespace Sys2Proof.Machine

section

variable {t : Tck} {n : Node} {k : Nat}

theorem exec_livenessReport (ev : LivenessEv) (s : State) : exec (.livenessReport ev) s = .next (s.withNode (livenessReport ev s.tck s.node)) := rfl
theorem exec_livenessAck (k : BitVec 13) (s : State) : exec (.livenessAck k) s = .next (s.withNode (livenessAck k.toNat s.tck s.node)) := rfl
theorem exec_lossWindowExpiry (ev : LossEv) (s : State) : exec (.lossWindowExpiry ev) s = .next (s.withNode (lossWindow ev s.tck s.node)) := rfl
theorem exec_fence (s : State) : exec .fence s = .next (s.withNode (fence s.tck s.node)) := rfl
theorem exec_fenceEnd (s : State) : exec .fenceEnd s = .next (s.withNode (fenceEnd s.tck s.node)) := rfl

/-! ## Reports -/

theorem livenessReport_sends (ht : t.tick % 16 = nodeId n % 16) (h0 : t.notch = 0) (hs : stopped n = false) :
    livenessReport .send t n = { n with out := n.out ++ n.map.map.keepers.map fun k => .liveness k } := by
  have hg : (t.tick % 16 == nodeId n % 16 && t.notch == 0 && !stopped n) = true := by simp [ht, h0, hs]
  simp only [livenessReport, if_pos hg, foldl_emit]

theorem livenessReport_notes (hk : nodeId n ∈ n.map.map.keepers) :
    livenessReport (.receive k) t n = emit (modMap n fun m => { m with lastReport := mset m.lastReport k t.tick, told := m.told.filter (· != k), silent := mdel m.silent k }) (.livenessAck k) := by
  simp only [livenessReport, amKeeper_of_mem hk, Bool.not_true, Bool.false_eq_true, if_false]

theorem livenessAck_notes (hk : k ∈ n.map.map.keepers) : livenessAck k t n = modMap n fun m => { m with acks := mset m.acks k t.tick } :=
  if_pos (List.contains_iff_mem.mpr hk)

/-! ## Silence -/

section

variable {r : Nat} (hr : mget? n.map.lastReport k = some r)

include hr

theorem lossWindow_tells (hk : nodeId n ∈ n.map.map.keepers) (hst : stateIn n.map.map k = 1 ∨ stateIn n.map.map k = 2) (hnew : k ∉ n.map.told)
    (h : r + rd n Rg.mapCfgLossTicks ≤ t.tick) : lossWindow (.expire k) t n = emit (modMap n fun m => { m with told := m.told ++ [k] }) (.silentNode n.map.map.coord k) := by
  have hg : (amKeeper n && (stateIn n.map.map k == 1 || stateIn n.map.map k == 2) && decide (r + rd n Rg.mapCfgLossTicks ≤ t.tick) && !n.map.told.contains k) = true := by
    rcases hst with hst | hst <;> simp [amKeeper_of_mem hk, hst, h, hnew]
  simp only [lossWindow, hr]
  exact if_pos hg

theorem lossWindow_within (h : t.tick < r + rd n Rg.mapCfgLossTicks) : lossWindow (.expire k) t n = n := by
  simp only [lossWindow, hr, decide_eq_false (Nat.not_le.mpr h), Bool.and_false, Bool.false_and, Bool.false_eq_true, if_false]

end

/-- A coordinator that has counted a keeper's word of a node's silence (R352). -/
def silenceCounted (n : Node) (keeper k : Nat) : Node := modMap n fun m => { m with silent := mset m.silent k (mgetD n.map.silent k [] ++ [keeper]) }

/-- A coordinator that proposes a node LOST (R348, R352). -/
def lossGathered (n : Node) (keeper k : Nat) : Node := modMap (silenceCounted n keeper k) fun m => { m with gathered := m.gathered ++ [ownProposal n [.nodeState k 4]] }

theorem lossWindow_counts {keeper : Nat} (hb : n.map.ballot ≠ none) (hk : keeper ∈ n.map.map.keepers) (hnew : keeper ∉ mgetD n.map.silent k [])
    (hst : stateIn n.map.map k = 1 ∨ stateIn n.map.map k = 2) :
    lossWindow (.told keeper k) t n = if (mgetD n.map.silent k []).length + 1 = n.map.map.keepers.length / 2 + 1 then
        (if noSpareFor n k then raise t (lossGathered n keeper k) evMapNoSpare [] else lossGathered n keeper k)
      else silenceCounted n keeper k := by
  have hg : ¬ (n.map.ballot.isNone || !n.map.map.keepers.contains keeper || (mgetD n.map.silent k []).contains keeper || !(stateIn n.map.map k == 1 || stateIn n.map.map k == 2)) = true := by
    rcases hst with h | h <;> simp [hb, hk, hnew, h]
  simp only [lossWindow]
  rw [if_neg hg]
  rfl

/-! ## The fence -/

/-- A node that has fenced itself, before its commands end (R353). -/
def fenceRaised (n : Node) : Node := bump (wr n Rg.mapStatusFenced 1) Rg.mapCountsFences 1

theorem rd_fenced_fenceRaised (n : Node) : rd (fenceRaised n) Rg.mapStatusFenced = 1 := by
  rw [fenceRaised, bump, rd_wr_off _ _ _ _ (by decide)]
  exact rd_wr_self _ _ _ (by decide)

theorem rd_fences_fenceRaised (n : Node) : rd (fenceRaised n) Rg.mapCountsFences = satTo 16 (rd n Rg.mapCountsFences + 1) := by
  rw [fenceRaised, rd_bump_self _ _ _ (by decide), rd_wr_off _ _ _ _ (by decide)]

theorem rd_fenced_stepDown (n : Node) : rd (stepDown n) Rg.mapStatusFenced = rd n Rg.mapStatusFenced := rd_wr_field _ _ _ _ rfl (by decide) (by decide)

theorem fence_fences (hf : rd n Rg.mapStatusFenced = 0) (hst : stateIn n.map.map (nodeId n) = 1 ∨ stateIn n.map.map (nodeId n) = 2)
    (ha : ackedWithin t n (rd n Rg.mapCfgLossTicks - 16) < n.map.map.keepers.length / 2 + 1) :
    fence t n = stepDown ((n.fe.cmds.filter fun c => decide (0x10 ≤ c.op) && decide (c.op < 0x60)).foldl
      (fun m c => complete t (allocOver (dropJob (dropStep m c.handle) c.handle) c.handle) c.handle stPeerLost []) (fenceRaised n)) := by
  have hfen : fencedNode n = false := by simp [fencedNode, rdB, hf]
  have hmaj : ¬ majority n ≤ ackedWithin t n (fenceTicks n) := Nat.not_le.mpr ha
  have hg : ¬ (fencedNode n || !(stateIn n.map.map (nodeId n) == 1 || stateIn n.map.map (nodeId n) == 2) || decide (majority n ≤ ackedWithin t n (fenceTicks n))) = true := by
    rcases hst with h | h <;> simp [hfen, hmaj, h]
  have hrange : (fun c : Cmd => decide (1 ≤ c.op / 16) && decide (c.op / 16 ≤ 5)) = fun c => decide (0x10 ≤ c.op) && decide (c.op < 0x60) := by
    funext c
    congr 1 <;> simp only [decide_eq_decide] <;> omega
  rw [fence]
  dsimp only
  rw [if_neg hg, hrange]
  rfl

theorem fenceRaised_no_commands (h : ∀ c ∈ n.fe.cmds, c.op < 0x10 ∨ 0x60 ≤ c.op) : n.fe.cmds.filter (fun c => decide (0x10 ≤ c.op) && decide (c.op < 0x60)) = [] :=
  List.filter_eq_nil_iff.mpr fun c hc => by have := h c hc; simp; omega

/-! ## The fence's end -/

theorem mdel_eq_filter {β : Type} (m : NMap β) (k : Nat) : mdel m k = m.filter (·.1 != k) := by
  induction m with
  | nil => rfl
  | cons x l ih =>
    obtain ⟨a, v⟩ := x
    rw [mdel, ih, List.filter_cons]
    by_cases h : a = k <;> simp [h]

theorem qps_foldl_dropQp (l : List (Nat × Qp)) (n : Node) : (l.foldl (fun m e => dropQp m e.1) n).qst.qps = n.qst.qps.filter fun e => l.all (·.1 != e.1) := by
  induction l generalizing n with
  | nil => simp
  | cons x l ih =>
    rw [List.foldl_cons, ih, dropQp, mdel_eq_filter, List.filter_filter]
    congr 1
    funext e
    rw [List.all_cons, Bool.and_comm, bne_comm]

/-- Every queue pair goes (R353). -/
theorem discardAll_qps (n : Node) : (discardAll n).qst.qps = [] := by
  rw [discardAll, qps_foldl_dropQp]
  exact List.filter_eq_nil_iff.mpr fun e he h => by simpa using List.all_eq_true.mp h e he

/-- Discarding leaves all that no queue pair holds as the node's own parts are cleared (R353). -/
theorem discardAll_keeps {β : Type} (g : Node → β) (hg : ∀ (n : Node) q, g { n with qst := q } = g n) (n : Node) : g (discardAll n) = g { n with
    seqs := { n.seqs with open_ := [], elsewhere := [], snaps := [], retired := [], copies := [], applied := [] }
    att := { n.att with steps := [], shares := [], items := [], rowsIn := [], blocks := [], bound := [], tileJobs := [], planned := [] }
    cfl := { n.cfl with chains := [] }
    ter := { n.ter with pages := [], moves := [], busy := [], freed := [], allocWait := [] }
    map := { n.map with units := [], unitPoison := [], ackWaits := [], rebuild := none } } := foldl_keeps g (fun m _ => hg m _) _ _

section

variable (hf : rd n Rg.mapStatusFenced = 1) (ha : n.map.map.keepers.length / 2 + 1 ≤ ackedWithin t n (rd n Rg.mapCfgLossTicks - 16))

include hf ha

theorem fenceEnd_guard : ¬ (!fencedNode n || decide (ackedWithin t n (fenceTicks n) < majority n)) = true := by
  have hmaj : ¬ ackedWithin t n (fenceTicks n) < majority n := Nat.not_lt.mpr ha
  simp [fencedNode, rdB, hf, hmaj]

theorem fenceEnd_resumes (hst : stateIn n.map.map (nodeId n) ≠ 4) : fenceEnd t n = wr n Rg.mapStatusFenced 0 := by
  have hme : nodeId (wr n Rg.mapStatusFenced 0) = nodeId n := nodeId_wr _ _ _ (by decide)
  rw [fenceEnd, if_neg (fenceEnd_guard hf ha)]
  dsimp only
  rw [hme]
  exact if_neg hst

theorem fenceEnd_discards (hst : stateIn n.map.map (nodeId n) = 4) :
    fenceEnd t n = forwardChanges (raise t (discardAll (wr n Rg.mapStatusFenced 0)) evMapRejoin []) (ownProposal n [.nodeState (nodeId n) 1]) := by
  have hme : nodeId (wr n Rg.mapStatusFenced 0) = nodeId n := nodeId_wr _ _ _ (by decide)
  rw [fenceEnd, if_neg (fenceEnd_guard hf ha)]
  dsimp only
  rw [ownProposal, hme, ownProposal]
  exact if_pos hst

end

/-- Proposing changes leaves all but what the coordinator gathers and what the node has sent. -/
theorem forwardChanges_keeps {β : Type} (g : Node → β) (hm : ∀ (n : Node) l, g { n with map := { n.map with gathered := l } } = g n) (ho : ∀ n o, g (emit n o) = g n) (n : Node) (p : Proposal) :
    g (forwardChanges n p) = g n := by
  unfold forwardChanges
  split
  · exact hm _ _
  · exact ho _ _

theorem forwardChanges_sends {p : Proposal} (hb : n.map.ballot = none) : forwardChanges n p = emit n (.propose n.map.map.coord p) := by simp only [forwardChanges, hb, Option.isSome_none, Bool.false_eq_true, if_false]

end

/-- Settles O48: each report, silence and acknowledgement is noted under its node alone, and the fence and its end follow the majority. -/
theorem livenessDecidesLossAndFencing : Obligations.LivenessDecidesLossAndFencing := by
  refine ⟨fun s ht h0 hs => ?sends, fun s k hk => ?notes, fun s k hk => ?acked, fun s k r hk hst hr hnew => ⟨fun h => ?tells, fun h => ?within⟩,
    fun s keeper k hb hk hnew hst => ?counts, fun s hf hst ha => ?fences, fun s hf ha => ⟨fun hst => ?resumes, fun hst => ?discards⟩⟩
  case sends =>
    rw [exec_livenessReport, livenessReport_sends ht h0 hs]
    exact ⟨_, rfl, rfl, rfl⟩
  case notes =>
    rw [exec_livenessReport, livenessReport_notes hk]
    refine ⟨_, rfl, mget?_mset_self _ _ _, by simp [modMap], (mget?_mdel _ _ _).trans (if_pos rfl), fun j hj => ⟨mget?_mset_ne _ _ _ _ hj, by simp [modMap, hj]⟩, rfl⟩
  case acked =>
    rw [exec_livenessAck, livenessAck_notes hk]
    exact ⟨_, rfl, mget?_mset_self _ _ _, fun j hj => mget?_mset_ne _ _ _ _ hj, rfl⟩
  case tells =>
    rw [exec_lossWindowExpiry, lossWindow_tells hr hk hst hnew h]
    exact ⟨_, rfl, rfl, rfl⟩
  case within => rw [exec_lossWindowExpiry, lossWindow_within hr h]
  case counts =>
    rw [exec_lossWindowExpiry, lossWindow_counts hb hk hnew hst]
    refine ⟨_, rfl, ?_⟩
    by_cases hmaj : (mgetD s.node.map.silent k []).length + 1 = s.node.map.map.keepers.length / 2 + 1
    · rw [if_pos hmaj, if_pos hmaj]
      split <;> exact ⟨mget?_mset_self _ _ _, rfl⟩
    · rw [if_neg hmaj, if_neg hmaj, List.append_nil]
      exact ⟨mget?_mset_self _ _ _, rfl⟩
  case fences =>
    have hN := fence_fences (t := s.tck) hf hst ha
    refine ⟨_, fenceRaised s.node, exec_fence s, rd_fenced_fenceRaised _, rd_fences_fenceRaised _, rfl, rfl, by rw [hN]; rfl, by rw [hN]; exact rd_coord_stepDown _, hN, fun hc => ?_⟩
    rw [hN, fenceRaised_no_commands hc, List.foldl_nil]
    exact ⟨(rd_fenced_stepDown _).trans (rd_fenced_fenceRaised _), rfl, rfl⟩
  case resumes => rw [exec_fenceEnd, fenceEnd_resumes hf ha hst]
  case discards =>
    rw [exec_fenceEnd, fenceEnd_discards hf ha hst]
    refine ⟨_, rfl, ?_, ?_, ?_, ?_, ?_, ?_, ?_, fun hb => ?_⟩
    · rw [forwardChanges_keeps (rd · Rg.mapStatusFenced) (fun _ _ => rfl) fun _ _ => rfl]
      exact (discardAll_keeps (rd · Rg.mapStatusFenced) (fun _ _ => rfl) _).trans (rd_wr_self _ _ _ (by decide))
    · rw [forwardChanges_keeps (·.seqs) (fun _ _ => rfl) fun _ _ => rfl]
      exact discardAll_keeps (·.seqs.open_) (fun _ _ => rfl) _
    · rw [forwardChanges_keeps (·.seqs) (fun _ _ => rfl) fun _ _ => rfl]
      exact discardAll_keeps (·.seqs.snaps) (fun _ _ => rfl) _
    · rw [forwardChanges_keeps (·.ter) (fun _ _ => rfl) fun _ _ => rfl]
      exact discardAll_keeps (·.ter.pages) (fun _ _ => rfl) _
    · rw [forwardChanges_keeps (·.qst) (fun _ _ => rfl) fun _ _ => rfl]
      exact discardAll_qps _
    · rw [forwardChanges_keeps (·.map.units) (fun _ _ => rfl) fun _ _ => rfl]
      exact discardAll_keeps (·.map.units) (fun _ _ => rfl) _
    · rw [forwardChanges_keeps (·.svc) (fun _ _ => rfl) fun _ _ => rfl, codes_raise]
      exact congrArg (·.arrivals.map (·.code) ++ [evMapRejoin]) (discardAll_keeps (·.svc) (fun _ _ => rfl) _)
    · have hbal : (raise s.tck (discardAll (wr s.node Rg.mapStatusFenced 0)) evMapRejoin []).map.ballot = none := (discardAll_keeps (·.map.ballot) (fun _ _ => rfl) _).trans hb
      have hcoord : (discardAll (wr s.node Rg.mapStatusFenced 0)).map.map.coord = s.node.map.map.coord := discardAll_keeps (·.map.map.coord) (fun _ _ => rfl) _
      have hout : (discardAll (wr s.node Rg.mapStatusFenced 0)).out = s.node.out := discardAll_keeps (·.out) (fun _ _ => rfl) _
      refine ⟨ownProposal s.node [.nodeState (nodeId s.node) 1], ?_, rfl⟩
      rw [forwardChanges_sends hbal, emit_out, raise_out, raise_map, hcoord, hout]

end Sys2Proof.Machine
end

section
/-! Map commands, drains, the rebuild of a lost member and parity (R342, R345, R348 to R351, R357 to R359). -/

namespace Sys2Proof.Machine

section

variable {t : Tck} {n : Node} {h : Nat} {c : Cmd}

theorem exec_mapPropose (h : Word) (s : State) : exec (.mapPropose h) s = .next (s.withNode (mapPropose h.toNat s.tck s.node)) := rfl
theorem exec_mapRead (h : Word) (s : State) : exec (.mapRead h) s = .next (s.withNode (mapRead h.toNat s.tck s.node)) := rfl
theorem exec_sliceGrant (h : Word) (s : State) : exec (.sliceGrant h) s = .next (s.withNode (sliceGrant h.toNat s.tck s.node)) := rfl
theorem exec_drain (ev : DrainEv) (s : State) : exec (.drain ev) s = .next (s.withNode (drain ev s.tck s.node)) := rfl
theorem exec_drainTimeout (h : Word) (s : State) : exec (.drainTimeout h) s = .next (s.withNode (drainTimeout h.toNat s.tck s.node)) := rfl
theorem exec_rebuildUnit (l : List Survivor) (s : State) : exec (.rebuildUnit l) s = .next (s.withNode (rebuildNext l s.tck s.node)) := rfl
theorem exec_rebuildDone (ev : RebuildEv) (s : State) : exec (.rebuildDone ev) s = .next (s.withNode (rebuildDone ev s.tck s.node)) := rfl
theorem exec_parityUpdate (m : ParityMsg) (s : State) : exec (.parityUpdate m) s = .next (s.withNode (parityUpdate m s.node)) := rfl
theorem exec_parityAcknowledgement (home : BitVec 13) (h : Word) (s : State) :
    exec (.parityAcknowledgement home h) s = .next (s.withNode (parityAck home.toNat h.toNat s.tck s.node)) := rfl

/-! ## Commands that propose -/

/-- The changes of a command as they go to the coordinator (R345, R348). -/
def commandProposal (n : Node) (c : Cmd) (base : Nat) (l : List Change) : Proposal := ⟨nodeId n, c.handle, base, some (c.accTick + rd n Rg.mapCfgProposeTicks), l⟩

/-- A command that waits for its change until it expires (R348). -/
def waiting (n : Node) (c : Cmd) (base : Nat) : Node :=
  modMap (setRunning n c.handle) fun m => { m with waits := m.waits ++ [⟨c.handle, base, c.accTick + rd n Rg.mapCfgProposeTicks⟩] }

theorem proposeFor_sends (base : Nat) (l : List Change) (hb : n.map.ballot = none) (he : epochOf n ≠ 0xFFFFFFFF) :
    proposeFor t n c base l = emit (waiting n c base) (.propose n.map.map.coord (commandProposal n c base l)) := by
  rw [proposeFor, if_neg he]
  exact forwardChanges_sends hb

theorem findCmd_waiting (base : Nat) (hf : findCmd n c.handle = some c) : findCmd (waiting n c base) c.handle = some { c with stage := .running } := findCmd_setRunning hf

/-- Parsing every element leaves the results where each has one. -/
theorem filterMap_of_map_some {α β : Type} {f : α → Option β} {l : List α} {r : List β} (h : l.map f = r.map some) : l.filterMap f = r := by
  have hid : l.filterMap f = (l.map f).filterMap id := by rw [List.filterMap_map, Function.id_comp]
  rw [hid, h, List.filterMap_map, Function.id_comp, List.filterMap_some]

section

variable {w : Word}

theorem proposeFor_waits {s : State} {i : Instr} {base : Nat} {l : List Change} (hf : findCmd s.node h = some c) (hb : s.node.map.ballot = none) (he : epochOf s.node ≠ 0xFFFFFFFF)
    (hi : exec i s = .next (s.withNode (proposeFor s.tck s.node c base l))) :
    ∃ N : Node, exec i s = .next (s.withNode N) ∧ findCmd N h = some { c with stage := .running }
      ∧ N.map.waits = s.node.map.waits ++ [⟨h, base, c.accTick + rd s.node Rg.mapCfgProposeTicks⟩]
      ∧ N.out = s.node.out ++ [.propose s.node.map.map.coord ⟨nodeId s.node, h, base, some (c.accTick + rd s.node Rg.mapCfgProposeTicks), l⟩] := by
  obtain rfl := findCmd_handle hf
  rw [proposeFor_sends base l hb he] at hi
  exact ⟨_, hi, findCmd_waiting base hf, rfl, rfl⟩

theorem mapPropose_proposes {l : List Change} (hr : Runs n w opMapPropose c) (ha : mult (c.f 24 8) 32 = true) (hlo : 1 ≤ c.f 32 2) (hhi : c.f 32 2 ≤ 64) (hv34 : rsv c 34 35 = [])
    (hv40 : rsv c 40 47 = []) (hv48 : rsv c 48 63 = []) (hl : ((List.range (c.f 32 2)).map fun i => parseChange (hostRead n c.mem (c.f 24 8 + 32 * i) 32)) = l.map some)
    (hm : l.any (holdsMine n) = false) : mapPropose w.toNat t n = proposeFor t n c (c.f 36 4) l := by
  obtain ⟨hf, hop, hst, hq, hh⟩ := hr
  have hchanges : ((List.range (c.f 32 2)).map fun i => hostRead n c.mem (c.f 24 8 + 32 * i) 32).filterMap parseChange = l :=
    filterMap_of_map_some (by rw [← hl, List.map_map]; rfl)
  have hlen : ((List.range (c.f 32 2)).map fun i => hostRead n c.mem (c.f 24 8 + 32 * i) 32).length = l.length := by
    simpa using congrArg List.length hl
  have hcount : (c.f 32 2 == 0 || decide (64 < c.f 32 2)) = false := by simp; omega
  rw [mapPropose, withCmd_eq _ hf hop hst hq]
  simp only [if_pos hhi, hchanges, hlen, hm]
  exact checked_ok _ hh (by simp only [ha, hcount, hv34, hv40, hv48, bne_self_eq_false]; rfl)

theorem sliceGrant_proposes (hr : Runs n w opSliceGrant c) (hcomp : c.f 24 2 ≠ 0) (hop : c.f 26 1 ≤ 2) (hshare : c.f 27 1 ≤ 100) (hnode : c.f 28 2 < 8192) (hv30 : rsv c 30 31 = [])
    (hlo : 1 ≤ c.f 32 2) (hhi : c.f 32 2 ≤ 255) (hsets : c.f 32 2 + c.f 34 2 ≤ 256) (hv52 : rsv c 52 63 = []) (hquota : c.f 26 1 = 2 → c.f 28 2 = nodeId n → quotaBelow n (grantSlice c) = false) :
    sliceGrant w.toNat t n = proposeFor t n c 0 [.slice (c.f 26 1) (grantSlice c)] := by
  obtain ⟨hf, hopc, hst, hq, hh⟩ := hr
  have hbelow : (c.f 26 1 == 2 && c.f 28 2 == nodeId n && quotaBelow n (grantSlice c)) = false := by
    by_cases h : c.f 26 1 = 2 ∧ c.f 28 2 = nodeId n
    · rw [hquota h.1 h.2, Bool.and_false]
    · rw [Bool.and_eq_false_iff, Bool.and_eq_false_iff, beq_eq_false_iff_ne, beq_eq_false_iff_ne]
      tauto
  have h24 : ((grantSlice c).comp == 0) = false := by simpa [grantSlice] using hcomp
  have h27 : decide (100 < (grantSlice c).share) = false := decide_eq_false (Nat.not_lt.mpr hshare)
  have h28 : decide (8192 ≤ (grantSlice c).node) = false := decide_eq_false (Nat.not_le.mpr hnode)
  have h32 : ((grantSlice c).qpFirst == 0 || decide (255 < (grantSlice c).qpFirst)) = false := by
    have h0 : (grantSlice c).qpFirst ≠ 0 := by simp only [grantSlice]; omega
    rw [beq_false_of_ne h0, Bool.false_or]
    exact decide_eq_false (Nat.not_lt.mpr hhi)
  have h34 : decide (256 < (grantSlice c).qpFirst + (grantSlice c).qpSets) = false := decide_eq_false (Nat.not_lt.mpr hsets)
  have h48 : (c.f 26 1 == 2 && (grantSlice c).node == nodeId n && quotaBelow n (grantSlice c)) = false := hbelow
  rw [sliceGrant, withCmd_eq _ hf hopc hst hq]
  refine checked_ok _ hh ?_
  rw [h24, h27, h28, h32, h34, h48, hv30, hv52, decide_eq_false (Nat.not_lt.mpr hop)]
  rfl

theorem drain_proposes (hr : Runs n w opDrain c) (hnode : c.f 24 2 < 8192) (hsucc : c.f 26 2 < 8192) (hop : c.f 28 1 ≤ 1) (hv : rsv c 29 63 = []) :
    drain (.command w.toNat) t n = proposeFor t n c 0 [if c.f 28 1 = 0 then .drainStart (c.f 24 2) (c.f 26 2) else .drainCancel (c.f 24 2)] := by
  obtain ⟨hf, hopc, hst, hq, hh⟩ := hr
  rw [drain, withCmd_eq _ hf hopc hst hq]
  refine (checked_ok _ hh ?_).trans ?_
  · rw [decide_eq_false (Nat.not_le.mpr hnode), decide_eq_false (Nat.not_le.mpr hsucc), decide_eq_false (Nat.not_lt.mpr hop), hv, Bool.and_false]
    rfl
  · simp only [beq_iff_eq]

/-! ## MAP_READ -/

/-- The map as a reader gets it (R349). -/
def readMap (n : Node) : Bytes := mapBytes n.map.map (if tenantState n = tsEmpty then none else some (rd n Rg.secStatusTenant))

theorem mapRead_reads (hr : Runs n w opMapRead c) (ha : mult (c.f 24 8) 64 = true) (hv : rsv c 36 63 = []) :
    mapRead w.toNat t n = if c.f 32 4 < (readMap n).length then complete t n w.toNat stBadParam ([32, 0, 0, 0] ++ leBytes 4 (readMap n).length)
      else complete t (hostWrite n c.mem (c.f 24 8) (readMap n)) w.toNat stOk (leBytes 4 (epochOf n)) := by
  obtain ⟨hf, hopc, hst, hq, hh⟩ := hr
  rw [mapRead, withCmd_eq _ hf hopc hst hq]
  exact checked_ok _ hh (by rw [ha, hv]; rfl)

end

/-! ## Drains -/

/-- The pages of a draining node that it has not yet copied (R351). -/
def unsentPages (n : Node) : List Nat := (mkeys n.ter.pages).filter fun k => !n.map.drainSent.contains k

theorem foldl_movePageOut (succ : Nat) (l : List Nat) (n : Node) : (l.foldl (movePageOut succ) n).out = n.out ++ l.map (fun k => .drainCopy succ 2 k)
    ∧ (l.foldl (movePageOut succ) n).map.drainPages = n.map.drainPages + l.length := by
  induction l generalizing n with
  | nil => simp
  | cons k l ih =>
    obtain ⟨hout, hpages⟩ := ih (movePageOut succ n k)
    rw [List.foldl_cons, hout, hpages]
    exact ⟨by simp [movePageOut, emit, modMap], by simp [movePageOut, emit, modMap]; omega⟩

section

variable {succ : Nat} (hs : stopped n = false) (hf : fencedNode n = false) (hd : drainTo n = some succ) (hq : n.seqs.open_ = [])

include hs hf hd hq

theorem drain_ends (hp : n.ter.pages = []) (hu : n.map.units = []) (ht : n.map.drainTold = false) :
    drain .goOn t n = forwardChanges (modMap n fun m => { m with drainTold := true }) (ownProposal n [.drainDone (nodeId n) n.map.drainPages n.map.drainSeqs]) := by
  have hstripes : parityStripes n = [] := by rw [parityStripes, hu]; rfl
  have hgo : drainGoOn n = forwardChanges (modMap n fun m => { m with drainTold := true }) (ownProposal n [.drainDone (nodeId n) n.map.drainPages n.map.drainSeqs]) := by
    simp [drainGoOn, hd, hq, mvals, mkeys, hp, ht, hstripes]
  simp only [drain, hs, hf, Bool.or_self, Bool.false_eq_true, if_false, hgo]

theorem drain_copies (hp : n.ter.pages ≠ []) : drain .goOn t n = (unsentPages n).foldl (movePageOut succ) n := by
  have hter : ((unsentPages n).foldl (movePageOut succ) n).ter = n.ter := foldl_keeps (·.ter) (f := movePageOut succ) (fun _ _ => rfl) _ n
  have hgo : drainGoOn n = (unsentPages n).foldl (movePageOut succ) n := by
    simp only [drainGoOn, hd, hq, mvals, List.map_nil, List.filter_nil, List.foldl_nil]
    refine if_pos ?_
    rw [show ((mkeys n.ter.pages).filter fun k => !n.map.drainSent.contains k) = unsentPages n from rfl, hter]
    simp [hp]
  simp only [drain, hs, hf, Bool.or_self, Bool.false_eq_true, if_false, hgo]

end

theorem drain_arrives {q : Seqn} (h : takesDrain n = true) :
    drain (.arrive (some q) []) t n = { n with seqs := { n.seqs with open_ := mset n.seqs.open_ q.id q, elsewhere := mdel n.seqs.elsewhere q.id } } := by
  simp only [drain, h, Bool.not_true, Bool.false_eq_true, if_false, List.foldl_nil]

theorem drainTimeout_ends {d : DrainJob} (hd : n.map.drains = [d]) (hh : d.handle = h) (ht : d.accTick + rd n Rg.mapCfgProposeTicks * 1024 ≤ t.tick) :
    drainTimeout h t n = complete t (modMap n fun m => { m with drains := [] }) h stDeadline [] := by
  have hfind : n.map.drains.find? (·.handle == h) = some d := by rw [hd, List.find?_cons_of_pos (by simpa using hh)]
  have hgone : n.map.drains.filter (·.handle != h) = [] := by rw [hd, List.filter_cons_of_neg (by simpa using hh)]; rfl
  simp only [drainTimeout, hfind, if_pos ht]
  rw [modMap, hgone, modMap]

/-! ## The rebuild -/

theorem rebuiltPoison_clean (k : Nat) {l : List Survivor} (h : ∀ v ∈ l, v.poison = []) (n : Node) : rebuiltPoison k l n = n := by
  refine List.foldl_fixed' (fun i => ?_) _
  have hnone : ((l.flatMap fun v => v.poison.filter (·.1 == i)).map (·.2)) = [] := by
    rw [List.map_eq_nil_iff, List.flatMap_eq_nil_iff]
    intro v hv
    rw [h v hv]
    rfl
  simp only [hnone]

/-- The node that holds the next rebuilt unit (R359). -/
def unitRebuilt (t : Tck) (n : Node) (l : List Survivor) (r : Rebuild) : Node :=
  modMap n fun m => { m with
    units := Mem.write 0 (Mem.clear m.units (4096 * rd n Rg.mapRebuildDoneUnits) 4096) (4096 * rd n Rg.mapRebuildDoneUnits) (rebuildUnit (rd n Rg.mapRebuildDoneUnits) r.gindex l)
    rebuild := some { r with next := max t.now r.next + unitTime n } }

theorem rebuildNext_rebuilds {l : List Survivor} {r : Rebuild} (hr : n.map.rebuild = some r) (hleft : rd n Rg.mapRebuildDoneUnits < rd n Rg.mapRebuildTotalUnits) (hnext : r.next ≤ t.now)
    (hs : stopped n = false) (hf : fencedNode n = false) (hl : survivorsOk r.gindex l = true) (hp : ∀ v ∈ l, v.poison = []) :
    rebuildNext l t n = wr (unitRebuilt t n l r) Rg.mapRebuildDoneUnits (rd n Rg.mapRebuildDoneUnits + 1) := by
  have hg : ¬ (decide (rd n Rg.mapRebuildTotalUnits ≤ rd n Rg.mapRebuildDoneUnits) || decide (t.now < r.next) || stopped n || fencedNode n || !survivorsOk r.gindex l) = true := by
    simp [hleft, hnext, hs, hf, hl]
  simp only [rebuildNext, hr]
  rw [if_neg hg, rebuiltPoison_clean _ hp]
  rfl

section

variable {gn node : Nat} {g : Group} {b : Nat} (hb : n.map.ballot = some b) (hg : mget? n.map.map.groups gn = some g) (hst : g.gstate = 1) (hn : node ∈ homesOf n.map.map g)

/-- The homes of a group that have reported, with one more (R359). -/
def homesReported (n : Node) (gn node : Nat) : List Nat :=
  if (mgetD n.map.homesDone gn []).contains node then mgetD n.map.homesDone gn [] else mgetD n.map.homesDone gn [] ++ [node]

theorem mem_homesReported {k : Nat} : k ∈ homesReported n gn node ↔ k = node ∨ k ∈ mgetD n.map.homesDone gn [] := by
  unfold homesReported
  split
  case isTrue h =>
    refine ⟨.inr, fun hk => ?_⟩
    rcases hk with rfl | hk
    · exact List.contains_iff_mem.mp h
    · exact hk
  case isFalse h => simp [or_comm]

include hb hg hst hn

theorem rebuildDone_report : rebuildDone (.report gn node) t n = if (homesOf n.map.map g).all (homesReported n gn node).contains then
      modMap n fun m => { m with homesDone := mdel m.homesDone gn, gathered := m.gathered ++ [ownProposal n [.groupWhole gn]] }
    else modMap n fun m => { m with homesDone := mset m.homesDone gn (homesReported n gn node) } := by
  have hgo : ¬ (g.gstate != 1 || !(homesOf n.map.map g).contains node) = true := by simp [hst, hn]
  simp only [rebuildDone, hb, hg]
  rw [if_neg hgo]
  rfl

end

theorem mhas_map_snd {β : Type} {f : Nat × β → Nat × β} (hf : ∀ e, (f e).1 = e.1) (m : NMap β) (k : Nat) : mhas (m.map f) k = mhas m k := by
  induction m with
  | nil => rfl
  | cons e l ih =>
    obtain ⟨a, v⟩ := e
    have ha : f (a, v) = (a, (f (a, v)).2) := Prod.ext (hf _) rfl
    rw [List.map_cons, ha, mhas, mget?_cons, mhas, mget?_cons]
    split
    · rfl
    · exact ih

theorem mhas_swapAll (f : Nat → Nat) (which : Seqn → Bool) (k : Nat) : mhas (swapAll n f which).seqs.open_ k = mhas n.seqs.open_ k :=
  mhas_map_snd (fun e => by split <;> rfl) _ _

theorem rebuildEnd_opens {q : Seqn} {r : Rebuild} (hr : n.map.rebuild = some r) (hd : rd n Rg.mapRebuildTotalUnits ≤ rd n Rg.mapRebuildDoneUnits) :
    ∃ N, rebuildDone (.done r.lost [q] []) t n = N ∧ mhas N.seqs.open_ q.id = true ∧ N.out = n.out ++ [.homeDone n.map.map.coord r.group] := by
  have hg : ¬ (r.lost != r.lost || decide (rd n Rg.mapRebuildDoneUnits < rd n Rg.mapRebuildTotalUnits)) = true := by simp [hd]
  simp only [rebuildDone, rebuildEnd, hr]
  rw [if_neg hg]
  refine ⟨_, rfl, ?_, rfl⟩
  rw [emit_seqs, mhas_swapAll]
  exact congrArg Option.isSome (mget?_mset_self _ _ _)

/-! ## Parity -/

theorem parityIndex_own {gn : Nat} {g : Group} (hg : groupOf n = some (gn, g)) (k : Nat) : parityIndex n gn k = some (gindexOf n) := by
  simp only [parityIndex, hg, if_true]

/-- What a parity holder adds to its unit: the change for P, g^j times it for Q (R357). -/
def parityTerm (n : Node) (m : ParityMsg) : Bytes := if gindexOf n = m.stripe % 10 then m.delta else gfScale (gfG m.j) m.delta

theorem parityTerm_length (m : ParityMsg) : (parityTerm n m).length = m.delta.length := by
  unfold parityTerm
  split
  · rfl
  · exact List.length_map _

theorem drainTo_xorUnit (a : Nat) (d : Bytes) : drainTo (xorUnit n a d) = drainTo n := rfl

theorem parityUpdate_xors {m : ParityMsg} {g : Group} (hg : groupOf n = some (m.group, g)) (hd : drainTo n = none) (hi : gindexOf n = m.stripe % 10 ∨ gindexOf n = (m.stripe + 1) % 10) :
    parityUpdate m n = emit (xorUnit n (4096 * m.stripe + m.off) (parityTerm n m)) (.parityAck m.sender m.home m.handle) := by
  have hx : (if gindexOf n = m.stripe % 10 then xorUnit n (4096 * m.stripe + m.off) m.delta
      else if gindexOf n = (m.stripe + 1) % 10 then xorUnit n (4096 * m.stripe + m.off) (gfScale (gfG m.j) m.delta) else n) = xorUnit n (4096 * m.stripe + m.off) (parityTerm n m) := by
    unfold parityTerm
    split
    · rfl
    case isFalse h => rw [if_pos (hi.resolve_left h)]
  simp only [parityUpdate, parityIndex_own hg, hx, drainTo_xorUnit, hd]

/-- The acknowledgements left of a write after one more (R358). -/
def acksCounted (n : Node) (home handle : Nat) : Node := modMap n fun m => { m with
  ackWaits := (lmodify m.ackWaits (fun w => w.home == home && w.handle == handle) fun w => { w with left := w.left - 1 }).filter fun w => w.left != 0 }

section

variable {w : AckWait} (hw : n.map.ackWaits = [w]) (hl : w.handle = h)

include hw hl

theorem acksCounted_ackWaits : (acksCounted n w.home h).map.ackWaits = if w.left - 1 = 0 then [] else [{ w with left := w.left - 1 }] := by
  subst hl
  simp only [acksCounted, modMap, hw, lmodify, List.map_cons, List.map_nil, beq_self_eq_true, Bool.and_self, if_true, List.filter_cons, List.filter_nil]
  by_cases h0 : w.left - 1 = 0 <;> simp [h0]

theorem parityAck_ends {a k : Nat} (hh : w.home = nodeId n) (h1 : w.left = 1) (ha : n.seqs.applied = [(h, a, k)]) :
    parityAck w.home h t n = complete t { acksCounted n w.home h with seqs := { n.seqs with applied := [] } } h stOk (leBytes 4 a ++ leBytes 4 k) := by
  have hnone : (acksCounted n w.home h).map.ackWaits = [] := by rw [acksCounted_ackWaits hw hl, h1]; rfl
  have hg : ¬ (w.home != nodeId (acksCounted n w.home h) || acksLeft (acksCounted n w.home h) w.home h) = true := by
    have hme : nodeId (acksCounted n w.home h) = w.home := hh.symm
    rw [acksLeft, hnone, hme, bne_self_eq_false]
    exact Bool.false_ne_true
  have hfound : (acksCounted n w.home h).seqs = { n.seqs with applied := [(h, a, k)] } := by rw [← ha]; rfl
  rw [parityAck]
  refine (if_neg hg).trans ?_
  change (match (acksCounted n w.home h).seqs.applied.find? (·.1 == h) with
    | some (_, a, k) => complete t { acksCounted n w.home h with seqs := { (acksCounted n w.home h).seqs with applied := (acksCounted n w.home h).seqs.applied.filter (·.1 != h) } } h stOk (appendResult a k)
    | none => acksCounted n w.home h) = _
  simp only [hfound, List.find?_cons, beq_self_eq_true, List.filter_cons, bne_self_eq_false, Bool.false_eq_true, if_false, List.filter_nil, appendResult]

theorem parityAck_waits (h2 : 2 ≤ w.left) : parityAck w.home h t n = acksCounted n w.home h := by
  have hone : (acksCounted n w.home h).map.ackWaits = [{ w with left := w.left - 1 }] := by rw [acksCounted_ackWaits hw hl, if_neg (by omega)]
  have hleft : acksLeft (acksCounted n w.home h) w.home h = true := by
    have : 0 < w.left - 1 := by omega
    simp [acksLeft, hone, hl, this]
  have hg : (w.home != nodeId (acksCounted n w.home h) || acksLeft (acksCounted n w.home h) w.home h) = true := by rw [hleft, Bool.or_true]
  rw [parityAck]
  exact if_pos hg

end

end

/-- Settles O49: commands that propose wait in the same way, a drain's pages and a rebuild's units are taken one by one, and parity is a sum in which each
holder's term has the length of the change. -/
theorem mapCommandsDrainsRebuildsAndParity : Obligations.MapCommandsDrainsRebuildsAndParity := by
  refine ⟨fun s h c hb he => ⟨fun l hr ha hlo hhi hv34 hv40 hv48 hl hm => ?propose, fun hr hcomp hop hshare hnode hv30 hlo hhi hsets hv52 hquota => ?grant,
      fun hr hnode hsucc hv => ⟨fun h0 => ?start, fun h1 => ?cancel⟩⟩, fun s h c b hr ha hv hread => ⟨fun hlen => ?reads, fun hlen => ?short⟩,
    fun s succ hs hf hd hq => ⟨fun hp hu ht hb => ?ends, fun hp => ?copies⟩, fun s q ht => ?arrives, fun s h d hd hh ht => ?late,
    fun s l r hr hleft hnext hs hf hl hp => ?rebuilt, fun s gn node g b hb hg hst hn => ⟨fun hall => ?whole, fun k hk hkn hkd => ?reported⟩, fun s q r hr hd => ?opened,
    fun s m g hg hd hi => ?parity, fun s h w a k hw hh hl => ⟨fun h1 ha => ?lastAck, fun h2 => ?moreAcks⟩⟩
  case propose => exact proposeFor_waits hr.1 hb he (by rw [exec_mapPropose, mapPropose_proposes hr ha hlo hhi hv34 hv40 hv48 hl hm])
  case grant => exact proposeFor_waits hr.1 hb he (by rw [exec_sliceGrant, sliceGrant_proposes hr hcomp hop hshare hnode hv30 hlo hhi hsets hv52 hquota])
  case start => exact proposeFor_waits hr.1 hb he (by rw [exec_drain, drain_proposes hr hnode hsucc (by omega) hv, if_pos h0])
  case cancel => exact proposeFor_waits hr.1 hb he (by rw [exec_drain, drain_proposes hr hnode hsucc (by omega) hv, if_neg (by omega)])
  case reads =>
    obtain rfl : b = readMap s.node := hread
    rw [exec_mapRead, mapRead_reads hr ha hv, if_neg (Nat.not_lt.mpr hlen)]
  case short =>
    obtain rfl : b = readMap s.node := hread
    rw [exec_mapRead, mapRead_reads hr ha hv, if_pos hlen]
  case ends =>
    rw [exec_drain, drain_ends hs hf hd hq hp hu ht, forwardChanges_sends (by exact hb)]
    exact ⟨_, rfl, rfl, rfl⟩
  case copies =>
    obtain ⟨hout, hpages⟩ := foldl_movePageOut succ (unsentPages s.node) s.node
    rw [exec_drain, drain_copies hs hf hd hq hp]
    exact ⟨_, rfl, hout, hpages, foldl_keeps (·.ter) (f := movePageOut succ) (fun _ _ => rfl) _ _⟩
  case arrives =>
    rw [exec_drain, drain_arrives ht]
    exact ⟨_, rfl, mget?_mset_self _ _ _, (mget?_mdel _ _ _).trans (if_pos rfl)⟩
  case late =>
    rw [exec_drainTimeout, drainTimeout_ends hd hh ht]
    exact ⟨_, rfl, rfl, rfl, rfl⟩
  case rebuilt =>
    rw [exec_rebuildUnit, rebuildNext_rebuilds hr hleft hnext hs hf hl hp]
    exact ⟨_, rfl, rd_wr_self _ _ _ (by decide), rfl, rfl, rfl⟩
  case whole =>
    have hreport : (homesOf s.node.map.map g).all (homesReported s.node gn node).contains = true :=
      List.all_eq_true.mpr fun k hk => List.contains_iff_mem.mpr (mem_homesReported.mpr (hall k hk))
    rw [exec_rebuildDone, rebuildDone_report hb hg hst hn, if_pos hreport]
    exact ⟨_, rfl, rfl⟩
  case reported =>
    have hreport : ¬ (homesOf s.node.map.map g).all (homesReported s.node gn node).contains = true := fun h =>
      (mem_homesReported.mp (List.contains_iff_mem.mp (List.all_eq_true.mp h k hk))).elim hkn hkd
    rw [exec_rebuildDone, rebuildDone_report hb hg hst hn, if_neg hreport]
    refine ⟨_, rfl, rfl, ?_⟩
    simp only [modMap, mgetD_mset_self]
    exact mem_homesReported.mpr (.inl rfl)
  case opened =>
    obtain ⟨N, hN, hopen, hout⟩ := rebuildEnd_opens (t := s.tck) (q := q) hr hd
    exact ⟨N, by rw [exec_rebuildDone, hN], hopen, hout⟩
  case parity =>
    rw [exec_parityUpdate, parityUpdate_xors hg hd hi]
    refine ⟨_, rfl, rfl, ?_⟩
    simp only [emit_map, xorUnit, modMap, parityTerm_length]
    rfl
  case lastAck =>
    have hhome : (BitVec.ofNat 13 w.home).toNat = w.home := by rw [BitVec.toNat_ofNat, hh, Nat.mod_eq_of_lt (nodeId_lt _)]
    rw [exec_parityAcknowledgement, hhome, parityAck_ends hw hl hh h1 ha]
    exact ⟨_, rfl, (acksCounted_ackWaits hw hl).trans (if_pos (by omega)), rfl, rfl, rfl⟩
  case moreAcks =>
    have hhome : (BitVec.ofNat 13 w.home).toNat = w.home := by rw [BitVec.toNat_ofNat, hh, Nat.mod_eq_of_lt (nodeId_lt _)]
    rw [exec_parityAcknowledgement, hhome, parityAck_waits hw hl h2]
    exact ⟨_, rfl, (acksCounted_ackWaits hw hl).trans (if_neg (by omega)), rfl, rfl⟩

end Sys2Proof.Machine
end

section
/-! Transport: queue pairs read after a change, what counting and sending leave alone, and the sending side of a queue pair (R298 to R301, R308 to R311, R313). -/

namespace Sys2Proof.Machine

/-! ## Queue pairs -/

section

variable {t : Tck} {n m : Node} {q : Nat} {x : Qp}

theorem qpOf_of_qst (h : m.qst = n.qst) (q : Nat) : qpOf m q = qpOf n q := by rw [qpOf, h, qpOf]

@[simp] theorem qpOf_setQp_self (n : Node) (q : Nat) (x : Qp) : qpOf (setQp n q x) q = some x := mget?_mset_self _ _ _

theorem modQp_eq_setQp {f : Qp → Qp} (h : qpOf n q = some x) : modQp n q f = setQp n q (f x) := by rw [modQp, mmod_some h, setQp]

theorem mset_mset {β : Type} (m : NMap β) (k : Nat) (v w : β) : mset (mset m k v) k w = mset m k w := by
  induction m with
  | nil => simp [mset]
  | cons e l ih =>
    obtain ⟨a, b⟩ := e
    by_cases h1 : k < a
    · simp [mset, h1]
    · by_cases h2 : k = a
      · simp [mset, h2]
      · simp [mset, h1, h2, ih]

theorem setQp_setQp (n : Node) (q : Nat) (x y : Qp) : setQp (setQp n q x) q y = setQp n q y := by simp only [setQp, mset_mset]

/-! ## Registers of the links -/

/-- The registers that say which links are up and to whom they lead. -/
def LinkReg (f : Fld) : Prop := 0xC00100 ≤ f.off ∧ f.off < 0xC00200 ∨ 0xC00300 ≤ f.off ∧ f.off < 0xC00400

theorem linkReg_portUp (p : Fin 8) : LinkReg (Rg.qstPortStatusUp p.val) := .inl (by have := p.isLt; simp only; omega)
theorem linkReg_blUp (b : Fin 6) : LinkReg (Rg.qstBlStatusUp b.val) := .inr (by have := b.isLt; simp only; omega)
theorem linkReg_blPeer (b : Fin 6) : LinkReg (Rg.qstBlStatusPeer b.val) := .inr (by have := b.isLt; simp only; omega)

theorem siblingLinks_congr (h : ∀ f, LinkReg f → rd m f = rd n f) (node : Nat) : siblingLinks m node = siblingLinks n node := by
  simp only [siblingLinks, rdB, h _ (linkReg_blUp _), h _ (linkReg_blPeer _)]

theorem upPorts_congr (h : ∀ f, LinkReg f → rd m f = rd n f) : upPorts m = upPorts n := by
  simp only [upPorts, rdB, h _ (linkReg_portUp _)]

theorem linkOf_congr (h : ∀ f, LinkReg f → rd m f = rd n f) (node p : Nat) : linkOf m node p = linkOf n node p := by
  rw [linkOf, siblingLinks_congr h, upPorts_congr h, linkOf]

theorem linkOf_pmc (u ev k node p : Nat) : linkOf (pmc n u ev k) node p = linkOf n node p :=
  linkOf_congr (fun f hf => rd_pmc_low _ _ _ _ _ (by rcases hf with h | h <;> omega)) node p

theorem linkOf_bump {f : Fld} (hf : 0xC00200 ≤ f.off ∧ f.off < 0xC00300) (k node p : Nat) : linkOf (bump n f k) node p = linkOf n node p :=
  linkOf_congr (fun g hg => rd_wr_off _ _ _ _ (by rcases hg with h | h <;> omega)) node p

/-! ## A packet on a fabric port -/

/-- The node after a packet has left on a fabric port (R301, R372). -/
def portSent (t : Tck) (n : Node) (p : Fin 8) (cls : Nat) (g : Seg) : Node :=
  countPacket t (pmc (emit n (.segment (.fp p) (dscpOf n cls) g)) (52 + p.val) 0x5001 (cdiv (segLen g) 64)) g.keyId

variable {p : Fin 8} {cls : Nat} {g : Seg}

theorem emitSeg_port : emitSeg t n (.fp p) cls g = some (portSent t n p cls g) := rfl

theorem portSent_shape : ∃ b se sv, portSent t n p cls g = { n with out := n.out ++ [.segment (.fp p) (dscpOf n cls) g], bank := b, sec := se, svc := sv } := by
  obtain ⟨m, b, se, sv, hm, he, -⟩ := emitSeg_fp t n p cls g
  exact ⟨b, se, sv, (Option.some.inj hm).trans he⟩

@[simp] theorem portSent_out : (portSent t n p cls g).out = n.out ++ [.segment (.fp p) (dscpOf n cls) g] := by
  obtain ⟨b, se, sv, he⟩ := @portSent_shape t n p cls g
  rw [he]

@[simp] theorem portSent_qst : (portSent t n p cls g).qst = n.qst := by
  obtain ⟨b, se, sv, he⟩ := @portSent_shape t n p cls g
  rw [he]

@[simp] theorem portSent_hmem : (portSent t n p cls g).hmem = n.hmem := by
  obtain ⟨b, se, sv, he⟩ := @portSent_shape t n p cls g
  rw [he]

@[simp] theorem portSent_t1 : (portSent t n p cls g).t1 = n.t1 := by
  obtain ⟨b, se, sv, he⟩ := @portSent_shape t n p cls g
  rw [he]

theorem rd_portSent {f : Fld} (hlow : f.off < 0x01000000) (hex : f.off ≠ (Rg.secSlotExhausted g.keyId).off) : rd (portSent t n p cls g) f = rd n f := by
  obtain ⟨m, b, se, sv, hm, -, hr⟩ := emitSeg_fp t n p cls g
  rw [show portSent t n p cls g = m from Option.some.inj hm]
  exact hr f hlow hex

end

/-! ## Sending -/

section

variable {t : Tck} {n : Node} {q i k : Nat} {x : Qp} {m : SendMsg} {sg : SegTx}

theorem exec_segmentSend (src : SendSrc) (s : State) : exec (.segmentSend src) s = .next (s.withNode (segmentSend src s.tck s.node)) := rfl
theorem exec_ack (l : Link) (g : Seg) (ok : Bool) (s : State) : exec (.ack l g ok) s = .next (s.withNode (controlReceive 0x10 l g ok s.tck s.node)) := rfl
theorem exec_rtoExpiry (q : BitVec 20) (msn i : Nat) (s : State) : exec (.rtoExpiry q msn i) s = .next (s.withNode (rtoExpiry q.toNat msn i s.tck s.node)) := rfl
theorem exec_rnrResend (q : BitVec 20) (msn : Nat) (s : State) : exec (.rnrResend q msn) s = .next (s.withNode (rnrResend q.toNat msn s.tck s.node)) := rfl
theorem exec_pathHoldExpiry (q : BitVec 20) (s : State) : exec (.pathHoldExpiry q) s = .next (s.withNode (pathHoldExpiry q.toNat s.tck s.node)) := rfl

/-- A queue pair that has sent a segment (R308, R311). -/
def sentOn (t : Tck) (x : Qp) (m : SendMsg) (sg : SegTx) (i k : Nat) : Qp :=
  modMsg { x with lastPath := nextPath t x, order := x.order + 1 } m.msn fun y =>
    { y with key := some k, segs := y.segs.set i ⟨true, false, t.now, nextPath t x, sg.try_, x.order, 0⟩ }

/-- The packet of a segment (R298 to R301, R308). -/
def segmentOf (t : Tck) (n : Node) (q : Nat) (x : Qp) (m : SendMsg) (sg : SegTx) (i k : Nat) : Seg where
  op := m.op
  tagged := m.tag.isSome
  ackNow := (qpSends (sentOn t x m sg i k)).isNone
  path := nextPath t x
  try_ := sg.try_
  dstQp := x.peerQp.getD 0
  srcQp := q
  srcNode := nodeId n
  keyId := k
  seq := m.msn
  off := 4096 * i
  len := m.data.length
  rkey := m.rkey
  raddr := m.raddr
  tag := m.tag.getD 0
  ts := t.now % 2 ^ 32
  pmem := pmask m i 1
  pown := pmask m i 2
  payload := slice m.data (4096 * i) (segBytes m.data.length i)
  ce := false

/-- The node after a segment has left on a fabric port. -/
def segmentSent (t : Tck) (n : Node) (q : Nat) (x : Qp) (m : SendMsg) (sg : SegTx) (i k : Nat) (p : Fin 8) : Node :=
  pmc (setQp (portSent t n p m.cls (segmentOf t n q x m sg i k)) q (sentOn t x m sg i k)) 51 0x4004 1

theorem transmit_port {p : Fin 8} (hk : m.key = some k ∨ m.key = none ∧ activeSlot n = some k) (hs : m.segs[i]? = some sg) (hl : linkOf n x.peer (nextPath t x) = some (.fp p)) :
    transmit t n q x m i = some (segmentSent t n q x m sg i k p) := by
  have hkey : (m.key.orElse fun _ => activeSlot n) = some k := by
    rcases hk with h | ⟨h, ha⟩
    · rw [h]; rfl
    · rw [h]; exact ha
  simp only [transmit, hkey, hs, hl]
  rfl

theorem transmit_no_key (hk : m.key = none) (ha : activeSlot n = none) : transmit t n q x m i = none := by
  simp only [transmit, hk, Option.orElse_none, ha]

@[simp] theorem segmentSent_out {p : Fin 8} : (segmentSent t n q x m sg i k p).out = n.out ++ [.segment (.fp p) (dscpOf n m.cls) (segmentOf t n q x m sg i k)] := by
  rw [segmentSent, pmc_out]
  exact portSent_out

theorem qpOf_segmentSent {p : Fin 8} : qpOf (segmentSent t n q x m sg i k p) q = some (sentOn t x m sg i k) := by
  rw [segmentSent, qpOf_of_qst (pmc_qst _ _ _ _), qpOf_setQp_self]

theorem rd_segmentSent {p : Fin 8} {f : Fld} (hlow : f.off < 0xF00000) : rd (segmentSent t n q x m sg i k p) f = rd n f := by
  rw [segmentSent, rd_pmc_low _ _ _ _ _ (by omega)]
  exact rd_portSent (by omega) (by simp only; omega)

theorem admits_iff {b : Nat} : admits x b = true ↔ unackedBytes x = 0 ∨ unackedBytes x + b ≤ x.cwnd := by
  rw [admits, Bool.or_eq_true, decide_eq_true_eq, decide_eq_true_eq]

section

variable (hx : qpOf n q = some x) (hst : x.st = 1)

include hx hst

theorem sendNext_port {p : Fin 8} (hn : nextSeg x = some (m, i)) (hs : m.segs[i]? = some sg) (hk : m.key = some k ∨ m.key = none ∧ activeSlot n = some k)
    (hl : linkOf n x.peer (nextPath t x) = some (.fp p)) (ha : unackedBytes x = 0 ∨ unackedBytes x + segBytes m.data.length i ≤ x.cwnd) :
    sendNext t n q = segmentSent t n q x m sg i k p := by
  have hsend : qpSends x = some (m, i) := by rw [qpSends, hn, Option.filter_some, if_pos (admits_iff.mpr ha)]
  simp only [sendNext, hx, hst, bne_self_eq_false, Bool.false_eq_true, if_false, hsend, transmit_port hk hs hl, Option.getD_some]

theorem sendNext_held (hn : nextSeg x = some (m, i)) (h0 : unackedBytes x ≠ 0) (hw : x.cwnd < unackedBytes x + segBytes m.data.length i) : sendNext t n q = n := by
  have hsend : qpSends x = none := by
    have hno : ¬ admits x (segBytes m.data.length i) = true := by rw [admits_iff]; omega
    rw [qpSends, hn, Option.filter_some, if_neg hno]
  simp only [sendNext, hx, hst, bne_self_eq_false, Bool.false_eq_true, if_false, hsend]

end

/-- A queue pair whose one message has no key sends nothing while no slot is ACTIVE (R371). -/
theorem sendNext_no_slot (hx : qpOf n q = some x) (hs : ∀ y ∈ x.sends, y.key = none) (ha : activeSlot n = none) : sendNext t n q = n := by
  simp only [sendNext, hx]
  split
  · rfl
  cases hsend : qpSends x with
  | none => rfl
  | some y =>
    obtain ⟨m, i⟩ := y
    have hnext : nextSeg x = some (m, i) := (Option.filter_eq_some_iff.mp hsend).1
    obtain ⟨y, hy, hsome⟩ := List.exists_of_findSome?_eq_some hnext
    have hm : y = m := by
      split at hsome
      · cases hsome
      · obtain ⟨_, _, e⟩ := Option.map_eq_some_iff.mp hsome
        exact congrArg Prod.fst e
    simp only [transmit_no_key (hm ▸ hs y (List.mem_of_mem_take hy)) ha, Option.getD_none]

/-- A message of the node's own joins its queue pair (R302). -/
def ownMessage (x : Qp) (cls : Nat) (data : Bytes) (tag : Option Nat) : Qp := { x with sends := x.sends ++ [newMsg x.msn 1 data tag 0 0 cls none []], msn := x.msn + 1 }

theorem segmentSend_own {typ peer peerQp cls : Nat} {data : Bytes} {tag : Option Nat} (hd : data ≠ []) (ho : ownQp n (if typ = 2 then 2 else 3) peer = some q) (hx : qpOf n q = some x)
    (he : x.sends = []) (ha : activeSlot n = none) : segmentSend (.node typ peer peerQp cls data tag) t n = setQp n q (ownMessage x cls data tag) := by
  have hempty : data.isEmpty = false := by simpa using hd
  have hq : queueOwn t n (if typ = 2 then 2 else 3) peer peerQp cls data tag = (setQp n q (ownMessage x cls data tag), some q) := by
    simp only [queueOwn, hempty, Bool.false_eq_true, if_false, ho, modQp_eq_setQp hx]
    rfl
  have hkeys : ∀ y ∈ (ownMessage x cls data tag).sends, y.key = none := by
    intro y hy
    rw [ownMessage, he, List.nil_append, List.mem_singleton] at hy
    rw [hy]
    rfl
  simp only [segmentSend, hq]
  exact sendNext_no_slot (qpOf_setQp_self _ _ _) hkeys ha

end

/-! ## Packets that arrive -/

section

variable {t : Tck} {n : Node} {l : Link} {g : Seg} {x : Qp}

/-- What a port counts of a packet (R434). -/
def packetCounted (n : Node) (l : Link) (g : Seg) : Node := match l with
  | .fp p => pmc (pmc n (52 + p.val) 0x5002 (cdiv (segLen g) 64)) (52 + p.val) 0x5003 (b2n g.ce)
  | .bl _ => n

theorem packetCounted_frame {β : Type} (v : Node → β) (hs : ∀ (n : Node) (x : Svc), v { n with svc := x } = v n) (hb : ∀ (n : Node) f k, v (wr n f k) = v n) : v (packetCounted n l g) = v n := by
  unfold packetCounted
  split
  · rw [pmc_frame v hs hb, pmc_frame v hs hb]
  · rfl

theorem packetCounted_qst : (packetCounted n l g).qst = n.qst := packetCounted_frame (·.qst) (fun _ _ => rfl) fun _ _ _ => rfl

theorem rd_packetCounted {f : Fld} (h : f.off < 0x01000000) : rd (packetCounted n l g) f = rd n f := by
  unfold packetCounted
  split
  · rw [rd_pmc_low _ _ _ _ _ h, rd_pmc_low _ _ _ _ _ h]
  · rfl

/-- The slot of a packet's key takes packets (R301, R371). -/
structure KeyLive (n : Node) (k : Nat) : Prop where
  lo : 1 ≤ k
  hi : k ≤ 63
  used : rd n (Rg.secSlotState k) ≠ 0
  open_ : rd n (Rg.secSlotState k) ≠ 3

theorem KeyLive.passes (h : KeyLive n g.keyId) : ¬ (decide ((if 1 ≤ g.keyId && g.keyId ≤ 63 then rd n (Rg.secSlotState g.keyId) else 0) = 0)
    || decide ((if 1 ≤ g.keyId && g.keyId ≤ 63 then rd n (Rg.secSlotState g.keyId) else 0) = 3)) = true := by
  simp [h.lo, h.hi, h.used, h.open_]

/-- The node that takes a packet whose context is cached: the packet counted, the context used last (R305). -/
def contextUsed (n : Node) (l : Link) (g : Seg) : Node := touchQp (packetCounted n l g) g.dstQp

theorem contextUsed_frame {β : Type} (v : Node → β) (hs : ∀ (n : Node) (x : Svc), v { n with svc := x } = v n) (hb : ∀ (n : Node) f k, v (wr n f k) = v n)
    (hq : ∀ (n : Node) c, v { n with qst := { n.qst with cache := c } } = v n) : v (contextUsed n l g) = v n :=
  (hq _ _).trans (packetCounted_frame v hs hb)

theorem rd_contextUsed {f : Fld} (h : f.off < 0x01000000) : rd (contextUsed n l g) f = rd n f := rd_packetCounted h

theorem qpOf_contextUsed (q : Nat) : qpOf (contextUsed n l g) q = qpOf n q := qpOf_of_qst (m := packetCounted n l g) packetCounted_qst q

theorem linkOf_contextUsed (node p : Nat) : linkOf (contextUsed n l g) node p = linkOf n node p :=
  linkOf_congr (fun f hf => rd_contextUsed (by rcases hf with h | h <;> omega)) node p

/-- A good packet on a live key whose context is cached is taken at once (R301, R305). -/
theorem arrive_cached (hop : g.op ∈ [1, 2, 0x10, 0x11]) (hk : KeyLive n g.keyId) (hx : qpOf n g.dstQp = some x) (hc : g.dstQp ∈ n.qst.cache)
    (hdone : (takePacket t (contextUsed n l g) g).2 = true) : arrive t n l g true = (takePacket t (contextUsed n l g) g).1 := by
  have hknown : ([1, 2, 0x10, 0x11].contains g.op) = true := List.contains_iff_mem.mpr hop
  have hqp : (qpOf (packetCounted n l g) g.dstQp).isSome = true := by rw [qpOf_of_qst packetCounted_qst, hx]; rfl
  have hmiss : ¬ ((qpOf (packetCounted n l g) g.dstQp).isSome && !(packetCounted n l g).qst.cache.contains g.dstQp) = true := by
    rw [packetCounted_qst, List.contains_iff_mem.mpr hc, Bool.not_true, Bool.and_false]
    exact Bool.false_ne_true
  simp only [arrive, hknown, Bool.not_true, Bool.false_eq_true, if_false]
  rw [if_neg hk.passes]
  change (if ((qpOf (packetCounted n l g) g.dstQp).isSome && !(packetCounted n l g).qst.cache.contains g.dstQp) = true then _ else
    if (takePacket t (if (qpOf (packetCounted n l g) g.dstQp).isSome = true then touchQp (packetCounted n l g) g.dstQp else packetCounted n l g) g).2 = true then
      (takePacket t (if (qpOf (packetCounted n l g) g.dstQp).isSome = true then touchQp (packetCounted n l g) g.dstQp else packetCounted n l g) g).1 else _) = _
  rw [if_neg hmiss, if_pos hqp]
  exact if_pos hdone

/-- A queue pair that takes packets of a peer's (R303). -/
structure Peers (x : Qp) (g : Seg) : Prop where
  node : x.peer = g.srcNode
  pair : x.peerQp = some g.srcQp
  ready : x.st = 1

/-- An ACK or NACK of the peer reaches the queue pair (R313, R314). -/
theorem controlReceive_takes (op : Nat) (hc : op = 0x10 ∨ op = 0x11) (hl : linkUp n l = true) (hop : g.op = op) (hk : KeyLive n g.keyId) (hx : qpOf n g.dstQp = some x) (hcache : g.dstQp ∈ n.qst.cache) (hp : Peers x g) :
    controlReceive op l g true t n = if op = 0x10 then takeAck t (contextUsed n l g) g.dstQp x g else takeNack t (contextUsed n l g) g.dstQp x g := by
  subst hop
  have hmine : ¬ (x.peer != g.srcNode || x.peerQp != some g.srcQp || x.st != 1) = true := by simp [hp.node, hp.pair, hp.ready]
  have htake : takePacket t (contextUsed n l g) g = (if g.op = 0x10 then takeAck t (contextUsed n l g) g.dstQp x g else takeNack t (contextUsed n l g) g.dstQp x g, true) := by
    have hctl : (decide (g.op = 0x10) || decide (g.op = 0x11)) = true := by simpa using hc
    simp only [takePacket, if_pos hctl, qpOf_contextUsed, hx]
    rw [if_neg hmine]
    by_cases h : g.op = 0x10
    · rw [if_pos h, if_pos h]
    · rw [if_neg h, if_neg h]
  have hmem : g.op ∈ [1, 2, 0x10, 0x11] := by rcases hc with h | h <;> simp [h]
  have hg : (linkUp n l && decide (g.op = g.op)) = true := by simp [hl]
  rw [controlReceive, if_pos hg, arrive_cached hmem hk hx hcache (by rw [htake]), htake]

end

/-! ## Acknowledgements at the sender -/

section

variable {t : Tck} {n : Node} {q : Nat} {x : Qp} {m : SendMsg} {g : Seg}

/-- Marking segments acknowledged touches nothing but the messages (R311). -/
theorem ackOne_shape (x : Qp) (y : Nat × Nat) : ∃ l, ackOne x y = { x with sends := l } := by
  unfold ackOne
  split
  · exact ⟨x.sends, rfl⟩
  · exact ⟨_, rfl⟩

theorem foldl_ackOne_shape (l : List (Nat × Nat)) (x : Qp) : ∃ k, l.foldl ackOne x = { x with sends := k } := by
  induction l generalizing x with
  | nil => exact ⟨x.sends, rfl⟩
  | cons y l ih =>
    obtain ⟨k, hk⟩ := ackOne_shape x y
    obtain ⟨k', hk'⟩ := ih { x with sends := k }
    exact ⟨k', by rw [List.foldl_cons, hk, hk']⟩

/-- Every segment of a message is acknowledged, or among those still to be marked. -/
def AckedBut (m : SendMsg) (l : List (Nat × Nat)) : Prop := ∀ i sg, m.segs[i]? = some sg → sg.acked = true ∨ (m.msn, i) ∈ l

/-- A message whose segment `i` has been marked acknowledged; earlier ones on its path count it (R311). -/
def markAcked (m : SendMsg) (i : Nat) (sg : SegTx) : SendMsg :=
  { m with segs := (m.segs.set i { sg with acked := true, sent := true }).map fun y =>
      if y.sent && !y.acked && y.path == sg.path && y.order < sg.order then { y with later := y.later + 1 } else y }

theorem ackOne_sends {i : Nat} {sg : SegTx} (hs : x.sends = [m]) (hsg : m.segs[i]? = some sg) : (ackOne x (m.msn, i)).sends = [markAcked m i sg] := by
  have hfind : x.sends.find? (·.msn == m.msn) = some m := by rw [hs, List.find?_cons_of_pos (by simp)]
  simp only [ackOne, hfind, Option.bind_some, hsg, modMsg, hs, lmodify, List.map_cons, List.map_nil, beq_self_eq_true, if_true, markAcked]

theorem markAcked_acked {i j : Nat} {sg y : SegTx} (hsg : m.segs[i]? = some sg) (hy : (markAcked m i sg).segs[j]? = some y) :
    j = i ∧ y.acked = true ∨ j ≠ i ∧ ∃ z, m.segs[j]? = some z ∧ y.acked = z.acked := by
  rw [markAcked, List.getElem?_map, Option.map_eq_some_iff] at hy
  obtain ⟨z, hz, rfl⟩ := hy
  by_cases hij : i = j
  · subst hij
    rw [List.getElem?_set_self (List.getElem?_eq_some_iff.mp hsg).1] at hz
    cases hz
    refine .inl ⟨rfl, ?_⟩
    split <;> rfl
  · rw [List.getElem?_set_ne hij] at hz
    refine .inr ⟨Ne.symm hij, z, hz, ?_⟩
    split <;> rfl

/-- Marking the next segment of the one message leaves one less to be marked (R311). -/
theorem ackOne_single {i : Nat} {l : List (Nat × Nat)} (hs : x.sends = [m]) (h : AckedBut m ((m.msn, i) :: l)) :
    ∃ m', (ackOne x (m.msn, i)).sends = [m'] ∧ m'.msn = m.msn ∧ AckedBut m' l := by
  cases hsg : m.segs[i]? with
  | none =>
    have hfind : x.sends.find? (·.msn == m.msn) = some m := by rw [hs, List.find?_cons_of_pos (by simp)]
    have hnone : ackOne x (m.msn, i) = x := by simp only [ackOne, hfind, Option.bind_some, hsg]
    refine ⟨m, by rw [hnone, hs], rfl, fun j sg hj => (h j sg hj).imp_right fun hmem => ?_⟩
    rcases List.mem_cons.mp hmem with he | hmem
    · rw [(Prod.mk.inj he).2, hsg] at hj
      cases hj
    · exact hmem
  | some sg =>
    refine ⟨markAcked m i sg, ackOne_sends hs hsg, rfl, fun j y hj => ?_⟩
    rcases markAcked_acked hsg hj with ⟨-, hy⟩ | ⟨hji, z, hz, he⟩
    · exact .inl hy
    · refine (h j z hz).imp he.trans fun hmem => ?_
      rcases List.mem_cons.mp hmem with hc | hmem
      · exact absurd (Prod.mk.inj hc).2 hji
      · exact hmem

theorem foldl_ackOne_single (l : List (Nat × Nat)) (hs : x.sends = [m]) (hl : ∀ y ∈ l, y.1 = m.msn) (h : AckedBut m l) :
    ∃ m', (l.foldl ackOne x).sends = [m'] ∧ AckedBut m' [] := by
  induction l generalizing x m with
  | nil => exact ⟨m, hs, h⟩
  | cons y l ih =>
    obtain ⟨k, i⟩ := y
    obtain rfl : k = m.msn := hl _ List.mem_cons_self
    obtain ⟨m', hs', hm', h'⟩ := ackOne_single hs h
    rw [List.foldl_cons]
    exact ih hs' (fun y hy => (hl y (List.mem_cons_of_mem _ hy)).trans hm'.symm) h'

/-- A BASE above the one message outstanding, all of whose segments were sent, acknowledges all that is left of it (R313). -/
theorem newlyAcked_single {base msn bitmap : Nat} (hs : x.sends = [m]) (hsent : ∀ sg ∈ m.segs, sg.sent = true) (hb : m.msn < base) :
    (∀ y ∈ newlyAcked x base msn bitmap, y.1 = m.msn) ∧ AckedBut m (newlyAcked x base msn bitmap) := by
  have hmem : ∀ y, y ∈ newlyAcked x base msn bitmap ↔ ∃ i < m.segs.length, ∃ sg, m.segs[i]? = some sg ∧ sg.acked = false ∧ sg.sent = true ∧ y = (m.msn, i) := by
    intro y
    simp only [newlyAcked, hs, List.flatMap_cons, List.flatMap_nil, List.append_nil, List.mem_filterMap, List.mem_range]
    refine exists_congr fun i => and_congr_right fun hi => ?_
    rw [List.getElem?_eq_getElem hi]
    simp only [hb, decide_true, Bool.true_or, Bool.and_true, Option.some.injEq, exists_eq_left']
    cases m.segs[i].acked <;> cases m.segs[i].sent <;> simp [eq_comm]
  refine ⟨fun y hy => ?_, fun i sg hi => ?_⟩
  · obtain ⟨i, -, sg, -, -, -, rfl⟩ := (hmem y).mp hy
    rfl
  · cases ha : sg.acked with
    | true => exact .inl rfl
    | false =>
      obtain ⟨hlt, he⟩ := List.getElem?_eq_some_iff.mp hi
      exact .inr ((hmem _).mpr ⟨i, hlt, sg, hi, ha, hsent sg (he ▸ List.getElem_mem hlt), rfl⟩)

/-! The smoothed round-trip time and the window (R310). -/

/-- A quotient of free rounding is one of its two neighbours, and takes at most a free value (log entry 16). -/
theorem freeRound_spec (n : Node) (a b : Nat) : ((freeRound n a b).1 = a / b ∨ (freeRound n a b).1 = a / b + 1) ∧ ∃ k, (freeRound n a b).2 = { n with freeCtr := k } := by
  unfold freeRound
  split
  · exact ⟨.inl rfl, n.freeCtr, rfl⟩
  · refine ⟨?_, _, rfl⟩
    dsimp only
    omega

/-- The window grows by AI up to WMAX after a round trip without marks or excess delay (R310). -/
theorem newWindow_grows (hce : x.epochCe = 0) (hd : x.epochMin.getD 0 ≤ rd n Rg.qstCcCfgTarget * 400) :
    newWindow n x = (min (rd n Rg.qstCcCfgWmax * 65536) (x.cwnd + rd n Rg.qstCcCfgAi * 4096), n) := by
  unfold newWindow
  simp only [hce, if_neg (Nat.not_lt.mpr hd), if_true]
  by_cases ha : 0 < x.epochAcked
  · simp only [if_pos ha]
    simp
  · simp only [if_neg ha]
    simp

/-- The queue pair with the smoothed round-trip time and the counts of its round trip (R310). -/
def ackSeen (x : Qp) (srtt rtt acked ce : Nat) : Qp :=
  { x with srtt := srtt, epochAcked := x.epochAcked + acked, epochCe := x.epochCe + ce, epochMin := some (min (x.epochMin.getD rtt) rtt) }

/-- What an acknowledgement makes of a queue pair's window once the smoothed round-trip time is `s` (R310). -/
structure WindowMoved (t : Tck) (n : Node) (x : Qp) (rtt ce : Nat) (y : Qp) : Prop where
  srtt : y.srtt = (7 * x.srtt + rtt) / 8 ∨ y.srtt = (7 * x.srtt + rtt) / 8 + 1
  within : t.now < x.epochStart + y.srtt → y.cwnd = x.cwnd
  after : x.epochStart + y.srtt ≤ t.now → x.epochCe + ce = 0 → rtt ≤ rd n Rg.qstCcCfgTarget * 400 → y.cwnd = min (rd n Rg.qstCcCfgWmax * 65536) (x.cwnd + rd n Rg.qstCcCfgAi * 4096)

/-- Ending the messages moves neither the round-trip time nor the window. -/
theorem WindowMoved.clearSends {t : Tck} {n : Node} {x y : Qp} {rtt ce : Nat} (h : WindowMoved t n x rtt ce y) : WindowMoved t n x rtt ce { y with sends := [], wrs := [] } :=
  ⟨h.srtt, h.within, h.after⟩

theorem onAck_queues (t : Tck) (n : Node) (x : Qp) (rtt acked ce : Nat) : (onAck t n x rtt acked ce).1.sends = x.sends ∧ (onAck t n x rtt acked ce).1.wrs = x.wrs := by
  unfold onAck
  dsimp only
  split <;> exact ⟨rfl, rfl⟩

theorem onAck_moves (t : Tck) (n : Node) (x : Qp) (rtt acked ce : Nat) : WindowMoved t n x rtt ce (onAck t n x rtt acked ce).1 := by
  obtain ⟨hs, k, hk⟩ := freeRound_spec n (7 * x.srtt + rtt) 8
  by_cases he : x.epochStart + (freeRound n (7 * x.srtt + rtt) 8).1 ≤ t.now
  · have hon : (onAck t n x rtt acked ce).1 = { ackSeen x (freeRound n (7 * x.srtt + rtt) 8).1 rtt acked ce with
        cwnd := (newWindow (freeRound n (7 * x.srtt + rtt) 8).2 (ackSeen x (freeRound n (7 * x.srtt + rtt) 8).1 rtt acked ce)).1, epochAcked := 0, epochCe := 0, epochMin := none, epochStart := t.now } := by
      unfold onAck
      exact congrArg Prod.fst (if_pos he)
    rw [hon]
    refine ⟨hs, fun h => absurd he (Nat.not_le.mpr h), fun _ hce hrtt => ?_⟩
    have hmin : (ackSeen x (freeRound n (7 * x.srtt + rtt) 8).1 rtt acked ce).epochMin.getD 0 ≤ rd { n with freeCtr := k } Rg.qstCcCfgTarget * 400 := (Nat.min_le_right _ _).trans hrtt
    rw [hk]
    exact congrArg Prod.fst (newWindow_grows hce hmin)
  · have hon : (onAck t n x rtt acked ce).1 = ackSeen x (freeRound n (7 * x.srtt + rtt) 8).1 rtt acked ce := by
      unfold onAck
      exact congrArg Prod.fst (if_neg he)
    rw [hon]
    exact ⟨hs, fun _ => rfl, fun h => absurd h he⟩

theorem runWrs_none (hx : qpOf n q = some x) (hw : x.wrs = []) : runWrs t n q = n := by
  simp only [runWrs, hx, hw, Option.map_some, List.length_nil, Option.getD_some, startWrs, reportWrs]

/-- The queue pair without the messages that are acknowledged whole, its work requests of those done (R311). -/
def acksApplied (x : Qp) : Qp :=
  { x with
    sends := x.sends.filter fun m => !m.segs.all (·.acked)
    wrs := x.wrs.map fun w => if ((x.sends.filter fun m => m.segs.all (·.acked)).filterMap (·.wr)).contains w.idx then { w with stage := 2 } else w }

/-- The segments that three later ones overtook (R311). -/
def overtaken (x : Qp) : List (Nat × Nat) :=
  x.sends.flatMap fun m => (List.range m.segs.length).filterMap fun i =>
    match m.segs[i]? with
    | some y => if y.sent && !y.acked && 3 ≤ y.later then some (m.msn, i) else none
    | none => none

/-- The node once a queue pair has been acknowledged (R310, R311). -/
def ackedNode (t : Tck) (n : Node) (q : Nat) (x : Qp) : Node :=
  runWrs t ((overtaken (acksApplied x)).foldl (fun m y => retransmit t m q y.1 y.2) (reportWrs t q (acksApplied x).wrs.length (setQp n q (acksApplied x)))) q

/-- The round-trip time of an acknowledgement that echoes `ts` (R310). -/
def rttOf (t : Tck) (ts : Nat) : Nat := (t.now + 2 ^ 32 - ts % 2 ^ 32) % 2 ^ 32

/-- What `on_ack` makes of a queue pair whose segments are marked (R310). -/
def ackResult (t : Tck) (n : Node) (x : Qp) (g : Seg) (rtt : Nat) : Qp × Node :=
  onAck t n ((newlyAcked x (field g.payload 0 6) (field g.payload 8 6) (field g.payload 16 32)).foldl ackOne x) rtt
    (newlyAcked x (field g.payload 0 6) (field g.payload 8 6) (field g.payload 16 32)).length (field g.payload 14 2)

theorem takeAck_eq : takeAck t n q x g = ackedNode t (ackResult t n x g (rttOf t (field g.payload 48 4))).2 q (ackResult t n x g (rttOf t (field g.payload 48 4))).1 := rfl

/-- When every message is acknowledged whole and there is no work request, the queue pair is left without messages. -/
theorem qpOf_ackedNode (hs : ∀ m ∈ x.sends, ∀ sg ∈ m.segs, sg.acked = true) (hw : x.wrs = []) : qpOf (ackedNode t n q x) q = some { x with sends := [], wrs := [] } := by
  have hover : acksApplied x = { x with sends := [], wrs := [] } := by
    have hsends : x.sends.filter (fun m => !m.segs.all (·.acked)) = [] := List.filter_eq_nil_iff.mpr fun m hm => by
      rw [List.all_eq_true.mpr (hs m hm)]
      decide
    rw [acksApplied, hsends, hw, List.map_nil]
  rw [ackedNode, hover, overtaken, List.flatMap_nil, List.foldl_nil, List.length_nil, reportWrs, runWrs_none (qpOf_setQp_self _ _ _) rfl, qpOf_setQp_self]

/-- Once marked by an ACK above it, the one message outstanding is acknowledged whole; the round-trip time and the window move (R310, R313). -/
theorem ackResult_single {rtt : Nat} (hs : x.sends = [m]) (hw : x.wrs = []) (hsent : ∀ sg ∈ m.segs, sg.sent = true) (hb : m.msn < field g.payload 0 6) :
    (∀ m ∈ (ackResult t n x g rtt).1.sends, ∀ sg ∈ m.segs, sg.acked = true) ∧ (ackResult t n x g rtt).1.wrs = [] ∧ WindowMoved t n x rtt (field g.payload 14 2) (ackResult t n x g rtt).1 := by
  obtain ⟨hnew, hbut⟩ := newlyAcked_single (msn := field g.payload 8 6) (bitmap := field g.payload 16 32) hs hsent hb
  obtain ⟨m', hs', hall⟩ := foldl_ackOne_single _ hs hnew hbut
  obtain ⟨k, hk⟩ := foldl_ackOne_shape (newlyAcked x (field g.payload 0 6) (field g.payload 8 6) (field g.payload 16 32)) x
  rw [ackResult]
  generalize (newlyAcked x (field g.payload 0 6) (field g.payload 8 6) (field g.payload 16 32)).length = c
  rw [hk] at hs' ⊢
  obtain ⟨hsends, hwrs⟩ := onAck_queues t n { x with sends := k } rtt c (field g.payload 14 2)
  obtain ⟨h1, h2, h3⟩ := onAck_moves t n { x with sends := k } rtt c (field g.payload 14 2)
  refine ⟨fun m hm sg hsg => ?_, hwrs.trans hw, h1, h2, h3⟩
  rw [hsends, hs'] at hm
  rw [List.mem_singleton.mp hm] at hsg
  obtain ⟨i, hi⟩ := List.mem_iff_getElem?.mp hsg
  exact (hall i sg hi).resolve_right List.not_mem_nil

/-- An ACK above the one message outstanding ends it and moves the round-trip time and the window (R310, R311, R313). -/
theorem takeAck_ends (hs : x.sends = [m]) (hw : x.wrs = []) (hsent : ∀ sg ∈ m.segs, sg.sent = true) (hb : m.msn < field g.payload 0 6) :
    ∃ y, qpOf (takeAck t n q x g) q = some y ∧ y.sends = [] ∧ WindowMoved t n x (rttOf t (field g.payload 48 4)) (field g.payload 14 2) y := by
  obtain ⟨hacked, hnone, hmoved⟩ := ackResult_single (t := t) (n := n) (rtt := rttOf t (field g.payload 48 4)) hs hw hsent hb
  rw [takeAck_eq, qpOf_ackedNode hacked hnone]
  exact ⟨_, rfl, rfl, hmoved.clearSends⟩

end

/-! ## Failing and sending again -/

section

variable {t : Tck} {n : Node} {q msn i : Nat} {x : Qp} {m : SendMsg} {sg : SegTx}

/-- A queue pair without work requests that has failed (R303, R314). -/
def failed (t : Tck) (x : Qp) : Qp := { x with wrs := [], sends := [], sqDone := x.sqTail, st := 2, errTick := t.tick }

/-- The node with a failed queue pair, counted. -/
def failCounted (t : Tck) (n : Node) (q : Nat) (x : Qp) : Node := bump (setQp n q (failed t x)) Rg.qstQpErrCount 1

theorem qpOf_failCounted : qpOf (failCounted t n q x) q = some (failed t x) := (qpOf_of_qst (m := failCounted t n q x) rfl q).trans (qpOf_setQp_self n q _)

theorem rd_failCounted : rd (failCounted t n q x) Rg.qstQpErrCount = satTo 32 (rd n Rg.qstQpErrCount + 1) := rd_bump_self _ _ _ (by decide)

/-- A queue pair without work requests enters ERROR and is counted; lost, it is reported too (R303, R314). -/
theorem failQp_none (st : Nat) (hx : qpOf n q = some x) (hw : x.wrs = []) :
    failQp t n q st = if st = stPeerLost then raise t (failCounted t n q x) evQstPeerUnreach (leBytes 2 x.peer) else failCounted t n q x := by
  have hend : endWrs t n q st = setQp n q { x with wrs := [], sends := [], sqDone := x.sqTail } := by
    simp only [endWrs, hx, hw, List.filterMap_nil, dedupNat, List.foldl_nil, modQp_eq_setQp hx]
  simp only [failQp, hx, hend, modQp_eq_setQp (qpOf_setQp_self _ _ _), setQp_setQp]
  rfl

/-- A message whose segment `i` goes again, its attempt one higher (R311). -/
def againMsg (m : SendMsg) (i : Nat) (sg : SegTx) : SendMsg := { m with segs := m.segs.set i (freshSeg (sg.try_ + 1)), loss := true }

/-- The node that has counted a retransmission (R311, R434). -/
def retxCounted (n : Node) (q : Nat) (x : Qp) : Node := pmc (bump (setQp n q x) Rg.qstRetxCount 1) 51 0x4005 1

theorem retxCounted_out : (retxCounted n q x).out = n.out := by rw [retxCounted, pmc_out]; rfl

theorem rd_retxCounted {f : Fld} (h : f.off < 0xC00200) : rd (retxCounted n q x) f = rd n f := by
  rw [retxCounted, rd_pmc_low _ _ _ _ _ (by omega)]
  exact rd_wr_off _ _ _ _ (by simp only; omega)

theorem rd_retxCounted_retx : rd (retxCounted n q x) Rg.qstRetxCount = satTo 32 (rd n Rg.qstRetxCount + 1) := by
  rw [retxCounted, rd_pmc_low _ _ _ _ _ (by decide)]
  exact rd_bump_self _ _ _ (by decide)

theorem linkOf_retxCounted (node p : Nat) : linkOf (retxCounted n q x) node p = linkOf n node p := by
  rw [retxCounted, linkOf_pmc]
  exact linkOf_bump (by decide) _ _ _

theorem dscpOf_retxCounted (cls : Nat) : dscpOf (retxCounted n q x) cls = dscpOf n cls := by
  unfold dscpOf
  split_ifs <;> exact rd_retxCounted (by decide)

section

variable (hm : x.sends.find? (·.msn == msn) = some m) (hs : m.segs[i]? = some sg)

include hm hs

theorem retransmit_fails (hx : qpOf n q = some x) (h7 : 7 ≤ sg.try_) : retransmit t n q msn i = failQp t n q stPeerLost := by
  simp only [retransmit, hx, hm, hs, if_pos h7]

theorem retransmit_again (hx : qpOf n q = some x) (h7 : sg.try_ < 7) : retransmit t n q msn i =
    (transmit t (retxCounted n q (modMsg x msn fun _ => againMsg m i sg)) q (modMsg x msn fun _ => againMsg m i sg) (againMsg m i sg) i).getD (retxCounted n q (modMsg x msn fun _ => againMsg m i sg)) := by
  simp only [retransmit, hx, hm, hs, if_neg (Nat.not_le.mpr h7)]
  rfl

/-- A segment not acknowledged for its timeout goes again, its path held (R309, R311). -/
theorem rtoExpiry_due (hx : qpOf n q = some x) (hst : x.st = 1) (hsent : sg.sent = true) (hacked : sg.acked = false) (hdue : sg.at_ + rtoOf t n x sg.try_ ≤ t.now) :
    rtoExpiry q msn i t n = retransmit t (setQp n q (holdPath t n x sg.path)) q msn i := by
  simp [rtoExpiry, hx, hm, hs, hsent, hacked, hdue, hst]

end

/-- A segment that goes again leaves on a fabric port as it left before, its attempt one higher (R311). -/
theorem retransmit_port {k : Nat} {p : Fin 8} (hm : x.sends.find? (·.msn == msn) = some m) (hs : m.segs[i]? = some sg) (h7 : sg.try_ < 7) (hk : m.key = some k) (hl : linkOf n x.peer (nextPath t x) = some (.fp p)) :
    retransmit t (setQp n q x) q msn i = segmentSent t (retxCounted n q (modMsg x msn fun _ => againMsg m i sg)) q (modMsg x msn fun _ => againMsg m i sg) (againMsg m i sg) (freshSeg (sg.try_ + 1)) i k p := by
  have hseg : (againMsg m i sg).segs[i]? = some (freshSeg (sg.try_ + 1)) := List.getElem?_set_self (List.getElem?_eq_some_iff.mp hs).1
  have hlink : linkOf (retxCounted n q (modMsg x msn fun _ => againMsg m i sg)) x.peer (nextPath t x) = some (.fp p) := (linkOf_retxCounted _ _).trans hl
  have hcount : retxCounted (setQp n q x) q (modMsg x msn fun _ => againMsg m i sg) = retxCounted n q (modMsg x msn fun _ => againMsg m i sg) := by
    rw [retxCounted, setQp_setQp, retxCounted]
  rw [retransmit_again hm hs (qpOf_setQp_self _ _ _) h7, hcount, transmit_port (m := againMsg m i sg) (.inl hk) hseg (by exact hlink), Option.getD_some]

theorem rnrResend_again {a : Nat} (hx : qpOf n q = some x) (hst : x.st = 1) (hm : x.sends.find? (·.msn == msn) = some m) (ha : m.rnrAt = some a) (hdue : a ≤ t.now) (h7 : ∀ sg ∈ m.segs, sg.try_ < 7) :
    rnrResend q msn t n = setQp n q (modMsg x msn fun y => { y with rnrAt := none, segs := y.segs.map fun sg => freshSeg (sg.try_ + 1) }) := by
  have hany : (m.segs.any fun s => decide (7 ≤ s.try_)) = false := List.any_eq_false.mpr fun sg hsg => by
    have := h7 sg hsg
    rw [decide_eq_true_eq]
    omega
  simp only [rnrResend, hx, hm, ha, hst, hany, Nat.not_lt.mpr hdue, decide_false, bne_self_eq_false, Bool.or_false, Bool.false_eq_true, if_false]

end

/-! ## The obligation -/

section

variable {s : State} {q i msn : Nat} {x : Qp} {m : SendMsg} {sg : SegTx}

theorem exec_segmentSend_port {k : Nat} {p : Fin 8} (hx : qpOf s.node q = some x) (hst : x.st = 1) (hn : nextSeg x = some (m, i)) (hs : m.segs[i]? = some sg)
    (hk : m.key = some k ∨ m.key = none ∧ activeSlot s.node = some k) (hl : linkOf s.node x.peer (nextPath s.tck x) = some (.fp p))
    (ha : unackedBytes x = 0 ∨ unackedBytes x + segBytes m.data.length i ≤ x.cwnd) : exec (.segmentSend (.qp q [])) s = .next (s.withNode (segmentSent s.tck s.node q x m sg i k p)) :=
  congrArg (fun n => Host.Outcome.next (s.withNode n)) (sendNext_port hx hst hn hs hk hl ha)

theorem exec_segmentSend_held (hx : qpOf s.node q = some x) (hst : x.st = 1) (hn : nextSeg x = some (m, i)) (h0 : unackedBytes x ≠ 0) (hw : x.cwnd < unackedBytes x + segBytes m.data.length i) :
    exec (.segmentSend (.qp q [])) s = .next s :=
  congrArg (fun n => Host.Outcome.next (s.withNode n)) (sendNext_held (t := s.tck) hx hst hn h0 hw)

theorem exec_ack_ends {l : Link} {g : Seg} (hl : linkUp s.node l = true) (hop : g.op = 0x10) (hk : KeyLive s.node g.keyId) (hx : qpOf s.node g.dstQp = some x) (hc : g.dstQp ∈ s.node.qst.cache) (hp : Peers x g)
    (hw : x.wrs = []) (hs : x.sends = [m]) (hsent : ∀ sg ∈ m.segs, sg.sent = true) (hb : m.msn < field g.payload 0 6) :
    ∃ (N : Node) (y : Qp), exec (.ack l g true) s = .next (s.withNode N) ∧ qpOf N g.dstQp = some y ∧ y.sends = [] ∧ WindowMoved s.tck s.node x (rttOf s.tck (field g.payload 48 4)) (field g.payload 14 2) y := by
  obtain ⟨y, hy, hnone, hmoved⟩ := takeAck_ends (t := s.tck) (n := contextUsed s.node l g) (q := g.dstQp) hs hw hsent hb
  refine ⟨_, y, by rw [exec_ack, controlReceive_takes 0x10 (.inl rfl) hl hop hk hx hc hp, if_pos rfl], hy, hnone, hmoved.srtt, hmoved.within, fun h1 h2 h3 => ?_⟩
  have h := hmoved.after h1 h2
  rw [rd_contextUsed (by decide), rd_contextUsed (by decide), rd_contextUsed (by decide)] at h
  exact h h3

variable {q : BitVec 20}

section

variable (hx : qpOf s.node q.toNat = some x) (hst : x.st = 1) (hm : x.sends.find? (·.msn == msn) = some m) (hs : m.segs[i]? = some sg) (hsent : sg.sent = true) (hacked : sg.acked = false)
  (hdue : sg.at_ + rtoOf s.tck s.node x sg.try_ ≤ s.tck.now)

include hx hst hm hs hsent hacked hdue

theorem exec_rtoExpiry_fails (h7 : 7 ≤ sg.try_) (hw : x.wrs = []) : ∃ (N : Node) (y : Qp), exec (.rtoExpiry q msn i) s = .next (s.withNode N) ∧ qpOf N q.toNat = some y ∧ y.st = 2 ∧ y.sends = []
    ∧ N.svc.arrivals.map (·.code) = s.node.svc.arrivals.map (·.code) ++ [evQstPeerUnreach] ∧ rd N Rg.qstQpErrCount = satTo 32 (rd s.node Rg.qstQpErrCount + 1) := by
  have hq : qpOf (setQp s.node q.toNat (holdPath s.tck s.node x sg.path)) q.toNat = some (holdPath s.tck s.node x sg.path) := qpOf_setQp_self _ _ _
  refine ⟨_, failed s.tck (holdPath s.tck s.node x sg.path), by rw [exec_rtoExpiry, rtoExpiry_due hm hs hx hst hsent hacked hdue, retransmit_fails (by exact hm) hs hq h7, failQp_none _ hq hw, if_pos rfl], ?_, rfl, rfl, ?_, ?_⟩
  · rw [qpOf_of_qst (raise_qst _ _ _ _), qpOf_failCounted]
  · rw [codes_raise]
    rfl
  · exact (rd_of_bank _ (raise_bank _ _ _ _)).trans rd_failCounted

theorem exec_rtoExpiry_again {k : Nat} {p : Fin 8} (h7 : sg.try_ < 7) (hk : m.key = some k) (hl : linkOf s.node x.peer (nextPath s.tck (holdPath s.tck s.node x sg.path)) = some (.fp p)) :
    ∃ (N : Node) (g : Seg) (y : Qp), exec (.rtoExpiry q msn i) s = .next (s.withNode N) ∧ N.out = s.node.out ++ [.segment (.fp p) (dscpOf s.node m.cls) g]
      ∧ (g.seq, g.off, g.try_, g.keyId, g.path) = (msn, 4096 * i, sg.try_ + 1, k, nextPath s.tck (holdPath s.tck s.node x sg.path))
      ∧ g.payload = slice m.data (4096 * i) (segBytes m.data.length i) ∧ rd N Rg.qstRetxCount = satTo 32 (rd s.node Rg.qstRetxCount + 1)
      ∧ qpOf N q.toNat = some y ∧ y.bad = (holdPath s.tck s.node x sg.path).bad := by
  have hmsn : m.msn = msn := by simpa using List.find?_some hm
  have hout := @segmentSent_out s.tck (retxCounted s.node q.toNat (modMsg (holdPath s.tck s.node x sg.path) msn fun _ => againMsg m i sg)) q.toNat i k
    (modMsg (holdPath s.tck s.node x sg.path) msn fun _ => againMsg m i sg) (againMsg m i sg) (freshSeg (sg.try_ + 1)) p
  rw [retxCounted_out, dscpOf_retxCounted] at hout
  refine ⟨_, _, _, by rw [exec_rtoExpiry, rtoExpiry_due hm hs hx hst hsent hacked hdue, retransmit_port (by exact hm) hs h7 hk (by exact hl)], hout, ?_, rfl, ?_, qpOf_segmentSent, rfl⟩
  · rw [← hmsn]
    rfl
  · rw [rd_segmentSent (by decide), rd_retxCounted_retx]

end

end

/-- Settles O40: the window check and `transmit` for sending, `on_ack` over the marked segments for the ACK, and `retransmit` for the timeout. -/
theorem segmentsAreSentAndResentUnderTheWindow : Obligations.SegmentsAreSentAndResentUnderTheWindow := by
  unfold Obligations.SegmentsAreSentAndResentUnderTheWindow
  refine ⟨fun s q x m i k sg p hx hst hn hs hk hl => ⟨fun ha => ?_, exec_segmentSend_held hx hst hn⟩, fun s typ peer peerQp cls q data tag x hd ho hx he ha => ?_,
    fun s l g x m hl hop h1 h63 h0 h3 hx hc hp hpq hst hw hs hsent hb => ?_,
    fun s q x m msn i sg hx hst hm hs hsent hacked hdue => ⟨exec_rtoExpiry_fails hx hst hm hs hsent hacked hdue, fun k p => exec_rtoExpiry_again hx hst hm hs hsent hacked hdue⟩,
    fun s q x m msn a hx hst hm ha hdue h7 => ?_, fun s q x hx => ?_⟩
  · refine ⟨_, _, _, exec_segmentSend_port hx hst hn hs hk hl ha, segmentSent_out, rfl, rfl, qpOf_segmentSent, rfl, ?_⟩
    exact Option.isNone_iff_eq_none
  · rw [exec_segmentSend, segmentSend_own hd ho hx he ha, ownMessage, he, List.nil_append]
  · obtain ⟨N, y, hN, hy, hnone, hmoved⟩ := exec_ack_ends hl hop ⟨h1, h63, h0, h3⟩ hx hc ⟨hp, hpq, hst⟩ hw hs hsent hb
    exact ⟨N, y, _, hN, hy, hnone, rfl, hmoved.srtt, hmoved.within, fun h1 h2 h3 => hmoved.after h1 (by rw [h2, h3])⟩
  · rw [exec_rnrResend, rnrResend_again hx hst hm ha hdue h7]
    rfl
  · exact ⟨_, rfl, by rw [pathHoldExpiry, modQp_eq_setQp hx, qpOf_setQp_self]⟩

end Sys2Proof.Machine
end

section
/-! Transport: the receiving side of a queue pair: placement, refusals, acknowledgements and replacement (R301, R303 to R305, R307, R311 to R314). -/

namespace Sys2Proof.Machine

/-! ## Segments that a queue pair may take -/

section

variable {t : Tck} {n m : Node} {l : Link} {g : Seg} {x : Qp} {r : Mr}

theorem exec_segmentReceive (l : Link) (g : Seg) (ok : Bool) (s : State) : exec (.segmentReceive l g ok) s = .next (s.withNode (segmentReceive l g ok s.tck s.node)) := rfl
theorem exec_qpContextFetched (q : BitVec 20) (s : State) : exec (.qpContextFetched q) s = .next (s.withNode (contextFetched q.toNat s.tck s.node)) := rfl
theorem exec_ackDelay (q : BitVec 20) (s : State) : exec (.ackDelay q) s = .next (s.withNode (ackDelay q.toNat s.tck s.node)) := rfl
theorem exec_nack (l : Link) (g : Seg) (ok : Bool) (s : State) : exec (.nack l g ok) s = .next (s.withNode (controlReceive 0x11 l g ok s.tck s.node)) := rfl
theorem exec_qpReplacement (q : BitVec 20) (p : Option Nat) (s : State) : exec (.qpReplacement q p) s = .next (s.withNode (qpReplacement q.toNat p s.tck s.node)) := rfl

theorem ackSlot_congr (h : ∀ k < 64, rd m (Rg.secSlotState k) = rd n (Rg.secSlotState k)) : ackSlot m = ackSlot n :=
  List.find?_congr fun k hk => by rw [h k (List.mem_range.mp (List.mem_of_mem_drop hk))]

theorem dscpOf_congr (h : ∀ f : Fld, f.off < 0xC00200 → rd m f = rd n f) (cls : Nat) : dscpOf m cls = dscpOf n cls := by
  unfold dscpOf
  split_ifs <;> exact h _ (by decide)

/-- A segment of a READY queue pair's peer, in the window, of a message none of whose segments has come, its fields in order (R300, R303, R312). -/
structure Fits (x : Qp) (g : Seg) : Prop where
  peers : Peers x g
  lo : x.base ≤ g.seq
  hi : g.seq < x.base + 16
  new : x.recvs.find? (·.msn == g.seq) = none
  aligned : g.off % 4096 = 0
  inside : g.off < g.len
  len : g.len ≤ 1048576
  bytes : g.payload.length = min 4096 (g.len - g.off)

/-- A segment that fits is placed, refused or waits, as `place` says. -/
theorem takeSegment_fits (hx : qpOf n g.dstQp = some x) (h : Fits x g) : takeSegment t n g =
    match place t n x none g with
    | .nack r => (sendNack t n g r, true)
    | .wait n1 => (n1, false)
    | .ok n1 slot => (segPlaced t n1 x g none slot, true) := by
  have hpeer : (x.st != 1 || x.peer != g.srcNode || x.peerQp != some g.srcQp) = false := by simp [h.peers.node, h.peers.pair, h.peers.ready]
  have hwindow : (decide (g.seq < x.base) || decide (x.base + 16 ≤ g.seq) || false) = false := by simp [h.lo, h.hi]
  have hfields : (false || g.off % 4096 != 0 || decide (g.len ≤ g.off) || decide (g.len = 0) || decide (1048576 < g.len) || g.payload.length != min 4096 (g.len - g.off)) = false := by
    have := h.inside
    have hz : ¬ g.len = 0 := by omega
    simp [h.aligned, h.inside, h.len, h.bytes, hz]
  simp only [takeSegment, hx, hpeer, h.new, hwindow, hfields, Bool.false_eq_true, if_false] <;> rfl

/-- What a queue pair keeps of a WRITE's first segment (R307, R312). -/
def writeRecv (g : Seg) : RecvMsg := ⟨g.seq, 2, g.len, if g.tagged then some g.tag else none, g.rkey, g.raddr, [g.off / 4096], none, [], false⟩

/-- A queue pair that has taken the first segment of a WRITE of more. -/
def writeTaken (t : Tck) (x : Qp) (g : Seg) : Qp :=
  { x with
    recvs := x.recvs.filter (·.msn != g.seq) ++ [writeRecv g]
    since := x.since + 1
    ce := x.ce + b2n g.ce
    first := some (x.first.getD (t.now, g.seq, g.ts, g.path)) }

/-- The node that has placed such a segment in the host memory of a region. -/
def writePlaced (t : Tck) (n : Node) (x : Qp) (g : Seg) (r : Mr) : Node := setQp (hostWrite n (reqSpace r.owner) (g.raddr + g.off) g.payload) g.dstQp (writeTaken t x g)

/-- A WRITE's key names a region of the domain that takes it (R307). -/
structure Granted (n : Node) (x : Qp) (g : Seg) (r : Mr) : Prop where
  region : regionOf n g.rkey = some r
  pd : r.pd = x.pd
  write : bitAt r.access 0 = true

theorem place_write (hop : g.op = 2) (h : Granted n x g r) (hc : r.covers g.raddr g.len = true) (hs : r.space = 0) :
    place t n x none g = .ok (hostWrite n (reqSpace r.owner) (g.raddr + g.off) g.payload) none := by
  simp [place, hop, h.region, h.pd, h.write, hc, placeAt, hs, mrWrite]

theorem place_no_key (hop : g.op = 2) (h : ∀ r, regionOf n g.rkey = some r → r.pd ≠ x.pd ∨ bitAt r.access 0 = false) : place t n x none g = .nack 1 := by
  simp only [place, if_pos hop]
  cases hr : regionOf n g.rkey with
  | none => rfl
  | some r =>
    have hbad : (r.pd != x.pd || !bitAt r.access 0) = true := by simpa using h r hr
    simp only [hbad, if_true]

theorem place_range (hop : g.op = 2) (h : Granted n x g r) (hc : r.covers g.raddr g.len = false) : place t n x none g = .nack 2 := by
  simp [place, hop, h.region, h.pd, h.write, hc]

/-- The first segment of a WRITE of more is noted; nothing is sent before ACK_SEGS (R312, R313). -/
theorem segPlaced_write (hop : g.op = 2) (hmore : 4096 < g.len) (ha : g.ackNow = false) (hs : x.since + 1 < rd n Rg.qstRtxCfgAckSegs) :
    segPlaced t n x g none none = setQp n g.dstQp (writeTaken t x g) := by
  have hdone : decide (segCount g.len ≤ 1) = false := by
    rw [decide_eq_false_iff_not, segCount, cdiv]
    omega
  have hsegs : decide (rd n Rg.qstRtxCfgAckSegs ≤ x.since + 1) = false := by
    rw [decide_eq_false_iff_not]
    omega
  simp only [segPlaced, hop, Option.getD_none, List.nil_append, List.length_singleton, hdone, Bool.false_eq_true, if_false, ha, hsegs, Bool.or_false]
  rfl

theorem takeSegment_write (hx : qpOf n g.dstQp = some x) (h : Fits x g) (hop : g.op = 2) (hmore : 4096 < g.len) (hr : Granted n x g r) (hc : r.covers g.raddr g.len = true) (hs : r.space = 0)
    (ha : g.ackNow = false) (hsegs : x.since + 1 < rd n Rg.qstRtxCfgAckSegs) : takeSegment t n g = (writePlaced t n x g r, true) := by
  rw [takeSegment_fits hx h, place_write hop hr hc hs]
  exact congrArg (·, true) (segPlaced_write (n := hostWrite n _ _ _) hop hmore ha hsegs)

end

/-! ## Acknowledgements and refusals that go out -/

section

variable {t : Tck} {n : Node} {g : Seg} {x : Qp} {k : Nat} {p : Fin 8} {op q dstQp node path seq : Nat} {body : Bytes}

/-- The packet of an ACK or NACK (R313, R314). -/
def controlSeg (t : Tck) (n : Node) (op q dstQp path seq k : Nat) (body : Bytes) : Seg where
  op := op
  tagged := false
  ackNow := false
  path := path
  try_ := 0
  dstQp := dstQp
  srcQp := q
  srcNode := nodeId n
  keyId := k
  seq := seq
  off := 0
  len := 0
  rkey := 0
  raddr := 0
  tag := 0
  ts := t.now % 2 ^ 32
  pmem := 0
  pown := 0
  payload := body
  ce := false

theorem sendControl_port (hk : ackSlot n = some k) (hl : linkOf n node path = some (.fp p)) : sendControl t n op q dstQp node path seq body = portSent t n p 0 (controlSeg t n op q dstQp path seq k body) := by
  simp only [sendControl, hk, hl]
  rfl

/-- A queue pair that has sent an ACK (R313). -/
def ackSent (x : Qp) : Qp := { x with asn := x.asn + 1, since := 0, ce := 0, first := none }

theorem sendAck_port {msn ts path : Nat} (hx : qpOf n q = some x) (hk : ackSlot n = some k) (hl : linkOf n x.peer (path % max x.paths 1) = some (.fp p)) :
    sendAck t n q msn ts path = setQp (portSent t n p 0 (controlSeg t n 0x10 q (x.peerQp.getD 0) (path % max x.paths 1) x.asn k (ackBody x msn ts))) q (ackSent x) := by
  simp only [sendAck, hx]
  rw [sendControl_port hk hl, modQp_eq_setQp (by rw [qpOf_of_qst portSent_qst, hx])]
  rfl

/-- The body of a NACK (R314). -/
def nackBody (g : Seg) (reason : Nat) : Bytes := leBytes 6 g.seq ++ leBytes 1 reason ++ [0] ++ leBytes 4 g.off

theorem sendNack_port {reason : Nat} (hx : qpOf n g.dstQp = some x) (hk : ackSlot n = some k) (hl : linkOf n g.srcNode (g.path % max x.paths 1) = some (.fp p)) :
    sendNack t n g reason = setQp (portSent t n p 0 (controlSeg t n 0x11 g.dstQp g.srcQp (g.path % max x.paths 1) x.asn k (nackBody g reason))) g.dstQp { x with asn := x.asn + 1 } := by
  simp only [sendNack, hx]
  rw [sendControl_port hk hl, modQp_eq_setQp (by rw [qpOf_of_qst portSent_qst, hx])]
  rfl

end

/-! ## Arrivals -/

section

variable {t : Tck} {n : Node} {l : Link} {g : Seg} {x : Qp} {r : Mr} {k : Nat} {p : Fin 8}

theorem regionOf_contextUsed (key : Nat) : regionOf (contextUsed n l g) key = regionOf n key := by
  have h : (contextUsed n l g).qst.mrs = n.qst.mrs := congrArg (·.mrs) (packetCounted_qst (n := n) (l := l) (g := g))
  rw [regionOf, h, regionOf]

theorem Granted.used (h : Granted n x g r) : Granted (contextUsed n l g) x g r := ⟨(regionOf_contextUsed _).trans h.region, h.pd, h.write⟩

theorem contextUsed_out : (contextUsed n l g).out = n.out := contextUsed_frame (·.out) (fun _ _ => rfl) (fun _ _ _ => rfl) fun _ _ => rfl
theorem contextUsed_hmem : (contextUsed n l g).hmem = n.hmem := contextUsed_frame (·.hmem) (fun _ _ => rfl) (fun _ _ _ => rfl) fun _ _ => rfl
theorem contextUsed_t1 : (contextUsed n l g).t1 = n.t1 := contextUsed_frame (·.t1) (fun _ _ => rfl) (fun _ _ _ => rfl) fun _ _ => rfl

theorem ackSlot_contextUsed : ackSlot (contextUsed n l g) = ackSlot n := ackSlot_congr fun _ hk => rd_contextUsed (by simp only; omega)
theorem dscpOf_contextUsed (cls : Nat) : dscpOf (contextUsed n l g) cls = dscpOf n cls := dscpOf_congr (fun _ h => rd_contextUsed (by omega)) cls

theorem segmentReceive_arrives {ok : Bool} (hl : linkUp n l = true) (hop : g.op = 1 ∨ g.op = 2) : segmentReceive l g ok t n = arrive t n l g ok := by
  rcases hop with h | h <;> simp [segmentReceive, hl, h]

/-- A data segment on a live key whose context is cached goes to its queue pair (R301, R305). -/
theorem segmentReceive_taken {N : Node} (hl : linkUp n l = true) (hop : g.op = 1 ∨ g.op = 2) (hk : KeyLive n g.keyId) (hx : qpOf n g.dstQp = some x) (hc : g.dstQp ∈ n.qst.cache)
    (h : takeSegment t (contextUsed n l g) g = (N, true)) : segmentReceive l g true t n = N := by
  have htake : takePacket t (contextUsed n l g) g = (N, true) := by
    rw [takePacket, if_neg, h]
    rcases hop with h | h <;> simp [h]
  have hmem : g.op ∈ [1, 2, 0x10, 0x11] := by rcases hop with h | h <;> simp [h]
  rw [segmentReceive_arrives hl hop, arrive_cached hmem hk hx hc (by rw [htake]), htake]

/-- A packet on a live key whose tag fails is discarded and counted (R301). -/
theorem arrive_forged (hop : g.op = 1 ∨ g.op = 2) (hk : KeyLive n g.keyId) : arrive t n l g false = bump (packetCounted n l g) Rg.qstRxDropAuth 1 := by
  have hknown : ([1, 2, 0x10, 0x11].contains g.op) = true := by rcases hop with h | h <;> simp [h]
  simp only [arrive, hknown, Bool.not_true, Bool.false_eq_true, if_false]
  rw [if_neg hk.passes]
  rfl

/-- A packet whose context is not cached waits (R305). -/
theorem arrive_missed (hop : g.op = 1 ∨ g.op = 2) (hk : KeyLive n g.keyId) (hx : (qpOf n g.dstQp).isSome = true) (hc : g.dstQp ∉ n.qst.cache) : arrive t n l g true = missSeg (packetCounted n l g) l g := by
  have hknown : ([1, 2, 0x10, 0x11].contains g.op) = true := by rcases hop with h | h <;> simp [h]
  have hmiss : ((qpOf (packetCounted n l g) g.dstQp).isSome && !(packetCounted n l g).qst.cache.contains g.dstQp) = true := by
    rw [qpOf_of_qst packetCounted_qst, packetCounted_qst, hx, Bool.true_and, Bool.not_eq_true', List.contains_eq_mem, decide_eq_false hc]
  simp only [arrive, hknown, Bool.not_true, Bool.false_eq_true, if_false]
  rw [if_neg hk.passes]
  exact if_pos hmiss

/-- A missed packet waits on its port, and its context is fetched and counted once (R21, R305). -/
theorem missSeg_waits (n : Node) (h : missBytes n (.fp p) + segLen g ≤ 65536) :
    (missSeg n (.fp p) g).qst.waiting = n.qst.waiting ++ [(.fp p, g)] ∧ g.dstQp ∈ (missSeg n (.fp p) g).qst.fetching ∧ (missSeg n (.fp p) g).qst.qps = n.qst.qps
      ∧ rd (missSeg n (.fp p) g) Rg.qstQpMissCount = (if g.dstQp ∈ n.qst.fetching then rd n Rg.qstQpMissCount else satTo 32 (rd n Rg.qstQpMissCount + 1)) := by
  have hfull : decide (65536 < missBytes n (.fp p) + segLen g) = false := by
    rw [decide_eq_false_iff_not]
    omega
  simp only [missSeg, hfull, Bool.false_eq_true, if_false]
  by_cases hf : g.dstQp ∈ n.qst.fetching
  · rw [if_pos (List.contains_iff_mem.mpr hf), if_pos hf]
    exact ⟨rfl, hf, rfl, rfl⟩
  · rw [if_neg (mt List.contains_iff_mem.mp hf), if_neg hf, pmc_qst, rd_pmc_low _ _ _ _ _ (by decide), rd_bump_self _ _ _ (by decide)]
    exact ⟨rfl, List.mem_append_right _ (List.mem_singleton_self _), rfl, rfl⟩

end

/-! ## A message of the node's own that is complete -/

section

variable {t : Tck} {n : Node} {g : Seg} {x : Qp}

/-- What a queue pair keeps of a message of one segment (R312). -/
def onlyRecv (g : Seg) : RecvMsg := ⟨g.seq, 1, g.len, none, g.rkey, g.raddr, [0], none, Mem.write 0 [] 0 g.payload, true⟩

/-- The queue pair with that message kept. -/
def onlyKept (t : Tck) (x : Qp) (g : Seg) : Qp :=
  { x with recvs := [onlyRecv g], since := x.since + 1, ce := x.ce + b2n g.ce, first := some (x.first.getD (t.now, g.seq, g.ts, g.path)) }

/-- The queue pair with that message delivered. -/
def onlyDone (t : Tck) (x : Qp) (g : Seg) : Qp := { onlyKept t x g with base := x.base + 1, recvs := [] }

/-- A message of a NODE queue pair in one segment, its next (R302, R312). -/
structure OnlySegment (x : Qp) (g : Seg) : Prop where
  op : g.op = 1
  typ : x.typ = 3
  unordered : x.inOrder = false
  none : x.recvs = []
  next : g.seq = x.base
  off : g.off = 0
  one : g.len ≤ 4096
  len : 1 ≤ g.len
  bytes : g.payload.length = g.len
  untagged : g.tagged = false

theorem OnlySegment.fits (h : OnlySegment x g) (hp : Peers x g) : Fits x g where
  peers := hp
  lo := h.next.ge
  hi := by have := h.next; omega
  new := by rw [h.none, List.find?_nil]
  aligned := by rw [h.off]
  inside := by have := h.off; have := h.len; omega
  len := h.one.trans (by decide)
  bytes := by rw [h.bytes, h.off, Nat.sub_zero, Nat.min_eq_right h.one]

/-- A queue pair whose BASE has moved past its complete messages (R312). -/
def settled (x : Qp) : Qp := { advanceBase x (x.recvs.length + 1) with recvs := (advanceBase x (x.recvs.length + 1)).recvs.filter fun r => (advanceBase x (x.recvs.length + 1)).base ≤ r.msn }

/-- A complete message without a tag is delivered at once where order is not asked for (R312). -/
theorem messageDone_unordered {q : Nat} {r : RecvMsg} (hx : x.inOrder = false) (hr : r.tag = none) : messageDone t n q x r = deliverMsg t (setQp n q (settled x)) q (settled x) r := by
  simp only [messageDone, hx, hr, Bool.false_eq_true, if_false]
  rfl

theorem settled_onlyKept (h : OnlySegment x g) : settled (onlyKept t x g) = onlyDone t x g := by
  have hbase : advanceBase (onlyKept t x g) 2 = { onlyKept t x g with base := x.base + 1 } := by simp [advanceBase, onlyKept, onlyRecv, h.next]
  have hrest : (onlyKept t x g).recvs.filter (fun r => decide (x.base + 1 ≤ r.msn)) = [] := by simp [onlyKept, onlyRecv, h.next]
  have hlen : (onlyKept t x g).recvs.length + 1 = 2 := rfl
  rw [settled, hlen, hbase, hrest, onlyDone]

theorem deliverMsg_only (m : Node) (h : OnlySegment x g) : deliverMsg t m g.dstQp (onlyDone t x g) (onlyRecv g) = emit m (.nodeMsg g.dstQp g.payload) := by
  have hread : Mem.read 0 (Mem.write 0 [] 0 g.payload) 0 g.len = g.payload := by
    rw [← h.bytes]
    exact Mem.read_write 0 g.payload [] 0 rfl
  have htyp : (onlyDone t x g).typ = 3 := h.typ
  simp only [deliverMsg, htyp, onlyRecv, hread]
  rfl

theorem messageDone_only (h : OnlySegment x g) : messageDone t (setQp n g.dstQp (onlyKept t x g)) g.dstQp (onlyKept t x g) (onlyRecv g) = emit (setQp n g.dstQp (onlyDone t x g)) (.nodeMsg g.dstQp g.payload) := by
  rw [messageDone_unordered (x := onlyKept t x g) h.unordered rfl, settled_onlyKept h, deliverMsg_only _ h, setQp_setQp]

/-- The only segment of a message completes it: it is delivered and acknowledged at once (R312, R313). -/
theorem segPlaced_only (h : OnlySegment x g) : segPlaced t n x g none none = sendAck t (emit (setQp n g.dstQp (onlyDone t x g)) (.nodeMsg g.dstQp g.payload)) g.dstQp g.seq g.ts g.path := by
  have hdone : decide (segCount g.len ≤ 1) = true := by
    have := h.one
    rw [decide_eq_true_eq, segCount, cdiv]
    omega
  have hkeep : (decide (g.op = 1) && x.typ != 0) = true := by simp [h.op, h.typ]
  have hm : (⟨g.seq, g.op, g.len, if g.tagged then some g.tag else none, g.rkey, g.raddr, [g.off / 4096], none, Mem.write 0 [] g.off g.payload, true⟩ : RecvMsg) = onlyRecv g := by
    rw [h.op, h.untagged, h.off]
    rfl
  have hrecvs : x.recvs.filter (·.msn != g.seq) = [] := by rw [h.none, List.filter_nil]
  simp only [segPlaced, Option.getD_none, List.nil_append, List.length_singleton, hdone, hkeep, if_true, hm, hrecvs, Bool.true_or]
  rw [← messageDone_only h]
  rfl

theorem takeSegment_only (hx : qpOf n g.dstQp = some x) (h : OnlySegment x g) (hp : Peers x g) :
    takeSegment t n g = (sendAck t (emit (setQp n g.dstQp (onlyDone t x g)) (.nodeMsg g.dstQp g.payload)) g.dstQp g.seq g.ts g.path, true) := by
  have hplace : place t n x none g = .ok n none := by simp [place, h.op, h.typ]
  rw [takeSegment_fits hx (h.fits hp), hplace]
  exact congrArg (·, true) (segPlaced_only h)

end

/-! ## Replacement -/

section

variable {t : Tck} {n : Node} {q k : Nat} {x : Qp} {p : Option Nat}

/-- The node whose failed queue pair has given way to a new one (R303). -/
def replaced (t : Tck) (n : Node) (q k : Nat) (x : Qp) (p : Option Nat) : Node := touchQp (setQp (dropQp n q) k (newQp t (dropQp n q) k x.typ 0 .mgmt x.peer p x.paths)) k

theorem qpReplacement_gives (hx : qpOf n q = some x) (ht : 2 ≤ x.typ) (hst : x.st = 2) (he : x.errTick < t.tick) (hk : freeQpn (dropQp n q) = some k) : qpReplacement q p t n = replaced t n q k x p := by
  have hno : (decide (x.typ < 2) || x.st != 2 || decide (t.tick ≤ x.errTick)) = false := by simp [Nat.not_lt.mpr ht, hst, he]
  simp only [qpReplacement, hx, hno, Bool.false_eq_true, if_false, hk]
  rfl

theorem qpOf_replaced_self : qpOf (replaced t n q k x p) k = some (newQp t (dropQp n q) k x.typ 0 .mgmt x.peer p x.paths) := qpOf_setQp_self _ _ _

theorem qpOf_replaced_old (h : k ≠ q) : qpOf (replaced t n q k x p) q = none := by
  change mget? (mset (mdel n.qst.qps q) k _) q = none
  rw [mget?_mset_ne _ _ _ _ (Ne.symm h), mget?_mdel, if_pos rfl]

/-- The number of a queue pair taken away is held while a key slot is in use (R304). -/
theorem mhas_dropQp_held {j : Nat} (h1 : 1 ≤ j) (h63 : j ≤ 63) (hj : rd n (Rg.secSlotState j) ≠ 0) : mhas (dropQp n q).qst.held q = true := by
  have hmem : j ∈ ((List.range 64).drop 1).filter fun k => rd n (Rg.secSlotState k) != 0 := by
    rw [List.mem_filter, List.range_eq_range', List.drop_range', List.mem_range'_1, bne_iff_ne]
    exact ⟨⟨by omega, by omega⟩, hj⟩
  have hne : (((List.range 64).drop 1).filter fun k => rd n (Rg.secSlotState k) != 0).isEmpty = false := by
    rw [List.isEmpty_eq_false_iff]
    exact List.ne_nil_of_mem hmem
  have hheld : (dropQp n q).qst.held = mset n.qst.held q (((List.range 64).drop 1).filter fun k => rd n (Rg.secSlotState k) != 0) := by
    simp only [dropQp, hne, Bool.false_eq_true, if_false]
  rw [hheld, mhas, mget?_mset_self]
  rfl

theorem freeQpn_not_held (h : freeQpn n = some k) : mhas n.qst.held k = false := by
  have := List.find?_some h
  rw [Bool.and_eq_true, Bool.not_eq_true'] at this
  exact this.2

end

/-! ## A context that has been fetched -/

section

variable {t : Tck} {n : Node} {l : Link} {g : Seg} {x : Qp}

/-- The node whose fetched context is in the cache, the packets that waited for it taken out (R305). -/
def fetchedNode (n : Node) (q : Nat) : Node :=
  touchQp { n with qst := { n.qst with waiting := n.qst.waiting.filter (fun w => w.2.dstQp != q), fetching := n.qst.fetching.filter (· != q) } } q

theorem contextFetched_one {N : Node} (hx : qpOf n g.dstQp = some x) (hw : n.qst.waiting.filter (fun w => w.2.dstQp == g.dstQp) = [(l, g)]) (hop : g.op = 2) (h : takeSegment t (fetchedNode n g.dstQp) g = (N, true)) :
    contextFetched g.dstQp t n = N := by
  have htake : takePacket t (fetchedNode n g.dstQp) g = (N, true) := by
    rw [takePacket, if_neg (by simp [hop]), h]
  have hsome : (qpOf n g.dstQp).isSome = true := by rw [hx]; rfl
  simp only [contextFetched, hw, if_pos hsome]
  change (if (takePacket t (fetchedNode n g.dstQp) g).2 = true then (takePacket t (fetchedNode n g.dstQp) g).1 else _) = N
  rw [htake, if_pos rfl]

/-- A context that enters the cache stays while there is room (R305). -/
theorem mem_touchQp_cache (q : Nat) (h : n.qst.cache.length < 65536) : q ∈ (touchQp n q).qst.cache := by
  have hlen : ¬ 65536 < (n.qst.cache.filter (· != q) ++ [q]).length := by
    have := List.length_filter_le (· != q) n.qst.cache
    rw [List.length_append, List.length_singleton]
    omega
  simp only [touchQp, if_neg hlen]
  exact List.mem_append_right _ (List.mem_singleton_self q)

theorem mem_fetchedNode_cache (q : Nat) : n.qst.cache.length < 65536 → q ∈ (fetchedNode n q).qst.cache :=
  mem_touchQp_cache (n := { n with qst := { n.qst with waiting := n.qst.waiting.filter (fun w => w.2.dstQp != q), fetching := n.qst.fetching.filter (· != q) } }) q

end

/-! ## The obligation -/

section

variable {s : State} {l : Link} {g : Seg} {x : Qp} {r : Mr} {k : Nat} {p : Fin 8}

theorem exec_segmentReceive_nack {reason : Nat} (hl : linkUp s.node l = true) (hop : g.op = 2) (hk : KeyLive s.node g.keyId) (hx : qpOf s.node g.dstQp = some x) (hc : g.dstQp ∈ s.node.qst.cache) (hf : Fits x g)
    (hslot : ackSlot s.node = some k) (hlink : linkOf s.node g.srcNode (g.path % max x.paths 1) = some (.fp p)) (hplace : place s.tck (contextUsed s.node l g) x none g = .nack reason) :
    ∃ (N : Node) (h : Seg), exec (.segmentReceive l g true) s = .next (s.withNode N) ∧ N.out = s.node.out ++ [.segment (.fp p) (dscpOf s.node 0) h] ∧ (h.op, h.seq, h.keyId, h.dstQp) = (0x11, x.asn, k, g.srcQp)
      ∧ h.payload = leBytes 6 g.seq ++ leBytes 1 reason ++ [0] ++ leBytes 4 g.off ∧ N.hmem = s.node.hmem ∧ N.t1 = s.node.t1 ∧ qpOf N g.dstQp = some { x with asn := x.asn + 1 } := by
  have hx' : qpOf (contextUsed s.node l g) g.dstQp = some x := (qpOf_contextUsed _).trans hx
  have htake : takeSegment s.tck (contextUsed s.node l g) g = (sendNack s.tck (contextUsed s.node l g) g reason, true) := by
    rw [takeSegment_fits hx' hf, hplace]
  refine ⟨_, controlSeg s.tck (contextUsed s.node l g) 0x11 g.dstQp g.srcQp (g.path % max x.paths 1) x.asn k (nackBody g reason),
    by rw [exec_segmentReceive, segmentReceive_taken hl (.inr hop) hk hx hc htake, sendNack_port hx' (ackSlot_contextUsed.trans hslot) ((linkOf_contextUsed _ _).trans hlink)], ?_, rfl, rfl, ?_, ?_, qpOf_setQp_self _ _ _⟩
  · exact portSent_out.trans (by rw [contextUsed_out, dscpOf_contextUsed])
  · exact portSent_hmem.trans contextUsed_hmem
  · exact portSent_t1.trans contextUsed_t1

theorem exec_segmentReceive_write (hl : linkUp s.node l = true) (hop : g.op = 2) (hk : KeyLive s.node g.keyId) (hx : qpOf s.node g.dstQp = some x) (hc : g.dstQp ∈ s.node.qst.cache) (hf : Fits x g)
    (hmore : 4096 < g.len) (hr : Granted s.node x g r) (hcov : r.covers g.raddr g.len = true) (hs : r.space = 0) (ha : g.ackNow = false) (hsegs : x.since + 1 < rd s.node Rg.qstRtxCfgAckSegs) :
    exec (.segmentReceive l g true) s = .next (s.withNode (writePlaced s.tck (contextUsed s.node l g) x g r)) := by
  rw [exec_segmentReceive, segmentReceive_taken hl (.inr hop) hk hx hc (takeSegment_write ((qpOf_contextUsed _).trans hx) hf hop hmore hr.used hcov hs ha (by rw [rd_contextUsed (by decide)]; exact hsegs))]

theorem exec_segmentReceive_only (hl : linkUp s.node l = true) (hk : KeyLive s.node g.keyId) (hx : qpOf s.node g.dstQp = some x) (hc : g.dstQp ∈ s.node.qst.cache) (hp : Peers x g) (ho : OnlySegment x g)
    (hslot : ackSlot s.node = some k) (hlink : linkOf s.node g.srcNode (g.path % max x.paths 1) = some (.fp p)) :
    ∃ (N : Node) (h : Seg) (y : Qp), exec (.segmentReceive l g true) s = .next (s.withNode N) ∧ N.out = s.node.out ++ [.nodeMsg g.dstQp g.payload, .segment (.fp p) (dscpOf s.node 0) h] ∧ (h.op, h.seq, h.keyId) = (0x10, x.asn, k)
      ∧ field h.payload 0 6 = (x.base + 1) % 2 ^ 48 ∧ qpOf N g.dstQp = some y ∧ (y.base, y.asn, y.recvs, y.since) = (x.base + 1, x.asn + 1, [], 0) := by
  have hx' : qpOf (contextUsed s.node l g) g.dstQp = some x := (qpOf_contextUsed _).trans hx
  have hrd : ∀ f : Fld, f.off < 0x01000000 → rd (emit (setQp (contextUsed s.node l g) g.dstQp (onlyDone s.tck x g)) (.nodeMsg g.dstQp g.payload)) f = rd s.node f := fun f hf => rd_contextUsed hf
  have hqp : qpOf (emit (setQp (contextUsed s.node l g) g.dstQp (onlyDone s.tck x g)) (.nodeMsg g.dstQp g.payload)) g.dstQp = some (onlyDone s.tck x g) := qpOf_setQp_self _ _ _
  have hslot' : ackSlot (emit (setQp (contextUsed s.node l g) g.dstQp (onlyDone s.tck x g)) (.nodeMsg g.dstQp g.payload)) = some k := (ackSlot_congr fun k hk => hrd _ (by simp only; omega)).trans hslot
  have hlink' : linkOf (emit (setQp (contextUsed s.node l g) g.dstQp (onlyDone s.tck x g)) (.nodeMsg g.dstQp g.payload)) x.peer (g.path % max x.paths 1) = some (.fp p) := by
    rw [hp.node, linkOf_congr fun f hf => hrd f (by rcases hf with h | h <;> omega)]
    exact hlink
  have hexec := exec_segmentReceive l g true s
  rw [segmentReceive_taken hl (.inl ho.op) hk hx hc (takeSegment_only hx' ho hp), sendAck_port hqp hslot' hlink'] at hexec
  refine ⟨_, controlSeg s.tck (emit (setQp (contextUsed s.node l g) g.dstQp (onlyDone s.tck x g)) (.nodeMsg g.dstQp g.payload)) 0x10 g.dstQp (x.peerQp.getD 0) (g.path % max x.paths 1) x.asn k (ackBody (onlyDone s.tck x g) g.seq g.ts),
    _, hexec, portSent_out.trans ?_, rfl, ?_, qpOf_setQp_self _ _ _, rfl⟩
  · rw [dscpOf_congr (fun f hf => hrd f (by omega)), emit_out]
    change (contextUsed s.node l g).out ++ _ ++ _ = _
    rw [contextUsed_out, List.append_assoc]
    rfl
  · simp only [controlSeg, ackBody, List.append_assoc, field_first]
    rfl

end

/-- Settles O41: the checks of `takeSegment` in their order give placement or the refusal; a good packet passes `arrive` unchanged, and the rest is one case per command. -/
theorem segmentsArePlacedRefusedAndAcknowledged : Obligations.SegmentsArePlacedRefusedAndAcknowledged := by
  unfold Obligations.SegmentsArePlacedRefusedAndAcknowledged
  refine ⟨fun s l g x hop hx hst hp hpq hlo hhi hnew hal hin hmore hlen hbytes => ?_, fun s p g hl hop h1 h63 h0 h3 => ?_,
    fun s l g x k p hl hop h1 h63 h0 h3 hx hc hst hp hpq htyp hord hrecvs hseq hoff hlen hone hbytes htag hslot hlink => ?_, fun s q x a msn ts path k p hx hfirst hdue hslot hlink => ?_,
    fun s l g x hl hop h1 h63 h0 h3 hx hc hp hpq hst => ?_, fun s q x peerQp k hx htyp hst herr hk => ?_⟩
  · have hf : Fits x g := ⟨⟨hp, hpq, hst⟩, hlo, hhi, hnew, hal, hin, hlen, hbytes⟩
    refine ⟨fun r hr hpd hw hcov hsp ha hsegs => ⟨fun hl h1 h63 h0 h3 hc => ?_, fun q hq hwait => ?_⟩, fun k p reason hl h1 h63 h0 h3 hc hslot hlink hwhy => ?_⟩
    · refine ⟨_, writeTaken s.tck x g, exec_segmentReceive_write hl hop ⟨h1, h63, h0, h3⟩ hx hc hf hmore ⟨hr, hpd, hw⟩ hcov hsp ha hsegs, ?_, contextUsed_out, qpOf_setQp_self _ _ _, rfl, rfl⟩
      exact congrArg (fun m => Mem.write 0 m _ _) contextUsed_hmem
    · rw [hq] at hwait ⊢
      have htake : takeSegment s.tck (fetchedNode s.node g.dstQp) g = (writePlaced s.tck (fetchedNode s.node g.dstQp) x g r, true) := takeSegment_write hx hf hop hmore ⟨hr, hpd, hw⟩ hcov hsp ha hsegs
      exact ⟨writePlaced s.tck (fetchedNode s.node g.dstQp) x g r, writeTaken s.tck x g, by rw [exec_qpContextFetched, hq, contextFetched_one hx hwait hop htake], rfl, rfl, qpOf_setQp_self _ _ _, rfl, rfl, rfl, mem_fetchedNode_cache _⟩
    · refine exec_segmentReceive_nack hl hop ⟨h1, h63, h0, h3⟩ hx hc hf hslot hlink ?_
      rcases hwhy with ⟨rfl, hkey⟩ | ⟨rfl, r, hr, hpd, hw, hcov⟩
      · exact place_no_key hop fun r hr => hkey r ((regionOf_contextUsed _).symm.trans hr)
      · exact place_range hop (Granted.used ⟨hr, hpd, hw⟩) hcov
  · have hk : KeyLive s.node g.keyId := ⟨h1, h63, h0, h3⟩
    refine ⟨⟨bump (packetCounted s.node (.fp p) g) Rg.qstRxDropAuth 1, by rw [exec_segmentReceive, segmentReceive_arrives hl hop, arrive_forged hop hk], ?_, packetCounted_qst, ?_, ?_, ?_⟩, fun hx hc hfull => ?_⟩
    · rw [rd_bump_self _ _ _ (by decide), rd_packetCounted (by decide)]
    · exact packetCounted_frame (·.out) (fun _ _ => rfl) fun _ _ _ => rfl
    · exact packetCounted_frame (·.hmem) (fun _ _ => rfl) fun _ _ _ => rfl
    · exact packetCounted_frame (·.t1) (fun _ _ => rfl) fun _ _ _ => rfl
    · obtain ⟨hwait, hfetch, hqps, hcount⟩ := missSeg_waits (p := p) (g := g) (packetCounted s.node (.fp p) g) (by rw [missBytes, packetCounted_qst]; exact hfull)
      rw [packetCounted_qst] at hwait hqps hcount
      rw [rd_packetCounted (by decide)] at hcount
      exact ⟨_, by rw [exec_segmentReceive, segmentReceive_arrives hl hop, arrive_missed hop hk hx hc], hwait, hfetch, hqps, hcount⟩
  · exact exec_segmentReceive_only hl ⟨h1, h63, h0, h3⟩ hx hc ⟨hp, hpq, hst⟩ ⟨hop, htyp, hord, hrecvs, hseq, hoff, hone, hlen, hbytes, htag⟩ hslot hlink
  · have hack : ackDelay q.toNat s.tck s.node = sendAck s.tck s.node q.toNat msn ts path := by
      simp only [ackDelay, hx, Option.bind_some, hfirst, if_pos hdue]
    have hexec := exec_ackDelay q s
    rw [hack, sendAck_port hx hslot hlink] at hexec
    exact ⟨_, controlSeg s.tck s.node 0x10 q.toNat (x.peerQp.getD 0) (path % max x.paths 1) x.asn k (ackBody x msn ts), hexec, portSent_out, rfl, qpOf_setQp_self _ _ _⟩
  · have hnack := controlReceive_takes (t := s.tck) 0x11 (.inr rfl) hl hop ⟨h1, h63, h0, h3⟩ hx hc ⟨hp, hpq, hst⟩
    rw [if_neg (by decide)] at hnack
    refine ⟨fun hr => ⟨_, by rw [exec_nack, hnack, takeNack, if_pos hr], qpOf_setQp_self _ _ _⟩, fun hr hw => ?_⟩
    obtain ⟨st, hst', hfail⟩ : ∃ st, st ≠ stPeerLost ∧ takeNack s.tck (contextUsed s.node l g) g.dstQp x g = failQp s.tck (contextUsed s.node l g) g.dstQp st := by
      simp only [List.mem_cons, List.not_mem_nil, or_false] at hr
      rcases hr with hr | hr | hr | hr | hr
      · exact ⟨stDenied, by decide, by simp [takeNack, hr]⟩
      · exact ⟨stDenied, by decide, by simp [takeNack, hr]⟩
      · exact ⟨stNotOwner, by decide, by simp [takeNack, hr]⟩
      · exact ⟨stBadParam, by decide, by simp [takeNack, hr]⟩
      · exact ⟨stBadParam, by decide, by simp [takeNack, hr]⟩
    refine ⟨_, failed s.tck x, by rw [exec_nack, hnack, hfail, failQp_none st ((qpOf_contextUsed _).trans hx) hw, if_neg hst'], qpOf_failCounted, rfl, rfl, ?_⟩
    rw [rd_failCounted, rd_contextUsed (by decide)]
  · refine ⟨_, _, by rw [exec_qpReplacement, qpReplacement_gives hx htyp hst herr hk], qpOf_replaced_self, rfl, rfl, qpOf_replaced_old, ?_⟩
    rintro ⟨j, h1, h63, hj⟩
    have hheld := mhas_dropQp_held (q := q.toNat) h1 h63 hj
    refine ⟨?_, hheld⟩
    rintro rfl
    exact absurd ((freeQpn_not_held hk).symm.trans hheld) Bool.false_ne_true

end Sys2Proof.Machine
end

section
/-! The object mailbox: domains, region keys and queue pairs (R302 to R307, R314, R321, R322). -/

namespace Sys2Proof.Machine

section

variable {s : State} {n : Node} {t : Tck} {src : Req} {k : Nat} {x : Qp}

/-- The tenant's state lets operations of the mailbox in (R321). -/
structure Admitting (n : Node) : Prop where
  fencing : tenantState n ≠ tsFencing
  erasing : tenantState n ≠ tsErasing

theorem withObj_open (h : Admitting n) (body : Bytes → Node) : withObj n body = body (objArgs n) := by
  have hno : ¬ (tenantState n == tsFencing || tenantState n == tsErasing) = true := by simp [h.fencing, h.erasing]
  rw [withObj, if_neg hno]

theorem withObj_shut (h : tenantState n = tsFencing ∨ tenantState n = tsErasing) (body : Bytes → Node) : withObj n body = objResult n stDenied := by
  have hno : (tenantState n == tsFencing || tenantState n == tsErasing) = true := by simpa using h
  rw [withObj, if_pos hno]

theorem onNode_open {f : Tck → Node → Node} {N : Node} (hw : Writable s.node) (h : f s.tck s.node = N) : onNode (whenOpen f) s = .next (s.withNode N) := by
  subst h
  exact onNode_eq (by rw [whenOpen, hw, if_neg Bool.false_ne_true])

/-! What an operation leaves in the mailbox. -/

theorem rd_objResult (n : Node) (v : Nat) : rd (objResult n v) Rg.qstObjStatusResult = v % 2 ^ 16 := rd_wr_self _ _ _ (by decide)
theorem rd_objReturn_status (n : Node) (v : Nat) : rd (objReturn n v) Rg.qstObjStatusResult = stOk := (rd_wr_off _ _ _ _ (by decide)).trans (rd_objResult _ _)
theorem rd_objReturn_value (n : Node) (v : Nat) : rd (objReturn n v) (Rg.qstObjArgArg 0) = v % 2 ^ 32 := rd_wr_self _ _ _ (by decide)

/-! ## Domains -/

/-- A map that holds every number below `k` has at least `k` entries. -/
theorem le_length_of_mhas {β : Type} {m : NMap β} (h : ∀ j < k, mhas m j = true) : k ≤ m.length := by
  have hsub : List.range k ⊆ m.map (·.1) := fun j hj => by
    obtain ⟨v, hv⟩ := Option.isSome_iff_exists.mp (h j (List.mem_range.mp hj))
    exact List.mem_map.mpr ⟨(j, v), mem_of_mget? hv, rfl⟩
  have hle := List.Subperm.length_le (List.subperm_of_subset List.nodup_range hsub)
  rwa [List.length_range, List.length_map] at hle

theorem find?_range_first {p : Nat → Bool} {b : Nat} (hk : k < b) (hp : p k = true) (h : ∀ j < k, p j = false) : (List.range b).find? p = some k := by
  rw [List.find?_range_eq_some]
  exact ⟨hp, List.mem_range.mpr hk, fun j hj => by rw [h j hj]; rfl⟩

theorem lowestFree_eq {β : Type} {m : NMap β} {b : Nat} (hk : k < b) (hno : mhas m k = false) (h : ∀ j < k, mhas m j = true) : lowestFree m b = some k := by
  refine find?_range_first (Nat.lt_succ_of_le (le_length_of_mhas h)) (by simp [hk, hno]) fun j hj => by simp [h j hj]

theorem lowestFree_none {β : Type} {m : NMap β} {b : Nat} (h : ∀ j < b, mhas m j = true) : lowestFree m b = none :=
  List.find?_eq_none.mpr fun j _ => by
    by_cases hj : j < b
    · simp [h j hj]
    · simp [hj]

theorem allocPd_some (ha : Admitting n) (h : lowestFree n.qst.pds 4096 = some k) : allocPd src n = objReturn { n with qst := { n.qst with pds := mset n.qst.pds k src } } k := by
  rw [allocPd, withObj_open ha, h]

theorem allocPd_none (ha : Admitting n) (h : lowestFree n.qst.pds 4096 = none) : allocPd src n = objResult n stBadParam := by
  rw [allocPd, withObj_open ha, h]

theorem freePd_none (ha : Admitting n) (h : mget? n.qst.pds (field (objArgs n) 0 4) = none) : freePd src n = objResult n stBadParam := by
  simp only [freePd, withObj_open ha, h]

section

variable {o : Req} (ha : Admitting n) (h : mget? n.qst.pds (field (objArgs n) 0 4) = some o)

include ha h

theorem freePd_foreign (hu : mayUse o src = false) : freePd src n = objResult n stNotOwner := by
  simp only [freePd, withObj_open ha, h, hu, Bool.not_false, if_true]

theorem freePd_free (hu : mayUse o src = true) (hq : ∀ e ∈ n.qst.qps, e.2.typ < 2 → e.2.pd ≠ field (objArgs n) 0 4) (hm : ∀ e ∈ n.qst.mrs, e.2.pd ≠ field (objArgs n) 0 4) :
    freePd src n = objResult { n with qst := { n.qst with pds := mdel n.qst.pds (field (objArgs n) 0 4) } } stOk := by
  have hqps : (n.qst.qps.any fun e => decide (e.2.typ < 2) && e.2.pd == field (objArgs n) 0 4) = false := by simpa using fun a b hab => hq (a, b) hab
  have hmrs : (n.qst.mrs.any fun e => e.2.pd == field (objArgs n) 0 4) = false := by simpa using fun a b hab => hm (a, b) hab
  simp only [freePd, withObj_open ha, h, hu, Bool.not_true, Bool.false_eq_true, if_false, hqps, hmrs, Bool.or_self]

theorem freePd_used (hu : mayUse o src = true) (hm : ∃ e ∈ n.qst.mrs, e.2.pd = field (objArgs n) 0 4) : freePd src n = objResult n stBadParam := by
  have hmrs : (n.qst.mrs.any fun e => e.2.pd == field (objArgs n) 0 4) = true := by simpa [List.any_eq_true] using hm
  simp only [freePd, withObj_open ha, h, hu, Bool.not_true, Bool.false_eq_true, if_false, hmrs, Bool.or_true, if_true]

end

/-! ## Region keys -/

/-- A region index free to be issued has no region, its generation was never used, and index 0 never issues key 0 (R306). -/
theorem freeRegion_spec {g : Nat} (h : freeRegion n = some (k, g)) : mget? n.qst.mrs k = none ∧ (∀ g', mget? n.qst.gens k = some g' → g = g' + 1) ∧ (k, g) ≠ (0, 0) := by
  obtain ⟨j, -, hj⟩ := List.exists_of_findSome?_eq_some h
  split at hj
  · rename_i hfree
    obtain ⟨g', hg, he⟩ := Option.map_eq_some_iff.mp hj
    cases he
    rw [Bool.and_eq_true, Bool.not_eq_true', mhas, Option.isSome_eq_false_iff, Option.isNone_iff_eq_none] at hfree
    refine ⟨hfree.2, ?_⟩
    cases hold : mget? n.qst.gens k with
    | none =>
      simp only [nextGen, hold, Option.some.injEq] at hg
      refine ⟨fun _ h => (by cases h), fun he => ?_⟩
      rw [(Prod.mk.inj he).1, (Prod.mk.inj he).2] at hg
      exact absurd hg (by decide)
    | some g' =>
      simp only [nextGen, hold] at hg
      split at hg
      · cases hg
        refine ⟨fun g'' h => by cases h; rfl, fun he => ?_⟩
        exact absurd (Prod.mk.inj he).2 (Nat.succ_ne_zero g')
      · cases hg
  · cases hj

/-- The region that a descriptor asks for (R306, R322). -/
def descMr (a : Bytes) (src : Req) (g : Nat) : Mr := ⟨g, field a 0 8, field a 8 8, byteAt a 16, byteAt a 17, field a 18 2, src⟩

/-- The node that has issued a region key. -/
def regionIssued (n : Node) (a : Bytes) (src : Req) (k g : Nat) : Node :=
  objReturn { n with qst := { n.qst with mrs := mset n.qst.mrs k (descMr a src g), gens := mset n.qst.gens k g } } (k * 256 + g)

theorem regMr_issues {o : Req} {g : Nat} (ha : Admitting n) (hok : regionOk n (objArgs n) src = true) (hpd : mget? n.qst.pds (field (objArgs n) 18 2) = some o) (hu : mayUse o src = true)
    (hf : byteAt (objArgs n) 16 = 1 → ∀ f ∈ nameFrames n (field (objArgs n) 0 8) (field (objArgs n) 8 8), frameOurs n f = true) (hk : freeRegion n = some (k, g)) : regMr src n = regionIssued n (objArgs n) src k g := by
  have hours : (byteAt (objArgs n) 16 == 1 && (nameFrames n (field (objArgs n) 0 8) (field (objArgs n) 8 8)).any fun f => !frameOurs n f) = false := by
    rw [Bool.and_eq_false_imp]
    intro h1
    rw [List.any_eq_false]
    intro f hmem
    rw [hf (beq_iff_eq.mp h1) f hmem]
    decide
  simp only [regMr, withObj_open ha, hok, hpd, hu, hours, Bool.not_true, Bool.or_self, Bool.false_eq_true, if_false, hk]
  rfl

theorem deregMr_ends {r : Mr} (ha : Admitting n) (hr : regionOf n (field (objArgs n) 0 4) = some r) (hu : mayUse r.owner src = true) :
    deregMr src n = objResult { n with qst := { n.qst with mrs := mdel n.qst.mrs (field (objArgs n) 0 4 / 256) } } stOk := by
  simp only [deregMr, withObj_open ha, hr, hu, Bool.not_true, Bool.false_eq_true, if_false]

/-! ## Queue pairs -/

/-- A free number names no queue pair and is not held (R304). -/
theorem freeQpn_free (h : freeQpn n = some k) : qpOf n k = none := by
  have hfree := List.find?_some h
  rw [Bool.and_eq_true, Bool.and_eq_true, Bool.not_eq_true', mhas, Option.isSome_eq_false_iff, Option.isNone_iff_eq_none] at hfree
  exact hfree.1.2

/-- The regions of a QP descriptor's rings are the requester's (R322). -/
structure RingsOwned (n : Node) (a : Bytes) (src : Req) : Prop where
  sq : byteAt a 10 ≠ 0 → foreignRegion n src (field a 16 4) = false
  rq : byteAt a 11 ≠ 0 → foreignRegion n src (field a 20 4) = false
  cq : byteAt a 13 ≠ 0 → foreignRegion n src (field a 24 4) = false

theorem createQp_makes {o : Req} (ha : Admitting n) (hok : qpDescOk n (objArgs n) = true) (hpd : mget? n.qst.pds (field (objArgs n) 2 2) = some o) (hu : mayUse o src = true) (hr : RingsOwned n (objArgs n) src)
    (hk : freeQpn n = some k) : createQp src t n = objReturn (touchQp (setQp n k (descQp t n k (objArgs n) src)) k) k := by
  have hown {v key : Nat} (h : v ≠ 0 → foreignRegion n src key = false) : (v != 0 && foreignRegion n src key) = false := by
    rw [Bool.and_eq_false_imp]
    exact fun hv => h (bne_iff_ne.mp hv)
  simp only [createQp, withObj_open ha, hok, hpd, hu, hown hr.sq, hown hr.rq, hown hr.cq, Bool.not_true, Bool.or_self, Bool.false_eq_true, if_false, hk]

theorem withObjQp_own {q : Nat} (hx : qpOf n q = some x) (ht : x.typ < 2) (hu : mayUse x.owner src = true) (body : Qp → Node) : withObjQp n src q body = body x := by
  have hno : ¬ (decide (2 ≤ x.typ) || !mayUse x.owner src) = true := by simp [ht, hu]
  simp only [withObjQp, hx]
  rw [if_neg hno]

theorem withObjQp_foreign {q : Nat} (hx : qpOf n q = some x) (h : 2 ≤ x.typ ∨ mayUse x.owner src = false) (body : Qp → Node) : withObjQp n src q body = objResult n stNotOwner := by
  have hno : (decide (2 ≤ x.typ) || !mayUse x.owner src) = true := by simpa using h
  simp only [withObjQp, hx]
  rw [if_pos hno]

/-- A queue pair without work requests ends with none. -/
theorem endWrs_none {q st : Nat} (hx : qpOf n q = some x) (hw : x.wrs = []) : endWrs t n q st = setQp n q { x with wrs := [], sends := [], sqDone := x.sqTail } := by
  simp only [endWrs, hx, hw, List.filterMap_nil, dedupNat, List.foldl_nil, modQp_eq_setQp hx]

section

variable (ha : Admitting n) (hx : qpOf n (field (objArgs n) 0 4) = some x)

include ha hx

theorem connectQp_foreign (h : 2 ≤ x.typ ∨ mayUse x.owner src = false) : connectQp src n = objResult n stNotOwner := by
  simp only [connectQp, withObj_open ha, withObjQp_foreign hx h]

theorem destroyQp_foreign (h : 2 ≤ x.typ ∨ mayUse x.owner src = false) : destroyQp src t n = objResult n stNotOwner := by
  simp only [destroyQp, withObj_open ha, withObjQp_foreign hx h]

variable (ht : x.typ < 2) (hu : mayUse x.owner src = true)

include ht hu

theorem connectQp_makes (hst : x.st = 0) (hp : field (objArgs n) 4 4 < 0xFFFFF) : connectQp src n =
    objResult (setQp n (field (objArgs n) 0 4) { x with peerQp := some (field (objArgs n) 4 4), st := 1, eseed := eseedOf (nodeId n) (field (objArgs n) 0 4) x.peer (field (objArgs n) 4 4) }) stOk := by
  have hno : ¬ (x.st != 0 || decide (0xFFFFF ≤ field (objArgs n) 4 4)) = true := by simp [hst, hp]
  simp only [connectQp, withObj_open ha, withObjQp_own hx ht hu]
  rw [if_neg hno]

theorem connectQp_again (hst : x.st ≠ 0) : connectQp src n = objResult n stBadParam := by
  have hno : (x.st != 0 || decide (0xFFFFF ≤ field (objArgs n) 4 4)) = true := by simp [hst]
  simp only [connectQp, withObj_open ha, withObjQp_own hx ht hu]
  rw [if_pos hno]

theorem destroyQp_idle (hw : x.wrs = []) : destroyQp src t n = objResult (dropQp (setQp n (field (objArgs n) 0 4) { x with wrs := [], sends := [], sqDone := x.sqTail }) (field (objArgs n) 0 4)) stOk := by
  simp only [destroyQp, withObj_open ha, withObjQp_own hx ht hu, endWrs_none hx hw]

end

end

/-! ## The obligation -/

section

variable {s : State} {src : Req} (hw : Writable s.node)

include hw

theorem exec_object_denied {i : Instr} (h : tenantState s.node = tsFencing ∨ tenantState s.node = tsErasing) (hi : i ∈ [.allocPd src, .freePd src, .regMr src, .deregMr src, .createQp src, .connectQp src, .destroyQp src]) :
    exec i s = .next (s.withNode (wr s.node Rg.qstObjStatusResult stDenied)) := by
  simp only [List.mem_cons, List.not_mem_nil, or_false] at hi
  rcases hi with rfl | rfl | rfl | rfl | rfl | rfl | rfl <;> exact onNode_open hw (withObj_shut h _)

theorem exec_qp_foreign {i : Instr} {x : Qp} (ha : Admitting s.node) (hx : qpOf s.node (field (objArgs s.node) 0 4) = some x) (h : 2 ≤ x.typ ∨ mayUse x.owner src = false) (hi : i ∈ [.connectQp src, .destroyQp src]) :
    exec i s = .next (s.withNode (wr s.node Rg.qstObjStatusResult stNotOwner)) := by
  simp only [List.mem_cons, List.not_mem_nil, or_false] at hi
  rcases hi with rfl | rfl
  · exact onNode_open hw (connectQp_foreign ha hx h)
  · exact onNode_open hw (destroyQp_foreign ha hx h)

theorem exec_createQp_makes {o : Req} {k : Nat} {a : Bytes} (ha : Admitting s.node) (hargs : a = objArgs s.node) (hok : qpDescOk s.node a = true) (hpd : mget? s.node.qst.pds (field a 2 2) = some o) (hu : mayUse o src = true)
    (hr : RingsOwned s.node a src) (hk : freeQpn s.node = some k) :
    ∃ (N : Node) (y : Qp), exec (.createQp src) s = .next (s.withNode N) ∧ qpOf N k = some y ∧ qpOf s.node k = none ∧ mhas s.node.qst.held k = false ∧ (y.typ, y.pd, y.owner, y.peer, y.paths, y.svc) = (byteAt a 15, field a 2 2, src, field a 0 2, byteAt a 8, byteAt a 14)
      ∧ (y.st, y.peerQp) = (if field a 4 4 = 0xFFFFF then (0, none) else (1, some (field a 4 4))) ∧ (y.msn, y.asn, y.base, y.cwnd, y.srtt) = (1, 1, 1, rd s.node Rg.qstCcCfgInit * 4096, rd s.node Rg.qstCcCfgTarget * 400)
      ∧ (y.sqLog2, y.sqKey, y.sqAddr, y.rqLog2, y.slotLog2, y.rqKey, y.rqAddr, y.cqLog2, y.cqKey, y.cqAddr, y.msix)
        = (byteAt a 10, field a 16 4, field a 32 8, byteAt a 11, byteAt a 12, field a 20 4, field a 40 8, byteAt a 13, field a 24 4, field a 48 8, field a 28 2)
      ∧ rd N Rg.qstObjStatusResult = stOk ∧ rd N (Rg.qstObjArgArg 0) = k % 2 ^ 32 := by
  subst hargs
  refine ⟨_, descQp s.tck s.node k (objArgs s.node) src, onNode_open hw (createQp_makes ha hok hpd hu hr hk), mget?_mset_self _ _ _, freeQpn_free hk, freeQpn_not_held hk, rfl, ?_, rfl, rfl, rd_objReturn_status _ _, rd_objReturn_value _ _⟩
  change (b2n (if field (objArgs s.node) 4 4 = 0xFFFFF then none else some (field (objArgs s.node) 4 4)).isSome, if field (objArgs s.node) 4 4 = 0xFFFFF then none else some (field (objArgs s.node) 4 4)) = _
  split_ifs <;> rfl

end

/-- Settles O43: each operation is its equation on a mailbox that is open, and the numbers it issues are free ones. -/
theorem objectsAreCreatedUsedAndDestroyed : Obligations.ObjectsAreCreatedUsedAndDestroyed := by
  unfold Obligations.ObjectsAreCreatedUsedAndDestroyed
  refine ⟨fun s src i hw h hi => exec_object_denied hw h hi, fun s src a hw hf he hargs => ?_⟩
  have ha : Admitting s.node := ⟨hf, he⟩
  refine ⟨fun k hk hno hall => ?_, fun hall => onNode_open hw (allocPd_none ha (lowestFree_none hall)), ?_, ?_, ?_, ?_, ?_, ?_, fun x hx h i hi => exec_qp_foreign hw ha (hargs ▸ hx) h hi⟩
  · refine ⟨_, onNode_open hw (allocPd_some ha (lowestFree_eq hk hno hall)), rfl, rd_objReturn_status _ _, ?_⟩
    rw [rd_objReturn_value, Nat.mod_eq_of_lt (hk.trans (by decide))]
  · subst hargs
    exact fun h => onNode_open hw (freePd_none ha h)
  · subst hargs
    refine fun o ho => ⟨fun hu => onNode_open hw (freePd_foreign ha ho hu), fun hu hq hm => ?_, fun hu hm => onNode_open hw (freePd_used ha ho hu hm)⟩
    exact ⟨_, onNode_open hw (freePd_free ha ho hu hq hm), rfl, rd_objResult _ _⟩
  · subst hargs
    intro o k g hok hpd hu hframes hk
    obtain ⟨hfree, hgen, hne⟩ := freeRegion_spec hk
    exact ⟨regionIssued s.node (objArgs s.node) src k g, onNode_open hw (regMr_issues ha hok hpd hu hframes hk), mget?_mset_self _ _ _, fun j hj => mget?_mset_ne _ _ _ _ hj, hfree, hgen, hne,
      rd_objReturn_status _ _, rd_objReturn_value _ _⟩
  · subst hargs
    intro r hr hu
    refine ⟨_, onNode_open hw (deregMr_ends ha hr hu), ?_, rd_objResult _ _⟩
    have hgone : mget? (mdel s.node.qst.mrs (field (objArgs s.node) 0 4 / 256)) (field (objArgs s.node) 0 4 / 256) = none := by rw [mget?_mdel, if_pos rfl]
    rw [regionOf]
    change (match mget? (mdel s.node.qst.mrs (field (objArgs s.node) 0 4 / 256)) (field (objArgs s.node) 0 4 / 256) with | some r => _ | none => none) = none
    rw [hgone]
  · exact fun o k hok hpd hu hsq hrq hcq hk => exec_createQp_makes hw ha hargs hok hpd hu ⟨hsq, hrq, hcq⟩ hk
  · subst hargs
    intro x hx ht hu
    refine ⟨fun hst hp => ?_, fun hst => onNode_open hw (connectQp_again ha hx ht hu hst), fun hwrs => ?_⟩
    · exact ⟨_, _, onNode_open hw (connectQp_makes ha hx ht hu hst hp), qpOf_setQp_self _ _ _, rfl, rfl, rfl, rd_objResult _ _⟩
    · refine ⟨_, onNode_open hw (destroyQp_idle ha hx ht hu hwrs), ?_, rd_objResult _ _, rfl, fun ⟨j, h1, h63, hj⟩ => mhas_dropQp_held (n := setQp s.node _ _) h1 h63 hj⟩
      change mget? (mdel _ (field (objArgs s.node) 0 4)) (field (objArgs s.node) 0 4) = none
      rw [mget?_mdel, if_pos rfl]

end Sys2Proof.Machine
end

section
/-! Fabric ports and board links: coming up and going down, modules, neighbours, and the board link protocol (R293 to R297, R323, R412, R414). -/

namespace Sys2Proof.Machine

section

variable {t : Tck} {n : Node} {p b cls k : Nat}

theorem rdB_of_one {f : Fld} (h : rd n f = 1) : rdB n f = true := by rw [rdB, h]; rfl
theorem rdB_of_zero {f : Fld} (h : rd n f = 0) : rdB n f = false := by rw [rdB, h]; rfl

theorem phaseFrom_le {j : Nat} (hj : j ≤ rd n Rg.nidBootPhase) (hE : rd n Rg.nidBootPhase ≠ 0xE) : phaseFrom n j = true := by simp [phaseFrom, hj, hE]

theorem no_recal {j : Nat} (h : ∀ r ∈ n.svc.recal, r.unit ≠ j) : n.svc.recal.any (·.unit == j) = false := by
  rw [List.any_eq_false]
  exact fun r hr he => h r hr (beq_iff_eq.mp he)

/-! What noting a part as trained changes. -/

theorem mem_noteTrained : (cls, k) ∈ (noteTrained n cls k).brd.trained := by
  unfold noteTrained
  split
  · exact List.contains_iff_mem.mp ‹_›
  · exact List.mem_append_right _ (List.mem_singleton_self _)

@[simp] theorem noteTrained_bank (n : Node) (cls k : Nat) : (noteTrained n cls k).bank = n.bank := by unfold noteTrained; split <;> rfl
@[simp] theorem noteTrained_out (n : Node) (cls k : Nat) : (noteTrained n cls k).out = n.out := by unfold noteTrained; split <;> rfl
@[simp] theorem noteTrained_qst (n : Node) (cls k : Nat) : (noteTrained n cls k).qst = n.qst := by unfold noteTrained; split <;> rfl

/-! ## Fabric ports -/

/-- A port may start its link (R294, R296). -/
structure MayStart (n : Node) (p : Nat) : Prop where
  phase : 3 ≤ rd n Rg.nidBootPhase
  sound : rd n Rg.nidBootPhase ≠ 0xE
  en : rd n (Rg.qstPortCfgEn p) = 1
  medium : rd n (Rg.qstPortCfgMedia p) ≠ 3
  present : p ∉ n.qst.absent
  shed : rd n (Rg.qstPortStatusShed p) = 0

theorem MayStart.portMayStart (h : MayStart n p) : portMayStart n p = true := by
  simp [Machine.portMayStart, phaseFrom_le h.phase h.sound, rdB_of_one h.en, rdB_of_zero h.shed, h.medium, h.present]

/-- The node whose port has started its link (R296, R297). -/
def portStarted (n : Node) (p : Nat) : Node :=
  { noteTrained (wr (wr n (Rg.qstPortStatusUp p) 1) (Rg.qstPortStatusLowpwr p) 0) 4 p with
    qst := { (noteTrained (wr (wr n (Rg.qstPortStatusUp p) 1) (Rg.qstPortStatusLowpwr p) 0) 4 p).qst with pfx := mset (noteTrained (wr (wr n (Rg.qstPortStatusUp p) 1) (Rg.qstPortStatusLowpwr p) 0) 4 p).qst.pfx p (prefixOf n) } }

theorem portUp_starts (h : MayStart n p) (hup : rd n (Rg.qstPortStatusUp p) = 0) (hr : ∀ r ∈ n.svc.recal, r.unit ≠ p) : portUp p n = portStarted n p := by
  have hgo : ¬ (!portMayStart n p || rdB n (Rg.qstPortStatusUp p) || n.svc.recal.any (·.unit == p)) = true := by simp [h.portMayStart, rdB_of_zero hup, no_recal hr]
  rw [portUp, if_neg hgo]
  rfl

theorem rd_portStarted (f : Fld) : rd (portStarted n p) f = rd (wr (wr n (Rg.qstPortStatusUp p) 1) (Rg.qstPortStatusLowpwr p) 0) f :=
  rd_of_bank _ (noteTrained_bank (wr (wr n (Rg.qstPortStatusUp p) 1) (Rg.qstPortStatusLowpwr p) 0) 4 p)

theorem rd_portStarted_up : rd (portStarted n p) (Rg.qstPortStatusUp p) = 1 := by
  rw [rd_portStarted, rd_wr_field _ (Rg.qstPortStatusLowpwr p) (Rg.qstPortStatusUp p) _ rfl (by simp only; omega) (by simp only; omega)]
  exact rd_wr_self _ _ _ (by simp only; omega)

theorem rd_portStarted_lowpwr : rd (portStarted n p) (Rg.qstPortStatusLowpwr p) = 0 := by
  rw [rd_portStarted]
  exact rd_wr_self _ _ _ (by simp only; omega)

/-- The node whose port has gone down (R296). -/
def portFallen (t : Tck) (n : Node) (p : Nat) : Node := raise t (wr n (Rg.qstPortStatusUp p) 0) evPortDown (leBytes 1 p)

theorem portOff_up (h : rd n (Rg.qstPortStatusUp p) = 1) : portOff t n p = portFallen t n p := by rw [portOff, rdB_of_one h, if_pos rfl, portFallen]

theorem rd_portFallen_up : rd (portFallen t n p) (Rg.qstPortStatusUp p) = 0 := (rd_of_bank _ (raise_bank _ _ _ _)).trans (rd_wr_self _ _ _ (by simp only; omega))
theorem codes_portFallen : (portFallen t n p).svc.arrivals.map (·.code) = n.svc.arrivals.map (·.code) ++ [evPortDown] := codes_raise _ _ _ _

/-- The node that has recorded a module's flags and taken its port down (R294). -/
def moduleFlagged (t : Tck) (n : Node) (p : Nat) (f : BitVec 16) : Node := portFallen t (raise t n evPortModule (leBytes 1 p ++ leBytes 2 f.toNat)) p

theorem codes_moduleFlagged (f : BitVec 16) : (moduleFlagged t n p f).svc.arrivals.map (·.code) = n.svc.arrivals.map (·.code) ++ [evPortModule, evPortDown] := by
  rw [moduleFlagged, codes_portFallen, codes_raise, List.append_assoc]
  rfl

theorem moduleInterrupt_flag (f : BitVec 16) (gone : Bool) (hm : rd n (Rg.qstPortCfgMedia p) = 2) (ha : p ∉ n.qst.absent) (hup : rd n (Rg.qstPortStatusUp p) = 1) : moduleInterrupt p (some f) gone t n =
    if gone then { moduleFlagged t n p f with qst := { n.qst with absent := p :: n.qst.absent } } else moduleFlagged t n p f := by
  have hgo : ¬ (rd n (Rg.qstPortCfgMedia p) != 2 || n.qst.absent.contains p) = true := by simp [hm, ha]
  have hup' : rd (raise t n evPortModule (leBytes 1 p ++ leBytes 2 f.toNat)) (Rg.qstPortStatusUp p) = 1 := (rd_of_bank _ (raise_bank _ _ _ _)).trans hup
  rw [moduleInterrupt, if_neg hgo]
  simp only [portOff_up hup']
  rfl

theorem moduleInterrupt_none (gone : Bool) : moduleInterrupt p none gone t n = n := by
  rw [moduleInterrupt]
  exact ite_self n

/-! Modules put in again. -/

theorem modulePower_qst (n : Node) (p : Nat) (low : Bool) : (modulePower n p low).qst = n.qst := by unfold modulePower; split <;> rfl

theorem rd_modulePower_media (low : Bool) : rd (modulePower n p low) (Rg.qstPortCfgMedia p) = rd n (Rg.qstPortCfgMedia p) := by
  unfold modulePower
  split
  · exact rd_wr_off _ _ _ _ (by simp only; omega)
  · rfl

theorem takeModule_good (copper : Bool) : rd (takeModule t n p copper true) (Rg.qstPortCfgMedia p) = (if copper then 0 else 2) ∧ p ∉ (takeModule t n p copper true).qst.absent := by
  refine ⟨(rd_wr_self _ _ _ (by simp only; omega)).trans (by cases copper <;> rfl), ?_⟩
  simp [takeModule]

theorem moduleInsertion_good (copper : Bool) (hp : phaseFrom n 3 = true) (ha : p ∈ n.qst.absent) :
    rd (moduleInsertion p copper true t n) (Rg.qstPortCfgMedia p) = (if copper then 0 else 2) ∧ p ∉ (moduleInsertion p copper true t n).qst.absent := by
  have hgo : (phaseFrom n 3 && n.qst.absent.contains p) = true := by simp [hp, ha]
  rw [moduleInsertion, if_pos hgo]
  dsimp only
  split
  · rw [rd_modulePower_media, modulePower_qst]
    exact takeModule_good copper
  · exact takeModule_good copper

theorem moduleInsertion_bad (copper : Bool) (hp : phaseFrom n 3 = true) (ha : p ∈ n.qst.absent) : moduleInsertion p copper false t n = takeModule t n p copper false := by
  have hgo : (phaseFrom n 3 && n.qst.absent.contains p) = true := by simp [hp, ha]
  rw [moduleInsertion, if_pos hgo]
  simp only [Bool.false_and, Bool.false_eq_true, if_false]

theorem takeModule_bad (copper : Bool) : p ∈ (takeModule t n p copper false).qst.absent ∧ (takeModule t n p copper false).svc.arrivals.map (·.code) = n.svc.arrivals.map (·.code) ++ [evIdReject] :=
  ⟨List.mem_cons_self, codes_raise _ _ _ _⟩

/-! Neighbours and other frames. -/

theorem ownAddr_iff {a : Nat} : ownAddr n p a = true ↔ a = nodeAddr n p ∨ a = linkLocal (eui64 (Config.portMac p)) := by
  rw [ownAddr, Bool.or_eq_true, beq_iff_eq, beq_iff_eq]

section

variable (hup : rd n (Rg.qstPortStatusUp p) = 1)

include hup

theorem neighborSol_up (a : Nat) : neighborSol p a n = if ownAddr n p a then emit n (.neighborAdv p a) else discard n p := by
  rw [neighborSol, rdB_of_one hup, if_neg (by decide)]

theorem echoRequest_up (a src : Nat) (d : Bytes) : echoRequest p a src d n = if ownAddr n p a then emit n (.echoReply p src d) else discard n p := by
  rw [echoRequest, rdB_of_one hup, if_neg (by decide)]

theorem neighborAdv_router {a mac : Nat} (ha : a = linkLocal (rd n (Rg.qstPortGwLoIid p) + rd n (Rg.qstPortGwHiIid p) * 2 ^ 32)) : neighborAdv p a mac n = { n with qst := { n.qst with mac := mset n.qst.mac p mac } } := by
  rw [neighborAdv, rdB_of_one hup, if_neg (by decide), if_pos ha]

theorem nonQst_up (f : BadFrame) (hf : f ≠ .tooBig) : nonQst p f n = discard n p := by
  simp only [nonQst, rdB_of_one hup]
  exact if_neg (by decide)

theorem nonQst_tooBig : nonQst p .tooBig n = { n with qst := { n.qst with tooBig := mset n.qst.tooBig p (mgetD n.qst.tooBig p 0 + 1) } } := by
  rw [nonQst, rdB_of_one hup, if_neg (by decide)]

end

/-! ## Board links -/

/-- A board link at rest (R323). -/
def idleLink : BLink := ⟨0, 0, [], [], 0, 0, false, false⟩

@[simp] theorem blinkOf_setBlink_self (n : Node) (b : Nat) (x : BLink) : blinkOf (setBlink n b x) b = x := mgetD_mset_self _ _ _ _

theorem blinkOf_of_qst {m : Node} (h : m.qst = n.qst) (b : Nat) : blinkOf m b = blinkOf n b := by rw [blinkOf, h, blinkOf]

/-- The node whose board link has gone down (R323, R412). -/
def linkFallen (t : Tck) (n : Node) (b : Nat) : Node := raise t (noteUntrained (setBlink (wr n (Rg.qstBlStatusUp b) 0) b idleLink) 3 b) evBlDown (leBytes 1 b)

theorem blOff_up (h : rd n (Rg.qstBlStatusUp b) = 1) : blOff t n b = linkFallen t n b := by
  rw [blOff, rdB_of_one h, if_pos rfl]
  rfl

theorem rd_linkFallen_up : rd (linkFallen t n b) (Rg.qstBlStatusUp b) = 0 := (rd_of_bank _ (raise_bank _ _ _ _)).trans (rd_wr_self n (Rg.qstBlStatusUp b) 0 (by simp only; omega))
theorem codes_linkFallen : (linkFallen t n b).svc.arrivals.map (·.code) = n.svc.arrivals.map (·.code) ++ [evBlDown] := codes_raise _ _ _ _
theorem buf_linkFallen : (blinkOf (linkFallen t n b) b).buf = [] := by
  rw [linkFallen, blinkOf_of_qst (raise_qst _ _ _ _)]
  exact congrArg (·.buf) (blinkOf_setBlink_self (wr n (Rg.qstBlStatusUp b) 0) b idleLink)
theorem trained_linkFallen : (3, b) ∉ (linkFallen t n b).brd.trained := by simp [linkFallen, noteUntrained]

/-! Training. -/

/-- The node whose board link has been accepted (R412). -/
def linkAccepted (n : Node) (b node : Nat) : Node := noteTrained (setBlink (wr (wr n (Rg.qstBlStatusPeer b) node) (Rg.qstBlStatusUp b) 1) b idleLink) 3 b

theorem rd_linkAccepted (node : Nat) (f : Fld) : rd (linkAccepted n b node) f = rd (wr (wr n (Rg.qstBlStatusPeer b) node) (Rg.qstBlStatusUp b) 1) f :=
  rd_of_bank _ (noteTrained_bank (setBlink (wr (wr n (Rg.qstBlStatusPeer b) node) (Rg.qstBlStatusUp b) 1) b idleLink) 3 b)

theorem rd_linkAccepted_up (node : Nat) : rd (linkAccepted n b node) (Rg.qstBlStatusUp b) = 1 := (rd_linkAccepted node _).trans (rd_wr_self _ _ _ (by simp only; omega))

theorem rd_linkAccepted_peer (node : Nat) : rd (linkAccepted n b node) (Rg.qstBlStatusPeer b) = node % 2 ^ 13 := by
  rw [rd_linkAccepted, rd_wr_field _ (Rg.qstBlStatusUp b) (Rg.qstBlStatusPeer b) _ rfl (by simp only; omega) (by simp only; omega)]
  exact rd_wr_self _ _ _ (by simp only; omega)

/-- A link has spent its one retraining once start-up is past training (R412). -/
def retrainSpent (n : Node) (b : Nat) : Node := if phaseFrom n 4 then setBlink n b { blinkOf n b with retrained := true } else n

theorem retrainSpent_frame {β : Type} (v : Node → β) (h : ∀ b x, v (setBlink n b x) = v n) : v (retrainSpent n b) = v n := by
  unfold retrainSpent
  split
  · exact h _ _
  · rfl

theorem boardLinkTraining_ends {node domain : Nat} {tq : Bool} (hup : rd n (Rg.qstBlStatusUp b) = 0) (hp : phaseFrom n 3 = true) (hre : (blinkOf n b).retrained = false) (hr : ∀ r ∈ n.svc.recal, r.unit ≠ 8 + b) :
    boardLinkTraining b (some (node, domain, tq)) t n =
      if tq && domain == rd n Rg.nidNodeDomain then linkAccepted n b node else raise t (retrainSpent n b) evBlPeerReject (leBytes 1 b) := by
  have hgo : ¬ (rdB n (Rg.qstBlStatusUp b) || !phaseFrom n 3 || (blinkOf n b).retrained || n.svc.recal.any (·.unit == 8 + b)) = true := by simp [rdB_of_zero hup, hp, hre, no_recal hr]
  simp only [boardLinkTraining]
  rw [if_neg hgo]
  rfl

/-! Frames and replays. -/

/-- The board link with the credits of a frame (R323). -/
def linkCredited (n : Node) (b vc k : Nat) : BLink := addCredits (blinkOf n b) (vc % 4) k

/-- The node that has acknowledged a board link's frame and returned its credits (R323). -/
def frameTaken (n : Node) (b vc k lseq : Nat) (g : Seg) : Node :=
  emit (emit (setBlink (setBlink n b (linkCredited n b vc k)) b { linkCredited n b vc k with rx := ((blinkOf n b).rx + 1) % 4096, waiting := false }) (.qblAck b lseq)) (.qblCredit b (vc % 4) (cdiv (segLen g) 256))

theorem blinkOf_frameTaken {vc c lseq : Nat} {g : Seg} : blinkOf (frameTaken n b vc c lseq g) b = { linkCredited n b vc c with rx := ((blinkOf n b).rx + 1) % 4096, waiting := false } :=
  blinkOf_setBlink_self (setBlink n b (linkCredited n b vc c)) b _

section

variable {vc lseq c : Nat} {ok : Bool} (hup : rd n (Rg.qstBlStatusUp b) = 1)

include hup

theorem qblFrame_next {g : Seg} (hl : lseq = (blinkOf n b).rx) : qblFrame b vc lseq c (.qst g) ok t n = arrive t (frameTaken n b vc c lseq g) (.bl (Fin.ofNat 6 b)) g ok := by
  have hseq : ¬ (lseq != (addCredits (blinkOf n b) (vc % 4) c).rx) = true := by simp [hl, addCredits]
  simp only [qblFrame, rdB_of_one hup, Bool.not_true, Bool.false_eq_true, if_false]
  rw [if_neg hseq]
  rfl

theorem qblFrame_credits {body : QblBody} (hb : body = .credit ∨ ∃ g, body = .qst g ∧ lseq ≠ (blinkOf n b).rx) : qblFrame b vc lseq c body ok t n = setBlink n b (linkCredited n b vc c) := by
  rcases hb with rfl | ⟨g, rfl, hl⟩
  · simp only [qblFrame, rdB_of_one hup, Bool.not_true, Bool.false_eq_true, if_false]
    rfl
  · have hseq : (lseq != (addCredits (blinkOf n b) (vc % 4) c).rx) = true := by simp [hl, addCredits]
    simp only [qblFrame, rdB_of_one hup, Bool.not_true, Bool.false_eq_true, if_false]
    rw [if_pos hseq]
    rfl

theorem qblFrame_ack (k : Nat) : qblFrame b vc lseq c (.ack k) ok t n = setBlink n b { linkCredited n b vc c with buf := (blinkOf n b).buf.dropWhile fun e => decide ((k + 4096 - e.1) % 4096 < 2048) } := by
  simp only [qblFrame, rdB_of_one hup, Bool.not_true, Bool.false_eq_true, if_false]
  rfl

end

/-- The replays of a link in this tick, with one more (R323). -/
def replaysNow (t : Tck) (x : BLink) : Nat := if x.replTick = t.tick then x.replCount + 1 else 1

/-- The node that has counted a replay. -/
def replayCounted (t : Tck) (n : Node) (b : Nat) : Node := bump (setBlink n b { blinkOf n b with replTick := t.tick, replCount := replaysNow t (blinkOf n b) }) (Rg.qstBlStatusReplays b) 1

theorem countReplay_eq : countReplay t n b = if 8 < replaysNow t (blinkOf n b) then blOff t (replayCounted t n b) b else replayCounted t n b := rfl

theorem blinkOf_replayCounted : blinkOf (replayCounted t n b) b = { blinkOf n b with replTick := t.tick, replCount := replaysNow t (blinkOf n b) } := blinkOf_setBlink_self _ _ _
theorem rd_replayCounted : rd (replayCounted t n b) (Rg.qstBlStatusReplays b) = satTo 16 (rd n (Rg.qstBlStatusReplays b) + 1) := rd_bump_self _ _ _ (by simp only; omega)
theorem rd_replayCounted_up : rd (replayCounted t n b) (Rg.qstBlStatusUp b) = rd n (Rg.qstBlStatusUp b) := rd_wr_field _ _ _ _ rfl (by simp only; omega) (by simp only; omega)

section

variable (hup : rd n (Rg.qstBlStatusUp b) = 1)

include hup

theorem qblReplay_counted (asked : Option Nat) (h : replaysNow t (blinkOf n b) ≤ 8) : qblReplay b asked t n =
    match asked with
    | none => emit (setBlink (replayCounted t n b) b { blinkOf (replayCounted t n b) b with waiting := true }) (.qblReplay b (blinkOf n b).rx)
    | some k => ((blinkOf n b).buf.dropWhile fun e => decide (e.1 ≠ k % 4096)).foldl (fun m e => emit m (.qblFrame b e.2.1 e.1 e.2.2)) (replayCounted t n b) := by
  have hcount : countReplay t n b = replayCounted t n b := by rw [countReplay_eq, if_neg (Nat.not_lt.mpr h)]
  have hup' : rdB (replayCounted t n b) (Rg.qstBlStatusUp b) = true := rdB_of_one (rd_replayCounted_up.trans hup)
  simp only [qblReplay, rdB_of_one hup, hcount, hup', Bool.not_true, Bool.false_eq_true, if_false]
  cases asked with
  | none => simp only [blinkOf_replayCounted]
  | some k => simp only [blinkOf_replayCounted]

theorem qblReplay_ninth (asked : Option Nat) (h : 8 < replaysNow t (blinkOf n b)) : qblReplay b asked t n = linkFallen t (replayCounted t n b) b := by
  have hcount : countReplay t n b = linkFallen t (replayCounted t n b) b := by rw [countReplay_eq, if_pos h, blOff_up (rd_replayCounted_up.trans hup)]
  have hdown : rdB (linkFallen t (replayCounted t n b) b) (Rg.qstBlStatusUp b) = false := rdB_of_zero rd_linkFallen_up
  simp only [qblReplay, rdB_of_one hup, hcount, hdown, Bool.not_true, Bool.not_false, Bool.false_eq_true, if_false, if_true]

end

end

/-! ## The obligation -/

section

variable {s : State} {p : Fin 8} {b : Fin 6}

theorem next_withNode {N M : Node} (h : N = M) : (.next (s.withNode N) : Host.Outcome State Fault Refusal) = .next (s.withNode M) := by rw [h]

theorem exec_portUp_starts (h : MayStart s.node p) (hup : rd s.node (Rg.qstPortStatusUp p) = 0) (hr : ∀ r ∈ s.node.svc.recal, r.unit ≠ p.val) :
    ∃ N : Node, exec (.portUp p) s = .next (s.withNode N) ∧ rd N (Rg.qstPortStatusUp p) = 1 ∧ rd N (Rg.qstPortStatusLowpwr p) = 0 ∧ (4, p.val) ∈ N.brd.trained
      ∧ mget? N.qst.pfx p.val = some (rd s.node Rg.qstPfxLoPfx + rd s.node Rg.qstPfxHiPfx * 2 ^ 32) ∧ N.out = s.node.out :=
  ⟨portStarted s.node p, next_withNode (portUp_starts h hup hr), rd_portStarted_up, rd_portStarted_lowpwr, mem_noteTrained (n := wr _ _ _), mget?_mset_self _ _ _, noteTrained_out (wr _ _ _) 4 p⟩

theorem exec_moduleInterrupt_flag (f : BitVec 16) (gone : Bool) (hup : rd s.node (Rg.qstPortStatusUp p) = 1) (hm : rd s.node (Rg.qstPortCfgMedia p) = 2) (ha : p.val ∉ s.node.qst.absent) :
    ∃ N : Node, exec (.moduleInterrupt p (some f) gone) s = .next (s.withNode N) ∧ rd N (Rg.qstPortStatusUp p) = 0
      ∧ N.svc.arrivals.map (·.code) = s.node.svc.arrivals.map (·.code) ++ [evPortModule, evPortDown] ∧ N.qst.absent = if gone then p.val :: s.node.qst.absent else s.node.qst.absent := by
  refine ⟨_, onNode_eq (moduleInterrupt_flag f gone hm ha hup), ?_⟩
  cases gone <;> exact ⟨rd_portFallen_up (t := s.tck), codes_moduleFlagged f, rfl⟩

theorem exec_neighborSolicitation_up (hup : rd s.node (Rg.qstPortStatusUp p) = 1) (a : BitVec 128) :
    exec (.neighborSolicitation p a) s = .next (s.withNode (if ownAddr s.node p a.toNat then emit s.node (.neighborAdv p a.toNat) else bump s.node (Rg.qstPortRxDropOther p) 1)) :=
  next_withNode (neighborSol_up hup _)

theorem exec_echoRequest_up (hup : rd s.node (Rg.qstPortStatusUp p) = 1) (a src : BitVec 128) (d : Bytes) :
    exec (.echoRequest p a src d) s = .next (s.withNode (if ownAddr s.node p a.toNat then emit s.node (.echoReply p src.toNat d) else bump s.node (Rg.qstPortRxDropOther p) 1)) :=
  next_withNode (echoRequest_up hup _ _ _)

variable (hup : rd s.node (Rg.qstBlStatusUp b) = 1)

include hup

theorem exec_qblFrame_next {vc : BitVec 2} {lseq : BitVec 12} {c : BitVec 16} {g : Seg} {ok : Bool} (hl : lseq.toNat = (blinkOf s.node b).rx) :
    ∃ M : Node, exec (.qblFrame b vc lseq c (.qst g) ok) s = .next (s.withNode (arrive s.tck M (.bl b) g ok)) ∧ M.out = s.node.out ++ [.qblAck b lseq.toNat, .qblCredit b vc.toNat (cdiv (segLen g) 256)]
      ∧ (blinkOf M b).rx = ((blinkOf s.node b).rx + 1) % 4096 ∧ (blinkOf M b).waiting = false := by
  have hvc : vc.toNat % 4 = vc.toNat := Nat.mod_eq_of_lt vc.isLt
  refine ⟨frameTaken s.node b vc.toNat c.toNat lseq.toNat g, onNode_eq ((qblFrame_next hup hl).trans (by rw [Fin.ofNat_val_eq_self])), ?_, ?_, ?_⟩
  · simp only [frameTaken, emit_out, List.append_assoc, hvc]
    rfl
  · rw [blinkOf_frameTaken]
  · rw [blinkOf_frameTaken]

theorem exec_qblFrame_credits {vc : BitVec 2} {lseq : BitVec 12} {c : BitVec 16} {body : QblBody} {ok : Bool} (hb : body = .credit ∨ ∃ g, body = .qst g ∧ lseq.toNat ≠ (blinkOf s.node b).rx) :
    ∃ N : Node, exec (.qblFrame b vc lseq c body ok) s = .next (s.withNode N) ∧ N.out = s.node.out
      ∧ mget? (blinkOf N b).credits vc.toNat = some (mgetD (blinkOf s.node b).credits vc.toNat 256 + c.toNat) ∧ (blinkOf N b).rx = (blinkOf s.node b).rx := by
  have hvc : vc.toNat % 4 = vc.toNat := Nat.mod_eq_of_lt vc.isLt
  refine ⟨_, onNode_eq (qblFrame_credits hup hb), rfl, ?_, ?_⟩ <;> rw [blinkOf_setBlink_self, linkCredited, hvc, addCredits]
  exact mget?_mset_self _ _ _

theorem exec_qblReplay_counted (asked : Option Nat) (h : replaysNow s.tck (blinkOf s.node b) ≤ 8) :
    ∃ N : Node, exec (.qblReplay b asked) s = .next (s.withNode N) ∧ rd N (Rg.qstBlStatusReplays b) = satTo 16 (rd s.node (Rg.qstBlStatusReplays b) + 1)
      ∧ rd N (Rg.qstBlStatusUp b) = 1 ∧ N.out = s.node.out ++ (match asked with
        | none => [.qblReplay b (blinkOf s.node b).rx]
        | some k => ((blinkOf s.node b).buf.dropWhile fun e => decide (e.1 ≠ k % 4096)).map fun e => .qblFrame b e.2.1 e.1 e.2.2) := by
  refine ⟨_, onNode_eq (qblReplay_counted hup asked h), ?_⟩
  cases asked with
  | none => exact ⟨rd_replayCounted, rd_replayCounted_up.trans hup, rfl⟩
  | some k =>
    dsimp only
    rw [foldl_emit (fun e : Nat × Nat × Seg => Out.qblFrame b e.2.1 e.1 e.2.2)]
    exact ⟨rd_replayCounted, rd_replayCounted_up.trans hup, rfl⟩

theorem exec_qblReplay_ninth (asked : Option Nat) (h : 8 < replaysNow s.tck (blinkOf s.node b)) :
    ∃ N : Node, exec (.qblReplay b asked) s = .next (s.withNode N) ∧ rd N (Rg.qstBlStatusUp b) = 0
      ∧ N.svc.arrivals.map (·.code) = s.node.svc.arrivals.map (·.code) ++ [evBlDown] ∧ N.out = s.node.out :=
  ⟨_, onNode_eq (qblReplay_ninth hup asked h), rd_linkFallen_up, codes_linkFallen, raise_out _ _ _ _⟩

end

/-- Settles O44: ports and board links each by the equation of their command, the ninth replay in a tick through the count that `qblReplay` keeps. -/
theorem portsAndBoardLinksComeUpAnswerAndGoDown : Obligations.PortsAndBoardLinksComeUpAnswerAndGoDown := by
  unfold Obligations.PortsAndBoardLinksComeUpAnswerAndGoDown
  refine ⟨fun s p h3 hE hen hm ha hsh hup hr => exec_portUp_starts ⟨h3, hE, hen, hm, ha, hsh⟩ hup hr, fun s p hup => ?_, fun s p copper h3 hE ha => ?_, fun s b vc lseq c ok hup => ?_, fun s b node domain tq hup h3 hE hre hr => ?_⟩
  · refine ⟨⟨_, onNode_eq (portOff_up hup), rd_portFallen_up, codes_portFallen, rfl⟩, fun f gone hm ha => exec_moduleInterrupt_flag f gone hup hm ha, fun gone => onNode_eq (moduleInterrupt_none gone),
      fun a => ⟨fun h => ?_, fun h1 h2 => ?_⟩, fun a src d => ⟨fun h => ?_, fun h1 h2 => ?_⟩, fun a mac h => next_withNode (neighborAdv_router hup h), ⟨_, next_withNode (nonQst_tooBig hup), mget?_mset_self _ _ _, rfl⟩,
      fun f hf => next_withNode (nonQst_up hup f hf)⟩
    · rw [exec_neighborSolicitation_up hup, if_pos (ownAddr_iff.mpr h)]
    · rw [exec_neighborSolicitation_up hup, if_neg (mt ownAddr_iff.mp (not_or.mpr ⟨h1, h2⟩))]
    · rw [exec_echoRequest_up hup, if_pos (ownAddr_iff.mpr h)]
    · rw [exec_echoRequest_up hup, if_neg (mt ownAddr_iff.mp (not_or.mpr ⟨h1, h2⟩))]
  · have hp := phaseFrom_le h3 hE
    exact ⟨⟨_, rfl, moduleInsertion_good copper hp ha⟩, _, onNode_eq (moduleInsertion_bad copper hp ha), takeModule_bad copper⟩
  · refine ⟨fun g hl => exec_qblFrame_next hup hl, fun body hb => exec_qblFrame_credits hup hb, fun k => ⟨_, onNode_eq (qblFrame_ack hup k), rfl, by rw [blinkOf_setBlink_self]⟩,
      fun asked h => exec_qblReplay_counted hup asked ?_, fun asked ht h8 => exec_qblReplay_ninth hup asked ?_, _, onNode_eq (blOff_up hup), rd_linkFallen_up, codes_linkFallen, buf_linkFallen, trained_linkFallen⟩
    · unfold replaysNow
      split <;> omega
    · rw [replaysNow, if_pos ht]
      omega
  · have htrain := boardLinkTraining_ends (t := s.tck) (node := node) (domain := domain) (tq := tq) hup (phaseFrom_le h3 hE) hre hr
    refine ⟨fun htq hd => ?_, fun h => ?_⟩
    · exact ⟨_, onNode_eq (htrain.trans (if_pos (by simp [htq, hd]))), rd_linkAccepted_up node, rd_linkAccepted_peer node, mem_noteTrained⟩
    · refine ⟨_, onNode_eq (htrain.trans (if_neg ?_)), ?_, ?_⟩
      · rcases h with h | h <;> simp [h]
      · rw [rd_of_bank _ (raise_bank _ _ _ _), rd_of_bank _ (retrainSpent_frame (·.bank) fun _ _ => rfl)]
        exact hup
      · rw [codes_raise, retrainSpent_frame (·.svc) fun _ _ => rfl]

end Sys2Proof.Machine
end

section
/-! Tenants: opening, sealing and removal, with what completing every command and destroying every key leave (R363 to R366, R371, R384 to R387). -/

namespace Sys2Proof.Machine

/-! ## Completing commands -/

section

variable {t : Tck} {n : Node} {h st : Nat} {r : Bytes}

@[simp] theorem signalCq_cmds (n : Node) (k : Nat) (q : Cq) : (signalCq n k q).fe.cmds = n.fe.cmds := by
  unfold signalCq
  split <;> rfl

@[simp] theorem postEntry_cmds (t : Tck) (n : Node) (k : Nat) (q : Cq) (e : Bytes) : (postEntry t n k q e).fe.cmds = n.fe.cmds := by
  have hsent : (if q.remote then (match q.owner with
      | .qp p => emit n (.qstWrite p.toNat q.mrKey (q.base + q.posted % 2 ^ q.log2 * 32) e)
      | _ => n) else hostWrite n (reqSpace q.owner) (q.base + q.posted % 2 ^ q.log2 * 32) e).fe.cmds = n.fe.cmds := by
    split
    · split <;> rfl
    · rfl
  unfold postEntry
  dsimp only
  split
  · exact (signalCq_cmds _ _ _).trans hsent
  · exact hsent

/-- A completion takes the commands of its handle out, and no other (R57). -/
theorem complete_cmds : (complete t n h st r).fe.cmds = n.fe.cmds.filter (·.handle != h) := by
  unfold complete
  split
  · next hnone =>
    refine (List.filter_eq_self.mpr fun c hc => ?_).symm
    have := List.find?_eq_none.mp hnone c hc
    simpa using this
  · next c hc =>
    have hh : c.handle = h := findCmd_handle hc
    split
    · rw [retireCmd, hh]
    · next q hq =>
      rw [retireCmd, hh]
      change (writeTrace _ _ _).fe.cmds.filter _ = _
      rw [writeTrace_fe, postEntry_cmds]

/-- A completion changes no register but the count of trace records (R437). -/
theorem rd_complete {f : Fld} (hf : f.off ≠ Rg.pmcTraceHeadCount.off) : rd (complete t n h st r) f = rd n f := by
  unfold complete
  split
  · rfl
  · split
    · rfl
    · rw [rd_of_bank _ (retireCmd_bank _ _), writeTrace]
      split
      · rw [rd_wr_off _ _ _ _ hf]
        exact rd_of_bank _ (postEntry_bank _ _ _ _ _)
      · exact rd_of_bank _ (postEntry_bank _ _ _ _ _)

/-- A list of commands completed takes the commands of their handles out. -/
theorem foldl_complete_cmds (l : List Cmd) (n : Node) : (l.foldl (fun m c => complete t m c.handle st r) n).fe.cmds = n.fe.cmds.filter fun d => !l.any (·.handle == d.handle) := by
  induction l generalizing n with
  | nil => simp
  | cons c l ih =>
    rw [List.foldl_cons, ih, complete_cmds, List.filter_filter]
    refine List.filter_congr fun d _ => ?_
    rw [List.any_cons, Bool.not_or, Bool.and_comm, bne, Bool.beq_comm]

theorem endAll_frame {β : Type} (g : Node → β) (hc : ∀ m k s b, g (complete t m k s b) = g m) (keep : Option Nat) : g (endAll t n keep st) = g (quiet n keep) :=
  foldl_keeps g (fun _ _ => hc _ _ _ _) _ _

theorem endAll_cmds (keep : Option Nat) : (endAll t n keep st).fe.cmds = n.fe.cmds.filter fun d => !(n.fe.cmds.filter fun c => keep != some c.handle).any (·.handle == d.handle) := foldl_complete_cmds _ _

/-- Of the commands only those of the handle kept are left (R385). -/
theorem endAll_keeps_only {c : Cmd} (hc : c ∈ (endAll t n (some h) st).fe.cmds) : c.handle = h := by
  rw [endAll_cmds, List.mem_filter, Bool.not_eq_true', List.any_eq_false] at hc
  obtain ⟨hmem, hno⟩ := hc
  by_contra hne
  exact hno c (List.mem_filter.mpr ⟨hmem, by simpa using Ne.symm hne⟩) (beq_self_eq_true _)

theorem endAll_keeps_all {c : Cmd} (hc : c ∈ n.fe.cmds) (hh : c.handle = h) : c ∈ (endAll t n (some h) st).fe.cmds := by
  rw [endAll_cmds, List.mem_filter, Bool.not_eq_true', List.any_eq_false]
  refine ⟨hc, fun d hd he => ?_⟩
  have hne : some h ≠ some d.handle := bne_iff_ne.mp (List.mem_filter.mp hd).2
  exact hne (by rw [beq_iff_eq.mp he, hh])

end

/-! ## Key slots -/

section

variable {n : Node} {k j st : Nat} {key : Bytes}

theorem rd_putSlot_self : rd (putSlot n k st key) (Rg.secSlotState k) = st % 4 := by
  rw [putSlot, rd_wr_field _ (Rg.secSlotExhausted k) (Rg.secSlotState k) _ rfl (by simp only; omega) (by simp only; omega), showSlot]
  exact rd_wr_self _ _ _ (by simp only; omega)

theorem rd_putSlot_off {f : Fld} (hf : f.off ≠ (Rg.secSlotState k).off) : rd (putSlot n k st key) f = rd n f := by
  rw [putSlot, rd_wr_off _ (Rg.secSlotExhausted k) _ _ hf, showSlot, rd_wr_off _ (Rg.secSlotState k) _ _ hf]
  rfl

theorem putSlot_slots : (putSlot n k st key).sec.slots = mset n.sec.slots k ⟨key, 0, none, none⟩ := rfl

/-- The node whose first slots hold the transport keys of a bundle (R365). -/
def slotsPut (n : Node) (keys : Bytes) (c : Nat) : Node := (List.range c).foldl (fun m i => putSlot m (i + 1) 2 (slice keys (64 + 32 * i) 32)) n

theorem slotsPut_succ (n : Node) (keys : Bytes) (c : Nat) : slotsPut n keys (c + 1) = putSlot (slotsPut n keys c) (c + 1) 2 (slice keys (64 + 32 * c) 32) := by
  rw [slotsPut, List.range_succ, List.foldl_append]
  rfl

theorem slotsPut_slot (n : Node) (keys : Bytes) {c k : Nat} (h1 : 1 ≤ k) (hk : k ≤ c) :
    mget? (slotsPut n keys c).sec.slots k = some ⟨slice keys (64 + 32 * (k - 1)) 32, 0, none, none⟩ ∧ rd (slotsPut n keys c) (Rg.secSlotState k) = 2 := by
  induction c with
  | zero => omega
  | succ c ih =>
    rw [slotsPut_succ, putSlot_slots]
    by_cases he : k = c + 1
    · subst he
      exact ⟨mget?_mset_self _ _ _, rd_putSlot_self⟩
    · obtain ⟨hslot, hrd⟩ := ih (by omega)
      rw [mget?_mset_ne _ _ _ _ he, rd_putSlot_off (by simp only; omega)]
      exact ⟨hslot, hrd⟩

theorem slotsPut_frame {β : Type} (g : Node → β) (hp : ∀ n k st key, g (putSlot n k st key) = g n) (keys : Bytes) (c : Nat) : g (slotsPut n keys c) = g n :=
  foldl_keeps g (fun _ _ => hp _ _ _ _) _ _

theorem emptySlot_slots : (emptySlot n k).sec.slots = n.sec.slots.filter (·.1 != k) := mdel_eq_filter _ _

theorem foldl_emptySlot_slots (l : List Nat) (n : Node) : (l.foldl emptySlot n).sec.slots = n.sec.slots.filter fun e => !l.contains e.1 := by
  induction l generalizing n with
  | nil => simp
  | cons k l ih =>
    rw [List.foldl_cons, ih, emptySlot_slots, List.filter_filter]
    refine List.filter_congr fun e _ => ?_
    rw [List.contains_cons, Bool.not_or, Bool.and_comm, bne]

/-- No key is left (R371, R385). -/
theorem destroyKeys_slots (n : Node) : (destroyKeys n).sec.slots = [] := by
  change ((mkeys n.sec.slots).foldl emptySlot n).sec.slots = []
  rw [foldl_emptySlot_slots]
  refine List.filter_eq_nil_iff.mpr fun e he => ?_
  rw [Bool.not_eq_true', Bool.not_eq_false, List.contains_iff_mem]
  exact List.mem_map_of_mem he

/-- What emptying a slot and changing keys, sets' bindings leave alone, destroying every key leaves alone. -/
theorem destroyKeys_frame {β : Type} (g : Node → β) (he : ∀ n k, g (emptySlot n k) = g n) (hs : ∀ (n : Node) x, g { n with sec := x } = g n) (hw : ∀ (n : Node) w, g { n with wts := w } = g n) (n : Node) : g (destroyKeys n) = g n :=
  (hw _ _).trans ((hs _ _).trans (foldl_keeps g he _ _))

theorem destroyKeys_fe (n : Node) : (destroyKeys n).fe = n.fe := destroyKeys_frame (·.fe) (fun _ _ => rfl) (fun _ _ => rfl) (fun _ _ => rfl) n
theorem destroyKeys_svc (n : Node) : (destroyKeys n).svc = n.svc := destroyKeys_frame (·.svc) (fun _ _ => rfl) (fun _ _ => rfl) (fun _ _ => rfl) n
theorem destroyKeys_t1 (n : Node) : (destroyKeys n).t1 = n.t1 := destroyKeys_frame (·.t1) (fun _ _ => rfl) (fun _ _ => rfl) (fun _ _ => rfl) n

theorem foldl_showSlot (l : List Nat) (n : Node) : rd (l.foldl (fun m k => showSlot m k st) n) (Rg.secSlotState j) = if j ∈ l then st % 4 else rd n (Rg.secSlotState j) := by
  induction l generalizing n with
  | nil => simp
  | cons k l ih =>
    rw [List.foldl_cons, ih]
    by_cases hj : j ∈ l
    · rw [if_pos hj, if_pos (List.mem_cons_of_mem _ hj)]
    · rw [if_neg hj]
      by_cases hk : j = k
      · subst hk
        rw [if_pos List.mem_cons_self]
        exact rd_wr_self _ _ _ (by simp only; omega)
      · rw [if_neg (by simp [hj, hk])]
        exact rd_wr_off _ _ _ _ (by simp only; omega)

/-! What the status register shows. -/

theorem setEmpty_tenantState : tenantState (setEmpty n) = tsEmpty := by
  rw [tenantState, setEmpty, rd_wr_field _ Rg.secStatusTenant Rg.secStatusState _ rfl (by decide) (by decide), rd_wr_field _ Rg.secStatusSeal Rg.secStatusState _ rfl (by decide) (by decide)]
  exact rd_wr_self _ _ _ (by decide)

theorem rd_setEmpty_tenant : rd (setEmpty n) Rg.secStatusTenant = 0 := rd_wr_self _ _ _ (by decide)

end

/-! ## Opening and sealing -/

section

variable {t : Tck} {n : Node} {c : Cmd} {b keys : Bytes} {h : Nat}

/-- The fields of a TENANT_OPEN are in order (R364). -/
structure OpenInOrder (c : Cmd) : Prop where
  tenant : c.f 24 2 ≠ 0
  low : rsv c 26 31 = []
  high : rsv c 44 63 = []
  len : c.f 40 4 ≤ 408

/-- The keys of a bundle that keeps the layout and unwraps. -/
def bundleGood (b : Bytes) (tenant : Nat) : Option Bytes := if bundleOk b tenant then bundleKeys b else none

theorem tenantOpen_eq (hf : findCmd n h = some c) (ho : c.op = opTenantOpen) (hs : c.stage = .dispatched) (hq : fenceOk n c = true) (hh : headerOffs c = []) (hc : OpenInOrder c) : tenantOpen h t n =
    if tenantState n != tsEmpty then complete t n h stDenied []
    else match bundleGood (hostRead n c.mem (c.f 32 8) (c.f 40 4)) (c.f 24 2) with
      | some keys => installBundle n c (hostRead n c.mem (c.f 32 8) (c.f 40 4)) keys
      | none => complete t (raise t n evTenantOpenFail []) h stDenied [] := by
  have hoffs : offIf (c.f 24 2 == 0) 24 ++ rsv c 26 31 ++ rsv c 44 63 = [] := by
    rw [hc.low, hc.high, offIf_false (by simpa using hc.tenant)]
    rfl
  rw [tenantOpen, withCmd_eq _ hf ho hs hq, checked_ok _ hh hoffs, if_pos hc.len]
  rfl

/-- The node of an installed bundle before its command is marked running. -/
def bundleInstalled (n : Node) (c : Cmd) (b keys : Bytes) : Node :=
  wr (wr (modSec (slotsPut n keys (byteAt b 6)) fun s => { s with storage := some (keys.take 64), authPub := slice b 8 96, opening := some (c.handle, c.accTick) }) Rg.secStatusState tsOpening) Rg.secStatusTenant (c.f 24 2)

theorem installBundle_eq : installBundle n c b keys = setRunning (bundleInstalled n c b keys) c.handle := rfl

theorem bundleInstalled_tenantState : tenantState (bundleInstalled n c b keys) = tsOpening := by
  rw [tenantState, bundleInstalled, rd_wr_field _ Rg.secStatusTenant Rg.secStatusState _ rfl (by decide) (by decide)]
  exact rd_wr_self _ _ _ (by decide)

theorem rd_bundleInstalled_slot {k : Nat} : rd (bundleInstalled n c b keys) (Rg.secSlotState k) = rd (slotsPut n keys (byteAt b 6)) (Rg.secSlotState k) :=
  (rd_wr_off _ Rg.secStatusTenant _ _ (by simp only; omega)).trans (rd_wr_off _ Rg.secStatusState _ _ (by simp only; omega))

theorem field_two_lt (c : Cmd) (k : Nat) : c.f k 2 < 2 ^ 16 := (field_lt c.entry k 2).trans_eq (by decide)

/-- The node that a seal leaves before the open completes (R366). -/
def sealed (n : Node) : Node :=
  wr (wr (modSec n fun s => { s with opening := none, meas := mset s.meas 7 (sha384 (Config.encodeFields 7 (slValues n))) }) Rg.secStatusState tsSealed) Rg.secStatusSeal 1

theorem sealTenant_mgmt {a : Nat} (hs : tenantState n = tsOpening) (ho : n.sec.opening = some (h, a)) :
    sealTenant .mgmt t n = forwardChanges (complete t (sealed n) h stOk []) (ownProposal (sealed n) [.tenant (nodeId (sealed n)) (rd (sealed n) Rg.secStatusTenant)]) := by
  have hno : ¬ (tenantState n != tsOpening) = true := by simp [hs]
  simp only [sealTenant, ho]
  rw [if_neg hno]
  rfl

theorem sealTenant_other {src : Req} (hs : src ≠ .mgmt) : sealTenant src t n = n := by
  cases src with
  | mgmt => exact absurd rfl hs
  | host _ _ => rfl
  | qp _ => rfl

theorem sealed_tenantState : tenantState (sealed n) = tsSealed := by
  rw [tenantState, sealed, rd_wr_field _ Rg.secStatusSeal Rg.secStatusState _ rfl (by decide) (by decide)]
  exact rd_wr_self _ _ _ (by decide)

theorem rd_sealed_tenant : rd (sealed n) Rg.secStatusTenant = rd n Rg.secStatusTenant := by
  rw [sealed, rd_wr_field _ Rg.secStatusSeal Rg.secStatusTenant _ rfl (by decide) (by decide), rd_wr_field _ Rg.secStatusState Rg.secStatusTenant _ rfl (by decide) (by decide)]
  rfl

theorem openSealTimeout_eq {a : Nat} (ho : n.sec.opening = some (h, a)) : openSealTimeout t n = if a + 65536 ≤ t.tick then complete t (abortOpen n) h stDeadline [] else n := by
  simp only [openSealTimeout, ho]

end

/-! ## Closing -/

section

variable {t : Tck} {n : Node} {c : Cmd} {h a : Nat}

section

variable (hf : findCmd n h = some c) (ho : c.op = opTenantClose) (hs : c.stage = .dispatched) (hq : fenceOk n c = true)

include hf ho hs hq

theorem tenantClose_begun (hc : n.sec.closing = some (h, a)) : tenantClose h t n = setRunning (if c.f 26 1 = 1 then forceClose t n else n) h := by
  rw [tenantClose, withCmd_eq _ hf ho hs hq, hc, Option.map_some, if_pos rfl]

theorem tenantClose_refused (hc : n.sec.closing.map (·.1) ≠ some h) (hh : headerOffs c = []) (hr : rsv c 27 63 = []) (h26 : c.f 26 1 ≤ 1) : tenantClose h t n =
    if c.f 24 2 = rd n Rg.secStatusTenant then complete t n h stDenied [] else complete t n h stBadParam (leBytes 1 24) := by
  have hforce : offIf (decide (1 < c.f 26 1)) 26 = [] := offIf_false (by simpa using h26)
  rw [tenantClose, withCmd_eq _ hf ho hs hq, if_neg hc]
  by_cases he : c.f 24 2 = rd n Rg.secStatusTenant
  · rw [if_pos he]
    refine checked_ok _ hh ?_
    rw [closeOffs, hh, hr, hforce, offIf_false (by simp [he])]
    rfl
  · rw [if_neg he, checked_lowest (o := 24) (rest := []) _ hh ?_ (by simp), findCmd_handle hf]
    · rfl
    · rw [closeOffs, hh, hr, hforce, offIf_true (by simp [he])]
      rfl

end

/-- The node whose records not released are destroyed (R384). -/
def recordsDropped (n : Node) : Node := modSec n fun s => { s with destroyed := unreleased n, store := s.store.filter (·.released) }

/-- With nothing held open a forced close destroys the records not released (R384). -/
theorem forceClose_bare (hx : n.cxd.exts = []) (hm : ∀ x ∈ n.map.map.slices, x.node ≠ nodeId n) : forceClose t n = recordsDropped n := by
  have hnone : n.map.map.slices.any (fun s => s.node == nodeId n) = false := List.any_eq_false.mpr fun x hx he => hm x hx (beq_iff_eq.mp he)
  simp only [forceClose, modSec, hx, List.filter_nil, List.map_nil, List.foldl_nil]
  exact if_neg fun he => Bool.false_ne_true (hnone.symm.trans he)

/-- The node at the fence: every slot RETIRING, every other command ended (R385). -/
def fenceDrawn (t : Tck) (n : Node) (h : Nat) : Node :=
  modSec (endAll t ((mkeys n.sec.slots).foldl (fun m k => showSlot m k 3) n) (some h) stKeyRetired) fun s => { s with fenced := true }

theorem fenceBegin_draws (hc : n.sec.closing = some (h, a)) (hf : n.sec.fenced = false) (ha : a + 1 ≤ t.tick) : fenceBegin t n = fenceDrawn t n h := by
  have hno : ¬ (n.sec.fenced || decide (t.tick < a + 1)) = true := by simp [hf, Nat.lt_of_succ_le ha]
  simp only [fenceBegin, hc]
  rw [if_neg hno]
  rfl

theorem slotsShown_frame {β : Type} (g : Node → β) (hb : ∀ (n : Node) f v, g (wr n f v) = g n) (l : List Nat) (st : Nat) (n : Node) : g (l.foldl (fun m k => showSlot m k st) n) = g n :=
  foldl_keeps g (fun _ _ => hb _ _ _) l n

theorem fenceDrawn_sec : (fenceDrawn t n h).sec = { n.sec with held := [], fenced := true } := by
  have hsec : (endAll t ((mkeys n.sec.slots).foldl (fun m k => showSlot m k 3) n) (some h) stKeyRetired).sec = { n.sec with held := [] } := by
    rw [endAll_frame (·.sec) fun _ _ _ _ => complete_sec _ _ _ _ _, quiet, slotsShown_frame (·.sec) fun _ _ _ => rfl]
  rw [fenceDrawn, modSec, hsec]

theorem fenceDrawn_t1 : (fenceDrawn t n h).t1 = n.t1 :=
  (endAll_frame (·.t1) (fun _ _ _ _ => complete_t1 _ _ _ _ _) _).trans (slotsShown_frame (·.t1) (fun _ _ _ => rfl) _ _ _)

theorem fenceDrawn_only {d : Cmd} (hd : d ∈ (fenceDrawn t n h).fe.cmds) : d.handle = h := endAll_keeps_only hd

theorem fenceDrawn_all {d : Cmd} (hd : d ∈ n.fe.cmds) (hh : d.handle = h) : d ∈ (fenceDrawn t n h).fe.cmds := by
  refine endAll_keeps_all (n := (mkeys n.sec.slots).foldl (fun m k => showSlot m k 3) n) ?_ hh
  rw [slotsShown_frame (·.fe) fun _ _ _ => rfl]
  exact hd

theorem fenceDrawn_slot {k : Nat} (hk : k < 64) (hm : mhas n.sec.slots k = true) : rd (fenceDrawn t n h) (Rg.secSlotState k) = 3 := by
  obtain ⟨v, hv⟩ := Option.isSome_iff_exists.mp hm
  have hmem : k ∈ mkeys n.sec.slots := List.mem_map.mpr ⟨(k, v), mem_of_mget? hv, rfl⟩
  have hrd := endAll_frame (t := t) (n := (mkeys n.sec.slots).foldl (fun m k => showSlot m k 3) n) (st := stKeyRetired) (fun m => rd m (Rg.secSlotState k)) (fun _ _ _ _ => rd_complete (by simp only; omega)) (some h)
  refine hrd.trans ((foldl_showSlot (st := 3) _ n).trans ?_)
  rw [if_pos hmem]

/-- The node whose tenant's keys are destroyed (R385). -/
def keysGone (t : Tck) (n : Node) : Node := raise t (wr (destroyKeys n) Rg.secStatusState tsErasing) evTenantKeysDestroyed []

theorem keyDestruction_done (hc : n.sec.closing = some (h, a)) (hf : n.sec.fenced = true) (hs : tenantState n = tsFencing) (ha : t.at (a + 1) 1 ≤ t.now) : keyDestruction t n = keysGone t n := by
  have hno : ¬ (!n.sec.fenced || tenantState n != tsFencing || decide (t.now < t.at (a + 1) 1)) = true := by simp [hf, hs, ha]
  simp only [keyDestruction, hc]
  rw [if_neg hno]
  rfl

theorem keysGone_tenantState : tenantState (keysGone t n) = tsErasing := (rd_of_bank _ (raise_bank _ _ _ _)).trans (rd_wr_self (destroyKeys n) Rg.secStatusState tsErasing (by decide))

theorem codes_keysGone : (keysGone t n).svc.arrivals.map (·.code) = n.svc.arrivals.map (·.code) ++ [evTenantKeysDestroyed] := by
  rw [keysGone, codes_raise, wr_svc, destroyKeys_svc]

/-! ## Erasing -/

/-- An empty store shows as free and not low (R383). -/
theorem recShow_empty (h : n.sec.store = []) : ∃ b, recShow t n = { n with bank := b, sec := { n.sec with lowTold := false } } := by
  have hused : recUsed n = 0 := by rw [recUsed, h]; rfl
  have hlow : decide ((recSize n - recUsed n) * 16 < recSize n) = false := by
    rw [hused, decide_eq_false_iff_not]
    omega
  unfold recShow
  simp only [hlow, Bool.false_and, Bool.false_eq_true, if_false]
  exact ⟨_, rfl⟩

/-- The node that has erased what the tenant left, its registers shown (R387, R390). -/
def erasedNode (t : Tck) (n : Node) : Node := recShow t (wr (setEmpty (eraseNode n)) Rg.secFineGrant 0)

theorem erasedNode_shape : ∃ b, erasedNode t n = { wr (setEmpty (eraseNode n)) Rg.secFineGrant 0 with bank := b, sec := { (eraseNode n).sec with lowTold := false } } := recShow_empty rfl

/-- The node whose tenant is gone, told to the map (R387). -/
def erasedTold (t : Tck) (n : Node) : Node := forwardChanges (erasedNode t n) (ownProposal (erasedNode t n) [.tenant (nodeId (erasedNode t n)) 0])

theorem erasedTold_frame {β : Type} (g : Node → β) (hm : ∀ (n : Node) l, g { n with map := { n.map with gathered := l } } = g n) (ho : ∀ n o, g (emit n o) = g n)
    (hb : ∀ (n : Node) b x, g { n with bank := b, sec := x } = g n) : g (erasedTold t n) = g (eraseNode n) := by
  obtain ⟨b, he⟩ := @erasedNode_shape t n
  rw [erasedTold, forwardChanges_keeps g hm ho, he]
  exact (hb _ b _).trans (hb (eraseNode n) _ (eraseNode n).sec)

theorem rd_erasedTold {f : Fld} (hf : f.off ∉ [Rg.secRecStatusFree.off, Rg.secRecOldestLoTick.off, Rg.secRecOldestHiTick.off]) : rd (erasedTold t n) f = rd (wr (setEmpty (eraseNode n)) Rg.secFineGrant 0) f := by
  rw [erasedTold, forwardChanges_keeps (fun m => rd m f) (fun _ _ => rfl) fun _ _ => rfl, erasedNode, rd_recShow _ _ hf]

theorem erasedTold_tenantState : tenantState (erasedTold t n) = tsEmpty := by
  rw [tenantState, rd_erasedTold (by decide), rd_wr_off _ _ _ _ (by decide)]
  exact setEmpty_tenantState

theorem rd_erasedTold_tenant : rd (erasedTold t n) Rg.secStatusTenant = 0 := by
  rw [rd_erasedTold (by decide), rd_wr_off _ _ _ _ (by decide)]
  exact rd_setEmpty_tenant

theorem rd_erasedTold_fine : rd (erasedTold t n) Rg.secFineGrant = 0 := (rd_erasedTold (by decide)).trans (rd_wr_self _ _ _ (by decide))

theorem erasedTold_sec : (erasedTold t n).sec = { (eraseNode n).sec with lowTold := false } := by
  obtain ⟨b, he⟩ := @erasedNode_shape t n
  rw [erasedTold, forwardChanges_keeps (·.sec) (fun _ _ => rfl) fun _ _ => rfl, he]

theorem erasedTold_svc : (erasedTold t n).svc = (eraseNode n).svc := erasedTold_frame (·.svc) (fun _ _ => rfl) (fun _ _ => rfl) fun _ _ _ => rfl

theorem eraseDone_told (hc : n.sec.closing = some (h, a)) (hs : tenantState n = tsErasing) (hw : n.svc.tokenWait = none) :
    eraseDone t n = complete t (erasedTold t n) h stOk (leBytes 4 (t.tick - a) ++ leBytes 4 n.sec.destroyed) := by
  have hno : ¬ (tenantState n != tsErasing) = true := by simp [hs]
  have htok : tokenNow t (erasedTold t n) = erasedTold t n := by
    have hnone : (erasedTold t n).svc.tokenWait = none := (congrArg (·.tokenWait) erasedTold_svc).trans hw
    simp only [tokenNow, hnone]
  simp only [eraseDone, hc]
  rw [if_neg hno]
  exact congrArg (complete t · h stOk _) htok

end

/-! ## The obligation -/

section

variable {s : State}

theorem exec_tenantOpen_cases {h : Word} {c : Cmd} {b : Bytes} (hr : Runs s.node h opTenantOpen c) (hc : OpenInOrder c) (hb : b = hostRead s.node c.mem (c.f 32 8) (c.f 40 4)) :
    (tenantState s.node ≠ tsEmpty → exec (.tenantOpen h) s = .next (s.withNode (complete s.tck s.node h.toNat stDenied [])))
    ∧ (tenantState s.node = tsEmpty → bundleGood b (c.f 24 2) = none → exec (.tenantOpen h) s = .next (s.withNode (complete s.tck (raise s.tck s.node evTenantOpenFail []) h.toNat stDenied [])))
    ∧ (tenantState s.node = tsEmpty → ∀ keys, bundleGood b (c.f 24 2) = some keys → exec (.tenantOpen h) s = .next (s.withNode (setRunning (bundleInstalled s.node c b keys) c.handle))) := by
  subst hb
  obtain ⟨hf, ho, hs, hq, hh⟩ := hr
  have hopen := tenantOpen_eq (t := s.tck) hf ho hs hq hh hc
  refine ⟨fun ht => onNode_eq (hopen.trans (if_pos (bne_iff_ne.mpr ht))), fun ht hnone => onNode_eq (hopen.trans ?_), fun ht keys hsome => onNode_eq (hopen.trans ?_)⟩
  · rw [if_neg (by simp [ht]), hnone]
  · rw [if_neg (by simp [ht]), hsome]
    rfl

theorem exec_tenantOpen_installs {h : Word} {c : Cmd} {b keys : Bytes} (hr : Runs s.node h opTenantOpen c)
    (hexec : exec (.tenantOpen h) s = .next (s.withNode (setRunning (bundleInstalled s.node c b keys) c.handle))) :
    ∃ N : Node, exec (.tenantOpen h) s = .next (s.withNode N) ∧ tenantState N = tsOpening ∧ rd N Rg.secStatusTenant = c.f 24 2 ∧ N.sec.storage = some (keys.take 64)
      ∧ N.sec.authPub = slice b 8 96 ∧ N.sec.opening = some (c.handle, c.accTick) ∧ findCmd N h.toNat = some { c with stage := .running } ∧ N.out = s.node.out ∧ N.t1 = s.node.t1
      ∧ ∀ k, 1 ≤ k → k ≤ byteAt b 6 → mget? N.sec.slots k = some ⟨slice keys (64 + 32 * (k - 1)) 32, 0, none, none⟩ ∧ rd N (Rg.secSlotState k) = 2 := by
  have hfe : (bundleInstalled s.node c b keys).fe = s.node.fe := slotsPut_frame (·.fe) (fun _ _ _ _ => rfl) _ _
  have hf : findCmd (bundleInstalled s.node c b keys) h.toNat = some c := (findCmd_of_fe hfe _).trans hr.1
  refine ⟨_, hexec, bundleInstalled_tenantState, ?_, rfl, rfl, rfl, ?_, slotsPut_frame (·.out) (fun _ _ _ _ => rfl) _ _, slotsPut_frame (·.t1) (fun _ _ _ _ => rfl) _ _, fun k h1 hk => ?_⟩
  · refine (rd_wr_self _ Rg.secStatusTenant (c.f 24 2) (by decide)).trans ?_
    exact Nat.mod_eq_of_lt (field_two_lt c 24)
  · exact (congrArg (fun k => findCmd (setRunning (bundleInstalled s.node c b keys) k) h.toNat) (findCmd_handle hr.1)).trans (findCmd_setRunning hf)
  · obtain ⟨hslot, hrd⟩ := slotsPut_slot s.node keys h1 hk
    exact ⟨hslot, rd_bundleInstalled_slot.trans hrd⟩

end

/-- Settles O50: each command is its equation, a bundle's slots are followed one by one, and a close through the fold over the commands and keys that it ends. -/
theorem tenantsAreOpenedSealedAndRemoved : Obligations.TenantsAreOpenedSealedAndRemoved := by
  unfold Obligations.TenantsAreOpenedSealedAndRemoved
  refine ⟨fun s h c b hr h24 hlow hhigh hlen hb => ?_, fun s h a hw ht ho => ?_, fun s src hs => ?_, fun s h a ho => ?_, fun s h c hr => ?_, fun s h a hc hf ha => ?_, fun s h a hc hf ht ha => ?_, fun s h a hc ht hw => ?_⟩
  · obtain ⟨hdenied, hfail, hgood⟩ := exec_tenantOpen_cases hr ⟨h24, hlow, hhigh, hlen⟩ hb
    refine ⟨hdenied, fun ht hbad => hfail ht (if_neg (by rw [hbad]; decide)), fun ht hok => ?_⟩
    have hkeys : bundleGood b (c.f 24 2) = bundleKeys b := if_pos hok
    split
    · next hnone => exact hfail ht (hkeys.trans hnone)
    · next keys hsome => exact exec_tenantOpen_installs hr (hgood ht keys (hkeys.trans hsome))
  · exact ⟨sealed s.node, onNode_open hw (sealTenant_mgmt ht ho), sealed_tenantState, rd_wr_self _ _ _ (by decide), rd_sealed_tenant, rfl, rfl, mget?_mset_self _ _ _, rfl, rfl⟩
  · refine onNode_eq ?_
    rw [whenOpen, sealTenant_other hs, ite_self]
  · have htime := openSealTimeout_eq (t := s.tck) ho
    refine ⟨fun hlt => onNode_eq (htime.trans (if_neg (Nat.not_le.mpr hlt))), fun hle => ⟨abortOpen s.node, onNode_eq (htime.trans (if_pos hle)), setEmpty_tenantState, rd_setEmpty_tenant, destroyKeys_slots _, rfl, rfl, rfl, destroyKeys_fe _⟩⟩
  · obtain ⟨hf, ho, hs, hq, hh⟩ := hr
    refine ⟨fun a hc h0 => onNode_eq ((tenantClose_begun hf ho hs hq hc).trans (by rw [if_neg (by omega)])), fun a hc h1 hx hm => ?_, fun hc hr h26 => ⟨fun he => ?_, fun he => ?_⟩⟩
    · exact ⟨recordsDropped s.node, onNode_eq ((tenantClose_begun hf ho hs hq hc).trans (by rw [if_pos h1, forceClose_bare hx hm])), rfl, rfl, rfl⟩
    · exact onNode_eq ((tenantClose_refused hf ho hs hq hc hh hr h26).trans (if_pos he))
    · exact onNode_eq ((tenantClose_refused hf ho hs hq hc hh hr h26).trans (if_neg he))
  · refine ⟨_, onNode_eq (fenceBegin_draws hc hf ha), ?_, ?_, fun c => fenceDrawn_only, fun c => fenceDrawn_all, fun k => fenceDrawn_slot, ?_, fenceDrawn_t1⟩ <;> rw [fenceDrawn_sec]
    exact hc
  · exact ⟨_, onNode_eq (keyDestruction_done hc hf ht ha), keysGone_tenantState, destroyKeys_slots _, rfl, rfl, rfl, codes_keysGone, destroyKeys_fe _, destroyKeys_t1 _⟩
  · have hfr {β : Type} (g : Node → β) hm ho hb := erasedTold_frame (t := s.tck) (n := s.node) g hm ho hb
    have hqst := hfr (·.qst) (fun _ _ => rfl) (fun _ _ => rfl) fun _ _ _ => rfl
    refine ⟨_, onNode_eq (eraseDone_told hc ht hw), erasedTold_tenantState, rd_erasedTold_tenant, rd_erasedTold_fine, hfr (·.t1) (fun _ _ => rfl) (fun _ _ => rfl) fun _ _ _ => rfl,
      hfr (·.seqs) (fun _ _ => rfl) (fun _ _ => rfl) fun _ _ _ => rfl, hfr (·.pdx) (fun _ _ => rfl) (fun _ _ => rfl) fun _ _ _ => rfl, hfr (·.wts) (fun _ _ => rfl) (fun _ _ => rfl) fun _ _ _ => rfl,
      hfr (·.ter) (fun _ _ => rfl) (fun _ _ => rfl) fun _ _ _ => rfl, hfr (·.bsu) (fun _ _ => rfl) (fun _ _ => rfl) fun _ _ _ => rfl, congrArg (·.qps) hqst, congrArg (·.pds) hqst, congrArg (·.mrs) hqst,
      congrArg (·.store) erasedTold_sec, congrArg (·.closing) erasedTold_sec, congrArg (·.slots) erasedTold_svc, congrArg (·.arrivals) erasedTold_svc,
      hfr (·.fe) (fun _ _ => rfl) (fun _ _ => rfl) fun _ _ _ => rfl, hfr (·.hmem) (fun _ _ => rfl) (fun _ _ => rfl) fun _ _ _ => rfl⟩

end Sys2Proof.Machine
end

section
/-! Records, attestation and weight binding (R370, R375, R380 to R383). -/

namespace Sys2Proof.Machine

section

variable {t : Tck} {n : Node} {h k : Nat} {c : Cmd} {r : RecTick}

/-! ## The tick tree -/

theorem recTree_one (f : Nat) (a : Bytes) : recTree (f + 1) [a] = sha384 (0 :: a) := rfl

theorem recTree_two (f : Nat) (a b : Bytes) : recTree (f + 2) [a, b] = sha384 (1 :: (sha384 (0 :: a) ++ sha384 (0 :: b))) := rfl

theorem recTree_three (f : Nat) (a b c : Bytes) : recTree (f + 3) [a, b, c] = sha384 (1 :: (sha384 (1 :: (sha384 (0 :: a) ++ sha384 (0 :: b))) ++ sha384 (0 :: c))) := by
  have hsplit : splitPow 3 = 2 := by decide
  change sha384 (1 :: (recTree (f + 2) ([a, b, c].take (splitPow 3)) ++ recTree (f + 2) ([a, b, c].drop (splitPow 3)))) = _
  rw [hsplit]
  rfl

/-! ## Signing -/

theorem map_lmodify {α β : Type} {p : α → Bool} {f : α → α} (g : α → β) (hg : ∀ x, g (f x) = g x) (l : List α) : (lmodify l p f).map g = l.map g := by
  rw [lmodify, List.map_map]
  refine List.map_congr_left fun x _ => ?_
  rw [Function.comp_apply]
  split
  · exact hg x
  · rfl

/-- The signature of a tick's statement with the Alias in force in it (R381). -/
def tickSig (n : Node) (r : RecTick) (k : Nat) : Bytes := padTo 96 (Config.aliasSign (aliasMeas n k) (Config.freeNat n.freeCtr) (recStatement n r))

/-- The node that keeps it beside the tick's records. -/
def tickSigned (n : Node) (r : RecTick) (k : Nat) : Node :=
  modSec { n with freeCtr := n.freeCtr + 1 } fun s => { s with store := lmodify s.store (·.tick == k) fun y => { y with sig := some (tickSig n r k) } }

theorem statementSign_signs (hr : n.sec.store.find? (·.tick == k) = some r) (hk : k < t.tick) (hs : r.sig = none) : statementSign k t n = tickSigned n r k := by
  have hno : ¬ (decide (t.tick ≤ k) || r.sig.isSome) = true := by simp [hk, hs]
  simp only [statementSign, hr]
  rw [if_neg hno]
  rfl

theorem statementSign_leaves (hr : n.sec.store.find? (·.tick == k) = some r) (h : t.tick ≤ k ∨ r.sig ≠ none) : statementSign k t n = n := by
  have hyes : (decide (t.tick ≤ k) || r.sig.isSome) = true := by
    rw [Bool.or_eq_true, decide_eq_true_eq]
    exact h.imp_right Option.isSome_iff_ne_none.mpr
  simp only [statementSign, hr]
  exact if_pos hyes

/-! ## Reading -/

theorem recShow_fe : (recShow t n).fe = n.fe := by
  unfold recShow
  dsimp only
  split <;> rfl

theorem recShow_store : (recShow t n).sec.store = n.sec.store := by
  unfold recShow
  dsimp only
  split <;> rfl

/-- The fields of a RECORD_GET are in order (R382). -/
structure ReadInOrder (c : Cmd) : Prop where
  some_ : 1 ≤ c.f 32 2
  many : c.f 32 2 ≤ 1024
  release : c.f 34 1 ≤ 1
  low : rsv c 35 39 = []
  place : mult (c.f 40 8) 64 = true
  high : rsv c 52 63 = []

/-- The signed ticks that a RECORD_GET asks for. -/
def recTicks (n : Node) (c : Cmd) : List RecTick := n.sec.store.filter fun r => c.f 24 8 ≤ r.tick && r.tick < c.f 24 8 + c.f 32 2 && r.sig.isSome

/-- Their blocks. -/
def recBytes (n : Node) (c : Cmd) : Bytes := (recTicks n c).flatMap fun r => recBlock n r (r.sig.getD [])

/-- The first tick asked for that is not signed, or 0. -/
def recLate (t : Tck) (n : Node) (c : Cmd) : Nat := (((List.range (c.f 32 2)).map (c.f 24 8 + ·)).find? (unsigned t n)).getD 0

theorem recLate_none (h : ∀ k, c.f 24 8 ≤ k → k < c.f 24 8 + c.f 32 2 → unsigned t n k = false) : recLate t n c = 0 := by
  rw [recLate, List.find?_eq_none.mpr, Option.getD_none]
  intro k hk
  obtain ⟨i, hi, rfl⟩ := List.mem_map.mp hk
  have := List.mem_range.mp hi
  rw [h _ (by omega) (by omega)]
  decide

theorem recLate_first (h1 : c.f 24 8 ≤ k) (h2 : k < c.f 24 8 + c.f 32 2) (hk : unsigned t n k = true) (hj : ∀ j, c.f 24 8 ≤ j → j < k → unsigned t n j = false) : recLate t n c = k := by
  have hfind : (List.range (c.f 32 2)).find? (unsigned t n ∘ (c.f 24 8 + ·)) = some (k - c.f 24 8) := by
    refine find?_range_first (by omega) ?_ fun j hlt => hj (c.f 24 8 + j) (by omega) (by omega)
    rw [Function.comp_apply, Nat.add_sub_cancel' h1, hk]
  rw [recLate, List.find?_map, hfind, Option.map_some, Option.getD_some, Nat.add_sub_cancel' h1]

/-- The node that has written the blocks and completed a RECORD_GET. -/
def recRead (t : Tck) (n : Node) (h : Nat) (c : Cmd) : Node :=
  complete t (hostWrite n c.mem (c.f 40 8) (recBytes n c)) h stOk (leBytes 4 (recTicks n c).length ++ leBytes 4 ((recTicks n c).map fun r => r.recs.length).sum ++ leBytes 4 (recLate t n c))

/-- The node that has released the ticks read as well. -/
def recReleased (t : Tck) (n : Node) (h : Nat) (c : Cmd) : Node :=
  recShow t (modSec (recRead t n h c) fun s => { s with store := lmodify s.store (fun r => (recTicks n c).any fun x => x.tick == r.tick) fun r => { r with released := true } })

theorem recordGet_eq (hf : findCmd n h = some c) (ho : c.op = opRecordGet) (hs : c.stage = .dispatched) (hq : fenceOk n c = true) (hh : headerOffs c = []) (hc : ReadInOrder c) : recordGet h t n =
    if c.f 48 4 < (recBytes n c).length then complete t n h stBadParam (leBytes 1 48 ++ zeros 11 ++ leBytes 4 (recBytes n c).length)
    else if c.f 34 1 = 1 then recReleased t n h c else recRead t n h c := by
  have hoffs : offIf (c.f 32 2 == 0 || decide (1024 < c.f 32 2)) 32 ++ offIf (decide (1 < c.f 34 1)) 34 ++ rsv c 35 39 ++ offIf (!mult (c.f 40 8) 64) 40 ++ rsv c 52 63 = [] := by
    have h0 : c.f 32 2 ≠ 0 := Nat.ne_of_gt hc.some_
    rw [hc.low, hc.high, offIf_false (by simp [h0, hc.many]), offIf_false (by simp [hc.release]), offIf_false (by simp [hc.place])]
    rfl
  rw [recordGet, withCmd_eq _ hf ho hs hq, checked_ok _ hh hoffs]
  rfl

theorem heldRelease_eq {x : HeldCpl} {rest : List HeldCpl} (hx : n.sec.held = x :: rest) : heldRelease t n =
    if recRoom t n then releaseHeld t rest.length (recAdd t (complete t { n with sec := { n.sec with held := rest } } x.handle x.status x.result) x.record) else n := by
  simp only [heldRelease, hx, List.length_cons, releaseHeld]

/-! ## Attestation -/

/-- The bytes of an ATTEST: its report, the signature, and the chains it asks for (R370). -/
def attestBytes (t : Tck) (n : Node) (c : Cmd) : Bytes :=
  report t n (hostRead n c.mem (c.f 24 8) 32) ++ padTo 96 (Config.aliasSign (aliasMeas n t.tick) (Config.freeNat n.freeCtr) (report t n (hostRead n c.mem (c.f 24 8) 32)))
    ++ (if c.f 44 1 = 1 then certWithLen n t 0 ++ certWithLen n t 1 else [])

theorem attest_eq (hf : findCmd n h = some c) (ho : c.op = opAttest) (hs : c.stage = .dispatched) (hq : fenceOk n c = true) (hh : headerOffs c = []) (hm : mult (c.f 32 8) 64 = true) (h44 : c.f 44 1 ≤ 1)
    (hr : rsv c 45 63 = []) : attest h t n = if c.f 40 4 < (attestBytes t n c).length then complete t n h stBadParam (leBytes 4 (attestBytes t n c).length)
      else complete t (hostWrite { n with freeCtr := n.freeCtr + 1 } c.mem (c.f 32 8) (attestBytes t n c)) h stOk [] := by
  have hoffs : offIf (!mult (c.f 32 8) 64) 32 ++ offIf (decide (1 < c.f 44 1)) 44 ++ rsv c 45 63 = [] := by
    rw [hr, offIf_false (by simp [hm]), offIf_false (by simp [h44])]
    rfl
  rw [attest, withCmd_eq _ hf ho hs hq, checked_ok _ hh hoffs]
  rfl

/-! ## Weight binding -/

/-- The fields of a WEIGHTS_BIND are in order (R374). -/
structure BindInOrder (c : Cmd) : Prop where
  low : rsv c 28 31 = []
  some_ : 1 ≤ c.f 40 4
  many : c.f 40 4 ≤ 65536
  high : rsv c 44 63 = []

/-- The node that keeps a set's binding key (R375). -/
def bindKept (n : Node) (k : Nat) (key : Bytes) : Node := modSec n fun s => { s with bind := mset s.bind k key }

theorem weightsBind_eq {w : WSet} (hf : findCmd n h = some c) (ho : c.op = opWeightsBind) (hs : c.stage = .dispatched) (hq : fenceOk n c = true) (hh : headerOffs c = []) (hw : setFor n c (c.f 24 4) = some w) (hc : BindInOrder c) :
    weightsBind h t n = if w.bound then complete t n h stOk []
      else match bindCheck n w (hostRead n c.mem (c.f 32 8) (c.f 40 4)) with
        | .inl r => complete t (bindFail t n (c.f 24 4) r) h stNotBound []
        | .inr key => match firstOff (hiddenFaults (bindKept n (c.f 24 4) key) (c.f 24 4) w), lensDiffer (bindKept n (c.f 24 4) key) (c.f 24 4) w with
          | none, false => complete t (modSet (bindKept n (c.f 24 4) key) (c.f 24 4) fun x => withSecs (bindKept n (c.f 24 4) key) (c.f 24 4)
              { x with bound := true, policy := slice (hostRead n c.mem (c.f 32 8) (c.f 40 4)) 64 64 }) h stOk []
          | some o, _ => badParam t (raise t n evWsetBad (leBytes 4 (c.f 24 4) ++ leBytes 8 o)) h 32
          | none, true => badParam t n h 32 := by
  have hoffs : offIf (setFor n c (c.f 24 4)).isNone 24 ++ rsv c 28 31 ++ offIf (c.f 40 4 == 0 || decide (65536 < c.f 40 4)) 40 ++ rsv c 44 63 = [] := by
    have h0 : c.f 40 4 ≠ 0 := Nat.ne_of_gt hc.some_
    rw [hc.low, hc.high, offIf_false (by simp [hw]), offIf_false (by simp [h0, hc.many])]
    rfl
  rw [weightsBind, withCmd_eq _ hf ho hs hq, checked_ok _ hh hoffs, hw]
  rfl

theorem rd_bindFail_count (set reason : Nat) : rd (bindFail t n set reason) Rg.secBindFailCount = satTo 16 (rd n Rg.secBindFailCount + 1) := by
  rw [bindFail, rd_of_bank _ (raise_bank _ _ _ _), rd_wr_field _ Rg.secBindFailReason Rg.secBindFailCount _ rfl (by decide) (by decide)]
  exact rd_bump_self _ _ _ (by decide)

theorem rd_bindFail_reason (set reason : Nat) : rd (bindFail t n set reason) Rg.secBindFailReason = reason % 8 := by
  rw [bindFail, rd_of_bank _ (raise_bank _ _ _ _)]
  exact rd_wr_self _ _ _ (by decide)

end

/-- Settles O51: the tree by its splits, the ticks read through the filter and the search for the first not signed, each command by its equation. -/
theorem recordsAreSignedReadAndBound : Obligations.RecordsAreSignedReadAndBound := by
  unfold Obligations.RecordsAreSignedReadAndBound
  refine ⟨fun a b c => ⟨recTree_one 1 a, recTree_two 1 a b, recTree_three 1 a b c⟩, fun s k r hr => ⟨fun hk hs => ?_, fun h => onNode_eq (statementSign_leaves hr h)⟩, ?_, fun s x rest hx => ?_, ?_, ?_⟩
  · refine ⟨_, onNode_eq (statementSign_signs hr hk hs), rfl, rfl, rfl, ?_, map_lmodify _ (by intro _; rfl) _⟩
    refine (find?_lmodify (by intro _; rfl) s.node.sec.store).trans ?_
    rw [hr]
    rfl
  · rintro s h c l b ⟨hf, ho, hs, hq, hh⟩ h1 h1024 h34 hlow hplace hhigh rfl rfl
    have hget := recordGet_eq (t := s.tck) hf ho hs hq hh ⟨h1, h1024, h34, hlow, hplace, hhigh⟩
    refine ⟨fun hlt => onNode_eq (hget.trans (if_pos hlt)), fun hle => ⟨recLate s.tck s.node c, recLate_none, fun k => recLate_first, fun h0 => ?_, fun h1 => ?_⟩⟩
    · exact onNode_eq (hget.trans ((if_neg (Nat.not_lt.mpr hle)).trans (if_neg (by omega))))
    · refine ⟨_, onNode_eq (hget.trans ((if_neg (Nat.not_lt.mpr hle)).trans (if_pos h1))), recShow_fe, recShow_store.trans ?_⟩
      change lmodify (recRead s.tck s.node h.toNat c).sec.store _ _ = _
      rw [recRead, complete_sec]
      rfl
  · exact ⟨fun hno => onNode_eq ((heldRelease_eq hx).trans (if_neg (by rw [hno]; decide))), fun hyes => onNode_eq ((heldRelease_eq hx).trans (if_pos hyes))⟩
  · rintro s h c r b ⟨hf, ho, hs, hq, hh⟩ hm h44 hr rfl rfl
    have hattest := attest_eq (t := s.tck) hf ho hs hq hh hm h44 hr
    by_cases hlt : c.f 40 4 < (attestBytes s.tck s.node c).length
    · rw [if_pos hlt] at hattest
      exact (if_pos hlt).mpr (onNode_eq hattest)
    · rw [if_neg hlt] at hattest
      exact (if_neg hlt).mpr (onNode_eq hattest)
  · rintro s h c w b ⟨hf, ho, hs, hq, hh⟩ hw hlow h1 hmax hhigh rfl
    have hbind := weightsBind_eq (t := s.tck) hf ho hs hq hh hw ⟨hlow, h1, hmax, hhigh⟩
    refine ⟨fun hb => onNode_eq (hbind.trans (if_pos hb)), fun hb => ?_⟩
    rw [if_neg (by rw [hb]; decide)] at hbind
    split
    · next k hk =>
      rw [hk] at hbind
      exact ⟨_, onNode_eq hbind, rd_bindFail_count _ _, rd_bindFail_reason _ _, rfl, rfl, codes_raise _ _ _ _⟩
    · next key hkey =>
      rintro M rfl hfaults hlens
      rw [hkey] at hbind
      refine onNode_eq (hbind.trans ?_)
      have hf0 : hiddenFaults (bindKept s.node (c.f 24 4) key) (c.f 24 4) w = [] := hfaults
      have hl0 : lensDiffer (bindKept s.node (c.f 24 4) key) (c.f 24 4) w = false := hlens
      simp only [hf0, hl0, firstOff, leastBy]
      rfl

end Sys2Proof.Machine
end

section
/-! Key slots, fine views and SPDM (R367, R369, R371, R390). -/

namespace Sys2Proof.Machine

/-! ## Slot operations -/

section

variable {t : Tck} {n : Node} {k j st : Nat} {src : Req} {body : Node} {x : KeySlot}

/-- A requester may operate the slots, and no operation is under way (R371). -/
structure MayOperate (n : Node) (src : Req) : Prop where
  may : mayKey n src = true
  idle : rdB n Rg.secKeyStatusBusy = false

theorem onSlot_barred (h : mayKey n src = false) : onSlot n k st src body = n := by
  rw [onSlot, h]
  rfl

theorem onSlot_wrong (h : MayOperate n src) (hk : k = 0 ∨ rd n (Rg.secSlotState k) ≠ st) : onSlot n k st src body = keyResult n stBadParam := by
  have hwrong : (decide (k = 0) || decide (63 < k) || rd n (Rg.secSlotState k) != st) = true := by
    rcases hk with hk | hk <;> simp [hk]
  rw [onSlot, h.may, h.idle, if_neg (by decide), if_pos hwrong]

theorem onSlot_right (h : MayOperate n src) (h0 : k ≠ 0) (h63 : k ≤ 63) (hk : rd n (Rg.secSlotState k) = st) : onSlot n k st src body = body := by
  have hright : ¬ (decide (k = 0) || decide (63 < k) || rd n (Rg.secSlotState k) != st) = true := by simp [h0, h63, hk]
  rw [onSlot, h.may, h.idle, if_neg (by decide), if_neg hright]

theorem rd_keyResult (v : Nat) : rd (keyResult n v) Rg.secKeyStatusResult = v % 2 ^ 16 := rd_wr_self _ _ _ (by decide)
theorem rd_keyResult_slot (v : Nat) (hk : k < 64) : rd (keyResult n v) (Rg.secSlotState k) = rd n (Rg.secSlotState k) := rd_wr_off _ _ _ _ (by simp only; omega)

/-- The bytes of a blob to install (R371). -/
def keyBlob (n : Node) (src : Req) : Bytes := hostRead n (reqSpace src) (rd n Rg.secKeyAddrLoAddr + 2 ^ 32 * rd n Rg.secKeyAddrHiAddr) 136

/-- The key that the blob unwraps to for a slot. -/
def blobKey (n : Node) (k : Nat) (b : Bytes) : Option Bytes := Config.unwrap (b.take 96) (leBytes 2 (rd n Rg.secStatusTenant) ++ leBytes 1 k ++ [0]) (b.drop 96)

theorem install_empty (h : MayOperate n src) (h0 : k ≠ 0) (h63 : k ≤ 63) (hk : rd n (Rg.secSlotState k) = 0) : install k src n =
    match blobKey n k (keyBlob n src) with
    | some key => keyResult (putSlot n k 1 key) stOk
    | none => keyResult n stDenied := by
  rw [install, onSlot_right h h0 h63 hk]
  rfl

theorem activate_receive (h : MayOperate n src) (h0 : k ≠ 0) (h63 : k ≤ 63) (hk : rd n (Rg.secSlotState k) = 1) :
    activate (.write k src) t n = keyResult (modSlot n k fun y => { y with activate := some (t.tick + 1) }) stOk := onSlot_right h h0 h63 hk

theorem retire_receive (h : MayOperate n src) (h0 : k ≠ 0) (h63 : k ≤ 63) (hk : rd n (Rg.secSlotState k) = 1) :
    retire (.write k src) t n = keyResult (showSlot (modSlot n k fun y => { y with activate := none, destroyAt := some (t.tick + 2) }) k 3) stOk := onSlot_right h h0 h63 hk

theorem modSlot_slot {f : KeySlot → KeySlot} (hx : mget? n.sec.slots k = some x) : mget? (modSlot n k f).sec.slots k = some (f x) := by
  rw [modSlot, modSec]
  dsimp only
  rw [mmod_some hx, mget?_mset_self]

/-! At a tick boundary. -/

/-- The node whose slot `k` has become ACTIVE and slot `j`, ACTIVE till then, RECEIVE (R371). -/
def activeMoved (n : Node) (j k : Nat) : Node := modSlot (showSlot (showSlot n j 1) k 2) k fun y => { y with activate := none }

/-- Is a slot to become ACTIVE at this boundary. -/
def activateDue (t : Tck) (e : Nat × KeySlot) : Bool := match e.2.activate with
  | some a => a ≤ t.tick
  | none => false

/-- Is a slot's key to be destroyed at this boundary. -/
def destroyDue (t : Tck) (e : Nat × KeySlot) : Bool := match e.2.destroyAt with
  | some a => a ≤ t.tick
  | none => false

/-- A slot becomes ACTIVE, and those ACTIVE till then RECEIVE. -/
def activateOne (n : Node) (e : Nat × KeySlot) : Node :=
  modSlot (if rd n (Rg.secSlotState e.1) = 1 then showSlot ((mkeys n.sec.slots).foldl (fun x k => if rd x (Rg.secSlotState k) = 2 then showSlot x k 1 else x) n) e.1 2 else n) e.1 fun k => { k with activate := none }

theorem activate_boundary_eq : activate .boundary t n = (n.sec.slots.filter (activateDue t)).foldl activateOne n := rfl
theorem retire_boundary_eq : retire .boundary t n = (n.sec.slots.filter (destroyDue t)).foldl (fun m e => emptySlot m e.1) n := rfl

theorem activate_boundary {y : KeySlot} (hjk : j < k) (hs : n.sec.slots = [(j, x), (k, y)]) (hj : rd n (Rg.secSlotState j) = 2) (hk : rd n (Rg.secSlotState k) = 1) (hx : x.activate = none) (hy : y.activate = some t.tick) :
    activate .boundary t n = activeMoved n j k := by
  have hdue : n.sec.slots.filter (activateDue t) = [(k, y)] := by
    rw [hs]
    simp [activateDue, hx, hy]
  have hk' : rd (showSlot n j 1) (Rg.secSlotState k) = 1 := (rd_wr_off _ _ _ _ (by simp only; omega)).trans hk
  have hold : (mkeys n.sec.slots).foldl (fun x k => if rd x (Rg.secSlotState k) = 2 then showSlot x k 1 else x) n = showSlot n j 1 := by
    simp only [hs, mkeys, List.map_cons, List.map_nil, List.foldl_cons, List.foldl_nil, hj, if_true, hk']
    rfl
  rw [activate_boundary_eq, hdue, List.foldl_cons, List.foldl_nil, activateOne, if_pos hk, hold]
  rfl

theorem activeMoved_slots {y : KeySlot} (hjk : j < k) (hs : n.sec.slots = [(j, x), (k, y)]) : (activeMoved n j k).sec.slots = [(j, x), (k, { y with activate := none })] := by
  change mmod n.sec.slots k _ = _
  have hne : ¬ k = j := by omega
  have hlt : ¬ k < j := by omega
  have hget : mget? n.sec.slots k = some y := by
    rw [hs]
    simp [mget?, Ne.symm hne]
  rw [mmod_some hget, hs]
  simp [mset, hne, hlt]

theorem rd_activeMoved_new : rd (activeMoved n j k) (Rg.secSlotState k) = 2 := rd_wr_self (showSlot n j 1) (Rg.secSlotState k) 2 (by simp only; omega)
theorem rd_activeMoved_old (hjk : j < k) : rd (activeMoved n j k) (Rg.secSlotState j) = 1 :=
  (rd_wr_off (showSlot n j 1) (Rg.secSlotState k) (Rg.secSlotState j) 2 (by simp only; omega)).trans (rd_wr_self n (Rg.secSlotState j) 1 (by simp only; omega))

theorem retire_boundary (hs : n.sec.slots = [(k, x)]) (hx : x.destroyAt = some t.tick) : retire .boundary t n = emptySlot n k := by
  have hdue : n.sec.slots.filter (destroyDue t) = [(k, x)] := by
    rw [hs]
    simp [destroyDue, hx]
  rw [retire_boundary_eq, hdue, List.foldl_cons, List.foldl_nil]

theorem retire_boundary_none (hs : n.sec.slots = [(k, x)]) (hx : x.destroyAt = none) : retire .boundary t n = n := by
  have hdue : n.sec.slots.filter (destroyDue t) = [] := by
    rw [hs]
    simp [destroyDue, hx]
  rw [retire_boundary_eq, hdue, List.foldl_nil]

theorem rd_emptySlot_state : rd (emptySlot n k) (Rg.secSlotState k) = 0 :=
  (rd_wr_field _ (Rg.secSlotExhausted k) (Rg.secSlotState k) _ rfl (by simp only; omega) (by simp only; omega)).trans (rd_wr_self (modSec n fun s => { s with slots := mdel s.slots k }) (Rg.secSlotState k) 0 (by simp only; omega))

theorem rd_emptySlot_exhausted : rd (emptySlot n k) (Rg.secSlotExhausted k) = 0 := rd_wr_self (showSlot (modSec n fun s => { s with slots := mdel s.slots k }) k 0) (Rg.secSlotExhausted k) 0 (by simp only; omega)

end

/-! ## SPDM -/

section

variable {t : Tck} {n : Node} {via needs next p : Nat} {tr log : Bytes} {r : SpdmResp}

/-- A request whose predecessors have been answered is answered, and the negotiation goes on (R369). -/
structure Answers (n N : Node) (via phase : Nat) (r : SpdmResp) : Prop where
  phase : (spdmOf N via).1 = phase
  out : N.out = n.out ++ [.spdm via r]
  bank : N.bank = n.bank
  fe : N.fe = n.fe

/-- One out of its order draws an error (R369). -/
structure Refuses (n N : Node) (via : Nat) : Prop where
  out : N.out = n.out ++ [.spdm via .error]
  sec : N.sec = n.sec
  bank : N.bank = n.bank

theorem spdmAnswer_answers (h : spdmOf n via = (p, tr)) (hp : needs ≤ p) : Answers n (spdmAnswer n via needs next log r) via (max p next) r := by
  have hN : spdmAnswer n via needs next log r = emit (modSec n fun s => { s with spdm := mset s.spdm via (max p next, tr ++ log) }) (.spdm via r) := by
    simp only [spdmAnswer, h, if_neg (Nat.not_lt.mpr hp)]
  rw [hN]
  refine ⟨?_, rfl, rfl, rfl⟩
  exact congrArg Prod.fst (mgetD_mset_self n.sec.spdm via _ _)

theorem spdmAnswer_refuses (h : spdmOf n via = (p, tr)) (hp : p < needs) : Refuses n (spdmAnswer n via needs next log r) via := by
  have hN : spdmAnswer n via needs next log r = emit n (.spdm via .error) := by
    simp only [spdmAnswer, h, if_pos hp]
  rw [hN]
  exact ⟨rfl, rfl, rfl⟩

/-- The node that has drawn `k` secret numbers. -/
def drawn (n : Node) (k : Nat) : Node := { n with freeCtr := n.freeCtr + k }

theorem Answers.drawn {N : Node} {k q : Nat} (h : Answers (drawn n k) N via q r) : Answers n N via q r := ⟨h.phase, h.out, h.bank, h.fe⟩
theorem Refuses.drawn {N : Node} {k : Nat} (h : Refuses (drawn n k) N via) : Refuses n N via := ⟨h.out, h.sec, h.bank⟩

/-- The signature of a transcript, with the responder's nonce (R369). -/
def transcriptSig (t : Tck) (n : Node) (via : Nat) (log : Bytes) : Bytes :=
  padTo 96 (Config.aliasSign (aliasMeas n t.tick) (Config.freeNat (n.freeCtr + 1)) ((spdmOf n via).2 ++ log ++ leBytes 32 (Config.freeNat n.freeCtr)))

theorem padTo_length (k : Nat) (l : Bytes) : (padTo k l).length = k := by
  rw [padTo, List.length_take, List.length_append, List.length_replicate]
  omega

theorem transcriptSig_length : (transcriptSig t n via log).length = 96 := padTo_length _ _

theorem challenge_eq (slot : Nat) (nonce : Bytes) : challenge via slot nonce t n =
    if slot = 0 then spdmAnswer (drawn n 2) via 3 3 (0x83 :: (leBytes 1 slot ++ nonce))
        (.challengeAuth 0 (sha384 (chainNow t n 0)) (Config.freeNat n.freeCtr) (transcriptSig t n via (0x83 :: (leBytes 1 slot ++ nonce))))
    else spdmAnswer n via 3 3 (0x83 :: (leBytes 1 slot ++ nonce)) .error := rfl

theorem challenge_zero (h : spdmOf n via = (p, tr)) (hp : 3 ≤ p) {slot : Nat} (hs : slot = 0) (nonce : Bytes) : Answers n (challenge via slot nonce t n) via (max p 3)
    (.challengeAuth 0 (sha384 (chainNow t n 0)) (Config.freeNat n.freeCtr) (transcriptSig t n via (0x83 :: (leBytes 1 slot ++ nonce)))) := by
  rw [challenge_eq, if_pos hs]
  exact (spdmAnswer_answers (n := drawn n 2) h hp).drawn

/-- The measurement blocks that a request names (R369). -/
def measBlocks (n : Node) (index : Nat) : List (Nat × Bytes) := (if index = 0xFF then (List.range 8).map (· + 1) else if index = 0 then [] else [index]).map fun k => (k, measurement n k)

theorem getMeasurements_eq (index : Nat) (signed : Bool) (nonce : Bytes) : getMeasurements via index signed nonce t n =
    if index != 0xFF && 8 < index then spdmAnswer n via 3 3 (0xE0 :: (leBytes 1 index ++ nonce)) .error
    else if signed then spdmAnswer (drawn n 2) via 3 3 (0xE0 :: (leBytes 1 index ++ nonce))
        (.measurements (measBlocks n index) (Config.freeNat n.freeCtr) (some (transcriptSig t n via (0xE0 :: (leBytes 1 index ++ nonce)))))
    else spdmAnswer (drawn n 1) via 3 3 (0xE0 :: (leBytes 1 index ++ nonce)) (.measurements (measBlocks n index) (Config.freeNat n.freeCtr) none) := rfl

theorem getMeasurements_refuses (h : spdmOf n via = (p, tr)) (hp : p < 3) (index : Nat) (signed : Bool) (nonce : Bytes) : Refuses n (getMeasurements via index signed nonce t n) via := by
  rw [getMeasurements_eq]
  split
  · exact spdmAnswer_refuses h hp
  · split
    · exact (spdmAnswer_refuses (n := drawn n 2) h hp).drawn
    · exact (spdmAnswer_refuses (n := drawn n 1) h hp).drawn

theorem challenge_refuses (h : spdmOf n via = (p, tr)) (hp : p < 3) (slot : Nat) (nonce : Bytes) : Refuses n (challenge via slot nonce t n) via := by
  rw [challenge_eq]
  split
  · exact (spdmAnswer_refuses (n := drawn n 2) h hp).drawn
  · exact spdmAnswer_refuses h hp

theorem getMeasurements_one (h : spdmOf n via = (p, tr)) (hp : 3 ≤ p) {index : Nat} (h1 : 1 ≤ index) (h8 : index ≤ 8) (nonce : Bytes) :
    Answers n (getMeasurements via index false nonce t n) via (max p 3) (.measurements [(index, measurement n index)] (Config.freeNat n.freeCtr) none) := by
  have hin : ¬ (index != 0xFF && decide (8 < index)) = true := by simp [h8]
  have hblocks : measBlocks n index = [(index, measurement n index)] := by
    rw [measBlocks, if_neg (by omega), if_neg (by omega)]
    rfl
  rw [getMeasurements_eq, if_neg hin, if_neg (by decide), hblocks]
  exact (spdmAnswer_answers (n := drawn n 1) h hp).drawn

theorem getMeasurements_all (h : spdmOf n via = (p, tr)) (hp : 3 ≤ p) (nonce : Bytes) :
    Answers n (getMeasurements via 0xFF true nonce t n) via (max p 3)
      (.measurements ((List.range 8).map fun k => (k + 1, measurement n (k + 1))) (Config.freeNat n.freeCtr) (some (transcriptSig t n via (0xE0 :: (leBytes 1 0xFF ++ nonce))))) := by
  have hblocks : measBlocks n 0xFF = (List.range 8).map fun k => (k + 1, measurement n (k + 1)) := by
    rw [measBlocks, if_pos rfl, List.map_map]
    rfl
  rw [getMeasurements_eq, if_neg (by decide), if_pos rfl, hblocks]
  exact (spdmAnswer_answers (n := drawn n 2) h hp).drawn

end

/-! ## The obligation -/

section

variable {s : State} {slot : BitVec 6} {src : Req} {b : Bytes}

theorem exec_install_empty (hw : Writable s.node) (hm : MayOperate s.node src) (h0 : slot ≠ 0) (hk : rd s.node (Rg.secSlotState slot.toNat) = 0) :
    exec (.install slot src) s = .next (s.withNode (match blobKey s.node slot.toNat (keyBlob s.node src) with
      | some key => keyResult (putSlot s.node slot.toNat 1 key) stOk
      | none => keyResult s.node stDenied)) :=
  onNode_open hw (install_empty hm (fun h => h0 (BitVec.eq_of_toNat_eq h)) (Nat.lt_succ_iff.mp slot.isLt) hk)

/-- What a key put into an empty slot leaves (R371). -/
theorem keyInstalled (n : Node) (key : Bytes) (k : Nat) : mget? (keyResult (putSlot n k 1 key) stOk).sec.slots k = some ⟨key, 0, none, none⟩
    ∧ (k < 64 → rd (keyResult (putSlot n k 1 key) stOk) (Rg.secSlotState k) = 1) ∧ rd (keyResult (putSlot n k 1 key) stOk) Rg.secKeyStatusResult = stOk
    ∧ ∀ j, j ≠ k → mget? (keyResult (putSlot n k 1 key) stOk).sec.slots j = mget? n.sec.slots j ∧ (j < 64 → rd (keyResult (putSlot n k 1 key) stOk) (Rg.secSlotState j) = rd n (Rg.secSlotState j)) := by
  refine ⟨mget?_mset_self _ _ _, fun hk => (rd_keyResult_slot _ hk).trans rd_putSlot_self, rd_keyResult _, fun j hj => ⟨mget?_mset_ne _ _ _ _ hj, fun h64 => ?_⟩⟩
  rw [rd_keyResult_slot _ h64, rd_putSlot_off (by simp only; omega)]

end

/-- Settles O52: slot operations by their guard `onSlot`, the boundary by the one slot that is due, and SPDM by whether a request's predecessors were answered. -/
theorem keySlotsAndIdentityAnswer : Obligations.KeySlotsAndIdentityAnswer := by
  unfold Obligations.KeySlotsAndIdentityAnswer
  refine ⟨?_, fun s slot src hno => ⟨?_, ?_, ?_⟩, fun s j k x y hw hjk hk64 hs hj hk hx hy => ?_, fun s k x hw hk64 hs => ⟨fun hx => ?_, fun hx => onNode_open hw (retire_boundary_none hs hx)⟩,
    fun s v hw => ?_, fun s v src hw hs => onNode_open hw ?_, fun s via => ?_, fun s via slot off len index nonce p tr h => ?_⟩
  · rintro s slot src b hw hm hb rfl
    have hmay : MayOperate s.node src := ⟨hm, hb⟩
    have h63 : slot.toNat ≤ 63 := Nat.lt_succ_iff.mp slot.isLt
    have hne (h0 : slot ≠ 0) : slot.toNat ≠ 0 := fun h => h0 (BitVec.eq_of_toNat_eq h)
    have hzero {st : Nat} (h : slot = 0 ∨ rd s.node (Rg.secSlotState slot.toNat) ≠ st) : slot.toNat = 0 ∨ rd s.node (Rg.secSlotState slot.toNat) ≠ st := h.imp_left fun h => by rw [h]; rfl
    refine ⟨fun h0 hk => ?_, fun h => onNode_open hw (onSlot_wrong hmay (hzero h)), fun h i hi => ?_, fun x h0 hk hx => ⟨?_, ?_⟩⟩
    · have hinst := exec_install_empty hw hmay h0 hk
      split
      · next key hkey =>
        rw [show blobKey s.node slot.toNat (keyBlob s.node src) = some key from hkey] at hinst
        obtain ⟨hslot, hst, hres, hothers⟩ := keyInstalled s.node key slot.toNat
        exact ⟨_, hinst, hslot, hst slot.isLt, hres, hothers⟩
      · next hnone =>
        rw [show blobKey s.node slot.toNat (keyBlob s.node src) = none from hnone] at hinst
        exact hinst
    · simp only [List.mem_cons, List.not_mem_nil, or_false] at hi
      rcases hi with rfl | rfl <;> exact onNode_open hw (onSlot_wrong hmay (hzero h))
    · exact ⟨_, onNode_open hw (activate_receive hmay (hne h0) h63 hk), modSlot_slot hx, (rd_keyResult_slot _ slot.isLt).trans hk, rd_keyResult _⟩
    · exact ⟨_, onNode_open hw (retire_receive hmay (hne h0) h63 hk), modSlot_slot hx, (rd_keyResult_slot _ slot.isLt).trans (rd_wr_self _ _ _ (by simp only; omega)), rd_keyResult _⟩
  · exact onNode_eq (by rw [whenOpen, install, onSlot_barred hno, ite_self])
  · exact onNode_eq (by rw [whenOpen, activate, onSlot_barred hno, ite_self])
  · exact onNode_eq (by rw [whenOpen, retire, onSlot_barred hno, ite_self])
  · exact ⟨_, onNode_open hw (activate_boundary hjk hs hj hk hx hy), rd_activeMoved_old hjk, rd_activeMoved_new, activeMoved_slots hjk hs⟩
  · refine ⟨_, onNode_open hw (retire_boundary hs hx), ?_, rd_emptySlot_state, rd_emptySlot_exhausted⟩
    rw [emptySlot_slots, hs]
    simp
  · exact ⟨_, onNode_open hw rfl, rd_wr_self _ _ _ (by decide), rfl⟩
  · cases src with
    | mgmt => exact absurd rfl hs
    | host _ _ => rfl
    | qp _ => rfl
  · exact ⟨_, rfl, mgetD_mset_self _ _ _ _, rfl, rfl⟩
  · have hans {i : Instr} {N : Node} {q : Nat} {r : SpdmResp} (hi : exec i s = .next (s.withNode N)) (ha : Answers s.node N via.val q r) :
        ∃ N : Node, exec i s = .next (s.withNode N) ∧ (spdmOf N via.val).1 = q ∧ N.out = s.node.out ++ [.spdm via.val r] ∧ N.bank = s.node.bank ∧ N.fe = s.node.fe := ⟨N, hi, ha.phase, ha.out, ha.bank, ha.fe⟩
    have href {i : Instr} {N : Node} (hi : exec i s = .next (s.withNode N)) (hr : Refuses s.node N via.val) :
        ∃ N : Node, exec i s = .next (s.withNode N) ∧ N.out = s.node.out ++ [.spdm via.val .error] ∧ N.sec = s.node.sec ∧ N.bank = s.node.bank := ⟨N, hi, hr.out, hr.sec, hr.bank⟩
    refine ⟨fun hp => hans rfl (spdmAnswer_answers h hp), fun hp => hans rfl (spdmAnswer_answers h hp), fun hp => hans rfl (spdmAnswer_answers h hp), fun hp hslot hoff => hans rfl ?_, fun hp hslot => ?_,
      fun hp h1 h8 => ⟨_, hans rfl (getMeasurements_one h hp h1 h8 nonce)⟩, fun hp => ⟨_, _, transcriptSig_length, hans rfl (getMeasurements_all h hp nonce)⟩,
      fun hp => href rfl (spdmAnswer_refuses h hp), fun hp => href rfl (spdmAnswer_refuses h hp), fun hp => ⟨href rfl (spdmAnswer_refuses h hp), href rfl (spdmAnswer_refuses h hp), href rfl (challenge_refuses h hp _ nonce),
        fun signed => href rfl (getMeasurements_refuses h hp _ signed nonce)⟩⟩
    · have hin : ¬ (decide (1 < slot.toNat) || decide ((chainNow s.tck s.node slot.toNat).length ≤ off.toNat)) = true := by simp [hslot, hoff]
      rw [getCertificate, if_neg hin]
      exact spdmAnswer_answers h hp
    · exact ⟨_, _, transcriptSig_length, hans rfl (challenge_zero h hp hslot nonce)⟩

end Sys2Proof.Machine
end

section
/-! Power: the shed ladder, halts and thermal levels (R397 to R403). -/

namespace Sys2Proof.Machine

/-! ## What shedding leaves alone (R398) -/

/-- The registers of the power manager. -/
def PowerReg (f : Fld) : Prop := 0x1000000 ≤ f.off ∧ f.off < 0x1001000

section

variable {β : Type} {v : Node → β}

/-- A view of the node that items, units, snoops, events, signals and registers outside the power manager are no part of. -/
structure PowerSees (v : Node → β) : Prop where
  att : ∀ (n : Node) x, v { n with att := x } = v n
  bsu : ∀ (n : Node) x, v { n with bsu := x } = v n
  cxd : ∀ (n : Node) x, v { n with cxd := x } = v n
  svc : ∀ (n : Node) x, v { n with svc := x } = v n
  out : ∀ (n : Node) x, v { n with out := x } = v n
  reg : ∀ (n : Node) f x, ¬ PowerReg f → v (wr n f x) = v n
  pmc : ∀ (n : Node) u e k, v (pmc n u e k) = v n

theorem PowerSees.pwr : PowerSees (·.pwr) := ⟨fun _ _ => rfl, fun _ _ => rfl, fun _ _ => rfl, fun _ _ => rfl, fun _ _ => rfl, fun _ _ _ _ => rfl, fun n u e k => pmc_pwr n u e k⟩
theorem PowerSees.fe : PowerSees (·.fe) := ⟨fun _ _ => rfl, fun _ _ => rfl, fun _ _ => rfl, fun _ _ => rfl, fun _ _ => rfl, fun _ _ _ _ => rfl, fun n u e k => pmc_fe n u e k⟩
theorem PowerSees.t1 : PowerSees (·.t1) := ⟨fun _ _ => rfl, fun _ _ => rfl, fun _ _ => rfl, fun _ _ => rfl, fun _ _ => rfl, fun _ _ _ _ => rfl, fun n u e k => pmc_t1 n u e k⟩

theorem PowerSees.rd {g : Fld} (hg : PowerReg g) : PowerSees (Machine.rd · g) := by
  obtain ⟨hlo, hhi⟩ := hg
  refine ⟨fun _ _ => rfl, fun _ _ => rfl, fun _ _ => rfl, fun _ _ => rfl, fun _ _ => rfl, fun n f x hf => rd_wr_off _ _ _ _ fun he => hf ⟨he ▸ hlo, he ▸ hhi⟩, fun n u e k => rd_pmc _ _ _ _ _ ?_⟩
  simp only
  omega

theorem queueDie_frame (ha : ∀ (n : Node) x, v { n with att := x } = v n) (hr : ∀ (n : Node) i x, v (wr n (Rg.attDqStatusHigh i) x) = v n) (n : Node) (it : Item) (due : Nat) : v (queueDie n it due) = v n :=
  (hr _ _ _).trans (ha _ _)

theorem shedItems_frame (ha : ∀ (n : Node) x, v { n with att := x } = v n) (hb : ∀ (n : Node) x, v { n with bsu := x } = v n) (hr : ∀ (n : Node) i x, v (wr n (Rg.attDqStatusHigh i) x) = v n) (n : Node) : v (shedItems n) = v n := by
  refine foldl_keeps v (fun m u => ?_) _ n
  refine (foldl_keeps v (fun k e => ?_) _ _).trans (hb _ _)
  split
  · exact queueDie_frame ha hr _ _ _
  · rfl

theorem shedItems_svc (n : Node) : (shedItems n).svc = n.svc := shedItems_frame (v := (·.svc)) (fun _ _ => rfl) (fun _ _ => rfl) (fun _ _ _ => rfl) n

variable (h : PowerSees v)

include h

theorem PowerSees.emit (n : Node) (o : Out) : v (emit n o) = v n := h.out _ _
theorem PowerSees.raise (t : Tck) (n : Node) (k : Nat) (b : Bytes) : v (raise t n k b) = v n := h.svc _ _

theorem PowerSees.shedItems (n : Node) : v (shedItems n) = v n :=
  shedItems_frame h.att h.bsu (fun n i x => h.reg n _ x (by simp only [PowerReg]; omega)) n

theorem PowerSees.portOff {p : Nat} (hp : p < 8) (t : Tck) (n : Node) : v (portOff t n p) = v n := by
  unfold Machine.portOff
  split
  · exact (h.raise _ _ _ _).trans (h.reg _ _ _ (by simp only [PowerReg]; omega))
  · rfl

theorem PowerSees.modulePower {p : Nat} (hp : p < 8) (n : Node) (low : Bool) : v (modulePower n p low) = v n := by
  unfold Machine.modulePower
  split
  · exact (h.emit _ _).trans (h.reg _ _ _ (by simp only [PowerReg]; omega))
  · rfl

theorem PowerSees.portShed {p : Nat} (hp : p < 8) (t : Tck) (n : Node) : v (wr (Machine.modulePower (Machine.portOff t n p) p true) (Rg.qstPortStatusShed p) 1) = v n :=
  (h.reg _ _ _ (by simp only [PowerReg]; omega)).trans ((h.modulePower hp _ _).trans (h.portOff hp _ _))

theorem PowerSees.portBack {p : Nat} (hp : p < 8) (n : Node) : v (wr (Machine.modulePower n p (!rdB n (Rg.qstPortCfgEn p))) (Rg.qstPortStatusShed p) 0) = v n :=
  (h.reg _ _ _ (by simp only [PowerReg]; omega)).trans (h.modulePower hp _ _)

theorem PowerSees.portsShed (t : Tck) (n : Node) : v (portsShed t n) = v n := by
  simp only [Machine.portsShed, List.foldl_cons, List.foldl_nil]
  rw [h.portShed (by decide), h.portShed (by decide), h.portShed (by decide), h.portShed (by decide)]

theorem PowerSees.portsBack (n : Node) : v (portsBack n) = v n := by
  simp only [Machine.portsBack, List.foldl_cons, List.foldl_nil]
  rw [h.portBack (by decide), h.portBack (by decide), h.portBack (by decide), h.portBack (by decide)]

theorem PowerSees.sendSnoop (t : Tck) (n : Node) (line k : Nat) (inv : Bool) : v (sendSnoop t n line k inv) = v n := by
  unfold Machine.sendSnoop
  split
  · rfl
  · exact (h.pmc _ _ _ _).trans ((h.reg _ _ _ (by simp only [PowerReg]; omega)).trans ((h.emit _ _).trans (h.cxd _ _)))

theorem PowerSees.cxdShed (t : Tck) (n : Node) : v (cxdShed t n) = v n := by
  refine foldl_keeps v (fun m e => ?_) _ n
  split
  · exact foldl_keeps v (fun k i => h.sendSnoop _ _ _ _ _) _ _
  · rfl

theorem PowerSees.stepAction (k : Nat) (t : Tck) (n : Node) : v (stepAction k t n) = v n := by
  unfold Machine.stepAction
  split_ifs
  · exact h.shedItems n
  · exact h.portsShed t n
  · exact h.cxdShed t n
  · rfl

end

/-! ## Counting -/

section

variable {β : Type} {v : Node → β}

/-- A view that the ladder's own state and registers are no part of either. -/
structure LadderBlind (v : Node → β) : Prop where
  sees : PowerSees v
  pwr : ∀ (n : Node) a b c d, v { n with pwr := { n.pwr with step := a, cntTick := b, halting := c, haltStage := d } } = v n
  status : ∀ (n : Node) f x, f.off = 0x1000000 → f.lo + f.w ≤ 10 → v (wr n f x) = v n
  counts : ∀ (n : Node) f x, 0x1000010 ≤ f.off → f.off < 0x1000028 → v (wr n f x) = v n

theorem LadderBlind.fe : LadderBlind (·.fe) := ⟨.fe, fun _ _ _ _ _ => rfl, fun _ _ _ _ _ => rfl, fun _ _ _ _ _ => rfl⟩
theorem LadderBlind.sag : LadderBlind (·.pwr.sag) := ⟨⟨fun _ _ => rfl, fun _ _ => rfl, fun _ _ => rfl, fun _ _ => rfl, fun _ _ => rfl, fun _ _ _ _ => rfl, fun n u e k => congrArg Pwr.sag (pmc_pwr n u e k)⟩,
  fun _ _ _ _ _ => rfl, fun _ _ _ _ _ => rfl, fun _ _ _ _ _ => rfl⟩
theorem LadderBlind.failN : LadderBlind (·.pwr.failN) := ⟨⟨fun _ _ => rfl, fun _ _ => rfl, fun _ _ => rfl, fun _ _ => rfl, fun _ _ => rfl, fun _ _ _ _ => rfl, fun n u e k => congrArg Pwr.failN (pmc_pwr n u e k)⟩,
  fun _ _ _ _ _ => rfl, fun _ _ _ _ _ => rfl, fun _ _ _ _ _ => rfl⟩
theorem LadderBlind.revTick : LadderBlind (·.pwr.revTick) := ⟨⟨fun _ _ => rfl, fun _ _ => rfl, fun _ _ => rfl, fun _ _ => rfl, fun _ _ => rfl, fun _ _ _ _ => rfl, fun n u e k => congrArg Pwr.revTick (pmc_pwr n u e k)⟩,
  fun _ _ _ _ _ => rfl, fun _ _ _ _ _ => rfl, fun _ _ _ _ _ => rfl⟩
theorem LadderBlind.haltN : LadderBlind (·.pwr.haltN) := ⟨⟨fun _ _ => rfl, fun _ _ => rfl, fun _ _ => rfl, fun _ _ => rfl, fun _ _ => rfl, fun _ _ _ _ => rfl, fun n u e k => congrArg Pwr.haltN (pmc_pwr n u e k)⟩,
  fun _ _ _ _ _ => rfl, fun _ _ _ _ _ => rfl, fun _ _ _ _ _ => rfl⟩

theorem LadderBlind.rdSag {f : Fld} (hf : f.off = 0x1000004) : LadderBlind (Machine.rd · f) :=
  ⟨.rd ⟨by omega, by omega⟩, fun _ _ _ _ _ => rfl, fun _ _ _ h _ => rd_wr_off _ _ _ _ (by omega), fun _ _ _ h1 h2 => rd_wr_off _ _ _ _ (by omega)⟩

theorem LadderBlind.rdFail : LadderBlind (Machine.rd · Rg.pwrStatusPwrFail) :=
  ⟨.rd ⟨by decide, by decide⟩, fun _ _ _ _ _ => rfl, fun _ f x h hw => rd_wr_field _ f Rg.pwrStatusPwrFail x h.symm (by simp only; omega) (by simp only; omega), fun _ f x h1 h2 => rd_wr_off _ f Rg.pwrStatusPwrFail x (by simp only; omega)⟩

variable (h : LadderBlind v)

include h

theorem LadderBlind.ticks {k : Nat} (hk : k ≤ 6) (n : Node) (x : Nat) : v (bump n (Rg.pwrShedCountTicks (k - 1)) x) = v n := h.counts _ _ _ (by simp only; omega) (by simp only; omega)

theorem LadderBlind.countStep {k : Nat} (hk : k ≤ 6) (u : Nat) (n : Node) : v (countStep u n k) = v n := by
  unfold Machine.countStep
  split
  · rfl
  · split
    · rfl
    · exact (h.pwr (bump n _ _) n.pwr.step _ n.pwr.halting n.pwr.haltStage).trans (h.ticks hk _ _)

theorem LadderBlind.countEntry {k : Nat} (hk : k ≤ 6) (t : Tck) (n : Node) : v (countEntry t n k) = v n := by
  unfold Machine.countEntry
  split
  · rfl
  · exact (h.pwr (bump n _ _) n.pwr.step _ n.pwr.halting n.pwr.haltStage).trans (h.ticks hk _ _)

theorem LadderBlind.beginHalt (c : Nat) (t : Tck) (n : Node) : v (beginHalt c t n).2 = v n := by
  unfold Machine.beginHalt
  split
  · rfl
  · exact (h.status _ _ _ rfl (by decide)).trans (h.pwr n n.pwr.step n.pwr.cntTick _ _)

theorem LadderBlind.enterStep {k : Nat} (hk : k ≤ 6) (c : Nat) (s : Tck × Node) : v (enterStep c s k).2 = v s.2 := by
  obtain ⟨t, n⟩ := s
  have h1 : v (wr (modPwr n fun p => { p with step := k }) Rg.pwrStatusShed k) = v n := (h.status _ _ _ rfl (by decide)).trans (h.pwr n k n.pwr.cntTick n.pwr.halting n.pwr.haltStage)
  have h2 : v (if mget? n.pwr.revTick k = some t.tick then wr (modPwr n fun p => { p with step := k }) Rg.pwrStatusShed k
      else bump (wr (modPwr n fun p => { p with step := k }) Rg.pwrStatusShed k) (Rg.pwrShedCountEntries (k - 1)) 1) = v n := by
    split
    · exact h1
    · exact (h.counts _ _ _ (by simp only; omega) (by simp only; omega)).trans h1
  unfold Machine.enterStep
  dsimp only
  split
  · exact (h.beginHalt _ _ _).trans ((h.sees.stepAction _ _ _).trans ((h.countEntry hk _ _).trans h2))
  · exact (h.sees.stepAction _ _ _).trans ((h.countEntry hk _ _).trans h2)

end

section

variable {n : Node} {t : Tck} {c k i : Nat}

/-! The entries that a register counts stand beside its ticks. -/

theorem rd_ticks_entries (n : Node) (a b x : Nat) : rd (bump n (Rg.pwrShedCountTicks a) x) (Rg.pwrShedCountEntries b) = rd n (Rg.pwrShedCountEntries b) := by
  by_cases hab : a = b
  · subst hab
    exact rd_wr_field _ _ _ _ rfl (by simp only; omega) (by simp only; omega)
  · exact rd_wr_off _ _ _ _ (by simp only; omega)

theorem rd_countStep_entries (u : Nat) (n : Node) (a b : Nat) : rd (countStep u n a) (Rg.pwrShedCountEntries b) = rd n (Rg.pwrShedCountEntries b) := by
  unfold countStep
  split
  · rfl
  · split
    · rfl
    · exact rd_ticks_entries n (a - 1) b _

theorem rd_countEntry_entries (n : Node) (a b : Nat) : rd (countEntry t n a) (Rg.pwrShedCountEntries b) = rd n (Rg.pwrShedCountEntries b) := by
  unfold countEntry
  split
  · rfl
  · exact rd_ticks_entries n (a - 1) b _

theorem rd_countStep_status {f : Fld} (hf : f.off = 0x1000000) (u : Nat) (n : Node) (a : Nat) : rd (countStep u n a) f = rd n f := by
  unfold countStep
  split
  · rfl
  · split
    · rfl
    · exact rd_wr_off n (Rg.pwrShedCountTicks (a - 1)) f _ (by simp only; omega)

theorem rd_countEntry_status {f : Fld} (hf : f.off = 0x1000000) (n : Node) (a : Nat) : rd (countEntry t n a) f = rd n f := by
  unfold countEntry
  split
  · rfl
  · exact rd_wr_off n (Rg.pwrShedCountTicks (a - 1)) f _ (by simp only; omega)

theorem countStep_pwr (u : Nat) (n : Node) (a : Nat) : ∃ m, (countStep u n a).pwr = { n.pwr with cntTick := m } := by
  unfold countStep
  split
  · exact ⟨n.pwr.cntTick, rfl⟩
  · split
    · exact ⟨n.pwr.cntTick, rfl⟩
    · exact ⟨_, rfl⟩

theorem countEntry_pwr (n : Node) (a : Nat) : ∃ m, (countEntry t n a).pwr = { n.pwr with cntTick := m } := by
  unfold countEntry
  split
  · exact ⟨n.pwr.cntTick, rfl⟩
  · exact ⟨_, rfl⟩

/-- Counting the ticks of the steps in force touches the power manager's counts alone (R399). -/
theorem countSteps_pwr (u : Nat) (n : Node) : ∃ m, (countSteps u n).pwr = { n.pwr with cntTick := m } := by
  unfold countSteps
  generalize (List.range n.pwr.step).map (· + 1) = l
  induction l generalizing n with
  | nil => exact ⟨n.pwr.cntTick, rfl⟩
  | cons a l ih =>
    obtain ⟨m, hm⟩ := countStep_pwr u n a
    obtain ⟨m', hm'⟩ := ih (countStep u n a)
    exact ⟨m', by rw [List.foldl_cons, hm', hm]⟩

theorem rd_countSteps_entries (u : Nat) (n : Node) (b : Nat) : rd (countSteps u n) (Rg.pwrShedCountEntries b) = rd n (Rg.pwrShedCountEntries b) :=
  foldl_keeps (rd · (Rg.pwrShedCountEntries b)) (fun _ _ => rd_countStep_entries _ _ _ _) _ n

theorem rd_countSteps_status {f : Fld} (hf : f.off = 0x1000000) (u : Nat) (n : Node) : rd (countSteps u n) f = rd n f :=
  foldl_keeps (rd · f) (fun _ _ => rd_countStep_status hf _ _ _) _ n

theorem countSteps_fe (u : Nat) (n : Node) : (countSteps u n).fe = n.fe := by
  refine foldl_keeps (·.fe) (fun m a => ?_) _ n
  unfold countStep
  split
  · rfl
  · split <;> rfl

/-! ## Halts that begin -/

/-- The clock of a node that holds no upstream (R401). -/
def unheld (t : Tck) : Tck := toHoldover { t with upstream := none }

/-- The node whose halt has begun (R400). -/
def haltBegun (c : Nat) (n : Node) : Node := wr (modPwr n fun p => { p with halting := some c, haltStage := 0 }) Rg.pwrStatusHaltCause c

theorem beginHalt_begins (hs : stopped n = false) : beginHalt c t n = (unheld t, haltBegun c n) := by
  rw [beginHalt, if_neg (by rw [hs]; decide)]
  rfl

theorem unheld_time (t : Tck) : (unheld t).now = t.now ∧ (unheld t).cur = t.cur := by
  unfold unheld toHoldover
  split <;> exact ⟨rfl, rfl⟩

theorem unheld_upstream (t : Tck) : (unheld t).upstream = none := by
  unfold unheld toHoldover
  split <;> rfl

theorem unheld_locked (h : t.state = .locked) : (unheld t).state = .holdover := by
  have hl : (({ t with upstream := none } : Tck).state == .locked) = true := by simp [h]
  rw [unheld, toHoldover, if_pos hl]

theorem rd_haltBegun_cause (hc : c < 8) (n : Node) : rd (haltBegun c n) Rg.pwrStatusHaltCause = c := (rd_wr_self _ _ _ (by decide)).trans (Nat.mod_eq_of_lt hc)
theorem rd_haltBegun {f : Fld} (hf : f.off = 0x1000000 → f.lo + f.w ≤ 7) (n : Node) : rd (haltBegun c n) f = rd n f := by
  by_cases he : f.off = 0x1000000
  · have := hf he
    exact rd_wr_field (modPwr n _) Rg.pwrStatusHaltCause f c he (by omega) (by simp only; omega)
  · exact rd_wr_off (modPwr n _) Rg.pwrStatusHaltCause f c (by simp only; omega)

/-! ## Steps entered -/

/-- The node that has entered step `k`, but for the halt of step 6 (R398, R399). -/
def stepEntered (t : Tck) (n : Node) (k : Nat) : Node :=
  stepAction k t (countEntry t (if mget? n.pwr.revTick k = some t.tick then wr (modPwr n fun p => { p with step := k }) Rg.pwrStatusShed k
    else bump (wr (modPwr n fun p => { p with step := k }) Rg.pwrStatusShed k) (Rg.pwrShedCountEntries (k - 1)) 1) k)

theorem enterStep_eq (c : Nat) (t : Tck) (n : Node) (k : Nat) : enterStep c (t, n) k = if k = 6 then beginHalt c t (stepEntered t n k) else (t, stepEntered t n k) := rfl

theorem stepEntered_pwr (t : Tck) (n : Node) (k : Nat) : ∃ m, (stepEntered t n k).pwr = { n.pwr with step := k, cntTick := m } := by
  obtain ⟨m, hm⟩ := countEntry_pwr (t := t) (if mget? n.pwr.revTick k = some t.tick then wr (modPwr n fun p => { p with step := k }) Rg.pwrStatusShed k
    else bump (wr (modPwr n fun p => { p with step := k }) Rg.pwrStatusShed k) (Rg.pwrShedCountEntries (k - 1)) 1) k
  refine ⟨m, (PowerSees.pwr.stepAction k t _).trans (hm.trans ?_)⟩
  split <;> rfl

theorem rd_stepEntered_shed (hk : k < 8) : rd (stepEntered t n k) Rg.pwrStatusShed = k := by
  rw [stepEntered, (PowerSees.rd (g := Rg.pwrStatusShed) ⟨by decide, by decide⟩).stepAction, rd_countEntry_status rfl]
  have hw : rd (wr (modPwr n fun p => { p with step := k }) Rg.pwrStatusShed k) Rg.pwrStatusShed = k := (rd_wr_self _ _ _ (by decide)).trans (Nat.mod_eq_of_lt hk)
  split
  · exact hw
  · exact (rd_wr_off _ (Rg.pwrShedCountEntries (k - 1)) _ _ (by simp only; omega)).trans hw

/-- A step newly entered counts one entry, no other step does (R399). -/
theorem rd_stepEntered_entries (h1 : 1 ≤ k) (h6 : k ≤ 6) (hi : 1 ≤ i) (hi6 : i ≤ 6) (hr : mget? n.pwr.revTick i ≠ some t.tick) : rd (stepEntered t n k) (Rg.pwrShedCountEntries (i - 1)) =
    if i = k then satTo 16 (rd n (Rg.pwrShedCountEntries (i - 1)) + 1) else rd n (Rg.pwrShedCountEntries (i - 1)) := by
  have hpower : PowerReg (Rg.pwrShedCountEntries (i - 1)) := by
    simp only [PowerReg]
    omega
  have hw : rd (wr (modPwr n fun p => { p with step := k }) Rg.pwrStatusShed k) (Rg.pwrShedCountEntries (i - 1)) = rd n (Rg.pwrShedCountEntries (i - 1)) := rd_wr_off (modPwr n _) Rg.pwrStatusShed _ _ (by simp only; omega)
  rw [stepEntered, (PowerSees.rd hpower).stepAction, rd_countEntry_entries]
  by_cases he : i = k
  · subst he
    rw [if_pos rfl, if_neg hr, rd_bump_self _ _ _ (by simp only; omega), hw]
  · rw [if_neg he]
    split
    · exact hw
    · exact (rd_wr_off _ (Rg.pwrShedCountEntries (k - 1)) _ _ (by simp only; omega)).trans hw

/-! ## Descents -/

/-- The steps entered on the way from step `p` down to step `k`. -/
def ladder (p k : Nat) : List Nat := ((List.range 6).map (· + 1)).filter fun i => p < i && i ≤ k

theorem ladder_succ : ∀ p ≤ 6, ∀ k < 6, ladder p (k + 1) = if p ≤ k then ladder p k ++ [k + 1] else ladder p k := by decide
theorem ladder_zero : ∀ p ≤ 6, ladder p 0 = [] := by decide

/-- What a descent to step `k` leaves of a node, but for the halt of step 6 (R398, R399). -/
structure Descended (t : Tck) (n : Node) (k : Nat) (m : Node) : Prop where
  pwr : ∃ x, m.pwr = { n.pwr with step := max n.pwr.step k, cntTick := x }
  shed : rd m Rg.pwrStatusShed = if n.pwr.step < k then k else rd n Rg.pwrStatusShed
  entries : ∀ i, 1 ≤ i → i ≤ 6 → mget? n.pwr.revTick i ≠ some t.tick → rd m (Rg.pwrShedCountEntries (i - 1)) =
    if n.pwr.step < i ∧ i ≤ k then satTo 16 (rd n (Rg.pwrShedCountEntries (i - 1)) + 1) else rd n (Rg.pwrShedCountEntries (i - 1))

theorem Descended.none (t : Tck) (n : Node) : Descended t n 0 n := by
  refine ⟨⟨n.pwr.cntTick, by rw [Nat.max_eq_left (Nat.zero_le _)]⟩, ?_, fun i h1 _ _ => ?_⟩
  · rw [if_neg (by omega)]
  · rw [if_neg (by omega)]

/-- One step more. -/
theorem Descended.enter (hk : k < 6) (hp : n.pwr.step ≤ k) {m : Node} (h : Descended t n k m) : Descended t n (k + 1) (stepEntered t m (k + 1)) := by
  obtain ⟨⟨x, hx⟩, -, he⟩ := h
  obtain ⟨y, hy⟩ := stepEntered_pwr t m (k + 1)
  refine ⟨⟨y, ?_⟩, ?_, fun i h1 h6 hr => ?_⟩
  · rw [hy, hx, Nat.max_eq_right (a := n.pwr.step) (b := k + 1) (by omega)]
  · rw [rd_stepEntered_shed (by omega), if_pos (by omega)]
  · have hrm : mget? m.pwr.revTick i ≠ some t.tick := by rw [hx]; exact hr
    rw [rd_stepEntered_entries (by omega) (by omega) h1 h6 hrm, he i h1 h6 hr]
    by_cases hik : i = k + 1
    · rw [if_pos hik, if_neg (by omega), if_pos (by omega)]
    · rw [if_neg hik]
      exact if_congr (by omega) rfl rfl

/-- Nothing is entered on the way to a step in force. -/
theorem Descended.stay (hp : k < n.pwr.step) {m : Node} (h : Descended t n k m) : Descended t n (k + 1) m := by
  obtain ⟨⟨x, hx⟩, hs, he⟩ := h
  refine ⟨⟨x, ?_⟩, ?_, fun i h1 h6 hr => ?_⟩
  · rw [hx, Nat.max_eq_left (b := k) (by omega), Nat.max_eq_left (b := k + 1) (by omega)]
  · rw [hs, if_neg (by omega), if_neg (by omega)]
  · rw [he i h1 h6 hr]
    exact if_congr (by omega) rfl rfl

/-- A descent enters each step on its way and begins the halt of step 6 (R398, R400). -/
theorem enterTo_descends (c : Nat) (t : Tck) (n : Node) (hp : n.pwr.step ≤ 6) (hk : k ≤ 6) :
    ∃ m, Descended t n k m ∧ enterTo c k t n = if n.pwr.step < 6 ∧ k = 6 then beginHalt c t m else (t, m) := by
  have hto : ∀ k, enterTo c k t n = (ladder n.pwr.step k).foldl (enterStep c) (t, n) := fun _ => rfl
  induction k with
  | zero => exact ⟨n, .none t n, by rw [hto, ladder_zero _ hp, if_neg (by omega)]; rfl⟩
  | succ k ih =>
    obtain ⟨m, hm, he⟩ := ih (by omega)
    rw [if_neg (by omega), hto] at he
    rw [hto, ladder_succ _ hp k (by omega)]
    by_cases hpk : n.pwr.step ≤ k
    · refine ⟨stepEntered t m (k + 1), hm.enter (by omega) hpk, ?_⟩
      rw [if_pos hpk, List.foldl_append, he, List.foldl_cons, List.foldl_nil, enterStep_eq]
      exact if_congr (by omega) rfl rfl
    · refine ⟨m, hm.stay (by omega), ?_⟩
      rw [if_neg hpk, he, if_neg (by omega)]

theorem LadderBlind.enterTo {β : Type} {v : Node → β} (h : LadderBlind v) (c k : Nat) (t : Tck) (n : Node) : v (enterTo c k t n).2 = v n := by
  have hl : ∀ l : List Nat, (∀ i ∈ l, i ≤ 6) → ∀ s : Tck × Node, v (l.foldl (Machine.enterStep c) s).2 = v s.2 := by
    intro l
    induction l with
    | nil => exact fun _ _ => rfl
    | cons a l ih => exact fun hl s => (ih (fun i hi => hl i (by simp [hi])) _).trans (h.enterStep (hl a (by simp)) c s)
  refine hl _ (fun i hi => ?_) (t, n)
  simp only [List.mem_filter, List.mem_map, List.mem_range] at hi
  omega

/-! ## A halt's own state -/

theorem rd_beginHalt {f : Fld} (hf : f.off = 0x1000000 → f.lo + f.w ≤ 7) (c : Nat) (t : Tck) (n : Node) : rd (beginHalt c t n).2 f = rd n f := by
  unfold beginHalt
  split
  · rfl
  · exact rd_haltBegun hf n

theorem beginHalt_step (c : Nat) (t : Tck) (n : Node) : (beginHalt c t n).2.pwr.step = n.pwr.step := by
  unfold beginHalt
  split <;> rfl

theorem beginHalt_time (c : Nat) (t : Tck) (n : Node) : (beginHalt c t n).1.now = t.now ∧ (beginHalt c t n).1.cur = t.cur := by
  unfold beginHalt
  split
  · exact ⟨rfl, rfl⟩
  · exact unheld_time t

/-! ## Windows (R397, R398) -/

theorem wrapInt_toInt (x : BitVec 16) : wrapInt 16 x.toInt = x.toNat := by
  have := x.isLt
  unfold wrapInt
  rw [BitVec.toInt_eq_toNat_cond]
  split <;> omega

theorem noteSag_frame (t : Tck) (sag : Int) (p : Pwr) : (noteSag t sag p).sag = sag ∧ (noteSag t sag p).step = p.step ∧ (noteSag t sag p).revTick = p.revTick ∧ (noteSag t sag p).halting = p.halting ∧ (noteSag t sag p).haltN = p.haltN := by
  unfold noteSag
  dsimp only
  split <;> exact ⟨rfl, rfl, rfl, rfl, rfl⟩

/-- The node that shows a window's sag, before the steps it enters. -/
def sagShown (sag : Int) (t : Tck) (n : Node) : Node :=
  modPwr (wr (wr (countSteps t.tick n) Rg.pwrSagSag (wrapInt 16 sag)) Rg.pwrSagLeast (wrapInt 16 (min (signed 16 (rd n Rg.pwrSagLeast)) sag))) (noteSag t sag)

theorem sagShown_pwr (sag : Int) (t : Tck) (n : Node) : (sagShown sag t n).pwr.sag = sag ∧ (sagShown sag t n).pwr.step = n.pwr.step ∧ (sagShown sag t n).pwr.revTick = n.pwr.revTick ∧ stopped (sagShown sag t n) = stopped n := by
  obtain ⟨x, hx⟩ := countSteps_pwr t.tick n
  obtain ⟨h1, h2, h3, h4, h5⟩ := noteSag_frame t sag (countSteps t.tick n).pwr
  refine ⟨h1, h2.trans (by rw [hx]), h3.trans (by rw [hx]), ?_⟩
  unfold stopped
  rw [show (sagShown sag t n).pwr.halting = (countSteps t.tick n).pwr.halting from h4, show (sagShown sag t n).pwr.haltN = (countSteps t.tick n).pwr.haltN from h5, hx]

theorem rd_sagShown_sag (x : BitVec 16) (t : Tck) (n : Node) : rd (sagShown x.toInt t n) Rg.pwrSagSag = x.toNat := by
  refine (rd_wr_field (wr (countSteps t.tick n) Rg.pwrSagSag (wrapInt 16 x.toInt)) Rg.pwrSagLeast Rg.pwrSagSag _ rfl (by decide) (by decide)).trans ?_
  rw [rd_wr_self _ _ _ (by decide), wrapInt_toInt, Nat.mod_eq_of_lt x.isLt]

theorem rd_sagShown {f : Fld} (hf : f.off ≠ 0x1000004) (sag : Int) (t : Tck) (n : Node) : rd (sagShown sag t n) f = rd (countSteps t.tick n) f :=
  (rd_wr_off _ Rg.pwrSagLeast f _ (by simp only; omega)).trans (rd_wr_off _ Rg.pwrSagSag f _ (by simp only; omega))

/-- The steps whose threshold a sag reaches. -/
def reached (sag : Int) : Nat := (((List.range 6).map (· + 1)).filter fun i => sag ≤ shedAt i).length

theorem reached_le (sag : Int) : reached sag ≤ 6 := List.length_filter_le _ _

theorem reached_eq (sag : Int) : reached sag = ((List.range 6).filter fun i => sag ≤ shedAt (i + 1)).length := by
  rw [reached, List.filter_map, List.length_map]
  rfl

theorem sagWindow_eq (sag : Int) (fail : Bool) (t : Tck) (n : Node) : sagWindow sag fail t n = enterTo (if fail || n.pwr.failN then 2 else 1) (reached sag) t (sagShown sag t n) := rfl

theorem Descended.stopped_eq {m : Node} (h : Descended t n k m) : stopped m = stopped n := by
  obtain ⟨⟨x, hx⟩, -, -⟩ := h
  unfold stopped
  rw [hx]

/-- A descent leaves the clock but where it begins the halt of step 6 (R400, R401). -/
theorem descent_clock {m : Node} {d : Tck × Node} (hd : d = if n.pwr.step < 6 ∧ k = 6 then beginHalt c t m else (t, m)) : (d.1.now = t.now ∧ d.1.cur = t.cur) ∧ (k ≤ n.pwr.step → d.1 = t) := by
  subst hd
  by_cases h6 : n.pwr.step < 6 ∧ k = 6
  · rw [if_pos h6]
    exact ⟨beginHalt_time c t m, fun _ => by omega⟩
  · rw [if_neg h6]
    exact ⟨⟨rfl, rfl⟩, fun _ => rfl⟩

theorem rd_descent {f : Fld} (hf : f.off = 0x1000000 → f.lo + f.w ≤ 7) {m : Node} {d : Tck × Node} (hd : d = if n.pwr.step < 6 ∧ k = 6 then beginHalt c t m else (t, m)) : rd d.2 f = rd m f := by
  subst hd
  split
  · exact rd_beginHalt hf c t m
  · rfl

theorem descent_step {m : Node} {d : Tck × Node} (hm : Descended t n k m) (hd : d = if n.pwr.step < 6 ∧ k = 6 then beginHalt c t m else (t, m)) : d.2.pwr.step = max n.pwr.step k := by
  obtain ⟨⟨x, hx⟩, -, -⟩ := hm
  have hs : m.pwr.step = max n.pwr.step k := by rw [hx]
  subst hd
  split
  · exact (beginHalt_step c t m).trans hs
  · exact hs

/-- Step 6 halts a node that has not stopped (R400, R401). -/
theorem descent_halts {m : Node} {d : Tck × Node} (hm : Descended t n 6 m) (hd : d = if n.pwr.step < 6 ∧ 6 = 6 then beginHalt c t m else (t, m)) (hp : n.pwr.step < 6) (hs : stopped n = false) : d = (unheld t, haltBegun c m) := by
  rw [hd, if_pos ⟨hp, rfl⟩, beginHalt_begins (hm.stopped_eq.trans hs)]

theorem sagWindow_acts (s : State) (sag : BitVec 16) (fail : Bool) (k : Nat) (hk : k = ((List.range 6).filter fun i => sag.toInt ≤ shedAt (i + 1)).length) (hp : s.node.pwr.step ≤ 6) :
    ∃ t : State, exec (.sagWindow sag fail) s = .next t ∧ t.node.pwr.step = max s.node.pwr.step k ∧ rd t.node Rg.pwrSagSag = sag.toNat ∧ t.node.pwr.sag = sag.toInt ∧ t.tck.now = s.tck.now ∧ t.tck.cur = s.tck.cur
        ∧ (s.node.pwr.step < k → rd t.node Rg.pwrStatusShed = k) ∧ (k ≤ s.node.pwr.step → t.tck = s.tck ∧ rd t.node Rg.pwrStatusShed = rd s.node Rg.pwrStatusShed)
        ∧ (∀ i, 1 ≤ i → i ≤ 6 → mget? s.node.pwr.revTick i ≠ some s.tck.tick → rd t.node (Rg.pwrShedCountEntries (i - 1)) =
            if s.node.pwr.step < i ∧ i ≤ k then satTo 16 (rd s.node (Rg.pwrShedCountEntries (i - 1)) + 1) else rd s.node (Rg.pwrShedCountEntries (i - 1)))
        ∧ (k = 6 → s.node.pwr.step < 6 → stopped s.node = false → t.node.pwr.halting = some (if fail || s.node.pwr.failN then 2 else 1) ∧ t.tck.upstream = none ∧ (s.tck.state = .locked → t.tck.state = .holdover)) := by
  rw [← reached_eq] at hk
  obtain ⟨hsag, hstep, hrev, hstop⟩ := sagShown_pwr sag.toInt s.tck s.node
  have hk6 : k ≤ 6 := hk ▸ reached_le sag.toInt
  have hexec : exec (.sagWindow sag fail) s = .next { s with tck := (sagWindow sag.toInt fail s.tck s.node).1, node := (sagWindow sag.toInt fail s.tck s.node).2 } := rfl
  rw [sagWindow_eq, ← hk] at hexec
  have hview : ∀ {β : Type} {v : Node → β}, LadderBlind v → v (enterTo (if fail || s.node.pwr.failN then 2 else 1) k s.tck (sagShown sag.toInt s.tck s.node)).2 = v (sagShown sag.toInt s.tck s.node) := fun h => h.enterTo _ _ _ _
  obtain ⟨m, hm, hd⟩ := enterTo_descends (if fail || s.node.pwr.failN then 2 else 1) s.tck (sagShown sag.toInt s.tck s.node) (k := k) (hstep.le.trans hp) hk6
  obtain ⟨⟨hnow, hcur⟩, hsame⟩ := descent_clock hd
  have hshed := (rd_descent (f := Rg.pwrStatusShed) (fun _ => by decide) hd).trans hm.shed
  rw [hstep] at hsame hshed
  have hbase : ∀ f : Fld, f.off ≠ 0x1000004 → rd (sagShown sag.toInt s.tck s.node) f = rd (countSteps s.tck.tick s.node) f := fun f hf => rd_sagShown hf _ _ _
  refine ⟨_, hexec, (descent_step hm hd).trans (by rw [hstep]), (hview (.rdSag rfl)).trans (rd_sagShown_sag _ _ _), (hview .sag).trans hsag, hnow, hcur, fun h => hshed.trans (if_pos h),
    fun h => ⟨hsame h, hshed.trans ?_⟩, fun i h1 h6 hr => ?_, fun he h6 hs => ?_⟩
  · rw [if_neg (by omega), hbase _ (by decide), rd_countSteps_status rfl]
  · refine (rd_descent (f := Rg.pwrShedCountEntries (i - 1)) (fun h => by simp only at h; omega) hd).trans ((hm.entries i h1 h6 (by rwa [hrev])).trans ?_)
    rw [hstep, hbase _ (by simp only; omega), rd_countSteps_entries]
  · subst he
    simp only [descent_halts hm hd (by omega) (hstop.trans hs)]
    exact ⟨rfl, unheld_upstream _, unheld_locked⟩

theorem pwrFailN_acts (s : State) (hp : s.node.pwr.step < 6) (hs : stopped s.node = false) : ∃ t : State, exec .pwrFailN s = .next t ∧ t.node.pwr.step = 6 ∧ t.node.pwr.failN = true ∧ rd t.node Rg.pwrStatusPwrFail = 1
        ∧ t.node.pwr.halting = some 2 ∧ rd t.node Rg.pwrStatusHaltCause = 2 ∧ t.tck.upstream = none ∧ t.node.fe = s.node.fe := by
  obtain ⟨x, hx⟩ := countSteps_pwr s.tck.tick s.node
  let b := wr (modPwr (countSteps s.tck.tick s.node) fun p => { p with failN := true }) Rg.pwrStatusPwrFail 1
  have hstep : b.pwr.step = s.node.pwr.step := (congrArg Pwr.step hx :)
  have hstop : stopped b = false := by
    refine Eq.trans ?_ hs
    change (Option.isSome (countSteps s.tck.tick s.node).pwr.halting || Option.isSome (countSteps s.tck.tick s.node).pwr.haltN) = _
    rw [hx]
    rfl
  have hview : ∀ {β : Type} {v : Node → β}, LadderBlind v → v (enterTo 2 6 s.tck b).2 = v b := fun h => h.enterTo _ _ _ _
  obtain ⟨m, hm, hd⟩ := enterTo_descends 2 s.tck b (k := 6) (by omega) le_rfl
  have hexec : exec .pwrFailN s = .next { s with tck := (enterTo 2 6 s.tck b).1, node := (enterTo 2 6 s.tck b).2 } := rfl
  have hh := descent_halts hm hd (by omega) hstop
  have hhalt : (enterTo 2 6 s.tck b).2.pwr.halting = some 2 ∧ rd (enterTo 2 6 s.tck b).2 Rg.pwrStatusHaltCause = 2 ∧ (enterTo 2 6 s.tck b).1.upstream = none := by
    rw [hh]
    exact ⟨rfl, rd_haltBegun_cause (by decide) m, unheld_upstream _⟩
  obtain ⟨hhalting, hcause, hup⟩ := hhalt
  exact ⟨_, hexec, (descent_step hm hd).trans (Nat.max_eq_right (by omega)), hview .failN, (hview .rdFail).trans (rd_wr_self _ _ _ (by decide)), hhalting, hcause, hup,
    (hview .fe).trans (countSteps_fe _ _)⟩

theorem pwrFailNRelease_acts (s : State) : ∃ N : Node, exec .pwrFailNRelease s = .next (s.withNode N) ∧ N.pwr = { s.node.pwr with failN := false } ∧ rd N Rg.pwrStatusPwrFail = 0 ∧ rd N Rg.pwrStatusShed = rd s.node Rg.pwrStatusShed :=
  ⟨pwrFailRelease s.node, rfl, rfl, rd_wr_self _ _ _ (by decide), rd_wr_field (modPwr s.node _) Rg.pwrStatusPwrFail Rg.pwrStatusShed _ rfl (by decide) (by decide)⟩

/-! ## Reversals (R399) -/

/-- What a step leaves that is left alone (R399). -/
theorem leaveStep_leaves (t : Tck) (n : Node) (h6 : k ≤ 6) : (leaveStep t n k).pwr.step = k - 1 ∧ rd (leaveStep t n k) Rg.pwrStatusShed = k - 1 ∧ mget? (leaveStep t n k).pwr.revTick k = some t.tick ∧ (leaveStep t n k).fe = n.fe ∧ (leaveStep t n k).t1 = n.t1 := by
  refine ⟨rfl, (rd_wr_self _ _ _ (by decide)).trans (Nat.mod_eq_of_lt (by simp only; omega)), mget?_mset_self _ _ _, ?_, ?_⟩
  · exact LadderBlind.fe.countStep h6 _ _
  · unfold leaveStep countStep
    split
    · rfl
    · split <;> rfl

theorem shedReversal_acts (s : State) (h1 : 1 ≤ s.node.pwr.step) (h5 : s.node.pwr.step ≤ 5) :
      (reversible s.tck s.node s.node.pwr.step = true → ∃ N : Node, exec .shedReversal s = .next (s.withNode N) ∧ N.pwr.step = s.node.pwr.step - 1 ∧ rd N Rg.pwrStatusShed = s.node.pwr.step - 1
        ∧ mget? N.pwr.revTick s.node.pwr.step = some s.tck.tick ∧ N.fe = s.node.fe)
      ∧ ((s.tck.notch ≠ 0 ∨ lastTickMin s.tck s.node.pwr ≤ shedBack s.node.pwr.step) → exec .shedReversal s = .next s) := by
  have hexec : exec .shedReversal s = .next (s.withNode (shedReversal s.tck s.node)) := rfl
  constructor
  · intro hr
    obtain ⟨hstep, hshed, hrev, hfe, -⟩ := leaveStep_leaves (k := s.node.pwr.step) s.tck s.node (by omega)
    unfold shedReversal at hexec
    dsimp only at hexec
    rw [hr, if_neg (by simp; omega)] at hexec
    split at hexec
    · rename_i h4
      obtain ⟨b, hb⟩ := startMovers_shape 8 (if iodHot (leaveStep s.tck s.node s.node.pwr.step) then leaveStep s.tck s.node s.node.pwr.step else portsBack (leaveStep s.tck s.node s.node.pwr.step))
      have hview : ∀ {β : Type} {v : Node → β}, PowerSees v → v (if iodHot (leaveStep s.tck s.node s.node.pwr.step) then leaveStep s.tck s.node s.node.pwr.step else portsBack (leaveStep s.tck s.node s.node.pwr.step)) = v (leaveStep s.tck s.node s.node.pwr.step) := by
        intro β v h
        split
        · rfl
        · exact h.portsBack _
      rw [hb] at hexec
      exact ⟨_, hexec, (congrArg Pwr.step (hview .pwr)).trans hstep, (hview (.rd ⟨by decide, by decide⟩)).trans hshed, (congrArg (fun p : Pwr => mget? p.revTick s.node.pwr.step) (hview .pwr)).trans hrev, (hview .fe).trans hfe⟩
    · exact ⟨_, hexec, hstep, hshed, hrev, hfe⟩
  · intro h
    have hr : reversible s.tck s.node s.node.pwr.step = false := by
      unfold reversible
      obtain h | h := h
      · simp [h]
      · simp [not_lt.mpr h]
    rw [hexec]
    unfold shedReversal
    simp [hr, State.withNode]

/-! ## Halts (R400) -/

/-- Taking the commands out of the engines changes nothing that a completion entry goes by. -/
theorem postEntry_quiet (t : Tck) (n : Node) (keep : Option Nat) (k : Nat) (q : Cq) (e : Bytes) : postEntry t (quiet n keep) k q e = quiet (postEntry t n k q e) keep := by
  have hrd : ∀ f, rd (quiet n keep) f = rd n f := fun _ => rfl
  have hrdB : ∀ f, rdB (quiet n keep) f = rdB n f := fun _ => rfl
  unfold postEntry
  dsimp only
  rw [hrdB, hrd, hrd]
  cases hr : q.remote with
  | true =>
    simp only [Bool.not_true, Bool.false_and, if_true, Bool.false_eq_true, if_false]
    cases q.owner <;> rfl
  | false =>
    split
    · cases ho : q.owner <;> simp only [signalCq] <;> rfl
    · rfl

theorem complete_quiet (t : Tck) (n : Node) (keep : Option Nat) (h st : Nat) (r : Bytes) :
    (complete t (quiet n keep) h st r).fe = (complete t n h st r).fe ∧ (complete t (quiet n keep) h st r).hmem = (complete t n h st r).hmem := by
  have hf : findCmd (quiet n keep) h = findCmd n h := rfl
  have hq : (quiet n keep).fe.cqs = n.fe.cqs := rfl
  unfold complete
  rw [hf, hq]
  cases findCmd n h with
  | none => exact ⟨rfl, rfl⟩
  | some c =>
    dsimp only
    cases mget? n.fe.cqs c.cq with
    | none => exact ⟨rfl, rfl⟩
    | some q =>
      dsimp only
      rw [postEntry_quiet]
      simp only [retireCmd, writeTrace_fe, writeTrace_hmem]
      exact ⟨rfl, rfl⟩

theorem halt_settles (s : State) (c : Nat) (hc : s.node.pwr.halting = some c) (h0 : s.node.pwr.haltStage = 0) : ∃ N : Node, exec (.halt .settle) s = .next (s.withNode N) ∧ N.fe.cmds = []
          ∧ (∀ x : Cmd, s.node.fe.cmds = [x] → N.fe = (complete s.tck s.node x.handle stStateLost []).fe ∧ N.hmem = (complete s.tck s.node x.handle stStateLost []).hmem) ∧ N.att.items = [] ∧ N.cfl.chains = [] ∧ N.ter.moves = [] ∧ N.sec.store = s.node.sec.store ∧ N.pwr.haltStage = 1 ∧ N.pwr.halting = some c := by
  have hexec : exec (.halt .settle) s = .next (s.withNode (halt .settle s.tck s.node)) := rfl
  rw [show halt .settle s.tck s.node = modPwr (endAll s.tck s.node none stStateLost) fun p => { p with haltStage := 1 } by simp only [halt, hc, h0]] at hexec
  have hview : ∀ {β : Type} (g : Node → β), (∀ m k x b, g (complete s.tck m k x b) = g m) → g (endAll s.tck s.node none stStateLost) = g (quiet s.node none) := fun g h => endAll_frame g h none
  have hall : (s.node.fe.cmds.filter fun d => none != some d.handle) = s.node.fe.cmds := List.filter_eq_self.mpr fun _ _ => rfl
  refine ⟨_, hexec, ?_, fun x hx => ?_, congrArg Att.items (hview (·.att) fun _ _ _ _ => complete_att _ _ _ _ _), congrArg Cfl.chains (hview (·.cfl) fun _ _ _ _ => complete_cfl _ _ _ _ _),
    congrArg Ter.moves (hview (·.ter) fun _ _ _ _ => complete_ter _ _ _ _ _), (congrArg Sec.store (hview (·.sec) fun _ _ _ _ => complete_sec _ _ _ _ _) :), rfl,
    (congrArg Pwr.halting (hview (·.pwr) fun _ _ _ _ => complete_pwr _ _ _ _ _)).trans hc⟩
  · refine (endAll_cmds none).trans ?_
    rw [hall, List.filter_eq_nil_iff]
    intro d hd
    rw [Bool.not_eq_true', Bool.not_eq_false, List.any_eq_true]
    exact ⟨d, hd, beq_self_eq_true _⟩
  · have hone : endAll s.tck s.node none stStateLost = complete s.tck (quiet s.node none) x.handle stStateLost [] := by
      rw [endAll, hall, hx]
      rfl
    rw [hone]
    exact complete_quiet _ _ _ _ _ _

/-! Power states shown in `PWR_STATUS`. -/

theorem rd_countState {f : Fld} (hf : f.off = 0x1000000) (t : Tck) (n : Node) : rd (countState t n) f = rd n f := by
  unfold countState
  dsimp only
  split
  · exact rd_wr_off n (Rg.pwrResNotches (rd n Rg.pwrStatusNstate)) f _ (by simp only; omega)
  · rfl

theorem rd_setState_nstate (hk : k < 8) (t : Tck) (n : Node) (w : Option Nat) : rd (setState t n k w) Rg.pwrStatusNstate = k :=
  (rd_wr_self (countState t n) Rg.pwrStatusNstate k (by decide)).trans (Nat.mod_eq_of_lt hk)

theorem rd_setState {f : Fld} (hf : f.off = 0x1000000) (hlo : 3 ≤ f.lo) (hw : f.lo + f.w ≤ 32) (t : Tck) (n : Node) (w : Option Nat) : rd (setState t n k w) f = rd n f :=
  (rd_wr_field (countState t n) Rg.pwrStatusNstate f k hf hw (by simp only; omega)).trans (rd_countState hf t n)

theorem setState_pwr (t : Tck) (n : Node) (w : Option Nat) : (setState t n k w).pwr = { n.pwr with since := t.now, wakeAt := w } := by
  unfold setState countState
  dsimp only
  split <;> rfl

theorem setState_t1 (t : Tck) (n : Node) (w : Option Nat) : (setState t n k w).t1 = n.t1 := by
  unfold setState countState
  dsimp only
  split <;> rfl

theorem halt_darkens (s : State) (c : Nat) (hc : s.node.pwr.halting = some c) (h1 : s.node.pwr.haltStage = 1) :
    ∃ N : Node, exec (.halt .dark) s = .next (s.withNode N) ∧ rd N Rg.pwrStatusNstate = 4 ∧ N.att.tables = [] ∧ N.pwr.haltStage = 2 ∧ N.pwr.halting = some c ∧ N.t1 = s.node.t1 := by
  have hexec : exec (.halt .dark) s = .next (s.withNode (halt .dark s.tck s.node)) := rfl
  rw [show halt .dark s.tck s.node = modPwr (diesOff (setState s.tck s.node 4 none)) fun p => { p with haltStage := 2 } by simp only [halt, hc, h1]] at hexec
  have hst : rd (setState s.tck s.node 4 none) Rg.pwrStatusNstate = 4 := rd_setState_nstate (by decide) _ _ _
  have hht : (setState s.tck s.node 4 none).pwr.halting = some c := by rw [setState_pwr, hc]
  have ht1 : (setState s.tck s.node 4 none).t1 = s.node.t1 := setState_t1 _ _ _
  exact ⟨_, hexec, hst, rfl, rfl, hht, ht1⟩

/-! ## The record of a halt -/

/-- An event of more than one record's bytes and no more than two's takes two slots (R438). -/
theorem program_two {e : Event} {supp : Nat} (hs : n.svc.slots.length + 2 ≤ evrSlots) (h8 : 8 < e.args.length) (h16 : e.args.length ≤ 16) :
    (program n e supp).svc.slots = n.svc.slots ++ [evrRecord n e n.svc.seqNext supp false (e.args.take 8), evrRecord n e ((n.svc.seqNext + 1) % 2 ^ 32) 0 true (e.args.drop 8)] := by
  obtain ⟨x, hx⟩ : ∃ x, e.args.length = x + 2 := ⟨e.args.length - 2, by omega⟩
  have hargs : evrArgs e.args = [e.args.take 8, e.args.drop 8] := by
    have hne : e.args.isEmpty = false := by rw [List.isEmpty_eq_false_iff]; exact List.ne_nil_of_length_pos (by omega)
    have hne' : (e.args.drop 8).isEmpty = false := by rw [List.isEmpty_eq_false_iff]; exact List.ne_nil_of_length_pos (by rw [List.length_drop]; omega)
    have hdone : chunksOf 8 x ([] : Bytes) = [] := by cases x <;> rfl
    rw [evrArgs, hne, if_neg (by decide), hx, chunksOf, hne, if_neg (by decide), chunksOf, hne', if_neg (by decide), List.take_of_length_le (l := e.args.drop 8) (by rw [List.length_drop]; omega), List.drop_eq_nil_of_le (as := e.args.drop 8) (by rw [List.length_drop]; omega), hdone]
  have hfirst : programOne e supp n (0, e.args.take 8) = modSvc n fun y => { y with slots := y.slots ++ [evrRecord n e y.seqNext supp false (e.args.take 8)], seqNext := (y.seqNext + 1) % 2 ^ 32 } :=
    if_neg (by omega)
  have hlen : ¬ evrSlots ≤ (modSvc n fun y => { y with slots := y.slots ++ [evrRecord n e y.seqNext supp false (e.args.take 8)], seqNext := (y.seqNext + 1) % 2 ^ 32 }).svc.slots.length := by
    simp only [modSvc, List.length_append, List.length_singleton]
    omega
  rw [program, if_neg (by omega), hargs]
  change (programOne e supp (programOne e supp n (0, e.args.take 8)) (1, e.args.drop 8)).svc.slots = _
  rw [hfirst, programOne, if_neg hlen]
  simp only [modSvc, List.append_assoc, List.singleton_append]
  rfl

theorem RecorderBlind.recordAll {β : Type} {g : Node → β} (b : RecorderBlind g) (ha : ∀ (n : Node) x, g { n with svc := { n.svc with arrivals := x } } = g n) (t : Tck) (n : Node) : g (recordAll t n) = g n := by
  have hsettle : g (settleEvents n) = g n := by
    unfold settleEvents
    dsimp only
    split
    · rfl
    · exact (b.bank _ _).trans (ha _ _)
  exact (foldl_keeps g (fun _ _ => b.takeEvent _ _ _) _ _).trans ((ha _ _).trans hsettle)

theorem recordAll_arrivals (t : Tck) (n : Node) : (recordAll t n).svc.arrivals = [] := foldl_keeps (·.svc.arrivals) (fun _ _ => RecorderBlind.arrivals.takeEvent _ _ _) _ _

theorem halt_records (s : State) (c : Nat) (hc : s.node.pwr.halting = some c) (h2 : s.node.pwr.haltStage = 2) :
    ∃ N : Node, exec (.halt .record) s = .next (s.withNode N) ∧ N.pwr.haltN = some s.tck.tick ∧ N.pwr.halting = none ∧ rd N Rg.pwrStatusHalted = 1 ∧ N.svc.arrivals = [] ∧ N.fe = s.node.fe
          ∧ (s.node.svc.arrivals = [] → s.node.svc.buffer.length < 64 → rdB s.node Rg.evrStatusClearing = false → s.node.svc.slots.length + 2 ≤ evrSlots → ∃ r q : Bytes, N.svc.slots = s.node.svc.slots ++ [r, q] ∧ field r 4 2 = evHalt) := by
  let args := leBytes 1 c ++ leBytes 2 (wrapInt 16 s.node.pwr.leastSag) ++ leBytes 1 s.node.pwr.hottest ++ leBytes 8 s.tck.tick
  let n1 := raise s.tck s.node evHalt args
  have hexec : exec (.halt .record) s = .next (s.withNode (halt .record s.tck s.node)) := rfl
  rw [show halt .record s.tck s.node = wr (modPwr (recordAll s.tck n1) fun p => { p with halting := none, haltStage := 0, haltN := some s.tck.tick }) Rg.pwrStatusHalted 1 by simp only [halt, hc, h2, n1, args]] at hexec
  refine ⟨_, hexec, rfl, rfl, rd_wr_self _ _ _ (by decide), recordAll_arrivals s.tck n1, RecorderBlind.fe.recordAll (fun _ _ => rfl) s.tck n1, fun ha hb hcl hs => ?_⟩
  let w := rd s.node Rg.evrRateWindow * unitsPerTick s.tck.cur
  let e : Event := ⟨evHalt, args, s.tck.now, s.tck.u, ambig w s.tck.now s.tck.u⟩
  have harr : n1.svc.arrivals = [e] := by
    change s.node.svc.arrivals ++ [e] = [e]
    rw [ha, List.nil_append]
  have hfit : settleEvents n1 = n1 := settleEvents_fits (by rw [harr, List.length_singleton]; change 1 ≤ 64 - s.node.svc.buffer.length; omega)
  let m := modSvc n1 fun x => { x with arrivals := [] }
  have hrec : recordAll s.tck n1 = takeEvent s.tck m e := by
    unfold recordAll
    simp only [hfit, harr, List.foldl_cons, List.foldl_nil]
    rfl
  have hlen : args.length = 12 := by simp [args, leBytes_length]
  have htake : takeEvent s.tck m e = program (modSvc (windowCounted s.tck m e) fun x => { x with supp := mdel x.supp e.code }) e (mgetD m.svc.supp e.code 0) := by
    rw [takeEvent_within (.inl (show unlimited evHalt = true by decide)), admitEvent_programs (n := windowCounted s.tck m e) hcl]
    rfl
  have hslots := program_two (n := modSvc (windowCounted s.tck m e) fun x => { x with supp := mdel x.supp e.code }) (e := e) (supp := mgetD m.svc.supp e.code 0) hs (hlen.ge.trans_lt' (by decide)) (hlen.le.trans (by decide))
  rw [← htake, ← hrec] at hslots
  exact ⟨_, _, hslots, (field_evrRecord_code _ e _ _ false _).trans (show evHalt % 2 ^ 16 = evHalt by decide)⟩

theorem haltReversal_reverses (s : State) (k : Nat) (hk : s.node.pwr.haltN = some k) (hlt : k < s.tck.tick) (hc : rd s.node Rg.pwrStatusHaltCause ≤ 2) (hf : s.node.pwr.failN = false) (hr : reversible s.tck s.node 6 = true) :
    ∃ N : Node, exec .haltReversal s = .next (s.withNode N) ∧ N.pwr.step = 5 ∧ rd N Rg.pwrStatusShed = 5 ∧ rd N Rg.pwrStatusNstate = 0 ∧ rd N Rg.pwrStatusHalted = 0 ∧ N.pwr.haltN = none ∧ N.t1 = s.node.t1 := by
  let m := setState s.tck (leaveStep s.tck s.node 6) 0 none
  let m1 := modPwr m fun p => { p with haltN := none }
  have hexec : exec .haltReversal s = .next (s.withNode (haltReversal s.tck s.node)) := rfl
  rw [show haltReversal s.tck s.node = wr (wr m1 Rg.pwrStatusHalted 0) Rg.pwrStatusHaltCause 0 by
    simp only [haltReversal, hk]
    rw [if_neg (by simp [hf, hr]; omega)]] at hexec
  obtain ⟨hstep, hshed, -, -, ht1⟩ := leaveStep_leaves (k := 6) s.tck s.node le_rfl
  have hrd : ∀ f : Fld, f.off = 0x1000000 → f.lo + f.w ≤ 6 → rd (wr (wr m1 Rg.pwrStatusHalted 0) Rg.pwrStatusHaltCause 0) f = rd m f := fun f hf hw =>
    (rd_wr_field (wr m1 Rg.pwrStatusHalted 0) Rg.pwrStatusHaltCause f 0 hf (by omega) (by simp only; omega)).trans (rd_wr_field m1 Rg.pwrStatusHalted f 0 hf (by omega) (by simp only; omega))
  have hm : m.pwr.step = 5 := (congrArg Pwr.step (setState_pwr s.tck (leaveStep s.tck s.node 6) none)).trans hstep
  have hmt1 : m.t1 = s.node.t1 := (setState_t1 s.tck (leaveStep s.tck s.node 6) none).trans ht1
  have hmshed : rd m Rg.pwrStatusShed = 5 := (rd_setState (f := Rg.pwrStatusShed) rfl le_rfl (by decide) s.tck (leaveStep s.tck s.node 6) none).trans hshed
  have hmn : rd m Rg.pwrStatusNstate = 0 := rd_setState_nstate (by decide) _ _ _
  exact ⟨_, hexec, hm, (hrd _ rfl (by decide)).trans hmshed, (hrd _ rfl (by decide)).trans hmn,
    (rd_wr_field (wr m1 Rg.pwrStatusHalted 0) Rg.pwrStatusHaltCause Rg.pwrStatusHalted 0 rfl (by decide) (by decide)).trans (rd_wr_self _ _ _ (by decide)), rfl, hmt1⟩

theorem haltReversal_holds (s : State) (k : Nat) (hk : s.node.pwr.haltN = some k) (h : s.tck.tick ≤ k ∨ 3 ≤ rd s.node Rg.pwrStatusHaltCause ∨ s.node.pwr.failN = true) : exec .haltReversal s = .next s := by
  have hexec : exec .haltReversal s = .next (s.withNode (haltReversal s.tck s.node)) := rfl
  rw [hexec]
  simp only [haltReversal, hk]
  rw [if_pos (by
    simp only [Bool.or_eq_true, decide_eq_true_eq]
    obtain h | h | h := h
    · exact .inl (.inl (.inl h))
    · exact .inl (.inl (.inr h))
    · exact .inl (.inr h))]

theorem pwrCtlHalt_acts (s : State) (src : Req) (hw : Writable s.node) : (src ≠ .mgmt → exec (.pwrCtlHalt src) s = .next (s.withNode (raise s.tck s.node evPwrWriteIgnored (leBytes 4 Rg.pwrCtlReset.off))))
      ∧ (stopped s.node = false → ∃ t : State, exec (.pwrCtlHalt .mgmt) s = .next t ∧ t.node.pwr.halting = some 4 ∧ rd t.node Rg.pwrStatusHaltCause = 4 ∧ t.tck.upstream = none ∧ t.node.fe = s.node.fe) := by
  have hexec : ∀ src, exec (.pwrCtlHalt src) s = .next { s with tck := (ctlHalt src s.tck s.node).1, node := (ctlHalt src s.tck s.node).2 } := fun src => by
    have hopen : whenOpenT (ctlHalt src) s.tck s.node = ctlHalt src s.tck s.node := if_neg (by rw [hw]; decide)
    rw [← hopen]
    rfl
  refine ⟨fun hne => ?_, fun hs => ?_⟩
  · rw [hexec]
    cases src with
    | mgmt => exact absurd rfl hne
    | host _ _ => rfl
    | qp _ => rfl
  · refine ⟨_, hexec .mgmt, ?_⟩
    simp only [ctlHalt, beginHalt_begins hs]
    exact ⟨rfl, rd_haltBegun_cause (by decide) s.node, unheld_upstream _, rfl⟩

/-! ## Temperatures (R402, R403) -/

theorem thermLevel_le (n : Node) (x : Nat) : thermLevel n x ≤ 3 := by
  unfold thermLevel
  split_ifs <;> decide

/-- Shedding the ports forgets no event. -/
theorem portsShed_codes {e : Nat} (h : e ∈ n.svc.arrivals.map (·.code)) : e ∈ (portsShed t n).svc.arrivals.map (·.code) := by
  have hone : ∀ (m : Node) (p : Nat), e ∈ m.svc.arrivals.map (·.code) → e ∈ (wr (modulePower (portOff t m p) p true) (Rg.qstPortStatusShed p) 1).svc.arrivals.map (·.code) := by
    intro m p hm
    have hoff : e ∈ (portOff t m p).svc.arrivals.map (·.code) := by
      unfold portOff
      split
      · rw [codes_raise]
        exact List.mem_append_left _ hm
      · exact hm
    change e ∈ (modulePower (portOff t m p) p true).svc.arrivals.map (·.code)
    unfold modulePower
    split
    · exact hoff
    · exact hoff
  exact hone _ 7 (hone _ 6 (hone _ 5 (hone _ 4 h)))

/-- What a level does at a site, but for the halt of level 3. -/
def levelActed (site old new : Nat) (t : Tck) (n : Node) : Node :=
  if old < 2 && 2 ≤ new then (if site = 4 then portsShed t (if old = 0 && 1 ≤ new then raise t n evThermWarn [] else n)
    else if 5 ≤ site then shedItems (if old = 0 && 1 ≤ new then raise t n evThermWarn [] else n) else if old = 0 && 1 ≤ new then raise t n evThermWarn [] else n)
  else if old = 0 && 1 ≤ new then raise t n evThermWarn [] else n

theorem thermAction_eq (site old new : Nat) (t : Tck) (n : Node) : thermAction site old new t n = if old < 3 && new = 3 then beginHalt 3 t (levelActed site old new t n) else (t, levelActed site old new t n) := rfl

theorem PowerSees.levelActed {β : Type} {v : Node → β} (h : PowerSees v) (site old new : Nat) (t : Tck) (n : Node) : v (levelActed site old new t n) = v n := by
  have hwarn : v (if old = 0 && 1 ≤ new then Machine.raise t n evThermWarn [] else n) = v n := by
    split
    · exact h.raise _ _ _ _
    · rfl
  unfold Machine.levelActed
  split
  · split
    · exact (h.portsShed _ _).trans hwarn
    · split
      · exact (h.shedItems _).trans hwarn
      · exact hwarn
  · exact hwarn

theorem levelActed_warns {site old new : Nat} (h0 : old = 0) (h1 : 1 ≤ new) : evThermWarn ∈ (levelActed site old new t n).svc.arrivals.map (·.code) := by
  have hraise : evThermWarn ∈ (raise t n evThermWarn []).svc.arrivals.map (·.code) := by rw [codes_raise]; simp
  unfold levelActed
  rw [if_pos (c := (old = 0 && 1 ≤ new) = true) (by simp [h0, h1])]
  split
  · split
    · exact portsShed_codes hraise
    · split
      · rw [shedItems_svc]
        exact hraise
      · exact hraise
  · exact hraise

theorem levelActed_silent {site old new : Nat} (h0 : old ≠ 0) (h4 : site ≠ 4) : (levelActed site old new t n).svc = n.svc := by
  unfold levelActed
  rw [if_neg (c := (old = 0 && 1 ≤ new) = true) (by simp [h0]), if_neg h4]
  split
  · split
    · exact shedItems_svc n
    · rfl
  · rfl

/-- The entry of a site that is kept at a reading. -/
def siteEntry (site temp : Nat) (t : Tck) (n : Node) : Nat × Nat × Nat × Nat :=
  let x := mgetD n.pwr.therm site (0, t.tick, 0, 0)
  let new := max x.1 (thermLevel n temp)
  if x.2.1 = t.tick then (new, t.tick, max x.2.2.1 temp, x.2.2.2) else (new, t.tick, temp, if x.2.1 + 1 = t.tick then x.2.2.1 else rd n (Rg.pwrTempTemp site))

/-- The node that shows a reading with its level. -/
def tempShown (site temp new : Nat) (t : Tck) (n : Node) : Node :=
  wr (wr (wr (modPwr n fun p => { p with therm := mset p.therm site (siteEntry site temp t n), hottest := max p.hottest temp }) (Rg.pwrTempTemp site) temp) (Rg.pwrTempMax site) (max temp (rd n (Rg.pwrTempMax site)))) (Rg.pwrTempLevel site) new

theorem thermalRead_eq (site temp : Nat) (t : Tck) (n : Node) : thermalRead site temp t n =
    thermAction site (mgetD n.pwr.therm site (0, t.tick, 0, 0)).1 (max (mgetD n.pwr.therm site (0, t.tick, 0, 0)).1 (thermLevel n temp)) t
      (tempShown site temp (max (mgetD n.pwr.therm site (0, t.tick, 0, 0)).1 (thermLevel n temp)) t n) := rfl

theorem rd_tempShown {site temp new : Nat} (ht : temp < 256) (hn : new < 4) (t : Tck) (n : Node) :
    rd (tempShown site temp new t n) (Rg.pwrTempTemp site) = temp ∧ rd (tempShown site temp new t n) (Rg.pwrTempMax site) = max temp (rd n (Rg.pwrTempMax site))
      ∧ rd (tempShown site temp new t n) (Rg.pwrTempLevel site) = new := by
  have hmax : rd n (Rg.pwrTempMax site) < 2 ^ 8 := bits_lt _ _ _
  have htemp : ∀ (m : Node) x, rd (wr m (Rg.pwrTempMax site) x) (Rg.pwrTempTemp site) = rd m (Rg.pwrTempTemp site) := fun m x => rd_wr_field m (Rg.pwrTempMax site) (Rg.pwrTempTemp site) x rfl (by simp only; omega) (by simp only; omega)
  have hlevel : ∀ (m : Node) x f, f.off = (Rg.pwrTempLevel site).off → f.lo + f.w ≤ 16 → rd (wr m (Rg.pwrTempLevel site) x) f = rd m f := fun m x f hf hw => rd_wr_field m (Rg.pwrTempLevel site) f x hf (by omega) (by simp only; omega)
  refine ⟨?_, ?_, (rd_wr_self _ _ _ (by simp only; omega)).trans (Nat.mod_eq_of_lt hn)⟩
  · exact (hlevel _ _ (Rg.pwrTempTemp site) rfl (by simp only; omega)).trans ((htemp _ _).trans ((rd_wr_self _ _ _ (by simp only; omega)).trans (Nat.mod_eq_of_lt ht)))
  · exact (hlevel _ _ (Rg.pwrTempMax site) rfl (by simp only; omega)).trans ((rd_wr_self _ _ _ (by simp only; omega)).trans (Nat.mod_eq_of_lt (max_lt ht hmax)))

theorem thermalRead_acts (s : State) (site : Fin 13) (temp : BitVec 8) (l : Nat) (hl : l = (mgetD s.node.pwr.therm site.val (0, s.tck.tick, 0, 0)).1) (h3 : l ≤ 3) :
      ∃ t : State, exec (.thermalRead site temp) s = .next t ∧ rd t.node (Rg.pwrTempTemp site.val) = temp.toNat ∧ rd t.node (Rg.pwrTempLevel site.val) = max l (thermLevel s.node temp.toNat)
        ∧ rd t.node (Rg.pwrTempMax site.val) = max temp.toNat (rd s.node (Rg.pwrTempMax site.val))
        ∧ (max l (thermLevel s.node temp.toNat) < 3 ∨ l = 3 → t.tck = s.tck)
        ∧ (l = 0 → 1 ≤ thermLevel s.node temp.toNat → evThermWarn ∈ t.node.svc.arrivals.map (·.code)) ∧ (l ≠ 0 → site.val ≠ 4 → t.node.svc.arrivals = s.node.svc.arrivals)
        ∧ (l < 3 → 105 ≤ temp.toNat → stopped s.node = false → t.node.pwr.halting = some 3 ∧ rd t.node Rg.pwrStatusHaltCause = 3) := by
  have hexec : exec (.thermalRead site temp) s = .next { s with tck := (thermalRead site.val temp.toNat s.tck s.node).1, node := (thermalRead site.val temp.toNat s.tck s.node).2 } := rfl
  rw [thermalRead_eq, ← hl, thermAction_eq] at hexec
  have hnew := thermLevel_le s.node temp.toNat
  have hlt : ((decide (l < 3) && decide (max l (thermLevel s.node temp.toNat) = 3)) = true) ↔ l < 3 ∧ max l (thermLevel s.node temp.toNat) = 3 := by simp
  obtain ⟨hrt, hrm, hrl⟩ := rd_tempShown (site := site.val) (temp := temp.toNat) (new := max l (thermLevel s.node temp.toNat)) temp.isLt (by omega) s.tck s.node
  generalize hm : tempShown site.val temp.toNat (max l (thermLevel s.node temp.toNat)) s.tck s.node = m at hexec hrt hrm hrl
  have hmsvc : m.svc = s.node.svc := by rw [← hm]; rfl
  have hmstop : stopped m = stopped s.node := by rw [← hm]; rfl
  generalize hnw : max l (thermLevel s.node temp.toNat) = new at hexec hrl hlt
  let a := levelActed site.val l new s.tck m
  have hsite := site.isLt
  have hr : ∀ {f : Fld}, 0x1000080 ≤ f.off → f.off < 0x10000C0 → rd (if (decide (l < 3) && decide (new = 3)) = true then beginHalt 3 s.tck a else (s.tck, a)).2 f = rd m f := by
    intro f h1 h2
    refine Eq.trans ?_ ((PowerSees.rd ⟨by omega, by omega⟩).levelActed site.val l new s.tck m)
    split
    · exact rd_beginHalt (fun h => by omega) 3 s.tck a
    · rfl
  have hsvc : (if (decide (l < 3) && decide (new = 3)) = true then beginHalt 3 s.tck a else (s.tck, a)).2.svc = a.svc := by
    split
    · unfold beginHalt
      split <;> rfl
    · rfl
  refine ⟨_, hexec, (hr (by simp only; omega) (by simp only; omega)).trans hrt, (hr (by simp only; omega) (by simp only; omega)).trans hrl, (hr (by simp only; omega) (by simp only; omega)).trans hrm,
    fun h => ?_, fun h0 h1 => ?_, fun h0 h4 => ?_, fun h hot hs => ?_⟩
  · rw [if_neg (by rw [hlt]; omega)]
  · simp only [a] at hsvc
    simp only [hsvc]
    exact levelActed_warns h0 (by omega)
  · simp only [a] at hsvc
    simp only [hsvc, levelActed_silent h0 h4, hmsvc]
  · have h3' : new = 3 := by
      have : thermLevel s.node temp.toNat = 3 := if_pos hot
      omega
    have hstop : stopped a = false := by
      refine Eq.trans ?_ (hmstop.trans hs)
      unfold stopped
      rw [show a.pwr = m.pwr from PowerSees.pwr.levelActed _ _ _ _ _]
    rw [if_pos (hlt.mpr ⟨h, h3'⟩), beginHalt_begins hstop]
    exact ⟨rfl, rd_haltBegun_cause (by decide) a⟩

theorem thermalReversal_leaves (s : State) (site : Fin 13) (x : Nat × Nat × Nat × Nat) (hx : mget? s.node.pwr.therm site.val = some x) (h0 : s.tck.notch = 0) (h1 : 1 ≤ x.1) (h2 : x.1 ≤ 2)
    (hw : lastTickMax s.tck s.node site.val x + 3 ≤ thermAt s.node 1) (hh : lastTickMax s.tck s.node site.val x + 3 ≤ thermAt s.node 2) :
        ∃ N : Node, exec (.thermalReversal site) s = .next (s.withNode N) ∧ rd N (Rg.pwrTempLevel site.val) = 0 ∧ mget? N.pwr.therm site.val = some (0, x.2) ∧ N.fe = s.node.fe := by
  let n1 := wr (modPwr s.node fun p => { p with therm := mset p.therm site.val (0, x.2) }) (Rg.pwrTempLevel site.val) 0
  have hexec : exec (.thermalReversal site) s = .next (s.withNode (thermalReversal site.val s.tck s.node)) := rfl
  have hnew : (if x.1 = 3 then 3 else if (decide (x.1 = 2) && decide (thermAt s.node 2 < lastTickMax s.tck s.node site.val x + 3)) = true then 2
      else if (decide (1 ≤ x.1) && decide (thermAt s.node 1 < lastTickMax s.tck s.node site.val x + 3)) = true then 1 else 0) = 0 := by
    rw [if_neg (by omega), if_neg (by simp; omega), if_neg (by simp; omega)]
  have heq : thermalReversal site.val s.tck s.node = if (decide (site.val = 4) && decide (x.1 = 2) && decide (0 < 2) && decide (n1.pwr.step < 4)) = true then portsBack n1 else n1 := by
    simp only [thermalReversal, hx]
    rw [hnew, if_neg (by simp [h0]; omega)]
  rw [heq] at hexec
  have hview : ∀ {β : Type} {v : Node → β}, PowerSees v → v (if (decide (site.val = 4) && decide (x.1 = 2) && decide (0 < 2) && decide (n1.pwr.step < 4)) = true then portsBack n1 else n1) = v n1 := by
    intro β v h
    split
    · exact h.portsBack _
    · rfl
  have hsite := site.isLt
  refine ⟨_, hexec, (hview (.rd ⟨by simp only; omega, by simp only; omega⟩)).trans (rd_wr_self _ _ _ (by simp only; omega)), ?_, hview .fe⟩
  rw [hview .pwr]
  exact mget?_mset_self _ _ _

theorem thermalReversal_holds (s : State) (site : Fin 13) (x : Nat × Nat × Nat × Nat) (hx : mget? s.node.pwr.therm site.val = some x) (h : s.tck.notch ≠ 0 ∨ x.1 = 3) : exec (.thermalReversal site) s = .next s := by
  have hexec : exec (.thermalReversal site) s = .next (s.withNode (thermalReversal site.val s.tck s.node)) := rfl
  rw [hexec]
  simp only [thermalReversal, hx]
  rw [if_pos (by
    obtain h | h := h
    · simp [h]
    · simp [h])]

end

/-- Settles O53: a descent enters the steps between, each counted once, and begins the halt of step 6; what the steps shed is not the power manager's. -/
theorem shedLadderHaltsAndThermalLevels : Obligations.ShedLadderHaltsAndThermalLevels := by
  unfold Obligations.ShedLadderHaltsAndThermalLevels
  exact ⟨sagWindow_acts, by decide, shedReversal_acts, pwrFailN_acts, pwrFailNRelease_acts, fun s c hc => ⟨halt_settles s c hc, halt_darkens s c hc, halt_records s c hc⟩,
    fun s k hk => ⟨haltReversal_reverses s k hk, haltReversal_holds s k hk⟩, pwrCtlHalt_acts, thermalRead_acts,
    fun s site x hx => ⟨thermalReversal_leaves s site x hx, thermalReversal_holds s site x hx⟩⟩

end Sys2Proof.Machine
end

section
/-! Power states, hints and readings (R393, R394, R404 to R407, R431). -/

namespace Sys2Proof.Machine

section

variable {t : Tck} {n : Node} {c : Cmd} {k j p : Nat}

/-! ## States (R404) -/

/-- Of the states N1 to N3 the deepest that fits is chosen. -/
theorem deepest_fit {q : Nat → Bool} (h0 : q 0 = false) (h1 : 1 ≤ j) (h3 : j ≤ 3) (hj : q j = true) (hno : ∀ i, j < i → i ≤ 3 → q i = false) : (((List.range 4).filter q).getLast?).getD 0 = j := by
  have hr : List.range 4 = [0, 1, 2, 3] := rfl
  obtain rfl | rfl | rfl : j = 1 ∨ j = 2 ∨ j = 3 := by omega
  · simp [hr, h0, hj, hno 2, hno 3]
  · cases h : q 1 <;> simp [hr, h0, hj, h, hno 3]
  · cases h : q 1 <;> cases h' : q 2 <;> simp [hr, h0, hj, h, h']

/-- The least of a list's times that lie ahead. -/
theorem leastBy_ahead {l : List Nat} {now : Nat} (hk : k ∈ l) (hmin : ∀ e ∈ l, k ≤ e) (hn : now < k) : leastBy id (l.filter (now < ·)) = some k := by
  cases h : leastBy id (l.filter (now < ·)) with
  | none =>
    have hmem : k ∈ l.filter (now < ·) := by simp [hk, hn]
    rw [leastBy_eq_none h] at hmem
    cases hmem
  | some x =>
    have hx : x ∈ l := (List.mem_filter.mp (leastBy_mem h)).1
    have hxk : x ≤ k := leastBy_le h (by simp [hk, hn])
    rw [le_antisymm hxk (hmin x hx)]

/-- The states allowed that fit before the next known event. -/
def mayEnter (t : Tck) (n : Node) (next : Option Nat) (i : Nat) : Bool := 1 ≤ i && i ≤ deepest t n && fits t n next i

/-- The node in a state, its wake planned (R404, R405). -/
def inState (t : Tck) (n : Node) (k : Nat) (wake : Option Nat) : Node := if k = 3 then diesOff (setState t n k wake) else setState t n k wake

/-- A node that may enters the deepest of the states that fit (R404). -/
theorem powerStateEntry_enters {next : Option Nat} (hs : stopped n = false) (hw : working n = false) (hn : rd n Rg.pwrStatusNstate = 0) (hdue : (knownEvents t n).any (· ≤ t.now) = false)
    (hnext : leastBy id ((knownEvents t n).filter (t.now < ·)) = next) (h1 : 1 ≤ j) (h3 : j ≤ 3) (hj : j ≤ deepest t n) (hf : fits t n next j = true)
    (hno : ∀ i, j < i → i ≤ 3 → i ≤ deepest t n → fits t n next i = false) :
    powerStateEntry t n = inState t n j (next.map fun k => k - (stateCost j).2 - 2 * unitsPerNotch t.cur) := by
  have hsel : (((List.range 4).filter (mayEnter t n next)).getLast?).getD 0 = j := by
    refine deepest_fit rfl h1 h3 (by simp [mayEnter, h1, hj, hf]) fun i hji hi3 => ?_
    by_cases hi : i ≤ deepest t n
    · simp [mayEnter, hno i hji hi3 hi]
    · simp [mayEnter, hi]
  unfold powerStateEntry
  dsimp only
  rw [hnext, show (fun k => decide (1 ≤ k) && decide (k ≤ deepest t n) && fits t n next k) = mayEnter t n next from rfl, hsel, hs, hw, hdue, hn, if_neg (by simp; omega)]
  rfl

theorem powerStateEntry_stays (h : stopped n = true ∨ working n = true ∨ deepest t n = 0 ∨ ∃ e ∈ knownEvents t n, e ≤ t.now) : powerStateEntry t n = n := by
  let next := leastBy id ((knownEvents t n).filter (t.now < ·))
  have hnone : deepest t n = 0 → (((List.range 4).filter (mayEnter t n next)).getLast?).getD 0 = 0 := fun h0 => by
    rw [List.filter_eq_nil_iff.mpr fun i _ => ?_]
    · rfl
    · cases i <;> simp [mayEnter, h0]
  unfold powerStateEntry
  dsimp only
  rw [show (fun k => decide (1 ≤ k) && decide (k ≤ deepest t n) && fits t n (leastBy id ((knownEvents t n).filter (t.now < ·))) k) = mayEnter t n next from rfl, if_pos]
  obtain h | h | h | ⟨e, he, hle⟩ := h
  · simp [h]
  · simp [h]
  · rw [hnone h, decide_eq_true (Nat.zero_le _), Bool.or_true]
  · have hany : (knownEvents t n).any (· ≤ t.now) = true := List.any_eq_true.mpr ⟨e, he, by simpa using hle⟩
    simp [hany]

/-- The fits of the states N1 to N3 (R404). -/
theorem fits_iff {next : Option Nat} (h1 : 1 ≤ j) (h3 : j ≤ 3) : fits t n next j = true ↔
    (∀ k, next = some k → (stateCost j).1 + (stateCost j).2 + 2 * unitsPerNotch t.cur ≤ k - t.now) ∧ (j = 2 → 20000 + 2 * unitsPerNotch t.cur ≤ 2 * unitsPerTick t.cur) ∧ (j = 3 → mayN3 n (next.getD (2 ^ 64)) = true) := by
  have h2 : (stateCost 2).2 = 20000 := by decide
  obtain rfl | rfl | rfl : j = 1 ∨ j = 2 ∨ j = 3 := by omega
  · cases next <;> simp [fits]
  · cases next <;> simp [fits, h2]
  · cases next <;> simp [fits]

/-! What a change of the state leaves. -/

/-- A view that the power manager's state and registers are no part of keeps over a change of the state. -/
theorem setState_frame {β : Type} (v : Node → β) (hb : ∀ (m : Node) b, v { m with bank := b } = v m) (hp : ∀ (m : Node) x, v { m with pwr := x } = v m) (w : Option Nat) : v (setState t n k w) = v n := by
  have hcount : v (countState t n) = v n := by
    unfold countState
    dsimp only
    refine (hp _ _).trans ?_
    split
    · exact hb _ _
    · rfl
  exact (hp _ _).trans ((hb _ _).trans hcount)

/-- The notches spent in the state left are counted (R431). -/
theorem rd_setState_notches {st : Nat} (hst : rd n Rg.pwrStatusNstate = st) (h3 : st ≤ 3) (w : Option Nat) :
    rd (setState t n k w) (Rg.pwrResNotches st) = satTo 32 (rd n (Rg.pwrResNotches st) + (t.now / unitsPerNotch t.cur - n.pwr.since / unitsPerNotch t.cur)) := by
  refine (rd_wr_off (countState t n) Rg.pwrStatusNstate (Rg.pwrResNotches st) k (by simp only; omega)).trans ?_
  unfold countState
  dsimp only
  rw [hst, if_pos h3]
  exact rd_bump_self n (Rg.pwrResNotches st) _ (by simp only; omega)

theorem inState_frame {β : Type} (v : Node → β) (hb : ∀ (m : Node) b, v { m with bank := b } = v m) (hp : ∀ (m : Node) x, v { m with pwr := x } = v m) (ha : ∀ (m : Node) x, v { m with att := x } = v m) (w : Option Nat) : v (inState t n k w) = v n := by
  unfold inState
  split
  · exact (ha _ _).trans (setState_frame v hb hp w)
  · exact setState_frame v hb hp w

theorem inState_set {β : Type} (v : Node → β) (ha : ∀ (m : Node) x, v { m with att := x } = v m) (w : Option Nat) : v (inState t n k w) = v (setState t n k w) := by
  unfold inState
  split
  · exact ha _ _
  · rfl

theorem inState_att (w : Option Nat) : (inState t n k w).att = if k = 3 then { n.att with tables := [], tableOf := [], bound := [], tileQs := [] } else n.att := by
  have h : (setState t n k w).att = n.att := setState_frame (·.att) (fun _ _ => rfl) (fun _ _ => rfl) w
  unfold inState diesOff
  split
  · rw [h]
  · exact h

theorem powerStateEntry_exec (s : State) : exec .powerStateEntry s = .next (s.withNode (powerStateEntry s.tck s.node)) := rfl

theorem entry_before_event (s : State) (k j p : Nat) (F : Nat → Prop) (hs : stopped s.node = false) (hw : working s.node = false) (hn : rd s.node Rg.pwrStatusNstate = 0) (hk : k ∈ knownEvents s.tck s.node)
      (hmin : ∀ e ∈ knownEvents s.tck s.node, k ≤ e) (hnow : s.tck.now < k) (hp : p = 2 * unitsPerNotch s.tck.cur)
      (hF : F = (fun i => (stateCost i).1 + (stateCost i).2 + p ≤ k - s.tck.now ∧ (i = 2 → 20000 + p ≤ 2 * unitsPerTick s.tck.cur) ∧ (i = 3 → mayN3 s.node k = true)))
      (h1 : 1 ≤ j) (h3 : j ≤ 3) (hj : j ≤ deepest s.tck s.node) (hFj : F j) (hno : ∀ i, j < i → i ≤ 3 → i ≤ deepest s.tck s.node → ¬ F i) :
      ∃ N : Node, exec .powerStateEntry s = .next (s.withNode N) ∧ rd N Rg.pwrStatusNstate = j ∧ N.pwr.wakeAt = some (k - (stateCost j).2 - p)
        ∧ N.att = (if j = 3 then { s.node.att with tables := [], tableOf := [], bound := [], tileQs := [] } else s.node.att) ∧ N.fe = s.node.fe ∧ N.t1 = s.node.t1 ∧ N.pwr.since = s.tck.now
        ∧ rd N (Rg.pwrResNotches 0) = satTo 32 (rd s.node (Rg.pwrResNotches 0) + (s.tck.now / unitsPerNotch s.tck.cur - s.node.pwr.since / unitsPerNotch s.tck.cur)) := by
  subst hp
  have hfit : ∀ i, 1 ≤ i → i ≤ 3 → (fits s.tck s.node (some k) i = true ↔ F i) := fun i hi1 hi3 => by
    rw [fits_iff hi1 hi3, hF]
    simp
  have hdue : (knownEvents s.tck s.node).any (· ≤ s.tck.now) = false := by
    rw [List.any_eq_false]
    intro e he
    have := hmin e he
    simp
    omega
  have hexec := powerStateEntry_exec s
  rw [powerStateEntry_enters hs hw hn hdue (leastBy_ahead hk hmin hnow) h1 h3 hj ((hfit j h1 h3).mpr hFj) fun i hji hi3 hid => Bool.eq_false_iff.mpr fun h => hno i hji hi3 hid ((hfit i (by omega) hi3).mp h)] at hexec
  have hpwr := (inState_set (t := s.tck) (n := s.node) (k := j) (·.pwr) (fun _ _ => rfl) (some (k - (stateCost j).2 - 2 * unitsPerNotch s.tck.cur))).trans (setState_pwr _ _ _)
  refine ⟨_, hexec, (inState_set (rd · Rg.pwrStatusNstate) (fun _ _ => rfl) _).trans (rd_setState_nstate (by omega) _ _ _), congrArg Pwr.wakeAt hpwr, inState_att _,
    inState_frame (·.fe) (fun _ _ => rfl) (fun _ _ => rfl) (fun _ _ => rfl) _, inState_frame (·.t1) (fun _ _ => rfl) (fun _ _ => rfl) (fun _ _ => rfl) _, congrArg Pwr.since hpwr, ?_⟩
  exact (inState_set (rd · (Rg.pwrResNotches 0)) (fun _ _ => rfl) _).trans (rd_setState_notches hn (by decide) _)

theorem entry_without_event (s : State) (j : Nat) (F : Nat → Prop) (hs : stopped s.node = false) (hw : working s.node = false) (hn : rd s.node Rg.pwrStatusNstate = 0) (he : knownEvents s.tck s.node = [])
      (hF : F = (fun i => (i = 2 → 20000 + 2 * unitsPerNotch s.tck.cur ≤ 2 * unitsPerTick s.tck.cur) ∧ (i = 3 → mayN3 s.node (2 ^ 64) = true)))
      (h1 : 1 ≤ j) (h3 : j ≤ 3) (hj : j ≤ deepest s.tck s.node) (hFj : F j) (hno : ∀ i, j < i → i ≤ 3 → i ≤ deepest s.tck s.node → ¬ F i) :
      ∃ N : Node, exec .powerStateEntry s = .next (s.withNode N) ∧ rd N Rg.pwrStatusNstate = j ∧ N.pwr.wakeAt = none ∧ N.fe = s.node.fe ∧ N.t1 = s.node.t1 := by
  have hfit : ∀ i, 1 ≤ i → i ≤ 3 → (fits s.tck s.node none i = true ↔ F i) := fun i hi1 hi3 => by
    rw [fits_iff hi1 hi3, hF]
    simp
  have hexec := powerStateEntry_exec s
  rw [powerStateEntry_enters (next := none) hs hw hn (by rw [he]; rfl) (by rw [he]; rfl) h1 h3 hj ((hfit j h1 h3).mpr hFj) fun i hji hi3 hid => Bool.eq_false_iff.mpr fun h => hno i hji hi3 hid ((hfit i (by omega) hi3).mp h)] at hexec
  have hpwr := (inState_set (t := s.tck) (n := s.node) (k := j) (·.pwr) (fun _ _ => rfl) none).trans (setState_pwr _ _ _)
  exact ⟨_, hexec, (inState_set (rd · Rg.pwrStatusNstate) (fun _ _ => rfl) _).trans (rd_setState_nstate (by omega) _ _ _), congrArg Pwr.wakeAt hpwr,
    inState_frame (·.fe) (fun _ _ => rfl) (fun _ _ => rfl) (fun _ _ => rfl) _, inState_frame (·.t1) (fun _ _ => rfl) (fun _ _ => rfl) (fun _ _ => rfl) _⟩

/-! ## Waking (R406) -/

theorem exec_wake (u : Bool) (s : State) : exec (.wake u) s = .next (s.withNode (wake u s.tck s.node)) := rfl

/-- What a wake leaves. -/
theorem wake_wakes {u : Bool} {st : Nat} (s : State) (hst : st = rd s.node Rg.pwrStatusNstate) (h1 : 1 ≤ st) (h3 : st ≤ 3) (hu : u = true ∨ ∃ k, s.node.pwr.wakeAt = some k ∧ k ≤ s.tck.now) :
    ∃ N : Node, exec (.wake u) s = .next (s.withNode N) ∧ rd N Rg.pwrStatusNstate = 0 ∧ N.pwr.wakeAt = none ∧ N.fe = s.node.fe ∧ N.att = s.node.att
        ∧ rd N (Rg.pwrResNotches st) = satTo 32 (rd s.node (Rg.pwrResNotches st) + (s.tck.now / unitsPerNotch s.tck.cur - s.node.pwr.since / unitsPerNotch s.tck.cur)) := by
  have hgo : wake u s.tck s.node = setState s.tck s.node 0 none := by
    unfold wake
    rw [← hst]
    dsimp only
    rw [if_neg]
    obtain rfl | ⟨k, hk, hle⟩ := hu
    · simp
      omega
    · simp [hk, hle]
      omega
  have hexec := exec_wake u s
  rw [hgo] at hexec
  exact ⟨_, hexec, rd_setState_nstate (by decide) _ _ _, congrArg Pwr.wakeAt (setState_pwr s.tck s.node none), setState_frame (·.fe) (fun _ _ => rfl) (fun _ _ => rfl) _,
    setState_frame (·.att) (fun _ _ => rfl) (fun _ _ => rfl) _, rd_setState_notches hst.symm h3 _⟩

theorem wake_awake {u : Bool} (h : rd n Rg.pwrStatusNstate = 0 ∨ rd n Rg.pwrStatusNstate = 4) : wake u t n = n := by
  unfold wake
  dsimp only
  rw [if_pos]
  obtain h | h := h
  · simp [h]
  · simp [h]

/-- A node whose planned wake has not come sleeps on. -/
theorem wake_early (h : ∀ k, n.pwr.wakeAt = some k → t.now < k) : wake false t n = n := by
  unfold wake
  dsimp only
  rw [if_pos]
  cases hw : n.pwr.wakeAt with
  | none => simp
  | some k =>
    have := h k hw
    simp [this]

theorem wakes (s : State) (st : Nat) (hst : st = rd s.node Rg.pwrStatusNstate) :
      let wakes := fun i : Instr => ∃ N : Node, exec i s = .next (s.withNode N) ∧ rd N Rg.pwrStatusNstate = 0 ∧ N.pwr.wakeAt = none ∧ N.fe = s.node.fe ∧ N.att = s.node.att
        ∧ rd N (Rg.pwrResNotches st) = satTo 32 (rd s.node (Rg.pwrResNotches st) + (s.tck.now / unitsPerNotch s.tck.cur - s.node.pwr.since / unitsPerNotch s.tck.cur))
      (1 ≤ st → st ≤ 3 → wakes (.wake true) ∧ ∀ k : Nat, s.node.pwr.wakeAt = some k → (k ≤ s.tck.now → wakes (.wake false)) ∧ (s.tck.now < k → exec (.wake false) s = .next s))
      ∧ (st = 0 ∨ st = 4 → ∀ u : Bool, exec (.wake u) s = .next s) ∧ (s.node.pwr.wakeAt = none → exec (.wake false) s = .next s) := by
  dsimp only
  refine ⟨fun h1 h3 => ⟨wake_wakes s hst h1 h3 (.inl rfl), fun k hk => ⟨fun hle => wake_wakes s hst h1 h3 (.inr ⟨k, hk, hle⟩), fun hlt => ?_⟩⟩, fun h u => ?_, fun h => ?_⟩
  · rw [exec_wake, wake_early fun k' hk' => by rw [hk] at hk'; exact (Option.some.inj hk') ▸ hlt]
  · rw [exec_wake, wake_awake (hst ▸ h)]
  · rw [exec_wake, wake_early fun k hk => by rw [h] at hk; cases hk]

/-! ## Hints (R405) -/

/-- Reserved bytes are reported at their first. -/
theorem mem_rsv {lo hi x : Nat} (h : x ∈ rsv c lo hi) : x = lo := by
  unfold rsv at h
  split at h
  · cases h
  · exact List.mem_singleton.mp h

theorem powerHint_keeps (s : State) (h : Word) (c : Cmd) (hr : Runs s.node h opPowerHint c) (old : Nat) (h0 : s.node.pwr.hint = none → old = 0xFF) (hd : ∀ d : Nat, s.node.pwr.hint = some (d, none) → old = d)
        (hde : ∀ d e : Nat, s.node.pwr.hint = some (d, some e) → old = if c.accTick < e then d else 0xFF) (hdeep : c.f 24 1 ≤ 3) (h25 : rsv c 25 27 = []) (h32 : rsv c 32 63 = []) :
        exec (.powerHint h) s = .next (s.withNode (complete s.tck { s.node with pwr := { s.node.pwr with
          hint := some (c.f 24 1, if c.f 28 4 = 0 then none else some (c.accTick + c.f 28 4)) } } h.toNat stOk (leBytes 1 old))) := by
  obtain ⟨hf, hop, hs, hq, hh⟩ := hr
  have hold : (match s.node.pwr.hint with
      | some (d, some e) => if c.accTick < e then d else 0xFF
      | some (d, none) => d
      | none => 0xFF) = old := by
    split
    · next d e heq => exact (hde d e heq).symm
    · next d heq => exact (hd d heq).symm
    · next heq => exact (h0 heq).symm
  refine onNode_eq ?_
  rw [powerHint, withCmd_eq _ hf hop hs hq]
  dsimp only
  rw [checked_ok _ hh (by rw [offIf_false (by simpa using hdeep), h25, h32]; rfl)]
  rw [← hold]
  rfl

theorem powerHint_tooDeep (s : State) (h : Word) (c : Cmd) (hr : Runs s.node h opPowerHint c) (hdeep : 3 < c.f 24 1) : exec (.powerHint h) s = .next (s.withNode (complete s.tck s.node h.toNat stBadParam (leBytes 1 24))) := by
  obtain ⟨hf, hop, hs, hq, hh⟩ := hr
  refine onNode_eq ?_
  rw [powerHint, withCmd_eq _ hf hop hs hq]
  dsimp only
  rw [offIf_true (by simpa using hdeep), List.append_assoc, List.singleton_append, checked_lowest _ hh rfl fun x hx => ?_, findCmd_handle hf]
  · rfl
  · obtain hx | hx := List.mem_append.mp hx
    · exact (mem_rsv hx).ge.trans' (by decide)
    · exact (mem_rsv hx).ge.trans' (by decide)

theorem hintExpiry_ends (s : State) (d e : Nat) (hh : s.node.pwr.hint = some (d, some e)) :
      (e ≤ s.tck.tick → exec .powerHintExpiry s = .next (s.withNode { s.node with pwr := { s.node.pwr with hint := none } }) ∧ deepest s.tck s.node = rd s.node Rg.pwrStateCfgDeepest)
      ∧ (s.tck.tick < e → exec .powerHintExpiry s = .next s ∧ deepest s.tck s.node = min d (rd s.node Rg.pwrStateCfgDeepest)) := by
  have hexec : exec .powerHintExpiry s = .next (s.withNode (hintExpiry s.tck s.node)) := rfl
  rw [hexec]
  simp only [hintExpiry, deepest, hh]
  refine ⟨fun h => ?_, fun h => ?_⟩
  · rw [if_pos h, if_neg (by omega)]
    exact ⟨rfl, rfl⟩
  · rw [if_neg (by omega), if_pos h]
    exact ⟨rfl, rfl⟩

/-! ## Readings (R393, R407) -/

/-- A rail shows its reading, good within 3 % of nominal (R393). -/
theorem rd_showRail (n : Node) (r : Nat) (mv amps : BitVec 16) : rd (showRail n r mv.toNat amps.toNat) (Rg.pwrRailMv r) = satTo 12 mv.toNat ∧ rd (showRail n r mv.toNat amps.toNat) (Rg.pwrRailAmps r) = amps.toNat
    ∧ rd (showRail n r mv.toNat amps.toNat) (Rg.pwrRailPg r) = (if 97 * nominal r ≤ 100 * mv.toNat ∧ 100 * mv.toNat ≤ 103 * nominal r then 1 else 0)
    ∧ rd (showRail n r mv.toNat amps.toNat) (Rg.pwrRailFault r) = rd n (Rg.pwrRailFault r) := by
  have hmv : satTo 12 mv.toNat < 2 ^ 12 := (Nat.min_le_right _ _).trans_lt (by decide)
  have hamps : satTo 16 amps.toNat = amps.toNat := by
    have := amps.isLt
    unfold satTo
    omega
  have hpg : ∀ (m : Node) x f, f.off = (Rg.pwrRailPg r).off → f.lo + f.w ≤ 28 ∨ 29 ≤ f.lo → f.lo + f.w ≤ 32 → rd (wr m (Rg.pwrRailPg r) x) f = rd m f := fun m x f hf hw h32 =>
    rd_wr_field m (Rg.pwrRailPg r) f x hf h32 (by simp only; omega)
  have ha : ∀ (m : Node) x f, f.off = (Rg.pwrRailAmps r).off → f.lo + f.w ≤ 12 ∨ 28 ≤ f.lo → f.lo + f.w ≤ 32 → rd (wr m (Rg.pwrRailAmps r) x) f = rd m f := fun m x f hf hw h32 =>
    rd_wr_field m (Rg.pwrRailAmps r) f x hf h32 (by simp only; omega)
  refine ⟨?_, ?_, ?_, ?_⟩
  · exact (hpg _ _ (Rg.pwrRailMv r) rfl (by simp) (by simp)).trans ((ha _ _ (Rg.pwrRailMv r) rfl (by simp) (by simp)).trans ((rd_wr_self n (Rg.pwrRailMv r) _ (by simp)).trans (Nat.mod_eq_of_lt hmv)))
  · refine (hpg _ _ (Rg.pwrRailAmps r) rfl (by simp) (by simp)).trans ((rd_wr_self _ (Rg.pwrRailAmps r) _ (by simp)).trans ?_)
    rw [hamps]
    exact Nat.mod_eq_of_lt amps.isLt
  · refine (rd_wr_self _ (Rg.pwrRailPg r) _ (by simp)).trans ?_
    split
    · next h => simp [h, b2n]
    · next h => simp only [h, ← Bool.decide_and, decide_false, b2n]; rfl
  · exact (hpg _ _ (Rg.pwrRailFault r) rfl (by simp) (by simp)).trans ((ha _ _ (Rg.pwrRailFault r) rfl (by simp) (by simp)).trans
      (rd_wr_field n (Rg.pwrRailMv r) (Rg.pwrRailFault r) _ rfl (by simp) (by simp)))

theorem avsReadback_shows (s : State) (rejected : Bool) (mv amps : BitVec 16) : ∃ N : Node, exec (.avsReadback rejected mv amps) s = .next (s.withNode N) ∧ rd N (Rg.pwrRailMv 0) = satTo 12 mv.toNat
      ∧ rd N (Rg.pwrRailAmps 0) = amps.toNat ∧ N.pwr = s.node.pwr ∧ N.fe = s.node.fe
      ∧ rd N (Rg.pwrRailPg 0) = (if 97 * Config.fusedSetpoint ≤ 100 * mv.toNat ∧ 100 * mv.toNat ≤ 103 * Config.fusedSetpoint then 1 else 0)
      ∧ N.svc.arrivals.map (·.code) = s.node.svc.arrivals.map (·.code) ++
          if rejected = true ∨ (s.node.pwr.step = 0 ∧ (Config.fusedSetpoint + 10 < mv.toNat ∨ mv.toNat + 10 < Config.fusedSetpoint)) then [evAvsErr] else [] := by
  have hexec : exec (.avsReadback rejected mv amps) s = .next (s.withNode (avsReadback rejected mv.toNat amps.toNat s.tck s.node)) := rfl
  obtain ⟨hmv, ha, hpg, -⟩ := rd_showRail s.node 0 mv amps
  have hiff : (rejected || (decide (10 < max (mv.toNat - Config.fusedSetpoint) (Config.fusedSetpoint - mv.toNat)) && decide ((showRail s.node 0 mv.toNat amps.toNat).pwr.step = 0))) = true ↔
      rejected = true ∨ (s.node.pwr.step = 0 ∧ (Config.fusedSetpoint + 10 < mv.toNat ∨ mv.toNat + 10 < Config.fusedSetpoint)) := by
    have hstep : (showRail s.node 0 mv.toNat amps.toNat).pwr.step = s.node.pwr.step := rfl
    simp only [Bool.or_eq_true, Bool.and_eq_true, decide_eq_true_eq, hstep]
    refine or_congr Iff.rfl ⟨fun ⟨h1, h2⟩ => ⟨h2, by omega⟩, fun ⟨h1, h2⟩ => ⟨by omega, h1⟩⟩
  by_cases hbad : rejected = true ∨ (s.node.pwr.step = 0 ∧ (Config.fusedSetpoint + 10 < mv.toNat ∨ mv.toNat + 10 < Config.fusedSetpoint))
  · rw [show avsReadback rejected mv.toNat amps.toNat s.tck s.node = raise s.tck (showRail s.node 0 mv.toNat amps.toNat) evAvsErr [] from if_pos (hiff.mpr hbad)] at hexec
    rw [if_pos hbad]
    exact ⟨_, hexec, hmv, ha, rfl, rfl, hpg, codes_raise _ _ _ _⟩
  · rw [show avsReadback rejected mv.toNat amps.toNat s.tck s.node = showRail s.node 0 mv.toNat amps.toNat from if_neg (hiff.not.mpr hbad)] at hexec
    rw [if_neg hbad, List.append_nil]
    exact ⟨_, hexec, hmv, ha, rfl, rfl, hpg, rfl⟩

theorem nominal_of_ne {r : Fin 6} (hr : r ≠ 0) : nominal r.val = [0, 900, 850, 1100, 1800, 800].getD r.val 0 := by
  revert r
  intro r
  match r with
  | 0 => exact fun h => absurd rfl h
  | 1 | 2 | 3 | 4 | 5 => exact fun _ => rfl

theorem pmbusPoll_shows (s : State) (r : Fin 6) (status mv amps : BitVec 16) : ∃ N : Node, exec (.pmbusPoll r status mv amps) s = .next (s.withNode N) ∧ rd N (Rg.pwrRailMv r.val) = satTo 12 mv.toNat
      ∧ rd N (Rg.pwrRailAmps r.val) = amps.toNat ∧ N.pwr = s.node.pwr ∧ N.fe = s.node.fe
      ∧ (r ≠ 0 → rd N (Rg.pwrRailPg r.val) = if 97 * ([0, 900, 850, 1100, 1800, 800].getD r.val 0) ≤ 100 * mv.toNat ∧ 100 * mv.toNat ≤ 103 * ([0, 900, 850, 1100, 1800, 800].getD r.val 0) then 1 else 0)
      ∧ (status = 0 → N.svc = s.node.svc ∧ rd N (Rg.pwrRailFault r.val) = rd s.node (Rg.pwrRailFault r.val))
      ∧ (status ≠ 0 → rd N (Rg.pwrRailFault r.val) = 1 ∧ N.svc.arrivals.map (fun e => (e.code, e.args)) =
          s.node.svc.arrivals.map (fun e => (e.code, e.args)) ++ [(evRailFault, leBytes 1 r.val ++ leBytes 2 status.toNat)]) := by
  have hexec : exec (.pmbusPoll r status mv amps) s = .next (s.withNode (pmbusPoll r.val status.toNat mv.toNat amps.toNat s.tck s.node)) := rfl
  obtain ⟨hmv, ha, hpg, hfault⟩ := rd_showRail s.node r.val mv amps
  by_cases h0 : status = 0
  · subst h0
    exact ⟨_, hexec, hmv, ha, rfl, rfl, fun hr => by rw [← nominal_of_ne hr]; exact hpg, fun _ => ⟨rfl, hfault⟩, fun h => absurd rfl h⟩
  · have hne : status.toNat ≠ 0 := fun h => h0 (BitVec.eq_of_toNat_eq h)
    rw [show pmbusPoll r.val status.toNat mv.toNat amps.toNat s.tck s.node =
      raise s.tck (wr (showRail s.node r.val mv.toNat amps.toNat) (Rg.pwrRailFault r.val) 1) evRailFault (leBytes 1 r.val ++ leBytes 2 status.toNat) from if_neg hne] at hexec
    have hother : ∀ f : Fld, f.off = (Rg.pwrRailFault r.val).off → f.lo + f.w ≤ 29 → rd (wr (showRail s.node r.val mv.toNat amps.toNat) (Rg.pwrRailFault r.val) 1) f = rd (showRail s.node r.val mv.toNat amps.toNat) f :=
      fun f hf hw => rd_wr_field _ (Rg.pwrRailFault r.val) f 1 hf (by omega) (by simp only; omega)
    refine ⟨_, hexec, (hother (Rg.pwrRailMv r.val) rfl (by simp)).trans hmv, (hother (Rg.pwrRailAmps r.val) rfl (by simp)).trans ha, rfl, rfl, fun hr => ?_, fun h => absurd h h0, fun _ => ⟨rd_wr_self _ _ _ (by simp), ?_⟩⟩
    · rw [← nominal_of_ne hr]
      exact (hother (Rg.pwrRailPg r.val) rfl (by simp)).trans hpg
    · exact List.map_append

theorem powerReading_shows (s : State) (w : BitVec 16) : ∃ N : Node, exec (.powerReading w) s = .next (s.withNode N) ∧ rd N Rg.pwrPowerWatts = satTo 12 w.toNat ∧ N.pwr.watts = (satTo 12 w.toNat :: s.node.pwr.watts).take 1024
      ∧ N.fe = s.node.fe ∧ N.svc = s.node.svc :=
  ⟨powerReading w.toNat s.node, rfl, (rd_wr_self _ _ _ (by decide)).trans (Nat.mod_eq_of_lt ((Nat.min_le_right _ _).trans_lt (by decide))), rfl, rfl, rfl⟩

end

/-- Settles O54: of the states that fit the deepest is entered, a change of state counts the notches of the one left, and each reading has its own field. -/
theorem powerStatesHintsAndReadings : Obligations.PowerStatesHintsAndReadings := by
  unfold Obligations.PowerStatesHintsAndReadings
  refine ⟨by decide, by decide, by decide, entry_before_event, entry_without_event, fun s h => ?_, wakes, fun s h c hr => ⟨powerHint_keeps s h c hr, powerHint_tooDeep s h c hr⟩, hintExpiry_ends,
    avsReadback_shows, pmbusPoll_shows, powerReading_shows⟩
  rw [powerStateEntry_exec, powerStateEntry_stays h]

end Sys2Proof.Machine
end

section
/-! Resets and start-up (R394, R408 to R424, R433). -/

namespace Sys2Proof.Machine

section

variable {t : Tck} {n : Node} {s : State} {k p : Nat} {β : Type}

/-! ## Resets (R408, R409) -/

/-- What a warm reset leaves, with its cause. -/
def ResetLeft (s : State) (cause : Nat) (t : State) : Prop :=
  t.tck = { Tck.reset with now := s.tck.now, everGm := s.tck.everGm } ∧ t.tck.state = .acquire ∧ t.last = t.node ∧ t.pending = s.pending
        ∧ rd t.node Rg.pwrResetCauseCause = (if stopped s.node && 3 ≤ rd s.node Rg.pwrStatusHaltCause then 4 else cause)
        ∧ rd t.node Rg.pwrResetCauseWarm = satTo 16 (rd s.node Rg.pwrResetCauseWarm + 1) ∧ t.node.fe = Front.reset ∧ t.node.att = Att.reset ∧ t.node.seqs = Seqs.reset ∧ tenantState t.node = tsEmpty
        ∧ rd t.node Rg.cmdStatusReady = 0 ∧ (∀ f : Fld, f.off ≠ Rg.pwrResetCauseCause.off → rd t.node f = bits (regReset f.off) f.lo f.w) ∧ t.node.hmem = s.node.hmem ∧ t.node.t1 = s.node.t1
        ∧ t.node.svc.slots = s.node.svc.slots ∧ t.node.svc.seqNext = s.node.svc.seqNext ∧ t.node.svc.hours = s.node.svc.hours ∧ t.node.svc.cycles = s.node.svc.cycles

theorem tenant_reset : bits (regReset Rg.secStatusState.off) Rg.secStatusState.lo Rg.secStatusState.w = tsEmpty := by decide +kernel
theorem ready_reset : bits (regReset Rg.cmdStatusReady.off) Rg.cmdStatusReady.lo Rg.cmdStatusReady.w = 0 := by decide +kernel

/-- The node of a warm reset whose boot flash is `b`, with events that then wait. -/
def warmNode (s : State) (cause : Nat) (b : Brd) (a : List Event) : Node :=
  let m := (warmReset cause s.tck { s.node with brd := b }).2
  { m with svc := { m.svc with arrivals := a } }

theorem satTo_lt (w v : Nat) : satTo w v < 2 ^ w := (Nat.min_le_right _ _).trans_lt (Nat.sub_lt (Nat.two_pow_pos w) Nat.one_pos)

theorem warmNode_left {cause : Nat} (hc : cause < 16) (b : Brd) (a : List Event) :
    ResetLeft s cause { s with tck := (warmReset cause s.tck { s.node with brd := b }).1, node := warmNode s cause b a, last := warmNode s cause b a } := by
  have hreg : ∀ f : Fld, f.off ≠ Rg.pwrResetCauseCause.off → rd (warmNode s cause b a) f = bits (regReset f.off) f.lo f.w := fun f hf =>
    (rd_wr_off _ Rg.pwrResetCauseWarm f _ hf).trans (rd_wr_off (resetNode false _) Rg.pwrResetCauseCause f _ hf)
  have hcause : rd (warmNode s cause b a) Rg.pwrResetCauseCause = if stopped s.node && 3 ≤ rd s.node Rg.pwrStatusHaltCause then 4 else cause := by
    refine (rd_wr_field _ Rg.pwrResetCauseWarm Rg.pwrResetCauseCause _ rfl (by decide) (by decide)).trans ((rd_wr_self _ _ _ (by decide)).trans (Nat.mod_eq_of_lt ?_))
    split
    · decide
    · exact hc
  have hwarm : rd (warmNode s cause b a) Rg.pwrResetCauseWarm = satTo 16 (rd s.node Rg.pwrResetCauseWarm + 1) :=
    (rd_wr_self _ Rg.pwrResetCauseWarm _ (by decide)).trans (Nat.mod_eq_of_lt (satTo_lt 16 _))
  exact ⟨rfl, rfl, rfl, rfl, hcause, hwarm, rfl, rfl, rfl, (hreg _ (by decide)).trans tenant_reset, (hreg _ (by decide)).trans ready_reset, hreg, rfl, rfl, rfl, rfl, rfl, rfl⟩

/-- The boot flash alone is written while reset is held (R421). -/
theorem programFlash_brd (fl : Option Flash) (n : Node) : ∃ b, programFlash fl n = { n with brd := b } := by
  cases fl with
  | none => exact ⟨n.brd, rfl⟩
  | some x => exact ⟨_, rfl⟩

theorem resetN_leaves (s : State) (fl : Option Flash) : ∃ t : State, exec (.resetN fl) s = .next t ∧ ResetLeft s 1 t ∧ t.node.svc.arrivals = [] := by
  obtain ⟨b, hb⟩ := programFlash_brd fl s.node
  have hexec : exec (.resetN fl) s = .next { s with tck := (warmReset 1 s.tck (programFlash fl s.node)).1, node := (warmReset 1 s.tck (programFlash fl s.node)).2, last := (warmReset 1 s.tck (programFlash fl s.node)).2 } := rfl
  rw [hb] at hexec
  exact ⟨_, hexec, warmNode_left (by decide) b [], rfl⟩

theorem ctlReset_leaves (s : State) (hw : Writable s.node) : ∃ t : State, exec (.pwrCtlReset .mgmt) s = .next t ∧ ResetLeft s 2 t ∧ t.node.svc.arrivals = [] := by
  have hexec : exec (.pwrCtlReset .mgmt) s = .next { s with tck := (whenOpenT (ctlReset .mgmt) s.tck s.node).1, node := (whenOpenT (ctlReset .mgmt) s.tck s.node).2, last := if (true && !regsShut s.node) = true then (whenOpenT (ctlReset .mgmt) s.tck s.node).2 else s.last } := rfl
  rw [show whenOpenT (ctlReset .mgmt) s.tck s.node = warmReset 2 s.tck s.node from if_neg (by rw [hw]; decide), if_pos (by rw [hw]; rfl)] at hexec
  exact ⟨_, hexec, warmNode_left (by decide) s.node.brd [], rfl⟩

theorem ctlReset_ignored (s : State) (hw : Writable s.node) (src : Req) (hs : src ≠ .mgmt) : exec (.pwrCtlReset src) s = .next (s.withNode (raise s.tck s.node evPwrWriteIgnored (leBytes 4 Rg.pwrCtlReset.off))) := by
  have hexec : exec (.pwrCtlReset src) s = .next { s with tck := (whenOpenT (ctlReset src) s.tck s.node).1, node := (whenOpenT (ctlReset src) s.tck s.node).2, last := if (src == .mgmt && !regsShut s.node) = true then (whenOpenT (ctlReset src) s.tck s.node).2 else s.last } := rfl
  rw [show whenOpenT (ctlReset src) s.tck s.node = ctlReset src s.tck s.node from if_neg (by rw [hw]; decide), if_neg (by simp [hs])] at hexec
  rw [hexec]
  cases src with
  | mgmt => exact absurd rfl hs
  | host _ _ => rfl
  | qp _ => rfl

theorem watchdog_leaves (s : State) : ∃ t : State, exec .watchdogExpiry s = .next t ∧ ResetLeft s 3 t ∧ t.node.svc.arrivals.map (·.code) = if s.node.svc.switched.isSome then [evUpdateRollback] else [] := by
  have hexec : exec .watchdogExpiry s = .next { s with tck := (warmReset 3 s.tck s.node).1, node := rollback (warmReset 3 s.tck s.node).1 (warmReset 3 s.tck s.node).2 s.node, last := rollback (warmReset 3 s.tck s.node).1 (warmReset 3 s.tck s.node).2 s.node } := rfl
  by_cases hsw : s.node.svc.switched.isSome = true
  · rw [rollback, if_pos hsw] at hexec
    rw [if_pos hsw]
    exact ⟨_, hexec, warmNode_left (by decide) s.node.brd (raise (warmReset 3 s.tck s.node).1 (warmReset 3 s.tck s.node).2 evUpdateRollback []).svc.arrivals, codes_raise _ _ _ _⟩
  · rw [rollback, if_neg hsw] at hexec
    rw [if_neg hsw]
    exact ⟨_, hexec, warmNode_left (by decide) s.node.brd [], rfl⟩

theorem powerOnReset_leaves (s : State) (fl : Option Flash) : ∃ t : State, exec (.powerOnReset fl) s = .next t ∧ t.tck = Tck.reset ∧ t.last = t.node ∧ t.pending = s.pending ∧ (∀ f : Fld, rd t.node f = bits (regReset f.off) f.lo f.w)
      ∧ t.node.fe = Front.reset ∧ t.node.att = Att.reset ∧ t.node.seqs = Seqs.reset ∧ tenantState t.node = tsEmpty ∧ t.node.hmem = s.node.hmem ∧ t.node.t1 = s.node.t1 ∧ t.node.svc.slots = s.node.svc.slots
      ∧ t.node.svc.hours = s.node.svc.hours ∧ t.node.svc.cycles = s.node.svc.cycles + 1 ∧ t.node.svc.token = none := by
  obtain ⟨b, hb⟩ := programFlash_brd fl s.node
  have hexec : exec (.powerOnReset fl) s = .next { s with tck := Tck.reset, node := resetNode true (programFlash fl s.node), last := resetNode true (programFlash fl s.node) } := rfl
  rw [hb] at hexec
  exact ⟨_, hexec, rfl, rfl, rfl, fun _ => rfl, rfl, rfl, rfl, tenant_reset, rfl, rfl, rfl, rfl, rfl, rfl⟩

/-! ## Power lost (R394) -/

theorem lossWithWarning (s : State) (torn : Bool) (hp : s.node.pwr.step < 6) (hs : stopped s.node = false) :
    ∃ t : State, exec (.lossOfPower true torn) s = .next t ∧ t.node.pwr.step = 6 ∧ t.node.pwr.halting = some 2 ∧ t.tck.upstream = none ∧ t.node.fe = s.node.fe := by
  obtain ⟨t, hexec, hstep, -, -, hhalt, -, hup, hfe⟩ := pwrFailN_acts s hp hs
  exact ⟨t, (rfl : exec (.lossOfPower true torn) s = exec .pwrFailN s).trans hexec, hstep, hhalt, hup, hfe⟩

/-- What an unpowered node keeps. -/
theorem tearSlot_frame (v : Node → β) (hv : ∀ (m : Node) x y, v { m with svc := { m.svc with slots := x, seqNext := y } } = v m) (n : Node) : v (tearSlot n) = v n := by
  unfold tearSlot
  split
  · rfl
  · split
    · rfl
    · exact hv _ _ _

theorem tearSlot_tears (ha : n.svc.arrivals ≠ []) (hs : n.svc.slots.length < evrSlots) : ∃ r : Bytes, (tearSlot n).svc.slots = n.svc.slots ++ [r] ∧ field r 0 4 = 0xFFFFFFFF := by
  obtain ⟨e, l, he⟩ := List.exists_cons_of_ne_nil ha
  refine ⟨evrRecord n e 0xFFFFFFFF 0 false (e.args.take 8), ?_, field_evrRecord_seq _ _ _ _ _ _⟩
  simp only [tearSlot, he]
  rw [if_neg (Nat.not_le.mpr hs)]
  rfl

theorem lossWithout (s : State) (torn : Bool) : ∃ t : State, exec (.lossOfPower false torn) s = .next t ∧ stopped t.node = true ∧ t.node.fe = Front.reset ∧ t.node.hmem = s.node.hmem ∧ t.tck.now = s.tck.now
        ∧ rd t.node Rg.pwrResetCauseCause = rd s.node Rg.pwrResetCauseCause ∧ rd t.node Rg.pwrResetCauseWarm = rd s.node Rg.pwrResetCauseWarm
        ∧ (torn = false → t.node.svc.slots = s.node.svc.slots)
        ∧ (torn = true → s.node.svc.arrivals ≠ [] → s.node.svc.slots.length < evrSlots → ∃ r : Bytes, t.node.svc.slots = s.node.svc.slots ++ [r] ∧ field r 0 4 = 0xFFFFFFFF) := by
  let m := if torn then tearSlot s.node else s.node
  let w := wr (resetNode false m) Rg.pwrResetCauseCause (rd s.node Rg.pwrResetCauseCause)
  let N := modPwr (wr w Rg.pwrResetCauseWarm (rd s.node Rg.pwrResetCauseWarm)) fun p => { p with halting := some 0, haltStage := 3 }
  have hexec : exec (.lossOfPower false torn) s = .next { s with tck := { Tck.reset with now := s.tck.now, everGm := s.tck.everGm }, node := N, last := N } := rfl
  have hmem : m.hmem = s.node.hmem := by
    unfold m
    split
    · exact tearSlot_frame (·.hmem) (fun _ _ _ => rfl) _
    · rfl
  have hcause : rd w Rg.pwrResetCauseCause = rd s.node Rg.pwrResetCauseCause := (rd_wr_self _ _ _ (by decide)).trans (Nat.mod_eq_of_lt (bits_lt _ _ _))
  refine ⟨_, hexec, rfl, rfl, hmem, rfl, (rd_wr_field w Rg.pwrResetCauseWarm Rg.pwrResetCauseCause _ rfl (by decide) (by decide)).trans hcause,
    (rd_wr_self w Rg.pwrResetCauseWarm _ (by decide)).trans (Nat.mod_eq_of_lt (bits_lt _ _ _)), fun h => ?_, fun h ha hs => ?_⟩
  · subst h
    rfl
  · subst h
    exact tearSlot_tears ha hs

/-! ## Buses, host ports and modules (R415, R423, R433) -/

theorem busLoss_acts (s : State) (bus : Fin 5) (dev : BitVec 8) (c : Nat) (hc : c = mgetD s.node.brd.busTries (256 * bus.val + dev.toNat) 0) :
      (c < 8 → exec (.busArbitrationLoss bus dev) s = .next (s.withNode { s.node with brd := { s.node.brd with busTries := mset s.node.brd.busTries (256 * bus.val + dev.toNat) (c + 1) } }))
      ∧ (8 ≤ c → ∃ N : Node, exec (.busArbitrationLoss bus dev) s = .next (s.withNode N) ∧ mget? N.brd.busTries (256 * bus.val + dev.toNat) = none ∧ N.bank = s.node.bank
          ∧ N.svc.arrivals.map (fun e => (e.code, e.args)) = s.node.svc.arrivals.map (fun e => (e.code, e.args)) ++ [(evIdBus, leBytes 1 bus.val ++ leBytes 1 dev.toNat)]) := by
  have hexec : exec (.busArbitrationLoss bus dev) s = .next (s.withNode (busLoss bus.val dev.toNat s.tck s.node)) := rfl
  unfold busLoss at hexec
  dsimp only at hexec
  rw [← hc] at hexec
  refine ⟨fun h => ?_, fun h => ?_⟩
  · rw [hexec, if_pos h]
    rfl
  · rw [if_neg (by omega)] at hexec
    exact ⟨_, hexec, (mget?_mdel _ _ _).trans (if_pos rfl), rfl, List.map_append⟩

theorem hostPortUp_trains (s : State) (half : Fin 4) (cxl : Bool) :
      (phaseFrom s.node 3 = true → (1, half.val) ∉ s.node.brd.trained → ∃ N : Node, exec (.hostPortLinkUp half cxl) s = .next (s.withNode N) ∧ (1, half.val) ∈ N.brd.trained ∧ N.bank = s.node.bank
        ∧ N.fe = s.node.fe ∧ (cxl = false → N.cxd = s.node.cxd) ∧ (cxl = true → (headOf N half.val).link = true))
      ∧ ((phaseFrom s.node 3 = false ∨ (1, half.val) ∈ s.node.brd.trained) → exec (.hostPortLinkUp half cxl) s = .next s) := by
  have hexec : exec (.hostPortLinkUp half cxl) s = .next (s.withNode (hostPortUp half.val cxl s.tck s.node)) := rfl
  refine ⟨fun hp hn => ?_, fun h => ?_⟩
  · have hfe : (noteTrained s.node 1 half.val).fe = s.node.fe := by unfold noteTrained; split <;> rfl
    have hcxd : (noteTrained s.node 1 half.val).cxd = s.node.cxd := by unfold noteTrained; split <;> rfl
    unfold hostPortUp at hexec
    dsimp only at hexec
    rw [if_pos (by simp [hp, hn])] at hexec
    cases cxl with
    | false => exact ⟨_, hexec, mem_noteTrained, noteTrained_bank _ _ _, hfe, fun _ => hcxd, fun h => Bool.noConfusion h⟩
    | true =>
      refine ⟨_, hexec, mem_noteTrained, noteTrained_bank _ _ _, hfe, fun h => Bool.noConfusion h, fun _ => ?_⟩
      exact congrArg HeadSt.link (mgetD_mset_self ..)
  · rw [hexec, hostPortUp, if_neg]
    obtain h | h := h
    · simp [h]
    · simp [h]

theorem mhas_mdel {γ : Type} (m : NMap γ) (k : Nat) : mhas (mdel m k) k = false := by rw [mhas, mget?_mdel, if_pos rfl]; rfl

/-- A view that poison, counters of errors and events are no part of. -/
structure PoisonBlind (v : Node → β) : Prop where
  mem : ∀ (m : Node) a b c, v { m with cxd := a, mic := b, ter := c } = v m
  svc : ∀ (m : Node) x, v { m with svc := x } = v m
  bank : ∀ (m : Node) x, v { m with bank := x } = v m

section

variable {v : Node → β} (h : PoisonBlind v)

include h

theorem PoisonBlind.poisonLine3 (n : Node) (a kind : Nat) : v (poisonLine3 n a kind) = v n := h.mem n n.cxd _ _

theorem PoisonBlind.burstBad (t : Tck) (n : Node) (ch : Nat) (b : Burst) (addr : Nat) : v (burstBad t n ch b addr) = v n := by
  have hp : v (poisonBurst n b addr) = v n := by
    cases b with
    | direct o => exact h.mem n _ _ n.ter
    | cache a => exact h.poisonLine3 n a 1
    | other _ => exact h.mem n n.cxd _ n.ter
  exact (h.svc _ _).trans ((h.bank _ _).trans hp)

/-- What the bursts that a module held leave (R226). -/
theorem PoisonBlind.burstsLost (t : Tck) (ch : Nat) (l : List (Burst × Nat)) (n : Node) : v (l.foldl (fun m b => if burstPoison m b.1 b.2 then m else Machine.burstBad t m ch b.1 b.2) n) = v n := by
  refine foldl_keeps v (fun m b => ?_) l n
  split
  · rfl
  · exact h.burstBad _ _ _ _ _

/-- What the sectors that a module held leave (R228). -/
theorem PoisonBlind.sectorsLost (t : Tck) (k : Nat) (l : List Nat) (n : Node) :
    v (l.foldl (fun m s => poisonSector (raise t (bump m (Rg.micFlashErrFail k) 1) evFlashCrc (leBytes 1 k ++ leBytes 8 (4096 * s))) s) n) = v n :=
  foldl_keeps v (fun _ _ => (foldl_keeps v (fun _ _ => h.poisonLine3 _ _ _) _ _).trans ((h.svc _ _).trans (h.bank _ _))) l n

end

theorem PoisonBlind.brd : PoisonBlind (·.brd) := ⟨fun _ _ _ _ => rfl, fun _ _ => rfl, fun _ _ => rfl⟩
theorem PoisonBlind.fe : PoisonBlind (·.fe) := ⟨fun _ _ _ _ => rfl, fun _ _ => rfl, fun _ _ => rfl⟩
theorem PoisonBlind.t1 : PoisonBlind (·.t1) := ⟨fun _ _ _ _ => rfl, fun _ _ => rfl, fun _ _ => rfl⟩

theorem moduleRemoved_flash (s : State) (u : BitVec 4) (lost : List (Burst × Nat)) (sectors : List Nat) (hh : mhas s.node.brd.flash u.toNat = true) :
    ∃ N : Node, exec (.moduleRemoved true u lost sectors) s = .next (s.withNode N) ∧ mhas N.brd.flash u.toNat = false ∧ N.brd.dimms = s.node.brd.dimms
        ∧ N.fe = s.node.fe ∧ N.t1 = s.node.t1 ∧ ((sectors = [] ∨ u.toNat ∈ s.node.mic.flashOut) → N.svc = s.node.svc ∧ N.bank = s.node.bank ∧ N.mic = s.node.mic) := by
  have hexec : exec (.moduleRemoved true u lost sectors) s = .next (s.withNode (moduleRemoved true u.toNat lost sectors s.tck s.node)) := rfl
  by_cases ho : u.toNat ∈ s.node.mic.flashOut
  · rw [show moduleRemoved true u.toNat lost sectors s.tck s.node = modBrd s.node fun b => { b with flash := mdel b.flash u.toNat } by simp [moduleRemoved, hh, ho]] at hexec
    exact ⟨_, hexec, mhas_mdel _ _, rfl, rfl, rfl, fun _ => ⟨rfl, rfl, rfl⟩⟩
  · rw [show moduleRemoved true u.toNat lost sectors s.tck s.node = flashGone u.toNat sectors s.tck s.node by simp [moduleRemoved, hh, ho]] at hexec
    have hview : ∀ {γ : Type} {v : Node → γ}, PoisonBlind v → (∀ (m : Node) x, v { m with brd := { m.brd with flash := x } } = v m) → v (flashGone u.toNat sectors s.tck s.node) = v s.node := fun h hb => (hb _ _).trans (h.sectorsLost _ _ _ _)
    refine ⟨_, hexec, mhas_mdel _ _, (congrArg Brd.dimms (PoisonBlind.brd.sectorsLost s.tck u.toNat _ s.node) :), hview .fe fun _ _ => rfl, hview .t1 fun _ _ => rfl, fun h => ?_⟩
    obtain rfl : sectors = [] := h.resolve_right ho
    exact ⟨rfl, rfl, rfl⟩

theorem moduleRemoved_dimm (s : State) (u : BitVec 4) (lost : List (Burst × Nat)) (sectors : List Nat) (hh : mhas s.node.brd.dimms u.toNat = true) :
    ∃ N : Node, exec (.moduleRemoved false u lost sectors) s = .next (s.withNode N) ∧ mhas N.brd.dimms u.toNat = false ∧ N.brd.flash = s.node.brd.flash
        ∧ N.fe = s.node.fe ∧ N.t1 = s.node.t1 ∧ ((lost = [] ∨ u.toNat ∈ s.node.mic.ddrOut) → N.svc = s.node.svc ∧ N.bank = s.node.bank ∧ N.mic = s.node.mic) := by
  have hexec : exec (.moduleRemoved false u lost sectors) s = .next (s.withNode (moduleRemoved false u.toNat lost sectors s.tck s.node)) := rfl
  by_cases ho : u.toNat ∈ s.node.mic.ddrOut
  · rw [show moduleRemoved false u.toNat lost sectors s.tck s.node = modBrd s.node fun b => { b with dimms := mdel b.dimms u.toNat } by simp [moduleRemoved, hh, ho]] at hexec
    exact ⟨_, hexec, mhas_mdel _ _, rfl, rfl, rfl, fun _ => ⟨rfl, rfl, rfl⟩⟩
  · rw [show moduleRemoved false u.toNat lost sectors s.tck s.node = dimmGone u.toNat lost s.tck s.node by simp [moduleRemoved, hh, ho]] at hexec
    have hview : ∀ {γ : Type} {v : Node → γ}, PoisonBlind v → (∀ (m : Node) x, v { m with brd := { m.brd with dimms := x } } = v m) → v (dimmGone u.toNat lost s.tck s.node) = v s.node := fun h hb => (hb _ _).trans (h.burstsLost _ _ _ _)
    refine ⟨_, hexec, mhas_mdel _ _, (congrArg Brd.flash (PoisonBlind.brd.burstsLost s.tck u.toNat _ s.node) :), hview .fe fun _ _ => rfl, hview .t1 fun _ _ => rfl, fun h => ?_⟩
    obtain rfl : lost = [] := h.resolve_right ho
    exact ⟨rfl, rfl, rfl⟩

theorem moduleRemoved_absent (s : State) (u : BitVec 4) (lost : List (Burst × Nat)) (sectors : List Nat) :
      (mhas s.node.brd.flash u.toNat = false → exec (.moduleRemoved true u lost sectors) s = .next s)
      ∧ (mhas s.node.brd.dimms u.toNat = false → exec (.moduleRemoved false u lost sectors) s = .next s) := by
  have hexec : ∀ f, exec (.moduleRemoved f u lost sectors) s = .next (s.withNode (moduleRemoved f u.toNat lost sectors s.tck s.node)) := fun _ => rfl
  refine ⟨fun h => ?_, fun h => ?_⟩
  · rw [hexec, show moduleRemoved true u.toNat lost sectors s.tck s.node = s.node by simp [moduleRemoved, h]]
  · rw [hexec, show moduleRemoved false u.toNat lost sectors s.tck s.node = s.node by simp [moduleRemoved, h]]

/-! ## Start-up (R418 to R423) -/

/-- A phase whose work is done within its limit ends. -/
theorem startUp_ends {w : BootWork} {ms : BitVec 32} {x : Tck × Node} (hs : stopped s.node = false) (hlo : s.node.brd.phaseMs ≤ ms.toNat) (hhi : ms.toNat ≤ s.node.brd.phaseMs + phaseLimit (rd s.node Rg.nidBootPhase))
    (hx : endPhase w false ms.toNat s.tck s.node = x) : exec (.startUp w ms) s = .next { s with tck := x.1, node := x.2 } := by
  have hexec : exec (.startUp w ms) s = .next { s with tck := (startUp w ms.toNat s.tck s.node).1, node := (startUp w ms.toNat s.tck s.node).2 } := rfl
  have hgo : startUp w ms.toNat s.tck s.node = x := by
    rw [← hx]
    unfold startUp
    dsimp only
    rw [hs, if_neg]
    simp
    omega
  rw [hexec, hgo]

/-- A phase at its limit ends as far as it has come. -/
theorem phaseLimit_ends {w : BootWork} {ms : BitVec 32} {x : Tck × Node} (hs : stopped s.node = false) (hp : rd s.node Rg.nidBootPhase < 9) (hlo : s.node.brd.phaseMs + phaseLimit (rd s.node Rg.nidBootPhase) ≤ ms.toNat)
    (hx : endPhase w true ms.toNat s.tck s.node = x) : exec (.phaseLimit w ms) s = .next { s with tck := x.1, node := x.2 } := by
  have hexec : exec (.phaseLimit w ms) s = .next { s with tck := (phaseLimitAt w ms.toNat s.tck s.node).1, node := (phaseLimitAt w ms.toNat s.tck s.node).2 } := rfl
  have hgo : phaseLimitAt w ms.toNat s.tck s.node = x := by
    rw [← hx]
    unfold phaseLimitAt
    dsimp only
    rw [hs, if_neg]
    simp
    omega
  rw [hexec, hgo]

theorem startUp_outside {w : BootWork} {ms : BitVec 32} (hp : rd s.node Rg.nidBootPhase < 9) (h : ms.toNat < s.node.brd.phaseMs ∨ s.node.brd.phaseMs + phaseLimit (rd s.node Rg.nidBootPhase) < ms.toNat) : exec (.startUp w ms) s = .next s := by
  have hexec : exec (.startUp w ms) s = .next { s with tck := (startUp w ms.toNat s.tck s.node).1, node := (startUp w ms.toNat s.tck s.node).2 } := rfl
  have hgo : startUp w ms.toNat s.tck s.node = (s.tck, s.node) := by
    unfold startUp
    dsimp only
    rw [if_pos]
    simp only [Bool.or_eq_true, Bool.and_eq_true, decide_eq_true_eq, bne_iff_ne]
    exact .inr ⟨by omega, h⟩
  rw [hexec, hgo]

theorem phaseLimit_early {w : BootWork} {ms : BitVec 32} (h : ms.toNat < s.node.brd.phaseMs + phaseLimit (rd s.node Rg.nidBootPhase)) : exec (.phaseLimit w ms) s = .next s := by
  have hexec : exec (.phaseLimit w ms) s = .next { s with tck := (phaseLimitAt w ms.toNat s.tck s.node).1, node := (phaseLimitAt w ms.toNat s.tck s.node).2 } := rfl
  have hgo : phaseLimitAt w ms.toNat s.tck s.node = (s.tck, s.node) := by
    unfold phaseLimitAt
    dsimp only
    rw [if_pos]
    simp [h]
  rw [hexec, hgo]

/-! What entering a phase leaves. -/

theorem rd_enterPhase_phase (hp : p < 16) (ms : Nat) (n : Node) : rd (enterPhase p ms n) Rg.nidBootPhase = p := (rd_wr_self n Rg.nidBootPhase p (by decide)).trans (Nat.mod_eq_of_lt hp)

theorem rd_enterPhase {f : Fld} (hf : f.off = 0x10 → 4 ≤ f.lo ∧ f.lo + f.w ≤ 32) (ms : Nat) (n : Node) : rd (enterPhase p ms n) f = rd n f := by
  by_cases h : f.off = 0x10
  · obtain ⟨hlo, hw⟩ := hf h
    exact rd_wr_field n Rg.nidBootPhase f p h hw (by simp only; omega)
  · exact rd_wr_off n Rg.nidBootPhase f p h

/-- Start-up that is abandoned (R423). -/
theorem rd_failBoot_phase (ms : Nat) (t : Tck) (n : Node) : rd (failBoot ms t n) Rg.nidBootPhase = 0xE :=
  (rd_wr_field (wr _ Rg.nidBootPhase 0xE) Rg.nidBootMs Rg.nidBootPhase _ rfl (by decide) (by decide)).trans (rd_wr_self _ _ _ (by decide))

/-- The ports and links idle once start-up has failed. -/
def portsIdle (n : Node) : Node := (List.range 8).foldl (fun m p => wr m (Rg.qstPortStatusUp p) 0) ((List.range 6).foldl (fun m b => wr m (Rg.qstBlStatusUp b) 0) n)

theorem portsIdle_frame (v : Node → β) (hp : ∀ (m : Node) p, v (wr m (Rg.qstPortStatusUp p) 0) = v m) (hb : ∀ (m : Node) b, v (wr m (Rg.qstBlStatusUp b) 0) = v m) (n : Node) : v (portsIdle n) = v n := by
  unfold portsIdle
  rw [foldl_keeps v (f := fun m p => wr m (Rg.qstPortStatusUp p) 0) hp, foldl_keeps v (f := fun m b => wr m (Rg.qstBlStatusUp b) 0) hb]

theorem portsIdle_svc (n : Node) : (portsIdle n).svc = n.svc := portsIdle_frame (·.svc) (fun _ _ => rfl) (fun _ _ => rfl) n

theorem rd_portsIdle {f : Fld} (hf : f.off < 0xC00000) (n : Node) : rd (portsIdle n) f = rd n f :=
  portsIdle_frame (rd · f) (fun m p => rd_wr_off m (Rg.qstPortStatusUp p) f 0 (by simp only; omega)) (fun m b => rd_wr_off m (Rg.qstBlStatusUp b) f 0 (by simp only; omega)) n

theorem failBoot_eq (ms : Nat) (t : Tck) (n : Node) : failBoot ms t n = wr (wr (portsIdle (raise t n evBootFail (leBytes 1 (rd n Rg.nidBootPhase)))) Rg.nidBootPhase 0xE) Rg.nidBootMs (satTo 16 ms) := rfl

theorem failBoot_codes (ms : Nat) (t : Tck) (n : Node) : (failBoot ms t n).svc.arrivals.map (·.code) = n.svc.arrivals.map (·.code) ++ [evBootFail] := by
  have hsvc : (failBoot ms t n).svc = (raise t n evBootFail (leBytes 1 (rd n Rg.nidBootPhase))).svc := by
    rw [failBoot_eq, ← portsIdle_svc]
    rfl
  rw [hsvc, codes_raise]

theorem rd_failBoot_ready (ms : Nat) (t : Tck) (n : Node) : rd (failBoot ms t n) Rg.cmdStatusReady = rd n Rg.cmdStatusReady := by
  rw [failBoot_eq]
  exact (rd_wr_off _ _ _ _ (by decide)).trans ((rd_wr_off _ _ _ _ (by decide)).trans (rd_portsIdle (by decide) _))

/-! ROM (R418 to R420). -/

/-- The node that shows the slot and the configuration it starts from. -/
def configured (cfg : Bytes) (slot : Nat) (n : Node) : Node :=
  wr (wr (wr (wr (wr (wr n Rg.nidBootSlot slot) Rg.nidBootFallback (b2n (slot != byteAt cfg 12 % 2))) Rg.nidNodeNodeId (field cfg 8 2)) Rg.nidNodeDomain (field cfg 10 2)) Rg.qstPfxLoPfx (field cfg 16 4)) Rg.qstPfxHiPfx (field cfg 20 4)

theorem startFrom_eq (cfg : Bytes) (slot ms : Nat) (n : Node) : ∃ sec, startFrom cfg slot ms n = enterPhase 1 ms (wr { configured cfg slot n with sec := sec } Rg.secSvnFwSvn (field (imageIn n slot) 8 2)) := ⟨_, rfl⟩

theorem rd_startFrom (cfg : Bytes) (slot ms : Nat) {f : Fld} (hf : f.off = 0x10 → 4 ≤ f.lo ∧ f.lo + f.w ≤ 32) (hs : f.off < 0xC00000) : rd (startFrom cfg slot ms n) f = rd (configured cfg slot n) f := by
  obtain ⟨sec, he⟩ := startFrom_eq cfg slot ms n
  rw [he]
  exact (rd_enterPhase hf _ _).trans (rd_wr_off { configured cfg slot n with sec := sec } Rg.secSvnFwSvn f _ (by simp only; omega))

theorem rd_configured_slot (cfg : Bytes) (slot : Nat) (n : Node) (hs : slot < 2) : rd (configured cfg slot n) Rg.nidBootSlot = slot := by
  unfold configured
  rw [rd_wr_off _ _ _ _ (by decide), rd_wr_off _ _ _ _ (by decide), rd_wr_off _ _ _ _ (by decide), rd_wr_off _ _ _ _ (by decide), rd_wr_field _ Rg.nidBootFallback Rg.nidBootSlot _ rfl (by decide) (by decide),
    rd_wr_self _ _ _ (by decide)]
  exact Nat.mod_eq_of_lt hs

theorem rd_configured_fallback (cfg : Bytes) (slot : Nat) (n : Node) : rd (configured cfg slot n) Rg.nidBootFallback = b2n (slot != byteAt cfg 12 % 2) := by
  unfold configured
  rw [rd_wr_off _ _ _ _ (by decide), rd_wr_off _ _ _ _ (by decide), rd_wr_off _ _ _ _ (by decide), rd_wr_off _ _ _ _ (by decide), rd_wr_self _ _ _ (by decide)]
  cases slot != byteAt cfg 12 % 2 <;> rfl

theorem rd_configured_nodeId (cfg : Bytes) (slot : Nat) (n : Node) : rd (configured cfg slot n) Rg.nidNodeNodeId = field cfg 8 2 % 2 ^ 13 := by
  unfold configured
  rw [rd_wr_off _ _ _ _ (by decide), rd_wr_off _ _ _ _ (by decide), rd_wr_field _ Rg.nidNodeDomain Rg.nidNodeNodeId _ rfl (by decide) (by decide), rd_wr_self _ _ _ (by decide)]

/-- What a start from a slot shows. -/
theorem startFrom_shows (cfg : Bytes) (slot ms : Nat) (n : Node) (hs : slot < 2) : rd (startFrom cfg slot ms n) Rg.nidBootPhase = 1 ∧ (startFrom cfg slot ms n).svc = n.svc ∧ rd (startFrom cfg slot ms n) Rg.nidBootSlot = slot
    ∧ rd (startFrom cfg slot ms n) Rg.nidBootFallback = b2n (slot != byteAt cfg 12 % 2) ∧ (startFrom cfg slot ms n).brd.phaseMs = ms ∧ rd (startFrom cfg slot ms n) Rg.nidNodeNodeId = field cfg 8 2 % 2 ^ 13 :=
  ⟨rd_enterPhase_phase (by decide) _ _, rfl, (rd_startFrom cfg slot ms (fun _ => by decide) (by decide)).trans (rd_configured_slot cfg slot n hs),
    (rd_startFrom cfg slot ms (fun _ => by decide) (by decide)).trans (rd_configured_fallback cfg slot n), rfl, (rd_startFrom cfg slot ms (fun h => by cases h) (by decide)).trans (rd_configured_nodeId cfg slot n)⟩

theorem markTorn_codes (n : Node) : (markTorn n).svc.arrivals = n.svc.arrivals := rfl

theorem romPhase_unconfigured (ms : Nat) (h : bootCfg n = none) : romPhase ms t n = failBoot ms t (raise t (markTorn n) evBootCfgBad []) := by
  have hb : bootCfg (markTorn n) = none := h
  simp only [romPhase, hb]

/-- The failure of a slot's image is recorded. -/
def imageBad (t : Tck) (n m : Node) (k : Nat) : Node := raise t m evBootImageBad (leBytes 1 k ++ leBytes 1 (imageCheck (imageIn n k)))

theorem romPhase_configured (ms : Nat) {cfg : Bytes} (h : bootCfg n = some cfg) : romPhase ms t n =
    if imageCheck (imageIn n (byteAt cfg 12 % 2)) = 0 then startFrom cfg (byteAt cfg 12 % 2) ms (markTorn n)
    else if imageCheck (imageIn n (1 - byteAt cfg 12 % 2)) = 0 then startFrom cfg (1 - byteAt cfg 12 % 2) ms (imageBad t n (markTorn n) (byteAt cfg 12 % 2))
    else failBoot ms t (imageBad t n (imageBad t n (markTorn n) (byteAt cfg 12 % 2)) (1 - byteAt cfg 12 % 2)) := by
  have hb : bootCfg (markTorn n) = some cfg := h
  simp only [romPhase, hb]
  rfl

/-! REG and IDENT (R413, R414). -/

theorem takeFound_all (base : Nat) (use : Node → Found → Node) (l : List Found) (hl : ∀ x ∈ l, x.reject = none) (n : Node) : takeFound base use t n l = l.foldl use n := by
  induction l generalizing n with
  | nil => rfl
  | cons d l ih =>
    have hd : d.reject = none := hl d (by simp)
    have hstep : takeFound base use t n (d :: l) = takeFound base use t (use n d) l := by
      simp only [takeFound, List.foldl_cons, hd]
    rw [hstep, ih (fun x hx => hl x (by simp [hx]))]
    rfl

theorem mhas_mset {γ : Type} (m : NMap γ) (k j : Nat) (x : γ) : mhas (mset m k x) j = (j == k || mhas m j) := by
  unfold mhas
  rw [mget?_mset]
  by_cases h : j = k
  · simp [h]
  · simp [h]

/-- Every module taken is fitted. -/
theorem mhas_useDimms (l : List Found) (n : Node) (k : Nat) : mhas (l.foldl useDimm n).brd.dimms k = (l.any (·.dev == k) || mhas n.brd.dimms k) := by
  induction l generalizing n with
  | nil => rfl
  | cons d l ih =>
    rw [List.foldl_cons, ih, useDimm, modBrd, mhas_mset, List.any_cons, ← Bool.or_assoc, Bool.or_comm (l.any _), Bool.beq_comm]

theorem mhas_useFlashes (l : List Found) (n : Node) (k : Nat) : mhas (l.foldl useFlash n).brd.flash k = (l.any (·.dev == k) || mhas n.brd.flash k) := by
  induction l generalizing n with
  | nil => rfl
  | cons d l ih =>
    rw [List.foldl_cons, ih, useFlash, modBrd, mhas_mset, List.any_cons, ← Bool.or_assoc, Bool.or_comm (l.any _), Bool.beq_comm]

/-- A view that media and identities are no part of. -/
theorem setMedia_frame (v : Node → β) (hb : ∀ (m : Node) x, v { m with bank := x } = v m) (hq : ∀ (m : Node) x, v { m with qst := x } = v m) (media : List (Nat × Nat)) (l : List Nat) (n : Node) : v (l.foldl (setMedia media) n) = v n := by
  refine foldl_keeps v (fun m p => ?_) l n
  have hnone : ∀ kr : Bool, v (if kr then wr m (Rg.qstPortCfgMedia p) (if kr then 1 else 3)
      else { wr m (Rg.qstPortCfgMedia p) (if kr then 1 else 3) with qst := { m.qst with absent := p :: m.qst.absent } }) = v m := by
    intro kr
    cases kr with
    | true => exact hb _ _
    | false => exact (hq (wr m (Rg.qstPortCfgMedia p) 3) _).trans (hb _ _)
  unfold setMedia
  dsimp only
  split
  · exact hb _ _
  · exact hnone _

theorem identPhase_fits (d f : List Found) (m : List (Nat × Nat)) (hr : ∀ x ∈ d ++ f, x.reject = none) (ms : Nat) (t : Tck) (n : Node) :
    (identPhase d f m ms t n).svc = n.svc ∧ (∀ x ∈ d, x.dev < 12 → mhas (identPhase d f m ms t n).brd.dimms x.dev = true) ∧ ∀ x ∈ f, x.dev < 8 → mhas (identPhase d f m ms t n).brd.flash x.dev = true := by
  let n1 := (d.filter (·.dev < 12)).foldl useDimm n
  let n2 := (f.filter (·.dev < 8)).foldl useFlash n1
  have he : identPhase d f m ms t n = enterPhase 3 ms (modBrd ((List.range 8).foldl (setMedia m) n2) fun b => { b with busTries := [] }) := by
    unfold identPhase
    dsimp only
    rw [takeFound_all 0 useDimm _ (fun x hx => hr x (by simp [(List.mem_filter.mp hx).1])), takeFound_all 16 useFlash _ (fun x hx => hr x (by simp [(List.mem_filter.mp hx).1]))]
  have hbrd : ((List.range 8).foldl (setMedia m) n2).brd = n2.brd := setMedia_frame (·.brd) (fun _ _ => rfl) (fun _ _ => rfl) _ _ _
  have hsvc : ((List.range 8).foldl (setMedia m) n2).svc = n2.svc := setMedia_frame (·.svc) (fun _ _ => rfl) (fun _ _ => rfl) _ _ _
  have hn2 : n2.svc = n.svc := (foldl_keeps (f := useFlash) (·.svc) (fun _ _ => rfl) _ _).trans (foldl_keeps (f := useDimm) (·.svc) (fun _ _ => rfl) _ _)
  have hdimms : n2.brd.dimms = n1.brd.dimms := foldl_keeps (f := useFlash) (·.brd.dimms) (fun _ _ => rfl) _ _
  rw [he]
  refine ⟨hsvc.trans hn2, fun x hx h12 => ?_, fun x hx h8 => ?_⟩
  · change mhas ((List.range 8).foldl (setMedia m) n2).brd.dimms x.dev = true
    rw [hbrd, hdimms, mhas_useDimms, Bool.or_eq_true]
    exact .inl (List.any_eq_true.mpr ⟨x, List.mem_filter.mpr ⟨hx, by simpa using h12⟩, beq_self_eq_true _⟩)
  · change mhas ((List.range 8).foldl (setMedia m) n2).brd.flash x.dev = true
    rw [hbrd, mhas_useFlashes, Bool.or_eq_true]
    exact .inl (List.any_eq_true.mpr ⟨x, List.mem_filter.mpr ⟨hx, by simpa using h8⟩, beq_self_eq_true _⟩)

/-! TRAIN (R423). -/

/-- The parts that a list names as trained, noted. -/
def trainedNoted (l : List (Nat × Nat)) (n : Node) : Node := l.foldl (fun m d => if d.1 = 0 || d.1 = 2 || d.1 = 5 then noteTrained m d.1 d.2 else m) n

theorem trainedNoted_frame (v : Node → β) (hv : ∀ (m : Node) x, v { m with brd := x } = v m) (l : List (Nat × Nat)) (n : Node) : v (trainedNoted l n) = v n := by
  refine foldl_keeps v (fun m d => ?_) l n
  split
  · unfold noteTrained
    split
    · rfl
    · exact hv _ _
  · rfl

theorem mem_noteTrained_iff {a : Nat × Nat} {c : Nat} : a ∈ (noteTrained n c k).brd.trained ↔ a = (c, k) ∨ a ∈ n.brd.trained := by
  unfold noteTrained
  split
  · next h =>
    have := List.contains_iff_mem.mp h
    exact ⟨.inr, fun h => h.elim (fun e => e ▸ this) id⟩
  · simp [or_comm]

theorem mem_trainedNoted (l : List (Nat × Nat)) (n : Node) (k : Nat) : (0, k) ∈ (trainedNoted l n).brd.trained ↔ (0, k) ∈ l ∨ (0, k) ∈ n.brd.trained := by
  induction l generalizing n with
  | nil => simp [trainedNoted]
  | cons d l ih =>
    have hstep : trainedNoted (d :: l) n = trainedNoted l (if d.1 = 0 || d.1 = 2 || d.1 = 5 then noteTrained n d.1 d.2 else n) := rfl
    rw [hstep, ih, List.mem_cons, or_assoc, or_left_comm]
    refine or_congr Iff.rfl ?_
    split
    · exact mem_noteTrained_iff
    · next h =>
      have hne : (0, k) ≠ d := fun he => h (by rw [← he]; rfl)
      simp [hne]

theorem untrained_frame (v : Node → β) (hs : ∀ (m : Node) x, v { m with svc := x } = v m) {out : Node → Nat → Node} (ho : ∀ m k, v (out m k) = v m) (cls : Nat) (l : List Nat) (n : Node) : v (l.foldl (untrained t cls out) n) = v n :=
  foldl_keeps v (fun _ _ => (ho _ _).trans (hs _ _)) l n

theorem untrained_stacks (cls : Nat) (l : List Nat) (n : Node) : (l.foldl (untrained t cls fun m k => { m with mic := { m.mic with stacksOut := m.mic.stacksOut ++ [k] } }) n).mic.stacksOut = n.mic.stacksOut ++ l := by
  induction l generalizing n with
  | nil => simp
  | cons a l ih =>
    rw [List.foldl_cons, ih]
    change (n.mic.stacksOut ++ [a]) ++ l = _
    rw [List.append_assoc, List.singleton_append]

/-- The stacks that have not trained. -/
def stacksMissing (l : List (Nat × Nat)) (n : Node) : List Nat := (List.range 8).filter fun k => !(trainedNoted l n).brd.trained.contains (0, k)

/-- What training leaves out of service, and no register changed (R423). -/
theorem trainPhase_eq (l : List (Nat × Nat)) (ms : Nat) (t : Tck) (n : Node) (hout : n.mic.stacksOut = []) :
    ∃ m : Node, m.mic.stacksOut = stacksMissing l n ∧ m.bank = n.bank ∧ trainPhase l ms t n = if 8 ≤ (stacksMissing l n).length then failBoot ms t m else enterPhase 4 ms m := by
  let n1 := trainedNoted l n
  let miss (cls : Nat) (l : List Nat) : List Nat := l.filter fun k => !n1.brd.trained.contains (cls, k)
  let n2 := (miss 0 (List.range 8)).foldl (untrained t 0 fun m k => { m with mic := { m.mic with stacksOut := m.mic.stacksOut ++ [k] } }) n1
  let n3 := (miss 5 (mkeys n.brd.dimms)).foldl (untrained t 5 fun m k => { m with mic := { m.mic with ddrOut := m.mic.ddrOut ++ [k] } }) n2
  let n4 := (miss 2 (mkeys n.brd.flash)).foldl (untrained t 2 fun m k => { m with mic := { m.mic with flashOut := m.mic.flashOut ++ [k] } }) n3
  let n5 := (miss 3 (List.range 6)).foldl (untrained t 3 fun m _ => m) n4
  have hkeep : ∀ {γ : Type} (v : Node → γ), (∀ (m : Node) x, v { m with svc := x } = v m) → (∀ (m : Node) x y, v { m with mic := { m.mic with ddrOut := x, flashOut := y } } = v m) → v n5 = v n2 := by
    intro γ v hs hm
    have h5 : v n5 = v n4 := untrained_frame v hs (fun _ _ => rfl) 3 _ n4
    have h4 : v n4 = v n3 := untrained_frame v hs (fun m _ => hm m m.mic.ddrOut _) 2 _ n3
    have h3 : v n3 = v n2 := untrained_frame v hs (fun m _ => hm m _ m.mic.flashOut) 5 _ n2
    rw [h5, h4, h3]
  have hafter : n5.mic.stacksOut = n2.mic.stacksOut := hkeep (·.mic.stacksOut) (fun _ _ => rfl) fun _ _ _ => rfl
  have hstacks : n5.mic.stacksOut = stacksMissing l n := by
    rw [hafter, untrained_stacks, show n1.mic = n.mic from trainedNoted_frame (·.mic) (fun _ _ => rfl) l n, hout, List.nil_append]
    rfl
  have hn2 : n2.bank = n1.bank := untrained_frame (·.bank) (fun _ _ => rfl) (out := fun m k => { m with mic := { m.mic with stacksOut := m.mic.stacksOut ++ [k] } }) (fun _ _ => rfl) 0 _ n1
  have hbank : n5.bank = n.bank := (hkeep (·.bank) (fun _ _ => rfl) fun _ _ _ => rfl).trans (hn2.trans (trainedNoted_frame (·.bank) (fun _ _ => rfl) l n))
  have he : trainPhase l ms t n = if 8 ≤ n5.mic.stacksOut.length then failBoot ms t n5 else enterPhase 4 ms n5 := rfl
  rw [hstacks] at he
  exact ⟨n5, hstacks, hbank, he⟩

theorem mem_stacksMissing {l : List (Nat × Nat)} (hk : k < 8) : k ∈ stacksMissing l n ↔ (0, k) ∉ l ∧ (0, k) ∉ n.brd.trained := by
  rw [stacksMissing, List.mem_filter, Bool.not_eq_true', ← Bool.not_eq_true, List.contains_iff_mem, mem_trainedNoted, not_or]
  simp [hk]

theorem stacksMissing_some {l : List (Nat × Nat)} (h : ∃ k, k < 8 ∧ ((0, k) ∈ l ∨ (0, k) ∈ n.brd.trained)) : ¬ 8 ≤ (stacksMissing l n).length := by
  obtain ⟨k, hk, hin⟩ := h
  rw [not_le]
  refine (List.length_filter_lt_length_iff_exists.mpr ⟨k, List.mem_range.mpr hk, ?_⟩).trans_eq List.length_range
  have := (mem_trainedNoted l n k).mpr hin
  simpa using this

theorem stacksMissing_all {l : List (Nat × Nat)} (h : ∀ k, k < 8 → (0, k) ∉ l ∧ (0, k) ∉ n.brd.trained) : 8 ≤ (stacksMissing l n).length := by
  have hall : stacksMissing l n = List.range 8 := by
    refine List.filter_eq_self.mpr fun k hk => ?_
    have hno : (0, k) ∉ (trainedNoted l n).brd.trained := fun hin => ((mem_trainedNoted l n k).mp hin).elim (h k (List.mem_range.mp hk)).1 (h k (List.mem_range.mp hk)).2
    simpa using hno
  rw [hall, List.length_range]

/-! READY (R423, R424). -/

theorem rd_readyPhase (ms : Nat) (t : Tck) (n : Node) : rd (readyPhase ms t n) Rg.nidBootPhase = 0xF ∧ rd (readyPhase ms t n) Rg.cmdStatusReady = 1 ∧ rd (readyPhase ms t n) Rg.nidBootMs = satTo 16 ms := by
  let a := enterPhase 0xF ms n
  let b := wr a Rg.nidBootMs (satTo 16 ms)
  have hoff : ∀ f : Fld, f.off = 0x10 → rd (readyPhase ms t n) f = rd b f := fun f hf => rd_wr_off b Rg.cmdStatusReady f 1 (by simp only; omega)
  exact ⟨(hoff _ rfl).trans ((rd_wr_field a Rg.nidBootMs Rg.nidBootPhase _ rfl (by decide) (by decide)).trans (rd_enterPhase_phase (by decide) _ _)), rd_wr_self b Rg.cmdStatusReady 1 (by decide),
    (hoff _ rfl).trans ((rd_wr_self a Rg.nidBootMs _ (by decide)).trans (Nat.mod_eq_of_lt (satTo_lt 16 ms)))⟩

/-- FW: what firmware that runs shows, and the march tests of start-up. -/
theorem fwPhase_runs (ms : Nat) (n : Node) : rd (fwPhase true ms n) Rg.nidBootPhase = 5 ∧ rd (fwPhase true ms n) Rg.cmdStatusFwRun = 1 ∧ (fwPhase true ms n).svc.march = (match bootCfg n with
          | some c => if byteAt c 13 = 1 then bootMarch else n.svc.march
          | none => n.svc.march) := by
  let m := enterPhase 5 ms (wr n Rg.cmdStatusFwRun 1)
  have hphase : rd m Rg.nidBootPhase = 5 := rd_enterPhase_phase (by decide) _ _
  have hrun : rd m Rg.cmdStatusFwRun = 1 := (rd_enterPhase (fun h => by cases h) _ _).trans (rd_wr_self _ _ _ (by decide))
  cases hc : bootCfg n with
  | none =>
    rw [show fwPhase true ms n = m by simp only [fwPhase, hc]; rfl]
    exact ⟨hphase, hrun, rfl⟩
  | some c =>
    by_cases h1 : byteAt c 13 = 1
    · rw [show fwPhase true ms n = wr { m with svc := { m.svc with march := bootMarch } } Rg.nidBootMarched 1 by simp only [fwPhase, hc]; rw [if_pos (by simpa using h1)]; rfl]
      exact ⟨(rd_wr_field { m with svc := { m.svc with march := bootMarch } } Rg.nidBootMarched Rg.nidBootPhase 1 rfl (by decide) (by decide)).trans hphase,
        (rd_wr_off { m with svc := { m.svc with march := bootMarch } } Rg.nidBootMarched Rg.cmdStatusFwRun 1 (by decide)).trans hrun, (if_pos h1).symm⟩
    · rw [show fwPhase true ms n = m by simp only [fwPhase, hc]; rw [if_neg (by simpa using h1)]; rfl]
      exact ⟨hphase, hrun, (if_neg h1).symm⟩

/-! ## Phase by phase (R418 to R423) -/

/-- The running phase's work done leads to phase `q`. -/
def Goes (s : State) (ms : BitVec 32) (w : BootWork) (q : Nat) (P : Node → Prop) : Prop := ∃ N : Node, exec (.startUp w ms) s = .next (s.withNode N) ∧ rd N Rg.nidBootPhase = q ∧ P N

/-- The events that wait are joined by those of `l`. -/
def Also (s : State) (l : List Nat) (N : Node) : Prop := N.svc.arrivals.map (·.code) = s.node.svc.arrivals.map (·.code) ++ l

theorem Also.none {N : Node} (h : N.svc = s.node.svc) : Also s [] N := by rw [Also, h, List.append_nil]

/-- A node in a phase of start-up within its limit. -/
structure InPhase (s : State) (ms : BitVec 32) (p : Nat) : Prop where
  runs : stopped s.node = false
  phase : rd s.node Rg.nidBootPhase = p
  begun : s.node.brd.phaseMs ≤ ms.toNat
  within : ms.toNat ≤ s.node.brd.phaseMs + phaseLimit p

theorem InPhase.goes {ms : BitVec 32} (h : InPhase s ms p) {w : BootWork} {N : Node} {q : Nat} {P : Node → Prop} (he : endPhase w false ms.toNat s.tck s.node = (s.tck, N)) (hq : rd N Rg.nidBootPhase = q) (hP : P N) : Goes s ms w q P :=
  ⟨N, startUp_ends h.runs h.begun (by rw [h.phase]; exact h.within) he, hq, hP⟩

section

variable {ms : BitVec 32}

/-- ROM (R418 to R420). -/
def RomGoes (s : State) (ms : BitVec 32) : Prop :=
  match bootCfg s.node with
  | none => Goes s ms .rom 0xE (Also s [evBootCfgBad, evBootFail])
  | some cfg => let a := byteAt cfg 12 % 2
    if imageCheck (imageIn s.node a) = 0 then Goes s ms .rom 1 fun N => Also s [] N ∧ rd N Rg.nidBootSlot = a ∧ rd N Rg.nidBootFallback = 0 ∧ N.brd.phaseMs = ms.toNat ∧ rd N Rg.nidNodeNodeId = field cfg 8 2 % 2 ^ 13
    else if imageCheck (imageIn s.node (1 - a)) = 0 then Goes s ms .rom 1 fun N => Also s [evBootImageBad] N ∧ rd N Rg.nidBootSlot = 1 - a ∧ rd N Rg.nidBootFallback = 1
    else Goes s ms .rom 0xE (Also s [evBootImageBad, evBootImageBad, evBootFail])

theorem imageBad_codes (m : Node) (k : Nat) : (imageBad t n m k).svc.arrivals.map (·.code) = m.svc.arrivals.map (·.code) ++ [evBootImageBad] := codes_raise _ _ _ _

theorem InPhase.rom (h : InPhase s ms 0) : RomGoes s ms := by
  have he : endPhase .rom false ms.toNat s.tck s.node = (s.tck, romPhase ms.toNat s.tck s.node) := by
    simp only [endPhase, h.phase]
    rfl
  unfold RomGoes
  split
  · next hc =>
    rw [romPhase_unconfigured _ hc] at he
    refine h.goes he (rd_failBoot_phase _ _ _) ?_
    rw [Also, failBoot_codes, codes_raise, List.append_assoc]
    rfl
  · next cfg hc =>
    rw [romPhase_configured _ hc] at he
    have ha : byteAt cfg 12 % 2 < 2 := Nat.mod_lt _ (by decide)
    dsimp only
    split
    · next hgood =>
      rw [if_pos hgood] at he
      obtain ⟨hphase, hsvc, hslot, hback, hms, hid⟩ := startFrom_shows cfg (byteAt cfg 12 % 2) ms.toNat (markTorn s.node) ha
      refine h.goes he hphase ⟨?_, hslot, hback.trans (by simp [b2n]), hms, hid⟩
      rw [Also, hsvc, List.append_nil]
      rfl
    · next hbad =>
      rw [if_neg hbad] at he
      split
      · next hgood =>
        rw [if_pos hgood] at he
        obtain ⟨hphase, hsvc, hslot, hback, -, -⟩ := startFrom_shows cfg (1 - byteAt cfg 12 % 2) ms.toNat (imageBad s.tck s.node (markTorn s.node) (byteAt cfg 12 % 2)) (by omega)
        have hne : (1 - byteAt cfg 12 % 2 != byteAt cfg 12 % 2) = true := bne_iff_ne.mpr (by omega)
        refine h.goes he hphase ⟨?_, hslot, hback.trans (by rw [hne]; rfl)⟩
        rw [Also, hsvc, imageBad_codes]
        rfl
      · next hbad' =>
        rw [if_neg hbad'] at he
        refine h.goes he (rd_failBoot_phase _ _ _) ?_
        rw [Also, failBoot_codes, imageBad_codes, imageBad_codes, List.append_assoc, List.append_assoc]
        rfl

/-- REG (R393, R414). -/
theorem InPhase.reg (h : InPhase s ms 1) : (∀ (l : List Nat) (amps : Nat), Goes s ms (.reg (some (l, amps))) 2 fun N => Also s [] N ∧ N.brd.pmbus = l ∧ N.brd.rated = some amps ∧ N.out = s.node.out ++ [.avsSet Config.fusedSetpoint])
          ∧ Goes s ms (.reg none) 2 fun N => Also s [evIdAbsent] N ∧ N.brd.pmbus = [0x40, 0x41, 0x42, 0x43, 0x44] ∧ N.out = s.node.out ++ [.avsSet Config.fusedSetpoint] := by
  have he : ∀ e, endPhase (.reg e) false ms.toNat s.tck s.node = (s.tck, regPhase e ms.toNat s.tck s.node) := fun e => by simp only [endPhase, h.phase]
  exact ⟨fun l amps => h.goes (he _) (rd_enterPhase_phase (by decide) _ _) ⟨.none rfl, rfl, rfl, rfl⟩, h.goes (he _) (rd_enterPhase_phase (by decide) _ _) ⟨codes_raise _ _ _ _, rfl, rfl⟩⟩

/-- IDENT (R413, R414). -/
theorem InPhase.ident (h : InPhase s ms 2) (d f : List Found) (m : List (Nat × Nat)) (hr : ∀ x ∈ d ++ f, x.reject = none) : Goes s ms (.ident d f m) 3 fun N => Also s [] N
          ∧ (∀ x ∈ d, x.dev < 12 → mhas N.brd.dimms x.dev = true) ∧ ∀ x ∈ f, x.dev < 8 → mhas N.brd.flash x.dev = true := by
  obtain ⟨hsvc, hd, hf⟩ := identPhase_fits d f m hr ms.toNat s.tck s.node
  have he : endPhase (.ident d f m) false ms.toNat s.tck s.node = (s.tck, identPhase d f m ms.toNat s.tck s.node) := by simp only [endPhase, h.phase]
  exact h.goes he (rd_enterPhase_phase (by decide) _ _) ⟨.none hsvc, hd, hf⟩

/-- TRAIN (R423). -/
theorem InPhase.train (h : InPhase s ms 3) (hout : s.node.mic.stacksOut = []) (l : List (Nat × Nat)) :
          ((∃ k, k < 8 ∧ ((0, k) ∈ l ∨ (0, k) ∈ s.node.brd.trained)) → Goes s ms (.train l) 4 fun N => ∀ k, k < 8 → (k ∈ N.mic.stacksOut ↔ (0, k) ∉ l ∧ (0, k) ∉ s.node.brd.trained))
          ∧ ((∀ k, k < 8 → (0, k) ∉ l ∧ (0, k) ∉ s.node.brd.trained) → Goes s ms (.train l) 0xE fun N => rd N Rg.cmdStatusReady = rd s.node Rg.cmdStatusReady) := by
  obtain ⟨m, hm, hbank, heq⟩ := trainPhase_eq l ms.toNat s.tck s.node hout
  have he : endPhase (.train l) false ms.toNat s.tck s.node = (s.tck, trainPhase l ms.toNat s.tck s.node) := by simp only [endPhase, h.phase]
  rw [heq] at he
  refine ⟨fun hsome => ?_, fun hnone => ?_⟩
  · rw [if_neg (stacksMissing_some hsome)] at he
    refine h.goes he (rd_enterPhase_phase (by decide) _ _) fun k hk => ?_
    rw [← mem_stacksMissing hk, ← hm]
    rfl
  · rw [if_pos (stacksMissing_all hnone)] at he
    exact h.goes he (rd_failBoot_phase _ _ _) ((rd_failBoot_ready _ _ _).trans (rd_of_bank _ hbank))

/-- TEST (R233). -/
theorem InPhase.test (h : InPhase s ms 5) (hm : ∀ j ∈ s.node.svc.march, j.why ≠ 2) (hc : s.node.mic.clustersOut.length < 32) : Goes s ms .test 6 fun N => N.svc.march = s.node.svc.march := by
  have hany : (s.node.svc.march.any fun j => j.why == 2) = false := List.any_eq_false.mpr fun j hj => by simpa using hm j hj
  have he : endPhase .test false ms.toNat s.tck s.node = (s.tck, testPhase ms.toNat s.tck s.node) := by
    simp only [endPhase, h.phase, hany]
    rfl
  have hkeep : (s.node.svc.march.filter fun j => j.why != 2) = s.node.svc.march := List.filter_eq_self.mpr fun j hj => bne_iff_ne.mpr (hm j hj)
  rw [show testPhase ms.toNat s.tck s.node = enterPhase 6 ms.toNat { s.node with svc := { s.node.svc with march := s.node.svc.march.filter fun j => j.why != 2 } } from if_neg (Nat.not_le.mpr hc)] at he
  exact h.goes he (rd_enterPhase_phase (by decide) _ _) hkeep

/-- TIME (R423). -/
theorem InPhase.time (h : InPhase s ms 7) : (timeRuns s.tck.state = true → Goes s ms .time 8 fun N => N.brd.phaseMs = ms.toNat) ∧ (timeRuns s.tck.state = false → exec (.startUp .time ms) s = .next s) := by
  refine ⟨fun hr => ?_, fun hr => ?_⟩
  · have he : endPhase .time false ms.toNat s.tck s.node = (s.tck, enterPhase 8 ms.toNat s.node) := by
      simp only [endPhase, h.phase, hr]
      rfl
    exact h.goes he (rd_enterPhase_phase (by decide) _ _) rfl
  · have he : endPhase .time false ms.toNat s.tck s.node = (s.tck, s.node) := by
      simp only [endPhase, h.phase, hr]
      rfl
    exact startUp_ends h.runs h.begun (by rw [h.phase]; exact h.within) he

/-- MAP (R423). -/
theorem InPhase.map (h : InPhase s ms 8) : exec (.startUp (.map none) ms) s = .next s ∧ ∀ m : FMap, ∃ t : State, exec (.startUp (.map (some m)) ms) s = .next t ∧ rd t.node Rg.nidBootPhase = 0xF
          ∧ rd t.node Rg.cmdStatusReady = 1 ∧ rd t.node Rg.nidBootMs = satTo 16 ms.toNat := by
  have hin : ms.toNat ≤ s.node.brd.phaseMs + phaseLimit (rd s.node Rg.nidBootPhase) := by rw [h.phase]; exact h.within
  refine ⟨?_, fun m => ?_⟩
  · have he : endPhase (.map none) false ms.toNat s.tck s.node = (s.tck, s.node) := by
      simp only [endPhase, h.phase]
      rfl
    exact startUp_ends h.runs h.begun hin he
  · have he : endPhase (.map (some m)) false ms.toNat s.tck s.node = ((learnMap m s.tck s.node).1, readyPhase ms.toNat (learnMap m s.tck s.node).1 (learnMap m s.tck s.node).2) := by
      simp only [endPhase, h.phase]
    exact ⟨_, startUp_ends h.runs h.begun hin he, rd_readyPhase _ _ _⟩

/-- What phases at their limit lead to (R423). -/
theorem limits_lead (hs : stopped s.node = false) (hp : p = rd s.node Rg.nidBootPhase) (h9 : p < 9) (hlo : s.node.brd.phaseMs + phaseLimit p ≤ ms.toNat) :
          (p = 0 → ∃ N : Node, exec (.phaseLimit .rom ms) s = .next (s.withNode N) ∧ rd N Rg.nidBootPhase = 0xE ∧ N.svc.arrivals.map (·.code) = s.node.svc.arrivals.map (·.code) ++ [evBootFail])
          ∧ (p = 7 → ∃ N : Node, exec (.phaseLimit .time ms) s = .next (s.withNode N) ∧ rd N Rg.nidBootPhase = 8 ∧ N.brd.phaseMs = ms.toNat)
          ∧ (p = 8 → ∃ N : Node, exec (.phaseLimit (.map none) ms) s = .next (s.withNode N) ∧ rd N Rg.nidBootPhase = 0xF ∧ rd N Rg.cmdStatusReady = 1) := by
  rw [hp] at h9 hlo
  have hends : ∀ {w : BootWork} {N : Node}, endPhase w true ms.toNat s.tck s.node = (s.tck, N) → exec (.phaseLimit w ms) s = .next (s.withNode N) := fun he => phaseLimit_ends hs h9 hlo he
  refine ⟨fun h => ?_, fun h => ?_, fun h => ?_⟩
  · have he : endPhase .rom true ms.toNat s.tck s.node = (s.tck, failBoot ms.toNat s.tck s.node) := by
      simp only [endPhase, hp.symm.trans h]
      rfl
    exact ⟨_, hends he, rd_failBoot_phase _ _ _, failBoot_codes _ _ _⟩
  · have he : endPhase .time true ms.toNat s.tck s.node = (s.tck, enterPhase 8 ms.toNat s.node) := by
      simp only [endPhase, hp.symm.trans h]
      rfl
    exact ⟨_, hends he, rd_enterPhase_phase (by decide) _ _, rfl⟩
  · have he : endPhase (.map none) true ms.toNat s.tck s.node = (s.tck, readyPhase ms.toNat s.tck s.node) := by
      simp only [endPhase, hp.symm.trans h]
      rfl
    obtain ⟨hphase, hready, -⟩ := rd_readyPhase ms.toNat s.tck s.node
    exact ⟨_, hends he, hphase, hready⟩

end

end

/-- Settles O55: a reset leaves the reset node but for what is kept, and each phase's own work alone ends it. -/
theorem resetsAndStartUp : Obligations.ResetsAndStartUp := by
  unfold Obligations.ResetsAndStartUp
  refine ⟨fun s hw => ⟨resetN_leaves s, ctlReset_leaves s hw, watchdog_leaves s, ctlReset_ignored s hw⟩, powerOnReset_leaves, fun s torn => ⟨lossWithWarning s torn, lossWithout s torn⟩, fun s ms p hs hp hlo hhi => ?_,
    fun s ms w p hp h9 => ⟨fun h => ?_, fun h => ?_, fun hs hlo => limits_lead hs hp h9 hlo⟩, by decide, busLoss_acts, hostPortUp_trains,
    fun s u lost sectors => ⟨moduleRemoved_flash s u lost sectors, moduleRemoved_dimm s u lost sectors, moduleRemoved_absent s u lost sectors⟩⟩
  · have hin : InPhase s ms p := ⟨hs, hp.symm, hlo, hhi⟩
    refine ⟨fun h => ?_, fun h => ?_, fun h => ?_, fun h => ?_, fun h => ?_, fun h => ?_, fun h => ?_, fun h => ?_, fun h => ?_⟩
    · subst h
      exact hin.rom
    · subst h
      exact hin.reg
    · subst h
      exact hin.ident
    · subst h
      exact hin.train
    · subst h
      obtain ⟨hphase, hrun, hmarch⟩ := fwPhase_runs ms.toNat s.node
      exact hin.goes (by simp only [endPhase, hin.phase]; rfl) hphase ⟨hrun, hmarch⟩
    · subst h
      exact hin.test
    · subst h
      have he : endPhase .zero false ms.toNat s.tck s.node = (s.tck, zeroPhase ms.toNat s.node) := by simp only [endPhase, hin.phase]
      exact hin.goes he (rd_enterPhase_phase (by decide) _ _) ⟨rfl, rfl⟩
    · subst h
      exact hin.time
    · subst h
      exact hin.map
  · rw [hp] at h9 h
    exact startUp_outside h9 h
  · rw [hp] at h
    exact phaseLimit_early h

end Sys2Proof.Machine
end

section
/-! Live update and recalibration (R418, R420, R425 to R430). -/

namespace Sys2Proof.Machine

section

variable {t : Tck} {n : Node} {s : State} {c : Cmd} {r : Recal} {k u : Nat} {β : Type}

/-! ## Sets checked again (R376) -/

theorem writeTrace_svc (t : Tck) (n : Node) (c : Cmd) : ∃ x, (writeTrace t n c).svc = { n.svc with trace := x } := by
  unfold writeTrace
  split
  · exact ⟨_, rfl⟩
  · exact ⟨n.svc.trace, rfl⟩

/-- What ending a command changes of the recorder, counters and monitor is its trace record (R437). -/
theorem complete_svc (t : Tck) (n : Node) (h st : Nat) (b : Bytes) : ∃ x, (complete t n h st b).svc = { n.svc with trace := x } := by
  unfold complete
  split
  · exact ⟨n.svc.trace, rfl⟩
  · next c _ =>
    split
    · exact ⟨n.svc.trace, rfl⟩
    · next q _ =>
      obtain ⟨x, hx⟩ := writeTrace_svc t (postEntry t n c.cq q (cplEntry t c q st b)) (if c.tagged then { c with stamps := c.stamps ++ [(6, t.now, t.u)] } else c)
      rw [postEntry_svc] at hx
      exact ⟨x, hx⟩

/-- What holds of a node still when commands end and sets are unbound. -/
structure RebindKeeps (P : Node → Prop) : Prop where
  complete : ∀ t n h st b, P n → P (complete t n h st b)
  engines : ∀ (n : Node) a w e, P n → P { n with att := a, wts := w, ter := e }
  fail : ∀ t n k r, P n → P (bindFail t n k r)
  bind : ∀ (n : Node) b, P n → P { n with sec := { n.sec with bind := b } }

theorem foldl_holds {α : Type} {P : Node → Prop} {f : Node → α → Node} (hf : ∀ m a, P m → P (f m a)) (l : List α) (n : Node) (hn : P n) : P (l.foldl f n) := by
  induction l generalizing n with
  | nil => exact hn
  | cons a l ih => exact ih _ (hf _ _ hn)

theorem RebindKeeps.rebind {P : Node → Prop} (h : RebindKeeps P) (t : Tck) (n : Node) (hn : P n) : P (rebind t n) := by
  have hfail : ∀ st m j, P m → P (failWeights t st m j) := fun st m j hm => h.complete _ _ _ _ _ (h.engines m _ _ _ hm)
  refine foldl_holds (fun m e hm => ?_) _ n hn
  split
  · exact hm
  · have hcmds := foldl_holds (hfail stKeyRetired) (setUsers m e.1) _ (h.fail t m e.1 4 hm)
    exact h.engines _ _ _ _ (h.bind _ _ hcmds)

theorem RebindKeeps.rd {f : Fld} (hf : f.off ≠ Rg.pmcTraceHeadCount.off) (hb : f.off ≠ Rg.secBindFailCount.off) (v : Nat) : RebindKeeps (fun m => rd m f = v) :=
  ⟨fun _ _ _ _ _ h => (rd_complete hf).trans h, fun _ _ _ _ h => h,
    fun _ m _ r h => ((rd_wr_off (bump m Rg.secBindFailCount 1) Rg.secBindFailReason f r hb).trans (rd_wr_off m Rg.secBindFailCount f _ hb)).trans h, fun _ _ h => h⟩

theorem RebindKeeps.svc (g : Svc → β) (hg : ∀ (v : Svc) a x, g { v with arrivals := a, trace := x } = g v) (y : β) : RebindKeeps (fun m => g m.svc = y) := by
  refine ⟨fun t n h st b hn => ?_, fun _ _ _ _ h => h, fun t n k r hn => (hg n.svc _ n.svc.trace).trans hn, fun _ _ h => h⟩
  obtain ⟨x, hx⟩ := complete_svc t n h st b
  rw [hx]
  exact (hg n.svc n.svc.arrivals x).trans hn

theorem RebindKeeps.code (e : Nat) : RebindKeeps (fun m => e ∈ m.svc.arrivals.map (·.code)) := by
  refine ⟨fun t n h st b hn => ?_, fun _ _ _ _ h => h, fun t n k r hn => ?_, fun _ _ h => h⟩
  · obtain ⟨x, hx⟩ := complete_svc t n h st b
    rw [hx]
    exact hn
  · rw [bindFail, codes_raise]
    exact List.mem_append_left _ hn

theorem RebindKeeps.prior (y : Option (Nat × NMap Bytes)) : RebindKeeps (fun m => m.sec.prior = y) :=
  ⟨fun _ _ _ _ _ h => by rw [complete_sec]; exact h, fun _ _ _ _ h => h, fun _ _ _ _ h => h, fun _ _ h => h⟩

/-- Without a bound set there is nothing to check. -/
theorem rebind_unbound (h : ∀ e ∈ n.wts.sets, e.2.bound = false) : rebind t n = n := by
  rw [rebind, List.filter_eq_nil_iff.mpr fun e he => by simp [h e he]]
  rfl

/-! ## Staging (R425) -/

/-- Without a field at fault an `UPDATE_STAGE` does what its KIND says. -/
theorem updateStage_runs {h : Word} (hr : Runs n h opUpdateStage c) (ho : stageOffs n c = []) : updateStage h.toNat t n = if c.f 24 1 = 0 then stageImage c t n else recalBegin c n := by
  obtain ⟨hf, hop, hs, hq, hh⟩ := hr
  rw [updateStage, withCmd_eq _ hf hop hs hq, checked_ok _ hh ho]

/-- The node whose other slot holds an image that has been checked. -/
def slotWritten (n : Node) (img : Bytes) : Node := modBrd n fun b => { b with images := mset b.images (otherSlot n) img }

theorem stageImage_good {img : Bytes} (hi : img = hostRead n c.mem (c.f 32 8) (c.f 40 4)) (hk : imageCheck img = 0) : stageImage c t n =
    complete t (raise t (modSvc (slotWritten n img) fun x => { x with staged := some ⟨otherSlot n, slice img 16 48, field img 8 2⟩ }) evUpdateStaged []) c.handle stOk ((slice img 16 48).take 16) := by
  unfold stageImage
  dsimp only
  rw [← hi, if_pos hk, if_pos hk]
  rfl

theorem stageImage_bad {img : Bytes} (hi : img = hostRead n c.mem (c.f 32 8) (c.f 40 4)) (hk : imageCheck img ≠ 0) : stageImage c t n =
    badParam t (raise t (modSvc (slotWritten n []) fun x => { x with staged := none }) evBootImageBad (leBytes 1 (otherSlot n) ++ leBytes 1 (imageCheck img))) c.handle 32 := by
  unfold stageImage
  dsimp only
  rw [← hi, if_neg hk, if_neg hk]
  rfl

section

variable {h : Word} (hr : Runs s.node h opUpdateStage c) (h26 : rsv c 26 31 = []) (h44 : rsv c 44 63 = [])

include hr

theorem updateStage_pending (hk : c.f 24 1 = 0) (hp : commitPending s.node = true) : exec (.updateStage h) s = .next (s.withNode (complete s.tck s.node h.toNat stBadParam (leBytes 1 24))) := by
  obtain ⟨hf, hop, hs, hq, hh⟩ := hr
  have hoffs : stageOffs s.node c = 24 :: (rsv c 25 25 ++ rsv c 26 31 ++ (offIf (!mult (c.f 32 8) 4096) 32 ++ offIf (0x780000 < c.f 40 4) 40) ++ rsv c 44 63) := by
    simp only [stageOffs, hk, hp, offIf_true, beq_self_eq_true, Bool.true_and, Bool.or_true, if_true, List.nil_append, List.cons_append]
  have hoff : ∀ b k x, x ∈ offIf b k → x = k := fun b k x hx => by
    unfold offIf at hx
    split at hx
    · exact List.mem_singleton.mp hx
    · cases hx
  refine onNode_eq ?_
  rw [updateStage, withCmd_eq _ hf hop hs hq, checked_lowest _ hh hoffs fun x hx => ?_, findCmd_handle hf]
  · rfl
  · simp only [List.mem_append] at hx
    obtain ((hx | hx) | hx | hx) | hx := hx
    · exact (mem_rsv hx).ge.trans' (by decide)
    · exact (mem_rsv hx).ge.trans' (by decide)
    · exact (hoff _ _ _ hx).ge.trans' (by decide)
    · exact (hoff _ _ _ hx).ge.trans' (by decide)
    · exact (mem_rsv hx).ge.trans' (by decide)

include h26 h44

theorem updateStage_image {img : Bytes} (hk : c.f 24 1 = 0) (hp : commitPending s.node = false) (h25 : rsv c 25 25 = []) (hm : mult (c.f 32 8) 4096 = true) (hl : c.f 40 4 ≤ 0x780000)
    (hi : img = hostRead s.node c.mem (c.f 32 8) (c.f 40 4)) :
        if imageCheck img = 0 then ∃ M : Node, exec (.updateStage h) s = .next (s.withNode (complete s.tck M c.handle stOk (slice img 16 16))) ∧ mget? M.brd.images (1 - rd s.node Rg.nidBootSlot) = some img
          ∧ M.svc.staged = some ⟨1 - rd s.node Rg.nidBootSlot, slice img 16 48, field img 8 2⟩ ∧ M.svc.arrivals.map (·.code) = s.node.svc.arrivals.map (·.code) ++ [evUpdateStaged]
          ∧ M.bank = s.node.bank ∧ M.sec = s.node.sec ∧ M.fe = s.node.fe
        else ∃ M : Node, exec (.updateStage h) s = .next (s.withNode (complete s.tck M c.handle stBadParam (leBytes 1 32))) ∧ mget? M.brd.images (1 - rd s.node Rg.nidBootSlot) = some [] ∧ M.svc.staged = none
          ∧ M.svc.arrivals.map (fun e => (e.code, e.args)) = s.node.svc.arrivals.map (fun e => (e.code, e.args)) ++ [(evBootImageBad, leBytes 1 (1 - rd s.node Rg.nidBootSlot) ++ leBytes 1 (imageCheck img))]
          ∧ M.bank = s.node.bank ∧ M.sec = s.node.sec ∧ M.fe = s.node.fe := by
  have hoffs : stageOffs s.node c = [] := by
    simp [stageOffs, hk, hp, h25, h26, h44, hm, offIf, hl]
  have hrun := updateStage_runs (t := s.tck) hr hoffs
  rw [if_pos hk] at hrun
  split
  · next hgood =>
    rw [stageImage_good hi hgood, show (slice img 16 48).take 16 = slice img 16 16 from List.take_take] at hrun
    exact ⟨_, onNode_eq hrun, mget?_mset_self _ _ _, rfl, codes_raise _ _ _ _, rfl, rfl, rfl⟩
  · next hbad =>
    rw [stageImage_bad hi hbad] at hrun
    exact ⟨_, onNode_eq hrun, mget?_mset_self _ _ _, rfl, List.map_append, rfl, rfl, rfl⟩

/-- A unit's recalibration is accepted by either command (R427). -/
theorem updateStage_unit (hk : c.f 24 1 = 1) (hu : recalUnit (c.f 25 1) = true) (h32 : rsv c 32 39 = []) (h40 : rsv c 40 43 = []) : ∀ i ∈ [Instr.updateStage h, .recalibration (.command h.toNat)], ∃ N : Node, exec i s = .next (s.withNode N)
          ∧ N.svc.recal = s.node.svc.recal.filter (fun r => r.unit != c.f 25 1 || !r.dead) ++ [⟨c.handle, c.f 25 1, c.accTick, none, false, false⟩]
          ∧ findCmd N h.toNat = some { c with stage := .running } ∧ N.bank = s.node.bank ∧ N.out = s.node.out := by
  have hoffs : stageOffs s.node c = [] := by
    simp [stageOffs, hk, hu, h26, h32, h40, h44, offIf]
  have hstage : updateStage h.toNat s.tck s.node = recalBegin c s.node := (updateStage_runs hr hoffs).trans (if_neg (by rw [hk]; decide))
  obtain ⟨hf, hop, hs, hq, hh⟩ := hr
  have hrecal : recalibration (.command h.toNat) s.tck s.node = recalBegin c s.node := by
    rw [recalibration, withCmd_eq _ hf hop hs hq, if_pos hk, checked_ok _ hh hoffs]
  have hfind : findCmd (recalBegin c s.node) h.toNat = some { c with stage := .running } := by
    rw [show recalBegin c s.node = setRunning _ h.toNat from congrArg (setRunning _) (findCmd_handle hf)]
    exact findCmd_setRunning hf
  intro i hi
  have hexec : exec i s = .next (s.withNode (recalBegin c s.node)) := by
    rcases List.mem_pair.mp hi with rfl | rfl
    · exact onNode_eq hstage
    · exact onNode_eq hrecal
  exact ⟨_, hexec, rfl, hfind, rfl, rfl⟩

end

/-! ## Units stopped and brought back (R427) -/

theorem unitStop_frame (v : Node → β) (hb : ∀ (m : Node) x, v { m with bank := x } = v m) (hq : ∀ (m : Node) x, v { m with qst := x } = v m) (hd : ∀ (m : Node) x, v { m with brd := x } = v m)
    (hs : ∀ (m : Node) x, v { m with svc := { m.svc with arrivals := x } } = v m) (t : Tck) (n : Node) (u : Nat) : v (unitStop t n u) = v n := by
  unfold unitStop
  split
  · unfold portOff
    split
    · exact (hs _ _).trans (hb _ _)
    · rfl
  · split
    · unfold blOff
      split
      · exact (hs _ _).trans ((hd _ _).trans ((hq _ _).trans (hb _ _)))
      · rfl
    · exact hd _ _

theorem unitStop_recal (t : Tck) (n : Node) (u : Nat) : (unitStop t n u).svc.recal = n.svc.recal := unitStop_frame (·.svc.recal) (fun _ _ => rfl) (fun _ _ => rfl) (fun _ _ => rfl) (fun _ _ => rfl) t n u
theorem unitStop_fe (t : Tck) (n : Node) (u : Nat) : (unitStop t n u).fe = n.fe := unitStop_frame (·.fe) (fun _ _ => rfl) (fun _ _ => rfl) (fun _ _ => rfl) (fun _ _ => rfl) t n u

/-- A unit that is stopped carries no traffic. -/
theorem unitStop_down (t : Tck) (n : Node) (u : Nat) : unitUp (unitStop t n u) u = false := by
  have hoff : ∀ (m : Node) f, rdB m f = true → rd m f = 1 := fun m f h => beq_iff_eq.mp h
  unfold unitUp unitStop
  by_cases h8 : u < 8
  · simp only [if_pos h8]
    cases hup : rdB n (Rg.qstPortStatusUp u) with
    | true => exact rdB_of_zero (by rw [portOff_up (hoff _ _ hup)]; exact rd_portFallen_up)
    | false => rw [portOff, if_neg (by rw [hup]; decide), hup]
  · simp only [if_neg h8]
    by_cases h14 : u < 14
    · simp only [if_pos h14]
      cases hup : rdB n (Rg.qstBlStatusUp (u - 8)) with
      | true => exact rdB_of_zero (by rw [blOff_up (hoff _ _ hup)]; exact rd_linkFallen_up)
      | false => rw [blOff, if_neg (by rw [hup]; decide), hup]
    · simp only [if_neg h14]
      simp [noteUntrained]

/-- The node that has noted a unit's stop. -/
def stopNoted (t : Tck) (n : Node) (r : Recal) : Node := modSvc n fun x => { x with recal := lmodify x.recal (· == r) fun _ => { r with start := some t.notches, was := unitUp n r.unit } }

theorem recalStop_one (hr : n.svc.recal = [r]) : recalStop t n = if r.start.isSome || t.tick < r.accTick + 1 then n else unitStop t (stopNoted t n r) r.unit := by
  rw [recalStop, hr]
  rfl

theorem recalStop_stops (s : State) (r : Recal) (hr : s.node.svc.recal = [r]) (hs : r.start = none) :
      (r.accTick + 1 ≤ s.tck.tick → ∃ N : Node, exec (.recalibration .stop) s = .next (s.withNode N) ∧ N.svc.recal = [{ r with start := some s.tck.notches, was := unitUp s.node r.unit }] ∧ unitUp N r.unit = false ∧ N.fe = s.node.fe)
      ∧ (s.tck.tick < r.accTick + 1 → exec (.recalibration .stop) s = .next s) := by
  have hexec : exec (.recalibration .stop) s = .next (s.withNode (recalStop s.tck s.node)) := rfl
  rw [recalStop_one hr] at hexec
  refine ⟨fun hdue => ?_, fun hearly => ?_⟩
  · rw [if_neg (by simp [hs]; omega)] at hexec
    refine ⟨_, hexec, ?_, unitStop_down _ _ _, unitStop_fe _ _ _⟩
    rw [unitStop_recal]
    simp [stopNoted, modSvc, lmodify, hr]
  · rw [hexec, if_pos (by simp [hearly])]

/-- The node whose recalibration is over. -/
def recalOver (n : Node) (r : Recal) : Node := modSvc n fun x => { x with recal := x.recal.filter (· != r) }

theorem unitBack_frame (v : Node → β) (hb : ∀ (m : Node) x, v { m with bank := x } = v m) (hq : ∀ (m : Node) x, v { m with qst := x } = v m) (hd : ∀ (m : Node) x, v { m with brd := x } = v m) (n : Node) (u : Nat) (was : Bool) :
    v (unitBack n u was) = v n := by
  have hnote : ∀ m a b, v (noteTrained m a b) = v m := fun m a b => by
    unfold noteTrained
    split
    · rfl
    · exact hd _ _
  unfold unitBack
  split
  · rfl
  · split
    · unfold portUp
      split
      · rfl
      · exact (hq _ _).trans ((hnote _ _ _).trans ((hb _ _).trans (hb _ _)))
    · split
      · exact (hnote _ _ _).trans (hb _ _)
      · exact hnote _ _ _

/-- A unit that was up is up again, a port where it may start. -/
theorem unitBack_up (hu : u < 8 → portMayStart n u = true) (hr : n.svc.recal = []) : unitUp (unitBack n u true) u = true := by
  unfold unitUp unitBack
  rw [if_neg (by decide : ¬ (!true) = true)]
  by_cases h8 : u < 8
  · simp only [if_pos h8]
    cases hup : rdB n (Rg.qstPortStatusUp u) with
    | true => rw [portUp, if_pos (by simp [hup]), hup]
    | false =>
      rw [portUp, if_neg (by simp [hu h8, hup, hr])]
      exact rdB_of_one rd_portStarted_up
  · simp only [if_neg h8]
    by_cases h14 : u < 14
    · simp only [if_pos h14]
      exact rdB_of_one ((rd_of_bank _ (noteTrained_bank _ _ _)).trans (rd_wr_self _ _ _ (by simp only; omega)))
    · simp only [if_neg h14]
      exact List.contains_iff_mem.mpr mem_noteTrained

theorem recalBack_completes (s : State) (r : Recal) (k : Nat) (hr : s.node.svc.recal = [r]) (hd : r.dead = false) (hk : r.start = some k) :
      ∃ M : Node, exec (.recalibration (.back r.unit)) s = .next (s.withNode (complete s.tck M r.handle stOk (leBytes 4 (s.tck.notches - k)))) ∧ M.svc.recal = [] ∧ M.fe = s.node.fe
        ∧ (r.was = false → M.bank = s.node.bank ∧ M.brd = s.node.brd) ∧ (r.was = true → (r.unit < 8 → portMayStart s.node r.unit = true) → unitUp M r.unit = true) := by
  have hfind : (s.node.svc.recal.find? fun x => x.unit == r.unit && !x.dead) = some r := by simp [hr, hd]
  have hover : (recalOver s.node r).svc.recal = [] := by simp [recalOver, modSvc, hr]
  have hexec : exec (.recalibration (.back r.unit)) s = .next (s.withNode (recalBack r.unit s.tck s.node)) := rfl
  rw [show recalBack r.unit s.tck s.node = complete s.tck (unitBack (recalOver s.node r) r.unit r.was) r.handle stOk (leBytes 4 (s.tck.notches - k)) by
    simp only [recalBack, hfind, hk]
    rfl] at hexec
  refine ⟨_, hexec, (unitBack_frame (·.svc.recal) (fun _ _ => rfl) (fun _ _ => rfl) (fun _ _ => rfl) _ _ _).trans hover, unitBack_frame (·.fe) (fun _ _ => rfl) (fun _ _ => rfl) (fun _ _ => rfl) _ _ _, fun hw => ?_, fun hw hmay => ?_⟩
  · rw [hw]
    exact ⟨rfl, rfl⟩
  · rw [hw]
    exact unitBack_up (n := recalOver s.node r) hmay hover

/-- A recalibration that takes too long leaves its unit down (R427). -/
theorem recalTimeout_ends (s : State) (h : Word) (c : Cmd) (r : Recal) (hf : findCmd s.node h.toNat = some c) (hr : s.node.svc.recal = [r]) (hh : r.handle = h.toNat) (hd : r.dead = false) :
      (s.tck.now < c.accTime + 1024 * unitsPerTick s.tck.cur → exec (.recalibrationTimeout h) s = .next s)
      ∧ (c.accTime + 1024 * unitsPerTick s.tck.cur ≤ s.tck.now → ∃ M : Node, exec (.recalibrationTimeout h) s = .next (s.withNode (complete s.tck M h.toNat stDeadline []))
          ∧ M.svc.recal = [{ r with dead := true, start := some (r.start.getD s.tck.notches) }] ∧ evTrainFail ∈ M.svc.arrivals.map (·.code) ∧ M.fe = s.node.fe
          ∧ (r.start ≠ none → M.svc.arrivals.map (·.code) = s.node.svc.arrivals.map (·.code) ++ [evTrainFail])) := by
  let n1 := modSvc s.node fun x => { x with recal := lmodify x.recal (· == r) fun y => { y with dead := true, start := some (y.start.getD s.tck.notches) } }
  let n2 := if r.start.isSome then n1 else unitStop s.tck n1 r.unit
  let M := raise s.tck n2 evTrainFail (leBytes 1 (unitClass r.unit).1 ++ leBytes 1 (unitClass r.unit).2)
  have hfind : (s.node.svc.recal.find? fun x => x.handle == h.toNat && !x.dead) = some r := by simp [hr, hh, hd]
  have hexec : exec (.recalibrationTimeout h) s = .next (s.withNode (recalTimeout h.toNat s.tck s.node)) := rfl
  rw [show recalTimeout h.toNat s.tck s.node = if !ticksPassed s.tck c 1024 then s.node else complete s.tck M h.toNat stDeadline [] by
    simp only [recalTimeout, hf, hfind]
    rfl] at hexec
  refine ⟨fun hearly => ?_, fun hdue => ?_⟩
  · rw [hexec, if_pos (by simp [ticksPassed, hearly])]
  · rw [if_neg (by simp [ticksPassed, hdue])] at hexec
    have hn1 : n1.svc.recal = [{ r with dead := true, start := some (r.start.getD s.tck.notches) }] := by simp [n1, modSvc, lmodify, hr]
    have hrecal : n2.svc.recal = n1.svc.recal := by
      unfold n2
      split
      · rfl
      · exact unitStop_recal _ _ _
    have hfe : n2.fe = s.node.fe := by
      unfold n2
      split
      · rfl
      · exact unitStop_fe _ _ _
    have hcodes : M.svc.arrivals.map (·.code) = n2.svc.arrivals.map (·.code) ++ [evTrainFail] := codes_raise _ _ _ _
    refine ⟨M, hexec, hrecal.trans hn1, by rw [hcodes]; simp, hfe, fun hs => hcodes.trans ?_⟩
    rw [show n2 = n1 from if_pos (Option.isSome_iff_ne_none.mpr hs)]
    rfl

/-! ## Commits and switches (R426, R428, R429) -/

theorem updateCommit_acts (s : State) (h : Word) (c : Cmd) (hr : Runs s.node h opUpdateCommit c) :
      (s.node.svc.staged = none → exec (.updateCommit h) s = .next (s.withNode (complete s.tck s.node h.toNat stBadParam (leBytes 1 24))))
      ∧ (s.node.svc.staged ≠ none → rsv c 32 63 = [] → ∃ N : Node, exec (.updateCommit h) s = .next (s.withNode N) ∧ N.svc.commit = some (h.toNat, if c.f 24 8 = 0 then c.accTick + 1 else c.f 24 8, c.accTick)
          ∧ findCmd N h.toNat = some { c with stage := .running } ∧ N.svc.staged = s.node.svc.staged ∧ N.bank = s.node.bank ∧ N.out = s.node.out) := by
  obtain ⟨hf, hop, hs, hq, hh⟩ := hr
  have hexec : exec (.updateCommit h) s = .next (s.withNode (updateCommit h.toNat s.tck s.node)) := rfl
  rw [updateCommit, withCmd_eq _ hf hop hs hq] at hexec
  refine ⟨fun hn => ?_, fun hn h32 => ?_⟩
  · rw [hexec, offIf_true (by rw [hn]; rfl), List.singleton_append, checked_lowest _ hh rfl fun x hx => (mem_rsv hx).ge.trans' (by decide), findCmd_handle hf]
    rfl
  · rw [checked_ok _ hh (by rw [offIf_false (by rw [Option.isNone_eq_false_iff]; exact Option.isSome_iff_ne_none.mpr hn), h32]; rfl)] at hexec
    exact ⟨_, hexec, rfl, findCmd_setRunning hf, rfl, rfl, rfl⟩

/-- The node whose new image runs, before its sets are checked again (R428, R429). -/
def switched (h : Nat) (x : Image) (t : Tck) (n : Node) : Node :=
  let n1 := modSec n fun s => { s with prior := some (t.tick, measNow n) }
  let n2 := wr (runImage n1 (imageIn n x.slot)) Rg.nidBootSlot x.slot
  raise t (modSvc { n2 with bsu := { n2.bsu with fwNew := true } } fun s => { s with commit := none, staged := none, switched := some (h, t.tick, rd n Rg.nidBootSlot) }) evUpdateSwitch
    (slice (imageIn n (rd n Rg.nidBootSlot)) 16 48 ++ x.digest)

theorem takeOver_eq (h : Nat) (x : Image) (t : Tck) (n : Node) : takeOver h x t n = rebind t (switched h x t n) := rfl

theorem rd_switched_slot (h : Nat) (x : Image) (t : Tck) (n : Node) : rd (switched h x t n) Rg.nidBootSlot = x.slot % 2 := rd_wr_self _ Rg.nidBootSlot x.slot (by decide)

theorem rd_switched_svn (h : Nat) (x : Image) (t : Tck) (n : Node) : rd (switched h x t n) Rg.secSvnFwSvn = field (imageIn n x.slot) 8 2 := by
  refine (rd_wr_off (runImage (modSec n fun s => { s with prior := some (t.tick, measNow n) }) (imageIn n x.slot)) Rg.nidBootSlot Rg.secSvnFwSvn x.slot (by decide)).trans ?_
  exact (rd_wr_self _ Rg.secSvnFwSvn _ (by decide)).trans (Nat.mod_eq_of_lt (field_lt _ _ _))

theorem updateSwitch_acts (s : State) (h sw a : Nat) (x : Image) (hc : s.node.svc.commit = some (h, sw, a)) (hst : s.node.svc.staged = some x) :
      (s.tck.notch = 0 → a < s.tck.tick → sw ≤ s.tck.tick → fwFinished s.node h = true → ∃ N : Node, exec .updateSwitch s = .next (s.withNode N) ∧ rd N Rg.nidBootSlot = x.slot % 2 ∧ N.svc.commit = none
          ∧ N.svc.staged = none ∧ N.svc.switched = some (h, s.tck.tick, rd s.node Rg.nidBootSlot) ∧ N.sec.prior = some (s.tck.tick, (List.range 6).map fun i => (i + 1, measurement s.node (i + 1)))
          ∧ rd N Rg.secSvnFwSvn = field (imageIn s.node x.slot) 8 2 ∧ evUpdateSwitch ∈ N.svc.arrivals.map (·.code)
          ∧ ((∀ e ∈ s.node.wts.sets, e.2.bound = false) → N.fe = s.node.fe ∧ N.svc.arrivals.map (·.code) = s.node.svc.arrivals.map (·.code) ++ [evUpdateSwitch]))
      ∧ ((s.tck.notch ≠ 0 ∨ s.tck.tick ≤ a ∨ s.tck.tick < sw ∨ fwFinished s.node h = false) → exec .updateSwitch s = .next s) := by
  have hexec : exec .updateSwitch s = .next (s.withNode (updateSwitch s.tck s.node)) := rfl
  rw [show updateSwitch s.tck s.node = if s.tck.notch = 0 && a < s.tck.tick && sw ≤ s.tck.tick && fwFinished s.node h then rebind s.tck (switched h x s.tck s.node) else s.node by
    simp only [updateSwitch, hc, hst, takeOver_eq]] at hexec
  refine ⟨fun h0 ha hsw hfin => ?_, fun hno => ?_⟩
  · rw [if_pos (by simp [h0, ha, hsw, hfin])] at hexec
    have hcode : evUpdateSwitch ∈ (switched h x s.tck s.node).svc.arrivals.map (·.code) := by
      rw [switched, codes_raise]
      simp
    refine ⟨_, hexec, (RebindKeeps.rd (by decide) (by decide) _).rebind _ _ (rd_switched_slot _ _ _ _), (RebindKeeps.svc (·.commit) (fun _ _ _ => rfl) _).rebind _ (switched h x s.tck s.node) rfl,
      (RebindKeeps.svc (·.staged) (fun _ _ _ => rfl) _).rebind _ (switched h x s.tck s.node) rfl, (RebindKeeps.svc (·.switched) (fun _ _ _ => rfl) _).rebind _ (switched h x s.tck s.node) rfl,
      (RebindKeeps.prior _).rebind _ (switched h x s.tck s.node) rfl, (RebindKeeps.rd (by decide) (by decide) _).rebind _ _ (rd_switched_svn _ _ _ _), (RebindKeeps.code _).rebind _ _ hcode, fun hunbound => ?_⟩
    rw [rebind_unbound (n := switched h x s.tck s.node) hunbound]
    exact ⟨rfl, codes_raise _ _ _ _⟩
  · rw [hexec, if_neg]
    simp only [Bool.and_eq_true, decide_eq_true_eq, not_and_or, Bool.not_eq_true]
    obtain h | h | h | h := hno
    · exact .inl (.inl (.inl h))
    · exact .inl (.inl (.inr (by omega)))
    · exact .inl (.inr (by omega))
    · exact .inr h

theorem switchTimeout_acts (s : State) (h sw a : Nat) (c : Cmd) (hc : s.node.svc.commit = some (h, sw, a)) (hf : findCmd s.node h = some c) :
      (s.tck.now < c.accTime + 1024 * unitsPerTick s.tck.cur → exec .switchTimeout s = .next s)
      ∧ (c.accTime + 1024 * unitsPerTick s.tck.cur ≤ s.tck.now →
          exec .switchTimeout s = .next (s.withNode (complete s.tck { s.node with svc := { s.node.svc with commit := none } } h stDeadline []))) := by
  have hexec : exec .switchTimeout s = .next (s.withNode (switchTimeout s.tck s.node)) := rfl
  rw [show switchTimeout s.tck s.node = if ticksPassed s.tck c 1024 then complete s.tck (modSvc s.node fun y => { y with commit := none }) h stDeadline [] else s.node by
    simp only [switchTimeout, hc, hf]] at hexec
  refine ⟨fun hearly => ?_, fun hdue => ?_⟩
  · rw [hexec, if_neg (by simp [ticksPassed, hearly])]
  · rw [hexec, if_pos (by simp [ticksPassed, hdue])]
    rfl

/-! ## Confirming and rolling back (R418, R430) -/

theorem field_append_left {a b : Bytes} {lo w : Nat} (h : lo + w ≤ a.length) : field (a ++ b) lo w = field a lo w := by
  rw [field, field, List.drop_append_of_le_length (by omega), List.take_append_of_le_length (by rw [List.length_drop]; omega)]

theorem field_take {a : Bytes} {k lo w : Nat} (h : lo + w ≤ k) : field (a.take k) lo w = field a lo w := by
  rw [field, field, List.drop_take, List.take_take, Nat.min_eq_left (by omega)]

theorem byteAt_eq_field (b : Bytes) (i : Nat) : byteAt b i = field b i 1 := by
  unfold byteAt field
  rw [List.getD_eq_getElem?_getD, ← List.head?_drop]
  cases b.drop i with
  | nil => rfl
  | cons x l => simp [ofLe]

/-- A string changed past `lo + w` keeps a field, and holds what it was given. -/
theorem field_putBytes_below {b x : Bytes} {k lo w : Nat} (hb : k ≤ b.length) (h : lo + w ≤ k) : field (putBytes b k x) lo w = field b lo w := by
  rw [putBytes, List.append_assoc, field_append_left (by rw [padTo_length]; omega), padTo, List.take_append_of_le_length hb, field_take h]

theorem field_putBytes_self (b : Bytes) (k w v : Nat) : field (putBytes b k (leBytes w v)) k w = v % 256 ^ w := by
  rw [putBytes, List.append_assoc]
  exact (field_append_right (padTo_length k b) _ 0 w).trans (field_first w v _)

theorem putBytes_length {b x : Bytes} {k : Nat} (h : k + x.length ≤ b.length) : (putBytes b k x).length = b.length := by
  rw [putBytes, List.length_append, List.length_append, padTo_length, List.length_drop]
  omega

/-- A configuration record written anew names the slot, one SEQ later (R418). -/
theorem newCfg_names {b : Bytes} (hb : b.length = 64) {slot : Nat} (hs : slot < 2) : byteAt (newCfg b slot) 12 = slot ∧ field (newCfg b slot) 4 4 = (field b 4 4 + 1) % 2 ^ 32 := by
  have h1 : (putBytes b 4 (leBytes 4 (field b 4 4 + 1))).length = 64 := (putBytes_length (by rw [leBytes_length]; omega)).trans hb
  have h2 : (putBytes (putBytes b 4 (leBytes 4 (field b 4 4 + 1))) 12 (leBytes 1 slot)).length = 64 := (putBytes_length (by rw [leBytes_length]; omega)).trans h1
  have hfield : ∀ lo w, lo + w ≤ 60 → field (newCfg b slot) lo w = field (putBytes (putBytes b 4 (leBytes 4 (field b 4 4 + 1))) 12 (leBytes 1 slot)) lo w := fun lo w h => by
    unfold newCfg
    dsimp only
    rw [field_append_left (by rw [List.length_take, h2]; omega), field_take h]
  refine ⟨?_, ?_⟩
  · rw [byteAt_eq_field, hfield _ _ (by decide), field_putBytes_self]
    omega
  · rw [hfield _ _ (by decide), field_putBytes_below (by omega) (by decide), field_putBytes_self, show (256 : Nat) ^ 4 = 2 ^ 32 by decide]

/-- A configuration in force is 64 bytes. -/
theorem bootCfg_length {b : Bytes} (h : bootCfg n = some b) : b.length = 64 := by
  have hvalid : ∀ {x : Bytes}, cfgValid x = true → x.length = 64 := fun hx => by
    simp only [cfgValid, Bool.and_eq_true, beq_iff_eq] at hx
    omega
  have hcopy : ∀ {k : Nat} {x : Bytes}, (match mget? n.brd.cfg k with
      | some y => if cfgValid y then some y else none
      | none => none) = some x → x.length = 64 := by
    intro k x hx
    split at hx
    · split at hx
      · cases hx
        exact hvalid ‹_›
      · cases hx
    · cases hx
  unfold bootCfg at h
  dsimp only at h
  split at h
  · next a b' ha hb =>
    cases h
    split
    · exact hcopy hb
    · exact hcopy ha
  · next a ha _ =>
    cases h
    exact hcopy ha
  · exact hcopy h

theorem updateConfirm_acts (s : State) (h k old : Nat) (hsw : s.node.svc.switched = some (h, k, old)) :
      (s.tck.tick < k + 1024 → exec .updateConfirm s = .next s)
      ∧ (k + 1024 ≤ s.tck.tick → ∃ M : Node, exec .updateConfirm s = .next (s.withNode (complete s.tck M h stOk (leBytes 8 k))) ∧ M.svc.switched = none ∧ M.fe = s.node.fe
          ∧ ∀ b : Bytes, bootCfg s.node = some b → ∃ b' : Bytes, mget? M.brd.cfg (cfgToWrite s.node) = some b' ∧ byteAt b' 12 = rd s.node Rg.nidBootSlot ∧ field b' 4 4 = (field b 4 4 + 1) % 2 ^ 32) := by
  have hexec : exec .updateConfirm s = .next (s.withNode (updateConfirm s.tck s.node)) := rfl
  simp only [updateConfirm, hsw] at hexec
  refine ⟨fun hearly => ?_, fun hdue => ?_⟩
  · rw [hexec, if_pos hearly]
  · rw [if_neg (by omega)] at hexec
    refine ⟨_, hexec, rfl, ?_, fun b hb => ⟨newCfg b (rd s.node Rg.nidBootSlot), ?_, newCfg_names (bootCfg_length hb) (bits_lt _ _ _)⟩⟩
    · cases bootCfg s.node <;> rfl
    · simp only [hb]
      exact mget?_mset_self _ _ _

theorem updateRollback_resets (s : State) (hsw : s.node.svc.switched.isSome = true) :
      ∃ t : State, exec .updateRollback s = .next t ∧ rd t.node Rg.pwrResetCauseCause = (if stopped s.node && 3 ≤ rd s.node Rg.pwrStatusHaltCause then 4 else 3)
          ∧ t.node.svc.arrivals.map (·.code) = [evUpdateRollback] ∧ t.node.fe = Front.reset ∧ t.node.brd.cfg = s.node.brd.cfg ∧ t.node.brd.images = s.node.brd.images ∧ t.tck.now = s.tck.now := by
  let W := warmReset 3 s.tck s.node
  have hgo : updateRollback s.tck s.node = (W.1, raise W.1 W.2 evUpdateRollback []) := by
    rw [updateRollback, if_pos hsw, watchdog]
    exact congrArg (Prod.mk W.1) (if_pos hsw)
  have hexec : exec .updateRollback s = .next { s with tck := (updateRollback s.tck s.node).1, node := (updateRollback s.tck s.node).2, last := if s.node.svc.switched.isSome then (updateRollback s.tck s.node).2 else s.last } := rfl
  rw [if_pos hsw, hgo] at hexec
  obtain ⟨-, -, -, -, hcause, -, hfe, -⟩ := warmNode_left (s := s) (cause := 3) (by decide) s.node.brd (raise W.1 W.2 evUpdateRollback []).svc.arrivals
  exact ⟨_, hexec, hcause, codes_raise W.1 W.2 evUpdateRollback [], hfe, rfl, rfl, rfl⟩

end

/-- Settles O56: an image is checked before it counts as staged, and the switch changes slot and measurements in one step. -/
theorem imagesAndUnitsAreReplacedLive : Obligations.ImagesAndUnitsAreReplacedLive := by
  unfold Obligations.ImagesAndUnitsAreReplacedLive
  refine ⟨fun s h c img hr h26 h44 => ⟨fun hk hp h25 hm hl hi => updateStage_image hr h26 h44 hk hp h25 hm hl hi, updateStage_pending hr, updateStage_unit hr h26 h44⟩, fun s r hr _ hs => recalStop_stops s r hr hs,
    fun s r k hr _ hd hk => recalBack_completes s r k hr hd hk, recalTimeout_ends, updateCommit_acts, updateSwitch_acts, switchTimeout_acts, fun s h k old hsw => ?_, fun s hn => ?_⟩
  · obtain ⟨hearly, hdue⟩ := updateConfirm_acts s h k old hsw
    exact ⟨hearly, hdue, updateRollback_resets s (by rw [hsw]; rfl)⟩
  · have hexec : exec .updateRollback s = .next { s with tck := (updateRollback s.tck s.node).1, node := (updateRollback s.tck s.node).2, last := if s.node.svc.switched.isSome then (updateRollback s.tck s.node).2 else s.last } := rfl
    rw [updateRollback, hn] at hexec
    exact hexec

end Sys2Proof.Machine
end

section
/-! Counters, unlock tokens and the monitor (R434 to R437, R443, R444). -/

namespace Sys2Proof.Machine

section

variable {t : Tck} {n : Node} {s : State} {β : Type}

/-! ## Counters and traces (R436, R437) -/

/-- The node whose counters are cleared. -/
def countersCleared (n : Node) : Node := (List.range 64).foldl (fun m u => wr m (Rg.pmcOvfOvf u) 0) (modSvc n fun s => { s with pmc := [] })

theorem countersCleared_svc (n : Node) : (countersCleared n).svc = { n.svc with pmc := [] } := foldl_keeps (f := fun m u => wr m (Rg.pmcOvfOvf u) 0) (·.svc) (fun _ _ => rfl) _ _

theorem rd_countersCleared {f : Fld} (hf : ∀ u, f.off ≠ (Rg.pmcOvfOvf u).off) (n : Node) : rd (countersCleared n) f = rd n f :=
  foldl_keeps (f := fun m u => wr m (Rg.pmcOvfOvf u) 0) (rd · f) (fun m u => rd_wr_off m (Rg.pmcOvfOvf u) f 0 (hf u)) _ _

theorem rd_countersCleared_ovf {u : Nat} (hu : u < 64) (n : Node) : rd (countersCleared n) (Rg.pmcOvfOvf u) = 0 := by
  have hall : ∀ (k : Nat) (m : Node), u < k → rd ((List.range k).foldl (fun m u => wr m (Rg.pmcOvfOvf u) 0) m) (Rg.pmcOvfOvf u) = 0 := by
    intro k
    induction k with
    | zero => exact fun _ h => absurd h (Nat.not_lt_zero u)
    | succ k ih =>
      intro m h
      rw [List.range_succ, List.foldl_append, List.foldl_cons, List.foldl_nil]
      by_cases he : u = k
      · subst he
        exact rd_wr_self _ _ _ (by simp)
      · rw [rd_wr_off _ (Rg.pmcOvfOvf k) (Rg.pmcOvfOvf u) 0 (by simp only; omega)]
        exact ih m (by omega)
  exact hall 64 _ hu

theorem pmcCtl_may (hm : mayPmc n src = true) (v : Nat) : pmcCtl v src n = if bitAt v 1 then countersCleared (wr n Rg.pmcCtlFreeze v) else wr n Rg.pmcCtlFreeze v := by
  rw [pmcCtl, if_neg (by simp [hm])]
  rfl

theorem pmcCtlWrite_acts (s : State) (v : Word) (src : Req) (hw : Writable s.node) :
      (mayPmc s.node src = true → ∃ N : Node, exec (.pmcCtlWrite v src) s = .next (s.withNode N) ∧ rd N Rg.pmcCtlFreeze = v.toNat % 2 ∧ (bitAt v.toNat 1 = true → N.svc.pmc = [] ∧ ∀ u, u < 64 → rd N (Rg.pmcOvfOvf u) = 0) ∧ (bitAt v.toNat 1 = false → N.svc = s.node.svc))
      ∧ (mayPmc s.node src = false → exec (.pmcCtlWrite v src) s = .next s) := by
  have hexec : exec (.pmcCtlWrite v src) s = .next (s.withNode (pmcCtl v.toNat src s.node)) := onNode_open hw rfl
  have hfreeze : rd (wr s.node Rg.pmcCtlFreeze v.toNat) Rg.pmcCtlFreeze = v.toNat % 2 := rd_wr_self _ _ _ (by decide)
  refine ⟨fun hm => ?_, fun hm => ?_⟩
  · rw [pmcCtl_may hm] at hexec
    cases hb : bitAt v.toNat 1 with
    | true =>
      rw [hb, if_pos rfl] at hexec
      refine ⟨_, hexec, (rd_countersCleared (fun u => by simp only; omega) _).trans hfreeze, fun _ => ⟨?_, fun u hu => rd_countersCleared_ovf hu _⟩, fun h => Bool.noConfusion h⟩
      rw [countersCleared_svc]
    | false =>
      rw [hb, if_neg (by decide)] at hexec
      exact ⟨_, hexec, hfreeze, fun h => Bool.noConfusion h, fun _ => rfl⟩
  · rw [hexec, pmcCtl, if_pos (by simp [hm])]

theorem pmcTraceSelWrite_acts (s : State) (v : Word) (src : Req) (hw : Writable s.node) :
      (fineView s.node src = true → ∃ N : Node, exec (.pmcTraceSelWrite v src) s = .next (s.withNode N) ∧ rd N Rg.pmcTraceSelSlot = v.toNat % 4096 ∧ N.svc = s.node.svc
        ∧ ∀ w, w < 16 → rd N (Rg.pmcTraceDataData w) = field (mgetD s.node.svc.trace (v.toNat % 4096) (zeros 64)) (4 * w) 4)
      ∧ (fineView s.node src = false → exec (.pmcTraceSelWrite v src) s = .next s) := by
  have hexec : exec (.pmcTraceSelWrite v src) s = .next (s.withNode (pmcTraceSel v.toNat src s.node)) := onNode_open hw rfl
  refine ⟨fun hf => ?_, fun hf => ?_⟩
  · rw [pmcTraceSel, if_pos hf] at hexec
    refine ⟨_, hexec, (rd_copyWords_off _ fun w _ => by simp only; omega).trans (rd_wr_self _ _ _ (by decide)), copyWords_svc _ _ _ _, fun w hw' => ?_⟩
    exact rd_copyWords_word _ (fun _ => ⟨rfl, rfl⟩) (fun i j e => by simp only at e; omega) hw'
  · rw [hexec, pmcTraceSel, if_neg (by simp [hf])]

/-! ## Unlock tokens (R443) -/

/-- Another requester's write of a monitor register is recorded. -/
theorem monWrite_other {src : Req} (hs : src ≠ .mgmt) (off : Nat) (body : Node) : monWrite t n src off body = raise t n evMonWriteIgnored (leBytes 4 off) := by
  cases src with
  | mgmt => exact absurd rfl hs
  | host _ _ => rfl
  | qp _ => rfl

theorem tokenWrites (s : State) (v : Word) (src : Req) (hw : Writable s.node) :
      (s.node.svc.tokenBytes.length < 208 → exec (.monTokenDataWrite v .mgmt) s =
          .next (s.withNode { s.node with svc := { s.node.svc with tokenBytes := s.node.svc.tokenBytes ++ leBytes 4 v.toNat } }))
      ∧ (208 ≤ s.node.svc.tokenBytes.length → exec (.monTokenDataWrite v .mgmt) s = .next s)
      ∧ (src ≠ .mgmt → exec (.monTokenDataWrite v src) s = .next (s.withNode (raise s.tck s.node evMonWriteIgnored (leBytes 4 Rg.monTokenDataWord.off)))
        ∧ exec (.submit src) s = .next (s.withNode (raise s.tck s.node evMonWriteIgnored (leBytes 4 Rg.monTokenCtlSubmit.off)))
        ∧ exec (.lock src) s = .next (s.withNode (raise s.tck s.node evMonWriteIgnored (leBytes 4 Rg.monCtlLock.off))))
      ∧ exec (.lock .mgmt) s = .next (s.withNode { s.node with svc := { s.node.svc with token := none, tokenWait := none } }) :=
  ⟨fun h => onNode_open hw (if_pos h), fun h => onNode_open (N := s.node) hw (if_neg (Nat.not_lt.mpr h)),
    fun hs => ⟨onNode_open hw (monWrite_other hs _ _), onNode_open hw (monWrite_other hs _ _), onNode_open hw (monWrite_other hs _ _)⟩, onNode_open hw rfl⟩

theorem tokenGood_form {b : Bytes} (h : b.length ≠ 208 ∨ field b 0 4 ≠ 0x4B4C4E55) (n : Node) : tokenGood n b = false := by
  obtain h | h := h
  · simp [tokenGood, h]
  · simp [tokenGood, h]

theorem rd_tokenResult (n : Node) {st : Nat} (h : st < 2 ^ 16) : rd (tokenResult n st) Rg.monTokenCtlResult = st := (rd_wr_self _ _ _ (by decide)).trans (Nat.mod_eq_of_lt h)

/-- Without an extent given out a forced unlock closes the tenant, its token waiting. -/
theorem forceUnlock_leaves (k : Token) (t : Tck) (n : Node) (hx : n.cxd.exts = []) : rd (forceUnlock k t n) Rg.monTokenCtlResult = rd n Rg.monTokenCtlResult ∧ (forceUnlock k t n).svc.tokenWait = some k
    ∧ (forceUnlock k t n).svc.tokenBytes = n.svc.tokenBytes ∧ tenantState (forceUnlock k t n) = tsFencing := by
  let m := modSvc (modSec (wr (wr n Rg.secStatusState tsFencing) Rg.secStatusSeal 0) fun s => { s with closing := some (noHandle, t.tick), fenced := false, destroyed := 0 }) fun s => { s with tokenWait := some k }
  let m1 := modSec m fun s => { s with destroyed := unreleased m, store := s.store.filter (·.released) }
  have hexts : m1.cxd.exts = [] := hx
  have hforce : forceUnlock k t n = if m1.map.map.slices.any fun s => s.node == nodeId m1 then forwardChanges m1 (ownProposal m1 [.revokeAll (nodeId m1)]) else m1 := by
    change forceClose t m = _
    unfold forceClose
    dsimp only
    rw [show (modSec m fun s => { s with destroyed := unreleased m, store := s.store.filter (·.released) }).cxd.exts = [] from hexts]
    rfl
  have hview : ∀ {γ : Type} (v : Node → γ), (∀ (m : Node) x, v { m with map := x } = v m) → (∀ (m : Node) x, v { m with out := x } = v m) → v (forceUnlock k t n) = v m1 := by
    intro γ v hm ho
    rw [hforce]
    split
    · unfold forwardChanges
      split
      · exact hm _ _
      · exact ho _ _
    · rfl
  have hstate : rd m1 Rg.secStatusState = tsFencing :=
    (rd_wr_field (wr n Rg.secStatusState tsFencing) Rg.secStatusSeal Rg.secStatusState 0 rfl (by decide) (by decide)).trans (rd_wr_self _ _ _ (by decide))
  have hresult : rd m1 Rg.monTokenCtlResult = rd n Rg.monTokenCtlResult := (rd_wr_off (wr n Rg.secStatusState tsFencing) Rg.secStatusSeal Rg.monTokenCtlResult 0 (by decide)).trans (rd_wr_off n Rg.secStatusState _ _ (by decide))
  exact ⟨(hview (rd · Rg.monTokenCtlResult) (fun _ _ => rfl) fun _ _ => rfl).trans hresult, hview (·.svc.tokenWait) (fun _ _ => rfl) fun _ _ => rfl, hview (·.svc.tokenBytes) (fun _ _ => rfl) fun _ _ => rfl,
    (hview tenantState (fun _ _ => rfl) fun _ _ => rfl).trans hstate⟩

/-- The node with an accepted token, before its weight sets are bound again. -/
def tokenAccepted (k : Token) (t : Tck) (n : Node) : Node := raise t (modSvc (tokenResult n stOk) fun s => { s with token := some k }) evMonUnlock []

theorem tokenAccepted_leaves (k : Token) (t : Tck) (n : Node) : rd (rebind t (tokenAccepted k t n)) Rg.monTokenCtlResult = stOk ∧ (rebind t (tokenAccepted k t n)).svc.token = some k
    ∧ (rebind t (tokenAccepted k t n)).svc.tokenBytes = [] ∧ evMonUnlock ∈ (rebind t (tokenAccepted k t n)).svc.arrivals.map (·.code) := by
  have hcode : evMonUnlock ∈ (tokenAccepted k t n).svc.arrivals.map (·.code) := by
    rw [tokenAccepted, codes_raise]
    simp
  exact ⟨(RebindKeeps.rd (by decide) (by decide) _).rebind _ _ (rd_tokenResult n (by decide)), (RebindKeeps.svc (·.token) (fun _ _ _ => rfl) _).rebind _ _ rfl,
    (RebindKeeps.svc (·.tokenBytes) (fun _ _ _ => rfl) _).rebind _ _ rfl, (RebindKeeps.code _).rebind _ _ hcode⟩

theorem submit_acts (s : State) (b : Bytes) (k : Token) (hw : Writable s.node) (hb : b = s.node.svc.tokenBytes) (hk : k = ⟨field b 52 4, byteAt b 56⟩) :
      ∃ N : Node, exec (.submit .mgmt) s = .next (s.withNode N)
        ∧ if tokenGood s.node b = false then rd N Rg.monTokenCtlResult = stDenied ∧ N.svc = { s.node.svc with tokenBytes := [] }
          else if tenantState s.node = tsSealed then
            if bitAt (byteAt b 56) 0 then s.node.cxd.exts = [] → rd N Rg.monTokenCtlResult = stOk ∧ N.svc.tokenWait = some k ∧ N.svc.tokenBytes = [] ∧ tenantState N = tsFencing
            else rd N Rg.monTokenCtlResult = stDenied ∧ N.svc.token = s.node.svc.token ∧ N.svc.tokenBytes = [] ∧ N.svc.arrivals.map (·.code) = s.node.svc.arrivals.map (·.code) ++ [evDebugRefused]
          else rd N Rg.monTokenCtlResult = stOk ∧ N.svc.token = some k ∧ N.svc.tokenBytes = [] ∧ evMonUnlock ∈ N.svc.arrivals.map (·.code) := by
  have hexec : exec (.submit .mgmt) s = .next (s.withNode (submitToken .mgmt s.tck s.node)) := onNode_open hw rfl
  refine ⟨_, hexec, ?_⟩
  have hsubmit : submitToken .mgmt s.tck s.node = if !tokenGood s.node b then tokenResult s.node stDenied else if tenantState s.node = tsSealed then
      if bitAt (byteAt b 56) 0 then forceUnlock k s.tck (tokenResult s.node stOk) else tokenResult (raise s.tck s.node evDebugRefused []) stDenied
      else rebind s.tck (tokenAccepted k s.tck s.node) := by
    subst hb hk
    rfl
  rw [hsubmit]
  cases hgood : tokenGood s.node b with
  | false => exact ⟨rd_tokenResult _ (by decide), rfl⟩
  | true =>
    rw [Bool.not_true, if_neg (by decide : ¬ false = true), if_neg (by decide : ¬ true = false)]
    by_cases hsealed : tenantState s.node = tsSealed
    · rw [if_pos hsealed, if_pos hsealed]
      cases bitAt (byteAt b 56) 0 with
      | true =>
        intro hx
        obtain ⟨hres, hwait, hbytes, hten⟩ := forceUnlock_leaves k s.tck (tokenResult s.node stOk) hx
        exact ⟨hres.trans (rd_tokenResult _ (by decide)), hwait, hbytes, hten⟩
      | false => exact ⟨rd_tokenResult _ (by decide), rfl, rfl, codes_raise _ _ _ _⟩
    · rw [if_neg hsealed, if_neg hsealed]
      exact tokenAccepted_leaves _ _ _

theorem tokenExpiry_acts (s : State) (hours : Word) : ∃ N : Node, exec (.tokenExpiry hours) s = .next (s.withNode N) ∧ N.svc.hours = max s.node.svc.hours hours.toNat ∧ N.bank = s.node.bank ∧ N.fe = s.node.fe
      ∧ N.svc.token = s.node.svc.token.filter fun k => max s.node.svc.hours hours.toNat < k.expires := by
  let n1 := modSvc s.node fun x => { x with hours := max x.hours hours.toNat }
  have hexec : exec (.tokenExpiry hours) s = .next (s.withNode (tokenExpiry hours.toNat s.node)) := rfl
  cases hk : s.node.svc.token with
  | none =>
    rw [show tokenExpiry hours.toNat s.node = n1 by simp only [tokenExpiry, modSvc, hk, n1]] at hexec
    exact ⟨_, hexec, rfl, rfl, rfl, hk⟩
  | some k =>
    have hgo : tokenExpiry hours.toNat s.node = if k.expires ≤ max s.node.svc.hours hours.toNat then modSvc n1 fun x => { x with token := none } else n1 := by simp only [tokenExpiry, modSvc, hk, n1]
    rw [hgo] at hexec
    by_cases hover : k.expires ≤ max s.node.svc.hours hours.toNat
    · rw [if_pos hover] at hexec
      exact ⟨_, hexec, rfl, rfl, rfl, by rw [Option.filter_some, if_neg (mt of_decide_eq_true (Nat.not_lt.mpr hover))]; rfl⟩
    · rw [if_neg hover] at hexec
      exact ⟨_, hexec, rfl, rfl, rfl, by rw [Option.filter_some, if_pos (decide_eq_true (Nat.not_le.mp hover))]; exact hk⟩

/-! ## Reads of the monitor (R444) -/

theorem t1Words_clean (hp : n.mic.poison = []) (k a : Nat) : t1Words k a n = ((List.range k).map fun i => ofLe (Mem.read 0 n.t1 (a + 8 * i) 8), n) := by
  induction k generalizing a with
  | zero => rfl
  | succ k ih =>
    have hone : t1Word n a = (ofLe (Mem.read 0 n.t1 a 8), n) := if_neg (by rw [hp]; simp [mhas, mget?])
    rw [t1Words, hone]
    dsimp only
    rw [ih]
    dsimp only
    rw [List.range_succ_eq_map, List.map_cons, List.map_map]
    refine congrArg (fun l => (_ :: l, n)) (List.map_congr_left fun i _ => ?_)
    rw [Function.comp_apply, show a + 8 + 8 * i = a + 8 * i.succ by omega]

/-- A view that registers, counts kept by spans, events and conversion statistics are no part of. -/
structure ReadBlind (v : Node → β) : Prop where
  bank : ∀ (m : Node) x, v { m with bank := x } = v m
  hi : ∀ (m : Node) x, v { m with hi := x } = v m
  pwr : ∀ (m : Node) x, v { m with pwr := x } = v m
  svc : ∀ (m : Node) x, v { m with svc := x } = v m
  cvt : ∀ (m : Node) x, v { m with cvt := x } = v m
  ctr : ∀ (m : Node) x, v { m with freeCtr := x } = v m

theorem ReadBlind.out : ReadBlind (·.out) := ⟨fun _ _ => rfl, fun _ _ => rfl, fun _ _ => rfl, fun _ _ => rfl, fun _ _ => rfl, fun _ _ => rfl⟩
theorem ReadBlind.fe : ReadBlind (·.fe) := ⟨fun _ _ => rfl, fun _ _ => rfl, fun _ _ => rfl, fun _ _ => rfl, fun _ _ => rfl, fun _ _ => rfl⟩
theorem ReadBlind.t1 : ReadBlind (·.t1) := ⟨fun _ _ => rfl, fun _ _ => rfl, fun _ _ => rfl, fun _ _ => rfl, fun _ _ => rfl, fun _ _ => rfl⟩

section

variable {v : Node → β} (h : ReadBlind v)

include h

theorem ReadBlind.openRead (n : Node) (src : Req) (off : Nat) : v (openRead n src off).2 = v n := (foldl_keeps v (fun _ _ => h.hi _ _) _ _).trans (h.ctr _ _)

theorem ReadBlind.setLatches (t : Tck) (last n : Node) (src : Req) (off : Nat) : v (setLatches t last n src off) = v n := foldl_keeps v (fun _ _ => h.hi _ _) _ _

theorem ReadBlind.catchUp (t : Tck) (n : Node) (off : Nat) : v (catchUp t n off) = v n := by
  have hevents : v (settleEvents n) = v n := by
    unfold settleEvents
    dsimp only
    split
    · rfl
    · exact (h.bank _ _).trans (h.svc _ _)
  have hsteps : v (countSteps t.tick n) = v n := by
    refine foldl_keeps v (fun m k => ?_) _ n
    unfold countStep
    split
    · rfl
    · split
      · rfl
      · exact (h.pwr _ _).trans (h.bank _ _)
  have hstate : v (countState t n) = v n := by
    unfold countState
    dsimp only
    refine (h.pwr _ _).trans ?_
    split
    · exact h.bank _ _
    · rfl
  unfold Machine.catchUp
  split
  · exact hevents
  · split
    · exact hsteps
    · split
      · exact hstate
      · rfl

theorem ReadBlind.cvtRead (src : Req) (t : Tck) (n : Node) : v (cvtRead src t n) = v n :=
  (h.cvt _ _).trans (cvtSnapshot_keeps v (fun _ _ _ _ => h.svc _ _) (fun _ _ => h.cvt _ _) t n)

theorem ReadBlind.readEffects (off : Nat) (n : Node) : v (readEffects off n) = v n := by
  unfold Machine.readEffects
  split
  · exact h.bank _ _
  · rfl

theorem ReadBlind.clearRead (n m : Node) (src : Req) (off : Nat) (d : RegDef) (w : Nat) : v (clearRead n m src off d w) = v m := by
  obtain ⟨b, hb⟩ := clearRead_shape n m src off d w
  rw [hb]
  exact h.bank _ _

/-- What a register read leaves alone (R4, R7). -/
theorem ReadBlind.readReg (t : Tck) (last n : Node) (src : Req) (off : Nat) : v (readReg t last n src off).2.1 = v n := by
  have hlatched : v (Machine.setLatches t last (Machine.catchUp t n off) src off) = v n := (h.setLatches _ _ _ _ _).trans (h.catchUp _ _ _)
  have hcvt : ∀ m, v (if off = 0x30C000 then Machine.cvtRead src t m else m) = v m := fun m => by
    split
    · exact h.cvtRead _ _ _
    · rfl
  unfold Machine.readReg
  split
  · rfl
  · split
    · rfl
    · split
      · exact h.openRead n src off
      · by_cases hf : firmwareSlots n off = 1
        · simp only [hf, if_true]
          exact (h.readEffects _ _).trans ((h.clearRead _ _ _ _ _ _).trans ((hcvt _).trans hlatched))
        · simp only [hf, if_false]
          exact (h.readEffects _ _).trans ((h.clearRead _ _ _ _ _ _).trans ((hcvt _).trans ((h.ctr _ _).trans hlatched)))

end

/-- One read of a row, after those before it. -/
def readRow (t : Tck) (x : List Nat × Node × Node) (o : Nat) : List Nat × Node × Node :=
  (x.1 ++ [(readReg t x.2.2 x.2.1 .mgmt o).1], (readReg t x.2.2 x.2.1 .mgmt o).2.1, (readReg t x.2.2 x.2.1 .mgmt o).2.2)

theorem readMany_eq (t : Tck) (l : List Nat) (last n : Node) : readMany t l last n = l.foldl (readRow t) ([], n, last) := rfl

theorem readRow_fold_words (t : Tck) (l : List Nat) (x : List Nat × Node × Node) : ∃ y, (l.foldl (readRow t) x).1 = x.1 ++ y ∧ y.length = l.length := by
  induction l generalizing x with
  | nil => exact ⟨[], (List.append_nil _).symm, rfl⟩
  | cons o l ih =>
    obtain ⟨y, hy, hl⟩ := ih (readRow t x o)
    refine ⟨(readReg t x.2.2 x.2.1 .mgmt o).1 :: y, ?_, by rw [List.length_cons, hl, List.length_cons]⟩
    rw [List.foldl_cons, hy, readRow, List.append_assoc, List.singleton_append]

theorem readMany_length (t : Tck) (l : List Nat) (last n : Node) : (readMany t l last n).1.length = l.length := by
  obtain ⟨y, hy, hl⟩ := readRow_fold_words t l ([], n, last)
  rw [readMany_eq, hy, List.nil_append, hl]

theorem readMany_head (t : Tck) (o : Nat) (l : List Nat) (last n : Node) : (readMany t (o :: l) last n).1.headD 0 = (readReg t last n .mgmt o).1 := by
  obtain ⟨y, hy, -⟩ := readRow_fold_words t l (readRow t ([], n, last) o)
  rw [readMany_eq, List.foldl_cons, hy]
  rfl

theorem ReadBlind.readMany {v : Node → β} (h : ReadBlind v) (t : Tck) (l : List Nat) (last n : Node) : v (readMany t l last n).2.1 = v n := by
  have hrow : ∀ x : List Nat × Node × Node, v (l.foldl (readRow t) x).2.1 = v x.2.1 := by
    induction l with
    | nil => exact fun _ => rfl
    | cons o l ih => exact fun x => (ih (readRow t x o)).trans (h.readReg _ _ _ _ _)
  exact hrow ([], n, last)

/-! ## The monitor's commands (R444) -/

/-- The monitor's answer to a command. -/
def Replies (s : State) (i : Instr) (r : MonReply) : Prop := exec i s = .next (s.withNode (emit s.node (.mon r)))

/-- The line of a captured tick; one that the capture missed shows the present power step and state. -/
def capLine (c : TickCap) (n : Node) (i : Nat) : TickLine := (c.lines.find? (·.tick == c.first + i)).getD ⟨c.first + i, none, false, 0, n.pwr.step, rd n Rg.pwrStatusNstate, false⟩

theorem capLine_tick (c : TickCap) (n : Node) (i : Nat) : (capLine c n i).tick = c.first + i := by
  unfold capLine
  cases hf : c.lines.find? (·.tick == c.first + i) with
  | none => rfl
  | some l => exact eq_of_beq (List.find?_some (p := fun x : TickLine => x.tick == c.first + i) hf)

theorem monOn_token {k : Token} (hk : n.svc.token = some k) : monOn n = true := by simp [monOn, hk]

/-- A row of registers read is answered with its words. -/
theorem readsAnswered {i : Instr} {l : List Nat} (hexec : exec i s = .next { s with node := emit (readMany s.tck l s.last s.node).2.1 (.mon (.words (readMany s.tck l s.last s.node).1)), last := (readMany s.tck l s.last s.node).2.2 }) :
    ∃ t : State, exec i s = .next t ∧ t.node.out = s.node.out ++ [.mon (.words (readMany s.tck l s.last s.node).1)] ∧ t.tck = s.tck ∧ t.node.fe = s.node.fe ∧ t.node.t1 = s.node.t1 :=
  ⟨_, hexec, congrArg (· ++ [Out.mon (.words (readMany s.tck l s.last s.node).1)]) (ReadBlind.out.readMany s.tck l s.last s.node), rfl, ReadBlind.fe.readMany _ _ _ _, ReadBlind.t1.readMany _ _ _ _⟩

section

variable {k : Token} (hk : s.node.svc.token = some k)

include hk

theorem monReply_open (r : MonReply) (body : Node) : monReply s.node r body = emit body (.mon r) := if_pos (monOn_token hk)

theorem peek_t1 (a : BitVec 64) (j : Nat) (hp : s.node.mic.poison = []) (h1 : 1 ≤ j) (h256 : j ≤ 256) (hend : a.toNat + 8 * j ≤ 1024 * pchBytes) :
    Replies s (.peek true a j) (.words ((List.range j).map fun i => ofLe (Mem.read 0 s.node.t1 (a.toNat + 8 * i) 8))) := by
  have hok : peekOk true a.toNat j = true := by simp [peekOk, h1, h256, hend]
  have hpeek : peek true a.toNat j s.tck s.last s.node = (emit s.node (.mon (.words ((List.range j).map fun i => ofLe (Mem.read 0 s.node.t1 (a.toNat + 8 * i) 8)))), s.last) := by
    rw [peek, if_neg (by simp [monOn_token hk]), if_neg (by simp [hok]), if_pos rfl, t1Words_clean hp]
  have hexec : exec (.peek true a j) s = .next { s with node := (peek true a.toNat j s.tck s.last s.node).1, last := (peek true a.toNat j s.tck s.last s.node).2 } := rfl
  rw [hpeek] at hexec
  exact hexec

theorem peek_registers (a : BitVec 64) (j : Nat) (h1 : 1 ≤ j) (h256 : j ≤ 256) (ha : a.toNat % 4 = 0) (hend : a.toNat + 4 * j ≤ 2 ^ 28) :
    ∃ (t : State) (l : List Nat), exec (.peek false a j) s = .next t ∧ t.node.out = s.node.out ++ [.mon (.words l)]
        ∧ l.length = j ∧ l.headD 0 = (readReg s.tck s.last s.node .mgmt a.toNat).1 ∧ t.tck = s.tck ∧ t.node.fe = s.node.fe ∧ t.node.t1 = s.node.t1 := by
  have hok : peekOk false a.toNat j = true := by simp [peekOk, h1, h256, ha]; omega
  have hexec : exec (.peek false a j) s = .next { s with node := (peek false a.toNat j s.tck s.last s.node).1, last := (peek false a.toNat j s.tck s.last s.node).2 } := rfl
  rw [peek, if_neg (by simp [monOn_token hk]), if_neg (by simp [hok]), if_neg (by decide)] at hexec
  obtain ⟨t, hnext, hout, htck, hfe, ht1⟩ := readsAnswered hexec
  refine ⟨t, _, hnext, hout, (readMany_length _ _ _ _).trans (by simp), ?_, htck, hfe, ht1⟩
  obtain ⟨i, rfl⟩ : ∃ i, j = i + 1 := ⟨j - 1, by omega⟩
  rw [List.range_succ_eq_map, List.map_cons, Nat.mul_zero, Nat.add_zero, readMany_head]

theorem peek_outOfBounds (t1 : Bool) (a : BitVec 64) (j : Nat) (hno : peekOk t1 a.toNat j = false) : Replies s (.peek t1 a j) .err := by
  have hexec : exec (.peek t1 a j) s = .next { s with node := (peek t1 a.toNat j s.tck s.last s.node).1, last := (peek t1 a.toNat j s.tck s.last s.node).2 } := rfl
  rw [peek, if_neg (by simp [monOn_token hk]), if_pos (by simp [hno])] at hexec
  exact hexec

theorem regs_reply (b : BitVec 8) : (blockRegs b.toNat = [] → Replies s (.regs b) .err) ∧ (blockRegs b.toNat ≠ [] → ∃ (t : State) (l : List Nat), exec (.regs b) s = .next t ∧ t.node.out = s.node.out ++ [.mon (.words l)]
        ∧ l.length = (blockRegs b.toNat).length ∧ t.tck = s.tck ∧ t.node.fe = s.node.fe ∧ t.node.t1 = s.node.t1) := by
  have hexec : exec (.regs b) s = .next { s with node := (regs b.toNat s.tck s.last s.node).1, last := (regs b.toNat s.tck s.last s.node).2 } := rfl
  rw [regs, if_neg (by simp [monOn_token hk])] at hexec
  refine ⟨fun h => ?_, fun h => ?_⟩
  · rw [if_pos (by simp [h])] at hexec
    exact hexec
  · rw [if_neg (by simp [h])] at hexec
    obtain ⟨t, hnext, hout, htck, hfe, ht1⟩ := readsAnswered hexec
    exact ⟨t, _, hnext, hout, readMany_length _ _ _ _, htck, hfe, ht1⟩

theorem mayPoke_token : mayPoke s.node = (Config.debugFuse || bitAt k.flags 1) := by simp [mayPoke, hk]

theorem poke_reply (a v : Word) : (bitAt k.flags 1 = true → a.toNat % 4 = 0 → a.toNat < 2 ^ 28 →
          ∃ t : State, exec (.poke a v) s = .next t ∧ exec (.registerWrite a v .mgmt) (s.withNode (emit s.node (.mon .done))) = .next t)
        ∧ ((a.toNat % 4 ≠ 0 ∨ 2 ^ 28 ≤ a.toNat) → Replies s (.poke a v) .err) ∧ (bitAt k.flags 1 = false → Replies s (.poke a v) .err ∨ Config.debugFuse = true) := by
  have hexec : exec (.poke a v) s = .next { s with tck := (poke a.toNat v.toNat s.tck s.node).1, node := (poke a.toNat v.toNat s.tck s.node).2, last := if pokeResets s.node a.toNat v.toNat then (poke a.toNat v.toNat s.tck s.node).2 else s.last } := rfl
  have hbad : (mayPoke s.node && a.toNat % 4 == 0 && a.toNat < 2 ^ 28) = false → pokeResets s.node a.toNat v.toNat = false → Replies s (.poke a v) .err := fun hno hreset => by
    rw [hreset, if_neg (by decide), poke, monOn_token hk, hno] at hexec
    exact hexec
  refine ⟨fun hf hal hlt => ?_, fun hno => ?_, fun hf => ?_⟩
  · have hgo : (mayPoke s.node && a.toNat % 4 == 0 && a.toNat < 2 ^ 28) = true := by
      rw [mayPoke_token hk, hf, hal, decide_eq_true hlt, Bool.or_true]
      rfl
    have hmay : mayPoke s.node = true := by simp [mayPoke_token hk, hf]
    rw [pokeResets, poke, monOn_token hk, hgo, hmay] at hexec
    exact ⟨_, hexec, rfl⟩
  · refine hbad ?_ ?_
    · obtain hno | hno := hno
      · simp [hno]
      · rw [decide_eq_false (Nat.not_lt.mpr hno), Bool.and_false]
    · have hoff : a.toNat ≠ 0x1000200 := by omega
      simp [pokeResets, writeResets, hoff]
  · cases hfuse : Config.debugFuse with
    | true => exact .inr rfl
    | false =>
      have hmay : mayPoke s.node = false := by rw [mayPoke_token hk, hfuse, hf]; rfl
      exact .inl (hbad (by simp [hmay]) (by simp [pokeResets, hmay]))

theorem evlog_reply (first : Nat) (j : Nat) : Replies s (.evlog first none) (.records ((s.node.svc.slots.drop first).filter fun r => field r 0 4 != 0))
    ∧ Replies s (.evlog first (some j)) (.records (((s.node.svc.slots.drop first).take j).filter fun r => field r 0 4 != 0)) := by
  refine ⟨onNode_eq (f := fun _ => monEvlog first none) ((monReply_open hk _ _).trans ?_), onNode_eq (f := fun _ => monEvlog first (some j)) (monReply_open hk _ _)⟩
  rw [Option.getD_none, List.take_length]

theorem ticks_acts (j : Nat) : (1 ≤ j → j ≤ 256 → exec (.ticks j) s = .next (s.withNode { s.node with svc := { s.node.svc with cap := some ⟨s.tck.tick + 1, j, []⟩ } }))
    ∧ (j = 0 ∨ 256 < j → Replies s (.ticks j) .err) := by
  have hticks : monTicks j s.tck s.node = if j = 0 || 256 < j then emit s.node (.mon .err) else modSvc s.node fun x => { x with cap := some ⟨s.tck.tick + 1, j, []⟩ } := by rw [monTicks, if_neg (by simp [monOn_token hk])]
  refine ⟨fun h1 h256 => onNode_eq (hticks.trans (if_neg ?_)), fun h => onNode_eq (hticks.trans (if_pos ?_))⟩
  · simp; omega
  · simpa using h

theorem ticksCaptureDone_acts {c : TickCap} (hc : s.node.svc.cap = some c) : (s.tck.tick < c.first + c.n → exec .ticksCaptureDone s = .next s)
    ∧ (c.first + c.n ≤ s.tck.tick → ∃ (N : Node) (l : List TickLine), exec .ticksCaptureDone s = .next (s.withNode N) ∧ N.out = s.node.out ++ [.mon (.ticks l)] ∧ l.map (·.tick) = (List.range c.n).map (c.first + ·)
      ∧ N.svc.cap = none ∧ N.bank = s.node.bank) := by
  have hdone : ticksDone s.tck s.node = if s.tck.tick < c.first + c.n then s.node else monReply s.node (.ticks ((List.range c.n).map (capLine c s.node))) (modSvc s.node fun x => { x with cap := none }) := by
    rw [ticksDone, hc]
    rfl
  refine ⟨fun h => onNode_eq (hdone.trans (if_pos h)), fun h => ⟨_, _, onNode_eq ((hdone.trans (if_neg (Nat.not_lt.mpr h))).trans (monReply_open hk _ _)), rfl, ?_, rfl, rfl⟩⟩
  rw [List.map_map]
  exact List.map_congr_left fun i _ => capLine_tick c s.node i

theorem stacks_acts : ∃ N : Node, exec .stacks s = .next (s.withNode N) ∧ N.out = s.node.out ++ [.mon (.stacks ((List.range 8).map (stackLine s.node)))] ∧ N.svc.dump = [] ∧ N.bank = s.node.bank :=
  ⟨_, onNode_eq (f := fun _ => monStacks) (monReply_open hk _ _), rfl, rfl, rfl⟩

end

/-- Without a token, and with the debug fuse whole, the monitor is off and answers nothing. -/
theorem monitor_off (hm : monOn s.node = false) (t1 : Bool) (a : BitVec 64) (j : Nat) (b : BitVec 8) (x v : Word) (c : Option Nat) :
    ∀ i ∈ [Instr.peek t1 a j, .regs b, .poke x v, .evlog j c, .ticks j, .stacks, .help, .uartBadLine false, .uartBadLine true], exec i s = .next s := by
  have hreply : ∀ r body, monReply s.node r body = s.node := fun r body => if_neg (by simp [hm])
  have hpeek : peek t1 a.toNat j s.tck s.last s.node = (s.node, s.last) := if_pos (by simp [hm])
  have hregs : regs b.toNat s.tck s.last s.node = (s.node, s.last) := if_pos (by simp [hm])
  have hpoke : poke x.toNat v.toNat s.tck s.node = (s.tck, s.node) := if_pos (by simp [hm])
  have hreset : pokeResets s.node x.toNat v.toNat = false := by simp [pokeResets, hm]
  have hrun : ∀ N L, (N, L) = (s.node, s.last) → (.next { s with node := N, last := L } : Host.Outcome State Fault Refusal) = .next s := fun N L h => by
    obtain ⟨rfl, rfl⟩ := Prod.mk.inj h
    rfl
  simp only [List.forall_mem_cons, List.not_mem_nil, false_implies, implies_true, and_true]
  refine ⟨hrun _ _ hpeek, hrun _ _ hregs, ?_, onNode_eq (f := fun _ => monEvlog j c) (hreply _ _), onNode_eq (f := monTicks j) (if_pos (by simp [hm])), onNode_eq (f := fun _ => monStacks) (hreply _ _),
    onNode_eq (f := fun _ => monHelp) (hreply _ _), onNode_eq (f := fun _ => uartBadLine false) (hreply _ _), rfl⟩
  change onReset (pokeResets s.node x.toNat v.toNat) (poke x.toNat v.toNat) s = _
  rw [hreset, onReset, hpoke]
  rfl

end

/-- Settles O58: who may write governs the counters, the trace and the token words; a token is taken after its checks; with one active each command of the monitor replies, and without one none does. -/
theorem countersTokensAndTheMonitor : Obligations.CountersTokensAndTheMonitor := by
  refine ⟨fun s v src hw => ?_, submit_acts, fun b h n => tokenGood_form h n, tokenExpiry_acts, fun s k hk => ?_, fun s hk t1 a j b x v c i hi => ?_⟩
  · obtain ⟨hctl, hctlNo⟩ := pmcCtlWrite_acts (src := src) s v hw
    obtain ⟨hsel, hselNo⟩ := pmcTraceSelWrite_acts (src := src) s v hw
    exact ⟨hctl, hctlNo, hsel, hselNo, tokenWrites s v src hw⟩
  · exact ⟨peek_t1 hk, peek_registers hk, peek_outOfBounds hk, regs_reply hk, poke_reply hk, evlog_reply hk, ticks_acts hk, fun c hc => ticksCaptureDone_acts hk hc, stacks_acts hk,
      onNode_eq (f := fun _ => monHelp) (monReply_open hk _ _), onNode_eq (f := fun _ => uartBadLine false) (monReply_open hk _ _), rfl⟩
  · cases hfuse : Config.debugFuse with
    | true => exact .inr rfl
    | false =>
      have hoff : monOn s.node = false := by rw [monOn, hfuse, hk]; rfl
      exact .inl (monitor_off hoff t1 a j b x v c i hi)

end Sys2Proof.Machine
end
